-- ==== Sys2Proof/Word.lean ====
section
/-! DEFINITION. The words of the register interface and the sparse tables that hold wide state. -/
namespace Sys2Proof

/-- A 32-bit register word (R407). -/
abbrev Word := BitVec 32

/-- A byte of a frame, of flash or of shared memory. -/
abbrev Byte := BitVec 8

/-- Sparse data by key: keys strictly rise, and no entry equals the value that an unlisted key reads as. -/
abbrev Sparse (α : Type) := List (Nat × α)

end Sys2Proof
end

