-- ==== Sys2Proof/Syntax.lean ====
section
/-! DEFINITION. The commands of the block: one constructor of `Instr` per row of spec/opcode_table.json, in the
table's order, with the operands that the outside world decides. `el` is the number of ticks of 1.25 ns (R244)
since the command before, and `req` the requester of R419 that makes a register access. -/
namespace Sys2Proof

/-- The requesters of the register fabric (R419). -/
inductive Requester where
  | host
  | mc (k : Fin 4)
  | spi
  | twin
  deriving DecidableEq, Repr

/-- The pin levels that RESET_EXIT samples (R464). -/
structure Straps where
  bootSel : BitVec 2
  twinId : Bool
  testMode : Bool
  deriving DecidableEq, Repr

/-- How the device leaves reset: the ticks that pass first, and the pins then. -/
structure LeaveReset where
  el : Nat
  straps : Straps
  deriving DecidableEq, Repr

/-- What a write puts on the bus: its width in bytes and its word. -/
structure BusWord where
  width : Nat
  word : Word
  deriving DecidableEq, Repr

/-- One upset of a voted word that the scrub or a read meets (R426): which of the three copies of the
staged or in-force half is struck, the bits that flip, and whether its SEC-DED check is lost. -/
structure Upset where
  addr : Nat
  inForce : Bool
  copy : Fin 3
  flip : BitVec 32
  lost : Bool
  deriving DecidableEq, Repr

/-- A write of MSI-X control (R434): the capability's two bits or one vector's mask bit. -/
inductive MsixWrite where
  | capability (enable functionMask : Bool)
  | vectorMask (v : Fin 64) (masked : Bool)
  deriving DecidableEq, Repr

/-- What a copper link partner offers (R90 to R94). -/
structure CopperPartner where
  negotiates : Bool
  /-- Full duplex advertised at 10, 100 and 1,000 Mb/s, bits 0 to 2. -/
  full : BitVec 3
  /-- Half duplex advertised at 10 and 100 Mb/s, bits 0 and 1. -/
  half : BitVec 2
  eee100 : Bool
  eee1000 : Bool
  /-- The speed of the signal of a partner that does not negotiate: 0 10, 1 100, 2 1,000 Mb/s, 3 none. -/
  signal : BitVec 2
  msPref : BitVec 2
  remoteFault : Bool
  /-- Between ports of one type: the seeds make this port master (R94). -/
  seedMaster : Bool
  /-- The crossover that the PHY resolved (R95). -/
  mdix : Bool
  /-- The receive pairs whose polarity was corrected (R95). -/
  polarity : BitVec 4
  deriving DecidableEq, Repr

/-- What pairing learns of the peer (R378, R379). -/
structure Peer where
  unitId : BitVec 64
  role : Nat
  twinId : Bool
  chipRev : Nat
  lineage : BitVec 32
  /-- Its LANE, BIND, POP and RING regions equal this unit's. -/
  regionsEqual : Bool
  /-- Every state class has an equal layout version or a declared conversion. -/
  layoutsFit : Bool
  deriving DecidableEq, Repr

/-- The payload of a twin frame (Table 13-3). -/
structure Heartbeat where
  role : Nat
  fail : Bool
  take : Bool
  cycle : Nat
  twinUnit : BitVec 64
  unitId : BitVec 64
  deriving DecidableEq, Repr

/-- What arrives over the twin link (R383, R385): a MIRROR record, a CYCLE copy of a class, or a marker. -/
inductive TwinRec where
  | mirror (cls : Fin 11) (addr : Nat) (words : List Word)
  | copy (cls : Fin 11) (cells : List (Nat × Word)) (complete : Bool)
  | marker (cycle : Nat) (complete : Bool)
  deriving DecidableEq, Repr

/-- Who asks the staging lock (R485): the host, the manager by ORDER leaves, or the twin peer. -/
inductive StageSrc where
  | host
  | manager (device : Nat) (uid : BitVec 64)
  | twinPeer
  deriving DecidableEq, Repr

/-- Where an uncorrectable error lies (R499). -/
inductive ErrorPlace where
  /-- One of the four replicas of an FDB, MDB, VLAN, SID or stream configuration word. -/
  | replicated
  /-- A cell of the frame numbered `frame`. -/
  | cell (frame : Nat)
  /-- A burst of Accord delay memory. -/
  | delay (granule : Nat)
  /-- A buffer of a DRAM pool that holds the frame numbered `frame`. -/
  | poolBuffer (frame : Nat)
  /-- The HRX buffer of the `i`-th frame on the wait list of receive ring `ring`. -/
  | ringBuffer (ring : Fin 64) (i : Nat)
  | otherSram
  deriving DecidableEq, Repr

/-- A lane or port that recalibrates (R501). -/
inductive RecalUnit where
  | hlane (n : Fin 48)
  | copper (c : Fin 32)
  | twinLane (k : Fin 4)
  deriving DecidableEq, Repr

/-- What a unit of background work found or did (R496, R499, R501, R520). -/
inductive MaintResult where
  | done
  | corrected
  | uncorrectable (place : ErrorPlace)
  | recalibrated (u : RecalUnit) (compensated : Bool)
  /-- A recalibration fell due on a parent path and is deferred. -/
  | deferred (u : RecalUnit)
  /-- A pass of the patrol that did not cover all 8 GiB in time. -/
  | patrolLate
  /-- One 64 KiB block of an export or import: the bytes read from host memory, or an error. -/
  | block (data : List Byte) (error : Bool)
  deriving DecidableEq, Repr

/-- A transmit descriptor of Table 15-3 and the host memory its buffer names. -/
structure TxDesc where
  len : Nat
  first : Bool
  last : Bool
  direct : Bool
  tsReq : Bool
  port : Nat
  cls : Nat
  data : List Byte
  /-- The read of the descriptor or of its buffer completed with an error (R449). -/
  readError : Bool
  deriving DecidableEq, Repr

/-- The commands that change the state of the block, one per row of the opcode table. -/
inductive Instr where
  -- From power to service (chapter 16), power and reset
  | powerOn
  | pwrgdAssert
  | powerLoss
  | vaux33Change (present : Bool)
  | resetNAssert
  | resetExit (exit : LeaveReset)
  | glbResetCmdGo (req : Requester) (data : Word)
  | thermalShutdown
  | thermalRecover
  | bootRomDone (el : Nat) (romGood fusesGood : Bool)
  | bankCheckDone (el : Nat) (readError : Bool)
  | bankTryTimeout (el : Nat)
  | stageComplete (n : Fin 12) (el : Nat) (failed : Bool)
  | stageLimitExpiry (n : Fin 12) (el : Nat)
  | fatalCondition (el : Nat)
  | deviceCycleBoundary (el : Nat) (upsets : List Upset)
  | maintUnitDone (a : Fin 14) (res : MaintResult)
  -- Register interface (chapter 14)
  | applyDeadline (addr : Nat)
  | registerWrite (req : Requester) (addr : Nat) (data : BusWord)
  | acknowledgeWrite (req : Requester) (addr : Nat) (data : Word)
  | counterLowRead (req : Requester) (addr : Nat)
  | aliasWrite (req : Requester) (addr : Nat) (data : Word)
  | msHoldWrite (req : Requester) (data : Word)
  | msHoldExpire (mc : Bool)
  | irqVecRearm (req : Requester) (w : Fin 2) (data : Word)
  | msixMessage (el : Nat) (v : Fin 64)
  | msixControlWrite (w : MsixWrite)
  | tableEntryWrite (req : Requester) (addr : Nat) (data : Word)
  | tableEpoch
  -- High-speed ports and frames (chapter 3)
  | frameHeaderRx (port : Fin 96) (el : Nat) (len : Nat) (hdr : List Byte)
  | frameTailRx (port : Fin 96) (el : Nat) (rest : List Byte) (pcsErr : Bool)
  | macControlFrameRx (port : Fin 80) (el : Nat) (bytes : List Byte)
  | pauseExpiry (port : Fin 80) (cls : Option (Fin 8))
  | pauseRefresh (port : Fin 80)
  | dequeueDecision (port : Fin 96) (el : Nat)
  -- Buffer pools (chapter 7)
  | allocationSlot
  | pointerCacheRefill (pool : Fin 6)
  | operationTagReturned
  | share (tag : BitVec 8) (ptr : Word) (n : Nat) (last : BitVec 8)
  | dropRef (tag : BitVec 8) (pool : Fin 6) (ptr : Word)
  | free (tag : BitVec 8) (pool : Fin 6) (ptr : Word)
  -- Links and modules (chapter 3)
  | linkUp (port : Fin 80)
  | linkDown (port : Fin 80) (el : Nat)
  | linkFault (lane : Fin 48) (remote : Bool)
  | anComplete (lane : Fin 48) (common : Bool) (partnerFec : BitVec 5)
  | anRestart (lane : Fin 48)
  | hpPortEnWrite (req : Requester) (lane : Fin 48) (en : Bool)
  | fecSelWrite (req : Requester) (lane : Fin 48) (code : BitVec 3)
  | ltFail (lane : Fin 48)
  | ltRestart (lane : Fin 48)
  | modulePresencePoll (k : Fin 12) (ack : Bool)
  | modulePresenceChange (k : Fin 12) (present : Bool)
  | moduleDebounceExpiry (k : Fin 12)
  | moduleIdentified (k : Fin 12) (iface : BitVec 2) (media : BitVec 3)
  | moduleReady (k : Fin 12) (application : Bool)
  | moduleStepTimeout (k : Fin 12)
  | moduleRemoved (k : Fin 12)
  | moduleMonitorPoll (k : Fin 12) (values : List Byte)
  | moduleXferGo (req : Requester) (k : Fin 12) (data : Word)
  | moduleXferDone (k : Fin 12) (result : BitVec 3) (bytes : List Byte)
  -- Copper ports (chapter 4)
  | cpAnRestart (c : Fin 32)
  | cpCfgWrite (req : Requester) (c : Fin 32) (data : Word)
  | copperAnComplete (c : Fin 32) (partner : CopperPartner)
  | lpiEntry (c : Fin 32) (el : Nat)
  | lpiRx (c : Fin 32) (enter : Bool)
  | carrierSense (c : Fin 32) (carrier : Bool)
  | collision (c : Fin 32) (el : Nat) (bits : Nat)
  | backoffExpiry (c : Fin 32) (el : Nat)
  | cableDiagRun (req : Requester) (c : Fin 32) (data : Word)
  | cableDiagDone (c : Fin 32) (pairs : List (BitVec 3 × BitVec 8))
  -- The FDB and MDB (chapter 5)
  | learn
  | relocationMove
  | stashDrain
  | deferralReplay
  | agingTick (el : Nat)
  | ageDelete
  | fdbFlush (req : Requester) (data : Word)
  | flushDelete (index : Nat)
  | fdbLockRequest (req : Requester) (mc : Bool) (w : Fin 2) (data : Word)
  | fdbLockGrant (mc : Bool) (seg : Fin 64)
  | fdbLockExpire (mc : Bool) (seg : Fin 64)
  | fdbHashSeedWrite (req : Requester) (bank : Fin 4) (seed : Word)
  | fdbCmdLookup (req : Requester)
  | fdbCmdWrite (req : Requester)
  | fdbCmdDelete (req : Requester)
  | mdbEditSetPort (port : Fin 96) (group : Fin 16384)
  | mdbEditClearPort (port : Fin 96) (group : Fin 16384)
  | mdbEditClearReportSeen (group : Fin 16384)
  -- Streams (chapter 6)
  | streamContextWrite (req : Requester) (h : BitVec 16) (cfg : BitVec 256)
  | strmCmdLookup (req : Requester)
  | strmCmdInsert (req : Requester)
  | strmCmdDelete (req : Requester)
  | ctxResetRecovery (h : BitVec 16)
  | ctxUnblock (h : BitVec 16)
  | ctxGenSeqZero (h : BitVec 16)
  | ctxBalancesFull (h : BitVec 16)
  | recoveryTimerExpiry (h : BitVec 16)
  | latentTest (el : Nat)
  | nodeForget (pair : Fin 12) (mac : BitVec 48)
  | supervisionFrameTx (pair : Fin 12) (frame : List Byte)
  -- Queues, scheduling and time gates (chapter 8)
  | queueDescriptorWrite (req : Requester) (q : BitVec 18) (cfg : BitVec 256)
  | gateEntryWrite (req : Requester) (port : Fin 80) (index : Fin 1024) (entry : BitVec 64)
  | gateCommit (req : Requester) (port : Fin 80) (el : Nat)
  | gateCycleStart (port : Fin 80) (el : Nat)
  | gateEntryExpiry (port : Fin 80) (el : Nat)
  | qCmdZeroMaxima (q : BitVec 18)
  | qCmdClearQueueDebt (q : BitVec 18)
  | qCmdClearClassDebt (port : Fin 96) (cls : Fin 8)
  | voqRouteWrite (req : Requester) (d : Fin 128) (data : Word)
  | voqXoffLapse (d : Fin 128) (port : Fin 96) (cls : Fin 8)
  -- Time bases (chapter 9)
  | servoUpdate (tb : Fin 4) (el : Nat) (theta : Int) (epoch : BitVec 8) (active : Option (BitVec 2 × Int))
  | srcTimeout (tb : Fin 4) (el : Nat)
  | tbCmdAdj (tb : Fin 4)
  | tbCmdSet (tb : Fin 4)
  | tbCmdDeliverSwOffset (tb : Fin 4) (el : Nat)
  | timeCapture
  | refLost
  | refRestored
  | ptpContextWrite (req : Requester) (port : Fin 80) (tb : Fin 4) (cfg : BitVec 256)
  | ptpMessageRx (port : Fin 80) (el : Nat) (bytes : List Byte)
  | syncTx (port : Fin 80) (tb : Fin 4) (el : Nat)
  | followUpTx (port : Fin 80) (tb : Fin 4) (el : Nat)
  | relaySyncTx (port : Fin 80) (tb : Fin 4) (el : Nat)
  | delayReqTx (port : Fin 80) (tb : Fin 4) (el : Nat)
  | pdelayReqTx (port : Fin 80) (tb : Fin 4) (el : Nat)
  | followUpTimeout (port : Fin 80) (tb : Fin 4)
  | tcRecordLapse (port : Fin 80)
  | ppsinEdge (k : Fin 2) (el : Nat) (falling : Bool)
  | ppsinPop (k : Fin 2)
  -- Accord engines (chapter 10)
  | accJobStart (req : Requester) (j : Fin 1024) (atTime : Bool)
  | accJobCommit (req : Requester) (j : Fin 1024) (atTime : Bool)
  | accJobStop (req : Requester) (j : Fin 1024) (atTime : Bool)
  | applySampleReached (j : Fin 1024) (el : Nat)
  | inputPacketRx (cluster : Fin 8)
  | inputDeadline (u : Fin 4096) (index : Nat) (el : Nat)
  | outputPacketCompute (o : Fin 2048) (el : Nat)
  | jobStepRestart (j : Fin 1024) (el : Nat)
  | carriedCommandRx (j : Fin 1024) (op : Fin 3) (apply : Nat) (el : Nat)
  | migrationCompare (j : Fin 1024) (equal : Bool)
  | engineFault (e : Fin 64)
  | jobFaultRestart (j : Fin 1024) (e : Fin 64) (el : Nat)
  | perfSelWrite (req : Requester) (e : Fin 64) (n : Fin 6) (event : BitVec 8)
  -- Autonomous placement (chapter 11)
  | lineCopyDone (input : Fin 16384) (el : Nat)
  | placeQAllocate (req : Requester) (port : Fin 96) (cls : Fin 8)
  | journalFlashCopy
  | mc2Resume
  -- Izlen trunks and the hierarchy (chapter 12)
  | laneFrameTx (lane : Fin 48) (el : Nat)
  | laneHeaderRx (lane : Fin 48) (el : Nat) (hdr : BitVec 128) (sbip : BitVec 16)
  | groupFrameRx (g : Fin 16) (poh : List Byte) (pbip : BitVec 16)
  | activeSetChange (g : Fin 16) (transmit : Bool)
  | leafRx (g : Fin 16) (el : Nat) (bytes : List Byte)
  | aisLeafRx (g : Fin 16)
  | helloTx
  | helloRx (g : Fin 16) (el : Nat) (bytes : List Byte)
  | joinRx (g : Fin 16) (bytes : List Byte)
  | assignRx (g : Fin 16) (bytes : List Byte)
  | flowRx (g : Fin 16) (bytes : List Byte)
  | flowRefresh
  | orderRx (g : Fin 16) (bytes : List Byte)
  | orderReplyRx (g : Fin 16) (bytes : List Byte)
  | orderRetry (d : Fin 128)
  | upstreamLoss
  | orphanTimeout
  | pmSecond (el : Nat)
  | pmBinRoll (el : Nat)
  | izlHierRelease (d : Fin 128)
  | izlHierRejoin
  | izlGrpCfgWrite (req : Requester) (g : Fin 16) (data : Word)
  -- Twin operation and ring bypass (chapter 13)
  | peerFound (peer : Peer)
  | peerSearchTimeout
  | heartbeatRx (el : Nat) (alt : Bool) (hb : Heartbeat)
  | heartbeatMissed
  | twinStateRx (rec : TwinRec)
  | staleCopyDone (cls : Fin 11)
  | twinLaneChange (k : Fin 4) (up : Bool)
  | twinNotificationRx (port : Fin 80) (hb : Heartbeat)
  | switchover
  | twinCmdTakeover
  | declareFail
  | resync (cls : Fin 11)
  | switchoverBoundary
  | syncCopyDone
  | wtrExpiry
  | revertReady
  | ringOpen (r : Fin 4)
  | ringAutoOpen (r : Fin 4)
  | ringReadyTimeout (r : Fin 4)
  | ringLinksUp (r : Fin 4)
  | ringOpenTimeout (r : Fin 4)
  | ringForceWrite (req : Requester) (r : Fin 4) (force : Bool)
  -- Host attachment and DMA (chapter 15)
  | endpointReset (el : Nat)
  | hostPortStateChange (d0 outOfReset busMaster : Bool)
  | hostRingTailWrite (req : Requester) (tx : Bool) (r : Fin 64) (data : Word)
  | hostRingEnable (req : Requester) (tx : Bool) (r : Fin 64) (data : Word)
  | hostRingDisable (req : Requester) (tx : Bool) (r : Fin 64) (data : Word)
  | rxFrameDeliver (r : Fin 64) (el : Nat) (bufs : List (BitVec 64))
  | rxTimeout (r : Fin 64) (place : Nat) (el : Nat)
  | txFrameFetch (r : Fin 64) (el : Nat) (chain : List TxDesc)
  | txCompletion (r : Fin 64)
  | tableDmaGo (req : Requester) (data : Word)
  | tableDmaDone (hostData : List Word) (errorAt : Option Nat)
  | watchdogExpiry (core : Fin 3) (el : Nat)
  | mc0WatchdogExpiry (el : Nat)
  | coreRestartDone (core : Fin 4)
  -- The structure image (chapter 2)
  | replVerify (req : Requester)
  | replArm (req : Requester)
  | replAbort (req : Requester)
  | replAck (req : Requester)
  | replSwitch
  | replContainerToStandby (bytes : List Byte)
  -- Images and update (chapter 17)
  | stageClaim (src : StageSrc) (kind : Bool)
  | stageWrite (src : StageSrc)
  | stageWriteDone (data : List Byte) (error : Bool)
  | stageEnd (src : StageSrc)
  | stageVerify (src : StageSrc)
  | stageCommit (src : StageSrc)
  | stageAbort (src : StageSrc)
  | stagingLockTimeout
  | activateHitless (req : Requester)
  | activateTwin (req : Requester)
  | activateRestart (req : Requester)
  | confirm (req : Requester)
  | raiseFloor (req : Requester)
  | programCustKey (req : Requester)
  | engineDrained (e : Fin 64)
  | drainTimeout (e : Fin 64)
  | coreUpdateDone (core : Fin 4) (ok : Bool)
  | trialHoldExpiry
  | hierStage (req : Requester)
  | hierActivate (req : Requester)
  | hierAbort (req : Requester)
  -- Background work and the maintenance arbiter (chapter 18)
  | ballOwnerWrite (req : Requester) (n : Fin 64) (code : BitVec 4)
  | ballDriveWrite (req : Requester) (n : Fin 64) (dir out : Bool)
  -- Observation, recording and rerun (chapter 19)
  | spiRead (space : BitVec 2) (offset : BitVec 30) (words : Nat)
  | spiStatus
  | spiIdent
  | traceFrameTx (room : Nat)
  | snapshotPeriod
  | sillageEpoch (el : Nat) (crossings : List Byte)
  | recArm (req : Requester)
  | recStop (req : Requester)
  | recRelease (req : Requester)
  | recTrigger (req : Requester)
  | matchTrigger (m : Fin 4)
  | postExpiry
  | checkpointTimer
  | captureExportGo (req : Requester)
  | rerunEnter (req : Requester)
  | rerunStart (req : Requester)
  -- Register interface (chapter 14): a read; ring bypass and time pulses
  | registerRead (req : Requester) (addr : Nat) (width : Nat) (upsets : List Upset)
  | holdupChargeFull
  | wholeSecond (tb : Fin 4) (el : Nat)
  deriving DecidableEq, Repr

end Sys2Proof
end

