-- ==== Sys2Proof/Decode.lean ====
section
/-! DEFINITION. The commands that words spell. No row of the block's table gives bits (every row's list of fields is
empty), so no word spells a command. -/
namespace Sys2Proof

/-- The command that a word of the table's bits spells: none, since no row gives any. -/
def decodeTableWord (_nbits _w : Nat) : Option Instr := none

end Sys2Proof
end

