-- ==== Sys2Proof/Config.lean ====
section
/-! DEFINITION. What an implementation fixes and the spec leaves open: fused and physical values, and the free values
that the device draws, none of which any proof can see. -/
namespace Sys2Proof.Config

/-- The fused UNIT_ID (R435). -/
opaque unitId : BitVec 64

/-- FIX_STAT.WORDS, the number of voted words implemented (chapter 14). -/
opaque voteWords : BitVec 14

/-- The `n`-th free value drawn: seeds, random intervals and whatever else the device picks (log entry 3). -/
opaque freeWord : Nat → BitVec 64

/-- Pointers that an on-chip pointer cache holds beyond its first (chapter 7). -/
opaque cacheDepth : Nat → Nat

/-- Whether an ECDSA P-384 signature verifies: the key (none for Amven's own), the signed bytes and the signature. -/
opaque verifies : Option (List Byte) → List Byte → List Byte → Bool

/-- AES key unwrap and AES-256-GCM decryption of a container (R32): wrap kind, wrapped key, initialisation vector,
additional data, cipher text and tag give the plain text, or nothing. -/
opaque decrypts : Byte → List Byte → List Byte → List Byte → List Byte → List Byte → Option (List Byte)

/-- SHA-384. -/
opaque sha384 : List Byte → List Byte

/-- The BIND region's bytes, whose layout the spec does not give (R38): pipelines of the H-ports, copper ports, trunk
group masks, cluster injection points and host ports. -/
opaque bindLayout : List Byte → List Nat × List Nat × List Nat × List Nat × List Nat

/-- The LAYOUT_VER and the DIGEST of a region of Helzia Media L2, which the spec does not give (R48). -/
opaque mediaLayout : Nat → Nat

opaque mediaDigest : Nat → Nat

/-- The numbers of a pseudo-random generator, by the seed drawn at boot, the generator and the draw (R100, R265). -/
opaque generator : BitVec 64 → Nat → Nat → Nat

/-- The rate, in ppb less one and modulo 2,000, at which a WCLK output slews its phase (R255). -/
opaque wclkSlew : Nat

/-- The half-band filter of R291: its coefficient at an odd distance from its centre, in 2⁻²⁸; whether a value between two whole
numbers is taken up (odd) or down; and what a sample written to a line takes whose value passes 24 bits. -/
opaque halfBand : Nat → Int

opaque halfBandRound : Int → Nat

opaque overshoot : Int → Int

/-- What the firmware's migrators do with a settings block of format `fmt` (R491): 0 kept, 1 migrated, 2 reset to
defaults, 3 dropped, and the resulting format. -/
opaque migrate : (bundle id fmt : Nat) → Nat × Nat

end Sys2Proof.Config
end

