-- ==== Sys2Proof/Machine/State.lean ====
section
/-! DEFINITION. The state of the block as plain data, everything that the spec gives it (INVENTORY.md lists each
piece with its rule), the reasons a step can stop, and the state after reset. -/
namespace Sys2Proof.Machine

/-- Addressed bytes: addresses strictly rise, and no entry equals what an unlisted address reads as (zero). -/
abbrev Memory := List Host.Cell

/-- The mode, trunk group and FEC set of one H-lane in the LANE region (R36). -/
structure LaneCfg where
  mode : BitVec 8
  trunk : BitVec 8
  fecSet : BitVec 8
  deriving DecidableEq, Repr

/-- One range of the QPART region (R39); `use` is the region's USE code. -/
structure QRange where
  start : Nat
  count : Nat
  use : Nat
  deriving DecidableEq, Repr

/-- One row of a container's region table that the running image keeps (R31, R49). -/
structure RegionInfo where
  id : Nat
  layoutVer : Nat
  replaceable : Bool
  /-- The SHA-384 of its clear text, by which two regions are compared. -/
  digest : Nat
  deriving DecidableEq, Repr

/-- A structure image: what the regions of Table 2-6 state. -/
structure Image where
  lineage : BitVec 32
  ver : BitVec 32
  lanes : List LaneCfg
  bindH : List Nat
  bindC : List Nat
  bindG : List Nat
  injEc : List Nat
  injHost : List Nat
  pop : BitVec 23
  regions : List RegionInfo
  qpart : List QRange
  ring : List (BitVec 8)
  ball : List (BitVec 8)
  hotset : List Nat
  deriving DecidableEq, Repr

/-- A staged value on its way to its apply point (R415). -/
structure PendApply where
  addr : Nat
  fields : Word
  /-- 0 MS, 1 FRM, 2 PKT. -/
  kind : Nat
  since : Nat
  req : Requester
  deriving DecidableEq, Repr

/-- The register fabric (chapter 14). -/
structure Regs where
  /-- Staged RW fields, by BAR0 offset; an unlisted word holds its reset value. -/
  staged : Sparse Word
  /-- Fields in force, stored RO fields and AK fields, by BAR0 offset. -/
  inForce : Sparse Word
  /-- Staged values that wait for MS, FRM or PKT. -/
  waiting : List PendApply
  /-- Instants, in DT ticks, from which an MS boundary may apply again (R418). -/
  holdClearedAt : Nat
  holdHostCycles : Nat
  holdMcCycles : Nat
  /-- Words of table entries written below their highest word (R116), by BAR0 offset. -/
  partialWords : Sparse Word
  /-- Counter shadows (R79), by requester and address. -/
  shadows : Sparse Word
  /-- Counters, by the BAR0 offset of their low words. -/
  counters : Sparse Nat
  deriving DecidableEq, Repr

/-- The interrupt unit's own state (R432 to R434). -/
structure Irq where
  msixEnable : Bool
  functionMask : Bool
  masked : BitVec 64
  disarmed : BitVec 64
  /-- DT tick of each vector's previous message. -/
  lastMessage : Sparse Nat
  /-- The MSI-X table's address and data words, by BAR0 offset. -/
  msixTable : Sparse Word
  deriving DecidableEq, Repr

/-- The Fixative store (R425 to R428): a voted word was lost since the latest reset. -/
structure Fixative where
  lost : Bool
  deriving DecidableEq, Repr

/-- A stamp vector (R76): DT and TB0 to TB3 at one instant, each in 2⁻¹⁶ ns, with each TB's jump epoch (R253). -/
structure Stamp where
  dt : Nat
  tb : List Int
  epochs : List Nat
  deriving DecidableEq, Repr

/-- Why a copy is punted: its punt class and reason code (Tables 15-4 and 15-5). -/
structure PuntInfo where
  cls : Nat
  reason : Nat
  deriving DecidableEq, Repr

/-- One queue entry: a copy that refers to a frame's cells (R149). -/
structure Copy where
  frame : Nat
  enqueuedAt : Nat
  tag : BitVec 8
  /-- At its enqueue it met the conditions of Table 8-6 that can be judged there, and with them checks 3 and 4 of Table 8-5
  (R232); they are judged again at its dequeue (R149). -/
  ct : Bool
  mirror : Bool
  trunc : Nat
  punt : Option PuntInfo
  /-- The pair the copy leaves by, and its number from the pair's counter (R171): each port of the pair has an entry, and
  both share one reference (R195). -/
  pair : Option (Nat × BitVec 16)
  /-- The output lane of an HSR pass-through copy; its tag is left as received (R173). -/
  passLane : Option Nat
  stream : Option Nat
  deriving DecidableEq, Repr

/-- A frame in transmission at an egress port. -/
structure Sending where
  frame : Nat
  copy : Copy
  queue : Nat
  cls : Nat
  /-- DT tick of the first preamble bit of this attempt, and its egress stamp (R76, R103). -/
  startedAt : Nat
  stamp : Stamp
  /-- It was dequeued before its tail was written (Table 8-6, condition 8). -/
  cut : Bool
  deriving DecidableEq, Repr

/-- What a frame of the device's own is for. -/
inductive OwnUse where
  /-- A MAC control frame; counter 29 or 30 of Table 3-4 counts it (R71). -/
  | control (counter : Nat)
  /-- A heartbeat or a notification of a twin unit (R388). -/
  | twin
  /-- A PTP message: its context, type and sequence number, where it stands in the frame and whether in UDP, whether it is
  two-step, and for a Pdelay_Resp the correction of its request (R265). -/
  | ptp (ctx ty seq at_ : Nat) (udp two : Bool) (corr : Int)
  deriving DecidableEq, Repr

/-- A frame of the device's own, without its FCS, and the class in which PFC holds it. -/
structure OwnFrame where
  use : OwnUse
  cls : Nat
  bytes : List Byte
  deriving DecidableEq, Repr

/-- A frame of the device's own in transmission, with its bytes on the line. -/
structure OwnSending where
  own : OwnFrame
  wire : List Byte
  startedAt : Nat
  stamp : Stamp
  deriving DecidableEq, Repr

/-- A learn that stage 7 asks for (R129). -/
structure LearnReq where
  fid : Nat
  mac : BitVec 48
  port : Nat
  /-- The source lookup hit an entry on another port. -/
  move : Bool
  deriving DecidableEq, Repr

/-- A frame that the device holds, from its header until its last reference is released. -/
structure Frame where
  inPort : Nat
  pipe : Nat
  /-- Bytes received, destination address first. -/
  bytes : List Byte
  /-- The length the frame arrived with, known when it is not in cut-through. -/
  length : Nat
  cut : Bool
  whole : Bool
  bad : Bool
  mru : Nat
  stamp : Stamp
  vid : Nat
  fid : Nat
  /-- The frame carries an outer tag of its ingress port's TPID. -/
  tagged : Bool
  pcp : Nat
  dei : Bool
  cls : Nat
  stream : Option Nat
  path : Nat
  /-- The context configuration read at stage 3 (R177). -/
  cfg : BitVec 256
  genSeq : Option (BitVec 16)
  /-- Bytes charged at the header to the stream's meter, and to a storm policer. -/
  metered : Option Nat
  stormed : Option (Nat × Nat)
  prot : Bool
  /-- It came in a steered leaf (R346). -/
  steered : Bool
  holdWhole : Bool
  learn : Option LearnReq
  /-- Head pointer of its chain, once granted, and the cells granted. -/
  head : Option Nat
  cells : Nat
  /-- Copies enqueued and not yet sent or discarded. -/
  copies : Nat
  /-- The number of destinations (R149). -/
  fan : Nat
  /-- The tail has been accepted and its last cells are not yet granted. -/
  tailWaits : Bool
  /-- The PTP message engine consumes it (R262). -/
  ptp : Bool
  /-- It was dropped at its header or never reached a pipeline; and it lost its cells part-way (R65). -/
  dropped : Bool
  mid : Bool
  /-- The DRAM buffer that it was assembled in, returned once it has been copied into cells: pool and index (R197). -/
  staging : Option (Nat × Nat)
  /-- The recirculated copy that it was written from, whose reference is released once it has been copied (R198). -/
  source : Option Copy
  /-- Of a frame from a pair: it is delivered other than to the pair, and NODE_FULL has counted it (R172, R173). -/
  here : Bool
  nodeFull : Bool
  /-- A cell of it holds an uncorrectable error (R499). -/
  spoiled : Bool
  deriving DecidableEq, Repr

/-- One queue's state (Table 8-2, state half); balances are in 10⁻⁵ bytes. -/
structure Queue where
  copies : List Copy
  balance : Int
  balanceAt : Nat
  deficit : Nat
  /-- Streams rebound to this queue, each with the queues it had before (R178). -/
  heldBehind : List (Nat × List Nat)
  maxCells : Nat
  maxDelay : Nat
  lastDelay : Nat
  deriving DecidableEq, Repr

/-- The DRR and credit state of one logical port's class nodes (R216 to R219). -/
structure PortSched where
  classTurn : Option Nat
  classDeficit : List Nat
  queueTurn : List (Option Nat)
  /-- Credits in 10⁻⁵ bytes, and when each was last brought up to date. -/
  credit : List Int
  creditAt : List Nat
  deriving DecidableEq, Repr

/-- The fields that one COMMIT binds (R223). -/
structure GateParams where
  en : Bool
  tb : Nat
  last : Nat
  cycle : Nat
  base : Nat
  entries : Sparse (BitVec 64)
  deriving DecidableEq, Repr

/-- One front port's gate list (R222 to R230); times are TB nanoseconds. -/
structure Gate where
  inForce : GateParams
  pending : Option GateParams
  /-- The cycle in progress is a first cycle, shortened to the new grid (R223). -/
  short : Bool
  /-- When the entry in force ends, and when the next cycle starts or a pending commit takes effect. -/
  entryEnd : Int
  cycleEnd : Int
  deriving DecidableEq, Repr

/-- An operation on a buffer that waits for the end of its slot (R193). -/
inductive BufOp where
  | share (tag : BitVec 8) (ptr : Word) (n : Nat) (last : BitVec 8)
  | dropRef (tag : BitVec 8) (pool : Nat) (ptr : Word)
  | free (tag : BitVec 8) (pool : Nat) (ptr : Word)
  deriving DecidableEq, Repr

/-- What one buffer's descriptor holds (R182, R189 to R194). -/
structure Buf where
  owner : BitVec 8
  shared : Bool
  count : Nat
  last : BitVec 8
  holders : List (BitVec 8)
  deferred : Bool
  closed : Bool
  returning : Bool
  cells : List Nat
  prot : Bool
  fromReserve : Nat
  requester : Nat
  cls : Nat
  deriving DecidableEq, Repr

/-- One pool's free store and reserve (R181 to R186, R205). -/
structure Pool where
  fresh : Nat
  returned : List Nat
  cache : Nat
  refilling : Bool
  reserveUsed : Nat
  bufs : Sparse Buf
  deriving DecidableEq, Repr

/-- What a waiting DRAM buffer request is for (R184, R196, R197, R453). -/
inductive DramUse where
  /-- The copy at the head of a queue of a host port, or of the management port. -/
  | hostRx (port queue : Nat)
  | management (queue : Nat)
  | hostTx (ring : Nat)
  /-- An output frame of a cluster's engine, due at injection by a time of a TB in 2⁻¹⁶ ns (R283). -/
  | accordOut (cluster stream tb : Nat) (due : Int) (bytes : List Byte)
  | tableDma
  deriving DecidableEq, Repr

/-- A waiting DRAM buffer request. -/
structure DramReq where
  pool : Nat
  requester : Nat
  use : DramUse
  deriving DecidableEq, Repr

/-- The buffer pool manager (chapter 7). -/
structure Bpm where
  pools : List Pool
  slot : Nat
  /-- Cells charged to each account: requester × 9, plus 1 + class for a class account (R201). -/
  charged : Sparse Nat
  /-- Warning states of those accounts (R203). -/
  warning : Sparse Nat
  dramReqs : List DramReq
  /-- Frames that still ask for cells, by requester, oldest first (R184). -/
  cellReqs : Sparse (List Nat)
  /-- Operation tags in use, and DRAM requests that wait for one (R19). -/
  tagsInUse : Nat
  tagWaiters : List Nat
  errorLog : Sparse (BitVec 128)
  /-- The operations given in this slot, in the order in which they were given (R193). -/
  ops : List BufOp
  deriving DecidableEq, Repr

/-- The scheduler (chapter 8). -/
structure Sched where
  queues : Sparse Queue
  /-- Descriptor configurations in force, and those that wait for PKT (R212). -/
  config : Sparse (BitVec 256)
  configWait : Sparse (BitVec 256)
  ports : Sparse PortSched
  gates : Sparse Gate
  gateStaged : Sparse (BitVec 64)
  /-- VOQs whose remote port and class are in XOFF, with the DT tick of its last refresh (R236). -/
  xoff : Sparse Nat
  sending : Sparse Sending
  deriving DecidableEq, Repr

/-- A front port's link and MAC state (chapters 3 and 4). -/
structure Port where
  localFault : Bool
  remoteFault : Bool
  anNoMatch : Bool
  negotiatedFec : Option Nat
  trainingAbandoned : Bool
  /-- DT tick at which the received pause in force ends, for pause and per class (R73). -/
  paused : Option Nat
  pfc : List (Option Nat)
  /-- XOFF sent and not yet ended by XON: the port, and per class; and the DT tick at which it was last sent (R71). -/
  xoffSent : Bool
  pfcSent : BitVec 8
  xoffAt : Nat
  backPressure : Bool
  carrier : Bool
  deferred : Bool
  collisions : Nat
  /-- DT tick at which the back-off in progress ends (R100). -/
  backingOff : Option Nat
  /-- DT tick from which LPI counts, and the ticks of it short of a microsecond that have not counted yet (LPI_TX_US). -/
  lpiSince : Option Nat
  lpiRest : Nat
  /-- DT tick at which the port last held a frame (R98). -/
  activeAt : Nat
  /-- DT tick before which the port begins no frame: it leaves LPI (R98), or keeps the gap behind a frame. -/
  wakeAt : Nat
  /-- DT tick at which training began, or was abandoned (R61). -/
  trainAt : Nat
  /-- Frames of the device's own that wait, oldest first, and the one in transmission. -/
  own : List OwnFrame
  ownNow : Option OwnSending
  /-- Carrier was lost during the transmission in progress. -/
  carrierErr : Bool
  /-- A cable diagnostic runs, and DIAG_FAULT (R106, R107). -/
  diagRuns : Bool
  diagFault : Bool
  /-- The frame being received. -/
  receiving : Option Nat
  deriving DecidableEq, Repr

/-- One I2C master and its module (R81 to R85). -/
structure Module where
  present : Bool
  pollFailed : Bool
  /-- DT tick at which the step in progress of Table 3-5 began. -/
  since : Nat
  /-- Its module was removed and none has been READY since: the served ports' transmitters are disabled (R84). -/
  removed : Bool
  /-- DT ticks of the last presence poll and of the last read of monitoring values (R82, R84). -/
  pollAt : Nat
  monitorAt : Nat
  mailbox : Option Word
  monitor : List Byte
  deriving DecidableEq, Repr

/-- A flush in progress (R137). -/
structure Flush where
  byPort : Bool
  byFid : Bool
  inclStatic : Bool
  port : Nat
  fid : Nat
  fromCommand : Bool
  /-- Keys matched and not yet deleted. -/
  todo : List Nat
  deriving DecidableEq, Repr

/-- A table entry whose highest word has been written, waiting for its epoch (R116). -/
structure TableWrite where
  addr : Nat
  words : List Word
  req : Requester
  deriving DecidableEq, Repr

/-- The FDB, MDB and VLAN table with their writer (chapter 5). -/
structure Fdb where
  entries : Sparse (BitVec 128)
  mdb : Sparse (BitVec 256)
  vlan : Sparse (BitVec 256)
  tableWrites : List TableWrite
  learnQueue : List LearnReq
  deferQueue : List LearnReq
  /-- Requests released for replay (R140), oldest first. -/
  replayQueue : List LearnReq
  rot : Nat
  walk : Nat
  /-- Moves of the relocation in progress, first to run at the head: entry copied to a slot (R133). -/
  chain : List (Nat × Nat)
  /-- What ends the chain: the slot and entry to write, for 0 a learn, 2 + j a drain of stash entry j; and at 66 + j
  stash entry j still to clear. -/
  chainKey : Option (Nat × BitVec 128 × Nat)
  flushes : List Flush
  tick : Nat
  /-- DT tick from which the next multiple of FDB_AGE.TICK × 10 ms is the next aging tick (R143). -/
  tickAt : Nat
  /-- Compare-and-deletes that the scanner has issued: key and the TS read (R144). -/
  ageQueue : List (Nat × Nat)
  movesThisTick : Nat
  movesLastTick : Nat
  stashNext : Nat
  /-- DT tick at which each held segment lock was granted, by segment, plus 64 for those of the management cores (R140). -/
  lockAt : Sparse Nat
  /-- Storm policer balances in 10⁻⁵ bytes, by port × 3 + kind, with the tick each was brought up to date. -/
  storm : Sparse (Int × Nat)
  deriving DecidableEq, Repr

/-- One stream context's state half (Table 6-4); balances in 10⁻⁵ bytes. -/
structure StreamState where
  genSeq : BitVec 16
  recSeq : BitVec 16
  takeAny : Bool
  blocked : Bool
  history : BitVec 64
  timerEnd : Option Nat
  balances : List (Int × Nat)
  passed : Nat
  discarded : Nat
  deriving DecidableEq, Repr

/-- A node table entry (R171): for each output of the pair, the last 32 numbers accepted. -/
structure Node where
  pair : Nat
  mac : BitVec 48
  seen : List (List (BitVec 16))
  lastAt : Nat
  deriving DecidableEq, Repr

/-- The stream unit (chapter 6). -/
structure Strm where
  config : Sparse (BitVec 256)
  state : Sparse StreamState
  sid : Sparse (BitVec 512)
  rot : Nat
  walk : Nat
  nodes : List Node
  pairSeq : List (BitVec 16)
  /-- DT tick at which the period of R170 in progress began. -/
  latentAt : Nat
  deriving DecidableEq, Repr

/-- One time base and its servo (R242 to R254). `now` counts ns / (2¹⁴ · 10⁹), so that no tick is rounded. -/
structure TimeBase where
  now : Int
  /-- FREQ in 2⁻¹² ppb. -/
  freq : Int
  /-- The integrator, in ppb. -/
  integ : Rat
  est : Nat
  theta1 : Int
  run : Nat
  bad : Nat
  epoch : Nat
  /-- Steps so far. -/
  steps : Nat
  /-- DT tick of the last accepted update, and of the instant SRC_TIMEOUT counts from (R250). -/
  lastUpdate : Nat
  since : Nat
  lockedSinceStep : Bool
  /-- DT tick at which its timing outputs last took a whole second. -/
  secondAt : Nat
  deriving DecidableEq, Repr

/-- Commands of TIME_TB_CMD that wait for the next TI cycle (R254): the target of SET and the value of ADJ, in 2⁻¹⁶ ns, and the
θ of SW_OFFSET. -/
structure TbCmd where
  set : Option Int
  adj : Option Int
  sw : Option Int
  deriving DecidableEq, Repr

/-- A Sync or Follow_Up waiting for its other half (R265, R267). -/
structure SyncHalf where
  seq : Nat
  received : Stamp
  origin : Int
  correction : Int
  deriving DecidableEq, Repr

/-- One PTP port context's state half and exchanges in progress (Table 9-6, R267); times in 2⁻¹⁶ ns. -/
structure PtpState where
  /-- The last 8 delay measurements, newest first; MEAN_DELAY is their mean. -/
  delays : List Int
  nrr : Int
  offset : Int
  syncSeq : Nat
  delaySeq : Nat
  pdelaySeq : Nat
  lastSyncAt : Option Nat
  lastPdelayAt : Option Nat
  /-- SLAVE: the Sync that waits for its Follow_Up. -/
  waiting : Option SyncHalf
  /-- SLAVE: the last Sync accepted with its corrections, for the E2E delay. -/
  last : Option SyncHalf
  /-- MASTER: the two-step Sync sent whose Follow_Up is due. -/
  followUp : Option (Nat × Stamp)
  /-- Delay_Req and Pdelay_Req sent: sequence and egress stamp. -/
  delayReq : Option (Nat × Stamp)
  pdelayReq : Option (Nat × Stamp)
  pdelayResp : Option (Nat × Int × Stamp)
  /-- The previous Pdelay exchange's responder and receive times, for NRR. -/
  pdelayPrev : Option (Int × Nat)
  /-- PROFILE 1: a Sync to relay (R267). -/
  relay : Option SyncHalf
  rateOffset : Int
  /-- DT ticks: the next Delay_Req is due (R265), the last Pdelay_Req was sent, the last Sync was sent, and the Sync to relay
  was accepted. -/
  delayAt : Option Nat
  pdelaySentAt : Option Nat
  syncSentAt : Option Nat
  relayAt : Nat
  deriving DecidableEq, Repr

/-- A two-step residence record (R258). -/
structure TcRecord where
  identity : Nat
  domain : Nat
  seq : Nat
  residence : Int
  madeAt : Nat
  deriving DecidableEq, Repr

/-- A timing output's phase state (R272, R273). -/
structure TimingOut where
  running : Bool
  rephase : Bool
  /-- How far a WCLK's edges stand behind its TB since jumps that it still follows, in 2⁻¹⁶ ns, at DT tick `lagAt` (R255). -/
  lag : Int
  lagAt : Nat
  deriving DecidableEq, Repr

/-- The time unit (chapter 9). `dt` counts ticks of 1.25 ns. -/
structure Time where
  dt : Nat
  tbs : List TimeBase
  tbCmds : Sparse TbCmd
  refLost : Bool
  alignTb0 : Bool
  cycleStart : Nat
  /-- While the device cycle follows TB0: the millisecond of TB0 at which the cycle in progress ends (R245). -/
  cycleTb0 : Int
  ctx : Sparse (BitVec 256)
  ctxWait : Sparse (BitVec 256 × Nat)
  ptp : Sparse PtpState
  /-- The rate limiter of R264, by port × 16 + message type: tokens in 1/128 of a message's ticks. -/
  limiter : Sparse (Nat × Nat)
  records : Sparse (List TcRecord)
  ppsin : List (List Stamp)
  ppsout : List TimingOut
  clk10 : TimingOut
  wclk : List TimingOut
  deriving DecidableEq, Repr

/-- The staged or in-force Accord descriptors (Table 10-3); the configuration bits alone. -/
structure AccDesc where
  jobs : Sparse (BitVec 512)
  subs : Sparse (BitVec 512)
  inputs : Sparse (BitVec 128)
  outs : Sparse (BitVec 1024)
  routes : Sparse (BitVec 128)
  taps : Sparse (BitVec 64)
  deriving DecidableEq, Repr

/-- A tap with its ramp (R297): sample k of K between two gains. -/
structure TapRun where
  index : Nat
  input : Nat
  invert : Bool
  delay : Nat
  gFrom : Int
  gTo : Int
  startAt : Nat
  len : Nat
  deriving DecidableEq, Repr

/-- A route's live and fading taps (R297, R298). -/
structure RouteRun where
  live : List TapRun
  fading : List TapRun
  deriving DecidableEq, Repr

/-- A command waiting for its apply sample (R293), with the descriptors it copied (R294). -/
structure JobCmd where
  op : Nat
  sample : Nat
  desc : AccDesc
  deriving DecidableEq, Repr

/-- A job's move to another engine (R305, R323): its apply sample, the queues allocated for its subscriptions at the new
cluster port, why placement moves it and the source's load before. -/
structure JobMove where
  dest : Nat
  atSample : Nat
  queues : List (Nat × Nat)
  reason : Nat
  load : Nat
  deriving DecidableEq, Repr

/-- One job (Table 10-10). -/
structure Job where
  state : Nat
  engine : Nat
  /-- Commands that wait for their apply samples: START and, behind it, one more, or one alone. -/
  pending : List JobCmd
  /-- The apply sample of its START. -/
  start : Nat
  move : Option JobMove
  /-- In FAULT, the apply sample at which MC2 restarts it (R306). -/
  restart : Option Nat
  /-- The steps of its TB that it has taken up (R299). -/
  steps : Nat
  deriving DecidableEq, Repr

/-- A subscription's progress (R281, R282). -/
structure SubRun where
  accepted : List Nat
  last : Nat
  /-- First samples of the packets that counted as missing. -/
  missed : List Nat
  deriving DecidableEq, Repr

/-- One sample in a delay line: its index, its TB's count of steps when it was written, and its value (R282). -/
structure LineCell where
  index : Nat
  steps : Nat
  value : Int
  deriving DecidableEq, Repr

/-- The Accord engines (chapter 10). -/
structure Acc where
  staged : AccDesc
  inForce : AccDesc
  jobs : Sparse Job
  subs : Sparse SubRun
  routes : Sparse RouteRun
  /-- Delay memory, by granule × 1,024 + position. -/
  lines : Sparse LineCell
  /-- What the filter of R291 still needs: the last samples received of an input channel whose subscription converts, by
  channel × 256 + index modulo 256, and the last sums of a slot of an output stream that converts, by
  (stream × 128 + slot) × 64 + index modulo 64. -/
  raw : Sparse LineCell
  sums : Sparse LineCell
  /-- The next packet's first sample, by output stream. -/
  outNext : Sparse Nat
  /-- Copies dequeued to a cluster port that wait for their engine, oldest first, with the cluster. -/
  inbox : List (Nat × Copy)
  clocks : List Nat
  deriving DecidableEq, Repr

/-- A line move in progress (R326). -/
structure LineMove where
  input : Nat
  toBase : Nat
  a0 : Nat
  switchAt : Option Nat
  deriving DecidableEq, Repr

/-- What step 5 of a job move does at the next device cycle (Table 11-2): the cluster port and the groups that it leaves,
the queues released, and the journal entry. -/
structure MoveEnd where
  job : Nat
  source : Nat
  dest : Nat
  outcome : Nat
  reason : Nat
  load : Nat
  port : Nat
  streams : List Nat
  queues : List Nat
  deriving DecidableEq, Repr

/-- The placement controller (chapter 11). -/
structure Place where
  pins : Sparse (BitVec 128)
  pinsWait : Sparse (BitVec 128 × Nat)
  journal : Sparse (BitVec 256)
  /-- Entries copied to the flash journal area (R333). -/
  flashCopied : Nat
  /-- Entries that the hardware assists keep until MC2 resumes (R332). -/
  heldBack : List (BitVec 256)
  /-- Consecutive device cycles over target, by engine, bank group and trunk group (R317). -/
  overEngine : Sparse Nat
  overBank : Sparse Nat
  overTrunk : Sparse Nat
  /-- Engines with an OUT_LATE in this cycle, and the bytes of each bank group in it. -/
  lateEngines : List Nat
  bankBytes : Sparse Nat
  /-- The bytes of each bank group in the last whole cycle. -/
  bankLast : Sparse Nat
  endings : List MoveEnd
  movesThisCycle : Nat
  /-- Jobs, or input channels where true, that a pin or forbid change left on a place that it bars (R321). -/
  displaced : List (Bool × Nat)
  lineMoves : List LineMove
  /-- The capture rate granted to each selection, Gb/s. -/
  granted : Sparse Nat
  deriving DecidableEq, Repr

/-- One time-transfer sample (R364): its position in the multiframe, TT_NS, and the TB's time and jump epoch at arrival. -/
structure HeldTime where
  pos : Nat
  ns : Nat
  own : Int
  epoch : Nat
  deriving DecidableEq, Repr

/-- One Izlen lane's framing state (R338 to R344, R348, R363). -/
structure IzlLane where
  good : Nat
  bad : Nat
  /-- FRAME_CNT of the latest header taken, and the expected one. -/
  rxFc : Nat
  expectFc : Nat
  rxAt : Option Nat
  /-- FRAME_CNT and arrival of the header before it, and the arrivals of the last headers, by FRAME_CNT modulo 32 (R335). -/
  prevAt : Option (Nat × Nat)
  arrived : Sparse Nat
  txFc : Nat
  txScramble : BitVec 43
  txSbip : BitVec 16
  sreiOut : Nat
  /-- Departure instants of the last headers, by FRAME_CNT. -/
  departed : Sparse Nat
  delaySum : Int
  delayCount : Nat
  delay : Int
  /-- The multiframe being received, and the latest good one (Table 12-4). -/
  ohBytes : Sparse Byte
  ohGood : List Byte
  /-- Bad headers of this multiframe period, and of the one before. -/
  badHeaders : Nat
  feHdr : Nat
  /-- OH bytes sent of this multiframe, and the TB seconds of its frames 0 to 3. -/
  ohSent : List Byte
  txSec : List Nat
  /-- Time-transfer samples of the multiframe being received. -/
  ttHeld : List HeldTime
  /-- Group frames in a row whose RX_OK has included this transmit lane. -/
  okFrames : Nat
  deriving DecidableEq, Repr

/-- What a hierarchy group knows of its neighbour (R365 to R367, R492). -/
structure Neighbour where
  unitId : BitVec 64
  device : Nat
  role : Nat
  level : Nat
  version : Word
  /-- VER, MIN and MAX of its Izlen window and of its control window. -/
  window : List (Nat × Nat × Nat)
  heardAt : Nat
  deriving DecidableEq, Repr

/-- One trunk group (R334 to R356, R360 to R364). -/
structure IzlGroup where
  tag : BitVec 8
  txActive : BitVec 16
  txNext : BitVec 16
  txChange : Nat
  txQuiet : BitVec 16
  rxActive : BitVec 16
  rxQuiet : BitVec 16
  rxNext : BitVec 16
  rxChange : Nat
  peerOk : BitVec 16
  pohBad : Nat
  ldGood : Nat
  ldBad : Nat
  /-- LD_SYNC lost its place and waits for FIRST_LEAF of the next group frame (R350). -/
  ldWait : Bool
  aisQuiet : Nat
  preiOut : Nat
  /-- Bad leaf headers of the previous group frame, and of this one. -/
  phdrOut : Nat
  phdrNow : Nat
  txPbip : BitVec 16
  /-- Leaf bytes waiting to be sent, and how many of them belong to a leaf begun earlier. -/
  txLeaves : List Byte
  txBegun : Nat
  txPayload : List Byte
  /-- The group is failed, and the groups that send AIS for it (R355). -/
  failed : Bool
  aisTo : List Nat
  /-- Groups that sent a leaf received here, with when (R355). -/
  feeds : Sparse Nat
  utilBytes : Nat
  lowCycles : Nat
  shed : BitVec 16
  nextPipe : Nat
  thetaSum : List Int
  thetaCount : List Nat
  /-- The jump epochs that the samples of each TB in this device cycle carry (R253). -/
  thetaEpochs : List (List Nat)
  neighbour : Option Neighbour
  deriving DecidableEq, Repr

/-- One second's errors of one end of a monitored entity (Table 12-9), and its availability. -/
structure PmEnd where
  bip : Nat
  hdr : Nat
  frames : Nat
  errored : Nat
  defect : Bool
  sesRun : Nat
  goodRun : Nat
  /-- Whether each second of the run of non-SES seconds, newest first, is an ES. -/
  recent : List Bool
  unavailable : Bool
  deriving DecidableEq, Repr

/-- An ORDER the manager waits on (R494). -/
structure OrderWait where
  device : Nat
  seq : Nat
  body : List Byte
  tries : Nat
  /-- DT tick at which it last left; none while it waits for MC3 (R457). -/
  sentAt : Option Nat
  deriving DecidableEq, Repr

/-- The Izlen trunk framer and the hierarchy (chapter 12). -/
structure Izl where
  lanes : Sparse IzlLane
  groups : Sparse IzlGroup
  /-- The manager's bindings: device number and UNIT_ID (R367). -/
  bindings : List (Nat × BitVec 64)
  joined : List Nat
  /-- The downstream group on which each device's ASSIGN last passed (R347). -/
  paths : Sparse Nat
  depth : Bool
  /-- This device's XOFF map (R372). -/
  xoffMap : BitVec 768
  orderSeq : Nat
  orders : List OrderWait
  /-- ORDERs performed lately, newest first: sender, SEQ and the reply (R494). -/
  answered : List (Nat × Nat × List Byte)
  /-- JOIN, ASSIGN and ORDER leaves that wait while MC3 restarts, oldest first, with their groups (R457). -/
  held : List (Nat × List Byte)
  /-- DT ticks of the last HELLO and of the last refresh of the XOFF map, and the tick since which there is no upstream
  (R365, R369, R372). -/
  helloAt : Nat
  flowAt : Nat
  lostAt : Nat
  /-- The second of R357 that PM_SECOND closed last, and the quarter-hour that PM_BIN_ROLL opened last (R359). -/
  pmAt : Nat
  rollAt : Nat
  pm : Sparse (BitVec 512)
  /-- TB0 was FREE or ACQUIRING since the last second ended. -/
  tbSuspect : Bool
  pmNear : Sparse PmEnd
  pmFar : Sparse PmEnd
  deriving DecidableEq, Repr

/-- State carried for one cycle of the ACTIVE unit (R383). -/
structure Carried where
  cycle : Nat
  recs : List TwinRec
  deriving DecidableEq, Repr

/-- One ring pair (R398 to R403). -/
structure RingPair where
  closed : Bool
  deriving DecidableEq, Repr

/-- The twin controller and ring bypass (chapter 13). -/
structure Twin where
  peer : Option Peer
  searching : Bool
  /-- DT tick at which the search for a peer began (R378). -/
  searchAt : Nat
  missed : Nat
  /-- The heartbeat of this device cycle has been judged (R389). -/
  judged : Bool
  heard : Bool
  altHeard : Bool
  altMissed : Nat
  take : Bool
  failSent : Bool
  frontHeld : Bool
  boundary : Option Nat
  /-- A revert fixed the boundary (role event reason REVERT). -/
  reverting : Bool
  peerRole : Nat
  peerCycle : Nat
  /-- Records and copies of the cycle being received, and complete cycles waiting to be applied. -/
  incoming : List TwinRec
  incomplete : Bool
  complete : Option Carried
  /-- Bytes of MIRROR records that wait in twin staging, by class, and the STALE classes whose background copy has ended
  (R385). -/
  staged : Sparse Nat
  copied : List Nat
  /-- The whole copy of FINAL has been applied (Table 13-5). -/
  finalDone : Bool
  pairs : List RingPair
  /-- DT tick at which the opening of each pair, or MC0's wait for it, began, and the pair that MC0 waits for (R401, R403). -/
  ringAt : List Nat
  ringWait : Option Nat
  /-- OPEN writes that wait for the sequence in progress (R400). -/
  openQueue : List Nat
  /-- Pairs that were OPEN when the watchdog of MC0 expired, which MC0 opens again (R458). -/
  reopen : List Nat
  /-- Heartbeats have shown both units ACTIVE: the secondary parks at its next cycle boundary (R393). -/
  dual : Bool
  /-- DT tick at which SYNCING began, from which WTR runs (Table 13-5). -/
  syncAt : Nat
  deriving DecidableEq, Repr

/-- Power, reset and boot (chapter 16). -/
structure Power where
  /-- VIN12 is in its operating range (R461); VAUX33 is present (R540). -/
  vin : Bool
  vaux : Bool
  /-- PWRGD, and the tick at which it last rose (R461, R463). -/
  pwrgd : Bool
  pwrgdAt : Nat
  /-- The device is in reset, and RESET_N is low (R463). -/
  inReset : Bool
  resetLow : Bool
  /-- The die reached 120 °C and has not cooled below 100 °C (R541). -/
  hot : Bool
  /-- The bypass hold-up charge is full (R399). -/
  charged : Bool
  /-- DT tick from which the stage times run (R472), and the tick at which each stage completed. -/
  origin : Nat
  stageAt : Sparse Nat
  /-- Journal entries that the retention SRAM holds and flash does not (R462). -/
  retained : List (BitVec 256)
  /-- The bank that is being tried, and those that have failed in this boot (R467, R468). -/
  trying : Option Nat
  /-- DT tick at which its try began (R467). -/
  tryAt : Nat
  failed : List Nat
  /-- DT ticks of the FATAL resets that R469 counts, newest first. -/
  fatals : List Nat
  /-- DT ticks of each core's last watchdog expiries, newest first (R459), and the cores that restart. -/
  expiries : Sparse (List Nat)
  coresDown : BitVec 4
  /-- The last device-cycle boundary at which each core's checkpoint was written (R456). -/
  checkpoints : Sparse Nat
  /-- Lanes and ports held in electrical idle since calibration failed (Table 16-5), by logical port. -/
  idleLanes : List Nat
  deriving DecidableEq, Repr

/-- A receive frame on its ring's wait list, with what its descriptors will say (R445, Table 15-2). -/
structure RxWait where
  /-- Its bytes without FCS, in HRX buffer `buf`. -/
  bytes : List Byte
  buf : Nat
  cls : Nat
  inPort : Nat
  reason : Nat
  stream : Option Nat
  vid : Nat
  stamp : Stamp
  joinedAt : Nat
  /-- HOST_RX_WAIT in force when it joined, in µs. -/
  wait : Nat
  /-- Its buffer holds an uncorrectable error: the frame is discarded when it is read (R499). -/
  spoiled : Bool
  deriving DecidableEq, Repr

/-- A transmit frame that the engine has fetched and whose descriptors are not complete (R448). -/
structure TxPending where
  descs : Nat
  /-- The frame's number once it has entered its pipeline. -/
  frame : Option Nat
  status : Nat
  tsReq : Bool
  stamp : Option Stamp
  /-- The bytes gathered, which wait for their HTX buffer (R197). -/
  bytes : List Byte
  direct : Option (Nat × Nat)
  deriving DecidableEq, Repr

/-- A table DMA in progress (R453). -/
structure TableDma where
  win : Nat
  len : Nat
  toTable : Bool
  haddr : BitVec 64
  /-- Its TDMA buffer, once granted. -/
  buf : Option Nat
  /-- Segments whose host lock has expired since GO (R455). -/
  lost : List Nat
  deriving DecidableEq, Repr

/-- One punt class's tokens, in 1/800,000,000 of a token, and the tick they were brought up to date (R450). -/
structure PuntTokens where
  held : Nat
  since : Nat
  deriving DecidableEq, Repr

/-- The host attachment (chapter 15). -/
structure HostIf where
  /-- The endpoint is in D0, out of reset and a bus master (R439). -/
  d0 : Bool
  outOfReset : Bool
  busMaster : Bool
  rxWait : Sparse (List RxWait)
  txPending : Sparse (List TxPending)
  tdma : Option TableDma
  /-- Punt class and reason map words, by BAR0 offset (Tables 15-4 and 15-5). -/
  punt : Sparse (BitVec 128)
  tokens : Sparse PuntTokens
  reasons : Sparse Word
  deriving DecidableEq, Repr

/-- A settings block of the config store (R491): register writes under a BLOCK_ID and a format version. -/
structure Block where
  id : Nat
  fmt : Nat
  writes : List (Nat × Word)
  deriving DecidableEq, Repr

/-- What the checks of R33 and R478 read from a bundle. -/
structure Bundle where
  ver : Word
  svn : Nat
  /-- IZL_VER, IZL_MIN, IZL_MAX and CTRL_VER, CTRL_MIN, CTRL_MAX. -/
  izl : Nat × Nat × Nat
  ctrl : Nat × Nat × Nat
  accOut : Nat
  ckpt : Nat × Nat
  /-- Layout version and oldest convertible layout of twin state classes 0 to 10. -/
  classVer : List (Nat × Nat)
  image : Image
  microcode : Nat
  microHitless : Bool
  deriving DecidableEq, Repr

/-- One flash bank (R482, R483). -/
structure Bank where
  /-- 0 EMPTY, 1 INVALID, 2 VALID, 3 TRIAL. -/
  state : Nat
  bytes : Memory
  ver : Word
  deriving DecidableEq, Repr

/-- The staging lock and what is staged (R485 to R487). -/
structure Staging where
  holder : Option StageSrc
  bytes : Memory
  /-- The highest byte written, plus one. -/
  top : Nat
  /-- A WRITE whose copy is in progress: offset and length. -/
  copying : Option (Nat × Nat)
  bundle : Option Bundle
  /-- DT tick of the holder's last operation. -/
  lastAt : Nat
  deriving DecidableEq, Repr

/-- An activation in progress (Table 17-4 and R490). -/
structure Activation where
  mode : Nat
  /-- Engines still to be updated, then cores. -/
  engines : List Nat
  cores : List Nat
  doneEngines : List Nat
  doneCores : List Nat
  /-- ACTIVATE_TWIN: the peer has gone away to restart. -/
  away : Bool
  /-- DT tick at which the step in progress began (R489). -/
  since : Nat
  deriving DecidableEq, Repr

/-- A region replacement (Table 2-11). -/
structure Repl where
  container : Option Image
  replaced : List Nat
  switchAt : Option Nat
  deriving DecidableEq, Repr

/-- A worker's update that the manager runs (R495). -/
structure HierUpdate where
  device : Nat
  bank : Nat
  /-- Bytes of the bundle still to be sent. -/
  sent : Nat
  phase : Nat
  deriving DecidableEq, Repr

/-- Images, fuses, flash and update (chapters 2 and 17). -/
structure Img where
  floor : Nat
  custKey : Option (List Byte)
  banks : List Bank
  named : Nat
  running : Option Nat
  bundle : Option Bundle
  /-- The bundle committed to the bank that is not running. -/
  committed : Option Bundle
  staging : Staging
  activation : Option Activation
  repl : Repl
  update : Option HierUpdate
  config : List Block
  report : List (Nat × Nat × Nat × Nat)
  /-- Flash journal entries, crash records and the two latest summaries (R333, R469, R518). -/
  flashJournal : List (BitVec 256)
  crash : List Nat
  deriving DecidableEq, Repr

/-- A recalibration that runs (R496, R501). -/
structure RecalRun where
  unit : RecalUnit
  compensated : Bool
  deriving DecidableEq, Repr

/-- A recalibration that is due and waits; while its port is on a parent path, with the DT tick since when (R498, R501). -/
structure RecalWait where
  unit : RecalUnit
  onPath : Option Nat
  deriving DecidableEq, Repr

/-- The maintenance arbiter (chapter 18). -/
structure Maint where
  /-- Recalibrations that run and that wait, oldest first, and the DT tick of each unit's last one, by MAINT_COMP_LAST's
  code. -/
  recal : List RecalRun
  due : List RecalWait
  cal : Sparse Nat
  patrolLate : Bool
  deriving DecidableEq, Repr

/-- A record of Table 19-4. The time is DT in 2⁻¹⁶ ns. -/
structure Rec where
  ty : Nat
  flags : Nat
  dt : Nat
  src : Nat
  body : List Byte
  deriving DecidableEq, Repr

/-- A checkpoint (R516). -/
structure Checkpoint where
  num : Nat
  epoch : Nat
  tick : Nat
  /-- CKPT records that carry it, how many of them leave in each device cycle, and whether the last has been written. -/
  segs : Nat
  rate : Nat
  complete : Bool
  regs : Regs
  fdb : Fdb
  strm : Strm
  sched : Sched
  bpm : Bpm
  acc : Acc
  tbs : List TimeBase
  cores : Sparse Nat
  draws : Sparse Nat
  /-- TIME_DEVCYC's count of device cycles. -/
  cycle : Nat
  /-- The residence list: resident frames without their bytes, which their FRAME records hold. -/
  residence : Sparse Frame
  deriving DecidableEq, Repr

/-- An imported capture and the rerun of it (R520 to R523). -/
structure Rerun where
  /-- CHIP_REV, LINEAGE, IMG_VER, BUNDLE_VER of the header. -/
  rev : Nat
  lineage : Word
  imgVer : Word
  bundleVer : Word
  /-- UNIT_ID of the recording unit. -/
  unit : BitVec 64
  lastEpoch : Nat
  mask : BitVec 96
  records : List Rec
  ckpts : List Checkpoint
  /-- Input records that are still to be injected, the earliest first (R522). -/
  todo : List Rec
  /-- The first epoch whose DIGEST_B is compared (R523). -/
  digestBFrom : Nat
  deriving DecidableEq, Repr

/-- The observation unit (chapter 19). -/
structure Obs where
  records : List Rec
  bytes : Nat
  ckpts : List Checkpoint
  /-- CKPT records still to be written. -/
  segments : List Rec
  gap : Bool
  firstEpoch : Nat
  trigEpoch : Nat
  lastEpoch : Nat
  /-- DT ticks of the trigger, of the last snapshot and of the end of the last epoch (R511, R512, R517). -/
  trigAt : Nat
  snapAt : Nat
  epochAt : Nat
  cycleBytes : Nat
  /-- Bytes of FRAME records that each selection has asked for in this device cycle. -/
  wanted : Sparse Nat
  /-- First and last epoch of the frames dropped since the last GAP record. -/
  lost : Option (Nat × Nat)
  /-- Records that wait for the trace lane, oldest first. -/
  trace : List Rec
  traceSeq : Nat
  traceGap : Bool
  /-- Bytes that enter each port's DIGEST_A and DIGEST_B of this epoch, and the frames sent (R515). -/
  digestA : Sparse (List Byte)
  digestB : Sparse (List Byte)
  framesSent : Sparse Nat
  /-- An export or import in progress: offset reached and bytes left. -/
  moving : Option (Nat × Nat)
  imported : Option Rerun
  importBytes : Memory
  /-- The last READ touched an address that returned zero (Table 19-1). -/
  spiErr : Bool
  diverged : Bool
  summaries : List (List Rec)
  deriving DecidableEq, Repr

/-- What a port advertises to its partner. -/
inductive Advertised where
  /-- An H-port: its formed mode and its FEC set, by the codes of FEC_SEL (R59). -/
  | clause73 (mode fec : Nat)
  /-- A copper port: speeds at full and at half duplex, EEE at 100 and 1,000 Mb/s, PAUSE and ASM_DIR, MS_PREF (R90, R94,
  R96). -/
  | clause28 (full half eee : Nat) (pause asmDir : Bool) (msPref : Nat)
  deriving DecidableEq, Repr

/-- What the device puts out: frames, messages, reads and notices. -/
inductive Output where
  /-- A frame leaves logical port `port`; an H, C, trunk or twin port's stamp point saw `stamp`. -/
  | frame (port : Nat) (stamp : Stamp) (bytes : List Byte)
  | msix (v : Nat) (addr : BitVec 64) (data : Word)
  /-- DMA writes to host memory. -/
  | hostWrite (addr : BitVec 64) (bytes : List Byte)
  /-- A read completes with a value, or an access is refused as a bus error. -/
  | readDone (req : Requester) (addr : Nat) (value : Word)
  | busError (req : Requester) (addr : Nat)
  | spi (bytes : List Byte)
  | laneFrame (lane : Nat) (fc : Nat) (header overhead payload : List Byte)
  | heartbeat (hb : Heartbeat) (alternate : Bool)
  | twinState (rec : TwinRec)
  /-- The ACTIVE unit sends a verified partial container to its twin, and the STANDBY answers whether it takes it (R52); or a
  bundle (R490). -/
  | twinContainer (bytes : List Byte)
  | twinAnswer (ok : Bool)
  /-- The boundary that a SWITCHOVER or a revert fixes, as the peer is told it (R394). -/
  | twinBoundary (cycle : Nat) (revert : Bool)
  | trace (bytes : List Byte)
  /-- The rising edges of a timing output in a second of its TB: the first, how many, spread evenly over the second, and how
  long the output is high after each, in 2⁻¹⁶ ns. PPSOUT 0–3, CLK10OUT 4, WCLK 5–8. -/
  | edges (pin : Nat) (first : Stamp) (count high : Nat)
  /-- A timing output is held low from now on. -/
  | low (pin : Nat)
  /-- A ring pair's bypass switches close or open. -/
  | bypass (r : Nat) (closed : Bool)
  /-- H-port `p` sends remote-fault ordered sets (`fault` true) or idle in place of frames (R62). -/
  | linkSignal (p : Nat) (fault : Bool)
  /-- Port `p` begins negotiation and advertises: Clause 73's mode and FEC set (R59), or Clause 28's abilities (R90, R96). -/
  | advertise (p : Nat) (adv : Advertised)
  /-- Master `k` begins a mailbox transfer: its command word and, of a write, its bytes (R85). -/
  | moduleXfer (k : Nat) (cmd : Word) (bytes : List Byte)
  /-- MC0 posts a notice of a core restart in BAR4 (R459), or of a stage that completes once its firmware runs (chapter 16). -/
  | notice (core : Nat)
  | stageNotice (stage : Nat)
  deriving DecidableEq, Repr

/-- Why the machine stops. No command of this block raises one: see the assumption log. -/
inductive Fault where
  /-- Raised by nothing: every command of the spec leaves the machine running. Safe. -/
  | none
  deriving DecidableEq, Repr

/-- Why a command has no meaning here. -/
inductive Refusal where
  /-- Raised by an arm of `exec` that has no meaning yet. Safe: the machine does not go on. -/
  | notModelled (mnemonic : String)
  deriving DecidableEq, Repr

/-- The block: everything that the spec gives it, the commands that wait and what it has put out. -/
structure State where
  power : Power
  regs : Regs
  irq : Irq
  fix : Fixative
  image : Image
  frames : Sparse Frame
  nextFrame : Nat
  ports : Sparse Port
  modules : Sparse Module
  bpm : Bpm
  sched : Sched
  fdb : Fdb
  strm : Strm
  time : Time
  acc : Acc
  place : Place
  izl : Izl
  twin : Twin
  host : HostIf
  img : Img
  maint : Maint
  obs : Obs
  /-- BAR4 shared memory (R405). -/
  bar4 : Memory
  /-- What has left the device, newest first. -/
  out : List Output
  /-- Commands that wait, first in, first out. -/
  pending : List Instr
  /-- The seed drawn at boot, and the draws so far of each generator: copper port c's back-off (R100), and at 32 + x that
  of PTP context x (R265). -/
  seed : BitVec 64
  draws : Sparse Nat
  /-- The model's own: how many free values have been drawn. -/
  freeCtr : Nat
  deriving DecidableEq, Repr

/-- A pool whose buffers are all free (Table 7-1). -/
def Pool.full : Pool :=
  { fresh := 0, returned := [], cache := 0, refilling := false, reserveUsed := 0, bufs := [] }

/-- No region of any image: the device runs no structure image until STRUCTURE_LOADED (R471). -/
def Image.none : Image :=
  { lineage := 0, ver := 0, lanes := [], bindH := [], bindC := [], bindG := [], injEc := [], injHost := [], pop := 0,
    regions := [], qpart := [], ring := [], ball := [], hotset := [] }

/-- A time base at zero in FREE, with FREQ 0 (R242, R244, R249). -/
def TimeBase.zero : TimeBase :=
  { now := 0, freq := 0, integ := 0, est := 2, theta1 := 0, run := 0, bad := 0, epoch := 0, steps := 0, lastUpdate := 0, since := 0,
    lockedSinceStep := false, secondAt := 0 }

/-- A timing output that is off (R273). -/
def TimingOut.off : TimingOut := { running := false, rephase := false, lag := 0, lagAt := 0 }

/-- No Accord descriptor. -/
def AccDesc.none : AccDesc := { jobs := [], subs := [], inputs := [], outs := [], routes := [], taps := [] }

/-- A flash bank that holds no container. -/
def Bank.blank : Bank := { state := 0, bytes := [], ver := 0 }

/-- The staging lock, free (R485). -/
def Staging.free : Staging :=
  { holder := .none, bytes := [], top := 0, copying := .none, bundle := .none, lastAt := 0 }

/-- The machine in power-on reset (R461, R463): every register at its reset value, no supply in range. -/
def State.reset : State where
  power := { vin := false, vaux := false, pwrgd := false, pwrgdAt := 0, inReset := true, resetLow := false, hot := false,
             charged := false, origin := 0, stageAt := [], retained := [], trying := .none, tryAt := 0, failed := [], fatals := [], expiries := [],
             coresDown := 0, checkpoints := [], idleLanes := [] }
  regs := { staged := [], inForce := [], waiting := [], holdClearedAt := 0, holdHostCycles := 0, holdMcCycles := 0,
            partialWords := [], shadows := [], counters := [] }
  irq := { msixEnable := false, functionMask := false, masked := BitVec.allOnes 64, disarmed := 0,
           lastMessage := [], msixTable := [] }
  fix := { lost := false }
  image := Image.none
  frames := []
  nextFrame := 0
  ports := []
  modules := []
  bpm := { pools := [Pool.full, Pool.full, Pool.full, Pool.full, Pool.full, Pool.full], slot := 0, charged := [],
           warning := [], dramReqs := [], cellReqs := [], tagsInUse := 0, tagWaiters := [], errorLog := [], ops := [] }
  sched := { queues := [], config := [], configWait := [], ports := [], gates := [], gateStaged := [], xoff := [],
             sending := [] }
  fdb := { entries := [], mdb := [], vlan := [], tableWrites := [], learnQueue := [], deferQueue := [],
           replayQueue := [], rot := 0, walk := 0, chain := [], chainKey := .none, flushes := [], tick := 0, tickAt := 0,
           ageQueue := [], movesThisTick := 0, movesLastTick := 0, stashNext := 0, lockAt := [], storm := [] }
  strm := { config := [], state := [], sid := [], rot := 0, walk := 0, nodes := [],
            pairSeq := [0, 0, 0, 0, 0, 0, 0, 0, 0, 0, 0, 0], latentAt := 0 }
  time := { dt := 0, tbs := [TimeBase.zero, TimeBase.zero, TimeBase.zero, TimeBase.zero], tbCmds := [], refLost := false,
            alignTb0 := false, cycleStart := 0, cycleTb0 := 0, ctx := [], ctxWait := [], ptp := [], limiter := [], records := [],
            ppsin := [[], []], ppsout := [TimingOut.off, TimingOut.off, TimingOut.off, TimingOut.off],
            clk10 := TimingOut.off, wclk := [TimingOut.off, TimingOut.off, TimingOut.off, TimingOut.off] }
  acc := { staged := AccDesc.none, inForce := AccDesc.none, jobs := [], subs := [], routes := [], lines := [], raw := [], sums := [],
           outNext := [], inbox := [], clocks := [0, 0, 0, 0, 0, 0, 0, 0] }
  place := { pins := [], pinsWait := [], journal := [], flashCopied := 0, heldBack := [], overEngine := [],
             overBank := [], overTrunk := [], lateEngines := [], bankBytes := [], bankLast := [], endings := [], movesThisCycle := 0, displaced := [],
             lineMoves := [], granted := [] }
  izl := { lanes := [], groups := [], bindings := [], joined := [], paths := [], depth := false, xoffMap := 0,
           orderSeq := 0, orders := [], answered := [], held := [], helloAt := 0, flowAt := 0, lostAt := 0,
           pmAt := 0, rollAt := 0, pm := [], tbSuspect := false, pmNear := [], pmFar := [] }
  twin := { peer := .none, searching := false, searchAt := 0, missed := 0, judged := false, heard := false, altHeard := false, altMissed := 0,
            take := false, failSent := false, frontHeld := false, boundary := .none, reverting := false,
            peerRole := 0, peerCycle := 0, incoming := [], incomplete := false, complete := .none, staged := [], copied := [], finalDone := false,
            pairs := [⟨true⟩, ⟨true⟩, ⟨true⟩, ⟨true⟩], ringAt := [0, 0, 0, 0], ringWait := .none, openQueue := [], reopen := [], dual := false, syncAt := 0 }
  host := { d0 := false, outOfReset := false, busMaster := false, rxWait := [], txPending := [], tdma := .none,
            punt := [], tokens := [], reasons := [] }
  img := { floor := 0, custKey := .none, banks := [Bank.blank, Bank.blank], named := 0, running := .none,
           bundle := .none, committed := .none, staging := Staging.free, activation := .none,
           repl := { container := .none, replaced := [], switchAt := .none }, update := .none, config := [],
           report := [], flashJournal := [], crash := [] }
  maint := { recal := [], due := [], cal := [], patrolLate := false }
  obs := { records := [], bytes := 0, ckpts := [], segments := [], gap := false, firstEpoch := 0, trigEpoch := 0, lastEpoch := 0,
           trigAt := 0, snapAt := 0, epochAt := 0, cycleBytes := 0, wanted := [], lost := .none, trace := [], traceSeq := 0, traceGap := false, digestA := [], digestB := [],
           framesSent := [], moving := .none, imported := .none, importBytes := [], spiErr := false,
           diverged := false, summaries := [] }
  bar4 := []
  out := []
  pending := []
  seed := 0
  draws := []
  freeCtr := 0

end Sys2Proof.Machine
end

