-- ==== Sys2Proof/Machine/Sparse.lean ====
section
/-! DEFINITION. Sparse tables and addressed memory in one canonical form: keys strictly rise, and no entry equals
the value that an unlisted key reads as. -/
namespace Sys2Proof.Machine

/-- The value at key `k`, where an unlisted key reads as `d`. -/
def get {α : Type} (d : α) : Sparse α → Nat → α
  | [], _ => d
  | (j, v) :: l, k => if k = j then v else get d l k

/-- The entry at key `k`, if listed. -/
def find {α : Type} : Sparse α → Nat → Option α
  | [], _ => none
  | (j, v) :: l, k => if k = j then some v else find l k

/-- The table without key `k`. -/
def drop {α : Type} : Sparse α → Nat → Sparse α
  | [], _ => []
  | (j, v) :: l, k => if k = j then drop l k else (j, v) :: drop l k

/-- The table with `v` listed at key `k`. -/
def put {α : Type} : Sparse α → Nat → α → Sparse α
  | [], k, v => [(k, v)]
  | (j, w) :: l, k, v =>
    if k < j then (k, v) :: (j, w) :: l else if k = j then (k, v) :: l else (j, w) :: put l k v

/-- The table with `v` at key `k`, in canonical form for the unlisted value `d`. -/
def set {α : Type} [DecidableEq α] (d : α) (l : Sparse α) (k : Nat) (v : α) : Sparse α :=
  if v = d then drop l k else put l k v

/-- Keys strictly rise. -/
def sorted {α : Type} (l : Sparse α) : Prop := l.Pairwise (fun a b => a.1 < b.1)

/-- The canonical form for the unlisted value `d`. -/
def canon {α : Type} (d : α) (l : Sparse α) : Prop := sorted l ∧ ∀ e ∈ l, e.2 ≠ d

/-- The keys that are listed. -/
def keys {α : Type} (l : Sparse α) : List Nat := l.map Prod.fst

/-- The canonical form of addressed memory, whose unlisted bytes read as zero. -/
abbrev Memory.wf (m : Memory) : Prop := m.Pairwise (fun a b => a.1 < b.1) ∧ ∀ c ∈ m, c.2 ≠ 0#8

/-- The byte at address `a`. -/
def Memory.read (m : Memory) (a : Nat) : Byte := get 0#8 m a

/-- Memory with byte `v` at address `a`. -/
def Memory.write (m : Memory) (a : Nat) (v : Byte) : Memory := set 0#8 m a v

/-- Memory with the bytes `bs` from address `a` upward. -/
def Memory.writeList (m : Memory) (a : Nat) : List Byte → Memory
  | [] => m
  | b :: bs => Memory.writeList (Memory.write m a b) (a + 1) bs

/-- The `n` bytes from address `a` upward. -/
def Memory.readList (m : Memory) (a : Nat) : Nat → List Byte
  | 0 => []
  | n + 1 => Memory.read m a :: Memory.readList m (a + 1) n

end Sys2Proof.Machine
end

