-- ==== Sys2Proof/Machine/Bits.lean ====
section
/-! DEFINITION. Bit fields, byte order and the CRCs that the spec names. -/
namespace Sys2Proof.Machine

/-- Bits [hi:lo] of a number. -/
def bits (x hi lo : Nat) : Nat := x / 2 ^ lo % 2 ^ (hi + 1 - lo)

/-- Bit `i` of a number. -/
def bit (x i : Nat) : Bool := x / 2 ^ i % 2 = 1

/-- Bits [hi:lo] of a word or a table entry. -/
def fld {n : Nat} (x : BitVec n) (hi lo : Nat) : Nat := bits x.toNat hi lo

/-- Bit `i` of a word or a table entry. -/
def flag {n : Nat} (x : BitVec n) (i : Nat) : Bool := x.getLsbD i

/-- The word or entry with bits [hi:lo] replaced by the low bits of `v`. -/
def setFld {n : Nat} (x : BitVec n) (hi lo v : Nat) : BitVec n :=
  BitVec.ofNat n (x.toNat - bits x.toNat hi lo * 2 ^ lo + v % 2 ^ (hi + 1 - lo) * 2 ^ lo)

/-- The mask of bits [hi:lo] in 32 bits. -/
def maskOf (hi lo : Nat) : Word := BitVec.ofNat 32 ((2 ^ (hi + 1 - lo) - 1) * 2 ^ lo)

/-- The word with the bits of `m` taken from `b` and the others from `a`. -/
def blend (m a b : Word) : Word := (a &&& ~~~m) ||| (b &&& m)

/-- One bit as a number. -/
def bnat (b : Bool) : Nat := if b then 1 else 0

/-- A number read as two's complement in `n` bits. -/
def signed (x n : Nat) : Int := if x % 2 ^ n < 2 ^ (n - 1) then (x % 2 ^ n : Nat) else (x % 2 ^ n : Nat) - (2 ^ n : Nat)

/-- A number as two's complement in `n` bits. -/
def unsigned (x : Int) (n : Nat) : Nat := (x % (2 ^ n : Nat)).toNat

/-- `x` held at the nearer end of lo to hi. -/
def held (lo hi x : Nat) : Nat := if x < lo then lo else if hi < x then hi else x

/-- `x` held at the nearer end, for signed values. -/
def heldInt (lo hi x : Int) : Int := if x < lo then lo else if hi < x then hi else x

/-- The smallest number not below x / y. -/
def ceilDiv (x y : Nat) : Nat := (x + y - 1) / y

/-- A number as `n` bytes, most significant byte first (R4). -/
def toBytes : Nat → Nat → List Byte
  | 0, _ => []
  | n + 1, x => BitVec.ofNat 8 (x / 2 ^ (8 * n)) :: toBytes n x

/-- Bytes as a number, most significant byte first (R4). -/
def ofBytes (bs : List Byte) : Nat := bs.foldl (fun a b => a * 256 + b.toNat) 0

/-- The `n` bytes at offset `o`, as a number. -/
def field (bs : List Byte) (o n : Nat) : Nat := ofBytes ((bs.drop o).take n)

/-- The byte at offset `o`, zero beyond the end. -/
def byteAt (bs : List Byte) (o : Nat) : Nat := (bs.getD o 0).toNat

/-- The bytes with `v` written from offset `o`. -/
def patch (bs : List Byte) (o : Nat) (v : List Byte) : List Byte := bs.take o ++ v ++ bs.drop (o + v.length)

/-- Bytes padded with zeros to at least `n`. -/
def padTo (n : Nat) (bs : List Byte) : List Byte := bs ++ List.replicate (n - bs.length) 0#8

/-- The bits of a byte, least significant first, as IEEE 802.3 sends them. -/
def bitsLsb (b : Byte) : List Bool := (List.range 8).map b.getLsbD

/-- The bits of a byte, most significant first. -/
def bitsMsb (b : Byte) : List Bool := bitsLsb b |>.reverse

/-- One step of a CRC register of `n` bits, most significant bit first. -/
def crcStep {n : Nat} (poly : BitVec n) (r : BitVec n) (b : Bool) : BitVec n :=
  if r.msb != b then (r <<< 1) ^^^ poly else r <<< 1

/-- A CRC over bits. -/
def crc {n : Nat} (poly init : BitVec n) (bs : List Bool) : BitVec n := bs.foldl (crcStep poly) init

/-- The FCS of IEEE 802.3 over the frame's bytes, as the four bytes in transmission order (R4): the complemented
remainder leaves from the coefficient of x³¹, the first bit of each byte being its least significant. -/
def fcsBytes (bs : List Byte) : List Byte :=
  let r := ~~~ crc 0x04C11DB7#32 (BitVec.allOnes 32) (bs.flatMap bitsLsb)
  (List.range 4).map fun k =>
    BitVec.ofNat 8 ((List.range 8).foldl (fun a j => a + bnat (r.getLsbD (31 - (8 * k + j))) * 2 ^ j) 0)

/-- The stomp pattern: the inverted FCS (R66). -/
def stompBytes (bs : List Byte) : List Byte := (fcsBytes bs).map fun b => ~~~b

/-- CRC-64 (ECMA-182), most significant bit first (R515). -/
def crc64 (bs : List Byte) : BitVec 64 := crc 0x42F0E1EBA9EA3693#64 0#64 (bs.flatMap bitsMsb)

/-! ### Checksums (RFC 1071, RFC 1624, RFC 768) -/

/-- The one's complement sum of 16-bit words. -/
def onesSum : List Byte → Nat → Nat
  | a :: b :: rest, acc => onesSum rest (acc + a.toNat * 256 + b.toNat)
  | [a], acc => acc + a.toNat * 256
  | [], acc => acc

/-- A sum folded to 16 bits and complemented. -/
def checksum (bs : List Byte) (start : Nat) : Nat :=
  let x := onesSum bs start
  let x := x % 65536 + x / 65536
  let x := x % 65536 + x / 65536
  65535 - (x % 65536 + x / 65536)

/-- A checksum after the even-aligned bytes `old` became `new`, by RFC 1624. -/
def updateChecksum (c : Nat) (old new : List Byte) : Nat :=
  let inv (bs : List Byte) : List Byte := bs.map fun b => ~~~b
  checksum [] (65535 - c + onesSum (inv old) 0 + onesSum new 0)

/-- The bytes with `new` at offset `o` and, where the frame holds a checksum at `sum`, that checksum repaired; a UDP checksum
is never sent as zero. -/
def repaired (b : List Byte) (sum : Option Nat) (o : Nat) (new : List Byte) : List Byte :=
  match sum with
  | none => patch b o new
  | some k =>
    let c := updateChecksum (field b k 2) ((b.drop o).take new.length) new
    patch (patch b o new) k (toBytes 2 (if c = 0 then 65535 else c))

/-- `l` with position `i` replaced, unchanged beyond its end. -/
def setAt {α : Type} (l : List α) (i : Nat) (v : α) : List α := l.set i v

end Sys2Proof.Machine
end

