-- ==== Sys2Proof/Machine/RegMap.lean ====
section
/-! DEFINITION. The register map: one row for each register of the spec's chapters, with its offset, its reset value
and its fields, each with its access code (R5) and apply point (R415), read from the chapters' register tables. -/
namespace Sys2Proof.Machine

/-- The access codes of Table 0-3. -/
inductive Access where
  | rw | ro | wo | ak
  deriving DecidableEq, Repr

/-- The apply points of Table 14-4. -/
inductive Apply where
  | imm | frm | pkt | cyc | ms | img
  deriving DecidableEq, Repr

/-- The values that a field accepts: any, or a range at whose nearer end a value outside is held, or zero or such. -/
inductive Hold where
  | any
  | range (lo hi : Nat)
  | zeroOr (lo hi : Nat)
  deriving DecidableEq, Repr

/-- One field of a register. -/
structure FieldRow where
  hi : Nat
  lo : Nat
  acc : Access
  app : Apply
  hold : Hold := .any
  deriving DecidableEq, Repr

/-- One register: the BAR0 offset of its first instance, the count and stride of each index, its reset value,
whether it is voted, and its fields. -/
structure RegRow where
  base : Nat
  dims : List (Nat × Nat)
  reset : Word
  voted : Bool
  fields : List FieldRow
  deriving DecidableEq, Repr

/-- A field row without a range. -/
def F (hi lo : Nat) (acc : Access) (app : Apply) (hold : Hold := .any) : FieldRow := ⟨hi, lo, acc, app, hold⟩

/-! ### GLB -/

/-- CHIP_IDENT (14). -/
def Reg.chipIdent : RegRow :=
  ⟨0x0, [], 0xa3e4880, false,
   [F 31 16 .ro .imm, F 15 0 .ro .imm]⟩

/-- CHIP_REV (14). -/
def Reg.chipRev : RegRow :=
  ⟨0x4, [], 0x0, false,
   [F 7 0 .ro .imm]⟩

/-- UNIT_ID_LO (14). -/
def Reg.unitIdLo : RegRow :=
  ⟨0x8, [], 0x0, false,
   [F 31 0 .ro .imm]⟩

/-- UNIT_ID_HI (14). -/
def Reg.unitIdHi : RegRow :=
  ⟨0xc, [], 0x0, false,
   [F 31 0 .ro .imm]⟩

/-- GLB_SCRATCH (14). -/
def Reg.glbScratch : RegRow :=
  ⟨0x10, [], 0x0, false,
   [F 31 0 .rw .imm]⟩

/-- GLB_POP (14). -/
def Reg.glbPop : RegRow :=
  ⟨0x14, [], 0x0, false,
   [F 22 0 .ro .img]⟩

/-- GLB_MS_HOLD (14). -/
def Reg.glbMsHold : RegRow :=
  ⟨0x20, [], 0x0, false,
   [F 1 1 .rw .imm, F 0 0 .rw .imm]⟩

/-- GLB_COND (14). -/
def Reg.glbCond : RegRow :=
  ⟨0x200, [], 0x0, false,
   [F 1 1 .ro .imm, F 0 0 .ro .imm]⟩

/-- GLB_COND_EN (14). -/
def Reg.glbCondEn : RegRow :=
  ⟨0x204, [], 0x0, false,
   [F 31 0 .rw .imm]⟩

/-- GLB_BUSERR_CNT (14). -/
def Reg.glbBuserrCnt : RegRow :=
  ⟨0x210, [], 0x0, false,
   [F 31 0 .ro .imm]⟩

/-- GLB_HOLDEXP_CNT (14). -/
def Reg.glbHoldexpCnt : RegRow :=
  ⟨0x220, [], 0x0, false,
   [F 31 0 .ro .imm]⟩

/-- GLB_BUSERR_ACK (14). -/
def Reg.glbBuserrAck : RegRow :=
  ⟨0x214, [], 0x0, false,
   [F 31 0 .ak .imm]⟩

/-- GLB_HOLDEXP_ACK (14). -/
def Reg.glbHoldexpAck : RegRow :=
  ⟨0x224, [], 0x0, false,
   [F 31 0 .ak .imm]⟩

/-- GLB_BUSERR_LAST (14). -/
def Reg.glbBuserrLast : RegRow :=
  ⟨0x218, [], 0x0, false,
   [F 31 0 .ro .imm]⟩

/-- GLB_BUSERR_INFO (14). -/
def Reg.glbBuserrInfo : RegRow :=
  ⟨0x21c, [], 0x0, false,
   [F 6 6 .ro .imm, F 5 5 .ro .imm, F 4 4 .ro .imm, F 2 0 .ro .imm]⟩

/-- GLB_HOST_CFG (15). -/
def Reg.glbHostCfg : RegRow :=
  ⟨0x300, [], 0x3e8, false,
   [F 16 0 .rw .ms (.range 0 100000)]⟩

/-- GLB_PUNT_SHED (15). -/
def Reg.glbPuntShed : RegRow :=
  ⟨0x304, [], 0x100, false,
   [F 11 0 .rw .imm]⟩

/-- GLB_TDMA_HADDR_LO (15). -/
def Reg.glbTdmaHaddrLo : RegRow :=
  ⟨0x310, [], 0x0, false,
   [F 31 0 .rw .imm]⟩

/-- GLB_TDMA_HADDR_HI (15). -/
def Reg.glbTdmaHaddrHi : RegRow :=
  ⟨0x314, [], 0x0, false,
   [F 31 0 .rw .imm]⟩

/-- GLB_TDMA_WIN (15). -/
def Reg.glbTdmaWin : RegRow :=
  ⟨0x318, [], 0x0, false,
   [F 31 0 .rw .imm]⟩

/-- GLB_TDMA_LEN (15). -/
def Reg.glbTdmaLen : RegRow :=
  ⟨0x31c, [], 0x0, false,
   [F 16 0 .rw .imm]⟩

/-- GLB_TDMA_CTRL (15). -/
def Reg.glbTdmaCtrl : RegRow :=
  ⟨0x320, [], 0x0, false,
   [F 31 31 .wo .imm, F 30 30 .ro .imm, F 29 29 .rw .imm, F 26 24 .ro .imm, F 16 0 .ro .imm]⟩

/-- GLB_WD_CFG (15). -/
def Reg.glbWdCfg : RegRow :=
  ⟨0x340, [(4, 0x4)], 0x64, true,
   [F 13 0 .rw .ms (.range 10 10000)]⟩

/-- GLB_MC_RESTART_CNT (15). -/
def Reg.glbMcRestartCnt : RegRow :=
  ⟨0x350, [], 0x0, false,
   [F 31 0 .ro .imm]⟩

/-- GLB_MC_RESTART_LAST (15). -/
def Reg.glbMcRestartLast : RegRow :=
  ⟨0x354, [], 0x0, false,
   [F 5 4 .ro .imm, F 1 0 .ro .imm]⟩

/-- GLB_READY (16). -/
def Reg.glbReady : RegRow :=
  ⟨0x100, [], 0xf000000, false,
   [F 31 31 .ro .imm, F 30 30 .ro .imm, F 27 24 .ro .imm, F 11 0 .ro .imm]⟩

/-- GLB_READY_INFO (16). -/
def Reg.glbReadyInfo : RegRow :=
  ⟨0x104, [], 0x0, false,
   [F 27 16 .ro .imm, F 11 0 .ro .imm]⟩

/-- GLB_READY_FAIL (16). -/
def Reg.glbReadyFail : RegRow :=
  ⟨0x108, [], 0x0, false,
   [F 31 28 .ro .imm, F 15 0 .ro .imm]⟩

/-- GLB_READY_CFG (16). -/
def Reg.glbReadyCfg : RegRow :=
  ⟨0x10c, [], 0xa053c00, true,
   [F 31 24 .rw .ms, F 23 16 .rw .ms, F 15 8 .rw .ms]⟩

/-- GLB_STRAP (16). -/
def Reg.glbStrap : RegRow :=
  ⟨0x110, [], 0x0, false,
   [F 4 4 .ro .imm, F 3 3 .ro .imm, F 1 0 .ro .imm]⟩

/-- GLB_BOOT_STAT (16). -/
def Reg.glbBootStat : RegRow :=
  ⟨0x114, [], 0x0, false,
   [F 31 31 .ro .imm, F 30 29 .ro .imm, F 25 24 .ro .imm, F 23 16 .ro .imm, F 15 8 .ro .imm]⟩

/-- GLB_RESET_CAUSE (16). -/
def Reg.glbResetCause : RegRow :=
  ⟨0x118, [], 0x0, false,
   [F 4 4 .ro .imm, F 2 0 .ro .imm]⟩

/-- GLB_RESET_CMD (16). -/
def Reg.glbResetCmd : RegRow :=
  ⟨0x11c, [], 0x0, false,
   [F 31 31 .wo .imm, F 15 0 .rw .imm]⟩

/-- GLB_STAGE_MS (16). -/
def Reg.glbStageMs : RegRow :=
  ⟨0x140, [(12, 0x4)], 0x0, false,
   [F 23 0 .ro .imm]⟩

/-- The registers of block GLB. -/
def rowsGLB : List RegRow :=
  [Reg.chipIdent, Reg.chipRev, Reg.unitIdLo, Reg.unitIdHi, Reg.glbScratch, Reg.glbPop, Reg.glbMsHold,
   Reg.glbCond, Reg.glbCondEn, Reg.glbBuserrCnt, Reg.glbHoldexpCnt, Reg.glbBuserrAck, Reg.glbHoldexpAck,
   Reg.glbBuserrLast, Reg.glbBuserrInfo, Reg.glbHostCfg, Reg.glbPuntShed, Reg.glbTdmaHaddrLo,
   Reg.glbTdmaHaddrHi, Reg.glbTdmaWin, Reg.glbTdmaLen, Reg.glbTdmaCtrl, Reg.glbWdCfg, Reg.glbMcRestartCnt,
   Reg.glbMcRestartLast, Reg.glbReady, Reg.glbReadyInfo, Reg.glbReadyFail, Reg.glbReadyCfg, Reg.glbStrap,
   Reg.glbBootStat, Reg.glbResetCause, Reg.glbResetCmd, Reg.glbStageMs]

/-! ### IRQ -/

/-- IRQ_SRC_LEVEL (14). -/
def Reg.irqSrcLevel : RegRow :=
  ⟨0x10100, [(4, 0x4)], 0x0, false,
   [F 31 0 .ro .imm]⟩

/-- IRQ_VEC_LEVEL (14). -/
def Reg.irqVecLevel : RegRow :=
  ⟨0x10110, [(2, 0x4)], 0x0, false,
   [F 31 0 .ro .imm]⟩

/-- IRQ_VEC_REARM (14). -/
def Reg.irqVecRearm : RegRow :=
  ⟨0x10120, [(2, 0x4)], 0x0, false,
   [F 31 0 .wo .imm]⟩

/-- IRQ_PIN_STAT (14). -/
def Reg.irqPinStat : RegRow :=
  ⟨0x10130, [], 0x0, false,
   [F 0 0 .ro .imm]⟩

/-- IRQ_VEC_CFG (14). -/
def Reg.irqVecCfg : RegRow :=
  ⟨0x10200, [(64, 0x4)], 0x0, false,
   [F 15 0 .rw .imm]⟩

/-- IRQ_ROUTE (14). -/
def Reg.irqRoute : RegRow :=
  ⟨0x11000, [(128, 0x4)], 0x0, false,
   [F 31 31 .rw .imm, F 30 30 .rw .imm, F 27 24 .rw .imm, F 5 0 .rw .imm]⟩

/-- The registers of block IRQ. -/
def rowsIRQ : List RegRow :=
  [Reg.irqSrcLevel, Reg.irqVecLevel, Reg.irqVecRearm, Reg.irqPinStat, Reg.irqVecCfg, Reg.irqRoute]

/-! ### FIX -/

/-- FIX_STAT (14). -/
def Reg.fixStat : RegRow :=
  ⟨0x20000, [], 0x0, false,
   [F 13 0 .ro .imm]⟩

/-- FIX_COND (14). -/
def Reg.fixCond : RegRow :=
  ⟨0x20200, [], 0x0, false,
   [F 2 2 .ro .imm, F 1 1 .ro .imm, F 0 0 .ro .imm]⟩

/-- FIX_COND_EN (14). -/
def Reg.fixCondEn : RegRow :=
  ⟨0x20204, [], 0x0, false,
   [F 31 0 .rw .imm]⟩

/-- FIX_FIX_CNT (14). -/
def Reg.fixFixCnt : RegRow :=
  ⟨0x20210, [], 0x0, false,
   [F 31 0 .ro .imm]⟩

/-- FIX_DEGRADE_CNT (14). -/
def Reg.fixDegradeCnt : RegRow :=
  ⟨0x20220, [], 0x0, false,
   [F 31 0 .ro .imm]⟩

/-- FIX_FIX_ACK (14). -/
def Reg.fixFixAck : RegRow :=
  ⟨0x20214, [], 0x0, false,
   [F 31 0 .ak .imm]⟩

/-- FIX_DEGRADE_ACK (14). -/
def Reg.fixDegradeAck : RegRow :=
  ⟨0x20224, [], 0x0, false,
   [F 31 0 .ak .imm]⟩

/-- FIX_FIX_LAST (14). -/
def Reg.fixFixLast : RegRow :=
  ⟨0x20218, [], 0x0, false,
   [F 31 30 .ro .imm, F 29 29 .ro .imm, F 23 0 .ro .imm]⟩

/-- FIX_DEGRADE_LAST (14). -/
def Reg.fixDegradeLast : RegRow :=
  ⟨0x20228, [], 0x0, false,
   [F 31 30 .ro .imm, F 29 29 .ro .imm, F 23 0 .ro .imm]⟩

/-- The registers of block FIX. -/
def rowsFIX : List RegRow :=
  [Reg.fixStat, Reg.fixCond, Reg.fixCondEn, Reg.fixFixCnt, Reg.fixDegradeCnt, Reg.fixFixAck, Reg.fixDegradeAck,
   Reg.fixFixLast, Reg.fixDegradeLast]

/-! ### HPORT -/

/-- HP_CFG (03). -/
def Reg.hpCfg : RegRow :=
  ⟨0x100000, [(48, 0x10000)], 0x318, false,
   [F 10 8 .rw .imm, F 4 4 .rw .imm, F 3 3 .rw .imm, F 2 2 .wo .imm, F 0 0 .rw .imm]⟩

/-- HP_FRAME (03). -/
def Reg.hpFrame : RegRow :=
  ⟨0x100004, [(48, 0x10000)], 0x5f205f2, false,
   [F 29 16 .rw .frm (.range 1518 10240), F 13 0 .rw .frm (.range 1518 10240)]⟩

/-- HP_FLOW (03). -/
def Reg.hpFlow : RegRow :=
  ⟨0x100008, [(48, 0x10000)], 0x0, false,
   [F 31 24 .rw .frm, F 23 16 .rw .frm, F 9 8 .rw .frm, F 5 5 .rw .frm, F 4 4 .rw .frm, F 1 0 .rw .frm]⟩

/-- HP_PAUSE (03). -/
def Reg.hpPause : RegRow :=
  ⟨0x10000c, [(48, 0x10000)], 0xffff8000, false,
   [F 31 16 .rw .frm, F 15 0 .rw .frm]⟩

/-- HP_GF_CTRL (03). -/
def Reg.hpGfCtrl : RegRow :=
  ⟨0x100010, [(48, 0x10000)], 0x2, false,
   [F 1 1 .rw .frm, F 0 0 .rw .frm]⟩

/-- HP_TS_ADJ (03). -/
def Reg.hpTsAdj : RegRow :=
  ⟨0x100020, [(48, 0x10000)], 0x0, false,
   [F 31 16 .rw .ms, F 15 0 .rw .ms]⟩

/-- HP_LINK_STAT (03). -/
def Reg.hpLinkStat : RegRow :=
  ⟨0x100100, [(48, 0x10000)], 0x0, false,
   [F 6 4 .ro .imm, F 3 3 .ro .imm, F 2 2 .ro .imm, F 1 1 .ro .imm, F 0 0 .ro .imm]⟩

/-- HP_COND (03). -/
def Reg.hpCond : RegRow :=
  ⟨0x100110, [(48, 0x10000)], 0x0, false,
   [F 9 9 .ro .imm, F 8 8 .ro .imm, F 7 7 .ro .imm, F 6 6 .ro .imm, F 5 5 .ro .imm, F 3 3 .ro .imm,
    F 2 2 .ro .imm, F 1 1 .ro .imm, F 0 0 .ro .imm]⟩

/-- HP_COND_EN (03). -/
def Reg.hpCondEn : RegRow :=
  ⟨0x100114, [(48, 0x10000)], 0x0, false,
   [F 31 0 .rw .imm]⟩

/-- HP_LINKDOWN_ACK (03). -/
def Reg.hpLinkdownAck : RegRow :=
  ⟨0x100118, [(48, 0x10000)], 0x0, false,
   [F 31 0 .ak .imm]⟩

/-- HP_GF_TABLE (03). -/
def Reg.hpGfTable : RegRow :=
  ⟨0x100300, [(48, 0x10000), (16, 0x4)], 0x0, false,
   [F 31 0 .rw .frm]⟩

/-- HP_MOD_CFG (03). -/
def Reg.hpModCfg : RegRow :=
  ⟨0x100800, [(48, 0x10000)], 0x4006401, false,
   [F 27 24 .rw .imm, F 21 16 .rw .imm, F 15 8 .rw .imm, F 0 0 .rw .imm]⟩

/-- HP_MOD_STAT (03). -/
def Reg.hpModStat : RegRow :=
  ⟨0x100804, [(48, 0x10000)], 0x0, false,
   [F 10 8 .ro .imm, F 5 4 .ro .imm, F 2 0 .ro .imm]⟩

/-- HP_MOD_XFER (03). -/
def Reg.hpModXfer : RegRow :=
  ⟨0x100810, [(48, 0x10000)], 0x0, false,
   [F 31 31 .wo .imm, F 30 30 .rw .imm, F 29 29 .rw .imm, F 28 24 .rw .imm, F 23 16 .rw .imm, F 15 8 .rw .imm,
    F 7 0 .rw .imm]⟩

/-- HP_MOD_XFER_STAT (03). -/
def Reg.hpModXferStat : RegRow :=
  ⟨0x100814, [(48, 0x10000)], 0x0, false,
   [F 3 3 .ro .imm, F 2 0 .ro .imm]⟩

/-- HP_MOD_DATA (03). -/
def Reg.hpModData : RegRow :=
  ⟨0x100840, [(48, 0x10000), (8, 0x4)], 0x0, false,
   [F 31 0 .rw .imm]⟩

/-- The registers of block HPORT. -/
def rowsHPORT : List RegRow :=
  [Reg.hpCfg, Reg.hpFrame, Reg.hpFlow, Reg.hpPause, Reg.hpGfCtrl, Reg.hpTsAdj, Reg.hpLinkStat, Reg.hpCond,
   Reg.hpCondEn, Reg.hpLinkdownAck, Reg.hpGfTable, Reg.hpModCfg, Reg.hpModStat, Reg.hpModXfer,
   Reg.hpModXferStat, Reg.hpModData]

/-! ### CPORT -/

/-- CP_CFG (04). -/
def Reg.cpCfg : RegRow :=
  ⟨0x400000, [(32, 0x10000)], 0x11f68, false,
   [F 19 18 .rw .imm, F 17 16 .rw .imm, F 15 15 .rw .imm, F 14 14 .rw .imm, F 13 13 .rw .imm, F 12 12 .rw .imm,
    F 11 11 .rw .imm, F 10 8 .rw .imm, F 6 6 .rw .imm, F 5 4 .rw .imm, F 3 3 .rw .imm, F 2 2 .wo .imm,
    F 0 0 .rw .imm]⟩

/-- CP_EEE (04). -/
def Reg.cpEee : RegRow :=
  ⟨0x400018, [(32, 0x10000)], 0xc8, false,
   [F 15 0 .rw .imm]⟩

/-- CP_LINK_STAT (04). -/
def Reg.cpLinkStat : RegRow :=
  ⟨0x400100, [(32, 0x10000)], 0x0, false,
   [F 13 13 .ro .imm, F 12 12 .ro .imm, F 11 11 .ro .imm, F 10 10 .ro .imm, F 9 6 .ro .imm, F 5 5 .ro .imm,
    F 4 4 .ro .imm, F 3 3 .ro .imm, F 2 1 .ro .imm, F 0 0 .ro .imm]⟩

/-- CP_COND (04). -/
def Reg.cpCond : RegRow :=
  ⟨0x400110, [(32, 0x10000)], 0x0, false,
   [F 9 9 .ro .imm, F 8 8 .ro .imm, F 6 6 .ro .imm, F 5 5 .ro .imm, F 4 4 .ro .imm, F 3 3 .ro .imm,
    F 2 2 .ro .imm, F 0 0 .ro .imm]⟩

/-- CP_DIAG_CTRL (04). -/
def Reg.cpDiagCtrl : RegRow :=
  ⟨0x400200, [(32, 0x10000)], 0x0, false,
   [F 5 4 .ro .imm, F 3 3 .ro .imm, F 1 1 .rw .imm, F 0 0 .wo .imm]⟩

/-- CP_DIAG_PAIR (04). -/
def Reg.cpDiagPair : RegRow :=
  ⟨0x400210, [(32, 0x10000), (4, 0x4)], 0x0, false,
   [F 10 8 .ro .imm, F 7 0 .ro .imm]⟩

/-- CP_FRAME (04). -/
def Reg.cpFrame : RegRow :=
  ⟨0x400004, [(32, 0x10000)], 0x5f205f2, false,
   [F 29 16 .rw .frm (.range 1518 10240), F 13 0 .rw .frm (.range 1518 10240)]⟩

/-- CP_FLOW (04). -/
def Reg.cpFlow : RegRow :=
  ⟨0x400008, [(32, 0x10000)], 0x0, false,
   [F 31 24 .rw .frm, F 23 16 .rw .frm, F 9 8 .rw .frm, F 5 5 .rw .frm, F 4 4 .rw .frm, F 1 0 .rw .frm]⟩

/-- CP_PAUSE (04). -/
def Reg.cpPause : RegRow :=
  ⟨0x40000c, [(32, 0x10000)], 0xffff8000, false,
   [F 31 16 .rw .frm, F 15 0 .rw .frm]⟩

/-- CP_GF_CTRL (04). -/
def Reg.cpGfCtrl : RegRow :=
  ⟨0x400010, [(32, 0x10000)], 0x2, false,
   [F 1 1 .rw .frm, F 0 0 .rw .frm]⟩

/-- CP_GF_TABLE (04). -/
def Reg.cpGfTable : RegRow :=
  ⟨0x400300, [(32, 0x10000), (16, 0x4)], 0x0, false,
   [F 31 0 .rw .frm]⟩

/-- CP_TS_ADJ (04). -/
def Reg.cpTsAdj : RegRow :=
  ⟨0x400020, [(32, 0x10000)], 0x0, false,
   [F 31 16 .rw .ms, F 15 0 .rw .ms]⟩

/-- CP_COND_EN (04). -/
def Reg.cpCondEn : RegRow :=
  ⟨0x400114, [(32, 0x10000)], 0x0, false,
   [F 31 0 .rw .imm]⟩

/-- CP_LINKDOWN_ACK (04). -/
def Reg.cpLinkdownAck : RegRow :=
  ⟨0x400118, [(32, 0x10000)], 0x0, false,
   [F 31 0 .ak .imm]⟩

/-- The registers of block CPORT. -/
def rowsCPORT : List RegRow :=
  [Reg.cpCfg, Reg.cpEee, Reg.cpLinkStat, Reg.cpCond, Reg.cpDiagCtrl, Reg.cpDiagPair, Reg.cpFrame, Reg.cpFlow,
   Reg.cpPause, Reg.cpGfCtrl, Reg.cpGfTable, Reg.cpTsAdj, Reg.cpCondEn, Reg.cpLinkdownAck]

/-! ### PIPE -/

/-- PIPE_CTRL (05). -/
def Reg.pipeCtrl : RegRow :=
  ⟨0x600000, [(4, 0x100000)], 0x0, false,
   [F 0 0 .rw .ms]⟩

/-- PIPE_STAT (05). -/
def Reg.pipeStat : RegRow :=
  ⟨0x600004, [(4, 0x100000)], 0x0, false,
   [F 0 0 .ro .imm]⟩

/-- PIPE_MIRROR (05). -/
def Reg.pipeMirror : RegRow :=
  ⟨0x600010, [(4, 0x100000), (4, 0x4)], 0x0, false,
   [F 31 31 .rw .frm, F 22 16 .rw .frm, F 13 0 .rw .frm (.zeroOr 64 10240)]⟩

/-- PIPE_PORT_CFG (05). -/
def Reg.pipePortCfg : RegRow :=
  ⟨0x601000, [(4, 0x100000), (96, 0x40)], 0xc3240001, false,
   [F 31 31 .rw .frm, F 30 30 .rw .frm, F 29 29 .rw .frm, F 28 28 .rw .frm, F 27 26 .rw .frm, F 25 24 .rw .frm,
    F 23 22 .rw .frm, F 21 21 .rw .frm, F 20 20 .rw .frm, F 19 18 .rw .frm, F 17 15 .rw .frm, F 11 0 .rw .frm]⟩

/-- PIPE_PCP_MAP (05). -/
def Reg.pipePcpMap : RegRow :=
  ⟨0x601004, [(4, 0x100000), (96, 0x40)], 0xfac681, false,
   [F 23 0 .rw .frm]⟩

/-- PIPE_DSCP_MAP (05). -/
def Reg.pipeDscpMap : RegRow :=
  ⟨0x601008, [(4, 0x100000), (96, 0x40), (8, 0x4)], 0x0, false,
   [F 2 0 .rw .frm, F 6 4 .rw .frm, F 10 8 .rw .frm, F 14 12 .rw .frm, F 18 16 .rw .frm, F 22 20 .rw .frm,
    F 26 24 .rw .frm, F 30 28 .rw .frm]⟩

/-- PIPE_LEARN_LIMIT (05). -/
def Reg.pipeLearnLimit : RegRow :=
  ⟨0x601028, [(4, 0x100000), (96, 0x40)], 0x20000, false,
   [F 17 0 .rw .frm (.range 0 131072)]⟩

/-- PIPE_STORM (05). -/
def Reg.pipeStorm : RegRow :=
  ⟨0x60102c, [(4, 0x100000), (96, 0x40), (3, 0x4)], 0x10000640, false,
   [F 31 24 .rw .frm, F 23 0 .rw .frm]⟩

/-- PIPE_RX_MAP (15). -/
def Reg.pipeRxMap : RegRow :=
  ⟨0x600300, [(4, 0x100000), (4, 0x4)], 0x0, false,
   [F 4 0 .rw .frm, F 12 8 .rw .frm, F 20 16 .rw .frm, F 28 24 .rw .frm]⟩

/-- HOST_RX_BASE_LO (15). -/
def Reg.hostRxBaseLo : RegRow :=
  ⟨0x606400, [(4, 0x100000), (64, 0x20)], 0x0, false,
   [F 31 12 .rw .imm]⟩

/-- HOST_RX_BASE_HI (15). -/
def Reg.hostRxBaseHi : RegRow :=
  ⟨0x606404, [(4, 0x100000), (64, 0x20)], 0x0, false,
   [F 31 0 .rw .imm]⟩

/-- HOST_TX_BASE_LO (15). -/
def Reg.hostTxBaseLo : RegRow :=
  ⟨0x606c00, [(4, 0x100000), (64, 0x20)], 0x0, false,
   [F 31 12 .rw .imm]⟩

/-- HOST_TX_BASE_HI (15). -/
def Reg.hostTxBaseHi : RegRow :=
  ⟨0x606c04, [(4, 0x100000), (64, 0x20)], 0x0, false,
   [F 31 0 .rw .imm]⟩

/-- HOST_RX_CFG (15). -/
def Reg.hostRxCfg : RegRow :=
  ⟨0x606408, [(4, 0x100000), (64, 0x20)], 0x800008, false,
   [F 31 31 .rw .imm, F 26 24 .rw .imm, F 23 20 .rw .imm (.range 6 13), F 6 0 .rw .imm (.range 1 64)]⟩

/-- HOST_TX_CFG (15). -/
def Reg.hostTxCfg : RegRow :=
  ⟨0x606c08, [(4, 0x100000), (64, 0x20)], 0x800008, false,
   [F 31 31 .rw .imm, F 26 24 .rw .imm, F 23 20 .rw .imm (.range 6 13), F 6 0 .rw .imm (.range 1 64)]⟩

/-- HOST_RX_TAIL (15). -/
def Reg.hostRxTail : RegRow :=
  ⟨0x60640c, [(4, 0x100000), (64, 0x20)], 0x0, false,
   [F 15 0 .rw .imm]⟩

/-- HOST_TX_TAIL (15). -/
def Reg.hostTxTail : RegRow :=
  ⟨0x606c0c, [(4, 0x100000), (64, 0x20)], 0x0, false,
   [F 15 0 .rw .imm]⟩

/-- HOST_RX_STAT (15). -/
def Reg.hostRxStat : RegRow :=
  ⟨0x606410, [(4, 0x100000), (64, 0x20)], 0x0, false,
   [F 31 30 .ro .imm, F 26 24 .ro .imm, F 18 16 .ro .imm, F 15 0 .ro .imm]⟩

/-- HOST_TX_STAT (15). -/
def Reg.hostTxStat : RegRow :=
  ⟨0x606c10, [(4, 0x100000), (64, 0x20)], 0x0, false,
   [F 31 30 .ro .imm, F 26 24 .ro .imm, F 18 16 .ro .imm, F 15 0 .ro .imm]⟩

/-- HOST_RX_DONE_CNT (15). -/
def Reg.hostRxDoneCnt : RegRow :=
  ⟨0x606414, [(4, 0x100000), (64, 0x20)], 0x0, false,
   [F 31 0 .ro .imm]⟩

/-- HOST_RX_DONE_ACK (15). -/
def Reg.hostRxDoneAck : RegRow :=
  ⟨0x606418, [(4, 0x100000), (64, 0x20)], 0x0, false,
   [F 31 0 .ak .imm]⟩

/-- HOST_RX_EPOCH_ACK (15). -/
def Reg.hostRxEpochAck : RegRow :=
  ⟨0x60641c, [(4, 0x100000), (64, 0x20)], 0x0, false,
   [F 2 0 .ak .imm]⟩

/-- HOST_TX_DONE_CNT (15). -/
def Reg.hostTxDoneCnt : RegRow :=
  ⟨0x606c14, [(4, 0x100000), (64, 0x20)], 0x0, false,
   [F 31 0 .ro .imm]⟩

/-- HOST_TX_DONE_ACK (15). -/
def Reg.hostTxDoneAck : RegRow :=
  ⟨0x606c18, [(4, 0x100000), (64, 0x20)], 0x0, false,
   [F 31 0 .ak .imm]⟩

/-- HOST_TX_EPOCH_ACK (15). -/
def Reg.hostTxEpochAck : RegRow :=
  ⟨0x606c1c, [(4, 0x100000), (64, 0x20)], 0x0, false,
   [F 2 0 .ak .imm]⟩

/-- PIPE_COND (15). -/
def Reg.pipeCond : RegRow :=
  ⟨0x600200, [(4, 0x100000)], 0x0, false,
   [F 5 5 .ro .imm, F 4 4 .ro .imm, F 3 3 .ro .imm, F 2 2 .ro .imm, F 1 1 .ro .imm, F 0 0 .ro .imm]⟩

/-- PIPE_COND_EN (15). -/
def Reg.pipeCondEn : RegRow :=
  ⟨0x600204, [(4, 0x100000)], 0x0, false,
   [F 31 0 .rw .imm]⟩

/-- HOST_RX_SUM (15). -/
def Reg.hostRxSum : RegRow :=
  ⟨0x600320, [(4, 0x100000), (2, 0x4)], 0x0, false,
   [F 31 0 .ro .imm]⟩

/-- HOST_TX_SUM (15). -/
def Reg.hostTxSum : RegRow :=
  ⟨0x600328, [(4, 0x100000), (2, 0x4)], 0x0, false,
   [F 31 0 .ro .imm]⟩

/-- HOST_HALF_SUM (15). -/
def Reg.hostHalfSum : RegRow :=
  ⟨0x600330, [(4, 0x100000), (4, 0x4)], 0x0, false,
   [F 31 0 .ro .imm]⟩

/-- The registers of block PIPE. -/
def rowsPIPE : List RegRow :=
  [Reg.pipeCtrl, Reg.pipeStat, Reg.pipeMirror, Reg.pipePortCfg, Reg.pipePcpMap, Reg.pipeDscpMap,
   Reg.pipeLearnLimit, Reg.pipeStorm, Reg.pipeRxMap, Reg.hostRxBaseLo, Reg.hostRxBaseHi, Reg.hostTxBaseLo,
   Reg.hostTxBaseHi, Reg.hostRxCfg, Reg.hostTxCfg, Reg.hostRxTail, Reg.hostTxTail, Reg.hostRxStat,
   Reg.hostTxStat, Reg.hostRxDoneCnt, Reg.hostRxDoneAck, Reg.hostRxEpochAck, Reg.hostTxDoneCnt,
   Reg.hostTxDoneAck, Reg.hostTxEpochAck, Reg.pipeCond, Reg.pipeCondEn, Reg.hostRxSum, Reg.hostTxSum,
   Reg.hostHalfSum]

/-! ### FDB -/

/-- FDB_CTRL (05). -/
def Reg.fdbCtrl : RegRow :=
  ⟨0xa00000, [], 0x3, false,
   [F 2 2 .rw .imm, F 1 1 .rw .imm, F 0 0 .rw .imm]⟩

/-- FDB_AGE (05). -/
def Reg.fdbAge : RegRow :=
  ⟨0xa00004, [], 0x64012c, false,
   [F 31 16 .rw .ms (.range 1 6000), F 15 0 .rw .ms (.range 1 32767)]⟩

/-- FDB_MOVE (05). -/
def Reg.fdbMove : RegRow :=
  ⟨0xa00008, [], 0x3e8, false,
   [F 15 0 .rw .ms]⟩

/-- FDB_SNOOP (05). -/
def Reg.fdbSnoop : RegRow :=
  ⟨0xa0000c, [], 0x551, false,
   [F 10 8 .rw .imm, F 6 4 .rw .imm, F 0 0 .rw .imm]⟩

/-- FDB_HASH_SEED (05). -/
def Reg.fdbHashSeed : RegRow :=
  ⟨0xa00010, [(4, 0x4)], 0x0, false,
   [F 31 0 .rw .imm]⟩

/-- FDB_CMD_KEY0 (05). -/
def Reg.fdbCmdKey0 : RegRow :=
  ⟨0xa00040, [], 0x0, false,
   [F 31 0 .rw .imm]⟩

/-- FDB_CMD_KEY1 (05). -/
def Reg.fdbCmdKey1 : RegRow :=
  ⟨0xa00044, [], 0x0, false,
   [F 27 16 .rw .imm, F 15 0 .rw .imm]⟩

/-- FDB_CMD_DATA (05). -/
def Reg.fdbCmdData : RegRow :=
  ⟨0xa00048, [(4, 0x4)], 0x0, false,
   [F 31 0 .rw .imm]⟩

/-- FDB_CMD_CTRL (05). -/
def Reg.fdbCmdCtrl : RegRow :=
  ⟨0xa00058, [], 0x0, false,
   [F 31 31 .wo .imm, F 30 29 .rw .imm, F 25 8 .ro .imm, F 7 7 .ro .imm, F 2 0 .ro .imm]⟩

/-- FDB_FLUSH (05). -/
def Reg.fdbFlush : RegRow :=
  ⟨0xa00060, [], 0x0, false,
   [F 31 31 .wo .imm, F 30 30 .ro .imm, F 29 29 .rw .imm, F 28 28 .rw .imm, F 27 27 .rw .imm, F 26 20 .rw .imm,
    F 19 8 .rw .imm]⟩

/-- FDB_LOCK_HOST (05). -/
def Reg.fdbLockHost : RegRow :=
  ⟨0xa00100, [(2, 0x4)], 0x0, false,
   [F 31 0 .rw .imm]⟩

/-- FDB_LOCK_MC (05). -/
def Reg.fdbLockMc : RegRow :=
  ⟨0xa00108, [(2, 0x4)], 0x0, false,
   [F 31 0 .rw .imm]⟩

/-- FDB_DEFER (05). -/
def Reg.fdbDefer : RegRow :=
  ⟨0xa00110, [], 0x0, false,
   [F 8 0 .ro .imm]⟩

/-- FDB_OCC_DYN (05). -/
def Reg.fdbOccDyn : RegRow :=
  ⟨0xa00120, [], 0x0, false,
   [F 17 0 .ro .imm]⟩

/-- FDB_OCC_STATIC (05). -/
def Reg.fdbOccStatic : RegRow :=
  ⟨0xa00124, [], 0x0, false,
   [F 17 0 .ro .imm]⟩

/-- FDB_OCC_STASH (05). -/
def Reg.fdbOccStash : RegRow :=
  ⟨0xa00128, [], 0x0, false,
   [F 17 0 .ro .imm]⟩

/-- FDB_COND (05). -/
def Reg.fdbCond : RegRow :=
  ⟨0xa00200, [], 0x0, false,
   [F 4 4 .ro .imm, F 3 3 .ro .imm, F 2 2 .ro .imm, F 1 1 .ro .imm, F 0 0 .ro .imm]⟩

/-- FDB_COND_EN (05). -/
def Reg.fdbCondEn : RegRow :=
  ⟨0xa00204, [], 0x0, false,
   [F 31 0 .rw .imm]⟩

/-- FDB_LOCK_EXPIRE_CNT (05). -/
def Reg.fdbLockExpireCnt : RegRow :=
  ⟨0xa00210, [], 0x0, false,
   [F 31 0 .ro .imm]⟩

/-- FDB_LOCK_EXPIRE_ACK (05). -/
def Reg.fdbLockExpireAck : RegRow :=
  ⟨0xa00214, [], 0x0, false,
   [F 31 0 .ak .imm]⟩

/-- FDB_ROUTER_MASK (05). -/
def Reg.fdbRouterMask : RegRow :=
  ⟨0xa00300, [(3, 0x4)], 0x0, false,
   [F 31 0 .rw .imm]⟩

/-- FDB_MDB_EDIT (05). -/
def Reg.fdbMdbEdit : RegRow :=
  ⟨0xa00310, [], 0x0, false,
   [F 31 31 .wo .imm, F 30 30 .ro .imm, F 29 28 .rw .imm, F 27 21 .rw .imm, F 13 0 .rw .imm]⟩

/-- FDB_PORT_CNT (05). -/
def Reg.fdbPortCnt : RegRow :=
  ⟨0xa00400, [(96, 0x4)], 0x0, false,
   [F 17 0 .ro .imm]⟩

/-- The registers of block FDB. -/
def rowsFDB : List RegRow :=
  [Reg.fdbCtrl, Reg.fdbAge, Reg.fdbMove, Reg.fdbSnoop, Reg.fdbHashSeed, Reg.fdbCmdKey0, Reg.fdbCmdKey1,
   Reg.fdbCmdData, Reg.fdbCmdCtrl, Reg.fdbFlush, Reg.fdbLockHost, Reg.fdbLockMc, Reg.fdbDefer, Reg.fdbOccDyn,
   Reg.fdbOccStatic, Reg.fdbOccStash, Reg.fdbCond, Reg.fdbCondEn, Reg.fdbLockExpireCnt, Reg.fdbLockExpireAck,
   Reg.fdbRouterMask, Reg.fdbMdbEdit, Reg.fdbPortCnt]

/-! ### STRM -/

/-- STRM_HASH_SEED (06). -/
def Reg.strmHashSeed : RegRow :=
  ⟨0xb00010, [(2, 0x4)], 0x0, false,
   [F 31 0 .rw .imm]⟩

/-- STRM_IP_PROFILE (06). -/
def Reg.strmIpProfile : RegRow :=
  ⟨0xb00020, [(4, 0x4)], 0xaa, false,
   [F 31 31 .rw .pkt, F 7 0 .rw .pkt]⟩

/-- STRM_LATENT (06). -/
def Reg.strmLatent : RegRow :=
  ⟨0xb00030, [], 0x7d00064, false,
   [F 31 16 .rw .ms (.range 100 65535), F 15 0 .rw .ms]⟩

/-- STRM_NODE (06). -/
def Reg.strmNode : RegRow :=
  ⟨0xb00034, [], 0x190, false,
   [F 15 0 .rw .ms (.range 10 65535)]⟩

/-- STRM_CMD_DATA (06). -/
def Reg.strmCmdData : RegRow :=
  ⟨0xb00040, [(16, 0x4)], 0x0, false,
   [F 31 0 .rw .imm]⟩

/-- STRM_CMD_CTRL (06). -/
def Reg.strmCmdCtrl : RegRow :=
  ⟨0xb00080, [], 0x0, false,
   [F 31 31 .wo .imm, F 30 29 .rw .imm, F 24 8 .ro .imm, F 7 7 .ro .imm, F 2 0 .ro .imm]⟩

/-- STRM_CTX_CMD (06). -/
def Reg.strmCtxCmd : RegRow :=
  ⟨0xb00090, [], 0x0, false,
   [F 31 31 .wo .imm, F 30 30 .ro .imm, F 29 28 .rw .imm, F 15 0 .rw .imm]⟩

/-- STRM_HSR_CFG (06). -/
def Reg.strmHsrCfg : RegRow :=
  ⟨0xb000a0, [(4, 0x4)], 0x0, false,
   [F 31 31 .rw .ms, F 30 30 .rw .ms, F 29 27 .rw .ms]⟩

/-- STRM_PRP_PAIR (06). -/
def Reg.strmPrpPair : RegRow :=
  ⟨0xb000c0, [(8, 0x4)], 0x0, false,
   [F 31 31 .rw .ms, F 22 16 .rw .ms, F 6 0 .rw .ms]⟩

/-- STRM_COND (06). -/
def Reg.strmCond : RegRow :=
  ⟨0xb00200, [], 0x0, false,
   [F 6 6 .ro .imm, F 5 5 .ro .imm, F 4 4 .ro .imm, F 3 3 .ro .imm, F 2 2 .ro .imm, F 1 1 .ro .imm, F 0 0 .ro .imm]⟩

/-- STRM_COND_EN (06). -/
def Reg.strmCondEn : RegRow :=
  ⟨0xb00204, [], 0x0, false,
   [F 31 0 .rw .imm]⟩

/-- STRM_REFUSE_CNT (06). -/
def Reg.strmRefuseCnt : RegRow :=
  ⟨0xb00210, [], 0x0, false,
   [F 31 0 .ro .imm]⟩

/-- STRM_LATENT_CNT (06). -/
def Reg.strmLatentCnt : RegRow :=
  ⟨0xb00220, [], 0x0, false,
   [F 31 0 .ro .imm]⟩

/-- STRM_BLOCK_CNT (06). -/
def Reg.strmBlockCnt : RegRow :=
  ⟨0xb00230, [], 0x0, false,
   [F 31 0 .ro .imm]⟩

/-- STRM_REFUSE_ACK (06). -/
def Reg.strmRefuseAck : RegRow :=
  ⟨0xb00214, [], 0x0, false,
   [F 31 0 .ak .imm]⟩

/-- STRM_LATENT_ACK (06). -/
def Reg.strmLatentAck : RegRow :=
  ⟨0xb00224, [], 0x0, false,
   [F 31 0 .ak .imm]⟩

/-- STRM_BLOCK_ACK (06). -/
def Reg.strmBlockAck : RegRow :=
  ⟨0xb00234, [], 0x0, false,
   [F 31 0 .ak .imm]⟩

/-- STRM_REFUSE_LAST (06). -/
def Reg.strmRefuseLast : RegRow :=
  ⟨0xb00218, [], 0x0, false,
   [F 19 16 .ro .imm, F 15 0 .ro .imm]⟩

/-- STRM_LATENT_LAST (06). -/
def Reg.strmLatentLast : RegRow :=
  ⟨0xb00228, [], 0x0, false,
   [F 19 16 .ro .imm, F 15 0 .ro .imm]⟩

/-- STRM_BLOCK_LAST (06). -/
def Reg.strmBlockLast : RegRow :=
  ⟨0xb00238, [], 0x0, false,
   [F 19 16 .ro .imm, F 15 0 .ro .imm]⟩

/-- STRM_PORT_CFG (06). -/
def Reg.strmPortCfg : RegRow :=
  ⟨0xb01000, [(96, 0x4)], 0x0, false,
   [F 9 8 .rw .frm, F 5 0 .rw .frm]⟩

/-- STRM_HALF_TOP (06). -/
def Reg.strmHalfTop : RegRow :=
  ⟨0xb01f00, [(64, 0x4)], 0x0, false,
   [F 31 0 .ro .imm]⟩

/-- STRM_HALF_SUM (06). -/
def Reg.strmHalfSum : RegRow :=
  ⟨0xb02000, [(2048, 0x4)], 0x0, false,
   [F 31 0 .ro .imm]⟩

/-- The registers of block STRM. -/
def rowsSTRM : List RegRow :=
  [Reg.strmHashSeed, Reg.strmIpProfile, Reg.strmLatent, Reg.strmNode, Reg.strmCmdData, Reg.strmCmdCtrl,
   Reg.strmCtxCmd, Reg.strmHsrCfg, Reg.strmPrpPair, Reg.strmCond, Reg.strmCondEn, Reg.strmRefuseCnt,
   Reg.strmLatentCnt, Reg.strmBlockCnt, Reg.strmRefuseAck, Reg.strmLatentAck, Reg.strmBlockAck,
   Reg.strmRefuseLast, Reg.strmLatentLast, Reg.strmBlockLast, Reg.strmPortCfg, Reg.strmHalfTop, Reg.strmHalfSum]

/-! ### BPM -/

/-- BPM_POOL_FREE (07). -/
def Reg.bpmPoolFree : RegRow :=
  ⟨0xc00000, [(6, 0x4)], 0x0, false,
   [F 19 0 .ro .imm]⟩

/-- BPM_POOL_RES (07). -/
def Reg.bpmPoolRes : RegRow :=
  ⟨0xc00020, [(6, 0x4)], 0x0, true,
   [F 19 0 .rw .ms]⟩

/-- BPM_POOL_RESUSE (07). -/
def Reg.bpmPoolResuse : RegRow :=
  ⟨0xc00040, [(6, 0x4)], 0x0, false,
   [F 19 0 .ro .imm]⟩

/-- BPM_POOL_LOW (07). -/
def Reg.bpmPoolLow : RegRow :=
  ⟨0xc00060, [(6, 0x4)], 0x0, false,
   [F 19 0 .rw .imm]⟩

/-- BPM_COND (07). -/
def Reg.bpmCond : RegRow :=
  ⟨0xc00200, [], 0x0, false,
   [F 8 3 .ro .imm, F 2 2 .ro .imm, F 1 1 .ro .imm, F 0 0 .ro .imm]⟩

/-- BPM_COND_EN (07). -/
def Reg.bpmCondEn : RegRow :=
  ⟨0xc00204, [], 0x0, false,
   [F 31 0 .rw .imm]⟩

/-- BPM_ERR_CNT (07). -/
def Reg.bpmErrCnt : RegRow :=
  ⟨0xc00210, [], 0x0, false,
   [F 31 0 .ro .imm]⟩

/-- BPM_ERR_ACK (07). -/
def Reg.bpmErrAck : RegRow :=
  ⟨0xc00214, [], 0x0, false,
   [F 31 0 .ak .imm]⟩

/-- BPM_ACC_MAX (07). -/
def Reg.bpmAccMax : RegRow :=
  ⟨0xc01000, [(96, 0x20)], 0x8000, false,
   [F 18 0 .rw .ms]⟩

/-- BPM_ACC_WARN_A (07). -/
def Reg.bpmAccWarnA : RegRow :=
  ⟨0xc01004, [(96, 0x20)], 0x800040, false,
   [F 29 16 .rw .ms, F 13 0 .rw .ms]⟩

/-- BPM_ACC_WARN_B (07). -/
def Reg.bpmAccWarnB : RegRow :=
  ⟨0xc01008, [(96, 0x20)], 0x100100, false,
   [F 29 16 .rw .ms, F 13 0 .rw .ms]⟩

/-- BPM_CLS_WARN_A (07). -/
def Reg.bpmClsWarnA : RegRow :=
  ⟨0xc0100c, [(96, 0x20)], 0x400020, false,
   [F 29 16 .rw .ms, F 13 0 .rw .ms]⟩

/-- BPM_CLS_WARN_B (07). -/
def Reg.bpmClsWarnB : RegRow :=
  ⟨0xc01010, [(96, 0x20)], 0x100080, false,
   [F 29 16 .rw .ms, F 13 0 .rw .ms]⟩

/-- BPM_ACC_LEVEL (07). -/
def Reg.bpmAccLevel : RegRow :=
  ⟨0xc01014, [(96, 0x20)], 0x0, false,
   [F 18 0 .ro .imm]⟩

/-- BPM_ACC_STATE (07). -/
def Reg.bpmAccState : RegRow :=
  ⟨0xc01018, [(96, 0x20)], 0x0, false,
   [F 31 16 .ro .imm, F 1 0 .ro .imm]⟩

/-- The registers of block BPM. -/
def rowsBPM : List RegRow :=
  [Reg.bpmPoolFree, Reg.bpmPoolRes, Reg.bpmPoolResuse, Reg.bpmPoolLow, Reg.bpmCond, Reg.bpmCondEn,
   Reg.bpmErrCnt, Reg.bpmErrAck, Reg.bpmAccMax, Reg.bpmAccWarnA, Reg.bpmAccWarnB, Reg.bpmClsWarnA,
   Reg.bpmClsWarnB, Reg.bpmAccLevel, Reg.bpmAccState]

/-! ### SCHED -/

/-- SCHED_VOQ_CFG (08). -/
def Reg.schedVoqCfg : RegRow :=
  ⟨0xd00010, [], 0xc8, false,
   [F 15 0 .rw .imm (.range 10 65535)]⟩

/-- SCHED_Q_CMD (08). -/
def Reg.schedQCmd : RegRow :=
  ⟨0xd00020, [], 0x0, false,
   [F 31 31 .wo .imm, F 30 30 .ro .imm, F 29 28 .rw .imm, F 27 25 .rw .imm, F 24 18 .rw .imm, F 17 0 .rw .imm]⟩

/-- SCHED_COND (08). -/
def Reg.schedCond : RegRow :=
  ⟨0xd00200, [], 0x0, false,
   [F 3 3 .ro .imm, F 2 2 .ro .imm, F 1 1 .ro .imm, F 0 0 .ro .imm]⟩

/-- SCHED_COND_EN (08). -/
def Reg.schedCondEn : RegRow :=
  ⟨0xd00204, [], 0x0, false,
   [F 31 0 .rw .imm]⟩

/-- SCHED_RESYNC_CNT (08). -/
def Reg.schedResyncCnt : RegRow :=
  ⟨0xd00210, [], 0x0, false,
   [F 31 0 .ro .imm]⟩

/-- SCHED_REFUSE_CNT (08). -/
def Reg.schedRefuseCnt : RegRow :=
  ⟨0xd00220, [], 0x0, false,
   [F 31 0 .ro .imm]⟩

/-- SCHED_RESYNC_ACK (08). -/
def Reg.schedResyncAck : RegRow :=
  ⟨0xd00214, [], 0x0, false,
   [F 31 0 .ak .imm]⟩

/-- SCHED_REFUSE_ACK (08). -/
def Reg.schedRefuseAck : RegRow :=
  ⟨0xd00224, [], 0x0, false,
   [F 31 0 .ak .imm]⟩

/-- SCHED_RESYNC_LAST (08). -/
def Reg.schedResyncLast : RegRow :=
  ⟨0xd00218, [], 0x0, false,
   [F 6 0 .ro .imm]⟩

/-- SCHED_REFUSE_LAST (08). -/
def Reg.schedRefuseLast : RegRow :=
  ⟨0xd00228, [], 0x0, false,
   [F 23 20 .ro .imm, F 17 0 .ro .imm]⟩

/-- SCHED_SMP_CFG (08). -/
def Reg.schedSmpCfg : RegRow :=
  ⟨0xd00400, [(16, 0x4)], 0x40000, false,
   [F 31 31 .rw .imm, F 29 18 .rw .imm, F 17 0 .rw .imm]⟩

/-- SCHED_VOQ_ROUTE (08). -/
def Reg.schedVoqRoute : RegRow :=
  ⟨0xd00600, [(128, 0x4)], 0x0, false,
   [F 31 31 .rw .pkt, F 6 0 .rw .pkt]⟩

/-- SCHED_HALF_TOP (08). -/
def Reg.schedHalfTop : RegRow :=
  ⟨0xd00800, [(256, 0x4)], 0x0, false,
   [F 31 0 .ro .imm]⟩

/-- SCHED_PORT_CFG (08). -/
def Reg.schedPortCfg : RegRow :=
  ⟨0xd01000, [(96, 0x80)], 0x801400ff, false,
   [F 31 31 .rw .frm, F 21 16 .rw .frm, F 7 0 .rw .frm]⟩

/-- SCHED_CLS_QUANTUM (08). -/
def Reg.schedClsQuantum : RegRow :=
  ⟨0xd01004, [(96, 0x80), (4, 0x4)], 0x180018, false,
   [F 31 16 .rw .frm, F 15 0 .rw .frm]⟩

/-- SCHED_CBS (08). -/
def Reg.schedCbs : RegRow :=
  ⟨0xd01020, [(96, 0x80), (8, 0x4)], 0x0, false,
   [F 31 31 .rw .frm, F 23 0 .rw .frm]⟩

/-- SCHED_CBS_HI (08). -/
def Reg.schedCbsHi : RegRow :=
  ⟨0xd01040, [(96, 0x80), (8, 0x4)], 0x3000, false,
   [F 19 0 .rw .frm]⟩

/-- SCHED_GATE_CFG (08). -/
def Reg.schedGateCfg : RegRow :=
  ⟨0xd01060, [(80, 0x80)], 0xff0000, false,
   [F 31 31 .wo .imm, F 30 30 .rw .cyc, F 29 28 .rw .cyc, F 23 16 .rw .imm, F 9 0 .rw .cyc]⟩

/-- SCHED_GATE_CYCLE (08). -/
def Reg.schedGateCycle : RegRow :=
  ⟨0xd01064, [(80, 0x80)], 0xf4240, false,
   [F 29 0 .rw .cyc (.range 1000 1000000000)]⟩

/-- SCHED_GATE_BASE_NS (08). -/
def Reg.schedGateBaseNs : RegRow :=
  ⟨0xd01068, [(80, 0x80)], 0x0, false,
   [F 29 0 .rw .cyc (.range 0 999999999)]⟩

/-- SCHED_GATE_BASE_S_LO (08). -/
def Reg.schedGateBaseSLo : RegRow :=
  ⟨0xd0106c, [(80, 0x80)], 0x0, false,
   [F 31 0 .rw .cyc]⟩

/-- SCHED_GATE_BASE_S_HI (08). -/
def Reg.schedGateBaseSHi : RegRow :=
  ⟨0xd01070, [(80, 0x80)], 0x0, false,
   [F 15 0 .rw .cyc]⟩

/-- SCHED_GATE_STAT (08). -/
def Reg.schedGateStat : RegRow :=
  ⟨0xd01074, [(80, 0x80)], 0x0, false,
   [F 31 31 .ro .imm, F 30 30 .ro .imm, F 29 29 .ro .imm, F 9 0 .ro .imm]⟩

/-- The registers of block SCHED. -/
def rowsSCHED : List RegRow :=
  [Reg.schedVoqCfg, Reg.schedQCmd, Reg.schedCond, Reg.schedCondEn, Reg.schedResyncCnt, Reg.schedRefuseCnt,
   Reg.schedResyncAck, Reg.schedRefuseAck, Reg.schedResyncLast, Reg.schedRefuseLast, Reg.schedSmpCfg,
   Reg.schedVoqRoute, Reg.schedHalfTop, Reg.schedPortCfg, Reg.schedClsQuantum, Reg.schedCbs, Reg.schedCbsHi,
   Reg.schedGateCfg, Reg.schedGateCycle, Reg.schedGateBaseNs, Reg.schedGateBaseSLo, Reg.schedGateBaseSHi,
   Reg.schedGateStat]

/-! ### TIME -/

/-- TIME_REF (09). -/
def Reg.timeRef : RegRow :=
  ⟨0xe00000, [], 0x0, false,
   [F 31 31 .ro .imm, F 1 1 .rw .ms, F 0 0 .rw .ms]⟩

/-- TIME_CAPTURE (09). -/
def Reg.timeCapture : RegRow :=
  ⟨0xe00010, [], 0x0, false,
   [F 0 0 .wo .imm]⟩

/-- TIME_CAP_S_LO (09). -/
def Reg.timeCapSLo : RegRow :=
  ⟨0xe00020, [(5, 0x10)], 0x0, false,
   [F 31 0 .ro .imm]⟩

/-- TIME_CAP_S_HI (09). -/
def Reg.timeCapSHi : RegRow :=
  ⟨0xe00024, [(5, 0x10)], 0x0, false,
   [F 15 0 .ro .imm]⟩

/-- TIME_CAP_NS (09). -/
def Reg.timeCapNs : RegRow :=
  ⟨0xe00028, [(5, 0x10)], 0x0, false,
   [F 29 0 .ro .imm]⟩

/-- TIME_CAP_FRAC (09). -/
def Reg.timeCapFrac : RegRow :=
  ⟨0xe0002c, [(5, 0x10)], 0x0, false,
   [F 15 0 .ro .imm]⟩

/-- TIME_DEVCYC (09). -/
def Reg.timeDevcyc : RegRow :=
  ⟨0xe00080, [], 0x0, false,
   [F 31 31 .ro .imm, F 30 0 .ro .imm]⟩

/-- TIME_MAC_BASE_LO (09). -/
def Reg.timeMacBaseLo : RegRow :=
  ⟨0xe00090, [], 0x0, false,
   [F 31 0 .rw .ms]⟩

/-- TIME_MAC_BASE_HI (09). -/
def Reg.timeMacBaseHi : RegRow :=
  ⟨0xe00094, [], 0x0, false,
   [F 15 0 .rw .ms]⟩

/-- TIME_IPV4_SRC (09). -/
def Reg.timeIpv4Src : RegRow :=
  ⟨0xe00098, [], 0x0, false,
   [F 31 0 .rw .ms]⟩

/-- TIME_IPV6_SRC (09). -/
def Reg.timeIpv6Src : RegRow :=
  ⟨0xe000a0, [(4, 0x4)], 0x0, false,
   [F 31 0 .rw .ms]⟩

/-- TIME_DOMAIN_MAP (09). -/
def Reg.timeDomainMap : RegRow :=
  ⟨0xe000c0, [(8, 0x4)], 0x0, false,
   [F 31 31 .rw .ms, F 25 24 .rw .ms, F 7 0 .rw .ms]⟩

/-- TIME_PUNT (09). -/
def Reg.timePunt : RegRow :=
  ⟨0xe000e0, [], 0x6, false,
   [F 2 0 .rw .imm]⟩

/-- TIME_COND (09). -/
def Reg.timeCond : RegRow :=
  ⟨0xe00200, [], 0x0, false,
   [F 11 8 .ro .imm, F 7 7 .ro .imm, F 6 6 .ro .imm, F 5 4 .ro .imm, F 3 3 .ro .imm, F 2 2 .ro .imm,
    F 1 1 .ro .imm, F 0 0 .ro .imm]⟩

/-- TIME_COND_EN (09). -/
def Reg.timeCondEn : RegRow :=
  ⟨0xe00204, [], 0x0, false,
   [F 31 0 .rw .imm]⟩

/-- TIME_REPHASE_CNT (09). -/
def Reg.timeRephaseCnt : RegRow :=
  ⟨0xe00210, [], 0x0, false,
   [F 31 0 .ro .imm]⟩

/-- TIME_REFUSE_CNT (09). -/
def Reg.timeRefuseCnt : RegRow :=
  ⟨0xe00220, [], 0x0, false,
   [F 31 0 .ro .imm]⟩

/-- TIME_REALIGN_CNT (09). -/
def Reg.timeRealignCnt : RegRow :=
  ⟨0xe00230, [], 0x0, false,
   [F 31 0 .ro .imm]⟩

/-- TIME_REPHASE_ACK (09). -/
def Reg.timeRephaseAck : RegRow :=
  ⟨0xe00214, [], 0x0, false,
   [F 31 0 .ak .imm]⟩

/-- TIME_REFUSE_ACK (09). -/
def Reg.timeRefuseAck : RegRow :=
  ⟨0xe00224, [], 0x0, false,
   [F 31 0 .ak .imm]⟩

/-- TIME_REALIGN_ACK (09). -/
def Reg.timeRealignAck : RegRow :=
  ⟨0xe00234, [], 0x0, false,
   [F 31 0 .ak .imm]⟩

/-- TIME_REFUSE_LAST (09). -/
def Reg.timeRefuseLast : RegRow :=
  ⟨0xe00228, [], 0x0, false,
   [F 19 16 .ro .imm, F 8 0 .ro .imm]⟩

/-- TIME_CTX_HALF (09). -/
def Reg.timeCtxHalf : RegRow :=
  ⟨0xe00300, [(10, 0x4)], 0x0, false,
   [F 31 0 .ro .imm]⟩

/-- TIME_PPSOUT_CFG (09). -/
def Reg.timePpsoutCfg : RegRow :=
  ⟨0xe00400, [(4, 0x10)], 0x64, false,
   [F 31 31 .rw .ms, F 29 28 .rw .ms, F 23 0 .rw .ms (.range 1 500000)]⟩

/-- TIME_PPSOUT_OFS (09). -/
def Reg.timePpsoutOfs : RegRow :=
  ⟨0xe00404, [(4, 0x10)], 0x0, false,
   [F 31 0 .rw .ms]⟩

/-- TIME_CLK10_CFG (09). -/
def Reg.timeClk10Cfg : RegRow :=
  ⟨0xe00440, [], 0x0, false,
   [F 31 31 .rw .ms, F 29 28 .rw .ms, F 6 0 .rw .ms (.range 0 99)]⟩

/-- TIME_WCLK_CFG (09). -/
def Reg.timeWclkCfg : RegRow :=
  ⟨0xe00480, [(4, 0x10)], 0x2, false,
   [F 31 31 .rw .ms, F 30 30 .rw .ms, F 29 28 .rw .ms, F 2 0 .rw .ms]⟩

/-- TIME_WCLK_OFS (09). -/
def Reg.timeWclkOfs : RegRow :=
  ⟨0xe00484, [(4, 0x10)], 0x0, false,
   [F 31 0 .rw .ms]⟩

/-- TIME_PPSIN_CFG (09). -/
def Reg.timePpsinCfg : RegRow :=
  ⟨0xe004c0, [(2, 0x20)], 0x0, false,
   [F 31 31 .rw .ms, F 30 30 .rw .ms, F 29 28 .rw .ms, F 15 0 .rw .ms]⟩

/-- TIME_PPSIN_LEVEL (09). -/
def Reg.timePpsinLevel : RegRow :=
  ⟨0xe004c4, [(2, 0x20)], 0x0, false,
   [F 4 0 .ro .imm]⟩

/-- TIME_PPSIN_S_LO (09). -/
def Reg.timePpsinSLo : RegRow :=
  ⟨0xe004c8, [(2, 0x20)], 0x0, false,
   [F 31 0 .ro .imm]⟩

/-- TIME_PPSIN_S_HI (09). -/
def Reg.timePpsinSHi : RegRow :=
  ⟨0xe004cc, [(2, 0x20)], 0x0, false,
   [F 15 0 .ro .imm]⟩

/-- TIME_PPSIN_NS (09). -/
def Reg.timePpsinNs : RegRow :=
  ⟨0xe004d0, [(2, 0x20)], 0x0, false,
   [F 29 0 .ro .imm]⟩

/-- TIME_PPSIN_POP (09). -/
def Reg.timePpsinPop : RegRow :=
  ⟨0xe004d4, [(2, 0x20)], 0x0, false,
   [F 0 0 .wo .imm]⟩

/-- TIME_PORT_TC (09). -/
def Reg.timePortTc : RegRow :=
  ⟨0xe00800, [(80, 0x4)], 0x1, false,
   [F 1 0 .rw .frm]⟩

/-- TIME_TB_CFG (09). -/
def Reg.timeTbCfg : RegRow :=
  ⟨0xe01000, [(4, 0x100)], 0x80000bb8, true,
   [F 31 31 .rw .ms, F 30 28 .rw .ms, F 22 16 .rw .ms, F 15 0 .rw .ms (.range 10 65535)]⟩

/-- TIME_TB_KP (09). -/
def Reg.timeTbKp : RegRow :=
  ⟨0xe01004, [(4, 0x100)], 0x8000, true,
   [F 23 0 .rw .ms]⟩

/-- TIME_TB_KI (09). -/
def Reg.timeTbKi : RegRow :=
  ⟨0xe01008, [(4, 0x100)], 0xcccd, true,
   [F 23 0 .rw .ms]⟩

/-- TIME_TB_STEP (09). -/
def Reg.timeTbStep : RegRow :=
  ⟨0xe0100c, [(4, 0x100)], 0x3e8, true,
   [F 29 0 .rw .ms (.range 100 1000000000)]⟩

/-- TIME_TB_LOCK (09). -/
def Reg.timeTbLock : RegRow :=
  ⟨0xe01010, [(4, 0x100)], 0x10000064, false,
   [F 31 24 .rw .ms, F 19 0 .rw .ms (.range 1 1000000)]⟩

/-- TIME_TB_UNLOCK (09). -/
def Reg.timeTbUnlock : RegRow :=
  ⟨0xe01014, [(4, 0x100)], 0x3e8, false,
   [F 19 0 .rw .ms]⟩

/-- TIME_TB_STAT (09). -/
def Reg.timeTbStat : RegRow :=
  ⟨0xe01020, [(4, 0x100)], 0x0, false,
   [F 31 30 .ro .imm, F 29 27 .ro .imm, F 26 26 .ro .imm, F 15 8 .ro .imm, F 7 0 .ro .imm]⟩

/-- TIME_TB_FREQ (09). -/
def Reg.timeTbFreq : RegRow :=
  ⟨0xe01024, [(4, 0x100)], 0x0, false,
   [F 31 0 .ro .imm]⟩

/-- TIME_TB_OFFSET_LO (09). -/
def Reg.timeTbOffsetLo : RegRow :=
  ⟨0xe01028, [(4, 0x100)], 0x0, false,
   [F 31 0 .ro .imm]⟩

/-- TIME_TB_OFFSET_HI (09). -/
def Reg.timeTbOffsetHi : RegRow :=
  ⟨0xe0102c, [(4, 0x100)], 0x0, false,
   [F 15 0 .ro .imm]⟩

/-- TIME_TB_ADJ (09). -/
def Reg.timeTbAdj : RegRow :=
  ⟨0xe01030, [(4, 0x100)], 0x0, false,
   [F 31 0 .rw .imm]⟩

/-- TIME_TB_SET_S_LO (09). -/
def Reg.timeTbSetSLo : RegRow :=
  ⟨0xe01034, [(4, 0x100)], 0x0, false,
   [F 31 0 .rw .imm]⟩

/-- TIME_TB_SET_S_HI (09). -/
def Reg.timeTbSetSHi : RegRow :=
  ⟨0xe01038, [(4, 0x100)], 0x0, false,
   [F 15 0 .rw .imm]⟩

/-- TIME_TB_SET_NS (09). -/
def Reg.timeTbSetNs : RegRow :=
  ⟨0xe0103c, [(4, 0x100)], 0x0, false,
   [F 29 0 .rw .imm]⟩

/-- TIME_TB_CMD (09). -/
def Reg.timeTbCmd : RegRow :=
  ⟨0xe01040, [(4, 0x100)], 0x0, false,
   [F 31 31 .wo .imm, F 30 30 .ro .imm, F 1 0 .rw .imm]⟩

/-- TIME_TB_SW_OFFSET_LO (09). -/
def Reg.timeTbSwOffsetLo : RegRow :=
  ⟨0xe01044, [(4, 0x100)], 0x0, false,
   [F 31 0 .rw .imm]⟩

/-- TIME_TB_SW_OFFSET_HI (09). -/
def Reg.timeTbSwOffsetHi : RegRow :=
  ⟨0xe01048, [(4, 0x100)], 0x0, false,
   [F 15 0 .rw .imm]⟩

/-- TIME_TB_CLOCK_ID_LO (09). -/
def Reg.timeTbClockIdLo : RegRow :=
  ⟨0xe01050, [(4, 0x100)], 0x0, false,
   [F 31 0 .rw .ms]⟩

/-- TIME_TB_CLOCK_ID_HI (09). -/
def Reg.timeTbClockIdHi : RegRow :=
  ⟨0xe01054, [(4, 0x100)], 0x0, false,
   [F 31 0 .rw .ms]⟩

/-- TIME_TB_EVENT_CNT (09). -/
def Reg.timeTbEventCnt : RegRow :=
  ⟨0xe01060, [(4, 0x100)], 0x0, false,
   [F 31 0 .ro .imm]⟩

/-- TIME_TB_EVENT_ACK (09). -/
def Reg.timeTbEventAck : RegRow :=
  ⟨0xe01064, [(4, 0x100)], 0x0, false,
   [F 31 0 .ak .imm]⟩

/-- The registers of block TIME. -/
def rowsTIME : List RegRow :=
  [Reg.timeRef, Reg.timeCapture, Reg.timeCapSLo, Reg.timeCapSHi, Reg.timeCapNs, Reg.timeCapFrac,
   Reg.timeDevcyc, Reg.timeMacBaseLo, Reg.timeMacBaseHi, Reg.timeIpv4Src, Reg.timeIpv6Src, Reg.timeDomainMap,
   Reg.timePunt, Reg.timeCond, Reg.timeCondEn, Reg.timeRephaseCnt, Reg.timeRefuseCnt, Reg.timeRealignCnt,
   Reg.timeRephaseAck, Reg.timeRefuseAck, Reg.timeRealignAck, Reg.timeRefuseLast, Reg.timeCtxHalf,
   Reg.timePpsoutCfg, Reg.timePpsoutOfs, Reg.timeClk10Cfg, Reg.timeWclkCfg, Reg.timeWclkOfs, Reg.timePpsinCfg,
   Reg.timePpsinLevel, Reg.timePpsinSLo, Reg.timePpsinSHi, Reg.timePpsinNs, Reg.timePpsinPop, Reg.timePortTc,
   Reg.timeTbCfg, Reg.timeTbKp, Reg.timeTbKi, Reg.timeTbStep, Reg.timeTbLock, Reg.timeTbUnlock, Reg.timeTbStat,
   Reg.timeTbFreq, Reg.timeTbOffsetLo, Reg.timeTbOffsetHi, Reg.timeTbAdj, Reg.timeTbSetSLo, Reg.timeTbSetSHi,
   Reg.timeTbSetNs, Reg.timeTbCmd, Reg.timeTbSwOffsetLo, Reg.timeTbSwOffsetHi, Reg.timeTbClockIdLo,
   Reg.timeTbClockIdHi, Reg.timeTbEventCnt, Reg.timeTbEventAck]

/-! ### ACC -/

/-- ACC_CTRL (10). -/
def Reg.accCtrl : RegRow :=
  ⟨0xe40000, [], 0x104, true,
   [F 8 8 .rw .ms, F 7 0 .rw .ms (.range 2 100)]⟩

/-- ACC_CLUSTER_CFG (10). -/
def Reg.accClusterCfg : RegRow :=
  ⟨0xe40010, [(8, 0x4)], 0x0, false,
   [F 0 0 .rw .ms]⟩

/-- ACC_CLUSTER_STAT (10). -/
def Reg.accClusterStat : RegRow :=
  ⟨0xe40030, [(8, 0x4)], 0x0, false,
   [F 31 30 .ro .imm, F 9 0 .ro .imm]⟩

/-- ACC_JOB_CMD (10). -/
def Reg.accJobCmd : RegRow :=
  ⟨0xe40100, [], 0x0, false,
   [F 31 31 .wo .imm, F 30 30 .ro .imm, F 29 28 .rw .imm, F 27 27 .rw .imm, F 26 24 .ro .imm, F 9 0 .rw .imm]⟩

/-- ACC_JOB_AT_S_LO (10). -/
def Reg.accJobAtSLo : RegRow :=
  ⟨0xe40104, [], 0x0, false,
   [F 31 0 .rw .imm]⟩

/-- ACC_JOB_AT_S_HI (10). -/
def Reg.accJobAtSHi : RegRow :=
  ⟨0xe40108, [], 0x0, false,
   [F 15 0 .rw .imm]⟩

/-- ACC_JOB_AT_NS (10). -/
def Reg.accJobAtNs : RegRow :=
  ⟨0xe4010c, [], 0x0, false,
   [F 29 0 .rw .imm]⟩

/-- ACC_JOB_APPLY_LO (10). -/
def Reg.accJobApplyLo : RegRow :=
  ⟨0xe40110, [], 0x0, false,
   [F 31 0 .ro .imm]⟩

/-- ACC_JOB_APPLY_HI (10). -/
def Reg.accJobApplyHi : RegRow :=
  ⟨0xe40114, [], 0x0, false,
   [F 23 0 .ro .imm]⟩

/-- ACC_COND (10). -/
def Reg.accCond : RegRow :=
  ⟨0xe40200, [], 0x0, false,
   [F 8 8 .ro .imm, F 7 7 .ro .imm, F 6 6 .ro .imm, F 5 5 .ro .imm, F 4 4 .ro .imm, F 3 3 .ro .imm,
    F 2 2 .ro .imm, F 0 0 .ro .imm]⟩

/-- ACC_COND_EN (10). -/
def Reg.accCondEn : RegRow :=
  ⟨0xe40204, [], 0x0, false,
   [F 31 0 .rw .imm]⟩

/-- ACC_REFUSE_CNT (10). -/
def Reg.accRefuseCnt : RegRow :=
  ⟨0xe40210, [], 0x0, false,
   [F 31 0 .ro .imm]⟩

/-- ACC_FAULT_CNT (10). -/
def Reg.accFaultCnt : RegRow :=
  ⟨0xe40220, [], 0x0, false,
   [F 31 0 .ro .imm]⟩

/-- ACC_STEP_CNT (10). -/
def Reg.accStepCnt : RegRow :=
  ⟨0xe40230, [], 0x0, false,
   [F 31 0 .ro .imm]⟩

/-- ACC_EDITLATE_CNT (10). -/
def Reg.accEditlateCnt : RegRow :=
  ⟨0xe40240, [], 0x0, false,
   [F 31 0 .ro .imm]⟩

/-- ACC_MIGMIS_CNT (10). -/
def Reg.accMigmisCnt : RegRow :=
  ⟨0xe40250, [], 0x0, false,
   [F 31 0 .ro .imm]⟩

/-- ACC_REFUSE_ACK (10). -/
def Reg.accRefuseAck : RegRow :=
  ⟨0xe40214, [], 0x0, false,
   [F 31 0 .ak .imm]⟩

/-- ACC_FAULT_ACK (10). -/
def Reg.accFaultAck : RegRow :=
  ⟨0xe40224, [], 0x0, false,
   [F 31 0 .ak .imm]⟩

/-- ACC_STEP_ACK (10). -/
def Reg.accStepAck : RegRow :=
  ⟨0xe40234, [], 0x0, false,
   [F 31 0 .ak .imm]⟩

/-- ACC_EDITLATE_ACK (10). -/
def Reg.accEditlateAck : RegRow :=
  ⟨0xe40244, [], 0x0, false,
   [F 31 0 .ak .imm]⟩

/-- ACC_MIGMIS_ACK (10). -/
def Reg.accMigmisAck : RegRow :=
  ⟨0xe40254, [], 0x0, false,
   [F 31 0 .ak .imm]⟩

/-- ACC_REFUSE_LAST (10). -/
def Reg.accRefuseLast : RegRow :=
  ⟨0xe40218, [], 0x0, false,
   [F 19 16 .ro .imm, F 9 0 .ro .imm]⟩

/-- ACC_FAULT_LAST (10). -/
def Reg.accFaultLast : RegRow :=
  ⟨0xe40228, [], 0x0, false,
   [F 19 16 .ro .imm, F 9 0 .ro .imm]⟩

/-- ACC_STEP_LAST (10). -/
def Reg.accStepLast : RegRow :=
  ⟨0xe40238, [], 0x0, false,
   [F 19 16 .ro .imm, F 9 0 .ro .imm]⟩

/-- ACC_EDITLATE_LAST (10). -/
def Reg.accEditlateLast : RegRow :=
  ⟨0xe40248, [], 0x0, false,
   [F 19 16 .ro .imm, F 9 0 .ro .imm]⟩

/-- ACC_MIGMIS_LAST (10). -/
def Reg.accMigmisLast : RegRow :=
  ⟨0xe40258, [], 0x0, false,
   [F 19 16 .ro .imm, F 9 0 .ro .imm]⟩

/-- ACC_PERF_SEL (10). -/
def Reg.accPerfSel : RegRow :=
  ⟨0xe42000, [(64, 0x20), (6, 0x4)], 0x0, false,
   [F 7 0 .rw .ms]⟩

/-- ACC_SUB_HALF (10). -/
def Reg.accSubHalf : RegRow :=
  ⟨0xe43000, [(128, 0x4)], 0x0, false,
   [F 31 0 .ro .imm]⟩

/-- ACC_OUT_HALF (10). -/
def Reg.accOutHalf : RegRow :=
  ⟨0xe43200, [(64, 0x4)], 0x0, false,
   [F 31 0 .ro .imm]⟩

/-- ACC_JOB_HALF (10). -/
def Reg.accJobHalf : RegRow :=
  ⟨0xe43300, [(32, 0x4)], 0x0, false,
   [F 31 0 .ro .imm]⟩

/-- ACC_PERF_HALF (10). -/
def Reg.accPerfHalf : RegRow :=
  ⟨0xe45200, [(2, 0x4)], 0x0, false,
   [F 31 0 .ro .imm]⟩

/-- The registers of block ACC. -/
def rowsACC : List RegRow :=
  [Reg.accCtrl, Reg.accClusterCfg, Reg.accClusterStat, Reg.accJobCmd, Reg.accJobAtSLo, Reg.accJobAtSHi,
   Reg.accJobAtNs, Reg.accJobApplyLo, Reg.accJobApplyHi, Reg.accCond, Reg.accCondEn, Reg.accRefuseCnt,
   Reg.accFaultCnt, Reg.accStepCnt, Reg.accEditlateCnt, Reg.accMigmisCnt, Reg.accRefuseAck, Reg.accFaultAck,
   Reg.accStepAck, Reg.accEditlateAck, Reg.accMigmisAck, Reg.accRefuseLast, Reg.accFaultLast, Reg.accStepLast,
   Reg.accEditlateLast, Reg.accMigmisLast, Reg.accPerfSel, Reg.accSubHalf, Reg.accOutHalf, Reg.accJobHalf,
   Reg.accPerfHalf]

/-! ### PLACE -/

/-- PLACE_CLASS_MODE (11). -/
def Reg.placeClassMode : RegRow :=
  ⟨0xe80000, [], 0x2aa, true,
   [F 9 8 .rw .ms, F 7 6 .rw .ms, F 5 4 .rw .ms, F 3 2 .rw .ms, F 1 0 .rw .ms]⟩

/-- PLACE_ENGINE_ENV (11). -/
def Reg.placeEngineEnv : RegRow :=
  ⟨0xe80004, [], 0x6402bc, true,
   [F 31 31 .rw .ms, F 25 16 .rw .ms (.range 1 1000), F 9 0 .rw .ms (.range 100 950)]⟩

/-- PLACE_MOVE_LIMIT (11). -/
def Reg.placeMoveLimit : RegRow :=
  ⟨0xe80008, [], 0x4, true,
   [F 6 0 .rw .ms (.range 0 64)]⟩

/-- PLACE_BANK_ENV (11). -/
def Reg.placeBankEnv : RegRow :=
  ⟨0xe8000c, [], 0x2bc, false,
   [F 9 0 .rw .ms (.range 100 950)]⟩

/-- PLACE_ENGINE_FORBID (11). -/
def Reg.placeEngineForbid : RegRow :=
  ⟨0xe80010, [(2, 0x4)], 0x0, false,
   [F 31 0 .rw .ms]⟩

/-- PLACE_BANK_FORBID (11). -/
def Reg.placeBankForbid : RegRow :=
  ⟨0xe80018, [], 0x0, false,
   [F 15 0 .rw .ms]⟩

/-- PLACE_Q_CMD (11). -/
def Reg.placeQCmd : RegRow :=
  ⟨0xe80020, [], 0x0, false,
   [F 31 31 .wo .imm, F 30 30 .ro .imm, F 29 27 .ro .imm, F 9 7 .rw .imm, F 6 0 .rw .imm]⟩

/-- PLACE_Q_RESULT (11). -/
def Reg.placeQResult : RegRow :=
  ⟨0xe80024, [], 0x0, false,
   [F 17 0 .ro .imm]⟩

/-- PLACE_COND (11). -/
def Reg.placeCond : RegRow :=
  ⟨0xe80200, [], 0x0, false,
   [F 2 2 .ro .imm, F 1 1 .ro .imm, F 0 0 .ro .imm]⟩

/-- PLACE_COND_EN (11). -/
def Reg.placeCondEn : RegRow :=
  ⟨0xe80204, [], 0x0, false,
   [F 31 0 .rw .imm]⟩

/-- PLACE_JNL_CNT (11). -/
def Reg.placeJnlCnt : RegRow :=
  ⟨0xe80210, [], 0x0, false,
   [F 31 0 .ro .imm]⟩

/-- PLACE_NOROOM_CNT (11). -/
def Reg.placeNoroomCnt : RegRow :=
  ⟨0xe80220, [], 0x0, false,
   [F 31 0 .ro .imm]⟩

/-- PLACE_JNL_ACK (11). -/
def Reg.placeJnlAck : RegRow :=
  ⟨0xe80214, [], 0x0, false,
   [F 31 0 .ak .imm]⟩

/-- PLACE_NOROOM_ACK (11). -/
def Reg.placeNoroomAck : RegRow :=
  ⟨0xe80224, [], 0x0, false,
   [F 31 0 .ak .imm]⟩

/-- PLACE_NOROOM_LAST (11). -/
def Reg.placeNoroomLast : RegRow :=
  ⟨0xe80228, [], 0x0, false,
   [F 31 29 .ro .imm, F 17 0 .ro .imm]⟩

/-- The registers of block PLACE. -/
def rowsPLACE : List RegRow :=
  [Reg.placeClassMode, Reg.placeEngineEnv, Reg.placeMoveLimit, Reg.placeBankEnv, Reg.placeEngineForbid,
   Reg.placeBankForbid, Reg.placeQCmd, Reg.placeQResult, Reg.placeCond, Reg.placeCondEn, Reg.placeJnlCnt,
   Reg.placeNoroomCnt, Reg.placeJnlAck, Reg.placeNoroomAck, Reg.placeNoroomLast]

/-! ### IZL -/

/-- IZL_HIER_CFG (12). -/
def Reg.izlHierCfg : RegRow :=
  ⟨0xec0000, [], 0x0, true,
   [F 1 0 .rw .ms]⟩

/-- IZL_HIER_STAT (12). -/
def Reg.izlHierStat : RegRow :=
  ⟨0xec0004, [], 0xff0ff, false,
   [F 31 29 .ro .imm, F 19 16 .ro .imm, F 15 12 .ro .imm, F 7 0 .ro .imm]⟩

/-- IZL_HIER_CMD (12). -/
def Reg.izlHierCmd : RegRow :=
  ⟨0xec0008, [], 0x0, false,
   [F 31 31 .wo .imm, F 30 30 .ro .imm, F 29 28 .rw .imm, F 27 25 .ro .imm, F 6 0 .rw .imm]⟩

/-- IZL_FC (12). -/
def Reg.izlFc : RegRow :=
  ⟨0xec000c, [], 0x32, false,
   [F 15 0 .rw .imm (.range 10 1000)]⟩

/-- IZL_FC_LEVEL (12). -/
def Reg.izlFcLevel : RegRow :=
  ⟨0xec0010, [], 0x400020, false,
   [F 31 16 .rw .imm, F 15 0 .rw .imm]⟩

/-- IZL_COND (12). -/
def Reg.izlCond : RegRow :=
  ⟨0xec0200, [], 0x0, false,
   [F 31 16 .ro .imm, F 8 8 .ro .imm, F 7 7 .ro .imm, F 6 6 .ro .imm, F 5 5 .ro .imm, F 4 4 .ro .imm,
    F 3 3 .ro .imm, F 2 2 .ro .imm, F 0 0 .ro .imm]⟩

/-- IZL_COND_EN (12). -/
def Reg.izlCondEn : RegRow :=
  ⟨0xec0204, [], 0x0, false,
   [F 31 0 .rw .imm]⟩

/-- IZL_HIER_EVT_CNT (12). -/
def Reg.izlHierEvtCnt : RegRow :=
  ⟨0xec0210, [], 0x0, false,
   [F 31 0 .ro .imm]⟩

/-- IZL_PM_ROLL_CNT (12). -/
def Reg.izlPmRollCnt : RegRow :=
  ⟨0xec0220, [], 0x0, false,
   [F 31 0 .ro .imm]⟩

/-- IZL_HIER_EVT_ACK (12). -/
def Reg.izlHierEvtAck : RegRow :=
  ⟨0xec0214, [], 0x0, false,
   [F 31 0 .ak .imm]⟩

/-- IZL_PM_ROLL_ACK (12). -/
def Reg.izlPmRollAck : RegRow :=
  ⟨0xec0224, [], 0x0, false,
   [F 31 0 .ak .imm]⟩

/-- IZL_HIER_EVT_LAST (12). -/
def Reg.izlHierEvtLast : RegRow :=
  ⟨0xec0218, [], 0x0, false,
   [F 31 28 .ro .imm, F 6 0 .ro .imm]⟩

/-- IZL_GRP_CFG (12). -/
def Reg.izlGrpCfg : RegRow :=
  ⟨0xec1000, [(16, 0x100)], 0x21020200, false,
   [F 31 31 .rw .ms, F 30 30 .rw .ms, F 29 29 .rw .ms, F 28 28 .rw .ms, F 27 24 .rw .ms, F 23 16 .rw .ms,
    F 15 8 .rw .ms]⟩

/-- IZL_GRP_SHED (12). -/
def Reg.izlGrpShed : RegRow :=
  ⟨0xec1004, [(16, 0x100)], 0x9612c3e8, false,
   [F 31 22 .rw .ms, F 21 12 .rw .ms, F 11 0 .rw .ms]⟩

/-- IZL_GRP_ASYM (12). -/
def Reg.izlGrpAsym : RegRow :=
  ⟨0xec1008, [(16, 0x100)], 0x0, false,
   [F 15 0 .rw .ms]⟩

/-- IZL_GRP_STAT (12). -/
def Reg.izlGrpStat : RegRow :=
  ⟨0xec1010, [(16, 0x100)], 0x0, false,
   [F 31 31 .ro .imm, F 30 29 .ro .imm, F 28 28 .ro .imm, F 27 27 .ro .imm, F 26 26 .ro .imm, F 25 23 .ro .imm,
    F 22 18 .ro .imm, F 17 13 .ro .imm, F 12 8 .ro .imm, F 7 0 .ro .imm]⟩

/-- IZL_GRP_MASK (12). -/
def Reg.izlGrpMask : RegRow :=
  ⟨0xec1014, [(16, 0x100)], 0x0, false,
   [F 31 16 .ro .imm, F 15 0 .ro .imm]⟩

/-- IZL_GRP_DELAY (12). -/
def Reg.izlGrpDelay : RegRow :=
  ⟨0xec1018, [(16, 0x100)], 0x0, false,
   [F 31 0 .ro .imm]⟩

/-- IZL_GRP_UTIL (12). -/
def Reg.izlGrpUtil : RegRow :=
  ⟨0xec101c, [(16, 0x100)], 0x0, false,
   [F 9 0 .ro .imm]⟩

/-- IZL_LANE_STAT (12). -/
def Reg.izlLaneStat : RegRow :=
  ⟨0xec4000, [(48, 0x10)], 0x0, false,
   [F 31 30 .ro .imm, F 29 29 .ro .imm, F 28 28 .ro .imm, F 27 24 .ro .imm, F 23 16 .ro .imm, F 7 0 .ro .imm]⟩

/-- IZL_LANE_DELAY (12). -/
def Reg.izlLaneDelay : RegRow :=
  ⟨0xec4004, [(48, 0x10)], 0x0, false,
   [F 31 0 .ro .imm]⟩

/-- The registers of block IZL. -/
def rowsIZL : List RegRow :=
  [Reg.izlHierCfg, Reg.izlHierStat, Reg.izlHierCmd, Reg.izlFc, Reg.izlFcLevel, Reg.izlCond, Reg.izlCondEn,
   Reg.izlHierEvtCnt, Reg.izlPmRollCnt, Reg.izlHierEvtAck, Reg.izlPmRollAck, Reg.izlHierEvtLast, Reg.izlGrpCfg,
   Reg.izlGrpShed, Reg.izlGrpAsym, Reg.izlGrpStat, Reg.izlGrpMask, Reg.izlGrpDelay, Reg.izlGrpUtil,
   Reg.izlLaneStat, Reg.izlLaneDelay]

/-! ### TWIN -/

/-- TWIN_CFG (13). -/
def Reg.twinCfg : RegRow :=
  ⟨0xf00000, [], 0x8003c, true,
   [F 31 31 .rw .ms, F 30 30 .rw .ms, F 29 23 .rw .ms, F 22 17 .rw .ms (.range 2 63),
    F 16 0 .rw .ms (.range 10 86400)]⟩

/-- TWIN_CLASS_MODE (13). -/
def Reg.twinClassMode : RegRow :=
  ⟨0xf00004, [], 0x15555, true,
   [F 21 0 .rw .ms]⟩

/-- TWIN_STAT (13). -/
def Reg.twinStat : RegRow :=
  ⟨0xf00010, [], 0x0, false,
   [F 31 29 .ro .imm, F 28 28 .ro .imm, F 27 27 .ro .imm, F 26 24 .ro .imm, F 23 20 .ro .imm, F 19 19 .ro .imm,
    F 10 0 .ro .imm]⟩

/-- TWIN_COMMIT (13). -/
def Reg.twinCommit : RegRow :=
  ⟨0xf00014, [], 0x0, false,
   [F 30 0 .ro .imm]⟩

/-- TWIN_WTR_LEFT (13). -/
def Reg.twinWtrLeft : RegRow :=
  ⟨0xf00018, [], 0x0, false,
   [F 16 0 .ro .imm]⟩

/-- TWIN_CMD (13). -/
def Reg.twinCmd : RegRow :=
  ⟨0xf00030, [], 0x0, false,
   [F 31 31 .wo .imm, F 30 30 .ro .imm, F 29 28 .rw .imm, F 27 25 .ro .imm, F 3 0 .rw .imm]⟩

/-- TWIN_NBR (13). -/
def Reg.twinNbr : RegRow :=
  ⟨0xf00100, [(16, 0x4)], 0x0, false,
   [F 31 31 .rw .ms, F 13 7 .rw .ms, F 6 0 .rw .ms]⟩

/-- TWIN_COND (13). -/
def Reg.twinCond : RegRow :=
  ⟨0xf00200, [], 0x0, false,
   [F 5 5 .ro .imm, F 4 4 .ro .imm, F 3 3 .ro .imm, F 2 2 .ro .imm, F 1 1 .ro .imm, F 0 0 .ro .imm]⟩

/-- TWIN_COND_EN (13). -/
def Reg.twinCondEn : RegRow :=
  ⟨0xf00204, [], 0x0, false,
   [F 31 0 .rw .imm]⟩

/-- TWIN_ROLE_CNT (13). -/
def Reg.twinRoleCnt : RegRow :=
  ⟨0xf00210, [], 0x0, false,
   [F 31 0 .ro .imm]⟩

/-- TWIN_RING_CNT (13). -/
def Reg.twinRingCnt : RegRow :=
  ⟨0xf00220, [], 0x0, false,
   [F 31 0 .ro .imm]⟩

/-- TWIN_ROLE_ACK (13). -/
def Reg.twinRoleAck : RegRow :=
  ⟨0xf00214, [], 0x0, false,
   [F 31 0 .ak .imm]⟩

/-- TWIN_RING_ACK (13). -/
def Reg.twinRingAck : RegRow :=
  ⟨0xf00224, [], 0x0, false,
   [F 31 0 .ak .imm]⟩

/-- TWIN_ROLE_LAST (13). -/
def Reg.twinRoleLast : RegRow :=
  ⟨0xf00218, [], 0x0, false,
   [F 19 16 .ro .imm, F 2 0 .ro .imm]⟩

/-- TWIN_RING_LAST (13). -/
def Reg.twinRingLast : RegRow :=
  ⟨0xf00228, [], 0x0, false,
   [F 19 16 .ro .imm, F 2 0 .ro .imm]⟩

/-- TWIN_RING_CTRL (13). -/
def Reg.twinRingCtrl : RegRow :=
  ⟨0xf00400, [(4, 0x10)], 0x140000, true,
   [F 31 31 .wo .imm, F 27 16 .rw .imm (.range 1 100), F 2 2 .rw .imm, F 1 1 .rw .imm]⟩

/-- TWIN_RING_STAT (13). -/
def Reg.twinRingStat : RegRow :=
  ⟨0xf00404, [(4, 0x10)], 0x0, false,
   [F 31 29 .ro .imm, F 28 28 .ro .imm]⟩

/-- The registers of block TWIN. -/
def rowsTWIN : List RegRow :=
  [Reg.twinCfg, Reg.twinClassMode, Reg.twinStat, Reg.twinCommit, Reg.twinWtrLeft, Reg.twinCmd, Reg.twinNbr,
   Reg.twinCond, Reg.twinCondEn, Reg.twinRoleCnt, Reg.twinRingCnt, Reg.twinRoleAck, Reg.twinRingAck,
   Reg.twinRoleLast, Reg.twinRingLast, Reg.twinRingCtrl, Reg.twinRingStat]

/-! ### IMG -/

/-- IMG_SI_RUN (02). -/
def Reg.imgSiRun : RegRow :=
  ⟨0xf40400, [], 0x0, false,
   [F 31 24 .ro .imm, F 23 16 .ro .imm, F 15 0 .ro .imm]⟩

/-- IMG_SI_LINEAGE (02). -/
def Reg.imgSiLineage : RegRow :=
  ⟨0xf40404, [], 0x0, false,
   [F 31 0 .ro .imm]⟩

/-- IMG_SI_REPL_CTRL (02). -/
def Reg.imgSiReplCtrl : RegRow :=
  ⟨0xf40410, [], 0x0, false,
   [F 3 3 .wo .imm, F 2 2 .wo .imm, F 1 1 .wo .imm, F 0 0 .wo .imm]⟩

/-- IMG_SI_REPL_LEAD (02). -/
def Reg.imgSiReplLead : RegRow :=
  ⟨0xf40414, [], 0x8, true,
   [F 9 0 .rw .imm (.range 2 1000)]⟩

/-- IMG_SI_REPL_STAT (02). -/
def Reg.imgSiReplStat : RegRow :=
  ⟨0xf40418, [], 0x0, false,
   [F 15 8 .ro .imm, F 3 0 .ro .imm]⟩

/-- IMG_SI_REFUSE_CNT (02). -/
def Reg.imgSiRefuseCnt : RegRow :=
  ⟨0xf40420, [], 0x0, false,
   [F 31 0 .ro .imm]⟩

/-- IMG_SI_REFUSE_ACK (02). -/
def Reg.imgSiRefuseAck : RegRow :=
  ⟨0xf40424, [], 0x0, false,
   [F 31 0 .ak .imm]⟩

/-- IMG_UPD_AUTH (17). -/
def Reg.imgUpdAuth : RegRow :=
  ⟨0xf40000, [], 0x0, true,
   [F 1 0 .rw .imm]⟩

/-- IMG_BUNDLE_RUN (17). -/
def Reg.imgBundleRun : RegRow :=
  ⟨0xf40004, [], 0x0, false,
   [F 31 0 .ro .imm]⟩

/-- IMG_SEC (17). -/
def Reg.imgSec : RegRow :=
  ⟨0xf40008, [], 0x0, false,
   [F 23 16 .ro .imm, F 15 8 .ro .imm, F 0 0 .ro .imm]⟩

/-- IMG_BANK_STAT (17). -/
def Reg.imgBankStat : RegRow :=
  ⟨0xf4000c, [], 0x0, false,
   [F 9 9 .ro .imm, F 8 8 .ro .imm, F 7 4 .ro .imm, F 3 0 .ro .imm]⟩

/-- IMG_BANK_VER (17). -/
def Reg.imgBankVer : RegRow :=
  ⟨0xf40010, [(2, 0x4)], 0x0, false,
   [F 31 0 .ro .imm]⟩

/-- IMG_STAGE_CMD (17). -/
def Reg.imgStageCmd : RegRow :=
  ⟨0xf40020, [], 0x0, false,
   [F 31 31 .wo .imm, F 30 30 .ro .imm, F 29 27 .rw .imm, F 26 26 .rw .imm, F 19 16 .ro .imm]⟩

/-- IMG_STAGE_HADDR_LO (17). -/
def Reg.imgStageHaddrLo : RegRow :=
  ⟨0xf40024, [], 0x0, false,
   [F 31 0 .rw .imm]⟩

/-- IMG_STAGE_HADDR_HI (17). -/
def Reg.imgStageHaddrHi : RegRow :=
  ⟨0xf40028, [], 0x0, false,
   [F 31 0 .rw .imm]⟩

/-- IMG_STAGE_OFS (17). -/
def Reg.imgStageOfs : RegRow :=
  ⟨0xf4002c, [], 0x0, false,
   [F 31 0 .rw .imm]⟩

/-- IMG_STAGE_LEN (17). -/
def Reg.imgStageLen : RegRow :=
  ⟨0xf40030, [], 0x0, false,
   [F 31 0 .rw .imm]⟩

/-- IMG_STAGE_STAT (17). -/
def Reg.imgStageStat : RegRow :=
  ⟨0xf40034, [], 0x0, false,
   [F 31 29 .ro .imm, F 28 27 .ro .imm, F 26 26 .ro .imm, F 23 16 .ro .imm, F 9 0 .ro .imm]⟩

/-- IMG_STAGE_HOLDER (17). -/
def Reg.imgStageHolder : RegRow :=
  ⟨0xf40038, [], 0x7f, false,
   [F 31 30 .ro .imm, F 6 0 .ro .imm]⟩

/-- IMG_STAGE_UID_LO (17). -/
def Reg.imgStageUidLo : RegRow :=
  ⟨0xf4003c, [], 0x0, false,
   [F 31 0 .ro .imm]⟩

/-- IMG_STAGE_UID_HI (17). -/
def Reg.imgStageUidHi : RegRow :=
  ⟨0xf40040, [], 0x0, false,
   [F 31 0 .ro .imm]⟩

/-- IMG_UPD_CFG (17). -/
def Reg.imgUpdCfg : RegRow :=
  ⟨0xf40048, [], 0x12c003c, true,
   [F 31 16 .rw .ms (.range 10 65535), F 15 0 .rw .ms (.range 1 3600)]⟩

/-- IMG_UPD_CMD (17). -/
def Reg.imgUpdCmd : RegRow :=
  ⟨0xf40050, [], 0x0, false,
   [F 31 31 .wo .imm, F 30 30 .ro .imm, F 29 27 .rw .imm, F 26 24 .ro .imm]⟩

/-- IMG_UPD_STAT (17). -/
def Reg.imgUpdStat : RegRow :=
  ⟨0xf40054, [], 0x0, false,
   [F 31 28 .ro .imm, F 23 16 .ro .imm, F 15 8 .ro .imm]⟩

/-- IMG_HIER_CMD (17). -/
def Reg.imgHierCmd : RegRow :=
  ⟨0xf40060, [], 0x0, false,
   [F 31 31 .wo .imm, F 30 30 .ro .imm, F 29 28 .rw .imm, F 27 26 .rw .imm, F 25 25 .rw .imm, F 24 21 .ro .imm,
    F 20 14 .ro .imm, F 6 0 .rw .imm]⟩

/-- IMG_COND (17). -/
def Reg.imgCond : RegRow :=
  ⟨0xf40200, [], 0x0, false,
   [F 4 4 .ro .imm, F 3 3 .ro .imm, F 2 2 .ro .imm, F 1 1 .ro .imm]⟩

/-- IMG_COND_EN (17). -/
def Reg.imgCondEn : RegRow :=
  ⟨0xf40204, [], 0x0, false,
   [F 31 0 .rw .imm]⟩

/-- IMG_UPD_EVT_CNT (17). -/
def Reg.imgUpdEvtCnt : RegRow :=
  ⟨0xf40210, [], 0x0, false,
   [F 31 0 .ro .imm]⟩

/-- IMG_BUSY_CNT (17). -/
def Reg.imgBusyCnt : RegRow :=
  ⟨0xf40220, [], 0x0, false,
   [F 31 0 .ro .imm]⟩

/-- IMG_UPD_EVT_ACK (17). -/
def Reg.imgUpdEvtAck : RegRow :=
  ⟨0xf40214, [], 0x0, false,
   [F 31 0 .ak .imm]⟩

/-- IMG_BUSY_ACK (17). -/
def Reg.imgBusyAck : RegRow :=
  ⟨0xf40224, [], 0x0, false,
   [F 31 0 .ak .imm]⟩

/-- IMG_UPD_EVT_LAST (17). -/
def Reg.imgUpdEvtLast : RegRow :=
  ⟨0xf40218, [], 0x0, false,
   [F 19 16 .ro .imm, F 6 0 .ro .imm]⟩

/-- IMG_UPD_REPORT (17). -/
def Reg.imgUpdReport : RegRow :=
  ⟨0xf41000, [], 0x0, false,
   [F 7 0 .ro .imm]⟩

/-- The registers of block IMG. -/
def rowsIMG : List RegRow :=
  [Reg.imgSiRun, Reg.imgSiLineage, Reg.imgSiReplCtrl, Reg.imgSiReplLead, Reg.imgSiReplStat, Reg.imgSiRefuseCnt,
   Reg.imgSiRefuseAck, Reg.imgUpdAuth, Reg.imgBundleRun, Reg.imgSec, Reg.imgBankStat, Reg.imgBankVer,
   Reg.imgStageCmd, Reg.imgStageHaddrLo, Reg.imgStageHaddrHi, Reg.imgStageOfs, Reg.imgStageLen,
   Reg.imgStageStat, Reg.imgStageHolder, Reg.imgStageUidLo, Reg.imgStageUidHi, Reg.imgUpdCfg, Reg.imgUpdCmd,
   Reg.imgUpdStat, Reg.imgHierCmd, Reg.imgCond, Reg.imgCondEn, Reg.imgUpdEvtCnt, Reg.imgBusyCnt,
   Reg.imgUpdEvtAck, Reg.imgBusyAck, Reg.imgUpdEvtLast, Reg.imgUpdReport]

/-! ### MAINT -/

/-- MAINT_CFG (18). -/
def Reg.maintCfg : RegRow :=
  ⟨0xf80000, [], 0x258a180a, true,
   [F 31 20 .rw .ms, F 19 16 .rw .ms, F 15 8 .rw .ms, F 7 0 .rw .ms]⟩

/-- MAINT_ACTIVE (18). -/
def Reg.maintActive : RegRow :=
  ⟨0xf80010, [], 0x0, false,
   [F 13 0 .ro .imm]⟩

/-- MAINT_WAIT (18). -/
def Reg.maintWait : RegRow :=
  ⟨0xf80014, [], 0x0, false,
   [F 13 0 .ro .imm]⟩

/-- MAINT_BALL (18). -/
def Reg.maintBall : RegRow :=
  ⟨0xf80400, [(64, 0x4)], 0x0, false,
   [F 31 28 .rw .imm, F 8 8 .ro .imm, F 1 1 .rw .imm, F 0 0 .rw .imm]⟩

/-- MAINT_COND (18). -/
def Reg.maintCond : RegRow :=
  ⟨0xf80200, [], 0x0, false,
   [F 3 3 .ro .imm, F 2 2 .ro .imm, F 1 1 .ro .imm, F 0 0 .ro .imm]⟩

/-- MAINT_COND_EN (18). -/
def Reg.maintCondEn : RegRow :=
  ⟨0xf80204, [], 0x0, false,
   [F 31 0 .rw .imm]⟩

/-- MAINT_CLAIM_CNT (18). -/
def Reg.maintClaimCnt : RegRow :=
  ⟨0xf80210, [], 0x0, false,
   [F 31 0 .ro .imm]⟩

/-- MAINT_COMP_CNT (18). -/
def Reg.maintCompCnt : RegRow :=
  ⟨0xf80220, [], 0x0, false,
   [F 31 0 .ro .imm]⟩

/-- MAINT_CLAIM_ACK (18). -/
def Reg.maintClaimAck : RegRow :=
  ⟨0xf80214, [], 0x0, false,
   [F 31 0 .ak .imm]⟩

/-- MAINT_COMP_ACK (18). -/
def Reg.maintCompAck : RegRow :=
  ⟨0xf80224, [], 0x0, false,
   [F 31 0 .ak .imm]⟩

/-- MAINT_CLAIM_LAST (18). -/
def Reg.maintClaimLast : RegRow :=
  ⟨0xf80218, [], 0x0, false,
   [F 31 28 .ro .imm, F 27 25 .ro .imm, F 24 24 .ro .imm, F 5 0 .ro .imm]⟩

/-- MAINT_COMP_LAST (18). -/
def Reg.maintCompLast : RegRow :=
  ⟨0xf80228, [], 0x0, false,
   [F 7 6 .ro .imm, F 5 0 .ro .imm]⟩

/-- The registers of block MAINT. -/
def rowsMAINT : List RegRow :=
  [Reg.maintCfg, Reg.maintActive, Reg.maintWait, Reg.maintBall, Reg.maintCond, Reg.maintCondEn,
   Reg.maintClaimCnt, Reg.maintCompCnt, Reg.maintClaimAck, Reg.maintCompAck, Reg.maintClaimLast,
   Reg.maintCompLast]

/-! ### OBS -/

/-- OBS_TRACE_CFG (19). -/
def Reg.obsTraceCfg : RegRow :=
  ⟨0xfc0000, [], 0x0, false,
   [F 31 31 .rw .ms, F 15 0 .rw .ms]⟩

/-- OBS_TRACE_DST_LO (19). -/
def Reg.obsTraceDstLo : RegRow :=
  ⟨0xfc0004, [], 0x0, false,
   [F 31 0 .rw .ms]⟩

/-- OBS_TRACE_DST_HI (19). -/
def Reg.obsTraceDstHi : RegRow :=
  ⟨0xfc0008, [], 0x0, false,
   [F 15 0 .rw .ms]⟩

/-- OBS_SNAP_CFG (19). -/
def Reg.obsSnapCfg : RegRow :=
  ⟨0xfc000c, [], 0x3e80fff, false,
   [F 31 16 .rw .ms, F 11 0 .rw .ms]⟩

/-- OBS_REC_CFG (19). -/
def Reg.obsRecCfg : RegRow :=
  ⟨0xfc0020, [], 0xe4064014, true,
   [F 31 31 .rw .ms, F 30 24 .rw .ms (.range 1 100), F 23 12 .rw .ms (.range 10 1000),
    F 11 0 .rw .ms (.range 0 1000)]⟩

/-- OBS_REC_CTRL (19). -/
def Reg.obsRecCtrl : RegRow :=
  ⟨0xfc0024, [], 0x0, false,
   [F 3 3 .wo .imm, F 2 2 .wo .imm, F 1 1 .wo .imm, F 0 0 .wo .imm]⟩

/-- OBS_REC_STAT (19). -/
def Reg.obsRecStat : RegRow :=
  ⟨0xfc0028, [], 0x0, false,
   [F 31 29 .ro .imm, F 28 26 .ro .imm, F 25 24 .ro .imm, F 23 8 .ro .imm, F 6 0 .ro .imm]⟩

/-- OBS_CAP_LEN (19). -/
def Reg.obsCapLen : RegRow :=
  ⟨0xfc002c, [], 0x0, false,
   [F 15 0 .ro .imm]⟩

/-- OBS_DIGEST_MASK (19). -/
def Reg.obsDigestMask : RegRow :=
  ⟨0xfc0030, [(3, 0x4)], 0xffffffff, false,
   [F 31 0 .rw .ms]⟩

/-- OBS_EXP_HADDR_LO (19). -/
def Reg.obsExpHaddrLo : RegRow :=
  ⟨0xfc0060, [], 0x0, false,
   [F 31 0 .rw .imm]⟩

/-- OBS_EXP_HADDR_HI (19). -/
def Reg.obsExpHaddrHi : RegRow :=
  ⟨0xfc0064, [], 0x0, false,
   [F 31 0 .rw .imm]⟩

/-- OBS_EXP_OFS (19). -/
def Reg.obsExpOfs : RegRow :=
  ⟨0xfc0068, [], 0x0, false,
   [F 31 0 .rw .imm]⟩

/-- OBS_EXP_LEN (19). -/
def Reg.obsExpLen : RegRow :=
  ⟨0xfc006c, [], 0x0, false,
   [F 31 0 .rw .imm]⟩

/-- OBS_EXP_CTRL (19). -/
def Reg.obsExpCtrl : RegRow :=
  ⟨0xfc0070, [], 0x0, false,
   [F 31 31 .wo .imm, F 30 30 .ro .imm, F 29 29 .rw .imm, F 26 24 .ro .imm]⟩

/-- OBS_RERUN_CTRL (19). -/
def Reg.obsRerunCtrl : RegRow :=
  ⟨0xfc0080, [], 0x0, false,
   [F 31 31 .wo .imm, F 30 30 .wo .imm, F 29 29 .rw .imm, F 25 24 .rw .imm, F 15 0 .rw .imm]⟩

/-- OBS_RERUN_STAT (19). -/
def Reg.obsRerunStat : RegRow :=
  ⟨0xfc0084, [], 0x0, false,
   [F 31 29 .ro .imm, F 28 24 .ro .imm]⟩

/-- OBS_RERUN_EPOCH (19). -/
def Reg.obsRerunEpoch : RegRow :=
  ⟨0xfc0088, [], 0x0, false,
   [F 31 0 .ro .imm]⟩

/-- OBS_DIV_EPOCH (19). -/
def Reg.obsDivEpoch : RegRow :=
  ⟨0xfc0094, [], 0x0, false,
   [F 31 0 .ro .imm]⟩

/-- OBS_DIV_INFO (19). -/
def Reg.obsDivInfo : RegRow :=
  ⟨0xfc0090, [], 0x0, false,
   [F 31 28 .ro .imm, F 6 0 .ro .imm]⟩

/-- OBS_DIV_REC_LO (19). -/
def Reg.obsDivRecLo : RegRow :=
  ⟨0xfc0098, [], 0x0, false,
   [F 31 0 .ro .imm]⟩

/-- OBS_DIV_REC_HI (19). -/
def Reg.obsDivRecHi : RegRow :=
  ⟨0xfc009c, [], 0x0, false,
   [F 31 0 .ro .imm]⟩

/-- OBS_DIV_RUN_LO (19). -/
def Reg.obsDivRunLo : RegRow :=
  ⟨0xfc00a0, [], 0x0, false,
   [F 31 0 .ro .imm]⟩

/-- OBS_DIV_RUN_HI (19). -/
def Reg.obsDivRunHi : RegRow :=
  ⟨0xfc00a4, [], 0x0, false,
   [F 31 0 .ro .imm]⟩

/-- OBS_SEL_A (19). -/
def Reg.obsSelA : RegRow :=
  ⟨0xfc0100, [(16, 0x8)], 0x0, false,
   [F 31 31 .rw .ms, F 30 29 .rw .ms, F 28 26 .rw .ms, F 15 0 .rw .ms]⟩

/-- OBS_SEL_B (19). -/
def Reg.obsSelB : RegRow :=
  ⟨0xfc0104, [(16, 0x8)], 0x0, false,
   [F 13 0 .rw .ms (.zeroOr 64 10240)]⟩

/-- OBS_TRIG_CFG (19). -/
def Reg.obsTrigCfg : RegRow :=
  ⟨0xfc0180, [(4, 0x10)], 0x0, false,
   [F 31 31 .rw .imm, F 30 29 .rw .imm, F 28 23 .rw .imm, F 15 0 .rw .imm]⟩

/-- OBS_TRIG_VAL (19). -/
def Reg.obsTrigVal : RegRow :=
  ⟨0xfc0184, [(4, 0x10)], 0x0, false,
   [F 31 0 .rw .imm]⟩

/-- OBS_TRIG_MASK (19). -/
def Reg.obsTrigMask : RegRow :=
  ⟨0xfc0188, [(4, 0x10)], 0x0, false,
   [F 31 0 .rw .imm]⟩

/-- OBS_COND (19). -/
def Reg.obsCond : RegRow :=
  ⟨0xfc0200, [], 0x0, false,
   [F 4 4 .ro .imm, F 3 3 .ro .imm, F 2 2 .ro .imm, F 1 1 .ro .imm, F 0 0 .ro .imm]⟩

/-- OBS_COND_EN (19). -/
def Reg.obsCondEn : RegRow :=
  ⟨0xfc0204, [], 0x0, false,
   [F 31 0 .rw .imm]⟩

/-- OBS_TRIG_CNT (19). -/
def Reg.obsTrigCnt : RegRow :=
  ⟨0xfc0210, [], 0x0, false,
   [F 31 0 .ro .imm]⟩

/-- OBS_TRIG_ACK (19). -/
def Reg.obsTrigAck : RegRow :=
  ⟨0xfc0214, [], 0x0, false,
   [F 31 0 .ak .imm]⟩

/-- The registers of block OBS. -/
def rowsOBS : List RegRow :=
  [Reg.obsTraceCfg, Reg.obsTraceDstLo, Reg.obsTraceDstHi, Reg.obsSnapCfg, Reg.obsRecCfg, Reg.obsRecCtrl,
   Reg.obsRecStat, Reg.obsCapLen, Reg.obsDigestMask, Reg.obsExpHaddrLo, Reg.obsExpHaddrHi, Reg.obsExpOfs,
   Reg.obsExpLen, Reg.obsExpCtrl, Reg.obsRerunCtrl, Reg.obsRerunStat, Reg.obsRerunEpoch, Reg.obsDivEpoch,
   Reg.obsDivInfo, Reg.obsDivRecLo, Reg.obsDivRecHi, Reg.obsDivRunLo, Reg.obsDivRunHi, Reg.obsSelA,
   Reg.obsSelB, Reg.obsTrigCfg, Reg.obsTrigVal, Reg.obsTrigMask, Reg.obsCond, Reg.obsCondEn, Reg.obsTrigCnt,
   Reg.obsTrigAck]

end Sys2Proof.Machine
end

