-- ==== Sys2Proof/Machine/CtrMap.lean ====
section
/-! DEFINITION. The counter map: one row for each group of counters, with the words that hold their most significant
bits and their acknowledged epochs (R78 to R80 and the rules that apply them). -/
namespace Sys2Proof.Machine

/-- A group of counters. Instance `ix` of the group has counter `i` at base + Σ ix × stride + 8 i, and its words of
most significant bits and of epochs at their bases + Σ ix × word stride. A width of 0 marks a slot that reads zero. -/
structure CtrGroup where
  base : Nat
  /-- Count, stride of the counters and stride of the words. -/
  dims : List (Nat × Nat × Nat)
  widths : List Nat
  msb : Nat
  epoch : Nat
  deriving DecidableEq, Repr

/-- Table 3-4. -/
def Ctr.hport : CtrGroup :=
  ⟨0x104000, [(48, 0x10000, 0x10000)],
   [48, 48] ++ List.replicate 22 40 ++ [48] ++ List.replicate 12 40 ++ [48, 40, 40], 0x104200, 0x104208⟩
/-- Tables 3-4 and 4-2, with all of counters 0 to 47 (R108). -/
def Ctr.cport : CtrGroup :=
  ⟨0x404000, [(32, 0x10000, 0x10000)],
   [48, 48] ++ List.replicate 22 40 ++ [48] ++ List.replicate 23 40, 0x404200, 0x404208⟩
/-- Table 5-5 (R152). -/
def Ctr.pipePort : CtrGroup :=
  ⟨0x604000, [(4, 0x100000, 0x100000), (96, 0x40, 4)], List.replicate 8 40, 0x606000, 0x606200⟩
/-- PIPE_DEC_FRONT and PIPE_DEC_INT (R152). -/
def Ctr.pipeDec : CtrGroup := ⟨0x603000, [(4, 0x100000, 0x100000)], [48, 48], 0x603100, 0x603104⟩
/-- Punt class counters (R460). -/
def Ctr.punt : CtrGroup :=
  ⟨0x600800, [(4, 0x100000, 0x100000), (8, 0x20, 0x20)], [48, 40, 40], 0x600818, 0x60081C⟩
/-- Table 5-4. -/
def Ctr.fdb : CtrGroup := ⟨0xA04000, [], List.replicate 10 40 ++ [48, 40], 0xA04200, 0xA04208⟩
/-- Table 6-9 (R180): twelve pairs of eight slots. -/
def Ctr.pair : CtrGroup :=
  ⟨0xB04000, [], (List.replicate 12 [40, 40, 40, 40, 40, 40, 0, 0]).flatten, 0xB04400, 0xB04410⟩
/-- Table 6-8 (R179). -/
def Ctr.stream : CtrGroup :=
  ⟨0x3400000, [(65536, 128, 128)], [48, 48] ++ List.replicate 12 40, 0x3400070, 0x3400074⟩
/-- Table 7-5, block counters (R210). -/
def Ctr.bpm : CtrGroup := ⟨0xC04000, [], 48 :: List.replicate 13 40, 0xC04200, 0xC04208⟩
/-- Table 7-5, requester counters (R210). -/
def Ctr.bpmReq : CtrGroup := ⟨0xC05000, [(96, 0x10, 4)], [40, 40], 0xC05800, 0xC05A00⟩
/-- Table 8-7 (R240). -/
def Ctr.queue : CtrGroup := ⟨0x4000000, [(262144, 64, 64)], [48, 48, 40, 40], 0x4000020, 0x4000024⟩
/-- The delay sampler's bins (R241). -/
def Ctr.sampler : CtrGroup := ⟨0xD04000, [], List.replicate 256 40, 0xD04800, 0xD04820⟩
/-- CT_FRAMES and VOQ_NOROUTE (R241). -/
def Ctr.sched : CtrGroup := ⟨0xD04900, [], [48, 40], 0xD04980, 0xD04984⟩
/-- Table 9-10 (R274). -/
def Ctr.time : CtrGroup := ⟨0xE04000, [], [48, 40, 40, 40, 40, 40], 0xE04200, 0xE04208⟩
/-- Table 9-8 (R268), by context. -/
def Ctr.ptp : CtrGroup := ⟨0x5820000, [(320, 128, 128)], List.replicate 8 40, 0x5820040, 0x5820044⟩
/-- Engine counters: six performance counters and the counter after them (R310, R311). -/
def Ctr.engine : CtrGroup := ⟨0xE44000, [(64, 0x40, 8)], List.replicate 7 48, 0xE45000, 0xE45004⟩
/-- ACC_UNSUB. -/
def Ctr.accUnsub : CtrGroup := ⟨0xE45400, [], [40], 0xE45480, 0xE45484⟩
/-- Table 10-14 (R313). -/
def Ctr.sub : CtrGroup := ⟨0x6400000, [(4096, 64, 64)], List.replicate 6 40, 0x6400030, 0x6400034⟩
def Ctr.outStream : CtrGroup := ⟨0x6500000, [(2048, 32, 32)], [40, 40, 40], 0x6500018, 0x650001C⟩
def Ctr.jobClip : CtrGroup := ⟨0x6580000, [(1024, 16, 16)], [40], 0x6580008, 0x658000C⟩
/-- Table 12-11 (R375). -/
def Ctr.izl : CtrGroup := ⟨0xEC6000, [(16, 0x40, 4)], [48, 48, 40, 40, 40, 40], 0xEC6800, 0xEC6840⟩
/-- Table 13-8 (R404). -/
def Ctr.twin : CtrGroup := ⟨0xF04000, [], [40, 40, 48, 40, 48, 40, 40, 40], 0xF04200, 0xF04208⟩
/-- Table 18-5 (R505). -/
def Ctr.maint : CtrGroup := ⟨0xF84000, [], List.replicate 8 40, 0xF84200, 0xF84208⟩
/-- Table 19-8 (R525). -/
def Ctr.obs : CtrGroup := ⟨0xFC4000, [], [48, 40, 48, 40, 40], 0xFC4200, 0xFC4208⟩
/-- Receive ring counters; their most significant bits read in HOST_RING_STAT and their epochs in its _EPOCH_ACK
(R460), so the group has no words of its own at its `msb`. -/
def Ctr.hostRx : CtrGroup :=
  ⟨0x607400, [(4, 0x100000, 0x100000), (64, 0x20, 0x20)], [48, 40, 40], 0x606410, 0x60641C⟩
/-- Transmit ring counters. -/
def Ctr.hostTx : CtrGroup :=
  ⟨0x607C00, [(4, 0x100000, 0x100000), (64, 0x10, 0x20)], [48, 40], 0x606C10, 0x606C1C⟩

/-- Every group whose words of most significant bits and epochs decode as words of their own. -/
def ctrGroups : List CtrGroup :=
  [Ctr.hport, Ctr.cport, Ctr.pipePort, Ctr.pipeDec, Ctr.punt, Ctr.fdb, Ctr.pair, Ctr.stream, Ctr.bpm, Ctr.bpmReq,
   Ctr.queue, Ctr.sampler, Ctr.sched, Ctr.time, Ctr.ptp, Ctr.engine, Ctr.accUnsub, Ctr.sub, Ctr.outStream, Ctr.jobClip,
   Ctr.izl, Ctr.twin, Ctr.maint, Ctr.obs]

/-- The groups of the host rings. -/
def ringGroups : List CtrGroup := [Ctr.hostRx, Ctr.hostTx]

/-- The offset that indices `ix` add. -/
def offsetOf : List (Nat × Nat) → List Nat → Nat
  | (_, s) :: ds, i :: is => i * s + offsetOf ds is
  | _, _ => 0

/-- The indices that an offset names, with each below its count and nothing left over. -/
def indicesOf : List (Nat × Nat) → Nat → Option (List Nat)
  | [], 0 => some []
  | [], _ + 1 => none
  | (n, s) :: ds, off => if off / s < n then (indicesOf ds (off % s)).map (off / s :: ·) else none

/-- The BAR0 offset of a register. -/
def RegRow.addr (r : RegRow) (ix : List Nat) : Nat := r.base + offsetOf r.dims ix

/-- The indices by which a BAR0 offset names a register, if it does. -/
def RegRow.index (r : RegRow) (a : Nat) : Option (List Nat) :=
  if a < r.base then none else indicesOf r.dims (a - r.base)

/-- The BAR0 offset of a counter's low word. -/
def CtrGroup.addr (g : CtrGroup) (ix : List Nat) (i : Nat) : Nat :=
  g.base + offsetOf (g.dims.map fun d => (d.1, d.2.1)) ix + 8 * i

/-- The BAR0 offset of word `w` of most significant bits. -/
def CtrGroup.msbAddr (g : CtrGroup) (ix : List Nat) (w : Nat) : Nat :=
  g.msb + offsetOf (g.dims.map fun d => (d.1, d.2.2)) ix + 4 * w

/-- The BAR0 offset of word `w` of acknowledged epochs. -/
def CtrGroup.epochAddr (g : CtrGroup) (ix : List Nat) (w : Nat) : Nat :=
  g.epoch + offsetOf (g.dims.map fun d => (d.1, d.2.2)) ix + 4 * w

/-- The number of words that hold one bit of each counter. -/
def CtrGroup.words (g : CtrGroup) : Nat := ceilDiv g.widths.length 32

/-- The counter that a BAR0 offset lies in: its instance, its number and whether the offset is its high word. -/
def CtrGroup.index (g : CtrGroup) (a : Nat) : Option (List Nat × Nat × Bool) :=
  if a < g.base then none
  else (indicesOf (g.dims.map (fun d => (d.1, d.2.1)) ++ [(g.widths.length, 8), (2, 4)]) (a - g.base)).map fun l =>
    (l.take g.dims.length, l.getD g.dims.length 0, l.getD (g.dims.length + 1) 0 = 1)

/-- The word of bits, from base `b`, that a BAR0 offset is. -/
def CtrGroup.wordIndex (g : CtrGroup) (b a : Nat) : Option (List Nat × Nat) :=
  if a < b then none
  else (indicesOf (g.dims.map (fun d => (d.1, d.2.2)) ++ [(g.words, 4)]) (a - b)).map fun l =>
    (l.take g.dims.length, l.getD g.dims.length 0)

/-- The implemented bits of word `w` of a group. -/
def CtrGroup.implemented (g : CtrGroup) (w : Nat) : Word :=
  BitVec.ofNat 32 ((List.range 32).foldl (fun a j => a + bnat (g.widths.getD (32 * w + j) 0 != 0) * 2 ^ j) 0)

end Sys2Proof.Machine
end

