-- ==== Sys2Proof/Machine/Ops.lean ====
section
/-! DEFINITION. The named operations over the state that every family shares: registers and their fields, counters,
the clock, free values, outputs, and the shape of the device that the structure image gives. -/
namespace Sys2Proof.Machine

/-! ### Registers -/

/-- A register's reset value at indices `ix`; most rows have one for all, four have one per index. -/
def RegRow.resetWord (r : RegRow) (ix : List Nat) : Word :=
  if r.base = Reg.pipePortCfg.base then (if ix.getD 1 0 < 80 then 0xC3240001 else 0x83240001)
  else if r.base = Reg.pipeDscpMap.base then BitVec.ofNat 32 (ix.getD 2 0 * 0x11111111)
  else if r.base = Reg.hpModCfg.base then BitVec.ofNat 32 (0x04006401 + ix.getD 0 0 * 0x10000)
  else if r.base = Reg.obsDigestMask.base ∧ ix.getD 0 0 = 2 then 0xFFFF
  else r.reset

/-- The word in force. -/
def word (s : State) (r : RegRow) (ix : List Nat) : Word := get (r.resetWord ix) s.regs.inForce (r.addr ix)

/-- The staged word. -/
def stagedWord (s : State) (r : RegRow) (ix : List Nat) : Word := get (r.resetWord ix) s.regs.staged (r.addr ix)

/-- Bits [hi:lo] of the word in force. -/
def rd (s : State) (r : RegRow) (ix : List Nat) (hi lo : Nat) : Nat := fld (word s r ix) hi lo

/-- Bit `i` of the word in force. -/
def rdBit (s : State) (r : RegRow) (ix : List Nat) (i : Nat) : Bool := flag (word s r ix) i

/-- The state with the word in force replaced. -/
def putWord (s : State) (r : RegRow) (ix : List Nat) (w : Word) : State :=
  { s with regs := { s.regs with inForce := set (r.resetWord ix) s.regs.inForce (r.addr ix) w } }

/-- The state with the staged word replaced. -/
def putStaged (s : State) (r : RegRow) (ix : List Nat) (w : Word) : State :=
  { s with regs := { s.regs with staged := set (r.resetWord ix) s.regs.staged (r.addr ix) w } }

/-- The state with bits [hi:lo] of the word in force set to `v`. -/
def wr (s : State) (r : RegRow) (ix : List Nat) (hi lo v : Nat) : State :=
  putWord s r ix (setFld (word s r ix) hi lo v)

/-- The state with bit `i` of the word in force set to `b`. -/
def wrBit (s : State) (r : RegRow) (ix : List Nat) (i : Nat) (b : Bool) : State := wr s r ix i i (bnat b)

/-- The state with bits [hi:lo] set to `v` in force and as staged, as the device itself sets an RW field. -/
def wrBoth (s : State) (r : RegRow) (ix : List Nat) (hi lo v : Nat) : State :=
  putStaged (wr s r ix hi lo v) r ix (setFld (stagedWord s r ix) hi lo v)

/-- An event register that counts one more event, wrapping. -/
def countEvent (s : State) (r : RegRow) (ix : List Nat) : State := putWord s r ix (word s r ix + 1)

/-! ### Counters -/

/-- The value of a counter. -/
def ctr (s : State) (g : CtrGroup) (ix : List Nat) (i : Nat) : Nat := get 0 s.regs.counters (g.addr ix i)

/-- The state with `n` more in a counter, wrapping at its width. -/
def bump (s : State) (g : CtrGroup) (ix : List Nat) (i n : Nat) : State :=
  { s with regs := { s.regs with
      counters := set 0 s.regs.counters (g.addr ix i) ((ctr s g ix i + n) % 2 ^ g.widths.getD i 0) } }

/-- Word `w` of most significant bits (R80). -/
def msbWord (s : State) (g : CtrGroup) (ix : List Nat) (w : Nat) : Word :=
  BitVec.ofNat 32 ((List.range 32).foldl (fun a j =>
    let width := g.widths.getD (32 * w + j) 0
    a + (if width = 0 then 0 else ctr s g ix (32 * w + j) / 2 ^ (width - 1)) * 2 ^ j) 0)

/-- Word `w` of acknowledged epochs. -/
def epochWord (s : State) (g : CtrGroup) (ix : List Nat) (w : Nat) : Word :=
  get 0 s.regs.inForce (g.epochAddr ix w)

/-- A counter of instance `ix` has crossed half range and is not acknowledged (R80). -/
def halfStands (s : State) (g : CtrGroup) (ix : List Nat) : Bool :=
  (List.range g.words).any fun w => (msbWord s g ix w ^^^ epochWord s g ix w) &&& g.implemented w != 0

/-! ### Outputs and free values -/

/-- The state after `o` has left the device. -/
def emit (s : State) (o : Output) : State := { s with out := o :: s.out }

/-- The state of the rerun (OBS_RERUN_STAT): 0 OFF, 1 LOADED, 2 RUNNING, 3 DONE, 4 DIVERGED. -/
def rerunState (s : State) : Nat := rd s Reg.obsRerunStat [] 31 29

/-- In rerun mode every line is held idle, and what a line brings is ignored (R521). -/
def offline (s : State) : Bool := decide (1 ≤ rerunState s)

/-- A rerun has ended, and the device holds still (R524). -/
def stopped (s : State) : Bool := decide (3 ≤ rerunState s)

/-- The state after `o` has left by a line: nothing leaves in rerun mode. -/
def emitLine (s : State) (o : Output) : State := if offline s then s else emit s o

/-- The UNIT_ID that the device uses: the recording unit's in a rerun (R522). -/
def unitIdNow (s : State) : BitVec 64 :=
  if 2 ≤ rerunState s then (s.obs.imported.map (·.unit)).getD Config.unitId else Config.unitId

/-- The state with one more free value drawn. -/
def spend (s : State) : State := { s with freeCtr := s.freeCtr + 1 }

/-- The free value that is next. -/
def freeWord (s : State) : BitVec 64 := Config.freeWord s.freeCtr

/-- The next number of generator `k`, and the state with it drawn (R100, R265). -/
def draw (s : State) (k : Nat) : State × Nat :=
  let n := get 0 s.draws k
  ({ s with draws := set 0 s.draws k (n + 1) }, Config.generator s.seed k n)

/-! ### Time -/

/-- 2⁻¹⁶ ns in the unit of a time base's accumulator, ns / (2¹⁴ · 10⁹). -/
def unitsPerFrac : Nat := 250000000

/-- One nanosecond in that unit. -/
def unitsPerNs : Nat := 16384000000000

/-- One second in 2⁻¹⁶ ns. -/
def fracPerSec : Nat := 65536000000000

/-- One device cycle, 1 ms, in 2⁻¹⁶ ns. -/
def fracPerMs : Nat := 65536000000

/-- DT in 2⁻¹⁶ ns: a tick is 1.25 ns (R244). -/
def dtFrac (s : State) : Nat := s.time.dt * 81920

/-- The time base `t`. -/
def tb (s : State) (t : Nat) : TimeBase := s.time.tbs.getD t TimeBase.zero

/-- The state with time base `t` replaced. -/
def putTb (s : State) (t : Nat) (b : TimeBase) : State :=
  { s with time := { s.time with tbs := s.time.tbs.set t b } }

/-- The time of TB `t` in 2⁻¹⁶ ns (R242). -/
def tbFrac (s : State) (t : Nat) : Int := (tb s t).now / unitsPerFrac

/-- The stamp vector of this instant (R76). -/
def stampNow (s : State) : Stamp :=
  { dt := dtFrac s, tb := (List.range 4).map (tbFrac s), epochs := (List.range 4).map fun t => (tb s t).epoch }

/-- A time base `el` ticks later: each tick adds 1.25 ns × (1 + FREQ) (R242). -/
def TimeBase.advance (el : Nat) (b : TimeBase) : TimeBase :=
  { b with now := b.now + el * (5 * (4096000000000 + b.freq)) }

/-- Time runs: from VIN12, or from VAUX33 alone (R244, R540). -/
def timeRuns (s : State) : Bool := (s.power.vin && !s.power.hot) || s.power.vaux

/-- The state `el` ticks later, with nothing else changed; a rerun that has ended holds still (R524). -/
def elapse (el : Nat) (s : State) : State :=
  let el := if timeRuns s && !stopped s then el else 0
  { s with time := { s.time with dt := s.time.dt + el, tbs := s.time.tbs.map (TimeBase.advance el) } }

/-- A time in 2⁻¹⁶ ns as seconds, nanoseconds and fraction, in the device time format (R242). -/
def timeFormat (x : Int) : Nat × Nat × Nat :=
  let n := x.toNat
  (n / fracPerSec % 2 ^ 48, n % fracPerSec / 65536, n % 65536)

/-- A timestamp of 10 bytes: seconds and nanoseconds of a time in 2⁻¹⁶ ns. -/
def timestampBytes (x : Int) : List Byte :=
  let (sec, ns, _) := timeFormat x
  toBytes 6 sec ++ toBytes 4 ns

/-- The sub-nanosecond part of a time in 2⁻¹⁶ ns. -/
def subNano (x : Int) : Int := x % 65536

/-- The epoch of R512: DT in microseconds modulo 2³². -/
def epochNow (s : State) : Nat := s.time.dt / 800 % 2 ^ 32

/-! ### Ports, frames and queues -/

/-- A port with no link. -/
def Port.idle : Port :=
  { localFault := false, remoteFault := false, anNoMatch := false, negotiatedFec := none, trainingAbandoned := false,
    paused := none, pfc := List.replicate 8 none, xoffSent := false, pfcSent := 0, xoffAt := 0,
    backPressure := false, carrier := false, deferred := false, collisions := 0, backingOff := none,
    lpiSince := none, lpiRest := 0, activeAt := 0, wakeAt := 0, trainAt := 0, own := [], ownNow := none,
    carrierErr := false, diagRuns := false, diagFault := false, receiving := none }

def port (s : State) (p : Nat) : Port := get Port.idle s.ports p

def putPort (s : State) (p : Nat) (x : Port) : State := { s with ports := set Port.idle s.ports p x }

/-- A module cage that nothing is known of. -/
def Module.empty : Module :=
  { present := false, pollFailed := false, since := 0, removed := false, pollAt := 0, monitorAt := 0, mailbox := none, monitor := [] }

def modul (s : State) (k : Nat) : Module := get Module.empty s.modules k

def putModule (s : State) (k : Nat) (m : Module) : State := { s with modules := set Module.empty s.modules k m }

/-- An empty queue. -/
def Queue.empty : Queue :=
  { copies := [], balance := 0, balanceAt := 0, deficit := 0, heldBehind := [], maxCells := 0, maxDelay := 0,
    lastDelay := 0 }

def queue (s : State) (q : Nat) : Queue := get Queue.empty s.sched.queues q

def putQueue (s : State) (q : Nat) (x : Queue) : State :=
  { s with sched := { s.sched with queues := set Queue.empty s.sched.queues q x } }

/-- A gate list that has never been committed. -/
def Gate.idle : Gate :=
  { inForce := ⟨false, 0, 0, 0, 0, []⟩, pending := none, short := false, entryEnd := 0, cycleEnd := 0 }

def gate (s : State) (p : Nat) : Gate := get Gate.idle s.sched.gates p

def putGate (s : State) (p : Nat) (g : Gate) : State :=
  { s with sched := { s.sched with gates := set Gate.idle s.sched.gates p g } }

/-- Class nodes with no turn, no deficit and no credit. -/
def PortSched.idle : PortSched :=
  { classTurn := none, classDeficit := List.replicate 8 0, queueTurn := List.replicate 8 none,
    credit := List.replicate 8 0, creditAt := List.replicate 8 0 }

def portSched (s : State) (p : Nat) : PortSched := get PortSched.idle s.sched.ports p

def putPortSched (s : State) (p : Nat) (x : PortSched) : State :=
  { s with sched := { s.sched with ports := set PortSched.idle s.sched.ports p x } }

/-- A stream's state with no generator run and no frame seen. -/
def StreamState.idle : StreamState :=
  { genSeq := 0, recSeq := 0, takeAny := true, blocked := false, history := 0, timerEnd := none,
    balances := List.replicate 4 (0, 0), passed := 0, discarded := 0 }

def streamState (s : State) (h : Nat) : StreamState := get StreamState.idle s.strm.state h

def putStreamState (s : State) (h : Nat) (x : StreamState) : State :=
  { s with strm := { s.strm with state := set StreamState.idle s.strm.state h x } }

/-- A PTP context with no exchange in progress. -/
def PtpState.idle : PtpState :=
  { delays := [], nrr := 0, offset := 0, syncSeq := 0, delaySeq := 0, pdelaySeq := 0, lastSyncAt := none,
    lastPdelayAt := none, waiting := none, last := none, followUp := none, delayReq := none, pdelayReq := none,
    pdelayResp := none, pdelayPrev := none, relay := none, rateOffset := 0, delayAt := none, pdelaySentAt := none,
    syncSentAt := none, relayAt := 0 }

def ptp (s : State) (c : Nat) : PtpState := get PtpState.idle s.time.ptp c

def putPtp (s : State) (c : Nat) (x : PtpState) : State :=
  { s with time := { s.time with ptp := set PtpState.idle s.time.ptp c x } }

/-- A job that is STOPPED. -/
def Job.stopped : Job := { state := 0, engine := 0, pending := [], start := 0, move := none, restart := none, steps := 0 }

def job (s : State) (j : Nat) : Job := get Job.stopped s.acc.jobs j

def putJob (s : State) (j : Nat) (x : Job) : State :=
  { s with acc := { s.acc with jobs := set Job.stopped s.acc.jobs j x } }

/-- An Izlen lane in HUNT. -/
def IzlLane.idle : IzlLane :=
  { good := 0, bad := 0, rxFc := 0, expectFc := 0, rxAt := none, prevAt := none, arrived := [], txFc := 0,
    txScramble := BitVec.allOnes 43, txSbip := 0, sreiOut := 0, departed := [], delaySum := 0, delayCount := 0,
    delay := 0, ohBytes := [], ohGood := [], badHeaders := 0, feHdr := 0, ohSent := [], txSec := [0, 0, 0, 0],
    ttHeld := [], okFrames := 0 }

def izlLane (s : State) (n : Nat) : IzlLane := get IzlLane.idle s.izl.lanes n

def putIzlLane (s : State) (n : Nat) (x : IzlLane) : State :=
  { s with izl := { s.izl with lanes := set IzlLane.idle s.izl.lanes n x } }

/-- A trunk group with nothing received. -/
def IzlGroup.idle : IzlGroup :=
  { tag := 0, txActive := 0, txNext := 0, txChange := 0, txQuiet := 0, rxActive := 0, rxQuiet := 0, rxNext := 0,
    rxChange := 0, peerOk := 0, pohBad := 0, ldGood := 0, ldBad := 0, ldWait := false,
    aisQuiet := 0, preiOut := 0, phdrOut := 0, phdrNow := 0, txPbip := 0, txLeaves := [],
    txBegun := 0, txPayload := [], failed := false, aisTo := [], feeds := [], utilBytes := 0, lowCycles := 0, shed := 0,
    nextPipe := 0, thetaSum := [], thetaCount := [], thetaEpochs := [], neighbour := none }

def izlGroup (s : State) (g : Nat) : IzlGroup := get IzlGroup.idle s.izl.groups g

def putIzlGroup (s : State) (g : Nat) (x : IzlGroup) : State :=
  { s with izl := { s.izl with groups := set IzlGroup.idle s.izl.groups g x } }

def frame (s : State) (f : Nat) : Option Frame := find s.frames f

def putFrame (s : State) (f : Nat) (x : Frame) : State := { s with frames := put s.frames f x }

/-! ### The shape that the structure image gives -/

/-- The mode of lane `n` (Table 2-7). -/
def laneMode (s : State) (n : Nat) : Nat := (s.image.lanes.getD n ⟨0, 0xFF, 1⟩).mode.toNat

/-- The trunk group of lane `n`, 0xFF for none. -/
def laneGroup (s : State) (n : Nat) : Nat := (s.image.lanes.getD n ⟨0, 0xFF, 1⟩).trunk.toNat

/-- The lanes of one port of a mode (Table 2-7). -/
def modeLanes (m : Nat) : Nat :=
  if m = 5 then 2 else if m = 6 ∨ m = 7 then 4 else if m = 8 then 8 else 1

/-- The rate of a mode, in Mb/s (Table 2-7). -/
def modeRate (m : Nat) : Nat :=
  match m with
  | 1 => 1000 | 2 => 10000 | 3 => 25000 | 4 => 50000 | 5 => 100000 | 6 => 100000 | 7 => 200000 | 8 => 400000
  | _ => 0

/-- A unit of POP is populated (Table 1-10). -/
def popBit (s : State) (i : Nat) : Bool := s.image.pop.getLsbD i

/-- Lane `n` is the first lane of an Ethernet port (R54). -/
def isHPort (s : State) (n : Nat) : Bool :=
  decide (1 ≤ laneMode s n ∧ laneMode s n ≤ 8) && popBit s (n / 8) && n % modeLanes (laneMode s n) == 0

/-- Copper port `c` is populated. -/
def isCPort (s : State) (c : Nat) : Bool := popBit s (6 + c / 8)

/-- Pipeline `k` is populated. -/
def isPipe (s : State) (k : Nat) : Bool := popBit s (10 + k)

/-- Engine cluster `k` is populated. -/
def isCluster (s : State) (k : Nat) : Bool := popBit s (14 + k)

/-- The lanes of trunk group `g`, in rising order; lane j of the list is logical lane j (R334). -/
def groupLanes (s : State) (g : Nat) : List Nat :=
  (List.range 48).filter fun n => (laneMode s n == 0x10 || laneMode s n == 0x11) && laneGroup s n == g

/-- The forwarding port of trunk group `g`: the lowest-numbered lane's slot. -/
def groupPort (s : State) (g : Nat) : Option Nat := (groupLanes s g).head?

/-- The trunk group whose forwarding port is `p`, if any. -/
def portGroup (s : State) (p : Nat) : Option Nat :=
  if p < 48 ∧ (laneMode s p = 0x10 ∨ laneMode s p = 0x11) ∧ groupPort s (laneGroup s p) = some p then
    some (laneGroup s p)
  else none

/-- The lowest-numbered populated pipeline (R558). -/
def lowestPipe (s : State) : Nat := ((List.range 4).find? (isPipe s)).getD 0

/-- The injection pipeline of cluster `k` in an image: PL(k / 2), unless its BIND region binds it elsewhere (R13). -/
def injection (x : Image) (k : Nat) : Nat := x.injEc.getD k (k / 2)

/-- The pipeline that port `p` is bound to (R13, R38, R151, R558). -/
def pipeOf (s : State) (p : Nat) : Nat :=
  if p < 48 then
    match portGroup s p with
    | some g => ((List.range 4).find? fun k => bit (s.image.bindG.getD g 0) k).getD 0
    | none => s.image.bindH.getD p 0
  else if p < 80 then s.image.bindC.getD (p - 48) 0
  else if p < 88 then injection s.image (p - 80)
  else if p < 90 then s.image.injHost.getD (p - 88) 0
  else if p < 94 then p - 90
  else lowestPipe s

/-- A readiness stage has completed (Table 16-5). -/
def stageDone (s : State) (n : Nat) : Bool := rdBit s Reg.glbReady [] n

/-- The device forwards: MEMORIES_INIT is complete (R473). -/
def forwards (s : State) : Bool := stageDone s 4

/-- A front port's PORT_EN in force. -/
def portEn (s : State) (p : Nat) : Bool :=
  if p < 48 then isHPort s p && rdBit s Reg.hpCfg [p] 0
  else if p < 80 then isCPort s (p - 48) && rdBit s Reg.cpCfg [p - 48] 0
  else false

/-- A host port is up (R439). -/
def hostUp (s : State) : Bool := s.host.d0 && s.host.outOfReset && s.host.busMaster

/-- The link of port `p` is up. -/
def linkUp (s : State) (p : Nat) : Bool :=
  if p < 48 then
    match portGroup s p with
    | some g => rdBit s Reg.izlGrpStat [g] 31 && rd s Reg.izlGrpStat [g] 30 29 == 2
    | none => rdBit s Reg.hpLinkStat [p] 0
  else if p < 80 then rdBit s Reg.cpLinkStat [p - 48] 0
  else if p < 88 then isCluster s (p - 80)
  else if p < 90 then hostUp s
  else if p < 94 then isPipe s (p - 90)
  else if p = 94 then rd s Reg.twinStat [] 23 20 != 0
  else true

/-- The pipeline that takes the next frame of port `p`: leaves of a trunk group go to the pipelines of its mask in turn
(R38). -/
def ingressPipe (s : State) (p : Nat) : Nat :=
  match portGroup s p with
  | some g =>
    let ks := (List.range 4).filter fun k => bit (s.image.bindG.getD g 0) k
    ks.getD ((izlGroup s g).nextPipe % max 1 ks.length) (pipeOf s p)
  | none => pipeOf s p

/-- The rate of port `p`, in Mb/s; 0 where the spec gives none. -/
def portRate (s : State) (p : Nat) : Nat :=
  if p < 48 then
    match portGroup s p with
    | some g => (groupLanes s g).length * (if laneMode s p = 0x10 then 25000 else 50000)
    | none => modeRate (laneMode s p)
  else if p < 80 then
    match rd s Reg.cpLinkStat [p - 48] 2 1 with
    | 0 => 10 | 1 => 100 | _ => 1000
  else if p = 94 then 50000 * ((List.range 4).filter fun k => rdBit s Reg.twinStat [] (20 + k)).length
  else 0

/-- The unit's twin role: 0 DETACHED, 1 ACTIVE, 2 STANDBY, 3 RESTORING (Table 13-1). -/
def role (s : State) : Nat := rd s Reg.twinStat [] 31 29

/-- The unit's front ports are parked (R381, R473): a STANDBY or RESTORING unit, or one with twin operation
enabled whose role is not decided. -/
def parked (s : State) : Bool :=
  (role s == 2 || role s == 3) || (rdBit s Reg.twinCfg [] 31 && !stageDone s 8) || s.twin.frontHeld

end Sys2Proof.Machine
end

