-- ==== Sys2Proof/Machine/Flags.lean ====
section
/-! DEFINITION. Every condition word, its interrupt level, and the vectors (R429 to R434): all computed from the
state, since a condition stands exactly while its cause holds. -/
namespace Sys2Proof.Machine

/-- A word from a list of its bits, bit 0 first. -/
def wordOfBits (bs : List Bool) : Word := BitVec.ofNat 32 (bs.foldr (fun b a => bnat b + 2 * a) 0)

/-- An event count differs from its acknowledge (R429). -/
def unacked (s : State) (cnt ack : RegRow) (ix : List Nat) : Bool := word s cnt ix != word s ack ix

/-- The instances of a group with a counter or an epoch that is not zero. -/
def touched (s : State) (g : CtrGroup) : List (List Nat) :=
  (keys s.regs.counters).filterMap (fun a => (g.index a).map (·.1))
    ++ (keys s.regs.inForce).filterMap (fun a => (g.wordIndex g.epoch a).map (·.1))

/-- A counter of any instance of a group has crossed half range (R80). -/
def anyHalf (s : State) (g : CtrGroup) : Bool := (touched s g).any (halfStands s g)

/-! ### Summaries (R179, R240, R268, R313, R431, R460) -/

/-- Word `w` of a summary with one bit for each of `n` instances. -/
def sumWord (s : State) (g : CtrGroup) (n w : Nat) : Word :=
  wordOfBits ((List.range 32).map fun j => decide (32 * w + j < n) && halfStands s g [32 * w + j])

/-- Word `k` of a summary of summary words. -/
def topWord (s : State) (g : CtrGroup) (n k : Nat) : Word :=
  wordOfBits ((List.range 32).map fun j => sumWord s g n (32 * k + j) != 0)

/-- The pipeline in whose window the rings of `r` lie (R442). -/
def ringPipe (s : State) (r : Nat) : Nat := pipeOf s (88 + r / 32)

/-- A ring's counter epochs are not acknowledged. -/
def ringHalf (s : State) (tx : Bool) (r : Nat) : Bool :=
  halfStands s (if tx then Ctr.hostTx else Ctr.hostRx) [ringPipe s r, r]

/-- Word `w` of HOST_RX_SUM or HOST_TX_SUM in the window of pipeline `k`. -/
def ringSum (s : State) (tx : Bool) (k w : Nat) : Word :=
  wordOfBits ((List.range 32).map fun j =>
    let r := 32 * w + j
    ringPipe s r == k &&
      (if tx then unacked s Reg.hostTxDoneCnt Reg.hostTxDoneAck [k, r]
       else unacked s Reg.hostRxDoneCnt Reg.hostRxDoneAck [k, r]))

/-- Word `w` of HOST_HALF_SUM: words 0 and 1 for receive rings, 2 and 3 for transmit rings. -/
def ringHalfSum (s : State) (k w : Nat) : Word :=
  wordOfBits ((List.range 32).map fun j =>
    let r := 32 * (w % 2) + j
    ringPipe s r == k && ringHalf s (2 ≤ w) r)

/-! ### Conditions of each block -/

/-- The master whose module serves lane `p` (R81). -/
def masterOf (s : State) (p : Nat) : Option Nat :=
  (List.range 12).find? fun k =>
    let first := rd s Reg.hpModCfg [4 * k] 21 16
    decide (first ≤ p ∧ p < first + rd s Reg.hpModCfg [4 * k] 27 24)

/-- MOD_STATE of master `k`: 0 EMPTY to 6 FAULT. -/
def modState (s : State) (k : Nat) : Nat := rd s Reg.hpModStat [4 * k] 2 0

def glbCond (s : State) : Word :=
  wordOfBits [unacked s Reg.glbBuserrCnt Reg.glbBuserrAck [], unacked s Reg.glbHoldexpCnt Reg.glbHoldexpAck []]

def fixCond (s : State) : Word :=
  wordOfBits [unacked s Reg.fixFixCnt Reg.fixFixAck [], unacked s Reg.fixDegradeCnt Reg.fixDegradeAck [], s.fix.lost]

/-- Bits [hi:lo] of a front port's register, which H-ports and copper ports both have (R87). -/
def macRd (s : State) (h c : RegRow) (p hi lo : Nat) : Nat :=
  if p < 48 then rd s h [p] hi lo else rd s c [p - 48] hi lo

/-- A copper port runs half duplex. -/
def halfDuplex (s : State) (p : Nat) : Bool :=
  decide (48 ≤ p ∧ p < 80) && !rdBit s Reg.cpLinkStat [p - 48] 3

/-- The flow-control mode in force: 0 none, 1 pause, 2 PFC; ignored in half duplex (R104). -/
def flowMode (s : State) (p : Nat) : Nat :=
  let m := macRd s Reg.hpFlow Reg.cpFlow p 1 0
  if 80 ≤ p ∨ halfDuplex s p ∨ m = 3 then 0 else m

/-- A pause that ends at tick `t` is in force. -/
def inTime (s : State) (t : Option Nat) : Bool := t.any fun e => decide (s.time.dt < e)

/-- Transmission of class `c` on port `p` is held by pause or PFC (R73). -/
def classHeld (s : State) (p c : Nat) : Bool :=
  (flowMode s p == 1 && inTime s (port s p).paused) || (flowMode s p == 2 && inTime s ((port s p).pfc.getD c none))

/-- Some transmission of port `p` is held: PAUSED (R73). -/
def pausedAny (s : State) (p : Nat) : Bool := (List.range 8).any (classHeld s p)

def hpCond (s : State) (n : Nat) : Word :=
  if isHPort s n then
    let x := port s n
    let m := masterOf s n
    wordOfBits [portEn s n && !linkUp s n, x.localFault, x.remoteFault, x.anNoMatch, false,
      halfStands s Ctr.hport [n], m.any (fun k => modState s k == 0), m.any (fun k => modState s k == 5),
      pausedAny s n, BitVec.ofNat 32 (ctr s Ctr.hport [n] 38) != word s Reg.hpLinkdownAck [n]]
  else 0

def cpCond (s : State) (c : Nat) : Word :=
  if isCPort s c then
    let x := port s (48 + c)
    wordOfBits [portEn s (48 + c) && !linkUp s (48 + c), false, x.remoteFault, x.anNoMatch, x.backPressure,
      halfStands s Ctr.cport [c], x.diagFault, false, pausedAny s (48 + c),
      BitVec.ofNat 32 (ctr s Ctr.cport [c] 38) != word s Reg.cpLinkdownAck [c]]
  else 0

def pipeCond (s : State) (k : Nat) : Word :=
  if isPipe s k then
    let ports := (List.range 96).filter fun p => pipeOf s p == k
    let rings := (List.range 64).filter fun r => ringPipe s r == k
    wordOfBits [ports.any (fun p => halfStands s Ctr.pipePort [k, p]) || halfStands s Ctr.pipeDec [k],
      (List.range 8).any fun c => halfStands s Ctr.punt [k, c],
      ringSum s false k 0 != 0 || ringSum s false k 1 != 0, ringSum s true k 0 != 0 || ringSum s true k 1 != 0,
      rings.any fun r => rd s Reg.hostRxStat [k, r] 31 30 == 2 || rd s Reg.hostTxStat [k, r] 31 30 == 2,
      (List.range 4).any fun w => ringHalfSum s k w != 0]
  else 0

/-- Valid entries of the stash: FDB indices from 131,072. -/
def stashUsed (s : State) : Nat := (s.fdb.entries.filter fun e => decide (131072 ≤ e.1) && flag e.2 127).length

def fdbCond (s : State) : Word :=
  wordOfBits [halfStands s Ctr.fdb [], stashUsed s == 64, unacked s Reg.fdbLockExpireCnt Reg.fdbLockExpireAck [],
    s.fdb.deferQueue.length == 256, rd s Reg.fdbMove [] 15 0 < s.fdb.movesLastTick]

/-- Valid entries of the SID stash: indices from 65,536. -/
def sidStashUsed (s : State) : Nat := (s.strm.sid.filter fun e => decide (65536 ≤ e.1) && flag e.2 511).length

/-- The node table's size (R171). -/
def nodeLimit : Nat := 4096

def strmCond (s : State) : Word :=
  wordOfBits [halfStands s Ctr.pair [], anyHalf s Ctr.stream, unacked s Reg.strmRefuseCnt Reg.strmRefuseAck [],
    unacked s Reg.strmLatentCnt Reg.strmLatentAck [], unacked s Reg.strmBlockCnt Reg.strmBlockAck [],
    s.strm.nodes.length == nodeLimit, sidStashUsed s == 32]

/-- The buffers of each pool (Table 7-1). -/
def poolSize (n : Nat) : Nat := [262144, 16384, 16384, 16384, 8192, 2048].getD n 0

def pool (s : State) (n : Nat) : Pool := s.bpm.pools.getD n Pool.full

/-- Free buffers of a pool, cache and ring together. -/
def poolFree (s : State) (n : Nat) : Nat := poolSize n - (pool s n).fresh + (pool s n).returned.length

def bpmCond (s : State) : Word :=
  wordOfBits ([halfStands s Ctr.bpm [], anyHalf s Ctr.bpmReq, unacked s Reg.bpmErrCnt Reg.bpmErrAck []]
    ++ (List.range 6).map fun n => decide (poolFree s n < rd s Reg.bpmPoolLow [n] 19 0))

def schedCond (s : State) : Word :=
  wordOfBits [halfStands s Ctr.sched [] || halfStands s Ctr.sampler [], anyHalf s Ctr.queue,
    unacked s Reg.schedResyncCnt Reg.schedResyncAck [], unacked s Reg.schedRefuseCnt Reg.schedRefuseAck []]

def timeCond (s : State) : Word :=
  wordOfBits ([halfStands s Ctr.time [], anyHalf s Ctr.ptp, unacked s Reg.timeRealignCnt Reg.timeRealignAck [],
      unacked s Reg.timeRefuseCnt Reg.timeRefuseAck []]
    ++ (List.range 2).map (fun k => (s.time.ppsin.getD k []).length == 16)
    ++ [s.time.refLost, unacked s Reg.timeRephaseCnt Reg.timeRephaseAck []]
    ++ (List.range 4).map fun t => unacked s Reg.timeTbEventCnt Reg.timeTbEventAck [t])

def accCond (s : State) : Word :=
  wordOfBits [halfStands s Ctr.accUnsub [], false, (List.range 64).any fun e => halfStands s Ctr.engine [e],
    anyHalf s Ctr.sub || anyHalf s Ctr.outStream || anyHalf s Ctr.jobClip,
    unacked s Reg.accRefuseCnt Reg.accRefuseAck [], unacked s Reg.accStepCnt Reg.accStepAck [],
    unacked s Reg.accEditlateCnt Reg.accEditlateAck [], unacked s Reg.accFaultCnt Reg.accFaultAck [],
    unacked s Reg.accMigmisCnt Reg.accMigmisAck []]

/-- A management core is not running: it restarts, or boot has not loaded it (R332, R456). -/
def coreDown (s : State) (k : Nat) : Bool := s.power.coresDown.getLsbD k || !stageDone s 2

def placeCond (s : State) : Word :=
  wordOfBits [unacked s Reg.placeJnlCnt Reg.placeJnlAck [], unacked s Reg.placeNoroomCnt Reg.placeNoroomAck [],
    coreDown s 2]

/-- The bits set in a group's shed set do not count as degraded (R352). -/
def groupDegraded (s : State) (g : Nat) : Bool :=
  let formed := (groupLanes s g).length
  let shed := (izlGroup s g).shed
  decide (rd s Reg.izlGrpStat [g] 17 13 + ((List.range 16).filter fun i => shed.getLsbD i).length < formed) &&
    rdBit s Reg.izlGrpCfg [g] 31

/-- A group with EN 1 is down (R336). -/
def groupDown (s : State) (g : Nat) : Bool :=
  rdBit s Reg.izlGrpCfg [g] 31 && !(rdBit s Reg.izlGrpStat [g] 31 && rd s Reg.izlGrpStat [g] 30 29 == 2)

def izlCond (s : State) : Word :=
  let gs := (List.range 16).filter fun g => groupLanes s g != []
  wordOfBits ([anyHalf s Ctr.izl, false, gs.any (groupDegraded s), gs.any fun g => rdBit s Reg.izlGrpStat [g] 27,
      gs.any fun g => rdBit s Reg.izlGrpStat [g] 28, s.izl.depth, gs.any fun g => rd s Reg.izlGrpStat [g] 25 23 == 5,
      unacked s Reg.izlHierEvtCnt Reg.izlHierEvtAck [], unacked s Reg.izlPmRollCnt Reg.izlPmRollAck []]
    ++ List.replicate 7 false ++ (List.range 16).map fun g => gs.contains g && groupDown s g)

def twinCond (s : State) : Word :=
  wordOfBits [halfStands s Ctr.twin [],
    ((List.range 4).filter fun k => rdBit s Reg.twinStat [] (20 + k)).length != 4,
    rdBit s Reg.twinCfg [] 30 && decide (3 ≤ s.twin.altMissed), rd s Reg.twinStat [] 10 0 != 0,
    unacked s Reg.twinRingCnt Reg.twinRingAck [], unacked s Reg.twinRoleCnt Reg.twinRoleAck []]

def imgCond (s : State) : Word :=
  wordOfBits [false, unacked s Reg.imgSiRefuseCnt Reg.imgSiRefuseAck [], unacked s Reg.imgBusyCnt Reg.imgBusyAck [],
    unacked s Reg.imgUpdEvtCnt Reg.imgUpdEvtAck [],
    s.img.running.any fun b => (s.img.banks.getD b Bank.blank).state == 3]

def maintCond (s : State) : Word :=
  wordOfBits [halfStands s Ctr.maint [], unacked s Reg.maintClaimCnt Reg.maintClaimAck [],
    unacked s Reg.maintCompCnt Reg.maintCompAck [], s.maint.patrolLate]

def obsCond (s : State) : Word :=
  wordOfBits [halfStands s Ctr.obs [], rd s Reg.obsRecStat [] 31 29 == 3, unacked s Reg.obsTrigCnt Reg.obsTrigAck [],
    s.obs.gap, s.obs.diverged]

/-! ### Levels and vectors (R431 to R434) -/

/-- The block serves its window: GLB, IRQ and IMG always, others once STRUCTURE_LOADED completes (R471). -/
def windowsOpen (s : State) : Bool := stageDone s 3

/-- The level of source `n` of Table 14-6. -/
def sourceLevel (s : State) (n : Nat) : Bool :=
  if n = 0 then glbCond s &&& word s Reg.glbCondEn [] != 0
  else if n = 1 then fixCond s &&& word s Reg.fixCondEn [] != 0
  else if n = 95 then imgCond s &&& word s Reg.imgCondEn [] != 0
  else if !windowsOpen s then false
  else if n < 50 then hpCond s (n - 2) &&& word s Reg.hpCondEn [n - 2] != 0
  else if n < 82 then cpCond s (n - 50) &&& word s Reg.cpCondEn [n - 50] != 0
  else if n < 86 then pipeCond s (n - 82) &&& word s Reg.pipeCondEn [n - 82] != 0
  else match n with
    | 86 => fdbCond s &&& word s Reg.fdbCondEn [] != 0
    | 87 => strmCond s &&& word s Reg.strmCondEn [] != 0
    | 88 => bpmCond s &&& word s Reg.bpmCondEn [] != 0
    | 89 => schedCond s &&& word s Reg.schedCondEn [] != 0
    | 90 => timeCond s &&& word s Reg.timeCondEn [] != 0
    | 91 => accCond s &&& word s Reg.accCondEn [] != 0
    | 92 => placeCond s &&& word s Reg.placeCondEn [] != 0
    | 93 => izlCond s &&& word s Reg.izlCondEn [] != 0
    | 94 => twinCond s &&& word s Reg.twinCondEn [] != 0
    | 96 => maintCond s &&& word s Reg.maintCondEn [] != 0
    | 97 => obsCond s &&& word s Reg.obsCondEn [] != 0
    | _ => false

/-- The levels of the host vectors: each is true while a source routed to it is (R433). -/
def levels (s : State) : BitVec 64 :=
  (List.range 98).foldl (fun m n =>
    if rdBit s Reg.irqRoute [n] 31 && sourceLevel s n then m ||| BitVec.ofNat 64 (2 ^ rd s Reg.irqRoute [n] 5 0) else m) 0

/-- The level of host vector `v`. -/
def vectorLevel (s : State) (v : Nat) : Bool := (levels s).getLsbD v

/-- INT_N is asserted (R433): released during reset. -/
def intAsserted (s : State) : Bool :=
  !s.power.inReset && (List.range 98).any fun n => rdBit s Reg.irqRoute [n] 30 && sourceLevel s n

/-- The interrupt input of core `k` (R433). -/
def coreInput (s : State) (k : Nat) : Bool :=
  (List.range 98).any fun n => rdBit s Reg.irqRoute [n] (24 + k) && sourceLevel s n

/-- Vector `v` meets every condition of R434 but its masks, its HOLDOFF aside. -/
def wouldSend (s : State) (v : Nat) : Bool :=
  s.irq.msixEnable && vectorLevel s v && !s.irq.disarmed.getLsbD v

/-- After every command: a vector whose level is false is armed (R434). -/
def settle (s : State) : State :=
  { s with irq := { s.irq with disarmed := s.irq.disarmed &&& levels s } }

/-- The outcome of every command of this block: a next state, with the vectors re-armed that R434 re-arms. -/
def done (s : State) : Host.Outcome State Fault Refusal := .next (settle s)

end Sys2Proof.Machine
end

