-- ==== Sys2Proof/Machine/Apply.lean ====
section
/-! DEFINITION. How a written register value is staged, held, refused and put in force (R413 to R418, R556), and how a
landed write reaches the twin (R382 to R386). -/
namespace Sys2Proof.Machine

/-! ### Blocks and rows -/

/-- A block's first instance, the count and stride of its instances (Table 14-2) and its registers. -/
structure BlockRow where
  base : Nat
  count : Nat
  stride : Nat
  rows : List RegRow

/-- Table 14-2. -/
def blocks : List BlockRow :=
  [⟨0x000000, 1, 0x10000, rowsGLB⟩, ⟨0x010000, 1, 0x10000, rowsIRQ⟩, ⟨0x020000, 1, 0x10000, rowsFIX⟩,
   ⟨0x100000, 48, 0x10000, rowsHPORT⟩, ⟨0x400000, 32, 0x10000, rowsCPORT⟩, ⟨0x600000, 4, 0x100000, rowsPIPE⟩,
   ⟨0xA00000, 1, 0x10000, rowsFDB⟩, ⟨0xB00000, 1, 0x10000, rowsSTRM⟩, ⟨0xC00000, 1, 0x10000, rowsBPM⟩,
   ⟨0xD00000, 1, 0x10000, rowsSCHED⟩, ⟨0xE00000, 1, 0x10000, rowsTIME⟩, ⟨0xE40000, 1, 0x10000, rowsACC⟩,
   ⟨0xE80000, 1, 0x10000, rowsPLACE⟩, ⟨0xEC0000, 1, 0x10000, rowsIZL⟩, ⟨0xF00000, 1, 0x10000, rowsTWIN⟩,
   ⟨0xF40000, 1, 0x10000, rowsIMG⟩, ⟨0xF80000, 1, 0x10000, rowsMAINT⟩, ⟨0xFC0000, 1, 0x10000, rowsOBS⟩]

/-- The block whose instance decodes a BAR0 offset, with the instance and the offset within its 64 KiB (R408). -/
def blockOf (a : Nat) : Option (BlockRow × Nat × Nat) :=
  (blocks.find? fun b =>
    decide (b.base ≤ a ∧ (a - b.base) / b.stride < b.count ∧ (a - b.base) % b.stride < 0x10000)).map fun b =>
      (b, (a - b.base) / b.stride, (a - b.base) % b.stride)

/-- The register row and indices of a BAR0 offset in a staged half. -/
def rowAt (a : Nat) : Option (RegRow × List Nat) :=
  match blockOf a with
  | none => none
  | some (b, _, _) => b.rows.findSome? fun r => (r.index a).map fun ix => (r, ix)

/-! ### Fields -/

/-- The bits of a row's fields that `p` selects. -/
def RegRow.mask (r : RegRow) (p : FieldRow → Bool) : Word :=
  r.fields.foldl (fun m f => if p f then m ||| maskOf f.hi f.lo else m) 0

/-- The RW bits of a row with apply point `k`. -/
def RegRow.applyMask (r : RegRow) (k : Apply) : Word := r.mask fun f => f.acc == .rw && f.app == k

/-- A field's value as its range holds it. -/
def Hold.value (h : Hold) (x : Nat) : Nat :=
  match h with
  | .any => x
  | .range lo hi => held lo hi x
  | .zeroOr lo hi => if x = 0 then 0 else held lo hi x

/-- A word with every field held at the nearer end of its range (R413). -/
def RegRow.heldWord (r : RegRow) (w : Word) : Word :=
  r.fields.foldl (fun w f => setFld w f.hi f.lo (f.hold.value (fld w f.hi f.lo))) w

/-- `heldWord`, and R205: a pool's protected reserve is held at half of its buffers. -/
def RegRow.heldAt (r : RegRow) (ix : List Nat) (w : Word) : Word :=
  if r.base = Reg.bpmPoolRes.base then setFld w 19 0 (min (fld w 19 0) (poolSize (ix.getD 0 0) / 2))
  else r.heldWord w

/-! ### Values that leave the effective value unchanged -/

/-- Every lane is served by at most one master, and each master's lanes start on a multiple of their count (R81). -/
def mastersLawful (s : State) : Bool :=
  (List.range 12).all fun k =>
    let n := rd s Reg.hpModCfg [4 * k] 27 24
    let first := rd s Reg.hpModCfg [4 * k] 21 16
    (n == 0 || (n == 1 || n == 2 || n == 4 || n == 8) && first % n == 0) &&
      (List.range 12).all fun j => j == k ||
        let m := rd s Reg.hpModCfg [4 * j] 27 24
        let start := rd s Reg.hpModCfg [4 * j] 21 16
        n == 0 || m == 0 || decide (first + n ≤ start) || decide (start + m ≤ first)

/-- R204 for the port account of requester `r`. -/
def portAccountLawful (s : State) (r : Nat) : Bool :=
  let w2 := rd s Reg.bpmAccWarnA [r] 29 16
  let w3 := rd s Reg.bpmAccWarnB [r] 13 0
  decide (rd s Reg.bpmAccWarnA [r] 13 0 < w2 ∧ w2 < w3 ∧ w3 * 16 ≤ rd s Reg.bpmAccMax [r] 18 0)

/-- R204 for the class accounts of requester `r`. -/
def classAccountLawful (s : State) (r : Nat) : Bool :=
  let c2 := rd s Reg.bpmClsWarnA [r] 29 16
  decide (rd s Reg.bpmClsWarnA [r] 13 0 < c2 ∧ c2 < rd s Reg.bpmClsWarnB [r] 13 0)

/-- The ports of PRP pair `q`. -/
def prpPorts (s : State) (q : Nat) : List Nat :=
  [rd s Reg.strmPrpPair [q] 6 0, rd s Reg.strmPrpPair [q] 22 16]

/-- The KIND of ring pair `r` in the RING region: 1 HSR, 2 FRER ring. -/
def ringKind (s : State) (r : Nat) : Nat := fld (s.image.ring.getD r 0) 2 1

/-- Ring pair `r` is an enabled HSR ring pair: STRM_HSR_CFG has no effect on a pair of another KIND. -/
def hsrOn (s : State) (r : Nat) : Bool := ringKind s r == 1 && rdBit s Reg.strmHsrCfg [r] 31

/-- A port is a lane of an enabled HSR ring pair (R41). -/
def hsrLane (s : State) (p : Nat) : Bool := decide (40 ≤ p ∧ p < 48) && hsrOn s ((p - 40) / 2)

/-- PRP pair `q` names two different front ports of no other enabled pair and of no enabled HSR ring pair. -/
def prpLawful (s : State) (q : Nat) : Bool :=
  let ps := prpPorts s q
  ps.all (fun p => decide (p ≤ 79) && !hsrLane s p) && ps.getD 0 0 != ps.getD 1 0 &&
    (List.range 8).all fun k => k == q || !rdBit s Reg.strmPrpPair [k] 31 || (prpPorts s k).all fun p => !ps.contains p

/-- The modes that each state class permits (Table 13-2): bit m for mode m, where code 3 acts as 1. -/
def classModes : List Nat := [6, 7, 6, 6, 6, 6, 2, 2, 2, 1, 1]

/-- The CYCLE sizes of the state classes (Table 13-2). -/
def classSizes : List Nat := [4194304, 2360320, 655360, 6293504, 9043968, 10240, 0, 0, 0, 0, 0]

/-- The mode in force of state class `k`: 0 SELF, 1 MIRROR, 2 CYCLE. -/
def classMode (s : State) (k : Nat) : Nat :=
  let m := rd s Reg.twinClassMode [] (2 * k + 1) (2 * k)
  if m = 3 then 1 else m

/-- Every class of TWIN_CLASS_MODE holds a permitted mode, and the CYCLE classes fit a device cycle (R382, R384). -/
def classModesLawful (s : State) : Bool :=
  ((List.range 11).all fun k => bit (classModes.getD k 0) (classMode s k)) &&
    decide (((List.range 11).map fun k => if classMode s k = 2 then classSizes.getD k 0 else 0).sum ≤ 12500000)

/-- R503: no second TB takes the PPSIN input that TB `t` takes. -/
def ppsinFree (s : State) (t : Nat) : Bool :=
  let src := rd s Reg.timeTbCfg [t] 30 28
  decide (src ≠ 4 ∧ src ≠ 5) || (List.range 4).all fun k => k == t || rd s Reg.timeTbCfg [k] 30 28 != src

/-- R374: SHED_LO lies below WAKE_HI. -/
def shedLawful (s : State) (g : Nat) : Bool :=
  decide (rd s Reg.izlGrpShed [g] 21 12 < rd s Reg.izlGrpShed [g] 31 22)

/-- R374: Izlen-1 runs on lanes of mode 0x10, at most 8 of them. -/
def izlGenLawful (s : State) (g : Nat) : Bool :=
  let ns := groupLanes s g
  !rdBit s Reg.izlGrpCfg [g] 30 || (decide (ns.length ≤ 8) && ns.all fun n => laneMode s n == 0x10)

/-- The word at offset `a` may hold the value that `s` now has in force there. -/
def lawfulAt (s : State) (r : RegRow) (ix : List Nat) : Bool :=
  let i := ix.getD 0 0
  if r.base = Reg.hpModCfg.base then mastersLawful s
  else if r.base = Reg.bpmAccMax.base ∨ r.base = Reg.bpmAccWarnA.base ∨ r.base = Reg.bpmAccWarnB.base then
    portAccountLawful s i
  else if r.base = Reg.bpmClsWarnA.base ∨ r.base = Reg.bpmClsWarnB.base then classAccountLawful s i
  else if r.base = Reg.strmPrpPair.base then prpLawful s i
  else if r.base = Reg.twinClassMode.base then classModesLawful s
  else if r.base = Reg.timeTbCfg.base then ppsinFree s i
  else if r.base = Reg.izlGrpShed.base then shedLawful s i
  else if r.base = Reg.izlGrpCfg.base then izlGenLawful s i
  else if r.base = Reg.schedVoqRoute.base then (portGroup s (rd s Reg.schedVoqRoute [i] 6 0)).isSome
  else true

/-- The requester codes of GLB_BUSERR_INFO and MAINT_CLAIM_LAST: 0 host, 1 to 4 MC0 to MC3. -/
def reqCode : Requester → Nat
  | .host => 0
  | .mc k => k + 1
  | .spi => 5
  | .twin => 6

/-- A refused claim counts and is recorded (R504). -/
def noteClaim (s : State) (code req kind index : Nat) : State :=
  let s := countEvent s Reg.maintClaimCnt []
  putWord s Reg.maintClaimLast [] (BitVec.ofNat 32 (code * 2 ^ 28 + req * 2 ^ 25 + kind * 2 ^ 24 + index))

/-- One waiting value put in force, its ranges held. -/
def applyOne (s : State) (e : PendApply) : State :=
  match rowAt e.addr with
  | none => s
  | some (r, ix) => putWord s r ix (blend e.fields (word s r ix) (r.heldAt ix (stagedWord s r ix)))

/-- The effective values from before, where the new ones are not lawful: each word of `es` is judged with all of them
in force together (R416). -/
def refuseUnlawful (before : State) (s : State) (es : List PendApply) : State :=
  let bad := es.filter fun e =>
    match rowAt e.addr with
    | none => false
    | some (r, ix) => !lawfulAt s r ix
  bad.foldl (fun t e =>
    match rowAt e.addr with
    | none => t
    | some (r, ix) =>
      let t := putWord t r ix (word before r ix)
      if r.base = Reg.timeTbCfg.base then
        noteClaim t 4 (reqCode e.req) 1 (fld (stagedWord t r ix) 30 28 - 4)
      else t) s

/-- A change of account thresholds re-evaluates the account's warning states from its levels (R203, R204). -/
def applyEntries (s : State) (es : List PendApply) : State := refuseUnlawful s (es.foldl applyOne s) es

/-- The waiting values that `p` selects put in force together and struck from the list. -/
def applyWhere (s : State) (p : PendApply → Bool) : State :=
  let es := s.regs.waiting.filter p
  let s := { s with regs := { s.regs with waiting := s.regs.waiting.filter fun e => !p e } }
  applyEntries s es

/-! ### Frame boundaries (R415, R556) -/

/-- The bits of the register at `a` that a frame boundary of port `p` applies: of a frame received or dequeued. -/
def frmMask (s : State) (a p : Nat) (rx : Bool) : Word :=
  match rowAt a with
  | none => 0
  | some (r, ix) =>
    let i := ix.getD 0 0
    let side (here : Bool) (ingress egress : Word) : Word := if here then (if rx then ingress else egress) else 0
    let all := r.applyMask .frm
    if r.base = Reg.hpFrame.base then side (i == p) 0x3FFF 0x3FFF0000
    else if r.base = Reg.cpFrame.base then side (i + 48 == p) 0x3FFF 0x3FFF0000
    else if r.base = Reg.hpFlow.base ∨ r.base = Reg.hpPause.base then side (i == p) all all
    else if r.base = Reg.cpFlow.base ∨ r.base = Reg.cpPause.base then side (i + 48 == p) all all
    else if r.base = Reg.hpGfCtrl.base ∨ r.base = Reg.hpGfTable.base then side (i == p) 0 all
    else if r.base = Reg.cpGfCtrl.base ∨ r.base = Reg.cpGfTable.base then side (i + 48 == p) 0 all
    else if r.base = Reg.pipeMirror.base then side (pipeOf s p == i) all 0
    else if r.base = Reg.pipePortCfg.base ∨ r.base = Reg.pipePcpMap.base ∨ r.base = Reg.pipeDscpMap.base ∨
        r.base = Reg.pipeLearnLimit.base ∨ r.base = Reg.pipeStorm.base then side (ix.getD 1 0 == p) all 0
    else if r.base = Reg.strmPortCfg.base then side (i == p) all 0
    else if r.base = Reg.schedPortCfg.base ∨ r.base = Reg.schedClsQuantum.base ∨ r.base = Reg.schedCbs.base ∨
        r.base = Reg.schedCbsHi.base ∨ r.base = Reg.timePortTc.base then side (i == p) 0 all
    else if r.base = Reg.pipeRxMap.base then side (ix.getD 1 0 / 2 + 88 == p) 0 all
    else 0

/-- Every FRM value, of the words that `sel` selects, that a frame boundary of port `p` in this direction applies, together
(R416). A word whose other fields still wait stays on the list with those fields. -/
def frmApply (s : State) (p : Nat) (rx : Bool) (sel : Nat → Bool) : State :=
  let due := (s.regs.waiting.filter fun e => e.kind == 1 && sel e.addr).filterMap fun e =>
    let m := frmMask s e.addr p rx &&& e.fields
    if m = 0 then none else some { e with fields := m }
  let rest := s.regs.waiting.filterMap fun e =>
    if e.kind = 1 ∧ sel e.addr = true then
      let m := e.fields &&& ~~~ frmMask s e.addr p rx
      if m = 0 then none else some { e with fields := m }
    else some e
  if due = [] then s else applyEntries { s with regs := { s.regs with waiting := rest } } due

/-- A frame boundary of port `p`: of a frame received or dequeued. -/
def frameBoundary (s : State) (p : Nat) (rx : Bool) : State := frmApply s p rx fun _ => true

/-! ### The twin's copy of a write (R383 to R386) -/

/-- The state class of a register of Table 13-2, or none for what each unit keeps of its own (R386). -/
def regClass (r : RegRow) : Option Nat :=
  if r.base = Reg.timeDomainMap.base then some 5
  else if r.base = Reg.izlHierCfg.base then some 7
  else if r.base = Reg.accCtrl.base then some 0
  else if r.base = Reg.hpTsAdj.base ∨ r.base = Reg.cpTsAdj.base ∨ r.base = Reg.fdbLockHost.base ∨
      r.base = Reg.fdbLockMc.base ∨
      [Reg.hpCondEn, Reg.cpCondEn, Reg.pipeCondEn, Reg.fdbCondEn, Reg.strmCondEn, Reg.bpmCondEn, Reg.schedCondEn,
        Reg.placeCondEn].any (fun x => x.base == r.base) then none
  else if (0x100000 ≤ r.base ∧ r.base < 0xE00000) ∨ (0xE80000 ≤ r.base ∧ r.base < 0xE90000) then some 0
  else none

/-- The unit is the ACTIVE unit of a pair. -/
def activePaired (s : State) : Bool := role s == 1 && rdBit s Reg.twinStat [] 27

/-- The twin staging area, in bytes (Table 1-6). -/
def twinStaging : Nat := 268435456

/-- A changed entry or field group of class `k` goes to the STANDBY as a MIRROR record, or makes the class STALE when
the staging area would overflow (R385). -/
def mirror (s : State) (k : Fin 11) (addr : Nat) (ws : List Word) : State :=
  if activePaired s && classMode s k == 1 && (!rdBit s Reg.twinStat [] k || s.twin.copied.contains k.val) then
    let n := 16 + 4 * ws.length
    if (s.twin.staged.map Prod.snd).sum + n ≤ twinStaging then
      let t := { s.twin with staged := set 0 s.twin.staged k (get 0 s.twin.staged k + n) }
      emitLine (bump { s with twin := t } Ctr.twin [] 2 1) (.twinState (.mirror k addr ws))
    else
      let t := { s.twin with staged := set 0 s.twin.staged k 0, copied := s.twin.copied.filter (· != k.val) }
      bump (wrBit { s with twin := t } Reg.twinStat [] k true) Ctr.twin [] 3 1
  else s

/-- A write of class `k` is ignored on a STANDBY or RESTORING unit, save the twin's own (R386). -/
def standsBy (s : State) (req : Requester) (k : Option Nat) : Bool :=
  (role s == 2 || role s == 3) && req != .twin && k.any fun k => decide (k ≤ 5)

/-! ### Staging a write -/

/-- A value waits for apply point `k`; a second write before it replaces the first, which the staged word already
holds, and starts the wait again (R415). -/
def await (s : State) (req : Requester) (addr : Nat) (m : Word) (k : Nat) : State :=
  if m = 0 then s
  else
    let others := s.regs.waiting.filter fun e => !(e.addr == addr && e.kind == k)
    { s with regs := { s.regs with waiting := others ++ [⟨addr, m, k, s.time.dt, req⟩] } }

/-- The RW bits of a row that requester `req` may write: MC of IRQ_ROUTE is not the host's (R433). -/
def writable (r : RegRow) (req : Requester) : Word :=
  let m := r.mask fun f => f.acc == .rw
  if r.base = Reg.irqRoute.base ∧ req = .host then m &&& ~~~ 0x0F000000 else m

/-- The RW bits `m` of a register written with `data` by `req`: staged, and in force at each field's apply point. -/
def stage (s : State) (req : Requester) (r : RegRow) (ix : List Nat) (m data : Word) : State :=
  if standsBy s req (regClass r) then bump s Ctr.twin [] 6 1
  else
    let m := m &&& writable r req
    let s := putStaged s r ix (blend m (stagedWord s r ix) data)
    let a := r.addr ix
    let s := await s req a (m &&& r.applyMask .ms) 0
    let s := await s req a (m &&& r.applyMask .frm) 1
    let s := await s req a (m &&& r.applyMask .pkt) 2
    let now := m &&& r.applyMask .imm
    let s := if now = 0 then s else applyEntries s [⟨a, now, 3, s.time.dt, req⟩]
    match regClass r with
    | some k => if h : k < 11 then mirror s ⟨k, h⟩ a [stagedWord s r ix] else s
    | none => s

end Sys2Proof.Machine
end

