-- ==== Sys2Proof/Machine/Mac.lean ====
section
/-! DEFINITION. What the MACs of front ports share: their registers and counters, stamps, frames sent and MAC control
frames (R54, R66, R70 to R76, R87, R108). -/
namespace Sys2Proof.Machine

/-- `n` more in counter `i` of front port `p`; trunks and internal ports have no MAC counters. -/
def countPort (s : State) (p i n : Nat) : State :=
  if p < 48 ∧ portGroup s p ≠ none then s
  else if p < 48 then bump s Ctr.hport [p] i n else if p < 80 then bump s Ctr.cport [p - 48] i n else s

/-- `n` more in counter `i` of Table 5-5 for port `p`, in the window of its pipeline. -/
def countPipe (s : State) (p i n : Nat) : State := bump s Ctr.pipePort [pipeOf s p, p] i n

/-- The MRU in force: R67, and R336 for a trunk port; other ports take any frame of 10,240 bytes. -/
def mru (s : State) (p : Nat) : Nat :=
  if p < 48 ∧ portGroup s p = none then rd s Reg.hpFrame [p] 13 0
  else if 48 ≤ p ∧ p < 80 then rd s Reg.cpFrame [p - 48] 13 0
  else 10240

/-- The MTU in force. -/
def mtu (s : State) (p : Nat) : Nat :=
  if p < 48 ∧ portGroup s p = none then rd s Reg.hpFrame [p] 29 16
  else if 48 ≤ p ∧ p < 80 then rd s Reg.cpFrame [p - 48] 29 16
  else 10240

/-- XOFF_LEVEL, where 0 is treated as 1 (R72). -/
def xoffLevel (s : State) (p : Nat) : Nat := max 1 (macRd s Reg.hpFlow Reg.cpFlow p 9 8)

/-- The source MAC address of the frames that the device itself sends on port `p` (R266). -/
def sourceMac (s : State) (p : Nat) : Nat :=
  (rd s Reg.timeMacBaseHi [] 15 0 * 2 ^ 32 + rd s Reg.timeMacBaseLo [] 31 0 + p) % 2 ^ 48

/-- Signed picoseconds of HP_TS_ADJ or CP_TS_ADJ in 2⁻¹⁶ ns. -/
def adjFrac (s : State) (p hi lo : Nat) : Int := signed (macRd s Reg.hpTsAdj Reg.cpTsAdj p hi lo) 16 * 65536 / 1000

/-- A stamp vector moved by `d` in every time. -/
def Stamp.shift (d : Int) (x : Stamp) : Stamp := { x with dt := (x.dt + d).toNat, tb := x.tb.map (· + d) }

/-- A stamp vector `d` of DT later: each time base gains by its own rate (R242). -/
def Stamp.moved (s : State) (d : Int) (x : Stamp) : Stamp :=
  { x with dt := (x.dt + d).toNat, tb := x.tb.mapIdx fun t v => v + d + d * (Machine.tb s t).freq / 4096000000000 }

/-- The time of `n` bytes on the line of port `p`, in 2⁻¹⁶ ns. -/
def lineFrac (s : State) (p n : Nat) : Int := (n * 524288000 / portRate s p : Nat)

/-- The time of `n` bytes on the line of port `p`, in ticks. -/
def lineTicks (s : State) (p n : Nat) : Nat := ceilDiv (n * 6400) (portRate s p)

/-- Port `p` has a stamp point of its own: it is a front port and no trunk. -/
def stampPoint (s : State) (p : Nat) : Bool := decide (p < 80) && (portGroup s p).isNone

/-- The ingress stamp of a frame of which `n` bytes have arrived on port `p` now: the instant of the first bit after its start
delimiter, less the port's adjustment (R76, R105). -/
def ingressStamp (s : State) (p n : Nat) : Stamp :=
  if stampPoint s p then ((stampNow s).moved s (-(lineFrac s p n))).shift (-(adjFrac s p 15 0)) else stampNow s

/-- The egress stamp of a frame whose preamble port `p` now begins to send: the instant of the first bit after its start
delimiter, with the port's adjustment (R76, R105). -/
def egressStamp (s : State) (p : Nat) : Stamp :=
  if stampPoint s p then ((stampNow s).moved s (lineFrac s p 8)).shift (adjFrac s p 31 16) else stampNow s

/-- What a frame that port `p` sends adds to its digests (R515): the offset of its egress stamp in the epoch, in
2⁻¹⁶ ns, and its bytes as sent; frames that Accord clusters injected enter DIGEST_B. -/
def digestSent (s : State) (p : Nat) (accord : Bool) (stamp : Stamp) (bs : List Byte) : State :=
  let x := toBytes 4 (stamp.dt % 65536000) ++ bs
  let o := s.obs
  let o := if accord then { o with digestB := put o.digestB p (get [] o.digestB p ++ x) }
    else { o with digestA := put o.digestA p (get [] o.digestA p ++ x) }
  { s with obs := { o with framesSent := set 0 o.framesSent p (get 0 o.framesSent p + 1) } }

/-- Port `p` has a line of its own: a front port or the twin. -/
def onLine (p : Nat) : Bool := decide (p < 80) || p == 94

/-- Bytes leave port `p` as one frame; in rerun mode they enter its digest alone. -/
def sendBytes (s : State) (p : Nat) (accord : Bool) (stamp : Stamp) (bs : List Byte) : State :=
  let s := digestSent s p accord stamp bs
  if onLine p then emitLine s (.frame p stamp bs) else emit s (.frame p stamp bs)

/-- Port `p` receives what its line brings. -/
def receives (s : State) (p : Nat) : Bool :=
  forwards s && linkUp s p && !(port s p).backPressure && !(offline s && onLine p)

/-- TX counters of a frame of `n` bytes to destination `da`: sent with a valid FCS, or ended by a stomp. -/
def countTx (s : State) (e n da : Nat) (good : Bool) : State :=
  let s := countPort s e 24 n
  if good then
    let s := countPort s e 25 1
    countPort s e (if da = 2 ^ 48 - 1 then 28 else if bit da 40 then 27 else 26) 1
  else countPort s e 31 1

/-! ### Energy-efficient Ethernet (R97 to R99) -/

/-- Port `p` carries the parent path of a time base (R248). -/
def parentPath (s : State) (p : Nat) : Bool :=
  (List.range 4).any fun t =>
    let src := rd s Reg.timeTbCfg [t] 30 28
    (src == 1 || src == 2) && rd s Reg.timeTbCfg [t] 22 16 == p && rd s Reg.timeTbStat [t] 31 30 != 0

/-- Tw_sys_tx in ticks (Table 4-1): 30 µs at 100 Mb/s and 16.5 µs at 1,000 Mb/s. -/
def wakeTicks (s : State) (p : Nat) : Nat := if portRate s p = 100 then 24000 else 13200

/-- LPI_TX_US counts the whole microseconds that copper port `p` has spent in transmit LPI, over all its stays. -/
def countLpi (s : State) (p : Nat) : State :=
  match (port s p).lpiSince with
  | none => s
  | some t =>
    let n := s.time.dt - t + (port s p).lpiRest
    bump (putPort s p { port s p with lpiSince := some s.time.dt, lpiRest := n % 800 }) Ctr.cport [p - 48] 47 (n / 800)

/-- Copper port `p` leaves transmit LPI: its first bit leaves Tw_sys_tx later. -/
def leaveLpi (s : State) (p : Nat) : State :=
  if (port s p).lpiSince.isNone then s
  else
    let s := wrBit (countLpi s p) Reg.cpLinkStat [p - 48] 12 false
    putPort s p { port s p with lpiSince := none, wakeAt := s.time.dt + wakeTicks s p }

/-! ### Frames of the device's own -/

/-- The bytes on the line of a frame of the device's own whose egress stamp is `st`: padded to 60 bytes and given its FCS.
A Sync carries the time of the stamp, and a one-step one its sub-nanosecond part in correctionField (R265). -/
def ownWire (o : OwnFrame) (st : Stamp) : List Byte :=
  let b := match o.use with
    | .ptp c 0 _ k udp two _ =>
      let t1 := st.tb.getD (c % 4) 0
      let sum := if udp then some (k - 2) else none
      let b := repaired o.bytes sum (k + 34) (timestampBytes t1)
      if two then b else repaired b sum (k + 8) (toBytes 8 (unsigned (subNano t1) 64))
    | _ => o.bytes
  let b := padTo 60 b
  b ++ fcsBytes b

/-- A frame that pause and PFC do not hold (R73). -/
def OwnFrame.isControl (o : OwnFrame) : Bool :=
  match o.use with
  | .control _ => true
  | .twin => false
  | .ptp _ _ _ _ _ _ _ => false

/-- The frame of the device's own that port `p` sends next: a MAC control frame first, and any other while its class is not
held (R73). -/
def nextOwn (s : State) (p : Nat) : Option OwnFrame :=
  let l := (port s p).own
  match l.find? OwnFrame.isControl with
  | some o => some o
  | none => l.find? fun o => !classHeld s p o.cls

/-- Port `p` sends a frame now. -/
def lineBusy (s : State) (p : Nat) : Bool := (find s.sched.sending p).isSome || (port s p).ownNow.isSome

/-- A frame of the device's own begins at port `p`. -/
def beginOwn (s : State) (p : Nat) (o : OwnFrame) : State :=
  let st := egressStamp s p
  let x := port s p
  putPort s p { x with own := x.own.erase o, ownNow := some ⟨o, ownWire o st, s.time.dt, st⟩, deferred := false,
                       collisions := 0, carrierErr := false }

/-- A free port begins the next frame of the device's own. -/
def startOwn (s : State) (p : Nat) : State :=
  if lineBusy s p || decide (s.time.dt < (port s p).wakeAt) || (halfDuplex s p && (port s p).carrier) then s
  else match nextOwn s p with
    | some o => beginOwn s p o
    | none => s

/-- A frame of the device's own is sent by line port `p`: at once where the port is free, else at a frame boundary. The port
leaves LPI for it (R98). -/
def sendOwn (s : State) (p : Nat) (o : OwnFrame) : State :=
  if linkUp s p then
    let s := leaveLpi s p
    startOwn (putPort s p { port s p with own := (port s p).own ++ [o] }) p
  else s

/-! ### Pause and PFC (R71 to R74) -/

/-- The destination of MAC control frames (IEEE 802.3 Annex 31B). -/
def pauseMac : List Byte := [0x01, 0x80, 0xC2, 0x00, 0x00, 0x01]

/-- A pause frame with `q` quanta (Annex 31B). -/
def pauseFrame (s : State) (p q : Nat) : List Byte :=
  pauseMac ++ toBytes 6 (sourceMac s p) ++ [0x88, 0x08, 0x00, 0x01] ++ toBytes 2 q

/-- A PFC frame: the class-enable vector and the quanta of each class (IEEE 802.1Qbb). -/
def pfcFrame (s : State) (p vector : Nat) (q : Nat → Nat) : List Byte :=
  pauseMac ++ toBytes 6 (sourceMac s p) ++ [0x88, 0x08, 0x01, 0x01] ++ toBytes 2 vector
    ++ (List.range 8).flatMap fun c => toBytes 2 (q c)

/-- The quanta that XOFF carries. -/
def quanta (s : State) (p : Nat) : Nat := macRd s Reg.hpPause Reg.cpPause p 31 16

/-- A MAC control frame is sent, which counts TX_PAUSE (29) or TX_PFC (30). -/
def sendControlFrame (s : State) (p i : Nat) (b : List Byte) : State := sendOwn s p ⟨.control i, 0, b⟩

/-- A pause frame is sent; one that carries quanta starts the time of REFRESH. -/
def sendPause (s : State) (p q : Nat) : State :=
  let s := if q = 0 then s else putPort s p { port s p with xoffAt := s.time.dt }
  sendControlFrame s p 29 (pauseFrame s p q)

/-- One PFC frame with every class of `vector`, those of `xoff` with QUANTA and the others with zero. -/
def sendPfc (s : State) (p : Nat) (vector xoff : BitVec 8) : State :=
  let s := if xoff = 0 then s else putPort s p { port s p with xoffAt := s.time.dt }
  sendControlFrame s p 30 (pfcFrame s p vector.toNat fun c => if xoff.getLsbD c then quanta s p else 0)

/-- The ticks after which an XOFF in force is repeated: REFRESH quanta of 512 bit times, and half of QUANTA where REFRESH is
not below QUANTA (R71, R72). -/
def refreshTicks (s : State) (p : Nat) : Nat :=
  let r := macRd s Reg.hpPause Reg.cpPause p 15 0
  lineTicks s p (64 * (if quanta s p ≤ r then quanta s p / 2 else r))

/-- The warning state of a port account and of a class account of requester `r` (R203). -/
def portWarn (s : State) (r : Nat) : Nat := get 0 s.bpm.warning (r * 9)
def classWarn (s : State) (r c : Nat) : Nat := get 0 s.bpm.warning (r * 9 + 1 + c)

/-- The classes of PFC_TX_MASK whose account stands at XOFF_LEVEL. -/
def pfcWanted (s : State) (p : Nat) : BitVec 8 :=
  BitVec.ofNat 8 ((List.range 8).foldl (fun a c =>
    a + bnat (bit (macRd s Reg.hpFlow Reg.cpFlow p 23 16) c && decide (xoffLevel s p ≤ classWarn s p c)) * 2 ^ c) 0)

/-- Flow control and back-pressure follow the account of port `p` (R71, R104): XOFF when it crosses XOFF_LEVEL, one
XON when it falls below the level's resume mark. -/
def followAccount (s : State) (p : Nat) : State :=
  if 80 ≤ p ∨ !linkUp s p then s
  else
    let x := port s p
    let s :=
      if flowMode s p = 1 ∧ macRd s Reg.hpFlow Reg.cpFlow p 4 4 = 1 then
        let want := decide (xoffLevel s p ≤ portWarn s p)
        if want && !x.xoffSent then sendPause (putPort s p { x with xoffSent := true }) p (quanta s p)
        else if !want && x.xoffSent then sendPause (putPort s p { x with xoffSent := false }) p 0
        else s
      else if flowMode s p = 2 ∧ macRd s Reg.hpFlow Reg.cpFlow p 4 4 = 1 then
        let want := pfcWanted s p
        if want != x.pfcSent then sendPfc (putPort s p { x with pfcSent := want }) p (want ||| x.pfcSent) want else s
      else s
    if halfDuplex s p ∧ rdBit s Reg.cpCfg [p - 48] 15 then
      let x := port s p
      putPort s p { x with backPressure := decide (max 1 (rd s Reg.cpCfg [p - 48] 17 16) ≤ portWarn s p) }
    else putPort s p { port s p with backPressure := false }

end Sys2Proof.Machine
end

