-- ==== Sys2Proof/Machine/Buffers.lean ====
section
/-! DEFINITION. The buffer pool manager: pools, accounts and warnings, references, rejected operations, and the
commands SHARE, DROP_REF, FREE, POINTER_CACHE_REFILL and OPERATION_TAG_RETURNED (chapter 7). -/
namespace Sys2Proof.Machine

/-! ### Pools (R181, R182) -/

/-- The address of the first buffer of pool `n` (Table 7-1). -/
def poolBase (n : Nat) : Nat := [0, 0x40000000, 0x50000000, 0x60000000, 0x70000000, 0x78000000].getD n 0

/-- The bytes of one buffer of pool `n`. -/
def bufSize (n : Nat) : Nat := [256, 16384, 16384, 16384, 16384, 65536].getD n 1

/-- The bytes of pool `n`'s range; the CELL pool and the DRAM pools fill theirs. -/
def poolRange (n : Nat) : Nat := poolSize n * bufSize n

def putPool (s : State) (n : Nat) (p : Pool) : State :=
  { s with bpm := { s.bpm with pools := s.bpm.pools.set n p } }

/-- The free store's next pointer and the pool without it: pointers never granted come first, then the returned ones
in the order of their return. -/
def Pool.take (p : Pool) (size : Nat) : Option (Nat × Pool) :=
  if p.fresh < size then some (p.fresh, { p with fresh := p.fresh + 1 })
  else match p.returned with
    | [] => none
    | i :: rest => some (i, { p with returned := rest })

/-! ### Accounts (R201 to R204) -/

/-- Cells charged to account key `k`: 9 r for the port account of requester r, 9 r + 1 + c for its class account. -/
def charged (s : State) (k : Nat) : Nat := get 0 s.bpm.charged k

/-- The warning state after the level becomes `lvl` cells: level k stands from WARNk × 16 until the level falls below
(WARNk − HYST) × 16 (R203). -/
def warnState (old lvl w1 w2 w3 hyst : Nat) : Nat :=
  let h := max 1 hyst
  let stands (k w : Nat) : Bool := decide (w * 16 ≤ lvl) || decide (k ≤ old ∧ (w - h) * 16 ≤ lvl)
  if stands 3 w3 then 3 else if stands 2 w2 then 2 else if stands 1 w1 then 1 else 0

/-- The warning states of requester `r` from its levels and the thresholds in force, and what follows them. -/
def reWarn (s : State) (r : Nat) : State :=
  let port := warnState (portWarn s r) (charged s (r * 9)) (rd s Reg.bpmAccWarnA [r] 13 0)
    (rd s Reg.bpmAccWarnA [r] 29 16) (rd s Reg.bpmAccWarnB [r] 13 0) (rd s Reg.bpmAccWarnB [r] 29 16)
  let cls (c : Nat) := warnState (classWarn s r c) (charged s (r * 9 + 1 + c)) (rd s Reg.bpmClsWarnA [r] 13 0)
    (rd s Reg.bpmClsWarnA [r] 29 16) (rd s Reg.bpmClsWarnB [r] 13 0) (rd s Reg.bpmClsWarnB [r] 29 16)
  let w := (List.range 8).foldl (fun w c => set 0 w (r * 9 + 1 + c) (cls c)) (set 0 s.bpm.warning (r * 9) port)
  followAccount { s with bpm := { s.bpm with warning := w } } r

/-- `n` cells charged to requester `r` and class `c`. -/
def charge (s : State) (r c n : Nat) : State :=
  let m := set 0 s.bpm.charged (r * 9) (charged s (r * 9) + n)
  let m := set 0 m (r * 9 + 1 + c) (get 0 m (r * 9 + 1 + c) + n)
  reWarn { s with bpm := { s.bpm with charged := m } } r

/-- `n` cells released from requester `r` and class `c`. -/
def discharge (s : State) (r c n : Nat) : State :=
  let m := set 0 s.bpm.charged (r * 9) (charged s (r * 9) - n)
  let m := set 0 m (r * 9 + 1 + c) (get 0 m (r * 9 + 1 + c) - n)
  reWarn { s with bpm := { s.bpm with charged := m } } r

/-! ### Returning buffers (R182, R192 to R194) -/

def findBuf (s : State) (n i : Nat) : Option Buf := find (pool s n).bufs i

def putBuf (s : State) (n i : Nat) (b : Buf) : State :=
  putPool s n { pool s n with bufs := put (pool s n).bufs i b }

/-- The buffer returns with every cell of its chain; its charges and its share of the reserve are released. -/
def returnBuf (s : State) (n i : Nat) : State :=
  match findBuf s n i with
  | none => s
  | some b =>
    let p := pool s n
    let s := putPool s n { p with bufs := drop p.bufs i, returned := p.returned ++ b.cells,
                                  reserveUsed := p.reserveUsed - b.fromReserve }
    if n = 0 then discharge s b.requester b.cls b.cells.length else s

/-- A buffer whose last reference is released returns once its chain is closed (R194). -/
def letGo (s : State) (n i : Nat) : State :=
  match findBuf s n i with
  | none => s
  | some b => if b.closed then returnBuf s n i else putBuf s n i { b with returning := true }

/-- `n` references to a shared buffer are gone: at a count of 1, a deferred FREE is executed (R192). -/
def lowerCount (s : State) (p i n : Nat) : State :=
  match findBuf s p i with
  | none => s
  | some b =>
    let s := putBuf s p i { b with count := b.count - n }
    if n ≠ 0 ∧ b.count - n = 1 ∧ b.deferred then letGo (bump s Ctr.bpm [] 6 1) p i else s

/-- DROP_REF of one holder (R191). -/
def dropHolder (s : State) (p i : Nat) (tag : BitVec 8) : State :=
  match findBuf s p i with
  | none => s
  | some b => lowerCount (putBuf s p i { b with holders := b.holders.erase tag }) p i 1

/-- The writer closes the chain, and a return that waited for it happens (R194). -/
def closeBuf (s : State) (n i : Nat) : State :=
  match findBuf s n i with
  | none => s
  | some b =>
    let s := putBuf s n i { b with closed := true }
    if b.returning then returnBuf s n i else s

/-! ### Rejected operations (R200, R209) -/

/-- The tags of Table 7-4: the owner, or the last owner of a shared buffer, or 0xFF. -/
def foundTag (s : State) (n i : Nat) : BitVec 8 :=
  match findBuf s n i with
  | none => 0xFF
  | some b => if b.shared then b.last else b.owner

/-- A rejected operation counts its kind and BPM_ERR_CNT and writes one entry of the error log. -/
def reject (s : State) (kind op n : Nat) (tag found : BitVec 8) (ptr : Word) : State :=
  let s := bump s Ctr.bpm [] (7 + kind) 1
  let s := countEvent s Reg.bpmErrCnt []
  let t := dtFrac s
  let e : BitVec 128 := BitVec.ofNat 128 (t / fracPerSec % 2 ^ 32 * 2 ^ 96 + t % fracPerSec / 65536 * 2 ^ 64
    + kind * 2 ^ 60 + op * 2 ^ 58 + n * 2 ^ 48 + tag.toNat * 2 ^ 40 + found.toNat * 2 ^ 32 + ptr.toNat)
  let k := ((word s Reg.bpmErrCnt []).toNat + 2 ^ 32 - 1) % 2 ^ 32 % 64
  { s with bpm := { s.bpm with errorLog := put s.bpm.errorLog k e } }

/-- The first two checks of Table 7-3: the kind of the failure, or the buffer's index. -/
def locate (n : Nat) (ptr : Word) : Sum Nat Nat :=
  let a := ptr.toNat
  if a < poolBase n ∨ poolBase n + poolRange n ≤ a then .inl 1
  else if (a - poolBase n) % bufSize n ≠ 0 then .inl 2
  else .inr ((a - poolBase n) / bufSize n)

/-- The buffer whose chain holds cell `i` as a body cell (Table 7-3, check 4). -/
def bodyCell (s : State) (i : Nat) : Bool := (pool s 0).bufs.any fun e => e.2.cells.tail.contains i

/-- The pool whose range holds a pointer; the CELL pool where none does. -/
def poolOf (ptr : Word) : Nat :=
  ((List.range 6).find? fun n => decide (poolBase n ≤ ptr.toNat ∧ ptr.toNat < poolBase n + poolRange n)).getD 0

/-- SHARE (R190): rejected as SHARE on a shared buffer, on a DRAM pool buffer and with n out of range. -/
def shareBuf (s : State) (tag : BitVec 8) (ptr : Word) (n : Nat) (last : BitVec 8) : State :=
  let p := poolOf ptr
  match locate p ptr with
  | .inl k => reject s k 2 p tag 0xFF ptr
  | .inr i =>
    match findBuf s p i with
    | none => reject s (if p = 0 ∧ bodyCell s i then 4 else 3) 2 p tag 0xFF ptr
    | some b =>
      if b.owner != tag then reject s 4 2 p tag (foundTag s p i) ptr
      else if b.shared || p != 0 || decide (n < 2) || decide (128 < n) then reject s 6 2 p tag (foundTag s p i) ptr
      else putBuf s 0 i { b with shared := true, count := n, last := last, holders := [] }

/-- DROP_REF (R191). -/
def dropRefBuf (s : State) (tag : BitVec 8) (n : Nat) (ptr : Word) : State :=
  match locate n ptr with
  | .inl k => reject s k 1 n tag 0xFF ptr
  | .inr i =>
    match findBuf s n i with
    | none => reject s (if n = 0 ∧ bodyCell s i then 4 else 3) 1 n tag 0xFF ptr
    | some b =>
      if !b.holders.contains tag then reject s 4 1 n tag (foundTag s n i) ptr
      else if b.count ≤ 1 then reject s 5 1 n tag (foundTag s n i) ptr
      else dropHolder s n i tag

/-- FREE (R192). -/
def freeBuf (s : State) (tag : BitVec 8) (n : Nat) (ptr : Word) : State :=
  match locate n ptr with
  | .inl k => reject s k 0 n tag 0xFF ptr
  | .inr i =>
    match findBuf s n i with
    | none => reject s (if n = 0 ∧ bodyCell s i then 4 else 3) 0 n tag 0xFF ptr
    | some b =>
      if b.shared then
        if b.last != tag then reject s 4 0 n tag b.last ptr
        else if b.deferred then reject s 3 0 n tag b.last ptr
        else if b.count = 1 then letGo s n i
        else putBuf s n i { b with deferred := true }
      else if b.owner != tag then reject s 4 0 n tag b.owner ptr
      else letGo s n i

/-! ### Pointer caches and operation tags (R19, R185) -/

/-- The operation tags of Table 1-5. -/
def tagLimit : Nat := 65536

/-- A refill of pool `n`'s pointer cache begins, or waits for an operation tag. -/
def startRefill (s : State) (n : Nat) : State :=
  let s := putPool s n { pool s n with refilling := true }
  if s.bpm.tagsInUse < tagLimit then { s with bpm := { s.bpm with tagsInUse := s.bpm.tagsInUse + 1 } }
  else { s with bpm := { s.bpm with tagWaiters := s.bpm.tagWaiters ++ [n] } }

/-- A tag comes back; the first refill that waits for one takes it. -/
def returnTag (s : State) : State :=
  match s.bpm.tagWaiters with
  | [] => { s with bpm := { s.bpm with tagsInUse := s.bpm.tagsInUse - 1 } }
  | _ :: rest => { s with bpm := { s.bpm with tagWaiters := rest } }

/-- A DMA request takes an operation tag; while none is free it waits at its source, and nothing happens (R19). -/
def withTag (s : State) (f : State → State) : State :=
  if tagLimit ≤ s.bpm.tagsInUse then s else f { s with bpm := { s.bpm with tagsInUse := s.bpm.tagsInUse + 1 } }

/-! ### The operations of a slot (R193) -/

/-- The pointer of cell `i`. -/
def cellPtr (i : Nat) : Word := BitVec.ofNat 32 (poolBase 0 + i * bufSize 0)

/-- The place of an operation among those of its slot: SHARE, each DROP_REF in ascending tag order, FREE. -/
def BufOp.rank : BufOp → Nat
  | .share .. => 0
  | .dropRef tag _ _ => 1 + tag.toNat
  | .free .. => 257

/-- The pointer that an operation names. -/
def BufOp.ptr : BufOp → Word
  | .share _ ptr _ _ => ptr
  | .dropRef _ _ ptr => ptr
  | .free _ _ ptr => ptr

/-- One operation with its checks (Table 7-3). -/
def applyOp (s : State) : BufOp → State
  | .share tag ptr n last => shareBuf s tag ptr n last
  | .dropRef tag n ptr => dropRefBuf s tag n ptr
  | .free tag n ptr => freeBuf s tag n ptr

/-- An operation is given: it waits for the end of the slot. -/
def giveOp (s : State) (o : BufOp) : State := { s with bpm := { s.bpm with ops := s.bpm.ops ++ [o] } }

/-- The slot ends: its operations apply in their order, those of one place in the order in which they were given. -/
def applyOps (s : State) : State :=
  let ops := s.bpm.ops
  ((List.range 258).flatMap fun k => ops.filter fun o => o.rank == k).foldl applyOp { s with bpm := { s.bpm with ops := [] } }

/-- An operation of the device's own on a cell buffer: at once, unless one on that buffer waits for the end of the slot. -/
def ownOp (s : State) (o : BufOp) : State := if s.bpm.ops.any fun w => w.ptr == o.ptr then giveOp s o else applyOp s o

/-- SHARE: the owner of an unshared cell buffer sets its reference count and last owner (R190). -/
def execShare (tag : BitVec 8) (ptr : Word) (n : Nat) (last : BitVec 8) (s : State) :
    Host.Outcome State Fault Refusal := done (giveOp s (.share tag ptr n last))

/-- DROP_REF: a holder drops its reference (R191). -/
def execDropRef (tag : BitVec 8) (n : Fin 6) (ptr : Word) (s : State) : Host.Outcome State Fault Refusal :=
  done (giveOp s (.dropRef tag n ptr))

/-- FREE: an owner or last owner returns a buffer (R192). -/
def execFree (tag : BitVec 8) (n : Fin 6) (ptr : Word) (s : State) : Host.Outcome State Fault Refusal :=
  done (giveOp s (.free tag n ptr))

/-- POINTER_CACHE_REFILL: a refill that holds its tag completes, and the tag returns (R185, R19). -/
def execPointerCacheRefill (n : Fin 6) (s : State) : Host.Outcome State Fault Refusal :=
  let p := pool s n
  if p.refilling && n.val != 0 && !s.bpm.tagWaiters.contains n then
    done (returnTag (putPool s n { p with refilling := false, cache := min (poolFree s n) (1 + Config.cacheDepth n) }))
  else done s

/-- OPERATION_TAG_RETURNED: a tag in use returns, and a waiting request takes it (R19). -/
def execOperationTagReturned (s : State) : Host.Outcome State Fault Refusal :=
  if s.bpm.tagsInUse = 0 then done s else done (returnTag s)

end Sys2Proof.Machine
end

