-- ==== Sys2Proof/Machine/Hashed.lean ====
section
/-! DEFINITION. How a key finds a slot in a hashed table of buckets of four slots with a stash (R126, R132), for the
FDB with four banks and the SID table with two (R160). -/
namespace Sys2Proof.Machine

/-- One step of the reflected CRC-32C (R126). -/
def crc32cStep (r : BitVec 32) : BitVec 32 := if r.getLsbD 0 then (r >>> 1) ^^^ 0x82F63B78#32 else r >>> 1

/-- The reflected CRC-32C register after the bytes of `bs`, loaded with `seed` and not complemented (R126). -/
def crc32c (seed : BitVec 32) (bs : List Byte) : BitVec 32 :=
  bs.foldl (fun r b => (List.range 8).foldl (fun r _ => crc32cStep r) (r ^^^ b.setWidth 32)) seed

/-- Where a new key goes (R132). -/
inductive Placement where
  | slot (i : Nat)
  /-- Moves from slot to slot, in the order they are made, and the slot that the key then takes. -/
  | chain (moves : List (Nat × Nat)) (i : Nat)
  | stash (i : Nat)
  | defer
  | fail
  deriving DecidableEq, Repr

/-- The lowest free slot of a bucket that begins at `base`, among those whose lock state is `held`. -/
def freeSlot (keyAt : Nat → Option Nat) (locked : Nat → Bool) (held : Bool) (base : Nat) : Option Nat :=
  ((List.range 4).map (base + ·)).find? fun i => (keyAt i).isNone && locked i == held

/-- The relocation chain of R132, step 2, from key `cur` in bank `b`: `first b k` is the first slot of key k's bucket
in bank b. Answers the moves with the slot that comes free, the walk counter, and whether a locked segment barred
the chain. `path` holds the slots displaced so far, newest first. -/
def chainWalk (banks : Nat) (first : Nat → Nat → Nat) (keyAt : Nat → Option Nat) (locked : Nat → Bool) :
    Nat → Nat → Nat → List Nat → Nat → Bool → Option (List (Nat × Nat) × Nat) × Nat × Bool
  | 0, _, _, _, walk, barred => (none, walk, barred)
  | fuel + 1, b, cur, path, walk, barred =>
    let base := first b cur
    match ((List.range 4).map fun t => base + (walk + t) % 4).find? fun i => !path.contains i with
    | none => (none, walk + 1, barred)
    | some v =>
      if locked v then (none, walk + 1, true)
      else match keyAt v with
        | none => (none, walk + 1, barred)
        | some vk =>
          let others := (List.range banks).filter (· != b)
          let path := v :: path
          match others.findSome? fun nb => freeSlot keyAt locked false (first nb vk) with
          | some f => (some (path.zip (f :: path), path.getLastD v), walk + 1, barred)
          | none =>
            chainWalk banks first keyAt locked fuel ((b + 1) % banks) vk path (walk + 1)
              (barred || others.any fun nb => (freeSlot keyAt locked true (first nb vk)).isSome)

/-- Steps 1 and 2 of R132: a free slot, else a chain. Answers the placement, if any, the rotating bank and walk
counters, and whether a locked segment barred the chain. -/
def placeMain (banks : Nat) (first : Nat → Nat → Nat) (keyAt : Nat → Option Nat) (locked : Nat → Bool)
    (rot walk key : Nat) : Option Placement × Nat × Nat × Bool :=
  match (List.range banks).findSome? fun b => freeSlot keyAt locked false (first b key) with
  | some i => (some (.slot i), rot, walk, false)
  | none =>
    match chainWalk banks first keyAt locked 8 rot key [] walk false with
    | (some (moves, i), walk, barred) => (some (.chain moves i), (rot + 1) % banks, walk, barred)
    | (none, walk, barred) => (none, (rot + 1) % banks, walk, barred)

/-- The steps of R132 for a new key, in a table of `size` slots and `stash` stash entries. -/
def place (banks size stash : Nat) (first : Nat → Nat → Nat) (keyAt : Nat → Option Nat) (locked : Nat → Bool)
    (homeLocked : Bool) (rot walk key : Nat) : Placement × Nat × Nat :=
  match placeMain banks first keyAt locked rot walk key with
  | (some p, rot, walk, _) => (p, rot, walk)
  | (none, rot, walk, barred) =>
    match (if homeLocked then none
           else ((List.range stash).map (size + ·)).find? fun i => (keyAt i).isNone) with
    | some i => (.stash i, rot, walk)
    | none =>
      if barred || homeLocked || (List.range banks).any fun b => locked (first b key) then (.defer, rot, walk)
      else (.fail, rot, walk)

end Sys2Proof.Machine
end

