-- ==== Sys2Proof/Machine/Fdb.lean ====
section
/-! DEFINITION. The FDB and MDB with their writer: table landings, learning, relocation, the stash, segment locks,
aging, flushes, FDB_CMD and FDB_MDB_EDIT (chapter 5). -/
namespace Sys2Proof.Machine

/-! ### Entries, keys and counts (R126, R127) -/

/-- The slots of the main table (R127); stash entry j has index `fdbSize` + j. -/
def fdbSize : Nat := 131072

def fdbEntry (s : State) (i : Nat) : BitVec 128 := get 0 s.fdb.entries i

/-- The key (FID, MAC) as one number: the 8 key bytes of R126. -/
def fdbKey (fid : Nat) (mac : Nat) : Nat := fid % 4096 * 2 ^ 48 + mac % 2 ^ 48

/-- The key of an entry. -/
def entryKey (e : BitVec 128) : Nat := fdbKey (fld e 59 48) (fld e 47 0)

/-- The key that index `i` holds, if its entry is valid. -/
def fdbKeyAt (s : State) (i : Nat) : Option Nat :=
  let e := fdbEntry s i
  if flag e 127 then some (entryKey e) else none

/-- The first slot of key `k`'s candidate bucket in bank `b` (R126, R127). -/
def fdbFirst (s : State) (b k : Nat) : Nat :=
  b * 32768 + (crc32c (word s Reg.fdbHashSeed [b]) (toBytes 8 k)).toNat % 8192 * 4

/-- The lock segment of an index; a stash entry belongs to its HOME segment (R127). -/
def fdbSeg (s : State) (i : Nat) : Nat :=
  if i < fdbSize then i / 2048 else fld (fdbEntry s i) 65 60

/-- The HOME segment of a key: the segment of its bank-0 candidate. -/
def homeSeg (s : State) (k : Nat) : Nat := fdbFirst s 0 k / 2048

/-- The segment is held by the host (`mc` false) or by the management cores. -/
def segHeld (s : State) (mc : Bool) (g : Nat) : Bool :=
  rdBit s (if mc then Reg.fdbLockMc else Reg.fdbLockHost) [g / 32] (g % 32)

/-- The segment is locked. -/
def segLocked (s : State) (g : Nat) : Bool := segHeld s false g || segHeld s true g

/-- The requester stands with the management cores where locks are concerned. -/
def isMc : Requester → Bool
  | .host => false
  | _ => true

/-- The segment is locked by another requester than `req`. -/
def segBarred (s : State) (req : Requester) (g : Nat) : Bool := req != .twin && segHeld s (!isMc req) g

/-- The indices at which key `k` is found: two while an entry moves (R133). -/
def fdbFind (s : State) (k : Nat) : List Nat :=
  ((List.range 4).flatMap fun b => (List.range 4).map (fdbFirst s b k + ·)).filter (fun i => fdbKeyAt s i == some k)
    ++ ((List.range 64).map (fdbSize + ·)).filter fun i => fdbKeyAt s i == some k

/-- Valid entries, each key counted at its lowest index only. -/
def fdbValid (s : State) : List (Nat × BitVec 128) :=
  s.fdb.entries.filter fun x => flag x.2 127 &&
    s.fdb.entries.all fun y => !(flag y.2 127 && entryKey y.2 == entryKey x.2 && decide (y.1 < x.1))

/-- FDB_PORT_CNT of port `p` (R136). -/
def portCount (s : State) (p : Nat) : Nat :=
  ((fdbValid s).filter fun x => !flag x.2 126 && fld x.2 113 112 == 0 && fld x.2 88 82 == p).length

/-- Port `p` has reached its learn limit. -/
def atLimit (s : State) (p : Nat) : Bool := decide (rd s Reg.pipeLearnLimit [pipeOf s p, p] 17 0 ≤ portCount s p)

/-! ### The writer (R110, R116, R131, R133) -/

/-- The bits of an FDB entry that are stored: reserved bits read zero. -/
def fdbMask : BitVec 128 := 0xFFC3FFFFFFFCFFFF_CFFFFFFFFFFFFFFF

/-- The four words of an entry, the lowest first. -/
def wordsOf {n : Nat} (count : Nat) (e : BitVec n) : List Word :=
  (List.range count).map fun w => BitVec.ofNat 32 (e.toNat / 2 ^ (32 * w))

/-- The BAR0 offset of an index in the table window (R127). -/
def fdbAddr (i : Nat) : Nat := if i < fdbSize then 0x2000000 + i * 16 else 0x2200000 + (i - fdbSize) * 16

/-- The entry is one that the flush deletes. -/
def flushMatches (f : Flush) (e : BitVec 128) : Bool :=
  flag e 127 && (f.inclStatic || !flag e 126) && (!f.byPort || (fld e 113 112 == 0 && fld e 88 82 == f.port)) &&
    (!f.byFid || fld e 59 48 == f.fid)

/-- A matched key whose entry is gone, or is no longer one that its flush deletes, is done with; a flush without keys is
complete. -/
def pruneFlushes (s : State) : State :=
  if s.fdb.flushes = [] then s
  else
    let live (f : Flush) : Flush := { f with todo := f.todo.filter fun k => (fdbFind s k).any fun i => flushMatches f (fdbEntry s i) }
    { s with fdb := { s.fdb with flushes := (s.fdb.flushes.map live).filter fun f => f.todo != [] } }

/-- One entry lands in all four replicas: HOME is kept in stash entries alone. -/
def landFdb (s : State) (i : Nat) (e : BitVec 128) : State :=
  let e := setFld (e &&& fdbMask) 65 60 0
  let e := if i < fdbSize ∨ !flag e 127 then e else setFld e 65 60 (homeSeg s (entryKey e))
  let s := { s with fdb := { s.fdb with entries := set 0 s.fdb.entries i e } }
  mirror s 1 (fdbAddr i) (wordsOf 4 e)

/-- The entries at several indices removed. -/
def clearFdb (s : State) (is : List Nat) : State := pruneFlushes (is.foldl (fun s i => landFdb s i 0) s)

/-- TS of every copy found set to the current tick, in the age array (R142). -/
def touchFdb (s : State) (is : List Nat) : State :=
  { s with fdb := { s.fdb with
      entries := is.foldl (fun l i => set 0 l i (setFld (get 0 l i) 111 96 s.fdb.tick)) s.fdb.entries } }

/-- The writer has no chain in progress. -/
def noChain (s : State) : Bool := s.fdb.chain == [] && s.fdb.chainKey == none

/-- A chain's last write has landed: what it was for counts. -/
def chainEnd (s : State) (i use : Nat) : State :=
  if use = 0 then bump s Ctr.fdb [] 0 1
  else if use = 1 then wr s Reg.fdbCmdCtrl [] 25 8 i
  else s

/-- The next write of the chain in progress: a move, the key, or the clearing of a drained stash entry (R133). -/
def chainStep (s : State) : State :=
  match s.fdb.chain with
  | (src, dst) :: rest =>
    let s := landFdb { s with fdb := { s.fdb with chain := rest } } dst (fdbEntry s src)
    bump s Ctr.fdb [] 8 1
  | [] =>
    match s.fdb.chainKey with
    | none => s
    | some (i, e, use) =>
      if use < 66 then
        let e := if use < 2 then e else fdbEntry s (fdbSize + (use - 2))
        let next := if use < 2 then none else some (i, e, use + 64)
        chainEnd (landFdb { s with fdb := { s.fdb with chainKey := next } } i e) i use
      else clearFdb { s with fdb := { s.fdb with chainKey := none } } [fdbSize + (use - 66)]

/-- The chain in progress completes its remaining writes: at most eight moves, the key and a clearing. -/
def finishChain : Nat → State → State
  | 0, s => s
  | n + 1, s => if noChain s then s else finishChain n (chainStep s)

/-- The table of a window offset: 0 the FDB with its stash, 1 the MDB, 2 the VLAN table. -/
def tableOf (a : Nat) : Nat := if a < 0x2300000 then 0 else if a < 0x2400000 then 1 else 2

/-- The words of an entry as one number, the lowest word first. -/
def joinWords (ws : List Word) : Nat := ws.foldr (fun w a => w.toNat + 2 ^ 32 * a) 0

/-- The bits of an MDB group (Table 5-3) and of a VLAN entry (Table 5-1) that are stored. -/
def mdbMask : BitVec 256 := BitVec.ofNat 256 (15 * 2 ^ 252 + (2 ^ 192 - 1))
def vlanMask : BitVec 256 := BitVec.ofNat 256 (255 * 2 ^ 248 + 4095 * 2 ^ 224 + (2 ^ 192 - 1))

/-- One MDB group lands. -/
def landMdb (s : State) (g : Nat) (e : BitVec 256) : State :=
  let e := e &&& mdbMask
  mirror { s with fdb := { s.fdb with mdb := set 0 s.fdb.mdb g e } } 2 (0x2300000 + g * 32) (wordsOf 8 e)

/-- One VLAN entry lands. -/
def landVlan (s : State) (v : Nat) (e : BitVec 256) : State :=
  let e := e &&& vlanMask
  mirror { s with fdb := { s.fdb with vlan := set 0 s.fdb.vlan v e } } 2 (0x2400000 + v * 32) (wordsOf 8 e)

/-- The segments that a write of entry `e` at index `i` touches; in the stash those are the HOME segments of the entry written
and of the one that it replaces. -/
def writeSegs (s : State) (i : Nat) (e : BitVec 128) : List Nat :=
  if i < fdbSize then [i / 2048]
  else (if flag e 127 then [homeSeg s (entryKey e)] else []) ++ if flag (fdbEntry s i) 127 then [fdbSeg s i] else []

/-- The index and entry of a write to the FDB's window. -/
def fdbWrite (w : TableWrite) : Nat × BitVec 128 :=
  (if w.addr < 0x2200000 then (w.addr - 0x2000000) / 16 else fdbSize + (w.addr - 0x2200000) / 16,
   BitVec.ofNat 128 (joinWords w.words))

/-- A whole entry written through the table window lands. A write to a segment that another requester holds locked
changes nothing (R139). -/
def landTable (s : State) (w : TableWrite) : State :=
  let a := w.addr
  let e := joinWords w.words
  match tableOf a with
  | 0 =>
    let (i, e) := fdbWrite w
    if (writeSegs s i e).any (segBarred s w.req) then s else pruneFlushes (landFdb s i e)
  | 1 => landMdb s ((a - 0x2300000) / 32) (BitVec.ofNat 256 e)
  | _ => landVlan s ((a - 0x2400000) / 32) (BitVec.ofNat 256 e)

/-- The oldest waiting write of table `t` lands, if one waits. -/
def landFirst (s : State) (t : Nat) : State :=
  match s.fdb.tableWrites.find? fun w => tableOf w.addr == t with
  | none => s
  | some w =>
    landTable { s with fdb := { s.fdb with tableWrites := s.fdb.tableWrites.eraseP fun x => tableOf x.addr == t } } w

/-- Every waiting write of table `t` lands, in order; those of the FDB after the chain in progress (R131). -/
def landAll (s : State) (t : Nat) : State :=
  let s := if t = 0 then finishChain 10 s else s
  s.fdb.tableWrites.foldl (fun s _ => landFirst s t) s

/-- TABLE_EPOCH: each table's one writer lands at most one entry, the FDB's while no chain is in progress (R110,
R131). -/
def execTableEpoch (s : State) : Host.Outcome State Fault Refusal :=
  let s := if noChain s then landFirst s 0 else s
  done (landFirst (landFirst s 1) 2)

/-! ### Learning (R129 to R136) -/

/-- A request enters the deferral queue, or is discarded and counts FDB_LEARN_FAIL (R139). -/
def deferLearn (s : State) (q : LearnReq) : State :=
  if s.fdb.deferQueue.length < 256 then
    { s with fdb := { s.fdb with deferQueue := s.fdb.deferQueue ++ [q] } }
  else bump s Ctr.fdb [] 1 1

/-- The state with the rotating bank and walk counters of R132. -/
def putWalk (s : State) (rot walk : Nat) : State := { s with fdb := { s.fdb with rot := rot, walk := walk } }

/-- A chain begins; its moves and its last write each take an epoch. -/
def startChain (s : State) (moves : List (Nat × Nat)) (i : Nat) (e : BitVec 128) (use : Nat) : State :=
  { s with fdb := { s.fdb with chain := moves, chainKey := some (i, e, use) } }

/-- A new dynamic entry for a station on port `p`. -/
def freshEntry (s : State) (k p : Nat) : BitVec 128 :=
  setFld (setFld (setFld (BitVec.ofNat 128 (2 ^ 127)) 59 0 k) 88 82 p) 111 96 s.fdb.tick

/-- The learning engine performs one request: a refresh, a station move (R135), or a new key (R132, R136). -/
def learnOne (s : State) (q : LearnReq) : State :=
  let k := fdbKey q.fid q.mac.toNat
  match fdbFind s k with
  | i :: is =>
    let e := fdbEntry s i
    if fld e 88 82 = q.port then touchFdb s (i :: is)
    else if flag e 126 || flag e 125 then bump s Ctr.fdb [] 5 1
    else if (i :: is).any fun j => segLocked s (fdbSeg s j) then deferLearn s q
    else if atLimit s q.port then countPipe (clearFdb s (i :: is)) q.port 6 1
    else
      let s := (i :: is).foldl (fun s j =>
        landFdb s j (setFld (setFld (fdbEntry s j) 88 82 q.port) 111 96 s.fdb.tick)) s
      let s := { s with fdb := { s.fdb with movesThisTick := s.fdb.movesThisTick + 1 } }
      bump (pruneFlushes s) Ctr.fdb [] 4 1
  | [] =>
    if atLimit s q.port then countPipe s q.port 6 1
    else
      let e := freshEntry s k q.port
      match place 4 fdbSize 64 (fdbFirst s) (fdbKeyAt s) (fun i => segLocked s (fdbSeg s i))
          (segLocked s (homeSeg s k)) s.fdb.rot s.fdb.walk k with
      | (p, rot, walk) =>
        let s := putWalk s rot walk
        match p with
        | .slot i => bump (landFdb s i e) Ctr.fdb [] 0 1
        | .chain moves i => startChain s moves i e 0
        | .stash i => bump (bump (landFdb s i e) Ctr.fdb [] 0 1) Ctr.fdb [] 9 1
        | .defer => deferLearn s q
        | .fail => bump s Ctr.fdb [] 2 1

/-- No source of priority 1 or 2 is writing the FDB, and no chain is in progress (R131). -/
def writerFree (s : State) : Bool := noChain s && s.fdb.tableWrites.all fun w => tableOf w.addr != 0

/-- A request enters the queue of R130. -/
def requestLearn (s : State) (q : LearnReq) : State :=
  if s.fdb.learnQueue.any fun x => x.fid == q.fid && x.mac == q.mac then s
  else if s.fdb.learnQueue.length < 1024 then
    { s with fdb := { s.fdb with learnQueue := s.fdb.learnQueue ++ [q] } }
  else bump s Ctr.fdb [] 3 1

/-- LEARN: the engine performs the oldest request of the queue, while no source of higher priority writes (R131,
R132). -/
def execLearn (s : State) : Host.Outcome State Fault Refusal :=
  match s.fdb.learnQueue with
  | [] => done s
  | q :: rest =>
    if writerFree s && s.fdb.replayQueue == [] then
      done (learnOne { s with fdb := { s.fdb with learnQueue := rest } } q)
    else done s

/-- RELOCATION_MOVE: one write of the chain in progress (R133). -/
def execRelocationMove (s : State) : Host.Outcome State Fault Refusal := done (chainStep s)

/-- STASH_DRAIN: with no learn waiting and no write of higher priority, the next valid stash entry in ascending index
tries steps 1 and 2 of R132 (R134). -/
def execStashDrain (s : State) : Host.Outcome State Fault Refusal :=
  let valid := (List.range 64).filter fun j => (fdbKeyAt s (fdbSize + j)).isSome
  if !(writerFree s && s.fdb.replayQueue == [] && s.fdb.learnQueue == []) then done s
  else match (valid.find? fun j => decide (s.fdb.stashNext ≤ j)).or valid.head? with
    | none => done s
    | some j =>
      let s := { s with fdb := { s.fdb with stashNext := j + 1 } }
      let i := fdbSize + j
      if segLocked s (fdbSeg s i) then done s
      else match placeMain 4 (fdbFirst s) (fdbKeyAt s) (fun x => segLocked s (fdbSeg s x)) s.fdb.rot s.fdb.walk
          (entryKey (fdbEntry s i)) with
        | (p, rot, walk, _) =>
          let s := putWalk s rot walk
          match p with
          | some (.slot x) => done (startChain s [] x (fdbEntry s i) (2 + j))
          | some (.chain moves x) => done (startChain s moves x (fdbEntry s i) (2 + j))
          | _ => done s

/-- Released requests are performed in order until one begins a chain. -/
def replay : List LearnReq → State → State
  | [], s => s
  | q :: rest, s =>
    if noChain s then replay rest (learnOne { s with fdb := { s.fdb with replayQueue := rest } } q) else s

/-- DEFERRAL_REPLAY: the writer performs the released requests as fresh learns (R140). -/
def execDeferralReplay (s : State) : Host.Outcome State Fault Refusal :=
  if writerFree s then done (replay s.fdb.replayQueue s) else done s

/-! ### Aging (R143 to R145) -/

/-- The scanner's visit to the entry at index `i`. -/
def scanEntry (s : State) (i : Nat) : State :=
  let e := fdbEntry s i
  if !flag e 127 || flag e 126 || segLocked s (fdbSeg s i) then s
  else
    let age := (s.fdb.tick + 65536 - fld e 111 96) % 65536
    let ts := if 32767 < age then (s.fdb.tick + 65536 - 32767) % 65536 else fld e 111 96
    let s := { s with fdb := { s.fdb with entries := set 0 s.fdb.entries i (setFld e 111 96 ts) } }
    let k := entryKey e
    if rdBit s Reg.fdbCtrl [] 1 && decide (rd s Reg.fdbAge [] 15 0 ≤ age) &&
        !(s.fdb.ageQueue.any fun x => x.1 == k) then
      { s with fdb := { s.fdb with ageQueue := s.fdb.ageQueue ++ [(k, ts)] } }
    else s

/-- The period of the aging tick, in ticks of 1.25 ns: TICK × 10 ms. -/
def agePeriod (s : State) : Nat := max 1 (rd s Reg.fdbAge [] 31 16) * 8000000

/-- The DT instant of the next aging tick: the first multiple of the period after `tickAt`. -/
def nextAge (s : State) : Nat := (s.fdb.tickAt / agePeriod s + 1) * agePeriod s

/-- The aging tick counts from now: reset has been left, or TICK has changed (R143). -/
def restartAge (s : State) : State := { s with fdb := { s.fdb with tickAt := s.time.dt } }

/-- Every source of the FDB writer above deletes is idle (R131). -/
def deletesMay (s : State) : Bool := writerFree s && s.fdb.replayQueue == [] && s.fdb.learnQueue == []

/-- AGE_DELETE: the writer executes the oldest compare-and-delete, or counts FDB_AGE_SAVED (R145). -/
def execAgeDelete (s : State) : Host.Outcome State Fault Refusal :=
  match s.fdb.ageQueue with
  | [] => done s
  | (k, ts) :: rest =>
    if !deletesMay s then done s
    else
      let s := { s with fdb := { s.fdb with ageQueue := rest } }
      match fdbFind s k with
      | [] => done s
      | i :: is =>
        if (i :: is).any (fun j => segLocked s (fdbSeg s j)) || flag (fdbEntry s i) 126 then done s
        else if fld (fdbEntry s i) 111 96 = ts then done (bump (clearFdb s (i :: is)) Ctr.fdb [] 6 1)
        else done (bump s Ctr.fdb [] 7 1)

/-! ### Flushes (R137) -/

/-- A flush begins with every entry that it matches. -/
def startFlush (s : State) (f : Flush) : State :=
  let f := { f with todo := ((fdbValid s).filter fun x => flushMatches f x.2).map fun x => entryKey x.2 }
  if f.todo = [] then s else { s with fdb := { s.fdb with flushes := s.fdb.flushes ++ [f] } }

/-- A port's link goes down: with FLUSH_ON_DOWN its dynamic entries are flushed. -/
def flushPort (s : State) (p : Nat) : State :=
  if rdBit s Reg.pipePortCfg [pipeOf s p, p] 31 then startFlush s ⟨true, false, false, p, 0, false, []⟩ else s

/-- A flush by FDB_FLUSH is in progress. -/
def flushBusy (s : State) : Bool := s.fdb.flushes.any (·.fromCommand)

/-- FDB_FLUSH: its fields are written, and GO starts a flush unless one is in progress. -/
def fdbFlush (s : State) (req : Requester) (data : Word) : State :=
  let s := stage s req Reg.fdbFlush [] 0xFFFFFFFF data
  if flag data 31 && !flushBusy s then
    startFlush s ⟨rdBit s Reg.fdbFlush [] 29, rdBit s Reg.fdbFlush [] 28, rdBit s Reg.fdbFlush [] 27,
      rd s Reg.fdbFlush [] 26 20, rd s Reg.fdbFlush [] 19 8, true, []⟩
  else s

/-- FLUSH_DELETE: the writer deletes the entry at an index when a flush in progress matched it, its segment is not
locked and no other source of the writer waits. -/
def execFlushDelete (i : Nat) (s : State) : Host.Outcome State Fault Refusal :=
  match fdbKeyAt s i with
  | none => done s
  | some k =>
    let is := fdbFind s k
    if deletesMay s && (s.fdb.flushes.any fun f => f.todo.contains k && flushMatches f (fdbEntry s i)) &&
        !(is.any fun j => segLocked s (fdbSeg s j)) then done (clearFdb s is)
    else done s

/-! ### Segment locks (R138 to R140) -/

def lockReg (mc : Bool) : RegRow := if mc then Reg.fdbLockMc else Reg.fdbLockHost

/-- A segment has been released: the whole deferral queue is released for replay, in order. -/
def releaseDeferred (s : State) : State :=
  { s with fdb := { s.fdb with replayQueue := s.fdb.replayQueue ++ s.fdb.deferQueue, deferQueue := [] } }

/-- Word `w` of a lock register written: ones request, zeros release. -/
def lockWrite (s : State) (mc : Bool) (w : Nat) (data : Word) : State :=
  let held := word s (lockReg mc) [w]
  let s := putStaged s (lockReg mc) [w] data
  if held &&& ~~~ data = 0 then s else releaseDeferred (putWord s (lockReg mc) [w] (held &&& data))

/-- A chain in progress, or a window write that waits, touches segment `n`: by a slot of a move, the slot of its last write,
or the stash entry that a drain empties. -/
def segBusy (s : State) (n : Nat) : Bool :=
  s.fdb.chain.any (fun m => fdbSeg s m.1 == n || fdbSeg s m.2 == n) ||
    s.fdb.chainKey.any (fun x => fdbSeg s x.1 == n || (decide (2 ≤ x.2.2) && fdbSeg s (fdbSize + (x.2.2 - 2) % 64) == n)) ||
    s.fdb.tableWrites.any fun w => tableOf w.addr == 0 && (writeSegs s (fdbWrite w).1 (fdbWrite w).2).contains n

/-- FDB_LOCK_GRANT: a requested segment that no one holds, and that no write or chain in progress touches, is granted. -/
def execFdbLockGrant (mc : Bool) (g : Fin 64) (s : State) : Host.Outcome State Fault Refusal :=
  let n := g.val
  if flag (stagedWord s (lockReg mc) [n / 32]) (n % 32) && !segLocked s n && !segBusy s n then
    let s := { s with fdb := { s.fdb with lockAt := put s.fdb.lockAt (n + 64 * bnat mc) s.time.dt } }
    done (wrBit s (lockReg mc) [n / 32] (n % 32) true)
  else done s

/-- 10 ms, in ticks. -/
def lockTicks : Nat := 8000000

/-- A host lock on segment `n` expires under a table DMA in progress (R455). -/
def noteLost (s : State) (mc : Bool) (n : Nat) : State :=
  let mark (d : TableDma) : TableDma := if mc then d else { d with lost := d.lost ++ [n] }
  { s with host := { s.host with tdma := s.host.tdma.map mark } }

/-- FDB_LOCK_EXPIRE: a lock held for 10 ms is released and its request withdrawn, and the release counts (R140). -/
def execFdbLockExpire (mc : Bool) (g : Fin 64) (s : State) : Host.Outcome State Fault Refusal :=
  let n := g.val
  if segHeld s mc n && decide (get 0 s.fdb.lockAt (n + 64 * bnat mc) + lockTicks ≤ s.time.dt) then
    let s := wrBoth s (lockReg mc) [n / 32] (n % 32) (n % 32) 0
    done (noteLost (releaseDeferred (countEvent s Reg.fdbLockExpireCnt [])) mc n)
  else done s

/-- A seed is written while no valid entry is held (R128). -/
def seedWrite (s : State) (req : Requester) (bank : Nat) (seed : Word) : State :=
  if fdbValid s = [] then stage s req Reg.fdbHashSeed [bank] 0xFFFFFFFF seed else s

/-! ### FDB_CMD (R139, R557) -/

/-- The key that FDB_CMD_KEY0 and FDB_CMD_KEY1 hold. -/
def cmdKey (s : State) : Nat :=
  fdbKey (rd s Reg.fdbCmdKey1 [] 27 16) (rd s Reg.fdbCmdKey1 [] 15 0 * 2 ^ 32 + rd s Reg.fdbCmdKey0 [] 31 0)

/-- RESULT, with INDEX where a location was found or written. -/
def cmdResult (s : State) (r : Nat) (i : Option Nat) : State :=
  let s := wr s Reg.fdbCmdCtrl [] 2 0 r
  match i with
  | none => s
  | some i => wr s Reg.fdbCmdCtrl [] 25 8 i

/-- The VOQ range of the image (R39, R40), empty where there is none. -/
def rangeOf (s : State) (use : Nat) : QRange := (s.image.qpart.find? (·.use == use)).getD ⟨0, 0, use⟩

/-- R40 admits device `d`. -/
def admitted (s : State) (d : Nat) : Bool := decide (d < (rangeOf s 3).count / 768)

/-- Operation 0: the entry and its index, found as a frame's lookup finds it. -/
def cmdLookup (s : State) : State :=
  match fdbFind s (cmdKey s) with
  | [] => cmdResult s 1 none
  | i :: _ =>
    let s := (List.range 4).foldl (fun s w =>
      wrBoth s Reg.fdbCmdData [w] 31 0 (fdbEntry s i / BitVec.ofNat 128 (2 ^ (32 * w))).toNat) s
    cmdResult s 0 (some i)

/-- The entry that FDB_CMD_DATA0 to 3 hold, with the command's key. -/
def cmdEntry (s : State) : BitVec 128 :=
  setFld (BitVec.ofNat 128 (joinWords ((List.range 4).map fun w => word s Reg.fdbCmdData [w]))) 59 0 (cmdKey s)

/-- Operation 1: the entry replaces the key's own or is placed by R132; R557 refuses three kinds. -/
def cmdWrite (s : State) (req : Requester) : State :=
  let s := landAll s 0
  let k := cmdKey s
  let e := cmdEntry s
  let kind := fld e 113 112
  let found := fdbFind s k
  if found.any fun i => segBarred s req (fdbSeg s i) then cmdResult s 3 none
  else if !flag e 127 || (decide (kind < 2) && decide (95 < fld e 88 82)) ||
      (kind == 1 && !admitted s (fld e 95 89)) then cmdResult s 5 none
  else match found with
    | i :: is => cmdResult (pruneFlushes ((i :: is).foldl (fun s j => landFdb s j e) s)) 0 (some i)
    | [] =>
      match place 4 fdbSize 64 (fdbFirst s) (fdbKeyAt s) (fun i => segBarred s req (fdbSeg s i))
          (segBarred s req (homeSeg s k)) s.fdb.rot s.fdb.walk k with
      | (p, rot, walk) =>
        let s := putWalk s rot walk
        match p with
        | .slot i => cmdResult (landFdb s i e) 0 (some i)
        | .chain moves i => cmdResult (finishChain 10 (startChain s moves i e 1)) 0 (some i)
        | .stash i => cmdResult (bump (landFdb s i e) Ctr.fdb [] 9 1) 0 (some i)
        | .defer => cmdResult s 3 none
        | .fail => cmdResult s 2 none

/-- Operation 2: every copy of the key is deleted. -/
def cmdDelete (s : State) (req : Requester) : State :=
  let s := landAll s 0
  match fdbFind s (cmdKey s) with
  | [] => cmdResult s 1 none
  | i :: is =>
    if (i :: is).any fun j => segBarred s req (fdbSeg s j) then cmdResult s 3 none
    else cmdResult (clearFdb s (i :: is)) 0 (some i)

/-- A write of FDB_CMD_CTRL: OP is stored, and GO performs the operation at once, so that BUSY reads 0. A unit whose
FDB class the twin carries performs no write or delete of its own (R386). -/
def fdbCmd (s : State) (req : Requester) (data : Word) : State :=
  let s := stage s req Reg.fdbCmdCtrl [] 0xFFFFFFFF data
  if !flag data 31 then s
  else match fld data 30 29 with
    | 1 => if standsBy s req (some 1) then s else cmdWrite s req
    | 2 => if standsBy s req (some 1) then s else cmdDelete s req
    | _ => cmdLookup s

/-! ### FDB_MDB_EDIT (R148) -/

def mdbGroup (s : State) (g : Nat) : BitVec 256 := get 0 s.fdb.mdb g

/-- One edit as one writer operation, after the table-window writes that wait: 0 sets a PORT_MASK bit, 1 clears it,
2 clears REPORT_SEEN. -/
def mdbEdit (s : State) (op p g : Nat) : State :=
  let s := landAll s 1
  let e := mdbGroup s g
  match op with
  | 0 => landMdb s g (if p < 96 then setFld e p p 1 else e)
  | 1 => landMdb s g (if p < 96 then setFld e p p 0 else e)
  | _ => landMdb s g (setFld e 191 96 0)

/-- A write of FDB_MDB_EDIT: its fields are stored, and GO performs the edit. -/
def mdbEditWrite (s : State) (req : Requester) (data : Word) : State :=
  let s := stage s req Reg.fdbMdbEdit [] 0xFFFFFFFF data
  if flag data 31 && !standsBy s req (some 2) then
    mdbEdit s (fld data 29 28) (fld data 27 21) (fld data 13 0)
  else s

/-- The word of FDB_MDB_EDIT with GO. -/
def editWord (op p g : Nat) : Word := BitVec.ofNat 32 (2 ^ 31 + op * 2 ^ 28 + p * 2 ^ 21 + g)

end Sys2Proof.Machine
end

