-- ==== Sys2Proof/Machine/Queues.lean ====
section
/-! DEFINITION. Queue descriptors, gate lists, shapers and the choice of the queue that sends next (chapter 8). -/
namespace Sys2Proof.Machine

/-! ### The queue pool (R39, R40, R211 to R214) -/

/-- The use of queue `q`: 1 port class, 2 stream, 3 VOQ, 4 engine and host, 5 free. -/
def queueUse (s : State) (q : Nat) : Nat :=
  if q < 768 then 1 else ((s.image.qpart.find? fun r => decide (r.start ≤ q ∧ q < r.start + r.count)).map (·.use)).getD 5

/-- The first VOQ (R40). -/
def voqBase (s : State) : Nat := (rangeOf s 3).start

/-- The VOQ of device `d`, port `p` and class `c` (R40). -/
def voqOf (s : State) (d p c : Nat) : Nat := voqBase s + d * 768 + p * 8 + c

/-- This device's own number, 255 for none. -/
def ownDevice (s : State) : Nat := rd s Reg.izlHierStat [] 7 0

/-- The reset value of a configuration half: PORT 0x7F and QUANTUM 24 (Table 8-2). -/
def queueReset : BitVec 256 := BitVec.ofNat 256 (0x7F * 2 ^ 249 + 24 * 2 ^ 184)

/-- The configuration half in force, with PORT and CLASS as written. -/
def queueCfg (s : State) (q : Nat) : BitVec 256 := get queueReset s.sched.config q

/-- The owning port of queue `q`, 0x7F for none (Table 8-1). -/
def queuePort (s : State) (q : Nat) : Nat :=
  match queueUse s q with
  | 1 => q / 8
  | 3 =>
    let d := (q - voqBase s) / 768
    if rdBit s Reg.schedVoqRoute [d] 31 && d != ownDevice s then rd s Reg.schedVoqRoute [d] 6 0 else 0x7F
  | _ => fld (queueCfg s q) 255 249

/-- The class of queue `q`. -/
def queueClass (s : State) (q : Nat) : Nat :=
  match queueUse s q with
  | 1 => q % 8
  | 3 => (q - voqBase s) % 8
  | _ => fld (queueCfg s q) 248 246

/-- The cells of one copy's frame: of its whole length where that is known, else of the bytes received. -/
def copyCells (s : State) (c : Copy) : Nat :=
  match frame s c.frame with
  | none => 0
  | some x => ceilDiv (if x.cut && !x.whole then x.bytes.length else x.length) 256

/-- DEPTH_CELLS of a queue. -/
def depthCells (s : State) (q : Nat) : Nat := ((queue s q).copies.map (copyCells s)).sum

/-- The queues that hold a copy, in rising order. -/
def busyQueues (s : State) : List Nat := (keys s.sched.queues).filter fun q => (queue s q).copies != []

/-- The queues of class node (p, c) that hold a copy, in ascending queue number (R214). -/
def members (s : State) (p c : Nat) : List Nat :=
  (busyQueues s).filter fun q => queuePort s q == p && queueClass s q == c

/-- A stream context in use that names the queue: the stream bound to it. -/
def boundStream (s : State) (q : Nat) : Option Nat :=
  ((s.strm.config.find? fun e => flag e.2 255 && flag e.2 215 && fld e.2 233 216 == q)).map Prod.fst

/-- The head copy waits for the stream's older frames in a queue that the stream left (R178). -/
def heldHead (s : State) (q : Nat) : Bool :=
  match (queue s q).copies with
  | [] => false
  | c :: _ => (queue s q).heldBehind.any fun (h, olds) =>
      c.stream == some h && olds.any fun o => o != q &&
        ((queue s o).copies.any (fun d => d.stream == some h && decide (d.frame < c.frame)) ||
          s.sched.sending.any fun x => x.2.queue == o && x.2.copy.stream == some h && decide (x.2.frame < c.frame))

/-! ### Queue shapers (R218, R220, R221); balances in 10⁻⁵ bytes -/

/-- The cap of a queue's token balance. -/
def queueCap (cfg : BitVec 256) : Int := (max 1 (fld cfg 215 200) * 64 * 100000 : Nat)

/-- The token balance now. -/
def queueBalance (s : State) (q : Nat) : Int :=
  let cfg := queueCfg s q
  let x := queue s q
  if flag cfg 245 then min (queueCap cfg) (x.balance + fld cfg 239 216 * (s.time.dt - x.balanceAt)) else queueCap cfg

/-- The balance brought up to date. -/
def settleBalance (s : State) (q : Nat) : State :=
  if flag (queueCfg s q) 245 then
    putQueue s q { queue s q with balance := queueBalance s q, balanceAt := s.time.dt }
  else s

/-- The waiting configuration of queue `q` is put in force at PKT: a balance above the new cap is capped, any other
kept (R212, R220). -/
def applyQueue (s : State) (q : Nat) : State :=
  match find s.sched.configWait q with
  | none => s
  | some cfg =>
    let b := queueBalance s q
    let s := { s with sched := { s.sched with config := set queueReset s.sched.config q cfg,
                                              configWait := drop s.sched.configWait q } }
    if flag cfg 245 then putQueue s q { queue s q with balance := min b (queueCap cfg), balanceAt := s.time.dt } else s

/-- Every route and waiting descriptor that a decision or an enqueue of port `p` meets is put in force (R231, R235). -/
def applyRoutes (s : State) : State :=
  applyWhere s fun e => e.kind == 2 && decide (Reg.schedVoqRoute.base ≤ e.addr ∧ e.addr < Reg.schedVoqRoute.base + 512)

/-- The bits of a configuration half that are stored. -/
def queueMask : BitVec 256 := BitVec.ofNat 256 (2 ^ 256 - 2 ^ 168 - 31 * 2 ^ 240)

/-- The reason that refuses a descriptor write, 0 for none (Table 8-3). The new half is judged against the one that is
in force or waits. -/
def descriptorRefusal (s : State) (q : Nat) (cfg : BitVec 256) : Nat :=
  let use := queueUse s q
  let old := (find s.sched.configWait q).getD (queueCfg s q)
  let port := fld cfg 255 249
  let moved := use != 1 && use != 3 && port != fld old 255 249
  let changed := moved || (use != 1 && use != 3 && fld cfg 248 246 != fld old 248 246)
  if changed && ((queue s q).copies != [] || heldHead s q) then 1
  else if use != 1 && use != 3 && port != 0x7F && (decide (95 < port) || (use == 4 && decide (port < 80))) then 2
  else if moved && (boundStream s q).isSome then 3
  else 0

/-- A descriptor write lands (R212, R213). -/
def descriptorWrite (s : State) (req : Requester) (q : Nat) (cfg : BitVec 256) : State :=
  if standsBy s req (some 4) then bump s Ctr.twin [] 6 1
  else match descriptorRefusal s q cfg with
    | 0 =>
      let s := { s with sched := { s.sched with configWait := put s.sched.configWait q (cfg &&& queueMask) } }
      mirror s 4 (0x1000020 + q * 64) (wordsOf 8 (cfg &&& queueMask))
    | r =>
      let s := countEvent s Reg.schedRefuseCnt []
      putWord s Reg.schedRefuseLast [] (BitVec.ofNat 32 (r * 2 ^ 20 + q))

/-! ### Gate lists (R222 to R230) -/

/-- A time base in whole nanoseconds. -/
def tbNs (s : State) (t : Nat) : Int := (tb s t).now / unitsPerNs

/-- The reset value of a gate-list entry: every gate open. -/
def gateReset : BitVec 64 := 0xFF00000000

/-- The INTERVAL of entry `i`, held to its range. -/
def interval (g : GateParams) (i : Nat) : Nat := held 8 1000000000 (fld (get gateReset g.entries i) 29 0)

/-- Entry `i` opens the gate of class `c`. -/
def entryOpen (g : GateParams) (i c : Nat) : Bool := flag (get gateReset g.entries i) (32 + c)

/-- The duration of each entry in a full cycle: an entry is cut at the cycle's end, and entry LAST holds to it (R222). -/
def durations (g : GateParams) : List Nat :=
  ((List.range (g.last + 1)).foldl (fun (a : List Nat × Nat) i =>
    let d := if i = g.last then g.cycle - a.2 else min (interval g i) (g.cycle - a.2)
    (a.1 ++ [d], a.2 + d)) ([], 0)).1

/-- The first instant after `t` of the grid BASE + n × CYCLE. -/
def gridAfter (g : GateParams) (t : Int) : Int := t + g.cycle - (t - g.base) % g.cycle

/-- A list of port `p` is in force. -/
def gateRunning (s : State) (p : Nat) : Bool := decide (p < 80) && rdBit s Reg.schedGateStat [p] 31

/-- The lengths of the runs of open time over a sequence of (open, duration), longest first of all. -/
def longestRun (l : List (Bool × Nat)) : Nat :=
  (l.foldl (fun (a : Nat × Nat) x => if x.1 then (a.1 + x.2, max a.2 (a.1 + x.2)) else (0, a.2)) (0, 0)).2

/-- The longest window of the gate of class `c`: none when it is unbounded, zero when the gate never opens. -/
def longestWindow (s : State) (p c : Nat) : Option Nat :=
  if !gateRunning s p then none
  else
    let g := (gate s p).inForce
    let l := (durations g).mapIdx fun i d => (entryOpen g i c, d)
    if l.all fun x => x.1 || x.2 == 0 then none else some (longestRun (l ++ l))

/-- Time from a cycle's start, or from entry `i` on, until the gate closes: the open time, and whether it lasts to the
cycle's end. -/
def openRun (l : List (Bool × Nat)) : Nat × Bool :=
  l.foldl (fun a x => if a.2 then (if x.1 || x.2 == 0 then (a.1 + x.2, true) else (a.1, false)) else a) (0, true)

/-- The gate of class `c` on port `p` is open now. While no list runs and a commit waits, INIT_GATES holds (R223). -/
def gateOpen (s : State) (p c : Nat) : Bool :=
  if 80 ≤ p then true
  else if gateRunning s p then entryOpen (gate s p).inForce (rd s Reg.schedGateStat [p] 9 0) c
  else if (gate s p).pending.isSome then bit (rd s Reg.schedGateCfg [p] 23 16) c
  else true

/-- The remaining window in nanoseconds, none when it is unbounded: on the list in force, cut at the cycle's end, and ended by
the next cycle start while a commit is pending or the first cycle is a shortened one (R226). -/
def remaining (s : State) (p c : Nat) : Option Int :=
  let x := gate s p
  if !gateOpen s p c then some 0
  else if !gateRunning s p then x.pending.map fun g => x.cycleEnd - tbNs s g.tb
  else
    let g := x.inForce
    let now := tbNs s g.tb
    let l := (durations g).mapIdx fun i d => (entryOpen g i c, d)
    let run := openRun (l.drop (rd s Reg.schedGateStat [p] 9 0 + 1))
    let toEnd := x.cycleEnd - now
    if x.entryEnd < x.cycleEnd ∧ !run.2 ∧ x.entryEnd - now + run.1 < toEnd then some (x.entryEnd - now + run.1)
    else if x.pending.isSome || x.short then some toEnd
    else if (openRun l).2 then none
    else some (toEnd + (openRun l).1)

/-- T(L) is within `w` nanoseconds at the port rate: (L + 8) × 8 / R + 16 ns (R225). -/
def passes (s : State) (p len : Nat) (w : Int) : Bool :=
  let r := portRate s p
  decide (((len + 8) * 8000 + 16 * r : Nat) ≤ w * r)

/-- The maximum length that a frame declares: MAX_SDU of its context, else the MRU of its ingress port (R163). -/
def declaredLength (x : Frame) : Nat :=
  let sdu := fld x.cfg 207 194
  if x.stream.isSome ∧ sdu ≠ 0 then held 64 10240 sdu else x.mru

/-- The gate class of a copy at the head of queue `q` (R228). -/
def gateClass (s : State) (q : Nat) (x : Frame) : Nat :=
  match boundStream s q with
  | some h =>
    let sel := fld (get 0 s.strm.config h) 214 211
    if 1 ≤ sel ∧ sel ≤ 8 then sel - 1 else x.cls
  | none => if queueUse s q = 2 then x.cls else queueClass s q

/-- The fields that a COMMIT takes as they stand staged (R223). -/
def stagedGate (s : State) (p : Nat) : GateParams :=
  let c := stagedWord s Reg.schedGateCfg [p]
  let base := fld (stagedWord s Reg.schedGateBaseSHi [p]) 15 0 * 2 ^ 32 + (stagedWord s Reg.schedGateBaseSLo [p]).toNat
  { en := flag c 30, tb := fld c 29 28, last := fld c 9 0,
    cycle := held 1000 1000000000 (fld (stagedWord s Reg.schedGateCycle [p]) 29 0),
    base := base * 1000000000 + min 999999999 (fld (stagedWord s Reg.schedGateBaseNs [p]) 29 0),
    entries := (s.sched.gateStaged.filter fun e => e.1 / 1024 == p).map fun e => (e.1 % 1024, e.2) }

/-- The registers of the gate unit that show what is in force. -/
def showGate (s : State) (p : Nat) (g : GateParams) : State :=
  let s := wr s Reg.schedGateCfg [p] 30 28 (bnat g.en * 4 + g.tb)
  let s := wr s Reg.schedGateCfg [p] 9 0 g.last
  let s := wr s Reg.schedGateCycle [p] 29 0 g.cycle
  let s := wr s Reg.schedGateBaseNs [p] 29 0 (g.base % 1000000000)
  let s := putWord s Reg.schedGateBaseSLo [p] (BitVec.ofNat 32 (g.base / 1000000000))
  putWord s Reg.schedGateBaseSHi [p] (BitVec.ofNat 32 (g.base / 1000000000 / 2 ^ 32))

/-- GATE_ENTRY_WRITE: the word at a staged entry's higher address is written, and the whole entry is staged (R554). -/
def gateEntryWrite (s : State) (req : Requester) (p i : Nat) (entry : BitVec 64) : State :=
  if standsBy s req (some 4) then bump s Ctr.twin [] 6 1
  else
    let e := entry &&& 0xFF3FFFFFFF
    let s := { s with sched := { s.sched with gateStaged := set gateReset s.sched.gateStaged (p * 1024 + i) e } }
    mirror s 4 (0x5100000 + p * 0x2000 + i * 8) (wordsOf 2 e)

/-- A commit waits for the running list's next cycle start, or for the first instant of its own grid at least 2 µs
from now; it replaces one that waits (R223). -/
def gateCommit (s : State) (req : Requester) (p : Nat) : State :=
  if standsBy s req (some 4) then bump s Ctr.twin [] 6 1
  else
    let g := stagedGate s p
    let x := gate s p
    let start := if gateRunning s p then x.cycleEnd else gridAfter g (tbNs s g.tb + 1999)
    wrBit (putGate s p { x with pending := some g, cycleEnd := start }) Reg.schedGateStat [p] 30 true

/-- The twin's copy of the effective gate list of port `p`: its parameters, at its place above BAR0, and its entries. -/
def gateWords (p : Nat) (g : GateParams) : List (Nat × List Word) :=
  let w (x : Nat) : Word := BitVec.ofNat 32 x
  (List.range 1024).map (fun i => (0x5200000 + p * 0x2000 + i * 8, wordsOf 2 (get gateReset g.entries i))) ++
    [(0x10002000 + p * 16, [w (bnat g.en * 2 ^ 30 + g.tb * 2 ^ 28 + g.last), w g.cycle, w (g.base / 2 ^ 32), w g.base])]

/-- An effective gate list goes to the twin (Table 13-2). -/
def mirrorGate (s : State) (p : Nat) (g : GateParams) : State :=
  if activePaired s then (gateWords p g).foldl (fun s r => mirror s 4 r.1 r.2) s else s

/-- The instant of the cycle start that has been reached, in the TB of the list that begins: of several that a running list
has passed, the latest; and where a commit changes the TB, the same instant in the new one (R222, R223). -/
def startInstant (s : State) (p : Nat) : Int :=
  let x := gate s p
  match x.pending with
  | some g =>
    if gateRunning s p ∧ x.inForce.tb ≠ g.tb then tbNs s g.tb - (tbNs s x.inForce.tb - x.cycleEnd) else x.cycleEnd
  | none => x.cycleEnd + (tbNs s x.inForce.tb - x.cycleEnd) / x.inForce.cycle * x.inForce.cycle

/-- List `g` begins at entry 0 at the instant `start`, for a cycle that ends at `cycleEnd`. -/
def beginCycle (s : State) (p : Nat) (g : GateParams) (start cycleEnd : Int) (short : Bool) : State :=
  let first := if g.last = 0 then cycleEnd else min (start + interval g 0) cycleEnd
  let s := putGate s p { inForce := g, pending := none, short := short, entryEnd := first, cycleEnd := cycleEnd }
  leaveLpi (putWord s Reg.schedGateStat [p] 0x80000000) p

/-- The next cycle starts, or a pending commit takes effect. A list held after a step resumes at entry 0 (R222, R223,
R230). -/
def gateCycleStart (s : State) (p : Nat) : State :=
  let x := gate s p
  let start := startInstant s p
  match x.pending with
  | some g =>
    let s := mirrorGate (showGate s p g) p g
    if g.en then beginCycle s p g start (gridAfter g start) (gridAfter g start - start < g.cycle)
    else putWord (putGate s p { x with inForce := g, pending := none, short := false }) Reg.schedGateStat [p] 0
  | none => if gateRunning s p then beginCycle s p x.inForce start (start + x.inForce.cycle) false else s

/-- The TB that times the next cycle start of port `p`. -/
def gateTb (s : State) (p : Nat) : Nat :=
  let x := gate s p
  if gateRunning s p then x.inForce.tb else (x.pending.map (·.tb)).getD 0

/-- The next cycle start of port `p`, or the instant of its commit, has been reached. -/
def cycleDue (s : State) (p : Nat) : Bool :=
  (gateRunning s p || (gate s p).pending.isSome) && decide ((gate s p).cycleEnd ≤ tbNs s (gateTb s p))

/-- The entry in force of port `p` has ended before its cycle does: entry LAST, and an entry of a list held after a step,
last to the cycle's end (R222, R230). -/
def entryDue (s : State) (p : Nat) : Bool :=
  let x := gate s p
  gateRunning s p && !rdBit s Reg.schedGateStat [p] 29 && decide (rd s Reg.schedGateStat [p] 9 0 < x.inForce.last) &&
    decide (x.entryEnd < x.cycleEnd ∧ x.entryEnd ≤ tbNs s x.inForce.tb)

/-- The entry in force ends and the next begins. -/
def entryStep (s : State) (p : Nat) : State :=
  let x := gate s p
  let e := rd s Reg.schedGateStat [p] 9 0
  let stop := if e + 1 = x.inForce.last then x.cycleEnd else min (x.entryEnd + interval x.inForce (e + 1)) x.cycleEnd
  wr (putGate s p { x with entryEnd := stop }) Reg.schedGateStat [p] 9 0 (e + 1)

/-! ### Credit-based shapers (R219); credits in 10⁻⁵ bytes -/

/-- The class shaper of (p, c) acts: EN is 1 and its slope is below the port rate. -/
def shaped (s : State) (p c : Nat) : Bool :=
  rdBit s Reg.schedCbs [p, c] 31 && decide (rd s Reg.schedCbs [p, c] 23 0 * 64 < portRate s p * 1000)

/-- The credit of class `c` now: it grows while the node holds a frame that is not being sent, keeps its value while
its gate is closed, and is zero at most where the node holds nothing. -/
def creditNow (s : State) (p c : Nat) : Int :=
  let x := portSched s p
  let v := x.credit.getD c 0
  let sending := (find s.sched.sending p).any fun y => y.cls == c
  if !shaped s p c ∨ sending ∨ !gateOpen s p c then v
  else if members s p c = [] then min v 0
  else min (rd s Reg.schedCbsHi [p, c] 19 0 * 100000 : Nat)
    (v + rd s Reg.schedCbs [p, c] 23 0 * (s.time.dt - x.creditAt.getD c 0))

/-- The credits of port `p` brought up to date, before anything that changes their growth. -/
def settleCredit (s : State) (p : Nat) : State :=
  if (List.range 8).any fun c => rdBit s Reg.schedCbs [p, c] 31 then
    putPortSched s p { portSched s p with credit := (List.range 8).map (creditNow s p),
                                          creditAt := List.replicate 8 s.time.dt }
  else s

/-- A credit above the HI_CREDIT in force is capped, and credits grow from now at the slopes in force (R220). -/
def capCredits (s : State) (p : Nat) : State :=
  let x := portSched s p
  let cap (c : Nat) : Int :=
    let v := x.credit.getD c 0
    if rdBit s Reg.schedCbs [p, c] 31 then min v (rd s Reg.schedCbsHi [p, c] 19 0 * 100000 : Nat) else v
  if (List.range 8).any fun c => rdBit s Reg.schedCbs [p, c] 31 then
    putPortSched s p { x with credit := (List.range 8).map cap, creditAt := List.replicate 8 s.time.dt }
  else s

/-- One cycle start or entry end of port `p` that has been reached. -/
def gateEvent (s : State) (p : Nat) : State :=
  if cycleDue s p then gateCycleStart (settleCredit s p) p
  else if entryDue s p then entryStep (settleCredit s p) p
  else s

/-- Every cycle start and entry end of port `p` that has been reached is taken, at most `n` of them: an entry that has ended
ends at once, and a cycle start that has been passed is taken (R229). -/
def gateCatchUp : Nat → State → Nat → State
  | 0, s, _ => s
  | n + 1, s, p => if cycleDue s p || entryDue s p then gateCatchUp n (gateEvent s p) p else s

/-- A pending commit, a cycle start and the entries of a list. -/
def gateFuel : Nat := 1026

/-- The lists bound to time base `t`, whose reading has changed within its threshold, follow it (R229). -/
def followGates (s : State) (t : Nat) : State :=
  (List.range 80).foldl (fun s p => if gateTb s p == t then gateCatchUp gateFuel s p else s) s

/-- Time base `t` has stepped by more than its threshold: each list bound to it holds its entry until the first cycle
start of its grid after the stepped time (R230). -/
def holdGates (s : State) (t : Nat) : State :=
  (List.range 80).foldl (fun s p =>
    let x := gate s p
    if gateRunning s p && x.inForce.tb == t then
      let s := settleCredit s p
      let stop := gridAfter x.inForce (tbNs s t)
      let s := wrBit (putGate s p { x with entryEnd := stop, cycleEnd := stop }) Reg.schedGateStat [p] 29 true
      putWord (countEvent s Reg.schedResyncCnt []) Reg.schedResyncLast [] (BitVec.ofNat 32 p)
    else s) s

/-! ### Enqueue (R232), delays and the sampler (R238, R239) -/

/-- The gate of queue `q` at port `p` never opens for long enough for a frame of `n` bytes (R227). -/
def fitsNoWindow (s : State) (p q : Nat) (x : Frame) (n : Nat) : Bool :=
  (longestWindow s p (gateClass s q x)).any fun w => !passes s p n w

/-- The first failing check of Table 8-5: 0 for none. `len` is the length that the frame will have as sent, none while
it is not known. -/
def enqueueCheck (s : State) (q : Nat) (x : Frame) (ct : Bool) (len : Option Nat) : Nat :=
  let p := queuePort s q
  let limit := fld (queueCfg s q) 183 168
  let voq := queueUse s q == 3
  if !voq && decide (95 < p) then 6
  else if !voq && !linkUp s p then 1
  else if voq && !rdBit s Reg.schedVoqRoute [(q - voqBase s) / 768] 31 then 2
  else if !ct && len.any (fun n => decide (mtu s p < n)) then 3
  else if !ct && len.isSome && fitsNoWindow s p q x x.length then 4
  else if limit ≠ 0 ∧ limit * 16 ≤ depthCells s q then 5
  else 0

/-- The receive ring that the map of host port `p` names for class `c` (R444). -/
def rxRing (s : State) (p c : Nat) : Nat :=
  let o := 8 * (c % 4)
  (p - 88) * 32 + rd s Reg.pipeRxMap [pipeOf s p, (p - 88) * 2 + c / 4] (o + 4) o

/-- Copies of queue `q` that a port whose link is down discards count at the port (R63), or at the receive ring of a
host port (R439). -/
def countDown (s : State) (q n : Nat) : State :=
  let p := queuePort s q
  if p = 88 ∨ p = 89 then
    let r := rxRing s p (queueClass s q)
    bump s Ctr.hostRx [ringPipe s r, r] 2 n
  else countPort s p 34 n

/-- The counter of a failed check. -/
def enqueueDrop (s : State) (q check : Nat) : State :=
  match check with
  | 1 => countDown s q 1
  | 2 => bump s Ctr.sched [] 1 1
  | 3 => countPort s (queuePort s q) 32 1
  | 4 => bump s Ctr.queue [q] 3 1
  | 5 => bump s Ctr.queue [q] 2 1
  | _ => s

/-- Copy `c` of frame `x` is offered to queue `q`: the state, and whether it was enqueued. -/
def offer (s : State) (q : Nat) (x : Frame) (c : Copy) (len : Option Nat) : State × Bool :=
  let s := applyQueue (applyRoutes s) q
  match enqueueCheck s q x c.ct len with
  | 0 =>
    let s := settleCredit s (queuePort s q)
    let y := queue s q
    let s := putQueue s q { y with copies := y.copies ++ [c] }
    let y := queue s q
    (leaveLpi (putQueue s q { y with maxCells := max y.maxCells (depthCells s q) }) (queuePort s q), true)
  | k => (enqueueDrop s q k, false)

/-- The bin of a delay of `d` nanoseconds with unit `u` (R239). -/
def sampleBin (u d : Nat) : Nat := ((List.range 15).find? fun k => decide (d < u * 2 ^ k)).getD 15

/-- The delay in nanoseconds of a copy that leaves at DT instant `left`, in 2⁻¹⁶ ns (R238). -/
def copyDelay (c : Copy) (left : Nat) : Nat := (left - c.enqueuedAt * 81920) / 65536

/-- Copy `c` of queue `q` leaves at `left`: its delay is LAST_DELAY, and it enters MAX_DELAY and every sampler channel of the
queue. -/
def noteDelay (s : State) (q : Nat) (c : Copy) (left : Nat) : State :=
  let d := min (copyDelay c left) (2 ^ 32 - 1)
  let x := queue s q
  let s := putQueue s q { x with lastDelay := d, maxDelay := max x.maxDelay d }
  (List.range 16).foldl (fun s h =>
    if rdBit s Reg.schedSmpCfg [h] 31 && rd s Reg.schedSmpCfg [h] 17 0 == q then
      bump s Ctr.sampler [] (h * 16 + sampleBin (max 1 (rd s Reg.schedSmpCfg [h] 29 18) * 8) d) 1
    else s) s

/-! ### Commands on queues and routes (R221, R235, R236, R238) -/

/-- SCHED_Q_CMD: 0 zeroes a queue's maxima, 1 clears its debt, 2 clears a class node's. -/
def queueCommand (s : State) (op q p c : Nat) : State :=
  match op with
  | 1 =>
    let s := settleBalance s q
    putQueue s q { queue s q with balance := max 0 (queue s q).balance }
  | 2 =>
    let s := settleCredit s p
    let x := portSched s p
    putPortSched s p { x with credit := x.credit.set c (max 0 (x.credit.getD c 0)) }
  | _ => putQueue s q { queue s q with maxCells := 0, maxDelay := 0 }

/-- A write of SCHED_Q_CMD: its fields are stored, and GO performs the operation. -/
def queueCommandWrite (s : State) (req : Requester) (data : Word) : State :=
  let s := stage s req Reg.schedQCmd [] 0xFFFFFFFF data
  if flag data 31 then queueCommand s (fld data 29 28) (fld data 17 0) (fld data 24 18) (fld data 27 25) else s

/-- The word of SCHED_Q_CMD with GO. -/
def qCmdWord (op c p q : Nat) : Word := BitVec.ofNat 32 (2 ^ 31 + op * 2 ^ 28 + c * 2 ^ 25 + p * 2 ^ 18 + q)

/-- VOQ_XOFF_LAPSE: an XOFF that was not refreshed for HOLD_TIMEOUT µs lapses (R236). -/
def execVoqXoffLapse (d : Fin 128) (p : Fin 96) (c : Fin 8) (s : State) : Host.Outcome State Fault Refusal :=
  let q := voqOf s d p c
  match find s.sched.xoff q with
  | none => done s
  | some t =>
    if t + rd s Reg.schedVoqCfg [] 15 0 * 800 ≤ s.time.dt then
      done { s with sched := { s.sched with xoff := drop s.sched.xoff q } }
    else done s

end Sys2Proof.Machine
end

