-- ==== Sys2Proof/Machine/Accord.lean ====
section
/-! DEFINITION. Accord descriptors: what their fields mean, a job's part of them, loads, and the reasons that refuse a
command (R275 to R279, R284 to R286, R296, R307). -/
namespace Sys2Proof.Machine

/-! ### Rates and packet times (R275, R279) -/

/-- RATE of a job, in samples per second. -/
def rateOf (code : Nat) : Nat := [48000, 96000, 44100, 88200].getD code 48000

/-- The rate of a stream with conversion `conv` at job rate `fs`. -/
def convRate (fs conv : Nat) : Nat := if conv = 1 then 2 * fs else if conv = 2 then fs / 2 else fs

/-- The samples of a packet of PTIME `p` at rate `fs` (Table 10-2). -/
def packetSamples (p fs : Nat) : Nat := [6, 12, 16, 48].getD p 6 * (if 88200 ≤ fs then 2 else 1)

/-- Bytes of one sample of a FORMAT. -/
def sampleBytes (fmt : Nat) : Nat := [2, 3, 3, 4].getD fmt 3

/-- Apply samples are the multiples of this at rate `fs` (R293). -/
def applyUnit (fs : Nat) : Nat := if 88200 ≤ fs then 96 else 48

/-! ### Descriptors (Tables 10-4 to 10-9) -/

/-- A range of indices: its first and the one after its last. -/
abbrev Range := Nat × Nat

def inRange (r : Range) (i : Nat) : Bool := decide (r.1 ≤ i ∧ i < r.2)

/-- The ranges of a job descriptor; a descriptor with VALID 0 takes no part. -/
def subRange (d : BitVec 512) : Range := if flag d 511 then (fld d 479 468, fld d 479 468 + fld d 467 461) else (0, 0)
def inputRange (d : BitVec 512) : Range := if flag d 511 then (fld d 460 447, fld d 460 447 + fld d 446 438) else (0, 0)
def outRange (d : BitVec 512) : Range := if flag d 511 then (fld d 437 427, fld d 437 427 + fld d 426 421) else (0, 0)
def routeRange (d : BitVec 512) : Range := if flag d 511 then (fld d 420 408, fld d 420 408 + fld d 407 400) else (0, 0)

/-- The entries of a table in a range. -/
def within {α : Type} (r : Range) (l : Sparse α) : Sparse α := l.filter fun e => inRange r e.1

/-- A table with the entries of `r` replaced by those of `new`. -/
def overlay {α : Type} (r : Range) (l new : Sparse α) : Sparse α :=
  (within r new).foldl (fun a e => put a e.1 e.2) (l.filter fun e => !inRange r e.1)

/-- Taps of the routes of a range, by route × 16 + tap. -/
def tapRange (r : Range) : Range := (r.1 * 16, r.2 * 16)

/-- The descriptors of one job. -/
def AccDesc.part (d : AccDesc) (j : Nat) : AccDesc :=
  let x := get 0 d.jobs j
  { jobs := d.jobs.filter (·.1 == j), subs := within (subRange x) d.subs, inputs := within (inputRange x) d.inputs,
    outs := within (outRange x) d.outs, routes := within (routeRange x) d.routes,
    taps := within (tapRange (routeRange x)) d.taps }

/-- `d` with the descriptors of job `j` those of `part`. -/
def AccDesc.adopt (d : AccDesc) (j : Nat) (part : AccDesc) : AccDesc :=
  let x := get 0 part.jobs j
  { jobs := set 0 d.jobs j x, subs := overlay (subRange x) d.subs part.subs,
    inputs := overlay (inputRange x) d.inputs part.inputs, outs := overlay (outRange x) d.outs part.outs,
    routes := overlay (routeRange x) d.routes part.routes, taps := overlay (tapRange (routeRange x)) d.taps part.taps }

/-- A job's own descriptor in its part. -/
def AccDesc.job (d : AccDesc) (j : Nat) : BitVec 512 := get 0 d.jobs j

/-- The valid entries of a job's part. -/
def AccDesc.validSubs (d : AccDesc) : Sparse (BitVec 512) := d.subs.filter fun e => flag e.2 511
def AccDesc.validInputs (d : AccDesc) : Sparse (BitVec 128) := d.inputs.filter fun e => flag e.2 127
def AccDesc.validOuts (d : AccDesc) : Sparse (BitVec 1024) := d.outs.filter fun e => flag e.2 1023
def AccDesc.validRoutes (d : AccDesc) : Sparse (BitVec 128) := d.routes.filter fun e => flag e.2 127

/-- The taps of route `c` in use. -/
def AccDesc.routeTaps (d : AccDesc) (c : Nat) : List (Nat × BitVec 64) :=
  (List.range (fld (get 0 d.routes c) 108 104)).map fun t => (t, get 0 d.taps (c * 16 + t))

/-- The in-force part of job `j`. -/
def jobPart (s : State) (j : Nat) : AccDesc := s.acc.inForce.part j

/-- Jobs that are not STOPPED, in rising order. -/
def activeJobs (s : State) : List Nat := (s.acc.jobs.filter fun e => e.2.state != 0).map Prod.fst

/-- The job's rate and TB. -/
def jobRate (x : BitVec 512) : Nat := rateOf (fld x 508 507)
def jobTb (x : BitVec 512) : Nat := fld x 510 509

/-! ### Samples of a stream and of its job (R276, R280) -/

/-- A stream sample index at the job's rate, and back. -/
def toJob (conv m : Nat) : Nat := if conv = 1 then m / 2 else if conv = 2 then m * 2 else m
def toStream (conv n : Nat) : Nat := if conv = 1 then n * 2 else if conv = 2 then n / 2 else n

def outConv (o : BitVec 1024) : Nat := fld o 1020 1019

/-- The samples of one packet of output stream `o` at job rate `fs`, at the stream's rate. -/
def outSamples (o : BitVec 1024) (fs : Nat) : Nat := packetSamples (fld o 1018 1017) (convRate fs (outConv o))

/-- The job sample at which the next packet of output stream `o` starts. -/
def outAt (s : State) (o : Nat) : Nat := toJob (outConv (get 0 s.acc.inForce.outs o)) (get 0 s.acc.outNext o)

/-! ### Channel units and loads (R275, R307) -/

/-- Two units where the job's rate or the stream's is 96 or 88.2 kHz, else one. -/
def unitsOf (fs stream : Nat) : Nat := if 88200 ≤ fs ∨ 88200 ≤ stream then 2 else 1

/-- Input channel units of a job's part. -/
def inputUnits (d : AccDesc) (fs : Nat) : Nat :=
  (d.validInputs.map fun e => unitsOf fs (convRate fs (fld (get 0 d.subs (fld e.2 126 115)) 492 491))).sum

/-- Output channel units: one route each. -/
def outputUnits (d : AccDesc) (fs : Nat) : Nat :=
  (d.validRoutes.map fun e => unitsOf fs (convRate fs (fld (get 0 d.outs (fld e.2 126 116)) 1020 1019))).sum

/-- The higher of two rates. -/
def higher (a b : Nat) : Nat := max a b

/-- The load of a job's part in slots per second, its ramps aside (Table 10-12). -/
def partLoad (d : AccDesc) (j : Nat) : Nat :=
  let fs := jobRate (d.job j)
  let subs := (d.validSubs.map fun e =>
    let r := convRate fs (fld e.2 492 491)
    2400 * r / packetSamples (fld e.2 490 489) r).sum
  let ins := (d.validInputs.map fun e =>
    let c := fld (get 0 d.subs (fld e.2 126 115)) 492 491
    8 * fs + if c = 1 ∨ c = 2 then 24 * higher fs (convRate fs c) else 0).sum
  let taps := (d.validRoutes.map fun e => 4 * fs * fld e.2 108 104).sum
  let outs := (d.validOuts.map fun e =>
    let c := fld e.2 1020 1019
    let r := convRate fs c
    let ch := fld e.2 1016 1010 + 1
    3600 * r / packetSamples (fld e.2 1018 1017) r + ch * (8 * r + if c = 1 ∨ c = 2 then 24 * higher fs r else 0)).sum
  subs + ins + taps + outs

/-- The ramp of a tap still runs at sample `m`. -/
def TapRun.ramps (t : TapRun) (m : Nat) : Bool := decide (0 < t.len ∧ m < t.startAt + t.len)

/-- The load of job `j` with its fading and ramping taps, at the next samples of their streams; zero while STOPPED. -/
def jobLoad (s : State) (j : Nat) : Nat :=
  if (job s j).state = 0 then 0
  else
    let d := jobPart s j
    let fs := jobRate (d.job j)
    let more := (within (routeRange (d.job j)) s.acc.routes).map fun e =>
      let m := outAt s (fld (get 0 d.routes e.1) 126 116)
      8 * (e.2.fading.filter fun t => t.ramps m).length + 4 * (e.2.live.filter fun t => t.ramps m).length
    partLoad d j + fs * more.sum

/-- The engines that job `j` runs on: its own, and the one it moves to. -/
def jobEngines (s : State) (j : Nat) : List Nat :=
  let x := job s j
  if x.state = 0 then [] else x.engine :: (x.move.map (·.dest)).toList

/-- The jobs on engine `e`. -/
def jobsOn (s : State) (e : Nat) : List Nat := (activeJobs s).filter fun j => (jobEngines s j).contains e

/-- The load of engine `e` in slots per second, with job `skip` left out. -/
def engineLoad (s : State) (e : Nat) (skip : Option Nat) : Nat :=
  (((jobsOn s e).filter fun j => skip != some j).map (jobLoad s)).sum

/-- Slots per second at 1.6 GHz. -/
def fullLoad : Nat := 3200000000

/-- A load in per mille of an engine's slots. -/
def perMille (x : Nat) : Nat := x * 1000 / fullLoad

/-- The load stays at most `t` per mille. -/
def atMost (x t : Nat) : Bool := decide (x * 1000 ≤ t * fullLoad)

/-- Engine `e` has room for part `d` of job `j` within Table 10-1, its load aside. -/
def capacityFits (s : State) (e j : Nat) (d : AccDesc) : Bool :=
  let others := (jobsOn s e).filter (· != j)
  let parts := others.map fun k => (jobPart s k, k)
  let fs := jobRate (d.job j)
  let sum (f : AccDesc → Nat → Nat) : Nat := (parts.map fun p => f p.1 (jobRate (p.1.job p.2))).sum
  decide (others.length < 16) &&
    decide (sum (fun q _ => q.validSubs.length) + d.validSubs.length ≤ 64) &&
    decide (sum inputUnits + inputUnits d fs ≤ 256) &&
    decide (sum (fun q _ => q.validOuts.length) + d.validOuts.length ≤ 32) &&
    decide (sum outputUnits + outputUnits d fs ≤ 128)

/-- The device's totals of channel units stay within Table 10-1. -/
def deviceFits (s : State) (j : Nat) (d : AccDesc) : Bool :=
  let parts := ((activeJobs s).filter (· != j)).map fun k => (jobPart s k, k)
  let fs := jobRate (d.job j)
  let sum (f : AccDesc → Nat → Nat) : Nat := (parts.map fun p => f p.1 (jobRate (p.1.job p.2))).sum
  decide (sum inputUnits + inputUnits d fs ≤ 16384) && decide (sum outputUnits + outputUnits d fs ≤ 8192)

/-- A job's own counts stay within Table 10-1. -/
def countsFit (d : AccDesc) (j : Nat) : Bool :=
  let x := d.job j
  decide (fld x 467 461 ≤ 64 ∧ fld x 446 438 ≤ 256 ∧ fld x 426 421 ≤ 32 ∧ fld x 407 400 ≤ 128) &&
    d.validRoutes.all fun e => decide (fld e.2 108 104 ≤ 16)

/-- Engine `e` lies in a populated cluster. -/
def enginePopulated (s : State) (e : Nat) : Bool := isCluster s (e / 8)

/-! ### Refusals (Table 10-11) -/

/-- Two ranges have an index in common. -/
def overlaps (a b : Range) : Bool := decide (max a.1 b.1 < min a.2 b.2)

/-- Reason 2: a range past its table or over another active job's, or an index outside the job's ranges. -/
def rangeBad (s : State) (d : AccDesc) (j : Nat) : Bool :=
  let x := d.job j
  let others := ((activeJobs s).filter (· != j)).map fun k => s.acc.inForce.job k
  let past := decide (4096 < (subRange x).2 ∨ 16384 < (inputRange x).2 ∨ 2048 < (outRange x).2 ∨ 8192 < (routeRange x).2)
  past ||
    others.any (fun y => overlaps (subRange x) (subRange y) || overlaps (inputRange x) (inputRange y) ||
      overlaps (outRange x) (outRange y) || overlaps (routeRange x) (routeRange y)) ||
    d.validInputs.any (fun e => !inRange (subRange x) (fld e.2 126 115)) ||
    d.validRoutes.any fun e => !inRange (outRange x) (fld e.2 126 116) ||
      (d.routeTaps e.1).any fun t => !inRange (inputRange x) (fld t.2 62 49)

/-- The granules of an input channel's line. -/
def lineRange (e : BitVec 128) : Range := (fld e 100 80, fld e 100 80 + fld e 107 101)

/-- The lines of the active jobs other than `j`, with the destinations of their line moves. -/
def otherLines (s : State) (j : Nat) : List Range :=
  let mine := inputRange (s.acc.inForce.job j)
  ((activeJobs s).filter (· != j)).flatMap (fun k => (jobPart s k).validInputs.map fun e => lineRange e.2) ++
    (s.place.lineMoves.filter fun m => !inRange mine m.input).map fun m =>
      (m.toBase, m.toBase + fld (get 0 s.acc.inForce.inputs m.input) 107 101)

/-- The granules of delay memory (R316). -/
def granules : Nat := 1398101

/-- Reason 3: a line past the last granule, over another line, or too short for a tap that reads it. -/
def lineBad (s : State) (d : AccDesc) (j : Nat) : Bool :=
  let own := d.validInputs.map fun e => (e.1, lineRange e.2)
  let f := if 88200 ≤ jobRate (d.job j) then 2 else 1
  d.validInputs.any (fun e => decide (fld e.2 107 101 = 0 ∨ 96 < fld e.2 107 101 ∨ granules < (lineRange e.2).2)) ||
    own.any (fun a => (otherLines s j).any (overlaps a.2) || own.any fun b => a.1 != b.1 && overlaps a.2 b.2) ||
    d.validRoutes.any fun r => (d.routeTaps r.1).any fun t =>
      let e := get 0 d.inputs (fld t.2 62 49)
      flag e 127 && decide (fld e 107 101 * 1024 < fld t.2 48 32 + 1024 * f)

/-- Bytes of one output frame of a stream at job rate `fs`, FCS included (R292). -/
def outFrameBytes (o : BitVec 1024) (fs : Nat) : Nat :=
  let fmt := fld o 1022 1021
  let n := packetSamples (fld o 1018 1017) (convRate fs (fld o 1020 1019))
  max 64 (14 + (if flag o 1009 then 4 else 0) + (if fmt < 2 then 40 else 24) + n * (fld o 1016 1010 + 1) * sampleBytes fmt + 4)

/-- A conversion that R276 does not allow at rate `fs`. -/
def convBad (fs conv : Nat) : Bool := conv == 3 || (conv == 1 && decide (88200 ≤ fs)) || (conv == 2 && decide (fs < 88200))

/-- Reason 4. -/
def formatBad (d : AccDesc) (j : Nat) : Bool :=
  let fs := jobRate (d.job j)
  let slots := d.validRoutes.map fun e => (fld e.2 126 116, fld e.2 115 109)
  d.validSubs.any (fun e => convBad fs (fld e.2 492 491)) || d.validOuts.any (fun e => convBad fs (fld e.2 1020 1019)) ||
    d.validInputs.any (fun e => decide (fld (get 0 d.subs (fld e.2 126 115)) 488 482 < fld e.2 114 108)) ||
    d.validRoutes.any (fun e => decide (fld (get 0 d.outs (fld e.2 126 116)) 1016 1010 < fld e.2 115 109)) ||
    decide (slots.eraseDups.length < slots.length) || d.validOuts.any fun e => decide (10240 < outFrameBytes e.2 fs)

/-- Reason 5: a QUEUE outside the engine and host range, or not of the port of cluster `k`. -/
def queueBad (s : State) (d : AccDesc) (k : Nat) : Bool :=
  d.validSubs.any fun e => queueUse s (fld e.2 473 456) != 4 || queuePort s (fld e.2 473 456) != 80 + k

/-- Reason 7: what a COMMIT may not change. -/
def structBad (s : State) (d : AccDesc) (j : Nat) : Bool :=
  let old := jobPart s j
  let same (hi lo : Nat) : Bool := fld (d.job j) hi lo == fld (old.job j) hi lo
  !(flag (d.job j) 511 == flag (old.job j) 511 && same 510 507 && same 479 400) ||
    (rdBit s Reg.placeClassMode [] 0 == false && rdBit s Reg.placeClassMode [] 1 == false && !same 505 500) ||
    (keys d.inputs ++ keys old.inputs).any (fun i => fld (get 0 d.inputs i) 107 80 != fld (get 0 old.inputs i) 107 80) ||
    (keys d.outs ++ keys old.outs).any fun o => fld (get 0 d.outs o) 1022 1010 != fld (get 0 old.outs o) 1022 1010

/-! ### Which queue a copy to a cluster port takes (R277) -/

/-- The job that owns subscription `u`, while not STOPPED. -/
def subJob (s : State) (u : Nat) : Option Nat := (activeJobs s).find? fun j => inRange (subRange (s.acc.inForce.job j)) u

/-- The active, valid subscriptions to stream `h` on cluster `k`, lowest first. -/
def clusterSubs (s : State) (k h : Nat) : List Nat :=
  (s.acc.inForce.subs.filter fun e => flag e.2 511 && fld e.2 510 495 == h &&
    (subJob s e.1).any fun j => (jobEngines s j).any fun e => e / 8 == k).map Prod.fst

/-- The engine queue of subscription `u` at cluster `k`: the one allocated for a move to `k`, else QUEUE. -/
def subQueue (s : State) (u k : Nat) : Nat :=
  let own := fld (get 0 s.acc.inForce.subs u) 473 456
  match subJob s u with
  | none => own
  | some j =>
    match (job s j).move with
    | some m => if m.dest / 8 = k ∧ (job s j).engine / 8 ≠ k then ((m.queues.find? (·.1 == u)).map (·.2)).getD own else own
    | none => own

/-- The queue of a copy of a frame of stream `h` to cluster port 80 + k, if any. -/
def clusterQueue (s : State) (k : Nat) (h : Option Nat) : Option Nat :=
  match h with
  | none => none
  | some h => (clusterSubs s k h).head?.map fun u => subQueue s u k

/-! ### Counts that a frame to injection leaves (R283) -/

/-- The engine that computes output stream `o`. -/
def outEngine (s : State) (o : Nat) : Option Nat :=
  ((activeJobs s).find? fun j => inRange (outRange (s.acc.inForce.job j)) o).map fun j => (job s j).engine

/-- One more of event `ev` in the performance counters of engine `e` that count it (Table 10-13). -/
def perfEvent (s : State) (e ev n : Nat) : State :=
  (List.range 6).foldl (fun s k => if rd s Reg.accPerfSel [e, k] 7 0 = ev then bump s Ctr.engine [e] k n else s) s

/-- A frame of stream `o` reached its injection requester late. -/
def outLate (s : State) (o : Nat) : State :=
  let s := bump s Ctr.outStream [o] 1 1
  match outEngine s o with
  | none => s
  | some e =>
    let l := s.place.lateEngines
    perfEvent { s with place := { s.place with lateEngines := if l.contains e then l else l ++ [e] } } e 0x34 1

end Sys2Proof.Machine
end

