-- ==== Sys2Proof/Machine/Record.lean ====
section
/-! DEFINITION. The recorder's records: what is written to the capture and copied to the trace, and when a selection
loses frames (R510, R512 to R514, R519, R329). -/
namespace Sys2Proof.Machine

/-- The recorder's state (Table 19-5): 0 IDLE, 1 RECORDING, 2 POST, 3 FROZEN. -/
def recState (s : State) : Nat := rd s Reg.obsRecStat [] 31 29

/-- Records are being written. -/
def recording (s : State) : Bool := recState s == 1 || recState s == 2

/-- The bytes of a record: its header, and its body padded to 16 bytes. -/
def Rec.size (r : Rec) : Nat := 16 + ceilDiv r.body.length 16 * 16

/-- The capture partition, 17,179,869,184 bits (R519). -/
def captureSize : Nat := 2147483648

/-- The oldest records are overwritten until the rest fits. -/
def trimCapture : Nat → List Rec → Nat × List Rec
  | n, [] => (n, [])
  | n, r :: rs => if n ≤ captureSize then (n, r :: rs) else trimCapture (n - r.size) rs

/-- A record written to the capture (R514, R519). -/
def writeRec (s : State) (r : Rec) : State :=
  let o := s.obs
  let t := trimCapture (o.bytes + r.size) (o.records ++ [r])
  let s := { s with obs := { o with records := t.2, bytes := t.1, cycleBytes := o.cycleBytes + r.size } }
  bump s Ctr.obs [] 2 1

/-- A record copied to the trace when its type is selected and O0 transmits (R509, R510). -/
def traceRec (s : State) (r : Rec) : State :=
  if rdBit s Reg.obsTraceCfg [] 31 && r.ty != 0 && decide (r.ty < 16) && rdBit s Reg.obsTraceCfg [] r.ty then
    { s with obs := { s.obs with trace := s.obs.trace ++ [r] } }
  else s

/-- A record of an "always" type (R513). -/
def record (s : State) (ty flags src : Nat) (body : List Byte) : State :=
  let r : Rec := { ty := ty, flags := flags, dt := dtFrac s, src := src, body := body }
  let s := if recording s then writeRec s r else s
  traceRec s r

/-- Selection `k` covers a frame that came in on port `p` for stream `h`. -/
def selects (s : State) (p : Nat) (h : Option Nat) (k : Nat) : Bool :=
  let i := rd s Reg.obsSelA [k] 15 0
  rdBit s Reg.obsSelA [k] 31 && (if rd s Reg.obsSelA [k] 30 29 = 1 then h == some i else p == i)

/-- The selection that records a frame: the one of highest PRIO, and of those the lowest number. -/
def selectionOf (s : State) (p : Nat) (h : Option Nat) : Option Nat :=
  (List.range 16).foldl (fun best k =>
    if selects s p h k then
      match best with
      | none => some k
      | some b => if rd s Reg.obsSelA [b] 28 26 < rd s Reg.obsSelA [k] 28 26 then some k else best
    else best) none

/-- Bytes that CAP_RATE allows in one device cycle. -/
def captureBudget (s : State) : Nat := rd s Reg.obsRecCfg [] 30 24 * 125000

/-- A frame dropped from the capture: it counts, and a GAP record will cover its epoch (R514). -/
def dropRec (s : State) : State :=
  let e := epochNow s
  let l := match s.obs.lost with
    | none => (e, e)
    | some (a, _) => (a, e)
  bump { s with obs := { s.obs with lost := some l } } Ctr.obs [] 3 1

/-- A FRAME record (0x01) of the frame `bs` that came in on port `p` with ingress stamp `stamp`: written when a
selection covers it, cut to the selection's TRUNC, unless it exceeds the rate that the recorder or placement allows
it. FLAGS bit 1 is a bad FCS and bit 2 the stomp pattern. -/
def recordFrame (s : State) (p : Nat) (h : Option Nat) (stamp : Stamp) (bad stomped : Bool) (bs : List Byte) : State :=
  match selectionOf s p h with
  | none => s
  | some k =>
    let n := rd s Reg.obsSelB [k] 13 0
    let cut := n != 0 && decide (n < bs.length)
    let r : Rec := { ty := 1, flags := bnat cut + 2 * bnat bad + 4 * bnat stomped, dt := stamp.dt, src := p,
                     body := if cut then bs.take n else bs }
    let s := traceRec s r
    if recording s then
      let w := get 0 s.obs.wanted k + r.size
      let s := { s with obs := { s.obs with wanted := set 0 s.obs.wanted k w } }
      if captureBudget s < s.obs.cycleBytes + r.size || (find s.place.granted k).any (fun g => decide (g * 125000 < w))
      then dropRec s else writeRec s r
    else s

/-- The GAP record (0x0B) of the frames dropped so far. -/
def closeGap (s : State) : State :=
  match s.obs.lost with
  | none => s
  | some (a, b) =>
    let s := record s 0x0B 0 0 (toBytes 4 a ++ toBytes 4 b)
    { s with obs := { s.obs with lost := none, gap := s.obs.gap || recording s } }

end Sys2Proof.Machine
end

