-- ==== Sys2Proof/Machine/Operands.lean ====
section
/-! DEFINITION. What the parser reads from a frame (Table 2-10, R114, R120, R553, R559) and how the bytes of a frame
are rewritten: tags, R-TAGs, HSR tags and PRP trailers (R70, R121, R166, R168, R173). -/
namespace Sys2Proof.Machine

/-- A VLAN tag. -/
structure VTag where
  tpid : Nat
  pcp : Nat
  dei : Bool
  vid : Nat
  deriving DecidableEq, Repr

/-- What the parser finds in a frame's first bytes. -/
structure Header where
  da : Nat
  sa : Nat
  tags : List VTag
  /-- Where an R-TAG or HSR tag stands: after the last VLAN tag, or after the source address (R559). -/
  tagEnd : Nat
  rtag : Option (BitVec 16)
  /-- The HSR tag's PathId and sequence number. -/
  hsr : Option (Nat × BitVec 16)
  etype : Nat
  /-- Offset of the bytes after the EtherType. -/
  l3 : Nat
  ipv4 : Bool
  ipv6 : Bool
  dscp : Nat
  proto : Nat
  sip : Nat
  dip : Nat
  /-- Offset of the bytes after the IP headers. -/
  l4 : Nat
  sport : Nat
  dport : Nat
  rtp : Option (BitVec 16)
  /-- Offset of a PTP message: EtherType 0x88F7, or UDP port 319 or 320. -/
  ptpAt : Option Nat
  deriving DecidableEq, Repr

/-- The VLAN tags from offset `o`, at most two, and the offset after them. -/
def parseTags (b : List Byte) : Nat → Nat → List VTag × Nat
  | 0, o => ([], o)
  | n + 1, o =>
    let e := field b o 2
    if (e = 0x8100 ∨ e = 0x88A8) ∧ o + 6 ≤ b.length then
      let tci := field b (o + 2) 2
      let r := parseTags b n (o + 4)
      (⟨e, tci / 8192, bit tci 12, tci % 4096⟩ :: r.1, r.2)
    else ([], o)

/-- The L2 parser graph over the bytes of a frame, its FCS aside. -/
def parse (b : List Byte) : Header :=
  let (tags, at1) := parseTags b 2 12
  let e0 := field b at1 2
  let isR := decide (e0 = 0xF1C1 ∧ at1 + 8 ≤ b.length)
  let isH := decide (e0 = 0x892F ∧ at1 + 8 ≤ b.length)
  let o := if isR || isH then at1 + 6 else at1
  let e := field b o 2
  let l3 := o + 2
  let v4 := decide (e = 0x0800 ∧ l3 + 20 ≤ b.length ∧ byteAt b l3 / 16 = 4)
  let v6 := decide (e = 0x86DD ∧ l3 + 40 ≤ b.length ∧ byteAt b l3 / 16 = 6)
  let hop := v6 && byteAt b (l3 + 6) == 0 && decide (l3 + 42 ≤ b.length)
  let proto := if v4 then byteAt b (l3 + 9) else if hop then byteAt b (l3 + 40) else if v6 then byteAt b (l3 + 6) else 0
  let l4 := if v4 then l3 + byteAt b l3 % 16 * 4
    else if hop then l3 + 40 + (byteAt b (l3 + 41) + 1) * 8 else if v6 then l3 + 40 else l3
  let ports := (v4 || v6) && (proto == 6 || proto == 17) && decide (l4 + 4 ≤ b.length)
  let dport := if ports then field b (l4 + 2) 2 else 0
  let udp := ports && proto == 17
  let ptpUdp := udp && (dport == 319 || dport == 320)
  let isRtp := udp && !ptpUdp && decide (l4 + 12 ≤ b.length) && byteAt b (l4 + 8) / 64 == 2 &&
    decide (8 + 12 + 4 * (byteAt b (l4 + 8) % 16) ≤ field b (l4 + 4) 2)
  { da := field b 0 6, sa := field b 6 6, tags := tags, tagEnd := at1,
    rtag := if isR then some (BitVec.ofNat 16 (field b (at1 + 4) 2)) else none,
    hsr := if isH then some (field b (at1 + 2) 2 / 4096, BitVec.ofNat 16 (field b (at1 + 4) 2)) else none,
    etype := e, l3 := l3, ipv4 := v4, ipv6 := v6,
    dscp := if v4 then byteAt b (l3 + 1) / 4 else if v6 then (byteAt b l3 % 16 * 16 + byteAt b (l3 + 1) / 16) / 4 else 0,
    proto := proto,
    sip := if v4 then field b (l3 + 12) 4 else if v6 then field b (l3 + 8) 16 else 0,
    dip := if v4 then field b (l3 + 16) 4 else if v6 then field b (l3 + 24) 16 else 0,
    l4 := l4, sport := if ports then field b l4 2 else 0, dport := dport,
    rtp := if isRtp then some (BitVec.ofNat 16 (field b (l4 + 10) 2)) else none,
    ptpAt := if e = 0x88F7 then some l3 else if ptpUdp then some (l4 + 8) else none }

/-- The destination is a group address. -/
def Header.group (h : Header) : Bool := bit h.da 40

/-- The destination is the broadcast address. -/
def Header.bcast (h : Header) : Bool := h.da == 2 ^ 48 - 1

/-- The destination is 01-80-C2-00-00-00 to -0F (R119). -/
def Header.linkLocal (h : Header) : Bool := h.da / 16 == 0x0180C200000

/-- The destination is IPv4 224.0.0.0/24 or IPv6 ff02::/16 (R122). -/
def Header.localGroup (h : Header) : Bool :=
  (h.ipv4 && h.dip / 256 == 0xE00000) || (h.ipv6 && h.dip / 2 ^ 112 == 0xFF02)

/-! ### IGMP and MLD (R147) -/

/-- The address family and kind of a snooped message: 0 query, 1 report, 2 leave. -/
inductive Snoop where
  | igmp (kind : Nat)
  | mld (kind : Nat)
  deriving DecidableEq, Repr

/-- An IGMP or MLD message, by the types of RFC 3376 and RFC 3810. -/
def snoopKind (b : List Byte) (h : Header) : Option Snoop :=
  let t := byteAt b h.l4
  if h.ipv4 && h.proto == 2 then
    (if t = 0x11 then some (.igmp 0) else if t = 0x17 then some (.igmp 2) else some (.igmp 1))
  else if h.ipv6 && h.proto == 58 then
    (if t = 130 then some (.mld 0) else if t = 131 ∨ t = 143 then some (.mld 1) else if t = 132 then some (.mld 2) else none)
  else none

/-- The group addresses of `n` membership records from offset `o`, each `w` bytes wide. -/
def recordGroups (b : List Byte) (w : Nat) : Nat → Nat → List Nat
  | 0, _ => []
  | n + 1, o =>
    if o + 4 + w ≤ b.length then
      field b (o + 4) w :: recordGroups b w n (o + 4 + w + field b (o + 2) 2 * w + byteAt b (o + 1) * 4)
    else []

/-- The destination MAC addresses of the groups that a report names. -/
def reportGroups (b : List Byte) (h : Header) : List Nat :=
  let t := byteAt b h.l4
  if h.ipv4 then
    (if t = 0x22 then recordGroups b 4 (field b (h.l4 + 6) 2) (h.l4 + 8) else [field b (h.l4 + 4) 4]).map fun a =>
      0x01005E000000 + a % 2 ^ 23
  else
    (if t = 143 then recordGroups b 16 (field b (h.l4 + 6) 2) (h.l4 + 8) else [field b (h.l4 + 8) 16]).map fun a =>
      0x333300000000 + a % 2 ^ 32

/-! ### Rewriting (R70, R121, R166, R168, R173) -/

/-- A VLAN tag's four bytes. -/
def tagBytes (tpid pcp : Nat) (dei : Bool) (vid : Nat) : List Byte :=
  toBytes 2 tpid ++ toBytes 2 (pcp * 8192 + bnat dei * 4096 + vid)

/-- `n` bytes removed at offset `o`. -/
def cutOut (b : List Byte) (o n : Nat) : List Byte := b.take o ++ b.drop (o + n)

/-- Bytes inserted at offset `o`. -/
def insertAt (b : List Byte) (o : Nat) (v : List Byte) : List Byte := b.take o ++ v ++ b.drop o

/-- An R-TAG's six bytes (R559). -/
def rtagBytes (n : BitVec 16) : List Byte := [0xF1, 0xC1, 0, 0] ++ toBytes 2 n.toNat

/-- An HSR tag's six bytes with its LSDU size: the bytes that follow the tag, as IEC 62439-3 counts them with the
tag's own size and sequence fields. -/
def hsrBytes (pathId lsdu : Nat) (n : BitVec 16) : List Byte :=
  [0x89, 0x2F] ++ toBytes 2 (pathId * 4096 + lsdu % 4096) ++ toBytes 2 n.toNat

/-- A PRP trailer's six bytes. -/
def prpBytes (lanId lsdu : Nat) (n : BitVec 16) : List Byte :=
  toBytes 2 n.toNat ++ toBytes 2 (lanId * 4096 + lsdu % 4096) ++ [0x88, 0xFB]

/-- The size that a PRP trailer states for the frame it ends: the bytes between the EtherType's place and the FCS,
trailer included, after the VLAN tags. -/
def prpLsdu (b : List Byte) : Nat := b.length - (parse b).tagEnd - 2

/-- The trailer at the end of a frame without its FCS, when its suffix and its size are right: LanId and sequence. -/
def prpTrailer (b : List Byte) : Option (Nat × BitVec 16) :=
  let o := b.length - 6
  if 20 ≤ b.length ∧ field b (o + 4) 2 = 0x88FB ∧ field b (o + 2) 2 % 4096 = prpLsdu b % 4096 then
    some (field b (o + 2) 2 / 4096, BitVec.ofNat 16 (field b o 2))
  else none

/-- A frame without its FCS, padded to 60 bytes and closed with one (R70). -/
def closed (b : List Byte) : List Byte :=
  let b := padTo 60 b
  b ++ fcsBytes b

end Sys2Proof.Machine
end

