-- ==== Sys2Proof/Machine/Streams.lean ====
section
/-! DEFINITION. The stream unit: identification, contexts, meters, sequence generation and recovery, the SID table, and
the node table of PRP and HSR pairs (chapter 6). Balances are in 10⁻⁵ bytes. -/
namespace Sys2Proof.Machine

/-! ### Identification (R158, R159) -/

/-- The slots of the SID table; stash entry j has index `sidSize` + j. -/
def sidSize : Nat := 65536

def sidEntry (s : State) (i : Nat) : BitVec 512 := get 0 s.strm.sid i

/-- The bits of an entry that its key holds: VALID, STREAM and reserved bits are zero (R159). -/
def sidKeyMask : BitVec 512 := BitVec.ofNat 512 (15 * 2 ^ 507 + (2 ^ 476 - 2 ^ 114))

/-- The bits of an entry that are stored. -/
def sidMask : BitVec 512 := BitVec.ofNat 512 (31 * 2 ^ 507 + (2 ^ 492 - 2 ^ 114))

def sidKey (e : BitVec 512) : Nat := (e &&& sidKeyMask).toNat

def sidKeyAt (s : State) (i : Nat) : Option Nat :=
  let e := sidEntry s i
  if flag e 511 then some (sidKey e) else none

/-- The first slot of key `k`'s bucket in bank `b`. -/
def sidFirst (s : State) (b k : Nat) : Nat :=
  b * 32768 + (crc32c (word s Reg.strmHashSeed [b]) (toBytes 64 k)).toNat % 8192 * 4

/-- The indices at which a key is found. -/
def sidFind (s : State) (k : Nat) : List Nat :=
  ((List.range 2).flatMap fun b => (List.range 4).map (sidFirst s b k + ·)).filter (fun i => sidKeyAt s i == some k)
    ++ ((List.range 32).map (sidSize + ·)).filter fun i => sidKeyAt s i == some k

/-- The key of an IP profile with field mask `m` (Table 6-3): fields that the mask leaves out are zero, and IPV6 is the
frame's where an address is selected (R158). -/
def ipKey (kind m vid : Nat) (h : Header) : Nat :=
  let on (i v : Nat) : Nat := if bit m i then v else 0
  kind * 2 ^ 508 + (if h.ipv6 && (bit m 2 || bit m 3) then 2 ^ 507 else 0) + on 1 vid * 2 ^ 464 + on 0 h.da * 2 ^ 416
    + on 2 h.sip * 2 ^ 288 + on 3 h.dip * 2 ^ 160 + on 4 h.dscp * 2 ^ 154 + on 5 h.proto * 2 ^ 146
    + on 6 h.sport * 2 ^ 130 + on 7 h.dport * 2 ^ 114

/-- The keys that port `p` tries, in the order in which the first hit wins. -/
def sidKeys (s : State) (p vid : Nat) (h : Header) : List Nat :=
  let en := rd s Reg.strmPortCfg [p] 5 0
  ((List.range 4).filter fun k => bit en (2 + k) && rdBit s Reg.strmIpProfile [k] 31).map
      (fun k => ipKey (2 + k) (rd s Reg.strmIpProfile [k] 7 0) vid h)
    ++ (if bit en 1 then [2 ^ 508 + vid * 2 ^ 464 + h.sa * 2 ^ 416] else [])
    ++ (if bit en 0 then [vid * 2 ^ 464 + h.da * 2 ^ 416] else [])

/-- The configuration half of context `h`; bit i of Table 6-4 is bit i − 256 here. -/
def streamCfg (s : State) (h : Nat) : BitVec 256 := get 0 s.strm.config h

/-- The stream of a frame, when a key hits and its context is in use. -/
def identify (s : State) (p vid : Nat) (h : Header) : Option Nat :=
  match (sidKeys s p vid h).findSome? fun k => (sidFind s k).head? with
  | none => none
  | some i =>
    let n := fld (sidEntry s i) 491 476
    if flag (streamCfg s n) 255 then some n else none

/-! ### Meters (R163, R164) -/

/-- The cap of a meter's balance: CBS × 64 bytes. -/
def meterCap (cfg : BitVec 256) : Int := (max 1 (fld cfg 167 152) * 64 * 100000 : Nat)

/-- The balance of a path now: CIR × 8,000 bytes a second is CIR × 10⁻⁵ bytes a tick. -/
def meterBalance (s : State) (cfg : BitVec 256) (x : StreamState) (path : Nat) : Int :=
  let b := x.balances.getD path (0, 0)
  min (meterCap cfg) (b.1 + fld cfg 191 168 * (s.time.dt - b.2))

/-- The balance of a path set. -/
def putBalance (s : State) (h path : Nat) (v : Int) : State :=
  let x := streamState s h
  putStreamState s h { x with balances := x.balances.set path (v, s.time.dt) }

/-! ### Pairs (R171): 0 to 3 are ring pairs, 4 to 11 PRP pairs -/

/-- The pair that a port belongs to. -/
def pairOf (s : State) (p : Nat) : Option Nat :=
  if hsrLane s p then some ((p - 40) / 2)
  else ((List.range 8).find? fun q => rdBit s Reg.strmPrpPair [q] 31 && (prpPorts s q).contains p).map (4 + ·)

/-- The two ports of a pair, the learning port first. -/
def pairPorts (s : State) (q : Nat) : List Nat := if q < 4 then [40 + 2 * q, 41 + 2 * q] else prpPorts s (q - 4)

/-- A port as the learning engine and the destination set see it: the first port of its pair (R171). -/
def bridgePort (s : State) (p : Nat) : Nat :=
  match pairOf s p with
  | none => p
  | some q => (pairPorts s q).headD p

/-! ### Recovery and generation (R162, R165, R167, R169) -/

/-- One more event of a kind of Table 6-5 or of R162 and R170, with the stream and reason recorded. -/
def streamEvent (s : State) (cnt last : RegRow) (h reason : Nat) : State :=
  putWord (countEvent s cnt []) last [] (BitVec.ofNat 32 (reason * 65536 + h))

/-- A frame longer than MAX_SDU: it counts, and BLOCK_OVERSIZE blocks the stream (R162). -/
def sduDrop (s : State) (h : Nat) (cfg : BitVec 256) : State :=
  let s := bump s Ctr.stream [h] 2 1
  if flag cfg 193 then
    streamEvent (putStreamState s h { streamState s h with blocked := true }) Reg.strmBlockCnt Reg.strmBlockLast h 0
  else s

/-- `len` exceeds the context's MAX_SDU. -/
def overSdu (cfg : BitVec 256) (len : Nat) : Bool :=
  let m := fld cfg 207 194
  m != 0 && decide (held 64 10240 m < len)

/-- A frame takes its sequence number at step 7, or is dropped for want of an RTP header (R165). -/
def generate (s : State) (h : Nat) (cfg : BitVec 256) (rtp : Option (BitVec 16)) : State × Option (BitVec 16) :=
  if flag cfg 121 then
    match rtp with
    | none => (bump s Ctr.stream [h] 13 1, none)
    | some n => (s, some n)
  else
    let x := streamState s h
    (putStreamState s h { x with genSeq := x.genSeq + 1 }, some x.genSeq)

/-- A passed frame: it counts, and the recovery timer restarts (R167). RESET_TIME is in 100 µs, 80,000 ticks. -/
def passRecovery (s : State) (h : Nat) (cfg : BitVec 256) (x : StreamState) : State :=
  let x := { x with timerEnd := some (s.time.dt + fld cfg 139 124 * 80000), passed := x.passed + 1 }
  bump (putStreamState s h x) Ctr.stream [h] 5 1

/-- A frame that recovery eliminates. -/
def discardRecovery (s : State) (h : Nat) (x : StreamState) : State :=
  bump (putStreamState s h { x with discarded := x.discarded + 1 }) Ctr.stream [h] 6 1

/-- Step 6 with sequence number `n`: the vector or the match algorithm of R167. Answers whether the frame passes. -/
def recover (s : State) (h : Nat) (cfg : BitVec 256) (n : BitVec 16) : State × Bool :=
  let x := streamState s h
  let d := (n - x.recSeq).toInt
  if flag cfg 147 then
    if !x.takeAny && n == x.recSeq then (discardRecovery s h x, false)
    else
      let s := if !x.takeAny && d != 1 then bump s Ctr.stream [h] 7 1 else s
      (passRecovery s h cfg { x with recSeq := n, takeAny := false }, true)
  else
    let len := min 64 (fld cfg 146 140)
    if x.takeAny then (passRecovery s h cfg { x with recSeq := n, history := 1, takeAny := false }, true)
    else if (len : Int) ≤ d ∨ d ≤ -(len : Int) then (bump s Ctr.stream [h] 8 1, false)
    else if d ≤ 0 then
      let i := (-d).toNat
      if x.history.getLsbD i then (discardRecovery s h x, false)
      else (passRecovery (bump s Ctr.stream [h] 7 1) h cfg { x with history := setFld x.history i i 1 }, true)
    else
      let k := d.toNat
      let lost := ((List.range k).filter fun j => !x.history.getLsbD (len - k + j)).length
      let s := if lost = 0 then s else bump s Ctr.stream [h] 9 lost
      let s := if k = 1 then s else bump s Ctr.stream [h] 7 1
      (passRecovery s h cfg { x with recSeq := n, history := (x.history <<< k) ||| 1 }, true)

/-- Steps 2 to 4 at the header of frame `x`. `len` is the frame's length and `known` whether it is known. Answers the
frame with its charge, and whether it goes on. -/
def stepsAtHeader (s : State) (x : Frame) (known : Bool) (len : Nat) : State × Frame × Bool :=
  match x.stream with
  | none => (s, x, true)
  | some h =>
    let cfg := x.cfg
    if (streamState s h).blocked then (bump s Ctr.stream [h] 3 1, x, false)
    else if known && overSdu cfg len then (sduDrop s h cfg, x, false)
    else if !flag cfg 192 then (s, x, true)
    else
      let charge := if known then len else declaredLength x
      let bal := meterBalance s cfg (streamState s h) x.path
      if bal < charge * 100000 then (bump (putBalance s h x.path bal) Ctr.stream [h] 4 1, x, false)
      else (putBalance s h x.path (bal - charge * 100000), { x with metered := some charge }, true)

/-- Step 6 applies to a frame of context `cfg` from port `p`: it recovers sequence numbers, or comes from a pair. -/
def stepSix (s : State) (p : Nat) (cfg : BitVec 256) : Bool := flag cfg 148 || (pairOf s p).isSome

/-- Step 7 of a frame that generates: at the header where step 6 does not apply (`tail` false), else after it. Answers the frame
with its number, and whether it goes on. -/
def generateAt (s : State) (tail : Bool) (x : Frame) (rtp : Option (BitVec 16)) : State × Frame × Bool :=
  match x.stream with
  | none => (s, x, true)
  | some h =>
    if flag x.cfg 149 && stepSix s x.inPort x.cfg == tail then
      match generate s h x.cfg rtp with
      | (s, none) => (s, x, false)
      | (s, some n) => (s, { x with genSeq := some n }, true)
    else (s, x, true)

/-- The meter's reduction corrected at the tail to the frame's actual length, whatever its outcome (R164). -/
def correctMeter (s : State) (x : Frame) (len : Nat) : State :=
  match x.stream, x.metered with
  | some h, some charge =>
    let cfg := streamCfg s h
    let bal := meterBalance s cfg (streamState s h) x.path
    putBalance s h x.path (min (meterCap cfg) (bal + ((charge : Int) - len) * 100000))
  | _, _ => s

/-- The sequence number that a frame carries in the encoding of its context: an R-TAG, an HSR tag or a PRP trailer. -/
def carriedNumber (cfg : BitVec 256) (h : Header) (b : List Byte) : Option (BitVec 16) :=
  match fld cfg 151 150 with
  | 1 => h.rtag
  | 2 => h.hsr.map (·.2)
  | 3 => (prpTrailer b).map (·.2)
  | _ => none

/-- Step 6's recovery of a frame whose FCS is good. Answers whether the frame goes on. -/
def recoverAtTail (s : State) (x : Frame) (h : Header) (b : List Byte) : State × Bool :=
  match x.stream with
  | none => (s, true)
  | some n =>
    if !flag x.cfg 148 then (s, true)
    else match carriedNumber x.cfg h b with
      | none =>
        let s := bump s Ctr.stream [n] 10 1
        (s, flag x.cfg 123)
      | some q => recover s n x.cfg q

/-! ### Contexts (R155, R161, R178) -/

/-- The bits of a configuration half that are stored. -/
def contextMask : BitVec 256 := BitVec.ofNat 256 (2 ^ 256 - 2 ^ 118 - 7 * 2 ^ 208)

/-- The reason of Table 6-5 that refuses a write to context `h`, 0 for none. -/
def contextRefusal (s : State) (h : Nat) (cfg : BitVec 256) : Nat :=
  let q := fld cfg 233 216
  let use := queueUse s q
  let gen := flag cfg 149
  let rec_ := flag cfg 148
  let enc := fld cfg 151 150
  if !flag cfg 255 then 0
  else if flag cfg 215 && use != 2 && use != 5 then 1
  else if flag cfg 215 && (s.strm.config.any fun e => e.1 != h && flag e.2 255 && flag e.2 215 && fld e.2 233 216 == q) then 2
  else if flag cfg 254 && !flag cfg 192 then 3
  else if ((gen || rec_) && enc == 0) || (rec_ && (fld cfg 146 140 == 0 || fld cfg 139 124 == 0)) ||
      (gen && (enc == 2 || enc == 3)) then 4
  else if fld cfg 249 248 == 1 && decide (95 < fld cfg 247 234) then 5
  else if flag cfg 120 && (!rec_ || fld cfg 119 118 == 0) then 6
  else 0

/-- The queues that a context's copies to its owner port take: QUEUE, or the class queues of port `p`. -/
def boundQueues (cfg : BitVec 256) (p : Nat) : List Nat :=
  if flag cfg 255 && flag cfg 215 then [fld cfg 233 216] else (List.range 8).map (p * 8 + ·)

/-- The queues that may still hold frames of stream `h` bound to queues `olds`: those, and the ones that they stand behind. -/
def olderQueues (s : State) (h : Nat) (olds : List Nat) : List Nat :=
  (olds ++ olds.flatMap fun o => ((queue s o).heldBehind.filter fun e => e.1 == h).flatMap (·.2)).eraseDups

/-- A write changed QUEUE or QUEUE_EN: each new queue stands behind the old ones for this stream, and behind those that
they stand behind (R178). -/
def rebind (s : State) (h : Nat) (old new : BitVec 256) : State :=
  let bound (cfg : BitVec 256) := flag cfg 255 && flag cfg 215
  if (bound old, fld old 233 216) = (bound new, fld new 233 216) ∨ (!bound old ∧ !bound new) then s
  else
    let p := queuePort s (fld (if bound new then new else old) 233 216)
    if 95 < p then s
    else
      let olds := olderQueues s h (boundQueues old p)
      (boundQueues new p).foldl (fun s q =>
        let x := queue s q
        putQueue s q { x with heldBehind := x.heldBehind.filter (fun e => e.1 != h) ++ [(h, olds)] }) s

/-- Recovery takes the next number, with an empty history and no timer running. -/
def StreamState.resetRecovery (x : StreamState) : StreamState :=
  { x with takeAny := true, history := 0, timerEnd := none }

/-- A context write lands: refused, or put in force with what follows it (R155, R161). -/
def contextWrite (s : State) (req : Requester) (h : Nat) (cfg : BitVec 256) : State :=
  if standsBy s req (some 3) then bump s Ctr.twin [] 6 1
  else
    let cfg := cfg &&& contextMask
    let cfg := if fld cfg 207 194 = 0 then cfg else setFld cfg 207 194 (held 64 10240 (fld cfg 207 194))
    match contextRefusal s h cfg with
    | 0 =>
      let old := streamCfg s h
      let x := streamState s h
      let bals := (List.range 4).map fun k => (min (meterCap cfg) (meterBalance s old x k), s.time.dt)
      let changed := fld old 151 150 != fld cfg 151 150 || flag old 148 != flag cfg 148 || flag old 147 != flag cfg 147 ||
        fld old 146 140 != fld cfg 146 140
      let x := { x with balances := bals }
      let s := putStreamState s h (if changed then x.resetRecovery else x)
      let s := rebind { s with strm := { s.strm with config := set 0 s.strm.config h cfg } } h old cfg
      mirror s 3 (0x3000020 + h * 64) (wordsOf 8 cfg)
    | r => streamEvent s Reg.strmRefuseCnt Reg.strmRefuseLast h r

/-! ### STRM_CMD (R160) -/

/-- One SID entry lands. -/
def landSid (s : State) (i : Nat) (e : BitVec 512) : State :=
  let s := { s with strm := { s.strm with sid := set 0 s.strm.sid i (e &&& sidMask) } }
  mirror s 3 (if i < sidSize then 0x2800000 + i * 64 else 0x2C00000 + (i - sidSize) * 64) (wordsOf 16 (e &&& sidMask))

/-- RESULT, with INDEX where a location was found or written. -/
def sidResult (s : State) (r : Nat) (i : Option Nat) : State :=
  let s := wr s Reg.strmCmdCtrl [] 2 0 r
  match i with
  | none => s
  | some i => wr s Reg.strmCmdCtrl [] 24 8 i

/-- The entry that STRM_CMD_DATA0 to 15 hold. -/
def sidData (s : State) : BitVec 512 :=
  BitVec.ofNat 512 (joinWords ((List.range 16).map fun w => word s Reg.strmCmdData [w]))

/-- Operation 0. -/
def sidLookup (s : State) : State :=
  match sidFind s (sidKey (sidData s)) with
  | [] => sidResult s 1 none
  | i :: _ =>
    let s := (List.range 16).foldl (fun s w =>
      wrBoth s Reg.strmCmdData [w] 31 0 (sidEntry s i / BitVec.ofNat 512 (2 ^ (32 * w))).toNat) s
    sidResult s 0 (some i)

/-- Operation 1: steps 1 to 3 of R132, with two banks and no locks. -/
def sidInsert (s : State) : State :=
  let e := sidData s
  let k := sidKey e
  if !flag e 511 then sidResult s 4 none
  else match sidFind s k with
    | i :: is => sidResult ((i :: is).foldl (fun s j => landSid s j e) s) 0 (some i)
    | [] =>
      match place 2 sidSize 32 (sidFirst s) (sidKeyAt s) (fun _ => false) false s.strm.rot s.strm.walk k with
      | (p, rot, walk) =>
        let keep (s : State) : State := { s with strm := { s.strm with rot := rot, walk := walk } }
        match p with
        | .slot i => sidResult (landSid (keep s) i e) 0 (some i)
        | .stash i => sidResult (landSid (keep s) i e) 0 (some i)
        | .chain moves i =>
          let s := moves.foldl (fun s m => landSid s m.2 (sidEntry s m.1)) (keep s)
          sidResult (landSid s i e) 0 (some i)
        | _ => sidResult s 2 none

/-- Operation 2. -/
def sidDelete (s : State) : State :=
  match sidFind s (sidKey (sidData s)) with
  | [] => sidResult s 1 none
  | i :: is => sidResult ((i :: is).foldl (fun s j => landSid s j 0) s) 0 (some i)

/-- A write of STRM_CMD_CTRL: OP is stored, and GO performs the operation at once, so that BUSY reads 0. -/
def sidCommand (s : State) (req : Requester) (data : Word) : State :=
  let s := stage s req Reg.strmCmdCtrl [] 0xFFFFFFFF data
  if !flag data 31 then s
  else match fld data 30 29 with
    | 1 => if standsBy s req (some 3) then s else sidInsert s
    | 2 => if standsBy s req (some 3) then s else sidDelete s
    | _ => sidLookup s

/-- A seed is written while no valid SID entry is held (R128, R159). -/
def sidSeedWrite (s : State) (req : Requester) (bank : Nat) (seed : Word) : State :=
  if s.strm.sid.any fun e => flag e.2 511 then s else stage s req Reg.strmHashSeed [bank] 0xFFFFFFFF seed

/-! ### STRM_CTX_CMD (R162, R165) -/

/-- 0 resets recovery, 1 unblocks, 2 zeroes GEN_SEQ, 3 fills the balances. -/
def contextCommand (s : State) (op h : Nat) : State :=
  let x := streamState s h
  match op with
  | 0 => putStreamState s h x.resetRecovery
  | 1 => putStreamState s h { x with blocked := false }
  | 2 => putStreamState s h { x with genSeq := 0 }
  | _ => putStreamState s h { x with balances := List.replicate 4 (meterCap (streamCfg s h), s.time.dt) }

/-- A write of STRM_CTX_CMD: its fields are stored, and GO performs the operation. -/
def contextCommandWrite (s : State) (req : Requester) (data : Word) : State :=
  let s := stage s req Reg.strmCtxCmd [] 0xFFFFFFFF data
  if flag data 31 then contextCommand s (fld data 29 28) (fld data 15 0) else s

/-- The word of STRM_CTX_CMD with GO. -/
def ctxCmdWord (op : Nat) (h : BitVec 16) : Word := BitVec.ofNat 32 (2 ^ 31 + op * 2 ^ 28 + h.toNat)

/-- RECOVERY_TIMER_EXPIRY: RESET_TIME after the last frame passed, TAKE_ANY becomes 1, HISTORY 0, and STR_RESETS counts
(R167). -/
def execRecoveryTimerExpiry (h : BitVec 16) (s : State) : Host.Outcome State Fault Refusal :=
  let x := streamState s h.toNat
  if x.timerEnd.any (fun t => decide (t ≤ s.time.dt)) then done (bump (putStreamState s h.toNat x.resetRecovery) Ctr.stream [h.toNat] 11 1) else done s

/-- One context's latent-error test: D = P × PATHS − X against TOL (R170). -/
def latentTest (s : State) (h : Nat) : State :=
  let x := streamState s h
  let cfg := streamCfg s h
  let d : Int := (x.passed * fld cfg 119 118 : Nat) - (x.discarded : Int)
  let s := putStreamState s h { x with passed := 0, discarded := 0 }
  if flag cfg 120 && decide (rd s Reg.strmLatent [] 15 0 < d.natAbs) then
    streamEvent (bump s Ctr.stream [h] 12 1) Reg.strmLatentCnt Reg.strmLatentLast h 0
  else s

/-- The end of the period of R170 in progress. -/
def latentEnd (s : State) : Nat := s.strm.latentAt + rd s Reg.strmLatent [] 31 16 * 800000

/-! ### The node table of PRP and HSR pairs (R171 to R173) -/

/-- The node of a pair and source. -/
def nodeOf (s : State) (q : Nat) (mac : BitVec 48) : Option Node := s.strm.nodes.find? fun n => n.pair == q && n.mac == mac

/-- The node table with `n` in the place of its own entry, or added. -/
def putNode (s : State) (n : Node) : State :=
  let same (m : Node) : Bool := m.pair == n.pair && m.mac == n.mac
  let l := s.strm.nodes
  { s with strm := { s.strm with nodes := if l.any same then l.map fun m => if same m then n else m else l ++ [n] } }

/-- What the duplicate check finds: the frame's number is new, or among the last 32; or its source has no entry in a full
table, so that it skips the check (R172). -/
inductive NodeCheck where
  | fresh | duplicate | skipped
  deriving DecidableEq, Repr

/-- The duplicate check of output `out` (0 local, 1 and 2 the pair's lanes) for number `n`. -/
def duplicateCheck (s : State) (q : Nat) (mac : BitVec 48) (out : Nat) (n : BitVec 16) : State × NodeCheck :=
  match nodeOf s q mac with
  | some x =>
    let l := x.seen.getD out []
    if l.contains n then (putNode s { x with lastAt := s.time.dt }, .duplicate)
    else (putNode s { x with lastAt := s.time.dt, seen := x.seen.set out ((n :: l).take 32) }, .fresh)
  | none =>
    if nodeLimit ≤ s.strm.nodes.length then (s, .skipped)
    else (putNode s { pair := q, mac := mac, seen := [[], [], []].set out [n], lastAt := s.time.dt }, .fresh)

/-- The next number of a pair's own counter. -/
def nextPairSeq (s : State) (q : Nat) : State × BitVec 16 :=
  let n := s.strm.pairSeq.getD q 0
  ({ s with strm := { s.strm with pairSeq := s.strm.pairSeq.set q (n + 1) } }, n)

/-- NODE_FORGET: the entry of a source that has been silent for FORGET milliseconds is removed. -/
def execNodeForget (pair : Fin 12) (mac : BitVec 48) (s : State) : Host.Outcome State Fault Refusal :=
  match nodeOf s pair mac with
  | none => done s
  | some x =>
    if s.time.dt < x.lastAt + rd s Reg.strmNode [] 15 0 * 800000 then done s
    else done { s with strm := { s.strm with nodes := s.strm.nodes.filter fun n => !(n.pair == pair.val && n.mac == mac) } }

end Sys2Proof.Machine
end

