-- ==== Sys2Proof/Machine/PlaceCore.lean ====
section
/-! DEFINITION. What every placement decision shares: modes, envelopes, loads, choices and the journal (R314 to R319,
R324, R327, R332, R333). -/
namespace Sys2Proof.Machine

/-! ### Modes and the journal -/

/-- The mode of decision class `c`: 0 OFF, 1 ADVISE, 2 AUTO. -/
def placeMode (s : State) (c : Nat) : Nat :=
  let m := rd s Reg.placeClassMode [] (2 * c + 1) (2 * c)
  if m = 3 then 1 else m

/-- MC2 is running. -/
def mc2Up (s : State) : Bool := !coreDown s 2

/-- FROM and TO of an entry that has none. -/
def noPlace : Nat := 0xFFFFFFFF

/-- One journal entry without its SEQ (Table 11-3). -/
def journalEntry (s : State) (cls outcome reason object src dst loadFrom loadTo : Nat) : BitVec 256 :=
  let t := dtFrac s
  BitVec.ofNat 256 (t / fracPerSec % 2 ^ 32 * 2 ^ 224 + t % fracPerSec / 65536 * 2 ^ 192 + cls * 2 ^ 157 +
    outcome * 2 ^ 155 + reason * 2 ^ 150 + object * 2 ^ 96 + src % 2 ^ 32 * 2 ^ 64 + dst % 2 ^ 32 * 2 ^ 32 +
    min loadFrom 65535 * 2 ^ 16 + min loadTo 65535)

/-- An entry written with the next COUNT as its SEQ (R333). -/
def writeJournal (s : State) (e : BitVec 256) : State :=
  let s := countEvent s Reg.placeJnlCnt []
  let n := (word s Reg.placeJnlCnt []).toNat
  let e := setFld e 191 160 n
  { s with place := { s.place with journal := put s.place.journal ((n + 2 ^ 32 - 1) % 2 ^ 32 % 65536) e } }

/-- A decision journalled, or kept until MC2 resumes (R332). -/
def journal (s : State) (cls outcome reason object src dst loadFrom loadTo : Nat) : State :=
  let e := journalEntry s cls outcome reason object src dst loadFrom loadTo
  if mc2Up s then writeJournal s e else { s with place := { s.place with heldBack := s.place.heldBack ++ [e] } }

/-- A decision whose object comes from nowhere: the spec gives no source load, so both loads are free. -/
def journalNew (s : State) (cls outcome reason object dst : Nat) : State :=
  let w := freeWord s
  journal (spend s) cls outcome reason object noPlace dst (fld w 31 16) (fld w 15 0)

/-- An object that is not placed: NOROOM counts, and the refused decision is journalled with reason NO_ROOM. -/
def noRoom (s : State) (cls object : Nat) : State :=
  let s := countEvent s Reg.placeNoroomCnt []
  let s := putWord s Reg.placeNoroomLast [] (BitVec.ofNat 32 (cls * 2 ^ 29 + object % 2 ^ 18))
  journalNew s cls 3 14 object noPlace

/-! ### Envelopes (R318) -/

/-- The engines or bank groups that every valid pin entry of an object leaves. -/
def pinMask (s : State) (input : Bool) (object : Nat) : Nat :=
  (s.place.pins.filter fun e => flag e.2 127 && (fld e.2 126 125 == 1) == input && fld e.2 109 96 == object).foldl
    (fun m e => m &&& fld e.2 63 0) (2 ^ 64 - 1)

/-- The object has a valid pin entry. -/
def pinned (s : State) (input : Bool) (object : Nat) : Bool :=
  s.place.pins.any fun e => flag e.2 127 && (fld e.2 126 125 == 1) == input && fld e.2 109 96 == object

/-- An engine that the envelope, or a hitless activation that updates it (Table 17-4), forbids to every job. -/
def engineForbidden (s : State) (e : Nat) : Bool :=
  rdBit s Reg.placeEngineForbid [e / 32] (e % 32) || !enginePopulated s e || s.img.activation.any fun a => a.engines.head? == some e

/-- Engine `e` is permitted to job `j`. -/
def enginePermitted (s : State) (j e : Nat) : Bool := !engineForbidden s e && bit (pinMask s false j) e

/-- A bank group that the envelope forbids. -/
def bankForbidden (s : State) (g : Nat) : Bool := rdBit s Reg.placeBankForbid [] g

/-- Bank group `g` is permitted to the line of input channel `i`. -/
def bankPermitted (s : State) (i g : Nat) : Bool := !bankForbidden s g && bit (pinMask s true i) g

/-- TARGET and BW_TARGET, per mille, and HOLD. -/
def target (s : State) : Nat := rd s Reg.placeEngineEnv [] 9 0
def bwTarget (s : State) : Nat := rd s Reg.placeBankEnv [] 9 0
def holdCycles (s : State) : Nat := rd s Reg.placeEngineEnv [] 25 16

/-! ### Engines (R319, R332) -/

/-- Engine `e`'s load with the part `d` of job `j` added. -/
def loadWith (s : State) (e j : Nat) (d : AccDesc) : Nat := engineLoad s e (some j) + partLoad d j

/-- The lowest of a list by a measure, the earliest among equals. -/
def lowestBy (f : Nat → Nat) : List Nat → Option Nat
  | [] => none
  | x :: l => match lowestBy f l with
    | none => some x
    | some y => if f y < f x then some y else some x

/-- The engine chosen for part `d` of job `j` among those that `ok` permits, and whether TARGET is exceeded. -/
def chooseEngine (s : State) (j : Nat) (d : AccDesc) (ok : Nat → Bool) : Option (Nat × Bool) :=
  let es := (List.range 64).filter fun e => enginePermitted s j e && ok e
  if mc2Up s then
    match lowestBy (fun e => loadWith s e j d) es with
    | none => none
    | some e =>
      let x := loadWith s e j d
      if atMost x (target s) then some (e, false) else if atMost x 950 then some (e, true) else none
  else (es.find? fun e => capacityFits s e j d && atMost (loadWith s e j d) 950).map fun e => (e, false)

/-! ### Bank groups (R316, R319) -/

/-- The granules of bank group `g`: its first, and the one after its last. -/
def bankRange (g : Nat) : Range := (g * 87382, min granules ((g + 1) * 87382))

/-- The lines of every job that is not STOPPED, and the destinations of line moves. -/
def linesHeld (s : State) : List Range :=
  ((activeJobs s).flatMap fun k => (jobPart s k).validInputs.map fun e => lineRange e.2) ++
    s.place.lineMoves.map fun m => (m.toBase, m.toBase + fld (get 0 s.acc.inForce.inputs m.input) 107 101)

/-- The lowest run of `n` granules from `a` on that meets none of the lines `held`, which are in rising order. -/
def firstRun (n stop : Nat) : List Range → Nat → Option Nat
  | [], a => if a + n ≤ stop then some a else none
  | r :: rs, a => if a + n ≤ r.1 then (if a + n ≤ stop then some a else none) else firstRun n stop rs (max a r.2)

/-- The lowest free run of `n` granules in bank group `g`. -/
def freeRun (held : List Range) (n g : Nat) : Option Nat :=
  let r := bankRange g
  let here := (held.filter fun x => overlaps x r).mergeSort fun a b => a.1 ≤ b.1
  firstRun n r.2 here r.1

/-- The bytes of bank group `g` in per mille of 25.6 MB a device cycle. -/
def bankPerMille (s : State) (g : Nat) : Nat := get 0 s.place.bankLast g / 25600

/-- The granule chosen for a line of `n` granules of input channel `i`, with the bank groups that `ok` permits. -/
def chooseLine (s : State) (held : List Range) (i n : Nat) (ok : Nat → Bool) : Option (Nat × Bool) :=
  let gs := (List.range 16).filter fun g => bankPermitted s i g && ok g && (freeRun held n g).isSome
  let g := if mc2Up s then lowestBy (fun g => get 0 s.place.bankLast g) gs else gs.head?
  match g with
  | none => none
  | some g => (freeRun held n g).map fun b => (b, mc2Up s && decide (bwTarget s < bankPerMille s g))

/-- Bank group of granule `b`. -/
def bankOf (b : Nat) : Nat := b / 87382

/-! ### Free queues (R318, R327) -/

/-- A subscription, in force or staged, names the queue. -/
def subNames (s : State) (q : Nat) : Bool :=
  (s.acc.inForce.subs ++ s.acc.staged.subs).any fun e => flag e.2 511 && fld e.2 473 456 == q

/-- No descriptor, context, subscription or move names the queue, and nothing waits in it. -/
def queueUnnamed (s : State) (q : Nat) : Bool :=
  (find s.sched.config q).isNone && (find s.sched.configWait q).isNone && (queue s q).copies == [] &&
    (boundStream s q).isNone && !subNames s q &&
    s.acc.jobs.all fun e => e.2.move.all fun m => m.queues.all fun x => x.2 != q

/-- The lowest-numbered free queue of use `use` from `a` on, looking at `n` queues. -/
def lowestFree (s : State) (use : Nat) : Nat → Nat → Option Nat
  | 0, _ => none
  | n + 1, a => if queueUse s a == use && queueUnnamed s a then some a else lowestFree s use n (a + 1)

/-- The lowest-numbered free queue of the range of use `use`, or of what the image leaves (use 5). -/
def freeQueue (s : State) (use : Nat) : Option Nat := lowestFree s use (262144 - 768) 768

/-- Queue `q`'s descriptor names port `p` and class `c`, its other fields as they were. -/
def nameQueue (s : State) (q p c : Nat) : State :=
  let cfg := setFld (setFld ((find s.sched.configWait q).getD (queueCfg s q)) 255 249 p) 248 246 c
  mirror { s with sched := { s.sched with config := set queueReset s.sched.config q cfg,
                                          configWait := drop s.sched.configWait q } }
    4 (0x1000020 + q * 64) (wordsOf 8 cfg)

/-- Queue `q` as after reset, free again. -/
def releaseQueue (s : State) (q : Nat) : State :=
  mirror { s with sched := { s.sched with config := drop s.sched.config q, configWait := drop s.sched.configWait q } }
    4 (0x1000020 + q * 64) (wordsOf 8 queueReset)

/-! ### How a stream reaches a cluster (Table 11-2, R324) -/

/-- The MDB group through which stream `h` is forwarded: the group its context names, or the group that the FDB entry of
its identifying destination address names. -/
def streamGroup (s : State) (h : Nat) : Option Nat :=
  let cfg := streamCfg s h
  match fld cfg 249 248 with
  | 2 => some (fld cfg 247 234)
  | 0 =>
    (s.strm.sid.filter fun e => flag e.2 511 && fld e.2 491 476 == h).findSome? fun e =>
      let fid := fld (get 0 s.fdb.vlan (fld e.2 475 464)) 235 224
      (fdbFind s (fdbKey fid (fld e.2 463 416))).head?.bind fun i =>
        let x := fdbEntry s i
        if fld x 113 112 = 2 then some (fld x 79 66) else none
  | _ => none

/-- The handles that a job's valid subscriptions name. -/
def jobStreams (d : AccDesc) : List Nat := (d.validSubs.map fun e => fld e.2 510 495).eraseDups

/-- Every subscribed stream of job `j` reaches its cluster through an MDB group. -/
def movable (s : State) (j : Nat) : Bool := (jobStreams (jobPart s j)).all fun h => (streamGroup s h).isSome

/-- A subscribed stream reaches the job's cluster through a context with DEST_MODE 1. -/
def destFixed (s : State) (j : Nat) : Bool :=
  (jobStreams (jobPart s j)).any fun h => fld (streamCfg s h) 249 248 == 1

/-- One engine queue for each of the subscriptions `us`, named for port `p` with the class of the queue that the
subscription has; none when the free ones run out. -/
def allocateQueues (p : Nat) : State → List Nat → Option (State × List (Nat × Nat))
  | s, [] => some (s, [])
  | s, u :: us =>
    match freeQueue s 4 with
    | none => none
    | some q =>
      let s := nameQueue s q p (queueClass s (fld (get 0 s.acc.inForce.subs u) 473 456))
      (allocateQueues p s us).map fun r => (r.1, (u, q) :: r.2)

/-- Port `p` joins, or leaves, the groups of the streams `hs`. -/
def joinGroups (s : State) (p : Nat) (hs : List Nat) : State :=
  hs.foldl (fun s h => match streamGroup s h with | some g => mdbEdit s 0 p g | none => s) s
def leaveGroups (s : State) (p : Nat) (hs : List Nat) : State :=
  hs.foldl (fun s h => match streamGroup s h with | some g => mdbEdit s 1 p g | none => s) s

/-- Job `j`'s streams reach the cluster of engine `e` too (Table 11-2, step 1): the queues allocated there, none for an
engine of its own cluster. -/
def reach (s : State) (j e : Nat) : Option (State × List (Nat × Nat)) :=
  if e / 8 = (job s j).engine / 8 then some (s, [])
  else
    let d := jobPart s j
    (allocateQueues (80 + e / 8) s (keys d.validSubs)).map fun r => (joinGroups r.1 (80 + e / 8) (jobStreams d), r.2)

/-- Engine `e` can take job `j`'s streams: in its own cluster, or reached through groups. -/
def reachable (s : State) (j e : Nat) : Bool := e / 8 == (job s j).engine / 8 || movable s j

/-- What step 5 does for a job that leaves cluster port `p`: groups, queues and the journal entry. -/
def noteEnd (s : State) (e : MoveEnd) : State := { s with place := { s.place with endings := s.place.endings ++ [e] } }

/-- Step 5 of Table 11-2. -/
def finishEnd (s : State) (e : MoveEnd) : State :=
  let hs := e.streams.filter fun h => (clusterSubs s (e.port - 80) h) == []
  let s := leaveGroups s e.port hs
  let s := e.queues.foldl releaseQueue s
  journal s 0 e.outcome e.reason e.job e.source e.dest e.load (perMille (engineLoad s e.source none))

end Sys2Proof.Machine
end

