-- ==== Sys2Proof/Machine/TimeBases.lean ====
section
/-! DEFINITION. Time bases: their states, the servo, steps and jumps, the reference, time captures and the timing inputs
and outputs (R242 to R256, R270 to R273). -/
namespace Sys2Proof.Machine

/-! ### States (Table 9-2) -/

/-- The state of TB `t`: 0 FREE, 1 ACQUIRING, 2 LOCKED, 3 HOLDOVER. -/
def tbState (s : State) (t : Nat) : Nat := rd s Reg.timeTbStat [t] 31 30

/-- What a tick adds to TB `t`, in the unit of its accumulator. -/
def tickUnits (s : State) (t : Nat) : Int := 5 * (4096000000000 + (tb s t).freq)

/-- One millisecond in the unit of a time base's accumulator. -/
def unitsPerMs : Nat := unitsPerNs * 1000000

/-- TB0, by its present rate, `n` ticks after the device cycle in progress began. -/
def tb0InCycle (s : State) (n : Nat) : Int :=
  (tb s 0).now - ((s.time.dt : Int) - (s.time.cycleStart + n : Nat)) * tickUnits s 0

/-- The first millisecond of TB0 that lies at least 500 µs after the start of the device cycle in progress. -/
def firstTb0Ms (s : State) : Int := -(-(tb0InCycle s 400000) / unitsPerMs)

/-- The device cycle follows TB0 while TB0 is LOCKED or HOLDOVER; each change of alignment counts (R245). -/
def alignCycle (s : State) : State :=
  let want := decide (2 ≤ tbState s 0)
  if want = s.time.alignTb0 then s
  else
    let s := { s with time := { s.time with alignTb0 := want, cycleTb0 := firstTb0Ms s } }
    countEvent (wrBit s Reg.timeDevcyc [] 31 want) Reg.timeRealignCnt []

def wclk (s : State) (k : Nat) : TimingOut := s.time.wclk.getD k TimingOut.off

def putWclk (s : State) (k : Nat) (o : TimingOut) : State := { s with time := { s.time with wclk := s.time.wclk.set k o } }

/-- WCLK `k` is off, or is held low by MUTE_UNLOCKED (R272, R273). -/
def wclkMuted (s : State) (k : Nat) : Bool :=
  !rdBit s Reg.timeWclkCfg [k] 31 || (rdBit s Reg.timeWclkCfg [k] 30 && decide (tbState s (rd s Reg.timeWclkCfg [k] 29 28) < 2))

/-- Each running clock output that is off or muted now is held low. -/
def muteClocks (s : State) : State :=
  let s := (List.range 4).foldl (fun s k =>
    if (wclk s k).running && wclkMuted s k then emit (putWclk s k { wclk s k with running := false }) (.low (5 + k)) else s) s
  if s.time.clk10.running && !rdBit s Reg.timeClk10Cfg [] 31 then
    emit { s with time := { s.time with clk10 := TimingOut.off } } (.low 4)
  else s

/-- The parent path of TB `t` stays out of transmit LPI from now on (R99, R248). -/
def wakeParent (s : State) (t : Nat) : State :=
  let p := rd s Reg.timeTbCfg [t] 22 16
  if 48 ≤ p ∧ p < 80 ∧ parentPath s p then leaveLpi s p else s

/-- TB `t` takes state `v`; a change counts. -/
def setTbState (s : State) (t v : Nat) : State :=
  if tbState s t = v then s
  else
    let s := muteClocks (countEvent (wr s Reg.timeTbStat [t] 31 30 v) Reg.timeTbEventCnt [t])
    let s := wakeParent s t
    let s := if v = 2 then putTb s t { tb s t with lockedSinceStep := true } else s
    let s := if t = 0 ∧ v < 2 then { s with izl := { s.izl with tbSuspect := true } } else s
    if t = 0 then alignCycle s else s

/-- The unit follows the ACTIVE unit's TB `t` (R247, R270, R397). -/
def followsTwin (s : State) (t : Nat) : Bool := (role s == 2 || role s == 3) && rdBit s Reg.timeTbCfg [t] 31

/-- The source of TB `t` (Table 9-1): codes 6 and 7 act as 0. -/
def tbSource (s : State) (t : Nat) : Nat := if 5 < rd s Reg.timeTbCfg [t] 30 28 then 0 else rd s Reg.timeTbCfg [t] 30 28

/-- SRC_ACT and TWIN_ACT of every TB. -/
def showSources (s : State) : State :=
  (List.range 4).foldl (fun s t =>
    wrBit (wr s Reg.timeTbStat [t] 29 27 (tbSource s t)) Reg.timeTbStat [t] 26 (followsTwin s t)) s

/-! ### Servo (R249) -/

/-- An offset in 2⁻¹⁶ ns as nanoseconds. -/
def nanoseconds (theta : Int) : Rat := (theta : Rat) / 65536

/-- A frequency correction in ppb, held within ±500,000, in units of 2⁻¹² ppb. -/
def freqUnits (x : Rat) : Int := (max (-500000) (min 500000 x) * 4096 + 1 / 2).floor

/-- TB `t` with frequency correction `f`. -/
def putFreq (s : State) (t : Nat) (f : Int) : State :=
  putWord (putTb s t { tb s t with freq := f }) Reg.timeTbFreq [t] (BitVec.ofInt 32 f)

/-- The last θ, saturating in 48 bits. -/
def putOffset (s : State) (t : Nat) (theta : Int) : State :=
  let v := unsigned (heldInt (-(2 ^ 47)) (2 ^ 47 - 1) theta) 48
  putWord (putWord s Reg.timeTbOffsetLo [t] (BitVec.ofNat 32 v)) Reg.timeTbOffsetHi [t] (BitVec.ofNat 32 (v / 2 ^ 32))

/-- A TB-dependent output loses its phase when its TB steps (Table 9-3): each enabled WCLK of TB `t` counts, and CLK10OUT
re-phases at the next whole second. -/
def rephase (s : State) (t : Nat) : State :=
  let s := (List.range 4).foldl (fun s k =>
    if rdBit s Reg.timeWclkCfg [k] 31 && rd s Reg.timeWclkCfg [k] 29 28 == t then
      countEvent (putWclk s k { wclk s k with rephase := true }) Reg.timeRephaseCnt []
    else s) s
  if rdBit s Reg.timeClk10Cfg [] 31 && rd s Reg.timeClk10Cfg [] 29 28 == t then
    { s with time := { s.time with clk10 := { s.time.clk10 with rephase := true } } }
  else s

/-- How far the edges of a WCLK stand behind its TB now: its phase follows at 1 to 2,000 ppb (R255). -/
def lagNow (s : State) (o : TimingOut) : Int :=
  let x : Int := ((s.time.dt - o.lagAt) * 81920 * (1 + Config.wclkSlew % 2000) / 1000000000 : Nat)
  if 0 ≤ o.lag then max 0 (o.lag - x) else min 0 (o.lag + x)

/-- TB `t` has moved by `d`, which the edges of its running WCLKs have not. -/
def lagClocks (s : State) (t : Nat) (d : Int) : State :=
  (List.range 4).foldl (fun s k =>
    if (wclk s k).running && rd s Reg.timeWclkCfg [k] 29 28 == t then
      putWclk s k { wclk s k with lag := lagNow s (wclk s k) + d, lagAt := s.time.dt }
    else s) s

/-- TB `t` moved by `d`, with a new jump epoch (R253). -/
def moveTb (s : State) (t : Nat) (d : Int) : State :=
  let s := lagClocks s t d
  let b := tb s t
  let s := putTb s t { b with now := b.now + d * unitsPerFrac, epoch := b.epoch + 1 }
  wr s Reg.timeTbStat [t] 15 8 (b.epoch + 1)

/-- The step threshold of TB `t`, in 2⁻¹⁶ ns. -/
def stepThresh (s : State) (t : Nat) : Nat := rd s Reg.timeTbStep [t] 29 0 * 65536

/-- A step of TB `t` by `d` (R252, Table 9-3). -/
def stepTb (s : State) (t : Nat) (d : Int) : State :=
  let s := moveTb s t d
  let s := putTb s t { tb s t with steps := (tb s t).steps + 1, est := 2, run := 0, bad := 0, since := s.time.dt, lockedSinceStep := false }
  let s := rephase (wr s Reg.timeTbStat [t] 7 0 0) t
  if stepThresh s t < d.natAbs then holdGates s t else followGates s t

/-- A device cycle that a jump of TB0 carries past its end ends now, and no other with it. -/
def jumpCycle (s : State) : State :=
  { s with time := { s.time with cycleTb0 := max s.time.cycleTb0 ((tb s 0).now / unitsPerMs) } }

/-- A jump: a change within the threshold, which the gate lists of the TB follow (R229), and the device cycle where it follows
TB0 (R245). -/
def jumpTb (s : State) (t : Nat) (d : Int) : State :=
  let s := followGates (moveTb s t d) t
  if t = 0 ∧ 0 < d then jumpCycle s else s

def lockThresh (s : State) (t : Nat) : Nat := rd s Reg.timeTbLock [t] 19 0 * 65536

def unlockThresh (s : State) (t : Nat) : Nat := max (lockThresh s t) (rd s Reg.timeTbUnlock [t] 19 0 * 65536)

/-- The estimate and the integrator after an update: the slope of the first two, the proportional-integral rule after
them. Two updates of a slope estimate at one instant leave the slope open: a free value. -/
def integrate (s : State) (t : Nat) (theta : Int) : State :=
  let b := tb s t
  let dt : Rat := ((s.time.dt - b.lastUpdate : Nat) : Rat) / 800000000
  if b.est = 2 then putTb s t { b with theta1 := theta, est := 1 }
  else if b.est = 1 then
    if s.time.dt = b.lastUpdate then
      putTb (spend s) t { b with integ := b.integ + ((freeWord s).toInt : Rat), est := 0 }
    else putTb s t { b with integ := b.integ - nanoseconds (theta - b.theta1) / dt, est := 0 }
  else putTb s t { b with integ := b.integ - (rd s Reg.timeTbKi [t] 23 0 : Rat) / 1048576 * nanoseconds theta * dt }

/-- The frequency, the run of good updates and the run of bad ones. -/
def steer (s : State) (t : Nat) (theta : Int) : State :=
  let s := integrate s t theta
  let b := tb s t
  let s := putFreq s t (freqUnits (b.integ - (rd s Reg.timeTbKp [t] 23 0 : Rat) / 65536 * nanoseconds theta))
  let run := if theta.natAbs ≤ lockThresh s t then b.run + 1 else 0
  let bad := if unlockThresh s t < theta.natAbs then b.bad + 1 else 0
  let s := putTb s t { tb s t with run := run, bad := bad, lastUpdate := s.time.dt }
  wr s Reg.timeTbStat [t] 7 0 (min 255 run)

/-- One accepted update of TB `t`. -/
def servo (s : State) (t : Nat) (theta : Int) : State :=
  let s := putOffset s t theta
  let s := if tbState s t = 0 then setTbState s t 1 else s
  let s := if tbState s t = 3 then setTbState s t (if theta.natAbs ≤ lockThresh s t then 2 else 1) else s
  if tbState s t = 1 ∧ stepThresh s t < theta.natAbs then
    let s := putTb s t { tb s t with lastUpdate := s.time.dt }
    stepTb s t (-theta)
  else
    let s := steer s t theta
    let s := if tbState s t = 1 ∧ max 1 (rd s Reg.timeTbLock [t] 31 24) ≤ (tb s t).run then setTbState s t 2 else s
    if tbState s t = 2 ∧ 4 ≤ (tb s t).bad then setTbState s t 1 else s

/-- A measurement discarded for its epoch or its source (R253). -/
def servoDiscard (s : State) : State := bump s Ctr.time [] 4 1

/-- θ as a SERVO_IN record (R513). -/
def recordServo (s : State) (t : Nat) (theta : Int) : State :=
  record s 0x0D 0 t (toBytes 6 (unsigned (heldInt (-(2 ^ 47)) (2 ^ 47 - 1) theta) 48))

/-- An update from the ACTIVE unit: the TB takes its step and its state, and follows θ (R270). -/
def followUpdate (s : State) (t : Nat) (theta : Int) (state : Nat) (step : Int) : State :=
  let s := recordServo s t theta
  let s := if step = 0 then s else stepTb s t step
  setTbState (steer (putOffset s t theta) t theta) t state

/-! ### Commands (R252, R254) -/

/-- A SET or an ADJ step: ACQUIRING, then the step. -/
def commandStep (s : State) (t : Nat) (d : Int) : State := stepTb (setTbState s t 1) t d

/-- ADJ by `d`. -/
def adjTb (s : State) (t : Nat) (d : Int) : State := if stepThresh s t < d.natAbs then commandStep s t d else jumpTb s t d

/-- The time that the SET registers hold, in 2⁻¹⁶ ns. -/
def setTarget (s : State) (t : Nat) : Int :=
  let sec := rd s Reg.timeTbSetSHi [t] 15 0 * 2 ^ 32 + rd s Reg.timeTbSetSLo [t] 31 0
  ((sec * 1000000000 + min 999999999 (rd s Reg.timeTbSetNs [t] 29 0)) * 65536 : Nat)

/-- SET: the TB reads exactly `x`. -/
def setTb (s : State) (t : Nat) (x : Int) : State :=
  let s := commandStep s t (x - tbFrac s t)
  putTb s t { tb s t with now := x * unitsPerFrac }

/-- θ of SW_OFFSET is delivered; one whose TB has another source by then is discarded. -/
def deliverSw (s : State) (t : Nat) (theta : Int) : State :=
  if tbSource s t = 3 ∧ !followsTwin s t then servo s t theta else servoDiscard s

/-- No command of TIME_TB_CMD waits. -/
def TbCmd.none : TbCmd := { set := .none, adj := .none, sw := .none }

/-- A write of TIME_TB_CMD: OP is stored, and with GO the command waits for the next TI cycle; it replaces one of the same
operation (R254). -/
def tbCommandWrite (s : State) (req : Requester) (t : Nat) (data : Word) : State :=
  let s := stage s req Reg.timeTbCmd [t] 0xFFFFFFFF data
  let x := get TbCmd.none s.time.tbCmds t
  let put (x : TbCmd) : State :=
    wrBit { s with time := { s.time with tbCmds := set TbCmd.none s.time.tbCmds t x } } Reg.timeTbCmd [t] 30 true
  if !flag data 31 then s
  else match fld data 1 0 with
    | 1 => put { x with set := some (setTarget s t) }
    | 2 =>
      if tbSource s t = 3 then
        put { x with sw := some (signed (rd s Reg.timeTbSwOffsetHi [t] 15 0 * 2 ^ 32 + rd s Reg.timeTbSwOffsetLo [t] 31 0) 48) }
      else s
    | _ => put { x with adj := some (signed (word s Reg.timeTbAdj [t]).toNat 32 * 65536) }

/-- The commands of TB `t` that wait are performed: SET, then ADJ, then the update (R254). -/
def performTb (s : State) (t : Nat) : State :=
  match find s.time.tbCmds t with
  | none => s
  | some x =>
    let s := wrBit { s with time := { s.time with tbCmds := drop s.time.tbCmds t } } Reg.timeTbCmd [t] 30 false
    let s := match x.set with
      | none => s
      | some v => setTb s t v
    let s := match x.adj with
      | none => s
      | some d => adjTb s t d
    match x.sw with
    | none => s
    | some theta => deliverSw s t theta

/-- The state `el` ticks later: commands of TIME_TB_CMD that wait are performed in the first of them (R254). -/
def advance (el : Nat) (s : State) : State :=
  if el = 0 ∨ s.time.tbCmds = [] ∨ (elapse 1 s).time.dt = s.time.dt then elapse el s
  else elapse (el - 1) ((List.range 4).foldl performTb (elapse 1 s))

/-- SERVO_UPDATE: one measured offset of TB `t` from its source, in 2⁻¹⁶ ns, measured in jump epoch `epoch`. From the
twin link, `active` is the ACTIVE TB's state and the step that it took since the update before. -/
def execServoUpdate (t : Fin 4) (el : Nat) (theta : Int) (epoch : BitVec 8) (active : Option (BitVec 2 × Int))
    (s : State) : Host.Outcome State Fault Refusal :=
  let s := advance el s
  let old := BitVec.ofNat 8 (tb s t).epoch != epoch
  if offline s && (followsTwin s t || tbSource s t == 2) then done s
  else if followsTwin s t then
    match active with
    | some (v, d) =>
      if old then
        let s := servoDiscard s
        done (setTbState (if d = 0 then s else stepTb s t d) t v.toNat)
      else done (followUpdate s t theta v.toNat d)
    | none => done s
  else if tbSource s t = 0 ∨ active.isSome then done s
  else if old then done (servoDiscard s)
  else done (servo (if tbSource s t = 2 then recordServo s t theta else s) t theta)

/-- The instant from which SRC_TIMEOUT counts: the latest of the last accepted update, the last step, the last change of the
source and reset exit (R250). -/
def timeoutAt (s : State) (t : Nat) : Nat := max (tb s t).lastUpdate (tb s t).since + rd s Reg.timeTbCfg [t] 15 0 * 800000

/-- SRC_TIMEOUT: no accepted update for SRC_TIMEOUT ms (R250). -/
def execSrcTimeout (t : Fin 4) (el : Nat) (s : State) : Host.Outcome State Fault Refusal :=
  let s := advance el s
  let hold (s : State) : State := setTbState (putFreq s t (freqUnits (tb s t).integ)) t 3
  if s.time.dt < timeoutAt s t then done s
  else match tbState s t with
    | 2 => done (hold s)
    | 1 => done (if (tb s t).lockedSinceStep then hold s else setTbState s t 0)
    | _ => done s

/-! ### Captures and the reference (R246) -/

/-- Capture `k` holds the time `x`. -/
def putCapture (s : State) (k : Nat) (x : Int) : State :=
  let (sec, ns, fr) := timeFormat x
  let s := putWord s Reg.timeCapSLo [k] (BitVec.ofNat 32 sec)
  let s := putWord s Reg.timeCapSHi [k] (BitVec.ofNat 32 (sec / 2 ^ 32))
  putWord (putWord s Reg.timeCapNs [k] (BitVec.ofNat 32 ns)) Reg.timeCapFrac [k] (BitVec.ofNat 32 fr)

/-- TB0 to TB3 and DT latched in one TI cycle. -/
def captureTime (s : State) : State :=
  putCapture ((List.range 4).foldl (fun s t => putCapture s t (tbFrac s t)) s) 4 (dtFrac s)

/-- The selected REFIN is lost or regained. -/
def refChange (s : State) (lost : Bool) : State :=
  if rdBit s Reg.timeRef [] 1 && s.time.refLost != lost then
    let s := wrBit { s with time := { s.time with refLost := lost } } Reg.timeRef [] 31 (!lost)
    record s 4 0 (if lost then 0x10 else 0x11) []
  else s

/-- REF_LOST: the selected REFIN deviates or stops. -/
def execRefLost (s : State) : Host.Outcome State Fault Refusal := done (if offline s then s else refChange s true)

/-- REF_RESTORED: REFIN has stayed within ±20 ppm for 1 s. -/
def execRefRestored (s : State) : Host.Outcome State Fault Refusal := done (if offline s then s else refChange s false)

/-- Measurements of TB `t`'s old source that are in flight are discarded when the source changes, and each counts: a Sync that
waits for its Follow_Up, and the samples of a trunk group in this device cycle. -/
def dropMeasurements (before s : State) (t : Nat) : State :=
  let p := rd before Reg.timeTbCfg [t] 22 16
  let c := p * 4 + t
  match tbSource before t with
  | 1 =>
    if (ptp s c).waiting.isSome then servoDiscard (putPtp s c { ptp s c with waiting := none }) else s
  | 2 =>
    match portGroup s p with
    | none => s
    | some g =>
      let x := izlGroup s g
      let s' := putIzlGroup s g { x with thetaSum := x.thetaSum.set t 0, thetaCount := x.thetaCount.set t 0,
                                         thetaEpochs := x.thetaEpochs.set t [] }
      if x.thetaCount.getD t 0 = 0 then s else servoDiscard s'
  | _ => s

/-- What follows when fields of TIME registers take effect: `before` is the state before they did. -/
def timeApplied (before s : State) : State :=
  let s := (List.range 4).foldl (fun s t =>
    let changed := fld (word before Reg.timeTbCfg [t]) 30 16 != rd s Reg.timeTbCfg [t] 30 16
    let s := if changed then dropMeasurements before (putTb s t { tb s t with since := s.time.dt }) t else s
    let w := word before Reg.timeWclkCfg [t]
    if rdBit s Reg.timeWclkCfg [t] 31 && (fld w 29 28 != rd s Reg.timeWclkCfg [t] 29 28 || fld w 2 0 != rd s Reg.timeWclkCfg [t] 2 0)
    then countEvent (putWclk s t { wclk s t with rephase := true }) Reg.timeRephaseCnt []
    else s) s
  let s := if rdBit before Reg.timeRef [] 1 = rdBit s Reg.timeRef [] 1 then s
    else wrBit { s with time := { s.time with refLost := false } } Reg.timeRef [] 31 (rdBit s Reg.timeRef [] 1)
  let s := muteClocks (showSources s)
  (List.range 32).foldl (fun s c => if parentPath s (48 + c) then leaveLpi s (48 + c) else s) s

/-! ### Timing inputs (R271) -/

def ppsin (s : State) (k : Nat) : List Stamp := s.time.ppsin.getD k []

def putPpsin (s : State) (k : Nat) (l : List Stamp) : State :=
  { s with time := { s.time with ppsin := s.time.ppsin.set k l } }

/-- The signed distance of a TB time from its nearest whole second, in 2⁻¹⁶ ns. -/
def fromSecond (x : Int) : Int := (x + fracPerSec / 2) % fracPerSec - fracPerSec / 2

/-- The selected edge of the enabled input PPSIN[k] is stamped, less DELAY, and is an update of the TB whose source it is. -/
def edgeIn (s : State) (k : Nat) : State :=
  let st := (stampNow s).shift (-(rd s Reg.timePpsinCfg [k] 15 0 * 65536 : Nat))
  let s := record s 4 0 k []
  let s := if 16 ≤ (ppsin s k).length then bump s Ctr.time [] 5 1 else putPpsin s k (ppsin s k ++ [st])
  (List.range 4).foldl (fun s t =>
    if tbSource s t = 4 + k ∧ !followsTwin s t then servo s t (fromSecond (st.tb.getD t 0)) else s) s

/-- PPSIN_EDGE: an edge on PPSIN[k]; an enabled input takes the one that FALLING selects. -/
def execPpsinEdge (k : Fin 2) (el : Nat) (falling : Bool) (s : State) : Host.Outcome State Fault Refusal :=
  let s := advance el s
  done (if rdBit s Reg.timePpsinCfg [k] 31 && rdBit s Reg.timePpsinCfg [k] 30 == falling && !offline s then edgeIn s k else s)

/-! ### Timing outputs (R272, R273) -/

/-- The ball of a timing output is driven: PPSOUT[2], [3] and WCLK[2], [3] only while the BALL region claims them. -/
def driven (s : State) (word : Bool) (k : Nat) : Bool :=
  !s.power.inReset && (decide (k < 2) || s.image.ball.getD ((if word then 2 else 0) + (k - 2)) 0 == 1)

/-- TB `t` passes a multiple of `period`, in the unit of its accumulator, in this tick. -/
def passesNow (s : State) (t period : Nat) : Bool := decide ((tb s t).now % period < 5 * (4096000000000 + (tb s t).freq))

/-- One second in the unit of a time base's accumulator. -/
def unitsPerSec : Nat := unitsPerNs * 1000000000

/-- The stamp `d`, in 2⁻¹⁶ ns, after the whole second that TB `t` passes. -/
def afterSecond (s : State) (t : Nat) (d : Int) : Stamp := (stampNow s).shift (d - tbFrac s t % fracPerSec)

/-- RATE of a word clock: its sample instants in a second. -/
def wclkRate (code : Nat) : Nat := [32000, 44100, 48000, 88200, 96000, 176400, 192000, 48000].getD code 48000

/-- PPSOUT[k] of TB `t` rises OFFSET after the whole second, for WIDTH µs. -/
def pulsePps (t : Nat) (s : State) (k : Nat) : State :=
  if rdBit s Reg.timePpsoutCfg [k] 31 && driven s false k && rd s Reg.timePpsoutCfg [k] 29 28 == t then
    let first := afterSecond s t (signed (word s Reg.timePpsoutOfs [k]).toNat 32 * 65536)
    emit s (.edges k first 1 (held 1 500000 (rd s Reg.timePpsoutCfg [k] 23 0) * 65536000))
  else s

/-- CLK10OUT of TB `t` rises at each multiple of 100 ns of the second, OFFSET later. -/
def runClk10 (t : Nat) (s : State) : State :=
  if rdBit s Reg.timeClk10Cfg [] 31 && !s.power.inReset && rd s Reg.timeClk10Cfg [] 29 28 == t then
    let s := { s with time := { s.time with clk10 := { TimingOut.off with running := true } } }
    emit s (.edges 4 (afterSecond s t (min 99 (rd s Reg.timeClk10Cfg [] 6 0) * 65536 : Nat)) 10000000 3276800)
  else s

/-- WCLK[k] of TB `t` rises at each sample instant of the second, OFFSET later and behind by what it still follows. One that
waits for a second starts or re-phases. -/
def runWclk (t : Nat) (s : State) (k : Nat) : State :=
  if driven s true k && rd s Reg.timeWclkCfg [k] 29 28 == t && !wclkMuted s k then
    let o := wclk s k
    let s := if !o.running || o.rephase then putWclk s k { running := true, rephase := false, lag := 0, lagAt := s.time.dt } else s
    let n := wclkRate (rd s Reg.timeWclkCfg [k] 2 0)
    let ofs := signed (word s Reg.timeWclkOfs [k]).toNat 32 * 65536
    emit s (.edges (5 + k) (afterSecond s t (ofs + lagNow s (wclk s k))) n (fracPerSec / (2 * n)))
  else s

/-- WHOLE_SECOND: TB `t` passes a whole second, and its outputs take the edges of the second that begins. -/
def execWholeSecond (t : Fin 4) (el : Nat) (s : State) : Host.Outcome State Fault Refusal :=
  let s := advance el s
  if !passesNow s t unitsPerSec || (tb s t).secondAt == s.time.dt then done s
  else
    let s := putTb s t { tb s t with secondAt := s.time.dt }
    let s := runClk10 t ((List.range 4).foldl (pulsePps t) s)
    done ((List.range 4).foldl (runWclk t) s)

end Sys2Proof.Machine
end

