-- ==== Sys2Proof/Machine/AccordCmd.lean ====
section
/-! DEFINITION. Accord jobs: START, COMMIT and STOP, their apply samples and ramps, restarts, faults and the end of a move
(R293 to R299, R302 to R306, R311). -/
namespace Sys2Proof.Machine

/-! ### Apply samples (R293) -/

/-- The first apply sample whose media time is at or after `t`, in 2⁻¹⁶ ns. -/
def applyFrom (fs : Nat) (t : Int) : Nat :=
  let u : Int := applyUnit fs
  (-(-(t * fs) / (fracPerSec * u)) * u).toNat

/-- The first apply sample whose media time is after `t`. -/
def applyAfter (fs : Nat) (t : Int) : Nat :=
  let u : Int := applyUnit fs
  ((t * fs / (fracPerSec * u) + 1) * u).toNat

/-- EDIT_LEAD in 2⁻¹⁶ ns. -/
def editLead (s : State) : Int := rd s Reg.accCtrl [] 7 0 * fracPerMs

/-- The first apply sample at least EDIT_LEAD after now in the time of job descriptor `x`. -/
def applyLead (s : State) (x : BitVec 512) : Nat := applyFrom (jobRate x) (tbFrac s (jobTb x) + editLead s)

/-- The time that ACC_JOB_AT holds. -/
def jobAtTime (s : State) : Int :=
  let sec := rd s Reg.accJobAtSHi [] 15 0 * 2 ^ 32 + rd s Reg.accJobAtSLo [] 31 0
  ((sec * 1000000000 + rd s Reg.accJobAtNs [] 29 0) * 65536 : Nat)

/-- The apply sample of a command accepted now. -/
def applySample (s : State) (x : BitVec 512) (atTime : Bool) : Nat :=
  let a := applyLead s x
  if atTime then max a (applyFrom (jobRate x) (jobAtTime s)) else a

/-- Media time of sample `n` has come. -/
def reachedTime (s : State) (x : BitVec 512) (n : Nat) : Bool :=
  decide ((n * fracPerSec : Int) ≤ tbFrac s (jobTb x) * jobRate x)

/-! ### Where the outputs of a job stand -/

/-- Every output stream of job `j` has come to sample `a`. -/
def outsReached (s : State) (j a : Nat) : Bool := (jobPart s j).validOuts.all fun e => decide (a ≤ outAt s e.1)

/-- The output streams of job `j` continue at sample `a` of the job, never earlier than where they stand when `ahead`;
the packets passed over count OUT_MISSED when `missed`. -/
def continueAt (s : State) (j a : Nat) (missed ahead : Bool) : State :=
  let d := jobPart s j
  let fs := jobRate (d.job j)
  d.validOuts.foldl (fun s e =>
    let old := get 0 s.acc.outNext e.1
    let m := if ahead then max old (toStream (outConv e.2) a) else toStream (outConv e.2) a
    let s := { s with acc := { s.acc with outNext := put s.acc.outNext e.1 m } }
    if missed then bump s Ctr.outStream [e.1] 2 (ceilDiv (m - old) (outSamples e.2 fs)) else s) s

/-! ### Ramps (R297, R298) -/

/-- The gain of a tap at sample `m`. -/
def TapRun.gainAt (t : TapRun) (m : Nat) : Int :=
  if t.len = 0 ∨ t.startAt + t.len ≤ m + 1 then t.gTo
  else if m + 1 ≤ t.startAt then t.gFrom
  else t.gFrom + Int.tdiv ((t.gTo - t.gFrom) * (m + 1 - t.startAt : Nat)) t.len

/-- A tap of route descriptor bits, ramping from `from` over `k` samples from sample `a`. -/
def tapRun (i : Nat) (x : BitVec 64) (g : Int) (a k : Nat) : TapRun :=
  { index := i, input := fld x 62 49, invert := flag x 63, delay := fld x 48 32, gFrom := g, gTo := (fld x 31 0 : Nat),
    startAt := a, len := if g = (fld x 31 0 : Nat) then 0 else k }

/-- A tap that fades out from sample `a` over `k` samples. -/
def TapRun.fade (t : TapRun) (a k : Nat) : TapRun :=
  { t with gFrom := t.gainAt (a - 1), gTo := 0, startAt := a, len := k }

/-- The last `n` of a list. -/
def lastOf {α : Type} (n : Nat) (l : List α) : List α := l.drop (l.length - n)

/-- A route under its new taps from sample `a`, each change ramped over `k` samples. -/
def RouteRun.change (r : RouteRun) (wanted : List (Nat × BitVec 64)) (a k : Nat) : RouteRun :=
  let same (t : TapRun) (x : BitVec 64) : Bool :=
    t.input == fld x 62 49 && t.delay == fld x 48 32 && t.invert == flag x 63
  let kept (t : TapRun) : Bool := wanted.any fun w => w.1 == t.index && same t w.2
  let live := wanted.map fun w =>
    match r.live.find? fun t => t.index == w.1 && same t w.2 with
    | some t => tapRun w.1 w.2 (t.gainAt (a - 1)) a k
    | none => tapRun w.1 w.2 0 a k
  let gone := (r.live.filter fun t => !kept t).map fun t => t.fade a k
  let old := r.fading.filter fun t => decide (a < t.startAt + t.len)
  { live := live, fading := lastOf 16 (old ++ if k = 0 then [] else gone) }

/-- A route whose ramps have ended at their targets. -/
def RouteRun.settled (r : RouteRun) : RouteRun :=
  { live := r.live.map fun t => { t with gFrom := t.gTo, len := 0 }, fading := [] }

def emptyRoute : RouteRun := { live := [], fading := [] }

/-- The routes of a job's part change at sample `a`. -/
def changeRoutes (s : State) (d : AccDesc) (j a : Nat) : State :=
  let fs := jobRate (d.job j)
  d.validRoutes.foldl (fun s e =>
    let wanted := if flag e.2 96 then [] else d.routeTaps e.1
    let r := (get emptyRoute s.acc.routes e.1).change wanted a (min 100 (fld e.2 103 97) * fs / 1000)
    { s with acc := { s.acc with routes := set emptyRoute s.acc.routes e.1 r } }) s

/-- The entries of a table outside a range. -/
def outside {α : Type} (r : Range) (l : Sparse α) : Sparse α := l.filter fun e => !inRange r e.1

/-- Routes of the job that its descriptors no longer hold end at once. -/
def pruneRoutes (s : State) (d : AccDesc) (j : Nat) : State :=
  let r := routeRange (d.job j)
  let left := s.acc.routes.filter fun e => !inRange r e.1 || d.validRoutes.any fun v => v.1 == e.1
  { s with acc := { s.acc with routes := left } }

/-- Every ramp of job `j` ends at its target. -/
def settleRamps (s : State) (j : Nat) : State :=
  let r := routeRange (s.acc.inForce.job j)
  let l := s.acc.routes.map fun e => if inRange r e.1 then (e.1, e.2.settled) else e
  { s with acc := { s.acc with routes := l.filter fun e => e.2 != emptyRoute } }

/-! ### The end of a move -/

/-- The move of job `j` is abandoned: its streams leave the destination's cluster at the next device cycle. -/
def abandonMove (s : State) (j : Nat) : State :=
  let x := job s j
  match x.move with
  | none => s
  | some m =>
    let far := m.dest / 8 != x.engine / 8
    let s := putJob s j { x with move := none, state := if x.state = 4 then 2 else x.state }
    noteEnd s { job := j, source := x.engine, dest := m.dest, outcome := 2, reason := m.reason, load := m.load,
                port := 80 + m.dest / 8, streams := if far then jobStreams (jobPart s j) else [],
                queues := m.queues.map Prod.snd }

/-- The move of job `j` cannot be abandoned any more: its new engine has computed the packet that starts at `a`. -/
def moveComputed (s : State) (j : Nat) (m : JobMove) : Bool :=
  let d := jobPart s j
  if d.validOuts = [] then reachedTime s (d.job j) m.atSample
  else d.validOuts.all fun e => decide (m.atSample < outAt s e.1)

/-- ENGINE of job `j` reads `e`, in force and staged. -/
def showEngine (s : State) (j e : Nat) : State :=
  let f (l : Sparse (BitVec 512)) : Sparse (BitVec 512) := set 0 l j (setFld (get 0 l j) 505 500 e)
  { s with acc := { s.acc with inForce := { s.acc.inForce with jobs := f s.acc.inForce.jobs },
                               staged := { s.acc.staged with jobs := f s.acc.staged.jobs } } }

/-- Subscriptions under the new queues that `qs` names. -/
def requeued (qs : List (Nat × Nat)) (l : Sparse (BitVec 512)) : Sparse (BitVec 512) :=
  qs.foldl (fun l e => set 0 l e.1 (setFld (get 0 l e.1) 473 456 e.2)) l

/-- The subscriptions of `qs` name their new queues: in force, staged and in what waits for its apply sample. -/
def showQueues (s : State) (j : Nat) (qs : List (Nat × Nat)) : State :=
  let s := { s with acc := { s.acc with inForce := { s.acc.inForce with subs := requeued qs s.acc.inForce.subs },
                                        staged := { s.acc.staged with subs := requeued qs s.acc.staged.subs } } }
  let x := job s j
  putJob s j { x with pending := x.pending.map fun c =>
    if c.op = 1 then { c with desc := { c.desc with subs := requeued qs c.desc.subs } } else c }

/-- Job `j` leaves its engine for `e`, to which its streams have been led through the queues `qs`. -/
def switchEngine (s : State) (j e reason load : Nat) (qs : List (Nat × Nat)) : State :=
  let x := job s j
  let d := jobPart s j
  let far := e / 8 != x.engine / 8
  let olds := if far then d.validSubs.map fun u => fld u.2 473 456 else []
  let s := putJob s j { x with engine := e, move := none, state := if x.state = 4 then 2 else x.state }
  let s := showQueues (showEngine s j e) j qs
  noteEnd s { job := j, source := x.engine, dest := e, outcome := 0, reason := reason, load := load,
              port := 80 + x.engine / 8, streams := if far then jobStreams d else [], queues := olds }

/-- MIGRATION_COMPARE: the two frames of the packet at the move's apply sample have been compared. -/
def execMigrationCompare (j : Fin 1024) (equal : Bool) (s : State) : Host.Outcome State Fault Refusal :=
  match (job s j).move with
  | none => done s
  | some m =>
    if !moveComputed s j m then done s
    else if equal then done (switchEngine s j m.dest m.reason m.load m.queues)
    else
      let s := countEvent s Reg.accMigmisCnt []
      done (abandonMove (putWord s Reg.accMigmisLast [] (BitVec.ofNat 32 j)) j)

/-! ### Line moves (R326) -/

/-- Granules of input channel `i`'s line. -/
def lineGran (s : State) (i : Nat) : Nat := fld (get 0 s.acc.inForce.inputs i) 107 101

/-- The older samples of a line copied to its new place; samples written since the move began stand there already. -/
def copyLine (s : State) (m : LineMove) : State :=
  let e := get 0 s.acc.inForce.inputs m.input
  let n := fld e 107 101 * 1024
  let base := fld e 100 80 * 1024
  let old := s.acc.lines.filter fun c => decide (base ≤ c.1 ∧ c.1 < base + n)
  let lines := old.foldl (fun l c =>
    let k := m.toBase * 1024 + (c.1 - base)
    if (find l k).any fun d => decide (c.2.index < d.index) then l else put l k c.2) s.acc.lines
  { s with acc := { s.acc with lines := lines } }

/-- What the filters of the channels of descriptors `d` of job `j` hold is forgotten. -/
def forgetFilters (s : State) (d : AccDesc) (j : Nat) : State :=
  let x := d.job j
  { s with acc := { s.acc with raw := s.acc.raw.filter fun e => !inRange (inputRange x) (e.1 / 256),
                               sums := s.acc.sums.filter fun e => !inRange (outRange x) (e.1 / 8192) } }

/-- The samples of `n` granules from `base` on are forgotten. -/
def forgetLine (s : State) (base n : Nat) : State :=
  let left := s.acc.lines.filter fun c => !decide (base * 1024 ≤ c.1 ∧ c.1 < (base + n) * 1024)
  { s with acc := { s.acc with lines := left } }

/-- The taps read the new copy: LINE_BASE in force and staged, and the old granules are released. -/
def switchLine (s : State) (m : LineMove) : State :=
  let f (l : Sparse (BitVec 128)) : Sparse (BitVec 128) := set 0 l m.input (setFld (get 0 l m.input) 100 80 m.toBase)
  let old := fld (get 0 s.acc.inForce.inputs m.input) 100 80
  let n := lineGran s m.input
  let s := { s with acc := { s.acc with inForce := { s.acc.inForce with inputs := f s.acc.inForce.inputs },
                                        staged := { s.acc.staged with inputs := f s.acc.staged.inputs } } }
  let s := forgetLine s old n
  { s with place := { s.place with lineMoves := s.place.lineMoves.filter (· != m) } }

/-- The line moves of job `j`. -/
def jobLineMoves (s : State) (j : Nat) : List LineMove :=
  s.place.lineMoves.filter fun m => inRange (inputRange (s.acc.inForce.job j)) m.input

/-- The line moves of job `j` are completed. -/
def finishLines (s : State) (j : Nat) : State :=
  (jobLineMoves s j).foldl (fun s m => switchLine (if m.switchAt.isSome then s else copyLine s m) m) s

/-! ### Commands -/

/-- A job ends: what it ran with is gone. -/
def stopJob (s : State) (j : Nat) : State :=
  let s := abandonMove s j
  let d := s.acc.inForce.job j
  let mine := jobLineMoves s j
  let s := forgetFilters s s.acc.inForce j
  let s := { s with acc := { s.acc with subs := outside (subRange d) s.acc.subs,
                                        routes := outside (routeRange d) s.acc.routes,
                                        outNext := outside (outRange d) s.acc.outNext } }
  let s := { s with place := { s.place with lineMoves := s.place.lineMoves.filter fun m => !mine.contains m } }
  putJob s j { Job.stopped with engine := (job s j).engine }

/-- The descriptors of a COMMIT with ENGINE and every LINE_BASE as they are in force: no COMMIT changes them. -/
def AccDesc.placed (d : AccDesc) (s : State) (j : Nat) : AccDesc :=
  { d with jobs := set 0 d.jobs j (setFld (d.job j) 505 500 (fld (s.acc.inForce.job j) 505 500)),
           inputs := d.inputs.map fun e => (e.1, setFld e.2 100 80 (fld (get 0 s.acc.inForce.inputs e.1) 100 80)) }

/-- One command takes effect at its apply sample. -/
def takeCommand (s : State) (j : Nat) (c : JobCmd) : State :=
  match c.op with
  | 0 =>
    let x := job s j
    changeRoutes (putJob s j { x with state := if x.state = 1 then 2 else x.state }) c.desc j c.sample
  | 1 =>
    let d := c.desc.placed s j
    let old := (jobPart s j).validOuts
    let next := d.validOuts.foldl (fun l e =>
      if old.any fun o => o.1 == e.1 then l else put l e.1 (toStream (outConv e.2) c.sample)) s.acc.outNext
    let s := { s with acc := { s.acc with inForce := s.acc.inForce.adopt j d, outNext := next } }
    changeRoutes (pruneRoutes s d j) d j c.sample
  | _ => stopJob s j

/-- The commands of job `j` whose apply samples are at most `a`, in order. -/
def takeDue : Nat → State → Nat → Nat → State
  | 0, s, _, _ => s
  | n + 1, s, j, a =>
    let x := job s j
    match x.pending with
    | [] => s
    | c :: cs => if c.sample ≤ a then takeDue n (takeCommand (putJob s j { x with pending := cs }) j c) j a else s

/-- A command that has been accepted goes to the twin with its apply sample (R302). -/
def carryCommand (s : State) (j op a : Nat) : State :=
  mirror s 8 0x10001000 [BitVec.ofNat 32 (op * 2 ^ 28 + j), BitVec.ofNat 32 a, BitVec.ofNat 32 (a / 2 ^ 32)]

/-- The descriptors `d` go to the twin, staged or in force (Table 13-2, class 8). -/
def mirrorPart (s : State) (force : Bool) (d : AccDesc) : State :=
  let copy {n : Nat} (base size : Nat) (s : State) (l : Sparse (BitVec n)) : State :=
    l.foldl (fun s e => mirror s 8 ((if force then 0x1000000 else 0) + base + e.1 * size) (wordsOf (size / 4) e.2)) s
  let s := copy 0x6080000 16 (copy 0x6020000 64 (copy 0x6000000 64 s d.jobs) d.subs) d.inputs
  copy 0x6200000 8 (copy 0x6180000 16 (copy 0x6100000 128 s d.outs) d.routes) d.taps

/-- ACC_JOB_APPLY and RESULT of an accepted command. -/
def acceptJob (s : State) (j op a : Nat) : State :=
  let s := wr s Reg.accJobCmd [] 26 24 0
  let s := putWord s Reg.accJobApplyLo [] (BitVec.ofNat 32 a)
  carryCommand (putWord s Reg.accJobApplyHi [] (BitVec.ofNat 32 (a / 2 ^ 32 % 2 ^ 24))) j op a

/-- A refused command (R296). -/
def refuseJob (s : State) (j reason : Nat) : State :=
  let s := wr s Reg.accJobCmd [] 26 24 1
  let s := countEvent s Reg.accRefuseCnt []
  putWord s Reg.accRefuseLast [] (BitVec.ofNat 32 (reason * 2 ^ 16 + j))

/-- The reason of Table 10-11 that refuses part `d` of job `j` on engine `e`, other than STATE and STRUCT. -/
def partRefusal (s : State) (j : Nat) (d : AccDesc) (e : Nat) : Option Nat :=
  if !enginePopulated s e || !countsFit d j || !capacityFits s e j d || !deviceFits s j d || !atMost (loadWith s e j d) 950
  then some 1
  else if rangeBad s d j then some 2
  else if lineBad s d j then some 3
  else if formatBad d j then some 4
  else if queueBad s d (e / 8) then some 5 else none

/-- The engine of a START, with the reason that its journal entry gives. -/
def startEngine (s : State) (j : Nat) (d : AccDesc) (ok : Nat → Bool) : Option (Nat × Nat) :=
  if placeMode s 0 = 0 then some (fld (d.job j) 505 500, 1)
  else (chooseEngine s j d ok).map fun r => (r.1, if r.2 then 3 else 1)

/-- The lines of a START: each valid input channel in turn with its LINE_BASE chosen and the reason, or the channel that
finds no room. -/
def startLines (s : State) : List Range → Sparse (BitVec 128) → Sum Nat (List (Nat × Nat × Nat))
  | _, [] => .inr []
  | held, e :: es =>
    let n := fld e.2 107 101
    match chooseLine s held e.1 n (fun _ => true) with
    | none => .inl e.1
    | some (b, high) =>
      match startLines s ((b, b + n) :: held) es with
      | .inl i => .inl i
      | .inr l => .inr ((e.1, b, if high then 3 else 1) :: l)

/-- A START accepted: the descriptors `d` in force, output from sample `a` on. -/
def beginJob (s : State) (j : Nat) (d : AccDesc) (e a : Nat) : State :=
  let x := d.job j
  let s := { s with acc := { s.acc with inForce := s.acc.inForce.adopt j d, subs := outside (subRange x) s.acc.subs,
                                        routes := outside (routeRange x) s.acc.routes,
                                        outNext := outside (outRange x) s.acc.outNext } }
  let s := d.validInputs.foldl (fun s c => forgetLine s (lineRange c.2).1 (fld c.2 107 101)) (forgetFilters s d j)
  let s := putJob s j { state := 1, engine := e, pending := [⟨0, a, d⟩], start := a, move := none, restart := none,
                        steps := (tb s (jobTb x)).steps }
  continueAt s j a false false

/-- The unit pairs: it is RESTORING in SYNCING, and a START that is carried to it runs the descriptors that the ACTIVE unit
has in force (R304). -/
def pairing (s : State) : Bool := role s == 3 && rd s Reg.twinStat [] 26 24 == 1

/-- START of job `j`: placement's choices, the checks, and the start at a. `carried` holds the apply sample of a command
that the twin carried. -/
def startJob (s : State) (j : Nat) (atTime : Bool) (carried : Option Nat) : State :=
  let copied := carried.isSome && pairing s
  let d := if copied then s.acc.inForce.part j else s.acc.staged.part j
  let x := d.job j
  match startEngine s j d (fun e => carried.isNone || !queueBad s d (e / 8)) with
  | none => refuseJob (noRoom s 0 j) j 1
  | some (e, why) =>
    let bases := if placeMode s 1 = 0 then .inr [] else startLines s (linesHeld s) d.validInputs
    match bases with
    | .inl i => refuseJob (noRoom s 1 i) j 1
    | .inr bs =>
      let inputs := bs.foldl (fun l b => set 0 l b.1 (setFld (get 0 l b.1) 100 80 b.2.1)) d.inputs
      let d := { d with jobs := set 0 d.jobs j (setFld x 505 500 e), inputs := inputs }
      match (if carried.isSome then none else partRefusal s j d e) with
      | some r => refuseJob s j r
      | none =>
        let a := carried.getD (applySample s x atTime)
        let s := if copied then s else { s with acc := { s.acc with staged := s.acc.staged.adopt j d } }
        let s := if placeMode s 0 = 0 then s else journalNew s 0 0 why j e
        let s := bs.foldl (fun s b => journalNew s 1 0 b.2.2 b.1 (bankOf b.2.1)) s
        let s := if s.twin.peerRole = 3 then mirrorPart s true d else s
        acceptJob (beginJob s j d e a) j 0 a

/-- COMMIT of job `j` accepted with apply sample `a`. -/
def commitAt (s : State) (j a : Nat) (d : AccDesc) : State :=
  let s := match (job s j).move with
    | some m => if moveComputed s j m then s else abandonMove s j
    | none => s
  let s := finishLines s j
  let x := job s j
  let a := if x.state = 1 then max a x.start else a
  acceptJob (putJob s j { x with pending := x.pending ++ [⟨1, a, d⟩] }) j 1 a

/-- The staged descriptors of a COMMIT: ENGINE is placement's while JOB is not OFF. -/
def commitPart (s : State) (j : Nat) : AccDesc :=
  let d := s.acc.staged.part j
  if placeMode s 0 = 0 then d
  else { d with jobs := set 0 d.jobs j (setFld (d.job j) 505 500 (fld (s.acc.inForce.job j) 505 500)) }

/-- COMMIT of job `j`. -/
def commitJob (s : State) (j : Nat) (atTime : Bool) : State :=
  let d := commitPart s j
  match partRefusal s j d (job s j).engine with
  | some r => refuseJob s j r
  | none =>
    if structBad s d j then refuseJob s j 7
    else commitAt s j (applySample s (s.acc.inForce.job j) atTime) d

/-- STOP of job `j` accepted with apply sample `a`. -/
def stopAt (s : State) (j a : Nat) : State :=
  let s := match (job s j).move with
    | some m => if moveComputed s j m then s else abandonMove s j
    | none => s
  let x := job s j
  let s :=
    if x.state = 1 then stopJob s j
    else
      let s := putJob s j { x with state := 3, pending := x.pending ++ [⟨2, a, AccDesc.none⟩], restart := none }
      if x.state = 5 ∧ x.restart = none then continueAt s j a true true else s
  acceptJob s j 2 a

/-- A job in FAULT whose restart sample has come leaves FAULT (R306, Table 10-10). -/
def resume (s : State) (j : Nat) : State :=
  let x := job s j
  match x.restart with
  | none => s
  | some r =>
    if reachedTime s (s.acc.inForce.job j) r then
      let state := if x.pending.any (fun c => c.op == 0 && decide (r < c.sample)) then 1
        else if x.pending.any (fun c => c.op == 2) then 3 else 2
      putJob s j { x with state := state, restart := none }
    else s

/-- A command of ACC_JOB_CMD for job `j`: busy, refused by its state, or checked further. -/
def jobCommand (s : State) (req : Requester) (op j : Nat) (atTime : Bool) : State :=
  let s := resume s j
  let x := job s j
  let waits := x.pending.any fun c => !(x.state == 1 && c.op == 0)
  if waits then wr s Reg.accJobCmd [] 26 24 2
  else if (role s == 2 || role s == 3) && req != .twin then refuseJob s j 6
  else match op with
    | 0 => if x.state = 0 then startJob s j atTime none else refuseJob s j 6
    | 1 => if x.state = 1 ∨ x.state = 2 ∨ x.state = 4 then commitJob s j atTime else refuseJob s j 6
    | _ =>
      if x.state = 1 ∨ x.state = 2 ∨ x.state = 4 ∨ x.state = 5 then
        stopAt s j (applySample s (s.acc.inForce.job j) atTime)
      else refuseJob s j 6

/-- A write of ACC_JOB_CMD. -/
def jobCommandWrite (s : State) (req : Requester) (data : Word) : State :=
  let s := stage s req Reg.accJobCmd [] 0xFFFFFFFF data
  if flag data 31 then jobCommand s req (fld data 29 28) (fld data 9 0) (flag data 27) else s

/-- The word of ACC_JOB_CMD with GO. -/
def jobWord (op j : Nat) (atTime : Bool) : Word := BitVec.ofNat 32 (2 ^ 31 + op * 2 ^ 28 + bnat atTime * 2 ^ 27 + j)

/-- The TB of job `j` has stepped, and the job has not restarted yet (R299). -/
def stepped (s : State) (j : Nat) : Bool := (job s j).steps != (tb s (jobTb (s.acc.inForce.job j))).steps

/-- APPLY_SAMPLE_REACHED: job `j` leaves FAULT at its restart sample; its pending command takes effect once media time and every output stream have come
to its apply sample. In FAULT no packet is computed, and only media time counts. -/
def execApplySampleReached (j : Fin 1024) (el : Nat) (s : State) : Host.Outcome State Fault Refusal :=
  let s := resume (advance el s) j
  let x := job s j
  match x.pending with
  | [] => done s
  | c :: _ =>
    if stepped s j || !reachedTime s (s.acc.inForce.job j) c.sample then done s
    else if x.state = 5 then
      if c.op = 2 then done (takeDue 1 (continueAt s j c.sample true true) j c.sample) else done s
    else if outsReached s j c.sample then done (takeDue 1 s j c.sample) else done s

/-! ### Steps, faults and restarts -/

/-- Pending commands whose apply samples `r` has passed apply at `r`, and so does a move. -/
def catchUp (s : State) (j r : Nat) : State :=
  let x := job s j
  putJob s j { x with pending := x.pending.map (fun c => { c with sample := max c.sample r }),
                      move := x.move.map (fun m => { m with atSample := max m.atSample r }), restart := x.restart.map fun _ => r }

/-- JOB_STEP_RESTART: the job's TB has stepped (R299). -/
def execJobStepRestart (j : Fin 1024) (el : Nat) (s : State) : Host.Outcome State Fault Refusal :=
  let s := advance el s
  let x := job s j
  if x.state = 0 ∨ !stepped s j then done s
  else
    let d := s.acc.inForce.job j
    let r := applyAfter (jobRate d) (tbFrac s (jobTb d))
    let s := countEvent s Reg.accStepCnt []
    let s := putWord s Reg.accStepLast [] (BitVec.ofNat 32 j)
    let waits := x.pending.any fun c => c.op == 0
    let s := settleRamps (catchUp s j r) j
    let s := continueAt s j (if waits then max r x.start else r) false false
    let s := putJob s j { job s j with start := if waits then max r x.start else min x.start r, steps := (tb s (jobTb d)).steps }
    let subs := s.acc.subs.map fun e => if inRange (subRange d) e.1 then (e.1, { e.2 with accepted := [], missed := [] }) else e
    done { s with acc := { s.acc with subs := subs.filter fun e => e.2 != ⟨[], 0, []⟩ } }

/-- One job on a failed engine enters FAULT. -/
def faultJob (s : State) (e : Nat) (j : Nat) : State :=
  let s := abandonMove s j
  if (job s j).engine = e ∧ ((job s j).state ≠ 5 ∨ (job s j).restart ≠ none) then
    let s := countEvent s Reg.accFaultCnt []
    let s := putWord s Reg.accFaultLast [] (BitVec.ofNat 32 j)
    putJob s j { job s j with state := 5, restart := none }
  else s

/-- Every job on engine `e` enters FAULT (R306). -/
def faultEngine (s : State) (e : Nat) : State := (jobsOn s e).foldl (fun s j => faultJob s e j) s

/-- ENGINE_FAULT. -/
def execEngineFault (e : Fin 64) (s : State) : Host.Outcome State Fault Refusal := done (faultEngine s e)

/-- The engine to which MC2 restarts job `j` after a fault. -/
def faultEngineOf (s : State) (j : Nat) : Option (Nat × Bool) :=
  let d := jobPart s j
  chooseEngine s j d fun e => e != (job s j).engine && capacityFits s e j d && reachable s j e

/-- JOB_FAULT_RESTART: MC2 restarts job `j` on engine `e`, the one that R319 chooses, at an apply sample at which it will leave
FAULT. -/
def execJobFaultRestart (j : Fin 1024) (e : Fin 64) (el : Nat) (s : State) : Host.Outcome State Fault Refusal :=
  let s := advance el s
  let x := job s j
  if x.state ≠ 5 ∨ x.restart ≠ none ∨ !mc2Up s then done s
  else match faultEngineOf s j with
    | none => done (noRoom s 0 j)
    | some (t, _) =>
      if t ≠ e.val then done s
      else match reach s j t with
        | none => done (noRoom s 0 j)
        | some (s, qs) =>
          let d := s.acc.inForce.job j
          let r := applyLead s d
          let s := continueAt s j r true true
          let s := settleRamps (catchUp s j r) j
          let s := putJob s j { job s j with restart := some r }
          done (switchEngine s j t 7 (perMille (engineLoad s x.engine none)) qs)

/-- CARRIED_COMMAND_RX: a STANDBY or RESTORING unit takes an accepted command from its peer (R302 to R304). -/
def execCarriedCommandRx (j : Fin 1024) (op : Fin 3) (apply : Nat) (el : Nat) (s : State) :
    Host.Outcome State Fault Refusal :=
  let s := advance el s
  if role s ≠ 2 ∧ role s ≠ 3 then done s
  else
    let d := if op = 0 ∧ pairing s = false then s.acc.staged.job j else s.acc.inForce.job j
    let now := tbFrac s (jobTb d)
    let late := decide ((apply * fracPerSec : Int) < now * jobRate d)
    let s := if late then putWord (countEvent s Reg.accEditlateCnt []) Reg.accEditlateLast [] (BitVec.ofNat 32 j) else s
    let a := if late then applyAfter (jobRate d) now else apply
    match op with
    | 0 => done (startJob (if (job s j).state = 0 then s else stopJob s j) j false (some a))
    | 1 => if (job s j).state = 0 then done s else done (commitAt s j a (commitPart s j))
    | 2 => if (job s j).state = 0 then done s else done (stopAt s j a)

end Sys2Proof.Machine
end

