-- ==== Sys2Proof/Machine/Leaf.lean ====
section
/-! DEFINITION. Izlen leaves on their way out: their header and CRC, and the queue from which group frames are filled
(R340, R345, R346, R368). -/
namespace Sys2Proof.Machine

/-- The CRC-16 of every Izlen field (R340). -/
def izlCrc (bs : List Byte) : Nat := (crc 0x1021#16 (BitVec.allOnes 16) (bs.flatMap bitsMsb)).toNat

/-- A leaf header of kind `k` and length `n` (Table 12-5). -/
def leafHeader (k n : Nat) : List Byte :=
  let b := toBytes 2 (k * 16384 + n)
  b ++ toBytes 2 (izlCrc b)

/-- The AIS leaf. -/
def aisLeaf : List Byte := List.replicate 8 0xFF

/-- ROLE of group `g` (IZL_GRP_STAT): 0 down, 1 plain, 2 upstream, 3 downstream, 4 cross link, 5 conflict. -/
def groupRole (s : State) (g : Nat) : Nat := rd s Reg.izlGrpStat [g] 25 23

/-- The group is up: ALIGNED and in LD_SYNC (R336). -/
def groupUp (s : State) (g : Nat) : Bool := rdBit s Reg.izlGrpStat [g] 31 && rd s Reg.izlGrpStat [g] 30 29 == 2

/-- Bytes of one leaf queued on group `g`. -/
def putLeaf (s : State) (g : Nat) (bs : List Byte) : State :=
  let x := izlGroup s g
  putIzlGroup s g { x with txLeaves := x.txLeaves ++ bs }

/-- A leaf other than filler and AIS queued on group `g`: it counts LEAF_TX and in the group's utilisation. -/
def sendLeaf (s : State) (g : Nat) (bs : List Byte) : State :=
  let s := putLeaf s g bs
  let x := izlGroup s g
  bump (putIzlGroup s g { x with utilBytes := x.utilBytes + bs.length }) Ctr.izl [g] 0 1

/-- A frame leaf: the frame from its destination address through its FCS. -/
def frameLeaf (b : List Byte) : List Byte := leafHeader 0 b.length ++ b

/-- A steered leaf with its steering word (R345, R346). -/
def steeredLeaf (dev port cls : Nat) (prot : Bool) (b : List Byte) : List Byte :=
  leafHeader 1 b.length ++ toBytes 4 (dev * 2 ^ 25 + port * 2 ^ 18 + cls * 2 ^ 15 + bnat prot * 2 ^ 14) ++ b

/-- A control leaf. -/
def controlLeaf (b : List Byte) : List Byte := leafHeader 2 b.length ++ b

/-- Group `g` sends a steered leaf that group `f` received (R355). -/
def noteFeed (s : State) (g f : Nat) : State :=
  let x := izlGroup s g
  putIzlGroup s g { x with feeds := put x.feeds f s.time.dt }

/-- The frame `b` of queue `q` leaves by group `g`: a steered leaf from a VOQ, else a frame leaf, which a cross link
does not carry. -/
def sendTrunk (s : State) (g q : Nat) (prot : Bool) (b : List Byte) : State :=
  if queueUse s q = 3 then
    let k := q - voqBase s
    sendLeaf s g (steeredLeaf (k / 768) (k % 768 / 8) (k % 8) prot b)
  else if groupRole s g = 4 then s
  else sendLeaf s g (frameLeaf b)

end Sys2Proof.Machine
end

