-- ==== Sys2Proof/Machine/Flow.lean ====
section
/-! DEFINITION. Control leaves on their way out, and the XOFF map that a hierarchy device sends as its class queues fill and
drain (R347, R372). -/
namespace Sys2Proof.Machine

/-- Group `g` is formed and enabled. -/
def groupOn (s : State) (g : Nat) : Bool := groupLanes s g != [] && rdBit s Reg.izlGrpCfg [g] 31

/-- Group `g` runs Izlen-1. -/
def izlOne (s : State) (g : Nat) : Bool := rdBit s Reg.izlGrpCfg [g] 30

/-- Group `g` carries the hierarchy's leaves (R353, R365). -/
def hierGroup (s : State) (g : Nat) : Bool := groupOn s g && rdBit s Reg.izlGrpCfg [g] 29 && !izlOne s g

/-- The hierarchy's role: 0 none, 1 manager, 2 worker. -/
def hierRole (s : State) : Nat :=
  let r := rd s Reg.izlHierCfg [] 1 0
  if r = 3 then 0 else r

/-- A hierarchy group whose neighbour makes it plain: another manager, or one outside the Izlen window (R370, R493). -/
def asPlain (s : State) (g : Nat) : Bool :=
  groupRole s g == 5 || (groupRole s g == 1 && (izlGroup s g).neighbour.isSome)

/-- A control leaf leaves on group `g`, where it can: on a group that is treated as plain HELLO alone. -/
def sendControl (s : State) (g : Nat) (b : List Byte) : State :=
  if hierGroup s g && groupUp s g && (byteAt b 0 == 1 || !asPlain s g) then sendLeaf s g (controlLeaf b) else s

/-- The four control bytes and a body. -/
def control (ty src dst : Nat) (body : List Byte) : List Byte := toBytes 4 (ty * 2 ^ 24 + src * 2 ^ 16 + dst * 2 ^ 8 + 8) ++ body

/-- The XOFF map's bytes: byte p holds port p, its bit c class c. -/
def mapBytes (m : BitVec 768) : List Byte := (List.range 96).map fun p => BitVec.ofNat 8 (m.toNat / 2 ^ (8 * p))

/-- The groups on which FLOW leaves travel: upstream and downstream. -/
def flowGroups (s : State) : List Nat := (List.range 16).filter fun g => groupRole s g == 2 || groupRole s g == 3

/-- A FLOW leaf on every such group. -/
def sendFlow (s : State) : State :=
  let b := control 4 (ownDevice s) 0xFE (mapBytes s.izl.xoffMap)
  (flowGroups s).foldl (fun s g => sendControl s g b) s

/-- The XOFF map as the class queues now stand. -/
def xoffNow (s : State) : BitVec 768 :=
  let hi := rd s Reg.izlFcLevel [] 31 16
  let lo := if rd s Reg.izlFcLevel [] 15 0 < hi then rd s Reg.izlFcLevel [] 15 0 else hi - 1
  (List.range 768).foldl (fun m q =>
    let d := depthCells s q
    let on := decide (hi * 16 ≤ d) || (s.izl.xoffMap.getLsbD q && decide (lo * 16 ≤ d))
    if on then m ||| BitVec.ofNat 768 (2 ^ q) else m) 0

/-- The device has a place in a hierarchy. -/
def inHierarchy (s : State) : Bool := hierRole s != 0 && decide (ownDevice s ≤ 127)

/-- The map brought up to date, and sent when it changes or, with `always`, while any bit is set. -/
def flowUpdate (s : State) (always : Bool) : State :=
  if !inHierarchy s then s
  else
    let m := xoffNow s
    let changed := m != s.izl.xoffMap
    let s := { s with izl := { s.izl with xoffMap := m } }
    if changed || (always && m != 0) then sendFlow { s with izl := { s.izl with flowAt := s.time.dt } } else s

end Sys2Proof.Machine
end

