-- ==== Sys2Proof/Machine/Refs.lean ====
section
/-! DEFINITION. The references that copies hold on a frame's cells: how they are handed on, released, and dropped with the
copies that a discard removes (R149, R189 to R195, R198, R208). -/
namespace Sys2Proof.Machine

/-! ### Releasing a reference -/

/-- The frame is forgotten once no copy is left, its chain has returned and it asks for no cell. -/
def forget (s : State) (f : Nat) : State :=
  match frame s f with
  | none => s
  | some x =>
    if x.copies = 0 ∧ (x.head.all fun h => (findBuf s 0 h).isNone) ∧ x.whole ∧ !(s.bpm.cellReqs.any fun e => e.2.contains f) then
      { s with frames := drop s.frames f }
    else s

/-- Copy `d` goes to a port of the pair to which copy `c` goes: the two share one reference (R195). -/
def sameReference (c d : Copy) : Bool := c.pair.isSome && d.frame == c.frame && d.pair == c.pair

/-- The other port of a pair still holds the reference of `c`, waiting or in transmission. -/
def mateHolds (s : State) (c : Copy) : Bool :=
  s.sched.queues.any (fun e => e.2.copies.any (sameReference c)) || s.sched.sending.any fun e => sameReference c e.2.copy

/-- The reference of agent `tag` on frame `x` is released: dropped where the Atomiser shares the chain, else the chain is freed
(R189, R195). -/
def dropReference (s : State) (x : Frame) (tag : BitVec 8) : State :=
  match x.head with
  | none => s
  | some h => ownOp s (if 2 ≤ x.fan then .dropRef tag 0 (cellPtr h) else .free tag 0 (cellPtr h))

/-- Copy `c`, taken from its queue or its transmission, leaves or is discarded: its reference is released under its tag, a
pair's with its last port (R195). -/
def releaseCopy (s : State) (c : Copy) : State :=
  match frame s c.frame with
  | none => s
  | some x =>
    let s := putFrame s c.frame { x with copies := x.copies - 1 }
    if mateHolds s c then s else forget (dropReference s x c.tag) c.frame

/-- Copy `c` is taken from queue `q`. A queue that empties loses its deficit, and a class node that empties its own (R217). -/
def takeCopy (s : State) (q : Nat) (c : Copy) : State :=
  let p := queuePort s q
  let s := settleCredit s p
  let x := queue s q
  let left := x.copies.erase c
  let s := putQueue s q { x with copies := left, deficit := if left = [] then 0 else x.deficit }
  let s := if p < 80 then putPort s p { port s p with activeAt := s.time.dt } else s
  let k := queueClass s q
  if left = [] ∧ members s p k = [] then
    let y := portSched s p
    putPortSched s p { y with classDeficit := y.classDeficit.set k 0 }
  else s

/-- Every copy of frame `f` that `p` selects, by its queue, is removed without being sent. -/
def removeWhere (s : State) (f : Nat) (p : Nat → Copy → Bool) : State :=
  (keys s.sched.queues).foldl (fun s q =>
    ((queue s q).copies.filter fun c => c.frame == f && p q c).foldl (fun s c => releaseCopy (takeCopy s q c) c) s) s

/-! ### A frame's cells -/

/-- Frame `f` asks for the cells that the bytes received of it need, those beyond its ingress port's MRU aside (R65, R187). -/
def cellsNeeded (x : Frame) : Nat := ceilDiv (min x.bytes.length (max x.mru 64)) 256

def requestCells (s : State) (f : Nat) : State :=
  match frame s f with
  | none => s
  | some x =>
    let l := get [] s.bpm.cellReqs x.inPort
    if l.contains f ∨ x.bad ∨ cellsNeeded x ≤ x.cells then s
    else { s with bpm := { s.bpm with cellReqs := put s.bpm.cellReqs x.inPort (l ++ [f]) } }

/-- Frame `f` no longer asks for cells. -/
def endRequests (s : State) (f : Nat) : State :=
  let m := s.bpm.cellReqs.filterMap fun e =>
    let l := e.2.filter (· != f)
    if l = [] then none else some (e.1, l)
  { s with bpm := { s.bpm with cellReqs := m } }

/-- The references that copies of frame `f` hold, by their tags: one for both ports of a pair. -/
def heldTags (s : State) (f : Nat) : List (BitVec 8) :=
  let cs := (s.sched.queues.flatMap fun e => e.2.copies) ++ s.sched.sending.map fun e => e.2.copy
  let mine := cs.filter fun c => c.frame == f
  ((mine.filter fun c => c.pair.isNone) ++ (mine.filter fun c => c.pair.isSome).foldl (fun l c =>
    if l.any (sameReference c) then l else l ++ [c]) []).map (·.tag)

/-- A chain whose head cell `i` has been granted to frame `x` is handed on (R149, R189, R190). The ingress owner returns one
that has no destination. With one, the egress owns it. With k, the Atomiser shares it among k + 1, hands on the references,
and frees its own, which is held; a destination that has discarded its copy has dropped its reference. -/
def handOver (s : State) (f : Nat) (x : Frame) (i : Nat) : State :=
  let tags := heldTags s f
  match findBuf s 0 i with
  | none => s
  | some b =>
    if x.fan = 0 then letGo s 0 i
    else if x.fan = 1 then
      match tags with
      | [] => letGo s 0 i
      | t :: _ => putBuf s 0 i { b with owner := t }
    else
      let s := shareBuf (putBuf s 0 i { b with owner := 0xD0 }) 0xD0 (cellPtr i) (x.fan + 1) 0xD0
      let s := match findBuf s 0 i with
        | none => s
        | some b => putBuf s 0 i { b with holders := tags }
      lowerCount (freeBuf s 0xD0 0 (cellPtr i)) 0 i (x.fan - tags.length)

/-- The chain of frame `f`, whose last byte has been written, is closed. What it was copied from is released: the staging buffer
of a frame of the host or of an engine (R197), the old chain of a recirculated one (R198). -/
def closeChain (s : State) (f : Nat) : State :=
  match frame s f with
  | none => s
  | some x =>
    let s := putFrame s f { x with staging := none, source := none }
    let s := match x.staging with
      | none => s
      | some (n, i) => returnBuf s n i
    let s := match x.source with
      | none => s
      | some c => releaseCopy s c
    let s := match x.head with
      | none => s
      | some h => closeBuf s 0 h
    forget s f

/-- Frame `f` is discarded by its ingress: it asks for no more cells and its chain is closed, which returns with the last
reference. A copy that waits is removed at its dequeue (R208); one of a frame that never had a cell is removed at once. -/
def discardFrame (s : State) (f : Nat) : State :=
  match frame s f with
  | none => s
  | some x =>
    let s := endRequests (putFrame s f { x with bad := true }) f
    closeChain (if x.head.isNone then removeWhere s f fun _ _ => true else s) f

end Sys2Proof.Machine
end

