-- ==== Sys2Proof/Machine/Resolve.lean ====
section
/-! DEFINITION. Classification, destination resolution, storm policers, the stage-7 learn decision, punts, mirrors and
the cut-through conditions that hold from a frame's header on (chapters 5, 8 and 15). -/
namespace Sys2Proof.Machine

/-! ### Classification (R114, R115, R117, R120) -/

/-- Bits [hi:lo] of PIPE_PORT_CFG of port `p`. -/
def portCfg (s : State) (p hi lo : Nat) : Nat := rd s Reg.pipePortCfg [pipeOf s p, p] hi lo

/-- The tag protocol identifier of port `p`. -/
def portTpid (s : State) (p : Nat) : Nat := if portCfg s p 20 20 = 1 then 0x88A8 else 0x8100

/-- The outer tag of a frame on port `p`, when its EtherType is the port's TPID. -/
def outerTag (s : State) (p : Nat) (h : Header) : Option VTag := h.tags.head?.filter fun t => t.tpid == portTpid s p

/-- The VLAN table entry of `vid`. -/
def vlanEntry (s : State) (vid : Nat) : BitVec 256 := get 0 s.fdb.vlan vid

/-- The frame's VID: its outer tag's, or PVID. -/
def vidOf (s : State) (p : Nat) (h : Header) : Nat :=
  match outerTag s p h with
  | some t => if t.vid = 0 then portCfg s p 11 0 else t.vid
  | none => portCfg s p 11 0

/-- The traffic class by TRUST (R120). -/
def classOf (s : State) (p : Nat) (h : Header) : Nat :=
  let trust := portCfg s p 19 18
  if 2 ≤ trust ∧ (h.ipv4 ∨ h.ipv6) then
    rd s Reg.pipeDscpMap [pipeOf s p, p, h.dscp / 8] (h.dscp % 8 * 4 + 2) (h.dscp % 8 * 4)
  else match outerTag s p h with
    | some t => if 1 ≤ trust then rd s Reg.pipePcpMap [pipeOf s p, p] (3 * t.pcp + 2) (3 * t.pcp) else portCfg s p 17 15
    | none => portCfg s p 17 15

/-- The port's state takes no frame but link-local ones, or none at all (R117). -/
def stpDrops (s : State) (p : Nat) (h : Header) : Bool :=
  let stp := portCfg s p 25 24
  stp == 0 || (stp != 3 && !h.linkLocal)

/-- The counter of Table 5-5 that drops the frame for its tag or its VLAN, if one does. -/
def vlanDrop (s : State) (p : Nat) (h : Header) : Option Nat :=
  let vid0 := (outerTag s p h).all fun t => t.vid == 0
  let v := vlanEntry s (vidOf s p h)
  if (portCfg s p 23 22 = 1 ∧ vid0) ∨ (portCfg s p 23 22 = 2 ∧ !vid0) then some 1
  else if vidOf s p h = 0xFFF ∨ !flag v 255 ∨ (portCfg s p 21 21 = 1 ∧ !flag v p) then some 0
  else none

/-- The counter of Table 5-5 that drops the frame in stages 0 and 1, if one does. -/
def classDrop (s : State) (p : Nat) (h : Header) : Option Nat := if stpDrops s p h then some 2 else vlanDrop s p h

/-! ### Punts (R450, R452) -/

/-- Punt class entry `c`. -/
def puntEntry (s : State) (c : Nat) : BitVec 128 := get 0 s.host.punt c

/-- The port that a punt class names. -/
def puntPort (s : State) (c : Nat) : Nat :=
  let d := fld (puntEntry s c) 126 120
  if d = 88 ∨ d = 89 then d else 95

/-- One token, in the unit in which RATE grows by one a tick. -/
def tokenUnit : Nat := 800000000

/-- The tokens of class `c` now. -/
def puntTokens (s : State) (c : Nat) : Nat :=
  let e := puntEntry s c
  let t := get ⟨0, 0⟩ s.host.tokens c
  min (max 1 (fld e 99 84) * tokenUnit) (t.held + fld e 119 100 * (s.time.dt - t.since))

/-- A punted copy made in pipeline `k` meets its class: the state, and whether it is admitted. -/
def puntAdmit (s : State) (k c : Nat) : State × Bool :=
  let e := puntEntry s c
  let n := if puntPort s c = 95 then 4 else 1
  let held := puntTokens s c
  let settle (v : Nat) (s : State) : State :=
    { s with host := { s.host with tokens := set ⟨0, 0⟩ s.host.tokens c ⟨v, s.time.dt⟩ } }
  if !flag e 127 then (bump s Ctr.punt [k, c] 1 1, false)
  else if poolFree s n < rd s Reg.glbPuntShed [] 11 0 * (7 - c) then (bump s Ctr.punt [k, c] 2 1, false)
  else if held < tokenUnit then (bump (settle held s) Ctr.punt [k, c] 1 1, false)
  else (bump (settle (held - tokenUnit) s) Ctr.punt [k, c] 0 1, true)

/-- The punt that reason map entry `n` orders, with its reason code. -/
def mapPunt (s : State) (n reason : Nat) : List PuntInfo :=
  let w := get (0 : Word) s.host.reasons n
  if flag w 31 then [⟨fld w 2 0, reason⟩] else []

/-! ### Destinations (R122, R123, R147, R557) -/

/-- What resolution gives a frame. -/
structure Dest where
  ports : List Nat
  voq : Option (Nat × Nat)
  /-- The one port that an entry or a context names. -/
  named : Option Nat
  /-- The storm policer that the frame passes: 0 unknown unicast, 1 unregistered multicast, 2 broadcast. -/
  storm : Option Nat
  /-- DA_ACT and its punt class. -/
  act : Nat
  actClass : Nat
  punts : List PuntInfo
  deriving DecidableEq, Repr

/-- No destination. -/
def Dest.none : Dest :=
  { ports := [], voq := .none, named := .none, storm := .none, act := 0, actClass := 0, punts := [] }

/-- The members of VLAN entry `v` that a mask selects, in ascending order. -/
def membersOf (v : BitVec 256) (mask : Nat → Bool) : List Nat :=
  (List.range 96).filter fun p => flag v p && mask p

/-- The flood set (R123). -/
def floodSet (v : BitVec 256) : List Nat := membersOf v fun p => decide (p < 80)

/-- FDB_ROUTER_MASK. -/
def routerPort (s : State) (p : Nat) : Bool := rdBit s Reg.fdbRouterMask [p / 32] (p % 32)

/-- Step 5: unregistered multicast. -/
def unregistered (s : State) (v : BitVec 256) : Dest :=
  match fld v 251 250 with
  | 0 => { Dest.none with ports := floodSet v, storm := some 1 }
  | 1 => { Dest.none with ports := membersOf v (routerPort s), storm := some 1 }
  | _ => Dest.none

/-- Step 3: unknown unicast. -/
def unknownUnicast (s : State) (v : BitVec 256) : Dest :=
  match fld v 249 248 with
  | 0 => { Dest.none with ports := floodSet v, storm := some 0 }
  | 2 => { Dest.none with punts := mapPunt s 16 2 }
  | _ => Dest.none

/-- The punt of Table 5-3's PUNT_COPY: in the MLD class for IPv6, else in the IGMP class. -/
def groupPunt (s : State) (h : Header) : PuntInfo :=
  ⟨if h.ipv6 then rd s Reg.fdbSnoop [] 6 4 else rd s Reg.fdbSnoop [] 10 8, 6⟩

/-- A group's destinations while it is VALID. -/
def groupDest (s : State) (g : BitVec 256) (v : BitVec 256) (h : Header) : Dest :=
  { Dest.none with ports := membersOf v (flag g ·), punts := if flag g 252 then [groupPunt s h] else [] }

/-- The snooped message that stage 8 handles in VLAN entry `v`. -/
def snooped (v : BitVec 256) (b : List Byte) (h : Header) : Option Snoop :=
  match snoopKind b h with
  | some (.igmp k) => if flag v 253 then some (.igmp k) else none
  | some (.mld k) => if flag v 252 then some (.mld k) else none
  | none => none

/-- The destination lookup of a frame in FID `fid`. -/
def lookupDa (s : State) (fid : Nat) (h : Header) : Option (BitVec 128) :=
  (fdbFind s (fdbKey fid h.da)).head?.map (fdbEntry s)

/-- A snooped message's kind, 0 query, 1 report and 2 leave, and the punt class of its family. -/
def snoopOf (s : State) (v : BitVec 256) (b : List Byte) (h : Header) : Option (Nat × Nat) :=
  (snooped v b h).map fun k =>
    match k with
    | .igmp k => (k, rd s Reg.fdbSnoop [] 10 8)
    | .mld k => (k, rd s Reg.fdbSnoop [] 6 4)

/-- The copy of a snooped message that MC1 receives (R147). -/
def snoopPunts (s : State) (v : BitVec 256) (b : List Byte) (h : Header) : List PuntInfo :=
  match snoopOf s v b h with
  | none => []
  | some (_, cls) => [⟨cls, 3⟩]

/-- The ports of a snooped message of kind `k`: a query floods, reports and leaves go to the router ports, and a report none of
whose groups has an entry goes nowhere (R147). -/
def snoopPorts (s : State) (v : BitVec 256) (fid k : Nat) (b : List Byte) (h : Header) : List Nat :=
  if k = 0 then floodSet v
  else if k = 1 ∧ (reportGroups b h).all fun mac => fdbFind s (fdbKey fid mac) == [] then []
  else membersOf v (routerPort s)

/-- R122 in VLAN entry `v`. -/
def resolve (s : State) (v : BitVec 256) (fid : Nat) (b : List Byte) (h : Header) : Dest :=
  let miss := if h.group then unregistered s v else unknownUnicast s v
  let flooded : Dest := { Dest.none with ports := floodSet v, storm := some 1 }
  let lost := if h.group && h.localGroup then flooded else miss
  let hit := lookupDa s fid h
  let acts (e : BitVec 128) (x : Dest) : Dest := { x with act := fld e 124 123, actClass := fld e 120 118 }
  match snoopOf s v b h with
  | some (k, _) =>
    let x := { Dest.none with
      ports := snoopPorts s v fid k b h, storm := if k = 0 ∧ h.localGroup then some 1 else none, punts := snoopPunts s v b h }
    match hit with
    | none => x
    | some e => acts e x
  | none =>
    if h.bcast then { Dest.none with ports := floodSet v, storm := some 2 }
    else match hit with
      | none => lost
      | some e =>
        let port := fld e 88 82
        match fld e 113 112 with
        | 0 => if 95 < port then { Dest.none with act := 1 } else acts e { Dest.none with ports := [port], named := some port }
        | 1 =>
          let dev := fld e 95 89
          if 95 < port then { Dest.none with act := 1 }
          else if dev = ownDevice s then acts e { Dest.none with ports := [port], named := some port }
          else if admitted s dev then acts e { Dest.none with voq := some (dev, port) }
          else acts e lost
        | 2 =>
          let g := mdbGroup s (fld e 79 66)
          if h.group && h.localGroup then acts e flooded
          else if flag g 255 then acts e (groupDest s g v h) else acts e miss
        | _ => { Dest.none with act := 1 }

/-- The destinations that a stream context names in place of R122; none where it names none. -/
def contextDest (s : State) (cfg : BitVec 256) (v : BitVec 256) (h : Header) : Option Dest :=
  let n := fld cfg 247 234
  match fld cfg 249 248 with
  | 1 => some { Dest.none with ports := [n], named := some n }
  | 2 => some (if flag (mdbGroup s n) 255 then groupDest s (mdbGroup s n) v h else unregistered s v)
  | _ => none

/-- Step 6, R118 and R171: the local ports that remain of a set for a frame from port `p`, each pair once. -/
def pruned (s : State) (p : Nat) (v : BitVec 256) (ports : List Nat) : List Nat :=
  let stay := ports.filter fun e => bridgePort s e != bridgePort s p && flag v e && portCfg s e 25 24 == 3
  (stay.map (bridgePort s)).eraseDups.mergeSort (· ≤ ·)

/-- The counter of step 6 for a unicast frame: the named port is the ingress port, or no member. -/
def pruneDrop (s : State) (p : Nat) (v : BitVec 256) (h : Header) (d : Dest) : Option Nat :=
  match d.named with
  | some e =>
    if h.group then none
    else if bridgePort s e = bridgePort s p then some 7
    else if !flag v e then some 0 else none
  | none => none

/-! ### Storm policers (R124); balances in 10⁻⁵ bytes -/

/-- Bits [hi:lo] of a policer's register. -/
def stormRd (s : State) (p kind hi lo : Nat) : Nat := rd s Reg.pipeStorm [pipeOf s p, p, kind] hi lo

/-- The cap of a policer. -/
def stormCap (s : State) (p kind : Nat) : Int :=
  (max 1 (stormRd s p kind 31 24) * 409600000 : Nat)

/-- A policer's balance now: RATE × 64 kb/s is RATE × 10⁻⁵ bytes a tick. A policer that has met no frame is full. -/
def stormBalance (s : State) (p kind : Nat) : Int :=
  match find s.fdb.storm (p * 3 + kind) with
  | none => stormCap s p kind
  | some (v, t) => min (stormCap s p kind) (v + stormRd s p kind 23 0 * (s.time.dt - t))

def putStorm (s : State) (p kind : Nat) (v : Int) : State :=
  { s with fdb := { s.fdb with storm := put s.fdb.storm (p * 3 + kind) (v, s.time.dt) } }

/-- A frame meets a policer with charge `n`: the state, whether it passes, and whether it was charged. -/
def police (s : State) (p kind n : Nat) : State × Bool × Bool :=
  let rate := stormRd s p kind 23 0
  if rate = 0xFFFFFF then (s, true, false)
  else
    let b := stormBalance s p kind
    if rate = 0 ∨ b < 0 then (countPipe (putStorm s p kind b) p (3 + kind) 1, false, false)
    else (putStorm s p kind (b - n * 100000), true, true)

/-- The subtraction corrected at the tail to the frame's actual length. -/
def correctStorm (s : State) (x : Frame) (len : Nat) : State :=
  match x.stormed with
  | some (kind, n) => putStorm s x.inPort kind (stormBalance s x.inPort kind + ((n : Int) - len) * 100000)
  | none => s

/-! ### Learning at the header (R129, R136, R142) -/

/-- Stage 7: the refresh of a source hit on the port itself, SA_ACT with its class, the learn to request at the tail, and
whether LIMIT_ACT drops the frame. A station move is requested at the limit too: the engine then deletes the entry (R135, log
entry 156). -/
def stage7 (s : State) (p fid : Nat) (v : BitVec 256) (h : Header) : State × (Nat × Nat) × Option LearnReq × Bool :=
  let hits := fdbFind s (fdbKey fid h.sa)
  let act := match hits with
    | [] => (0, 0)
    | i :: _ => (fld (fdbEntry s i) 122 121, fld (fdbEntry s i) 120 118)
  let port := bridgePort s p
  let here := match hits with
    | [] => false
    | i :: _ => fld (fdbEntry s i) 88 82 == port
  let s := if here then touchFdb s hits else s
  let stp := portCfg s p 25 24
  if here || bit h.sa 40 || !flag v 254 || portCfg s p 30 30 != 1 || !rdBit s Reg.fdbCtrl [] 0 || decide (stp < 2) then
    (s, act, none, false)
  else if hits.isEmpty && atLimit s port then (countPipe s port 6 1, act, none, portCfg s p 29 29 == 1)
  else (s, act, some ⟨fid, BitVec.ofNat 48 h.sa, port, !hits.isEmpty⟩, false)

/-- The destination hit's refresh (R142). -/
def refreshDa (s : State) (fid : Nat) (h : Header) : State :=
  if rdBit s Reg.fdbCtrl [] 2 then touchFdb s (fdbFind s (fdbKey fid h.da)) else s

/-- The stricter of SA_ACT and DA_ACT (R125): drop, punt, copy, forward; with the punt class of the one that wins. -/
def stricter (sa da : Nat × Nat) : Nat × Nat :=
  let rank (a : Nat) : Nat := if a = 1 then 3 else if a = 2 then 2 else if a = 3 then 1 else 0
  if rank da.1 < rank sa.1 then sa else da

/-! ### PTP messages (R262) -/

/-- The PTP message in a frame: its offset and TRANSPORT. -/
def ptpAt (h : Header) : Option (Nat × Nat) :=
  h.ptpAt.map fun o => (o, if h.ipv4 then 1 else if h.ipv6 then 2 else 0)

/-- The configuration half of PTP context (p, t). -/
def ptpCfg (s : State) (p t : Nat) : BitVec 256 := get 0 s.time.ctx (p * 4 + t)

/-- TRANSPORT of a context, where 3 acts as 0. -/
def ptpTransport (cfg : BitVec 256) : Nat := if fld cfg 252 251 = 3 then 0 else fld cfg 252 251

/-- The TB whose context on port `p` matches a message at offset `o` (R262). -/
def ptpMatch (s : State) (p : Nat) (b : List Byte) (o transport : Nat) : Option Nat :=
  if 80 ≤ p then none
  else (List.range 4).find? fun t =>
    let cfg := ptpCfg s p t
    flag cfg 255 && ptpTransport cfg == transport && fld cfg 247 240 == byteAt b (o + 4) &&
      fld cfg 231 220 == byteAt b o / 16 * 256 + byteAt b (o + 5)

/-- A message type that the engine handles. -/
def ptpHandled (ty : Nat) : Bool := ty ≤ 3 || (8 ≤ ty && ty ≤ 10)

/-! ### Cut-through conditions (Table 8-6) -/

/-- Egress `e` sends VLAN `vid` untagged (R121). -/
def untagged (s : State) (e vid : Nat) : Bool := flag (vlanEntry s vid) (96 + e)

/-- Bytes that egress `e` adds to a frame: a VLAN tag, an R-TAG, a pair's tag or trailer. -/
def addedBytes (s : State) (x : Frame) (h : Header) (e : Nat) (gen : Bool) (pair : Bool) : Nat :=
  (if !x.tagged && !untagged s e x.vid then 4 else 0) + (if gen && h.rtag.isNone then 6 else 0) + (if pair then 6 else 0)

/-- The conditions that a copy to egress `e` in queue `q` meets from the header on: 1, 2, 3, 5, 6 and 7. A trunk's
leaves carry their length, so a frame is stored before it leaves by a trunk. -/
def mayCut (s : State) (x : Frame) (e q added : Nat) (held : Bool) : Bool :=
  decide (e < 80) && (portGroup s e).isNone && rdBit s Reg.schedPortCfg [e] 31 && !halfDuplex s e &&
    decide (portRate s e ≤ portRate s x.inPort ∧ x.mru + added ≤ mtu s e) && !held &&
    (longestWindow s e (gateClass s q x)).all fun w => passes s e (declaredLength x) w

/-- The queue of a copy to local port `e`: the stream's own queue where the port owns it (R175), else the class queue. -/
def copyQueue (s : State) (x : Frame) (e : Nat) : Nat :=
  if x.stream.isSome ∧ flag x.cfg 215 ∧ queuePort s (fld x.cfg 233 216) = e then fld x.cfg 233 216 else e * 8 + x.cls

end Sys2Proof.Machine
end

