-- ==== Sys2Proof/Machine/Decide.lean ====
section
/-! DEFINITION. Which queue sends next: cut-through at dequeue, eligibility, and the decision of a port (R149, R215 to R219,
R225, R226, R234). -/
namespace Sys2Proof.Machine

/-- A frame of class `c` and length `len` is sent: the credit falls by (L + OVH) × (1 − slope / R). -/
def spendCredit (s : State) (p c len : Nat) : State :=
  if shaped s p c then
    let r := portRate s p
    let x := portSched s p
    let cost : Int := ((len + rd s Reg.schedPortCfg [p] 21 16) * 100000 * (r * 1000 - rd s Reg.schedCbs [p, c] 23 0 * 64)
      / (r * 1000) : Nat)
    putPortSched s p { x with credit := x.credit.set c (x.credit.getD c 0 - cost) }
  else s

/-! ### Eligibility and the decision (R215 to R217) -/

/-- The copy `c` of frame `x` at the head of queue `q` may cut through, judged at its dequeue (R149): conditions 1 to 3 and 5
to 7 of Table 8-6. A copy to the host or to a VOQ, and a truncated mirror copy, is sent whole. -/
def copyCuts (s : State) (q : Nat) (c : Copy) (x : Frame) : Bool :=
  let e := queuePort s q
  if c.mirror then c.trunc == 0 && mayCut s x e q 0 x.holdWhole
  else if c.passLane.isSome then mayCut s x e q 0 false
  else queueUse s q != 3 && c.punt.isNone &&
    mayCut s x e q (addedBytes s x (parse x.bytes) e x.genSeq.isSome c.pair.isSome) x.holdWhole

/-- The bytes received of a frame, at least 64, are all in its cells (R69). -/
def cutReady (x : Frame) : Bool := decide (64 ≤ x.bytes.length ∧ x.bytes.length ≤ x.cells * 256)

/-- The head copy of queue `q` may begin: its frame is stored, or the copy may cut through (R69, R149). -/
def copyReady (s : State) (q : Nat) (c : Copy) : Bool :=
  match frame s c.frame with
  | none => false
  | some x => !x.bad && x.head.isSome && (x.whole || (cutReady x && copyCuts s q c x))

/-- The length by which a gate judges a copy: what it declares where it cuts through, else the stored length (R225). -/
def gateLength (x : Frame) : Nat := if x.whole then x.length else declaredLength x

/-- GATE_WAIT of queue `q`: the head frame does not fit its remaining window. -/
def gateWait (s : State) (q : Nat) : Bool :=
  match (queue s q).copies with
  | [] => false
  | c :: _ => match frame s c.frame with
    | none => false
    | some x =>
      let p := queuePort s q
      (remaining s p (gateClass s q x)).any fun w => !passes s p (gateLength x) w

/-- R215 for a queue. -/
def eligible (s : State) (q : Nat) : Bool :=
  match (queue s q).copies with
  | [] => false
  | c :: _ => copyReady s q c && !heldHead s q && decide (0 ≤ queueBalance s q) && !gateWait s q && (find s.sched.xoff q).isNone

/-- The eligible queues of class node (p, c), in ascending order; none while the node itself is not eligible. -/
def eligibleOf (s : State) (p c : Nat) : List Nat :=
  if linkUp s p && !classHeld s p c && (!shaped s p c || decide (0 ≤ (portSched s p).credit.getD c 0)) then
    (members s p c).filter (eligible s)
  else []

/-- The stored length of the frame at the head of queue `q`. -/
def headLength (s : State) (q : Nat) : Nat :=
  match (queue s q).copies with
  | [] => 0
  | c :: _ => ((frame s c.frame).map (·.length)).getD 0

/-- The round of R217 over `order`: each member has its head's length, its deficit and its quantum. Answers the member
served and the deficits with the quanta that their turns began with. A member whose turn has begun sends again while
its head is no longer than its deficit. -/
def drrRound (order : List Nat) (len quantum : Nat → Nat) : Nat → List Nat → (Nat → Nat) → Option (Nat × (Nat → Nat))
  | 0, _, _ => none
  | fuel + 1, [], d => if order = [] then none else drrRound order len quantum fuel order d
  | fuel + 1, m :: rest, d =>
    let d' := fun k => if k = m then d k + quantum m else d k
    if len m ≤ d' m then some (m, d') else drrRound order len quantum fuel rest d'

/-- The member served: the one whose turn runs, else those after it in the round order. -/
def drr (order : List Nat) (turn : Option Nat) (after : Nat → Nat → Bool) (len quantum deficit : Nat → Nat) :
    Option (Nat × (Nat → Nat)) :=
  let fuel := order.length * 170 + order.length + 1
  match turn with
  | some t =>
    if order.contains t ∧ len t ≤ deficit t then some (t, deficit)
    else drrRound order len quantum fuel (order.filter (after t)) deficit
  | none => drrRound order len quantum fuel order deficit

/-- The quantum of queue `q`, in bytes. -/
def queueQuantum (s : State) (q : Nat) : Nat := max 1 (fld (queueCfg s q) 199 184) * 64

/-- The quantum of class `c` at port `p`, in bytes. -/
def classQuantum (s : State) (p c : Nat) : Nat :=
  max 1 (if c % 2 = 1 then rd s Reg.schedClsQuantum [p, c / 2] 31 16 else rd s Reg.schedClsQuantum [p, c / 2] 15 0) * 64

/-- The queue that class `c` serves next, with the deficits of its round. -/
def pickQueue (s : State) (p c : Nat) : Option (Nat × (Nat → Nat)) :=
  drr (eligibleOf s p c) ((portSched s p).queueTurn.getD c none) (fun t q => decide (t < q)) (headLength s)
    (queueQuantum s) fun q => (queue s q).deficit

/-- The frame at the head of `q` is charged to the round of class `c`: the deficits of the round, the turn, and the
queue's own deficit, lost when it empties. -/
def chargeRound (s : State) (p c q : Nat) (d : Nat → Nat) : State :=
  let s := (eligibleOf s p c).foldl (fun s k => putQueue s k { queue s k with deficit := d k }) s
  let x := queue s q
  let s := putQueue s q { x with deficit := if x.copies.length ≤ 1 then 0 else x.deficit - headLength s q }
  let y := portSched s p
  putPortSched s p { y with queueTurn := y.queueTurn.set c (some q) }

/-- One decision of port `p` (R216): the queue that sends, with every deficit charged. -/
def decideQueue (s : State) (p : Nat) : Option (Nat × Nat × State) :=
  let sp := rd s Reg.schedPortCfg [p] 7 0
  let down := [7, 6, 5, 4, 3, 2, 1, 0]
  match (down.filter (bit sp)).findSome? fun c => (pickQueue s p c).map fun x => (c, x) with
  | some (c, q, d) => some (c, q, chargeRound s p c q d)
  | none =>
    let order := (down.filter fun c => !bit sp c).filter fun c => (pickQueue s p c).isSome
    let len (c : Nat) := ((pickQueue s p c).map fun x => headLength s x.1).getD 0
    match drr order (portSched s p).classTurn (fun t c => decide (c < t)) len (classQuantum s p)
        fun c => (portSched s p).classDeficit.getD c 0 with
    | none => none
    | some (c, cd) =>
      match pickQueue s p c with
      | none => none
      | some (q, d) =>
        let used := len c
        let last := decide (((members s p c).map fun k => (queue s k).copies.length).sum ≤ 1)
        let s := chargeRound s p c q d
        let x := portSched s p
        let ds := (List.range 8).map fun k =>
          if k = c then (if last then 0 else cd c - used)
          else if members s p k = [] then 0 else if order.contains k then cd k else x.classDeficit.getD k 0
        some (c, q, putPortSched s p { x with classTurn := some c, classDeficit := ds })

end Sys2Proof.Machine
end

