-- ==== Sys2Proof/Machine/Egress.lean ====
section
/-! DEFINITION. What a frame looks like when it leaves: tags and trailers (R70, R121, R166, R168, R173), mirror copies
(R113), and the transparent-clock correction (R257 to R261). -/
namespace Sys2Proof.Machine

/-! ### Bytes of a copy -/

/-- A frame's bytes without its FCS. -/
def unclosed (bs : List Byte) : List Byte := bs.take (bs.length - 4)

/-- The received R-TAG does not leave: STRIP after recovery (R168). -/
def strips (x : Frame) : Bool := x.stream.isSome && flag x.cfg 148 && flag x.cfg 122

/-- The frame without the PRP trailer or HSR tag that a pair received it with (R173). -/
def unpaired (s : State) (x : Frame) (b : List Byte) : List Byte :=
  match pairOf s x.inPort with
  | none => b
  | some q =>
    if q < 4 then (if (parse b).hsr.isSome then cutOut b (parse b).tagEnd 6 else b)
    else if (prpTrailer b).isSome then b.take (b.length - 6) else b

/-- The R-TAG stripped, rewritten or inserted (R166, R168). -/
def resequenced (x : Frame) (b : List Byte) : List Byte :=
  let h := parse b
  let b := if strips x && h.rtag.isSome then cutOut b h.tagEnd 6 else b
  match x.genSeq with
  | none => b
  | some n =>
    let h := parse b
    if h.rtag.isSome then patch b (h.tagEnd + 4) (toBytes 2 n.toNat) else insertAt b h.tagEnd (rtagBytes n)

/-- The VLAN tag that egress `e` gives the frame (R121): a frame received untagged or with VID 0 carries its class as PCP
and DEI 0, and one received tagged keeps its own. -/
def retagged (s : State) (x : Frame) (e : Nat) (b : List Byte) : List Byte :=
  let b := if x.tagged then cutOut b 12 4 else b
  if untagged s e x.vid then b else insertAt b 12 (tagBytes (portTpid s e) x.pcp x.dei x.vid)

/-- The pair's tag or trailer on lane `lane` of pair `q` with number `n`; PRP pads first, so that the trailer stands
before the FCS after any padding (R173). -/
def pairTagged (s : State) (q lane : Nat) (n : BitVec 16) (b : List Byte) : List Byte :=
  if q < 4 then
    let o := (parse b).tagEnd
    insertAt b o (hsrBytes (rd s Reg.strmHsrCfg [q] 29 27 * 2 + lane) (b.length - o + 4) n)
  else
    let b := padTo 60 b
    b ++ prpBytes (0xA + lane) (prpLsdu b + 6) n

/-- A copy's bytes at egress `e`, without FCS and before any PTP correction. A mirror copy and an HSR pass-through copy
leave as received. -/
def sentBody (s : State) (x : Frame) (c : Copy) (e : Nat) : List Byte :=
  let b := unclosed x.bytes
  if c.mirror || c.passLane.isSome then b
  else
    let b := retagged s x e (resequenced x (unpaired s x b))
    match c.pair with
    | none => b
    | some (q, n) => pairTagged s q (bnat ((pairPorts s q).headD e != e)) n b

/-- The length of a mirror copy: TRUNC where the frame is longer, TRUNC 0 aside. -/
def mirrorLength (n trunc : Nat) : Nat := if trunc ≠ 0 then min trunc n else n

/-- The length, FCS included, that a frame of known length will have at egress `e` (R68, R166): with the R-TAG that it is given
after its tail, and as truncated where it is a mirror copy. -/
def sentLength (s : State) (x : Frame) (h : Header) (c : Copy) (e : Nat) : Nat :=
  if c.mirror then mirrorLength x.length c.trunc
  else if c.passLane.isSome then x.length
  else
    let gone := (if x.tagged then 4 else 0) + (if strips x && h.rtag.isSome then 6 else 0) +
      (if (pairOf s x.inPort).any (· < 4) && h.hsr.isSome then 6 else 0)
    let kept := h.rtag.isSome && !strips x
    let numbered := x.stream.isSome && flag x.cfg 149
    let come := (if untagged s e x.vid then 0 else 4) + (if numbered && !kept then 6 else 0)
    let n := max 64 (x.length - gone + come)
    if c.pair.isSome then n + 6 else n

/-- A mirror copy: the bytes as received, or the first TRUNC of them with a recomputed FCS (R113). TRUNC counts the
bytes of the copy, its FCS included. -/
def mirrored (bs : List Byte) (trunc : Nat) : List Byte :=
  if trunc ≠ 0 ∧ trunc < bs.length then
    let b := bs.take (trunc - 4)
    b ++ fcsBytes b
  else bs

/-! ### Transparent-clock correction -/

/-- The TB that TIME_DOMAIN_MAP assigns to a domain; the lowest valid entry counts (R260). -/
def domainTb (s : State) (d : Nat) : Option Nat :=
  ((List.range 8).find? fun i => rdBit s Reg.timeDomainMap [i] 31 && rd s Reg.timeDomainMap [i] 7 0 == d).map fun i =>
    rd s Reg.timeDomainMap [i] 25 24

/-- Residence in 2⁻¹⁶ ns (R260); FREQ counts 2⁻¹² × 10⁻⁹. -/
def residence (s : State) (d : Nat) (arrived left : Stamp) : Int :=
  let x : Int := left.dt - arrived.dt
  match domainTb s d with
  | none => x
  | some t => x + x * (tb s t).freq / 4096000000000

/-- MEAN_DELAY of a context: the mean of the delays that it keeps. -/
def meanDelay (x : PtpState) : Int := if x.delays = [] then 0 else x.delays.sum / (x.delays.length : Int)

/-- ASYM of a context in 2⁻¹⁶ ns. -/
def asymFrac (cfg : BitVec 256) : Int := signed (fld cfg 181 162) 20 * 4096

/-- The context of port `p` that serves domain `d`, where the port has one in use. -/
def linkContext (s : State) (p d : Nat) : Option Nat := (domainTb s d).filter fun t => flag (ptpCfg s p t) 255

/-- Ingress link delay and ASYM for a message of domain `d` from port `p` (Table 9-5): a trunk's measured delay, or that of
the port's context, counting TC_NO_PDELAY where it runs no Pdelay. -/
def linkDelay (s : State) (p d : Nat) : State × Int :=
  let c := if p < 80 then linkContext s p d else none
  let asym := (c.map fun t => asymFrac (ptpCfg s p t)).getD 0
  match portGroup s p with
  | some g => (s, rd s Reg.izlGrpDelay [g] 31 0 * 4096 + asym)
  | none =>
    match c.filter fun t => flag (ptpCfg s p t) 250 && fld (ptpCfg s p t) 254 253 != 0 with
    | some t => (s, meanDelay (ptp s (p * 4 + t)) + asym)
    | none => (bump s Ctr.time [] 3 1, asym)

/-- `add` written into the correctionField of the message at offset `o`, with the UDP checksum repaired (R257, R261). -/
def correctField (s : State) (b : List Byte) (h : Header) (o : Nat) (add : Int) : State × List Byte :=
  let v := signed (field b (o + 8) 8) 64 + add
  let top : Int := 2 ^ 63 - 1
  let s := if top < v then bump s Ctr.time [] 2 1 else s
  let summed := h.ipv6 || (h.ipv4 && field b (o - 2) 2 != 0)
  (bump s Ctr.time [] 0 1, repaired b (if summed then some (o - 2) else none) (o + 8) (toBytes 8 (unsigned (min top v) 64)))

/-- A record stands for 1 s from when it was made (R258). -/
def TcRecord.stands (s : State) (r : TcRecord) : Bool := decide (s.time.dt < r.madeAt + 800000000)

/-- The two-step records of port `e` that have not lapsed. -/
def tcRecords (s : State) (e : Nat) : List TcRecord := (get [] s.time.records e).filter (TcRecord.stands s)

/-- A record made; with 64 in the table it replaces the oldest (R258). -/
def putTcRecord (s : State) (e : Nat) (r : TcRecord) : State :=
  let l := (tcRecords s e).filter fun x => !(x.identity == r.identity && x.domain == r.domain && x.seq == r.seq)
  let l := if 64 ≤ l.length then l.drop (l.length - 63) else l
  { s with time := { s.time with records := put s.time.records e (l ++ [r]) } }

/-- A forwarded PTP message leaves front port `e`: its bytes corrected by Table 9-5. -/
def ptpCorrect (s : State) (x : Frame) (e : Nat) (left : Stamp) (b : List Byte) : State × List Byte :=
  let mode := if rd s Reg.timePortTc [e] 1 0 = 3 then 1 else rd s Reg.timePortTc [e] 1 0
  let h := parse b
  match h.ptpAt with
  | none => (s, b)
  | some o =>
    if 80 ≤ e ∨ mode = 0 ∨ b.length < o + 34 then (s, b)
    else
      let d := byteAt b (o + 4)
      let res := residence s d x.stamp left
      let whole (s : State) : State × Int :=
        if mode = 2 then
          let (s, n) := linkDelay s x.inPort d
          (s, res + n)
        else (s, res)
      let id := field b (o + 20) 10
      let seq := field b (o + 30) 2
      match byteAt b o % 16 with
      | 0 =>
        let (s, n) := whole s
        if bit (byteAt b (o + 6)) 1 then
          (putTcRecord s e { identity := id, domain := d, seq := seq, residence := n, madeAt := s.time.dt }, b)
        else correctField s b h o n
      | 8 =>
        match (tcRecords s e).find? fun r => r.identity == id && r.domain == d && r.seq == seq with
        | none => (bump s Ctr.time [] 1 1, b)
        | some r =>
          let l := (tcRecords s e).filter (· != r)
          correctField { s with time := { s.time with records := set [] s.time.records e l } } b h o r.residence
      | 1 => if mode = 1 then correctField s b h o res else (s, b)
      | 2 => if mode = 1 then correctField s b h o res else (s, b)
      | 3 => if mode = 1 then correctField s b h o res else (s, b)
      | _ => (s, b)

/-! ### Frames that leave a port -/

/-- Queue counters of a frame sent (Table 8-7). -/
def countQueue (s : State) (q n : Nat) : State := bump (bump s Ctr.queue [q] 0 1) Ctr.queue [q] 1 n

/-- An Accord cluster injected the frame. -/
def fromAccord (x : Frame) : Bool := decide (80 ≤ x.inPort ∧ x.inPort < 88)

/-- A frame as an egress reads it: one with an uncorrectable cell is stomped (R499). -/
def readOut (x : Frame) (b : List Byte) : List Byte := if x.spoiled then unclosed b ++ stompBytes (unclosed b) else b

/-- The bytes that port `e` sends for a whole, good copy: corrected, padded and closed. -/
def wireBytes (s : State) (x : Frame) (c : Copy) (e : Nat) (left : Stamp) : State × List Byte :=
  if c.mirror then (s, readOut x (mirrored x.bytes c.trunc))
  else
    let (s, b) := ptpCorrect s x e left (sentBody s x c e)
    (s, readOut x (closed b))

/-- The transmission `y` of port `e` is over, with its last bit at tick `t`: no credit of its class has grown meanwhile
(R219). -/
def clearLine (s : State) (e : Nat) (y : Sending) (t : Nat) : State :=
  let s := settleCredit s e
  let s := if shaped s e y.cls then
      let x := portSched s e
      putPortSched s e { x with creditAt := x.creditAt.set y.cls t }
    else s
  let s := if e < 80 then putPort s e { port s e with activeAt := max t (port s e).activeAt } else s
  { s with sched := { s.sched with sending := drop s.sched.sending e } }

/-- A whole copy leaves line port `e`. -/
def sendCopy (s : State) (x : Frame) (y : Sending) (e : Nat) : State :=
  let (s, b) := wireBytes s x y.copy e y.stamp
  let s := countQueue s y.queue b.length
  sendBytes (countTx s e b.length (field b 0 6) (!x.spoiled)) e (fromAccord x) y.stamp b

/-- The bytes that a transmission begun `ticks` ago at `rate` Mb/s has sent after its 8 bytes of preamble. -/
def sentSoFar (ticks rate : Nat) : Nat := ticks * rate / 6400 - 8

/-- The transmission `y` of port `e` no longer stands, though part of it has left: its delay is that of its egress stamp
(R238), and its reference is released. -/
def endCut (s : State) (e : Nat) (y : Sending) : State :=
  releaseCopy (noteDelay (clearLine s e y s.time.dt) y.queue y.copy y.stamp.dt) y.copy

/-- A transmission of a frame that proved bad ends (R66): with a stomp once its first bit has left, else without a
trace. -/
def stompSending (s : State) (e : Nat) (x : Frame) (y : Sending) : State :=
  if y.startedAt < s.time.dt ∧ (port s e).backingOff = none then
    let body := (ptpCorrect s x e y.stamp (sentBody s x y.copy e)).2
    let sent := body.take (min body.length (sentSoFar (s.time.dt - y.startedAt) (portRate s e)))
    let b := sent ++ stompBytes sent
    let s := countTx (countQueue s y.queue b.length) e b.length (field b 0 6) false
    endCut (sendBytes s e (fromAccord x) y.stamp b) e y
  else releaseCopy (clearLine s e y s.time.dt) y.copy

/-- Every transmission of frame `f` that is in progress ends so. -/
def stompFrame (s : State) (f : Nat) : State :=
  match frame s f with
  | none => s
  | some x => (s.sched.sending.filter fun e => e.2.frame == f).foldl (fun s e => stompSending s e.1 x e.2) s

/-- A frame proves bad, or loses its cells: those who send it stomp it, and no copy of it begins any more (R66, R208). -/
def abortFrame (s : State) (f : Nat) : State := discardFrame (stompFrame s f) f

end Sys2Proof.Machine
end

