-- ==== Sys2Proof/Machine/Ptp.lean ====
section
/-! DEFINITION. The PTP message engine: port contexts, the messages that it sends and those that it consumes (R258, R262
to R268). Message layouts are those of IEEE 1588 and IEEE 802.1AS, which the spec names. -/
namespace Sys2Proof.Machine

/-! ### Contexts (Table 9-6, R263) -/

def ptpRole (cfg : BitVec 256) : Nat := fld cfg 254 253

/-- The context is in use. -/
def ptpOn (cfg : BitVec 256) : Bool := flag cfg 255

/-- The configuration bits that are stored. -/
def ptpMask : BitVec 256 := BitVec.ofNat 256 (2 ^ 256 - 2 ^ 146)

/-- The configuration that a later write is judged against: the one that waits, else the one in force. -/
def ptpLatest (s : State) (p t : Nat) : BitVec 256 :=
  match find s.time.ctxWait (p * 4 + t) with
  | some (c, _) => c
  | none => ptpCfg s p t

/-- Sync messages that a MASTER context sends in 16 s. -/
def syncRate (cfg : BitVec 256) : Nat :=
  if ptpOn cfg ∧ ptpRole cfg = 1 then 2 ^ (4 - signed (fld cfg 239 236) 4).toNat else 0

/-- LOG_SYNC or LOG_DELAY lies within −7 to 4. -/
def logInRange (x : Nat) : Bool := decide (-7 ≤ signed x 4 ∧ signed x 4 ≤ 4)

/-- Port `p` is a populated port's forwarding port. -/
def forwardingPort (s : State) (p : Nat) : Bool :=
  if p < 48 then isHPort s p || (popBit s (p / 8) && (portGroup s p).isSome) else isCPort s (p - 48)

/-- The reason that refuses a context write, 0 for none (Table 9-7). -/
def ptpRefusal (s : State) (p t : Nat) (cfg : BitVec 256) : Nat :=
  let others := ((List.range 4).filter (· != t)).map (ptpLatest s p)
  if !forwardingPort s p then 1
  else if ptpOn cfg && others.any fun o => ptpOn o && ptpTransport o == ptpTransport cfg &&
      fld o 247 240 == fld cfg 247 240 && fld o 231 220 == fld cfg 231 220 then 2
  else if flag cfg 248 && (!flag cfg 250 || ptpTransport cfg != 0) then 3
  else if 128 * 16 < syncRate cfg + (others.map syncRate).sum then 4
  else if !logInRange (fld cfg 239 236) || !logInRange (fld cfg 235 232) then 5
  else 0

/-- A context write lands: it waits for MS, or is refused. -/
def ptpContextWrite (s : State) (req : Requester) (p t : Nat) (cfg : BitVec 256) : State :=
  if standsBy s req (some 5) then bump s Ctr.twin [] 6 1
  else match ptpRefusal s p t cfg with
    | 0 =>
      let c := cfg &&& ptpMask
      let s := { s with time := { s.time with ctxWait := put s.time.ctxWait (p * 4 + t) (c, s.time.dt) } }
      mirror s 5 (0x5800020 + (p * 4 + t) * 64) (wordsOf 8 c)
    | r =>
      let s := countEvent s Reg.timeRefuseCnt []
      putWord s Reg.timeRefuseLast [] (BitVec.ofNat 32 (r * 2 ^ 16 + p * 4 + t))

/-- 2^LOG seconds in ticks, for LOG_SYNC and LOG_DELAY. -/
def logTicks (x : Nat) : Nat := 6250000 * 2 ^ (signed x 4 + 7).toNat

/-- The Sync interval of a context in ticks, and that of its Delay_Req or Pdelay_Req. -/
def syncTicks (cfg : BitVec 256) : Nat := logTicks (fld cfg 239 236)

def delayTicks (cfg : BitVec 256) : Nat := logTicks (fld cfg 235 232)

/-- The next Delay_Req of context `c` is due after an interval drawn uniformly from 0 to 2 × 2^LOG_DELAY seconds, while the
context is a SLAVE with DELAY_MECH 0 (R265). -/
def armDelay (s : State) (c : Nat) : State :=
  let cfg := get 0 s.time.ctx c
  if ptpOn cfg ∧ ptpRole cfg = 2 ∧ !flag cfg 250 then
    let (s, n) := draw s (32 + c)
    putPtp s c { ptp s c with delayAt := some (s.time.dt + n % (2 * delayTicks cfg + 1)) }
  else putPtp s c { ptp s c with delayAt := none }

/-- The configurations that wait and that `due` selects are put in force (MS). -/
def applyContexts (s : State) (due : Nat → Bool) : State :=
  let l := s.time.ctxWait.filter fun e => due e.2.2
  let s := { s with time := { s.time with ctxWait := s.time.ctxWait.filter fun e => !due e.2.2 } }
  l.foldl (fun s e => armDelay { s with time := { s.time with ctx := set 0 s.time.ctx e.1 e.2.1 } } e.1) s

/-! ### Messages that the engine sends (R265, R266) -/

/-- sourcePortIdentity: TIME_TB_CLOCK_ID with PORT_NUMBER. -/
def portIdentity (s : State) (t : Nat) (cfg : BitVec 256) : List Byte :=
  toBytes 4 (rd s Reg.timeTbClockIdHi [t] 31 0) ++ toBytes 4 (rd s Reg.timeTbClockIdLo [t] 31 0) ++ toBytes 2 (fld cfg 219 204)

/-- logMessageInterval (IEEE 1588, Table 42). -/
def logInterval (cfg : BitVec 256) (ty : Nat) : Nat :=
  if ty = 0 ∨ ty = 8 then unsigned (signed (fld cfg 239 236) 4) 8
  else if ty = 9 then unsigned (signed (fld cfg 235 232) 4) 8
  else 0x7F

/-- controlField (IEEE 1588, Table 23). -/
def controlField (ty : Nat) : Nat := if ty = 0 then 0 else if ty = 1 then 1 else if ty = 8 then 2 else if ty = 9 then 3 else 5

/-- A PTP message of type `ty` with its 34-byte header. The engine sets twoStepFlag itself. -/
def ptpMessage (s : State) (t : Nat) (cfg : BitVec 256) (ty seq : Nat) (two : Bool) (corr : Int) (body : List Byte) :
    List Byte :=
  let flags := setFld (BitVec.ofNat 16 (fld cfg 161 146)) 9 9 (bnat two)
  [BitVec.ofNat 8 (fld cfg 231 228 * 16 + ty), 2] ++ toBytes 2 (34 + body.length) ++ toBytes 1 (fld cfg 247 240)
    ++ toBytes 1 (fld cfg 227 220) ++ toBytes 2 flags.toNat ++ toBytes 8 (unsigned corr 64) ++ toBytes 4 0
    ++ portIdentity s t cfg ++ toBytes 2 seq ++ toBytes 1 (controlField ty) ++ toBytes 1 (logInterval cfg ty) ++ body

/-- Peer-delay messages and PROFILE 1 take the link-local addresses (R266). -/
def linkLocalMessage (cfg : BitVec 256) (ty : Nat) : Bool := flag cfg 248 || ty == 2 || ty == 3 || ty == 10

/-- The UDP datagram of a message; events leave by port 319 and general messages by 320. -/
def ptpUdp (ty : Nat) (pseudo msg : List Byte) : List Byte :=
  let port := if ty < 4 then 319 else 320
  let h := toBytes 2 port ++ toBytes 2 port ++ toBytes 2 (8 + msg.length)
  let c := checksum (pseudo ++ toBytes 2 17 ++ toBytes 2 (8 + msg.length) ++ h ++ [0, 0] ++ msg) 0
  h ++ toBytes 2 (if c = 0 then 65535 else c) ++ msg

/-- The frame, without FCS, that carries a message from port `p`. Identification, flow label and time to live, which the
spec leaves open, come from the free value `w`. -/
def ptpFrame (s : State) (p : Nat) (cfg : BitVec 256) (ty : Nat) (w : BitVec 64) (msg : List Byte) : List Byte :=
  let ll := linkLocalMessage cfg ty
  let tag := if flag cfg 203 then tagBytes (portTpid s p) (fld cfg 202 200) false (fld cfg 199 188) else []
  let src := toBytes 6 (sourceMac s p)
  let tos := fld cfg 187 182 * 4
  match ptpTransport cfg with
  | 1 =>
    let from4 := toBytes 4 (rd s Reg.timeIpv4Src [] 31 0)
    let to4 := if ll then [224, 0, 0, 107] else [224, 0, 1, 129]
    let udp := ptpUdp ty (from4 ++ to4) msg
    let h := [0x45] ++ toBytes 1 tos ++ toBytes 2 (20 + udp.length) ++ toBytes 2 (fld w 23 8) ++ [0, 0]
      ++ toBytes 1 (fld w 7 0) ++ [17]
    let ip := h ++ toBytes 2 (checksum (h ++ [0, 0] ++ from4 ++ to4) 0) ++ from4 ++ to4
    [0x01, 0x00, 0x5E, 0x00] ++ (if ll then [0x00, 0x6B] else [0x01, 0x81]) ++ src ++ tag ++ [0x08, 0x00] ++ ip ++ udp
  | 2 =>
    let from6 := (List.range 4).flatMap fun k => toBytes 4 (rd s Reg.timeIpv6Src [k] 31 0)
    let to6 : List Byte := if ll then [0xFF, 0x02] ++ List.replicate 13 0 ++ [0x6B]
      else [0xFF, 0x0E] ++ List.replicate 12 0 ++ [0x01, 0x81]
    let udp := ptpUdp ty (from6 ++ to6) msg
    let ip := toBytes 4 (6 * 2 ^ 28 + tos * 2 ^ 20 + fld w 43 24) ++ toBytes 2 udp.length ++ [17] ++ toBytes 1 (fld w 7 0)
      ++ from6 ++ to6
    [0x33, 0x33, 0x00, 0x00] ++ (if ll then [0x00, 0x6B] else [0x01, 0x81]) ++ src ++ tag ++ [0x86, 0xDD] ++ ip ++ udp
  | _ =>
    let dst : List Byte := if ll then [0x01, 0x80, 0xC2, 0x00, 0x00, 0x0E] else [0x01, 0x1B, 0x19, 0x00, 0x00, 0x00]
    dst ++ src ++ tag ++ [0x88, 0xF7] ++ msg

/-- Where the message stands in the frames of a context. -/
def messageAt (cfg : BitVec 256) : Nat :=
  14 + (if flag cfg 203 then 4 else 0) + (if ptpTransport cfg = 1 then 28 else if ptpTransport cfg = 2 then 48 else 0)

/-- A message of context (p, t) as a frame of the device's own, in the class of its tag's PCP; `keep` is what a Pdelay_Resp
keeps of its request. -/
def ownMessage (s : State) (p t ty seq : Nat) (two : Bool) (corr keep : Int) (body : List Byte) : State × OwnFrame :=
  let cfg := ptpCfg s p t
  (spend s, { use := .ptp (p * 4 + t) ty seq (messageAt cfg) (ptpTransport cfg != 0) two keep, cls := fld cfg 202 200,
              bytes := ptpFrame s p cfg ty (freeWord s) (ptpMessage s t cfg ty seq two corr body) })

/-- A message has left with egress stamp `st`: its context counts it and keeps the stamp that it needs (Table 9-8, R265,
R267). -/
def noteMessage (s : State) (o : OwnFrame) (st : Stamp) : State :=
  match o.use with
  | .control _ => s
  | .twin => s
  | .ptp c ty seq _ _ two _ =>
    let x := ptp s c
    match ty with
    | 0 => bump (putPtp s c { x with followUp := if two then some (seq, st) else none }) Ctr.ptp [c] 0 1
    | 1 => bump (putPtp s c { x with delayReq := some (seq, st) }) Ctr.ptp [c] 2 1
    | 2 => bump (putPtp s c { x with pdelayReq := some (seq, st), pdelayResp := none }) Ctr.ptp [c] 4 1
    | 3 => bump s Ctr.ptp [c] 5 1
    | 9 => bump s Ctr.ptp [c] 3 1
    | _ => s

/-- The Pdelay_Resp_Follow_Up of a Pdelay_Resp that has left with egress stamp `st`. -/
def respFollowUp (s : State) (o : OwnFrame) (st : Stamp) : State × Option OwnFrame :=
  match o.use with
  | .ptp c 3 seq k _ _ corr =>
    let t3 := st.tb.getD (c % 4) 0
    let who := (o.bytes.drop (k + 44)).take 10
    let (s, f) := ownMessage s (c / 4) (c % 4) 10 seq false (corr + subNano t3) 0 (timestampBytes t3 ++ who)
    (s, some f)
  | _ => (s, none)

/-- A frame of the engine leaves by trunk group `g` as a leaf, at once. -/
def leafOwn (s : State) (p g : Nat) (o : OwnFrame) : State :=
  let st := stampNow s
  let b := ownWire o st
  noteMessage (sendLeaf (digestSent s p false st b) g (frameLeaf b)) o st

/-- A frame of the engine is sent from port `p`. -/
def sendEngine (s : State) (p : Nat) (o : OwnFrame) : State :=
  match portGroup s p with
  | none => sendOwn s p o
  | some g =>
    match respFollowUp (leafOwn s p g o) o (stampNow s) with
    | (s, none) => s
    | (s, some f) => leafOwn s p g f

/-- A frame of the engine has left line port `p` with egress stamp `st`. -/
def messageSent (s : State) (p : Nat) (o : OwnFrame) (st : Stamp) : State :=
  match respFollowUp (noteMessage s o st) o st with
  | (s, none) => s
  | (s, some f) => sendOwn s p f

/-- A message of context (p, t) is sent. -/
def sendMessage (s : State) (p t ty seq : Nat) (two : Bool) (corr keep : Int) (body : List Byte) : State :=
  let (s, o) := ownMessage s p t ty seq two corr keep body
  sendEngine s p o

/-- A context that may send: in use, on a port whose link is up. -/
def maySend (s : State) (p t : Nat) : Bool := ptpOn (ptpCfg s p t) && linkUp s p

/-- Sync from context (p, t); its time is that of its egress stamp. -/
def sendSync (s : State) (p t : Nat) (two : Bool) : State :=
  let c := p * 4 + t
  let x := ptp s c
  let s := putPtp s c { x with syncSeq := (x.syncSeq + 1) % 65536, followUp := none, syncSentAt := some s.time.dt }
  sendMessage s p t 0 x.syncSeq two 0 0 (timestampBytes 0)

/-- SYNC_OK of context `c`: a Sync was accepted within the last three intervals. -/
def syncOk (s : State) (c : Nat) : Bool :=
  (ptp s c).lastSyncAt.any fun a => decide (s.time.dt ≤ a + 3 * syncTicks (get 0 s.time.ctx c))

/-- A relay's SLAVE context of TB `t` receives Syncs, which its MASTER contexts relay in place of their own (R267). -/
def relaying (s : State) (t : Nat) : Bool :=
  (List.range 80).any fun q =>
    let cfg := ptpCfg s q t
    ptpOn cfg && ptpRole cfg == 2 && flag cfg 248 && syncOk s (q * 4 + t)

/-- SYNC_TX: a MASTER context's TB passes a multiple of 2^LOG_SYNC seconds (R265). -/
def execSyncTx (p : Fin 80) (t : Fin 4) (el : Nat) (s : State) : Host.Outcome State Fault Refusal :=
  let s := advance el s
  let cfg := ptpCfg s p t
  let due := passesNow s t (syncTicks cfg * (5 * 4096000000000)) && (ptp s (p * 4 + t)).syncSentAt != some s.time.dt
  done (if maySend s p t && ptpRole cfg == 1 && due && !(flag cfg 248 && relaying s t) then sendSync s p t (!flag cfg 249)
    else s)

/-- The Follow_Up information TLV of IEEE 802.1AS with its cumulativeScaledRateOffset; the fields that the spec does not
state come from the free value `w`. -/
def followUpTlv (rate : Int) (w : BitVec 64) : List Byte :=
  [0x00, 0x03, 0x00, 0x1C, 0x00, 0x80, 0xC2, 0x00, 0x00, 0x01] ++ toBytes 4 (unsigned rate 32) ++ toBytes 18 w.toNat

/-- x in 2⁻⁴¹ applied to a duration. -/
def scaled (d x : Int) : Int := d + d * x / 2 ^ 41

/-- FOLLOW_UP_TX: the Follow_Up of the two-step Sync just sent, within 1 ms of it. A relay's carries the received origin and
the received correction with the slave's link delay, plus the residence in DT scaled by the rate ratio (R265, R267). -/
def execFollowUpTx (p : Fin 80) (t : Fin 4) (el : Nat) (s : State) : Host.Outcome State Fault Refusal :=
  let s := advance el s
  let c := p.val * 4 + t.val
  let x := ptp s c
  match x.followUp with
  | none => done s
  | some (seq, sent) =>
    if !maySend s p t ∨ sent.dt + fracPerMs < dtFrac s then done s
    else
      let w := freeWord s
      let tail := if flag (ptpCfg s p t) 248 then followUpTlv (if x.relay.isSome then x.rateOffset else 0) w else []
      let s := putPtp (spend s) c { x with followUp := none, relay := none }
      match x.relay with
      | some r =>
        let corr := r.correction + scaled ((sent.dt : Int) - r.received.dt) x.rateOffset
        done (sendMessage s p t 8 seq false corr 0 (timestampBytes r.origin ++ tail))
      | none =>
        let t1 := sent.tb.getD t 0
        done (sendMessage s p t 8 seq false (subNano t1) 0 (timestampBytes t1 ++ tail))

/-- RELAY_SYNC_TX: a MASTER context of a relay sends its Sync within 10 ms of the slave's (R267). -/
def execRelaySyncTx (p : Fin 80) (t : Fin 4) (el : Nat) (s : State) : Host.Outcome State Fault Refusal :=
  let s := advance el s
  let cfg := ptpCfg s p t
  let x := ptp s (p * 4 + t)
  let due := x.relay.isSome && x.syncSentAt.isNone && decide (s.time.dt ≤ x.relayAt + 8000000)
  done (if maySend s p t && ptpRole cfg == 1 && flag cfg 248 && due then sendSync s p t true else s)

/-- DELAY_REQ_TX: the random instant of a SLAVE context with DELAY_MECH 0 (R265). The originTimestamp is open. -/
def execDelayReqTx (p : Fin 80) (t : Fin 4) (el : Nat) (s : State) : Host.Outcome State Fault Refusal :=
  let s := advance el s
  let c := p.val * 4 + t.val
  let x := ptp s c
  if x.delayAt.any fun a => decide (a ≤ s.time.dt) then
    let s := armDelay s c
    if maySend s p t then
      let origin := toBytes 10 (freeWord s).toNat
      let s := putPtp (spend s) c { ptp s c with delaySeq := (x.delaySeq + 1) % 65536, delayReq := none }
      done (sendMessage s p t 1 x.delaySeq false 0 0 origin)
    else done s
  else done s

/-- PDELAY_REQ_TX: every 2^LOG_DELAY seconds of a context with DELAY_MECH 1 and ROLE other than DISABLED (R265). -/
def execPdelayReqTx (p : Fin 80) (t : Fin 4) (el : Nat) (s : State) : Host.Outcome State Fault Refusal :=
  let s := advance el s
  let c := p.val * 4 + t.val
  let cfg := ptpCfg s p t
  let x := ptp s c
  let due := x.pdelaySentAt.all fun a => decide (a + delayTicks cfg ≤ s.time.dt)
  if maySend s p t && ptpRole cfg != 0 && flag cfg 250 && due then
    let origin := toBytes 10 (freeWord s).toNat
    let s := putPtp (spend s) c
      { x with pdelaySeq := (x.pdelaySeq + 1) % 65536, pdelayReq := none, pdelayResp := none, pdelaySentAt := some s.time.dt }
    done (sendMessage s p t 2 x.pdelaySeq false 0 0 (origin ++ toBytes 10 0))
  else done s

/-! ### Messages that the engine consumes (R264, R267) -/

/-- Whether the limiter of port `p` and type `ty` admits one more message: 128 per second with a burst of 16. It holds a
debt of 6,250,000 ticks for each message. -/
def limiterAdmits (s : State) (p ty : Nat) : State × Bool :=
  let (debt, since) := get (0, 0) s.time.limiter (p * 16 + ty)
  let debt := debt - (s.time.dt - since)
  if 16 * 6250000 < debt + 6250000 then (s, false)
  else ({ s with time := { s.time with limiter := put s.time.limiter (p * 16 + ty) (debt + 6250000, s.time.dt) } }, true)

/-- The stamp's epoch of TB `t` is the current one (R253). -/
def sameEpoch (s : State) (t : Nat) (x : Stamp) : Bool := x.epochs.getD t 0 == (tb s t).epoch

/-- A timestamp field in 2⁻¹⁶ ns. -/
def timestampAt (b : List Byte) (o : Nat) : Int := ((field b o 6 * 1000000000 + field b (o + 6) 4) * 65536 : Nat)

/-- A correctionField. -/
def correctionAt (b : List Byte) (o : Nat) : Int := signed (field b (o + 8) 8) 64

/-- A delay measurement joins the last eight. -/
def PtpState.measured (x : PtpState) (d : Int) : PtpState := { x with delays := (d :: x.delays).take 8 }

/-- Rate offsets in 2⁻⁴¹ combined. -/
def combineRates (a b : Int) : Int := a + b + a * b / 2 ^ 41

/-- Every MASTER context of TB `t` in PROFILE 1 will relay a Sync that its slave context accepted. -/
def startRelay (s : State) (t : Nat) (h : SyncHalf) (rate : Int) : State :=
  (List.range 80).foldl (fun s q =>
    let cfg := ptpCfg s q t
    if ptpOn cfg && ptpRole cfg == 1 && flag cfg 248 then
      putPtp s (q * 4 + t) { ptp s (q * 4 + t) with relay := some h, rateOffset := rate, syncSentAt := none,
                                                    relayAt := s.time.dt }
    else s) s

/-- A SLAVE context accepts a Sync with its corrections: it counts, gives θ once a delay is known, and starts the
relay. -/
def acceptSync (s : State) (p t : Nat) (h : SyncHalf) (rate : Int) : State :=
  let c := p * 4 + t
  let cfg := ptpCfg s p t
  let x := ptp s c
  let x := { x with waiting := none, last := some h, syncSeq := h.seq, lastSyncAt := some s.time.dt }
  let s := putPtp (bump s Ctr.ptp [c] 1 1) c x
  let mean := meanDelay x
  let s := if flag cfg 248 then startRelay s t { h with correction := h.correction + mean } (combineRates rate x.nrr) else s
  if x.delays = [] then s
  else if !sameEpoch s t h.received then servoDiscard s
  else
    let theta := h.received.tb.getD t 0 - h.origin - h.correction - mean - asymFrac cfg
    let s := putPtp s c { x with offset := theta }
    if tbSource s t = 1 ∧ rd s Reg.timeTbCfg [t] 22 16 = p ∧ !followsTwin s t then servo s t theta else s

/-- MSG_DISCARD. -/
def discardMessage (s : State) (c : Nat) : State := bump s Ctr.ptp [c] 6 1

/-- The message names this context's port as the requester. -/
def forUs (s : State) (t : Nat) (cfg : BitVec 256) (b : List Byte) (o : Nat) : Bool :=
  (b.drop (o + 44)).take 10 == portIdentity s t cfg

/-- A Pdelay exchange completes: NRR from this and the exchange before, then the mean link delay corrected by it. `turn`
holds the responder's receive and send times; a one-step response gives only their difference, in its correction. -/
def pdelayDone (s : State) (p t : Nat) (sent back : Stamp) (turn : Option (Int × Int)) (corr : Int) : State :=
  let c := p * 4 + t
  let x := ptp s c
  let nrr := match turn, x.pdelayPrev with
    | some (_, t3), some (t3', at') =>
      if at' < back.dt then (t3 - t3') * 2 ^ 41 / ((back.dt : Int) - at') - 2 ^ 41 else x.nrr
    | _, _ => x.nrr
  let x := { x with pdelayReq := none, pdelayResp := none, pdelayPrev := turn.map fun r => (r.2, back.dt) }
  if !sameEpoch s t sent || !sameEpoch s t back then servoDiscard (putPtp s c x)
  else
    let d := (scaled ((back.dt : Int) - sent.dt) nrr - ((turn.map fun r => r.2 - r.1).getD 0) - corr) / 2
    putPtp s c { x.measured d with nrr := heldInt (-(2 ^ 31)) (2 ^ 31 - 1) nrr, lastPdelayAt := some s.time.dt }

/-- A Sync of context (p, t) received with stamp `h.received` has waited for more than one Sync interval (R267). -/
def followUpLate (s : State) (c : Nat) (h : SyncHalf) : Bool :=
  decide (h.received.dt + syncTicks (get 0 s.time.ctx c) * 81920 < dtFrac s)

/-- A message of type `ty` at offset `o` of a frame with ingress stamp `stamp`, at context (p, t). -/
def consume (s : State) (p t ty : Nat) (b : List Byte) (o : Nat) (stamp : Stamp) : State :=
  let c := p * 4 + t
  let cfg := ptpCfg s p t
  let x := ptp s c
  let seq := field b (o + 30) 2
  let corr := correctionAt b o
  let two := bit (byteAt b (o + 6)) 1
  match ty with
  | 0 =>
    let s := if x.waiting.isSome ∧ ptpRole cfg = 2 then discardMessage s c else s
    if ptpRole cfg ≠ 2 then discardMessage s c
    else
      let h : SyncHalf := { seq := seq, received := stamp, origin := timestampAt b (o + 34), correction := corr }
      if two then putPtp s c { x with waiting := some h } else acceptSync s p t h 0
  | 8 =>
    if ptpRole cfg ≠ 2 then discardMessage s c
    else match x.waiting.filter fun h => h.seq == seq with
      | none => s
      | some h =>
        if followUpLate s c h then discardMessage (putPtp s c { x with waiting := none }) c
        else
        let rate := if o + 58 ≤ b.length then signed (field b (o + 54) 4) 32 else 0
        acceptSync s p t { h with origin := timestampAt b (o + 34), correction := h.correction + corr } rate
  | 1 =>
    if ptpRole cfg = 1 ∧ maySend s p t then
      let body := timestampBytes (stamp.tb.getD t 0) ++ (b.drop (o + 20)).take 10
      sendMessage s p t 9 seq false corr 0 body
    else s
  | 9 =>
    match x.delayReq, x.last with
    | some (q, sent), some h =>
      if ptpRole cfg ≠ 2 ∨ q ≠ seq ∨ !forUs s t cfg b o then s
      else
        let s := putPtp s c { x with delayReq := none }
        if !sameEpoch s t sent || !sameEpoch s t h.received then servoDiscard s
        else
          let there := h.received.tb.getD t 0 - h.origin - h.correction
          let back := timestampAt b (o + 34) - sent.tb.getD t 0 - corr
          putPtp s c ({ x with delayReq := none }.measured ((there + back) / 2))
    | _, _ => s
  | 2 =>
    if ptpRole cfg ≠ 0 ∧ flag cfg 250 ∧ maySend s p t then
      let t2 := stamp.tb.getD t 0
      let who := (b.drop (o + 20)).take 10
      sendMessage s p t 3 seq true (-(subNano t2)) corr (timestampBytes t2 ++ who)
    else s
  | 3 =>
    match x.pdelayReq with
    | some (q, sent) =>
      if q ≠ seq ∨ !forUs s t cfg b o then s
      else if two then
        putPtp s c { x with pdelayResp := some (seq, timestampAt b (o + 34) - corr, stamp) }
      else pdelayDone s p t sent stamp none corr
    | none => s
  | _ =>
    match x.pdelayReq, x.pdelayResp with
    | some (_, sent), some (q, t2, back) =>
      if q ≠ seq ∨ !forUs s t cfg b o then s
      else pdelayDone s p t sent back (some (t2, timestampAt b (o + 34))) corr
    | _, _ => s

/-- The engine takes a frame that it consumes: `b` is its bytes without FCS. -/
def ptpReceive (s : State) (p : Nat) (stamp : Stamp) (b : List Byte) : State :=
  match ptpAt (parse b) with
  | none => s
  | some (o, tr) =>
    match ptpMatch s p b o tr with
    | none => s
    | some t =>
      let ty := byteAt b o % 16
      match limiterAdmits s p ty with
      | (s, false) => bump s Ctr.ptp [p * 4 + t] 7 1
      | (s, true) => consume s p t ty b o stamp

/-- FOLLOW_UP_TIMEOUT: a Sync whose Follow_Up has not arrived within one Sync interval is discarded (R267). -/
def execFollowUpTimeout (p : Fin 80) (t : Fin 4) (s : State) : Host.Outcome State Fault Refusal :=
  let c := p.val * 4 + t.val
  match (ptp s c).waiting with
  | none => done s
  | some h => if followUpLate s c h then done (discardMessage (putPtp s c { ptp s c with waiting := none }) c) else done s

/-- TC_RECORD_LAPSE: the residence records of port `p` that are 1 s old lapse (R258). -/
def execTcRecordLapse (p : Fin 80) (s : State) : Host.Outcome State Fault Refusal :=
  done { s with time := { s.time with records := set [] s.time.records p (tcRecords s p) } }

end Sys2Proof.Machine
end

