-- ==== Sys2Proof/Machine/Frames.lean ====
section
/-! DEFINITION. Frames in: their headers, tails and the MAC's accounting, frames of internal sources, MAC control frames
and pause (R64 to R75, R155 to R174, R555). -/
namespace Sys2Proof.Machine

/-! ### A new frame -/

/-- Where steering sends a frame instead of R122: a class of a port of this device (R346, R448), or of another device's
VOQs. -/
structure Steer where
  device : Option Nat
  port : Nat
  cls : Nat
  prot : Bool
  deriving DecidableEq, Repr

/-- Steering to a class of a port of this device. -/
def steerTo (d : Nat × Nat) : Steer := { device := none, port := d.1, cls := d.2, prot := false }

/-- The frame whose first bytes are `hdr`, before any decision. -/
def newFrame (s : State) (p len : Nat) (hdr : List Byte) : Frame :=
  { inPort := p, pipe := ingressPipe s p, bytes := hdr, length := len, cut := false, whole := false, bad := false,
    mru := mru s p, stamp := ingressStamp s p hdr.length, vid := 0, fid := 0, tagged := false, pcp := 0, dei := false, cls := 0,
    stream := none, path := rd s Reg.strmPortCfg [p] 9 8, cfg := 0, genSeq := none, metered := none, stormed := none,
    prot := false, steered := false, holdWhole := false, learn := none, head := none, cells := 0, copies := 0, fan := 0,
    tailWaits := false, ptp := false, dropped := false, mid := false, staging := none, source := none, here := true,
    nodeFull := false, spoiled := false }

/-- The frame with what stages 0 to 3 give it; `steer` is what steers a direct transmit frame or a
steered leaf: its copy takes a class queue or a VOQ, not a stream's queue. -/
def classified (s : State) (x : Frame) (h : Header) (steer : Option Steer) : Frame :=
  let p := x.inPort
  let vid := vidOf s p h
  let stream := identify s p vid h
  let cfg := (stream.map (streamCfg s)).getD 0
  let cfg := if steer.isSome then setFld cfg 215 215 0 else cfg
  let cls := match steer with
    | some t => t.cls
    | none => if flag cfg 253 then fld cfg 252 250 else classOf s p h
  let tag := outerTag s p h
  let kept := tag.filter fun t => t.vid != 0
  { x with vid := vid, fid := fld (vlanEntry s vid) 235 224, tagged := tag.isSome, cls := cls, stream := stream, cfg := cfg,
           pcp := (kept.map (·.pcp)).getD cls, dei := (kept.map (·.dei)).getD false, prot := flag cfg 254 || steer.any (·.prot),
           steered := steer.isSome && decide (p < 80),
           holdWhole := flag cfg 148 || (pairOf s p).isSome }

/-- Drops a frame at its header: no cell is asked for, and its tail is counted alone. -/
def dropFrame (s : State) (f : Nat) (x : Frame) : State := putFrame s f { x with dropped := true, bad := true }

/-! ### HSR at the header (Table 6-6) -/

/-- The lane of an HSR ring pair that is not `p`, and its output in the node table. -/
def otherLane (p : Nat) : Nat := if p % 2 = 0 then p + 1 else p - 1

/-- The frame's FDB entry for `mac` names a destination other than ring pair `q`. -/
def namesLocal (s : State) (q fid mac : Nat) : Bool :=
  match (fdbFind s (fdbKey fid mac)).head? with
  | none => false
  | some i =>
    let e := fdbEntry s i
    fld e 113 112 != 0 || !(pairPorts s q).contains (fld e 88 82)

/-- Frame `x` skips a duplicate check of pair `q`: it counts once (R172). -/
def noteSkip (s : State) (q : Nat) (x : Frame) (r : NodeCheck) : State × Frame :=
  if r = .skipped ∧ !x.nodeFull then (bump s Ctr.pair [] (q * 8 + 5) 1, { x with nodeFull := true }) else (s, x)

/-- What an HSR ring pair does with a received frame: none where it discards it; else whether it passes to the other lane. The
frame says whether it is delivered locally. -/
def hsrHeader (s : State) (q : Nat) (x : Frame) (h : Header) : State × Frame × Option Bool :=
  match h.hsr with
  | none => (bump s Ctr.pair [] (q * 8 + 3) 1, x, none)
  | some (path, n) =>
    if path / 2 ≠ rd s Reg.strmHsrCfg [q] 29 27 then (bump s Ctr.pair [] (q * 8 + 4) 1, x, none)
    else if namesLocal s q x.fid h.sa then (bump s Ctr.pair [] (q * 8 + 2) 1, x, none)
    else
      let named := fld x.cfg 249 248 == 1 || fld x.cfg 249 248 == 2
      let x := { x with here := namesLocal s q x.fid h.da || named || h.group }
      if rdBit s Reg.strmHsrCfg [q] 30 || h.group || !namesLocal s q x.fid h.da then
        let out := if (pairPorts s q).headD 0 = otherLane x.inPort then 1 else 2
        let (s, r) := duplicateCheck s q (BitVec.ofNat 48 h.sa) out n
        let (s, x) := noteSkip s q x r
        if r = .duplicate then (bump s Ctr.pair [] (q * 8 + 1) 1, x, some false) else (s, x, some true)
      else (s, x, some false)

/-! ### Copies -/

/-- A copy with its queue and the place of its destination in the order of R149; the entry of a pair's second port is of the
destination of the first. -/
structure Offer where
  order : Nat
  queue : Nat
  copy : Copy
  second : Bool

/-- A copy for egress `e` with nothing special about it. -/
def plainCopy (s : State) (f e : Nat) : Copy :=
  { frame := f, enqueuedAt := s.time.dt, tag := BitVec.ofNat 8 e, ct := false, mirror := false, trunc := 0, punt := none,
    pair := none, passLane := none, stream := none }

/-- The entry of a copy to local port `e`, of pair `pair` with its number where it goes to a pair: it is queued, and judged
for cut-through, at its own port. -/
def entryOffer (s : State) (f : Nat) (x : Frame) (h : Header) (gen : Bool) (first : Nat) (pair : Option (Nat × BitVec 16))
    (e : Nat) : Offer :=
  let k := copyQueue s x e
  ⟨first, k, { plainCopy s f first with
    stream := x.stream, pair := pair, ct := mayCut s x e k (addedBytes s x h e gen pair.isSome) x.holdWhole }, e != first⟩

/-- The copy to local port `e`: one entry, or one at each port of a pair, with the pair's next number (R171). -/
def portOffer (s : State) (f : Nat) (x : Frame) (h : Header) (e : Nat) (gen : Bool) : State × List Offer :=
  match pairOf s e with
  | some q =>
    let first := (pairPorts s q).headD e
    let (s, n) := nextPairSeq s q
    (s, (pairPorts s q).map (entryOffer s f x h gen first (some (q, n))))
  | none => (s, [entryOffer s f x h gen e none e])

/-- The copy to a remote device's VOQ (R122). -/
def voqOffer (s : State) (f : Nat) (x : Frame) (d p : Nat) : Offer :=
  let q := voqOf s d p x.cls
  ⟨1000, q, { plainCopy s f (queuePort s q) with stream := x.stream }, false⟩

/-- The copy of HSR pass-through. -/
def passOffer (s : State) (f : Nat) (x : Frame) : Offer :=
  let e := otherLane x.inPort
  let q := e * 8 + x.cls
  ⟨e, q, { plainCopy s f e with passLane := some e, ct := mayCut s x e q 0 false }, false⟩

/-- The copy of the ingress port's mirror session, if it makes one (R113). -/
def mirrorOffer (s : State) (f : Nat) (x : Frame) : List Offer :=
  let p := x.inPort
  let m := portCfg s p 27 26
  if portCfg s p 28 28 = 1 ∧ rdBit s Reg.pipeMirror [x.pipe, m] 31 then
    let e := rd s Reg.pipeMirror [x.pipe, m] 22 16
    if 95 < e then []
    else
      let t := rd s Reg.pipeMirror [x.pipe, m] 13 0
      [⟨e, e * 8 + x.cls, { plainCopy s f e with
        tag := BitVec.ofNat 8 (0xC0 + x.pipe * 4 + m), mirror := true, trunc := t,
        ct := t == 0 && mayCut s x e (e * 8 + x.cls) 0 x.holdWhole }, false⟩]
  else []

/-- The punted copies that their classes admit (R450). -/
def puntOffers (s : State) (f : Nat) (x : Frame) (ps : List PuntInfo) : State × List Offer :=
  ps.foldl (fun a i =>
    match puntAdmit a.1 x.pipe i.cls with
    | (s, true) =>
      let e := puntPort s i.cls
      (s, a.2 ++ [⟨e, e * 8 + i.cls, { plainCopy s f e with punt := some i }, false⟩])
    | (s, false) => (s, a.2)) (s, [])

/-- A parked front port sends no copy of an unprotected frame (R381). -/
def parkedCopy (s : State) (x : Frame) (o : Offer) : Bool :=
  parked s && !x.prot && decide (queuePort s o.queue < 80)

/-- The queue that an offer takes: at a cluster port that of a subscription, none where the cluster has none (R277). -/
def offerQueue (s : State) (x : Frame) (o : Offer) : Option Nat :=
  let p := queuePort s o.queue
  if 80 ≤ p ∧ p < 88 then clusterQueue s (p - 80) x.stream else some o.queue

/-- Every copy of frame `f` is offered to its queue in ascending port order (R149), and the first cells are asked for. A
copy to a cluster port takes the queue of a subscription, or is discarded (R277). -/
def enqueueAll (s : State) (f : Nat) (x : Frame) (h : Header) (offers : List Offer) : State :=
  let os := offers.mergeSort fun a b => a.order ≤ b.order
  let k := (os.filter fun o => !o.second).length
  let s := if 2 ≤ k then bump s Ctr.fdb [] 10 k else s
  let (s, n) := os.foldl (fun a o =>
    let (s, n) := a
    if parkedCopy s x o then (bump s Ctr.twin [] 4 1, n)
    else match offerQueue s x o with
    | none => (bump s Ctr.accUnsub [] 0 1, n)
    | some q =>
      let e := queuePort s q
      let (s, ok) := offer s q x o.copy (if x.cut then none else some (sentLength s x h o.copy e))
      (s, if ok then n + 1 else n)) (s, 0)
  requestCells (putFrame s f { x with copies := n, fan := k }) f

/-! ### The header (R555) -/

/-- The destinations of a frame before any of it is counted: those that a context or steering names, or R122's. -/
def destination (s : State) (x : Frame) (b : List Byte) (h : Header) (steer : Option Steer) : Dest :=
  let v := vlanEntry s x.vid
  match steer with
  | some t =>
    match t.device with
    | none => { Dest.none with ports := [t.port], named := some t.port }
    | some d => if admitted s d ∧ t.port < 96 then { Dest.none with voq := some (d, t.port) } else { Dest.none with act := 1 }
  | none =>
    match contextDest s x.cfg v h with
    | some d => { d with punts := d.punts ++ snoopPunts s v b h }
    | none => resolve s v x.fid b h

/-- The ports that remain of the destinations. -/
def portsLeft (s : State) (x : Frame) (d : Dest) (steer : Option Steer) : List Nat :=
  if steer.isSome then d.ports.map (bridgePort s) else pruned s x.inPort (vlanEntry s x.vid) d.ports

/-- The PTP message of a frame that a context of its ingress port matches: its type. -/
def ptpMatched (s : State) (p : Nat) (b : List Byte) (h : Header) : Option Nat :=
  match ptpAt h with
  | none => none
  | some (o, tr) => if (ptpMatch s p b o tr).isSome then some (byteAt b o % 16) else none

/-- A frame that MC1 or the PTP engine takes in place of a destination: `punts` says where, and `ptp` whether the engine does;
SA_ACT `sa` applies to it (R119, R125, R262). -/
def takeLocally (s : State) (f : Nat) (x : Frame) (h : Header) (sa : Nat × Nat) (ptp : Bool) (punts : List PuntInfo) : State :=
  let (act, cls) := stricter sa (0, 0)
  if act = 1 then dropFrame s f x
  else
    let x := { x with ptp := ptp && act != 2 }
    let ps := if act = 2 then [⟨cls, 1⟩] else punts ++ if act = 3 then [⟨cls, 1⟩] else []
    let (s, os) := puntOffers s f x ps
    enqueueAll s f x h (os ++ mirrorOffer s f x)

/-- What the engine or MC1 receives of a matched PTP message of type `ty` (R262). -/
def ptpPunts (s : State) (ty : Nat) : List PuntInfo := if ptpHandled ty then [] else [⟨rd s Reg.timePunt [] 2 0, 4⟩]

/-- Stages 6 to 11 of a frame that its stream steps let through; `pass` is HSR pass-through. -/
def forwardFrame (s : State) (f : Nat) (x : Frame) (b : List Byte) (h : Header) (steer : Option Steer) (pass : Bool) : State :=
  let p := x.inPort
  let v := vlanEntry s x.vid
  if fld x.cfg 249 248 = 3 ∧ x.stream.isSome ∧ steer = none then
    dropFrame (bump s Ctr.stream [x.stream.getD 0] 2 1) f x
  else
    let (s, sa, learn, limited) := if parked s && decide (p < 80) then (s, (0, 0), none, false) else stage7 s p x.fid v h
    let x := { x with learn := learn }
    let extra := if pass then [passOffer s f x] else []
    let ptp := if steer = none then ptpMatched s p b h else none
    if limited then dropFrame s f x
    else if h.linkLocal ∧ steer = none then
      takeLocally s f x h sa (ptp.any ptpHandled) (match ptp with
        | some ty => ptpPunts s ty
        | none => mapPunt s (h.da % 16) 5)
    else match ptp with
      | some ty => takeLocally s f x h sa (ptpHandled ty) (ptpPunts s ty)
      | none =>
        let named := steer.isSome || (contextDest s x.cfg v h).isSome
        let d := destination s x b h steer
        let s := if named then s else refreshDa s x.fid h
        let (act, cls) := if steer.isSome then (d.act, 0) else stricter sa (d.act, d.actClass)
        if act = 1 then dropFrame s f x
        else if act = 2 then
          let (s, os) := puntOffers s f x [⟨cls, 1⟩]
          enqueueAll s f x h (os ++ extra ++ mirrorOffer s f x)
        else
          let (s, ok, charged) := match d.storm with
            | none => (s, true, false)
            | some k => police s p k (if x.cut then x.mru else x.length)
          if !ok then dropFrame s f x
          else
            let x := if charged then { x with stormed := d.storm.map fun k => (k, if x.cut then x.mru else x.length) } else x
            let ports := if x.here then portsLeft s x d steer else []
            let s := if steer.isSome then s else match pruneDrop s p v h d with
              | some i => countPipe s p i 1
              | none => s
            let (s, os) := ports.foldl (fun a e =>
              let (s, o) := portOffer a.1 f x h e x.genSeq.isSome
              (s, a.2 ++ o)) (s, [])
            let vs := if x.here then (d.voq.map fun (dv, e) => voqOffer s f x dv e).toList else []
            let (s, ps) := puntOffers s f x (d.punts ++ if act = 3 then [⟨cls, 1⟩] else [])
            enqueueAll s f x h (os ++ vs ++ extra ++ ps ++ mirrorOffer s f x)

/-- The stream and pair steps at the header, then stages 6 to 11. -/
def streamFrame (s : State) (f : Nat) (x : Frame) (b : List Byte) (h : Header) (steer : Option Steer) : State :=
  match stepsAtHeader s x (!x.cut) x.length with
  | (s, x, false) => dropFrame s f x
  | (s, x, true) =>
    let (s, x, out) := match (pairOf s x.inPort).filter (· < 4) with
      | some q => hsrHeader s q x h
      | none => (s, x, some false)
    match out with
    | none => dropFrame s f x
    | some pass =>
      match generateAt s false x h.rtp with
      | (s, x, false) => dropFrame s f x
      | (s, x, true) => forwardFrame s f x b h steer pass

/-- Some copy of the frame may cut through, so that its length is not known at its header. -/
def cutsThrough (s : State) (f : Nat) (x : Frame) (b : List Byte) (h : Header) (steer : Option Steer) : Bool :=
  let gen := flag x.cfg 149
  let hsr := (pairOf s x.inPort).filter (· < 4)
  decide (x.bytes.length < x.length) && !(h.linkLocal && steer == none) &&
    ((portsLeft s x (destination s x b h steer) steer).any (fun e => (portOffer s f x h e gen).2.any fun o => o.copy.ct) ||
      (hsr.isSome && (passOffer s f x).copy.ct) || (mirrorOffer s f x).any fun o => o.copy.ct)

/-- A heartbeat or a notification of a twin, which every port consumes at ingress (R388). -/
def twinFrame (hdr : List Byte) : Bool := field hdr 12 2 == 0x88B5 && (byteAt hdr 14 == 1 || byteAt hdr 14 == 2)

/-- A frame is dropped in stages 0 and 1. In the Learning state a port still learns its source, where the VLAN takes it (R117);
`y` is the frame as classified. -/
def dropLearning (s : State) (f : Nat) (x y : Frame) (h : Header) : State :=
  let p := x.inPort
  if portCfg s p 25 24 = 2 ∧ vlanDrop s p h = none ∧ !(parked s && decide (p < 80)) then
    let (s, _, learn, _) := stage7 s p y.fid (vlanEntry s y.vid) h
    dropFrame s f { x with learn := learn }
  else dropFrame s f x

/-- A frame of `len` bytes enters its pipeline at its header `hdr`. Answers the state and the frame's number. -/
def headerIn (s : State) (p len : Nat) (hdr : List Byte) (steer : Option Steer) : State × Nat :=
  let control := field hdr 12 2 == 0x8808 && !halfDuplex s p
  let s := applyWhere (frameBoundary s p true) fun e =>
    e.kind == 2 && decide (Reg.strmIpProfile.base ≤ e.addr ∧ e.addr < Reg.strmIpProfile.base + 16)
  let f := s.nextFrame
  let s := { s with nextFrame := f + 1 }
  let x := newFrame s p len hdr
  if (p < 80 ∧ (len < 64 ∨ control)) ∨ (steer = none ∧ twinFrame hdr) then (dropFrame s f x, f)
  else
    let b := if len ≤ hdr.length then unclosed hdr else hdr
    let h := parse b
    let s := bump s Ctr.pipeDec [x.pipe] (if p < 80 then 0 else 1) 1
    let y := classified s x h steer
    let drop := classDrop s p h
    let isParked := parked s && decide (p < 80)
    if isParked ∧ !(drop = none ∧ (y.prot ∨ (ptpMatched s p b h).any ptpHandled)) then
      (dropFrame (bump s Ctr.twin [] 4 1) f x, f)
    else match drop with
      | some i => (dropLearning (countPipe s p i 1) f x y h, f)
      | none =>
        let s := match y.stream with
          | some n => bump s Ctr.stream [n] 0 1
          | none => s
        let y := { y with cut := cutsThrough s f y b h steer }
        (streamFrame s f y b h steer, f)

/-! ### The tail -/

/-- The MAC counters of an accepted frame of `n` bytes (Table 3-2). -/
def countAccepted (s : State) (p : Nat) (bs : List Byte) : State :=
  let n := bs.length
  let da := field bs 0 6
  let s := countPort (countPort s p 0 n) p 2 1
  let s := countPort s p (if da = 2 ^ 48 - 1 then 5 else if bit da 40 then 4 else 3) 1
  countPort s p (if n ≤ 64 then 17 else if n ≤ 127 then 18 else if n ≤ 255 then 19 else if n ≤ 511 then 20
    else if n ≤ 1023 then 21 else if n ≤ 1522 then 22 else 23) 1

/-- The row of Table 3-2 that a frame takes: none where it is accepted, else its counter. -/
def tailRow (bs : List Byte) (mru : Nat) (pcsErr : Bool) : Option Nat :=
  let n := bs.length
  let b := unclosed bs
  let good := bs.drop (n - 4) == fcsBytes b
  if pcsErr then some 16
  else if n ≤ 63 then some (if good then 11 else 12)
  else if mru < n then some (if good then 13 else 14)
  else if good then none
  else if bs.drop (n - 4) = stompBytes b then some 10
  else some 9

/-- Local copies of a frame are discarded; those of HSR pass-through stay. -/
def removeLocal (s : State) (f : Nat) : State := removeWhere s f fun _ c => c.passLane.isNone

/-- Checks 3 and 4 of Table 8-5 for the copies of a frame whose length has become known and that do not cut through. -/
def lateChecks (s : State) (f : Nat) (x : Frame) (h : Header) : State :=
  let fails (s : State) (q : Nat) (c : Copy) : Nat :=
    let e := queuePort s q
    if c.ct then 0
    else if e ≤ 95 ∧ mtu s e < sentLength s x h c e then 3
    else if fitsNoWindow s e q x x.length then 4
    else 0
  let counted := (keys s.sched.queues).foldl (fun t q =>
    ((queue s q).copies.filter fun c => c.frame == f).foldl (fun t c => enqueueDrop t q (fails s q c)) t) s
  removeWhere counted f fun q c => fails s q c != 0

/-- What a PRP pair counts of a frame at its tail: no valid trailer, or one of the other LAN (Table 6-6). -/
def countTrailer (s : State) (x : Frame) (b : List Byte) : State :=
  match (pairOf s x.inPort).filter (4 ≤ ·) with
  | none => s
  | some q =>
    match prpTrailer b with
    | none => bump s Ctr.pair [] (q * 8 + 3) 1
    | some (lan, _) =>
      if lan = 0xA + bnat ((prpPorts s (q - 4)).headD x.inPort != x.inPort) then s else bump s Ctr.pair [] (q * 8 + 4) 1

/-- The number by which a pair checks a frame for local delivery: that of its HSR tag or PRP trailer. None for a frame that it
does not deliver, and where a context that recovers numbers of SEQ_ENC 2 or 3 replaces the check (R173). -/
def pairNumber (q : Nat) (x : Frame) (h : Header) (b : List Byte) : Option (BitVec 16) :=
  if !x.here || (x.stream.isSome && flag x.cfg 148 && decide (2 ≤ fld x.cfg 151 150)) then none
  else if q < 4 then h.hsr.map (·.2) else (prpTrailer b).map (·.2)

/-- Step 6's duplicate discard of a PRP or HSR pair for local delivery (Table 6-6): answers whether the frame goes on. -/
def pairTail (s : State) (x : Frame) (h : Header) (b : List Byte) : State × Frame × Bool :=
  match pairOf s x.inPort with
  | none => (s, x, true)
  | some q =>
    match pairNumber q x h b with
    | none => (s, x, true)
    | some n =>
      let (s, r) := duplicateCheck s q (BitVec.ofNat 48 h.sa) 0 n
      let (s, x) := noteSkip s q x r
      if r = .duplicate then (bump s Ctr.pair [] (q * 8) 1, x, false) else (s, x, true)

/-- Steps 6 and 7 at the tail of frame `x`: recovery, then the pair's check, then generation. Answers whether the frame is
delivered locally. -/
def stepsAtTail (s : State) (x : Frame) (h : Header) (b : List Byte) : State × Frame × Bool :=
  match recoverAtTail s x h b with
  | (s, false) => (s, x, false)
  | (s, true) =>
    match pairTail s x h b with
    | (s, x, false) => (s, x, false)
    | (s, x, true) => generateAt s true x h.rtp

/-- Fast join of a report's groups from port `p` (R147). -/
def fastJoin (s : State) (x : Frame) (b : List Byte) (h : Header) : State :=
  let kind := snooped (vlanEntry s x.vid) b h
  if (kind == some (.igmp 1) || kind == some (.mld 1)) && rdBit s Reg.fdbSnoop [] 0 then
    (reportGroups b h).foldl (fun s mac =>
      match (fdbFind s (fdbKey x.fid mac)).head? with
      | none => s
      | some i =>
        let e := fdbEntry s i
        let g := fld e 79 66
        let w := mdbGroup s g
        if fld e 113 112 = 2 ∧ flag w 255 ∧ !flag w 254 ∧ flag w 253 then
          let s := landAll s 1
          let w := mdbGroup s g
          let p := bridgePort s x.inPort
          bump (landMdb s g (setFld (setFld w p p 1) (96 + p) (96 + p) 1)) Ctr.fdb [] 11 1
        else s) s
  else s

/-- A frame's length has become known: MAX_CELLS of each queue that holds it follows DEPTH_CELLS (R238). -/
def raiseMaxima (s : State) (f : Nat) : State :=
  (keys s.sched.queues).foldl (fun s q =>
    let y := queue s q
    if y.copies.any (fun c => c.frame == f) then putQueue s q { y with maxCells := max y.maxCells (depthCells s q) } else s) s

/-- Every cell that the frame's bytes need has been granted. -/
def cellsFull (x : Frame) : Bool := decide (cellsNeeded x ≤ x.cells)

/-- The tail of a frame need not wait for its cells: they are granted, or it goes nowhere. -/
def cellsReady (x : Frame) : Bool := x.bad || x.fan == 0 || cellsFull x

/-- A frame is whole. Its chain is closed once its cells are granted; one that goes nowhere may still ask for some. -/
def closeFrame (s : State) (f : Nat) : State :=
  match frame s f with
  | none => s
  | some x =>
    let s := putFrame s f { x with whole := true, tailWaits := false }
    raiseMaxima (if x.bad || cellsFull x then closeChain s f else s) f

/-- A frame that Table 3-2 accepts and whose cells are all granted: it is counted, learned, recovered and checked for
duplicates, and stored copies may leave. -/
def completeTail (s : State) (f : Nat) : State :=
  match frame s f with
  | none => s
  | some x =>
    let b := unclosed x.bytes
    let h := parse b
    let s := countAccepted s x.inPort x.bytes
    let s := match x.learn with
      | some q => requestLearn s q
      | none => s
    if x.dropped then closeFrame s f
    else
      let s := fastJoin s x b h
      let s := if x.ptp then ptpReceive s x.inPort x.stamp b else s
      let (s, y, pass) := stepsAtTail (countTrailer s x b) x h b
      let s := putFrame s f y
      let s := if pass then s else removeLocal s f
      let s := if x.cut then lateChecks s f y h else s
      closeFrame s f

/-- Step 3 at the tail of a frame whose length was not known at its header, whatever its FCS (R162): one longer than MAX_SDU is
dropped, and those who send it stomp it. -/
def sduAtTail (s : State) (f : Nat) (x : Frame) : State :=
  match x.stream with
  | none => s
  | some h =>
    if x.cut && !x.dropped && overSdu x.cfg x.length then
      let s := abortFrame (sduDrop s h x.cfg) f
      match frame s f with
      | none => s
      | some y => putFrame s f { y with dropped := true }
    else s

/-- The tail of frame `f`: its last bytes, and whether the PCS signalled an error code. A frame of an internal source
has neither FCS errors nor MAC counters. -/
def tailIn (s : State) (f : Nat) (rest : List Byte) (pcsErr : Bool) : State :=
  match frame s f with
  | none => s
  | some x =>
    let bs := x.bytes ++ rest
    let n := bs.length
    let s := match x.stream with
      | some h => bump s Ctr.stream [h] 1 n
      | none => s
    let s := correctStorm (correctMeter s x n) x n
    let row := if x.inPort < 80 then tailRow bs x.mru pcsErr else none
    let s := countPort s x.inPort 1 n
    let s := recordFrame s x.inPort x.stream x.stamp (row.any fun i => i == 9 || i == 12 || i == 14) (row == some 10) bs
    let x := { x with bytes := bs, length := n, metered := none, stormed := none }
    let s := sduAtTail (putFrame s f x) f x
    match frame s f with
    | none => s
    | some x =>
      if x.mid then forget (countPort (putFrame s f { x with whole := true }) x.inPort 15 1) f
      else match row with
        | some i => abortFrame (countPort (putFrame s f { x with whole := true }) x.inPort i 1) f
        | none =>
          let s := requestCells s f
          if cellsReady x then completeTail s f else putFrame s f { x with tailWaits := true }

/-- A frame of an internal source, whole, enters at logical port `p` with bytes `bs`; `note` says what it is copied from.
Answers the state and the frame's number. -/
def enterWhole (s : State) (p : Nat) (bs : List Byte) (steer : Option Steer) (note : Frame → Frame) : State × Nat :=
  let (s, f) := headerIn s p bs.length bs steer
  let s := match frame s f with
    | none => s
    | some x => putFrame s f (note x)
  (tailIn s f [] false, f)

/-- A frame of an internal source, whole, enters at logical port `p`. Answers the state and the frame's number. -/
def inject (s : State) (p : Nat) (b : List Byte) (steer : Option Steer) : State × Nat :=
  enterWhole s p (closed b) steer id

/-- A frame that port `p` was receiving ends here: it counts once as RX_PCS_ERR (R62, R88). -/
def cutOff (s : State) (p : Nat) : State :=
  match (port s p).receiving with
  | none => s
  | some f => tailIn (putPort s p { port s p with receiving := none }) f [] true

/-! ### MAC control frames (R71 to R74) -/

/-- A received MAC control frame: counted by its opcode, and honoured by the flow-control mode in force; `quanta` of 512 bit
times count from its reception. -/
def macControl (s : State) (p : Nat) (b : List Byte) : State :=
  let op := field b 14 2
  let s := countPort s p (if op = 0x0001 then 6 else if op = 0x0101 then 7 else 8) 1
  let x := port s p
  let stop (o : Nat) : Option Nat := if field b o 2 = 0 then none else some (s.time.dt + lineTicks s p (64 * field b o 2))
  if op = 0x0001 ∧ flowMode s p = 1 ∧ macRd s Reg.hpFlow Reg.cpFlow p 5 5 = 1 then
    putPort s p { x with paused := stop 16 }
  else if op = 0x0101 ∧ flowMode s p = 2 then
    let mask := macRd s Reg.hpFlow Reg.cpFlow p 31 24
    let next := (List.range 8).map fun c =>
      if bit mask c && bit (field b 16 2) c then stop (18 + 2 * c) else x.pfc.getD c none
    putPort s p { x with pfc := next }
  else s

/-- FRAME_HEADER_RX: the first bytes of a frame of `len` bytes reach port `p`; one under back-pressure answers every
carrier with a jam and receives nothing (R104). -/
def execFrameHeaderRx (p : Fin 96) (el len : Nat) (hdr : List Byte) (s : State) : Host.Outcome State Fault Refusal :=
  let s := advance el s
  if receives s p then
    let s := cutOff s p
    let (s, f) := headerIn s p len hdr none
    done (flowUpdate (putPort s p { port s p with receiving := some f }) false)
  else done s

/-- FRAME_TAIL_RX: the frame that port `p` receives ends. -/
def execFrameTailRx (p : Fin 96) (el : Nat) (rest : List Byte) (pcsErr : Bool) (s : State) :
    Host.Outcome State Fault Refusal :=
  let s := advance el s
  match (port s p).receiving with
  | none => done s
  | some f =>
    let s := putPort s p { port s p with receiving := none }
    match frame s f with
    | none => done s
    | some x =>
      let bs := x.bytes ++ rest
      let s := tailIn s f rest pcsErr
      let ctl := field bs 12 2 == 0x8808 && decide (p.val < 80) && !halfDuplex s p && (tailRow bs x.mru pcsErr).isNone
      done (flowUpdate (if ctl then macControl s p bs else s) false)

/-- A whole frame reaches front port `p` and enters its pipeline. -/
def wholeFrameIn (s : State) (p : Nat) (bytes : List Byte) : State :=
  let (s, f) := headerIn (cutOff s p) p bytes.length bytes none
  tailIn s f [] false

/-- A whole MAC control frame reaches front port `p` (R74). In half duplex R74 does not act, and the frame is handled as any
other (R88). -/
def controlFrameIn (s : State) (p : Nat) (bytes : List Byte) : State :=
  if halfDuplex s p then wholeFrameIn s p bytes
  else
    let s := frameBoundary (cutOff s p) p true
    let row := tailRow bytes (mru s p) false
    let s := countPort s p 1 bytes.length
    let bad := row.any fun i => i == 9 || i == 12 || i == 14
    let s := recordFrame s p none (ingressStamp s p bytes.length) bad (row == some 10) bytes
    match row with
    | some i => countPort s p i 1
    | none => macControl (countAccepted s p bytes) p bytes

/-- MAC_CONTROL_FRAME_RX. -/
def execMacControlFrameRx (p : Fin 80) (el : Nat) (bytes : List Byte) (s : State) : Host.Outcome State Fault Refusal :=
  let s := advance el s
  done (if receives s p && field bytes 12 2 == 0x8808 then controlFrameIn s p bytes else s)

/-- PTP_MESSAGE_RX: a whole frame reaches front port `p`; a PTP message that matches a context is consumed by the engine,
punted or forwarded (R262). -/
def execPtpMessageRx (p : Fin 80) (el : Nat) (bytes : List Byte) (s : State) : Host.Outcome State Fault Refusal :=
  let s := advance el s
  if receives s p then done (wholeFrameIn s p bytes) else done s

/-- PAUSE_EXPIRY: the quanta of a pause, or of one class's PFC, have run out (R73). -/
def execPauseExpiry (p : Fin 80) (cls : Option (Fin 8)) (s : State) : Host.Outcome State Fault Refusal :=
  let x := port s p
  match cls with
  | none => done (if inTime s x.paused then s else putPort s p { x with paused := none })
  | some c => done (if inTime s (x.pfc.getD c none) then s else putPort s p { x with pfc := x.pfc.set c none })

/-- PAUSE_REFRESH: an XOFF in force is repeated once REFRESH quanta have passed since it was last sent (R71, R72). -/
def execPauseRefresh (p : Fin 80) (s : State) : Host.Outcome State Fault Refusal :=
  let x := port s p
  if !linkUp s p ∨ macRd s Reg.hpFlow Reg.cpFlow p 4 4 = 0 ∨ s.time.dt < x.xoffAt + refreshTicks s p then done s
  else if flowMode s p = 1 ∧ x.xoffSent then done (sendPause s p (quanta s p))
  else if flowMode s p = 2 ∧ x.pfcSent ≠ 0 then done (sendPfc s p x.pfcSent x.pfcSent)
  else done s

end Sys2Proof.Machine
end

