-- ==== Sys2Proof/Machine/Slot.lean ====
section
/-! DEFINITION. One allocation slot: the pools' grants in their rotating order, what follows a grant and what follows
EMPTY (R183 to R187, R196, R197, R205, R208), and how a frame joins a host ring (R444 to R446). -/
namespace Sys2Proof.Machine

/-! ### Cells -/

/-- A request's answer: refused for want of a pointer or for MAX, or granted from the reserve or the general count. -/
inductive Grant where
  | emptyPool | emptyAcct | reserve | general
  deriving DecidableEq, Repr

/-- The unused protected reserve of pool `n`. -/
def unusedReserve (s : State) (n : Nat) : Nat := rd s Reg.bpmPoolRes [n] 19 0 - (pool s n).reserveUsed

/-- Whether pool `n` grants one more pointer, after `given` grants of at most `limit` in the slot. `acct` is the port
account that must lie below MAX (R185, R202, R205). -/
def grantKind (s : State) (n limit given : Nat) (prot : Bool) (acct : Option Nat) : Grant :=
  if limit ≤ given ∨ poolFree s n = 0 then .emptyPool
  else if prot then (if 0 < unusedReserve s n then .reserve else .general)
  else if poolFree s n ≤ unusedReserve s n then .emptyPool
  else if acct.any (fun r => decide (rd s Reg.bpmAccMax [r] 18 0 ≤ charged s (r * 9))) then .emptyAcct
  else .general

/-- The counters of an answer. -/
def countGrant (s : State) (g : Grant) (prot : Bool) : State :=
  match g with
  | .emptyPool => if prot then bump (bump s Ctr.bpm [] 1 1) Ctr.bpm [] 5 1 else bump s Ctr.bpm [] 1 1
  | .emptyAcct => bump s Ctr.bpm [] 2 1
  | .reserve => s
  | .general => if prot then bump s Ctr.bpm [] 4 1 else s

/-- The next pointer of pool `n`, taken from its free store. -/
def takePointer (s : State) (n : Nat) (reserve : Bool) : Option (Nat × State) :=
  ((pool s n).take (poolSize n)).map fun (i, p) =>
    (i, putPool s n { p with reserveUsed := p.reserveUsed + bnat reserve })

/-- The ingress owner's tag of requester `r` (Table 7-2). -/
def ingressTag (r : Nat) : BitVec 8 := BitVec.ofNat 8 (0x60 + r)

/-- A granted CELL buffer: unshared, and its requester's (R189). -/
def cellBuf (x : Frame) (i : Nat) (reserve : Bool) : Buf :=
  { owner := ingressTag x.inPort, shared := false, count := 1, last := 0xFF, holders := [], deferred := false, closed := false,
    returning := false, cells := [i], prot := x.prot, fromReserve := bnat reserve, requester := x.inPort, cls := x.cls }

/-- Cell `i` is granted to frame `f`: its head cell, which is handed on with the frame's references (R149, R189), or one more
cell of its chain. -/
def giveCell (s : State) (f i : Nat) (x : Frame) (reserve : Bool) : State :=
  let s := bump (charge s x.inPort x.cls 1) Ctr.bpm [] 0 1
  match x.head with
  | none =>
    handOver (putFrame (putBuf s 0 i (cellBuf x i reserve)) f { x with head := some i, cells := 1 }) f x i
  | some h =>
    let s := match findBuf s 0 h with
      | none => s
      | some b => putBuf s 0 h { b with cells := b.cells ++ [i], fromReserve := b.fromReserve + bnat reserve }
    putFrame s f { x with cells := x.cells + 1 }

/-- What the slot leaves to do once its grants are made. -/
structure SlotWork where
  given : Nat
  granted : List Nat
  /-- Frames refused a cell, with whether MAX refused it. -/
  refused : List (Nat × Bool)

/-- The request of requester `r`: its oldest frame that still needs cells. -/
def cellRequest (a : State × SlotWork) (r : Nat) : State × SlotWork :=
  let (s, w) := a
  match get [] s.bpm.cellReqs r with
  | [] => a
  | f :: rest =>
    match frame s f with
    | none => ({ s with bpm := { s.bpm with cellReqs := set [] s.bpm.cellReqs r rest } }, w)
    | some x =>
      let g := grantKind s 0 8 w.given x.prot (some r)
      let s := countGrant s g x.prot
      match g with
      | .emptyPool => (s, { w with refused := w.refused ++ [(f, false)] })
      | .emptyAcct => (s, { w with refused := w.refused ++ [(f, true)] })
      | _ =>
        match takePointer s 0 (g == .reserve) with
        | none => (s, w)
        | some (i, s) =>
          let s := giveCell s f i x (g == .reserve)
          let s := if (frame s f).any fun y => !cellsFull y then s else { s with bpm := { s.bpm with cellReqs := set [] s.bpm.cellReqs r rest } }
          (s, { w with given := w.given + 1, granted := w.granted ++ [f] })

/-- A frame is refused a cell: front ports and the twin port discard it (R186, R208); others repeat their request. -/
def refuseFrame (s : State) (f : Nat) (acct : Bool) : State :=
  match frame s f with
  | none => s
  | some x =>
    if 80 ≤ x.inPort ∧ x.inPort ≠ 94 then s
    else if x.head.isNone then
      let s := abortFrame (bump s Ctr.bpmReq [x.inPort] (bnat acct) 1) f
      match frame s f with
      | none => s
      | some y =>
        let s := putFrame s f { y with dropped := true }
        if y.tailWaits then completeTail s f else s
    else
      let s := abortFrame (bump (putFrame s f { x with mid := true }) Ctr.bpm [] 3 1) f
      if x.tailWaits then
        match frame s f with
        | none => s
        | some y => forget (countPort (putFrame s f { y with whole := true }) x.inPort 15 1) f
      else s

/-- A frame that waited for its last cells has them: its tail completes, or the chain of one that goes nowhere is closed. -/
def afterGrant (s : State) (f : Nat) : State :=
  match frame s f with
  | none => s
  | some x =>
    if x.tailWaits && cellsReady x then completeTail s f else if x.whole && cellsFull x then closeChain s f else s

/-- The CELL pool's part of a slot. -/
def slotCells (s : State) : State :=
  let order := (List.range 96).map fun k => (k + s.bpm.slot) % 96
  let (s, w) := order.foldl cellRequest (s, ⟨0, [], []⟩)
  let s := w.granted.foldl afterGrant s
  w.refused.foldl (fun s e => refuseFrame s e.1 e.2) s

/-! ### Host rings (R443 to R446) -/

/-- Descriptors that the device may use on receive ring `r`. -/
def rxAvailable (s : State) (r : Nat) : Nat :=
  let k := ringPipe s r
  (rd s Reg.hostRxTail [k, r] 15 0 + 65536 - rd s Reg.hostRxStat [k, r] 15 0) % 65536

/-- The size of receive ring `r`. -/
def rxSize (s : State) (r : Nat) : Nat := 2 ^ rd s Reg.hostRxCfg [ringPipe s r, r] 23 20

/-- The descriptors that a frame of `n` bytes takes on receive ring `r`. -/
def rxNeeds (s : State) (r n : Nat) : Nat := ceilDiv n (max 1 (rd s Reg.hostRxCfg [ringPipe s r, r] 6 0) * 256)

def ringOn (s : State) (tx : Bool) (r : Nat) : Bool :=
  rdBit s (if tx then Reg.hostTxCfg else Reg.hostRxCfg) [ringPipe s r, r] 31

/-- One more frame that ring `r` discarded: 1 RX_TIMEOUT, 2 RX_OFF_DROP. -/
def countRx (s : State) (r i : Nat) : State := bump s Ctr.hostRx [ringPipe s r, r] i 1

def rxWaits (s : State) (r : Nat) : List RxWait := get [] s.host.rxWait r

def putRxWaits (s : State) (r : Nat) (l : List RxWait) : State :=
  { s with host := { s.host with rxWait := set [] s.host.rxWait r l } }

/-- A frame joins the wait list of ring `r`, or is discarded with its buffer. -/
def joinRing (s : State) (r : Nat) (w : RxWait) : State :=
  let n := rxNeeds s r w.bytes.length
  if !ringOn s false r then returnBuf (countRx s r 2) 1 w.buf
  else if rxSize s r < n ∨ (w.wait = 0 ∧ (rxWaits s r ≠ [] ∨ rxAvailable s r < n)) then returnBuf (countRx s r 1) 1 w.buf
  else putRxWaits s r (rxWaits s r ++ [w])

/-! ### DRAM pools -/

/-- The owner tag of a DRAM requester (Table 7-2). -/
def dramTag (r : Nat) : BitVec 8 := BitVec.ofNat 8 (if r = 0 then 0xD1 else if r = 9 then 0xDA else 0xD1 + r)

/-- The copy at the head of queue `q`, with its frame, while it is stored whole. -/
def headCopy (s : State) (q : Nat) : Option (Copy × Frame) :=
  match (queue s q).copies with
  | [] => none
  | c :: _ => (frame s c.frame).filter (fun x => x.whole && !x.bad) |>.map fun x => (c, x)

/-- The transmit frame of ring `r` that waits for its buffer. -/
def waitingTx (s : State) (r : Nat) : Option TxPending :=
  (get [] s.host.txPending r).find? fun t => t.frame.isNone && t.status == 0

/-- A request still stands for something. -/
def dramStands (s : State) (u : DramUse) : Bool :=
  match u with
  | .hostRx _ q => (headCopy s q).isSome
  | .management q => !coreDown s 1 && (headCopy s q).isSome
  | .hostTx r => (waitingTx s r).isSome
  | .accordOut .. => true
  | .tableDma => s.host.tdma.any fun t => t.buf.isNone

/-- The stream as which a frame `b` without FCS would be identified at internal port `p`. -/
def injectedStream (s : State) (p : Nat) (b : List Byte) : Option Nat :=
  let h := parse b
  identify s p (vidOf s p h) h

/-- The stream of a frame injected at port `p` is protected (R174). -/
def injectedProt (s : State) (p : Nat) (b : List Byte) : Bool := (injectedStream s p b).any fun h => flag (streamCfg s h) 254

/-- The frame of a request belongs to a protected stream. -/
def dramProt (s : State) (u : DramUse) : Bool :=
  match u with
  | .hostRx _ q => (headCopy s q).any (·.2.prot)
  | .management q => (headCopy s q).any (·.2.prot)
  | .hostTx r => (waitingTx s r).any fun t => injectedProt s (88 + r / 32) (padTo 60 t.bytes)
  | .accordOut k _ _ _ b => injectedProt s (80 + k) b
  | .tableDma => false

/-- Copy `c` of queue `q`, of `n` bytes, leaves now by a port with no stamp point: it counts, with its delay (R238). -/
def leaveNow (s : State) (q : Nat) (c : Copy) (n : Nat) : State :=
  noteDelay (countQueue (takeCopy s q c) q n) q c (dtFrac s)

/-- It leaves so, and its reference is released. -/
def leaveQueue (s : State) (q : Nat) (c : Copy) (n : Nat) : State := releaseCopy (leaveNow s q c n) c

/-- What a granted buffer `i` is used for. -/
def useDram (s : State) (u : DramUse) (i : Nat) : State :=
  match u with
  | .hostRx p q =>
    match headCopy s q with
    | none => returnBuf s 1 i
    | some (c, x) =>
      let (s, b) := wireBytes s x c p (stampNow s)
      let r := rxRing s p (queueClass s q)
      let s := leaveQueue s q c b.length
      joinRing s r { bytes := unclosed b, buf := i, cls := queueClass s q, inPort := x.inPort,
                     reason := (c.punt.map (·.reason)).getD 0, stream := x.stream, vid := x.vid, stamp := x.stamp,
                     joinedAt := s.time.dt, wait := rd s Reg.glbHostCfg [] 16 0, spoiled := false }
  | .management q =>
    match headCopy s q with
    | none => returnBuf s 4 i
    | some (c, x) =>
      let (s, b) := wireBytes s x c 95 (stampNow s)
      returnBuf (emit (leaveQueue s q c b.length) (.frame 95 x.stamp (unclosed b))) 4 i
  | .hostTx r =>
    match waitingTx s r with
    | none => returnBuf s 2 i
    | some t =>
      let l := (get [] s.host.txPending r).map fun y => if y = t then { y with frame := some s.nextFrame } else y
      let s := { s with host := { s.host with txPending := put s.host.txPending r l } }
      (enterWhole s (88 + r / 32) (closed t.bytes) (t.direct.map steerTo) fun x => { x with staging := some (2, i) }).1
  | .accordOut k o tb due b =>
    let s := if due < tbFrac s tb then outLate s o else s
    (enterWhole (bump s Ctr.outStream [o] 0 1) (80 + k) (closed b) none fun x => { x with staging := some (3, i) }).1
  | .tableDma => { s with host := { s.host with tdma := s.host.tdma.map fun t => { t with buf := some i } } }

/-- A granted DRAM buffer `i` (Table 7-2). -/
def dramBuf (q : DramReq) (i : Nat) (prot reserve : Bool) : Buf :=
  { owner := dramTag q.requester, shared := false, count := 1, last := 0xFF, holders := [], deferred := false, closed := true,
    returning := false, cells := [i], prot := prot, fromReserve := bnat reserve, requester := q.requester, cls := 0 }

/-- A request is refused: it is kept, and counts DRAM_RETRY (R186). -/
def retryDram (s : State) (g : Grant) (prot : Bool) : State := bump (countGrant s g prot) Ctr.bpm [] 7 1

/-- One request of pool `n` in a slot in which `taken` is the grant already made. A grant takes an operation tag (R19); EMPTY for
a refill counts as EMPTY alone, and one for want of a pointer also PROT_EMPTY where the request is protected (R185, R205). -/
def dramRequest (n : Nat) (a : State × Option (DramReq × Nat)) (q : DramReq) : State × Option (DramReq × Nat) :=
  let (s, taken) := a
  let prot := dramProt s q.use
  let g := grantKind s n 1 (bnat taken.isSome) prot none
  if g = .emptyPool ∨ g = .emptyAcct then (retryDram s g prot, taken)
  else if (pool s n).cache = 0 then (retryDram (if (pool s n).refilling then s else startRefill s n) .emptyPool false, taken)
  else match takePointer (countGrant s g prot) n (g == .reserve) with
    | none => (s, taken)
    | some (i, s) =>
      let p := pool s n
      let s := putPool s n { p with cache := p.cache - 1, bufs := put p.bufs i (dramBuf q i prot (g == .reserve)) }
      let s := { s with bpm := { s.bpm with dramReqs := s.bpm.dramReqs.erase q, tagsInUse := s.bpm.tagsInUse + 1 } }
      (if (pool s n).cache = 0 ∧ !(pool s n).refilling then startRefill s n else s, some (q, i))

/-- The first request of each requester. -/
def firstEach (l : List DramReq) : List DramReq :=
  l.foldl (fun a q => if a.any fun r => r.requester == q.requester then a else a ++ [q]) []

/-- One DRAM pool's part of a slot: at most one grant, to the first request in the order of the slot. Requests wait at their
source while no operation tag is free (R19). -/
def slotDram (s : State) (n : Nat) : State :=
  let s := { s with bpm := { s.bpm with dramReqs := s.bpm.dramReqs.filter (fun q => q.pool != n || dramStands s q.use) } }
  let key (q : DramReq) : Nat := (q.requester + 480 - s.bpm.slot) % 10
  let reqs := firstEach ((s.bpm.dramReqs.filter fun q => q.pool == n).mergeSort fun a b => key a ≤ key b)
  if tagLimit ≤ s.bpm.tagsInUse then s
  else match reqs.foldl (dramRequest n) (s, none) with
    | (s, none) => s
    | (s, some (q, i)) => useDram s q.use i

/-- A request for a buffer of pool `n` waits for its slot. -/
def askDram (s : State) (n requester : Nat) (u : DramUse) : State :=
  let q : DramReq := ⟨n, requester, u⟩
  if s.bpm.dramReqs.contains q then s else { s with bpm := { s.bpm with dramReqs := s.bpm.dramReqs ++ [q] } }

/-- One BS cycle of every pool (R183): its grants, then the operations given in it (R193). -/
def allocationSlot (s : State) : State :=
  let s := slotCells s
  let s := applyOps ([1, 2, 3, 4, 5].foldl slotDram s)
  { s with bpm := { s.bpm with slot := (s.bpm.slot + 1) % 480 } }

/-- ALLOCATION_SLOT. -/
def execAllocationSlot (s : State) : Host.Outcome State Fault Refusal := done (if stopped s then s else allocationSlot s)

end Sys2Proof.Machine
end

