-- ==== Sys2Proof/Machine/AccordRun.lean ====
section
/-! DEFINITION. What the Accord engines do with packets: input packets into lines, deadlines, and output packets from taps
(R277 to R292, R300 to R302). -/
namespace Sys2Proof.Machine

/-- One microsecond in 2⁻¹⁶ ns. -/
def fracPerUs : Nat := 65536000

def linkOffset (x : BitVec 512) : Nat := fld x 494 480

/-! ### Input packets (R280, R281, R287) -/

/-- The nominal sample rate code of the AAF header (IEEE 1722). -/
def aafRate (r : Nat) : Nat := if r = 48000 then 5 else if r = 96000 then 7 else if r = 44100 then 4 else 6

/-- The AAF format and bit depth of FORMAT 2 and 3 (IEEE 1722). -/
def aafFormat (fmt : Nat) : Nat × Nat := if fmt = 2 then (3, 24) else (2, 32)

/-- Timestamp and payload offset of a packet that subscription `c` accepts in format, for a stream at `rate`. -/
def readPacket (c : BitVec 512) (rate : Nat) (b : List Byte) : Option (Nat × Nat) :=
  let h := parse b
  let fmt := fld c 494 493
  let ch := fld c 488 482 + 1
  let want := packetSamples (fld c 490 489) rate * ch * sampleBytes fmt
  if fmt < 2 then
    let o := h.l4 + 8
    let cc := 12 + 4 * (byteAt b o % 16)
    let ext := if bit (byteAt b o) 4 then 4 + 4 * field b (o + cc + 2) 2 else 0
    let len := field b (h.l4 + 4) 2
    let pad := if bit (byteAt b o) 5 then byteAt b (h.l4 + len - 1) else 0
    if (h.ipv4 || h.ipv6) && h.proto == 17 && byteAt b o / 64 == 2 &&
        !(flag c 481 && byteAt b (o + 1) % 128 != fld c 480 474) &&
        decide (8 + cc + ext + want + pad = len ∧ h.l4 + len ≤ b.length)
    then some (field b (o + 4) 4, o + cc + ext) else none
  else
    let o := h.l3
    let (f, depth) := aafFormat fmt
    if h.etype == 0x22F0 && byteAt b o == 2 && byteAt b (o + 16) == f && byteAt b (o + 17) / 16 == aafRate rate &&
        byteAt b (o + 17) % 4 * 256 + byteAt b (o + 18) == ch && byteAt b (o + 19) == depth &&
        decide (field b (o + 20) 2 = want ∧ o + 24 + want ≤ b.length)
    then some (field b (o + 12) 4, o + 24) else none

/-- The value nearest `t` that equals `r` modulo 2³². -/
def extend (r t : Int) : Int := r + 2 ^ 32 * ((2 * (t - r) + 2 ^ 32) / 2 ^ 33)

/-- The sample index, at the stream's rate, of a packet with timestamp `ts` and ingress stamp `t` (R280). -/
def packetIndex (c : BitVec 512) (rate ts : Nat) (t : Int) : Int :=
  let r : Int := ((ts + 2 ^ 32 - fld c 455 424) % 2 ^ 32 : Nat)
  if fld c 494 493 < 2 then extend r (t * rate / fracPerSec)
  else (2 * extend r (t / 65536) * rate + 1000000000) / 2000000000

/-- One sample of FORMAT `fmt` at offset `o` as a 24-bit value (R287). -/
def readSample (fmt : Nat) (b : List Byte) (o : Nat) : Int :=
  match fmt with
  | 0 => signed (field b o 2) 16 * 256
  | 3 => signed (field b o 4) 32 / 256
  | _ => signed (field b o 3) 24

/-! ### Conversion by a factor of two (R291) -/

/-- A value in 2⁻²⁸ as a whole number; which way one between two whole numbers goes is open. -/
def filterRound (a : Int) : Int :=
  if a % 2 ^ 28 = 0 then a / 2 ^ 28 else a / 2 ^ 28 + (Config.halfBandRound a % 2 : Nat)

/-- The half-band filter over the sequence `x`, centred on `c` at the higher rate: its odd coefficients, those at even distances
being zero, and one half at its centre. -/
def halfBandSum (x : Int → Int) (c : Int) : Int :=
  2 ^ 27 * x c + ((List.range 16).map fun i =>
    let d : Int := 2 * i + 1
    Config.halfBand d.toNat * (x (c - d) + x (c + d))).sum

/-- Sample `m` of the converted sequence: to half the rate of `x`, or with `up` to twice its rate, where the samples between
those of `x` are zero and the sum doubles. The content comes 16 samples of the lower rate later. -/
def converted (up : Bool) (x : Int → Int) (m : Int) : Int :=
  if up then filterRound (2 * halfBandSum (fun k => if k % 2 = 0 then x (k / 2) else 0) (m - 32))
  else filterRound (halfBandSum x (2 * m - 32))

/-- A converted sample as a line holds it, in 24 bits. -/
def lineValue (y : Int) : Int := if -8388608 ≤ y ∧ y ≤ 8388607 then y else (BitVec.ofInt 24 (Config.overshoot y)).toInt

/-- The sample of index `k` among the cells `l` from `key` on, `n` of them; one that is not there, from before sample `start`, or
from before a step of its TB, reads zero. -/
def heldSample (l : Sparse LineCell) (key n start steps : Nat) (k : Int) : Int :=
  if k < start then 0
  else match find l (key + k.toNat % n) with
    | none => 0
    | some c => if c.index = k.toNat ∧ c.steps = steps then c.value else 0

/-- Samples `vs` from index `k` on held in the cells from `key` on. -/
def holdSamples (l : Sparse LineCell) (key n steps : Nat) (k : Int) (vs : List Int) : Sparse LineCell :=
  (vs.zipIdx).foldl (fun l v =>
    let i := k + v.2
    if i < 0 then l else put l (key + i.toNat % n) ⟨i.toNat, steps, v.1⟩) l

/-- A write or read of `n` samples in the bank group of granule `b`. -/
def noteBank (s : State) (b n : Nat) : State :=
  let g := bankOf b
  { s with place := { s.place with bankBytes := set 0 s.place.bankBytes g (get 0 s.place.bankBytes g + 3 * n) } }

/-- The values `vs` written to a line of `g` granules from `base` on, from sample `n` on; samples before index 0 have no
place. -/
def writeLine (s : State) (base g : Nat) (steps : Nat) (n : Int) (vs : List Int) : State :=
  let s := noteBank s base vs.length
  let l := (vs.zipIdx).foldl (fun l v =>
    let k := n + v.2
    if k < 0 then l else put l (base * 1024 + k.toNat % (g * 1024)) ⟨k.toNat, steps, v.1⟩) s.acc.lines
  { s with acc := { s.acc with lines := l } }

/-- The samples of one channel written to input channel `i`'s line, and to the copy of a line in motion (R326). -/
def writeChannel (s : State) (i : Nat) (e : BitVec 128) (steps : Nat) (n : Int) (vs : List Int) : State :=
  let s := writeLine s (fld e 100 80) (fld e 107 101) steps n vs
  (s.place.lineMoves.filter fun m => m.input == i && decide ((m.a0 : Int) < n + vs.length)).foldl
    (fun s m => writeLine s m.toBase (fld e 107 101) steps n vs) s

def subRun (s : State) (u : Nat) : SubRun := get ⟨[], 0, []⟩ s.acc.subs u

def putSubRun (s : State) (u : Nat) (x : SubRun) : State :=
  { s with acc := { s.acc with subs := set ⟨[], 0, []⟩ s.acc.subs u x } }

/-- The samples `vs` of one channel of a converting subscription, from stream index `m` on, as input channel `i` takes them from
job index `n` on. -/
def convertInput (s : State) (conv i start steps : Nat) (m n : Int) (vs : List Int) : State × List Int :=
  let raw := holdSamples s.acc.raw (i * 256) 256 steps m vs
  let x := heldSample raw (i * 256) 256 (toStream conv start) steps
  ({ s with acc := { s.acc with raw := raw } },
    (List.range (toJob conv vs.length)).map fun k => lineValue (converted (conv == 2) x (n + k)))

/-- The samples of an accepted packet of subscription `u`, with the first at stream index `m` and at job index `n`, into their
lines. -/
def storePacket (s : State) (j u : Nat) (c : BitVec 512) (rate : Nat) (b : List Byte) (o : Nat) (m n : Int) : State :=
  let d := jobPart s j
  let fmt := fld c 494 493
  let conv := fld c 492 491
  let count := packetSamples (fld c 490 489) rate
  let step := (fld c 488 482 + 1) * sampleBytes fmt
  let steps := (tb s (jobTb (d.job j))).steps
  let s := (d.validInputs.filter fun e => fld e.2 126 115 == u).foldl (fun s e =>
    let vs := (List.range count).map fun k => readSample fmt b (o + k * step + fld e.2 114 108 * sampleBytes fmt)
    let (s, vs) := if conv = 1 ∨ conv = 2 then convertInput s conv e.1 (job s j).start steps m n vs else (s, vs)
    writeChannel s e.1 e.2 steps n vs) s
  let x := subRun s u
  putSubRun s u { x with accepted := if n < 0 then x.accepted else n.toNat :: x.accepted,
                         last := (n + toJob conv count - 1).toNat }

/-- An input packet of frame `x` with bytes `b` taken by subscription `u` on cluster `k` (R281). -/
def takePacket (s : State) (k : Nat) (x : Frame) (b : List Byte) (u : Nat) : State :=
  match subJob s u with
  | none => s
  | some j =>
    let run := job s j
    if run.state = 5 ∧ run.restart = none then s
    else
      let d := s.acc.inForce.job j
      let c := get 0 s.acc.inForce.subs u
      let fs := jobRate d
      let rate := convRate fs (fld c 492 491)
      let s := (jobEngines s j).foldl (fun s e => if e / 8 = k then perfEvent s e 0x30 1 else s) s
      match readPacket c rate b with
      | none => bump s Ctr.sub [u] 5 1
      | some (ts, o) =>
        let t := x.stamp.tb.getD (jobTb d) 0
        let m := packetIndex c rate ts t
        let n := if fld c 492 491 = 1 then m / 2 else if fld c 492 491 = 2 then m * 2 else m
        let due : Int := n * fracPerSec + linkOffset d * fracPerUs * fs
        if 0 ≤ n ∧ (subRun s u).accepted.contains n.toNat then bump s Ctr.sub [u] 4 1
        else if t * fs < due - 20000 * fracPerUs * fs then bump s Ctr.sub [u] 2 1
        else if due - 10 * fracPerUs * fs < t * fs then bump s Ctr.sub [u] 1 1
        else storePacket (bump s Ctr.sub [u] 0 1) j u c rate b o m n

/-- INPUT_PACKET_RX: an engine of cluster `k` takes the oldest copy that waits at its cluster port; every subscription
there to its stream takes its samples, and the port's reference is released (R277). -/
def execInputPacketRx (k : Fin 8) (s : State) : Host.Outcome State Fault Refusal :=
  match s.acc.inbox.find? fun e => e.1 == k.val with
  | none => done s
  | some e =>
    let s := { s with acc := { s.acc with inbox := s.acc.inbox.erase e } }
    match frame s e.2.frame with
    | none => done s
    | some x =>
      let b := unclosed x.bytes
      let us := match x.stream with | some h => clusterSubs s k h | none => []
      done (releaseCopy (us.foldl (fun s u => takePacket s k x b u) s) e.2)

/-- The samples at the job's rate of one packet of subscription `c` of a job at rate `fs`. -/
def subSamples (c : BitVec 512) (fs : Nat) : Nat :=
  toJob (fld c 492 491) (packetSamples (fld c 490 489) (convRate fs (fld c 492 491)))

/-- INPUT_DEADLINE: the deadline of the packet of subscription `u` whose first sample is `index` passes; a packet that was not
accepted counts once (R282). -/
def execInputDeadline (u : Fin 4096) (index el : Nat) (s : State) : Host.Outcome State Fault Refusal :=
  let s := advance el s
  match subJob s u with
  | none => done s
  | some j =>
    let d := s.acc.inForce.job j
    let past := decide ((index * fracPerSec + linkOffset d * fracPerUs * jobRate d : Nat) ≤ tbFrac s (jobTb d) * jobRate d)
    let c := get 0 s.acc.inForce.subs u
    let x := subRun s u
    if past && flag c 511 && index % subSamples c (jobRate d) == 0 && !x.accepted.contains index && !x.missed.contains index then
      done (bump (putSubRun s u { x with missed := index :: x.missed }) Ctr.sub [u] 3 1)
    else done s

/-! ### Output packets (R283, R288, R289, R292) -/

/-- Line sample `n` of input channel `i` for a job that starts at `start` and whose TB has stepped `steps` times (R282); a channel with
VALID 0 takes no part (R285). -/
def lineSample (s : State) (i start steps : Nat) (n : Int) : Int :=
  let e := get 0 s.acc.inForce.inputs i
  if flag e 127 then heldSample s.acc.lines (fld e 100 80 * 1024) (fld e 107 101 * 1024) start steps n else 0

/-- One tap's product at sample `m` (R288). -/
def tapTerm (s : State) (start steps m : Nat) (t : TapRun) : Int :=
  let v := lineSample s t.input start steps ((m : Int) - t.delay)
  (if t.invert then -v else v) * t.gainAt m / 4096

/-- The sum A of a route at sample `m`. -/
def routeSum (s : State) (c start steps m : Nat) : Int :=
  let r := get emptyRoute s.acc.routes c
  ((r.live ++ r.fading.filter fun t => decide (m + 1 < t.startAt + t.len)).map (tapTerm s start steps m)).sum

/-- The sample that FORMAT `fmt` carries for the sum `a`, and whether it was limited (R289). -/
def resultOf (fmt : Nat) (a : Int) : Int × Bool :=
  if fmt = 0 then
    let y := (a + 8388608) / 16777216
    (heldInt (-32768) 32767 y, y < -32768 || 32767 < y)
  else
    let y := (a + 32768) / 65536
    let z := heldInt (-8388608) 8388607 y
    (if fmt = 3 then z * 256 else z, y < -8388608 || 8388607 < y)

/-- The route that feeds slot `k` of output stream `o`. -/
def slotRoute (d : AccDesc) (o k : Nat) : Option Nat :=
  (d.validRoutes.find? fun e => fld e.2 126 116 == o && fld e.2 115 109 == k).map Prod.fst

/-- The results of one slot of a packet of output stream `o`, `n` of them from stream sample `m` on: the route's sums, converted
where the stream converts, and limited. -/
def slotValues (s : State) (j o slot m n : Nat) : State × List (Int × Bool) :=
  let d := jobPart s j
  let e := get 0 d.outs o
  let conv := outConv e
  let start := (job s j).start
  let steps := (tb s (jobTb (d.job j))).steps
  let first := toJob conv m
  match slotRoute d o slot with
  | none => (s, List.replicate n (0, false))
  | some c =>
    let sums := (List.range (toJob conv n)).map fun i => routeSum s c start steps (first + i)
    if conv = 0 then (s, sums.map (resultOf (fld e 1022 1021)))
    else
      let key := (o * 128 + slot) * 64
      let x (k : Int) : Int :=
        if k < first then heldSample s.acc.sums key 64 start steps k else sums.getD (k - first).toNat 0
      ({ s with acc := { s.acc with sums := holdSamples s.acc.sums key 64 steps first sums } },
        (List.range n).map fun i => resultOf (fld e 1022 1021) (converted (conv == 1) x ((m + i : Nat) : Int)))

/-- The samples of one packet of output stream `o`, sample by sample with channels in order, and the number limited. -/
def packetValues (s : State) (j o m : Nat) : State × List Int × Nat :=
  let d := jobPart s j
  let e := get 0 d.outs o
  let n := outSamples e (jobRate (d.job j))
  let (s, slots) := (List.range (fld e 1016 1010 + 1)).foldl (fun (a : State × List (List (Int × Bool))) k =>
    let (s, l) := slotValues a.1 j o k m n
    (s, a.2 ++ [l])) (s, [])
  let vs := (List.range n).flatMap fun i => slots.map fun l => l.getD i (0, false)
  (s, vs.map Prod.fst, (vs.filter Prod.snd).length)

/-- One's complement sum of the IPv4 pseudo header of UDP. -/
def udpPseudo (sip dip len : Nat) : Nat := onesSum (toBytes 4 sip ++ toBytes 4 dip) 0 + 17 + len

/-- An RTP packet in UDP and IPv4 (R292); a UDP checksum of zero is sent as 0xFFFF (RFC 768). -/
def rtpFrame (e : BitVec 1024) (seq ts : Nat) (payload : List Byte) : List Byte :=
  let rtp := [0x80, BitVec.ofNat 8 (fld e 979 973)] ++ toBytes 2 seq ++ toBytes 4 ts ++ toBytes 4 (fld e 924 893) ++ payload
  let len := rtp.length + 8
  let ip (c : Nat) : List Byte := [0x45, BitVec.ofNat 8 (fld e 993 988 * 4)] ++ toBytes 2 (len + 20) ++ [0, 0, 0x40, 0] ++
    [BitVec.ofNat 8 (fld e 987 980), 17] ++ toBytes 2 c ++ toBytes 4 (fld e 796 765) ++ toBytes 4 (fld e 764 733)
  let udp (c : Nat) : List Byte := toBytes 2 (fld e 732 717) ++ toBytes 2 (fld e 716 701) ++ toBytes 2 len ++ toBytes 2 c ++ rtp
  let c := checksum (udp 0) (udpPseudo (fld e 796 765) (fld e 764 733) len)
  [0x08, 0x00] ++ ip (checksum (ip 0) 0) ++ udp (if c = 0 then 0xFFFF else c)

/-- An AAF packet of IEEE 1722 (R292). -/
def aafFrame (e : BitVec 1024) (rate seq ts : Nat) (payload : List Byte) : List Byte :=
  let ch := fld e 1016 1010 + 1
  let (f, depth) := aafFormat (fld e 1022 1021)
  [0x22, 0xF0, 2, 0x81, BitVec.ofNat 8 seq, 0] ++ toBytes 8 (fld e 700 637) ++ toBytes 4 ts ++
    [BitVec.ofNat 8 f, BitVec.ofNat 8 (aafRate rate * 16 + ch / 256), BitVec.ofNat 8 ch, BitVec.ofNat 8 depth] ++
    toBytes 2 payload.length ++ [0, 0] ++ payload

/-- Sequence number and timestamp of the packet of stream `e` that starts at stream sample `m`. -/
def packetSeq (e : BitVec 1024) (fs m : Nat) : Nat :=
  (m / outSamples e fs + fld e 972 957) % (if fld e 1022 1021 < 2 then 65536 else 256)
def packetTs (e : BitVec 1024) (fs m : Nat) : Nat :=
  let rate := convRate fs (outConv e)
  ((if fld e 1022 1021 < 2 then m else m * 1000000000 / rate) + fld e 956 925) % 2 ^ 32

/-- The frame of one output packet, without FCS (R292). -/
def outFrame (e : BitVec 1024) (fs m : Nat) (vs : List Int) : List Byte :=
  let fmt := fld e 1022 1021
  let n := sampleBytes fmt
  let payload := vs.flatMap fun v => toBytes n (unsigned v (8 * n))
  let tag := if flag e 1009 then toBytes 2 0x8100 ++ toBytes 2 (fld e 1008 1006 * 8192 + fld e 1005 994) else []
  toBytes 6 (fld e 892 845) ++ toBytes 6 (fld e 844 797) ++ tag ++
    if fmt < 2 then rtpFrame e (packetSeq e fs m) (packetTs e fs m) payload
    else aafFrame e (convRate fs (outConv e)) (packetSeq e fs m) (packetTs e fs m) payload

/-- An output frame that is not of a protected stream, on a unit that does not inject it (R302). -/
def withheld (s : State) (k : Nat) (b : List Byte) : Bool :=
  (role s == 2 || role s == 3) && !injectedProt s (80 + k) b

/-- The time C of a packet of `e` that starts at stream sample `m`, times the rate, plus `extra` µs (R283). -/
def computeTime (e : BitVec 1024) (x : BitVec 512) (m extra : Nat) : Nat :=
  let fs := jobRate x
  (m + outSamples e fs) * fracPerSec + (linkOffset x + extra) * fracPerUs * convRate fs (outConv e)

/-- The taps of the routes of output stream `o`, each by its input channel, and the products that each forms over the `n` samples
of its job from `m` on. -/
def tapProducts (s : State) (d : AccDesc) (o m n : Nat) : List (Nat × Nat) :=
  ((d.validRoutes.filter fun c => fld c.2 126 116 == o).flatMap fun c =>
    let r := get emptyRoute s.acc.routes c.1
    (r.live.map fun t => (t.input, n)) ++ r.fading.map fun t => (t.input, min n (t.startAt + t.len - 1 - m))).filter
      fun t => flag (get 0 d.inputs t.1) 127

/-- Packet `m` of output stream `o` computed: counted, and its frame on its way to injection. -/
def computePacket (s : State) (j o m : Nat) : State :=
  let d := jobPart s j
  let x := d.job j
  let fs := jobRate x
  let e := get 0 d.outs o
  let n := outSamples e fs
  let engine := (job s j).engine
  let (s, vs, clips) := packetValues s j o m
  let taps := tapProducts s d o (toJob (outConv e) m) (toJob (outConv e) n)
  let s := taps.foldl (fun s t => noteBank s (fld (get 0 d.inputs t.1) 100 80) t.2) s
  let s := if clips = 0 then s else bump s Ctr.jobClip [j] 0 clips
  let s := perfEvent (perfEvent (perfEvent s engine 0x31 1) engine 0x32 (taps.map Prod.snd).sum) engine 0x33 clips
  let s := { s with acc := { s.acc with outNext := put s.acc.outNext o (m + n) } }
  let k := engine / 8
  let b := outFrame e fs m vs
  if withheld s k b then s
  else
    let due : Int := (computeTime e x m 250 / convRate fs (outConv e) : Nat)
    askDram s 3 (k + 1) (.accordOut k o (jobTb x) due b)

/-- OUTPUT_PACKET_COMPUTE: the next packet of output stream `o` is computed, no earlier than its C and under every command
whose apply sample it has reached. -/
def execOutputPacketCompute (o : Fin 2048) (el : Nat) (s : State) : Host.Outcome State Fault Refusal :=
  let s := advance el s
  match (activeJobs s).find? fun j => (jobPart s j).validOuts.any fun e => e.1 == o.val with
  | none => done s
  | some j =>
    let s := resume s j
    let x := s.acc.inForce.job j
    let m := get 0 s.acc.outNext o
    let e := get 0 s.acc.inForce.outs o
    let rate := convRate (jobRate x) (outConv e)
    if (job s j).state = 5 ∨ stepped s j ∨ tbFrac s (jobTb x) * rate < (computeTime e x m 0 : Nat) then done s
    else
      let at0 := outAt s o
      let waits := (job s j).pending.any fun c => decide (c.sample ≤ at0) && !outsReached s j c.sample
      if waits then done s
      else
        let s := takeDue 2 s j at0
        if (job s j).state = 0 ∨ !flag (get 0 s.acc.inForce.outs o) 1023 then done s
        else done (computePacket s j o m)

end Sys2Proof.Machine
end

