-- ==== Sys2Proof/Machine/Transmit.lean ====
section
/-! DEFINITION. DEQUEUE_DECISION: a port's frame boundary, the frame that ends, the apply points met, and the copy that
begins next, for front ports, trunks and the internal ports (R66, R75, R195 to R198, R215 to R231). -/
namespace Sys2Proof.Machine

/-- A stamp asked for by a host transmit frame is taken at its first egress with a stamp point (R448). -/
def noteStamp (s : State) (f : Nat) (stamp : Stamp) : State :=
  if s.host.txPending.any fun e => e.2.any fun t => t.frame == some f && t.tsReq then
    let mark (t : TxPending) : TxPending :=
      if t.frame = some f ∧ t.tsReq ∧ t.stamp.isNone then { t with stamp := some stamp } else t
    { s with host := { s.host with txPending := s.host.txPending.map fun e => (e.1, e.2.map mark) } }
  else s

/-- A half-duplex frame has been sent: it counts by the collisions that it met (R102). -/
def countCollisions (s : State) (p : Nat) : State :=
  let n := (port s p).collisions
  if n = 0 then s
  else countPort (putPort s p { port s p with collisions := 0 }) p (if n = 1 then 35 else 36) 1

/-- Port `p` sends with preamble and gaps: a front port that is no trunk, or the twin port. -/
def hasLine (s : State) (p : Nat) : Bool := stampPoint s p || p == 94

/-- The tick at which the last of `n` bytes begun at `start` leaves port `p`, its 8 bytes of preamble included. -/
def lineEnd (s : State) (p start n : Nat) : Nat := if hasLine s p then start + lineTicks s p (n + 8) else start

/-- The gap of 12 bytes behind a frame of `n` bytes that began at `start` (R70). -/
def keepGap (s : State) (p start n : Nat) : State :=
  if hasLine s p then
    let x := port s p
    putPort s p { x with wakeAt := max x.wakeAt (start + lineTicks s p (n + 20)), activeAt := max x.activeAt (lineEnd s p start n) }
  else s

/-- A copy in transmission leaves by trunk group `g` as a leaf. -/
def sendGroup (s : State) (p g : Nat) (x : Frame) (y : Sending) (b : List Byte) : State :=
  let s := countQueue (digestSent s p (fromAccord x) y.stamp b) y.queue b.length
  let s := match portGroup s x.inPort with
    | some f => if x.steered then noteFeed s g f else s
    | none => s
  sendTrunk s g y.queue x.prot b

/-- The transmission at port `p` ends once the whole frame has left. Answers whether the port is free. -/
def endSending (s : State) (p : Nat) : State × Bool :=
  match find s.sched.sending p with
  | none => (s, true)
  | some y =>
    match frame s y.frame with
    | none => (clearLine s p y s.time.dt, true)
    | some x =>
      let n := (wireBytes s x y.copy p y.stamp).2.length
      let t := lineEnd s p y.startedAt n
      if !x.whole || (port s p).backingOff.isSome || decide (s.time.dt < t) then (s, false)
      else
        let s := countCollisions (noteStamp (clearLine s p y t) y.frame y.stamp) p
        let s := match portGroup s p with
          | some g =>
            let (s, b) := wireBytes s x y.copy p y.stamp
            sendGroup s p g x y b
          | none => sendCopy s x y p
        let s := noteDelay s y.queue y.copy y.stamp.dt
        (releaseCopy (keepGap s p y.startedAt n) y.copy, true)

/-- A frame of the device's own has left port `p`: it counts, and what waits for its stamp has it. -/
def ownSent (s : State) (p : Nat) (z : OwnSending) : State :=
  let s := putPort s p { port s p with ownNow := none }
  let s := countCollisions (countTx s p z.wire.length (field z.wire 0 6) true) p
  let s := match z.own.use with
    | .control i => countPort s p i 1
    | .twin => s
    | .ptp _ _ _ _ _ _ _ => s
  messageSent (keepGap (sendBytes s p false z.stamp z.wire) p z.startedAt z.wire.length) p z.own z.stamp

/-- A frame of the device's own in transmission ends so. Answers whether the port is free. -/
def endOwn (s : State) (p : Nat) : State × Bool :=
  match (port s p).ownNow with
  | none => (s, true)
  | some z =>
    if (port s p).backingOff.isSome || decide (s.time.dt < lineEnd s p z.startedAt z.wire.length) then (s, false)
    else (ownSent s p z, true)

/-- The changes that a decision of port `p` applies after its gate list: FRM fields, then the routes and descriptors of
its member queues (R231). -/
def applyPending (s : State) (p : Nat) : State :=
  let s := capCredits (applyRoutes (frameBoundary (settleCredit s p) p false)) p
  (keys s.sched.configWait).foldl (fun s q => if queuePort s q = p then applyQueue s q else s) s

/-- The group-address filter of port `p` discards a frame to `da` (R75). -/
def groupFiltered (s : State) (p da : Nat) : Bool :=
  let bcast := da == 2 ^ 48 - 1
  decide (p < 80) && macRd s Reg.hpGfCtrl Reg.cpGfCtrl p 0 0 == 1 && bit da 40 &&
    !(bcast && macRd s Reg.hpGfCtrl Reg.cpGfCtrl p 1 1 == 1) &&
    (let r := ~~~ crc 0x04C11DB7#32 (BitVec.allOnes 32) ((toBytes 6 da).flatMap bitsLsb)
     let i := fld r 31 23
     !(if p < 48 then rdBit s Reg.hpGfTable [p, i / 32] (i % 32) else rdBit s Reg.cpGfTable [p - 48, i / 32] (i % 32)))

/-- Why the copy at the head of a queue is removed before it can be served. -/
inductive HeadDrop where
  /-- Its frame proved bad (R208). -/
  | bad
  /-- The group-address filter discards it (R75). -/
  | filtered
  /-- It fits no window of the list in force (R227). -/
  | window
  deriving DecidableEq, Repr

/-- The copy at the head of queue `q` of port `p` that is removed, and why. -/
def headDrop (s : State) (p q : Nat) : Option (Copy × HeadDrop) :=
  match (queue s q).copies with
  | [] => none
  | c :: _ =>
    match frame s c.frame with
    | none => none
    | some x =>
      if x.bad then some (c, .bad)
      else if copyReady s q c && groupFiltered s p (field x.bytes 0 6) then some (c, .filtered)
      else if x.whole && fitsNoWindow s p q x x.length then some (c, .window)
      else none

/-- The head copies of queue `q` that are removed so. -/
def dropHeads : Nat → State → Nat → Nat → State
  | 0, s, _, _ => s
  | n + 1, s, p, q =>
    match headDrop s p q with
    | none => s
    | some (c, r) =>
      let s := releaseCopy (takeCopy s q c) c
      dropHeads n (match r with
        | .bad => s
        | .filtered => countPort s p 33 1
        | .window => bump s Ctr.queue [q] 3 1) p q

/-- Queue `q` is charged for a frame of `n` bytes: its token balance, and the credit of its class (R218, R219). -/
def chargeShapers (s : State) (p cls q n : Nat) : State :=
  let s := settleBalance s q
  let s := if flag (queueCfg s q) 245 then
      let x := queue s q
      putQueue s q { x with balance := x.balance - ((n + rd s Reg.schedPortCfg [p] 21 16) * 100000 : Nat) }
    else s
  spendCredit s p cls n

/-- The copy `c` of frame `x` begins at a port with a line: it leaves its queue and its stamp is taken. -/
def beginSending (s : State) (p cls q : Nat) (c : Copy) (x : Frame) : State :=
  let s := takeCopy s q c
  let y : Sending :=
    { frame := c.frame, copy := c, queue := q, cls := cls, startedAt := s.time.dt, stamp := egressStamp s p, cut := !x.whole }
  let s := { s with sched := { s.sched with sending := put s.sched.sending p y } }
  let s := if halfDuplex s p then putPort s p { port s p with deferred := false, collisions := 0, carrierErr := false } else s
  if x.whole then s else bump s Ctr.sched [] 0 1

/-- The copy `c` of frame `x` leaves by an internal port that has no line: to an engine cluster (R197), through a DRAM
buffer to the host or MC1 (R196), or into new cells, with its reference released once it is there (R198). -/
def serveInternal (s : State) (p q : Nat) (c : Copy) (x : Frame) : State :=
  if p < 88 then
    let s := leaveNow s q c x.length
    { s with acc := { s.acc with inbox := s.acc.inbox ++ [(p - 80, c)] } }
  else if p < 90 then
    if ringOn s false (rxRing s p (queueClass s q)) then askDram s 1 0 (.hostRx p q)
    else leaveQueue (countRx s (rxRing s p (queueClass s q)) 2) q c x.length
  else if p < 94 then
    let (s, b) := wireBytes s x c p (stampNow s)
    (enterWhole (leaveNow s q c b.length) p (closed (unclosed b)) none fun x => { x with source := some c }).1
  else askDram s 4 9 (.management q)

/-- The decision of port `p` (R216). -/
def serveNext (s : State) (p : Nat) : State :=
  match decideQueue s p with
  | none => s
  | some (cls, q, s') =>
    match (queue s q).copies with
    | [] => s
    | c :: _ =>
      match frame s c.frame with
      | none => s
      | some x =>
        let s := chargeShapers s' p cls q x.length
        if p < 80 ∨ p = 94 then beginSending s p cls q c x else serveInternal s p q c x

/-- Port `p` waits for a DRAM buffer for the copy it has chosen. -/
def awaitsBuffer (s : State) (p : Nat) : Bool :=
  s.bpm.dramReqs.any fun r =>
    match r.use with
    | .hostRx e _ => e == p
    | .management _ => p == 95
    | _ => false

/-- A half-duplex port defers to carrier (R100); the first attempt of a frame that does counts TX_DEFERRED. -/
def deferToCarrier (s : State) (p : Nat) : State :=
  if ((nextOwn s p).isSome || (decideQueue s p).isSome) && !(port s p).deferred then
    countPort (putPort s p { port s p with deferred := true }) p 40 1
  else s

/-- What has been transmitted at port `p` ends. Answers whether the port is free. -/
def endLine (s : State) (p : Nat) : State × Bool :=
  match endSending s p with
  | (s, false) => (s, false)
  | (s, true) => endOwn s p

/-- The head copies of the queues of port `p` that cannot be served are removed. -/
def clearHeads (s : State) (p : Nat) : State :=
  ((busyQueues s).filter fun q => queuePort s q == p).foldl (fun s q => dropHeads (queue s q).copies.length s p q) s

/-- A frame boundary of port `p` (R231): what has been sent ends; the gate list, the FRM fields and the PKT fields that are due
take effect; and the next frame is chosen, one of the device's own before those of the queues. -/
def boundary (s : State) (p : Nat) : State :=
  let s := if p < 80 then gateCatchUp gateFuel s p else s
  match endLine s p with
  | (s, false) => s
  | (s, true) =>
    if awaitsBuffer s p || (p == 95 && coreDown s 1) then s
    else
      let s := applyPending s p
      let s := if linkUp s p then clearHeads s p else s
      if s.time.dt < (port s p).wakeAt then s
      else if halfDuplex s p && (port s p).carrier then deferToCarrier s p
      else match nextOwn s p with
        | some o => beginOwn s p o
        | none => serveNext (settleCredit s p) p

/-- DEQUEUE_DECISION. -/
def execDequeueDecision (p : Fin 96) (el : Nat) (s : State) : Host.Outcome State Fault Refusal :=
  let s := advance el s
  done (if stopped s then s else flowUpdate (boundary s p) false)

end Sys2Proof.Machine
end

