-- ==== Sys2Proof/Machine/Links.lean ====
section
/-! DEFINITION. Links of the front ports, their negotiation and training, and the optical and cable modules (R54 to R63,
R81 to R85). -/
namespace Sys2Proof.Machine

/-! ### A link goes down or comes up (R62, R63) -/

/-- The mode code of a LINK record; the spec gives copper modes none, and theirs is a free value. -/
def linkRecord (s : State) (p : Nat) (up : Bool) : State :=
  let code := if p < 48 then laneMode s p else fld (freeWord s) 7 0
  record (if p < 48 then s else spend s) 5 (bnat up) p (toBytes 1 code)

/-- The copies that wait in the queues of port `p`, except in VOQs, are discarded (R63). -/
def dropQueued (s : State) (p : Nat) : State :=
  let qs := (busyQueues s).filter fun q => queuePort s q == p && queueUse s q != 3
  qs.foldl (fun s q =>
    (queue s q).copies.foldl (fun s c => releaseCopy (countDown (takeCopy s q c) q 1) c) s) s

/-- The bytes on the line of the transmission `y` of port `p`, as far as they have been received. -/
def lineBytes (s : State) (p : Nat) (x : Frame) (y : Sending) : Nat :=
  if x.whole then (wireBytes s x y.copy p y.stamp).2.length else (sentBody s x y.copy p).length

/-- Bytes that an attempt begun at tick `start` has sent of a frame of `n` bytes; a port that is backing off sends none. -/
def leftSoFar (s : State) (p start n : Nat) : Nat :=
  if (port s p).backingOff.isSome then 0 else min n (sentSoFar (s.time.dt - start) (portRate s p))

/-- The transmission of a copy at port `p` is cut off: it counts, and those of its bytes that have left do (R63). -/
def cutSending (s : State) (p : Nat) : State :=
  match find s.sched.sending p with
  | none => s
  | some y =>
    match frame s y.frame with
    | none => clearLine s p y s.time.dt
    | some x => endCut (countPort (countPort s p 34 1) p 24 (leftSoFar s p y.startedAt (lineBytes s p x y))) p y

/-- What port `p` transmits is cut off: a copy, or a frame of the device's own. -/
def cutTransmission (s : State) (p : Nat) : State :=
  let s := cutSending s p
  match (port s p).ownNow with
  | none => s
  | some z =>
    let s := countPort (countPort s p 34 1) p 24 (leftSoFar s p z.startedAt z.wire.length)
    putPort s p { port s p with ownNow := none }

/-- A port with no link keeps nothing of flow control, of half duplex and of the frames of the device's own. -/
def Port.cleared (x : Port) : Port :=
  { x with paused := none, pfc := List.replicate 8 none, xoffSent := false, pfcSent := 0, backPressure := false,
           carrier := false, deferred := false, collisions := 0, backingOff := none, wakeAt := 0, carrierErr := false,
           own := [], ownNow := none }

/-- A port whose link is up loses it. -/
def portDown (s : State) (p : Nat) (clear : State → State) : State :=
  if linkUp s p then
    let s := clear (dropQueued (cutTransmission (leaveLpi (cutOff s p) p) p) p)
    let s := flushPort (countPort s p 38 1) p
    linkRecord (putPort s p (port s p).cleared) p false
  else s

/-- FEC_ACT of an H-port: the negotiated FEC, else FEC_SEL (R58, R59). -/
def showFec (s : State) (n : Nat) : State :=
  wr s Reg.hpLinkStat [n] 6 4 ((port s n).negotiatedFec.getD (rd s Reg.hpCfg [n] 10 8))

/-- MDIX_ACT while the link is down reads MDIX_FORCE, or 0 under automatic crossover (R95). -/
def downMdix (s : State) (c : Nat) : Nat := if rdBit s Reg.cpCfg [c] 12 then 0 else rd s Reg.cpCfg [c] 13 13

/-- The module of master `k` holds the ports that it serves down: it is not READY after an insertion or a removal (R83, R84). -/
def moduleHolds (s : State) (k : Nat) : Bool := if modState s k < 2 then (modul s k).removed else modState s k != 4

/-- The master that serves H-port `p` holds it down. -/
def moduleHeld (s : State) (p : Nat) : Bool := decide (p < 48) && (masterOf s p).any (moduleHolds s)

/-- The transmitter of port `p` is released: bypass switches open, calibration sound, no module that holds it down and no cable
diagnostic in progress, on a unit that has not declared its failure and is in no rerun (R83, R106, R390, R398, R521,
Table 16-5). -/
def released (s : State) (p : Nat) : Bool :=
  !s.twin.failSent && !offline s && !moduleHeld s p && !s.power.idleLanes.contains p &&
    !(decide (40 ≤ p ∧ p < 48) && (s.twin.pairs.getD ((p - 40) / 2) ⟨true⟩).closed) &&
    !(decide (48 ≤ p) && rdBit s Reg.cpDiagCtrl [p - 48] 3)

/-- The link of port `p` comes up. -/
def linkGained (s : State) (p : Nat) : State :=
  let x := port s p
  let s := putPort s p { x with localFault := false, remoteFault := x.remoteFault && decide (48 ≤ p), anNoMatch := false,
                                activeAt := s.time.dt }
  linkRecord s p true

/-- The module that serves lane `n` reports passive or active copper cable (R60). -/
def copperCable (s : State) (n : Nat) : Bool :=
  (masterOf s n).any fun k => modState s k == 4 && (rd s Reg.hpModStat [4 * k] 10 8 == 1 || rd s Reg.hpModStat [4 * k] 10 8 == 2)

/-- Auto-negotiation is in effect on H-port `n`. -/
def anEffective (s : State) (n : Nat) : Bool := rdBit s Reg.hpCfg [n] 3 && copperCable s n

/-- Link training is in effect; 1000BASE-X has none (Table 3-1). -/
def ltEffective (s : State) (n : Nat) : Bool := rdBit s Reg.hpCfg [n] 4 && copperCable s n && laneMode s n != 1

/-- The port registers of the window serve lane `n` now (R54, R471). -/
def hWindow (s : State) (n : Nat) : Bool := windowsOpen s && isHPort s n

def cWindow (s : State) (c : Nat) : Bool := windowsOpen s && isCPort s c

/-- Copper port `c` runs a forced speed without negotiation (R92). -/
def forced (s : State) (c : Nat) : Bool := !rdBit s Reg.cpCfg [c] 3 && decide (rd s Reg.cpCfg [c] 5 4 < 2)

/-! ### Acquiring a link (R59 to R61, R90, R96) -/

/-- FEC_SET of lane `n`. -/
def fecSet (s : State) (n : Nat) : Nat := (s.image.lanes.getD n ⟨0, 0xFF, 1⟩).fecSet.toNat

/-- The full-duplex speeds that copper port `c` advertises, bits 0 to 2. -/
def advFull (s : State) (c : Nat) : Nat := if rdBit s Reg.cpCfg [c] 3 then rd s Reg.cpCfg [c] 10 8 else 4

/-- The half-duplex speeds that it advertises, bits 0 and 1. -/
def advHalf (s : State) (c : Nat) : Nat :=
  if rdBit s Reg.cpCfg [c] 3 && rdBit s Reg.cpCfg [c] 11 then rd s Reg.cpCfg [c] 9 8 else 0

/-- EEE that it advertises, bit 0 at 100 and bit 1 at 1,000 Mb/s (R90, R92). -/
def advEee (s : State) (c : Nat) : Nat := if !rdBit s Reg.cpCfg [c] 14 then 0 else if rdBit s Reg.cpCfg [c] 3 then 3 else 2

/-- What port `p` advertises. -/
def advertisement (s : State) (p : Nat) : Advertised :=
  if p < 48 then .clause73 (laneMode s p) (fecSet s p)
  else
    let c := p - 48
    let rx := rdBit s Reg.cpFlow [c] 5
    .clause28 (advFull s c) (advHalf s c) (advEee s c) (rd s Reg.cpFlow [c] 1 0 == 1 && rx) (rdBit s Reg.cpFlow [c] 4 != rx)
      (rd s Reg.cpCfg [c] 19 18)

/-- Port `p` negotiates. -/
def negotiates (s : State) (p : Nat) : Bool := if p < 48 then anEffective s p else !forced s (p - 48)

/-- Port `p` begins to acquire its link, if it may: what it advertises leaves where it negotiates, and the time for training
runs. -/
def beginLink (s : State) (p : Nat) : State :=
  if portEn s p && released s p then
    let s := putPort s p { port s p with trainAt := s.time.dt, trainingAbandoned := false }
    if negotiates s p then emit s (.advertise p (advertisement s p)) else s
  else s

/-- Front port `p` loses its link, its lock and its negotiation, and acquires a link anew where it may. -/
def linkLost (s : State) (p : Nat) : State :=
  let s :=
    if p < 48 then
      let s := portDown s p fun s => wrBit s Reg.hpLinkStat [p] 0 false
      let s := putPort s p { port s p with negotiatedFec := none, anNoMatch := false }
      showFec (wr s Reg.hpLinkStat [p] 3 0 0) p
    else
      let s := portDown s p fun s => wrBit s Reg.cpLinkStat [p - 48] 0 false
      let s := putPort s p { port s p with anNoMatch := false }
      putWord s Reg.cpLinkStat [p - 48] (BitVec.ofNat 32 (downMdix s (p - 48) * 32))
  beginLink s p

/-- The H-port's PCS has lock, and negotiation and training in effect are complete. -/
def hLinkUp (s : State) (n : Nat) : State :=
  if hWindow s n && portEn s n && !linkUp s n && released s n && !(port s n).trainingAbandoned &&
      (!anEffective s n || rdBit s Reg.hpLinkStat [n] 2) then
    let s := wr s Reg.hpLinkStat [n] 1 0 3
    let s := showFec (wrBit s Reg.hpLinkStat [n] 3 (ltEffective s n)) n
    linkGained s n
  else s

/-- The partner's signal at a forced speed is present: the link takes the port's own speed and duplex. The pairs whose polarity
is corrected, and the crossover that MDIX_AUTO resolves, are free (R92, R95). -/
def forcedUp (s : State) (c : Nat) : State :=
  if cWindow s c && portEn s (48 + c) && !linkUp s (48 + c) && released s (48 + c) && forced s c then
    let v := freeWord s
    let mdix := if rdBit s Reg.cpCfg [c] 12 then fld v 4 4 else downMdix s c
    let w := 1 + rd s Reg.cpCfg [c] 5 4 * 2 + rd s Reg.cpCfg [c] 6 6 * 8 + mdix * 32 + fld v 3 0 * 64
    let s := putPort (spend s) (48 + c) { port s (48 + c) with remoteFault := false }
    linkGained (putWord s Reg.cpLinkStat [c] (BitVec.ofNat 32 w)) (48 + c)
  else s

/-- LINK_UP: a port's PCS locks and its link comes up without fault. A copper port that negotiates comes up when its
negotiation resolves (COPPER_AN_COMPLETE). -/
def execLinkUp (p : Fin 80) (s : State) : Host.Outcome State Fault Refusal :=
  done (if p.val < 48 then hLinkUp s p else forcedUp s (p - 48))

/-- LINK_DOWN (R63). -/
def execLinkDown (p : Fin 80) (el : Nat) (s : State) : Host.Outcome State Fault Refusal :=
  let s := advance el s
  done (if linkUp s p && (portGroup s p).isNone && !offline s then linkLost s p else s)

/-- LINK_FAULT: local fault is reported by the PCS, or remote fault is received; the link is not up meanwhile, and the MAC answers
the one with remote-fault ordered sets and the other with idle (R62). -/
def execLinkFault (n : Fin 48) (remote : Bool) (s : State) : Host.Outcome State Fault Refusal :=
  if hWindow s n && portEn s n && !offline s then
    let s := portDown s n fun s => wrBit s Reg.hpLinkStat [n] 0 false
    let s := wrBit s Reg.hpLinkStat [n] 1 remote
    let s := putPort s n { port s n with remoteFault := remote, localFault := !remote }
    done (emit (showFec s n) (.linkSignal n (!remote)))
  else done s

/-! ### Negotiation and training (R58 to R61) -/

/-- The highest-coded member of a FEC set, with the sets numbered by the codes of FEC_SEL. -/
def highestFec (m : Nat) : Option Nat := [4, 3, 2, 1, 0].find? (bit m)

/-- AN_COMPLETE: negotiation resolves the FEC, or finds no common mode. -/
def execAnComplete (n : Fin 48) (common : Bool) (partnerFec : BitVec 5) (s : State) : Host.Outcome State Fault Refusal :=
  if hWindow s n && portEn s n && anEffective s n && !linkUp s n && !offline s then
    let x := port s n
    if common then
      let fec := highestFec (fecSet s n &&& partnerFec.toNat)
      let s := putPort s n { x with anNoMatch := false, negotiatedFec := fec, trainAt := s.time.dt }
      done (showFec (wrBit s Reg.hpLinkStat [n] 2 true) n)
    else done (wrBit (putPort s n { x with anNoMatch := true, negotiatedFec := none }) Reg.hpLinkStat [n] 2 false)
  else done s

/-- Negotiation, training or the search for lock begins again on front port `p`. -/
def restartLink (s : State) (p : Nat) : State := if portEn s p then linkLost s p else s

/-- What a landed change of HP_CFG does: `before` is the word in force before it. -/
def hpCfgLanded (s : State) (n : Nat) (before : Word) (restart : Bool) : State :=
  let s := if bit (fecSet s n) (rd s Reg.hpCfg [n] 10 8) then s else wr s Reg.hpCfg [n] 10 8 (fld before 10 8)
  let s := showFec s n
  if flag before 0 && !rdBit s Reg.hpCfg [n] 0 then
    let s := linkLost s n
    putPort s n { port s n with localFault := false, remoteFault := false }
  else if !flag before 0 && rdBit s Reg.hpCfg [n] 0 then restartLink s n
  else if restart || fld before 10 8 != rd s Reg.hpCfg [n] 10 8 then restartLink s n
  else if flag before 3 && !rdBit s Reg.hpCfg [n] 3 then putPort s n { port s n with anNoMatch := false }
  else s

/-- A write of HP_CFG, whose fields apply at once. -/
def hpCfgWrite (s : State) (req : Requester) (n : Nat) (data : Word) : State :=
  if hWindow s n then
    let before := word s Reg.hpCfg [n]
    hpCfgLanded (stage s req Reg.hpCfg [n] 0xFFFFFFFF data) n before (flag data 2)
  else s

/-- Milliseconds in ticks. -/
def msTicks (n : Nat) : Nat := n * 800000

/-- The limit of training in ticks: 500 ms under Clause 72, 3,000 ms under Clause 136 (Table 3-1). -/
def trainLimit (s : State) (n : Nat) : Nat := msTicks (if [2, 3, 6].contains (laneMode s n) then 500 else 3000)

/-- Training runs on H-port `n`, behind any negotiation. -/
def training (s : State) (n : Nat) : Bool :=
  hWindow s n && portEn s n && released s n && ltEffective s n && !linkUp s n && !(port s n).trainingAbandoned &&
    (!anEffective s n || rdBit s Reg.hpLinkStat [n] 2)

/-- LT_FAIL: training has not completed within its limit and is abandoned (R61). -/
def execLtFail (n : Fin 48) (s : State) : Host.Outcome State Fault Refusal :=
  if training s n && decide ((port s n).trainAt + trainLimit s n ≤ s.time.dt) then
    let s := putPort (countPort s n 39 1) n { port s n with trainingAbandoned := true, trainAt := s.time.dt }
    done (wrBit s Reg.hpLinkStat [n] 3 false)
  else done s

/-- LT_RESTART: 100 ms later it restarts, with auto-negotiation where that is in effect (R61). -/
def execLtRestart (n : Fin 48) (s : State) : Host.Outcome State Fault Refusal :=
  if portEn s n && (port s n).trainingAbandoned && decide ((port s n).trainAt + msTicks 100 ≤ s.time.dt) then
    let s := putPort s n { port s n with trainingAbandoned := false, negotiatedFec := none }
    done (beginLink (showFec (if anEffective s n then wrBit s Reg.hpLinkStat [n] 2 false else s) n) n)
  else done s

/-! ### Modules (R81 to R85) -/

/-- The H-ports served by master `k`. -/
def servedPorts (s : State) (k : Nat) : List Nat :=
  (List.range 48).filter fun n => masterOf s n == some k && isHPort s n

/-- Master `k` serves lanes. -/
def masterOn (s : State) (k : Nat) : Bool := windowsOpen s && rd s Reg.hpModCfg [4 * k] 27 24 != 0

/-- The BALL region claims the present ball of master `k` (Table 2-8). -/
def presentBall (s : State) (k : Nat) : Bool := s.image.ball.getD (4 + k) 0 == 1

/-- Master `k` enters MOD_STATE `v`, from where the times of Table 3-5 run. -/
def setModState (s : State) (k v : Nat) : State :=
  wr (putModule s k { modul s k with since := s.time.dt }) Reg.hpModStat [4 * k] 2 0 v

/-- `n` ms have passed since the step in progress of master `k` began. -/
def stepPast (s : State) (k n : Nat) : Bool := decide ((modul s k).since + msTicks n ≤ s.time.dt)

/-- The ports that master `k` serves go down while it holds them (R63, R83). -/
def holdServed (s : State) (k : Nat) : State := (servedPorts s k).foldl linkLost s

/-- Master `k` takes a step that holds its ports down: IDENTIFY, MISMATCH or FAULT. -/
def holdStep (s : State) (k v : Nat) : State := holdServed (setModState s k v) k

/-- Master `k` sees the level of presence: a new module starts step 1 of Table 3-5, and one that goes before it has been
acted on leaves EMPTY. -/
def seePresence (s : State) (k : Nat) (present : Bool) : State :=
  let s := putModule s k { modul s k with present := present }
  if present && modState s k == 0 then setModState s k 1
  else if !present && modState s k == 1 then setModState s k 0
  else s

/-- MODULE_PRESENCE_POLL: every 100 ms, address 0x50 acknowledges or not, on a master without a present ball (R82). -/
def execModulePresencePoll (k : Fin 12) (ack : Bool) (s : State) : Host.Outcome State Fault Refusal :=
  if masterOn s k && !presentBall s k && decide ((modul s k).pollAt + msTicks 100 ≤ s.time.dt) then
    let s := putModule s k { modul s k with pollFailed := !ack, pollAt := s.time.dt }
    done (seePresence s k ack)
  else done s

/-- MODULE_PRESENCE_CHANGE: the present ball, or what the polls show, changes. -/
def execModulePresenceChange (k : Fin 12) (present : Bool) (s : State) : Host.Outcome State Fault Refusal :=
  done (if masterOn s k then seePresence s k present else s)

/-- MODULE_DEBOUNCE_EXPIRY: presence has held for 20 ms. -/
def execModuleDebounceExpiry (k : Fin 12) (s : State) : Host.Outcome State Fault Refusal :=
  if masterOn s k && modState s k == 1 && stepPast s k 20 then
    done (if (modul s k).present then holdStep s k 2 else setModState s k 0)
  else done s

/-- MODULE_IDENTIFIED: the management interface and the media kind are decided, and low-power mode is released; an answer later
than 50 ms fails step 3. -/
def execModuleIdentified (k : Fin 12) (iface : BitVec 2) (media : BitVec 3) (s : State) :
    Host.Outcome State Fault Refusal :=
  if masterOn s k && modState s k == 2 && (modul s k).present then
    done (if (modul s k).since + msTicks 50 < s.time.dt then holdStep s k 6
      else setModState (wr (wr s Reg.hpModStat [4 * k] 5 4 iface.toNat) Reg.hpModStat [4 * k] 10 8 media.toNat) k 3)
  else done s

/-- Module `k` is READY: the transmitters of its ports are enabled, and they acquire their links. -/
def moduleReady (s : State) (k : Nat) : State :=
  let s := setModState s k 4
  let s := putModule s k { modul s k with removed := false, monitorAt := s.time.dt }
  ((servedPorts s k).filter fun n => !linkUp s n).foldl beginLink s

/-- MODULE_READY: steps 5 and 6, or MISMATCH where no application or compliance code fits; later than the cap of 60 s, step 4
has failed. A module whose data path was taken down resumes here too. -/
def execModuleReady (k : Fin 12) (application : Bool) (s : State) : Host.Outcome State Fault Refusal :=
  if masterOn s k && (modState s k == 3 || modState s k == 4) && (modul s k).present then
    done (if modState s k == 3 && decide ((modul s k).since + msTicks 60000 < s.time.dt) then holdStep s k 6
      else if application then moduleReady s k else holdStep s k 5)
  else done s

/-- MODULE_STEP_TIMEOUT: step 3 fails after 50 ms, and step 4 after the module's advertised time. -/
def execModuleStepTimeout (k : Fin 12) (s : State) : Host.Outcome State Fault Refusal :=
  done (if masterOn s k && ((modState s k == 2 && stepPast s k 50) || modState s k == 3) then holdStep s k 6 else s)

/-- MODULE_REMOVED: presence is lost, and the transmitters are disabled (R84). -/
def execModuleRemoved (k : Fin 12) (s : State) : Host.Outcome State Fault Refusal :=
  if masterOn s k && !(modul s k).present && modState s k != 0 then
    let s := putModule s k { modul s k with monitor := [], removed := true }
    done (holdServed (putWord s Reg.hpModStat [4 * k] 0) k)
  else done s

/-- MODULE_MONITOR_POLL: every POLL × 10 ms, the monitoring values of a READY module (R84). -/
def execModuleMonitorPoll (k : Fin 12) (values : List Byte) (s : State) : Host.Outcome State Fault Refusal :=
  let n := rd s Reg.hpModCfg [4 * k] 15 8
  if masterOn s k && modState s k == 4 && n != 0 && decide ((modul s k).monitorAt + msTicks (10 * n) ≤ s.time.dt) then
    done (putModule s k { modul s k with monitor := values, monitorAt := s.time.dt })
  else done s

/-- The ports that a change of HP_MOD_CFG has given to a master that holds them down go down; those that it has freed acquire
their links. -/
def mastersApplied (before s : State) : State :=
  ((List.range 48).filter (isHPort s)).foldl (fun s n =>
    if moduleHeld before n = moduleHeld s n then s else if moduleHeld s n then linkLost s n else beginLink s n) s

/-- A write of HP_MOD_CFG in the window of H(n). -/
def modCfgWrite (s : State) (req : Requester) (n : Nat) (data : Word) : State :=
  mastersApplied s (stage s req Reg.hpModCfg [n] 0xFFFFFFFF data)

/-- The transfer writes byte 126 or 127 of the lower page. -/
def touchesPageSelect (w : Word) : Bool :=
  flag w 30 && decide (fld w 7 0 ≤ 127 ∧ 126 ≤ fld w 7 0 + fld w 28 24)

/-- The bytes with which transfer `w` of master `k` leaves: those of the data buffer for a write (R85). -/
def xferBytes (s : State) (k : Nat) (w : Word) : List Byte :=
  if flag w 30 then
    (List.range (fld w 28 24 + 1)).map fun i =>
      let hi := 31 - 8 * (i % 4)
      BitVec.ofNat 8 (fld (stagedWord s Reg.hpModData [4 * k, i / 4]) hi (hi - 7))
  else []

/-- A write of HP_MOD_XFER; GO queues the transfer, which leaves to the module with the bytes that it writes, or is refused. -/
def moduleXferWrite (s : State) (req : Requester) (k : Nat) (data : Word) : State :=
  if !windowsOpen s then s
  else
    let s := stage s req Reg.hpModXfer [4 * k] 0xFFFFFFFF data
    let w := word s Reg.hpModXfer [4 * k]
    let result (r : Nat) := wr s Reg.hpModXferStat [4 * k] 2 0 r
    if !flag data 31 then s
    else if rdBit s Reg.hpModXferStat [4 * k] 3 then result 3
    else if touchesPageSelect w then result 4
    else if !(modul s k).present then result 5
    else
      let t := putModule (putWord s Reg.hpModXferStat [4 * k] 8) k { modul s k with mailbox := some w }
      emit t (.moduleXfer k w (xferBytes s k w))

/-- MODULE_XFER_DONE: the transfer in progress ends with its RESULT; a read that is OK fills the data buffer. -/
def execModuleXferDone (k : Fin 12) (result : BitVec 3) (bytes : List Byte) (s : State) :
    Host.Outcome State Fault Refusal :=
  match (modul s k).mailbox with
  | none => done s
  | some w =>
    let s := putModule s k { modul s k with mailbox := none }
    let s := putWord s Reg.hpModXferStat [4 * k] (BitVec.ofNat 32 result.toNat)
    let n := fld w 28 24 + 1
    if result = 0 ∧ !flag w 30 then
      done ((List.range n).foldl (fun s i =>
        let hi := 31 - 8 * (i % 4)
        wrBoth s Reg.hpModData [4 * k, i / 4] hi (hi - 7) (byteAt bytes i)) s)
    else done s

end Sys2Proof.Machine
end

