-- ==== Sys2Proof/Machine/Copper.lean ====
section
/-! DEFINITION. Copper ports: negotiation, energy-efficient Ethernet, half duplex and cable diagnostics (chapter 4). -/
namespace Sys2Proof.Machine

/-! ### Negotiation (R90 to R95) -/

/-- What negotiation resolves: the SPEED code, full duplex, EEE and the master role. -/
structure Resolved where
  speed : Nat
  full : Bool
  eee : Bool
  master : Bool
  deriving DecidableEq, Repr

/-- The Clause 40 role that MS_PREF or a partner advertises: forced or not, and master or not, none for a single-port
device. -/
def msRole (pref : Nat) : Bool × Option Bool :=
  match pref with
  | 1 => (false, some true)
  | 2 => (true, some true)
  | 3 => (true, some false)
  | _ => (false, none)

/-- This port's role against its partner's: none when both force the same one (R94). -/
def masterRole (own partner : Nat) (seedMaster : Bool) : Option Bool :=
  match msRole own, msRole partner with
  | (true, a), (true, b) => if a = b then none else some (a == some true)
  | (true, a), (false, _) => some (a == some true)
  | (false, _), (true, b) => some (b != some true)
  | (false, a), (false, b) => if a = b then some seedMaster else some (a == some true)

/-- EEE is advertised by both ends at SPEED code `v`. -/
def bothEee (s : State) (c : Nat) (x : CopperPartner) (v : Nat) : Bool :=
  rdBit s Reg.cpCfg [c] 14 && (if v = 1 then x.eee100 else v == 2 && x.eee1000)

/-- The highest common mode by the Clause 28 priority, or what parallel detection sets. -/
def negotiate (s : State) (c : Nat) (x : CopperPartner) : Option Resolved :=
  let full (v : Nat) : Bool := bit (advFull s c) v && x.full.getLsbD v
  let half (v : Nat) : Bool := bit (advHalf s c) v && x.half.getLsbD v
  if !x.negotiates then
    let v := x.signal.toNat
    if v < 2 && bit (advHalf s c) v then some ⟨v, false, false, false⟩ else none
  else if full 2 then
    (masterRole (rd s Reg.cpCfg [c] 19 18) x.msPref.toNat x.seedMaster).map fun m => ⟨2, true, bothEee s c x 2, m⟩
  else if full 1 then some ⟨1, true, bothEee s c x 1, false⟩
  else if half 1 then some ⟨1, false, false, false⟩
  else if full 0 then some ⟨0, true, false, false⟩
  else if half 0 then some ⟨0, false, false, false⟩
  else none

/-- A partner's signal at SPEED code `v` is present. -/
def signalAt (x : CopperPartner) (v : Nat) : Bool :=
  if x.negotiates then x.full.getLsbD v || x.half.getLsbD v else x.signal.toNat == v

/-- CP_LINK_STAT of a link that comes up. -/
def copperStat (s : State) (c : Nat) (x : CopperPartner) (r : Resolved) (an : Bool) : Word :=
  let mdix := if rdBit s Reg.cpCfg [c] 12 then bnat x.mdix else rd s Reg.cpCfg [c] 13 13
  BitVec.ofNat 32 (bnat r.eee * 2 ^ 11 + bnat r.master * 2 ^ 10 + x.polarity.toNat * 2 ^ 6 + mdix * 2 ^ 5 + bnat an * 2 ^ 4
    + bnat r.full * 2 ^ 3 + r.speed * 2 + 1)

/-- COPPER_AN_COMPLETE: negotiation, parallel detection or a forced speed brings the link up or leaves AN_NO_MATCH. AN_DONE
stands after parallel detection too, and REMOTE_FAULT stands until the next negotiation or PORT_EN 0 (log entry 154). -/
def execCopperAnComplete (c : Fin 32) (x : CopperPartner) (s : State) : Host.Outcome State Fault Refusal :=
  let p := 48 + c.val
  if cWindow s c && portEn s p && !linkUp s p && released s p then
    if forced s c then
      let v := rd s Reg.cpCfg [c] 5 4
      if signalAt x v then
        let s := putWord s Reg.cpLinkStat [c] (copperStat s c x ⟨v, rdBit s Reg.cpCfg [c] 6, false, false⟩ false)
        done (linkGained (putPort s p { port s p with remoteFault := false }) p)
      else done s
    else match negotiate s c x with
      | some r =>
        let s := putWord s Reg.cpLinkStat [c] (copperStat s c x r true)
        done (linkGained (putPort s p { port s p with remoteFault := x.remoteFault && x.negotiates }) p)
      | none => done (putPort s p { port s p with anNoMatch := true, remoteFault := x.remoteFault && x.negotiates })
  else done s

/-- The fields of CP_CFG whose change restarts negotiation (R93). -/
def negotiationFields : Word := 0xC7F78

/-- A write of CP_CFG, whose fields apply at once. -/
def cpCfgWrite (s : State) (req : Requester) (c : Nat) (data : Word) : State :=
  if cWindow s c then
    let p := 48 + c
    let before := word s Reg.cpCfg [c]
    let s := stage s req Reg.cpCfg [c] 0xFFFFFFFF data
    let after := word s Reg.cpCfg [c]
    let s := if linkUp s p then s else wr s Reg.cpLinkStat [c] 5 5 (downMdix s c)
    if flag before 0 && !flag after 0 then
      let s := linkLost s p
      putPort s p { port s p with remoteFault := false }
    else if flag after 0 && (!flag before 0 || flag data 2 || (before ^^^ after) &&& negotiationFields != 0) then
      restartLink s p
    else followAccount s p
  else s

/-! ### Energy-efficient Ethernet (R97 to R99) -/

/-- No queue of port `p` holds a copy, and nothing is in transmission or waits for it. -/
def portIdle (s : State) (p : Nat) : Bool :=
  !(busyQueues s).any (fun q => queuePort s q == p) && !lineBusy s p && (port s p).own == []

/-- LPI_ENTRY: the port has been idle for IDLE µs. -/
def execLpiEntry (c : Fin 32) (el : Nat) (s : State) : Host.Outcome State Fault Refusal :=
  let s := advance el s
  let p := 48 + c.val
  let x := port s p
  if linkUp s p && rdBit s Reg.cpLinkStat [c] 11 && x.lpiSince.isNone && portIdle s p && !gateRunning s p &&
      !parentPath s p && decide (x.activeAt + max 1 (rd s Reg.cpEee [c] 15 0) * 800 ≤ s.time.dt) then
    let s := wrBit (countPort s p 45 1) Reg.cpLinkStat [c] 12 true
    done (putPort s p { port s p with lpiSince := some s.time.dt })
  else done s

/-- LPI_RX: the partner enters or leaves LPI, which the port always accepts. -/
def execLpiRx (c : Fin 32) (enter : Bool) (s : State) : Host.Outcome State Fault Refusal :=
  let p := 48 + c.val
  if linkUp s p && !offline s then
    let s := if enter && !rdBit s Reg.cpLinkStat [c] 13 then countPort s p 46 1 else s
    done (wrBit s Reg.cpLinkStat [c] 13 enter)
  else done s

/-! ### Half duplex (R100 to R104) -/

/-- Copper port `p` transmits, and is not backing off. -/
def attempting (s : State) (p : Nat) : Bool := lineBusy s p && (port s p).backingOff.isNone

/-- CARRIER_SENSE: carrier appears, and a port under back-pressure answers it with a jam; or carrier goes, and goes
during a transmission of the port's own. -/
def execCarrierSense (c : Fin 32) (carrier : Bool) (s : State) : Host.Outcome State Fault Refusal :=
  let p := 48 + c.val
  if linkUp s p && halfDuplex s p && !offline s then
    let x := port s p
    let lost := !carrier && attempting s p
    let s := putPort s p { x with carrier := carrier, carrierErr := x.carrierErr || lost }
    let s := if carrier && !x.carrier && x.backPressure then countPort s p 44 1 else s
    done (if lost && !x.carrierErr then countPort s p 41 1 else s)
  else done s

/-- `n` bit times of port `p` in ticks. -/
def bitTicks (s : State) (p n : Nat) : Nat := ceilDiv (n * 800) (portRate s p)

/-- What port `p` transmits is discarded and its cells return, counting counter `i`; the line is free after the jam of 32
bits and the gap. -/
def discardSending (s : State) (p i : Nat) : State :=
  let s := match find s.sched.sending p with
    | none => s
    | some y => endCut s p y
  countPort (putPort s p { port s p with ownNow := none, collisions := 0, backingOff := none,
                                         wakeAt := s.time.dt + bitTicks s p 128 }) p i 1

/-- COLLISION: a transmission meets a collision after `bits` of its bits, the first preamble bit being bit 1. Behind the jam the
back-off of the nth attempt lasts 0 to 2^min(n, 10) − 1 slot times of 512 bits, drawn from the port's own generator. A 16th
collision that is also late counts as late alone (log entry 151). -/
def execCollision (c : Fin 32) (el : Nat) (bits : Nat) (s : State) : Host.Outcome State Fault Refusal :=
  let s := advance el s
  let p := 48 + c.val
  if halfDuplex s p && attempting s p && !offline s then
    let n := (port s p).collisions + 1
    if 512 < bits then done (discardSending s p 37)
    else if 16 ≤ n then done (discardSending s p 39)
    else
      let (s, k) := draw s c
      let wait := bitTicks s p (32 + 512 * (k % 2 ^ min n 10))
      done (putPort s p { port s p with collisions := n, backingOff := some (s.time.dt + wait) })
  else done s

/-- What port `p` has stopped for a collision begins again, with a stamp of its own (R103). -/
def retry (s : State) (p : Nat) : State :=
  let st := egressStamp s p
  let s := match find s.sched.sending p with
    | none => s
    | some y => { s with sched := { s.sched with sending := put s.sched.sending p { y with startedAt := s.time.dt, stamp := st } } }
  let x := port s p
  let own (z : OwnSending) : OwnSending := { z with wire := ownWire z.own st, startedAt := s.time.dt, stamp := st }
  putPort s p { x with ownNow := x.ownNow.map own, backingOff := none, carrierErr := false }

/-- BACKOFF_EXPIRY: a new attempt, unless the MAC still defers to carrier. -/
def execBackoffExpiry (c : Fin 32) (el : Nat) (s : State) : Host.Outcome State Fault Refusal :=
  let s := advance el s
  let p := 48 + c.val
  done (if (port s p).backingOff.any (· ≤ s.time.dt) && !(port s p).carrier then retry s p else s)

/-! ### Cable diagnostics (R106, R107) -/

/-- A port of the copper octet of port `c` recalibrates (R498). -/
def octetRecal (s : State) (c : Nat) : Bool :=
  s.maint.recal.any fun r => match r.unit with
    | .copper k => k / 8 == c / 8
    | _ => false

/-- A write of CP_DIAG_CTRL; RUN starts a diagnostic, is refused with the link up, or is ignored while one runs. From its start
RESULT reads 0, and the pairs keep what the run before found (log entry 152). -/
def diagWrite (s : State) (req : Requester) (c : Nat) (data : Word) : State :=
  if cWindow s c then
    let busy := rdBit s Reg.cpDiagCtrl [c] 3
    let s := stage s req Reg.cpDiagCtrl [c] 0xFFFFFFFF data
    if !flag data 0 || busy then s
    else if linkUp s (48 + c) && !rdBit s Reg.cpDiagCtrl [c] 1 then wr s Reg.cpDiagCtrl [c] 5 4 2
    else
      let s := putPort s (48 + c) { port s (48 + c) with diagRuns := !octetRecal s c }
      linkLost (wr (wrBit s Reg.cpDiagCtrl [c] 3 true) Reg.cpDiagCtrl [c] 5 4 0) (48 + c)
  else s

/-- STATUS and DIST of a pair: nothing beyond 200 m is detected, and a fault under 2 m is at 0; the code that has no meaning is
inconclusive (R107, log entry 153). -/
def pairResult (r : BitVec 3 × BitVec 8) : Nat × Nat :=
  let (v, d) := (r.1.toNat, r.2.toNat)
  if v = 7 then (6, d)
  else if 2 ≤ v ∧ v ≤ 5 then (if 200 < d then (1, 0) else if d < 2 then (v, 0) else (v, d))
  else (v, d)

/-- CABLE_DIAG_DONE: each pair's STATUS and DIST; the port acquires its link again. -/
def execCableDiagDone (c : Fin 32) (pairs : List (BitVec 3 × BitVec 8)) (s : State) : Host.Outcome State Fault Refusal :=
  let p := 48 + c.val
  if (port s p).diagRuns then
    let found := (List.range 4).map fun k => pairResult (pairs.getD k (0, 0))
    let s := (List.range 4).foldl (fun s k =>
      let r := found.getD k (0, 0)
      putWord s Reg.cpDiagPair [c, k] (BitVec.ofNat 32 (r.1 * 256 + r.2))) s
    let fault := found.any fun r => decide (2 ≤ r.1 ∧ r.1 ≤ 5)
    let s := putPort s p { port s p with diagRuns := false, diagFault := fault }
    done (beginLink (wr (wrBit s Reg.cpDiagCtrl [c] 3 false) Reg.cpDiagCtrl [c] 5 4 1) p)
  else done s

end Sys2Proof.Machine
end

