-- ==== Sys2Proof/Machine/Izlen.lean ====
section
/-! DEFINITION. The Izlen trunk framer: lane frames, headers, group frames, alignment and delineation, AIS, lane shedding,
time transfer and performance monitoring (R334 to R364, R374, R375). -/
namespace Sys2Proof.Machine

/-! ### Small pieces -/

/-- The XOR of the 16-bit words of a list of bytes. -/
def bip16 : List Byte → Nat
  | a :: b :: l => (a.toNat * 256 + b.toNat) ^^^ bip16 l
  | _ => 0

/-- The number of bits set among the low 16. -/
def ones (x : Nat) : Nat := ((List.range 16).filter (bit x)).length

/-- The logical lanes that a set of lanes holds. -/
def lanesIn (x : BitVec 16) : List Nat := (List.range 16).filter x.getLsbD

/-- A set of lanes. -/
def laneSet (p : Nat → Bool) : BitVec 16 := BitVec.ofNat 16 ((List.range 16).foldl (fun a i => a + bnat (p i) * 2 ^ i) 0)

/-- The self-synchronous scrambler x⁴³ + 1 over bits. -/
def scrambleBits : BitVec 43 → List Bool → BitVec 43 × List Bool
  | st, [] => (st, [])
  | st, b :: bs =>
    let o := b != st.getLsbD 42
    let r := scrambleBits (st <<< 1 ||| BitVec.ofNat 43 (bnat o)) bs
    (r.1, o :: r.2)

/-- A byte of eight bits, most significant first. -/
def byteOfBits (l : List Bool) : Byte := BitVec.ofNat 8 (l.foldl (fun a b => a * 2 + bnat b) 0)

/-- Bits as bytes, `n` of them. -/
def bytesOfBits : Nat → List Bool → List Byte
  | 0, _ => []
  | n + 1, l => byteOfBits (l.take 8) :: bytesOfBits n (l.drop 8)

/-- Bytes scrambled (R339). -/
def scramble (st : BitVec 43) (bs : List Byte) : BitVec 43 × List Byte :=
  let r := scrambleBits st (bs.flatMap bitsMsb)
  (r.1, bytesOfBits bs.length r.2)

/-- The unit's UNIT_ID, or for a twin the lower of its two (Table 12-4). -/
def hierId (s : State) : Nat :=
  match s.twin.peer with
  | some p => if rdBit s Reg.twinStat [] 27 then min (unitIdNow s).toNat p.unitId.toNat else (unitIdNow s).toNat
  | none => (unitIdNow s).toNat

/-! ### Groups and lanes -/

/-- SYNC of lane `n`: 0 HUNT, 1 PRESYNC, 2 SYNC, 3 QUIET. -/
def laneSync (s : State) (n : Nat) : Nat := rd s Reg.izlLaneStat [n] 31 30

/-- The lane in SYNC on which group `g` receives logical lane `i`. -/
def rxLane (s : State) (g i : Nat) : Option Nat :=
  (groupLanes s g).find? fun n => laneSync s n == 2 && rd s Reg.izlLaneStat [n] 27 24 == i

/-- RX_OK of group `g`: the logical lanes in SYNC and within the skew of R335. -/
def rxOk (s : State) (g : Nat) : BitVec 16 :=
  laneSet fun i => (rxLane s g i).any fun n => decide (rd s Reg.izlLaneStat [n] 7 0 ≤ 160)

/-- The IZL_GRP_STAT and IZL_GRP_MASK fields that follow the lane sets. -/
def showLanes (s : State) (g : Nat) : State :=
  let x := izlGroup s g
  let s := wr s Reg.izlGrpStat [g] 22 18 (groupLanes s g).length
  let s := wr s Reg.izlGrpStat [g] 17 13 (lanesIn x.txActive).length
  let s := wr s Reg.izlGrpStat [g] 12 8 (lanesIn x.rxActive).length
  let skew := ((groupLanes s g).filter fun n => laneSync s n == 2).foldl (fun m n => max m (rd s Reg.izlLaneStat [n] 7 0)) 0
  let s := wr s Reg.izlGrpStat [g] 7 0 skew
  putWord s Reg.izlGrpMask [g] (BitVec.ofNat 32 (x.txActive.toNat * 65536 + x.rxActive.toNat))

/-! ### Performance monitoring: what happens within a second (R357) -/

def PmEnd.idle : PmEnd :=
  { bip := 0, hdr := 0, frames := 0, errored := 0, defect := false, sesRun := 0, goodRun := 0, recent := [], unavailable := false }

def pmNear (s : State) (x : Nat) : PmEnd := get PmEnd.idle s.izl.pmNear x
def pmFar (s : State) (x : Nat) : PmEnd := get PmEnd.idle s.izl.pmFar x

def putNear (s : State) (x : Nat) (e : PmEnd) : State :=
  { s with izl := { s.izl with pmNear := set PmEnd.idle s.izl.pmNear x e } }
def putFar (s : State) (x : Nat) (e : PmEnd) : State :=
  { s with izl := { s.izl with pmFar := set PmEnd.idle s.izl.pmFar x e } }

/-- One frame with `b` BIP errors and `h` header errors. -/
def PmEnd.frame (e : PmEnd) (b h : Nat) : PmEnd :=
  { e with bip := e.bip + b, hdr := e.hdr + h, frames := e.frames + 1, errored := e.errored + bnat (b != 0 || h != 0) }

/-- Header errors alone. -/
def PmEnd.header (e : PmEnd) (h : Nat) : PmEnd := { e with hdr := e.hdr + h }

/-- The headers of `h` frames that the far end found bad. -/
def PmEnd.badFrames (e : PmEnd) (h : Nat) : PmEnd := { e with hdr := e.hdr + h, errored := e.errored + h }

/-- A frame counts as errored for the bad leaf headers `h` in it, which are in HDR already. -/
def PmEnd.spoiled (e : PmEnd) (b h : Nat) : PmEnd := { e with errored := e.errored + bnat (b == 0 && h != 0) }

/-! ### Roles, failure and the state of a group -/

/-- A device is below this one on group `g`: its ASSIGN passed there last, or it has no number yet (R367, R368). -/
def isBelow (s : State) (g : Nat) (n : Neighbour) : Bool := decide (127 < n.device) || find s.izl.paths n.device == some g

/-- Two windows fit: each version lies in the other's range (R492). -/
def windowsFit (a b : Nat × Nat × Nat) : Bool :=
  decide (b.2.1 ≤ a.1 ∧ a.1 ≤ b.2.2 ∧ a.2.1 ≤ b.1 ∧ b.1 ≤ a.2.2)

/-- The Izlen and control windows of the running bundle. -/
def ownWindows (s : State) : List (Nat × Nat × Nat) :=
  match s.img.bundle with
  | some b => [b.izl, b.ctrl]
  | none => [(0, 0, 0), (0, 0, 0)]

/-- ROLE of group `g` (R365, R368, R370, R493); a hierarchy group that has heard no HELLO is plain. -/
def roleOf (s : State) (g : Nat) : Nat :=
  if !groupUp s g then 0
  else if !hierGroup s g || rd s Reg.izlHierCfg [] 1 0 == 0 || rd s Reg.izlHierCfg [] 1 0 == 3 then 1
  else match (izlGroup s g).neighbour with
    | none => 1
    | some n =>
      if !windowsFit ((ownWindows s).getD 0 (0, 0, 0)) (n.window.getD 0 (0, 0, 0)) then 1
      else if rd s Reg.izlHierCfg [] 1 0 == 1 && n.role == 1 then 5
      else if rd s Reg.izlHierStat [] 19 16 == g then 2
      else if isBelow s g n then 3 else 4

def showRole (s : State) (g : Nat) : State := wr s Reg.izlGrpStat [g] 25 23 (roleOf s g)

/-- 10 ms in ticks. -/
def tenMs : Nat := 8000000

/-- Group `g` fails or ceases to be failed: the groups that will carry its AIS are those that sent a steered leaf received
on it in the 10 ms before (R355). -/
def noteFailure (s : State) (g : Nat) : State :=
  let x := izlGroup s g
  let now := groupOn s g && (!groupUp s g || rdBit s Reg.izlGrpStat [g] 28)
  if now = x.failed then s
  else
    let feeds := (List.range 16).filter fun t => t != g && (find (izlGroup s t).feeds g).any fun d => decide (s.time.dt ≤ d + tenMs)
    putIzlGroup s g { x with failed := now, aisTo := if now then feeds else [] }

/-- Group `g` takes alignment `aligned` and delineation state `ld`; its port goes down or comes up with them (R336). -/
def setGroup (s : State) (g : Nat) (aligned : Bool) (ld : Nat) : State :=
  let was := groupUp s g
  let write (s : State) : State :=
    let s := wr (wrBit s Reg.izlGrpStat [g] 31 aligned) Reg.izlGrpStat [g] 30 29 ld
    if aligned then s else wrBit s Reg.izlGrpStat [g] 28 false
  let now := aligned && ld == 2
  let p := (groupPort s g).getD 0
  let s := if was && !now then portDown s p write else write s
  let s := if !was && now then linkRecord s p true else s
  let s := if now then s else putNear s (48 + g) { pmNear s (48 + g) with defect := true }
  showRole (noteFailure s g) g

/-- R349: the group's alignment as its lanes now stand. -/
def align (s : State) (g : Nat) : State :=
  let s := showLanes s g
  let x := izlGroup s g
  let ok := rxOk s g
  let tags := (((groupLanes s g).filter fun n => laneSync s n == 2).map fun n => rd s Reg.izlLaneStat [n] 23 16).eraseDups
  let aligned := groupOn s g && (rxLane s g 0).isSome && (lanesIn x.rxActive).all ok.getLsbD &&
    decide (tags.length ≤ 1) && decide (x.pohBad < 7)
  if aligned == rdBit s Reg.izlGrpStat [g] 31 then s
  else
    let s := putIzlGroup s g { izlGroup s g with ldGood := 0, ldBad := 0, ldWait := false }
    setGroup s g aligned 0

/-- Delineation of group `g` moves to `ld`. -/
def setLd (s : State) (g ld : Nat) : State := setGroup s g (rdBit s Reg.izlGrpStat [g] 31) ld

/-- Lane `n` moves to SYNC state `v`. -/
def setSync (s : State) (n v : Nat) : State :=
  let s := wr s Reg.izlLaneStat [n] 31 30 v
  let s := if v < 2 then putNear s n { pmNear s n with defect := true } else s
  align s (laneGroup s n)

/-- Every lane of group `g` returns to HUNT. -/
def huntAll (s : State) (g : Nat) : State :=
  (groupLanes s g).foldl (fun s n =>
    let x := izlLane s n
    setSync (putIzlLane s n { x with good := 0, bad := 0, ohBytes := [], ttHeld := [] }) n 0) s

/-! ### The transmit ACTIVE set (R352, R360, R361) -/

/-- FRAME_CNT of the next group frame that group `g` sends. -/
def nextFrameCnt (s : State) (g : Nat) : Nat := (izlLane s ((groupPort s g).getD 0)).txFc

/-- A change of the transmit ACTIVE set is announced: it takes effect 8 frames after the first that says so. -/
def announce (s : State) (g : Nat) (next : BitVec 16) : State :=
  putIzlGroup s g { izlGroup s g with txNext := next, txChange := (nextFrameCnt s g + 8) % 65536 }

/-- Lanes that the peer does not hold leave, and lanes that it has held for 8 frames return. -/
def manageActive (s : State) (g : Nat) : State :=
  let x := izlGroup s g
  let ns := groupLanes s g
  let want := laneSet fun i =>
    decide (i < ns.length) && x.peerOk.getLsbD i &&
      (x.txActive.getLsbD i || (!x.shed.getLsbD i && decide (8 ≤ (izlLane s (ns.getD i 0)).okFrames)))
  if x.txNext ≠ x.txActive ∨ want = x.txActive then s else announce s g want

/-- The announced set takes effect; shed lanes that leave it fall quiet. -/
def switchActive (s : State) (g : Nat) : State :=
  let x := izlGroup s g
  let x := { x with txActive := x.txNext, txQuiet := x.shed &&& ~~~x.txNext }
  let s := putIzlGroup s g x
  let s := ((groupLanes s g).zipIdx).foldl (fun s e => wrBit s Reg.izlLaneStat [e.1] 28 (x.txQuiet.getLsbD e.2)) s
  showLanes s g

/-- ACTIVE_SET_CHANGE: CHANGE_FC is reached, in the transmit or the receive direction. -/
def execActiveSetChange (g : Fin 16) (transmit : Bool) (s : State) : Host.Outcome State Fault Refusal :=
  let x := izlGroup s g
  if transmit then
    if x.txNext ≠ x.txActive ∧ nextFrameCnt s g = x.txChange then done (switchActive s g) else done s
  else if x.rxNext ≠ x.rxActive && (rxLane s g 0).any (fun m => (izlLane s m).rxFc == x.rxChange) then done (align (putIzlGroup s g { x with rxActive := x.rxNext }) g) else done s

/-! ### Sending (R338 to R344, R362, R363) -/

/-- The bytes of the leaf that begins here. -/
def leafSpan (bs : List Byte) : Nat :=
  if field bs 0 4 = 2 ^ 32 - 1 then 8
  else 4 + byteAt bs 0 % 64 * 256 + byteAt bs 1 + (if byteAt bs 0 / 64 = 1 then 4 else 0)

/-- The offset of the first leaf that begins at or after offset `n`, for leaves that begin at `o`. -/
def nextLeaf (bs : List Byte) (n : Nat) : Nat → Nat → Nat
  | 0, o => o
  | fuel + 1, o => if n ≤ o then o else nextLeaf bs n fuel (o + leafSpan (bs.drop o))

/-- The path overhead of group `g`'s next frame, whose first leaf header lies at `first` (Table 12-3). -/
def pathOverhead (s : State) (g first : Nat) : List Byte :=
  let x := izlGroup s g
  let b := toBytes 2 x.txPbip.toNat ++ toBytes 1 (min 16 x.preiOut) ++ toBytes 1 (rd s Reg.izlGrpCfg [g] 23 16) ++
    toBytes 2 x.txActive.toNat ++ toBytes 2 x.txNext.toNat ++ toBytes 2 x.txChange ++ toBytes 3 first ++
    toBytes 1 (bnat (!rdBit s Reg.izlGrpStat [g] 31) * 128) ++ toBytes 2 (rxOk s g).toNat ++
    toBytes 1 (min 255 x.phdrOut) ++ toBytes 2 (x.shed ||| x.txQuiet).toNat ++ List.replicate 27 0#8
  b ++ toBytes 2 (izlCrc b)

/-- A group frame is filled: leaves, and filler leaves where they run out. Answers its path overhead. -/
def fillGroupFrame (s : State) (g : Nat) : State × List Byte :=
  let x := izlGroup s g
  let s := if x.txNext ≠ x.txActive ∧ nextFrameCnt s g = x.txChange then switchActive s g else s
  let x := izlGroup s g
  let n := (lanesIn x.txActive).length * 8128
  let bs := x.txLeaves ++ (List.replicate (ceilDiv (n - x.txLeaves.length) 4) (leafHeader 0 0)).flatten
  let after := nextLeaf bs n (n + 1) x.txBegun
  let poh := pathOverhead s g (if x.txBegun < n then x.txBegun else 0xFFFFFF)
  let payload := bs.take n
  (putIzlGroup s g { x with txLeaves := bs.drop n, txBegun := after - n, txPayload := payload,
                            txPbip := BitVec.ofNat 16 (bip16 (poh ++ payload)) }, poh)

/-- The blocks of logical lane `i` of the group frame being sent (R341). -/
def laneBlocks (x : IzlGroup) (i : Nat) : List Byte :=
  let ls := lanesIn x.txActive
  if ls.contains i then
    (List.range 127).flatMap fun b => (x.txPayload.drop ((b * ls.length + ls.idxOf i) * 64)).take 64
  else List.replicate 8128 0#8

/-- Nanoseconds that TT_NS carries for TB `t`. -/
def ttNow (s : State) (t : Nat) : Nat := if tbState s t = 0 then 0x3FFFFFFF else (tbFrac s t / 65536 % 1000000000).toNat

/-- Whole seconds of TB `t` in a multiframe: all ones while it is FREE. -/
def ttSeconds (s : State) (t : Nat) : Nat :=
  if tbState s t = 0 then 2 ^ 48 - 1 else (tbFrac s t / fracPerSec).toNat % 2 ^ 48

/-- ROLE and LEVEL of byte 9 of a multiframe. -/
def roleLevel (s : State) : Nat :=
  let r := rd s Reg.izlHierCfg [] 1 0
  (if r = 3 then 0 else r) * 64 + rd s Reg.izlHierStat [] 15 12

/-- The OH byte at position `k` of lane `n`'s multiframe (Table 12-4). -/
def overheadByte (s : State) (n k : Nat) : Nat :=
  let x := izlLane s n
  if k < 8 then hierId s / 256 ^ (7 - k) % 256
  else if k = 8 then rd s Reg.izlHierStat [] 7 0
  else if k = 9 then roleLevel s
  else if k < 34 then x.txSec.getD ((k - 10) / 6) 0 / 256 ^ (5 - (k - 10) % 6) % 256
  else if k < 36 then
    let g := laneGroup s n
    let e := (rxLane s g ((groupLanes s g).idxOf n)).map fun m => min 65535 (izlLane s m).feHdr
    e.getD 0 / 256 ^ (35 - k) % 256
  else if k < 62 then 0
  else izlCrc x.ohSent / 256 ^ (63 - k) % 256

/-- ECHO_FC and TURN for logical lane `i`: the latest header that arrived at least 64 ns ago (R363). -/
def echo (s : State) (g i : Nat) : Nat × Nat :=
  match rxLane s g i with
  | none => (0, 0x3FFF)
  | some m =>
    let x := izlLane s m
    let last := x.rxAt.map fun t => (x.rxFc, t)
    let e := if last.any fun e => decide (e.2 * 5 + 256 ≤ s.time.dt * 5) then last else x.prevAt
    match e with
    | none => (0, 0x3FFF)
    | some (fc, t) =>
      let turn := (s.time.dt - t) * 5
      (fc % 256, if turn ≤ 0x3FFE then turn else 0x3FFF)

/-- The header of lane `n` as logical lane `i` of group `g`, with FRAME_CNT `fc` (Table 12-2). -/
def laneHeader (s : State) (g n i fc oh : Nat) : List Byte :=
  let x := izlLane s n
  let (ec, turn) := echo s g i
  let srei := ((rxLane s g i).map fun m => min 16 (izlLane s m).sreiOut).getD 0
  let b := toBytes 14 (fc * 2 ^ 96 + i * 2 ^ 92 + (if izlOne s g then 1 else 2) * 2 ^ 90 +
    bnat (rxLane s g i).isNone * 2 ^ 89 + srei * 2 ^ 84 + (izlGroup s g).tag.toNat * 2 ^ 76 + x.txSbip.toNat * 2 ^ 60 +
    ttNow s (if izlOne s g then 0 else fc % 4) * 2 ^ 30 + ec * 2 ^ 22 + turn * 2 ^ 8 + oh)
  b ++ toBytes 2 (izlCrc b)

/-- Lane `n` of group `g` sends its frame `fc` with path overhead `poh`. -/
def sendLaneFrame (s : State) (g n fc : Nat) (poh : List Byte) : State :=
  let i := (groupLanes s g).idxOf n
  let k := fc % 64
  let x := izlLane s n
  let sec := if k < 4 then x.txSec.set k (ttSeconds s k) else x.txSec
  let s := putIzlLane s n { x with txSec := sec, ohSent := if k = 0 then [] else x.ohSent }
  let oh := overheadByte s n k
  let hdr := laneHeader s g n i fc oh
  let (st, body) := scramble (izlLane s n).txScramble (poh ++ laneBlocks (izlGroup s g) i)
  let x := izlLane s n
  let s := putIzlLane s n
    { x with txScramble := st, txSbip := BitVec.ofNat 16 (bip16 (hdr ++ body)),
             ohSent := if k < 62 then x.ohSent ++ [BitVec.ofNat 8 oh] else x.ohSent,
             departed := put x.departed (fc % 256) s.time.dt }
  emit s (.laneFrame n fc hdr (body.take 48) (body.drop 48))

/-- LANE_FRAME_TX: logical lane 0 sends the next FRAME_CNT and fills the group frame; the other lanes send the same
FRAME_CNT once each. A lane in quiet idle or held in electrical idle sends nothing. -/
def execLaneFrameTx (n : Fin 48) (el : Nat) (s : State) : Host.Outcome State Fault Refusal :=
  let s := advance el s
  let g := laneGroup s n
  let i := (groupLanes s g).idxOf n.val
  if !((groupLanes s g).contains n.val && groupOn s g) || (izlGroup s g).txQuiet.getLsbD i || s.power.idleLanes.contains n.val
  then done s
  else if i = 0 then
    let (s, poh) := fillGroupFrame s g
    let fc := (izlLane s n).txFc
    let s := sendLaneFrame s g n fc poh
    done (putIzlLane s n { izlLane s n with txFc := (fc + 1) % 65536 })
  else
    let next := nextFrameCnt s g
    if (izlLane s n).txFc = next then done s
    else
      let s := sendLaneFrame s g n ((next + 65535) % 65536) (List.replicate 48 0#8)
      done (putIzlLane s n { izlLane s n with txFc := next })

/-! ### Lane headers in (R348, R351, R362 to R364) -/

/-- The bytes of a header. -/
def headerBytes (h : BitVec 128) : List Byte := toBytes 16 h.toNat

/-- The CRC of a header passes. -/
def headerCrc (h : BitVec 128) : Bool := izlCrc ((headerBytes h).take 14) == fld h 15 0

/-- A header is good on lane `n` of group `g`, beyond its CRC. -/
def headerFits (s : State) (g n : Nat) (h : BitVec 128) : Bool :=
  headerCrc h && fld h 107 106 == (if izlOne s g then 1 else 2) && fld h 127 112 == (izlLane s n).expectFc &&
    fld h 111 108 == rd s Reg.izlLaneStat [n] 27 24 && fld h 99 92 == rd s Reg.izlLaneStat [n] 23 16

/-- The tick at which lane `m` had its header with FRAME_CNT `fc`, where it is one of the last 32. -/
def arrivalOf (s : State) (m fc : Nat) : Option Nat :=
  let x := izlLane s m
  if laneSync s m = 2 ∧ (x.rxFc + 65536 - fc) % 65536 < 32 then find x.arrived (fc % 32) else none

/-- The lag of lane `n` behind the earliest lane with the same FRAME_CNT, in 100 ns units rounded up (R335). -/
def noteSkew (s : State) (g n fc : Nat) : State :=
  let firsts := (groupLanes s g).filterMap fun m => arrivalOf s m fc
  let first := firsts.foldl min s.time.dt
  wr s Reg.izlLaneStat [n] 7 0 (min 255 (ceilDiv (s.time.dt - first) 80))

/-- A round-trip measurement from an echoed header (R363). -/
def noteDelayOf (s : State) (g n : Nat) (h : BitVec 128) : State :=
  let i := rd s Reg.izlLaneStat [n] 27 24
  match (groupLanes s g)[i]? with
  | none => s
  | some m =>
    match (if fld h 37 24 = 0x3FFF then none else find (izlLane s m).departed (fld h 45 38)) with
    | none => s
    | some t1 =>
      let x := izlLane s n
      let d : Int := ((s.time.dt - t1) * 81920 : Nat) - (fld h 37 24 * 16384 : Nat)
      putIzlLane s n { x with delaySum := x.delaySum + d / 2, delayCount := x.delayCount + 1 }

/-- ASYM in 2⁻¹⁶ ns. -/
def asymOf (s : State) (g : Nat) : Int := signed (rd s Reg.izlGrpAsym [g] 15 0) 16 * 4096

/-- The samples of a multiframe whose CRC is good join the group's means (R364). -/
def takeSamples (s : State) (g n : Nat) (oh : List Byte) : State :=
  let x := izlLane s n
  let active := (izlGroup s g).rxActive.getLsbD (rd s Reg.izlLaneStat [n] 27 24)
  if !active then s
  else x.ttHeld.foldl (fun s e =>
    let t := if izlOne s g then 0 else e.pos % 4
    let sec := field oh (10 + 6 * t) 6
    match x.ttHeld.find? fun f => f.pos == t with
    | none => s
    | some f =>
      if e.ns = 0x3FFFFFFF ∨ sec = 2 ^ 48 - 1 then s
      else
        let sender : Int := ((sec + bnat (decide (e.ns < f.ns))) * 1000000000 + e.ns : Nat) * 65536
        let v := e.own - sender - x.delay - asymOf s g
        let y := izlGroup s g
        let sums := (List.range 4).map fun j => y.thetaSum.getD j 0 + if j = t then v else 0
        let counts := (List.range 4).map fun j => y.thetaCount.getD j 0 + if j = t then 1 else 0
        let epochs := (List.range 4).map fun j =>
          let l := y.thetaEpochs.getD j []
          if j = t ∧ !l.contains e.epoch then l ++ [e.epoch] else l
        putIzlGroup s g { y with thetaSum := sums, thetaCount := counts, thetaEpochs := epochs }) s

/-- The overhead byte of a good header; at the end of a multiframe, what it brought. -/
def takeOverhead (s : State) (g n : Nat) (h : BitVec 128) : State :=
  let k := fld h 127 112 % 64
  let t := if izlOne s g then 0 else k % 4
  let x := izlLane s n
  let old := if k = 0 then [] else x.ohBytes
  let held := if k = 0 then [] else x.ttHeld
  let oh := put old k (BitVec.ofNat 8 (fld h 23 16))
  let s := putIzlLane s n { x with ohBytes := oh, ttHeld := held ++ [⟨k, fld h 75 46, tbFrac s t, (tb s t).epoch⟩] }
  if k ≠ 63 then s
  else
    let bs := oh.map Prod.snd
    let s :=
      if bs.length = 64 ∧ izlCrc (bs.take 62) = field bs 62 2 then
        let s := takeSamples s g n bs
        let s := putFar s n ((pmFar s n).badFrames (field bs 34 2))
        putIzlLane s n { izlLane s n with ohGood := bs }
      else s
    putIzlLane s n { izlLane s n with ohBytes := [], ttHeld := [] }

/-- The end of a multiframe period: bad headers of the period go to the peer. -/
def closePeriod (s : State) (n fc : Nat) : State :=
  if fc % 64 = 63 then
    let x := izlLane s n
    putIzlLane s n { x with feHdr := x.badHeaders, badHeaders := 0 }
  else s

/-- A good header on a lane in SYNC. -/
def goodHeader (s : State) (g n : Nat) (h : BitVec 128) (sbip : BitVec 16) : State :=
  let fc := fld h 127 112
  let errs := ones (fld h 91 76 ^^^ sbip.toNat)
  let srdi := flag h 105
  let s := putNear s n ((pmNear s n).frame errs 0)
  let far := (pmFar s n).frame (min 16 (fld h 104 100)) 0
  let s := putFar s n { far with defect := far.defect || srdi }
  let s := wrBit s Reg.izlLaneStat [n] 29 srdi
  let x := izlLane s n
  let prev := x.rxAt.map fun t => (x.rxFc, t)
  let s := putIzlLane s n
    { x with bad := 0, sreiOut := errs, rxFc := fc, rxAt := some s.time.dt, prevAt := prev,
             arrived := put x.arrived (fc % 32) s.time.dt, expectFc := (fc + 1) % 65536 }
  let s := noteSkew s g n fc
  let s := takeOverhead (noteDelayOf s g n h) g n h
  align (closePeriod s n fc) g

/-- LANE_HEADER_RX: a 16-byte window at which lane `n` looks for its next header, with the BIP-16 that the receiver
computed over the frame before. -/
def execLaneHeaderRx (n : Fin 48) (el : Nat) (h : BitVec 128) (sbip : BitVec 16) (s : State) :
    Host.Outcome State Fault Refusal :=
  let s := advance el s
  let g := laneGroup s n
  let x := izlLane s n
  if !((groupLanes s g).contains n.val && groupOn s g) then done s
  else match laneSync s n with
    | 0 =>
      if !headerCrc h then done s
      else
        let s := wr (wr s Reg.izlLaneStat [n] 27 24 (fld h 111 108)) Reg.izlLaneStat [n] 23 16 (fld h 99 92)
        let s := putIzlLane s n { x with good := 1, bad := 0, expectFc := (fld h 127 112 + 1) % 65536 }
        done (setSync s n 1)
    | 1 =>
      if !headerFits s g n h then done (setSync (putIzlLane s n { x with good := 0 }) n 0)
      else
        let s := putIzlLane s n { x with good := x.good + 1, expectFc := (x.expectFc + 1) % 65536, ohBytes := [], ttHeld := [],
                                         badHeaders := 0, rxFc := fld h 127 112, rxAt := some s.time.dt, prevAt := none,
                                         arrived := [(fld h 127 112 % 32, s.time.dt)] }
        done (if x.good + 1 < 4 then s else align (noteSkew (setSync s n 2) g n (fld h 127 112)) g)
    | 2 =>
      if headerFits s g n h then done (goodHeader s g n h sbip)
      else
        let s := putNear s n ((pmNear s n).frame 0 1)
        let s := putIzlLane s n { x with bad := x.bad + 1, badHeaders := x.badHeaders + 1,
                                         expectFc := (x.expectFc + 1) % 65536 }
        let s := closePeriod s n x.expectFc
        done (if x.bad + 1 < 7 then s else setSync (putIzlLane s n { izlLane s n with bad := 0, good := 0 }) n 0)
    | _ => done s

/-! ### Group frames in (R349 to R352, R354) -/

/-- Lanes that the peer's QUIET holds outside ACTIVE are QUIET; a quiet lane that it holds no longer hunts. -/
def followQuiet (s : State) (g : Nat) (active quiet : BitVec 16) : State :=
  (groupLanes s g).foldl (fun s n =>
    let i := rd s Reg.izlLaneStat [n] 27 24
    let q := quiet.getLsbD i && !active.getLsbD i
    if q ∧ laneSync s n = 2 then setSync s n 3
    else if !q ∧ laneSync s n = 3 then setSync (putIzlLane s n { izlLane s n with good := 0, bad := 0 }) n 0
    else s) s

/-- Good path overhead. -/
def takePathOverhead (s : State) (g : Nat) (b : List Byte) (pbip : BitVec 16) : State :=
  let errs := ones (field b 0 2 ^^^ pbip.toNat)
  let prdi := bit (byteAt b 13) 7
  let s := putNear s (48 + g) (((pmNear s (48 + g)).frame errs 0).spoiled errs (izlGroup s g).phdrNow)
  let far := (pmFar s (48 + g)).frame (min 16 (byteAt b 2)) (byteAt b 16)
  let s := putFar s (48 + g) { far with defect := far.defect || prdi }
  let s := wrBit s Reg.izlGrpStat [g] 26 prdi
  let s := wrBit s Reg.izlGrpStat [g] 27 (izlOne s g && byteAt b 3 != rd s Reg.izlGrpCfg [g] 15 8)
  let ok : BitVec 16 := BitVec.ofNat 16 (field b 14 2)
  let active : BitVec 16 := BitVec.ofNat 16 (field b 4 2)
  let quiet : BitVec 16 := BitVec.ofNat 16 (field b 17 2)
  let x := izlGroup s g
  let s := putIzlGroup s g
    { x with pohBad := 0, preiOut := errs, phdrOut := x.phdrNow, phdrNow := 0, rxActive := active, rxQuiet := quiet,
             rxNext := BitVec.ofNat 16 (field b 6 2), rxChange := field b 8 2, peerOk := ok,
             ldWait := x.ldWait && field b 10 3 == 0xFFFFFF }
  let s := ((groupLanes s g).zipIdx).foldl (fun s e =>
    let y := izlLane s e.1
    putIzlLane s e.1 { y with okFrames := if ok.getLsbD e.2 then y.okFrames + 1 else 0 }) s
  let s := align (followQuiet s g active quiet) g
  let s := manageActive s g
  if rdBit s Reg.izlGrpStat [g] 31 ∧ rd s Reg.izlGrpStat [g] 30 29 = 0 ∧ field b 10 3 ≠ 0xFFFFFF then
    setLd (putIzlGroup s g { izlGroup s g with ldGood := 0 }) g 1
  else s

/-- GROUP_FRAME_RX: the path overhead of a group frame, descrambled, with the BIP-16 that the receiver computed over the
group frame before. -/
def execGroupFrameRx (g : Fin 16) (poh : List Byte) (pbip : BitVec 16) (s : State) : Host.Outcome State Fault Refusal :=
  if !groupOn s g || (rxLane s g 0).isNone then done s
  else if poh.length = 48 ∧ izlCrc (poh.take 46) = field poh 46 2 then done (takePathOverhead s g poh pbip)
  else
    let x := izlGroup s g
    let s := putNear s (48 + g) ((pmNear s (48 + g)).frame 0 1)
    done (align (putIzlGroup s g { x with pohBad := x.pohBad + 1, phdrOut := x.phdrNow, phdrNow := 0 }) g)

/-! ### Leaf headers in (R350) -/

/-- A leaf header is bad: its CRC, its KIND or its LENGTH. -/
def leafBad (b : List Byte) : Bool :=
  let k := byteAt b 0 / 64
  let n := byteAt b 0 % 64 * 256 + byteAt b 1
  let range := match k with
    | 0 => n == 0 || decide (64 ≤ n ∧ n ≤ 10240)
    | 1 => decide (64 ≤ n ∧ n ≤ 10240)
    | 2 => decide (8 ≤ n ∧ n ≤ 1024)
    | _ => false
  !(decide (field b 0 8 = 2 ^ 64 - 1 ∧ b.length = 8) ||
    (izlCrc (b.take 2) == field b 2 2 && range && decide (b.length = leafSpan b)))

def leafDiscard (s : State) (g : Nat) : State := bump s Ctr.izl [g] 3 1

/-- A leaf reaches delineation. Answers whether it is to be delivered. -/
def delineate (s : State) (g : Nat) (b : List Byte) : State × Bool :=
  let x := izlGroup s g
  let badLeaf (s : State) : State :=
    let s := putNear s (48 + g) ((pmNear s (48 + g)).header 1)
    putIzlGroup s g { izlGroup s g with phdrNow := min 255 ((izlGroup s g).phdrNow + 1) }
  if !rdBit s Reg.izlGrpStat [g] 31 then (s, false)
  else match rd s Reg.izlGrpStat [g] 30 29 with
    | 1 =>
      if leafBad b then (setLd (badLeaf s) g 0, false)
      else
        let s := leafDiscard (putIzlGroup s g { x with ldGood := x.ldGood + 1, ldBad := 0, ldWait := false }) g
        (if x.ldGood + 1 < 3 then s else setLd s g 2, false)
    | 2 =>
      if x.ldWait then (s, false)
      else if leafBad b then
        let s := bump (badLeaf s) Ctr.izl [g] 2 1
        let s := putIzlGroup s g { izlGroup s g with ldBad := x.ldBad + 1, ldWait := true }
        (if x.ldBad + 1 < 7 then s else setLd s g 0, false)
      else
        let s := putIzlGroup s g { x with ldBad := 0 }
        if rdBit s Reg.izlGrpStat [g] 27 then (leafDiscard s g, false) else (s, true)
    | _ => (s, false)

/-- An AIS leaf of group `g` is delivered: AIS_RX stands from now on (R356). Izlen-1 has no such leaf (Table 12-8). -/
def aisIn (s : State) (g : Nat) : State :=
  if izlOne s g then leafDiscard s g
  else noteFailure (wrBit (putIzlGroup s g { izlGroup s g with aisQuiet := 0 }) Reg.izlGrpStat [g] 28 true) g

/-- AIS_LEAF_RX: an AIS leaf comes in LD_SYNC, where PLM discards every leaf (R354). -/
def execAisLeafRx (g : Fin 16) (s : State) : Host.Outcome State Fault Refusal :=
  done (if !groupUp s g then s else if rdBit s Reg.izlGrpStat [g] 27 then leafDiscard s g else aisIn s g)

/-! ### The device cycle (R355, R356, R360, R361, R363, R364) -/

/-- The block capacity of one lane of group `g` in a device cycle, in bytes × 65,536,000. -/
def laneCapacity (s : State) (g : Nat) : Nat :=
  (if laneMode s ((groupPort s g).getD 0) = 0x10 then 25781250000 else 53125000000) * 8128

/-- The group's transmit utilisation over `lanes` lanes, per mille. -/
def utilOver (s : State) (g lanes : Nat) : Nat := (izlGroup s g).utilBytes * 1000 * 65536000 / (lanes * laneCapacity s g)

/-- The shed lanes of group `g` wake (R361). -/
def wakeLanes (s : State) (g : Nat) : State :=
  let x := izlGroup s g
  let s := ((groupLanes s g).zipIdx).foldl (fun s e =>
    if x.shed.getLsbD e.2 then
      wrBit (putIzlLane s e.1 { izlLane s e.1 with okFrames := 0 }) Reg.izlLaneStat [e.1] 28 false
    else s) s
  putIzlGroup s g { x with shed := 0, txQuiet := 0, lowCycles := 0, txNext := x.txActive }

/-- Shedding and waking, and the utilisation register. Shed lanes wake whether or not SHED_EN still stands. -/
def shedCycle (s : State) (g : Nat) : State :=
  let x := izlGroup s g
  let a := (lanesIn x.txActive).length
  let util := if a = 0 then 0 else utilOver s g a
  let s := wr s Reg.izlGrpUtil [g] 9 0 (min 1023 util)
  let s :=
    if rd s Reg.izlGrpShed [g] 31 22 < util ∧ x.shed ≠ 0 then wakeLanes s g
    else if !rdBit s Reg.izlGrpCfg [g] 28 || izlOne s g then putIzlGroup s g { x with lowCycles := 0 }
    else
      let low := decide (1 < a) && decide (utilOver s g (a - 1) < rd s Reg.izlGrpShed [g] 21 12)
      let n := if low then x.lowCycles + 1 else 0
      let top := (lanesIn x.txActive).getLastD 0
      if low && decide (max 1 (rd s Reg.izlGrpShed [g] 11 0) ≤ n) && decide (max 1 (rd s Reg.izlGrpCfg [g] 27 24) < a) &&
          top != 0 && x.txNext == x.txActive
      then
        let bit : BitVec 16 := BitVec.ofNat 16 (2 ^ top)
        announce (putIzlGroup s g { x with shed := x.shed ||| bit, lowCycles := 0 }) g (x.txActive &&& ~~~bit)
      else putIzlGroup s g { x with lowCycles := n }
  putIzlGroup s g { izlGroup s g with utilBytes := 0 }

/-- AIS_RX falls after 3 whole device cycles without an AIS leaf; the cycle of the leaf is not one of them. -/
def aisCycle (s : State) (g : Nat) : State :=
  if rdBit s Reg.izlGrpStat [g] 28 then
    let n := (izlGroup s g).aisQuiet + 1
    let s := putIzlGroup s g { izlGroup s g with aisQuiet := n }
    if 4 ≤ n then noteFailure (wrBit s Reg.izlGrpStat [g] 28 false) g else s
  else s

/-- The AIS leaves that failed group `g` causes. -/
def sendAis (s : State) (g : Nat) : State :=
  let x := izlGroup s g
  if x.failed then x.aisTo.foldl (fun s t => bump (putLeaf s t aisLeaf) Ctr.izl [t] 4 1) s else s

/-- A time in 2⁻¹⁶ ns in the 2⁻⁴ ns units of the delay registers. -/
def delayUnits (d : Int) : Word := BitVec.ofInt 32 (d / 4096)

/-- The lane delays of the cycle, and their mean over the active lanes. -/
def delayCycle (s : State) (g : Nat) : State :=
  let s := (groupLanes s g).foldl (fun s n =>
    let x := izlLane s n
    if x.delayCount = 0 then s
    else
      let d := x.delaySum / x.delayCount
      putWord (putIzlLane s n { x with delay := d, delaySum := 0, delayCount := 0 }) Reg.izlLaneDelay [n] (delayUnits d)) s
  let ds := (lanesIn (izlGroup s g).rxActive).filterMap fun i => (rxLane s g i).map fun n => (izlLane s n).delay
  if ds = [] then s else putWord s Reg.izlGrpDelay [g] (delayUnits (ds.sum / (ds.length : Int)))

/-- θ of each TB that follows the group, and new sums. A mean over samples of another jump epoch is discarded (R253). -/
def thetaCycle (s : State) (g : Nat) : State :=
  let x := izlGroup s g
  let s := putIzlGroup s g { x with thetaSum := [], thetaCount := [], thetaEpochs := [] }
  (List.range 4).foldl (fun s t =>
    let n := x.thetaCount.getD t 0
    if n ≠ 0 ∧ tbSource s t = 2 ∧ !followsTwin s t ∧ some (rd s Reg.timeTbCfg [t] 22 16) = groupPort s g then
      if x.thetaEpochs.getD t [] = [(tb s t).epoch] then
        let v := x.thetaSum.getD t 0 / (n : Int)
        servo (recordServo s t v) t v
      else servoDiscard s
    else s) s

/-- One device cycle of the framer. -/
def izlCycle (s : State) : State :=
  let gs := (List.range 16).filter (groupOn s)
  let s := gs.foldl aisCycle s
  let s := gs.foldl sendAis s
  let s := gs.foldl shedCycle s
  let s := gs.foldl delayCycle s
  gs.foldl thetaCycle s

/-! ### Performance monitoring: seconds and bins (R357 to R359) -/

/-- The seconds of R357. -/
def pmSeconds (s : State) : Nat := if 2 ≤ tbState s 0 then (tbFrac s 0 / fracPerSec).toNat else dtFrac s / fracPerSec

/-- Bin `b` of entity `x`. -/
def pmBin (s : State) (x b : Nat) : BitVec 512 := get 0 s.izl.pm (x * 64 + b)

def putPmBin (s : State) (x b : Nat) (e : BitVec 512) : State :=
  { s with izl := { s.izl with pm := set 0 s.izl.pm (x * 64 + b) e } }

/-- The lowest bit of value `v` of a bin: 0 BIP, 1 ES, 2 SES, 3 UAS, 4 HDR at the near end, and 5 more at the far end. -/
def pmAt (v : Nat) : Nat := 416 - 32 * v

/-- `n` more, or fewer, of value `v`, held at 0 and at 0xFFFF_FFFF. -/
def pmAdd (e : BitVec 512) (v : Nat) (n : Int) : BitVec 512 :=
  let a := pmAt v
  setFld e (a + 31) a (heldInt 0 (2 ^ 32 - 1) (fld e (a + 31) a + n)).toNat

/-- `n` of the seconds just ended, the newest first, moved from or to value `v`: those of the bin in progress in `b`, the
older in the bin before it. -/
def pmMove (s : State) (x b v : Nat) (inBin n : Nat) (sign : Int) : State :=
  let here := min n inBin
  let s := putPmBin s x b (pmAdd (pmBin s x b) v (sign * here))
  putPmBin s x (b + 1) (pmAdd (pmBin s x (b + 1)) v (sign * (n - here : Nat)))

/-- `pmMove` in the 15-minute bins and in the day bins. -/
def pmShift (s : State) (x v n : Nat) (sign : Int) : State :=
  let since (b : Nat) : Nat := pmSeconds s - fld (pmBin s x b) 511 480
  pmMove (pmMove s x 0 v (since 0) n sign) x 33 v (since 33) n sign

/-- `n` more of value `v` in the current 15-minute and day bins. -/
def pmCount (s : State) (x v n : Nat) : State :=
  let s := putPmBin s x 0 (pmAdd (pmBin s x 0) v n)
  putPmBin s x 33 (pmAdd (pmBin s x 33) v n)

/-- One second of one end, whose values start at `v`: its counts, and availability with what it moves. `defect` is the
defect that stands now. -/
def pmEnd (s : State) (x v : Nat) (e : PmEnd) (defect : Bool) : State × PmEnd :=
  let bad := defect || e.defect
  let es := decide (0 < e.bip) || decide (0 < e.hdr) || bad
  let ses := bad || (decide (0 < e.frames) && decide (3 * e.frames ≤ 10 * e.errored))
  let s := pmCount (pmCount s x v e.bip) x (v + 4) e.hdr
  let e := { e with bip := 0, hdr := 0, frames := 0, errored := 0, defect := false }
  if !e.unavailable then
    if ses then
      if e.sesRun + 1 < 10 then
        (pmCount (pmCount s x (v + 1) 1) x (v + 2) 1, { e with sesRun := e.sesRun + 1 })
      else
        let s := pmShift (pmShift (pmCount s x (v + 1) 1) x (v + 1) 10 (-1)) x (v + 2) 9 (-1)
        (pmShift s x (v + 3) 10 1, { e with sesRun := 0, goodRun := 0, recent := [], unavailable := true })
    else (if es then pmCount s x (v + 1) 1 else s, { e with sesRun := 0 })
  else if ses then (pmCount s x (v + 3) 1, { e with goodRun := 0, recent := [] })
  else if e.goodRun + 1 < 10 then
    (pmCount s x (v + 3) 1, { e with goodRun := e.goodRun + 1, recent := es :: e.recent })
  else
    let s := pmShift (pmCount s x (v + 3) 1) x (v + 3) 10 (-1)
    let since (b : Nat) : Nat := pmSeconds s - fld (pmBin s x b) 511 480
    let s := ((es :: e.recent).zipIdx).foldl (fun s r =>
      if r.1 then
        let add (s : State) (b : Nat) : State :=
          let b := if r.2 < since b then b else b + 1
          putPmBin s x b (pmAdd (pmBin s x b) (v + 1) 1)
        add (add s 0) 33
      else s) s
    (s, { e with sesRun := 0, goodRun := 0, recent := [], unavailable := false })

/-- Entity `x` is monitored: a lane of an enabled group that is not QUIET, or an enabled group. -/
def pmMonitored (s : State) (x : Nat) : Bool :=
  if x < 48 then (groupLanes s (laneGroup s x)).contains x && groupOn s (laneGroup s x) else groupOn s (x - 48)

/-- The defects of entity `x` that stand now, near and far. -/
def pmDefects (s : State) (x : Nat) : Bool × Bool :=
  if x < 48 then (decide (laneSync s x < 2), rdBit s Reg.izlLaneStat [x] 29)
  else (!groupUp s (x - 48), rdBit s Reg.izlGrpStat [x - 48] 26)

/-- Bin `b` of entity `x` opens at the start of its period of `len` seconds; PARTIAL when monitoring begins within it. -/
def openBin (s : State) (x b len : Nat) : State :=
  let e := pmBin s x b
  if flag e 479 then s
  else
    let now := pmSeconds s
    let start := now / len * len
    putPmBin s x b (BitVec.ofNat 512 (start % 2 ^ 32 * 2 ^ 480 + 2 ^ 479 + bnat (now % len != 0) * 2 ^ 477))

/-- SUSPECT in the current bins of entity `x`. -/
def markBin (s : State) (x i : Nat) : State :=
  let s := putPmBin s x 0 (setFld (pmBin s x 0) i i 1)
  putPmBin s x 33 (setFld (pmBin s x 33) i i 1)

/-- One second of one entity. A lane in QUIET counts none. -/
def pmEntity (s : State) (suspect : Bool) (x : Nat) : State :=
  if !pmMonitored s x then s
  else
    let s := openBin (openBin s x 0 900) x 33 86400
    let s := if suspect then markBin s x 478 else s
    if x < 48 ∧ laneSync s x = 3 then putFar (putNear s x PmEnd.idle) x PmEnd.idle
    else
      let (dn, df) := pmDefects s x
      let (s, n) := pmEnd s x 0 (pmNear s x) dn
      let (s, f) := pmEnd s x 5 (pmFar s x) df
      putFar (putNear s x n) x f

/-- The second of R357 that has ended, if one has, is closed. -/
def closeSecond (s : State) : State :=
  if pmSeconds s = s.izl.pmAt then s
  else
    let suspect := s.izl.tbSuspect || decide (tbState s 0 < 2)
    let s := (List.range 64).foldl (fun s x => pmEntity s suspect x) s
    { s with izl := { s.izl with tbSuspect := false, pmAt := pmSeconds s } }

/-- PM_SECOND: a second of R357 ends. -/
def execPmSecond (el : Nat) (s : State) : Host.Outcome State Fault Refusal := done (closeSecond (advance el s))

/-- The bins of one entity shift; the day bins too when a new day begins. -/
def rollEntity (s : State) (x : Nat) : State :=
  let now := pmSeconds s
  let day := pmBin s x 33
  let s :=
    if flag day 479 ∧ fld day 511 480 / 86400 ≠ now % 2 ^ 32 / 86400 then putPmBin (putPmBin s x 34 day) x 33 0 else s
  let s := (List.range 32).foldl (fun s k => putPmBin s x (32 - k) (pmBin s x (31 - k))) s
  let s := putPmBin s x 0 0
  if pmMonitored s x then openBin (openBin s x 0 900) x 33 86400 else s

/-- PM_BIN_ROLL: a 15-minute boundary, behind the second that ends with it (R359). -/
def execPmBinRoll (el : Nat) (s : State) : Host.Outcome State Fault Refusal :=
  let s := closeSecond (advance el s)
  let k := pmSeconds s / 900
  if k = s.izl.rollAt then done s
  else
    let s := countEvent ((List.range 64).foldl rollEntity s) Reg.izlPmRollCnt []
    done { s with izl := { s.izl with rollAt := k } }

/-! ### A configuration takes effect (R374) -/

/-- A group starts or stops, or changes its generation: every lane hunts, and a new GROUP_TAG is drawn when it is enabled.
All formed lanes stand in ACTIVE at first. -/
def groupApplied (before : State) (s : State) (g : Nat) : State :=
  let on := groupOn s g
  let fresh := on && !groupOn before g
  if groupOn before g = on ∧ izlOne before g = izlOne s g then showRole s g
  else
    let s := if on then s else ((groupLanes s g).foldl (fun s n => markBin s n 477) (markBin s (48 + g) 477))
    let s := if fresh then
        let all := laneSet fun i => decide (i < (groupLanes s g).length)
        let x := { IzlGroup.idle with tag := BitVec.ofNat 8 (freeWord s).toNat, txActive := all, txNext := all }
        spend (putIzlGroup s g x)
      else s
    let s := huntAll s g
    showRole (noteFailure (align s g) g) g

end Sys2Proof.Machine
end

