-- ==== Sys2Proof/Machine/Hierarchy.lean ====
section
/-! DEFINITION. The device hierarchy: HELLO, JOIN, ASSIGN and FLOW leaves, upstreams, numbers and bindings (R347, R365 to
R373, R492, R493). -/
namespace Sys2Proof.Machine

/-! ### Control leaves (R347) -/

/-- STATE and UPSTREAM of IZL_HIER_STAT; an upstream of 15 is none. -/
def hierState (s : State) : Nat := rd s Reg.izlHierStat [] 31 29
def upstream (s : State) : Nat := rd s Reg.izlHierStat [] 19 16

/-- A hierarchy event (IZL_HIER_EVT_CNT and _LAST). -/
def hierEvent (s : State) (kind d : Nat) : State :=
  putWord (countEvent s Reg.izlHierEvtCnt []) Reg.izlHierEvtLast [] (BitVec.ofNat 32 (kind * 2 ^ 28 + d % 128))

/-- The group towards device `d`: the downstream group on which its ASSIGN last passed, else the upstream group. -/
def groupToward (s : State) (d : Nat) : Option Nat :=
  match find s.izl.paths d with
  | some g => some g
  | none => if upstream s < 15 then some (upstream s) else none

/-- A leaf received on group `g` for another device: one hop less, and relayed unless none is left. -/
def relay (s : State) (g : Nat) (b : List Byte) : State :=
  let hops := byteAt b 3 - 1
  if hops = 0 then leafDiscard s g
  else match groupToward s (byteAt b 2) with
    | some t => sendControl s t (patch b 3 [BitVec.ofNat 8 hops])
    | none => leafDiscard s g

/-- A JOIN, ASSIGN or ORDER leaf waits while MC3 restarts; HELLO and FLOW are taken in hardware (R457). -/
def holdLeaf (s : State) (g ty : Nat) (b : List Byte) : Option State :=
  if coreDown s 3 && [2, 3, 5].contains ty then some { s with izl := { s.izl with held := s.izl.held ++ [(g, b)] } } else none

/-- A control leaf of type `ty` reaches this device on group `g`: it counts, and what `f` does with it follows. A group that is
treated as plain takes HELLO alone, which may end that. -/
def controlIn (s : State) (g ty least : Nat) (b : List Byte) (f : State → State) : State :=
  if !groupUp s g then s
  else if hierGroup s g && (ty == 1 || !asPlain s g) && byteAt b 0 == ty && decide (least ≤ b.length) then
    let s := bump s Ctr.izl [g] 1 1
    (holdLeaf s g ty b).getD (f s)
  else leafDiscard s g

def showRoles (s : State) : State := ((List.range 16).filter (groupOn s)).foldl showRole s

/-! ### HELLO and the upstream (R365, R366, R369, R492) -/

/-- The number that HELLO carries: a worker that joins sends none. -/
def helloDevice (s : State) : Nat :=
  if hierRole s = 2 ∧ hierState s ≠ 3 ∧ hierState s ≠ 4 then 0xFF else ownDevice s

/-- A HELLO leaf. -/
def hello (s : State) : List Byte :=
  let w := ownWindows s
  let three (x : Nat × Nat × Nat) : List Byte := toBytes 2 x.1 ++ toBytes 2 x.2.1 ++ toBytes 2 x.2.2
  let ver := (s.img.bundle.map fun b => b.ver.toNat).getD 0
  control 1 (helloDevice s) 0xFF (toBytes 8 (hierId s) ++ three (w.getD 0 (0, 0, 0)) ++ three (w.getD 1 (0, 0, 0)) ++
    toBytes 4 ver ++ toBytes 4 0)

/-- HELLO_TX: every 10 ms on each hierarchy group, except from a STANDBY (R365, R371). -/
def execHelloTx (s : State) : Host.Outcome State Fault Refusal :=
  if hierRole s = 0 ∨ role s = 2 ∨ s.time.dt < s.izl.helloAt + tenMs then done s
  else
    let s := { s with izl := { s.izl with helloAt := s.time.dt } }
    done ((List.range 16).foldl (fun s g => sendControl s g (hello s)) s)

/-- 30 ms in ticks. -/
def thirtyMs : Nat := 24000000

/-- Group `g` could be the upstream: a numbered device above this one was heard on it lately. -/
def mayLead (s : State) (g : Nat) : Bool :=
  hierGroup s g && groupUp s g && (izlGroup s g).neighbour.any fun n =>
    decide (n.device ≤ 127) && decide (n.level ≤ 3) && decide (s.time.dt < n.heardAt + thirtyMs) &&
      windowsFit ((ownWindows s).getD 0 (0, 0, 0)) (n.window.getD 0 (0, 0, 0)) && !isBelow s g n

/-- The order of R366: level, sender device, group. -/
def leadRank (s : State) (g : Nat) : Nat :=
  match (izlGroup s g).neighbour with
  | some n => n.level * 65536 + n.device * 256 + g
  | none => 2 ^ 24

/-- The upstream that R366 chooses among the groups that `ok` permits. -/
def bestUpstream (s : State) (ok : Nat → Bool) : Option Nat :=
  ((List.range 16).filter fun g => mayLead s g && ok g).foldl (fun b g =>
    match b with
    | none => some g
    | some c => if leadRank s g < leadRank s c then some g else some c) none

/-- A worker takes upstream `g`: its level is one more, and too deep a place is refused. -/
def takeUpstream (s : State) (g : Nat) : State :=
  match (izlGroup s g).neighbour with
  | none => s
  | some n =>
    if 3 ≤ n.level then
      let s := if hierState s = 5 then s else hierEvent s 2 (ownDevice s)
      let s := wr (wr (wr s Reg.izlHierStat [] 31 29 5) Reg.izlHierStat [] 19 16 15) Reg.izlHierStat [] 15 12 15
      showRoles { s with izl := { s.izl with depth := true, lostAt := s.time.dt } }
    else
      let deep := s.izl.depth
      let s := wr (wr s Reg.izlHierStat [] 19 16 g) Reg.izlHierStat [] 15 12 (n.level + 1)
      let s := { s with izl := { s.izl with depth := false } }
      let st := hierState s
      let s :=
        if st = 0 ∨ st = 1 ∨ st = 4 ∨ (st = 5 ∧ deep) then
          if n.device = 0 ∧ !windowsFit ((ownWindows s).getD 1 (0, 0, 0)) (n.window.getD 1 (0, 0, 0)) then
            hierEvent (wr s Reg.izlHierStat [] 31 29 5) 2 (ownDevice s)
          else wr s Reg.izlHierStat [] 31 29 2
        else s
      showRoles s

/-- A worker follows R366. -/
def seekUpstream (s : State) (ok : Nat → Bool) : State :=
  if hierRole s ≠ 2 then s
  else match bestUpstream s ok with
    | none => s
    | some g => takeUpstream s g

/-! ### Numbers (R367) -/

/-- The number that the manager gives a UNIT_ID: its binding's while admitted, else the lowest free one; 0xFF for none. -/
def numberFor (s : State) (uid : BitVec 64) : Nat :=
  match s.izl.bindings.find? fun b => b.2 == uid with
  | some b => if admitted s b.1 then b.1 else 0xFF
  | none =>
    (((List.range 127).map (· + 1)).find? fun n => admitted s n && !s.izl.bindings.any fun b => b.1 == n).getD 0xFF

/-- The ASSIGN for number `n` leaves towards relaying device `r`, whose group `k` leads to the joiner. -/
def sendAssign (s : State) (uid : BitVec 64) (n r k : Nat) : State :=
  let body := toBytes 8 uid.toNat ++ toBytes 1 n ++ toBytes 1 k ++ toBytes 2 0
  let out := if r = ownDevice s then some k else find s.izl.paths r
  match out with
  | none => s
  | some g =>
    let s := if n ≤ 127 then { s with izl := { s.izl with paths := put s.izl.paths n g } } else s
    sendControl s g (control 3 0 (if r = ownDevice s then 0xFF else r) body)

/-- The twin's copy of a binding, at its number's place above BAR0; UNIT_ID 0 for a binding released (Table 13-2). -/
def mirrorBinding (s : State) (n : Nat) (uid : BitVec 64) : State :=
  mirror s 7 (0x10000000 + n * 8) [BitVec.ofNat 32 (uid.toNat / 2 ^ 32), BitVec.ofNat 32 uid.toNat]

/-- The twin's copy of the device number. -/
def mirrorNumber (s : State) (n : Nat) : State := mirror s 7 0x10000800 [BitVec.ofNat 32 n]

/-- The manager binds a number to a joiner (R367). -/
def bindJoiner (s : State) (uid : BitVec 64) (r k : Nat) : State :=
  let n := numberFor s uid
  let s :=
    if n = 0xFF then hierEvent s 2 n
    else
      let known := s.izl.bindings.filter fun b => b.1 != n
      let s := { s with izl := { s.izl with bindings := known ++ [(n, uid)],
                                            joined := (s.izl.joined.filter (· != n)) ++ [n] } }
      hierEvent (mirrorBinding s n uid) 1 n
  showRoles (sendAssign s uid n r k)

/-- A JOIN for a neighbour without a number on group `g`. -/
def sendJoin (s : State) (uid : BitVec 64) (g : Nat) : State :=
  if hierRole s = 1 then bindJoiner s uid 0 g
  else match groupToward s 0 with
    | none => s
    | some u =>
      sendControl s u (control 2 (ownDevice s) 0 (toBytes 8 uid.toNat ++ toBytes 1 (ownDevice s) ++ toBytes 1 g ++ toBytes 2 0))

/-- A HELLO heard on group `g`: the neighbour noted, a number asked for it, the upstream chosen. -/
def helloIn (s : State) (g : Nat) (b : List Byte) : State :=
  let w (o : Nat) : Nat × Nat × Nat := (field b o 2, field b (o + 2) 2, field b (o + 4) 2)
  let oh := ((rxLane s g 0).map fun n => (izlLane s n).ohGood).getD []
  let rl := (oh.getD 9 0x0F).toNat
  let uid : BitVec 64 := BitVec.ofNat 64 (field b 4 8)
  let n : Neighbour :=
    { unitId := uid, device := byteAt b 1, role := rl / 64, level := rl % 16, version := BitVec.ofNat 32 (field b 24 4),
      window := [w 12, w 18], heardAt := s.time.dt }
  let s := putIzlGroup s g { izlGroup s g with neighbour := some n }
  let s := showRole s g
  let s := seekUpstream s fun _ => true
  if n.device = 0xFF ∧ roleOf s g = 3 ∧ ownDevice s ≤ 127 ∧ (hierRole s = 1 ∨ hierState s = 3) ∧ coreDown s 3 = false then
    sendJoin s uid g
  else s

/-- HELLO_RX: the content of a HELLO leaf arrives on group `g`. -/
def execHelloRx (g : Fin 16) (el : Nat) (bytes : List Byte) (s : State) : Host.Outcome State Fault Refusal :=
  let s := advance el s
  done (controlIn s g 1 32 bytes fun s => helloIn s g bytes)

/-- A JOIN on group `g`: bound by the manager, else relayed. -/
def joinIn (s : State) (g : Nat) (b : List Byte) : State :=
  if byteAt b 2 = ownDevice s then
    if hierRole s = 1 then bindJoiner s (BitVec.ofNat 64 (field b 4 8)) (byteAt b 12) (byteAt b 13) else s
  else relay s g b

/-- JOIN_RX. -/
def execJoinRx (g : Fin 16) (bytes : List Byte) (s : State) : Host.Outcome State Fault Refusal :=
  done (controlIn s g 2 14 bytes fun s => joinIn s g bytes)

/-- The worker takes its number, or is refused. -/
def takeNumber (s : State) (n : Nat) : State :=
  if hierState s ≠ 2 then s
  else if n = 0xFF then hierEvent (wr s Reg.izlHierStat [] 31 29 5) 2 n
  else
    let again := decide (ownDevice s ≠ 0xFF)
    let s := wr (wr s Reg.izlHierStat [] 31 29 3) Reg.izlHierStat [] 7 0 n
    showRoles (hierEvent (mirrorNumber s n) (if again then 4 else 1) n)

/-- An ASSIGN on group `g`: for the joiner itself, to be forwarded on the joiner's group, or to be relayed. -/
def assignIn (s : State) (g : Nat) (b : List Byte) : State :=
  let uid : BitVec 64 := BitVec.ofNat 64 (field b 4 8)
  let n := byteAt b 12
  let d := byteAt b 2
  if d = 0xFF then
    if hierRole s = 2 ∧ g = upstream s ∧ uid.toNat = hierId s then takeNumber s n else s
  else if d = ownDevice s then showRoles (sendAssign s uid n d (byteAt b 13))
  else
    let s := match find s.izl.paths d with
      | some t => if n ≤ 127 then { s with izl := { s.izl with paths := put s.izl.paths n t } } else s
      | none => s
    relay s g b

/-- ASSIGN_RX. -/
def execAssignRx (g : Fin 16) (bytes : List Byte) (s : State) : Host.Outcome State Fault Refusal :=
  done (controlIn s g 3 14 bytes fun s => assignIn s g bytes)

/-! ### FLOW (R372, R373) -/

/-- FLOW_REFRESH: every REFRESH µs while any bit of the map is set. -/
def execFlowRefresh (s : State) : Host.Outcome State Fault Refusal :=
  let us := max 10 (min 1000 (rd s Reg.izlFc [] 15 0))
  done (flowUpdate s (decide (s.izl.flowAt + us * 800 ≤ s.time.dt)))

/-- The VOQs of device `d` under its XOFF map, which this refreshes (R236). -/
def applyFlow (s : State) (d : Nat) (b : List Byte) : State :=
  let base := voqOf s d 0 0
  let m := (List.range 768).foldl (fun m k =>
    if bit (byteAt b (4 + k / 8)) (k % 8) then put m (base + k) s.time.dt else drop m (base + k)) s.sched.xoff
  { s with sched := { s.sched with xoff := m } }

/-- A FLOW leaf on group `g`: relayed unchanged, and applied to its origin's VOQs. -/
def flowIn (s : State) (g : Nat) (b : List Byte) : State :=
  let s := bump s Ctr.izl [g] 5 1
  let s := ((flowGroups s).filter (· != g)).foldl (fun s t => sendControl s t b) s
  let d := byteAt b 1
  if admitted s d ∧ d ≠ ownDevice s then applyFlow s d b else s

/-- FLOW_RX. -/
def execFlowRx (g : Fin 16) (bytes : List Byte) (s : State) : Host.Outcome State Fault Refusal :=
  done (controlIn s g 4 100 bytes fun s => flowIn s g bytes)

/-! ### Losing the upstream (R369) -/

/-- HELLO was heard on group `g` within the last 30 ms. -/
def hears (s : State) (g : Nat) : Bool := (izlGroup s g).neighbour.any fun n => decide (s.time.dt < n.heardAt + thirtyMs)

/-- UPSTREAM_LOSS: 30 ms without HELLO from the upstream. A worker without upstream has no level (log entry 158). -/
def execUpstreamLoss (s : State) : Host.Outcome State Fault Refusal :=
  let u := upstream s
  if hierRole s ≠ 2 ∨ u = 15 ∨ hears s u = true then done s
  else match bestUpstream s (· != u) with
    | some g => done (takeUpstream s g)
    | none =>
      let s := wr (wr s Reg.izlHierStat [] 19 16 15) Reg.izlHierStat [] 15 12 15
      done (showRoles { s with izl := { s.izl with lostAt := s.time.dt } })

/-- ORPHAN_TIMEOUT: no upstream for 1 s. -/
def execOrphanTimeout (s : State) : Host.Outcome State Fault Refusal :=
  if hierRole s ≠ 2 ∨ upstream s ≠ 15 ∨ (hierState s ≠ 2 ∧ hierState s ≠ 3) ∨ s.time.dt < s.izl.lostAt + msTicks 1000 then done s
  else if ownDevice s = 0xFF then done (wr s Reg.izlHierStat [] 31 29 1)
  else done (hierEvent (wr s Reg.izlHierStat [] 31 29 4) 3 (ownDevice s))

/-! ### IZL_HIER_CMD -/

/-- A bound device is JOINED: it took its number and the group towards it is up. -/
def isJoined (s : State) (d : Nat) : Bool :=
  s.izl.joined.contains d && (find s.izl.paths d).any fun g => groupUp s g

/-- RELEASE of device `d`'s binding. -/
def releaseBinding (s : State) (d : Nat) : State :=
  let result (s : State) (r : Nat) : State := wr s Reg.izlHierCmd [] 27 25 r
  if hierRole s ≠ 1 then result s 1
  else if isJoined s d then result s 2
  else if !s.izl.bindings.any (·.1 == d) then result s 3
  else
    let s := { s with izl := { s.izl with bindings := s.izl.bindings.filter (·.1 != d), joined := s.izl.joined.filter (· != d) } }
    result (hierEvent (mirrorBinding s d 0) 5 d) 0

/-- REJOIN: the worker joins again and keeps its number. -/
def rejoin (s : State) : State :=
  if hierRole s ≠ 2 then wr s Reg.izlHierCmd [] 27 25 1
  else seekUpstream (wr (wr s Reg.izlHierStat [] 31 29 1) Reg.izlHierCmd [] 27 25 0) fun _ => true

/-- A write of IZL_HIER_CMD. -/
def hierCmdWrite (s : State) (req : Requester) (data : Word) : State :=
  let s := stage s req Reg.izlHierCmd [] 0xFFFFFFFF data
  if !flag data 31 then s else if fld data 29 28 = 0 then releaseBinding s (fld data 6 0) else rejoin s

/-! ### IZL settings take effect -/

/-- A new ROLE: a manager is device 0 at level 0, a worker has to join. -/
def roleApplied (before : State) (s : State) : State :=
  if hierRole before = hierRole s then s
  else
    let stat (state up level dev : Nat) : Word := BitVec.ofNat 32 (state * 2 ^ 29 + up * 2 ^ 16 + level * 2 ^ 12 + dev)
    let s := putWord s Reg.izlHierStat [] (match hierRole s with
      | 1 => stat 3 15 0 0
      | 2 => stat 1 15 15 0xFF
      | _ => stat 0 15 15 0xFF)
    mirrorNumber (showRoles { s with izl := { s.izl with depth := false, lostAt := s.time.dt } }) (ownDevice s)

/-- What an MS boundary changed in the IZL block takes effect. -/
def izlApplied (before : State) (s : State) : State :=
  roleApplied before ((List.range 16).foldl (fun s g => groupApplied before s g) s)

end Sys2Proof.Machine
end

