-- ==== Sys2Proof/Machine/Placement.lean ====
section
/-! DEFINITION. Placement's commands: the end of a line copy, queue allocation, the flash journal and MC2's return (R326,
R327, R332, R333). -/
namespace Sys2Proof.Machine

/-- LINE_COPY_DONE: the background copy of input channel `i`'s line ends. The taps read the new copy from the first apply
sample now or later that lies at least EDIT_LEAD after a0. -/
def execLineCopyDone (i : Fin 16384) (el : Nat) (s : State) : Host.Outcome State Fault Refusal :=
  let s := advance el s
  match s.place.lineMoves.find? fun m => m.input == i.val && m.switchAt.isNone with
  | none => done s
  | some m =>
    match (activeJobs s).find? fun j => inRange (inputRange (s.acc.inForce.job j)) i with
    | none => done s
    | some j =>
      let d := s.acc.inForce.job j
      if !reachedTime s d m.a0 then done s
      else
        let s := copyLine s m
        let fs := jobRate d
        let lead : Int := (m.a0 * fracPerSec : Nat) / fs + editLead s
        let a := max (applyFrom fs (tbFrac s (jobTb d))) (applyFrom fs lead)
        let moves := s.place.lineMoves.map fun x => if x = m then { m with switchAt := some a } else x
        done { s with place := { s.place with lineMoves := moves } }

/-- The line moves whose switch sample has come are finished. -/
def landLines (s : State) : State :=
  s.place.lineMoves.foldl (fun s m =>
    match m.switchAt, (activeJobs s).find? fun j => inRange (inputRange (s.acc.inForce.job j)) m.input with
    | some a, some j => if reachedTime s (s.acc.inForce.job j) a then switchLine s m else s
    | _, _ => s) s

/-- A queue of the free range for port `p` and class `c`. -/
def allocateQueue (s : State) (p c : Nat) : State :=
  let result (s : State) (r : Nat) : State := wr s Reg.placeQCmd [] 29 27 r
  if placeMode s 2 = 0 then result s 2
  else if role s = 2 ∨ role s = 3 then result s 4
  else match freeQueue s 5 with
    | none => result (noRoom s 2 p) 3
    | some q =>
      let s := putWord (nameQueue s q p c) Reg.placeQResult [] (BitVec.ofNat 32 q)
      result (journalNew s 2 0 9 q p) 0

/-- A write of PLACE_Q_CMD. -/
def placeQWrite (s : State) (req : Requester) (data : Word) : State :=
  let standby := role s == 2 || role s == 3
  let s := stage s req Reg.placeQCmd [] 0xFFFFFFFF data
  if !flag data 31 then s
  else if standby then allocateQueue s (fld data 6 0) (fld data 9 7)
  else allocateQueue s (rd s Reg.placeQCmd [] 6 0) (rd s Reg.placeQCmd [] 9 7)

/-- JOURNAL_FLASH_COPY: MC2 copies the oldest entry that the flash journal area does not hold yet (R333). -/
def execJournalFlashCopy (s : State) : Host.Outcome State Fault Refusal :=
  let n := s.place.flashCopied
  if !mc2Up s ∨ n = (word s Reg.placeJnlCnt []).toNat then done s
  else
    let e := get 0 s.place.journal (n % 65536)
    done { s with place := { s.place with flashCopied := (n + 1) % 2 ^ 32 },
                  img := { s.img with flashJournal := s.img.flashJournal ++ [e] } }

/-- MC2 runs again and journals what the hardware assists decided (R332). -/
def mc2Resume (s : State) : State :=
  let s := { s with power := { s.power with coresDown := s.power.coresDown &&& ~~~4#4 } }
  let l := s.place.heldBack
  l.foldl writeJournal { s with place := { s.place with heldBack := [] } }

/-- MC2_RESUME. -/
def execMc2Resume (s : State) : Host.Outcome State Fault Refusal :=
  if stageDone s 2 then done (mc2Resume s) else done s

end Sys2Proof.Machine
end

