-- ==== Sys2Proof/Machine/Windows.lean ====
section
/-! DEFINITION. The table windows (R405, R409, R414, Table 14-3): what each entry reads as, how a written entry lands (R116,
R155, R212, R284, R554), and how state that the twin carries is put in place (R383). -/
namespace Sys2Proof.Machine

/-! ### The tables -/

/-- The tables of Table 14-3; a flag names the copy in force of an Accord table. -/
inductive Table where
  | queue | fdb | stash | mdb | vlan | sid | sidStash | ctx | gateStaged | gateForce | ptp
  | job (force : Bool) | sub (force : Bool) | input (force : Bool) | out (force : Bool) | route (force : Bool)
  | tap (force : Bool)
  | pin | journal | pm | punt | reason
  deriving DecidableEq, Repr

/-- The BAR0 offset, the bytes of one entry and the number of entries of a table. -/
def shapeOf (t : Table) : Nat × Nat × Nat :=
  let force (b : Bool) : Nat := if b then 0x1000000 else 0
  match t with
  | .queue => (0x1000000, 64, 262144)
  | .fdb => (0x2000000, 16, 131072)
  | .stash => (0x2200000, 16, 64)
  | .mdb => (0x2300000, 32, 16384)
  | .vlan => (0x2400000, 32, 4096)
  | .sid => (0x2800000, 64, 65536)
  | .sidStash => (0x2C00000, 64, 32)
  | .ctx => (0x3000000, 64, 65536)
  | .gateStaged => (0x5100000, 8, 81920)
  | .gateForce => (0x5200000, 8, 81920)
  | .ptp => (0x5800000, 64, 320)
  | .job f => (0x6000000 + force f, 64, 1024)
  | .sub f => (0x6020000 + force f, 64, 4096)
  | .input f => (0x6080000 + force f, 16, 16384)
  | .out f => (0x6100000 + force f, 128, 2048)
  | .route f => (0x6180000 + force f, 16, 8192)
  | .tap f => (0x6200000 + force f, 8, 131072)
  | .pin => (0x8000000, 16, 256)
  | .journal => (0x8100000, 32, 65536)
  | .pm => (0x8800000, 64, 4096)
  | .punt => (0x9000000, 16, 8)
  | .reason => (0x9000100, 4, 17)

def tables : List Table :=
  [.queue, .fdb, .stash, .mdb, .vlan, .sid, .sidStash, .ctx, .gateStaged, .gateForce, .ptp, .job false, .job true, .sub false,
   .sub true, .input false, .input true, .out false, .out true, .route false, .route true, .tap false, .tap true, .pin,
   .journal, .pm, .punt, .reason]

/-- The table, the entry and the word of it that a BAR0 offset names. -/
def tableAt (a : Nat) : Option (Table × Nat × Nat) :=
  tables.findSome? fun t =>
    let (base, size, count) := shapeOf t
    if base ≤ a ∧ a < base + size * count then some (t, (a - base) / size, (a - base) % size / 4) else none

/-- The ranges of Table 14-3 that no table fills: counters, SCHED_HALF_SUM and the rest of the punt region. -/
def otherRanges : List (Nat × Nat) :=
  [(0x3400000, 0x3C00000), (0x4000000, 0x5000000), (0x5000000, 0x5008000), (0x5820000, 0x582A000), (0x6400000, 0x6440000),
   (0x6500000, 0x6510000), (0x6580000, 0x6584000), (0x9000000, 0x9001000)]

/-- A BAR0 offset in the table windows is decoded (R409). -/
def windowDecoded (a : Nat) : Bool := (tableAt a).isSome || otherRanges.any fun r => decide (r.1 ≤ a ∧ a < r.2)

/-! ### What an entry reads as -/

/-- A balance in 10⁻⁵ bytes as whole bytes. -/
def wholeBytes (b : Int) : Int := b / 100000

/-- The state half of a queue descriptor (Table 8-2). -/
def queueHalf (s : State) (q : Nat) : Nat :=
  let x := queue s q
  unsigned (wholeBytes (queueBalance s q)) 32 * 2 ^ 224 + x.deficit % 2 ^ 24 * 2 ^ 200 + bnat (heldHead s q) * 2 ^ 199 +
    bnat (gateWait s q) * 2 ^ 198 + depthCells s q % 2 ^ 19 * 2 ^ 173 + x.copies.length % 2 ^ 18 * 2 ^ 155 +
    x.maxCells % 2 ^ 19 * 2 ^ 136 + min x.maxDelay (2 ^ 32 - 1) * 2 ^ 96 + min x.lastDelay (2 ^ 32 - 1) * 2 ^ 64

/-- The configuration half of a queue descriptor: PORT and CLASS read their fixed or routed values in the class and VOQ
ranges (Table 8-2). -/
def queueTop (s : State) (q : Nat) : Nat :=
  let c := (find s.sched.configWait q).getD (queueCfg s q)
  let use := queueUse s q
  (if use = 1 ∨ use = 3 then setFld (setFld c 255 249 (queuePort s q)) 248 246 (queueClass s q) else c).toNat

/-- The state half of a stream context (Table 6-4). -/
def contextHalf (s : State) (h : Nat) : Nat :=
  let x := streamState s h
  let left := match x.timerEnd with
    | some e => (e - s.time.dt) / 80000
    | none => 0
  let bal (k : Nat) : Nat := unsigned (wholeBytes (meterBalance s (streamCfg s h) x k)) 24
  x.genSeq.toNat * 2 ^ 240 + x.recSeq.toNat * 2 ^ 224 + bnat x.takeAny * 2 ^ 223 + bnat x.blocked * 2 ^ 222 +
    left % 65536 * 2 ^ 200 + x.history.toNat * 2 ^ 128 + bal 3 * 2 ^ 104 + bal 2 * 2 ^ 80 + bal 1 * 2 ^ 56 + bal 0 * 2 ^ 32

/-- Whether an instant lies within three intervals of 2^log s before now. -/
def recently (s : State) (log : Nat) (at_ : Option Nat) : Bool :=
  at_.any fun t =>
    let l := signed log 4
    let unit : Nat := if 0 ≤ l then 800000000 * 2 ^ l.toNat else 800000000 / 2 ^ (-l).toNat
    decide (s.time.dt ≤ t + 3 * unit)

/-- The state half of a PTP port context (Table 9-6). -/
def ptpHalf (s : State) (c : Nat) : Nat :=
  let x := ptp s c
  let cfg := get 0 s.time.ctx c
  unsigned (meanDelay x) 40 * 2 ^ 216 + unsigned x.nrr 32 * 2 ^ 184 +
    unsigned (heldInt (-(2 ^ 47)) (2 ^ 47 - 1) x.offset) 48 * 2 ^ 136 + x.syncSeq % 65536 * 2 ^ 120 +
    x.delaySeq % 65536 * 2 ^ 104 + x.pdelaySeq % 65536 * 2 ^ 88 +
    bnat (ptpRole cfg == 2 && recently s (fld cfg 239 236) x.lastSyncAt) * 2 ^ 87 +
    bnat (recently s (fld cfg 235 232) x.lastPdelayAt) * 2 ^ 86

/-- The state bits of a job descriptor (Table 10-4): NEXT reads under the descriptor in force, and APPLY reads zero while no
command waits. -/
def jobHalf (s : State) (j : Nat) : Nat :=
  let x := job s j
  let d := s.acc.inForce.job j
  let next := if flag d 511 then applyFrom (jobRate d) (tbFrac s (jobTb d)) else 0
  let apply := match x.pending with
    | c :: _ => c.sample
    | [] => 0
  x.state * 2 ^ 253 + bnat (x.pending != []) * 2 ^ 252 + (if x.state = 0 then 0 else x.engine) * 2 ^ 246 +
    jobLoad s j / 1000000 % 4096 * 2 ^ 224 + next % 2 ^ 56 * 2 ^ 168 + apply % 2 ^ 56 * 2 ^ 112

/-- NEXT_SEQ and NEXT_TS of an output stream (Table 10-7). -/
def outHalf (s : State) (o : Nat) : Nat :=
  let e := get 0 s.acc.inForce.outs o
  match (activeJobs s).find? fun j => inRange (outRange (s.acc.inForce.job j)) o with
  | none => 0
  | some j =>
    let fs := jobRate (s.acc.inForce.job j)
    let m := get 0 s.acc.outNext o
    packetSeq e fs m % 65536 * 2 ^ 496 + packetTs e fs m * 2 ^ 464

/-- Samples left in the longest ramp of route `c` (Table 10-8). -/
def rampLeft (s : State) (c : Nat) : Nat :=
  let r := get emptyRoute s.acc.routes c
  let o := fld (get 0 s.acc.inForce.routes c) 126 116
  let now := outAt s o
  ((r.live ++ r.fading).map fun t => if t.len = 0 then 0 else t.startAt + t.len - now).foldl max 0

def tokensHeld (s : State) (c : Nat) : Nat := puntTokens s c / tokenUnit

/-- The configuration bits of an Accord table's entry. -/
def accEntry (s : State) (t : Table) (i : Nat) : Nat :=
  let d (force : Bool) : AccDesc := if force then s.acc.inForce else s.acc.staged
  match t with
  | .job f => (get 0 (d f).jobs i).toNat
  | .sub f => (get 0 (d f).subs i).toNat
  | .input f => (get 0 (d f).inputs i).toNat
  | .out f => (get 0 (d f).outs i).toNat
  | .route f => (get 0 (d f).routes i).toNat
  | .tap f => (get 0 (d f).taps i).toNat
  | _ => 0

/-- What entry `i` of a table holds as configuration. -/
def entryConfig (s : State) (t : Table) (i : Nat) : Nat :=
  match t with
  | .queue => queueTop s i * 2 ^ 256
  | .fdb => (get 0 s.fdb.entries i).toNat
  | .stash => (get 0 s.fdb.entries (fdbSize + i)).toNat
  | .mdb => (get 0 s.fdb.mdb i).toNat
  | .vlan => (get 0 s.fdb.vlan i).toNat
  | .sid => (sidEntry s i).toNat
  | .sidStash => (sidEntry s (sidSize + i)).toNat
  | .ctx => (streamCfg s i).toNat * 2 ^ 256
  | .gateStaged => (get gateReset s.sched.gateStaged i).toNat
  | .gateForce => (get gateReset (gate s (i / 1024)).inForce.entries (i % 1024)).toNat
  | .ptp => (ptpLatest s (i / 4) (i % 4)).toNat * 2 ^ 256
  | .pin => (match find s.place.pinsWait i with
    | some (e, _) => e
    | none => get 0 s.place.pins i).toNat
  | .journal => (get 0 s.place.journal i).toNat
  | .pm => (get 0 s.izl.pm i).toNat
  | .punt => (puntEntry s i).toNat
  | .reason => (get (0 : Word) s.host.reasons i).toNat
  | .job f => accEntry s (.job f) i
  | .sub f => accEntry s (.sub f) i
  | .input f => accEntry s (.input f) i
  | .out f => accEntry s (.out f) i
  | .route f => accEntry s (.route f) i
  | .tap f => accEntry s (.tap f) i

/-- The read-only state bits of entry `i` of a table. -/
def entryState (s : State) (t : Table) (i : Nat) : Nat :=
  match t with
  | .queue => queueHalf s i
  | .ctx => contextHalf s i
  | .ptp => ptpHalf s i
  | .job _ => jobHalf s i
  | .sub _ => (match find s.acc.subs i with
    | some r => r.last
    | none => 0) % 2 ^ 56 * 2 ^ 200
  | .out _ => outHalf s i
  | .route _ => min (rampLeft s i) 65535 * 2 ^ 48
  | .punt => tokensHeld s i % 65536
  | .fdb => 0
  | .stash => 0
  | .mdb => 0
  | .vlan => 0
  | .sid => 0
  | .sidStash => 0
  | .gateStaged => 0
  | .gateForce => 0
  | .input _ => 0
  | .tap _ => 0
  | .pin => 0
  | .journal => 0
  | .pm => 0
  | .reason => 0

/-- Word `w` of entry `i` as it reads. -/
def tableWord (s : State) (t : Table) (i w : Nat) : Word :=
  BitVec.ofNat 32 ((entryConfig s t i + entryState s t i) / 2 ^ (32 * w))

/-! ### How a written entry lands -/

/-- The Accord descriptor bits that software writes (Tables 10-4 to 10-9). -/
def jobMask : Nat := 2 ^ 512 - 2 ^ 400 - 2 ^ 506 - 31 * 2 ^ 495
def subMask : Nat := 2 ^ 512 - 2 ^ 424
def inputMask : Nat := 2 ^ 128 - 2 ^ 80
def outMask : Nat := 2 ^ 1024 - 2 ^ 637
def routeMask : Nat := 2 ^ 128 - 2 ^ 96
def pinBits : Nat := 7 * 2 ^ 125 + (2 ^ 110 - 2 ^ 96) + (2 ^ 64 - 1)
def puntMask : Nat := 2 ^ 128 - 2 ^ 84

/-- The largest gain, 24 dB (R290). -/
def gainMax : Nat := 0xFD95399E

/-- A field held by `h`. -/
def heldFld {n : Nat} (e : BitVec n) (hi lo : Nat) (h : Nat → Nat) : BitVec n := setFld e hi lo (h (fld e hi lo))

/-- A staged job descriptor: LINK_OFFSET is held in its range, and ENGINE is placement's while JOB is not OFF. -/
def landJob (s : State) (i : Nat) (e : Nat) : State :=
  let e : BitVec 512 := BitVec.ofNat 512 (e &&& jobMask)
  let e := if placeMode s 0 = 0 then e else setFld e 505 500 (fld (s.acc.staged.job i) 505 500)
  let e := if e = 0 then e else heldFld e 494 480 (held 250 20000)
  { s with acc := { s.acc with staged := { s.acc.staged with jobs := set 0 s.acc.staged.jobs i e } } }

/-- A staged input channel, as written: placement replaces its LINE_BASE at START while LINE is not OFF (chapter 11). -/
def landInput (s : State) (i : Nat) (e : Nat) : State :=
  let e : BitVec 128 := BitVec.ofNat 128 (e &&& inputMask)
  { s with acc := { s.acc with staged := { s.acc.staged with inputs := set 0 s.acc.staged.inputs i e } } }

/-- A staged Accord descriptor lands (R284), with its fields held in their ranges. -/
def landAccord (s : State) (t : Table) (i : Nat) (e : Nat) : State :=
  let put (d : AccDesc) : State := { s with acc := { s.acc with staged := d } }
  let d := s.acc.staged
  match t with
  | .job false => landJob s i e
  | .sub false => put { d with subs := set 0 d.subs i (BitVec.ofNat 512 (e &&& subMask)) }
  | .input false => landInput s i e
  | .out false => put { d with outs := set 0 d.outs i (BitVec.ofNat 1024 (e &&& outMask)) }
  | .route false => put { d with routes := set 0 d.routes i (heldFld (BitVec.ofNat 128 (e &&& routeMask)) 103 97 (min 100)) }
  | .tap false =>
    put { d with taps := set 0 d.taps i (heldFld (heldFld (BitVec.ofNat 64 e) 48 32 (min 96000)) 31 0 (min gainMax)) }
  | _ => s

/-- The staged Accord descriptor goes to the twin (Table 13-2, class 8). -/
def landStaged (s : State) (t : Table) (i e : Nat) : State :=
  let s := landAccord s t i e
  let (base, size, _) := shapeOf t
  mirror s 8 (base + i * size) (wordsOf (size / 4) (BitVec.ofNat (size * 8) (entryConfig s t i)))

/-- A written entry lands: refused by its block, in force, waiting for its apply point or for its epoch. -/
def landEntry (s : State) (req : Requester) (t : Table) (i : Nat) (e : Nat) : State :=
  let (base, size, _) := shapeOf t
  let epoch (s : State) (ws : Nat) : State :=
    if standsBy s req (some (if t = .fdb ∨ t = .stash then 1 else 2)) then bump s Ctr.twin [] 6 1
    else
      let w : TableWrite := ⟨base + i * size, wordsOf ws (BitVec.ofNat (size * 8) e), req⟩
      { s with fdb := { s.fdb with tableWrites := s.fdb.tableWrites ++ [w] } }
  match t with
  | .queue => descriptorWrite s req i (BitVec.ofNat 256 (e / 2 ^ 256))
  | .fdb => epoch s 4
  | .stash => epoch s 4
  | .mdb => epoch s 8
  | .vlan => epoch s 8
  | .ctx => contextWrite s req i (BitVec.ofNat 256 (e / 2 ^ 256))
  | .gateStaged => gateEntryWrite s req (i / 1024) (i % 1024) (BitVec.ofNat 64 e)
  | .ptp => ptpContextWrite s req (i / 4) (i % 4) (BitVec.ofNat 256 (e / 2 ^ 256))
  | .job false => landStaged s t i e
  | .sub false => landStaged s t i e
  | .input false => landStaged s t i e
  | .out false => landStaged s t i e
  | .route false => landStaged s t i e
  | .tap false => landStaged s t i e
  | .pin =>
    { s with place := { s.place with pinsWait := put s.place.pinsWait i (BitVec.ofNat 128 (e &&& pinBits), s.time.dt) } }
  | .punt =>
    let v := puntTokens s i
    let p : BitVec 128 := BitVec.ofNat 128 (e &&& puntMask)
    { s with host := { s.host with punt := set 0 s.host.punt i p,
                                   tokens := set ⟨0, 0⟩ s.host.tokens i ⟨min v (max 1 (fld p 99 84) * tokenUnit), s.time.dt⟩ } }
  | .reason => { s with host := { s.host with reasons := set 0 s.host.reasons i (BitVec.ofNat 32 e &&& 0x80000007) } }
  | .sid => s
  | .sidStash => s
  | .gateForce => s
  | .journal => s
  | .pm => s
  | .job true => s
  | .sub true => s
  | .input true => s
  | .out true => s
  | .route true => s
  | .tap true => s

/-- The lowest word of an entry that software writes: the state half of a descriptor or context is read-only. -/
def firstWord (t : Table) : Nat :=
  match t with
  | .queue => 8
  | .ctx => 8
  | .ptp => 8
  | _ => 0

/-- One written word: kept until the word at the entry's highest address is written, with which the entry lands; words that
were not written keep what the entry holds (R116, R155, R212, R284, R554). -/
def tableWrite (s : State) (req : Requester) (a : Nat) (data : Word) : State :=
  match tableAt a with
  | none => s
  | some (t, i, w) =>
    let (base, size, _) := shapeOf t
    let last := size / 4 - 1
    let at_ (k : Nat) : Nat := base + i * size + 4 * k
    if w < firstWord t then s
    else if w < last then { s with regs := { s.regs with partialWords := put s.regs.partialWords (at_ w) data } }
    else
      let old := entryConfig s t i
      let e := (List.range last).foldl (fun e k =>
        match find s.regs.partialWords (at_ k) with
        | some v => e - bits e (32 * k + 31) (32 * k) * 2 ^ (32 * k) + v.toNat * 2 ^ (32 * k)
        | none => e) (old % 2 ^ (32 * last) + data.toNat * 2 ^ (32 * last))
      let rest := (List.range last).foldl (fun l k => drop l (at_ k)) s.regs.partialWords
      landEntry { s with regs := { s.regs with partialWords := rest } } req t i e

/-! ### State that the twin carries (R383, Table 13-2) -/

/-- The entries of a table as cells: their BAR0 offsets and words, from word `first` on. -/
def entryCells {n : Nat} (base size first : Nat) (l : Sparse (BitVec n)) : List (Nat × Word) :=
  l.flatMap fun e => ((wordsOf ((size - 4 * first) / 4) e.2).zipIdx).map fun w => (base + e.1 * size + 4 * first + 4 * w.2, w.1)

/-- The settings of a class as cells (Table 13-2); entries at their reset values are left out. -/
def classCells (s : State) (k : Nat) : List (Nat × Word) :=
  let regs (c : Nat) : List (Nat × Word) := s.regs.staged.filter fun e =>
    match rowAt e.1 with
    | some (r, _) => regClass r == some c
    | none => false
  let acc (d : AccDesc) (f : Bool) : List (Nat × Word) :=
    entryCells (shapeOf (.job f)).1 64 0 d.jobs ++ entryCells (shapeOf (.sub f)).1 64 0 d.subs ++
      entryCells (shapeOf (.input f)).1 16 0 d.inputs ++ entryCells (shapeOf (.out f)).1 128 0 d.outs ++
      entryCells (shapeOf (.route f)).1 16 0 d.routes ++ entryCells (shapeOf (.tap f)).1 8 0 d.taps
  match k with
  | 0 => regs 0
  | 1 => entryCells 0x2000000 16 0 (s.fdb.entries.filter fun e => decide (e.1 < fdbSize)) ++
      entryCells 0x2200000 16 0 ((s.fdb.entries.filter fun e => decide (fdbSize ≤ e.1)).map fun e => (e.1 - fdbSize, e.2))
  | 2 => entryCells 0x2300000 32 0 s.fdb.mdb ++ entryCells 0x2400000 32 0 s.fdb.vlan
  | 3 => entryCells 0x2800000 64 0 (s.strm.sid.filter fun e => decide (e.1 < sidSize)) ++
      entryCells 0x2C00000 64 0 ((s.strm.sid.filter fun e => decide (sidSize ≤ e.1)).map fun e => (e.1 - sidSize, e.2)) ++
      entryCells 0x3000000 64 8 s.strm.config
  | 4 => entryCells 0x1000000 64 8 (s.sched.configWait.foldl (fun l e => set queueReset l e.1 e.2) s.sched.config) ++
      entryCells 0x5100000 8 0 s.sched.gateStaged ++
      s.sched.gates.flatMap fun g => (gateWords g.1 g.2.inForce).flatMap fun r =>
        (r.2.zipIdx).map fun w => (r.1 + 4 * w.2, w.1)
  | 5 => entryCells 0x5800000 64 8 (s.time.ctxWait.foldl (fun l e => set 0 l e.1 e.2.1) s.time.ctx) ++ regs 5
  | 7 => regs 7 ++ [(0x10000800, BitVec.ofNat 32 (ownDevice s))] ++ s.izl.bindings.flatMap fun b =>
      [(0x10000000 + b.1 * 8, BitVec.ofNat 32 (b.2.toNat / 2 ^ 32)), (0x10000004 + b.1 * 8, BitVec.ofNat 32 b.2.toNat)]
  | 8 => acc s.acc.staged false ++ acc s.acc.inForce true
  | _ => []

/-- Cells grouped by the table entry that they lie in, with each entry's word numbers. -/
def groupCells : List (Nat × Word) → List (Table × Nat × List (Nat × Word))
  | [] => []
  | (a, w) :: l =>
    match tableAt a, groupCells l with
    | some (t, i, k), (t', i', ws) :: rest =>
      if t = t' ∧ i = i' then (t, i, (k, w) :: ws) :: rest else (t, i, [(k, w)]) :: (t', i', ws) :: rest
    | some (t, i, k), [] => [(t, i, [(k, w)])]
    | none, rest => rest

/-- The value of an entry whose words `ws` are replaced. -/
def withWords (e : Nat) (ws : List (Nat × Word)) : Nat :=
  ws.foldl (fun e w => e - bits e (32 * w.1 + 31) (32 * w.1) * 2 ^ (32 * w.1) + w.2.toNat * 2 ^ (32 * w.1)) e

/-- An entry takes a carried value, in force at once. -/
def restoreEntry (s : State) (t : Table) (i e : Nat) : State :=
  let desc (f : AccDesc → AccDesc) (force : Bool) : State :=
    if force then { s with acc := { s.acc with inForce := f s.acc.inForce } }
    else { s with acc := { s.acc with staged := f s.acc.staged } }
  match t with
  | .queue => applyQueue { s with sched := { s.sched with configWait := put s.sched.configWait i (BitVec.ofNat 256 (e / 2 ^ 256)) } } i
  | .fdb => landFdb s i (BitVec.ofNat 128 e)
  | .stash => landFdb s (fdbSize + i) (BitVec.ofNat 128 e)
  | .mdb => landMdb s i (BitVec.ofNat 256 e)
  | .vlan => landVlan s i (BitVec.ofNat 256 e)
  | .sid => landSid s i (BitVec.ofNat 512 e)
  | .sidStash => landSid s (sidSize + i) (BitVec.ofNat 512 e)
  | .ctx => contextWrite s .twin i (BitVec.ofNat 256 (e / 2 ^ 256))
  | .gateStaged => gateEntryWrite s .twin (i / 1024) (i % 1024) (BitVec.ofNat 64 e)
  | .gateForce =>
    let g := gate s (i / 1024)
    putGate s (i / 1024) { g with inForce := { g.inForce with entries := set gateReset g.inForce.entries (i % 1024) (BitVec.ofNat 64 e) } }
  | .ptp => { s with time := { s.time with ctx := set 0 s.time.ctx i (BitVec.ofNat 256 (e / 2 ^ 256)), ctxWait := drop s.time.ctxWait i } }
  | .job f => desc (fun d => { d with jobs := set 0 d.jobs i (BitVec.ofNat 512 e) }) f
  | .sub f => desc (fun d => { d with subs := set 0 d.subs i (BitVec.ofNat 512 e) }) f
  | .input f => desc (fun d => { d with inputs := set 0 d.inputs i (BitVec.ofNat 128 e) }) f
  | .out f => desc (fun d => { d with outs := set 0 d.outs i (BitVec.ofNat 1024 e) }) f
  | .route f => desc (fun d => { d with routes := set 0 d.routes i (BitVec.ofNat 128 e) }) f
  | .tap f => desc (fun d => { d with taps := set 0 d.taps i (BitVec.ofNat 64 e) }) f
  | .pin => s
  | .journal => s
  | .pm => s
  | .punt => s
  | .reason => s

/-- The parameters of an effective gate list, from their place above BAR0. -/
def restoreGate (s : State) (p : Nat) (ws : List Word) : State :=
  let w (k : Nat) : Word := ws.getD k 0
  let x := gate s p
  let g : GateParams := { en := flag (w 0) 30, tb := fld (w 0) 29 28, last := fld (w 0) 9 0, cycle := (w 1).toNat,
                          base := (w 2).toNat * 2 ^ 32 + (w 3).toNat, entries := x.inForce.entries }
  if g.en && decide (0 < g.cycle) then
    let now := tbNs s g.tb
    let next := gridAfter g now
    let s := putGate (showGate s p g) p { inForce := g, pending := none, short := true, entryEnd := next, cycleEnd := next }
    putWord s Reg.schedGateStat [p] (BitVec.ofNat 32 (2 ^ 31 + g.last))
  else putWord (putGate (showGate s p g) p { x with inForce := g, pending := none }) Reg.schedGateStat [p] 0

/-- Words above BAR0: hierarchy bindings, the device number and gate parameters. -/
def restoreAbove (s : State) (a : Nat) (ws : List Word) : State :=
  let off := a - 0x10000000
  if off < 0x400 then
    let uid : BitVec 64 := BitVec.ofNat 64 ((ws.getD 0 0).toNat * 2 ^ 32 + (ws.getD 1 0).toNat)
    let n := off / 8
    let l := s.izl.bindings.filter (·.1 != n)
    { s with izl := { s.izl with bindings := if uid = 0 then l else l ++ [(n, uid)] } }
  else if off = 0x800 then showRoles (wr s Reg.izlHierStat [] 7 0 (ws.getD 0 0).toNat)
  else if 0x2000 ≤ off ∧ off < 0x2500 then restoreGate s ((off - 0x2000) / 16) ws
  else s

/-- A staged register takes a carried value; answers the value that now waits to be put in force with the others. -/
def restoreWord (s : State) (a : Nat) (w : Word) : State × List PendApply :=
  match rowAt a with
  | none => (s, [])
  | some (r, ix) =>
    let m := r.mask fun f => f.acc == .rw && f.app != .cyc
    let s := putStaged s r ix (blend (r.mask fun f => f.acc == .rw) (stagedWord s r ix) w)
    ({ s with regs := { s.regs with waiting := s.regs.waiting.filter fun e => e.addr != a } }, [⟨a, m, 3, s.time.dt, .twin⟩])

/-- Consecutive cells above BAR0 as runs of words. -/
def runsAbove : List (Nat × Word) → List (Nat × List Word)
  | [] => []
  | (a, w) :: l =>
    match runsAbove l with
    | (b, ws) :: rest => if a + 4 = b ∧ a % (if a < 0x10000800 then 8 else 16) ≠ (if a < 0x10000800 then 4 else 12) then
        (a, w :: ws) :: rest else (a, [w]) :: (b, ws) :: rest
    | [] => [(a, [w])]

/-- Carried cells put in place: table entries, registers all together, and what lies above BAR0. -/
def restoreCells (s : State) (cells : List (Nat × Word)) : State :=
  let s := (groupCells (cells.filter fun c => decide (0x1000000 ≤ c.1 ∧ c.1 < 0x10000000))).foldl (fun s g =>
    restoreEntry s g.1 g.2.1 (withWords (entryConfig s g.1 g.2.1) g.2.2)) s
  let (s, es) := (cells.filter fun c => decide (c.1 < 0x1000000)).foldl (fun (s, es) c =>
    let (s, e) := restoreWord s c.1 c.2
    (s, es ++ e)) (s, [])
  let before := s
  let s := applyEntries s es
  let s := timeApplied before (izlApplied before s)
  (runsAbove (cells.filter fun c => decide (0x10000000 ≤ c.1))).foldl (fun s r => restoreAbove s r.1 r.2) s

/-- The cells that put back to reset what a class holds and a whole copy of it does not list. -/
def clearedCells (s : State) (k : Nat) (cells : List (Nat × Word)) : List (Nat × Word) :=
  ((classCells s k).filter fun c => !cells.any fun d => d.1 == c.1).map fun c =>
    match rowAt c.1 with
    | some (r, ix) => (c.1, r.resetWord ix)
    | none => match tableAt c.1 with
      | some (.queue, _, w) => (c.1, BitVec.ofNat 32 (queueReset.toNat * 2 ^ 256 / 2 ^ (32 * w)))
      | some (.gateStaged, _, w) => (c.1, BitVec.ofNat 32 (gateReset.toNat / 2 ^ (32 * w)))
      | _ => (c.1, 0)

/-- One carried record put in place. -/
def restoreRec (s : State) (r : TwinRec) : State :=
  match r with
  | .mirror _ a ws => restoreCells s ((ws.zipIdx).map fun w => (a + 4 * w.2, w.1))
  | .copy k cells _ => restoreCells s (clearedCells s k cells ++ cells)
  | .marker _ _ => s

end Sys2Proof.Machine
end

