-- ==== Sys2Proof/Machine/Twin.lean ====
section
/-! DEFINITION. The twin controller: pairing, heartbeats, takeover, switchover and revert, and the state that the pair
carries (R376 to R397). -/
namespace Sys2Proof.Machine

/-! ### Roles -/

/-- TWIN_CFG.EN in force, PAIRED, SUBSTATE and PRIMARY. -/
def twinOn (s : State) : Bool := rdBit s Reg.twinCfg [] 31
def paired (s : State) : Bool := rdBit s Reg.twinStat [] 27
def substate (s : State) : Nat := rd s Reg.twinStat [] 26 24
def primary (s : State) : Bool := rdBit s Reg.twinStat [] 28

/-- Device cycles since reset (TIME_DEVCYC). -/
def cycleCount (s : State) : Nat := rd s Reg.timeDevcyc [] 30 0

/-- A role change or a pairing refusal, with its reason and the role that follows. -/
def roleEvent (s : State) (reason v : Nat) : State :=
  putWord (countEvent s Reg.twinRoleCnt []) Reg.twinRoleLast [] (BitVec.ofNat 32 (reason * 2 ^ 16 + v))

/-- A TB that stops or starts following the twin counts SRC_TIMEOUT from now (R250, R270). -/
def switchSources (before s : State) : State :=
  let s := (List.range 4).foldl (fun s t =>
    if followsTwin before t = followsTwin s t then s else putTb s t { tb s t with since := s.time.dt }) s
  showSources s

/-- The unit takes role `v` and substate `sub`; a change of role counts, and only an ACTIVE unit sends TAKE. -/
def setRole (s : State) (v sub reason : Nat) : State :=
  let t := wr (wr s Reg.twinStat [] 31 29 v) Reg.twinStat [] 26 24 sub
  let t := { t with twin := { t.twin with take := t.twin.take && v == 1, finalDone := false } }
  switchSources s (if role s = v then t else roleEvent t reason v)

/-- A class is carried: its mode is not SELF. -/
def carriedClass (s : State) (k : Nat) : Bool := classMode s k != 0

/-- Every carried class becomes STALE, and what waited in staging for it is gone (R385, R389). -/
def staleAll (s : State) : State :=
  let m := (List.range 11).foldl (fun m k => m + bnat (carriedClass s k) * 2 ^ k) 0
  wr { s with twin := { s.twin with staged := [], copied := [] } } Reg.twinStat [] 10 0 m

/-! ### Frames of the pair (R387, R388) -/

/-- The heartbeat that this unit now sends. -/
def heartbeatNow (s : State) (fail : Bool) : Heartbeat :=
  { role := role s, fail := fail, take := s.twin.take, cycle := cycleCount s, twinUnit := BitVec.ofNat 64 (hierId s),
    unitId := unitIdNow s }

/-- The payload of a twin frame (Table 13-3). -/
def twinPayload (subtype : Nat) (h : Heartbeat) : List Byte :=
  toBytes 4 (subtype * 2 ^ 24 + h.role * 2 ^ 16 + (bnat h.fail + 2 * bnat h.take) * 2 ^ 8) ++ toBytes 4 h.cycle ++
    toBytes 8 h.twinUnit.toNat ++ toBytes 8 h.unitId.toNat

/-- A heartbeat or notification frame on front port `p`. -/
def sendTwinFrame (s : State) (p subtype : Nat) (h : Heartbeat) : State :=
  let b := List.replicate 6 0xFF ++ toBytes 6 (sourceMac s p) ++ [0x88, 0xB5] ++ twinPayload subtype h
  match portGroup s p with
  | some g => if groupUp s g && groupRole s g != 4 then sendLeaf s g (frameLeaf (closed b)) else s
  | none => sendOwn s p ⟨.twin, 7, b⟩

/-- A heartbeat on every twin lane in service and, with ALT_EN, on ALT_PORT, where that names a front port. -/
def sendHeartbeat (s : State) (fail : Bool) : State :=
  let h := heartbeatNow s fail
  let s := ((List.range 4).filter fun k => rdBit s Reg.twinStat [] (20 + k)).foldl (fun s _ => emitLine s (.heartbeat h false)) s
  let p := rd s Reg.twinCfg [] 29 23
  if rdBit s Reg.twinCfg [] 30 && decide (p < 80) then sendTwinFrame s p 1 h else s

/-- One notification on every front port whose link is up (Table 13-4). -/
def notifyAll (s : State) : State :=
  (List.range 80).foldl (fun s p => sendTwinFrame s p 2 { heartbeatNow s false with take := false }) s

/-! ### Parking and unparking -/

/-- Unprotected frames queued on the front ports are discarded (R394). -/
def dropParked (s : State) : State :=
  let qs := (busyQueues s).filter fun q => decide (queuePort s q < 80)
  qs.foldl (fun s q =>
    (queue s q).copies.foldl (fun s c =>
      if (frame s c.frame).any (·.prot) then s else bump (releaseCopy (takeCopy s q c) c) Ctr.twin [] 4 1) s) s

/-- The whole copy of class `k` leaves. -/
def sendClass (s : State) (k : Fin 11) : State := emitLine s (.twinState (.copy k (classCells s k) true))

/-- The whole copies of the carried classes that `ok` names leave. -/
def sendClasses (s : State) (ok : Nat → Bool) : State :=
  ((List.range 11).filter fun k => carriedClass s k && ok k).foldl (fun s k => if h : k < 11 then sendClass s ⟨k, h⟩ else s) s

/-- The ACTIVE unit carries job `j`: a START of what is in force, then the command that waits, with the descriptors that it
copied (R302, R304). -/
def carryJob (s : State) (j : Nat) : State :=
  let s := carryCommand s j 0 (applyLead s (s.acc.inForce.job j))
  match (job s j).pending.getLast? with
  | none => s
  | some c => if c.op = 0 then s else carryCommand (mirrorPart s true c.desc) j c.op c.sample

/-- The ACTIVE unit begins to carry its state: a whole copy of the Accord descriptors, every job that is not STOPPED, and a whole
copy of every other carried class (R304, R395). -/
def startSync (s : State) : State :=
  let s := (activeJobs s).foldl carryJob (sendClasses s (· == 8))
  sendClasses s (· != 8)

/-- The unit becomes RESTORING in SYNCING: step 1 of Table 13-5 begins. -/
def beginRestoring (s : State) (reason : Nat) : State :=
  let s := setRole s 3 1 reason
  { s with twin := { s.twin with syncAt := s.time.dt, boundary := none, reverting := false, incoming := [],
                                 incomplete := false, complete := none } }

/-- The ACTIVE unit parks its front ports and becomes RESTORING. -/
def park (s : State) (reason : Nat) : State := beginRestoring (dropParked s) reason

/-- The staging lock ends (R485). -/
def endStaging (s : State) : State :=
  let s := { s with img := { s.img with staging := { Staging.free with bundle := s.img.staging.bundle } } }
  let s := putWord (putWord (putWord s Reg.imgStageHolder [] 0x7F) Reg.imgStageUidLo [] 0) Reg.imgStageUidHi [] 0
  wrBit (wr s Reg.imgStageStat [] 31 29 0) Reg.imgStageCmd [] 30 false

/-- A region replacement is over: its staging lock ends, where it came by the lock and not as step 3 of an activation. -/
def clearRepl (s : State) (state : Nat) : State :=
  let s := wr s Reg.imgSiReplStat [] 3 0 state
  let s := { s with img := { s.img with repl := { container := none, replaced := [], switchAt := none } } }
  if rd s Reg.imgUpdStat [] 31 28 = 3 then s else endStaging s

/-- A region replacement ends in REFUSED (5) or ABORTED (6) with a code of Table 2-12. -/
def endRepl (s : State) (state code : Nat) : State :=
  clearRepl (wr (countEvent s Reg.imgSiRefuseCnt []) Reg.imgSiReplStat [] 15 8 code) state

/-- A takeover before the switch boundary aborts an ARMED replacement (R53). -/
def abortArmed (s : State) : State := if rd s Reg.imgSiReplStat [] 3 0 = 3 then endRepl s 6 0x0E else s

/-- The unit takes over (Table 13-4): uncommitted cycles are discarded, and every front port is notified. -/
def takeover (s : State) (reason : Nat) (stays : Bool) : State :=
  let refused := substate s == 4
  let s := bump (abortArmed s) Ctr.twin [] 5 1
  let s := { s with twin := { s.twin with incoming := [], incomplete := false, complete := none, boundary := none,
                                          reverting := false, missed := 0, searching := s.twin.searching || !stays } }
  let s := setRole s 1 0 reason
  let s := wrBit s Reg.twinStat [] 27 (paired s && stays && !refused)
  let s := notifyAll s
  if paired s then startSync s else s

/-! ### Pairing (R378, R379) -/

/-- The checks of R379. -/
def pairingPasses (s : State) (p : Peer) : Bool :=
  p.chipRev == 0 && p.lineage == s.image.lineage && p.twinId == primary s && p.regionsEqual && p.layoutsFit

/-- The peer is found. A refusal that is also a change of role counts once. -/
def peerFound (s : State) (p : Peer) : State :=
  let ok := pairingPasses s p
  let s := { s with twin := { s.twin with peer := some p, peerRole := p.role, searching := !ok, missed := 0 } }
  let s := wrBit s Reg.twinStat [] 27 ok
  if role s = 1 then (if ok then startSync s else s)
  else if role s = 2 then s
  else if p.role ≠ 1 ∧ primary s then (if ok then startSync (setRole s 1 0 6) else setRole s 1 0 0)
  else if ok then beginRestoring s 6
  else
    let t := setRole s 3 4 7
    if role s = 3 then roleEvent t 7 3 else t

/-- PEER_FOUND: a unit that is looking for its peer, or whose pairing was lost, finds it. -/
def execPeerFound (peer : Peer) (s : State) : Host.Outcome State Fault Refusal :=
  done (if twinOn s && popBit s 22 && (!paired s || role s == 1) then peerFound s peer else s)

/-- PEER_SEARCH_TIMEOUT: no peer within 3 s. -/
def execPeerSearchTimeout (s : State) : Host.Outcome State Fault Refusal :=
  if twinOn s ∧ role s = 0 ∧ s.twin.searching ∧ s.twin.searchAt + msTicks 3000 ≤ s.time.dt then done (setRole s 1 0 0) else done s

/-! ### Heartbeats (R387, R389, R393) -/

/-- The unit may take over without a command. -/
def standsReady (s : State) : Bool := role s == 2 || (role s == 3 && substate s != 4)

/-- A TWIN_IN record; the lane that brought it is free. -/
def recordTwinIn (s : State) (body : List Byte) : State :=
  if paired s then record (spend s) 0x0C 0 (fld (freeWord s) 1 0) body else s

/-- The last tick of this device cycle at which a heartbeat counts as received: 50 µs after its start (R387). -/
def heartbeatEnd (s : State) : Nat := s.time.cycleStart + 40000

/-- A heartbeat of the peer, on a twin lane or on the alternate path. -/
def heartbeatIn (s : State) (alt : Bool) (hb : Heartbeat) : State :=
  let s := recordTwinIn s (twinPayload 1 hb)
  let inTime := decide (s.time.dt ≤ heartbeatEnd s)
  let w := s.twin
  let w := { w with peerRole := hb.role, peerCycle := hb.cycle, altHeard := w.altHeard || alt,
                    heard := w.heard || inTime, missed := if inTime then 0 else w.missed }
  let s := { s with twin := w }
  if hb.fail && standsReady s then takeover s 2 false
  else if hb.take && role s == 1 then park (abortArmed s) 3
  else if hb.role = 1 ∧ role s = 1 then { s with twin := { s.twin with dual := true } }
  else s

/-- HEARTBEAT_RX. -/
def execHeartbeatRx (el : Nat) (alt : Bool) (hb : Heartbeat) (s : State) : Host.Outcome State Fault Refusal :=
  let s := advance el s
  done (if twinOn s && !offline s && s.twin.peer.any (fun p => p.unitId == hb.unitId) then heartbeatIn s alt hb else s)

/-- HEARTBEAT_MISSED: 50 µs of a cycle have passed without a heartbeat on any path. Three in a row are a failure of the
peer: a unit that stands ready takes over, and an ACTIVE unit has lost its pairing. -/
def execHeartbeatMissed (s : State) : Host.Outcome State Fault Refusal :=
  if !paired s || s.twin.heard || s.twin.judged || decide (s.time.dt ≤ heartbeatEnd s) then done s
  else
    let s := bump s Ctr.twin [] 0 1
    let s := { s with twin := { s.twin with missed := s.twin.missed + 1, judged := true } }
    if s.twin.missed < 3 then done s
    else if standsReady s then done (takeover s 1 false)
    else if role s = 1 then
      done (wrBit { s with twin := { s.twin with missed := 0, searching := true } } Reg.twinStat [] 27 false)
    else done s

/-! ### Carried state (R383 to R385) -/

/-- The bytes of a record of the twin link in a TWIN_IN record, told from a heartbeat, which begins with 1, by their first byte;
the link's framing is not documented. -/
def twinRecBytes (r : TwinRec) : List Byte :=
  match r with
  | .mirror k a ws => [0x10, BitVec.ofNat 8 k, 0, 0] ++ toBytes 4 a ++ ws.flatMap fun w => toBytes 4 w.toNat
  | .copy k cells whole =>
    [0x11, BitVec.ofNat 8 k, BitVec.ofNat 8 (bnat whole), 0] ++ cells.flatMap fun c => toBytes 4 c.1 ++ toBytes 4 c.2.toNat
  | .marker c whole => [0x12, 0, BitVec.ofNat 8 (bnat whole), 0] ++ toBytes 4 c

/-- MIRROR records outlive an incomplete cycle. -/
def isMirror (r : TwinRec) : Bool :=
  match r with
  | .mirror _ _ _ => true
  | .copy _ _ _ => false
  | .marker _ _ => false

/-- A cycle marker closes the records and copies of cycle `c`. -/
def closeCycle (s : State) (c : Nat) (whole : Bool) : State :=
  let w := s.twin
  if whole && !w.incomplete then
    let before := match w.complete with
      | some x => x.recs
      | none => []
    { s with twin := { w with incoming := [], complete := some ⟨c, before ++ w.incoming⟩ } }
  else { s with twin := { w with incoming := w.incoming.filter isMirror, incomplete := false } }

/-- One record, copy or marker from the ACTIVE unit. Accord descriptors land at once, as the commands that bind them do (R302). -/
def twinStateIn (s : State) (r : TwinRec) : State :=
  let s := recordTwinIn s (twinRecBytes r)
  if !(paired s && (role s == 2 || role s == 3)) then s
  else
    let keep (s : State) : State := { s with twin := { s.twin with incoming := s.twin.incoming ++ [r] } }
    match r with
    | .mirror k _ _ => if k = 8 then restoreRec s r else keep s
    | .copy k _ whole =>
      if k = 8 ∧ whole then restoreRec s r
      else if whole then keep s
      else bump { s with twin := { s.twin with incomplete := true } } Ctr.twin [] 1 1
    | .marker c whole => closeCycle s c whole

/-- TWIN_STATE_RX. -/
def execTwinStateRx (r : TwinRec) (s : State) : Host.Outcome State Fault Refusal :=
  done (if offline s then s else twinStateIn s r)

/-- Records hold a whole copy of every carried class but the Accord descriptors, which land when they come. -/
def copiesAll (s : State) (rs : List TwinRec) : Bool :=
  (List.range 11).all fun k => !carriedClass s k || k == 8 || rs.any fun r =>
    match r with
    | .copy j _ whole => whole && j.val == k
    | .mirror _ _ _ => false
    | .marker _ _ => false

/-- The complete state of a cycle is put in place, all together. -/
def applyCarried (s : State) : State :=
  match s.twin.complete with
  | none => s
  | some x =>
    let final := role s == 3 && substate s == 3 && copiesAll s x.recs
    let s := x.recs.foldl restoreRec { s with twin := { s.twin with complete := none, finalDone := s.twin.finalDone || final } }
    wr s Reg.twinCommit [] 30 0 x.cycle

/-- A class is STALE. -/
def stale (s : State) (k : Nat) : Bool := rdBit s Reg.twinStat [] k

/-- STALE_COPY_DONE: the background copy of a STALE class ends; it returns to its mode at the first cycle that follows, and
changes made until then go as records already. -/
def execStaleCopyDone (k : Fin 11) (s : State) : Host.Outcome State Fault Refusal :=
  if activePaired s && stale s k && rd s Reg.twinStat [] 23 20 != 0 then
    let s := sendClass s k
    done { s with twin := { s.twin with copied := (s.twin.copied.filter (· != k.val)) ++ [k.val] } }
  else done s

/-- Copies that wait for port 94 are discarded when its last lane goes (R63). -/
def twinLinkLost (s : State) : State :=
  let s := dropQueued (cutTransmission s 94) 94
  if !paired s then s
  else
    let s := staleAll s
    if role s = 3 then wrBit { s with twin := { s.twin with searching := true } } Reg.twinStat [] 27 false else s

/-- TWIN_LANE_CHANGE: a twin lane goes into or out of service. When none is left, every carried class becomes STALE, and
a RESTORING unit has to pair again (R380, R389, R396). -/
def execTwinLaneChange (k : Fin 4) (up : Bool) (s : State) : Host.Outcome State Fault Refusal :=
  if !(popBit s 22 && windowsOpen s) || offline s then done s
  else
    let had := rd s Reg.twinStat [] 23 20
    let s' := wrBit s Reg.twinStat [] (20 + k) up
    if had ≠ 0 ∧ rd s' Reg.twinStat [] 23 20 = 0 then done (wrBit (twinLinkLost s) Reg.twinStat [] (20 + k) up) else done s'

/-- The other port of each neighbour pair that names port `p` (R392). -/
def neighbourPorts (s : State) (p : Nat) : List Nat :=
  (List.range 16).filterMap fun k =>
    if rdBit s Reg.twinNbr [k] 31 then
      let a := rd s Reg.twinNbr [k] 6 0
      let b := rd s Reg.twinNbr [k] 13 7
      if a = p then some b else if b = p then some a else none
    else none

/-- TWIN_NOTIFICATION_RX: a neighbouring twin has taken over. -/
def execTwinNotificationRx (p : Fin 80) (_hb : Heartbeat) (s : State) : Host.Outcome State Fault Refusal :=
  if receives s p then
    done ((neighbourPorts s p).foldl (fun s q => startFlush s ⟨true, false, false, q, 0, false, []⟩) s)
  else done s

/-! ### Commands (R385, R389, R390, R394) -/

/-- A boundary LEAD device cycles from now, of which the peer is told. -/
def fixBoundary (s : State) (reverting : Bool) : State :=
  let b := (cycleCount s + rd s Reg.twinCfg [] 22 17) % 2 ^ 31
  emitLine { s with twin := { s.twin with boundary := some b, reverting := reverting } } (.twinBoundary b reverting)

/-- SWITCHOVER: the result, and a boundary where it is accepted. -/
def switchover (s : State) : State :=
  let result (s : State) (r : Nat) : State := wr s Reg.twinCmd [] 27 25 r
  if role s = 0 ∨ (role s = 1 ∧ !paired s) then result s 1
  else if role s = 3 ∨ (role s = 1 ∧ s.twin.peerRole ≠ 2) ∨ !paired s ∨ rd s Reg.twinStat [] 10 0 ≠ 0 then result s 2
  else if s.twin.boundary.isSome then result s 3
  else result (fixBoundary s false) 0

/-- TAKEOVER: TAKE stands in the heartbeats that follow, of which one leaves at once. -/
def takeCommanded (s : State) : State :=
  if role s = 2 ∨ role s = 3 then
    let s := takeover s 3 true
    sendHeartbeat (wr { s with twin := { s.twin with take := true } } Reg.twinCmd [] 27 25 0) false
  else wr s Reg.twinCmd [] 27 25 1

/-- Every front port is held link down, as PORT_EN 0 holds it. -/
def frontDown (s : State) : State :=
  (List.range 80).foldl (fun s p =>
    match portGroup s p with
    | some g => huntAll s g
    | none => linkLost s p) s

/-- An ACTIVE unit fails: an extra heartbeat with FAIL, and every front link down (R390). -/
def failActive (s : State) : State :=
  let s := if paired s then sendHeartbeat s true else s
  frontDown { s with twin := { s.twin with failSent := true } }

/-- DECLARE_FAIL. -/
def declareFail (s : State) : State :=
  if role s = 1 then failActive (wr s Reg.twinCmd [] 27 25 0) else wr s Reg.twinCmd [] 27 25 1

/-- RESYNC of class `k`. -/
def resyncClass (s : State) (k : Nat) : State :=
  if role s ≠ 1 then wr s Reg.twinCmd [] 27 25 1
  else
    let s := wr s Reg.twinCmd [] 27 25 0
    if k < 11 ∧ carriedClass s k then
      let t := { s.twin with staged := set 0 s.twin.staged k 0, copied := s.twin.copied.filter (· != k) }
      wrBit { s with twin := t } Reg.twinStat [] k true
    else s

/-- A write of TWIN_CMD. -/
def twinCmdWrite (s : State) (req : Requester) (data : Word) : State :=
  let s := stage s req Reg.twinCmd [] 0xFFFFFFFF data
  if !flag data 31 then s
  else match rd s Reg.twinCmd [] 29 28 with
    | 0 => switchover s
    | 1 => takeCommanded s
    | 2 => declareFail s
    | _ => resyncClass s (rd s Reg.twinCmd [] 3 0)

/-! ### Switchover and revert (R394 to R396) -/

/-- SWITCHOVER_BOUNDARY: B, fixed by this unit or by its peer. -/
def execSwitchoverBoundary (s : State) : Host.Outcome State Fault Refusal :=
  if !paired s || s.twin.boundary.any (· != cycleCount s) then done s
  else
    let revert := s.twin.reverting || s.twin.peerRole == 3
    let reason := if revert then 4 else 3
    let clear (s : State) : State := { s with twin := { s.twin with boundary := none, reverting := false } }
    if role s = 1 then done (clear (park s reason))
    else if role s = 2 ∨ (role s = 3 ∧ substate s = 3) then done (startSync (clear (setRole s 1 0 reason)))
    else done s

/-- SYNC_COPY_DONE: the whole copy of SYNCING is here and is put in place; the primary goes to HOLDOFF, a secondary becomes
STANDBY. -/
def execSyncCopyDone (s : State) : Host.Outcome State Fault Refusal :=
  if role s = 3 ∧ substate s = 1 ∧ paired s then
    let s := applyCarried s
    done (if primary s then setRole s 3 2 6 else setRole s 2 0 6)
  else done s

/-- Seconds of WTR left: it runs from the start of SYNCING (Table 13-5). -/
def wtrLeft (s : State) : Nat :=
  if role s = 3 ∧ substate s = 2 then rd s Reg.twinCfg [] 16 0 - (s.time.dt - s.twin.syncAt) / 800000000 else 0

/-- WTR_EXPIRY: WTR is over and no class STALE. The primary begins FINAL, and the ACTIVE unit, whose peer it is, sends it one
whole copy of every carried class. -/
def execWtrExpiry (s : State) : Host.Outcome State Fault Refusal :=
  if rd s Reg.twinStat [] 10 0 ≠ 0 then done s
  else if role s = 3 ∧ substate s = 2 ∧ wtrLeft s = 0 then done (setRole s 3 3 4)
  else if activePaired s = true ∧ s.twin.peerRole = 3 then done (sendClasses s fun _ => true)
  else done s

/-- REVERT_READY: after the copy of FINAL every Accord output equals the ACTIVE unit's, and every following TB is LOCKED. -/
def execRevertReady (s : State) : Host.Outcome State Fault Refusal :=
  let locked := (List.range 4).all fun t => !followsTwin s t || tbState s t == 2
  if role s = 3 ∧ substate s = 3 ∧ s.twin.finalDone ∧ s.twin.boundary = none ∧ locked then done (fixBoundary s true) else done s

/-! ### The device cycle -/

/-- The end of a cycle on the ACTIVE unit: classes whose background copy has ended are STALE no longer, and the CYCLE copies and
the marker of the cycle that has ended leave. -/
def sendCycle (s : State) : State :=
  if !activePaired s then s
  else
    let s := s.twin.copied.foldl (fun s k => wrBit s Reg.twinStat [] k false) s
    let s := sendClasses s fun k => classMode s k == 2 && !stale s k
    emitLine { s with twin := { s.twin with staged := [], copied := [] } } (.twinState (.marker ((cycleCount s + (2 ^ 31 - 1)) % 2 ^ 31) true))

/-- One device cycle of the twin controller, at the boundary that begins it. -/
def twinCycle (s : State) : State :=
  let s := sendCycle s
  let s := if role s = 2 ∨ (role s = 3 ∧ (substate s = 2 ∨ substate s = 3)) then applyCarried s else s
  let s := if s.twin.dual && role s == 1 && !primary s then park s 5 else s
  let w := s.twin
  let s := wrBit s Reg.twinStat [] 19 w.altHeard
  let alt := if !rdBit s Reg.twinCfg [] 30 || w.altHeard then 0 else w.altMissed + 1
  let s := { s with twin := { w with dual := false, heard := false, judged := false, altHeard := false, altMissed := alt } }
  if paired s then sendHeartbeat s false else s

/-- EN changes at an MS boundary: the unit begins to look for its peer, or is DETACHED (R377, R378). -/
def twinApplied (before s : State) : State :=
  if twinOn before = twinOn s then s
  else if twinOn s then { s with twin := { s.twin with searching := true, searchAt := s.time.dt } }
  else
    let s := setRole s 0 0 0
    wrBit { s with twin := { s.twin with searching := false, peer := none, boundary := none, reverting := false, missed := 0,
                                         take := false } } Reg.twinStat [] 27 false

end Sys2Proof.Machine
end

