-- ==== Sys2Proof/Machine/Ring.lean ====
section
/-! DEFINITION. Ring bypass: the switches of the four ring pairs, their opening sequence and what closes them (R44, R398 to
R403, R458); and the supervision frames of redundant pairs (R173). -/
namespace Sys2Proof.Machine

/-! ### The state of a pair -/

/-- STATE of ring pair `r`: 0 CLOSED, 1 OPENING, 2 OPEN, 3 FAILED, 4 FORCED, 5 THROUGH. -/
def ringState (s : State) (r : Nat) : Nat := rd s Reg.twinRingStat [r] 31 29

/-- ENABLE of the RING region. -/
def ringEnabled (s : State) (r : Nat) : Bool := flag (s.image.ring.getD r 0) 0

/-- A new STATE, which counts a ring event. -/
def setRing (s : State) (r v : Nat) : State :=
  if ringState s r = v then s
  else
    let s := countEvent (wr s Reg.twinRingStat [r] 31 29 v) Reg.twinRingCnt []
    putWord s Reg.twinRingLast [] (BitVec.ofNat 32 (r * 2 ^ 16 + v))

/-- The two lanes of a pair (R41). -/
def ringLanes (r : Nat) : List Nat := [40 + 2 * r, 41 + 2 * r]

/-- The switches of a pair close, with both its lanes link down, or open. -/
def moveSwitches (s : State) (r : Nat) (close : Bool) : State :=
  if (s.twin.pairs.getD r ⟨true⟩).closed = close then s
  else
    let s := emit { s with twin := { s.twin with pairs := s.twin.pairs.set r ⟨close⟩ } } (.bypass r close)
    if !close then s
    else (ringLanes r).foldl (fun s n =>
      match portGroup s n with
      | some g => huntAll s g
      | none => if isHPort s n then linkLost s n else s) s

/-- A lane's port or group is enabled. -/
def laneOn (s : State) (n : Nat) : Bool :=
  match portGroup s n with
  | some g => groupOn s g
  | none => portEn s n

/-- The pair is READY (R400). -/
def ringReady (s : State) (r : Nat) : Bool :=
  let ns := ringLanes r
  ringEnabled s r && stageDone s 3 && ns.all (laneOn s) && stageDone s 5 && ns.all (fun n => !s.power.idleLanes.contains n) &&
    s.power.charged && !rdBit s Reg.twinRingCtrl [r] 1 && (ringKind s r != 1 || rdBit s Reg.strmHsrCfg [r] 31) &&
    (ringKind s r != 2 || ns.all fun n => rd s Reg.strmPortCfg [n] 5 0 != 0)

/-- Some pair is OPENING. -/
def ringBusy (s : State) : Bool := (List.range 4).any fun r => ringState s r == 1

/-- The opening sequence of a pair starts where R400 allows it; behind another one it waits. -/
def openRing (s : State) (r : Nat) : State :=
  if !(ringReady s r && (ringState s r == 0 || ringState s r == 3)) then s
  else if ringBusy s then
    if s.twin.openQueue.contains r then s else { s with twin := { s.twin with openQueue := s.twin.openQueue ++ [r] } }
  else moveSwitches (setRing { s with twin := { s.twin with ringAt := s.twin.ringAt.set r s.time.dt } } r 1) r false

/-- The openings that wait are taken up, in order, until one runs. -/
def nextOpenings : List Nat → State → State
  | [], s => s
  | r :: rs, s =>
    if ringBusy s then s
    else nextOpenings rs (openRing { s with twin := { s.twin with openQueue := s.twin.openQueue.filter (· != r) } } r)

/-- No pair is OPENING any more: the next opening starts. -/
def nextOpening (s : State) : State := nextOpenings s.twin.openQueue s

/-- The switches of pair `r` close and it takes STATE `v`. -/
def closeRing (s : State) (r v : Nat) : State :=
  let s := { s with twin := { s.twin with openQueue := s.twin.openQueue.filter (· != r) } }
  setRing (moveSwitches s r true) r v

/-- Every pair closes (R44, R398). -/
def closeAll (s : State) : State :=
  (List.range 4).foldl (fun s r => closeRing s r (if ringState s r = 4 then 4 else 0))
    { s with twin := { s.twin with openQueue := [] } }

/-- The switches of a pair with ENABLE clear open where LO5 is populated; without LO5 they stay closed, and the pair CLOSED
(R28, R44). -/
def throughPair (s : State) (r : Nat) : State :=
  if ringEnabled s r || !popBit s 5 then s else setRing (moveSwitches s r false) r 5

def throughAll (s : State) : State := (List.range 4).foldl throughPair s

/-! ### TWIN_RING_CTRL -/

/-- FORCE changes (R398). -/
def forceRing (s : State) (r : Nat) (was : Bool) : State :=
  let now := rdBit s Reg.twinRingCtrl [r] 1
  if was = now then s
  else if now then nextOpening (closeRing s r 4)
  else if stageDone s 3 && !ringEnabled s r && popBit s 5 then throughPair s r
  else setRing s r 0

/-- A write of TWIN_RING_CTRL. -/
def ringCtrlWrite (s : State) (req : Requester) (r : Nat) (data : Word) : State :=
  let was := rdBit s Reg.twinRingCtrl [r] 1
  let s := forceRing (stage s req Reg.twinRingCtrl [r] 0xFFFFFFFF data) r was
  if flag data 31 then openRing s r else s

/-! ### The ring-opened stage (R402, R403) -/

/-- MC0 opens pair `r` for the ring-opened stage. -/
def autoPair (s : State) (r : Nat) : Bool := ringEnabled s r && rdBit s Reg.twinRingCtrl [r] 2

/-- A pair with ENABLE and AUTO_OPEN set is OPEN or FAILED. -/
def pairSettled (s : State) (r : Nat) : Bool := !autoPair s r || ringState s r == 2 || ringState s r == 3

/-- Stage 10 runs. -/
def ringStage (s : State) : Bool := (List.range 10).all (stageDone s) && !stageDone s 10

/-- MC0 comes to pair `r`: at stage 10 in order, or after a restart of MC0 for the pairs that were OPEN (R458). -/
def ringTurn (s : State) (r : Nat) : Bool :=
  (ringStage s && autoPair s r && ringState s r == 0 && (List.range r).all (pairSettled s)) || s.twin.reopen.head? == some r

/-- TIMEOUT of pair `r` has passed since its opening, or MC0's wait for it, began. -/
def ringPast (s : State) (r : Nat) : Bool :=
  decide (s.twin.ringAt.getD r 0 + msTicks (100 * max 1 (min 100 (rd s Reg.twinRingCtrl [r] 27 16))) ≤ s.time.dt)

/-- MC0 comes to the next pair, where it has one, and waits for it from now on. -/
def nextTurn (s : State) : State :=
  let r := (List.range 4).find? (ringTurn s)
  if r = s.twin.ringWait then s
  else { s with twin := { s.twin with ringWait := r, ringAt := match r with
    | some k => s.twin.ringAt.set k s.time.dt
    | none => s.twin.ringAt } }

/-- RING_AUTO_OPEN: the pair is READY, and MC0 writes OPEN. -/
def execRingAutoOpen (r : Fin 4) (s : State) : Host.Outcome State Fault Refusal :=
  if ringTurn s r && ringReady s r && !ringBusy s && !coreDown s 0 then
    done (nextTurn (openRing { s with twin := { s.twin with reopen := s.twin.reopen.filter (· != r.val) } } r))
  else done s

/-- The pair fails: its switches stay or become closed. Stage 10 will complete with TIMED_OUT, where it is this stage that
opens the pair. -/
def failRing (s : State) (r : Nat) : State :=
  let s := if ringStage s then wrBit s Reg.glbReadyInfo [] 26 true else s
  let s := { s with twin := { s.twin with reopen := s.twin.reopen.filter (· != r) } }
  nextTurn (nextOpening (bump (closeRing s r 3) Ctr.twin [] 7 1))

/-- RING_READY_TIMEOUT: the pair is not READY within its TIMEOUT (R403). -/
def execRingReadyTimeout (r : Fin 4) (s : State) : Host.Outcome State Fault Refusal :=
  if ringTurn s r && !ringReady s r && ringPast s r then done (failRing s r) else done s

/-- RING_LINKS_UP: both lanes of the opening pair have their links. -/
def execRingLinksUp (r : Fin 4) (s : State) : Host.Outcome State Fault Refusal :=
  if ringState s r = 1 ∧ (ringLanes r).all (linkUp s) then done (nextTurn (nextOpening (setRing s r 2))) else done s

/-- RING_OPEN_TIMEOUT: TIMEOUT passes before the lanes have their links (R401). -/
def execRingOpenTimeout (r : Fin 4) (s : State) : Host.Outcome State Fault Refusal :=
  if ringState s r = 1 ∧ ringPast s r = true then done (failRing s r) else done s

/-- HOLDUP_CHARGE_FULL. -/
def execHoldupChargeFull (s : State) : Host.Outcome State Fault Refusal :=
  done (if s.power.vin then { s with power := { s.power with charged := true } } else s)

/-! ### Supervision frames (R173) -/

/-- The pair exists and is enabled. -/
def pairOn (s : State) (q : Nat) : Bool :=
  if q < 4 then hsrOn s q else rdBit s Reg.strmPrpPair [q - 4] 31

/-- SUPERVISION_FRAME_TX: MC1 sends a supervision frame, without FCS, to a pair; it goes out in class 7 as every frame from a
local port to the pair does. -/
def execSupervisionFrameTx (q : Fin 12) (b : List Byte) (s : State) : Host.Outcome State Fault Refusal :=
  if forwards s && pairOn s q && !coreDown s 1 then
    done (inject s 95 b (some (steerTo ((pairPorts s q).headD 0, 7)))).1
  else done s

end Sys2Proof.Machine
end

