-- ==== Sys2Proof/Machine/HostIf.lean ====
section
/-! DEFINITION. The host attachment (chapter 15): its receive and transmit rings, table DMA, and what resets the
endpoint. -/
namespace Sys2Proof.Machine

/-! ### Rings -/

/-- The registers of a receive or transmit ring. -/
def ringCfgReg (tx : Bool) : RegRow := if tx then Reg.hostTxCfg else Reg.hostRxCfg
def ringTailReg (tx : Bool) : RegRow := if tx then Reg.hostTxTail else Reg.hostRxTail
def ringStatReg (tx : Bool) : RegRow := if tx then Reg.hostTxStat else Reg.hostRxStat
def ringBaseLo (tx : Bool) : RegRow := if tx then Reg.hostTxBaseLo else Reg.hostRxBaseLo
def ringBaseHi (tx : Bool) : RegRow := if tx then Reg.hostTxBaseHi else Reg.hostRxBaseHi
def ringDone (tx : Bool) : RegRow := if tx then Reg.hostTxDoneCnt else Reg.hostRxDoneCnt

/-- A ring's indices: the pipeline in whose window it lies, and its number. -/
def ringIx (s : State) (r : Nat) : List Nat := [ringPipe s r, r]

/-- STATE of a ring: 0 OFF, 1 RUN, 2 STOPPED. -/
def ringMode (s : State) (tx : Bool) (r : Nat) : Nat := rd s (ringStatReg tx) (ringIx s r) 31 30

def ringHead (s : State) (tx : Bool) (r : Nat) : Nat := rd s (ringStatReg tx) (ringIx s r) 15 0

/-- The descriptors of a ring. -/
def ringSize (s : State) (tx : Bool) (r : Nat) : Nat := 2 ^ rd s (ringCfgReg tx) (ringIx s r) 23 20

/-- Host address of descriptor `k`. -/
def descAddr (s : State) (tx : Bool) (r k : Nat) : BitVec 64 :=
  let base := rd s (ringBaseHi tx) (ringIx s r) 31 0 * 2 ^ 32 + rd s (ringBaseLo tx) (ringIx s r) 31 12 * 4096
  BitVec.ofNat 64 (base + k % ringSize s tx r * 32)

/-- Every frame on the wait list of receive ring `r` is discarded (R446). -/
def dropWaits (s : State) (r : Nat) : State :=
  putRxWaits ((rxWaits s r).foldl (fun s w => returnBuf (countRx s r 2) 1 w.buf) s) r []

/-- BASE, SIZE_LOG2 and BUF_UNITS as staged take effect (R443). -/
def takeLayout (s : State) (tx : Bool) (r : Nat) : State :=
  let ix := ringIx s r
  let c := ringCfgReg tx
  let s := putWord s c ix (blend 0x00F0007F (word s c ix) (c.heldWord (stagedWord s c ix)))
  let s := putWord s (ringBaseLo tx) ix (stagedWord s (ringBaseLo tx) ix)
  putWord s (ringBaseHi tx) ix (stagedWord s (ringBaseHi tx) ix)

/-- A write of HOST_RING_CFG (R443, R446, R449). -/
def ringCfgWrite (s : State) (req : Requester) (tx : Bool) (r : Nat) (data : Word) : State :=
  let ix := ringIx s r
  let c := ringCfgReg tx
  let was := rdBit s c ix 31
  let s := putStaged s c ix (blend (writable c req) (stagedWord s c ix) data)
  let s := if was && flag data 31 then s else takeLayout s tx r
  let s := putWord s c ix (blend 0x87000000 (word s c ix) (stagedWord s c ix))
  let now := rdBit s c ix 31
  if was = now then s
  else if now then wr (wr s (ringStatReg tx) ix 31 30 1) (ringStatReg tx) ix 18 16 0
  else
    let s := wr s (ringStatReg tx) ix 31 30 0
    if tx then s else dropWaits s r

/-- A write of HOST_RING_BASE: in force while EN is 0. -/
def ringBaseWrite (s : State) (req : Requester) (tx hi : Bool) (r : Nat) (data : Word) : State :=
  let b := if hi then ringBaseHi tx else ringBaseLo tx
  let ix := ringIx s r
  let s := putStaged s b ix (blend (writable b req) (stagedWord s b ix) data)
  if ringOn s tx r then s else putWord s b ix (stagedWord s b ix)

/-- A write of HOST_RING_TAIL: a count above the ring's size leaves the effective value unchanged. -/
def ringTailWrite (s : State) (req : Requester) (tx : Bool) (r : Nat) (data : Word) : State :=
  let t := ringTailReg tx
  let ix := ringIx s r
  let s := putStaged s t ix (blend (writable t req) (stagedWord s t ix) data)
  let n := (fld data 15 0 + 65536 - ringHead s tx r) % 65536
  if n ≤ ringSize s tx r then putWord s t ix (stagedWord s t ix) else s

/-! ### Descriptors in host memory -/

/-- A stamp in a ring's STAMP_TB, in 2⁻¹⁶ ns. -/
def stampIn (tb : Nat) (x : Stamp) : Int := if tb < 4 then x.tb.getD tb 0 else x.dt

/-- STAMP_S and STAMP_NS as the low 64 bits of a descriptor. -/
def stampBits (t : Int) : Nat := unsigned (t / fracPerSec) 32 * 2 ^ 32 + (t % fracPerSec).toNat / 65536

/-- The low `n` bytes of a descriptor in host memory: word 0 at the lowest address (R3), each word least significant byte
first as PCI Express carries it. -/
def lowBytes (n e : Nat) : List Byte := (List.range n).map fun k => BitVec.ofNat 8 (e / 256 ^ k)

/-- The `i`-th of `n` descriptors of a received frame (Table 15-2). -/
def rxDesc (w : RxWait) (i n : Nat) (addr : BitVec 64) (len tb : Nat) : Nat :=
  addr.toNat * 2 ^ 192 + 2 ^ 159 + bnat (i == 0) * 2 ^ 158 + bnat (i + 1 == n) * 2 ^ 157 + w.cls * 2 ^ 154 +
    w.inPort * 2 ^ 147 + len * 2 ^ 133 + w.reason % 32 * 2 ^ 128 + w.stream.getD 0 % 65536 * 2 ^ 112 +
    bnat w.stream.isSome * 2 ^ 111 + w.vid % 4096 * 2 ^ 99 + (if i = 0 then w.bytes.length else 0) * 2 ^ 82 +
    stampBits (stampIn tb w.stamp)

/-- One frame's descriptors are complete: HEAD and DONE_CNT advance. -/
def completeDescs (s : State) (tx : Bool) (r n : Nat) : State :=
  let ix := ringIx s r
  countEvent (wr s (ringStatReg tx) ix 15 0 (ringHead s tx r + n)) (ringDone tx) ix

/-! ### Receive rings (R445 to R447) -/

/-- The head frame's data, then its descriptors from LAST to FIRST, are written; HEAD and DONE_CNT advance. -/
def deliver (s : State) (r : Nat) (w : RxWait) (bufs : List (BitVec 64)) : State :=
  let ix := ringIx s r
  let unit := max 1 (rd s Reg.hostRxCfg ix 6 0) * 256
  let n := bufs.length
  let head := ringHead s false r
  let tb := rd s Reg.hostRxCfg ix 26 24
  let piece (i : Nat) : List Byte := (w.bytes.drop (i * unit)).take unit
  let s := (List.range n).foldl (fun s i => emit s (.hostWrite (bufs.getD i 0) (piece i))) s
  let s := (List.range n).reverse.foldl (fun s i =>
    emit s (.hostWrite (descAddr s false r (head + i)) (lowBytes 32 (rxDesc w i n (bufs.getD i 0) (piece i).length tb)))) s
  let s := putRxWaits (completeDescs s false r n) r ((rxWaits s r).drop 1)
  returnBuf (bump s Ctr.hostRx ix 0 1) 1 w.buf

/-- The head frame is read: it is delivered, or discarded where its buffer cannot be corrected (R499). -/
def readHead (s : State) (r : Nat) (w : RxWait) (bufs : List (BitVec 64)) : State :=
  if w.spoiled then returnBuf (putRxWaits s r ((rxWaits s r).drop 1)) 1 w.buf else deliver s r w bufs

/-- RX_FRAME_DELIVER: the head frame has its descriptors, whose buffers are `bufs`. -/
def execRxFrameDeliver (r : Fin 64) (el : Nat) (bufs : List (BitVec 64)) (s : State) :
    Host.Outcome State Fault Refusal :=
  let s := advance el s
  match rxWaits s r with
  | [] => done s
  | w :: _ =>
    let n := rxNeeds s r w.bytes.length
    if hostUp s && ringOn s false r && decide (n ≤ rxAvailable s r) && bufs.length == n then
      done (withTag s fun s => readHead s r w bufs)
    else done s

/-- RX_TIMEOUT: the `i`-th frame of the wait list has waited HOST_RX_WAIT. -/
def execRxTimeout (r : Fin 64) (i : Nat) (el : Nat) (s : State) : Host.Outcome State Fault Refusal :=
  let s := advance el s
  match (rxWaits s r)[i]? with
  | none => done s
  | some w =>
    if w.joinedAt + w.wait * 800 ≤ s.time.dt then
      done (returnBuf (countRx (putRxWaits s r ((rxWaits s r).eraseIdx i)) r 1) 1 w.buf)
    else done s

/-! ### Transmit rings (R448, R449) -/

def txWaits (s : State) (r : Nat) : List TxPending := get [] s.host.txPending r

def putTxWaits (s : State) (r : Nat) (l : List TxPending) : State :=
  { s with host := { s.host with txPending := set [] s.host.txPending r l } }

/-- The descriptors posted on transmit ring `r` that no fetched frame has taken. -/
def txPosted (s : State) (r : Nat) : Nat :=
  (rd s Reg.hostTxTail (ringIx s r) 15 0 + 65536 - ringHead s true r) % 65536 - ((txWaits s r).map (·.descs)).sum

/-- FIRST stands in the chain's first descriptor alone, and LAST in its last alone. -/
def chainWhole (chain : List TxDesc) : Bool :=
  (chain.zipIdx).all fun d => d.1.first == (d.2 == 0) && d.1.last == (d.2 + 1 == chain.length)

/-- The bytes that the chain's buffers hold. -/
def chainBytes (chain : List TxDesc) : List Byte := chain.flatMap fun d => padTo d.len (d.data.take d.len)

/-- STATUS of a chain that is fetched: 0, or the cause for which its frame is discarded. -/
def chainStatus (chain : List TxDesc) : Nat :=
  if chain.any (·.readError) then 3
  else if !chainWhole chain then 2
  else if 10236 < (chainBytes chain).length then 1
  else if (chain.head?.any fun d => d.direct && decide (95 < d.port)) then 4
  else 0

/-- A transmit descriptor as it stands in host memory (Table 15-3), without the address of its buffer, which the model does not
hold, and its buffer behind it. -/
def txDescBytes (d : TxDesc) : List Byte :=
  lowBytes 32 (d.len % 16384 * 2 ^ 178 + bnat d.first * 2 ^ 177 + bnat d.last * 2 ^ 176 + bnat d.direct * 2 ^ 175 +
    bnat d.tsReq * 2 ^ 174 + d.port % 128 * 2 ^ 167 + d.cls % 8 * 2 ^ 164) ++ padTo d.len (d.data.take d.len)

/-- The frame of a chain is fetched. -/
def fetchFrame (s : State) (r : Nat) (chain : List TxDesc) : State :=
  let st := chainStatus chain
  let b := chainBytes chain
  let s := if chain.any (·.readError) then s else record s 3 0 r (chain.flatMap txDescBytes)
  let tsReq := chain.getLast?.any (·.tsReq)
  let direct := (chain.head?.filter (·.direct)).map fun d => (d.port, d.cls % 8)
  let t : TxPending := { descs := chain.length, frame := none, status := st, tsReq := tsReq, stamp := none,
                         bytes := padTo 60 b, direct := direct }
  let s := putTxWaits s r (txWaits s r ++ [if st = 0 then t else { t with bytes := [] }])
  if st = 0 then askDram s 2 0 (.hostTx r)
  else
    let s := bump s Ctr.hostTx (ringIx s r) 1 1
    if st = 2 ∨ st = 3 then wr (wr s Reg.hostTxStat (ringIx s r) 31 30 2) Reg.hostTxStat (ringIx s r) 18 16 st else s

/-- TX_FRAME_FETCH: the engine reads one frame's descriptors and gathers their buffers. -/
def execTxFrameFetch (r : Fin 64) (el : Nat) (chain : List TxDesc) (s : State) : Host.Outcome State Fault Refusal :=
  let s := advance el s
  if hostUp s && forwards s && ringMode s true r == 1 && chain != [] && decide (chain.length ≤ txPosted s r) then
    done (withTag s fun s => fetchFrame s r chain)
  else done s

/-- STATUS and stamp with which the head frame's descriptors complete, once they do. -/
def txOutcome (s : State) (t : TxPending) : Option (Nat × Option Stamp) :=
  if t.status ≠ 0 then some (t.status, none)
  else match t.frame with
    | none => none
    | some f =>
      match frame s f with
      | none => some (if t.tsReq && t.stamp.isNone then (5, none) else (0, if t.tsReq then t.stamp else none))
      | some x =>
        if t.tsReq then t.stamp.map fun z => (0, some z)
        else if x.staging.isNone then some (0, none) else none

/-- The words that the device writes into a completed transmit descriptor: DONE, STATUS and the stamp. -/
def txDone (st tb : Nat) (z : Option Stamp) : List Byte :=
  lowBytes 20 (2 ^ 159 + st * 2 ^ 156 + (match z with
    | none => 0
    | some x => stampBits (stampIn tb x)))

/-- The descriptors of the head frame `t` of transmit ring `r` complete. -/
def completeTx (s : State) (r : Nat) (t : TxPending) (rest : List TxPending) (st : Nat) (z : Option Stamp) : State :=
  let b := txDone st (rd s Reg.hostTxCfg (ringIx s r) 26 24) z
  let head := ringHead s true r
  let s := (List.range t.descs).reverse.foldl (fun s i => emit s (.hostWrite (descAddr s true r (head + i)) b)) s
  let s := putTxWaits (completeDescs s true r t.descs) r rest
  if st = 0 ∨ st = 5 then bump s Ctr.hostTx (ringIx s r) 0 1 else s

/-- TX_COMPLETION. -/
def execTxCompletion (r : Fin 64) (s : State) : Host.Outcome State Fault Refusal :=
  match txWaits s r with
  | [] => done s
  | t :: rest =>
    match txOutcome s t with
    | none => done s
    | some (st, z) => done (if hostUp s then withTag s fun s => completeTx s r t rest st z else s)

/-! ### Table DMA (R453 to R455) -/

/-- The tables that table DMA moves. -/
def dmaTables : List Table := [.fdb, .stash, .mdb, .ctx, .queue]

/-- The table in which a transfer lies, and its first entry. -/
def dmaTable (win len : Nat) : Option (Table × Nat) :=
  dmaTables.findSome? fun t =>
    let (base, size, count) := shapeOf t
    if base ≤ win ∧ win < base + size * count ∧ win + len ≤ base + size * count then some (t, (win - base) / size) else none

/-- The host holds every segment of the entries from `i` on that a transfer writes. -/
def dmaLocks (s : State) (t : Table) (i n : Nat) : Bool :=
  t != .fdb || (List.range n).all fun k => segHeld s false (fdbSeg s (i + k))

/-- RESULT of a GO that finds no transfer in progress: 0 where it starts one. -/
def dmaCheck (s : State) (win len : Nat) (toTable : Bool) : Nat :=
  match dmaTable win len with
  | none => 2
  | some (t, i) =>
    let (base, size, _) := shapeOf t
    if (win - base) % size ≠ 0 ∨ len % size ≠ 0 ∨ 65536 < len ∨ rd s Reg.glbTdmaHaddrLo [] 3 0 ≠ 0 then 3
    else if toTable && !dmaLocks s t i (len / size) then 4
    else 0

/-- A write of GLB_TDMA_CTRL. -/
def tdmaWrite (s : State) (req : Requester) (data : Word) : State :=
  let s := stage s req Reg.glbTdmaCtrl [] 0xFFFFFFFF data
  if !flag data 31 then s
  else if rdBit s Reg.glbTdmaCtrl [] 30 then wr s Reg.glbTdmaCtrl [] 26 24 1
  else
    let win := rd s Reg.glbTdmaWin [] 31 0
    let len := rd s Reg.glbTdmaLen [] 16 0
    let st := dmaCheck s win len (flag data 29)
    let s := wr (wr s Reg.glbTdmaCtrl [] 26 24 st) Reg.glbTdmaCtrl [] 16 0 0
    if st ≠ 0 then s
    else
      let haddr := BitVec.ofNat 64 (rd s Reg.glbTdmaHaddrHi [] 31 0 * 2 ^ 32 + rd s Reg.glbTdmaHaddrLo [] 31 0)
      let d : TableDma := { win := win, len := len, toTable := flag data 29, haddr := haddr, buf := none, lost := [] }
      let s := wrBit s Reg.glbTdmaCtrl [] 30 true
      askDram { s with host := { s.host with tdma := some d } } 5 0 .tableDma

/-- The transfer ends with a RESULT and the bytes moved. -/
def endDma (s : State) (st moved : Nat) : State :=
  let s := match s.host.tdma.bind (·.buf) with
    | none => s
    | some i => returnBuf s 5 i
  let s := { s with host := { s.host with tdma := none } }
  wr (wr (wrBit s Reg.glbTdmaCtrl [] 30 false) Reg.glbTdmaCtrl [] 26 24 st) Reg.glbTdmaCtrl [] 16 0 moved

/-- The words of an entry as one number. -/
def entryOfWords (ws : List Word) : Nat := joinWords ws

/-- The host has held segment `n` since GO. -/
def dmaHolds (s : State) (d : TableDma) (n : Nat) : Bool := segHeld s false n && !d.lost.contains n

/-- The entries of a transfer from entry `i` on, each moved in turn until one stops it; answers RESULT and bytes moved. -/
def moveEntries (d : TableDma) (t : Table) (size : Nat) (errorAt : Option Nat) :
    Nat → Nat → Nat → List Word → State → State × Nat × Nat
  | 0, _, moved, _, s => (s, 0, moved)
  | n + 1, i, moved, ws, s =>
    let e := entryOfWords (ws.take (size / 4))
    if errorAt.any fun k => decide (k < moved + size) then (s, 6, moved)
    else if d.toTable && t == .fdb && !dmaHolds s d (fdbSeg s i) then (s, 5, moved)
    else if d.toTable && t == .stash && d.lost.contains (homeSeg s (entryKey (BitVec.ofNat 128 e))) then (s, 5, moved)
    else if d.toTable && t == .stash && !segHeld s false (homeSeg s (entryKey (BitVec.ofNat 128 e))) then (s, 4, moved)
    else
      let s := if d.toTable then landEntry s .host t i e
        else emit s (.hostWrite (d.haddr + BitVec.ofNat 64 moved)
          (((List.range (size / 4)).flatMap fun w => lowBytes 4 (tableWord s t i w).toNat)))
      moveEntries d t size errorAt n (i + 1) (moved + size) (ws.drop (size / 4)) s

/-- Transfer `d` of table `t` from entry `i` on, as far as it goes, and its end. -/
def runDma (s : State) (d : TableDma) (t : Table) (i : Nat) (hostData : List Word) (errorAt : Option Nat) : State :=
  let (_, size, _) := shapeOf t
  let (s', st, moved) := moveEntries d t size errorAt (d.len / size) i 0 hostData s
  let s' := if d.toTable then record s' 3 0 64 ((hostData.take (moved / 4)).flatMap fun w => lowBytes 4 w.toNat) else s'
  endDma s' st moved

/-- TABLE_DMA_DONE: the transfer runs to its end, to an error at the host byte `errorAt`, or to an entry that it may not
write. -/
def execTableDmaDone (hostData : List Word) (errorAt : Option Nat) (s : State) : Host.Outcome State Fault Refusal :=
  match s.host.tdma with
  | none => done s
  | some d =>
    match d.buf, dmaTable d.win d.len with
    | some _, some (t, i) => done (withTag s fun s => runDma s d t i hostData errorAt)
    | _, _ => done s

/-! ### The endpoint (R439, R440) -/

/-- A hold bit of GLB_MS_HOLD returns to 0: MS fields wait 2 µs from here (R418). -/
def dropHold (s : State) (mc : Bool) : State :=
  let i := bnat mc
  if rdBit s Reg.glbMsHold [] i then
    let s := wrBoth s Reg.glbMsHold [] i i 0
    { s with regs := { s.regs with holdClearedAt := s.time.dt,
                                   holdHostCycles := if mc then s.regs.holdHostCycles else 0,
                                   holdMcCycles := if mc then 0 else s.regs.holdMcCycles } }
  else s

/-- The copies queued for both host ports are discarded when the ports go down. -/
def hostPortsDown (s : State) : State := dropQueued (dropQueued s 88) 89

/-- The registers of a ring at their reset values; its counters stand. -/
def resetRing (s : State) (tx : Bool) (r : Nat) : State :=
  let ix := ringIx s r
  let rows := [ringCfgReg tx, ringTailReg tx, ringBaseLo tx, ringBaseHi tx]
  let s := rows.foldl (fun s x => putStaged (putWord s x ix (x.resetWord ix)) x ix (x.resetWord ix)) s
  putWord s (ringStatReg tx) ix 0

/-- The endpoint, the DMA engine and the rings reset (R440). -/
def resetEndpoint (s : State) : State :=
  let up := hostUp s
  let s := { s with host := { s.host with busMaster := false } }
  let s := if up then hostPortsDown s else s
  let s := (List.range 64).foldl (fun s r => resetRing (dropWaits s r) false r) s
  let s := (List.range 64).foldl (fun s r => resetRing s true r) s
  let s := { s with host := { s.host with txPending := [] } }
  let s := if s.host.tdma.isSome then endDma s 5 0 else s
  let locked := [0, 1].any fun w => word s Reg.fdbLockHost [w] != 0
  let s := [0, 1].foldl (fun s w => putStaged (putWord s Reg.fdbLockHost [w] 0) Reg.fdbLockHost [w] 0) s
  let s := if locked then releaseDeferred s else s
  let s := dropHold s false
  { s with irq := { s.irq with msixEnable := false, functionMask := false, masked := BitVec.allOnes 64,
                               msixTable := [] } }

/-- ENDPOINT_RESET: PERST_N, a hot reset, a link-down reset or a function-level reset. -/
def execEndpointReset (el : Nat) (s : State) : Host.Outcome State Fault Refusal := done (resetEndpoint (advance el s))

/-- HOST_PORT_STATE_CHANGE. -/
def execHostPortStateChange (d0 outOfReset busMaster : Bool) (s : State) : Host.Outcome State Fault Refusal :=
  let was := hostUp s
  let s := { s with host := { s.host with d0 := d0, outOfReset := outOfReset, busMaster := busMaster } }
  done (if was && !hostUp s then hostPortsDown s else s)

end Sys2Proof.Machine
end

