-- ==== Sys2Proof/Machine/PlaceCycle.lean ====
section
/-! DEFINITION. What placement does at each device cycle: relief, pins and forbids, consolidation, trunk routes and capture
budgets (R315 to R329). -/
namespace Sys2Proof.Machine

/-! ### Moves -/

/-- Placement may begin one more move in this device cycle (R322). -/
def movesLeft (s : State) : Bool := decide (s.place.movesThisCycle < rd s Reg.placeMoveLimit [] 6 0)

def noteMove (s : State) : State := { s with place := { s.place with movesThisCycle := s.place.movesThisCycle + 1 } }

/-- Job `j` may be chosen for a move: it runs, no command waits, and no move of it is in progress. -/
def jobFree (s : State) (j : Nat) : Bool :=
  let x := job s j
  x.state == 2 && x.pending == [] && x.move.isNone

/-- The move of job `j` to engine `e` begins (Table 11-2, step 1). -/
def beginMove (s : State) (j e reason : Nat) : State :=
  match reach s j e with
  | none => s
  | some (s, qs) =>
    let x := job s j
    let m : JobMove := { dest := e, atSample := applyLead s (s.acc.inForce.job j), queues := qs, reason := reason,
                         load := perMille (engineLoad s x.engine none) }
    noteMove (putJob s j { x with state := 4, move := some m })

/-- The engine to which placement would move job `j`: outside its source, with room, and reached by its streams. -/
def chooseMove (s : State) (j : Nat) (ok : Nat → Bool) : Option (Nat × Bool) :=
  let src := (job s j).engine
  let d := jobPart s j
  chooseEngine s j d fun e => e != src && ok e && capacityFits s e j d && (destFixed s j || reachable s j e)

/-- LOAD_TO of a move of job `j`: its source's load without it. -/
def loadAfter (s : State) (j : Nat) : Nat := perMille (engineLoad s (job s j).engine (some j))

/-- A later JOB change: made in AUTO, journalled as advised in ADVISE, refused where no engine takes the job. -/
def relocate (s : State) (j reason : Nat) (ok : Nat → Bool) : State :=
  let src := (job s j).engine
  let before := perMille (engineLoad s src none)
  let refuse (s : State) (r : Nat) : State := journal s 0 3 r j src noPlace before before
  let make (s : State) (c : Option (Nat × Bool)) : State :=
    match c with
    | none => refuse s reason
    | some (e, high) =>
      let r := if high then 3 else reason
      if placeMode s 0 = 1 then journal s 0 1 r j src e before (loadAfter s j) else beginMove s j e r
  match chooseMove s j ok with
  | some (e, _) =>
    if destFixed s j ∧ e / 8 ≠ src / 8 then make (refuse s 8) (chooseMove s j fun x => ok x && x / 8 == src / 8)
    else make s (chooseMove s j ok)
  | none => refuse s reason

/-! ### Relief of an engine (R317, R320) -/

/-- Engine `e` is over target in the cycle that ends. -/
def engineOver (s : State) (e : Nat) : Bool :=
  !atMost (engineLoad s e none) (target s) || s.place.lateEngines.contains e

/-- The jobs of engine `e` that relief may choose. -/
def reliefJobs (s : State) (e : Nat) : List Nat :=
  (jobsOn s e).filter fun j => (job s j).engine == e && jobFree s j && pinMask s false j != 2 ^ e

/-- The job whose removal brings engine `e` nearest to TARGET from below, or the largest that fits elsewhere. -/
def reliefJob (s : State) (e : Nat) : Option Nat :=
  let js := reliefJobs s e
  let size (j : Nat) : Nat := engineLoad s e none - engineLoad s e (some j)
  let within := js.filter fun j => atMost (engineLoad s e (some j)) (target s)
  match lowestBy size within with
  | some j => some j
  | none =>
    let fits := js.filter fun j => match chooseMove s j fun _ => true with
      | some (_, high) => !high
      | none => false
    lowestBy (fun j => fullLoad - min fullLoad (size j)) fits

/-- One engine's part of the cycle: its count over target, and relief once it reaches HOLD. -/
def engineCycle (s : State) (e : Nat) : State :=
  let n := if engineOver s e then get 0 s.place.overEngine e + 1 else 0
  let note (s : State) (n : Nat) : State := { s with place := { s.place with overEngine := set 0 s.place.overEngine e n } }
  if holdCycles s ≤ n ∧ 0 < n ∧ placeMode s 0 ≠ 0 ∧ movesLeft s then
    match reliefJob s e with
    | none => note s n
    | some j => relocate (note s 0) j 2 fun _ => true
  else note s n

/-- CONSOLIDATE: the jobs of the least loaded populated cluster move off it while every destination stays within TARGET. -/
def consolidate (s : State) : State :=
  if !rdBit s Reg.placeEngineEnv [] 31 || placeMode s 0 == 0 then s
  else
    let load (k : Nat) : Nat := ((List.range 8).map fun e => engineLoad s (8 * k + e) none).sum
    match lowestBy load ((List.range 8).filter (isCluster s)) with
    | none => s
    | some k =>
      let js := (activeJobs s).filter fun j => (job s j).engine / 8 == k && jobFree s j && !destFixed s j
      js.foldl (fun s j =>
        if !movesLeft s then s
        else match chooseMove s j fun e => e / 8 != k with
          | some (_, false) => relocate s j 4 fun e => e / 8 != k
          | _ => s) s

/-! ### Lines (R320, R326) -/

/-- The move of input channel `i`'s line to granule `b`, from bank group `g`, is decided; LOAD_TO is free, since the spec
does not say what a bank group's bandwidth will be. -/
def moveLine (s : State) (i g b reason : Nat) : State :=
  let w := freeWord s
  let note (s : State) (o : Nat) : State := journal s 1 o reason i g (bankOf b) (bankPerMille s g) (fld w 15 0)
  if placeMode s 1 = 1 then note (spend s) 1
  else match (activeJobs s).find? fun j => inRange (inputRange (s.acc.inForce.job j)) i with
    | none => s
    | some j =>
      let m : LineMove := { input := i, toBase := b, a0 := applyLead s (s.acc.inForce.job j), switchAt := none }
      noteMove (note { spend s with place := { s.place with lineMoves := s.place.lineMoves ++ [m] } } 0)

/-- The lines of running jobs that no move holds, by input channel, with their granules. -/
def freeLines (s : State) : Sparse (BitVec 128) :=
  ((activeJobs s).filter (jobFree s)).flatMap fun j =>
    (jobPart s j).validInputs.filter fun e => !s.place.lineMoves.any fun m => m.input == e.1

/-- A later LINE change of input channel `i`, whose descriptor is `e`. -/
def relocateLine (s : State) (i : Nat) (e : BitVec 128) (reason : Nat) : State :=
  let g := bankOf (fld e 100 80)
  match chooseLine s (linesHeld s) i (fld e 107 101) fun x => x != g with
  | none => journal s 1 3 reason i g noPlace (bankPerMille s g) (bankPerMille s g)
  | some (b, high) => moveLine s i g b (if high then 3 else reason)

/-- One bank group's part of the cycle. -/
def bankCycle (s : State) (g : Nat) : State :=
  let above := decide (bwTarget s * 25600 < get 0 s.place.bankLast g)
  let n := if above then get 0 s.place.overBank g + 1 else 0
  let note (s : State) (n : Nat) : State := { s with place := { s.place with overBank := set 0 s.place.overBank g n } }
  if holdCycles s ≤ n ∧ 0 < n ∧ placeMode s 1 ≠ 0 ∧ movesLeft s then
    match (freeLines s).find? fun e => bankOf (fld e.2 100 80) == g with
    | none => note s n
    | some e => relocateLine (note s 0) e.1 e.2 2
  else note s n

/-! ### Pins and forbids (R321) -/

/-- Jobs and lines that stand where the envelope bars them. -/
def barred (s : State) : List (Bool × Nat) :=
  ((activeJobs s).filter fun j => !enginePermitted s j (job s j).engine).map (fun j => (false, j)) ++
    ((activeJobs s).flatMap fun j => (jobPart s j).validInputs.filter fun e =>
      !bankPermitted s e.1 (bankOf (fld e.2 100 80))).map fun e => (true, e.1)

/-- Pin entries and forbid masks take effect at MS: what they leave on a barred place is to move. -/
def placeApplied (before s : State) (due : Nat → Bool) : State :=
  let l := s.place.pinsWait.filter fun e => due e.2.2
  let pins := l.foldl (fun p e => set 0 p e.1 e.2.1) s.place.pins
  let s := { s with place := { s.place with pins := pins, pinsWait := s.place.pinsWait.filter fun e => !due e.2.2 } }
  let same := l == [] && [0, 1].all (fun w => word before Reg.placeEngineForbid [w] == word s Reg.placeEngineForbid [w]) &&
    word before Reg.placeBankForbid [] == word s Reg.placeBankForbid []
  if same then s else { s with place := { s.place with displaced := barred s } }

/-- One displaced object: it waits, is done with, or is moved. -/
def displaced (s : State) (x : Bool × Nat) : State :=
  let strike (s : State) : State := { s with place := { s.place with displaced := s.place.displaced.filter (· != x) } }
  if !(barred s).contains x then strike s
  else if x.1 then
    if placeMode s 1 = 0 then strike s
    else if !movesLeft s then s
    else match (freeLines s).find? fun e => e.1 == x.2 with
      | none => s
      | some e => relocateLine (strike s) x.2 e.2 (if bankForbidden s (bankOf (fld e.2 100 80)) then 6 else 5)
  else
    if placeMode s 0 = 0 then strike s
    else if !movesLeft s || !jobFree s x.2 then s
    else relocate (strike s) x.2 (if engineForbidden s (job s x.2).engine then 6 else 5) fun _ => true

/-! ### Trunk routes (R328) -/

/-- The groups that lead to device `d`: the one on which it was last reached, and others with the same neighbour. -/
def groupsTo (s : State) (d : Nat) : List Nat :=
  match find s.izl.paths d with
  | none => []
  | some g =>
    (List.range 16).filter fun x => x == g || ((izlGroup s x).neighbour.any fun n =>
      (izlGroup s g).neighbour.any fun m => m.unitId == n.unitId)

/-- The utilisation of a trunk group, per mille. -/
def trunkUtil (s : State) (g : Nat) : Nat := rd s Reg.izlGrpUtil [g] 9 0

/-- The route of device `d` is written for group `g`. -/
def writeRoute (s : State) (d g : Nat) : State :=
  match groupPort s g with
  | none => s
  | some p => stage s (.mc 2) Reg.schedVoqRoute [d] 0xFFFFFFFF (BitVec.ofNat 32 (2 ^ 31 + p))

/-- The group of least utilisation among those that are up and lead to device `d`, other than `not`. -/
def bestGroup (s : State) (d : Nat) (not : Option Nat) : Option Nat :=
  lowestBy (trunkUtil s) ((groupsTo s d).filter fun g => groupUp s g && some g != not)

/-- One remote device's route. -/
def routeDevice (s : State) (d : Nat) : State :=
  let w := stagedWord s Reg.schedVoqRoute [d]
  let port (g : Nat) : Nat := (groupPort s g).getD noPlace
  if d = ownDevice s ∨ !admitted s d then s
  else if !flag w 31 then
    match bestGroup s d none with
    | none => s
    | some g => journalNew (writeRoute s d g) 3 0 1 d (port g)
  else match portGroup s (fld w 6 0) with
    | none => s
    | some g =>
      let down := groupDown s g
      let above := decide (holdCycles s ≤ get 0 s.place.overTrunk g)
      if !(down || above) || !movesLeft s then s
      else match bestGroup s d (some g) with
        | none => s
        | some h =>
          let u := trunkUtil s g
          let v := freeWord s
          let note (s : State) (o : Nat) : State := journal (spend s) 3 o (if down then 11 else 10) d (port g) (port h) u (fld v 15 0)
          if placeMode s 3 = 1 then note s 1 else noteMove (note (writeRoute s d h) 0)

/-- The TRUNK class's part of the cycle. -/
def trunkCycle (s : State) : State :=
  let above := (List.range 16).foldl (fun l g =>
    set 0 l g (if groupOn s g && decide (bwTarget s < trunkUtil s g) then get 0 l g + 1 else 0)) s.place.overTrunk
  let s := { s with place := { s.place with overTrunk := above } }
  if placeMode s 3 = 0 ∨ role s = 2 ∨ role s = 3 then s else (List.range 128).foldl routeDevice s

/-! ### Capture (R329) -/

/-- A rate of bytes in one device cycle, in Gb/s. -/
def cycleGbps (bytes : Nat) : Nat := ceilDiv bytes 125000

/-- Selections in the order in which they are trimmed: the lowest PRIO first, and of those the lowest number. -/
def trimOrder (s : State) : List Nat :=
  (List.range 16).mergeSort fun a b => rd s Reg.obsSelA [a] 28 26 ≤ rd s Reg.obsSelA [b] 28 26

/-- Each newly armed selection's initial decision, a grant of CAP_RATE, which the spec does not state (DESIGN CHOICE, log entry
157); one that is no longer armed loses its grant. -/
def grantArmed (s : State) : State :=
  let armed := (List.range 16).filter fun k => recording s && rdBit s Reg.obsSelA [k] 31
  let cap := rd s Reg.obsRecCfg [] 30 24
  let old := s.place.granted
  let s := (armed.filter fun k => (find old k).isNone).foldl (fun s k => journalNew s 4 0 1 k cap) s
  { s with place := { s.place with granted := armed.foldl (fun g k => put g k ((find old k).getD cap)) ([] : Sparse Nat) } }

/-- The selections trimmed until the total fits CAP_RATE. -/
def captureCycle (s : State) : State :=
  if placeMode s 4 = 0 then s
  else
    let s := grantArmed s
    let rate (k : Nat) : Nat := cycleGbps (get 0 s.obs.wanted k)
    let total := ((List.range 16).map rate).sum
    let cap := rd s Reg.obsRecCfg [] 30 24
    let old := s.place.granted
    let all := old.map fun e => (e.1, cap)
    let (g, _) := (trimOrder s).foldl (fun (g, above) k =>
      let cut := min above (rate k)
      (if cut = 0 then g else put g k (rate k - cut), above - cut)) (all, total - cap)
    let lowered := g.filter fun e => (find old e.1).all fun x => decide (e.2 < x)
    let s := lowered.foldl (fun s e =>
      let w := freeWord s
      journal (spend s) 4 (if placeMode s 4 = 1 then 1 else 0) 13 e.1 ((find old e.1).getD (rate e.1)) e.2 (fld w 31 16)
        (fld w 15 0)) s
    if placeMode s 4 = 1 then s else { s with place := { s.place with granted := g } }

/-! ### The device cycle -/

/-- One device cycle of placement: what ended is closed, and while MC2 runs new moves begin. -/
def placeCycle (s : State) : State :=
  let ends := s.place.endings
  let s := ends.foldl finishEnd { s with place := { s.place with endings := [], movesThisCycle := 0 } }
  let s := landLines s
  let s := { s with place := { s.place with bankLast := s.place.bankBytes, bankBytes := [] } }
  if !mc2Up s then { s with place := { s.place with lateEngines := [] } }
  else
    let s := s.place.displaced.foldl displaced s
    let s := ((List.range 64).filter (enginePopulated s)).foldl engineCycle s
    let s := (List.range 16).foldl bankCycle s
    let s := consolidate s
    let s := captureCycle (trunkCycle s)
    { s with place := { s.place with lateEngines := [] } }

end Sys2Proof.Machine
end

