-- ==== Sys2Proof/Machine/MsApply.lean ====
section
/-! DEFINITION. What takes effect together at a device-cycle boundary (R415 to R418), and how a recorder is triggered and
frozen (R517, R518). -/
namespace Sys2Proof.Machine

/-! ### The MS apply point -/

/-- An MS value staged at tick `since` takes effect at a boundary now. -/
def msDue (s : State) (since : Nat) : Bool :=
  let held := rdBit s Reg.glbMsHold [] 0 || rdBit s Reg.glbMsHold [] 1
  !held && decide (since + 1600 ≤ s.time.dt) && decide (s.regs.holdClearedAt + 1600 ≤ s.time.dt)

/-- A PERF_SEL that changes zeroes its counter (R310). -/
def perfApplied (before s : State) : State :=
  (List.range 64).foldl (fun s e =>
    (List.range 6).foldl (fun s n =>
      if word before Reg.accPerfSel [e, n] = word s Reg.accPerfSel [e, n] then s
      else { s with regs := { s.regs with counters := set 0 s.regs.counters (Ctr.engine.addr [e] n) 0 } }) s) s

/-- The trace's frame count starts when EN rises (Table 19-2). -/
def traceApplied (before s : State) : State :=
  let on (s : State) : Bool := rdBit s Reg.obsTraceCfg [] 31
  if on before = on s then s
  else { s with obs := { s.obs with traceSeq := 0, trace := [], traceGap := false, snapAt := s.time.dt } }

/-- Every MS value that `due` selects takes effect, with what each change brings about. -/
def applyAtMs (s : State) (due : Nat → Bool) : State :=
  let before := s
  let s := applyWhere s fun e => e.kind == 0 && due e.since
  let s := (List.range 96).foldl reWarn s
  let s := (List.range 80).foldl followAccount s
  let s := applyContexts (timeApplied before s) due
  let s := twinApplied before (izlApplied before s)
  let s := if rd before Reg.fdbAge [] 31 16 = rd s Reg.fdbAge [] 31 16 then s else restartAge s
  let s := traceApplied before (perfApplied before s)
  placeApplied before s due

/-- The MS apply point of a device-cycle boundary. -/
def msBoundary (s : State) : State :=
  let at_ := s
  applyAtMs s (msDue at_)

/-! ### Triggers of the recorder -/

/-- The CKPT records of a checkpoint that the capture still holds. -/
def segmentsHeld (s : State) (c : Checkpoint) : Nat :=
  (s.obs.records.filter fun r => r.ty == 9 && r.src == c.num % 256 && r.dt == c.tick * 81920).length

/-- The checkpoints whose last segments are written and of which nothing is overwritten (R516, R519). -/
def completeCkpts (s : State) : List Checkpoint := s.obs.ckpts.filter fun c => c.complete && segmentsHeld s c == c.segs

def setRecState (s : State) (v : Nat) : State := wr s Reg.obsRecStat [] 31 29 v

/-- The bytes of the capture with its header, in 64 KiB units. -/
def captureUnits (s : State) : Nat := ceilDiv (512 + s.obs.bytes) 65536

/-- The epoch of a record. -/
def Rec.epoch (r : Rec) : Nat := r.dt / 65536000 % 2 ^ 32

/-- The recorder freezes. -/
def freeze (s : State) : State :=
  let first := match s.obs.records with
    | r :: _ => r.epoch
    | [] => epochNow s
  let s := { s with obs := { s.obs with lastEpoch := epochNow s, firstEpoch := first,
                                        ckpts := completeCkpts s, segments := [] } }
  wr (wr (setRecState s 3) Reg.obsRecStat [] 23 8 s.obs.ckpts.length) Reg.obsCapLen [] 15 0 (min 65535 (captureUnits s))

/-- A trigger of cause `c` (1 FATAL, 2 SOFTWARE, 3 MATCH) and match unit `m`: it counts, and in RECORDING it acts. -/
def trigger (s : State) (c m index : Nat) : State :=
  let s := countEvent s Reg.obsTrigCnt []
  if recState s ≠ 1 then s
  else
    let s := record s 0x0A c m (toBytes 2 index)
    let s := { s with obs := { s.obs with trigEpoch := epochNow s, trigAt := s.time.dt } }
    wr (wr (setRecState s 2) Reg.obsRecStat [] 28 26 c) Reg.obsRecStat [] 25 24 m

/-- The latest records of at most `n` bytes. -/
def latestRecs (n : Nat) : List Rec → List Rec
  | [] => []
  | r :: rs => if n < r.size then [] else r :: latestRecs (n - r.size) rs

/-- A fatal condition with FATAL_TRIG 1: the recorder freezes, and MC0 writes a summary to the flash journal area, which
keeps the two latest. -/
def fatalFreeze (s : State) : State :=
  if !rdBit s Reg.obsRecCfg [] 31 then s
  else
    let s := trigger s 1 0 0
    if recState s = 2 then
      let s := freeze s
      let sum := (latestRecs 16777216 s.obs.records.reverse).reverse
      { s with obs := { s.obs with summaries := (sum :: s.obs.summaries).take 2 } }
    else s

end Sys2Proof.Machine
end

