-- ==== Sys2Proof/Machine/Container.lean ====
section
/-! DEFINITION. Containers and bundles: their layout and the checks in order (R30 to R42, R477, R478, Tables 2-2 to 2-7,
17-1, 17-2). -/
namespace Sys2Proof.Machine

/-- One entry of a region or member table (Table 2-3). -/
structure TableRow where
  id : Nat
  layoutVer : Nat
  off : Nat
  len : Nat
  cls : Nat
  digest : Nat
  deriving DecidableEq, Repr

/-- Entry `i` of the table that starts at 0x100. -/
def tableRow (b : List Byte) (i : Nat) : TableRow :=
  let o := 0x100 + 64 * i
  { id := field b o 2, layoutVer := field b (o + 2) 2, off := field b (o + 4) 4, len := field b (o + 8) 4,
    cls := byteAt b (o + 12), digest := field b (o + 16) 48 }

/-- The number of entries of a table. -/
def rowCount (b : List Byte) : Nat := field b (if field b 0 4 = 0x485A4255 then 0x3A else 0x38) 2

def tableRows (b : List Byte) : List TableRow := (List.range (rowCount b)).map (tableRow b)

/-- `n` bytes from offset `o` are zero. -/
def zerosAt (b : List Byte) (o n : Nat) : Bool := ((b.drop o).take n).all (· == 0)

/-- ENV_OFFSET, BIND and FLAGS. -/
def envAt (b : List Byte) : Nat := field b 0x40 4
def boundTo (b : List Byte) : Nat := byteAt b 0x12
def contFlags (b : List Byte) : Nat := byteAt b 0x13

/-- The table's payloads lie in its order, each on a 64-byte boundary, with no overlap, between the table and the
envelope (R31). -/
def rowsLaid (b : List Byte) : Bool :=
  let rs := tableRows b
  let next := (rs.drop 1).map fun r => (r.id, r.off)
  let last := next ++ [(0x10000, envAt b)]
  (rs.zip last).all (fun p => decide (p.1.id < p.2.1 ∧ p.1.off % 64 = 0 ∧ p.1.off + p.1.len ≤ p.2.2 ∧ p.1.cls ≤ 1)) &&
    (rs.head?.all fun r => decide (0x100 + 64 * rs.length ≤ r.off)) &&
    (List.range rs.length).all fun i => zerosAt b (0x100 + 64 * i + 13) 3

/-- Check 1 of Table 2-5, as far as containers and bundles share it. -/
def envelopeLaid (b : List Byte) (maxLen : Nat) : Bool :=
  let n := field b 8 4
  let e := envAt b
  decide (field b 4 2 = 1 ∧ field b 6 2 = 256 ∧ n % 64 = 0 ∧ 4096 ≤ n ∧ n ≤ maxLen ∧ n ≤ b.length) &&
    decide (boundTo b = 1 ∨ boundTo b = 2) && decide (contFlags b < 4) && zerosAt b 0x14 4 &&
    (boundTo b == 2 || zerosAt b 0x18 8) && decide (field b 0x3C 4 = 0x100 ∧ e % 64 = 0 ∧ e + 272 ≤ n ∧ field b 0x44 4 = 272) &&
    decide (byteAt b e = boundTo b) && zerosAt b (e + 1) 3 && zerosAt b (e + 0x38) 8 &&
    (bit (contFlags b) 1 || zerosAt b (e + 0xB0) 96) && rowsLaid b

/-- Check 1 of a structure container (R30). -/
def imageLaid (b : List Byte) : Bool :=
  decide (field b 0 4 = 0x485A5349) && envelopeLaid b 33554432 && decide (1 ≤ rowCount b ∧ rowCount b ≤ 64) &&
    (bit (contFlags b) 0 || zerosAt b 0x28 4) && zerosAt b 0x3A 2 && zerosAt b 0x48 184

/-- Check 1 of a bundle (R477). -/
def bundleLaid (b : List Byte) : Bool :=
  decide (field b 0 4 = 0x485A4255) && envelopeLaid b 268435456 && decide (byteAt b 0x24 ≤ 64) && zerosAt b 0x25 3 &&
    zerosAt b 0x5E 162 && (tableRows b).map (·.id) == [0x100, 0x101, 0x102, 0x103] &&
    (tableRows b).all fun r => r.id == 0x103 || r.cls == 0

/-- Check 2: it serves this part, revision A0 and this unit. -/
def identityFits (b : List Byte) : Bool :=
  decide (field b 0xC 2 = 0x4880 ∧ field b 0xE 2 = 0x0A3E ∧ byteAt b 0x10 = 0) &&
    (boundTo b == 1 || decide (field b 0x18 8 = Config.unitId.toNat))

/-- The bytes that both signatures cover (R32). -/
def signedBytes (b : List Byte) : List Byte := b.take (envAt b + 0x50)

/-- Check 3, with the customer key where it is fused (R34). -/
def signaturesHold (key : Option (List Byte)) (b : List Byte) : Bool :=
  let e := envAt b
  Config.verifies none (signedBytes b) ((b.drop (e + 0x50)).take 96) &&
    key.all fun k => bit (contFlags b) 1 && Config.verifies (some k) (signedBytes b) ((b.drop (e + 0xB0)).take 96)

/-- The clear text of the payloads together. -/
def clearText (b : List Byte) : Option (List Byte) :=
  let e := envAt b
  let rs := tableRows b
  Config.decrypts (b.getD e 0) ((b.drop (e + 0x10)).take 40) ((b.drop (e + 4)).take 12) (b.take (0x100 + 64 * rs.length))
    (rs.flatMap fun r => (b.drop r.off).take r.len) ((b.drop (e + 0x40)).take 16)

/-- The clear text cut into payloads by the rows' lengths. -/
def cutText : List TableRow → List Byte → List (TableRow × List Byte)
  | [], _ => []
  | r :: rs, b => (r, b.take r.len) :: cutText rs (b.drop r.len)

/-- Checks 1 to 5 of Table 2-5: the rows with their payloads, or the code of the first failure. -/
def openContainer (key : Option (List Byte)) (laid : List Byte → Bool) (b : List Byte) :
    Except Nat (List (TableRow × List Byte)) :=
  if !laid b then .error 1
  else if !identityFits b then .error 2
  else if !signaturesHold key b then .error 3
  else match clearText b with
    | none => .error 4
    | some t =>
      let l := cutText (tableRows b) t
      if l.all fun p => ofBytes (Config.sha384 p.2) == p.1.digest then .ok l else .error 5

/-! ### Regions (R35 to R47) -/

/-- Regions that Table 2-6 allows to be REPLACEABLE. -/
def mayReplace (id : Nat) : Bool :=
  decide (0x10 ≤ id ∧ id ≤ 0x13) || decide (0x20 ≤ id ∧ id ≤ 0x23) || id == 0x30 || id == 0x50

/-- The default partition (Table 1-8). -/
def defaultPartition : List QRange :=
  [⟨0, 768, 1⟩, ⟨768, 65536, 2⟩, ⟨66304, 98304, 3⟩, ⟨164608, 20480, 4⟩, ⟨185088, 77056, 5⟩]

/-- A region's payload put into an image; none where it is not a region of Table 2-6 or has not its shape. -/
def withRegion (x : Image) (r : TableRow) (b : List Byte) : Option Image :=
  let n := b.length
  let x := { x with regions := (x.regions.filter (·.id != r.id)) ++ [⟨r.id, r.layoutVer, r.cls == 1, r.digest⟩] }
  if r.id = 1 then
    if n = 192 ∧ (List.range 48).all (fun i => byteAt b (4 * i + 3) == 0) then
      some { x with lanes := (List.range 48).map fun i => ⟨b.getD (4 * i) 0, b.getD (4 * i + 1) 0, b.getD (4 * i + 2) 0⟩ }
    else none
  else if r.id = 2 then
    let (h, c, g, ec, hp) := Config.bindLayout b
    some { x with bindH := h, bindC := c, bindG := g, injEc := ec, injHost := hp }
  else if r.id = 3 then (if n = 4 ∧ ofBytes b < 2 ^ 23 then some { x with pop := BitVec.ofNat 23 (ofBytes b) } else none)
  else if r.id = 0x30 then
    let k := n / 12
    if n = 12 * k ∧ 1 ≤ k ∧ k ≤ 16 ∧ (List.range k).all (fun i => zerosAt b (12 * i + 9) 3) then
      some { x with qpart := (List.range k).map fun i => ⟨field b (12 * i) 4, field b (12 * i + 4) 4, byteAt b (12 * i + 8)⟩ }
    else none
  else if r.id = 0x40 then (if n = 4 then some { x with ring := b } else none)
  else if r.id = 0x50 then (if n = 16 then some { x with ball := b } else none)
  else if r.id = 0x60 then
    if n % 2 = 0 ∧ n ≤ 32 then some { x with hotset := (List.range (n / 2)).map fun i => field b (2 * i) 2 } else none
  else if mayReplace r.id then some x else none

/-- The regions of a container put into an image. -/
def withRegions (x : Image) : List (TableRow × List Byte) → Option Image
  | [] => some x
  | (r, b) :: l => (withRegion x r b).bind fun x => withRegions x l

/-- The FEC codes that a mode permits, as a mask (Table 2-7). -/
def fecPermitted (m : Nat) : Nat :=
  match m with
  | 2 => 3 | 3 => 7 | 4 => 8 | 5 => 8 | 6 => 16 | 7 => 8 | 8 => 8
  | _ => 1

/-- The LANE region's limits (R36, R37). -/
def lanesLawful (x : Image) : Bool :=
  let mode (n : Nat) : Nat := (x.lanes.getD n ⟨0, 0xFF, 1⟩).mode.toNat
  let trunk (n : Nat) : Nat := (x.lanes.getD n ⟨0, 0xFF, 1⟩).trunk.toNat
  (List.range 48).all fun n =>
    let m := mode n
    let f := (x.lanes.getD n ⟨0, 0xFF, 1⟩).fecSet.toNat
    let izl := m == 0x10 || m == 0x11
    let first := n - n % modeLanes m
    (decide (m ≤ 8) || izl)
    && ((List.range (modeLanes m)).all fun i => mode (first + i) == m)
    && (f != 0 && f &&& fecPermitted m == f)
    && (x.pop.getLsbD (n / 8) || m == 0)
    && (if izl then decide (trunk n ≤ 15) &&
          ((List.range 48).all fun k => trunk k != trunk n || mode k == m) &&
          decide (((List.range 48).filter fun k => trunk k == trunk n).length ≤ 16)
        else trunk n == 0xFF)

/-- The BIND region names populated pipelines for all that is populated (R38). -/
def bindLawful (x : Image) : Bool :=
  let pipe (k : Nat) : Bool := decide (k < 4) && x.pop.getLsbD (10 + k)
  let lane (n : Nat) : LaneCfg := x.lanes.getD n ⟨0, 0xFF, 1⟩
  ((List.range 48).all fun n =>
    let m := (lane n).mode.toNat
    !(decide (1 ≤ m ∧ m ≤ 8) && n % modeLanes m == 0) || pipe (x.bindH.getD n 4)) &&
  ((List.range 32).all fun c => !x.pop.getLsbD (6 + c / 8) || pipe (x.bindC.getD c 4)) &&
  ((List.range 16).all fun g => !((List.range 48).any fun n => (lane n).trunk.toNat == g) ||
    (x.bindG.getD g 0 != 0 && decide (x.bindG.getD g 0 < 16) &&
      (List.range 4).all fun k => !bit (x.bindG.getD g 0) k || pipe k)) &&
  ((List.range 8).all fun k => !x.pop.getLsbD (14 + k) || pipe (injection x k)) &&
  (List.range 2).all fun h => pipe (x.injHost.getD h 4)

/-- Ranges that follow one another from queue `a` to the last. -/
def rangesJoin : Nat → List QRange → Bool
  | a, [] => a == 262144
  | a, r :: rs => r.start == a && rangesJoin (a + r.count) rs

/-- The QPART region's limits (R39). -/
def qpartLawful (x : Image) : Bool :=
  let of (u : Nat) : List QRange := x.qpart.filter (·.use == u)
  let one (u lo hi : Nat) : Bool := match of u with
    | [r] => decide (lo ≤ r.count ∧ r.count ≤ hi)
    | _ => false
  rangesJoin 0 x.qpart && x.qpart.head? == some ⟨0, 768, 1⟩ && (of 1).length == 1 &&
    x.qpart.all (fun r => decide (r.start % 256 = 0 ∧ 1 ≤ r.use ∧ r.use ≤ 5)) &&
    one 2 0 65536 && one 3 768 98304 && one 4 2048 20480 && (of 3).all fun r => r.count % 768 == 0

/-- The RING region's limits (R42). -/
def ringLawful (x : Image) : Bool :=
  (List.range 4).all fun r =>
    let w := (x.ring.getD r 0).toNat
    let kind := bits w 2 1
    decide (w < 8) && kind != 3 && (bit w 0 || kind == 0) && (!bit w 0 ||
      [40 + 2 * r, 41 + 2 * r].all fun n =>
        let l := x.lanes.getD n ⟨0, 0xFF, 1⟩
        let m := l.mode.toNat
        decide (1 ≤ m ∧ m ≤ 3) || (m == 0x10 && kind == 0 &&
          ((List.range 48).filter fun k => (x.lanes.getD k ⟨0, 0xFF, 1⟩).trunk == l.trunk).length == 1))

/-- The image holds region `id`. -/
def Image.holds (x : Image) (id : Nat) : Bool := x.regions.any (·.id == id)

/-- Check 6: every region within its limits, and jointly consistent. -/
def imageLawful (x : Image) : Bool :=
  [1, 2, 3, 0x40, 0x50, 0x60].all x.holds &&
    ((List.range 4).all fun k => !x.pop.getLsbD (10 + k) || (x.holds (0x10 + k) && x.holds (0x20 + k))) &&
    (List.range 4).any (fun k => x.pop.getLsbD (10 + k)) && x.regions.all (fun r => !r.replaceable || mayReplace r.id) &&
    x.hotset.all (fun i => x.regions.any fun r => r.id == i && r.replaceable) && x.ball.all (fun v => decide (v.toNat ≤ 1)) &&
    lanesLawful x && bindLawful x && qpartLawful x && ringLawful x

/-- Helzia Media L2 (R48, Table 2-9): 40 ports of 50GBASE-R and 8 of 25GBASE-R, four HSR ring pairs with bypass, every unit
populated, the default bindings, partition and injection points, and the HOTSET of PARSE, STAGE, QPART and BALL. What its
microcode holds, and with it the digests and layout versions of its regions, is not documented. -/
def mediaL2 : Image :=
  let replaceable : List Nat := [0x10, 0x11, 0x12, 0x13, 0x20, 0x21, 0x22, 0x23, 0x30, 0x50]
  { lineage := 0x4D4C0002, ver := 0x01000000,
    lanes := (List.range 48).map fun n => if n < 40 then ⟨4, 0xFF, 8⟩ else ⟨3, 0xFF, 7⟩,
    bindH := (List.range 48).map (· / 12), bindC := (List.range 32).map (· / 8), bindG := List.replicate 16 0,
    injEc := (List.range 8).map (· / 2), injHost := [0, 2], pop := BitVec.allOnes 23,
    regions := ([1, 2, 3] ++ replaceable.take 9 ++ [0x40, 0x50, 0x60]).map fun id =>
      ⟨id, Config.mediaLayout id, replaceable.contains id, Config.mediaDigest id⟩,
    qpart := defaultPartition, ring := List.replicate 4 3, ball := List.replicate 16 1, hotset := replaceable }

/-- A full structure container checked (R33): its image, or the code of the first failure. A PARTIAL container is no full one
and gets LIMIT (DESIGN CHOICE, log entry 143). -/
def readImage (key : Option (List Byte)) (b : List Byte) : Except Nat Image :=
  match openContainer key imageLaid b with
  | .error c => .error c
  | .ok l =>
    let base := { Image.none with lineage := BitVec.ofNat 32 (field b 0x24 4), ver := BitVec.ofNat 32 (field b 0x20 4),
                                  qpart := defaultPartition }
    match withRegions base l with
    | none => .error 6
    | some x => if !bit (contFlags b) 0 && imageLawful x then .ok x else .error 6

/-- A bundle checked (R478) against a floor: what R477 reads from it, or a code of Table 16-4. -/
def readBundle (key : Option (List Byte)) (floor : Nat) (b : List Byte) : Except Nat Bundle :=
  match openContainer key bundleLaid b with
  | .error c => .error c
  | .ok l =>
    match readImage key ((l.getD 2 (⟨0, 0, 0, 0, 0, 0⟩, [])).2) with
    | .error c => .error c
    | .ok x =>
      if byteAt b 0x24 < floor then .error 0x20
      else
        let micro := (l.getD 3 (⟨0, 0, 0, 0, 0, 0⟩, [])).1
        .ok { ver := BitVec.ofNat 32 (field b 0x20 4), svn := byteAt b 0x24,
              izl := (field b 0x28 2, field b 0x2A 2, field b 0x2C 2),
              ctrl := (field b 0x2E 2, field b 0x30 2, field b 0x32 2), accOut := field b 0x34 2,
              ckpt := (field b 0x36 2, field b 0x38 2),
              classVer := (List.range 11).map fun k => (byteAt b (0x48 + 2 * k), byteAt b (0x49 + 2 * k)),
              image := x, microcode := micro.digest, microHitless := micro.cls == 1 }

/-- The bytes of a bank, by the length that its header states. -/
def bankBytes (m : Memory) : List Byte :=
  let n := ofBytes (Memory.readList m 8 4)
  Memory.readList m 0 (if n ≤ 268435456 then n else 256)

end Sys2Proof.Machine
end

