-- ==== Sys2Proof/Machine/Power.lean ====
section
/-! DEFINITION. Power, reset, boot and the readiness stages (chapter 16), the temperature limit (R541), and the watchdogs of
the management cores (R456 to R459). -/
namespace Sys2Proof.Machine

/-! ### Reset (R244, R461 to R463) -/

/-- A TB that keeps its time through a reset: LOCKED or HOLDOVER, running on at its last FREQ. -/
def keptTb (s : State) (t : Nat) : Bool := decide (2 ≤ tbState s t)

/-- A TB from the reset on: one that is kept holds its time, FREQ, integrator and the tick of its last accepted update. -/
def afterReset (s : State) (t : Nat) : TimeBase :=
  if keptTb s t then
    { TimeBase.zero with now := (tb s t).now, freq := (tb s t).freq, integ := (tb s t).integ,
                         lastUpdate := (tb s t).lastUpdate, lockedSinceStep := true }
  else TimeBase.zero

/-- What the time unit keeps. -/
def keptTime (s : State) : Time :=
  { State.reset.time with dt := s.time.dt, tbs := (List.range 4).map (afterReset s) }

/-- A TB as the device leaves reset: one that was not kept starts at 0 s (R244), and SRC_TIMEOUT counts from here (R250). -/
def startTb (s : State) (t : Nat) : TimeBase :=
  { (if keptTb s t then tb s t else TimeBase.zero) with since := s.time.dt }

/-- The clocks as the device leaves reset: the first device cycle begins and follows DT (R245), and the aging tick and the period
of R170 run from here. -/
def startClocks (s : State) : State :=
  { restartAge s with
      time := { s.time with tbs := (List.range 4).map (startTb s), alignTb0 := false, cycleStart := s.time.dt },
      strm := { s.strm with latentAt := s.time.dt } }

/-- The frozen capture and the summaries, which outlive a reset other than POR (R518). -/
def keptObs (s : State) (por : Bool) : Obs :=
  let o := s.obs
  if recState s = 3 ∧ !por then
    { State.reset.obs with records := o.records, bytes := o.bytes, ckpts := o.ckpts, gap := o.gap, firstEpoch := o.firstEpoch,
                           trigEpoch := o.trigEpoch, lastEpoch := o.lastEpoch, summaries := o.summaries }
  else { State.reset.obs with summaries := o.summaries }

/-- What flash and fuses hold (R462, R480 to R483). -/
def keptImg (s : State) : Img :=
  { State.reset.img with floor := s.img.floor, custKey := s.img.custKey, banks := s.img.banks, named := s.img.named,
                         config := s.img.config, flashJournal := s.img.flashJournal, crash := s.img.crash }

/-- Journal entries that flash does not hold yet, which the retention SRAM keeps: those between the copied count and COUNT,
which wraps, as far back as the table's 65,536 entries reach (R333). -/
def heldJournal (s : State) : List (BitVec 256) :=
  let count := (word s Reg.placeJnlCnt []).toNat
  let n := min 65536 ((count + 2 ^ 32 - s.place.flashCopied % 2 ^ 32) % 2 ^ 32)
  s.power.retained ++ ((List.range n).map fun k => get 0 s.place.journal ((count + 65536 - n + k) % 65536))

/-- The recorder's registers of a frozen capture. -/
def showFrozen (before s : State) : State :=
  if recState before = 3 then
    putWord (putWord s Reg.obsRecStat [] (word before Reg.obsRecStat [] &&& 0xFFFFFF00)) Reg.obsCapLen []
      (word before Reg.obsCapLen [])
  else s

/-- The FREQ and the STATE of the TBs that kept their time. -/
def showKept (before s : State) : State :=
  (List.range 4).foldl (fun s t =>
    if keptTb before t then wr (putFreq s t (tb s t).freq) Reg.timeTbStat [t] 31 30 3 else s) s

/-- The device is reset with cause `c`: every register takes its reset value, the bypass switches close, and what R244,
R462, R469, R482 and R518 keep is kept. -/
def resetDevice (s : State) (c : Nat) : State :=
  let s := closeAll s
  let p := { State.reset.power with vin := s.power.vin, vaux := s.power.vaux, pwrgd := s.power.pwrgd,
                                    pwrgdAt := s.power.pwrgdAt, hot := s.power.hot, resetLow := s.power.resetLow, charged := s.power.charged, retained := heldJournal s,
                                    fatals := if c ≤ 1 then [] else s.power.fatals, origin := s.time.dt }
  let t := { State.reset with power := p, time := keptTime s, img := keptImg s, obs := keptObs s (c == 0),
                              nextFrame := s.nextFrame, out := s.out, pending := s.pending, freeCtr := s.freeCtr }
  let t := wr (wr t Reg.glbResetCause [] 4 4 (rd s Reg.glbResetCause [] 4 4)) Reg.glbResetCause [] 2 0 c
  let t := showKept s t
  if c = 0 then t else showFrozen s t

/-- Time and the retention SRAM without VIN12 and VAUX33 (R244, R462). -/
def loseTime (s : State) : State :=
  { s with time := State.reset.time, power := { s.power with retained := [] } }

/-- The TBs' registers after time is lost. -/
def clearTbs (s : State) : State :=
  (List.range 4).foldl (fun s t => putWord (putFreq s t 0) Reg.timeTbStat [t] (Reg.timeTbStat.resetWord [t])) s

/-- Every function outside the VAUX33 domain stops (R461). -/
def losePower (s : State) : State :=
  let s := resetDevice { s with power := { s.power with pwrgd := false, charged := false } } 0
  let s := wrBit s Reg.glbResetCause [] 4 s.power.vaux
  if s.power.vaux then s else clearTbs (loseTime s)

/-- POWER_ON: VIN12 enters its range. -/
def execPowerOn (s : State) : Host.Outcome State Fault Refusal := done { s with power := { s.power with vin := true } }

/-- PWRGD_ASSERT: every rail is in regulation, and stage 0 completes. -/
def execPwrgdAssert (s : State) : Host.Outcome State Fault Refusal :=
  if s.power.vin && !s.power.hot && !s.power.pwrgd then
    let s := { s with power := { s.power with pwrgd := true, pwrgdAt := s.time.dt, origin := s.time.dt } }
    let s := { s with power := { s.power with stageAt := put s.power.stageAt 0 s.time.dt } }
    done (wr (wrBit s Reg.glbReady [] 0 true) Reg.glbReady [] 27 24 0)
  else done s

/-- POWER_LOSS: VIN12 leaves its range for more than 50 µs. -/
def execPowerLoss (s : State) : Host.Outcome State Fault Refusal :=
  if !s.power.vin then done s
  else if s.power.hot then
    let s := { s with power := { s.power with vin := false } }
    done (wrBit s Reg.glbResetCause [] 4 s.power.vaux)
  else done (losePower { s with power := { s.power with vin := false } })

/-- VAUX33_CHANGE: without VIN12, VAUX33 alone keeps time. -/
def execVaux33Change (present : Bool) (s : State) : Host.Outcome State Fault Refusal :=
  let s := { s with power := { s.power with vaux := present } }
  if timeRuns s then done s else done (wrBit (clearTbs (loseTime s)) Reg.glbResetCause [] 4 false)

/-- RESET_N_ASSERT: RESET_N is low for at least 10 µs. -/
def execResetNAssert (s : State) : Host.Outcome State Fault Refusal :=
  let s := { s with power := { s.power with resetLow := true } }
  if !s.power.pwrgd then done s
  else
    let t := resetDevice s 1
    done { t with power := { t.power with inReset := true } }

/-- THERMAL_SHUTDOWN: the die reaches 120 °C. -/
def execThermalShutdown (s : State) : Host.Outcome State Fault Refusal :=
  if s.power.hot || !s.power.vin then done { s with power := { s.power with hot := true } }
  else done (losePower { s with power := { s.power with hot := true } })

/-- THERMAL_RECOVER: the die has cooled below 100 °C. -/
def execThermalRecover (s : State) : Host.Outcome State Fault Refusal :=
  done { s with power := { s.power with hot := false } }

/-! ### Fatal conditions (R428, R459, R469, R482, R518) -/

/-- An event of the update unit (IMG_UPD_EVT). -/
def updEvent (s : State) (kind dev : Nat) : State :=
  putWord (countEvent s Reg.imgUpdEvtCnt []) Reg.imgUpdEvtLast [] (BitVec.ofNat 32 (kind * 65536 + dev % 128))

def bankOfImg (s : State) (b : Nat) : Bank := s.img.banks.getD b Bank.blank

def putBank (s : State) (b : Nat) (x : Bank) : State := { s with img := { s.img with banks := s.img.banks.set b x } }

/-- A TRIAL bank that failed: it is INVALID, and the other bank is named. -/
def failTrial (s : State) (b : Nat) : State :=
  if (bankOfImg s b).state = 3 then
    let s := putBank s b { bankOfImg s b with state := 1, ver := 0 }
    updEvent { s with img := { s.img with named := 1 - b } } 4 (ownDevice s)
  else s

/-- Ticks of 600 s and of 60 s. -/
def fatalWindow : Nat := 480000000000
def expiryWindow : Nat := 48000000000

/-- A fatal condition: the recorder freezes, an ACTIVE unit sends FAIL, and MC0 resets the device with cause FATAL. -/
def fatal (s : State) : State :=
  let s := fatalFreeze s
  let s := if role s = 1 then failActive s else s
  let was := s.img.running
  let near := s.power.fatals.filter fun t => decide (s.time.dt - t ≤ fatalWindow)
  let s := { s with power := { s.power with fatals := s.time.dt :: near }, img := { s.img with crash := s.time.dt :: s.img.crash } }
  let s := resetDevice s 3
  match was with
  | none => s
  | some b => failTrial s b

/-- FATAL_CONDITION. -/
def execFatalCondition (el : Nat) (s : State) : Host.Outcome State Fault Refusal :=
  let s := advance el s
  if s.power.pwrgd && !s.power.inReset then done (fatal s) else done s

/-- A write of GLB_RESET_CMD: GO resets the device where KEY holds 0xA55A from an earlier write, and clears KEY. -/
def resetCmdWrite (s : State) (req : Requester) (data : Word) : State :=
  if flag data 31 then
    if rd s Reg.glbResetCmd [] 15 0 = 0xA55A then resetDevice s 2 else wrBoth s Reg.glbResetCmd [] 15 0 0
  else stage s req Reg.glbResetCmd [] 0xFFFFFFFF data

/-! ### Boot (R464 to R470) -/

/-- The device fails in stage `n` with a code. -/
def failStage (s : State) (n code : Nat) : State :=
  putWord (wrBit s Reg.glbReady [] 31 true) Reg.glbReadyFail [] (BitVec.ofNat 32 (n * 2 ^ 28 + code))

/-- A stage has failed, or the device has halted. -/
def halted (s : State) : Bool := rdBit s Reg.glbReady [] 31

/-- RECOVERY, with its code (R470). -/
def enterRecovery (s : State) (code : Nat) : State :=
  let s := wrBit (failStage s 2 code) Reg.glbReady [] 30 true
  wr { s with power := { s.power with trying := none } } Reg.glbBootStat [] 30 29 3

/-- FATAL resets within the 600 s that end now (R469). -/
def fatalCount (s : State) : Nat := (s.power.fatals.filter fun t => decide (s.time.dt - t ≤ fatalWindow)).length

/-- The banks that BOOT_SEL tries, in order (Table 16-3, R469). -/
def bankOrder (s : State) : List Nat :=
  match rd s Reg.glbStrap [] 1 0 with
  | 0 => if 3 ≤ fatalCount s then [1 - s.img.named, s.img.named] else [s.img.named, 1 - s.img.named]
  | 1 => [0]
  | 2 => [1]
  | _ => []

/-- The next bank is tried; without one the device is in RECOVERY, or waits for the host. -/
def tryNext (s : State) : State :=
  match (bankOrder s).find? fun b => !s.power.failed.contains b with
  | some b => { s with power := { s.power with trying := some b, tryAt := s.time.dt } }
  | none => enterRecovery s 3

/-- Bank `b` fails with a code of Table 16-4. -/
def failBank (s : State) (b code : Nat) : State :=
  let s := wr s Reg.glbBootStat [] (8 * b + 15) (8 * b + 8) code
  let s := failTrial { s with power := { s.power with failed := s.power.failed ++ [b], trying := none } } b
  tryNext s

/-- GLB_STAGE_MS of stage `n` at its completion. -/
def stageMs (s : State) : Nat := min 0xFFFFFF ((s.time.dt - s.power.origin) / 800000)

/-- REACHED: the highest stage that has completed with every one below it (R472). -/
def reachedStage (s : State) : Nat :=
  ((List.range 12).filter fun n => (List.range (n + 1)).all (stageDone s)).getLastD 15

/-- Stage `n` completes, and MC0 posts its notice once its firmware is loaded. -/
def markStage (s : State) (n : Nat) (timedOut na : Bool) : State :=
  let s := wrBit s Reg.glbReady [] n true
  let s := if timedOut then wrBit s Reg.glbReadyInfo [] (16 + n) true else s
  let s := if na then wrBit s Reg.glbReadyInfo [] n true else s
  let s := { s with power := { s.power with stageAt := put s.power.stageAt n s.time.dt } }
  let s := wr (putWord s Reg.glbStageMs [n] (BitVec.ofNat 32 (stageMs s))) Reg.glbReady [] 27 24 (reachedStage s)
  if n < 2 then s else emit s (.stageNotice n)

/-- RESET_EXIT: RESET_N is high, and 1 ms has passed since PWRGD rose. The straps are sampled; after a reset other than POR stage
0 completes here. -/
def execResetExit (exit : LeaveReset) (s : State) : Host.Outcome State Fault Refusal :=
  let s := advance exit.el s
  let straps := exit.straps
  if s.power.pwrgd && s.power.inReset && decide (s.power.pwrgdAt + msTicks 1 ≤ s.time.dt) then
    let s := startClocks { s with power := { s.power with inReset := false, resetLow := false } }
    let s := putWord s Reg.glbStrap [] (BitVec.ofNat 32 (bnat straps.testMode * 16 + bnat straps.twinId * 8 + straps.bootSel.toNat))
    if rd s Reg.glbResetCause [] 2 0 = 0 then done s
    else done (markStage { s with power := { s.power with origin := s.time.dt } } 0 false false)
  else done s

/-- BOOT_ROM_DONE: the ROM has checked its CRC and read the fuses. -/
def execBootRomDone (el : Nat) (romGood fusesGood : Bool) (s : State) : Host.Outcome State Fault Refusal :=
  let s := advance el s
  if s.power.inReset || !stageDone s 0 || stageDone s 1 || halted s then done s
  else if !romGood then done (failStage s 1 1)
  else if !fusesGood then done (failStage s 1 2)
  else
    let s := markStage s 1 false false
    let s := wr s Reg.glbBootStat [] 25 24 (min 3 (fatalCount s))
    if rdBit s Reg.glbStrap [] 4 then done (failStage s 2 7)
    else if rd s Reg.glbStrap [] 1 0 = 0 ∧ 4 ≤ fatalCount s then done (enterRecovery s 6)
    else done (tryNext s)

/-- A bundle that passed is loaded from bank `b`, or from DRAM (2), and stage 2 completes. -/
def loadBundle (s : State) (b : Nat) (x : Bundle) : State :=
  let s := wrBit (wr s Reg.glbBootStat [] 30 29 b) Reg.glbBootStat [] 31 (decide (b < 2) && s.power.failed != [])
  let s := { s with power := { s.power with trying := none },
                    img := { s.img with running := if b < 2 then some b else none, bundle := some x } }
  let s := putWord (putWord s Reg.imgBundleRun [] x.ver) Reg.glbReadyFail [] 0
  markStage (wrBit (wrBit s Reg.glbReady [] 31 false) Reg.glbReady [] 30 false) 2 false false

/-- The check of a bank: its bundle, or its code. -/
def checkBank (s : State) (b : Nat) (readError : Bool) : Except Nat Bundle :=
  if (bankOfImg s b).state = 0 then .error 0x21
  else if readError then .error 0x22
  else readBundle s.img.custKey s.img.floor (bankBytes (bankOfImg s b).bytes)

/-- BANK_CHECK_DONE. -/
def execBankCheckDone (el : Nat) (readError : Bool) (s : State) : Host.Outcome State Fault Refusal :=
  let s := advance el s
  match s.power.trying with
  | none => done s
  | some b =>
    match checkBank s b readError with
    | .error c => done (failBank s b c)
    | .ok x => done (loadBundle s b x)

/-- A bank has been tried for 2.0 s. -/
def bankTimeout (s : State) : State :=
  match s.power.trying with
  | none => s
  | some b => failBank s b 0x23

/-- BANK_TRY_TIMEOUT. -/
def execBankTryTimeout (el : Nat) (s : State) : Host.Outcome State Fault Refusal :=
  let s := advance el s
  done (if s.power.tryAt + msTicks 2000 ≤ s.time.dt then bankTimeout s else s)

/-! ### The structure image applied (R29, R43, R44, R377) -/

/-- The running image takes effect: its own registers, FEC choices, ring paths, and the strap's twin role. -/
def applyImage (s : State) (x : Image) : State :=
  let s := { s with image := x }
  let s := putWord (putWord s Reg.imgSiRun [] x.ver) Reg.imgSiLineage [] x.lineage
  let s := ((List.range 48).filter (isHPort s)).foldl (fun s n =>
    showFec (wrBoth s Reg.hpCfg [n] 10 8 ((highestFec (fecSet s n)).getD 0)) n) s
  let s := (List.range 4).foldl (fun s r =>
    if ringKind s r = 2 then
      wrBoth (wrBoth s Reg.strmPortCfg [40 + 2 * r] 9 8 0) Reg.strmPortCfg [41 + 2 * r] 9 8 1
    else s) s
  wrBit s Reg.twinStat [] 28 (!rdBit s Reg.glbStrap [] 3)

/-! ### Settings (R475) -/

/-- One stored or default setting written by MC1. -/
def settingWrite (s : State) (a : Nat) (w : Word) : State :=
  if 0x1000000 ≤ a then tableWrite s (.mc 1) a w
  else match rowAt a with
    | none => s
    | some (r, ix) =>
      if r.base = Reg.hpCfg.base then hpCfgWrite s (.mc 1) (ix.getD 0 0) w
      else if r.base = Reg.cpCfg.base then cpCfgWrite s (.mc 1) (ix.getD 0 0) w
      else if r.base = Reg.hpModCfg.base then modCfgWrite s (.mc 1) (ix.getD 0 0) w
      else stage s (.mc 1) r ix 0xFFFFFFFF w

/-- PORT_EN 1 on every populated front port, where the config store holds nothing. -/
def factoryDefaults (s : State) : State :=
  let s := ((List.range 48).filter (isHPort s)).foldl (fun s n =>
    hpCfgWrite s (.mc 1) n (stagedWord s Reg.hpCfg [n] ||| 1)) s
  ((List.range 32).filter (isCPort s)).foldl (fun s c => cpCfgWrite s (.mc 1) c (stagedWord s Reg.cpCfg [c] ||| 1)) s

/-- What the settings migrators do with a stored block: its entry of the update report, and the writes that are applied. -/
def migrateBlock (s : State) (b : Block) : (Nat × Nat × Nat × Nat) × List (Nat × Word) :=
  let v := match s.img.bundle with
    | none => 0
    | some x => x.ver.toNat
  let (action, fmt) := Config.migrate v b.id b.fmt
  ((b.id, b.fmt, fmt, action), if action % 4 ≤ 1 then b.writes else [])

/-- The config store applied, with everything that it writes in force. -/
def applySettings (s : State) : State :=
  let bs := s.img.config.map (migrateBlock s)
  let s := { s with img := { s.img with report := (bs.map Prod.fst).take 254 } }
  let s := if s.img.config = [] then factoryDefaults s
    else (bs.flatMap Prod.snd).foldl (fun s w => settingWrite s w.1 w.2) s
  let s := applyAtMs s fun _ => true
  let s := applyRoutes (applyWhere s fun _ => true)
  (keys s.sched.configWait).foldl applyQueue s

/-- The values of Table 15-6 and of the reason map, for what the config store left unset. -/
def puntDefaults (s : State) : State :=
  let stored (lo hi : Nat) : Bool := s.img.config.any fun b => b.writes.any fun w => decide (lo ≤ w.1 ∧ w.1 < hi)
  let entry (dest rate burst : Nat) : BitVec 128 := BitVec.ofNat 128 (2 ^ 127 + dest * 2 ^ 120 + rate * 2 ^ 100 + burst * 2 ^ 84)
  let rows := [entry 88 10000 256, entry 88 10000 256, entry 88 10000 256, entry 88 10000 256, entry 95 1000 32,
    entry 95 4000 128, entry 95 4000 128, entry 95 2000 64]
  let s := (List.range 8).foldl (fun s c =>
    if stored (0x9000000 + 16 * c) (0x9000010 + 16 * c) then s
    else { s with host := { s.host with punt := set 0 s.host.punt c (rows.getD c 0) } }) s
  [(0, 7), (2, 7), (14, 4), (16, 1)].foldl (fun s e =>
    if stored (0x9000100 + 4 * e.1) (0x9000104 + 4 * e.1) then s
    else { s with host := { s.host with reasons := set 0 s.host.reasons e.1 (BitVec.ofNat 32 (2 ^ 31 + e.2)) } }) s

/-! ### Readiness stages (R472 to R476) -/

/-- A lane lies in a ring pair with ENABLE set (R474). -/
def behindRing (s : State) (n : Nat) : Bool := decide (40 ≤ n ∧ n < 48) && ringEnabled s ((n - 40) / 2)

/-- A port or trunk group that has a lane in such a pair. -/
def portBehindRing (s : State) (p : Nat) : Bool :=
  match portGroup s p with
  | some g => (groupLanes s g).any (behindRing s)
  | none => (List.range (modeLanes (laneMode s p))).any fun i => behindRing s (p + i) && decide (p < 48)

/-- The condition of stage `n` (Table 16-5), as far as the state shows it. -/
def stageMet (s : State) (n : Nat) : Bool :=
  match n with
  | 5 => s.power.charged
  | 6 => (List.range 80).all fun p => !portEn s p || linkUp s p || portBehindRing s p
  | 7 => ((List.range 16).all fun g => !groupOn s g || groupUp s g) &&
      (hierRole s != 2 || rd s Reg.izlHierStat [] 31 29 == 3)
  | 8 => role s != 0
  | 9 => (List.range 4).all fun t => tbSource s t == 0 || tbState s t == 2 ||
      portBehindRing s (rd s Reg.timeTbCfg [t] 22 16)
  | 10 => (List.range 4).all (pairSettled s)
  | _ => true

/-- Stages 10 and 11 as stage 9 or stage 10 lets them follow. -/
def followStages (s : State) : State :=
  let s := if (List.range 10).all (stageDone s) && !stageDone s 10 && !(List.range 4).any (autoPair s) then
    markStage s 10 false true else s
  if stageDone s 10 && !stageDone s 11 then puntDefaults (markStage s 11 false false) else nextTurn s

/-- The stages that begin when stage 4 completes and do not apply. -/
def beginStages (s : State) : State :=
  let s := if (List.range 16).any (groupOn s) then s else markStage s 7 false true
  let s := if twinOn s then s else markStage s 8 false true
  if (List.range 4).all fun t => tbSource s t == 0 then markStage s 9 false true else s

/-- MC0 draws the hash seeds from the random source of the IMG unit (R128, R159), and with them the seed of the generators of
R100 and R265; what it draws is free. -/
def drawSeeds (s : State) : State :=
  let w (k : Nat) : BitVec 64 := Config.freeWord (s.freeCtr + k)
  let put (s : State) (r : RegRow) (b k : Nat) : State := wrBoth s r [b] 31 0 (fld (w k) (32 * (b % 2) + 31) (32 * (b % 2)))
  let s := { s with seed := w 3, freeCtr := s.freeCtr + 4 }
  let s := (List.range 4).foldl (fun s b => put s Reg.fdbHashSeed b (b / 2)) s
  (List.range 2).foldl (fun s b => put s Reg.strmHashSeed b 2) s

/-- MEMORIES_INIT: seeds are drawn, settings are in force and the retained journal is in flash. -/
def initMemories (s : State) : State :=
  let s := drawSeeds s
  let s := { s with img := { s.img with flashJournal := s.img.flashJournal ++ s.power.retained },
                    power := { s.power with retained := [] } }
  beginStages (markStage (applySettings s) 4 false false)

/-- STRUCTURE_LOADED. -/
def loadStructure (s : State) : State :=
  match s.img.bundle with
  | none => s
  | some x => throughAll (markStage (applyImage s x.image) 3 false false)

/-- The lanes and ports that fail calibration, by logical port: which ones is free. -/
def failLanes (s : State) : State :=
  let w := freeWord s
  let v := Config.freeWord (s.freeCtr + 1)
  let bad := ((List.range 48).filter fun n => popBit s (n / 8) && w.getLsbD n) ++
    (((List.range 32).filter fun c => isCPort s c && v.getLsbD c).map fun c => 48 + c)
  let s := spend (spend s)
  { s with power := { s.power with idleLanes := bad } }

/-- Stage `n` runs: what it waits for has completed. -/
def stageRuns (s : State) (n : Nat) : Bool :=
  !stageDone s n && !halted s && !s.power.inReset &&
    (if n ≤ 4 then n != 0 && stageDone s (n - 1) else if n ≤ 9 then stageDone s 4 else (List.range n).all (stageDone s))

/-- Ticks that stage `n` may take from the instant from which its limit runs, and that instant (Table 16-5): the origin for
stages 1 to 4, and the completion of stage 4 for 5 to 9. -/
def stageLimit (s : State) (n : Nat) : Nat :=
  let m := get s.power.origin s.power.stageAt 4
  let wait (hi lo : Nat) : Nat := 1000 * max 1 (rd s Reg.glbReadyCfg [] hi lo)
  let link := wait 31 24
  let past := 2000 * s.power.failed.length
  match n with
  | 1 => s.power.origin + msTicks 100
  | 2 => s.power.origin + msTicks (2100 + past)
  | 3 => s.power.origin + msTicks (1200 + past)
  | 4 => s.power.origin + msTicks (1600 + past)
  | 5 => m + msTicks 1500
  | 6 => m + msTicks link
  | 7 => m + msTicks (link + wait 23 16)
  | 8 => m + msTicks 3000
  | _ => m + msTicks (wait 15 8)

/-- Stage `n`, from 5 to 10, completes. -/
def endStage (s : State) (n : Nat) (timedOut : Bool) : State := followStages (markStage s n timedOut false)

/-- STAGE_COMPLETE. Stages 0 to 2 complete by commands of their own, and stage 11 with stage 10. -/
def execStageComplete (n : Fin 12) (el : Nat) (failed : Bool) (s : State) : Host.Outcome State Fault Refusal :=
  let s := advance el s
  if !stageRuns s n then done s
  else match n.val with
    | 3 => done (if failed then fatal (failStage s 3 4) else loadStructure s)
    | 4 => done (if failed then fatal (failStage s 4 5) else initMemories s)
    | 5 => done (if s.power.charged then endStage (if failed then failLanes s else s) 5 failed else s)
    | 6 => done (if stageMet s 6 then endStage s 6 false else s)
    | 7 => done (if stageMet s 7 then endStage s 7 false else s)
    | 8 => done (if stageMet s 8 then endStage s 8 false else s)
    | 9 => done (if stageMet s 9 then endStage s 9 false else s)
    | 10 => done (if stageMet s 10 then endStage s 10 (rdBit s Reg.glbReadyInfo [] 26) else s)
    | _ => done s

/-- STAGE_LIMIT_EXPIRY. The code of a ROM that never ends is one of two, and free. -/
def execStageLimitExpiry (n : Fin 12) (el : Nat) (s : State) : Host.Outcome State Fault Refusal :=
  let s := advance el s
  if !stageRuns s n || decide (s.time.dt < stageLimit s n) then done s
  else match n.val with
    | 1 => done (failStage (spend s) 1 (1 + fld (freeWord s) 0 0))
    | 2 => done (bankTimeout s)
    | 3 => done (fatal (failStage s 3 4))
    | 4 => done (fatal (failStage s 4 5))
    | 5 => done (endStage (failLanes s) 5 true)
    | 6 => done (endStage s 6 true)
    | 7 => done (endStage s 7 true)
    | 8 => done (endStage (if role s = 0 then setRole s 1 0 0 else s) 8 true)
    | 9 => done (endStage s 9 true)
    | _ => done s

/-! ### Watchdogs (R456 to R459) -/

/-- A core restarts: it counts, and MC0 posts a notice. -/
def noteRestart (s : State) (core cause : Nat) : State :=
  let s := countEvent s Reg.glbMcRestartCnt []
  emit (putWord s Reg.glbMcRestartLast [] (BitVec.ofNat 32 (cause * 16 + core))) (.notice core)

/-- The watchdog of core `k` expires. -/
def expire (s : State) (k : Nat) : State :=
  let l := s.time.dt :: (get [] s.power.expiries k).filter fun t => decide (s.time.dt - t ≤ expiryWindow)
  let s := { s with power := { s.power with expiries := set [] s.power.expiries k l,
                                            coresDown := s.power.coresDown ||| BitVec.ofNat 4 (2 ^ k) } }
  let s := noteRestart s k 0
  if 3 ≤ l.length then fatal s else s

/-- Core `k` runs its firmware, which stage 2 loads. -/
def coreRuns (s : State) (k : Nat) : Bool := stageDone s 2 && !s.power.inReset && !coreDown s k

/-- WATCHDOG_EXPIRY: the watchdog of MC1, MC2 or MC3. -/
def execWatchdogExpiry (core : Fin 3) (el : Nat) (s : State) : Host.Outcome State Fault Refusal :=
  let s := advance el s
  done (if coreRuns s (core + 1) then expire s (core + 1) else s)

/-- MC0_WATCHDOG_EXPIRY: the ring pairs close, to be opened again one by one. -/
def execMc0WatchdogExpiry (el : Nat) (s : State) : Host.Outcome State Fault Refusal :=
  let s := advance el s
  if !coreRuns s 0 then done s
  else
    let open_ := (List.range 4).filter fun r => ringState s r == 2
    let s := closeAll s
    done (expire { s with twin := { s.twin with reopen := open_ } } 0)

end Sys2Proof.Machine
end

