-- ==== Sys2Proof/Machine/Images.lean ====
section
/-! DEFINITION. Staging, routes and activation of bundles, fuses and confirmation (chapter 17), and the replacement of
regions (R49 to R53). -/
namespace Sys2Proof.Machine

/-! ### The staging lock (R484, R485) -/

/-- STATE of IMG_STAGE_STAT: 0 IDLE, 1 RECEIVING, 2 STAGED, 3 VERIFIED; and KIND: 0 bundle, 1 partial container. -/
def stageState (s : State) : Nat := rd s Reg.imgStageStat [] 31 29
def stageKind (s : State) : Nat := rd s Reg.imgStageStat [] 26 26
def setStage (s : State) (v : Nat) : State := wr s Reg.imgStageStat [] 31 29 v

/-- STATE of IMG_SI_REPL_STAT (Table 2-11). -/
def replState (s : State) : Nat := rd s Reg.imgSiReplStat [] 3 0

/-- A replacement runs: it is VERIFIED or ARMED (R53). -/
def replBusy (s : State) : Bool := replState s == 2 || replState s == 3

/-- The device has loaded no bundle and accepts one from the host (R470). -/
def recovering (s : State) : Bool := !stageDone s 2

/-- The bank that staging writes: the one that is not running. In RECOVERY it is the bank that failed first, and none
under HOST; where nothing of either bank runs or failed, it is the one that is not named. -/
def targetBank (s : State) : Option Nat :=
  if recovering s && rd s Reg.glbStrap [] 1 0 == 3 then none
  else match s.img.running with
    | some b => some (1 - b)
    | none => some ((if recovering s then s.power.failed.head? else none).getD (1 - s.img.named))

/-- The running bank is TRIAL. -/
def onTrial (s : State) : Bool := s.img.running.any fun b => (bankOfImg s b).state == 3

/-- IMG_UPD_AUTH names the source, or needs not to (R470, R484). -/
def mayStage (s : State) (src : StageSrc) : Bool :=
  let auth := rd s Reg.imgUpdAuth [] 1 0
  let manager := auth == 3 || auth == 2 || (auth == 0 && hierRole s == 2)
  match src with
  | .twinPeer => true
  | .host => recovering s || auth == 3 || !manager
  | .manager _ _ => manager

/-- SOURCE, DEVICE and UNIT_ID of a holder. -/
def holderId (s : State) (src : StageSrc) : Nat × Nat × BitVec 64 :=
  match src with
  | .host => (1, ownDevice s % 128, unitIdNow s)
  | .manager d u => (2, d % 128, u)
  | .twinPeer => (3, ownDevice s % 128, (s.twin.peer.map (·.unitId)).getD 0)

/-- The lock is taken. -/
def takeLock (s : State) (src : StageSrc) (kind : Nat) : State :=
  let (n, d, u) := holderId s src
  let s := { s with img := { s.img with staging := { Staging.free with holder := some src, lastAt := s.time.dt } } }
  let s := putWord s Reg.imgStageHolder [] (BitVec.ofNat 32 (n * 2 ^ 30 + d))
  let s := putWord (putWord s Reg.imgStageUidLo [] (BitVec.ofNat 32 u.toNat)) Reg.imgStageUidHi [] (BitVec.ofNat 32 (u.toNat / 2 ^ 32))
  putWord s Reg.imgStageStat [] (BitVec.ofNat 32 (2 ^ 29 + kind * 2 ^ 26))

/-- CLAIM, with its RESULT. -/
def claim (s : State) (src : StageSrc) (kind : Nat) : State × Nat :=
  if s.img.staging.holder.isSome then (countEvent s Reg.imgBusyCnt [], 1)
  else if !mayStage s src then (s, 2)
  else if kind = 0 ∧ onTrial s = true then (s, 5)
  else (takeLock s src kind, 0)

/-! ### WRITE and END (R483, R486) -/

/-- The offset and the length of a WRITE lie in their ranges. -/
def stageRange (ofs len : Nat) : Bool :=
  decide (ofs % 64 = 0 ∧ len % 64 = 0 ∧ 64 ≤ len ∧ len ≤ 1048576 ∧ ofs + len ≤ 268435456)

/-- The first WRITE of a bundle makes its bank INVALID. -/
def spoilBank (s : State) : State :=
  if stageKind s = 0 ∧ s.img.staging.top = 0 ∧ recovering s = false then
    match targetBank s with
    | some b =>
      let s := putBank s b { state := 1, bytes := [], ver := 0 }
      { s with img := { s.img with committed := none } }
    | none => s
  else s

/-- Bytes land in staging, and those of a bundle in its bank too. -/
def landStage (s : State) (ofs : Nat) (data : List Byte) : State :=
  let s := spoilBank s
  let x := s.img.staging
  let s := { s with img := { s.img with staging := { x with bytes := Memory.writeList x.bytes ofs data,
                                                            top := max x.top (ofs + data.length) } } }
  if stageKind s = 0 ∧ recovering s = false then
    match targetBank s with
    | some b => putBank s b { bankOfImg s b with bytes := Memory.writeList (bankOfImg s b).bytes ofs data }
    | none => s
  else s

/-- The holder's operation restarts the 600 s. -/
def touchLock (s : State) : State := { s with img := { s.img with staging := { s.img.staging with lastAt := s.time.dt } } }

/-- A WRITE by the host begins its copy at OFS with LEN; one by another source carries what follows the highest byte. -/
def beginCopy (s : State) (src : StageSrc) : State × Nat :=
  let ofs := (word s Reg.imgStageOfs []).toNat
  let len := (word s Reg.imgStageLen []).toNat
  if stageState s ≠ 1 then (s, 4)
  else if src = .host then
    if stageRange ofs len then
      (wrBit { s with img := { s.img with staging := { s.img.staging with copying := some (ofs, len) } } } Reg.imgStageCmd [] 30 true, 0)
    else (s, 6)
  else ({ s with img := { s.img with staging := { s.img.staging with copying := some (s.img.staging.top, 0) } } }, 0)

/-- END. A partial container that is staged makes its replacement STAGED (Table 2-11). -/
def endStaged (s : State) : State × Nat :=
  if stageState s ≠ 1 then (s, 4)
  else
    let s := setStage s 2
    (if stageKind s = 1 ∧ replBusy s = false then wr s Reg.imgSiReplStat [] 3 0 1 else s, 0)

/-! ### Routes (R487) -/

/-- Two images' regions of number `id` are equal. -/
def sameRegion (a b : Image) (id : Nat) : Bool :=
  (a.regions.find? (·.id == id)).map (·.digest) == (b.regions.find? (·.id == id)).map (·.digest)

/-- Regions in force and in the new image lie in the running HOTSET with equal LAYOUT_VER. -/
def hotRegion (run new : Image) (id : Nat) : Bool :=
  run.hotset.contains id &&
    (run.regions.find? (·.id == id)).map (·.layoutVer) == (new.regions.find? (·.id == id)).map (·.layoutVer)

/-- LINEAGE and the LANE, BIND, POP and RING regions are the running ones. -/
def sameShape (run new : Image) : Bool := run.lineage == new.lineage && [1, 2, 3, 0x40].all (sameRegion run new)

/-- The regions of a new image that differ from the running ones. -/
def changedRegions (run new : Image) : List Nat :=
  ((run.regions ++ new.regions).map (·.id)).eraseDups.filter fun id => !sameRegion run new id

/-- The first route of Table 17-3 whose conditions hold. -/
def routeOf (s : State) (x : Bundle) : Nat :=
  match s.img.bundle with
  | none => 3
  | some r =>
    let hot := sameShape s.image x.image && (changedRegions s.image x.image).all (hotRegion s.image x.image) &&
      x.accOut == r.accOut && decide (x.ckpt.2 ≤ r.ckpt.1 ∧ r.ckpt.1 ≤ x.ckpt.1) && (x.microcode == r.microcode || x.microHitless)
    let classes := (r.classVer.zip x.classVer).all fun p => decide (p.2.2 ≤ p.1.1 ∧ p.1.1 ≤ p.2.1)
    if hot then 1
    else if role s == 1 && paired s && sameShape s.image x.image && classes then 2
    else 3

/-! ### Region replacement (R49 to R53) -/

/-- A partial container checked by R33 and R49: the full image that results and the regions it replaces, or a code. LIMIT, the
code of check 6 of R33 and of R49 alike, comes last (DESIGN CHOICE, log entry 142). -/
def readPartial (s : State) (b : List Byte) : Except Nat (Image × List Nat) :=
  match openContainer s.img.custKey imageLaid b with
  | .error c => .error c
  | .ok l =>
    let run := s.image
    if !bit (contFlags b) 0 then .error 1
    else if field b 0x24 4 ≠ run.lineage.toNat ∨ field b 0x28 4 ≠ run.ver.toNat then .error 9
    else if !l.all fun p => run.hotset.contains p.1.id then .error 7
    else if !l.all fun p => (run.regions.find? (·.id == p.1.id)).any fun r => r.layoutVer == p.1.layoutVer then .error 8
    else match withRegions run l with
      | none => .error 6
      | some x =>
        if imageLawful x then .ok ({ x with ver := BitVec.ofNat 32 (field b 0x20 4) }, l.map (·.1.id)) else .error 6

/-- What is staged. -/
def stagedBytes (s : State) : List Byte := Memory.readList s.img.staging.bytes 0 s.img.staging.top

/-- The checked result of a partial container: VERIFIED, or REFUSED with its code. -/
def replChecked (s : State) (r : Except Nat (Image × List Nat)) : State :=
  match r with
  | .error c => endRepl (wr s Reg.imgStageStat [] 23 16 c) 5 c
  | .ok (x, ids) =>
    let s := setStage (wr s Reg.imgSiReplStat [] 3 0 2) 3
    { s with img := { s.img with repl := { container := some x, replaced := ids, switchAt := none } } }

/-- The ACTIVE unit of a pair sends a container that it has VERIFIED to the STANDBY (R52). -/
def sendContainer (s : State) (b : List Byte) : State :=
  if replState s = 2 ∧ role s = 1 ∧ paired s = true then emitLine s (.twinContainer b) else s

/-- VERIFY of a replacement, from STAGED. -/
def replVerify (s : State) : State :=
  if replState s ≠ 1 then s
  else
    let b := stagedBytes s
    sendContainer (replChecked s (readPartial s b)) b

/-- A second replacement is refused with a code while the one in progress goes on (R53). -/
def refuseSecond (s : State) (c : Nat) : State := wr (countEvent s Reg.imgSiRefuseCnt []) Reg.imgSiReplStat [] 15 8 c

/-- A replacement is ARMED to switch LEAD device cycles from now. -/
def armRepl (s : State) : State :=
  let s := wr s Reg.imgSiReplStat [] 3 0 3
  let at_ := (cycleCount s + rd s Reg.imgSiReplLead [] 9 0) % 2 ^ 31
  { s with img := { s.img with repl := { s.img.repl with switchAt := some at_ } } }

/-- A write of IMG_SI_REPL_CTRL; of several bits the lowest is performed first. -/
def replCtrlWrite (s : State) (data : Word) : State :=
  let s := if flag data 0 then replVerify s else s
  let s := if flag data 1 && replState s == 2 then armRepl s else s
  let s := if flag data 2 && (replState s == 2 || replState s == 3) then endRepl s 6 0 else s
  if flag data 3 && (replState s == 4 || replState s == 5 || replState s == 6) then wr s Reg.imgSiReplStat [] 3 0 0 else s

/-- Queue `q` is idle for R51: nothing waits in it, and no stream, job, VOQ or placement binding names it. -/
def queueIdle (s : State) (q : Nat) : Bool :=
  let u := queueUse s q
  (queue s q).copies == [] && (boundStream s q).isNone && !subNames s q &&
    (s.acc.jobs.all fun e => e.2.move.all fun m => m.queues.all fun x => x.2 != q) &&
    (u != 3 || queuePort s q == 0x7F) && (u != 4 && u != 5 || (find s.sched.config q).isNone && (find s.sched.configWait q).isNone)

/-- Each queue whose use the new image changes is idle. -/
def queuesFree (s : State) (x : Image) : Bool :=
  (List.range 262144).all fun q => queueUse s q == queueUse { s with image := x } q || queueIdle s q

/-- The output function of ball GPIO[48 + k], its alternate or its owner's drive, is disabled. -/
def ballQuiet (s : State) (k : Nat) : Bool :=
  !(decide (k < 2) && rdBit s Reg.timePpsoutCfg [2 + k] 31) && !(decide (2 ≤ k ∧ k < 4) && rdBit s Reg.timeWclkCfg [k] 31) &&
    !(rd s Reg.maintBall [48 + k] 31 28 != 0 && rdBit s Reg.maintBall [48 + k] 1)

/-- Each ball whose claim the new image changes has its output function disabled. -/
def ballsFree (s : State) (x : Image) : Bool :=
  (List.range 16).all fun k => s.image.ball.getD k 0 == x.ball.getD k 0 || ballQuiet s k

/-! ### Activation (R488 to R490, Table 17-4) -/

/-- STEP and ITEM of IMG_UPD_STAT. -/
def updStep (s : State) : Nat := rd s Reg.imgUpdStat [] 31 28
def setStep (s : State) (v item : Nat) : State := wr (wr s Reg.imgUpdStat [] 31 28 v) Reg.imgUpdStat [] 23 16 item

def putActivation (s : State) (a : Option Activation) : State := { s with img := { s.img with activation := a } }

/-- The activation is over, done (8) or abandoned (9). -/
def endActivation (s : State) (v kind : Nat) : State := updEvent (putActivation (setStep s v 0) none) kind (ownDevice s)

/-- Step 5: the bank that was committed runs, and UPDATE_REPORT is written. -/
def finishHitless (s : State) : State :=
  match s.img.committed with
  | none => s
  | some x =>
    let b := (targetBank s).getD 0
    let img := { s.image with ver := x.image.ver, regions := x.image.regions }
    let s := { s with image := img, img := { s.img with bundle := some x, running := some b, committed := none } }
    let s := putWord (putWord s Reg.imgBundleRun [] x.ver) Reg.imgSiRun [] x.image.ver
    let s := { s with img := { s.img with report := ((s.img.config.map fun c => (migrateBlock s c).1)).take 254 } }
    endActivation s 8 1

/-- Step 3: the changed HOTSET regions are replaced, LEAD cycles after ARM. -/
def replaceChanged (s : State) (x : Bundle) : State :=
  let l := changedRegions s.image x.image
  if l = [] then finishHitless s
  else
    let s := setStep s 3 0
    armRepl { s with img := { s.img with repl := { container := some x.image, replaced := l, switchAt := none } } }

/-- A replacement in progress refuses step 3 of a hitless activation with IN_PROGRESS (R53). -/
def stepBarred (s : State) (x : Bundle) : Bool := replBusy s && changedRegions s.image x.image != []

/-- A core stops to take up new firmware from its checkpoint. -/
def stopCore (s : State) (c : Nat) : State :=
  setStep { s with power := { s.power with coresDown := s.power.coresDown ||| BitVec.ofNat 4 (2 ^ c) } } 2 c

/-- Placement is to move every job off engine `e`. -/
def drainEngine (s : State) (e step : Nat) : State :=
  let l := (jobsOn s e).map fun j => (false, j)
  setStep { s with place := { s.place with displaced := s.place.displaced.filter (fun x => !l.contains x) ++ l } } step e

/-- The reversal's next item: cores, then engines, each the last done first; then the activation is ABANDONED. -/
def nextRevert (s : State) (a : Activation) : State :=
  let a := { a with since := s.time.dt }
  let s := putActivation s (some a)
  match a.cores with
  | c :: _ => setStep (stopCore s c) 10 c
  | [] =>
    match a.engines ++ a.doneEngines with
    | e :: es => drainEngine (putActivation s (some { a with engines := e :: es, doneEngines := [] })) e 10
    | [] => endActivation s 9 2

/-- A step fails with a code of R489: completed items revert, and the old bank is named. -/
def abandon (s : State) (a : Activation) (code : Nat) (failed : List Nat) : State :=
  let s := wr s Reg.imgUpdStat [] 15 8 code
  let s := { s with img := { s.img with named := s.img.running.getD s.img.named } }
  nextRevert s { a with mode := 3, engines := [], cores := failed ++ a.doneCores, doneCores := [] }

/-- The next item of a hitless activation. -/
def nextItem (s : State) (a : Activation) : State :=
  let a := { a with since := s.time.dt }
  let s := putActivation s (some a)
  match a.engines with
  | e :: _ => if placeMode s 0 = 0 then abandon s a 1 [] else drainEngine s e 1
  | [] =>
    match a.cores with
    | c :: _ => stopCore s c
    | [] =>
      match s.img.committed with
      | none => abandon s a 3 []
      | some x => if stepBarred s x then abandon (refuseSecond s 0x0A) a 3 [] else replaceChanged s x

/-- ENGINE_DRAINED. -/
def execEngineDrained (e : Fin 64) (s : State) : Host.Outcome State Fault Refusal :=
  match s.img.activation with
  | none => done s
  | some a =>
    if a.engines.head? ≠ some e.val ∨ jobsOn s e ≠ [] then done s
    else if a.mode = 3 then done (nextRevert s { a with engines := a.engines.drop 1 })
    else done (nextItem s { a with engines := a.engines.drop 1, doneEngines := e :: a.doneEngines })

/-- The engine being updated has had ENGINE_WAIT to drain (Table 17-4). -/
def drainPast (s : State) (a : Activation) : Bool := decide (a.since + msTicks (1000 * rd s Reg.imgUpdCfg [] 15 0) ≤ s.time.dt)

/-- DRAIN_TIMEOUT: an activation is abandoned; a reversal goes on waiting. -/
def execDrainTimeout (e : Fin 64) (s : State) : Host.Outcome State Fault Refusal :=
  match s.img.activation with
  | none => done s
  | some a => done (if a.engines.head? = some e.val ∧ a.mode = 0 ∧ drainPast s a = true then abandon s a 1 [] else s)

/-- A replacement is refused at its switch boundary. -/
def refuseSwitch (s : State) (c : Nat) : State :=
  match s.img.activation with
  | some a => if updStep s = 3 then abandon (endRepl s 5 c) a 3 [] else endRepl s 5 c
  | none => endRepl s 5 c

/-- All regions of a replacement switch together. -/
def switchRegions (s : State) (x : Image) : State :=
  let s := { s with image := x }
  let s := clearRepl (putWord s Reg.imgSiRun [] x.ver) 4
  if updStep s = 3 then finishHitless s else s

/-- The switch boundary of an ARMED replacement is here; a STANDBY takes the ACTIVE unit's. -/
def switchDue (s : State) : Bool :=
  replState s == 3 && s.img.repl.switchAt.all fun c => decide ((cycleCount s + 2 ^ 31 - c) % 2 ^ 31 < 2 ^ 30)

/-- REPL_SWITCH. Whether the other unit of a pair has confirmed is free. -/
def execReplSwitch (s : State) : Host.Outcome State Fault Refusal :=
  match s.img.repl.container with
  | none => done s
  | some x =>
    if !switchDue s then done s
    else if !queuesFree s x then done (refuseSwitch s 0x0B)
    else if !ballsFree s x then done (refuseSwitch s 0x0C)
    else if paired s then
      if fld (freeWord s) 0 0 = 1 then done (switchRegions (spend s) x) else done (refuseSwitch (spend s) 0x0D)
    else done (switchRegions s x)

/-- The STANDBY's check of the ACTIVE unit's container, which is staged: ARMED, or REFUSED with TWIN_REFUSED (R52). -/
def standbyCheck (s : State) : State :=
  match readPartial s (stagedBytes s) with
  | .error _ => endRepl s 5 0x0D
  | .ok r => wr (replChecked s (.ok r)) Reg.imgSiReplStat [] 3 0 3

/-- REPL_CONTAINER_TO_STANDBY: the STANDBY stages and checks the container under its own lock, waits for the boundary, and
answers its twin. One that it does not take is refused on both units with TWIN_REFUSED (R52); while one is in progress here,
with IN_PROGRESS (R53). -/
def execReplContainerToStandby (bytes : List Byte) (s : State) : Host.Outcome State Fault Refusal :=
  if role s ≠ 2 ∨ paired s = false ∨ offline s = true then done s
  else if replBusy s then done (emit (refuseSecond s 0x0A) (.twinAnswer false))
  else
    let (s, r) := claim s .twinPeer 1
    if r ≠ 0 then
      let s := refuseSecond s 0x0D
      done (emit (if replState s = 1 then s else wr s Reg.imgSiReplStat [] 3 0 5) (.twinAnswer false))
    else
      let s := standbyCheck (endStaged (landStage s 0 bytes)).1
      done (emit s (.twinAnswer (replState s == 3)))

/-! ### VERIFY, COMMIT and ABORT (R470, R478, R482, R485) -/

/-- A bundle passes VERIFY: its bank is VALID; in RECOVERY the device boots it. -/
def bundlePasses (s : State) (x : Bundle) : State :=
  let bank : Bank := { state := 2, bytes := s.img.staging.bytes, ver := x.ver }
  if recovering s then
    match targetBank s with
    | none => loadBundle (endStaging s) 2 x
    | some b => resetDevice (putBank s b bank) 2
  else
    let s := match targetBank s with
      | none => s
      | some b => putBank s b bank
    let s := setStage (wr (wr s Reg.imgStageStat [] 28 27 (routeOf s x)) Reg.imgStageStat [] 23 16 0) 3
    { s with img := { s.img with staging := { s.img.staging with bundle := some x } } }

/-- VERIFY, with its RESULT. -/
def stageVerify (s : State) : State × Nat :=
  if stageState s ≠ 2 then (s, 4)
  else if stageKind s = 1 then
    if replBusy s then (wr (refuseSecond s 0x0A) Reg.imgStageStat [] 23 16 0x0A, 8)
    else
      let s := replVerify (wr s Reg.imgSiReplStat [] 3 0 1)
      (s, if replState s = 2 then 0 else 8)
  else match readBundle s.img.custKey s.img.floor (stagedBytes s) with
    | .error c => (wr s Reg.imgStageStat [] 23 16 c, 8)
    | .ok x => (bundlePasses s x, 0)

/-- COMMIT, with its RESULT. -/
def stageCommit (s : State) : State × Nat :=
  match s.img.staging.bundle, targetBank s with
  | some x, some b =>
    if stageState s = 3 ∧ stageKind s = 0 then
      let s := putBank s b { bankOfImg s b with state := 3 }
      (endStaging { s with img := { s.img with named := b, committed := some x } }, 0)
    else (s, 4)
  | _, _ => (s, 4)

/-- The lock ends without a commit: a replacement that was staged is ABORTED. -/
def dropLock (s : State) : State :=
  if stageKind s = 1 ∧ 1 ≤ replState s ∧ replState s ≤ 3 then endRepl s 6 0 else endStaging s

/-- A unit restarts into the bundle that it has committed. -/
def restartInto (s : State) : State :=
  resetDevice (match targetBank s with
    | some b => if (bankOfImg s b).state = 3 then { s with img := { s.img with named := b } } else s
    | none => s) 2

/-- A STANDBY that has committed the ACTIVE unit's bundle restarts on it (R490). -/
def commitBy (s : State) (src : StageSrc) : State × Nat :=
  let (s, r) := stageCommit s
  (if r = 0 ∧ src = .twinPeer ∧ role s = 2 then restartInto s else s, r)

/-- One operation of IMG_STAGE_CMD by a source: 0 CLAIM, 1 WRITE, 2 END, 4 COMMIT, 5 ABORT, others VERIFY. -/
def stageOp (s : State) (src : StageSrc) (op kind : Nat) : State × Nat :=
  if op = 0 then claim s src kind
  else if s.img.staging.holder ≠ some src then (s, 3)
  else
    let s := touchLock s
    match op with
    | 1 => beginCopy s src
    | 2 => endStaged s
    | 4 => commitBy s src
    | 5 => (dropLock s, 0)
    | _ => stageVerify s

/-- The host's operation, with its RESULT; ignored while BUSY is 1. -/
def hostStage (s : State) (op kind : Nat) : State :=
  if rdBit s Reg.imgStageCmd [] 30 then s
  else
    let (s, r) := stageOp s .host op kind
    wr s Reg.imgStageCmd [] 19 16 r

/-- A write of IMG_STAGE_CMD. -/
def stageCmdWrite (s : State) (req : Requester) (data : Word) : State :=
  let s := stage s req Reg.imgStageCmd [] 0xFFFFFFFF data
  if flag data 31 then hostStage s (fld data 29 27) (fld data 26 26) else s

/-- STAGE_WRITE_DONE: what was read lands, or the copy ends in DMA_ERR. -/
def execStageWriteDone (data : List Byte) (error : Bool) (s : State) : Host.Outcome State Fault Refusal :=
  match s.img.staging.copying with
  | none => done s
  | some (ofs, len) =>
    let byHost := s.img.staging.holder == some .host
    let x := { s.img.staging with copying := none, lastAt := s.time.dt }
    let s := wrBit { s with img := { s.img with staging := x } } Reg.imgStageCmd [] 30 false
    let result (s : State) (r : Nat) : State := if byHost then wr s Reg.imgStageCmd [] 19 16 r else s
    if error then done (result s 7)
    else
      let data := if byHost then padTo len (data.take len) else data
      if stageRange ofs data.length then done (result (landStage (if byHost then record s 3 0 65 data else s) ofs data) 0)
      else done (result s 6)

/-- Seconds before the lock lapses (IDLE_LEFT). -/
def idleLeft (s : State) : Nat :=
  if s.img.staging.holder.isSome then 600 - (s.time.dt - s.img.staging.lastAt) / 800000000 else 0

/-- STAGING_LOCK_TIMEOUT. An ARMED replacement is not left by it (Table 2-11). -/
def execStagingLockTimeout (s : State) : Host.Outcome State Fault Refusal :=
  let past := decide (s.img.staging.lastAt + msTicks 600000 ≤ s.time.dt)
  done (if s.img.staging.holder.isSome && past && !(stageKind s == 1 && replState s == 3) then dropLock s else s)

/-! ### Update commands (R480 to R482, R487 to R490) -/

/-- The route of the committed bundle. -/
def committedRoute (s : State) (x : Bundle) : Nat :=
  let r := rd s Reg.imgStageStat [] 28 27
  if r = 0 then routeOf s x else r

/-- The populated engines, in ascending order. -/
def engines (s : State) : List Nat := (List.range 64).filter (enginePopulated s)

/-- An activation's checks: RESULT, 0 where it may start. -/
def mayActivate (s : State) (route : Nat) : Nat :=
  if s.img.activation.isSome then 1
  else match s.img.committed with
    | none => 3
    | some x => if route < committedRoute s x then 2 else 0

/-- The steps of a hitless activation begin on this unit. -/
def beginHitless (s : State) : State :=
  nextItem s { mode := 0, engines := engines s, cores := [2, 3, 1, 0], doneEngines := [], doneCores := [], away := false, since := s.time.dt }

/-- ACTIVATE_HITLESS. The ACTIVE unit of a pair waits, in PEER_UPDATE, for the STANDBY to run its steps (R488). -/
def activateHitless (s : State) : State × Nat :=
  let r := mayActivate s 1
  if r ≠ 0 then (s, r)
  else
    let s := wr s Reg.imgUpdStat [] 15 8 0
    let a : Activation := { mode := 2, engines := [], cores := [], doneEngines := [], doneCores := [], away := false, since := s.time.dt }
    (if role s = 1 ∧ paired s = true then setStep (putActivation s (some a)) 4 0 else beginHitless s, 0)

/-- ACTIVATE_TWIN: the ACTIVE unit sends the bundle to the STANDBY and begins; a unit that no longer is ACTIVE resumes by restarting on its own bundle. -/
def activateTwin (s : State) : State × Nat :=
  let r := mayActivate s 2
  if r ≠ 0 then (s, r)
  else if role s = 2 ∨ role s = 3 then (restartInto s, 0)
  else
    let s := setStep (wr s Reg.imgUpdStat [] 15 8 0) 4 0
    let a : Activation := { mode := 1, engines := [], cores := [], doneEngines := [], doneCores := [], away := false, since := s.time.dt }
    let bytes := ((targetBank s).map fun b => bankBytes (bankOfImg s b).bytes).getD []
    (if paired s then putActivation (emitLine s (.twinContainer bytes)) (some a) else abandon s a 5 [], 0)

/-- ACTIVATE_RESTART. -/
def activateRestart (s : State) : State × Nat :=
  if s.img.activation.isSome then (s, 1)
  else if s.img.committed.isSome || (bankOfImg s s.img.named).state == 3 then (restartInto s, 0)
  else (s, 3)

/-- The running bank becomes VALID. -/
def confirmBank (s : State) : State :=
  match s.img.running with
  | none => s
  | some b =>
    if (bankOfImg s b).state = 3 then updEvent (putBank s b { bankOfImg s b with state := 2 }) 3 (ownDevice s) else s

/-- CONFIRM. -/
def confirm (s : State) : State × Nat := if onTrial s then (confirmBank s, 0) else (s, 3)

/-- RAISE_FLOOR. -/
def raiseFloor (s : State) : State × Nat :=
  match s.img.bundle with
  | none => (s, 3)
  | some x => if onTrial s || decide (x.svn ≤ s.img.floor) then (s, 3) else ({ s with img := { s.img with floor := x.svn } }, 0)

/-- PROGRAM_CUST_KEY: the 96 bytes at BAR4 offset 0x0200_0000. -/
def programKey (s : State) : State × Nat :=
  if s.img.custKey.isSome then (s, 3)
  else ({ s with img := { s.img with custKey := some (Memory.readList s.bar4 0x2000000 96) } }, 0)

/-- One operation of IMG_UPD_CMD, with its RESULT; codes 6 and 7 act as 3. -/
def updOp (s : State) (op : Nat) : State :=
  let (s, r) := match op with
    | 0 => activateHitless s
    | 1 => activateTwin s
    | 2 => activateRestart s
    | 4 => raiseFloor s
    | 5 => programKey s
    | _ => confirm s
  wr s Reg.imgUpdCmd [] 26 24 r

/-- A write of IMG_UPD_CMD. -/
def updCmdWrite (s : State) (req : Requester) (data : Word) : State :=
  let s := stage s req Reg.imgUpdCmd [] 0xFFFFFFFF data
  if flag data 31 then updOp s (fld data 29 27) else s

/-- TRIAL_HOLD_EXPIRY: SERVICE has stood for TRIAL_HOLD seconds. -/
def execTrialHoldExpiry (s : State) : Host.Outcome State Fault Refusal :=
  let past := decide (get 0 s.power.stageAt 11 + msTicks (1000 * rd s Reg.imgUpdCfg [] 31 16) ≤ s.time.dt)
  done (if stageDone s 11 && past then confirmBank s else s)

/-- The ACTIVE unit's wait for the STANDBY in a hitless activation: whether the STANDBY is done is free. -/
def awaitPeer (s : State) (a : Activation) : State :=
  if role s ≠ 1 ∨ paired s = false then abandon s a 5 []
  else if flag (freeWord s) 0 then beginHitless (spend s)
  else spend s

/-- An activation at a device-cycle boundary: a replacement of step 3 that was ended from outside, the wait for the STANDBY, and
the twin route. -/
def updCycle (s : State) : State :=
  match s.img.activation with
  | none => s
  | some a =>
    if updStep s = 3 ∧ replState s ≠ 3 then abandon s a 3 []
    else if a.mode = 2 then awaitPeer s a
    else if a.mode ≠ 1 then s
    else
      let reason := rd s Reg.twinRoleLast [] 19 16
      if role s ≠ 1 then
        if updStep s = 5 ∨ reason = 4 then restartInto (setStep s 7 0) else abandon s a 4 []
      else if updStep s = 5 then
        if s.twin.boundary.isNone then fixBoundary s false else s
      else if substate s = 4 then abandon s a 5 []
      else if s.twin.peer.isNone || s.twin.peerRole != 2 then putActivation s (some { a with away := true })
      else if a.away && paired s && rd s Reg.twinStat [] 10 0 == 0 then fixBoundary (setStep s 5 0) false
      else s

end Sys2Proof.Machine
end

