-- ==== Sys2Proof/Machine/Orders.lean ====
section
/-! DEFINITION. Leaves that arrive (R345 to R347, R350, R353 to R356), ORDER leaves (R494, Table 17-5), and the manager's updates
of its workers (R495). -/
namespace Sys2Proof.Machine

/-! ### Orders performed by a worker (R331, R494) -/

/-- An ORDER or its reply as a control leaf. -/
def orderLeaf (s : State) (d seq op result : Nat) (body : List Byte) : List Byte :=
  control 5 (ownDevice s) d (toBytes 4 seq ++ toBytes 1 op ++ toBytes 1 result ++ toBytes 2 body.length ++ body)

/-- The registers of FDB_CMD with key `k` and entry `e` in them. -/
def loadCmd (s : State) (k e : Nat) : State :=
  let s := putWord (putWord s Reg.fdbCmdKey0 [] (BitVec.ofNat 32 k)) Reg.fdbCmdKey1 [] (BitVec.ofNat 32 (k / 2 ^ 32))
  (List.range 4).foldl (fun s w => putWord s Reg.fdbCmdData [w] (BitVec.ofNat 32 (e / 2 ^ (32 * w)))) s

/-- An operation of FDB_CMD as an order performs it, which leaves the registers of FDB_CMD as they were; its RESULT. -/
def orderedCmd (s : State) (k e : Nat) (f : State → State) : State × Nat :=
  let t := f (loadCmd s k e)
  let back (t : State) (r : RegRow) (ix : List Nat) : State := putWord t r ix (word s r ix)
  let u := back (back (back t Reg.fdbCmdKey0 []) Reg.fdbCmdKey1 []) Reg.fdbCmdCtrl []
  ((List.range 4).foldl (fun u w => back u Reg.fdbCmdData [w]) u, rd t Reg.fdbCmdCtrl [] 2 0)

/-- The key registers' fields of an entry or of the 8 bytes of R126. -/
def keyOf (e : Nat) : Nat := e % 2 ^ 60

/-- A placement order: applied and journalled with reason MANAGER in AUTO, else journalled as refused. -/
def placeOrder (s : State) (object src dst : Nat) (f : State → State × Nat) : State × Nat :=
  if placeMode s 3 ≠ 2 then (journal s 3 3 12 object src dst 0 0, 1)
  else
    let (s, r) := f s
    (journal s 3 0 12 object src dst 0 0, if r = 0 then 0 else 1)

/-- VOQ_ROUTE. -/
def orderRoute (s : State) (b : List Byte) : State × Nat :=
  let d := byteAt b 0 % 128
  let w : Word := BitVec.ofNat 32 (byteAt b 1 % 2 * 2 ^ 31 + byteAt b 2 % 128)
  let old := stagedWord s Reg.schedVoqRoute [d]
  let port (w : Word) : Nat := if flag w 31 then fld w 6 0 else noPlace
  placeOrder s d (port old) (port w) fun s => (stage s (.mc 2) Reg.schedVoqRoute [d] 0xFFFFFFFF w, 0)

/-- The manager's source, with the UNIT_ID that its HELLO gave where it is a neighbour. -/
def managerSrc (s : State) (d : Nat) : StageSrc :=
  let uid := (List.range 16).findSome? fun g => (izlGroup s g).neighbour.bind fun n =>
    if n.device = d then some n.unitId else none
  .manager d (uid.getD 0)

/-- A RESULT of IMG_STAGE_CMD as one of an ORDER. -/
def stageReply (r : Nat) : Nat :=
  match r with
  | 0 => 0
  | 1 => 2
  | 2 => 3
  | 8 => 4
  | _ => 1

/-- STAGE_DATA. -/
def orderData (s : State) (src : StageSrc) (b : List Byte) : State × Nat :=
  let data := b.drop 4
  if s.img.staging.holder ≠ some src ∨ stageState s ≠ 1 then (s, 1)
  else if stageRange (field b 0 4) data.length && decide (data.length ≤ 960) then (landStage (touchLock s) (field b 0 4) data, 0)
  else (s, 1)

/-- STAGE_END: END, VERIFY and COMMIT in turn. -/
def orderEnd (s : State) (src : StageSrc) : State × Nat :=
  let (s, r) := stageOp s src 2 0
  if r ≠ 0 then (s, stageReply r)
  else
    let (s, r) := stageOp s src 3 0
    if r ≠ 0 then (s, stageReply r)
    else
      let (s, r) := stageOp s src 4 0
      (s, stageReply r)

/-- ACTIVATE. -/
def orderActivate (s : State) (mode : Nat) : State × Nat :=
  let (s, r) := match mode with
    | 0 => activateHitless s
    | 1 => activateTwin s
    | _ => activateRestart s
  (s, if r = 0 then 0 else if r = 2 then 5 else 1)

/-- One ORDER of device `d` performed: its RESULT and the reply's body. -/
def perform (s : State) (d op : Nat) (b : List Byte) : State × Nat × List Byte :=
  let src := managerSrc s d
  let plain (x : State × Nat) : State × Nat × List Byte := (x.1, x.2, [])
  match op with
  | 1 =>
    let e := field b 0 16
    plain (placeOrder s (bits e 95 89) noPlace noPlace fun s => orderedCmd s (keyOf e) e fun s => cmdWrite s (.mc 1))
  | 2 =>
    plain (placeOrder s (ownDevice s) noPlace noPlace fun s =>
      orderedCmd s (keyOf (field b 0 8)) 0 fun s => cmdDelete s (.mc 1))
  | 3 => plain (orderRoute s b)
  | 0x10 =>
    let (s, r) := stageOp s src 0 0
    (s, stageReply r, if r = 1 then
      toBytes 4 (word s Reg.imgStageHolder []).toNat ++ toBytes 4 (word s Reg.imgStageUidHi []).toNat ++
        toBytes 4 (word s Reg.imgStageUidLo []).toNat else [])
  | 0x11 => plain (orderData s src b)
  | 0x12 => plain (orderEnd s src)
  | 0x13 => plain (orderActivate s (byteAt b 0))
  | 0x14 =>
    let (s, r) := stageOp s src 5 0
    (s, stageReply r, [])
  | _ => (s, 1, [])

/-- A reply leaves towards device `d`. -/
def sendToward (s : State) (d : Nat) (b : List Byte) : State :=
  match groupToward s d with
  | some g => sendControl s g b
  | none => s

/-- An ORDER for this worker: performed once, and every repeat answered; the last 16 replies are kept (log entry 159). -/
def orderIn (s : State) (b : List Byte) : State :=
  let d := byteAt b 1
  let seq := field b 4 4
  let op := byteAt b 8
  if hierRole s ≠ 2 ∨ hierState s ≠ 3 then s
  else
    match s.izl.answered.find? fun a => a.1 == d && a.2.1 == seq with
    | some a => sendToward s d a.2.2
    | none =>
      let (s, r, body) := perform s d op ((b.drop 12).take (field b 10 2))
      let reply := orderLeaf s d seq (op + 0x80) r body
      sendToward { s with izl := { s.izl with answered := ((d, seq, reply) :: s.izl.answered).take 16 } } d reply

/-! ### The manager's updates (R495) -/

/-- RESULT of IMG_HIER_CMD, with the order no longer outstanding. -/
def hierResult (s : State) (r : Nat) : State := wr (wrBit s Reg.imgHierCmd [] 30 false) Reg.imgHierCmd [] 24 21 r

/-- The orders that wait for MC3 leave, once it runs (R457). -/
def sendWaiting (s : State) : State :=
  if coreDown s 3 then s
  else
    let out := s.izl.orders.filter fun w => w.sentAt.isNone
    let s := { s with izl := { s.izl with orders := s.izl.orders.map fun w => { w with sentAt := some (w.sentAt.getD s.time.dt) } } }
    out.foldl (fun s w => sendToward s w.device w.body) s

/-- An ORDER leaves for device `d`, and is waited on. -/
def sendOrder (s : State) (d op : Nat) (body : List Byte) : State :=
  let seq := s.izl.orderSeq
  let w : OrderWait := { device := d, seq := seq, body := orderLeaf s d seq op 0 body, tries := 0, sentAt := none }
  let s := { s with izl := { s.izl with orderSeq := (seq + 1) % 2 ^ 32, orders := s.izl.orders ++ [w] } }
  sendWaiting (wrBit s Reg.imgHierCmd [] 30 true)

def putUpdate (s : State) (u : Option HierUpdate) : State := { s with img := { s.img with update := u } }

/-- The bundle of bank `b`, where it holds one. -/
def bundleIn (s : State) (b : Nat) : Option Bundle :=
  if 2 ≤ (bankOfImg s b).state then (readBundle s.img.custKey 0 (bankBytes (bankOfImg s b).bytes)).toOption else none

/-- The next piece of a bundle that is being sent to a worker. -/
def sendPiece (s : State) (u : HierUpdate) : State :=
  let b := bankBytes (bankOfImg s u.bank).bytes
  let piece := (b.drop u.sent).take 960
  if piece = [] then sendOrder (putUpdate s (some { u with phase := 2 })) u.device 0x12 []
  else sendOrder (putUpdate s (some { u with phase := 1, sent := u.sent + piece.length })) u.device 0x11 (toBytes 4 u.sent ++ piece)

/-- STAGE for device `d` from bank `k`. -/
def hierStage (s : State) (d k : Nat) : State :=
  match bundleIn s k with
  | none => hierResult s 6
  | some x =>
    let len := (bankBytes (bankOfImg s k).bytes).length
    sendOrder (putUpdate s (some { device := d, bank := k, sent := 0, phase := 0 })) d 0x10 (toBytes 4 len ++ toBytes 4 x.ver.toNat)

/-- The devices heard on this manager's own groups, and the manager, each with its windows. -/
def knownWindows (s : State) : List (Nat × List (Nat × Nat × Nat)) :=
  (ownDevice s, ownWindows s) ::
    (List.range 16).filterMap fun g => if hierGroup s g then (izlGroup s g).neighbour.map fun n => (n.device, n.window) else none

/-- Device `d` is heard on a group of the manager, so that the two are neighbours. -/
def heardHere (s : State) (d : Nat) : Bool :=
  (List.range 16).any fun g => hierGroup s g && (izlGroup s g).neighbour.any fun n => n.device == d

/-- The device that device `d` on bundle `x` would no longer work with, among those that the manager hears. -/
def windowConflict (s : State) (d : Nat) (x : Bundle) : Option Nat :=
  ((knownWindows s).find? fun e => e.1 != d &&
    (!windowsFit x.ctrl (e.2.getD 1 (0, 0, 0)) ||
      (e.1 == ownDevice s && heardHere s d && !windowsFit x.izl (e.2.getD 0 (0, 0, 0))))).map Prod.fst

/-- A conflict with a device that the manager does not hear itself: whether there is one, and which, is free. -/
def farConflict (s : State) : State × Option Nat :=
  let w := freeWord s
  (spend s, if s.izl.joined.all (fun d => heardHere s d) || !flag w 0 then none else some (fld w 7 1))

/-- ACTIVATE for device `d` in a mode. -/
def hierActivate (s : State) (d k mode : Nat) : State :=
  match bundleIn s k with
  | none => hierResult s 6
  | some x =>
    let refuse (s : State) (e : Nat) : State := wr (hierResult s 2) Reg.imgHierCmd [] 20 14 e
    match windowConflict s d x with
    | some e => refuse s e
    | none =>
      match farConflict s with
      | (s, some e) => refuse s e
      | (s, none) =>
        sendOrder (putUpdate s (some { device := d, bank := k, sent := 0, phase := 3 })) d 0x13 (toBytes 1 (min mode 2))

/-- One operation of IMG_HIER_CMD: 0 STAGE, 1 ACTIVATE, others ABORT; ignored while an order is outstanding. -/
def hierOp (s : State) (op mode bank d : Nat) : State :=
  if rdBit s Reg.imgHierCmd [] 30 then s
  else if hierRole s ≠ 1 then hierResult s 3
  else if op < 2 ∧ s.img.update.any (fun u => u.device != d) = true then hierResult s 1
  else match op with
    | 0 => hierStage s d bank
    | 1 => hierActivate s d bank mode
    | _ => sendOrder s d 0x14 []

/-- A write of IMG_HIER_CMD. -/
def imgHierWrite (s : State) (req : Requester) (data : Word) : State :=
  let s := stage s req Reg.imgHierCmd [] 0xFFFFFFFF data
  if flag data 31 then hierOp s (fld data 29 28) (fld data 27 26) (fld data 25 25) (fld data 6 0) else s

/-- The write of IMG_HIER_CMD that performs operation `op` with the other fields as they stand. -/
def hierGo (s : State) (op : Nat) : Word :=
  setFld (stagedWord s Reg.imgHierCmd [] ||| 0x80000000) 29 28 op

/-- The worker's HELLO shows the new bundle, where the manager hears it. -/
def showsBundle (s : State) (d : Nat) (x : Bundle) : Bool :=
  (List.range 16).all fun g => (izlGroup s g).neighbour.all fun n => n.device != d || n.version == x.ver

/-- A reply with RESULT 0 to the order of the update in progress. -/
def replyOk (s : State) (u : HierUpdate) (op : Nat) : State :=
  match op with
  | 0x90 => sendPiece s { u with sent := 0 }
  | 0x91 => sendPiece s u
  | 0x92 => hierResult (putUpdate s (some { u with phase := 3 })) 0
  | 0x93 => hierResult (putUpdate s (some { u with phase := 4 })) 0
  | _ => hierResult (putUpdate s none) 0

/-- A further reply from a worker whose update is active: with its HELLO, it completes the update. -/
def updateDone (s : State) (d r : Nat) : State :=
  match s.img.update with
  | none => s
  | some u =>
    if u.phase = 4 ∧ u.device = d ∧ r = 0 ∧ (bundleIn s u.bank).any (showsBundle s d) = true then
      updEvent (putUpdate s none) 5 d
    else s

/-- The reply of device `d` with RESULT `r` to order `seq`. -/
def replyIn (s : State) (b : List Byte) : State :=
  let d := byteAt b 1
  let seq := field b 4 4
  let r := byteAt b 9
  if hierRole s ≠ 1 then s
  else match s.izl.orders.find? fun w => w.device == d && w.seq == seq with
    | none => updateDone s d r
    | some _ =>
      let s := { s with izl := { s.izl with orders := s.izl.orders.filter fun w => !(w.device == d && w.seq == seq) } }
      if r ≠ 0 then hierResult (putUpdate s none) 4
      else match s.img.update with
        | some u => replyOk s u (byteAt b 8)
        | none => hierResult s 0

/-- An order has been without its reply for 100 ms, and MC3 runs. -/
def orderLate (s : State) (w : OrderWait) : Bool :=
  !coreDown s 3 && w.sentAt.any fun t => decide (t + msTicks 100 ≤ s.time.dt)

/-- ORDER_RETRY: an order unanswered for 100 ms is repeated, up to 5 times; then there is no reply. -/
def execOrderRetry (d : Fin 128) (s : State) : Host.Outcome State Fault Refusal :=
  match s.izl.orders.find? fun w => w.device == d.val && orderLate s w with
  | none => done s
  | some w =>
    let rest := s.izl.orders.filter (· != w)
    if w.tries < 5 then
      let w := { w with tries := w.tries + 1, sentAt := some s.time.dt }
      done (sendToward { s with izl := { s.izl with orders := w :: rest } } d w.body)
    else done (hierResult (putUpdate { s with izl := { s.izl with orders := rest } } none) 5)

/-- An ORDER leaf or a reply on group `g`: for this device, or to be relayed. -/
def orderLeafIn (s : State) (g : Nat) (b : List Byte) : State :=
  if byteAt b 2 ≠ ownDevice s then relay s g b
  else if byteAt b 8 < 0x80 then orderIn s b
  else replyIn s b

/-- ORDER_RX. -/
def execOrderRx (g : Fin 16) (bytes : List Byte) (s : State) : Host.Outcome State Fault Refusal :=
  done (controlIn s g 5 12 bytes fun s => orderLeafIn s g bytes)

/-- ORDER_REPLY_RX. -/
def execOrderReplyRx (g : Fin 16) (bytes : List Byte) (s : State) : Host.Outcome State Fault Refusal :=
  done (controlIn s g 5 12 bytes fun s => orderLeafIn s g bytes)

/-! ### Leaves (R346, R350, R353, R354) -/

/-- A frame of a leaf enters at group `g`'s forwarding port, in the group's next pipeline (R38). -/
def leafFrame (s : State) (g : Nat) (b : List Byte) (steer : Option Steer) : State :=
  match groupPort s g with
  | none => s
  | some p =>
    let s := bump s Ctr.izl [g] 1 1
    if !forwards s then s
    else
      let (s, _) := enterWhole s p b steer id
      putIzlGroup s g { izlGroup s g with nextPipe := (izlGroup s g).nextPipe + 1 }

/-- The steering word's destination (R346). -/
def steerOf (s : State) (w : Nat) : Steer :=
  let d := bits w 31 25
  { device := if d = ownDevice s then none else some d, port := bits w 24 18, cls := bits w 17 15, prot := bit w 14 }

/-- A control leaf, by its TYPE (R347). -/
def controlLeafIn (s : State) (g : Nat) (b : List Byte) : State :=
  match byteAt b 0 with
  | 1 => controlIn s g 1 32 b fun s => helloIn s g b
  | 2 => controlIn s g 2 14 b fun s => joinIn s g b
  | 3 => controlIn s g 3 14 b fun s => assignIn s g b
  | 4 => controlIn s g 4 100 b fun s => flowIn s g b
  | 5 => controlIn s g 5 12 b fun s => orderLeafIn s g b
  | _ => leafDiscard s g

/-- A delivered leaf. -/
def deliverLeaf (s : State) (g : Nat) (b : List Byte) : State :=
  let n := byteAt b 0 % 64 * 256 + byteAt b 1
  if b = aisLeaf then aisIn s g
  else match byteAt b 0 / 64 with
    | 0 => if n = 0 then s else if groupRole s g = 4 then leafDiscard s g else leafFrame s g (b.drop 4) none
    | 1 => if hierGroup s g && !asPlain s g then leafFrame s g (b.drop 8) (some (steerOf s (field b 4 4))) else leafDiscard s g
    | _ => if hierGroup s g then controlLeafIn s g (b.drop 4) else leafDiscard s g

/-- LEAF_RX: the next leaf of group `g`, with its header. -/
def execLeafRx (g : Fin 16) (el : Nat) (bytes : List Byte) (s : State) : Host.Outcome State Fault Refusal :=
  match delineate (advance el s) g bytes with
  | (s, true) => done (flowUpdate (deliverLeaf s g bytes) false)
  | (s, false) => done s

end Sys2Proof.Machine
end

