-- ==== Sys2Proof/Machine/Cores.lean ====
section
/-! DEFINITION. The management cores resume: after a restart (R456 to R459), and on new firmware (Table 17-4). -/
namespace Sys2Proof.Machine

/-- A leaf that waited for MC3 is taken: a JOIN, an ASSIGN, or an ORDER. -/
def takeLeaf (s : State) (x : Nat × List Byte) : State :=
  match byteAt x.2 0 with
  | 2 => joinIn s x.1 x.2
  | 3 => assignIn s x.1 x.2
  | _ => orderLeafIn s x.1 x.2

/-- MC3 takes up what has waited for it (R457). -/
def mc3Resume (s : State) : State :=
  let l := s.izl.held
  sendWaiting (l.foldl takeLeaf { s with izl := { s.izl with held := [] } })

/-- Core `c` resumes from its checkpoint; MC0 comes to the ring pairs that it is to open again (R458). -/
def resumeCore (s : State) (c : Nat) : State :=
  if c = 2 then mc2Resume s
  else
    let s := { s with power := { s.power with coresDown := s.power.coresDown &&& ~~~ BitVec.ofNat 4 (2 ^ c) } }
    if c = 3 then mc3Resume s else if c = 0 then nextTurn s else s

/-- CORE_RESTART_DONE: the core resumes from its checkpoint. -/
def execCoreRestartDone (core : Fin 4) (s : State) : Host.Outcome State Fault Refusal :=
  done (if coreDown s core && stageDone s 2 then resumeCore s core else s)

/-- CORE_UPDATE_DONE: the core resumes, or does not. -/
def execCoreUpdateDone (core : Fin 4) (ok : Bool) (s : State) : Host.Outcome State Fault Refusal :=
  match s.img.activation with
  | none => done s
  | some a =>
    let c := core.val
    if a.cores.head? ≠ some c ∨ (a.mode = 0 ∧ a.engines ≠ []) then done s
    else if ok then
      let s := resumeCore s c
      let rest := { a with cores := a.cores.drop 1 }
      done (if a.mode = 3 then nextRevert s rest else nextItem s { rest with doneCores := c :: a.doneCores })
    else done (if a.mode = 0 then abandon s a 2 [c] else s)

end Sys2Proof.Machine
end

