-- ==== Sys2Proof/Machine/Observe.lean ====
section
/-! DEFINITION. The trace lane, counter snapshots, epochs, the recorder, exports and imports, and rerun (chapter 19). -/
namespace Sys2Proof.Machine

/-- The bytes of a checkpoint's segments, whose layout the spec does not give (R516), and what an import reads from them. -/
opaque Config.ckptBytes : Checkpoint → List Byte
opaque Config.ckptOf : List Byte → Option Checkpoint

/-! ### The trace lane (R509, R510) -/

/-- A record as it is written: the header of Table 19-3, and its body padded to 16 bytes. -/
def Rec.bytes (r : Rec) : List Byte :=
  let n := r.body.length
  toBytes 1 r.ty ++ toBytes 1 r.flags ++ toBytes 2 n ++ toBytes 4 (r.dt / fracPerSec) ++
    toBytes 8 (r.dt % fracPerSec / 65536 * 2 ^ 34 + r.dt % 65536 * 2 ^ 18 + r.src % 256) ++
    padTo (ceilDiv n 16 * 16) r.body

/-- Record bytes that one trace frame holds: 9,018 bytes without its header, its FCS and 16 bytes of payload header. -/
def traceSpace : Nat := 8984

/-- Records sorted into those of this frame, those that wait for the next and the number dropped: `room` bytes are spare
on the lane and `left` in the frame. -/
def packTrace (room left : Nat) : List Rec → List Rec × List Rec × Nat
  | [] => ([], [], 0)
  | r :: rs =>
    let n := r.size
    if room < n ∨ traceSpace < n then
      let (a, b, k) := packTrace room left rs
      (a, b, k + 1)
    else if left < n then ([], r :: rs, 0)
    else
      let (a, b, k) := packTrace (room - n) (left - n) rs
      (r :: a, b, k)

/-- A trace frame (Table 19-2), with its FCS. -/
def traceFrame (s : State) (rs : List Rec) : List Byte :=
  let word48 (lo hi : RegRow) : Nat := rd s hi [] 15 0 * 2 ^ 32 + (word s lo []).toNat
  closed (toBytes 6 (word48 Reg.obsTraceDstLo Reg.obsTraceDstHi) ++
    toBytes 6 (word48 Reg.timeMacBaseLo Reg.timeMacBaseHi + 96) ++ toBytes 2 0x88B5 ++ toBytes 1 0x10 ++
    toBytes 1 (bnat s.obs.traceGap) ++ toBytes 2 0 ++ toBytes 4 s.obs.traceSeq ++ toBytes 8 Config.unitId.toNat ++
    rs.flatMap Rec.bytes)

/-- TRACE_FRAME_TX: O0 has room for `room` bytes of records. -/
def execTraceFrameTx (room : Nat) (s : State) : Host.Outcome State Fault Refusal :=
  if !rdBit s Reg.obsTraceCfg [] 31 then done s
  else
    let (a, b, k) := packTrace room traceSpace s.obs.trace
    let sent := a != []
    let s' := if sent then bump (emit s (.trace (traceFrame s a))) Ctr.obs [] 0 1 else s
    let s' := bump s' Ctr.obs [] 1 k
    let gap := decide (0 < k) || (s.obs.traceGap && !sent)
    done { s' with obs := { s'.obs with trace := b, traceGap := gap,
                                        traceSeq := (s.obs.traceSeq + bnat sent) % 2 ^ 32 } }

/-! ### Counter snapshots (R511) -/

/-- Every index that dimensions of a group name. -/
def allIndices : List (Nat × Nat × Nat) → List (List Nat)
  | [] => [[]]
  | d :: ds => (List.range d.1).flatMap fun i => (allIndices ds).map (i :: ·)

/-- The counters of a group that lie in the 0x4000 bytes from `base + 0x4000`, as entries of a SNAPSHOT record. -/
def groupEntries (s : State) (base : Nat) (g : CtrGroup) : List (List Byte) :=
  (allIndices g.dims).flatMap fun ix => ((List.range g.widths.length).filter fun i =>
      g.widths.getD i 0 != 0 && decide (base + 0x4000 ≤ g.addr ix i ∧ g.addr ix i < base + 0x8000)).map fun i =>
    toBytes 4 (g.addr ix i) ++ toBytes 4 0 ++ toBytes 8 (ctr s g ix i)

/-- The blocks of BLOCKS, each by its first instance, with the count and stride of its instances. -/
def snapBlocks : List (Nat × Nat × Nat) :=
  [(0x100000, 48, 0x10000), (0x400000, 32, 0x10000), (0x600000, 4, 0x100000), (0xA00000, 1, 0), (0xB00000, 1, 0),
   (0xC00000, 1, 0), (0xD00000, 1, 0), (0xE00000, 1, 0), (0xE40000, 1, 0), (0xEC0000, 1, 0), (0xF00000, 1, 0), (0xF80000, 1, 0)]

/-- A list cut into pieces of `size`, at least one and at most one more than the fuel. -/
def piecesOf {α : Type} (size : Nat) : Nat → List α → List (List α)
  | 0, l => [l]
  | n + 1, l => if l.length ≤ size then [l] else l.take size :: piecesOf size n (l.drop size)

/-- The entries of one SNAPSHOT record: as many as one trace frame holds. -/
def snapEntries : Nat := (traceSpace - 16) / 16

/-- The SNAPSHOT records of the block instance at `base`, with the bit of block `b` in BLOCKS as their source. -/
def snapRecs (s : State) (b base : Nat) : List Rec :=
  (piecesOf snapEntries 64 ((ctrGroups ++ ringGroups).flatMap (groupEntries s base))).map fun l =>
    { ty := 0x0E, flags := 0, dt := dtFrac s, src := b, body := l.flatten }

/-- The SNAPSHOT records of one instance of block `b`. -/
def snapInstance (s : State) (b base : Nat) : State := (snapRecs s b base).foldl traceRec s

/-- Ticks from one snapshot to the next: PERIOD, of which 1 to 9 act as 10. -/
def snapTicks (s : State) : Nat := msTicks (max 10 (rd s Reg.obsSnapCfg [] 31 16))

/-- SNAPSHOT_PERIOD: PERIOD milliseconds have passed. -/
def execSnapshotPeriod (s : State) : Host.Outcome State Fault Refusal :=
  if rdBit s Reg.obsTraceCfg [] 31 && rd s Reg.obsSnapCfg [] 31 16 != 0 && decide (s.obs.snapAt + snapTicks s ≤ s.time.dt) then
    let s := { s with obs := { s.obs with snapAt := s.time.dt } }
    done (((List.range 12).filter (rdBit s Reg.obsSnapCfg [])).foldl (fun s b =>
      let (base, n, stride) := snapBlocks.getD b (0, 0, 0)
      (List.range n).foldl (fun s i => snapInstance s b (base + i * stride)) s) s)
  else done s

/-! ### Checkpoints (R516) -/

/-- Bytes of a checkpoint in one CKPT record. -/
def segmentSize : Nat := 65520

/-- The recorder takes a checkpoint, whose segments leave within 40 device cycles. -/
def takeCheckpoint (s : State) : State :=
  let r := s.regs
  let c : Checkpoint :=
    { num := s.obs.ckpts.length, epoch := epochNow s, tick := s.time.dt, segs := 0, rate := 0, complete := false,
      regs := { r with waiting := [], shadows := [], counters := [] }, fdb := s.fdb, strm := s.strm,
      sched := s.sched, bpm := s.bpm, acc := s.acc, tbs := s.time.tbs, cores := s.power.checkpoints,
      draws := s.draws, cycle := cycleCount s, residence := s.frames.map fun e => (e.1, { e.2 with bytes := [] }) }
  let bs := piecesOf segmentSize 4096 (Config.ckptBytes c)
  let n := bs.length
  let recs := bs.zipIdx.map fun b : List Byte × Nat =>
    ({ ty := 9, flags := bnat (b.2 + 1 == n), dt := dtFrac s, src := c.num % 256, body := b.1 } : Rec)
  { s with obs := { s.obs with ckpts := s.obs.ckpts ++ [{ c with segs := n, rate := ceilDiv n 40 }],
                               segments := s.obs.segments ++ recs } }

/-- One CKPT record is written. -/
def writeSegment (s : State) (r : Rec) : State :=
  let s := traceRec (writeRec s r) r
  let mark (c : Checkpoint) : Checkpoint :=
    if r.flags = 1 ∧ c.num % 256 = r.src ∧ c.tick * 81920 = r.dt then { c with complete := true } else c
  { s with obs := { s.obs with ckpts := s.obs.ckpts.map mark } }

/-- A device cycle's part of the checkpoints that are being written. -/
def ckptCycle (s : State) : State :=
  if !recording s then s
  else
    let n := ((s.obs.ckpts.filter fun c => !c.complete).map (·.rate)).sum
    let s' := (s.obs.segments.take n).foldl writeSegment s
    let s' := { s' with obs := { s'.obs with segments := s.obs.segments.drop n } }
    wr s' Reg.obsRecStat [] 23 8 (completeCkpts s').length

/-- CKPT device cycles have passed since the last checkpoint. -/
def ckptDue (s : State) : Bool :=
  match s.obs.ckpts.getLast? with
  | none => true
  | some c => decide (rd s Reg.obsRecCfg [] 23 12 ≤ (cycleCount s + 2 ^ 31 - c.cycle) % 2 ^ 31)

/-- CHECKPOINT_TIMER. -/
def execCheckpointTimer (s : State) : Host.Outcome State Fault Refusal :=
  done (if recording s && ckptDue s then takeCheckpoint s else s)

/-! ### The recorder (R517) -/

/-- The capture, empty. -/
def clearCapture (s : State) : State :=
  let s := { s with obs := { s.obs with records := [], bytes := 0, ckpts := [], segments := [], gap := false, firstEpoch := 0,
                                        trigEpoch := 0, lastEpoch := 0, lost := none } }
  putWord (putWord s Reg.obsRecStat [] (word s Reg.obsRecStat [] &&& 0x7F)) Reg.obsCapLen [] 0

/-- The seeds of the SEEDS record: the FDB's and the stream table's, then that of the back-off and PTP generators. -/
def seedBytes (s : State) : List Byte :=
  ((List.range 4).flatMap fun b => toBytes 4 (word s Reg.fdbHashSeed [b]).toNat) ++
    ((List.range 2).flatMap fun b => toBytes 4 (word s Reg.strmHashSeed [b]).toNat) ++ toBytes 8 s.seed.toNat

/-- ARM: from IDLE to RECORDING. -/
def arm (s : State) : State :=
  if recState s ≠ 0 then s
  else
    let s := { clearCapture s with obs := { (clearCapture s).obs with importBytes := [], imported := none } }
    takeCheckpoint (record (setRecState s 1) 8 0 0 (seedBytes s))

/-- STOP: from RECORDING to IDLE. -/
def stopRec (s : State) : State := if recState s = 1 then clearCapture s else s

/-- RELEASE: a frozen capture is discarded. -/
def release (s : State) : State := if recState s = 3 then clearCapture s else s

/-- A write of OBS_REC_CTRL; of several bits the lowest is performed first. -/
def recCtrlWrite (s : State) (data : Word) : State :=
  let s := if flag data 0 then arm s else s
  let s := if flag data 1 then trigger s 2 0 0 else s
  let s := if flag data 2 then release s else s
  if flag data 3 then stopRec s else s

/-- Match unit `m` may fire: a unit of KIND 0 only while its source is true. -/
def mayFire (s : State) (m : Nat) : Bool :=
  let kind := rd s Reg.obsTrigCfg [m] 30 29
  rdBit s Reg.obsTrigCfg [m] 31 && (kind == 1 || kind == 2 || sourceLevel s (rd s Reg.obsTrigCfg [m] 15 0))

/-- MATCH_TRIGGER: what match unit `m` looks for has come. -/
def execMatchTrigger (m : Fin 4) (s : State) : Host.Outcome State Fault Refusal :=
  done (if mayFire s m then trigger s 3 m (rd s Reg.obsTrigCfg [m] 15 0) else s)

/-- POST_EXPIRY: POST milliseconds have passed since the trigger. -/
def execPostExpiry (s : State) : Host.Outcome State Fault Refusal :=
  done (if recState s = 2 ∧ s.obs.trigAt + msTicks (rd s Reg.obsRecCfg [] 11 0) ≤ s.time.dt then freeze s else s)

/-! ### Exports and imports (R520) -/

/-- DIGEST_MASK, bit p for logical port p. -/
def digestMask (s : State) : BitVec 96 :=
  BitVec.ofNat 96 ((List.range 3).foldl (fun a w => a + (word s Reg.obsDigestMask [w]).toNat * 2 ^ (32 * w)) 0)

/-- The capture header (Table 19-6). -/
def captureHeader (s : State) : List Byte :=
  let cs := (completeCkpts s).take 64
  let run := (s.img.bundle.map fun b => b.ver.toNat).getD 0
  padTo 512 (toBytes 4 0x485A5352 ++ toBytes 2 1 ++ toBytes 1 0 ++ toBytes 1 (rd s Reg.obsRecStat [] 28 26) ++
    toBytes 8 Config.unitId.toNat ++ toBytes 4 s.image.lineage.toNat ++ toBytes 4 s.image.ver.toNat ++ toBytes 4 run ++
    toBytes 4 s.obs.firstEpoch ++ toBytes 4 s.obs.trigEpoch ++ toBytes 4 s.obs.lastEpoch ++ toBytes 4 s.obs.bytes ++
    toBytes 2 cs.length ++ toBytes 2 0 ++ padTo 256 (cs.flatMap fun c => toBytes 4 c.epoch) ++ toBytes 12 (digestMask s).toNat)

/-- The capture partition's bytes: header, then records from the oldest. -/
def captureBytes (s : State) : List Byte := captureHeader s ++ s.obs.records.flatMap Rec.bytes

/-- RESULT of OBS_EXP_CTRL. -/
def expResult (s : State) (r : Nat) : State := wr s Reg.obsExpCtrl [] 26 24 r

/-- The offset and length of OBS_EXP are in range, and its host address is aligned. -/
def expRange (s : State) : Bool :=
  let n := (word s Reg.obsExpLen []).toNat
  decide (n % 65536 = 0 ∧ 65536 ≤ n ∧ n ≤ 16777216 ∧ (word s Reg.obsExpOfs []).toNat + n ≤ captureSize) &&
    rd s Reg.obsExpHaddrLo [] 5 0 == 0

/-- A write of OBS_EXP_CTRL. -/
def expCtrlWrite (s : State) (req : Requester) (data : Word) : State :=
  if flag data 31 && rdBit s Reg.obsExpCtrl [] 30 then expResult s 1
  else
    let s := stage s req Reg.obsExpCtrl [] 0xFFFFFFFF data
    if !flag data 31 then s
    else if !(if flag data 29 then recState s == 0 && decide (rerunState s < 2) else recState s == 3) then expResult s 2
    else if !expRange s then expResult s 3
    else
      let s := { s with obs := { s.obs with moving := some (0, (word s Reg.obsExpLen []).toNat) } }
      expResult (wrBit s Reg.obsExpCtrl [] 30 true) 0

/-- The transfer ends. -/
def endExport (s : State) (r : Nat) : State :=
  expResult (wrBit { s with obs := { s.obs with moving := none } } Reg.obsExpCtrl [] 30 false) r

/-- One 64 KiB block of the transfer has moved, or met an error. -/
def moveBlock (s : State) (data : List Byte) (error : Bool) : State :=
  match s.obs.moving with
  | none => s
  | some (k, left) =>
    if error then endExport s 4
    else
      let ofs := (word s Reg.obsExpOfs []).toNat + k
      let host := BitVec.ofNat 64 ((word s Reg.obsExpHaddrHi []).toNat * 2 ^ 32 + (word s Reg.obsExpHaddrLo []).toNat + k)
      let s :=
        if rdBit s Reg.obsExpCtrl [] 29 then
          { s with obs := { s.obs with importBytes := Memory.writeList s.obs.importBytes ofs (padTo 65536 (data.take 65536)) } }
        else emit s (.hostWrite host (padTo 65536 (((captureBytes s).drop ofs).take 65536)))
      if left ≤ 65536 then endExport s 0
      else { s with obs := { s.obs with moving := some (k + 65536, left - 65536) } }

/-! ### Rerun (R521 to R524) -/

/-- The records of `n` bytes of an imported capture. -/
def readRecs : Nat → List Byte → List Rec
  | 0, _ => []
  | n + 1, b =>
    let len := field b 2 2
    if b.length < 16 ∨ byteAt b 0 = 0 then []
    else
      let t := field b 8 8
      { ty := byteAt b 0, flags := byteAt b 1, dt := field b 4 4 * fracPerSec + t / 2 ^ 34 * 65536 + t / 2 ^ 18 % 65536,
        src := t % 256, body := (b.drop 16).take len } :: readRecs n (b.drop (16 + ceilDiv len 16 * 16))

/-- The checkpoints that records hold whole, oldest first. -/
def readCkpts (rs : List Rec) : List Checkpoint :=
  (rs.filter fun r => r.ty == 9 && r.flags % 2 == 1).filterMap fun r =>
    Config.ckptOf ((rs.filter fun q => q.ty == 9 && q.src == r.src && q.dt == r.dt).flatMap (·.body))

/-- The imported capture. -/
def readCapture (s : State) : Rerun :=
  let h := Memory.readList s.obs.importBytes 0 512
  let n := field h 0x28 4
  let rs := readRecs (n / 16) (Memory.readList s.obs.importBytes 512 n)
  { rev := byteAt h 6, lineage := BitVec.ofNat 32 (field h 0x10 4), imgVer := BitVec.ofNat 32 (field h 0x14 4),
    bundleVer := BitVec.ofNat 32 (field h 0x18 4), unit := BitVec.ofNat 64 (field h 8 8), lastEpoch := field h 0x24 4,
    mask := BitVec.ofNat 96 (field h 0x130 12), records := rs, ckpts := readCkpts rs, todo := [], digestBFrom := 0 }

/-- The number of complete checkpoints that the header lists. -/
def listedCkpts (s : State) : Nat := field (Memory.readList s.obs.importBytes 0 512) 0x2C 2

/-- RESULT of ENTER: the first condition that fails, in the order of R521. -/
def enterResult (s : State) (x : Rerun) : Nat :=
  if !forwards s then 6
  else if (List.range 80).any (fun p => portEn s p) || rdBit s Reg.twinCfg [] 31 ||
      (List.range 16).any (fun g => rdBit s Reg.izlGrpCfg [g] 31) then 7
  else if recState s ≠ 0 ∨ ofBytes (Memory.readList s.obs.importBytes 0 4) ≠ 0x485A5352 then 4
  else if x.rev ≠ 0 then 1
  else if x.lineage ≠ s.image.lineage ∨ x.imgVer ≠ s.image.ver then 3
  else if (s.img.bundle.map fun b => b.ver).getD 0 ≠ x.bundleVer then 2
  else if listedCkpts s = 0 ∨ x.ckpts = [] then 5
  else 0

/-- ENTER. -/
def rerunEnter (s : State) : State :=
  if 2 ≤ rerunState s then s
  else
    let x := readCapture s
    let r := enterResult s x
    let s := wr s Reg.obsRerunStat [] 28 24 r
    if r ≠ 0 then s else closeAll (wr { s with obs := { s.obs with imported := some x } } Reg.obsRerunStat [] 31 29 1)

/-- The first divergence is recorded; without CONTINUE the rerun stops. -/
def diverge (s : State) (kind p : Nat) (epoch : Nat) (want got : BitVec 64) : State :=
  let put64 (s : State) (lo hi : RegRow) (x : BitVec 64) : State :=
    putWord (putWord s lo [] (BitVec.ofNat 32 x.toNat)) hi [] (BitVec.ofNat 32 (x.toNat / 2 ^ 32))
  let s :=
    if s.obs.diverged then s
    else
      let s := { s with obs := { s.obs with diverged := true } }
      let s := putWord (putWord s Reg.obsDivInfo [] (BitVec.ofNat 32 (kind * 2 ^ 28 + p))) Reg.obsDivEpoch [] (BitVec.ofNat 32 epoch)
      put64 (put64 s Reg.obsDivRecLo Reg.obsDivRecHi want) Reg.obsDivRunLo Reg.obsDivRunHi got
  if rdBit s Reg.obsRerunCtrl [] 29 then s else wr s Reg.obsRerunStat [] 31 29 4

/-- The registers that a checkpoint holds: those of state classes 0 to 5 and 9, and the state and FREQ of the TBs. -/
def ckptReg (a : Nat) : Bool :=
  match rowAt a with
  | some (r, _) =>
    r.base == Reg.timeTbStat.base || r.base == Reg.timeTbFreq.base || (regClass r).any fun k => k ≤ 5 || k == 9
  | none => false

/-- One half of the registers with a checkpoint's own in it. -/
def mergeRegs (now saved : Sparse Word) : Sparse Word :=
  (saved.filter fun e => ckptReg e.1).foldl (fun l e => put l e.1 e.2) (now.filter fun e => !ckptReg e.1)

/-- A resident frame with the bytes of its FRAME record, where the capture holds it whole. -/
def resident (rs : List Rec) (x : Frame) : Option Frame :=
  (rs.find? fun r => r.ty == 1 && r.dt == x.stamp.dt && r.src == x.inPort && r.flags % 2 == 0).map fun r =>
    { x with bytes := r.body }

/-- The longest time, in µs, that a job's outputs look back over: LINK_OFFSET and its longest DELAY. -/
def lookBack (s : State) (j : Nat) : Nat :=
  let d := jobPart s j
  let fs := jobRate (s.acc.inForce.job j)
  let longest := (d.taps.map fun e => fld e.2 48 32).foldl max 0
  linkOffset (s.acc.inForce.job j) + ceilDiv (longest * 1000000) (max 1 fs)

/-- The records that a rerun injects: frames on lines, host accesses, edges, links, and what came over the twin and the trunks. -/
def isInput (r : Rec) : Bool :=
  match r.ty with
  | 1 => onLine r.src && r.flags % 2 == 0
  | 2 | 3 | 4 | 5 | 0x0C | 0x0D => true
  | _ => false

/-- The input records of a capture after tick `t`, the earliest first. -/
def inputsAfter (rs : List Rec) (t : Nat) : List Rec :=
  (rs.filter fun r => isInput r && decide (t * 81920 ≤ r.dt)).mergeSort fun a b => a.dt ≤ b.dt

/-- The seed of the generators that the capture's SEEDS record holds. -/
def recordedSeed (s : State) (rs : List Rec) : BitVec 64 :=
  ((rs.find? fun r => r.ty == 8).map fun r => BitVec.ofNat 64 (field r.body 24 8)).getD s.seed

/-- A checkpoint is loaded, and DT stands at its boundary. -/
def loadCheckpoint (s : State) (x : Rerun) (c : Checkpoint) : State :=
  let found := c.residence.map fun e => (e.1, resident x.records e.2)
  let frames := found.filterMap fun e => e.2.map fun f => (e.1, f)
  let regs := { s.regs with staged := mergeRegs s.regs.staged c.regs.staged, inForce := mergeRegs s.regs.inForce c.regs.inForce }
  let next := (found.map (·.1 + 1)).foldl max s.nextFrame
  let s := { s with regs := regs, fdb := c.fdb, strm := c.strm, sched := c.sched, bpm := c.bpm, acc := c.acc, frames := frames,
                    nextFrame := next, seed := recordedSeed s x.records, draws := c.draws,
                    power := { s.power with checkpoints := c.cores },
                    time := { s.time with dt := c.tick, tbs := c.tbs, cycleStart := c.tick } }
  let s := putWord s Reg.twinStat [] (get 0 c.regs.inForce Reg.twinStat.base)
  let s := putWord (wr s Reg.obsRerunStat [] 31 29 2) Reg.obsRerunEpoch [] (BitVec.ofNat 32 c.epoch)
  let back := ((List.range 1024).filter fun j => (job s j).state == 2).foldl (fun m j => max m (lookBack s j)) 0
  let x' := { x with digestBFrom := c.epoch + back, todo := inputsAfter x.records c.tick }
  let s := { s with obs := { s.obs with imported := some x', epochAt := c.tick, digestA := [], digestB := [], framesSent := [] } }
  if found.any (fun e => e.2.isNone) then diverge s 5 0 c.epoch 0 0 else s

/-- START, from LOADED. -/
def rerunStart (s : State) : State :=
  match s.obs.imported with
  | none => s
  | some x =>
    if rerunState s ≠ 1 then s
    else match x.ckpts[min (rd s Reg.obsRerunCtrl [] 15 0) (x.ckpts.length - 1)]? with
      | none => s
      | some c => loadCheckpoint s x c

/-- A write of OBS_RERUN_CTRL; ENTER comes before START. -/
def rerunCtrlWrite (s : State) (req : Requester) (data : Word) : State :=
  let s := stage s req Reg.obsRerunCtrl [] 0xFFFFFFFF data
  let s := if flag data 30 then rerunEnter s else s
  if flag data 31 then rerunStart s else s

/-! ### Epochs (R512, R515, R523) -/

/-- The tick at which the running epoch began. -/
def epochStart (s : State) : Nat := s.time.dt / 800 * 800

/-- The epoch that ends now. -/
def endedEpoch (s : State) : Nat := (s.time.dt / 800 - 1) % 2 ^ 32

/-- DIGEST_A and DIGEST_B of port `p` in the epoch that ends. -/
def digests (s : State) (p : Nat) : BitVec 64 × BitVec 64 :=
  (crc64 (get [] s.obs.digestA p), crc64 (get [] s.obs.digestB p))

/-- The digests of a port that a rerun's records hold for an epoch; a port that sent nothing has none. -/
def recordedDigests (x : Rerun) (e p : Nat) : BitVec 64 × BitVec 64 :=
  match x.records.find? fun r => r.ty == 7 && r.src == p && field r.body 0 4 == e with
  | some r => (BitVec.ofNat 64 (field r.body 8 8), BitVec.ofNat 64 (field r.body 16 8))
  | none => (crc64 [], crc64 [])

/-- Input of epoch `e` is missing: a GAP covers it, a frame of it was cut short, or its crossings are not recorded. -/
def inputMissing (x : Rerun) (e : Nat) : Bool :=
  x.records.any (fun r => (r.ty == 0x0B && decide (field r.body 0 4 ≤ e ∧ e ≤ field r.body 4 4)) ||
    (r.ty == 1 && r.flags % 2 == 1 && r.epoch == e)) ||
    !x.records.any fun r => r.ty == 6 && field r.body 0 4 == e

/-- The crossing digest that a rerun's records hold for an epoch. -/
def recordedCrossing (x : Rerun) (e : Nat) : BitVec 64 :=
  match x.records.find? fun r => r.ty == 6 && field r.body 0 4 == e with
  | some r => BitVec.ofNat 64 (field r.body 4 8)
  | none => 0

/-- The first difference of an epoch of a rerun: its kind, port, and recorded and reproduced digests. -/
def difference (s : State) (x : Rerun) (e : Nat) (crossing : BitVec 64) : Option (Nat × Nat × BitVec 64 × BitVec 64) :=
  if inputMissing x e then some (4, 0, 0, 0)
  else if recordedCrossing x e ≠ crossing then some (1, 0, recordedCrossing x e, crossing)
  else
    let ports := (List.range 96).filter x.mask.getLsbD
    match ports.find? fun p => (recordedDigests x e p).1 != (digests s p).1 with
    | some p => some (2, p, (recordedDigests x e p).1, (digests s p).1)
    | none =>
      if e < x.digestBFrom then none
      else (ports.find? fun p => (recordedDigests x e p).2 != (digests s p).2).map fun p =>
        (3, p, (recordedDigests x e p).2, (digests s p).2)

/-- An epoch of a rerun is compared; the last ends it. -/
def compareEpoch (s : State) (e : Nat) (crossing : BitVec 64) : State :=
  match s.obs.imported with
  | none => s
  | some x =>
    if rerunState s ≠ 2 then s
    else
      let s := putWord s Reg.obsRerunEpoch [] (BitVec.ofNat 32 e)
      let s := match difference s x e crossing with
        | none => s
        | some (k, p, a, b) => diverge s k p e a b
      if e = x.lastEpoch ∧ rerunState s = 2 then wr s Reg.obsRerunStat [] 31 29 (if s.obs.diverged then 4 else 3) else s

/-! ### The device cycle -/

/-- The recorder's part of a device cycle: GAP, checkpoints and the rate of the cycle that ends (R514, R516). -/
def obsCycle (s : State) : State :=
  let s := ckptCycle (closeGap s)
  let s := wr s Reg.obsRecStat [] 6 0 (min 127 (cycleGbps s.obs.cycleBytes))
  { s with obs := { s.obs with wanted := [], cycleBytes := 0 } }

end Sys2Proof.Machine
end

