-- ==== Sys2Proof/Machine/Maint.lean ====
section
/-! DEFINITION. Claims on balls, recalibration, units of background work and what they find, and the arbiter's admissions
(chapter 18). -/
namespace Sys2Proof.Machine

/-! ### Claims on balls (R46, R502, R504) -/

/-- The OWNER code of a requester; 0 for one that writes no register. -/
def ownerCode (req : Requester) : Nat :=
  match req with
  | .host => 1
  | .mc k => 2 + k
  | .spi => 0
  | .twin => 0

/-- The image has claimed ball `n`. -/
def ballClaimed (s : State) (n : Nat) : Bool := decide (48 ≤ n ∧ n < 64) && s.image.ball.getD (n - 48) 0 == 1

def ballOwner (s : State) (n : Nat) : Nat := rd s Reg.maintBall [n] 31 28

/-- A claim that is refused. -/
def refuseBall (s : State) (req : Requester) (n code : Nat) : State := noteClaim s code (reqCode req) 0 n

/-- DIR and OUT take the value written. -/
def driveBall (s : State) (n : Nat) (data : Word) : State := wrBoth s Reg.maintBall [n] 1 0 (fld data 1 0)

/-- A write of MAINT_BALLn: OWNER first, then DIR and OUT from the owner. -/
def ballWrite (s : State) (req : Requester) (n : Nat) (data : Word) : State :=
  let o := ballOwner s n
  let m := ownerCode req
  let c := fld data 31 28
  let s := putStaged s Reg.maintBall [n] (setFld (setFld (stagedWord s Reg.maintBall [n]) 31 28 c) 1 0 (fld data 1 0))
  if ballClaimed s n then refuseBall s req n 1
  else if o = 0 then
    if c ≠ 0 then driveBall (wr s Reg.maintBall [n] 31 28 m) n data
    else if fld data 1 0 = rd s Reg.maintBall [n] 1 0 then s
    else refuseBall s req n 3
  else if o = m then
    let s := driveBall s n data
    if c = 0 then wr s Reg.maintBall [n] 31 28 0 else s
  else refuseBall s req n (if c = 0 then 3 else 2)

/-- DIR and OUT of a ball, written by its owner. -/
def ballDrive (s : State) (req : Requester) (n : Nat) (data : Word) : State :=
  if ballClaimed s n then refuseBall s req n 1
  else if ballOwner s n ≠ 0 ∧ ballOwner s n = ownerCode req then driveBall s n data
  else refuseBall s req n 3

/-- IN of ball `n`: what its owner drives, the module-present input of the image, or a level from outside, which is free. -/
def ballLevel (s : State) (n : Nat) : Bool :=
  if ballOwner s n ≠ 0 && rdBit s Reg.maintBall [n] 1 && !ballClaimed s n then rdBit s Reg.maintBall [n] 0
  else if ballClaimed s n && decide (52 ≤ n) then !(modul s (n - 52)).present
  else flag (freeWord s) 0

/-! ### What units of work find (R499 to R501) -/

/-- An uncorrectable error is handled where it lies. -/
def spoil (s : State) (place : ErrorPlace) : State :=
  match place with
  | .replicated => s
  | .cell f =>
    match frame s f with
    | none => s
    | some x => putFrame s f { x with spoiled := true }
  | .delay g =>
    let a := g * 1024 + 16 * fld (freeWord s) 5 0
    let zero (e : Nat × LineCell) : Nat × LineCell :=
      if a ≤ e.1 ∧ e.1 < a + 16 then (e.1, { e.2 with value := 0 }) else e
    spend { s with acc := { s.acc with lines := s.acc.lines.map zero } }
  | .poolBuffer f =>
    match frame s f with
    | none => s
    | some x => if x.staging.isSome then abortFrame s f else s
  | .ringBuffer r i =>
    putRxWaits s r ((rxWaits s r).zipIdx.map fun w => if w.2 = i then { w.1 with spoiled := true } else w.1)
  | .otherSram => fatal s

/-! ### Recalibration (R496, R498, R501) -/

/-- KIND and UNIT of MAINT_COMP_LAST. -/
def unitCode (u : RecalUnit) : Nat :=
  match u with
  | .hlane n => n
  | .copper c => 64 + c
  | .twinLane k => 128 + k

/-- The port that a lane or a copper port belongs to; a twin lane belongs to none. -/
def unitPort (s : State) (u : RecalUnit) : Option Nat :=
  match u with
  | .hlane n => if laneMode s n = 0x10 ∨ laneMode s n = 0x11 then groupPort s (laneGroup s n)
    else some (n - n % modeLanes (laneMode s n))
  | .copper c => some (48 + c)
  | .twinLane _ => none

/-- The unit carries a parent path (R248). -/
def unitOnPath (s : State) (u : RecalUnit) : Bool := (unitPort s u).any (parentPath s)

/-- The activity that recalibrates a unit: SERDES_RECAL or PHY_RECAL (Table 18-1). -/
def unitActivity (u : RecalUnit) : Nat :=
  match u with
  | .copper _ => 4
  | _ => 3

/-- The octet of a unit, of which one recalibrates at a time; the twin lanes are taken as one (log entry 160). -/
def unitOctet (u : RecalUnit) : Nat := unitCode u / 8

/-- The units of the populated lanes and ports. -/
def recalUnits (s : State) : List RecalUnit :=
  ((List.finRange 48).filter fun n : Fin 48 => popBit s (n / 8)).map RecalUnit.hlane ++
    ((List.finRange 32).filter fun c : Fin 32 => isCPort s c).map RecalUnit.copper ++
    (if popBit s 22 then (List.finRange 4).map RecalUnit.twinLane else [])

/-- The tick of a unit's last calibration; the first is that of stage 5. -/
def lastCal (s : State) (u : RecalUnit) : Nat := (find s.maint.cal (unitCode u)).getD (get 0 s.power.stageAt 5)

/-- The die has moved RECAL_TEMP, or for `twice` twice that, since the unit's last calibration: its temperature is not the
model's, and whether it has is free. -/
def tempMoved (s : State) (u : RecalUnit) (twice : Bool) : Bool :=
  (Config.freeWord (s.freeCtr + 2 * (unitCode u / 64) + bnat twice)).getLsbD (unitCode u % 64)

/-- A unit on a parent path is deferred from now on: it counts (R501). -/
def deferUnit (s : State) (u : RecalUnit) : State × RecalWait :=
  if unitOnPath s u then (bump s Ctr.maint [] 5 1, ⟨u, some s.time.dt⟩) else (s, ⟨u, none⟩)

/-- Unit `u` falls due, unless it runs or waits already. -/
def fallDue (s : State) (u : RecalUnit) : State :=
  if (s.maint.recal.any fun r => r.unit == u) || (s.maint.due.any fun d => d.unit == u) then s
  else
    let (s, d) := deferUnit s u
    { s with maint := { s.maint with due := s.maint.due ++ [d] } }

/-- A unit that waits comes onto a parent path, or leaves it. -/
def followPath (s : State) (d : RecalWait) : State :=
  let (s', d') := if d.onPath.isSome && unitOnPath s d.unit then (s, d) else deferUnit s d.unit
  { s' with maint := { s'.maint with due := s'.maint.due.map fun x => if x.unit == d.unit then d' else x } }

/-- How a unit that waits would run now: not at all, or compensated or not. -/
def runsAs (s : State) (d : RecalWait) : Option Bool :=
  match d.onPath with
  | none => some false
  | some t =>
    if t + 800000000 * max 1 (rd s Reg.maintCfg [] 31 20) ≤ s.time.dt || tempMoved s d.unit true then some true else none

/-- Table 18-2 bars unit `u` now: another one of its octet or four device-wide run, its ring pair is OPENING, or a cable
diagnostic runs in its copper octet. -/
def recalBarred (s : State) (u : RecalUnit) : Bool :=
  decide (4 ≤ s.maint.recal.length) || (s.maint.recal.any fun r => unitOctet r.unit == unitOctet u) ||
    match u with
    | .hlane n => decide (40 ≤ n.val) && ringState s ((n - 40) / 2) == 1
    | .copper c => (List.range 8).any fun k => (port s (48 + c / 8 * 8 + k)).diagRuns
    | .twinLane _ => false

/-- A unit that waits is admitted where nothing bars it. -/
def admitUnit (s : State) (d : RecalWait) : State :=
  match runsAs s d with
  | none => s
  | some c =>
    if recalBarred s d.unit then s
    else { s with maint := { s.maint with recal := s.maint.recal ++ [⟨d.unit, c⟩],
                                          due := s.maint.due.filter fun x => x.unit != d.unit } }

/-- The cable diagnostics that have waited for a recalibration of their octet begin. -/
def startDiags (s : State) : State :=
  (List.range 32).foldl (fun s c =>
    if rdBit s Reg.cpDiagCtrl [c] 3 && !octetRecal s c then putPort s (48 + c) { port s (48 + c) with diagRuns := true } else s) s

/-- The recalibrations of a slot: what falls due, and what is admitted, the longest due first; MC3, which runs the arbiter, admits
nothing while it is down (R457). -/
def recalCycle (s : State) : State :=
  if !stageDone s 5 then s
  else
    let late := (recalUnits s).filter fun u => decide (lastCal s u + 2880000000000 ≤ s.time.dt) || tempMoved s u false
    let s := late.foldl fallDue s
    let s := startDiags (s.maint.due.foldl followPath s)
    if coreDown s 3 then s else s.maint.due.foldl admitUnit s

/-- A recalibration that runs ends. -/
def recalibrated (s : State) (u : RecalUnit) (compensated : Bool) : State :=
  if !s.maint.recal.contains ⟨u, compensated⟩ then s
  else
    let m := s.maint
    let s := { s with maint := { m with recal := m.recal.filter (· != ⟨u, compensated⟩), cal := put m.cal (unitCode u) s.time.dt } }
    let s := bump s Ctr.maint [] 4 1
    if compensated then
      putWord (countEvent (bump s Ctr.maint [] 6 1) Reg.maintCompCnt []) Reg.maintCompLast [] (BitVec.ofNat 32 (unitCode u))
    else s

/-! ### Admissions (R496 to R498) -/

/-- The activities that a request of the device's own keeps going: table DMA, staging, replacement, export, a cable diagnostic
that runs, a line move. -/
def requested (s : State) (a : Nat) : Bool :=
  match a with
  | 8 => s.host.tdma.isSome
  | 9 => s.img.staging.holder.isSome
  | 10 => replState s == 2 || replState s == 3
  | 11 => s.obs.moving.isSome
  | 12 => (List.range 32).any fun c => (port s (48 + c)).diagRuns
  | 13 => s.place.lineMoves != []
  | _ => false

/-- Activity `a` is admitted: scrubs and patrol, and those whose units fall due as a boundary has noted; recalibrations that run;
what is requested. -/
def maintActs (s : State) (a : Nat) : Bool :=
  rdBit s Reg.maintActive [] a || (s.maint.recal.any fun r => unitActivity r.unit == a) || requested s a

/-- Activity `a` waits (R498). -/
def maintWaits (s : State) (a : Nat) : Bool :=
  rdBit s Reg.maintWait [] a || (s.maint.due.any fun d => unitActivity d.unit == a) ||
    (a == 12 && (List.range 32).any fun c => rdBit s Reg.cpDiagCtrl [c] 3 && !(port s (48 + c)).diagRuns)

/-- Activities whose units fall due by the wear of flash or their cadence: whether one does at this boundary is free. -/
def mayRun (s : State) (a : Nat) : Bool :=
  match a with
  | 5 => !rdBit s Reg.timeRef [] 31
  | 6 => true
  | 7 => rdBit s Reg.obsTraceCfg [] 31 && rd s Reg.obsSnapCfg [] 31 16 != 0
  | _ => false

/-- The admissions of the slot that begins. -/
def maintCycle (s : State) : State :=
  if !forwards s then s
  else
    let s := recalCycle s
    let w := Config.freeWord (s.freeCtr + 6)
    let staging := s.img.staging.holder.isSome
    let up := !coreDown s 3
    let act := (List.range 14).map fun a => up && (decide (a < 3) || (mayRun s a && w.getLsbD a && !(a == 6 && staging)))
    let wait := (List.range 14).map fun a => a == 6 && staging && w.getLsbD a
    putWord (putWord { s with freeCtr := s.freeCtr + 7 } Reg.maintActive [] (wordOfBits act)) Reg.maintWait [] (wordOfBits wait)

/-! ### The ends of units (R499 to R501) -/

/-- An error of activity `a` lies in DRAM for the patrol, and on the die for a scrub. -/
def placeFits (a : Nat) (place : ErrorPlace) : Bool :=
  match place with
  | .delay _ => a == 2
  | .poolBuffer _ | .ringBuffer .. => a == 2
  | _ => decide (a < 2)

/-- What the end of a unit of activity `a` does (Table 18-1). -/
def unitEnds (s : State) (a : Nat) (res : MaintResult) : State :=
  match res with
  | .done =>
    if a = 2 then { s with maint := { s.maint with patrolLate := false } }
    else if a = 6 then bump s Ctr.maint [] 7 1
    else s
  | .corrected => if a < 3 then bump s Ctr.maint [] (if a = 2 then 2 else 0) 1 else s
  | .uncorrectable place => if placeFits a place then spoil (bump s Ctr.maint [] (if a = 2 then 3 else 1) 1) place else s
  | .recalibrated u c => if unitActivity u = a then recalibrated s u c else s
  | .deferred u => if unitActivity u = a ∧ (recalUnits s).contains u ∧ unitOnPath s u then fallDue s u else s
  | .patrolLate => if a = 2 then { s with maint := { s.maint with patrolLate := true } } else s
  | .block data error => if a = 11 then moveBlock s data error else s

/-- The result tells of a unit that falls due, which needs no admission. -/
def fallsDue (res : MaintResult) : Bool :=
  match res with
  | .deferred _ => true
  | _ => false

/-- MAINT_UNIT_DONE: a unit of activity `a`, which is admitted, ends, or a recalibration on a parent path falls due. -/
def execMaintUnitDone (a : Fin 14) (res : MaintResult) (s : State) : Host.Outcome State Fault Refusal :=
  done (if maintActs s a || fallsDue res then unitEnds s a res else s)

end Sys2Proof.Machine
end

