-- ==== Sys2Proof/Machine/Fabric.lean ====
section
/-! DEFINITION. The register fabric: how an address is decoded, what it reads as, what a write of it does, one bit at a time
or a word, and how voted words are kept (R405 to R431). An address is the offset from the management cores' base: BAR0 from
zero, BAR2 from 0x2000_0000 (R406), and BAR4 from 0x4000_0000 (log entry 12). -/
namespace Sys2Proof.Machine

/-! ### Decoding (R405 to R411) -/

def bar2 : Nat := 0x20000000

def bar4 : Nat := 0x40000000

/-- The word of BAR0 that BAR2 address `a` aliases, and its bit (R421). -/
def aliasOf (a : Nat) : Nat × Nat := (a / 128 * 4, a % 128 / 4)

/-- An address of BAR0 is decoded (R408, R409). -/
def mapped0 (a : Nat) : Bool := if a < 0x1000000 then (blockOf a).isSome else decide (a < 0x10000000) && windowDecoded a

/-- An address is decoded. -/
def mapped (a : Nat) : Bool :=
  if a < bar2 then mapped0 a
  else if a < bar4 then mapped0 (aliasOf (a - bar2)).1
  else decide (a < bar4 + 0x4000000)

/-- The staged half's offset of a register (R412). -/
def stagedOf (a : Nat) : Nat := if a < 0x1000000 ∧ 0x8000 ≤ a % 0x10000 then a - 0x8000 else a

/-- The offset lies in a live mirror. -/
def isLive (a : Nat) : Bool := a != stagedOf a

/-- An offset of the PIPE window of pipeline `k` is implemented there: the registers and counters of a port or of a ring lie
in the window of its own pipeline alone (R151, R442). -/
def pipeServes (s : State) (k off : Nat) : Bool :=
  let port (base stride : Nat) : Bool := decide (off < base ∨ base + 96 * stride ≤ off) || pipeOf s ((off - base) / stride) == k
  let ring (base stride : Nat) : Bool := decide (off < base ∨ base + 64 * stride ≤ off) || ringPipe s ((off - base) / stride) == k
  port 0x1000 0x40 && port 0x4000 0x40 && port 0x6000 4 && port 0x6200 4 &&
    ring 0x6400 0x20 && ring 0x6C00 0x20 && ring 0x7400 0x20 && ring 0x7C00 0x10

/-- The register or entry at a staged-half offset answers: its unit is populated and its window is open (R27, R54, R471). -/
def serves (s : State) (a : Nat) : Bool :=
  if 0x1000000 ≤ a then windowsOpen s
  else match blockOf a with
    | none => false
    | some (b, i, off) =>
      if b.base = 0 ∨ b.base = 0x10000 ∨ b.base = 0xF40000 then true
      else if !windowsOpen s then false
      else if b.base = 0x100000 then
        popBit s (i / 8) && (if 0x600 ≤ off ∧ off < 0x800 then true else if 0x800 ≤ off ∧ off < 0x900 then i % 4 == 0
          else isHPort s i)
      else if b.base = 0x400000 then isCPort s i
      else if b.base = 0x600000 then isPipe s i && pipeServes s i off
      else true

/-- What a counter group holds at an offset: a low word, a high word, a word of most significant bits, or of epochs. -/
inductive CtrPart where
  | low | high | msb | epoch
  deriving DecidableEq, Repr

/-- The counter, or the word of bits of a counter group, at a staged-half offset. -/
def ctrAt (a : Nat) : Option (CtrGroup × List Nat × Nat × CtrPart) :=
  let value (g : CtrGroup) : Option (CtrGroup × List Nat × Nat × CtrPart) :=
    (g.index a).map fun x => (g, x.1, x.2.1, if x.2.2 then .high else .low)
  let words (g : CtrGroup) : Option (CtrGroup × List Nat × Nat × CtrPart) :=
    ((g.wordIndex g.msb a).map fun x => (g, x.1, x.2, CtrPart.msb)) <|>
      ((g.wordIndex g.epoch a).map fun x => (g, x.1, x.2, CtrPart.epoch))
  ctrGroups.findSome? (fun g => value g <|> words g) <|> ringGroups.findSome? value

/-! ### Bus errors (R407, R410) -/

/-- A bus error: KIND 0 unmapped, 1 width or alignment. -/
def busError (s : State) (req : Requester) (a kind : Nat) (write : Bool) : State :=
  let alias_ := decide (bar2 ≤ a ∧ a < bar4)
  let s := countEvent s Reg.glbBuserrCnt []
  let s := putWord s Reg.glbBuserrLast [] (BitVec.ofNat 32 (if a < bar2 then a else if a < bar4 then a - bar2 else a - bar4))
  let s := putWord s Reg.glbBuserrInfo [] (BitVec.ofNat 32 (bnat alias_ * 64 + bnat write * 32 + kind * 16 + reqCode req))
  emit s (.busError req a)

/-- The KIND of the bus error that an access of `width` bytes makes, if it makes one. -/
def busFault (a width : Nat) : Option Nat :=
  if a % 4 ≠ 0 ∨ width ≠ 4 then some 1 else if mapped a then none else some 0

/-! ### The Fixative store (R425 to R428) -/

/-- The vote of Table 14-5 over three copies, none where a copy's error cannot be corrected. -/
inductive Vote where
  | clean (w : Word)
  | fixed (w : Word) (copy : Nat)
  | degraded (w : Word) (copy : Nat)
  | lost
  deriving DecidableEq, Repr

/-- The one member of a list, or 3 for more than one. -/
def copyCode : List Nat → Nat
  | [k] => k
  | _ => 3

def vote (copies : List (Option Word)) : Vote :=
  let at_ (k : Nat) : Option Word := (copies.getD k none)
  let gone := (List.range 3).filter fun k => (at_ k).isNone
  match at_ 0, at_ 1, at_ 2 with
  | some a, some b, some c =>
    let m := (a &&& b) ||| (b &&& c) ||| (a &&& c)
    let wrong := (List.range 3).filter fun k => at_ k != some m
    if wrong = [] then .clean m else .fixed m (copyCode wrong)
  | some a, some b, none => if a = b then .degraded a (copyCode gone) else .lost
  | some a, none, some c => if a = c then .degraded a (copyCode gone) else .lost
  | none, some b, some c => if b = c then .degraded b (copyCode gone) else .lost
  | some a, none, none => .degraded a (copyCode gone)
  | none, some b, none => .degraded b (copyCode gone)
  | none, none, some c => .degraded c (copyCode gone)
  | none, none, none => .lost

/-- The staged or effective copies of a voted word take a value. -/
def putVoted (s : State) (r : RegRow) (ix : List Nat) (force : Bool) (w : Word) : State :=
  if force then putWord s r ix w else putStaged s r ix w

/-- One word is read with its copies struck by `us`: it is voted, and the copies take the result. -/
def voteWord (s : State) (r : RegRow) (ix : List Nat) (force : Bool) (us : List Upset) : State :=
  if !r.voted || us == [] then s
  else
    let w := if force then word s r ix else stagedWord s r ix
    let copies := (List.range 3).map fun k =>
      let mine := us.filter fun u => u.copy.val == k
      if mine.any (·.lost) then none else some (mine.foldl (fun x u => x ^^^ u.flip) w)
    let note (s : State) (cnt last : RegRow) (copy : Nat) : State :=
      putWord (countEvent s cnt []) last [] (BitVec.ofNat 32 (copy * 2 ^ 30 + bnat force * 2 ^ 29 + r.addr ix % 2 ^ 24))
    match vote copies with
    | .clean x => putVoted s r ix force x
    | .fixed x k => note (putVoted s r ix force x) Reg.fixFixCnt Reg.fixFixLast k
    | .degraded x k => note (putVoted s r ix force x) Reg.fixDegradeCnt Reg.fixDegradeLast k
    | .lost =>
      let s := putVoted s r ix force (r.resetWord ix)
      fatal { s with fix := { s.fix with lost := true } }

/-- A read of one half of the word at a staged-half offset, with the upsets that strike it. -/
def voteAt (s : State) (a : Nat) (force : Bool) (us : List Upset) : State :=
  match rowAt a with
  | none => s
  | some (r, ix) => voteWord s r ix force (us.filter fun u => u.addr == a && u.inForce == force)

/-- The scrub of a device cycle: every voted word that an upset strikes is voted, in both halves (R427). -/
def scrub (s : State) (us : List Upset) : State :=
  ((us.map fun u => (u.addr, u.inForce)).eraseDups).foldl (fun s x => voteAt s x.1 x.2 us) s

/-! ### What a register reads as (R411 to R413) -/

/-- CLASS_STATE and PORT_STATE of the accounts of requester `r` (R203). -/
def accountState (s : State) (r : Nat) : Nat :=
  portWarn s r + ((List.range 8).map fun c => classWarn s r c * 2 ^ (16 + 2 * c)).sum

/-- The most significant bits of a ring's counters. -/
def ringMsb (s : State) (g : CtrGroup) (ix : List Nat) : Nat := (msbWord s g ix 0).toNat

/-- The stamp at the head of the queue of PPSIN `k`, in its REPORT_TB. -/
def ppsinHead (s : State) (k : Nat) : Nat × Nat :=
  match ppsin s k with
  | [] => (0, 0)
  | x :: _ =>
    let t := timeFormat (x.tb.getD (rd s Reg.timePpsinCfg [k] 29 28) 0)
    (t.1, t.2.1)

/-- The state and version of a flash bank as IMG_BANK_STAT and IMG_BANK_VER show it. -/
def bankState (s : State) (b : Nat) : Nat := (s.img.banks.getD b Bank.blank).state

def bankVer (s : State) (b : Nat) : Word := if 2 ≤ bankState s b then (s.img.banks.getD b Bank.blank).ver else 0

/-- Registers whose values are computed when they are read. -/
def computedWord (s : State) (r : RegRow) (ix : List Nat) : Option Word :=
  let i := ix.getD 0 0
  let k := ix.getD 1 0
  let w (x : RegRow) : Bool := r.base == x.base
  let n (v : Nat) : Option Word := some (BitVec.ofNat 32 v)
  let with_ (hi lo v : Nat) : Option Word := some (setFld (word s r ix) hi lo v)
  if w Reg.unitIdLo then n (unitIdNow s).toNat
  else if w Reg.unitIdHi then n ((unitIdNow s).toNat / 2 ^ 32)
  else if w Reg.glbPop then n s.image.pop.toNat
  else if w Reg.glbCond then some (glbCond s)
  else if w Reg.irqSrcLevel then some (wordOfBits ((List.range 32).map fun j => sourceLevel s (32 * i + j)))
  else if w Reg.irqVecLevel then some (wordOfBits ((List.range 32).map fun j => vectorLevel s (32 * i + j)))
  else if w Reg.irqPinStat then n (bnat (intAsserted s))
  else if w Reg.fixStat then n Config.voteWords.toNat
  else if w Reg.fixCond then some (fixCond s)
  else if w Reg.hpCond then some (hpCond s i)
  else if w Reg.cpCond then some (cpCond s i)
  else if w Reg.pipeCond then some (pipeCond s i)
  else if w Reg.hostRxSum then some (ringSum s false i k)
  else if w Reg.hostTxSum then some (ringSum s true i k)
  else if w Reg.hostHalfSum then some (ringHalfSum s i k)
  else if w Reg.hostRxStat then with_ 26 24 (ringMsb s Ctr.hostRx ix)
  else if w Reg.hostTxStat then with_ 26 24 (ringMsb s Ctr.hostTx ix)
  else if w Reg.fdbFlush then with_ 30 30 (bnat (flushBusy s))
  else if w Reg.fdbDefer then n s.fdb.deferQueue.length
  else if w Reg.fdbOccDyn then n ((fdbValid s).filter fun x => !flag x.2 126).length
  else if w Reg.fdbOccStatic then n ((fdbValid s).filter fun x => flag x.2 126).length
  else if w Reg.fdbOccStash then n (stashUsed s)
  else if w Reg.fdbCond then some (fdbCond s)
  else if w Reg.fdbPortCnt then n (portCount s i)
  else if w Reg.strmCond then some (strmCond s)
  else if w Reg.strmHalfTop then some (topWord s Ctr.stream 65536 i)
  else if w Reg.strmHalfSum then some (sumWord s Ctr.stream 65536 i)
  else if w Reg.bpmPoolFree then n (poolFree s i)
  else if w Reg.bpmPoolResuse then n (pool s i).reserveUsed
  else if w Reg.bpmCond then some (bpmCond s)
  else if w Reg.bpmAccLevel then n (charged s (i * 9))
  else if w Reg.bpmAccState then n (accountState s i)
  else if w Reg.schedCond then some (schedCond s)
  else if w Reg.schedHalfTop then some (topWord s Ctr.queue 262144 i)
  else if w Reg.timeCond then some (timeCond s)
  else if w Reg.timeCtxHalf then some (sumWord s Ctr.ptp 320 i)
  else if w Reg.timePpsinLevel then n (ppsin s i).length
  else if w Reg.timePpsinSLo then n (ppsinHead s i).1
  else if w Reg.timePpsinSHi then n ((ppsinHead s i).1 / 2 ^ 32)
  else if w Reg.timePpsinNs then n (ppsinHead s i).2
  else if w Reg.accCond then some (accCond s)
  else if w Reg.accSubHalf then some (sumWord s Ctr.sub 4096 i)
  else if w Reg.accOutHalf then some (sumWord s Ctr.outStream 2048 i)
  else if w Reg.accJobHalf then some (sumWord s Ctr.jobClip 1024 i)
  else if w Reg.accPerfHalf then some (sumWord s Ctr.engine 64 i)
  else if w Reg.placeCond then some (placeCond s)
  else if w Reg.izlCond then some (izlCond s)
  else if w Reg.twinCond then some (twinCond s)
  else if w Reg.twinWtrLeft then n (wtrLeft s)
  else if w Reg.twinRingStat then with_ 28 28 (bnat (ringReady s i))
  else if w Reg.glbBootStat then with_ 25 24 (if stageDone s 1 then min 3 (fatalCount s) else 0)
  else if w Reg.imgSec then
    n ((s.img.bundle.elim 0 (·.svn)) * 2 ^ 16 + s.img.floor % 256 * 2 ^ 8 + bnat s.img.custKey.isSome)
  else if w Reg.imgBankStat then
    n (s.img.running.getD 0 * 512 + s.img.named * 256 + bankState s 0 * 16 + bankState s 1)
  else if w Reg.imgBankVer then some (bankVer s i)
  else if w Reg.imgStageStat then with_ 9 0 (idleLeft s)
  else if w Reg.imgUpdReport then n (min 254 s.img.report.length)
  else if w Reg.imgCond then some (imgCond s)
  else if w Reg.maintActive then some (wordOfBits ((List.range 14).map (maintActs s)))
  else if w Reg.maintWait then some (wordOfBits ((List.range 14).map (maintWaits s)))
  else if w Reg.maintCond then some (maintCond s)
  else if w Reg.obsCond then some (obsCond s)
  else none

/-- The value of register `r` in its staged half or in its live mirror: RW fields as written or as in force, every other
field the same in both; reserved bits and doorbells read zero (R413, R552). -/
def regWord (s : State) (r : RegRow) (ix : List Nat) (live : Bool) : Word :=
  let rw := r.mask fun f => f.acc == .rw
  let seen := r.mask fun f => f.acc != .wo
  let base := (computedWord s r ix).getD (word s r ix)
  let ball := r.base == Reg.maintBall.base
  let base := if ball then setFld base 8 8 (bnat (ballLevel s (ix.getD 0 0))) else base
  let shown := if live then base else blend rw base (stagedWord s r ix)
  (if ball && ballClaimed s (ix.getD 0 0) then setFld shown 31 28 7 else shown) &&& seen

/-- The MSI-X table and pending bit array: a vector that is masked and would otherwise send is pending (R434). -/
def holdoffPassed (s : State) (v : Nat) : Bool :=
  match find s.irq.lastMessage v with
  | none => true
  | some t => decide (t + rd s Reg.irqVecCfg [v] 15 0 * 800 ≤ s.time.dt)

def vectorMasked (s : State) (v : Nat) : Bool := s.irq.functionMask || s.irq.masked.getLsbD v

def vectorPending (s : State) (v : Nat) : Bool := wouldSend s v && holdoffPassed s v && vectorMasked s v

/-- A word of the IRQ window from 0x0400 to 0x0807. -/
def msixWord (s : State) (a : Nat) : Word :=
  if a < 0x10800 then
    if a % 16 = 12 then BitVec.ofNat 32 (bnat (s.irq.masked.getLsbD ((a - 0x10400) / 16))) else get 0 s.irq.msixTable a
  else wordOfBits ((List.range 32).map fun j => vectorPending s ((a - 0x10800) / 4 * 32 + j))

/-- A word of the update report (R491). -/
def reportWord (s : State) (a : Nat) : Word :=
  match s.img.report[(a - 0xF41010) / 8]? with
  | none => 0
  | some (id, old, new, act) => BitVec.ofNat 32 (if a % 8 = 0 then id * 2 ^ 16 + old % 65536 else new % 65536 * 2 ^ 16 + act % 4)

/-- The shadow of requester `req` for the counter whose low word lies at `a` (R79). -/
def shadowKey (req : Requester) (a : Nat) : Nat := reqCode req * 2 ^ 32 + a

/-- A word of a counter group as `req` reads it; a high word is the requester's shadow. -/
def ctrWord (s : State) (req : Requester) (g : CtrGroup) (ix : List Nat) (i : Nat) (p : CtrPart) : Word :=
  match p with
  | .low => BitVec.ofNat 32 (ctr s g ix i)
  | .high => get 0 s.regs.shadows (shadowKey req (g.addr ix i))
  | .msb => msbWord s g ix i
  | .epoch => epochWord s g ix i

/-- A lane register of an H-port's window, which the spec does not document (R54, log entry 146). -/
def laneReg (b : Nat) : Bool := decide (0x100000 ≤ b ∧ b < 0x400000 ∧ 0x600 ≤ b % 0x10000 ∧ b % 0x10000 < 0x800)

/-- Word `w` of entry `e` of the error log (R209). -/
def errorWord (s : State) (e w : Nat) : Word := BitVec.ofNat 32 ((get 0 s.bpm.errorLog e).toNat / 2 ^ (32 * w))

/-- The word at a decoded offset of BAR0 as `req` reads it. -/
def peek (s : State) (req : Requester) (a : Nat) : Word :=
  let b := stagedOf a
  if !serves s b then 0
  else match ctrAt b with
    | some (g, ix, i, p) => ctrWord s req g ix i p
    | none =>
      if 0x5000000 ≤ b ∧ b < 0x5008000 then sumWord s Ctr.queue 262144 ((b - 0x5000000) / 4)
      else if 0x1000000 ≤ b then
        match tableAt b with
        | none => 0
        | some (t, i, w) => tableWord s t i w
      else if 0x10400 ≤ b ∧ b < 0x10808 then msixWord s b
      else if 0xF41010 ≤ b ∧ b < 0xF41800 then reportWord s b
      else if 0xC00400 ≤ b ∧ b < 0xC00800 then errorWord s ((b - 0xC00400) / 16) (b % 16 / 4)
      else if laneReg b then BitVec.ofNat 32 (freeWord s).toNat
      else match rowAt b with
        | none => 0
        | some (r, ix) => regWord s r ix (isLive a)

/-- A read of a voted word at a decoded offset of BAR0 votes it (R426). -/
def voteRead (s : State) (a : Nat) (us : List Upset) : State :=
  if serves s (stagedOf a) then voteAt s (stagedOf a) (isLive a) us else s

/-- A read of a counter's low word latches its high word in the requester's shadow (R79). -/
def latch (s : State) (req : Requester) (a : Nat) : State :=
  let b := stagedOf a
  match ctrAt b with
  | some (g, ix, i, .low) =>
    { s with regs := { s.regs with shadows := set 0 s.regs.shadows (shadowKey req b) (BitVec.ofNat 32 (ctr s g ix i / 2 ^ 32)) } }
  | _ => s

/-- A read of a ball draws the level of a ball that nothing here drives, and one of a lane register what it holds. -/
def drawOpen (s : State) (a : Nat) : State :=
  if laneReg (stagedOf a) then spend s
  else match rowAt (stagedOf a) with
    | none => s
    | some (r, _) => if r.base = Reg.maintBall.base then spend s else s

/-- LPI_TX_US of a copper port that is read in transmit LPI holds the time until now (R108). -/
def settleLpi (s : State) (a : Nat) : State :=
  if 0x400000 ≤ a ∧ a < 0x600000 then countLpi s (48 + (a - 0x400000) / 0x10000) else s

/-- The engine counter that an offset of BAR4 repeats, by its BAR0 offset, where the page shows values (R312). -/
def pageCounter (s : State) (o : Nat) : Option Nat :=
  let k := (o - 0x3FF8000) / 0x1000
  let off := (o - 0x3FF8000) % 0x1000
  if 0x3FF8000 ≤ o ∧ off < 0x200 ∧ rdBit s Reg.accClusterCfg [k] 0 then some (Ctr.engine.addr [8 * k] 0 + off) else none

/-- The word of BAR4 at offset `o`: shared memory, least significant byte first, or an engine counter page. -/
def bar4Word (s : State) (o : Nat) : Word :=
  let k := (o - 0x3FF8000) / 0x1000
  let off := (o - 0x3FF8000) % 0x1000
  if o < 0x3FF8000 then BitVec.ofNat 32 (ofBytes (Memory.readList s.bar4 o 4).reverse)
  else match pageCounter s o with
    | some a => peek s .host a
    | none =>
      if rdBit s Reg.accClusterCfg [k] 0 && decide (0x800 ≤ off ∧ off < 0x840) && off % 8 == 0 then
        msbWord s Ctr.engine [8 * k + (off - 0x800) / 8] 0
      else 0

/-- A read of a decoded word: the state it leaves and the value. An alias read latches no shadow (R422). -/
def readWord (s : State) (req : Requester) (a : Nat) (us : List Upset) : State × Word :=
  if a < bar2 then
    let s := settleLpi (voteRead s a us) a
    let v := peek s req a
    (drawOpen (latch s req a) a, v)
  else if a < bar4 then
    let (w, i) := aliasOf (a - bar2)
    let s := settleLpi (voteRead s w us) w
    let v := peek s req w
    (drawOpen s w, BitVec.ofNat 32 (bnat (flag v i)))
  else
    let o := a - bar4
    ((pageCounter s o).elim s (latch s .host), bar4Word s o)

/-- A read by the host or a management core. -/
def busRead (s : State) (req : Requester) (a width : Nat) (us : List Upset) : State :=
  if s.power.inReset then s
  else match busFault a width with
    | some k => busError s req a k false
    | none =>
      let (s, v) := readWord s req a us
      emit s (.readDone req a v)

/-! ### What a write does (R413, R415, R421 to R424) -/

/-- GLB_MS_HOLD: the host writes HOLD_HOST alone and the management cores HOLD_MC alone (R418). -/
def msHoldWrite (s : State) (req : Requester) (data : Word) : State :=
  let mc := isMc req
  let i := bnat mc
  if flag data i then wrBoth s Reg.glbMsHold [] i i 1 else dropHold s mc

/-- IRQ_VEC_REARM: each vector whose bit is written is armed (R434). -/
def rearm (s : State) (w : Nat) (data : Word) : State :=
  { s with irq := { s.irq with disarmed := s.irq.disarmed &&& ~~~ BitVec.ofNat 64 (data.toNat * 2 ^ (32 * w)) } }

/-- The head of the queue of PPSIN `k` is removed. -/
def popPpsin (s : State) (k : Nat) : State := putPpsin s k ((ppsin s k).drop 1)

/-- A written word of a register reaches its staged half and starts what it starts. -/
def landWord (s : State) (req : Requester) (r : RegRow) (ix : List Nat) (data : Word) : State :=
  let i := ix.getD 0 0
  let k := ix.getD 1 0
  let w (x : RegRow) : Bool := r.base == x.base
  let ack := r.mask fun f => f.acc == .ak
  if ack ≠ 0 then putWord s r ix (data &&& ack)
  else if w Reg.glbMsHold then msHoldWrite s req data
  else if w Reg.glbResetCmd then resetCmdWrite s req data
  else if w Reg.glbTdmaCtrl then tdmaWrite s req data
  else if w Reg.irqVecRearm then rearm s i data
  else if w Reg.hpCfg then hpCfgWrite s req i data
  else if w Reg.hpModCfg then modCfgWrite s req i data
  else if w Reg.hpModXfer then moduleXferWrite s req (i / 4) data
  else if w Reg.cpCfg then cpCfgWrite s req i data
  else if w Reg.cpDiagCtrl then diagWrite s req i data
  else if w Reg.hostRxCfg then ringCfgWrite s req false k data
  else if w Reg.hostTxCfg then ringCfgWrite s req true k data
  else if w Reg.hostRxBaseLo then ringBaseWrite s req false false k data
  else if w Reg.hostTxBaseLo then ringBaseWrite s req true false k data
  else if w Reg.hostRxBaseHi then ringBaseWrite s req false true k data
  else if w Reg.hostTxBaseHi then ringBaseWrite s req true true k data
  else if w Reg.hostRxTail then ringTailWrite s req false k data
  else if w Reg.hostTxTail then ringTailWrite s req true k data
  else if w Reg.fdbCmdCtrl then fdbCmd s req data
  else if w Reg.fdbFlush then fdbFlush s req data
  else if w Reg.fdbMdbEdit then mdbEditWrite s req data
  else if w Reg.fdbHashSeed then seedWrite s req i data
  else if w Reg.fdbLockHost then (if isMc req then s else lockWrite s false i data)
  else if w Reg.fdbLockMc then (if isMc req then lockWrite s true i data else s)
  else if w Reg.strmCmdCtrl then sidCommand s req data
  else if w Reg.strmCtxCmd then contextCommandWrite s req data
  else if w Reg.strmHashSeed then sidSeedWrite s req i data
  else if w Reg.schedQCmd then queueCommandWrite s req data
  else if w Reg.schedGateCfg then
    let s := stage s req r ix 0xFFFFFFFF data
    if flag data 31 then gateCommit s req i else s
  else if w Reg.schedVoqRoute then (if i = ownDevice s then s else stage s req r ix 0xFFFFFFFF data)
  else if w Reg.timeCapture then (if flag data 0 then captureTime s else s)
  else if w Reg.timePpsinPop then (if flag data 0 then popPpsin s i else s)
  else if w Reg.timeTbCmd then tbCommandWrite s req i data
  else if w Reg.accJobCmd then jobCommandWrite s req data
  else if w Reg.placeQCmd then placeQWrite s req data
  else if w Reg.izlHierCmd then hierCmdWrite s req data
  else if w Reg.twinCmd then twinCmdWrite s req data
  else if w Reg.twinRingCtrl then ringCtrlWrite s req i data
  else if w Reg.imgSiReplCtrl then replCtrlWrite s data
  else if w Reg.imgStageCmd then stageCmdWrite s req data
  else if w Reg.imgUpdCmd then updCmdWrite s req data
  else if w Reg.imgHierCmd then imgHierWrite s req data
  else if w Reg.maintBall then ballWrite s req i data
  else if w Reg.obsRecCtrl then recCtrlWrite s data
  else if w Reg.obsExpCtrl then expCtrlWrite s req data
  else if w Reg.obsRerunCtrl then rerunCtrlWrite s req data
  else stage s req r ix 0xFFFFFFFF data

/-- An epoch word takes the bits of its implemented counters. -/
def putEpoch (s : State) (g : CtrGroup) (ix : List Nat) (w : Nat) (data : Word) : State :=
  { s with regs := { s.regs with inForce := set 0 s.regs.inForce (g.epochAddr ix w) (data &&& g.implemented w) } }

/-- A written word of the MSI-X table: an address, data, or the mask bit of vector control. -/
def msixWrite (s : State) (a : Nat) (data : Word) : State :=
  if 0x10800 ≤ a then s
  else if a % 16 = 12 then
    let m := BitVec.ofNat 64 (2 ^ ((a - 0x10400) / 16))
    { s with irq := { s.irq with masked := if flag data 0 then s.irq.masked ||| m else s.irq.masked &&& ~~~m } }
  else { s with irq := { s.irq with msixTable := set 0 s.irq.msixTable a data } }

/-- A word written at a decoded offset of BAR0; the live mirror ignores it (R412). -/
def land0 (s : State) (req : Requester) (a : Nat) (data : Word) : State :=
  if isLive a then s
  else match ctrAt a with
    | some (g, ix, w, .epoch) => putEpoch s g ix w data
    | some _ => s
    | none =>
      if 0x1000000 ≤ a then tableWrite s req a data
      else if 0x10400 ≤ a ∧ a < 0x10808 then msixWrite s a data
      else match rowAt a with
        | none => s
        | some (r, ix) => landWord s req r ix data

/-- The access code of a bit of a register, none where it is reserved. -/
def RegRow.accessOf (r : RegRow) (i : Nat) : Option Access :=
  (r.fields.find? fun f => decide (f.lo ≤ i ∧ i ≤ f.hi)).map (·.acc)

/-- A word with bit `i` replaced. -/
def setBit (w : Word) (i : Nat) (b : Bool) : Word := setFld w i i (bnat b)

/-- Bit `i` of the word at offset `a` written through the alias window (R423). -/
def landBit (s : State) (req : Requester) (a i : Nat) (b : Bool) : State :=
  if isLive a then s
  else match ctrAt a with
    | some (g, ix, w, .epoch) => putEpoch s g ix w (setBit (epochWord s g ix w) i b)
    | some _ => s
    | none =>
      if 0x10400 ≤ a ∧ a < 0x10808 then msixWrite s a (setBit (msixWord s a) i b)
      else match rowAt a with
        | none => s
        | some (r, ix) =>
          let rw := r.mask fun f => f.acc == .rw
          match r.accessOf i with
          | some .rw =>
            if (r.mask fun f => f.acc == .wo) = 0 && r.base != Reg.glbMsHold.base && r.base != Reg.maintBall.base &&
                r.base != Reg.hpModCfg.base &&
                r.base != Reg.fdbHashSeed.base && r.base != Reg.strmHashSeed.base && r.base != Reg.fdbLockHost.base &&
                r.base != Reg.fdbLockMc.base && r.base != Reg.schedVoqRoute.base && !(0x606400 ≤ r.base && r.base < 0x607400) then
              stage s req r ix (maskOf i i) (if b then maskOf i i else 0)
            else if r.base = Reg.maintBall.base then
              (if i < 28 then ballDrive else ballWrite) s req (ix.getD 0 0) (setBit (word s r ix) i b)
            else if r.base = Reg.glbMsHold.base then (if i = bnat (isMc req) then msHoldWrite s req (if b then 3 else 0) else s)
            else landWord s req r ix (setBit (stagedWord s r ix &&& rw) i b)
          | some .wo => if b then landWord s req r ix (setBit (stagedWord s r ix &&& rw) i true) else s
          | some .ak => putWord s r ix (setBit (word s r ix) i b)
          | some .ro => s
          | none => s

/-! ### Accesses that write -/

/-- A staged-half offset lies in GLB, IRQ or OBS. -/
def benchBlock (a : Nat) : Bool := decide (a < 0x20000 ∨ (0xFC0000 ≤ a ∧ a < 0xFD0000))

/-- A write that the bus completes: in a rerun the bench's own writes to other blocks are ignored and count (R522); a host
write is recorded (Table 19-4); and `f` follows where the register answers. -/
def accept (s : State) (req : Requester) (flags a0 a : Nat) (data : Word) (f : State → State) : State :=
  let body := toBytes 4 a ++ toBytes 4 data.toNat
  if s.power.inReset || req == .spi then s
  else if decide (2 ≤ rerunState s) && req == .host && !benchBlock a0 && flags != 2 then
    bump s Ctr.obs [] 4 1
  else
    let s := if req = .host then record s 2 flags 0 body else s
    if flags = 2 || serves s a0 then f s else s

/-- A write of the word at offset `a` of BAR0, by a command that stands for it; `f` is what it does. -/
def doorbell (s : State) (req : Requester) (a : Nat) (data : Word) (f : State → State) : State := accept s req 0 a a data f

/-- A write of the words `ws` of a table entry from offset `a` on, the highest last, by a command that stands for it. -/
def entryDoorbell (s : State) (req : Requester) (a : Nat) (ws : List Word) (f : State → State) : State :=
  let n := ws.length - 1
  let s := (ws.take n).zipIdx.foldl (fun s w => doorbell s req (a + 4 * w.2) w.1 id) s
  doorbell s req (a + 4 * n) (ws.getD n 0) f

/-- A write of `width` bytes by the host or a management core. -/
def busWrite (s : State) (req : Requester) (a width : Nat) (data : Word) : State :=
  if s.power.inReset then s
  else match busFault a width with
    | some k => busError s req a k true
    | none =>
      if a < bar2 then accept s req 0 (stagedOf a) a data fun s => land0 s req a data
      else if a < bar4 then
        let (w, i) := aliasOf (a - bar2)
        accept s req 1 (stagedOf w) (a - bar2) data fun s => landBit s req w i (flag data 0)
      else
        let o := a - bar4
        accept s req 2 a o data fun s =>
          if o < 0x3FF8000 then { s with bar4 := Memory.writeList s.bar4 o (toBytes 4 data.toNat).reverse } else s

/-! ### Commands -/

/-- REGISTER_WRITE: any word that an address names. -/
def execRegisterWrite (req : Requester) (a : Nat) (data : BusWord) (s : State) : Host.Outcome State Fault Refusal :=
  done (busWrite s req a data.width data.word)

/-- The offset holds an acknowledge register or an epoch word. -/
def isAck (a : Nat) : Bool :=
  match ctrAt a with
  | some (_, _, _, p) => p == .epoch
  | none => (rowAt a).any fun x => x.1.fields.any fun f => f.acc == .ak

/-- ACKNOWLEDGE_WRITE. -/
def execAcknowledgeWrite (req : Requester) (a : Nat) (data : Word) (s : State) : Host.Outcome State Fault Refusal :=
  done (if isAck a then busWrite s req a 4 data else s)

/-- ALIAS_WRITE: a write at a BAR2 address. -/
def execAliasWrite (req : Requester) (a : Nat) (data : Word) (s : State) : Host.Outcome State Fault Refusal :=
  done (if a < 0x20000000 then busWrite s req (bar2 + a) 4 data else s)

/-- TABLE_ENTRY_WRITE: one word of a table window is written (R409). -/
def execTableEntryWrite (req : Requester) (a : Nat) (data : Word) (s : State) : Host.Outcome State Fault Refusal :=
  done (if 0x1000000 ≤ a ∧ a < 0x10000000 then busWrite s req a 4 data else s)

/-- REGISTER_READ. -/
def execRegisterRead (req : Requester) (a width : Nat) (us : List Upset) (s : State) : Host.Outcome State Fault Refusal :=
  done (busRead s req a width us)

/-- COUNTER_LOW_READ. -/
def execCounterLowRead (req : Requester) (a : Nat) (s : State) : Host.Outcome State Fault Refusal :=
  done (match ctrAt (stagedOf a) with
    | some (_, _, _, .low) => busRead s req a 4 []
    | _ => s)

/-- A value at `a` that waits for FRM takes effect in one direction of port `p` while no frame of that direction is in progress;
credits grow at the old slope until then, and are capped then (R220, R415). -/
def frmDeadline (a : Nat) (s : State) (p : Nat) : State :=
  let s := if (port s p).receiving.isSome then s else frmApply s p true (· == a)
  if lineBusy s p then s else capCredits (frmApply (settleCredit s p) p false (· == a)) p

/-- APPLY_DEADLINE: a value staged at `a` for FRM or PKT whose event has not come takes effect, at an instant that the spec leaves
open, a waiting queue descriptor at any address of its window entry among them (R212, R415). -/
def execApplyDeadline (a : Nat) (s : State) : Host.Outcome State Fault Refusal :=
  if 0x1000000 ≤ a ∧ a < 0x1000000 + 2 ^ 24 then done (applyQueue s ((a - 0x1000000) / 64))
  else
    let s := if s.regs.waiting.any fun e => e.addr == a && e.kind == 1 then (List.range 96).foldl (frmDeadline a) s else s
    done (applyWhere s fun e => e.addr == a && e.kind == 2)

/-- MS_HOLD_WRITE. -/
def execMsHoldWrite (req : Requester) (data : Word) (s : State) : Host.Outcome State Fault Refusal :=
  done (doorbell s req (Reg.glbMsHold.addr []) data fun s => msHoldWrite s req data)

/-- MS_HOLD_EXPIRE: a bit that stood for 100 device cycles is cleared, and the clearing counts. -/
def execMsHoldExpire (mc : Bool) (s : State) : Host.Outcome State Fault Refusal :=
  done (if rdBit s Reg.glbMsHold [] (bnat mc) && decide (100 ≤ (if mc then s.regs.holdMcCycles else s.regs.holdHostCycles)) then
    countEvent (dropHold s mc) Reg.glbHoldexpCnt [] else s)

/-- IRQ_VEC_REARM. -/
def execIrqVecRearm (req : Requester) (w : Fin 2) (data : Word) (s : State) : Host.Outcome State Fault Refusal :=
  done (doorbell s req (Reg.irqVecRearm.addr [w]) data fun s => rearm s w data)

/-- MSIX_MESSAGE: vector `v` sends when every condition of R434 holds, and is disarmed. -/
def execMsixMessage (el : Nat) (v : Fin 64) (s : State) : Host.Outcome State Fault Refusal :=
  let s := advance el s
  if wouldSend s v && holdoffPassed s v && !vectorMasked s v then
    let a := 0x10400 + 16 * v.val
    let w (k : Nat) : Nat := (get 0 s.irq.msixTable (a + 4 * k)).toNat
    let irq := { s.irq with disarmed := s.irq.disarmed ||| BitVec.ofNat 64 (2 ^ v.val),
                            lastMessage := put s.irq.lastMessage v s.time.dt }
    done (emit { s with irq := irq } (.msix v (BitVec.ofNat 64 (w 1 * 2 ^ 32 + w 0)) (BitVec.ofNat 32 (w 2))))
  else done s

/-- MSIX_CONTROL_WRITE. -/
def execMsixControlWrite (w : MsixWrite) (s : State) : Host.Outcome State Fault Refusal :=
  match w with
  | .capability e m => done { s with irq := { s.irq with msixEnable := e, functionMask := m } }
  | .vectorMask v m => done (msixWrite s (0x10400 + 16 * v.val + 12) (BitVec.ofNat 32 (bnat m)))

/-! ### The observation SPI (R507, R508) -/

/-- The SPI answers: VAUX33 or VIN12 is present. -/
def spiAlive (s : State) : Bool := s.power.vaux || s.power.vin

/-- An offset of BAR0 lies in the VAUX33 domain: the time unit (R244, R462). -/
def inVaux (a : Nat) : Bool := decide (0xE00000 ≤ a ∧ a < 0xE10000)

/-- One word of a READ; without VIN12 the time unit answers from VAUX33. -/
def spiWord (s : State) (space o : Nat) : State × Word :=
  let err (s : State) : State × Word := ({ s with obs := { s.obs with spiErr := true } }, 0)
  if o % 4 ≠ 0 then err s
  else match space with
    | 3 => if o < 65536 then (spend s, BitVec.ofNat 32 (freeWord s).toNat) else err s
    | 2 => err s
    | k =>
      let a := if k = 0 then o else bar2 + o
      let at0 := if k = 0 then o else (aliasOf o).1
      if decide (a < bar2) != (k == 0) || !mapped a then err s
      else if s.power.vin then readWord s .spi a []
      else if !inVaux at0 then err s
      else
        let b := stagedOf at0
        let v := match ctrAt b with
          | some (g, ix, i, p) => ctrWord s .spi g ix i p
          | none => match rowAt b with
            | none => 0
            | some (r, ix) => regWord s r ix (isLive at0)
        if k = 0 then (latch s .spi at0, v) else (s, BitVec.ofNat 32 (bnat (flag v (aliasOf o).2)))

/-- Words from an offset upward. -/
def spiWords (space : Nat) : Nat → Nat → State → State × List Byte
  | 0, _, s => (s, [])
  | n + 1, o, s =>
    let (s, v) := spiWord s space (o % 2 ^ 30)
    let (s, bs) := spiWords space n (o + 4) s
    (s, toBytes 4 v.toNat ++ bs)

/-- SPI_READ. -/
def execSpiRead (space : BitVec 2) (offset : BitVec 30) (words : Nat) (s : State) : Host.Outcome State Fault Refusal :=
  if spiAlive s then
    let (s, bs) := spiWords space.toNat words offset.toNat { s with obs := { s.obs with spiErr := false } }
    done (emit s (.spi bs))
  else done s

/-- SPI_STATUS. -/
def execSpiStatus (s : State) : Host.Outcome State Fault Refusal :=
  done (if spiAlive s then emit s (.spi [BitVec.ofNat 8 (bnat s.power.vin + 2 * bnat s.obs.spiErr)]) else s)

/-- SPI_IDENT. -/
def execSpiIdent (s : State) : Host.Outcome State Fault Refusal :=
  done (if spiAlive s then
    emit s (.spi (toBytes 4 (word s Reg.chipIdent []).toNat ++ toBytes 4 (word s Reg.chipRev []).toNat ++
      toBytes 8 Config.unitId.toNat)) else s)

end Sys2Proof.Machine
end

