-- ==== Sys2Proof/Machine/Cycle.lean ====
section
/-! DEFINITION. The device-cycle boundary (R245): what every unit does once in a device cycle, and what takes effect there. -/
namespace Sys2Proof.Machine

/-! ### Clocks of pipelines and clusters (R112, R308) -/

/-- The pipelines in the mask of trunk group `g`. -/
def groupPipes (s : State) (g : Nat) : List Nat := (List.range 4).filter fun k => bit (s.image.bindG.getD g 0) k

/-- What port `p` is charged in pipeline `k`, in 1/12 Mb/s: its rate where it is bound there, and for a trunk group its rate
divided by the number of pipelines in its mask (R38). -/
def chargedRate (s : State) (k p : Nat) : Nat :=
  match portGroup s p with
  | some g => if (groupPipes s g).contains k then portRate s p * 12 / (groupPipes s g).length else 0
  | none => if (if p < 48 then isHPort s p else isCPort s (p - 48)) && pipeOf s p == k then portRate s p * 12 else 0

/-- The rate, in 1/12 Mb/s, of the front ports bound to pipeline `k` whose link is up. -/
def boundRate (s : State) (k : Nat) : Nat := (((List.range 80).filter (linkUp s)).map (chargedRate s k)).sum

/-- The clock of pipeline `k`: half while CLK_MODE is automatic and its ports' rate is at most 323 Gb/s. -/
def pipeClock (s : State) (k : Nat) : State :=
  wrBit s Reg.pipeStat [k] 0 (isPipe s k && rdBit s Reg.pipeCtrl [k] 0 && decide (boundRate s k ≤ 323000 * 12))

/-- The highest load of an engine of cluster `k`. -/
def clusterLoad (s : State) (k : Nat) : Nat := ((List.range 8).map fun e => engineLoad s (8 * k + e) none).foldl max 0

/-- The lowest clock at which every engine's load is at most 0.85 of its slots: 0 1.6 GHz, 1 0.8 GHz, 2 0.4 GHz, 3 unpowered. -/
def clusterClock (s : State) (k : Nat) : Nat :=
  let l := clusterLoad s k
  if !isCluster s k then 3
  else if !rdBit s Reg.accCtrl [] 8 then 0
  else if l * 100 ≤ 85 * (fullLoad / 4) then 2
  else if l * 100 ≤ 85 * (fullLoad / 2) then 1
  else 0

/-- The clock in force of each cluster, and its load in per mille of full slots. -/
def clockCluster (s : State) (k : Nat) : State :=
  let c := clusterClock s k
  let s := { s with acc := { s.acc with clocks := s.acc.clocks.set k c } }
  putWord s Reg.accClusterStat [k] (BitVec.ofNat 32 (c * 2 ^ 30 + min 1023 (perMille (clusterLoad s k))))

/-! ### Slots of the cycle that ends (R309, R310) -/

/-- The clock cycles of a cluster at clock code `c` in `el` ticks of 1.25 ns. -/
def clusterCycles (c el : Nat) : Nat := if c = 3 then 0 else el * 2 / 2 ^ c

/-- The events of engine `e` in a device cycle of `n` clock cycles. Every slot falls in one of the four classes, back-starved
slots in one of three; how many fall in each, and the traffic of DRAM, is free. -/
def engineSlots (s : State) (e n : Nat) : State :=
  let a := freeWord s
  let b := Config.freeWord (s.freeCtr + 1)
  let d := Config.freeWord (s.freeCtr + 2)
  let part (x left : Nat) : Nat := x % (left + 1)
  let retired := part (fld a 31 0) (2 * n)
  let wasted := part (fld a 63 32) (2 * n - retired)
  let front := part (fld b 31 0) (2 * n - retired - wasted)
  let back := 2 * n - retired - wasted - front
  let localOnly := part (fld b 63 32) back
  let dram := part (fld d 31 0) (back - localOnly)
  let c := Config.freeWord (s.freeCtr + 3)
  let free (k : Nat) : Nat := fld c (16 * k + 15) (16 * k)
  let counts : List (Nat × Nat) :=
    [(0x01, n), (0x10, retired), (0x11, wasted), (0x12, front), (0x13, back), (0x14, localOnly), (0x15, dram),
     (0x16, back - localOnly - dram), (0x17, part (fld d 63 32) front), (0x20, part (free 0) retired), (0x21, free 1 * 64),
     (0x22, free 2 * 64), (0x23, free 3)]
  let s := { s with freeCtr := s.freeCtr + 4 }
  counts.foldl (fun s x => perfEvent s e x.1 x.2) (bump s Ctr.engine [e] 6 n)

/-- The slots of every engine of cluster `k`. -/
def clusterSlots (el : Nat) (s : State) (k : Nat) : State :=
  if isCluster s k then
    (List.range 8).foldl (fun s e => engineSlots s (8 * k + e) (clusterCycles (s.acc.clocks.getD k 0) el)) s
  else s

/-! ### The management complex -/

/-- Each core that runs writes its checkpoint (R456). -/
def coreCheckpoints (s : State) : State :=
  (List.range 4).foldl (fun s k =>
    if coreDown s k then s
    else { s with power := { s.power with checkpoints := put s.power.checkpoints k s.time.dt } }) s

/-- A device cycle under a hold bit of GLB_MS_HOLD (R418). -/
def countHolds (s : State) : State :=
  { s with regs := { s.regs with
      holdHostCycles := if rdBit s Reg.glbMsHold [] 0 then s.regs.holdHostCycles + 1 else 0,
      holdMcCycles := if rdBit s Reg.glbMsHold [] 1 then s.regs.holdMcCycles + 1 else 0 } }

/-! ### The boundary -/

/-- What the line codes of front port `p` have met in the cycle that ends, while its link is up: FEC code words corrected, not
correctable and FEC symbols corrected (R78), or false carrier events and symbol errors outside frames (R108). How many is
free. -/
def countLine (s : State) (p : Nat) : State :=
  let w := freeWord s
  if !linkUp s p then s
  else if p < 48 then
    if (portGroup s p).isSome || rd s Reg.hpLinkStat [p] 6 4 == 0 then s
    else countPort (countPort (countPort (spend s) p 35 (fld w 19 0)) p 36 (fld w 39 20)) p 37 (fld w 63 40)
  else countPort (countPort (spend s) p 42 (fld w 15 0)) p 43 (fld w 31 16)

/-- The counts of the cycle that ends: engine slots, line codes and the time spent in LPI. -/
def closeCounts (s : State) : State :=
  let s := (List.range 8).foldl (clusterSlots (s.time.dt - s.time.cycleStart)) s
  (List.range 32).foldl (fun s c => countLpi s (48 + c)) ((List.range 80).foldl countLine s)

/-- The instant at which the device cycle in progress ends, where it is reached: a DT tick (R245). A paired unit that stands by
follows the boundaries of the ACTIVE unit (R397). -/
def cycleEnd (s : State) : Option Nat :=
  if paired s && (role s == 2 || role s == 3) then some s.time.dt
  else if s.time.alignTb0 then
    let past := (tb s 0).now - s.time.cycleTb0 * unitsPerMs
    if past < 0 then none else some (s.time.dt - (past / tickUnits s 0).toNat)
  else
    let e := ceilDiv (s.time.cycleStart + 400000) 800000 * 800000
    if e ≤ s.time.dt then some e else none

/-- What the units do at a boundary at tick `at_`, in this order: counts of the cycle that ends, MS values, the units' own work,
clocks. -/
def turnCycle (s : State) (at_ : Nat) (us : List Upset) : State :=
  let s := closeCounts s
  let n := rd s Reg.timeDevcyc [] 30 0
  let s := wr s Reg.timeDevcyc [] 30 0 (n + 1)
  let s := { s with time := { s.time with cycleStart := at_, cycleTb0 := s.time.cycleTb0 + 1 } }
  let s := msBoundary (countHolds s)
  let s := flowUpdate (izlCycle s) false
  let s := twinCycle s
  let s := placeCycle s
  let s := updCycle s
  let s := obsCycle s
  let s := maintCycle s
  let s := (List.range 8).foldl clockCluster ((List.range 4).foldl pipeClock s)
  alignCycle (scrub (coreCheckpoints s) us)

/-- DEVICE_CYCLE_BOUNDARY: the device cycle in progress has reached its end. -/
def execDeviceCycleBoundary (el : Nat) (us : List Upset) (s : State) : Host.Outcome State Fault Refusal :=
  let s := advance el s
  match cycleEnd s with
  | none => done s
  | some e => done (if s.power.inReset || stopped s then s else turnCycle s e us)

end Sys2Proof.Machine
end

