-- ==== Sys2Proof/Machine/Doorbells.lean ====
section
/-! DEFINITION. The commands that are writes of one register or entry by the host or a management core: each goes through the
register fabric, which records it and lets it reach an open window alone. A command that names no requester is the host's. -/
namespace Sys2Proof.Machine

/-! ### Ports (chapters 3 and 4) -/

/-- A write of HP_CFG. -/
def hpDoorbell (s : State) (req : Requester) (n : Nat) (data : Word) : State :=
  doorbell s req (Reg.hpCfg.addr [n]) data fun s => hpCfgWrite s req n data

/-- HP_PORT_EN_WRITE. -/
def execHpPortEnWrite (req : Requester) (n : Fin 48) (en : Bool) (s : State) : Host.Outcome State Fault Refusal :=
  done (hpDoorbell s req n (setFld (stagedWord s Reg.hpCfg [n]) 0 0 (bnat en)))

/-- FEC_SEL_WRITE: a code outside FEC_SET leaves the effective value unchanged, and a change retrains (R58). -/
def execFecSelWrite (req : Requester) (n : Fin 48) (code : BitVec 3) (s : State) : Host.Outcome State Fault Refusal :=
  done (hpDoorbell s req n (setFld (stagedWord s Reg.hpCfg [n]) 10 8 code.toNat))

/-- AN_RESTART: a write of the bit. -/
def execAnRestart (n : Fin 48) (s : State) : Host.Outcome State Fault Refusal :=
  done (hpDoorbell s .host n (setFld (stagedWord s Reg.hpCfg [n]) 2 2 1))

/-- MODULE_XFER_GO. -/
def execModuleXferGo (req : Requester) (k : Fin 12) (data : Word) (s : State) : Host.Outcome State Fault Refusal :=
  let w := setFld data 31 31 1
  done (doorbell s req (Reg.hpModXfer.addr [4 * k.val]) w fun s => moduleXferWrite s req k w)

/-- CP_CFG_WRITE. -/
def execCpCfgWrite (req : Requester) (c : Fin 32) (data : Word) (s : State) : Host.Outcome State Fault Refusal :=
  done (doorbell s req (Reg.cpCfg.addr [c]) data fun s => cpCfgWrite s req c data)

/-- CP_AN_RESTART: a write of AN_RESTART. -/
def execCpAnRestart (c : Fin 32) (s : State) : Host.Outcome State Fault Refusal :=
  let w := setFld (stagedWord s Reg.cpCfg [c]) 2 2 1
  done (doorbell s .host (Reg.cpCfg.addr [c]) w fun s => cpCfgWrite s .host c w)

/-- CABLE_DIAG_RUN. -/
def execCableDiagRun (req : Requester) (c : Fin 32) (data : Word) (s : State) : Host.Outcome State Fault Refusal :=
  let w := setFld data 0 0 1
  done (doorbell s req (Reg.cpDiagCtrl.addr [c]) w fun s => diagWrite s req c w)

/-! ### The FDB and the MDB (chapter 5) -/

/-- A write of FDB_CMD_CTRL. -/
def fdbCmdDoorbell (s : State) (req : Requester) (data : Word) : State :=
  doorbell s req (Reg.fdbCmdCtrl.addr []) data fun s => fdbCmd s req data

/-- FDB_CMD_LOOKUP. -/
def execFdbCmdLookup (req : Requester) (s : State) : Host.Outcome State Fault Refusal := done (fdbCmdDoorbell s req 0x80000000)

/-- FDB_CMD_WRITE. -/
def execFdbCmdWrite (req : Requester) (s : State) : Host.Outcome State Fault Refusal := done (fdbCmdDoorbell s req 0xA0000000)

/-- FDB_CMD_DELETE. -/
def execFdbCmdDelete (req : Requester) (s : State) : Host.Outcome State Fault Refusal := done (fdbCmdDoorbell s req 0xC0000000)

/-- FDB_FLUSH. -/
def execFdbFlush (req : Requester) (data : Word) (s : State) : Host.Outcome State Fault Refusal :=
  done (doorbell s req (Reg.fdbFlush.addr []) data fun s => fdbFlush s req data)

/-- FDB_LOCK_REQUEST: each requester writes its own register alone. -/
def execFdbLockRequest (req : Requester) (mc : Bool) (w : Fin 2) (data : Word) (s : State) : Host.Outcome State Fault Refusal :=
  done (doorbell s req ((lockReg mc).addr [w]) data fun s => if isMc req = mc then lockWrite s mc w data else s)

/-- FDB_HASH_SEED_WRITE. -/
def execFdbHashSeedWrite (req : Requester) (bank : Fin 4) (seed : Word) (s : State) : Host.Outcome State Fault Refusal :=
  done (doorbell s req (Reg.fdbHashSeed.addr [bank]) seed fun s => seedWrite s req bank seed)

/-- A write of FDB_MDB_EDIT by the core that snoops. -/
def mdbDoorbell (s : State) (data : Word) : State :=
  doorbell s (.mc 1) (Reg.fdbMdbEdit.addr []) data fun s => mdbEditWrite s (.mc 1) data

/-- MDB_EDIT_SET_PORT. -/
def execMdbEditSetPort (p : Fin 96) (g : Fin 16384) (s : State) : Host.Outcome State Fault Refusal :=
  done (mdbDoorbell s (editWord 0 p g))

/-- MDB_EDIT_CLEAR_PORT. -/
def execMdbEditClearPort (p : Fin 96) (g : Fin 16384) (s : State) : Host.Outcome State Fault Refusal :=
  done (mdbDoorbell s (editWord 1 p g))

/-- MDB_EDIT_CLEAR_REPORT_SEEN. -/
def execMdbEditClearReportSeen (g : Fin 16384) (s : State) : Host.Outcome State Fault Refusal :=
  done (mdbDoorbell s (editWord 2 0 g))

/-! ### Streams (chapter 6) -/

/-- A write of STRM_CMD_CTRL. -/
def strmDoorbell (s : State) (req : Requester) (data : Word) : State :=
  doorbell s req (Reg.strmCmdCtrl.addr []) data fun s => sidCommand s req data

/-- STRM_CMD_LOOKUP. -/
def execStrmCmdLookup (req : Requester) (s : State) : Host.Outcome State Fault Refusal := done (strmDoorbell s req 0x80000000)

/-- STRM_CMD_INSERT. -/
def execStrmCmdInsert (req : Requester) (s : State) : Host.Outcome State Fault Refusal := done (strmDoorbell s req 0xA0000000)

/-- STRM_CMD_DELETE. -/
def execStrmCmdDelete (req : Requester) (s : State) : Host.Outcome State Fault Refusal := done (strmDoorbell s req 0xC0000000)

/-- A write of STRM_CTX_CMD. -/
def ctxDoorbell (s : State) (data : Word) : State :=
  doorbell s .host (Reg.strmCtxCmd.addr []) data fun s => contextCommandWrite s .host data

/-- CTX_RESET_RECOVERY. -/
def execCtxResetRecovery (h : BitVec 16) (s : State) : Host.Outcome State Fault Refusal := done (ctxDoorbell s (ctxCmdWord 0 h))

/-- CTX_UNBLOCK. -/
def execCtxUnblock (h : BitVec 16) (s : State) : Host.Outcome State Fault Refusal := done (ctxDoorbell s (ctxCmdWord 1 h))

/-- CTX_GEN_SEQ_ZERO. -/
def execCtxGenSeqZero (h : BitVec 16) (s : State) : Host.Outcome State Fault Refusal := done (ctxDoorbell s (ctxCmdWord 2 h))

/-- CTX_BALANCES_FULL. -/
def execCtxBalancesFull (h : BitVec 16) (s : State) : Host.Outcome State Fault Refusal := done (ctxDoorbell s (ctxCmdWord 3 h))

/-- STREAM_CONTEXT_WRITE: the whole configuration half, its highest word last. -/
def execStreamContextWrite (req : Requester) (h : BitVec 16) (cfg : BitVec 256) (s : State) : Host.Outcome State Fault Refusal :=
  done (entryDoorbell s req (0x3000020 + h.toNat * 64) (wordsOf 8 cfg) fun s => contextWrite s req h.toNat cfg)

/-! ### Scheduling (chapter 8) -/

/-- QUEUE_DESCRIPTOR_WRITE: the whole configuration half, its highest word last. -/
def execQueueDescriptorWrite (req : Requester) (q : BitVec 18) (cfg : BitVec 256) (s : State) : Host.Outcome State Fault Refusal :=
  done (entryDoorbell s req (0x1000020 + q.toNat * 64) (wordsOf 8 cfg) fun s => descriptorWrite s req q.toNat cfg)

/-- GATE_ENTRY_WRITE. -/
def execGateEntryWrite (req : Requester) (p : Fin 80) (i : Fin 1024) (entry : BitVec 64) (s : State) :
    Host.Outcome State Fault Refusal :=
  done (entryDoorbell s req (0x5100000 + p * 0x2000 + i * 8) (wordsOf 2 entry) fun s => gateEntryWrite s req p i entry)

/-- GATE_COMMIT: COMMIT is written, with the other fields as staged. -/
def execGateCommit (req : Requester) (p : Fin 80) (el : Nat) (s : State) : Host.Outcome State Fault Refusal :=
  let s := advance el s
  done (doorbell s req (Reg.schedGateCfg.addr [p]) (stagedWord s Reg.schedGateCfg [p] ||| 0x80000000) fun s => gateCommit s req p)

/-- A write of SCHED_Q_CMD. -/
def queueDoorbell (s : State) (data : Word) : State :=
  doorbell s .host (Reg.schedQCmd.addr []) data fun s => queueCommandWrite s .host data

/-- Q_CMD_ZERO_MAXIMA. -/
def execQCmdZeroMaxima (q : BitVec 18) (s : State) : Host.Outcome State Fault Refusal :=
  done (queueDoorbell s (qCmdWord 0 0 0 q.toNat))

/-- Q_CMD_CLEAR_QUEUE_DEBT. -/
def execQCmdClearQueueDebt (q : BitVec 18) (s : State) : Host.Outcome State Fault Refusal :=
  done (queueDoorbell s (qCmdWord 1 0 0 q.toNat))

/-- Q_CMD_CLEAR_CLASS_DEBT. -/
def execQCmdClearClassDebt (p : Fin 96) (c : Fin 8) (s : State) : Host.Outcome State Fault Refusal :=
  done (queueDoorbell s (qCmdWord 2 c p 0))

/-- VOQ_ROUTE_WRITE: the route waits for PKT; a port that leads no trunk group leaves it unchanged, and the word of
this device's own number is ignored (R235). -/
def execVoqRouteWrite (req : Requester) (d : Fin 128) (data : Word) (s : State) : Host.Outcome State Fault Refusal :=
  done (doorbell s req (Reg.schedVoqRoute.addr [d]) data fun s =>
    if d.val = ownDevice s then s else stage s req Reg.schedVoqRoute [d] 0xFFFFFFFF data)

/-! ### Time (chapter 9) -/

/-- A write of TIME_TB_CMD. -/
def tbDoorbell (s : State) (t : Nat) (data : Word) : State :=
  doorbell s .host (Reg.timeTbCmd.addr [t]) data fun s => tbCommandWrite s .host t data

/-- TB_CMD_ADJ. -/
def execTbCmdAdj (t : Fin 4) (s : State) : Host.Outcome State Fault Refusal := done (tbDoorbell s t 0x80000000)

/-- TB_CMD_SET. -/
def execTbCmdSet (t : Fin 4) (s : State) : Host.Outcome State Fault Refusal := done (tbDoorbell s t 0x80000001)

/-- TB_CMD_DELIVER_SW_OFFSET. -/
def execTbCmdDeliverSwOffset (t : Fin 4) (el : Nat) (s : State) : Host.Outcome State Fault Refusal :=
  done (tbDoorbell (advance el s) t 0x80000002)

/-- TIME_CAPTURE. -/
def execTimeCapture (s : State) : Host.Outcome State Fault Refusal :=
  done (doorbell s .host (Reg.timeCapture.addr []) 1 captureTime)

/-- PPSIN_POP: the head entry is removed. -/
def execPpsinPop (k : Fin 2) (s : State) : Host.Outcome State Fault Refusal :=
  done (doorbell s .host (Reg.timePpsinPop.addr [k]) 1 fun s => popPpsin s k)

/-- PTP_CONTEXT_WRITE: the whole configuration half, its highest word last. -/
def execPtpContextWrite (req : Requester) (p : Fin 80) (t : Fin 4) (cfg : BitVec 256) (s : State) :
    Host.Outcome State Fault Refusal :=
  done (entryDoorbell s req (0x5800020 + (p * 4 + t) * 64) (wordsOf 8 cfg) fun s => ptpContextWrite s req p t cfg)

/-! ### Accord engines and placement (chapters 10 and 11) -/

/-- A write of ACC_JOB_CMD. -/
def jobDoorbell (s : State) (req : Requester) (data : Word) : State :=
  doorbell s req (Reg.accJobCmd.addr []) data fun s => jobCommandWrite s req data

/-- ACC_JOB_START. -/
def execAccJobStart (req : Requester) (j : Fin 1024) (atTime : Bool) (s : State) : Host.Outcome State Fault Refusal :=
  done (jobDoorbell s req (jobWord 0 j atTime))

/-- ACC_JOB_COMMIT. -/
def execAccJobCommit (req : Requester) (j : Fin 1024) (atTime : Bool) (s : State) : Host.Outcome State Fault Refusal :=
  done (jobDoorbell s req (jobWord 1 j atTime))

/-- ACC_JOB_STOP. -/
def execAccJobStop (req : Requester) (j : Fin 1024) (atTime : Bool) (s : State) : Host.Outcome State Fault Refusal :=
  done (jobDoorbell s req (jobWord 2 j atTime))

/-- PERF_SEL_WRITE: the event is staged, and taken at the next device-cycle boundary (R311). -/
def execPerfSelWrite (req : Requester) (e : Fin 64) (n : Fin 6) (event : BitVec 8) (s : State) :
    Host.Outcome State Fault Refusal :=
  let w : Word := BitVec.ofNat 32 event.toNat
  done (doorbell s req (Reg.accPerfSel.addr [e, n]) w fun s => stage s req Reg.accPerfSel [e, n] 0xFFFFFFFF w)

/-- PLACE_Q_ALLOCATE. -/
def execPlaceQAllocate (req : Requester) (p : Fin 96) (c : Fin 8) (s : State) : Host.Outcome State Fault Refusal :=
  let w : Word := BitVec.ofNat 32 (2 ^ 31 + c * 2 ^ 7 + p)
  done (doorbell s req (Reg.placeQCmd.addr []) w fun s => placeQWrite s req w)

/-! ### Trunks, twin and rings (chapters 12 and 13) -/

/-- A write of IZL_HIER_CMD. -/
def izlHierDoorbell (s : State) (data : Word) : State :=
  doorbell s .host (Reg.izlHierCmd.addr []) data fun s => hierCmdWrite s .host data

/-- IZL_HIER_RELEASE. -/
def execIzlHierRelease (d : Fin 128) (s : State) : Host.Outcome State Fault Refusal :=
  done (izlHierDoorbell s (BitVec.ofNat 32 (2 ^ 31 + d)))

/-- IZL_HIER_REJOIN. -/
def execIzlHierRejoin (s : State) : Host.Outcome State Fault Refusal := done (izlHierDoorbell s 0x90000000)

/-- IZL_GRP_CFG_WRITE: the value is staged; it takes effect, or is refused, at the next MS boundary. -/
def execIzlGrpCfgWrite (req : Requester) (g : Fin 16) (data : Word) (s : State) : Host.Outcome State Fault Refusal :=
  done (doorbell s req (Reg.izlGrpCfg.addr [g]) data fun s => stage s req Reg.izlGrpCfg [g] 0xFFFFFFFF data)

/-- A write of TWIN_CMD. -/
def twinDoorbell (s : State) (data : Word) : State :=
  doorbell s .host (Reg.twinCmd.addr []) data fun s => twinCmdWrite s .host data

/-- SWITCHOVER. -/
def execSwitchover (s : State) : Host.Outcome State Fault Refusal := done (twinDoorbell s 0x80000000)

/-- TWIN_CMD_TAKEOVER. -/
def execTwinCmdTakeover (s : State) : Host.Outcome State Fault Refusal := done (twinDoorbell s 0x90000000)

/-- DECLARE_FAIL. -/
def execDeclareFail (s : State) : Host.Outcome State Fault Refusal := done (twinDoorbell s 0xA0000000)

/-- RESYNC. -/
def execResync (k : Fin 11) (s : State) : Host.Outcome State Fault Refusal :=
  done (twinDoorbell s (BitVec.ofNat 32 (0xB0000000 + k)))

/-- RING_OPEN: OPEN is written, with FORCE as staged. -/
def execRingOpen (r : Fin 4) (s : State) : Host.Outcome State Fault Refusal :=
  done (doorbell s .host (Reg.twinRingCtrl.addr [r]) (stagedWord s Reg.twinRingCtrl [r] ||| 0x80000000) fun s => openRing s r)

/-- RING_FORCE_WRITE. -/
def execRingForceWrite (req : Requester) (r : Fin 4) (force : Bool) (s : State) : Host.Outcome State Fault Refusal :=
  let w := setFld (stagedWord s Reg.twinRingCtrl [r]) 1 1 (bnat force)
  done (doorbell s req (Reg.twinRingCtrl.addr [r]) w fun s => ringCtrlWrite s req r w)

/-! ### The host attachment and reset (chapters 15 and 16) -/

/-- HOST_RING_TAIL_WRITE. -/
def execHostRingTailWrite (req : Requester) (tx : Bool) (r : Fin 64) (data : Word) (s : State) :
    Host.Outcome State Fault Refusal :=
  done (doorbell s req ((ringTailReg tx).addr (ringIx s r)) data fun s => ringTailWrite s req tx r data)

/-- A write of HOST_RING_CFG. -/
def ringDoorbell (s : State) (req : Requester) (tx : Bool) (r : Nat) (data : Word) : State :=
  doorbell s req ((ringCfgReg tx).addr (ringIx s r)) data fun s => ringCfgWrite s req tx r data

/-- HOST_RING_ENABLE: HOST_RING_CFG is written with EN 1. -/
def execHostRingEnable (req : Requester) (tx : Bool) (r : Fin 64) (data : Word) (s : State) : Host.Outcome State Fault Refusal :=
  done (ringDoorbell s req tx r (data ||| 0x80000000))

/-- HOST_RING_DISABLE: HOST_RING_CFG is written with EN 0. -/
def execHostRingDisable (req : Requester) (tx : Bool) (r : Fin 64) (data : Word) (s : State) : Host.Outcome State Fault Refusal :=
  done (ringDoorbell s req tx r (data &&& 0x7FFFFFFF))

/-- TABLE_DMA_GO. -/
def execTableDmaGo (req : Requester) (data : Word) (s : State) : Host.Outcome State Fault Refusal :=
  let w := data ||| 0x80000000
  done (doorbell s req (Reg.glbTdmaCtrl.addr []) w fun s => tdmaWrite s req w)

/-- GLB_RESET_CMD_GO. -/
def execGlbResetCmdGo (req : Requester) (data : Word) (s : State) : Host.Outcome State Fault Refusal :=
  let w := data ||| 0x80000000
  done (doorbell s req (Reg.glbResetCmd.addr []) w fun s => resetCmdWrite s req w)

/-! ### Images and update (chapters 2 and 17) -/

/-- A write of IMG_SI_REPL_CTRL. -/
def replDoorbell (s : State) (req : Requester) (data : Word) : State :=
  doorbell s req (Reg.imgSiReplCtrl.addr []) data fun s => replCtrlWrite s data

/-- REPL_VERIFY. -/
def execReplVerify (req : Requester) (s : State) : Host.Outcome State Fault Refusal := done (replDoorbell s req 1)

/-- REPL_ARM. -/
def execReplArm (req : Requester) (s : State) : Host.Outcome State Fault Refusal := done (replDoorbell s req 2)

/-- REPL_ABORT. -/
def execReplAbort (req : Requester) (s : State) : Host.Outcome State Fault Refusal := done (replDoorbell s req 4)

/-- REPL_ACK. -/
def execReplAck (req : Requester) (s : State) : Host.Outcome State Fault Refusal := done (replDoorbell s req 8)

/-- A staging operation: by a write of IMG_STAGE_CMD, or by the manager's orders or the twin peer (R485). -/
def stageBy (s : State) (src : StageSrc) (op kind : Nat) : State :=
  match src with
  | .host =>
    let w : Word := BitVec.ofNat 32 (2 ^ 31 + op * 2 ^ 27 + kind * 2 ^ 26)
    doorbell s .host (Reg.imgStageCmd.addr []) w fun s => stageCmdWrite s .host w
  | _ => (stageOp s src op kind).1

/-- STAGE_CLAIM. -/
def execStageClaim (src : StageSrc) (kind : Bool) (s : State) : Host.Outcome State Fault Refusal :=
  done (stageBy s src 0 (bnat kind))

/-- STAGE_WRITE. -/
def execStageWrite (src : StageSrc) (s : State) : Host.Outcome State Fault Refusal := done (stageBy s src 1 0)

/-- STAGE_END. -/
def execStageEnd (src : StageSrc) (s : State) : Host.Outcome State Fault Refusal := done (stageBy s src 2 0)

/-- STAGE_VERIFY. -/
def execStageVerify (src : StageSrc) (s : State) : Host.Outcome State Fault Refusal := done (stageBy s src 3 0)

/-- STAGE_COMMIT. -/
def execStageCommit (src : StageSrc) (s : State) : Host.Outcome State Fault Refusal := done (stageBy s src 4 0)

/-- STAGE_ABORT. -/
def execStageAbort (src : StageSrc) (s : State) : Host.Outcome State Fault Refusal := done (stageBy s src 5 0)

/-- A write of IMG_UPD_CMD. -/
def updDoorbell (s : State) (req : Requester) (data : Word) : State :=
  doorbell s req (Reg.imgUpdCmd.addr []) data fun s => updCmdWrite s req data

/-- ACTIVATE_HITLESS. -/
def execActivateHitless (req : Requester) (s : State) : Host.Outcome State Fault Refusal := done (updDoorbell s req 0x80000000)

/-- ACTIVATE_TWIN. -/
def execActivateTwin (req : Requester) (s : State) : Host.Outcome State Fault Refusal := done (updDoorbell s req 0x88000000)

/-- ACTIVATE_RESTART. -/
def execActivateRestart (req : Requester) (s : State) : Host.Outcome State Fault Refusal := done (updDoorbell s req 0x90000000)

/-- CONFIRM. -/
def execConfirm (req : Requester) (s : State) : Host.Outcome State Fault Refusal := done (updDoorbell s req 0x98000000)

/-- RAISE_FLOOR. -/
def execRaiseFloor (req : Requester) (s : State) : Host.Outcome State Fault Refusal := done (updDoorbell s req 0xA0000000)

/-- PROGRAM_CUST_KEY. -/
def execProgramCustKey (req : Requester) (s : State) : Host.Outcome State Fault Refusal := done (updDoorbell s req 0xA8000000)

/-- A write of IMG_HIER_CMD. -/
def imgHierDoorbell (s : State) (req : Requester) (data : Word) : State :=
  doorbell s req (Reg.imgHierCmd.addr []) data fun s => imgHierWrite s req data

/-- HIER_STAGE. -/
def execHierStage (req : Requester) (s : State) : Host.Outcome State Fault Refusal := done (imgHierDoorbell s req (hierGo s 0))

/-- HIER_ACTIVATE. -/
def execHierActivate (req : Requester) (s : State) : Host.Outcome State Fault Refusal := done (imgHierDoorbell s req (hierGo s 1))

/-- HIER_ABORT. -/
def execHierAbort (req : Requester) (s : State) : Host.Outcome State Fault Refusal := done (imgHierDoorbell s req (hierGo s 2))

/-! ### Balls (chapter 18) -/

/-- BALL_OWNER_WRITE. -/
def execBallOwnerWrite (req : Requester) (n : Fin 64) (code : BitVec 4) (s : State) : Host.Outcome State Fault Refusal :=
  let w := setFld (word s Reg.maintBall [n]) 31 28 code.toNat
  done (doorbell s req (Reg.maintBall.addr [n]) w fun s => ballWrite s req n w)

/-- BALL_DRIVE_WRITE: DIR and OUT alone. -/
def execBallDriveWrite (req : Requester) (n : Fin 64) (dir out : Bool) (s : State) : Host.Outcome State Fault Refusal :=
  let w : Word := setFld (word s Reg.maintBall [n]) 1 0 (2 * bnat dir + bnat out)
  done (doorbell s req (Reg.maintBall.addr [n]) w fun s => ballDrive s req n w)

/-! ### The recorder (chapter 19) -/

/-- A write of OBS_REC_CTRL. -/
def recDoorbell (s : State) (req : Requester) (data : Word) : State :=
  doorbell s req (Reg.obsRecCtrl.addr []) data fun s => recCtrlWrite s data

/-- REC_ARM. -/
def execRecArm (req : Requester) (s : State) : Host.Outcome State Fault Refusal := done (recDoorbell s req 1)

/-- REC_STOP. -/
def execRecStop (req : Requester) (s : State) : Host.Outcome State Fault Refusal := done (recDoorbell s req 8)

/-- REC_RELEASE. -/
def execRecRelease (req : Requester) (s : State) : Host.Outcome State Fault Refusal := done (recDoorbell s req 4)

/-- REC_TRIGGER. -/
def execRecTrigger (req : Requester) (s : State) : Host.Outcome State Fault Refusal := done (recDoorbell s req 2)

/-- CAPTURE_EXPORT_GO, in the direction that DIR holds. -/
def execCaptureExportGo (req : Requester) (s : State) : Host.Outcome State Fault Refusal :=
  let w := stagedWord s Reg.obsExpCtrl [] ||| 0x80000000
  done (doorbell s req (Reg.obsExpCtrl.addr []) w fun s => expCtrlWrite s req w)

/-- A write of OBS_RERUN_CTRL that sets the bits `b`. -/
def rerunDoorbell (s : State) (req : Requester) (b : Word) : State :=
  let w := stagedWord s Reg.obsRerunCtrl [] ||| b
  doorbell s req (Reg.obsRerunCtrl.addr []) w fun s => rerunCtrlWrite s req w

/-- RERUN_ENTER. -/
def execRerunEnter (req : Requester) (s : State) : Host.Outcome State Fault Refusal := done (rerunDoorbell s req 0x40000000)

/-- RERUN_START. -/
def execRerunStart (req : Requester) (s : State) : Host.Outcome State Fault Refusal := done (rerunDoorbell s req 0x80000000)

end Sys2Proof.Machine
end

