-- ==== Sys2Proof/Machine/Replay.lean ====
section
/-! DEFINITION. What a rerun injects, and the end of an epoch (R512, R515, R522, R523). -/
namespace Sys2Proof.Machine

/-! ### Input records (R522) -/

/-- A number of `n` bytes, least significant byte first. -/
def fieldLow (b : List Byte) (o n : Nat) : Nat := ofBytes ((b.drop o).take n).reverse

/-- The transmit descriptors of a HOST_DMA record, each with its buffer (Table 15-3). -/
def readTxDescs : Nat → List Byte → List TxDesc
  | 0, _ => []
  | n + 1, b =>
    if b.length < 32 then []
    else
      let v := BitVec.ofNat 256 (fieldLow b 0 32)
      let len := fld v 191 178
      { len := len, first := flag v 177, last := flag v 176, direct := flag v 175, tsReq := flag v 174, port := fld v 173 167,
        cls := fld v 166 164, data := (b.drop 32).take len, readError := false } :: readTxDescs n (b.drop (32 + len))

/-- The 32-bit words of bytes read from host memory. -/
def hostWords (b : List Byte) : List Word := (List.range (b.length / 4)).map fun k => BitVec.ofNat 32 (fieldLow b (4 * k) 4)

/-- A frame is received again on its port, with its recorded stamp. -/
def replayFrame (s : State) (r : Rec) : State :=
  if field r.body 12 2 = 0x8808 ∧ r.src < 80 then controlFrameIn s r.src r.body
  else
    let d : Int := (r.dt : Int) - (dtFrac s : Int)
    (enterWhole s r.src r.body none fun x => { x with stamp := (stampNow s).shift d }).1

/-- A host write lands again: FLAGS 0 at a BAR0 offset, 1 at one of BAR2, 2 at one of BAR4. -/
def replayWrite (s : State) (r : Rec) : State :=
  let a := field r.body 0 4
  let data := BitVec.ofNat 32 (field r.body 4 4)
  if bit r.flags 1 then { s with bar4 := Memory.writeList s.bar4 a (toBytes 4 data.toNat).reverse }
  else if bit r.flags 0 then
    let (w, i) := aliasOf a
    if serves s (stagedOf w) then landBit s .host w i (flag data 0) else s
  else if serves s (stagedOf a) then land0 s .host a data
  else s

/-- Host memory is read again: the frame of a transmit ring, a table transfer, or a WRITE of staging. -/
def replayDma (s : State) (r : Rec) : State :=
  if r.src < 64 then fetchFrame s r.src (readTxDescs (r.body.length / 32 + 1) r.body)
  else if r.src = 64 then
    match s.host.tdma with
    | none => s
    | some d => (dmaTable d.win d.len).elim s fun x => runDma s d x.1 x.2 (hostWords r.body) none
  else
    match s.img.staging.copying with
    | none => s
    | some (ofs, _) =>
      let s := landStage s ofs r.body
      wrBit { s with img := { s.img with staging := { s.img.staging with copying := none } } } Reg.imgStageCmd [] 30 false

/-- The link of a front port comes up or goes down again. Of a copper port's mode the record tells nothing, and it is free. -/
def replayLink (s : State) (r : Rec) : State :=
  let p := r.src
  if !bit r.flags 0 then linkLost s p
  else if p < 48 then linkGained (showFec (wr s Reg.hpLinkStat [p] 1 0 3) p) p
  else linkGained (putWord (spend s) Reg.cpLinkStat [p - 48] (BitVec.ofNat 32 (fld (freeWord s) 11 1 * 2 + 1))) p

/-- The record of the twin link that a TWIN_IN record holds. -/
def readTwinRec (b : List Byte) : Option TwinRec :=
  let k := byteAt b 1
  let whole := byteAt b 2 == 1
  if h : k < 11 then
    match byteAt b 0 with
    | 0x10 => some (.mirror ⟨k, h⟩ (field b 4 4) ((List.range ((b.length - 8) / 4)).map fun i => BitVec.ofNat 32 (field b (8 + 4 * i) 4)))
    | 0x11 => some (.copy ⟨k, h⟩ ((List.range ((b.length - 4) / 8)).map fun i =>
        (field b (4 + 8 * i) 4, BitVec.ofNat 32 (field b (8 + 8 * i) 4))) whole)
    | 0x12 => some (.marker (field b 4 4) whole)
    | _ => none
  else none

/-- The heartbeat that a TWIN_IN record holds (Table 13-3). -/
def readHeartbeat (b : List Byte) : Heartbeat :=
  { role := byteAt b 1, fail := bit (byteAt b 2) 0, take := bit (byteAt b 2) 1, cycle := field b 4 4,
    twinUnit := BitVec.ofNat 64 (field b 8 8), unitId := BitVec.ofNat 64 (field b 16 8) }

/-- A heartbeat or a record of the twin link comes again. -/
def replayTwin (s : State) (r : Rec) : State :=
  if byteAt r.body 0 = 1 then heartbeatIn s false (readHeartbeat r.body)
  else (readTwinRec r.body).elim s (twinStateIn s)

/-- A measured θ comes again: from a trunk, or on a unit that stands by from the ACTIVE unit, whose TB's state and step the record
does not tell. -/
def replayServo (s : State) (r : Rec) : State :=
  let theta := signed (field r.body 0 6) 48
  if followsTwin s r.src then followUpdate s r.src theta (tbState s r.src) 0 else servo (recordServo s r.src theta) r.src theta

/-- One input record takes effect. -/
def injectRec (s : State) (r : Rec) : State :=
  match r.ty with
  | 1 => replayFrame s r
  | 2 => replayWrite s r
  | 3 => replayDma s r
  | 4 => if r.src < 2 then edgeIn s r.src else refChange s (r.src == 0x10)
  | 5 => replayLink s r
  | 0x0C => replayTwin s r
  | 0x0D => replayServo s r
  | _ => s

/-- The input records of the first `n` ticks are injected in their order, each at its tick, and the rest of the ticks pass. -/
def injectAll : List Rec → Nat → State → State
  | [], n, s => advance n s
  | r :: rs, n, s =>
    let k := r.dt / 81920 - s.time.dt
    if n < k then advance n s
    else
      let take (x : Rerun) : Rerun := { x with todo := rs }
      let s := injectRec (advance k { s with obs := { s.obs with imported := s.obs.imported.map take } }) r
      if stopped s then s else injectAll rs (n - k) s

/-- The state `n` ticks later; in a rerun with the input records of these ticks injected (log entry 161). -/
def pass (n : Nat) (s : State) : State :=
  match s.obs.imported with
  | some x => if rerunState s = 2 then injectAll x.todo n s else advance n s
  | none => advance n s

/-! ### Epochs (R512, R515, R523) -/

/-- An epoch ends, in which the crossings took what `crossings` holds in run-length form: its digests are recorded, or in a rerun
compared. -/
def endEpoch (s : State) (crossings : List Byte) : State :=
  let e := endedEpoch s
  let d := crc64 crossings
  let s := record s 6 0 0 (toBytes 4 e ++ toBytes 8 d.toNat ++ crossings)
  let s := ((keys s.obs.framesSent).filter (digestMask s).getLsbD).foldl (fun s p =>
    let (a, b) := digests s p
    record s 7 0 p (toBytes 4 e ++ toBytes 2 (get 0 s.obs.framesSent p) ++ toBytes 2 0 ++ toBytes 8 a.toNat ++ toBytes 8 b.toNat)) s
  let s := compareEpoch s e d
  { s with obs := { s.obs with digestA := [], digestB := [], framesSent := [], epochAt := epochStart s } }

/-- SILLAGE_EPOCH: the running epoch has ended. -/
def execSillageEpoch (el : Nat) (crossings : List Byte) (s : State) : Host.Outcome State Fault Refusal :=
  let s := pass el s
  done (if s.obs.epochAt < epochStart s then endEpoch s crossings else s)

end Sys2Proof.Machine
end

