-- ==== Sys2Proof/Machine/Timed.lean ====
section
/-! DEFINITION. The commands of the tables, streams and gate lists whose instants the clock gives (R143, R170, R222, R223). -/
namespace Sys2Proof.Machine

/-- AGING_TICK: at its instant the tick advances, the scanner visits every dynamic entry, and the count of station moves
that MOVE_STORM reads is closed (R135, R143, R144). -/
def execAgingTick (el : Nat) (s : State) : Host.Outcome State Fault Refusal :=
  let s := advance el s
  if s.time.dt < nextAge s then done s
  else
    let s := { s with fdb := { s.fdb with tick := (s.fdb.tick + 1) % 65536, tickAt := nextAge s,
                                          movesLastTick := s.fdb.movesThisTick, movesThisTick := 0 } }
    done ((keys s.fdb.entries).foldl scanEntry s)

/-- GATE_CYCLE_START: the instant at which the next cycle starts or a pending commit takes effect. -/
def execGateCycleStart (p : Fin 80) (el : Nat) (s : State) : Host.Outcome State Fault Refusal :=
  let s := advance el s
  done (if cycleDue s p then gateEvent s p else s)

/-- GATE_ENTRY_EXPIRY: the entry in force ends and the next begins (R222). -/
def execGateEntryExpiry (p : Fin 80) (el : Nat) (s : State) : Host.Outcome State Fault Refusal :=
  let s := advance el s
  done (if entryDue s p then gateEvent s p else s)

/-- LATENT_TEST: the period ends for every context. -/
def execLatentTest (el : Nat) (s : State) : Host.Outcome State Fault Refusal :=
  let s := advance el s
  if s.time.dt < latentEnd s then done s
  else
    let s := (keys s.strm.state).foldl latentTest s
    done { s with strm := { s.strm with latentAt := latentEnd s } }

end Sys2Proof.Machine
end

