-- ==== Sys2Proof/Machine/Dispatch.lean ====
section
/-! DEFINITION. What each command of the block does: one arm per row of the opcode table, each one call of its meaning. -/
namespace Sys2Proof.Machine

def exec (i : Instr) (s : State) : Host.Outcome State Fault Refusal :=
  match i with
  | .powerOn => Sys2Proof.Machine.execPowerOn s
  | .pwrgdAssert => Sys2Proof.Machine.execPwrgdAssert s
  | .powerLoss => Sys2Proof.Machine.execPowerLoss s
  | .vaux33Change present => Sys2Proof.Machine.execVaux33Change present s
  | .resetNAssert => Sys2Proof.Machine.execResetNAssert s
  | .resetExit exit => Sys2Proof.Machine.execResetExit exit s
  | .glbResetCmdGo req data => Sys2Proof.Machine.execGlbResetCmdGo req data s
  | .thermalShutdown => Sys2Proof.Machine.execThermalShutdown s
  | .thermalRecover => Sys2Proof.Machine.execThermalRecover s
  | .bootRomDone el romGood fusesGood => Sys2Proof.Machine.execBootRomDone el romGood fusesGood s
  | .bankCheckDone el readError => Sys2Proof.Machine.execBankCheckDone el readError s
  | .bankTryTimeout el => Sys2Proof.Machine.execBankTryTimeout el s
  | .stageComplete n el failed => Sys2Proof.Machine.execStageComplete n el failed s
  | .stageLimitExpiry n el => Sys2Proof.Machine.execStageLimitExpiry n el s
  | .fatalCondition el => Sys2Proof.Machine.execFatalCondition el s
  | .deviceCycleBoundary el upsets => Sys2Proof.Machine.execDeviceCycleBoundary el upsets s
  | .maintUnitDone a res => Sys2Proof.Machine.execMaintUnitDone a res s
  | .applyDeadline addr => Sys2Proof.Machine.execApplyDeadline addr s
  | .registerWrite req addr data => Sys2Proof.Machine.execRegisterWrite req addr data s
  | .acknowledgeWrite req addr data => Sys2Proof.Machine.execAcknowledgeWrite req addr data s
  | .counterLowRead req addr => Sys2Proof.Machine.execCounterLowRead req addr s
  | .aliasWrite req addr data => Sys2Proof.Machine.execAliasWrite req addr data s
  | .msHoldWrite req data => Sys2Proof.Machine.execMsHoldWrite req data s
  | .msHoldExpire mc => Sys2Proof.Machine.execMsHoldExpire mc s
  | .irqVecRearm req w data => Sys2Proof.Machine.execIrqVecRearm req w data s
  | .msixMessage el v => Sys2Proof.Machine.execMsixMessage el v s
  | .msixControlWrite w => Sys2Proof.Machine.execMsixControlWrite w s
  | .tableEntryWrite req addr data => Sys2Proof.Machine.execTableEntryWrite req addr data s
  | .tableEpoch => Sys2Proof.Machine.execTableEpoch s
  | .frameHeaderRx port el len hdr => Sys2Proof.Machine.execFrameHeaderRx port el len hdr s
  | .frameTailRx port el rest pcsErr => Sys2Proof.Machine.execFrameTailRx port el rest pcsErr s
  | .macControlFrameRx port el bytes => Sys2Proof.Machine.execMacControlFrameRx port el bytes s
  | .pauseExpiry port cls => Sys2Proof.Machine.execPauseExpiry port cls s
  | .pauseRefresh port => Sys2Proof.Machine.execPauseRefresh port s
  | .dequeueDecision port el => Sys2Proof.Machine.execDequeueDecision port el s
  | .allocationSlot => Sys2Proof.Machine.execAllocationSlot s
  | .pointerCacheRefill pool => Sys2Proof.Machine.execPointerCacheRefill pool s
  | .operationTagReturned => Sys2Proof.Machine.execOperationTagReturned s
  | .share tag ptr n last => Sys2Proof.Machine.execShare tag ptr n last s
  | .dropRef tag pool ptr => Sys2Proof.Machine.execDropRef tag pool ptr s
  | .free tag pool ptr => Sys2Proof.Machine.execFree tag pool ptr s
  | .linkUp port => Sys2Proof.Machine.execLinkUp port s
  | .linkDown port el => Sys2Proof.Machine.execLinkDown port el s
  | .linkFault lane remote => Sys2Proof.Machine.execLinkFault lane remote s
  | .anComplete lane common partnerFec => Sys2Proof.Machine.execAnComplete lane common partnerFec s
  | .anRestart lane => Sys2Proof.Machine.execAnRestart lane s
  | .hpPortEnWrite req lane en => Sys2Proof.Machine.execHpPortEnWrite req lane en s
  | .fecSelWrite req lane code => Sys2Proof.Machine.execFecSelWrite req lane code s
  | .ltFail lane => Sys2Proof.Machine.execLtFail lane s
  | .ltRestart lane => Sys2Proof.Machine.execLtRestart lane s
  | .modulePresencePoll k ack => Sys2Proof.Machine.execModulePresencePoll k ack s
  | .modulePresenceChange k present => Sys2Proof.Machine.execModulePresenceChange k present s
  | .moduleDebounceExpiry k => Sys2Proof.Machine.execModuleDebounceExpiry k s
  | .moduleIdentified k iface media => Sys2Proof.Machine.execModuleIdentified k iface media s
  | .moduleReady k application => Sys2Proof.Machine.execModuleReady k application s
  | .moduleStepTimeout k => Sys2Proof.Machine.execModuleStepTimeout k s
  | .moduleRemoved k => Sys2Proof.Machine.execModuleRemoved k s
  | .moduleMonitorPoll k values => Sys2Proof.Machine.execModuleMonitorPoll k values s
  | .moduleXferGo req k data => Sys2Proof.Machine.execModuleXferGo req k data s
  | .moduleXferDone k result bytes => Sys2Proof.Machine.execModuleXferDone k result bytes s
  | .cpAnRestart c => Sys2Proof.Machine.execCpAnRestart c s
  | .cpCfgWrite req c data => Sys2Proof.Machine.execCpCfgWrite req c data s
  | .copperAnComplete c partner => Sys2Proof.Machine.execCopperAnComplete c partner s
  | .lpiEntry c el => Sys2Proof.Machine.execLpiEntry c el s
  | .lpiRx c enter => Sys2Proof.Machine.execLpiRx c enter s
  | .carrierSense c carrier => Sys2Proof.Machine.execCarrierSense c carrier s
  | .collision c el bits => Sys2Proof.Machine.execCollision c el bits s
  | .backoffExpiry c el => Sys2Proof.Machine.execBackoffExpiry c el s
  | .cableDiagRun req c data => Sys2Proof.Machine.execCableDiagRun req c data s
  | .cableDiagDone c pairs => Sys2Proof.Machine.execCableDiagDone c pairs s
  | .learn => Sys2Proof.Machine.execLearn s
  | .relocationMove => Sys2Proof.Machine.execRelocationMove s
  | .stashDrain => Sys2Proof.Machine.execStashDrain s
  | .deferralReplay => Sys2Proof.Machine.execDeferralReplay s
  | .agingTick el => Sys2Proof.Machine.execAgingTick el s
  | .ageDelete => Sys2Proof.Machine.execAgeDelete s
  | .fdbFlush req data => Sys2Proof.Machine.execFdbFlush req data s
  | .flushDelete index => Sys2Proof.Machine.execFlushDelete index s
  | .fdbLockRequest req mc w data => Sys2Proof.Machine.execFdbLockRequest req mc w data s
  | .fdbLockGrant mc seg => Sys2Proof.Machine.execFdbLockGrant mc seg s
  | .fdbLockExpire mc seg => Sys2Proof.Machine.execFdbLockExpire mc seg s
  | .fdbHashSeedWrite req bank seed => Sys2Proof.Machine.execFdbHashSeedWrite req bank seed s
  | .fdbCmdLookup req => Sys2Proof.Machine.execFdbCmdLookup req s
  | .fdbCmdWrite req => Sys2Proof.Machine.execFdbCmdWrite req s
  | .fdbCmdDelete req => Sys2Proof.Machine.execFdbCmdDelete req s
  | .mdbEditSetPort port group => Sys2Proof.Machine.execMdbEditSetPort port group s
  | .mdbEditClearPort port group => Sys2Proof.Machine.execMdbEditClearPort port group s
  | .mdbEditClearReportSeen group => Sys2Proof.Machine.execMdbEditClearReportSeen group s
  | .streamContextWrite req h cfg => Sys2Proof.Machine.execStreamContextWrite req h cfg s
  | .strmCmdLookup req => Sys2Proof.Machine.execStrmCmdLookup req s
  | .strmCmdInsert req => Sys2Proof.Machine.execStrmCmdInsert req s
  | .strmCmdDelete req => Sys2Proof.Machine.execStrmCmdDelete req s
  | .ctxResetRecovery h => Sys2Proof.Machine.execCtxResetRecovery h s
  | .ctxUnblock h => Sys2Proof.Machine.execCtxUnblock h s
  | .ctxGenSeqZero h => Sys2Proof.Machine.execCtxGenSeqZero h s
  | .ctxBalancesFull h => Sys2Proof.Machine.execCtxBalancesFull h s
  | .recoveryTimerExpiry h => Sys2Proof.Machine.execRecoveryTimerExpiry h s
  | .latentTest el => Sys2Proof.Machine.execLatentTest el s
  | .nodeForget pair mac => Sys2Proof.Machine.execNodeForget pair mac s
  | .supervisionFrameTx pair frame => Sys2Proof.Machine.execSupervisionFrameTx pair frame s
  | .queueDescriptorWrite req q cfg => Sys2Proof.Machine.execQueueDescriptorWrite req q cfg s
  | .gateEntryWrite req port index entry => Sys2Proof.Machine.execGateEntryWrite req port index entry s
  | .gateCommit req port el => Sys2Proof.Machine.execGateCommit req port el s
  | .gateCycleStart port el => Sys2Proof.Machine.execGateCycleStart port el s
  | .gateEntryExpiry port el => Sys2Proof.Machine.execGateEntryExpiry port el s
  | .qCmdZeroMaxima q => Sys2Proof.Machine.execQCmdZeroMaxima q s
  | .qCmdClearQueueDebt q => Sys2Proof.Machine.execQCmdClearQueueDebt q s
  | .qCmdClearClassDebt port cls => Sys2Proof.Machine.execQCmdClearClassDebt port cls s
  | .voqRouteWrite req d data => Sys2Proof.Machine.execVoqRouteWrite req d data s
  | .voqXoffLapse d port cls => Sys2Proof.Machine.execVoqXoffLapse d port cls s
  | .servoUpdate tb el theta epoch active => Sys2Proof.Machine.execServoUpdate tb el theta epoch active s
  | .srcTimeout tb el => Sys2Proof.Machine.execSrcTimeout tb el s
  | .tbCmdAdj tb => Sys2Proof.Machine.execTbCmdAdj tb s
  | .tbCmdSet tb => Sys2Proof.Machine.execTbCmdSet tb s
  | .tbCmdDeliverSwOffset tb el => Sys2Proof.Machine.execTbCmdDeliverSwOffset tb el s
  | .timeCapture => Sys2Proof.Machine.execTimeCapture s
  | .refLost => Sys2Proof.Machine.execRefLost s
  | .refRestored => Sys2Proof.Machine.execRefRestored s
  | .ptpContextWrite req port tb cfg => Sys2Proof.Machine.execPtpContextWrite req port tb cfg s
  | .ptpMessageRx port el bytes => Sys2Proof.Machine.execPtpMessageRx port el bytes s
  | .syncTx port tb el => Sys2Proof.Machine.execSyncTx port tb el s
  | .followUpTx port tb el => Sys2Proof.Machine.execFollowUpTx port tb el s
  | .relaySyncTx port tb el => Sys2Proof.Machine.execRelaySyncTx port tb el s
  | .delayReqTx port tb el => Sys2Proof.Machine.execDelayReqTx port tb el s
  | .pdelayReqTx port tb el => Sys2Proof.Machine.execPdelayReqTx port tb el s
  | .followUpTimeout port tb => Sys2Proof.Machine.execFollowUpTimeout port tb s
  | .tcRecordLapse port => Sys2Proof.Machine.execTcRecordLapse port s
  | .ppsinEdge k el falling => Sys2Proof.Machine.execPpsinEdge k el falling s
  | .ppsinPop k => Sys2Proof.Machine.execPpsinPop k s
  | .accJobStart req j atTime => Sys2Proof.Machine.execAccJobStart req j atTime s
  | .accJobCommit req j atTime => Sys2Proof.Machine.execAccJobCommit req j atTime s
  | .accJobStop req j atTime => Sys2Proof.Machine.execAccJobStop req j atTime s
  | .applySampleReached j el => Sys2Proof.Machine.execApplySampleReached j el s
  | .inputPacketRx cluster => Sys2Proof.Machine.execInputPacketRx cluster s
  | .inputDeadline u index el => Sys2Proof.Machine.execInputDeadline u index el s
  | .outputPacketCompute o el => Sys2Proof.Machine.execOutputPacketCompute o el s
  | .jobStepRestart j el => Sys2Proof.Machine.execJobStepRestart j el s
  | .carriedCommandRx j op apply el => Sys2Proof.Machine.execCarriedCommandRx j op apply el s
  | .migrationCompare j equal => Sys2Proof.Machine.execMigrationCompare j equal s
  | .engineFault e => Sys2Proof.Machine.execEngineFault e s
  | .jobFaultRestart j e el => Sys2Proof.Machine.execJobFaultRestart j e el s
  | .perfSelWrite req e n event => Sys2Proof.Machine.execPerfSelWrite req e n event s
  | .lineCopyDone input el => Sys2Proof.Machine.execLineCopyDone input el s
  | .placeQAllocate req port cls => Sys2Proof.Machine.execPlaceQAllocate req port cls s
  | .journalFlashCopy => Sys2Proof.Machine.execJournalFlashCopy s
  | .mc2Resume => Sys2Proof.Machine.execMc2Resume s
  | .laneFrameTx lane el => Sys2Proof.Machine.execLaneFrameTx lane el s
  | .laneHeaderRx lane el hdr sbip => Sys2Proof.Machine.execLaneHeaderRx lane el hdr sbip s
  | .groupFrameRx g poh pbip => Sys2Proof.Machine.execGroupFrameRx g poh pbip s
  | .activeSetChange g transmit => Sys2Proof.Machine.execActiveSetChange g transmit s
  | .leafRx g el bytes => Sys2Proof.Machine.execLeafRx g el bytes s
  | .aisLeafRx g => Sys2Proof.Machine.execAisLeafRx g s
  | .helloTx => Sys2Proof.Machine.execHelloTx s
  | .helloRx g el bytes => Sys2Proof.Machine.execHelloRx g el bytes s
  | .joinRx g bytes => Sys2Proof.Machine.execJoinRx g bytes s
  | .assignRx g bytes => Sys2Proof.Machine.execAssignRx g bytes s
  | .flowRx g bytes => Sys2Proof.Machine.execFlowRx g bytes s
  | .flowRefresh => Sys2Proof.Machine.execFlowRefresh s
  | .orderRx g bytes => Sys2Proof.Machine.execOrderRx g bytes s
  | .orderReplyRx g bytes => Sys2Proof.Machine.execOrderReplyRx g bytes s
  | .orderRetry d => Sys2Proof.Machine.execOrderRetry d s
  | .upstreamLoss => Sys2Proof.Machine.execUpstreamLoss s
  | .orphanTimeout => Sys2Proof.Machine.execOrphanTimeout s
  | .pmSecond el => Sys2Proof.Machine.execPmSecond el s
  | .pmBinRoll el => Sys2Proof.Machine.execPmBinRoll el s
  | .izlHierRelease d => Sys2Proof.Machine.execIzlHierRelease d s
  | .izlHierRejoin => Sys2Proof.Machine.execIzlHierRejoin s
  | .izlGrpCfgWrite req g data => Sys2Proof.Machine.execIzlGrpCfgWrite req g data s
  | .peerFound peer => Sys2Proof.Machine.execPeerFound peer s
  | .peerSearchTimeout => Sys2Proof.Machine.execPeerSearchTimeout s
  | .heartbeatRx el alt hb => Sys2Proof.Machine.execHeartbeatRx el alt hb s
  | .heartbeatMissed => Sys2Proof.Machine.execHeartbeatMissed s
  | .twinStateRx rec => Sys2Proof.Machine.execTwinStateRx rec s
  | .staleCopyDone cls => Sys2Proof.Machine.execStaleCopyDone cls s
  | .twinLaneChange k up => Sys2Proof.Machine.execTwinLaneChange k up s
  | .twinNotificationRx port hb => Sys2Proof.Machine.execTwinNotificationRx port hb s
  | .switchover => Sys2Proof.Machine.execSwitchover s
  | .twinCmdTakeover => Sys2Proof.Machine.execTwinCmdTakeover s
  | .declareFail => Sys2Proof.Machine.execDeclareFail s
  | .resync cls => Sys2Proof.Machine.execResync cls s
  | .switchoverBoundary => Sys2Proof.Machine.execSwitchoverBoundary s
  | .syncCopyDone => Sys2Proof.Machine.execSyncCopyDone s
  | .wtrExpiry => Sys2Proof.Machine.execWtrExpiry s
  | .revertReady => Sys2Proof.Machine.execRevertReady s
  | .ringOpen r => Sys2Proof.Machine.execRingOpen r s
  | .ringAutoOpen r => Sys2Proof.Machine.execRingAutoOpen r s
  | .ringReadyTimeout r => Sys2Proof.Machine.execRingReadyTimeout r s
  | .ringLinksUp r => Sys2Proof.Machine.execRingLinksUp r s
  | .ringOpenTimeout r => Sys2Proof.Machine.execRingOpenTimeout r s
  | .ringForceWrite req r force => Sys2Proof.Machine.execRingForceWrite req r force s
  | .endpointReset el => Sys2Proof.Machine.execEndpointReset el s
  | .hostPortStateChange d0 outOfReset busMaster => Sys2Proof.Machine.execHostPortStateChange d0 outOfReset busMaster s
  | .hostRingTailWrite req tx r data => Sys2Proof.Machine.execHostRingTailWrite req tx r data s
  | .hostRingEnable req tx r data => Sys2Proof.Machine.execHostRingEnable req tx r data s
  | .hostRingDisable req tx r data => Sys2Proof.Machine.execHostRingDisable req tx r data s
  | .rxFrameDeliver r el bufs => Sys2Proof.Machine.execRxFrameDeliver r el bufs s
  | .rxTimeout r place el => Sys2Proof.Machine.execRxTimeout r place el s
  | .txFrameFetch r el chain => Sys2Proof.Machine.execTxFrameFetch r el chain s
  | .txCompletion r => Sys2Proof.Machine.execTxCompletion r s
  | .tableDmaGo req data => Sys2Proof.Machine.execTableDmaGo req data s
  | .tableDmaDone hostData errorAt => Sys2Proof.Machine.execTableDmaDone hostData errorAt s
  | .watchdogExpiry core el => Sys2Proof.Machine.execWatchdogExpiry core el s
  | .mc0WatchdogExpiry el => Sys2Proof.Machine.execMc0WatchdogExpiry el s
  | .coreRestartDone core => Sys2Proof.Machine.execCoreRestartDone core s
  | .replVerify req => Sys2Proof.Machine.execReplVerify req s
  | .replArm req => Sys2Proof.Machine.execReplArm req s
  | .replAbort req => Sys2Proof.Machine.execReplAbort req s
  | .replAck req => Sys2Proof.Machine.execReplAck req s
  | .replSwitch => Sys2Proof.Machine.execReplSwitch s
  | .replContainerToStandby bytes => Sys2Proof.Machine.execReplContainerToStandby bytes s
  | .stageClaim src kind => Sys2Proof.Machine.execStageClaim src kind s
  | .stageWrite src => Sys2Proof.Machine.execStageWrite src s
  | .stageWriteDone data error => Sys2Proof.Machine.execStageWriteDone data error s
  | .stageEnd src => Sys2Proof.Machine.execStageEnd src s
  | .stageVerify src => Sys2Proof.Machine.execStageVerify src s
  | .stageCommit src => Sys2Proof.Machine.execStageCommit src s
  | .stageAbort src => Sys2Proof.Machine.execStageAbort src s
  | .stagingLockTimeout => Sys2Proof.Machine.execStagingLockTimeout s
  | .activateHitless req => Sys2Proof.Machine.execActivateHitless req s
  | .activateTwin req => Sys2Proof.Machine.execActivateTwin req s
  | .activateRestart req => Sys2Proof.Machine.execActivateRestart req s
  | .confirm req => Sys2Proof.Machine.execConfirm req s
  | .raiseFloor req => Sys2Proof.Machine.execRaiseFloor req s
  | .programCustKey req => Sys2Proof.Machine.execProgramCustKey req s
  | .engineDrained e => Sys2Proof.Machine.execEngineDrained e s
  | .drainTimeout e => Sys2Proof.Machine.execDrainTimeout e s
  | .coreUpdateDone core ok => Sys2Proof.Machine.execCoreUpdateDone core ok s
  | .trialHoldExpiry => Sys2Proof.Machine.execTrialHoldExpiry s
  | .hierStage req => Sys2Proof.Machine.execHierStage req s
  | .hierActivate req => Sys2Proof.Machine.execHierActivate req s
  | .hierAbort req => Sys2Proof.Machine.execHierAbort req s
  | .ballOwnerWrite req n code => Sys2Proof.Machine.execBallOwnerWrite req n code s
  | .ballDriveWrite req n dir out => Sys2Proof.Machine.execBallDriveWrite req n dir out s
  | .spiRead space offset words => Sys2Proof.Machine.execSpiRead space offset words s
  | .spiStatus => Sys2Proof.Machine.execSpiStatus s
  | .spiIdent => Sys2Proof.Machine.execSpiIdent s
  | .traceFrameTx room => Sys2Proof.Machine.execTraceFrameTx room s
  | .snapshotPeriod => Sys2Proof.Machine.execSnapshotPeriod s
  | .sillageEpoch el crossings => Sys2Proof.Machine.execSillageEpoch el crossings s
  | .recArm req => Sys2Proof.Machine.execRecArm req s
  | .recStop req => Sys2Proof.Machine.execRecStop req s
  | .recRelease req => Sys2Proof.Machine.execRecRelease req s
  | .recTrigger req => Sys2Proof.Machine.execRecTrigger req s
  | .matchTrigger m => Sys2Proof.Machine.execMatchTrigger m s
  | .postExpiry => Sys2Proof.Machine.execPostExpiry s
  | .checkpointTimer => Sys2Proof.Machine.execCheckpointTimer s
  | .captureExportGo req => Sys2Proof.Machine.execCaptureExportGo req s
  | .rerunEnter req => Sys2Proof.Machine.execRerunEnter req s
  | .rerunStart req => Sys2Proof.Machine.execRerunStart req s
  | .registerRead req addr width upsets => Sys2Proof.Machine.execRegisterRead req addr width upsets s
  | .holdupChargeFull => Sys2Proof.Machine.execHoldupChargeFull s
  | .wholeSecond tb el => Sys2Proof.Machine.execWholeSecond tb el s

end Sys2Proof.Machine
end

