-- ==== Sys2Proof/Safety.lean ====
section
/-! DEFINITION. What counts as a safe step and a safe run, and what a command leaves alone, in the terms that statements
use. -/
namespace Sys2Proof.Machine

/-- A property that every step from a state with it keeps. -/
def Invariant (I : State → Prop) : Prop := ∀ s t, I s → step s = .next t → I t

/-! ### What a command leaves alone -/

/-- The parts of the state that a frame names. `arming` is which vectors are disarmed and when each last sent; `clock` is
DT and the four time bases; `fabric` is holds, counter shadows and unfinished table entries; `draws` is the seed of the
generators and what each has drawn. -/
inductive Part where
  | power | staged | inForce | waiting | counters | fabric | arming | masks | fix | image | frames | ports | modules
  | bpm | sched | fdb | strm | clock | time | acc | place | izl | twin | host | img | maint | obs | bar4 | out
  | pending | draws | freeCtr
  deriving DecidableEq, Repr

/-- Part `p` of `t` is as in `s`. -/
def Part.same (p : Part) (s t : State) : Prop :=
  match p with
  | .power => t.power = s.power
  | .staged => t.regs.staged = s.regs.staged
  | .inForce => t.regs.inForce = s.regs.inForce
  | .waiting => t.regs.waiting = s.regs.waiting
  | .counters => t.regs.counters = s.regs.counters
  | .fabric => t.regs.holdClearedAt = s.regs.holdClearedAt ∧ t.regs.holdHostCycles = s.regs.holdHostCycles ∧
      t.regs.holdMcCycles = s.regs.holdMcCycles ∧ t.regs.partialWords = s.regs.partialWords ∧
      t.regs.shadows = s.regs.shadows
  | .arming => t.irq.disarmed = s.irq.disarmed ∧ t.irq.lastMessage = s.irq.lastMessage
  | .masks => t.irq.msixEnable = s.irq.msixEnable ∧ t.irq.functionMask = s.irq.functionMask ∧
      t.irq.masked = s.irq.masked ∧ t.irq.msixTable = s.irq.msixTable
  | .fix => t.fix = s.fix
  | .image => t.image = s.image
  | .frames => t.frames = s.frames ∧ t.nextFrame = s.nextFrame
  | .ports => t.ports = s.ports
  | .modules => t.modules = s.modules
  | .bpm => t.bpm = s.bpm
  | .sched => t.sched = s.sched
  | .fdb => t.fdb = s.fdb
  | .strm => t.strm = s.strm
  | .clock => t.time.dt = s.time.dt ∧ t.time.tbs = s.time.tbs
  | .time => t.time.tbCmds = s.time.tbCmds ∧ t.time.refLost = s.time.refLost ∧ t.time.alignTb0 = s.time.alignTb0 ∧
      t.time.cycleStart = s.time.cycleStart ∧ t.time.cycleTb0 = s.time.cycleTb0 ∧ t.time.ctx = s.time.ctx ∧ t.time.ctxWait = s.time.ctxWait ∧
      t.time.ptp = s.time.ptp ∧ t.time.limiter = s.time.limiter ∧ t.time.records = s.time.records ∧
      t.time.ppsin = s.time.ppsin ∧ t.time.ppsout = s.time.ppsout ∧ t.time.clk10 = s.time.clk10 ∧
      t.time.wclk = s.time.wclk
  | .acc => t.acc = s.acc
  | .place => t.place = s.place
  | .izl => t.izl = s.izl
  | .twin => t.twin = s.twin
  | .host => t.host = s.host
  | .img => t.img = s.img
  | .maint => t.maint = s.maint
  | .obs => t.obs = s.obs
  | .bar4 => t.bar4 = s.bar4
  | .out => t.out = s.out
  | .pending => t.pending = s.pending
  | .draws => t.seed = s.seed ∧ t.draws = s.draws
  | .freeCtr => t.freeCtr = s.freeCtr

/-- Every part of `t` that is not listed is as in `s`. -/
def OnlyChanges (ps : List Part) (s t : State) : Prop := ∀ p, p ∉ ps → p.same s t

/-- Every register word in force at an offset that is not listed is as in `s`. -/
def RegsBut (l : List Nat) (s t : State) : Prop := ∀ a d, a ∉ l → get d t.regs.inForce a = get d s.regs.inForce a

/-- Every counter at an offset that is not listed is as in `s`. -/
def CountersBut (l : List Nat) (s t : State) : Prop := ∀ a, a ∉ l → get 0 t.regs.counters a = get 0 s.regs.counters a

/-- Command `c` completes in `s`; against `b` it changes no part but those listed and the arming of vectors (R434), and `P`
holds of the state that follows. For a command given `el` ticks after the one before, `b` is
`advance el s`. -/
def DoesFrom (b : State) (c : Instr) (s : State) (ps : List Part) (P : State → Prop) : Prop :=
  ∃ t, exec c s = .next t ∧ OnlyChanges (.arming :: ps) b t ∧ P t

/-- Command `c` completes in `s`, changes no part but those listed and the arming of vectors, and `P` holds of the state that
follows. -/
def Does (c : Instr) (s : State) (ps : List Part) (P : State → Prop) : Prop := DoesFrom s c s ps P

/-! ### Conditions and outcomes that several statements share -/

/-- No capture and no trace takes records (R509, R517). -/
abbrev Quiet (s : State) : Prop := recording s = false ∧ rdBit s Reg.obsTraceCfg [] 31 = false

/-- A write of `req` to the word at BAR0 offset `a` reaches its register (R410, R471), while no capture or trace records it
(Table 19-4) and no rerun judges it (R522). -/
abbrev Reaches (s : State) (req : Requester) (a : Nat) : Prop :=
  s.power.inReset = false ∧ req ≠ .spi ∧ serves s a = true ∧ rerunState s < 2 ∧ Quiet s

/-- The unit neither stands by for a twin nor keeps one in step (R383, R386). -/
abbrev Alone (s : State) : Prop := role s < 2 ∧ activePaired s = false

/-- No frame waits, is in transmission, or is being received at port `p`. -/
abbrev Calm (s : State) (p : Nat) : Prop :=
  s.sched.sending = [] ∧ s.sched.queues = [] ∧ (port s p).receiving = none ∧ (port s p).lpiSince = none

/-- No front port has its link. -/
abbrev Dark (s : State) : Prop := ∀ p < 80, linkUp s p = false

/-- The next allocation slot has no request to grant, and the operations `l` to apply (R183, R193). -/
abbrev SlotOf (s : State) (l : List BufOp) : Prop :=
  stopped s = false ∧ s.bpm.cellReqs = [] ∧ s.bpm.dramReqs = [] ∧ s.bpm.ops = l

/-- Front port `p` sends nothing of the device's own. -/
abbrev Still (s : State) (p : Nat) : Prop := (port s p).ownNow = none

/-- Front port `p` is free to begin a frame of the device's own at once. -/
abbrev LineFree (s : State) (p : Nat) : Prop :=
  lineBusy s p = false ∧ (port s p).own = [] ∧ (port s p).wakeAt ≤ s.time.dt ∧ (port s p).lpiSince = none ∧
    (halfDuplex s p && (port s p).carrier) = false

/-- In `t`, port `p` is sending frame `o` of the device's own, which it began in `s`. -/
abbrev Begins (t s : State) (p : Nat) (o : OwnFrame) : Prop :=
  (port t p).ownNow = some ⟨o, ownWire o (egressStamp s p), s.time.dt, egressStamp s p⟩

/-- The outputs so far with what port `p` advertises where it begins to acquire its link (R59, R90). -/
abbrev Advertises (s : State) (p : Nat) : List Output :=
  if portEn s p && released s p && negotiates s p then .advertise p (advertisement s p) :: s.out else s.out

/-- Every ring pair is in bypass (R398). -/
abbrev Bypassed (s : State) : Prop := ∀ p ∈ s.twin.pairs, p.closed = true

/-- Registers whose words in force a reset may leave other than at their reset values (R244, R461, R518). -/
def keptOffsets : List Nat :=
  [Reg.glbResetCause.addr [], Reg.obsRecStat.addr [], Reg.obsCapLen.addr []] ++
    (List.range 4).flatMap fun t => [Reg.timeTbStat.addr [t], Reg.timeTbFreq.addr [t]]

/-- The parts that a reset puts wholly at their reset values. -/
def clearedParts : List Part :=
  [.staged, .waiting, .counters, .fabric, .arming, .masks, .fix, .image, .ports, .modules, .bpm, .sched, .fdb, .strm, .acc,
    .place, .izl, .twin, .host, .maint, .bar4, .draws]

/-- The parts that a reset may change. -/
def resetParts : List Part :=
  clearedParts ++ [.power, .inForce, .frames, .clock, .time, .img, .obs]

/-- What a reset with cause `c` leaves (R462, R463): registers and working state at their reset values; flash and fuses
as they were. -/
def AfterReset (s t : State) (c : Nat) : Prop :=
  (∀ p ∈ clearedParts, p.same State.reset t) ∧ t.frames = [] ∧
    (∀ a d, a ∉ keptOffsets → get d t.regs.inForce a = d) ∧ rd t Reg.glbResetCause [] 2 0 = c ∧
    t.power.inReset = true ∧ t.img.floor = s.img.floor ∧ t.img.custKey = s.img.custKey ∧ t.img.config = s.img.config

end Sys2Proof.Machine
end

