-- ==== Sys2Proof/Certificates/Slice0/Obligations.lean ====
section
/-! DEFINITION. The statements for the provers: what each family of commands does, where it completes, and what it leaves as it
was. -/
open Sys2Proof Sys2Proof.Machine

/-- Supplies and resets (R461 to R463, R541, R244). VIN12 in range, rails in regulation, a cooled die and VAUX33 are seen; each
reset command resets the device with its own cause. RESET_N and a reset command keep flash; where a TB is LOCKED or HOLDOVER it
runs on at its last FREQ, and any other TB starts anew. -/
def Obligations.SuppliesAndResets : Prop :=
  (∀ s, Does .powerOn s [.power] fun t => t.power = { s.power with vin := true }) ∧
  (∀ s, s.power.vin = true → s.power.hot = false → s.power.pwrgd = false →
    Does .pwrgdAssert s [.power, .inForce] fun t =>
      t.power = { s.power with pwrgd := true, origin := s.time.dt, stageAt := put s.power.stageAt 0 s.time.dt } ∧ RegsBut [Reg.glbReady.addr []] s t ∧
        word t Reg.glbReady [] = setFld (setFld (word s Reg.glbReady []) 0 0 1) 27 24 0) ∧
  (∀ s, Does .thermalRecover s [.power] fun t => t.power = { s.power with hot := false }) ∧
  (∀ s p, timeRuns { s with power := { s.power with vaux := p } } = true →
    Does (.vaux33Change p) s [.power] fun t => t.power = { s.power with vaux := p }) ∧
  (∀ s, Bypassed s → s.power.pwrgd = true →
    Does .resetNAssert s resetParts fun t =>
      AfterReset s t 1 ∧ t.power.resetLow = true ∧ t.img.banks = s.img.banks ∧ t.time.dt = s.time.dt ∧
        ∀ i < 4, tb t i = afterReset s i) ∧
  (∀ s req data, Bypassed s → Reaches s req (Reg.glbResetCmd.addr []) → rd s Reg.glbResetCmd [] 15 0 = 0xA55A →
    Does (.glbResetCmdGo req data) s resetParts fun t =>
      AfterReset s t 2 ∧ t.img.banks = s.img.banks ∧ t.time.dt = s.time.dt ∧ ∀ i < 4, tb t i = afterReset s i) ∧
  (∀ s, Bypassed s → s.power.vin = true → s.power.hot = false →
    Does .powerLoss s resetParts fun t =>
      AfterReset s t 0 ∧ t.power.vin = false ∧ t.power.pwrgd = false ∧ rdBit t Reg.glbResetCause [] 4 = s.power.vaux ∧
        t.time.dt = if s.power.vaux then s.time.dt else 0) ∧
  (∀ s, Bypassed s → s.power.vin = true → s.power.hot = false →
    Does .thermalShutdown s resetParts fun t =>
      AfterReset s t 0 ∧ t.power.hot = true ∧ t.power.pwrgd = false ∧ rdBit t Reg.glbResetCause [] 4 = s.power.vaux) ∧
  (∀ s el now, now = advance el s → Bypassed now → now.power.pwrgd = true → now.power.inReset = false → rdBit now Reg.obsRecCfg [] 31 = false → role now ≠ 1 →
    DoesFrom now (.fatalCondition el) s resetParts fun t =>
      ((∀ b, now.img.running = some b → (bankOfImg now b).state ≠ 3) → AfterReset now t 3 ∧ t.img.banks = now.img.banks) ∧
        ∀ b, now.img.running = some b → (bankOfImg now b).state = 3 → (bankOfImg t b).state = 1 ∧ t.img.named = 1 - b)

/-- Watchdogs and the hold-up charge (R456 to R459, R402): a core whose watchdog expires is down until it has restarted, the
restart counts and a notice is posted; MC0's restart also puts the ring pairs in bypass, and after it MC0 comes to the pairs that
were OPEN. -/
def Obligations.CoresRestart : Prop :=
  (∀ s (core : Fin 3) el now, now = advance el s → coreRuns now (core + 1) = true →
    ((get [] now.power.expiries (core + 1)).filter fun t => decide (now.time.dt - t ≤ expiryWindow)).length < 2 →
    DoesFrom now (.watchdogExpiry core el) s [.power, .inForce, .out] fun t =>
      t.power.coresDown = now.power.coresDown ||| BitVec.ofNat 4 (2 ^ (core.val + 1)) ∧
        word t Reg.glbMcRestartCnt [] = word now Reg.glbMcRestartCnt [] + 1 ∧
        word t Reg.glbMcRestartLast [] = BitVec.ofNat 32 (core + 1) ∧ t.out = .notice (core + 1) :: now.out ∧
        RegsBut [Reg.glbMcRestartCnt.addr [], Reg.glbMcRestartLast.addr []] now t) ∧
  (∀ s el now, now = advance el s → Bypassed now → coreRuns now 0 = true →
    ((get [] now.power.expiries 0).filter fun t => decide (now.time.dt - t ≤ expiryWindow)).length < 2 →
    DoesFrom now (.mc0WatchdogExpiry el) s [.power, .inForce, .twin, .out] fun t =>
      t.power.coresDown = now.power.coresDown ||| 1#4 ∧ t.twin.reopen = ((List.range 4).filter fun r => ringState now r == 2) ∧
        word t Reg.glbMcRestartLast [] = 0 ∧ t.out = .notice 0 :: now.out ∧ ∀ r < 4, ringState t r = 0 ∨ ringState t r = 4) ∧
  (∀ s, coreDown s 0 = true → stageDone s 2 = true →
    Does (.coreRestartDone 0) s [.power, .twin] fun t =>
      t.power = { s.power with coresDown := s.power.coresDown &&& ~~~1#4 } ∧ t.twin.ringWait = (List.range 4).find? (ringTurn s)) ∧
  (∀ s, coreDown s 1 = true → stageDone s 2 = true →
    Does (.coreRestartDone 1) s [.power] fun t => t.power = { s.power with coresDown := s.power.coresDown &&& ~~~2#4 }) ∧
  (∀ s, coreDown s 3 = true → stageDone s 2 = true → s.izl.held = [] → s.izl.orders = [] →
    Does (.coreRestartDone 3) s [.power] fun t => t.power = { s.power with coresDown := s.power.coresDown &&& ~~~8#4 }) ∧
  (∀ s, coreDown s 2 = true → stageDone s 2 = true → s.place.heldBack = [] →
    Does (.coreRestartDone 2) s [.power] fun t =>
      t.power = { s.power with coresDown := s.power.coresDown &&& ~~~4#4 }) ∧
  (∀ s, s.power.vin = true → Does .holdupChargeFull s [.power] fun t => t.power = { s.power with charged := true })

/-- Boot (R244, R245, R464 to R470, Tables 16-3 and 16-4): straps at RESET_EXIT, where a device cycle that follows DT begins and
every TB that was not kept starts at 0 s; the ROM's check, and the banks tried in order until one
passes, each failure with its code. -/
def Obligations.BootTriesBanks : Prop :=
  (∀ s el x now, now = advance el s → now.power.pwrgd = true → now.power.inReset = true →
    now.power.pwrgdAt + msTicks 1 ≤ now.time.dt → rd now Reg.glbResetCause [] 2 0 = 0 →
    DoesFrom now (.resetExit ⟨el, x⟩) s [.power, .inForce, .time, .clock, .strm, .fdb] fun t =>
      t.power = { now.power with inReset := false, resetLow := false } ∧ RegsBut [Reg.glbStrap.addr []] now t ∧
        t.time = { now.time with tbs := (List.range 4).map (startTb now), alignTb0 := false, cycleStart := now.time.dt } ∧
        (∀ i < 4, tbState now i < 2 → (tb t i).now = 0) ∧
        word t Reg.glbStrap [] = BitVec.ofNat 32 (bnat x.testMode * 16 + bnat x.twinId * 8 + x.bootSel.toNat)) ∧
  (∀ s el x now, now = advance el s → now.power.pwrgd = true → now.power.inReset = true →
    now.power.pwrgdAt + msTicks 1 ≤ now.time.dt → rd now Reg.glbResetCause [] 2 0 ≠ 0 →
    DoesFrom now (.resetExit ⟨el, x⟩) s [.power, .inForce, .time, .clock, .strm, .fdb] fun t =>
      t.power = { now.power with inReset := false, resetLow := false, origin := now.time.dt,
                                 stageAt := put now.power.stageAt 0 now.time.dt } ∧ stageDone t 0 = true ∧
        word t Reg.glbStageMs [0] = 0 ∧
        RegsBut [Reg.glbStrap.addr [], Reg.glbReady.addr [], Reg.glbStageMs.addr [0]] now t) ∧
  (∀ s el x now, now = advance el s → now.time.dt < now.power.pwrgdAt + msTicks 1 →
    DoesFrom now (.resetExit ⟨el, x⟩) s [] fun _ => True) ∧
  (∀ s el fusesGood now, now = advance el s → now.power.inReset = false → stageDone now 0 = true → stageDone now 1 = false → halted now = false →
    DoesFrom now (.bootRomDone el false fusesGood) s [.inForce] fun t =>
      halted t = true ∧ word t Reg.glbReadyFail [] = 0x10000001 ∧
        RegsBut [Reg.glbReady.addr [], Reg.glbReadyFail.addr []] now t) ∧
  (∀ s el now, now = advance el s → now.power.inReset = false → stageDone now 0 = true → stageDone now 1 = false → halted now = false →
    rdBit now Reg.glbStrap [] 4 = false → rd now Reg.glbStrap [] 1 0 ≠ 3 → now.power.failed = [] → fatalCount now < 4 →
    DoesFrom now (.bootRomDone el true true) s [.power, .inForce] fun t =>
      stageDone t 1 = true ∧ t.power = { now.power with trying := (bankOrder now).head?, tryAt := now.time.dt,
                                                        stageAt := put now.power.stageAt 1 now.time.dt } ∧
        RegsBut [Reg.glbReady.addr [], Reg.glbStageMs.addr [1], Reg.glbBootStat.addr []] now t) ∧
  (∀ s el e b c now, now = advance el s → b < 2 → now.power.trying = some b → (bankOfImg now b).state ≠ 3 → checkBank now b e = .error c →
    DoesFrom now (.bankCheckDone el e) s [.power, .inForce] fun t =>
      rd t Reg.glbBootStat [] (8 * b + 15) (8 * b + 8) = c % 256 ∧ t.power.failed = now.power.failed ++ [b] ∧
        t.power.trying = ((bankOrder now).find? fun k => !(now.power.failed ++ [b]).contains k) ∧
        RegsBut [Reg.glbBootStat.addr [], Reg.glbReady.addr [], Reg.glbReadyFail.addr []] now t) ∧
  (∀ s el e b x now, now = advance el s → b < 2 → now.power.trying = some b → checkBank now b e = .ok x →
    DoesFrom now (.bankCheckDone el e) s [.power, .img, .inForce, .out] fun t =>
      stageDone t 2 = true ∧ t.power.trying = none ∧ t.img = { now.img with running := some b, bundle := some x } ∧
        word t Reg.imgBundleRun [] = x.ver ∧ word t Reg.glbReadyFail [] = 0 ∧
        RegsBut [Reg.glbBootStat.addr [], Reg.glbReady.addr [], Reg.glbStageMs.addr [2], Reg.imgBundleRun.addr [],
          Reg.glbReadyFail.addr []] now t) ∧
  (∀ s el b now, now = advance el s → b < 2 → now.power.trying = some b → (bankOfImg now b).state ≠ 3 →
    now.power.tryAt + msTicks 2000 ≤ now.time.dt →
    DoesFrom now (.bankTryTimeout el) s [.power, .inForce] fun t =>
      rd t Reg.glbBootStat [] (8 * b + 15) (8 * b + 8) = 0x23 ∧ t.power.failed = now.power.failed ++ [b] ∧
        RegsBut [Reg.glbBootStat.addr [], Reg.glbReady.addr [], Reg.glbReadyFail.addr []] now t)

/-- Readiness stages (R472 to R474, Table 16-5): stage 3 loads the structure image; stages 5 to 10 complete when their
conditions are met; stages 6, 7 and 9 also complete, with TIMED_OUT, when their limits pass; the ROM's limit halts boot. -/
def Obligations.StagesComplete : Prop :=
  (∀ s el x now, now = advance el s → stageRuns now 3 = true → now.img.bundle = some x →
    DoesFrom now (.stageComplete 3 el false) s [.power, .inForce, .staged, .image, .twin, .out] fun t =>
      t.image = x.image ∧ stageDone t 3 = true ∧ word t Reg.imgSiRun [] = x.image.ver ∧
        word t Reg.imgSiLineage [] = x.image.lineage) ∧
  (∀ s (n : Fin 12) el now, now = advance el s → 5 ≤ n.val → n.val ≤ 10 → stageRuns now n = true → stageMet now n = true →
    DoesFrom now (.stageComplete n el false) s [.power, .inForce, .twin, .host, .out] fun t =>
      stageDone t n = true ∧
        RegsBut ([Reg.glbReady.addr [], Reg.glbReadyInfo.addr []] ++ (List.range 12).map fun k => Reg.glbStageMs.addr [k]) now t) ∧
  (∀ s (n : Fin 12) el now, now = advance el s → n.val = 6 ∨ n.val = 7 ∨ n.val = 9 → stageRuns now n = true →
    stageLimit now n ≤ now.time.dt →
    DoesFrom now (.stageLimitExpiry n el) s [.power, .inForce, .twin, .host, .out] fun t =>
      stageDone t n = true ∧ rdBit t Reg.glbReadyInfo [] (16 + n) = true ∧
        RegsBut ([Reg.glbReady.addr [], Reg.glbReadyInfo.addr []] ++ (List.range 12).map fun k => Reg.glbStageMs.addr [k]) now t) ∧
  (∀ s el now, now = advance el s → stageRuns now 1 = true → now.power.origin + msTicks 100 ≤ now.time.dt →
    DoesFrom now (.stageLimitExpiry 1 el) s [.inForce, .freeCtr] fun t =>
      halted t = true ∧ (word t Reg.glbReadyFail [] = 0x10000001 ∨ word t Reg.glbReadyFail [] = 0x10000002) ∧
        RegsBut [Reg.glbReady.addr [], Reg.glbReadyFail.addr []] now t)

/-- Register writes (R413, R415): an IMM field is in force at once; an FRM field waits until its apply point; an AK field takes
its data; a write of a live mirror (R412) or of a closed window (R471) changes nothing. -/
def Obligations.RegisterWritesLand : Prop :=
  (∀ s req data, Reaches s req (Reg.glbScratch.addr []) →
    Does (.registerWrite req (Reg.glbScratch.addr []) ⟨4, data⟩) s [.staged, .inForce] fun t =>
      word t Reg.glbScratch [] = data ∧ stagedWord t Reg.glbScratch [] = data ∧ RegsBut [Reg.glbScratch.addr []] s t) ∧
  (∀ s req p data, p < 96 → Reaches s req (Reg.schedPortCfg.addr [p]) → standsBy s req (some 0) = false →
    activePaired s = false →
    Does (.registerWrite req (Reg.schedPortCfg.addr [p]) ⟨4, data⟩) s [.staged, .waiting] fun t =>
      stagedWord t Reg.schedPortCfg [p] = blend 0x803F00FF (stagedWord s Reg.schedPortCfg [p]) data ∧
        t.regs.waiting = (s.regs.waiting.filter fun e => !(e.addr == Reg.schedPortCfg.addr [p] && e.kind == 1)) ++
          [⟨Reg.schedPortCfg.addr [p], 0x803F00FF, 1, s.time.dt, req⟩]) ∧
  (∀ s p req since, p < 96 → s.regs.waiting = [⟨Reg.schedPortCfg.addr [p], 0x803F00FF, 1, since, req⟩] →
    Does (.applyDeadline (Reg.schedPortCfg.addr [p])) s [.waiting, .inForce] fun t =>
      t.regs.waiting = [] ∧ RegsBut [Reg.schedPortCfg.addr [p]] s t ∧
        word t Reg.schedPortCfg [p] = blend 0x803F00FF (word s Reg.schedPortCfg [p]) (stagedWord s Reg.schedPortCfg [p])) ∧
  (∀ s req data, Reaches s req (Reg.glbBuserrAck.addr []) →
    Does (.acknowledgeWrite req (Reg.glbBuserrAck.addr []) data) s [.inForce] fun t =>
      word t Reg.glbBuserrAck [] = data ∧ RegsBut [Reg.glbBuserrAck.addr []] s t) ∧
  (∀ s k a data, s.power.inReset = false → busFault a 4 = none → a < bar2 → isLive a = true ∨ serves s (stagedOf a) = false →
    Does (.registerWrite (.mc k) a ⟨4, data⟩) s [] fun _ => True)

/-- Register reads and the bit-alias window (R79, R410, R412, R421 to R423, R471, R507, R508): a word reads in its staged half and in
its live mirror; a read of a copper port's window first counts the port's time in transmit LPI (R108), and one that shows a level
or a lane register draws a free value; the low word of a counter latches the high word for its requester; an address that
nothing decodes is a bus error. An alias
address names one bit of one word: a read gives that bit, a write changes it alone, and it is unmapped when its word is. A READ by the observation SPI
gives what the register reads as, or zero with ERR where nothing decodes it; STATUS and IDENT answer while VAUX33 or VIN12 is
present. -/
def Obligations.RegisterReadsAnswer : Prop :=
  (∀ s req a, s.power.inReset = false → busFault a 4 = none → a < bar2 →
    (∀ g ix i, ctrAt (stagedOf a) ≠ some (g, ix, i, .low)) →
    Does (.registerRead req a 4 []) s [.out, .ports, .counters, .freeCtr] fun t =>
      t.out = .readDone req a (peek (settleLpi s a) req a) :: s.out ∧ t.ports = (settleLpi s a).ports ∧
        t.regs.counters = (settleLpi s a).regs.counters ∧ t.freeCtr = (drawOpen s a).freeCtr) ∧
  (∀ s a, a < 0x400000 ∨ 0x600000 ≤ a → settleLpi s a = s) ∧
  (∀ s, serves s (Reg.glbScratch.addr []) = true →
    peek s .host (Reg.glbScratch.addr []) = stagedWord s Reg.glbScratch [] ∧
      peek s .host (Reg.glbScratch.addr [] + 0x8000) = word s Reg.glbScratch []) ∧
  (∀ s req a, serves s (stagedOf a) = false → peek s req a = 0) ∧
  (∀ s req a g ix i, s.power.inReset = false → busFault a 4 = none → a < bar2 → serves s (stagedOf a) = true →
    ctrAt (stagedOf a) = some (g, ix, i, .low) →
    Does (.counterLowRead req a) s [.fabric, .out, .ports, .counters, .freeCtr] fun t =>
      t.out = .readDone req a (BitVec.ofNat 32 (ctr (settleLpi s a) g ix i)) :: s.out ∧
        t.regs.counters = (settleLpi s a).regs.counters ∧
        get 0 t.regs.shadows (shadowKey req (stagedOf a)) = BitVec.ofNat 32 (ctr (settleLpi s a) g ix i / 2 ^ 32)) ∧
  (∀ s req a width, s.power.inReset = false → a < bar2 → a % 4 = 0 → mapped a = false ∨ width ≠ 4 →
    Does (.registerRead req a width []) s [.inForce, .out] fun t =>
      t.out = .busError req a :: s.out ∧ word t Reg.glbBuserrCnt [] = word s Reg.glbBuserrCnt [] + 1 ∧
        word t Reg.glbBuserrLast [] = BitVec.ofNat 32 a ∧
        word t Reg.glbBuserrInfo [] = BitVec.ofNat 32 ((if width = 4 then 0 else 16) + reqCode req) ∧
        RegsBut [Reg.glbBuserrCnt.addr [], Reg.glbBuserrLast.addr [], Reg.glbBuserrInfo.addr []] s t) ∧
  (∀ s req a width data, s.power.inReset = false → a < bar2 → a % 4 = 0 → mapped a = false ∨ width ≠ 4 →
    Does (.registerWrite req a ⟨width, data⟩) s [.inForce, .out] fun t =>
      t.out = .busError req a :: s.out ∧ word t Reg.glbBuserrCnt [] = word s Reg.glbBuserrCnt [] + 1 ∧
        word t Reg.glbBuserrInfo [] = BitVec.ofNat 32 ((if width = 4 then 32 else 48) + reqCode req) ∧
        RegsBut [Reg.glbBuserrCnt.addr [], Reg.glbBuserrLast.addr [], Reg.glbBuserrInfo.addr []] s t) ∧
  (∀ w b : Nat, w % 4 = 0 → b < 32 → aliasOf (w * 32 + b * 4) = (w, b)) ∧
  (∀ a, a < 0x20000000 → mapped (bar2 + a) = mapped (a / 128 * 4)) ∧
  (∀ s req a, s.power.inReset = false → a < 0x20000000 → a % 4 = 0 → mapped (a / 128 * 4) = true →
    Does (.registerRead req (bar2 + a) 4 []) s [.out, .ports, .counters, .freeCtr] fun t =>
      t.out = .readDone req (bar2 + a)
        (BitVec.ofNat 32 (bnat (flag (peek (settleLpi s (a / 128 * 4)) req (a / 128 * 4)) (a % 128 / 4)))) :: s.out ∧
        t.regs.counters = (settleLpi s (a / 128 * 4)).regs.counters ∧ t.freeCtr = (drawOpen s (a / 128 * 4)).freeCtr) ∧
  (∀ s req a, s.power.inReset = false → a < 0x20000000 → a % 4 = 0 → mapped (a / 128 * 4) = false →
    Does (.registerRead req (bar2 + a) 4 []) s [.inForce, .out] fun t =>
      t.out = .busError req (bar2 + a) :: s.out ∧ word t Reg.glbBuserrCnt [] = word s Reg.glbBuserrCnt [] + 1 ∧
        word t Reg.glbBuserrLast [] = BitVec.ofNat 32 a ∧
        RegsBut [Reg.glbBuserrCnt.addr [], Reg.glbBuserrLast.addr [], Reg.glbBuserrInfo.addr []] s t) ∧
  (∀ s req a data, s.power.inReset = false → a < 0x20000000 → a % 4 = 0 → mapped (a / 128 * 4) = false →
    Does (.aliasWrite req a data) s [.inForce, .out] fun t =>
      t.out = .busError req (bar2 + a) :: s.out ∧ word t Reg.glbBuserrCnt [] = word s Reg.glbBuserrCnt [] + 1 ∧
        RegsBut [Reg.glbBuserrCnt.addr [], Reg.glbBuserrLast.addr [], Reg.glbBuserrInfo.addr []] s t) ∧
  (∀ s req i data, i < 32 → Reaches s req (Reg.glbScratch.addr []) →
    Does (.aliasWrite req (128 * (Reg.glbScratch.addr [] / 4) + 4 * i) data) s [.staged, .inForce] fun t =>
      rdBit t Reg.glbScratch [] i = flag data 0 ∧ (∀ j < 32, j ≠ i → rdBit t Reg.glbScratch [] j = rdBit s Reg.glbScratch [] j) ∧
        RegsBut [Reg.glbScratch.addr []] s t) ∧
  (∀ s (o : BitVec 30), s.power.vin = true → o.toNat % 4 = 0 → o.toNat < bar2 → mapped o.toNat = true →
    (∀ g ix i, ctrAt (stagedOf o.toNat) ≠ some (g, ix, i, .low)) →
    Does (.spiRead 0 o 1) s [.out, .obs, .ports, .counters, .freeCtr] fun t =>
      t.obs = { s.obs with spiErr := false } ∧
        t.out = .spi (toBytes 4
          (peek (settleLpi { s with obs := { s.obs with spiErr := false } } o.toNat) .spi o.toNat).toNat) :: s.out) ∧
  (∀ s (o : BitVec 30), spiAlive s = true → o.toNat % 4 = 0 → o.toNat < bar2 → mapped o.toNat = false →
    Does (.spiRead 0 o 1) s [.out, .obs] fun t =>
      t.obs = { s.obs with spiErr := true } ∧ t.out = .spi [0, 0, 0, 0] :: s.out) ∧
  (∀ s, spiAlive s = true → Does .spiStatus s [.out] fun t =>
    t.out = .spi [BitVec.ofNat 8 (bnat s.power.vin + 2 * bnat s.obs.spiErr)] :: s.out) ∧
  (∀ s, spiAlive s = true → Does .spiIdent s [.out] fun t =>
    t.out = .spi (toBytes 4 (word s Reg.chipIdent []).toNat ++ toBytes 4 (word s Reg.chipRev []).toNat ++
      toBytes 8 Config.unitId.toNat) :: s.out)

/-- BAR4 shared memory (R405): a word written reads back, no other byte changes, and the memory keeps its canonical form. The
byte order within a word is the model's (log entry 12). -/
def Obligations.SharedMemoryHoldsWords : Prop :=
  ∀ s k o data, s.power.inReset = false → o % 4 = 0 → o < 0x3FF8000 → Memory.wf s.bar4 →
    Does (.registerWrite (.mc k) (bar4 + o) ⟨4, data⟩) s [.bar4] (fun t =>
      Memory.wf t.bar4 ∧ bar4Word t o = data ∧ (∀ b, b < o ∨ o + 4 ≤ b → Memory.read t.bar4 b = Memory.read s.bar4 b) ∧
        Does (.registerRead .host (bar4 + o) 4 []) t [.out] fun u => u.out = .readDone .host (bar4 + o) data :: t.out)

/-- Table windows (R116, R409): a word below the highest of an entry is kept; the highest word sends an FDB entry's four words
to wait for the table epoch; the one word of a reason entry is in force at once. -/
def Obligations.TableWordsLand : Prop :=
  (∀ s k i w data, i < 131072 → w < 3 → Reaches s (.mc k) (0x2000000 + 16 * i + 4 * w) →
    Does (.tableEntryWrite (.mc k) (0x2000000 + 16 * i + 4 * w) data) s [.fabric] fun t =>
      t.regs.partialWords = put s.regs.partialWords (0x2000000 + 16 * i + 4 * w) data) ∧
  (∀ s k i a b c data, i < 131072 → Reaches s (.mc k) (0x2000000 + 16 * i + 12) → standsBy s (.mc k) (some 1) = false →
    find s.regs.partialWords (0x2000000 + 16 * i) = some a → find s.regs.partialWords (0x2000000 + 16 * i + 4) = some b →
    find s.regs.partialWords (0x2000000 + 16 * i + 8) = some c →
    Does (.tableEntryWrite (.mc k) (0x2000000 + 16 * i + 12) data) s [.fabric, .fdb] fun t =>
      t.fdb = { s.fdb with tableWrites := s.fdb.tableWrites ++ [⟨0x2000000 + 16 * i, [a, b, c, data], .mc k⟩] } ∧
        ∀ w < 3, find t.regs.partialWords (0x2000000 + 16 * i + 4 * w) = none) ∧
  (∀ s k i data, i < 17 → Reaches s (.mc k) (0x9000100 + 4 * i) →
    Does (.tableEntryWrite (.mc k) (0x9000100 + 4 * i) data) s [.host] fun t =>
      t.host = { s.host with reasons := set 0 s.host.reasons i (data &&& 0x80000007) })

/-- The MS hold (R418) and interrupts (R434): a hold stands until its writer drops it or 100 device cycles have passed; a
message leaves only when every condition holds, and disarms its vector until the vector is re-armed or its level is false. -/
def Obligations.HoldsAndVectors : Prop :=
  (∀ s data, Reaches s .host (Reg.glbMsHold.addr []) → flag data 0 = true →
    Does (.msHoldWrite .host data) s [.staged, .inForce] fun t =>
      rdBit t Reg.glbMsHold [] 0 = true ∧ rdBit t Reg.glbMsHold [] 1 = rdBit s Reg.glbMsHold [] 1 ∧
        RegsBut [Reg.glbMsHold.addr []] s t) ∧
  (∀ s k data, Reaches s (.mc k) (Reg.glbMsHold.addr []) → flag data 1 = false → rdBit s Reg.glbMsHold [] 1 = true →
    Does (.msHoldWrite (.mc k) data) s [.staged, .inForce, .fabric] fun t =>
      rdBit t Reg.glbMsHold [] 1 = false ∧ rdBit t Reg.glbMsHold [] 0 = rdBit s Reg.glbMsHold [] 0 ∧
        t.regs.holdClearedAt = s.time.dt ∧ RegsBut [Reg.glbMsHold.addr []] s t) ∧
  (∀ s mc, rdBit s Reg.glbMsHold [] (bnat mc) = true →
    100 ≤ (if mc then s.regs.holdMcCycles else s.regs.holdHostCycles) →
    Does (.msHoldExpire mc) s [.staged, .inForce, .fabric] fun t =>
      rdBit t Reg.glbMsHold [] (bnat mc) = false ∧ t.regs.holdClearedAt = s.time.dt ∧
        word t Reg.glbHoldexpCnt [] = word s Reg.glbHoldexpCnt [] + 1 ∧
        RegsBut [Reg.glbMsHold.addr [], Reg.glbHoldexpCnt.addr []] s t) ∧
  (∀ s el (v : Fin 64) now, now = advance el s → wouldSend now v = true → holdoffPassed now v = true → vectorMasked now v = false →
    DoesFrom now (.msixMessage el v) s [.out] fun t =>
      (∃ a w, t.out = .msix v a w :: now.out) ∧ t.irq.disarmed.getLsbD v = true ∧
        find t.irq.lastMessage v = some now.time.dt ∧
        ∀ u : Fin 64, u ≠ v → t.irq.disarmed.getLsbD u = (now.irq.disarmed.getLsbD u && vectorLevel now u)) ∧
  (∀ s req (w : Fin 2) data, Reaches s req (Reg.irqVecRearm.addr [w]) →
    Does (.irqVecRearm req w data) s [] fun t =>
      ∀ v < 64, t.irq.disarmed.getLsbD v =
        (s.irq.disarmed.getLsbD v && vectorLevel s v && !(v / 32 == w.val && flag data (v % 32)))) ∧
  (∀ s e m, Does (.msixControlWrite (.capability e m)) s [.masks] fun t =>
    t.irq.msixEnable = e ∧ t.irq.functionMask = m ∧ t.irq.masked = s.irq.masked ∧ t.irq.msixTable = s.irq.msixTable) ∧
  (∀ s (v : Fin 64) m, Does (.msixControlWrite (.vectorMask v m)) s [.masks] fun t =>
    t.irq.masked.getLsbD v = m ∧ (∀ u : Fin 64, u ≠ v → t.irq.masked.getLsbD u = s.irq.masked.getLsbD u) ∧
      t.irq.msixEnable = s.irq.msixEnable ∧ t.irq.functionMask = s.irq.functionMask ∧ t.irq.msixTable = s.irq.msixTable)

/-- Links of front ports (R58 to R63, R73): a link comes up with its port's fault state cleared; one that goes down counts;
a fault stands in LINK_STAT; and negotiation and training follow what the partner offers. -/
def Obligations.LinksFollowTheLine : Prop :=
  (∀ s (p : Fin 80), p.val < 48 → hWindow s p = true → portEn s p = true → linkUp s p = false → released s p = true →
    (port s p).trainingAbandoned = false →
    (anEffective s p = true → rdBit s Reg.hpLinkStat [p] 2 = true) → Quiet s →
    Does (.linkUp p) s [.inForce, .ports] fun t =>
      linkUp t p = true ∧ RegsBut [Reg.hpLinkStat.addr [p]] s t ∧
        port t p = { port s p with localFault := false, remoteFault := false, anNoMatch := false, activeAt := s.time.dt } ∧
        ∀ q, q ≠ p → port t q = port s q) ∧
  (∀ s (p : Fin 80), 48 ≤ p.val → cWindow s (p - 48) = true → portEn s p = true → linkUp s p = false → released s p = true →
    forced s (p - 48) = true → Quiet s →
    Does (.linkUp p) s [.inForce, .ports, .freeCtr] fun t =>
      linkUp t p = true ∧ RegsBut [Reg.cpLinkStat.addr [p - 48]] s t ∧
        rd t Reg.cpLinkStat [p - 48] 2 1 = rd s Reg.cpCfg [p - 48] 5 4 ∧
        rd t Reg.cpLinkStat [p - 48] 3 3 = rd s Reg.cpCfg [p - 48] 6 6 ∧
        (rdBit s Reg.cpCfg [p - 48] 12 = false → rd t Reg.cpLinkStat [p - 48] 5 5 = rd s Reg.cpCfg [p - 48] 13 13)) ∧
  (∀ s (p : Fin 80) el now, now = advance el s → linkUp now p = true → portGroup now p = none → Calm now p → Still now p →
    Quiet now → offline now = false → rdBit now Reg.pipePortCfg [pipeOf now p, p] 31 = false →
    DoesFrom now (.linkDown p el) s [.inForce, .counters, .ports, .freeCtr, .out] fun t =>
      linkUp t p = false ∧ t.out = Advertises now p ∧ (port t p).paused = none ∧ (port t p).negotiatedFec = none ∧ (port t p).pfcSent = 0 ∧
        (∀ q, q ≠ p → port t q = port now q) ∧
        RegsBut [Reg.hpLinkStat.addr [p], Reg.cpLinkStat.addr [p - 48]] now t ∧
        if p.val < 48 then ctr t Ctr.hport [p] 38 = (ctr now Ctr.hport [p] 38 + 1) % 2 ^ 40
        else ctr t Ctr.cport [p - 48] 38 = (ctr now Ctr.cport [p - 48] 38 + 1) % 2 ^ 40) ∧
  (∀ s (n : Fin 48) remote, hWindow s n = true → portEn s n = true → linkUp s n = false → offline s = false →
    Does (.linkFault n remote) s [.inForce, .ports, .out] fun t =>
      linkUp t n = false ∧ rdBit t Reg.hpLinkStat [n] 1 = remote ∧ RegsBut [Reg.hpLinkStat.addr [n]] s t ∧
        port t n = { port s n with remoteFault := remote, localFault := !remote } ∧ t.out = .linkSignal n (!remote) :: s.out) ∧
  (∀ s (n : Fin 48) fec, hWindow s n = true → portEn s n = true → anEffective s n = true → linkUp s n = false →
    offline s = false →
    Does (.anComplete n true fec) s [.inForce, .ports] fun t =>
      (port t n).negotiatedFec = highestFec (fecSet s n &&& fec.toNat) ∧ (port t n).anNoMatch = false ∧
        rdBit t Reg.hpLinkStat [n] 2 = true ∧ RegsBut [Reg.hpLinkStat.addr [n]] s t) ∧
  (∀ s (n : Fin 48) fec, hWindow s n = true → portEn s n = true → anEffective s n = true → linkUp s n = false →
    offline s = false →
    Does (.anComplete n false fec) s [.inForce, .ports] fun t =>
      (port t n).negotiatedFec = none ∧ (port t n).anNoMatch = true ∧ rdBit t Reg.hpLinkStat [n] 2 = false) ∧
  (∀ s (n : Fin 48), training s n = true → (port s n).trainAt + trainLimit s n ≤ s.time.dt →
    Does (.ltFail n) s [.inForce, .counters, .ports] fun t =>
      (port t n).trainingAbandoned = true ∧ rdBit t Reg.hpLinkStat [n] 3 = false ∧
        ctr t Ctr.hport [n] 39 = (ctr s Ctr.hport [n] 39 + 1) % 2 ^ 40 ∧ CountersBut [Ctr.hport.addr [n] 39] s t) ∧
  (∀ s (n : Fin 48), portEn s n = true → (port s n).trainingAbandoned = true →
    (port s n).trainAt + msTicks 100 ≤ s.time.dt →
    Does (.ltRestart n) s [.inForce, .ports, .out] fun t =>
      (port t n).trainingAbandoned = false ∧ (port t n).negotiatedFec = none ∧ t.out = Advertises s n ∧ RegsBut [Reg.hpLinkStat.addr [n]] s t)

/-- HP_CFG (R54, R58, R59): written while the link is down, PORT_EN takes its bit at once; FEC_SEL takes a code of FEC_SET and
stays where it was for any other, while the staged half holds what was written; AN_RESTART begins negotiation again. -/
def Obligations.PortConfigurationLands : Prop :=
  (∀ s req (n : Fin 48) en, Reaches s req (Reg.hpCfg.addr [n]) → Alone s → linkUp s n = false →
    Does (.hpPortEnWrite req n en) s [.staged, .inForce, .ports, .out] fun t =>
      rdBit t Reg.hpCfg [n] 0 = en ∧ flag (stagedWord t Reg.hpCfg [n]) 0 = en ∧
        RegsBut [Reg.hpCfg.addr [n], Reg.hpLinkStat.addr [n]] s t) ∧
  (∀ s req (n : Fin 48) (code : BitVec 3), Reaches s req (Reg.hpCfg.addr [n]) → Alone s → linkUp s n = false →
    Does (.fecSelWrite req n code) s [.staged, .inForce, .ports, .out] fun t =>
      fld (stagedWord t Reg.hpCfg [n]) 10 8 = code.toNat ∧
        rd t Reg.hpCfg [n] 10 8 = (if bit (fecSet s n) code.toNat then code.toNat else rd s Reg.hpCfg [n] 10 8) ∧
        RegsBut [Reg.hpCfg.addr [n], Reg.hpLinkStat.addr [n]] s t) ∧
  (∀ s (n : Fin 48), Reaches s .host (Reg.hpCfg.addr [n]) → Alone s → linkUp s n = false →
    flag (stagedWord s Reg.hpCfg [n]) 0 = true →
    Does (.anRestart n) s [.staged, .inForce, .ports, .out] fun t =>
      rd t Reg.hpLinkStat [n] 3 0 = 0 ∧ (port t n).negotiatedFec = none ∧ (port t n).anNoMatch = false ∧
        RegsBut [Reg.hpCfg.addr [n], Reg.hpLinkStat.addr [n]] s t)

/-- Modules (R81 to R85, Table 3-5): presence starts the steps, each step has its state, and the ports that the master serves
stay held from the first step until READY; a mailbox transfer runs, or is refused with its RESULT. -/
def Obligations.ModulesStepThrough : Prop :=
  (∀ s (k : Fin 12), masterOn s k = true → presentBall s k = false → modState s k = 0 →
    (modul s k).pollAt + msTicks 100 ≤ s.time.dt →
    Does (.modulePresencePoll k true) s [.inForce, .modules] fun t =>
      modState t k = 1 ∧
        modul t k = { modul s k with present := true, pollFailed := false, pollAt := s.time.dt, since := s.time.dt }) ∧
  (∀ s (k : Fin 12), masterOn s k = true → modState s k = 1 →
    Does (.modulePresenceChange k false) s [.inForce, .modules] fun t =>
      modState t k = 0 ∧ modul t k = { modul s k with present := false, since := s.time.dt }) ∧
  (∀ s (k : Fin 12), masterOn s k = true → modState s k = 1 → stepPast s k 20 = true → (modul s k).present = true →
    (∀ n < 48, linkUp s n = false) →
    Does (.moduleDebounceExpiry k) s [.inForce, .ports, .modules] fun t =>
      modState t k = 2 ∧ (modul t k).since = s.time.dt ∧ ∀ n ∈ servedPorts s k, moduleHeld t n = true) ∧
  (∀ s (k : Fin 12) i m, masterOn s k = true → modState s k = 2 → (modul s k).present = true →
    s.time.dt ≤ (modul s k).since + msTicks 50 →
    Does (.moduleIdentified k i m) s [.inForce, .modules] fun t =>
      modState t k = 3 ∧ rd t Reg.hpModStat [4 * k] 5 4 = i.toNat ∧ rd t Reg.hpModStat [4 * k] 10 8 = m.toNat ∧
        RegsBut [Reg.hpModStat.addr [4 * k]] s t) ∧
  (∀ s (k : Fin 12) fits, masterOn s k = true → modState s k = 3 → (modul s k).present = true →
    s.time.dt ≤ (modul s k).since + msTicks 60000 → (∀ n < 48, linkUp s n = false) →
    Does (.moduleReady k fits) s [.inForce, .ports, .modules, .out] fun t =>
      modState t k = (if fits then 4 else 5) ∧ ∀ n ∈ servedPorts s k, moduleHeld t n = !fits) ∧
  (∀ s (k : Fin 12), masterOn s k = true → (modState s k = 2 ∧ stepPast s k 50 = true) ∨ modState s k = 3 →
    (∀ n < 48, linkUp s n = false) →
    Does (.moduleStepTimeout k) s [.inForce, .ports, .modules] fun t =>
      modState t k = 6 ∧ ∀ n ∈ servedPorts s k, moduleHeld t n = true) ∧
  (∀ s (k : Fin 12), masterOn s k = true → modState s k ≠ 0 → (modul s k).present = false → (∀ n < 48, linkUp s n = false) →
    Does (.moduleRemoved k) s [.inForce, .ports, .modules] fun t =>
      word t Reg.hpModStat [4 * k] = 0 ∧ (modul t k).monitor = [] ∧ ∀ n ∈ servedPorts s k, moduleHeld t n = true) ∧
  (∀ s (k : Fin 12) v, masterOn s k = true → modState s k = 4 → rd s Reg.hpModCfg [4 * k] 15 8 ≠ 0 →
    (modul s k).monitorAt + msTicks (10 * rd s Reg.hpModCfg [4 * k] 15 8) ≤ s.time.dt →
    Does (.moduleMonitorPoll k v) s [.modules] fun t => modul t k = { modul s k with monitor := v, monitorAt := s.time.dt }) ∧
  (∀ s req (k : Fin 12) data, Reaches s req (Reg.hpModXfer.addr [4 * k]) → Alone s →
    rdBit s Reg.hpModXferStat [4 * k] 3 = false → (modul s k).present = true →
    touchesPageSelect (blend 0x7FFFFFFF (word s Reg.hpModXfer [4 * k]) data) = false →
    Does (.moduleXferGo req k data) s [.staged, .inForce, .modules, .out] fun t =>
      word t Reg.hpModXferStat [4 * k] = 8 ∧
        t.out = .moduleXfer k (blend 0x7FFFFFFF (word s Reg.hpModXfer [4 * k]) data)
          (xferBytes s k (blend 0x7FFFFFFF (word s Reg.hpModXfer [4 * k]) data)) :: s.out ∧
        (modul t k).mailbox = some (blend 0x7FFFFFFF (word s Reg.hpModXfer [4 * k]) data)) ∧
  (∀ s (k : Fin 12) r bytes w, (modul s k).mailbox = some w → r ≠ 0 →
    Does (.moduleXferDone k r bytes) s [.inForce, .modules] fun t =>
      (modul t k).mailbox = none ∧ word t Reg.hpModXferStat [4 * k] = BitVec.ofNat 32 r.toNat) ∧
  (∀ s (k : Fin 12) bytes w, (modul s k).mailbox = some w → flag w 30 = false →
    Does (.moduleXferDone k 0 bytes) s [.staged, .inForce, .modules] fun t =>
      (modul t k).mailbox = none ∧ word t Reg.hpModXferStat [4 * k] = 0 ∧
        ∀ i ≤ fld w 28 24, rd t Reg.hpModData [4 * k, i / 4] (31 - 8 * (i % 4)) (24 - 8 * (i % 4)) = byteAt bytes i)

/-- Copper links (R90 to R95, R93): a port that negotiates comes up with what both ends have in common, or shows AN_NO_MATCH;
a write of CP_CFG lands at once, and a change of what it offers begins negotiation again. -/
def Obligations.CopperNegotiates : Prop :=
  (∀ s (c : Fin 32) x r, cWindow s c = true → portEn s (48 + c) = true → linkUp s (48 + c) = false →
    released s (48 + c) = true → forced s c = false → negotiate s c x = some r → Quiet s →
    Does (.copperAnComplete c x) s [.inForce, .ports, .freeCtr] fun t =>
      linkUp t (48 + c) = true ∧ word t Reg.cpLinkStat [c] = copperStat s c x r true ∧
        RegsBut [Reg.cpLinkStat.addr [c]] s t) ∧
  (∀ s (c : Fin 32) x, cWindow s c = true → portEn s (48 + c) = true → linkUp s (48 + c) = false →
    released s (48 + c) = true → forced s c = false → negotiate s c x = none →
    Does (.copperAnComplete c x) s [.ports] fun t =>
      port t (48 + c) = { port s (48 + c) with anNoMatch := true, remoteFault := x.remoteFault && x.negotiates }) ∧
  (∀ s c x, x.negotiates = true → bit (advFull s c) 2 = false → bit (advFull s c) 1 = true → x.full.getLsbD 1 = true →
    negotiate s c x = some ⟨1, true, bothEee s c x 1, false⟩) ∧
  (∀ s req (c : Fin 32) data, Reaches s req (Reg.cpCfg.addr [c]) → Alone s → linkUp s (48 + c) = false →
    Does (.cpCfgWrite req c data) s [.staged, .inForce, .ports, .out] fun t =>
      word t Reg.cpCfg [c] = blend 0xFFF79 (word s Reg.cpCfg [c]) data ∧ linkUp t (48 + c) = false ∧
        RegsBut [Reg.cpCfg.addr [c], Reg.cpLinkStat.addr [c]] s t) ∧
  (∀ s (c : Fin 32), Reaches s .host (Reg.cpCfg.addr [c]) → Alone s → linkUp s (48 + c) = false →
    flag (stagedWord s Reg.cpCfg [c]) 0 = true →
    Does (.cpAnRestart c) s [.staged, .inForce, .ports, .out] fun t =>
      (port t (48 + c)).anNoMatch = false ∧ word t Reg.cpLinkStat [c] = BitVec.ofNat 32 (downMdix t c * 32)) ∧
  (∀ s req (c : Fin 32) data, Reaches s req (Reg.cpDiagCtrl.addr [c]) → Alone s → linkUp s (48 + c) = false →
    rdBit s Reg.cpDiagCtrl [c] 3 = false →
    Does (.cableDiagRun req c data) s [.staged, .inForce, .ports] fun t =>
      rdBit t Reg.cpDiagCtrl [c] 3 = true ∧ rd t Reg.cpDiagCtrl [c] 5 4 = 0 ∧ (port t (48 + c)).diagRuns = !octetRecal s c) ∧
  (∀ s req (c : Fin 32) data, Reaches s req (Reg.cpDiagCtrl.addr [c]) → Alone s → linkUp s (48 + c) = true →
    rdBit s Reg.cpDiagCtrl [c] 3 = false → flag data 1 = false →
    Does (.cableDiagRun req c data) s [.staged, .inForce] fun t =>
      rdBit t Reg.cpDiagCtrl [c] 3 = false ∧ rd t Reg.cpDiagCtrl [c] 5 4 = 2 ∧ linkUp t (48 + c) = true) ∧
  (∀ s (c : Fin 32) pairs, (port s (48 + c)).diagRuns = true →
    Does (.cableDiagDone c pairs) s [.inForce, .ports, .out] fun t =>
      rdBit t Reg.cpDiagCtrl [c] 3 = false ∧ rd t Reg.cpDiagCtrl [c] 5 4 = 1 ∧ (port t (48 + c)).diagRuns = false ∧
        ∀ k < 4, word t Reg.cpDiagPair [c, k] =
          BitVec.ofNat 32 ((pairResult (pairs.getD k (0, 0))).1 * 256 + (pairResult (pairs.getD k (0, 0))).2)) ∧
  (∀ v d : Nat, 2 ≤ v → v ≤ 5 → d < 256 →
    pairResult (BitVec.ofNat 3 v, BitVec.ofNat 8 d) = if 200 < d then (1, 0) else (v, if d < 2 then 0 else d))

/-- Energy-efficient Ethernet and half duplex (R97 to R103): an idle port enters LPI and counts; the partner's LPI shows;
carrier shows; the nth collision of an attempt draws a back-off below 2^min(n, 10) slot times, and a new attempt takes a new
stamp; a collision after more than 512 bits ends the transmission. -/
def Obligations.CopperLinesShareAndSleep : Prop :=
  (∀ s (c : Fin 32) el now, now = advance el s → linkUp now (48 + c) = true → rdBit now Reg.cpLinkStat [c] 11 = true →
    (port now (48 + c)).lpiSince = none → portIdle now (48 + c) = true → gateRunning now (48 + c) = false →
    parentPath now (48 + c) = false → (port now (48 + c)).activeAt + max 1 (rd now Reg.cpEee [c] 15 0) * 800 ≤ now.time.dt →
    DoesFrom now (.lpiEntry c el) s [.inForce, .counters, .ports] fun t =>
      (port t (48 + c)).lpiSince = some now.time.dt ∧ rdBit t Reg.cpLinkStat [c] 12 = true ∧
        ctr t Ctr.cport [c] 45 = (ctr now Ctr.cport [c] 45 + 1) % 2 ^ 40 ∧ RegsBut [Reg.cpLinkStat.addr [c]] now t) ∧
  (∀ s (c : Fin 32) enter, linkUp s (48 + c) = true → offline s = false →
    Does (.lpiRx c enter) s [.inForce, .counters] fun t =>
      rdBit t Reg.cpLinkStat [c] 13 = enter ∧ RegsBut [Reg.cpLinkStat.addr [c]] s t ∧
        ctr t Ctr.cport [c] 46 =
          if enter && !rdBit s Reg.cpLinkStat [c] 13 then (ctr s Ctr.cport [c] 46 + 1) % 2 ^ 40 else ctr s Ctr.cport [c] 46) ∧
  (∀ s (c : Fin 32) on, linkUp s (48 + c) = true → halfDuplex s (48 + c) = true → offline s = false →
    Does (.carrierSense c on) s [.counters, .ports] fun t =>
      (port t (48 + c)).carrier = on ∧ ∀ q, q ≠ 48 + c.val → port t q = port s q) ∧
  (∀ s (c : Fin 32) el n now, now = advance el s → attempting now (48 + c) = true → halfDuplex now (48 + c) = true →
    offline now = false → n ≤ 512 → (port now (48 + c)).collisions < 15 →
    DoesFrom now (.collision c el n) s [.ports, .draws] fun t =>
      (port t (48 + c)).collisions = (port now (48 + c)).collisions + 1 ∧
        (∃ k < 2 ^ min ((port now (48 + c)).collisions + 1) 10,
          (port t (48 + c)).backingOff = some (now.time.dt + bitTicks now (48 + c) (32 + 512 * k))) ∧
        ∀ q, q ≠ 48 + c.val → port t q = port now q) ∧
  (∀ s (c : Fin 32) el y e now, now = advance el s → find now.sched.sending (48 + c) = some y →
    (port now (48 + c)).backingOff = some e → e ≤ now.time.dt → (port now (48 + c)).carrier = false →
    DoesFrom now (.backoffExpiry c el) s [.sched, .ports] fun t =>
      (port t (48 + c)).backingOff = none ∧
        find t.sched.sending (48 + c) =
          some { y with startedAt := now.time.dt, stamp := egressStamp now (48 + c) }) ∧
  (∀ s (c : Fin 32) el n now, now = advance el s → find now.sched.sending (48 + c) = none → attempting now (48 + c) = true →
    halfDuplex now (48 + c) = true → offline now = false → 512 < n →
    DoesFrom now (.collision c el n) s [.ports, .counters] fun t =>
      (port t (48 + c)).ownNow = none ∧ (port t (48 + c)).collisions = 0 ∧
        ctr t Ctr.cport [c] 37 = (ctr now Ctr.cport [c] 37 + 1) % 2 ^ 40)

/-- Frames at a front port (R64 to R67, Table 3-2): a header puts a new frame at its port; one shorter than 64 bytes goes no
further; a tail that Table 3-2 accepts counts its bytes and the frame, and a frame that no egress took is gone; a port that
does not receive ignores what its line brings. Pause and a port's decision (R71 to R74, R195, R216): a received pause holds the
port for its quanta from its reception, and their end frees it; an XOFF in force is repeated once REFRESH has passed; and the
copy that the decision chooses leaves its queue and is in transmission. -/
def Obligations.FramesComeAndGo : Prop :=
  (∀ s (p : Fin 96) el len hdr now, now = advance el s → receives now p = true → (port now p).receiving = none →
    now.regs.waiting = [] →
    ∃ t, exec (.frameHeaderRx p el len hdr) s = .next t ∧ (port t p).receiving = some now.nextFrame) ∧
  (∀ s (p : Fin 96) el len hdr now, now = advance el s → p.val < 80 → len < 64 → receives now p = true →
    (port now p).receiving = none → now.regs.waiting = [] → inHierarchy now = false →
    DoesFrom now (.frameHeaderRx p el len hdr) s [.frames, .ports] fun t =>
      t.nextFrame = now.nextFrame + 1 ∧ (port t p).receiving = some now.nextFrame ∧
        ∃ x, frame t now.nextFrame = some x ∧ x.bytes = hdr ∧ x.inPort = p ∧ x.dropped = true ∧ x.copies = 0) ∧
  (∀ s (p : Fin 80) el rest f x now, now = advance el s → portGroup now p = none → (port now p).receiving = some f →
    frame now f = some x → x.inPort = p → x.dropped = true → x.bad = true → x.mid = false → x.copies = 0 → x.head = none →
    x.staging = none → x.source = none → x.learn = none → x.stream = none → x.stormed = none → now.sched.queues = [] →
    now.bpm.cellReqs = [] → selectionOf now p none = none → inHierarchy now = false →
    tailRow (x.bytes ++ rest) x.mru false = none → field (x.bytes ++ rest) 12 2 ≠ 0x8808 →
    DoesFrom now (.frameTailRx ⟨p, by omega⟩ el rest false) s [.frames, .ports, .counters] fun t =>
      (port t p).receiving = none ∧ frame t f = none ∧
        (p.val < 48 → ctr t Ctr.hport [p] 2 = (ctr now Ctr.hport [p] 2 + 1) % 2 ^ 40 ∧
          ctr t Ctr.hport [p] 0 = (ctr now Ctr.hport [p] 0 + (x.bytes.length + rest.length)) % 2 ^ 48 ∧
          ctr t Ctr.hport [p] 1 = (ctr now Ctr.hport [p] 1 + (x.bytes.length + rest.length)) % 2 ^ 48)) ∧
  (∀ s (p : Fin 96) el len hdr now, now = advance el s → receives now p = false →
    DoesFrom now (.frameHeaderRx p el len hdr) s [] fun _ => True) ∧
  (∀ s (p : Fin 80) el bytes now, now = advance el s → receives now p = true →
    ∃ t, exec (.ptpMessageRx p el bytes) s = .next t ∧ t.frames = (wholeFrameIn now p bytes).frames) ∧
  (∀ s (p : Fin 80) el b now, now = advance el s → receives now p = true → halfDuplex now p = false →
    (port now p).receiving = none → field b 12 2 = 0x8808 → field b 14 2 = 1 → now.regs.waiting = [] →
    selectionOf now p none = none → tailRow b (mru now p) false = none → flowMode now p = 1 →
    macRd now Reg.hpFlow Reg.cpFlow p 5 5 = 1 →
    DoesFrom now (.macControlFrameRx p el b) s [.ports, .counters] fun t =>
      port t p = { port now p with
        paused := if field b 16 2 = 0 then none else some (now.time.dt + lineTicks now p (64 * field b 16 2)) } ∧
        ∀ q, q ≠ p → port t q = port now q) ∧
  (∀ s (p : Fin 80), inTime s (port s p).paused = false → Does (.pauseExpiry p none) s [.ports] fun t =>
    port t p = { port s p with paused := none } ∧ ∀ q, q ≠ p → port t q = port s q) ∧
  (∀ s (p : Fin 80) (c : Fin 8), inTime s ((port s p).pfc.getD c none) = false →
    Does (.pauseExpiry p (some c)) s [.ports] fun t =>
      port t p = { port s p with pfc := (port s p).pfc.set c none } ∧ ∀ q, q ≠ p → port t q = port s q) ∧
  (∀ s (p : Fin 80), linkUp s p = true → macRd s Reg.hpFlow Reg.cpFlow p 4 4 ≠ 0 → flowMode s p = 1 →
    (port s p).xoffSent = true → (port s p).xoffAt + refreshTicks s p ≤ s.time.dt → LineFree s p →
    Does (.pauseRefresh p) s [.ports] fun t =>
      Begins t s p ⟨.control 29, 0, pauseFrame s p (quanta s p)⟩ ∧ ∀ q, q ≠ p → port t q = port s q) ∧
  (∀ s (p : Fin 96) el now g u v cls q c l x, p.val < 80 → now = advance el s → stopped now = false →
    g = gateCatchUp gateFuel now p → find g.sched.sending p = none → (port g p).ownNow = none → awaitsBuffer g p = false →
    u = applyPending g p → linkUp u p = true → (∀ q, headDrop u p q = none) → (port u p).wakeAt ≤ u.time.dt →
    (port u p).carrier = false → nextOwn u p = none → decideQueue (settleCredit u p) p = some (cls, q, v) →
    (queue (settleCredit u p) q).copies = c :: l → frame (settleCredit u p) c.frame = some x → hierRole v = 0 →
    ∃ t y, exec (.dequeueDecision p el) s = .next t ∧ find t.sched.sending p = some y ∧ y.frame = c.frame ∧ y.queue = q ∧
      y.cls = cls ∧ y.startedAt = v.time.dt)

/-- Allocation slots (R183, R185, R187, R189, R205, Table 7-2): the slot's number advances; a frame of an internal source that
asks for one cell is granted the next pointer, is charged for it, and hands the cell to its one egress; a refill fills the
pointer cache and returns its tag. -/
def Obligations.SlotsGrantCells : Prop :=
  (∀ s, SlotOf s [] → Does .allocationSlot s [.bpm] fun t => t.bpm = { s.bpm with slot := (s.bpm.slot + 1) % 480 }) ∧
  (∀ s r f x tag, 80 ≤ r → r < 96 → stopped s = false → s.bpm.cellReqs = [(r, [f])] → s.bpm.dramReqs = [] → s.bpm.ops = [] →
    s.bpm.pools.length = 6 → frame s f = some x → x.inPort = r → x.head = none → x.tailWaits = false → x.whole = false →
    x.prot = false → x.fan = 1 → heldTags s f = [tag] → x.bytes.length ≤ 256 → unusedReserve s 0 < poolFree s 0 →
    charged s (r * 9) < rd s Reg.bpmAccMax [r] 18 0 → (pool s 0).fresh < 262144 →
    Does .allocationSlot s [.bpm, .frames, .counters] fun t =>
      frame t f = some { x with head := some (pool s 0).fresh, cells := 1 } ∧ t.bpm.cellReqs = [] ∧
        charged t (r * 9) = charged s (r * 9) + 1 ∧ (pool t 0).fresh = (pool s 0).fresh + 1 ∧
        findBuf t 0 (pool s 0).fresh = some { cellBuf x (pool s 0).fresh false with owner := tag } ∧
        ctr t Ctr.bpm [] 0 = (ctr s Ctr.bpm [] 0 + 1) % 2 ^ 48) ∧
  (∀ s (n : Fin 6), n.val ≠ 0 → s.bpm.pools.length = 6 → (pool s n).refilling = true → s.bpm.tagWaiters = [] →
    Does (.pointerCacheRefill n) s [.bpm] fun t =>
      (pool t n).refilling = false ∧ (pool t n).cache = min (poolFree s n) (1 + Config.cacheDepth n) ∧
        t.bpm.tagsInUse = s.bpm.tagsInUse - 1 ∧ ∀ k, k ≠ n.val → pool t k = pool s k) ∧
  (∀ s, 0 < s.bpm.tagsInUse → s.bpm.tagWaiters = [] →
    Does .operationTagReturned s [.bpm] fun t => t.bpm = { s.bpm with tagsInUse := s.bpm.tagsInUse - 1 }) ∧
  (∀ s n l, 0 < s.bpm.tagsInUse → s.bpm.tagWaiters = n :: l →
    Does .operationTagReturned s [.bpm] fun t => t.bpm = { s.bpm with tagWaiters := l })

/-- References (R190 to R193, R209, Table 7-3): an operation waits for the end of the slot in which it is given. There SHARE
makes a buffer shared with its count and last owner; DROP_REF takes its holder off, and is rejected for any other agent and
where it would take the count to zero; FREE by the owner returns a DRAM buffer, and on a shared buffer waits; in one slot a
DROP_REF takes effect before a FREE given earlier, which is then executed at once; an operation that a check rejects counts, is
logged, and leaves the pools as they are. -/
def Obligations.BuffersAreCounted : Prop :=
  (∀ s tag ptr n last, Does (.share tag ptr n last) s [.bpm] fun t =>
    t.bpm = { s.bpm with ops := s.bpm.ops ++ [.share tag ptr n last] }) ∧
  (∀ s tag (n : Fin 6) ptr, Does (.dropRef tag n ptr) s [.bpm] fun t =>
    t.bpm = { s.bpm with ops := s.bpm.ops ++ [.dropRef tag n ptr] }) ∧
  (∀ s tag (n : Fin 6) ptr, Does (.free tag n ptr) s [.bpm] fun t =>
    t.bpm = { s.bpm with ops := s.bpm.ops ++ [.free tag n ptr] }) ∧
  (∀ s tag ptr n last i b, SlotOf s [.share tag ptr n last] → poolOf ptr = 0 → locate 0 ptr = .inr i →
    s.bpm.pools.length = 6 → findBuf s 0 i = some b → b.shared = false → b.owner = tag → 2 ≤ n → n ≤ 128 →
    Does .allocationSlot s [.bpm] fun t =>
      findBuf t 0 i = some { b with shared := true, count := n, last := last, holders := [] } ∧
        ∀ k, k ≠ i → findBuf t 0 k = findBuf s 0 k) ∧
  (∀ s tag ptr n last i b, SlotOf s [.share tag ptr n last] → poolOf ptr = 0 → locate 0 ptr = .inr i → findBuf s 0 i = some b →
    b.shared = false → b.owner = tag → n < 2 ∨ 128 < n →
    Does .allocationSlot s [.bpm, .counters, .inForce] fun t =>
      t.bpm.pools = s.bpm.pools ∧ word t Reg.bpmErrCnt [] = word s Reg.bpmErrCnt [] + 1 ∧
        ctr t Ctr.bpm [] 13 = (ctr s Ctr.bpm [] 13 + 1) % 2 ^ 40 ∧ RegsBut [Reg.bpmErrCnt.addr []] s t) ∧
  (∀ s tag (n : Fin 6) ptr i b, SlotOf s [.dropRef tag n ptr] → locate n ptr = .inr i → s.bpm.pools.length = 6 →
    findBuf s n i = some b → b.holders.contains tag = true → 2 ≤ b.count → 2 < b.count ∨ b.deferred = false →
    Does .allocationSlot s [.bpm] fun t =>
      findBuf t n i = some { b with holders := b.holders.erase tag, count := b.count - 1 } ∧
        ∀ k, k ≠ i → findBuf t n k = findBuf s n k) ∧
  (∀ s tag (n : Fin 6) ptr i b, SlotOf s [.dropRef tag n ptr] → locate n ptr = .inr i → s.bpm.pools.length = 6 →
    findBuf s n i = some b → b.holders.contains tag = true → b.count = 2 → b.deferred = true →
    Does .allocationSlot s [.bpm, .counters, .ports, .inForce] fun t =>
      findBuf t n i = (if b.closed then none
        else some { b with holders := b.holders.erase tag, count := 1, returning := true }) ∧
        (∀ k, k ≠ i → findBuf t n k = findBuf s n k) ∧ ctr t Ctr.bpm [] 6 = (ctr s Ctr.bpm [] 6 + 1) % 2 ^ 40) ∧
  (∀ s tag (n : Fin 6) ptr i b, SlotOf s [.dropRef tag n ptr] → locate n ptr = .inr i → findBuf s n i = some b →
    b.holders.contains tag = true → b.count ≤ 1 →
    Does .allocationSlot s [.bpm, .counters, .inForce] fun t =>
      t.bpm.pools = s.bpm.pools ∧ ctr t Ctr.bpm [] 12 = (ctr s Ctr.bpm [] 12 + 1) % 2 ^ 40) ∧
  (∀ s tag (n : Fin 6) ptr i b, SlotOf s [.dropRef tag n ptr] → locate n ptr = .inr i → findBuf s n i = some b →
    b.holders.contains tag = false →
    Does .allocationSlot s [.bpm, .counters, .inForce] fun t =>
      t.bpm.pools = s.bpm.pools ∧ ctr t Ctr.bpm [] 11 = (ctr s Ctr.bpm [] 11 + 1) % 2 ^ 40) ∧
  (∀ s tag (n : Fin 6) ptr i b, SlotOf s [.free tag n ptr] → n.val ≠ 0 → locate n ptr = .inr i → s.bpm.pools.length = 6 →
    findBuf s n i = some b → b.shared = false → b.owner = tag → b.closed = true →
    Does .allocationSlot s [.bpm] fun t =>
      findBuf t n i = none ∧ (pool t n).returned = (pool s n).returned ++ b.cells ∧
        (pool t n).reserveUsed = (pool s n).reserveUsed - b.fromReserve) ∧
  (∀ s tag (n : Fin 6) ptr i b, SlotOf s [.free tag n ptr] → locate n ptr = .inr i → s.bpm.pools.length = 6 →
    findBuf s n i = some b → b.shared = true → b.last = tag → b.deferred = false → b.count ≠ 1 →
    Does .allocationSlot s [.bpm] fun t => findBuf t n i = some { b with deferred := true }) ∧
  (∀ s tag (n : Fin 6) ptr h i b, SlotOf s [.free tag n ptr, .dropRef h n ptr] → locate n ptr = .inr i →
    s.bpm.pools.length = 6 → findBuf s n i = some b → b.shared = true → b.last = tag → b.deferred = false → b.count = 2 →
    b.closed = true → b.holders.contains h = true →
    Does .allocationSlot s [.bpm, .counters, .ports, .inForce] fun t =>
      findBuf t n i = none ∧ ctr t Ctr.bpm [] 6 = ctr s Ctr.bpm [] 6) ∧
  (∀ s tag (n : Fin 6) ptr k, SlotOf s [.free tag n ptr] → locate n ptr = .inl k →
    Does .allocationSlot s [.bpm, .counters, .inForce] fun t =>
      t.bpm.pools = s.bpm.pools ∧ ctr t Ctr.bpm [] (7 + k) = (ctr s Ctr.bpm [] (7 + k) + 1) % 2 ^ 40 ∧
        word t Reg.bpmErrCnt [] = word s Reg.bpmErrCnt [] + 1)

/-- Where a frame goes (R122, R123, R118): broadcast floods the VLAN's front-port members under the broadcast policer; an
address that the FDB holds on a local port goes to that port alone; a set's copies never return to their ingress port, and
leave only by forwarding ports of the VLAN. -/
def Obligations.DestinationsResolve : Prop :=
  (∀ s v fid b h, h.bcast = true → snooped v b h = none →
    (resolve s v fid b h).ports = ((List.range 96).filter fun p => flag v p && decide (p < 80)) ∧
      (resolve s v fid b h).storm = some 2 ∧ (resolve s v fid b h).act = 0) ∧
  (∀ s v fid b h e, h.bcast = false → snooped v b h = none → lookupDa s fid h = some e → fld e 113 112 = 0 → fld e 88 82 ≤ 95 →
    (resolve s v fid b h).ports = [fld e 88 82] ∧ (resolve s v fid b h).storm = none ∧
      (resolve s v fid b h).act = fld e 124 123) ∧
  (∀ s p v ports e, e ∈ pruned s p v ports →
    ∃ d ∈ ports, bridgePort s d = e ∧ flag v d = true ∧ portCfg s d 25 24 = 3 ∧ bridgePort s d ≠ bridgePort s p) ∧
  (∀ s p v ports, (pruned s p v ports).Nodup ∧
    (pairOf s p = none → (∀ d ∈ ports, pairOf s d = none) → p ∉ pruned s p v ports))

/-- Learning (R129 to R136): a new key takes the slot that R132 gives it, with its port and the current tick; a key on its own
port is refreshed; a key on another port moves, a static or secure one stays and counts, and one whose new port is at its
limit is deleted; each write of a relocation chain copies one entry and counts. -/
def Obligations.StationsAreLearned : Prop :=
  (∀ s q l i rot walk, Alone s → s.fdb.learnQueue = q :: l → writerFree s = true → s.fdb.replayQueue = [] →
    fdbFind s (fdbKey q.fid q.mac.toNat) = [] → atLimit s q.port = false → i < fdbSize →
    place 4 fdbSize 64 (fdbFirst s) (fdbKeyAt s) (fun i => segLocked s (fdbSeg s i))
      (segLocked s (homeSeg s (fdbKey q.fid q.mac.toNat))) s.fdb.rot s.fdb.walk (fdbKey q.fid q.mac.toNat) = (.slot i, rot, walk) →
    Does .learn s [.fdb, .counters] fun t =>
      fdbEntry t i = setFld (freshEntry s (fdbKey q.fid q.mac.toNat) q.port &&& fdbMask) 65 60 0 ∧
        (∀ j, j ≠ i → fdbEntry t j = fdbEntry s j) ∧ t.fdb.learnQueue = l ∧
        ctr t Ctr.fdb [] 0 = (ctr s Ctr.fdb [] 0 + 1) % 2 ^ 40) ∧
  (∀ s q l i, s.fdb.learnQueue = q :: l → writerFree s = true → s.fdb.replayQueue = [] →
    fdbFind s (fdbKey q.fid q.mac.toNat) = [i] → fld (fdbEntry s i) 88 82 = q.port →
    Does .learn s [.fdb] fun t =>
      fdbEntry t i = setFld (fdbEntry s i) 111 96 s.fdb.tick ∧ (∀ j, j ≠ i → fdbEntry t j = fdbEntry s j) ∧
        t.fdb.learnQueue = l) ∧
  (∀ s q l i, Alone s → s.fdb.learnQueue = q :: l → writerFree s = true → s.fdb.replayQueue = [] → i < fdbSize →
    fdbFind s (fdbKey q.fid q.mac.toNat) = [i] → fld (fdbEntry s i) 88 82 ≠ q.port → flag (fdbEntry s i) 126 = false →
    flag (fdbEntry s i) 125 = false → segLocked s (fdbSeg s i) = false → atLimit s q.port = false →
    Does .learn s [.fdb, .counters] fun t =>
      fdbEntry t i = setFld (setFld (setFld (fdbEntry s i) 88 82 q.port) 111 96 s.fdb.tick &&& fdbMask) 65 60 0 ∧
        (∀ j, j ≠ i → fdbEntry t j = fdbEntry s j) ∧ t.fdb.movesThisTick = s.fdb.movesThisTick + 1 ∧
        ctr t Ctr.fdb [] 4 = (ctr s Ctr.fdb [] 4 + 1) % 2 ^ 40) ∧
  (∀ s q l i, s.fdb.learnQueue = q :: l → writerFree s = true → s.fdb.replayQueue = [] →
    fdbFind s (fdbKey q.fid q.mac.toNat) = [i] → fld (fdbEntry s i) 88 82 ≠ q.port →
    flag (fdbEntry s i) 126 = true ∨ flag (fdbEntry s i) 125 = true →
    Does .learn s [.fdb, .counters] fun t => t.fdb = { s.fdb with learnQueue := l } ∧
      ctr t Ctr.fdb [] 5 = (ctr s Ctr.fdb [] 5 + 1) % 2 ^ 40) ∧
  (∀ s q l i, Alone s → s.fdb.learnQueue = q :: l → writerFree s = true → s.fdb.replayQueue = [] → i < fdbSize →
    fdbFind s (fdbKey q.fid q.mac.toNat) = [i] → fld (fdbEntry s i) 88 82 ≠ q.port → flag (fdbEntry s i) 126 = false →
    flag (fdbEntry s i) 125 = false → segLocked s (fdbSeg s i) = false → atLimit s q.port = true →
    Does .learn s [.fdb, .counters] fun t =>
      fdbEntry t i = 0 ∧ (∀ j, j ≠ i → fdbEntry t j = fdbEntry s j) ∧ t.fdb.learnQueue = l) ∧
  (∀ s src dst l, Alone s → s.fdb.chain = (src, dst) :: l → dst < fdbSize →
    Does .relocationMove s [.fdb, .counters] fun t =>
      fdbEntry t dst = setFld (fdbEntry s src &&& fdbMask) 65 60 0 ∧ (∀ j, j ≠ dst → fdbEntry t j = fdbEntry s j) ∧
        t.fdb.chain = l ∧ ctr t Ctr.fdb [] 8 = (ctr s Ctr.fdb [] 8 + 1) % 2 ^ 40) ∧
  (∀ s j x rot walk moved, j < 64 → writerFree s = true → s.fdb.replayQueue = [] → s.fdb.learnQueue = [] →
    (((List.range 64).filter fun j => (fdbKeyAt s (fdbSize + j)).isSome).find? fun j => decide (s.fdb.stashNext ≤ j)) = some j →
    segLocked s (fdbSeg s (fdbSize + j)) = false →
    placeMain 4 (fdbFirst s) (fdbKeyAt s) (fun x => segLocked s (fdbSeg s x)) s.fdb.rot s.fdb.walk
      (entryKey (fdbEntry s (fdbSize + j))) = (some (.slot x), rot, walk, moved) →
    Does .stashDrain s [.fdb] fun t =>
      t.fdb = { s.fdb with stashNext := j + 1, rot := rot, walk := walk, chain := [],
                           chainKey := some (x, fdbEntry s (fdbSize + j), 2 + j) }) ∧
  (∀ s q i, writerFree s = true → s.fdb.replayQueue = [q] → fdbFind s (fdbKey q.fid q.mac.toNat) = [i] →
    fld (fdbEntry s i) 88 82 = q.port →
    Does .deferralReplay s [.fdb] fun t =>
      t.fdb.replayQueue = [] ∧ fdbEntry t i = setFld (fdbEntry s i) 111 96 s.fdb.tick ∧
        ∀ j, j ≠ i → fdbEntry t j = fdbEntry s j)

/-- Aging and flushes (R135, R137, R143 to R145): a tick, at a multiple of its period, advances the age counter and closes the count of station moves; an
entry whose TS still is what the scanner read is deleted, and one touched since is saved; a flush deletes what it matched. -/
def Obligations.StationsAgeAndFlush : Prop :=
  (∀ s el now, now = advance el s → nextAge now ≤ now.time.dt → DoesFrom now (.agingTick el) s [.fdb] fun t =>
    t.fdb.tick = (now.fdb.tick + 1) % 65536 ∧ t.fdb.tickAt = nextAge now ∧ t.fdb.movesLastTick = now.fdb.movesThisTick ∧
      t.fdb.movesThisTick = 0 ∧ now.fdb.ageQueue <+: t.fdb.ageQueue ∧ t.fdb.mdb = now.fdb.mdb ∧ t.fdb.vlan = now.fdb.vlan ∧
      t.fdb.learnQueue = now.fdb.learnQueue) ∧
  (∀ s el now, now = advance el s → now.time.dt < nextAge now → DoesFrom now (.agingTick el) s [] fun _ => True) ∧
  (∀ s k ts l i, Alone s → s.fdb.ageQueue = (k, ts) :: l → deletesMay s = true → s.fdb.flushes = [] → fdbFind s k = [i] →
    segLocked s (fdbSeg s i) = false → flag (fdbEntry s i) 126 = false → fld (fdbEntry s i) 111 96 = ts →
    Does .ageDelete s [.fdb, .counters] fun t =>
      fdbEntry t i = 0 ∧ (∀ j, j ≠ i → fdbEntry t j = fdbEntry s j) ∧ t.fdb.ageQueue = l ∧
        ctr t Ctr.fdb [] 6 = (ctr s Ctr.fdb [] 6 + 1) % 2 ^ 40) ∧
  (∀ s k ts l i, s.fdb.ageQueue = (k, ts) :: l → deletesMay s = true → fdbFind s k = [i] →
    segLocked s (fdbSeg s i) = false → flag (fdbEntry s i) 126 = false → fld (fdbEntry s i) 111 96 ≠ ts →
    Does .ageDelete s [.fdb, .counters] fun t =>
      t.fdb = { s.fdb with ageQueue := l } ∧ ctr t Ctr.fdb [] 7 = (ctr s Ctr.fdb [] 7 + 1) % 2 ^ 40) ∧
  (∀ s req data f, Reaches s req (Reg.fdbFlush.addr []) → Alone s → flag data 31 = true → flushBusy s = false →
    f = (⟨flag data 29, flag data 28, flag data 27, fld data 26 20, fld data 19 8, true, []⟩ : Flush) →
    ((fdbValid s).filter fun x => flushMatches f x.2) ≠ [] →
    Does (.fdbFlush req data) s [.staged, .inForce, .fdb] fun t =>
      t.fdb = { s.fdb with flushes := s.fdb.flushes ++
        [{ f with todo := ((fdbValid s).filter fun x => flushMatches f x.2).map fun x => entryKey x.2 }] } ∧
        flushBusy t = true) ∧
  (∀ s i k f, Alone s → fdbKeyAt s i = some k → fdbFind s k = [i] → deletesMay s = true → f ∈ s.fdb.flushes → k ∈ f.todo →
    flushMatches f (fdbEntry s i) = true → segLocked s (fdbSeg s i) = false →
    Does (.flushDelete i) s [.fdb] fun t => fdbEntry t i = 0 ∧
      (s.fdb.flushes = [f] → f.todo = [k] → t.fdb.flushes = []) ∧ ∀ j, j ≠ i → fdbEntry t j = fdbEntry s j)

/-- Segment locks and seeds (R128, R138 to R140): a request waits until it is granted; a grant, once nothing in
progress touches the segment, stands for its requester; a lock that is released, or expires after 10 ms, releases what was deferred; a seed is written only while the table holds nothing. -/
def Obligations.SegmentsLock : Prop :=
  (∀ s req mc (w : Fin 2) data, Reaches s req ((lockReg mc).addr [w]) → isMc req = mc →
    word s (lockReg mc) [w] &&& ~~~data = 0 →
    Does (.fdbLockRequest req mc w data) s [.staged] fun t => stagedWord t (lockReg mc) [w] = data) ∧
  (∀ s req mc (w : Fin 2) data, Reaches s req ((lockReg mc).addr [w]) → isMc req = mc →
    word s (lockReg mc) [w] &&& ~~~data ≠ 0 →
    Does (.fdbLockRequest req mc w data) s [.staged, .inForce, .fdb] fun t =>
      word t (lockReg mc) [w] = word s (lockReg mc) [w] &&& data ∧ RegsBut [(lockReg mc).addr [w]] s t ∧
        t.fdb = { s.fdb with replayQueue := s.fdb.replayQueue ++ s.fdb.deferQueue, deferQueue := [] }) ∧
  (∀ s mc (g : Fin 64), flag (stagedWord s (lockReg mc) [g / 32]) (g % 32) = true → segLocked s g = false →
    segBusy s g = false →
    Does (.fdbLockGrant mc g) s [.inForce, .fdb] fun t =>
      segHeld t mc g = true ∧ segHeld t (!mc) g = false ∧ RegsBut [(lockReg mc).addr [g / 32]] s t ∧
        t.fdb = { s.fdb with lockAt := put s.fdb.lockAt (g + 64 * bnat mc) s.time.dt }) ∧
  (∀ s mc (g : Fin 64), segHeld s mc g = true → get 0 s.fdb.lockAt (g + 64 * bnat mc) + lockTicks ≤ s.time.dt →
    Does (.fdbLockExpire mc g) s [.staged, .inForce, .fdb, .host] fun t =>
      t.host = { s.host with tdma := s.host.tdma.map fun d => if mc then d else { d with lost := d.lost ++ [g.val] } } ∧
      segHeld t mc g = false ∧ flag (stagedWord t (lockReg mc) [g / 32]) (g % 32) = false ∧
        word t Reg.fdbLockExpireCnt [] = word s Reg.fdbLockExpireCnt [] + 1 ∧
        t.fdb = { s.fdb with replayQueue := s.fdb.replayQueue ++ s.fdb.deferQueue, deferQueue := [] } ∧
        RegsBut [(lockReg mc).addr [g / 32], Reg.fdbLockExpireCnt.addr []] s t) ∧
  (∀ s req (b : Fin 4) seed, Reaches s req (Reg.fdbHashSeed.addr [b]) → Alone s → fdbValid s = [] →
    Does (.fdbHashSeedWrite req b seed) s [.staged, .inForce] fun t =>
      word t Reg.fdbHashSeed [b] = seed ∧ RegsBut [Reg.fdbHashSeed.addr [b]] s t) ∧
  (∀ s req (b : Fin 4) seed, Reaches s req (Reg.fdbHashSeed.addr [b]) → fdbValid s ≠ [] →
    Does (.fdbHashSeedWrite req b seed) s [] fun _ => True)

/-- FDB_CMD, FDB_MDB_EDIT and the table epoch (R110, R116, R131, R139, R148, R557): a lookup shows the entry and its index; a write
lands at the slot that R132 gives the key; a delete clears it; an edit changes one bit of one group; and in an epoch each
table takes at most one entry. -/
def Obligations.TableCommandsAct : Prop :=
  (∀ s req i l, Reaches s req (Reg.fdbCmdCtrl.addr []) → Alone s → fdbFind s (cmdKey s) = i :: l →
    Does (.fdbCmdLookup req) s [.staged, .inForce] fun t =>
      rd t Reg.fdbCmdCtrl [] 2 0 = 0 ∧ rd t Reg.fdbCmdCtrl [] 25 8 = i % 2 ^ 18 ∧
        ∀ w < 4, word t Reg.fdbCmdData [w] = BitVec.ofNat 32 ((fdbEntry s i).toNat / 2 ^ (32 * w))) ∧
  (∀ s req, Reaches s req (Reg.fdbCmdCtrl.addr []) → Alone s → fdbFind s (cmdKey s) = [] →
    Does (.fdbCmdLookup req) s [.staged, .inForce] fun t =>
      rd t Reg.fdbCmdCtrl [] 2 0 = 1 ∧ RegsBut [Reg.fdbCmdCtrl.addr []] s t) ∧
  (∀ s req i rot walk, Reaches s req (Reg.fdbCmdCtrl.addr []) → Alone s → s.fdb.tableWrites = [] → noChain s = true →
    fdbFind s (cmdKey s) = [] → flag (cmdEntry s) 127 = true → fld (cmdEntry s) 113 112 = 0 → fld (cmdEntry s) 88 82 ≤ 95 →
    i < fdbSize →
    place 4 fdbSize 64 (fdbFirst s) (fdbKeyAt s) (fun i => segBarred s req (fdbSeg s i)) (segBarred s req (homeSeg s (cmdKey s)))
      s.fdb.rot s.fdb.walk (cmdKey s) = (.slot i, rot, walk) →
    Does (.fdbCmdWrite req) s [.staged, .inForce, .fdb] fun t =>
      fdbEntry t i = setFld (cmdEntry s &&& fdbMask) 65 60 0 ∧ (∀ j, j ≠ i → fdbEntry t j = fdbEntry s j) ∧
        rd t Reg.fdbCmdCtrl [] 2 0 = 0 ∧ rd t Reg.fdbCmdCtrl [] 25 8 = i) ∧
  (∀ s req i, Reaches s req (Reg.fdbCmdCtrl.addr []) → Alone s → s.fdb.tableWrites = [] → noChain s = true →
    fdbFind s (cmdKey s) = [i] → segBarred s req (fdbSeg s i) = false →
    Does (.fdbCmdDelete req) s [.staged, .inForce, .fdb] fun t =>
      fdbEntry t i = 0 ∧ (∀ j, j ≠ i → fdbEntry t j = fdbEntry s j) ∧ rd t Reg.fdbCmdCtrl [] 2 0 = 0) ∧
  (∀ s (p : Fin 96) (g : Fin 16384), Reaches s (.mc 1) (Reg.fdbMdbEdit.addr []) → Alone s → s.fdb.tableWrites = [] →
    Does (.mdbEditSetPort p g) s [.staged, .inForce, .fdb] fun t =>
      mdbGroup t g = setFld (mdbGroup s g) p p 1 &&& mdbMask ∧ ∀ k, k ≠ g.val → mdbGroup t k = mdbGroup s k) ∧
  (∀ s (p : Fin 96) (g : Fin 16384), Reaches s (.mc 1) (Reg.fdbMdbEdit.addr []) → Alone s → s.fdb.tableWrites = [] →
    Does (.mdbEditClearPort p g) s [.staged, .inForce, .fdb] fun t =>
      mdbGroup t g = setFld (mdbGroup s g) p p 0 &&& mdbMask ∧ ∀ k, k ≠ g.val → mdbGroup t k = mdbGroup s k) ∧
  (∀ s (g : Fin 16384), Reaches s (.mc 1) (Reg.fdbMdbEdit.addr []) → Alone s → s.fdb.tableWrites = [] →
    Does (.mdbEditClearReportSeen g) s [.staged, .inForce, .fdb] fun t =>
      mdbGroup t g = setFld (mdbGroup s g) 191 96 0 &&& mdbMask ∧ ∀ k, k ≠ g.val → mdbGroup t k = mdbGroup s k) ∧
  (∀ s i j g ws vs us r, Alone s → noChain s = true → s.fdb.flushes = [] → i < fdbSize → j < fdbSize → g < 16384 →
    segBarred s r (fdbSeg s i) = false →
    s.fdb.tableWrites = [⟨0x2000000 + 16 * i, ws, r⟩, ⟨0x2000000 + 16 * j, vs, r⟩, ⟨0x2300000 + 32 * g, us, r⟩] →
    Does .tableEpoch s [.fdb] fun t =>
      fdbEntry t i = setFld (BitVec.ofNat 128 (joinWords ws) &&& fdbMask) 65 60 0 ∧
        mdbGroup t g = BitVec.ofNat 256 (joinWords us) &&& mdbMask ∧ (∀ k, k ≠ i → fdbEntry t k = fdbEntry s k) ∧
        t.fdb.tableWrites = [⟨0x2000000 + 16 * j, vs, r⟩])

/-- STRM_CMD (R158 to R160): a lookup shows the entry and its index, or RESULT 1; an insert lands at the slot that R132 gives a
new key, and at every location of a key that is held; a delete clears it. -/
def Obligations.StreamTableCommandsAct : Prop :=
  (∀ s req i l, Reaches s req (Reg.strmCmdCtrl.addr []) → Alone s → sidFind s (sidKey (sidData s)) = i :: l →
    Does (.strmCmdLookup req) s [.staged, .inForce] fun t =>
      rd t Reg.strmCmdCtrl [] 2 0 = 0 ∧ rd t Reg.strmCmdCtrl [] 24 8 = i % 2 ^ 17 ∧
        (∀ w < 16, word t Reg.strmCmdData [w] = BitVec.ofNat 32 ((sidEntry s i).toNat / 2 ^ (32 * w))) ∧
        RegsBut (Reg.strmCmdCtrl.addr [] :: (List.range 16).map fun w => Reg.strmCmdData.addr [w]) s t) ∧
  (∀ s req, Reaches s req (Reg.strmCmdCtrl.addr []) → Alone s → sidFind s (sidKey (sidData s)) = [] →
    Does (.strmCmdLookup req) s [.staged, .inForce] fun t =>
      rd t Reg.strmCmdCtrl [] 2 0 = 1 ∧ RegsBut [Reg.strmCmdCtrl.addr []] s t) ∧
  (∀ s req i rot walk, Reaches s req (Reg.strmCmdCtrl.addr []) → Alone s → flag (sidData s) 511 = true →
    sidFind s (sidKey (sidData s)) = [] →
    place 2 sidSize 32 (sidFirst s) (sidKeyAt s) (fun _ => false) false s.strm.rot s.strm.walk (sidKey (sidData s)) =
      (.slot i, rot, walk) →
    Does (.strmCmdInsert req) s [.staged, .inForce, .strm] fun t =>
      sidEntry t i = sidData s &&& sidMask ∧ (∀ j, j ≠ i → sidEntry t j = sidEntry s j) ∧ rd t Reg.strmCmdCtrl [] 2 0 = 0 ∧
        rd t Reg.strmCmdCtrl [] 24 8 = i % 2 ^ 17 ∧ t.strm = { s.strm with sid := t.strm.sid, rot := rot, walk := walk } ∧
        RegsBut [Reg.strmCmdCtrl.addr []] s t) ∧
  (∀ s req i, Reaches s req (Reg.strmCmdCtrl.addr []) → Alone s → flag (sidData s) 511 = true →
    sidFind s (sidKey (sidData s)) = [i] →
    Does (.strmCmdInsert req) s [.staged, .inForce, .strm] fun t =>
      sidEntry t i = sidData s &&& sidMask ∧ (∀ j, j ≠ i → sidEntry t j = sidEntry s j) ∧ rd t Reg.strmCmdCtrl [] 2 0 = 0 ∧
        t.strm = { s.strm with sid := t.strm.sid }) ∧
  (∀ s req, Reaches s req (Reg.strmCmdCtrl.addr []) → Alone s → flag (sidData s) 511 = false →
    Does (.strmCmdInsert req) s [.staged, .inForce] fun t => rd t Reg.strmCmdCtrl [] 2 0 = 4) ∧
  (∀ s req i, Reaches s req (Reg.strmCmdCtrl.addr []) → Alone s → sidFind s (sidKey (sidData s)) = [i] →
    Does (.strmCmdDelete req) s [.staged, .inForce, .strm] fun t =>
      sidEntry t i = 0 ∧ (∀ j, j ≠ i → sidEntry t j = sidEntry s j) ∧ rd t Reg.strmCmdCtrl [] 2 0 = 0 ∧
        rd t Reg.strmCmdCtrl [] 24 8 = i % 2 ^ 17 ∧ t.strm = { s.strm with sid := t.strm.sid }) ∧
  (∀ s req, Reaches s req (Reg.strmCmdCtrl.addr []) → Alone s → sidFind s (sidKey (sidData s)) = [] →
    Does (.strmCmdDelete req) s [.staged, .inForce] fun t => rd t Reg.strmCmdCtrl [] 2 0 = 1)

/-- Stream contexts (R155, R161, R162, R165, R167, R170, R171): a write that nothing refuses is in force at once and resets
recovery where its parameters changed; one that Table 6-5 refuses leaves the context as it was; each operation of STRM_CTX_CMD
changes its own part of the state half; the recovery timer and the latent-error period, once they end, do what R167 and R170
say; a source silent for FORGET is forgotten (R172). -/
def Obligations.StreamContextsChange : Prop :=
  (∀ s req (h : BitVec 16) cfg c, Reaches s req (0x3000020 + h.toNat * 64) → Alone s →
    c = (if fld (cfg &&& contextMask) 207 194 = 0 then cfg &&& contextMask
      else setFld (cfg &&& contextMask) 207 194 (held 64 10240 (fld (cfg &&& contextMask) 207 194))) →
    contextRefusal s h.toNat c = 0 →
    Does (.streamContextWrite req h cfg) s [.strm, .sched] fun t =>
      streamCfg t h.toNat = c ∧ (∀ k, k ≠ h.toNat → streamCfg t k = streamCfg s k ∧ streamState t k = streamState s k) ∧
        (streamState t h.toNat).genSeq = (streamState s h.toNat).genSeq ∧
        (streamState t h.toNat).blocked = (streamState s h.toNat).blocked ∧
        (flag (streamCfg s h.toNat) 148 ≠ flag c 148 →
          (streamState t h.toNat).takeAny = true ∧ (streamState t h.toNat).history = 0 ∧
            (streamState t h.toNat).timerEnd = none) ∧
        t.strm = { s.strm with config := t.strm.config, state := t.strm.state }) ∧
  (∀ s req (h : BitVec 16) cfg c, Reaches s req (0x3000020 + h.toNat * 64) → Alone s →
    c = (if fld (cfg &&& contextMask) 207 194 = 0 then cfg &&& contextMask
      else setFld (cfg &&& contextMask) 207 194 (held 64 10240 (fld (cfg &&& contextMask) 207 194))) →
    contextRefusal s h.toNat c ≠ 0 →
    Does (.streamContextWrite req h cfg) s [.inForce] fun t =>
      word t Reg.strmRefuseCnt [] = word s Reg.strmRefuseCnt [] + 1 ∧
        word t Reg.strmRefuseLast [] = BitVec.ofNat 32 (contextRefusal s h.toNat c * 65536 + h.toNat) ∧
        RegsBut [Reg.strmRefuseCnt.addr [], Reg.strmRefuseLast.addr []] s t) ∧
  (∀ s (h : BitVec 16), Reaches s .host (Reg.strmCtxCmd.addr []) → Alone s →
    Does (.ctxResetRecovery h) s [.staged, .inForce, .strm] fun t =>
      streamState t h.toNat = (streamState s h.toNat).resetRecovery ∧
        (∀ k, k ≠ h.toNat → streamState t k = streamState s k) ∧ t.strm = { s.strm with state := t.strm.state } ∧
        RegsBut [Reg.strmCtxCmd.addr []] s t) ∧
  (∀ s (h : BitVec 16), Reaches s .host (Reg.strmCtxCmd.addr []) → Alone s →
    Does (.ctxUnblock h) s [.staged, .inForce, .strm] fun t =>
      streamState t h.toNat = { streamState s h.toNat with blocked := false } ∧
        (∀ k, k ≠ h.toNat → streamState t k = streamState s k) ∧ t.strm = { s.strm with state := t.strm.state } ∧
        RegsBut [Reg.strmCtxCmd.addr []] s t) ∧
  (∀ s (h : BitVec 16), Reaches s .host (Reg.strmCtxCmd.addr []) → Alone s →
    Does (.ctxGenSeqZero h) s [.staged, .inForce, .strm] fun t =>
      streamState t h.toNat = { streamState s h.toNat with genSeq := 0 } ∧
        (∀ k, k ≠ h.toNat → streamState t k = streamState s k) ∧ t.strm = { s.strm with state := t.strm.state } ∧
        RegsBut [Reg.strmCtxCmd.addr []] s t) ∧
  (∀ s (h : BitVec 16), Reaches s .host (Reg.strmCtxCmd.addr []) → Alone s →
    Does (.ctxBalancesFull h) s [.staged, .inForce, .strm] fun t =>
      (∀ k < 4, meterBalance t (streamCfg t h.toNat) (streamState t h.toNat) k = meterCap (streamCfg s h.toNat)) ∧
        (∀ k, k ≠ h.toNat → streamState t k = streamState s k) ∧ t.strm = { s.strm with state := t.strm.state } ∧
        RegsBut [Reg.strmCtxCmd.addr []] s t) ∧
  (∀ s (h : BitVec 16), (streamState s h.toNat).timerEnd.any (fun e => decide (e ≤ s.time.dt)) = true →
    Does (.recoveryTimerExpiry h) s [.strm, .counters] fun t =>
      streamState t h.toNat = (streamState s h.toNat).resetRecovery ∧
        (∀ k, k ≠ h.toNat → streamState t k = streamState s k) ∧
        ctr t Ctr.stream [h.toNat] 11 = (ctr s Ctr.stream [h.toNat] 11 + 1) % 2 ^ 40 ∧
        CountersBut [Ctr.stream.addr [h.toNat] 11] s t) ∧
  (∀ s el now, now = advance el s → latentEnd now ≤ now.time.dt →
    DoesFrom now (.latentTest el) s [.strm, .counters, .inForce] fun t => t.strm.latentAt = latentEnd now ∧
      ∀ h, streamState t h = { streamState now h with passed := 0, discarded := 0 }) ∧
  (∀ s el now, now = advance el s → now.time.dt < latentEnd now → DoesFrom now (.latentTest el) s [] fun _ => True) ∧
  (∀ s el h x now, now = advance el s → latentEnd now ≤ now.time.dt → now.strm.state = [(h, x)] → flag (streamCfg now h) 120 = true →
    rd now Reg.strmLatent [] 15 0 < ((x.passed * fld (streamCfg now h) 119 118 : Nat) - (x.discarded : Int)).natAbs →
    DoesFrom now (.latentTest el) s [.strm, .counters, .inForce] fun t =>
      ctr t Ctr.stream [h] 12 = (ctr now Ctr.stream [h] 12 + 1) % 2 ^ 40 ∧
        word t Reg.strmLatentCnt [] = word now Reg.strmLatentCnt [] + 1 ∧ word t Reg.strmLatentLast [] = BitVec.ofNat 32 h) ∧
  (∀ s (p : Fin 12) mac x, nodeOf s p mac = some x → x.lastAt + rd s Reg.strmNode [] 15 0 * 800000 ≤ s.time.dt →
    Does (.nodeForget p mac) s [.strm] fun t =>
    nodeOf t p mac = none ∧ (∀ q m, (q, m) ≠ (p.val, mac) → nodeOf t q m = nodeOf s q m) ∧
      t.strm = { s.strm with nodes := t.strm.nodes })

/-- The sequence-recovery algorithms and the generator (R165, R167, R169), and a pair's supervision frame (R173). -/
def Obligations.RecoveryPassesOnce : Prop :=
  (∀ s h cfg n, (streamState s h).takeAny = true →
    (recover s h cfg n).2 = true ∧ (streamState (recover s h cfg n).1 h).recSeq = n ∧
      (streamState (recover s h cfg n).1 h).takeAny = false) ∧
  (∀ s h cfg n, flag cfg 147 = true → (streamState s h).takeAny = false →
    (recover s h cfg n).2 = (n != (streamState s h).recSeq)) ∧
  (∀ s h cfg n, flag cfg 147 = false → fld cfg 146 140 ≠ 0 → (recover s h cfg n).2 = true →
    (recover (recover s h cfg n).1 h cfg n).2 = false) ∧
  (∀ s h cfg n, flag cfg 147 = false → (streamState s h).takeAny = false →
    (min 64 (fld cfg 146 140) : Nat) ≤ (n - (streamState s h).recSeq).toInt.natAbs →
    (recover s h cfg n).2 = false ∧ streamState (recover s h cfg n).1 h = streamState s h) ∧
  (∀ s h cfg, flag cfg 121 = false →
    (generate s h cfg none).2 = some (streamState s h).genSeq ∧
      (streamState (generate s h cfg none).1 h).genSeq = (streamState s h).genSeq + 1) ∧
  (∀ s h cfg, flag cfg 121 = true → (generate s h cfg none).2 = none ∧
    ctr (generate s h cfg none).1 Ctr.stream [h] 13 = (ctr s Ctr.stream [h] 13 + 1) % 2 ^ 40) ∧
  (∀ s (q : Fin 12) b, forwards s = true → pairOn s q = true → coreDown s 1 = false →
    exec (.supervisionFrameTx q b) s = done (inject s 95 b (some (steerTo ((pairPorts s q).headD 0, 7)))).1)

/-- Queue descriptors, queue commands and VOQ routes (R212, R213, R220, R221, R231, R235, R236, R238): a descriptor that
Table 8-3 does not refuse waits and is put in force later; each operation of SCHED_Q_CMD changes its own values; a route waits;
an XOFF lapses once HOLD_TIMEOUT has passed since it was last refreshed. -/
def Obligations.QueuesAreConfigured : Prop :=
  (∀ s req (q : BitVec 18) cfg, Reaches s req (0x1000020 + q.toNat * 64) → Alone s → descriptorRefusal s q.toNat cfg = 0 →
    Does (.queueDescriptorWrite req q cfg) s [.sched] fun t =>
      t.sched = { s.sched with configWait := put s.sched.configWait q.toNat (cfg &&& queueMask) }) ∧
  (∀ s req (q : BitVec 18) cfg, Reaches s req (0x1000020 + q.toNat * 64) → Alone s → descriptorRefusal s q.toNat cfg ≠ 0 →
    Does (.queueDescriptorWrite req q cfg) s [.inForce] fun t =>
      word t Reg.schedRefuseCnt [] = word s Reg.schedRefuseCnt [] + 1 ∧
        word t Reg.schedRefuseLast [] = BitVec.ofNat 32 (descriptorRefusal s q.toNat cfg * 2 ^ 20 + q.toNat) ∧
        RegsBut [Reg.schedRefuseCnt.addr [], Reg.schedRefuseLast.addr []] s t) ∧
  (∀ s (q : BitVec 18) cfg k, k < 64 → find s.sched.configWait q.toNat = some cfg →
    Does (.applyDeadline (0x1000000 + q.toNat * 64 + k)) s [.sched] fun t =>
      queueCfg t q.toNat = cfg ∧ (∀ r, r ≠ q.toNat → queueCfg t r = queueCfg s r) ∧ find t.sched.configWait q.toNat = none ∧
        (flag cfg 245 = true → queueBalance t q.toNat = min (queueBalance s q.toNat) (queueCap cfg)) ∧
        ∀ r, (queue t r).copies = (queue s r).copies) ∧
  (∀ s (q : BitVec 18), Reaches s .host (Reg.schedQCmd.addr []) → Alone s →
    Does (.qCmdZeroMaxima q) s [.staged, .inForce, .sched] fun t =>
      queue t q.toNat = { queue s q.toNat with maxCells := 0, maxDelay := 0 } ∧
        (∀ r, r ≠ q.toNat → queue t r = queue s r) ∧ t.sched = { s.sched with queues := t.sched.queues } ∧
        RegsBut [Reg.schedQCmd.addr []] s t) ∧
  (∀ s (q : BitVec 18), Reaches s .host (Reg.schedQCmd.addr []) → Alone s →
    Does (.qCmdClearQueueDebt q) s [.staged, .inForce, .sched] fun t =>
      queueBalance t q.toNat = max 0 (queueBalance s q.toNat) ∧ (queue t q.toNat).copies = (queue s q.toNat).copies ∧
        (∀ r, r ≠ q.toNat → queue t r = queue s r) ∧ t.sched = { s.sched with queues := t.sched.queues } ∧
        RegsBut [Reg.schedQCmd.addr []] s t) ∧
  (∀ s (p : Fin 96) (c : Fin 8), Reaches s .host (Reg.schedQCmd.addr []) → Alone s → (portSched s p).credit.length = 8 →
    Does (.qCmdClearClassDebt p c) s [.staged, .inForce, .sched] fun t =>
      (portSched t p).credit.getD c 0 = max 0 (creditNow s p c) ∧ (∀ r, r ≠ p.val → portSched t r = portSched s r) ∧
        t.sched = { s.sched with ports := t.sched.ports } ∧ RegsBut [Reg.schedQCmd.addr []] s t) ∧
  (∀ s req (d : Fin 128) data, Reaches s req (Reg.schedVoqRoute.addr [d]) → Alone s → d.val ≠ ownDevice s →
    Does (.voqRouteWrite req d data) s [.staged, .waiting] fun t =>
      stagedWord t Reg.schedVoqRoute [d] = blend 0x8000007F (stagedWord s Reg.schedVoqRoute [d]) data ∧
        t.regs.waiting = (s.regs.waiting.filter fun e => !(e.addr == Reg.schedVoqRoute.addr [d] && e.kind == 2)) ++
          [⟨Reg.schedVoqRoute.addr [d], 0x8000007F, 2, s.time.dt, req⟩]) ∧
  (∀ s req (d : Fin 128) data, Reaches s req (Reg.schedVoqRoute.addr [d]) → d.val = ownDevice s →
    Does (.voqRouteWrite req d data) s [] fun _ => True) ∧
  (∀ s (d : Fin 128) (p : Fin 96) (c : Fin 8) w, find s.sched.xoff (voqOf s d p c) = some w →
    w + rd s Reg.schedVoqCfg [] 15 0 * 800 ≤ s.time.dt →
    Does (.voqXoffLapse d p c) s [.sched] fun t =>
      t.sched = { s.sched with xoff := drop s.sched.xoff (voqOf s d p c) }) ∧
  (∀ s (d : Fin 128) (p : Fin 96) (c : Fin 8) w, find s.sched.xoff (voqOf s d p c) = some w →
    s.time.dt < w + rd s Reg.schedVoqCfg [] 15 0 * 800 → Does (.voqXoffLapse d p c) s [] fun _ => True)

/-- Gate lists (R222, R223, R225, R227): an entry is staged alone; a commit takes the list as staged and waits for a start at
least 2 µs away on its own grid; at that start, and not before, the list is in force at entry 0, or with EN 0 every gate is open; an entry
that has ended gives way to the next. -/
def Obligations.GateListsRun : Prop :=
  (∀ s req (p : Fin 80) (i : Fin 1024) e, Reaches s req (0x5100000 + p * 0x2000 + i * 8) → Alone s →
    Does (.gateEntryWrite req p i e) s [.sched] fun t =>
      t.sched = { s.sched with
        gateStaged := set gateReset s.sched.gateStaged (p.val * 1024 + i.val) (e &&& 0xFF3FFFFFFF) }) ∧
  (∀ s req (p : Fin 80) el g now, now = advance el s → Reaches now req (Reg.schedGateCfg.addr [p]) → Alone now → gateRunning now p = false →
    stagedGate now p = g →
    DoesFrom now (.gateCommit req p el) s [.sched, .inForce] fun t =>
      (gate t p).pending = some g ∧ (gate t p).inForce = (gate now p).inForce ∧ tbNs t g.tb + 2000 ≤ (gate t p).cycleEnd ∧
        ((gate t p).cycleEnd - g.base) % g.cycle = 0 ∧ (gate t p).cycleEnd ≤ tbNs t g.tb + 1999 + g.cycle ∧
        rdBit t Reg.schedGateStat [p] 30 = true ∧ (∀ r, r ≠ p.val → gate t r = gate now r) ∧
        RegsBut [Reg.schedGateStat.addr [p]] now t) ∧
  (∀ s req (p : Fin 80) el now, now = advance el s → Reaches now req (Reg.schedGateCfg.addr [p]) → Alone now → gateRunning now p = true →
    DoesFrom now (.gateCommit req p el) s [.sched, .inForce] fun t =>
      gate t p = { gate now p with pending := some (stagedGate now p) } ∧ rdBit t Reg.schedGateStat [p] 30 = true) ∧
  (∀ s (p : Fin 80) el g now, now = advance el s → Alone now → (gate now p).pending = some g → g.en = true →
    (gate now p).cycleEnd ≤ tbNs now (gateTb now p) → (port now p).lpiSince = none →
    DoesFrom now (.gateCycleStart p el) s [.sched, .inForce] fun t =>
      gateRunning t p = true ∧ rd t Reg.schedGateStat [p] 9 0 = 0 ∧ rdBit t Reg.schedGateStat [p] 30 = false ∧
        (gate t p).inForce = g ∧ (gate t p).pending = none ∧ (gate t p).cycleEnd = gridAfter g (startInstant now p) ∧
        (gateRunning now p = false ∨ (gate now p).inForce.tb = g.tb → startInstant now p = (gate now p).cycleEnd) ∧
        (∀ c < 8, gateOpen t p c = entryOpen g 0 c) ∧ ∀ r, r ≠ p.val → gate t r = gate now r) ∧
  (∀ s (p : Fin 80) el g now, now = advance el s → Alone now → (gate now p).pending = some g → g.en = false →
    (gate now p).cycleEnd ≤ tbNs now (gateTb now p) →
    DoesFrom now (.gateCycleStart p el) s [.sched, .inForce] fun t =>
      gateRunning t p = false ∧ (gate t p).pending = none ∧ ∀ c < 8, gateOpen t p c = true) ∧
  (∀ s (p : Fin 80) el now, now = advance el s → (gate now p).pending = none → gateRunning now p = true →
    (gate now p).cycleEnd ≤ tbNs now (gate now p).inForce.tb →
    tbNs now (gate now p).inForce.tb < (gate now p).cycleEnd + (gate now p).inForce.cycle → (port now p).lpiSince = none →
    DoesFrom now (.gateCycleStart p el) s [.sched, .inForce] fun t =>
      (gate t p).cycleEnd = (gate now p).cycleEnd + (gate now p).inForce.cycle ∧ (gate t p).inForce = (gate now p).inForce ∧
        rd t Reg.schedGateStat [p] 9 0 = 0 ∧ RegsBut [Reg.schedGateStat.addr [p]] now t) ∧
  (∀ s (p : Fin 80) el now, now = advance el s → cycleDue now p = false →
    DoesFrom now (.gateCycleStart p el) s [] fun _ => True) ∧
  (∀ s (p : Fin 80) el now, now = advance el s → entryDue now p = false →
    DoesFrom now (.gateEntryExpiry p el) s [] fun _ => True) ∧
  (∀ s (p : Fin 80) el now, now = advance el s → gateRunning now p = true → rdBit now Reg.schedGateStat [p] 29 = false →
    rd now Reg.schedGateStat [p] 9 0 < (gate now p).inForce.last → (gate now p).inForce.last < 1024 →
    (gate now p).entryEnd ≤ tbNs now (gate now p).inForce.tb → tbNs now (gate now p).inForce.tb < (gate now p).cycleEnd →
    DoesFrom now (.gateEntryExpiry p el) s [.sched, .inForce] fun t =>
      rd t Reg.schedGateStat [p] 9 0 = rd now Reg.schedGateStat [p] 9 0 + 1 ∧ gateRunning t p = true ∧
        (gate t p).inForce = (gate now p).inForce ∧ (gate now p).entryEnd ≤ (gate t p).entryEnd ∧
        (gate t p).entryEnd ≤ (gate now p).cycleEnd ∧ (gate t p).cycleEnd = (gate now p).cycleEnd ∧
        RegsBut [Reg.schedGateStat.addr [p]] now t) ∧
  (∀ s p c, p < 80 → gateRunning s p = true → c < 8 →
    gateOpen s p c = entryOpen (gate s p).inForce (rd s Reg.schedGateStat [p] 9 0) c) ∧
  (∀ s p c, gateOpen s p c = false → remaining s p c = some 0)

/-- The servo (R249, R252, R253, Tables 9-2 and 9-3): an update in LOCKED integrates and steers; one beyond the step threshold in
ACQUIRING steps the time base; a first update leaves FREE, and a small one in HOLDOVER locks again; SRC_TIMEOUT without an
update leaves LOCKED for HOLDOVER. TIME_TB_CMD (R254): a command waits for the next TI cycle, which performs SET, then ADJ, then
the delivered offset. -/
def Obligations.TimeBasesAreServoed : Prop :=
  (∀ s t theta, t < 4 → s.time.tbs.length = 4 → tbState s t = 2 → (tb s t).est = 0 → theta.natAbs ≤ unlockThresh s t →
    (tb (servo s t theta) t).integ = (tb s t).integ - (rd s Reg.timeTbKi [t] 23 0 : Rat) / 1048576 * nanoseconds theta *
      (((s.time.dt - (tb s t).lastUpdate : Nat) : Rat) / 800000000) ∧
    (tb (servo s t theta) t).freq = freqUnits ((tb (servo s t theta) t).integ -
      (rd s Reg.timeTbKp [t] 23 0 : Rat) / 65536 * nanoseconds theta) ∧
    word (servo s t theta) Reg.timeTbFreq [t] = BitVec.ofInt 32 (tb (servo s t theta) t).freq ∧
    tbState (servo s t theta) t = 2 ∧ (tb (servo s t theta) t).now = (tb s t).now ∧
    ∀ k < 4, k ≠ t → tb (servo s t theta) k = tb s k) ∧
  (∀ s t theta, t < 4 → s.time.tbs.length = 4 → tbState s t = 1 → stepThresh s t < theta.natAbs →
    (tb (servo s t theta) t).now = (tb s t).now - theta * unitsPerFrac ∧ (tb (servo s t theta) t).epoch = (tb s t).epoch + 1 ∧
    (tb (servo s t theta) t).steps = (tb s t).steps + 1 ∧ (tb (servo s t theta) t).freq = (tb s t).freq ∧
    tbState (servo s t theta) t = 1 ∧ ∀ k < 4, k ≠ t → tb (servo s t theta) k = tb s k) ∧
  (∀ s t theta, t < 4 → s.time.tbs.length = 4 → tbState s t = 0 → tbState (servo s t theta) t ≠ 0) ∧
  (∀ s t theta, t < 4 → s.time.tbs.length = 4 → tbState s t = 3 → theta.natAbs ≤ lockThresh s t →
    tbState (servo s t theta) t = 2) ∧
  (∀ s (t : Fin 4) el theta now, now = advance el s → Quiet now → offline now = false → followsTwin now t = false →
    tbSource now t ≠ 0 →
    exec (.servoUpdate t el theta (BitVec.ofNat 8 (tb now t).epoch) none) s = done (servo now t theta)) ∧
  (∀ s (t : Fin 4) el theta e now, now = advance el s → offline now = false → followsTwin now t = false → tbSource now t ≠ 0 →
    BitVec.ofNat 8 (tb now t).epoch ≠ e →
    DoesFrom now (.servoUpdate t el theta e none) s [.counters] fun u =>
      ctr u Ctr.time [] 4 = (ctr now Ctr.time [] 4 + 1) % 2 ^ 40 ∧ u.time = now.time) ∧
  (∀ s (t : Fin 4) el now, now = advance el s → timeoutAt now t ≤ now.time.dt → now.time.tbs.length = 4 →
    tbState now t = 2 ∨ (tbState now t = 1 ∧ (tb now t).lockedSinceStep = true) → (t.val = 0 → now.time.alignTb0 = true) →
    DoesFrom now (.srcTimeout t el) s [.clock, .inForce, .time, .out, .ports, .counters] fun u =>
      tbState u t = 3 ∧ (tb u t).freq = freqUnits (tb now t).integ ∧ (tb u t).now = (tb now t).now ∧
        word u Reg.timeTbEventCnt [t] = word now Reg.timeTbEventCnt [t] + 1 ∧ u.time.dt = now.time.dt ∧
        ∀ k < 4, k ≠ t.val → tb u k = tb now k) ∧
  (∀ s (t : Fin 4) el now, now = advance el s → timeoutAt now t ≤ now.time.dt → tbState now t = 1 →
    (tb now t).lockedSinceStep = false →
    DoesFrom now (.srcTimeout t el) s [.inForce, .time, .izl, .out, .ports, .counters] fun u =>
      tbState u t = 0 ∧ (∀ k < 4, tb u k = tb now k) ∧
        word u Reg.timeTbEventCnt [t] = word now Reg.timeTbEventCnt [t] + 1) ∧
  (∀ s (t : Fin 4) el now, now = advance el s → now.time.dt < timeoutAt now t →
    DoesFrom now (.srcTimeout t el) s [] fun _ => True) ∧
  (∀ s (t : Fin 4), Reaches s .host (Reg.timeTbCmd.addr [t]) →
    Does (.tbCmdAdj t) s [.staged, .inForce, .time] fun u =>
      u.time = { s.time with tbCmds := set TbCmd.none s.time.tbCmds t { get TbCmd.none s.time.tbCmds t with
        adj := some (signed (word s Reg.timeTbAdj [t]).toNat 32 * 65536) } } ∧
        rdBit u Reg.timeTbCmd [t] 30 = true ∧ RegsBut [Reg.timeTbCmd.addr [t]] s u) ∧
  (∀ s (t : Fin 4), Reaches s .host (Reg.timeTbCmd.addr [t]) →
    Does (.tbCmdSet t) s [.staged, .inForce, .time] fun u =>
      u.time = { s.time with tbCmds := set TbCmd.none s.time.tbCmds t { get TbCmd.none s.time.tbCmds t with
        set := some (setTarget s t) } } ∧
        rdBit u Reg.timeTbCmd [t] 30 = true ∧ RegsBut [Reg.timeTbCmd.addr [t]] s u) ∧
  (∀ s (t : Fin 4) el now, now = advance el s → Reaches now .host (Reg.timeTbCmd.addr [t]) → tbSource now t = 3 →
    DoesFrom now (.tbCmdDeliverSwOffset t el) s [.staged, .inForce, .time] fun u =>
      u.time = { now.time with tbCmds := set TbCmd.none now.time.tbCmds t { get TbCmd.none now.time.tbCmds t with
        sw := some (signed (rd now Reg.timeTbSwOffsetHi [t] 15 0 * 2 ^ 32 + rd now Reg.timeTbSwOffsetLo [t] 31 0) 48) } } ∧
        rdBit u Reg.timeTbCmd [t] 30 = true ∧ RegsBut [Reg.timeTbCmd.addr [t]] now u) ∧
  (∀ s (t : Fin 4) el now, now = advance el s → Reaches now .host (Reg.timeTbCmd.addr [t]) → tbSource now t ≠ 3 →
    DoesFrom now (.tbCmdDeliverSwOffset t el) s [.staged, .inForce] fun u => RegsBut [Reg.timeTbCmd.addr [t]] now u) ∧
  (∀ s t x d, t < 4 → s.time.tbs.length = 4 → find s.time.tbCmds t = some x → x.set = none → x.adj = some d → x.sw = none →
    d.natAbs ≤ stepThresh s t →
    tb (performTb s t) t = { tb s t with now := (tb s t).now + d * unitsPerFrac, epoch := (tb s t).epoch + 1 } ∧
      (∀ k < 4, k ≠ t → tb (performTb s t) k = tb s k) ∧ rdBit (performTb s t) Reg.timeTbCmd [t] 30 = false ∧
      (performTb s t).time.tbCmds = drop s.time.tbCmds t) ∧
  (∀ s t x d, t < 4 → s.time.tbs.length = 4 → find s.time.tbCmds t = some x → x.set = none → x.adj = some d → x.sw = none →
    stepThresh s t < d.natAbs →
    (tb (performTb s t) t).now = (tb s t).now + d * unitsPerFrac ∧ tbState (performTb s t) t = 1 ∧
      (tb (performTb s t) t).steps = (tb s t).steps + 1 ∧ ∀ k < 4, k ≠ t → tb (performTb s t) k = tb s k) ∧
  (∀ s t x v, t < 4 → s.time.tbs.length = 4 → find s.time.tbCmds t = some x → x.set = some v → x.adj = none → x.sw = none →
    tbFrac (performTb s t) t = v ∧ tbState (performTb s t) t = 1 ∧ (tb (performTb s t) t).epoch = (tb s t).epoch + 1 ∧
      ∀ k < 4, k ≠ t → tb (performTb s t) k = tb s k) ∧
  (∀ s t x v d, t < 4 → s.time.tbs.length = 4 → find s.time.tbCmds t = some x → x.set = some v → x.adj = some d → x.sw = none →
    tbFrac (performTb s t) t = v + d) ∧
  (∀ s t x theta u, t < 4 → s.time.tbs.length = 4 → find s.time.tbCmds t = some x → x.set = none → x.adj = none →
    x.sw = some theta → tbSource s t = 3 → followsTwin s t = false → tbState s t = 2 → (tb s t).est = 0 →
    theta.natAbs ≤ unlockThresh s t → u = performTb s t →
    (tb u t).integ = (tb s t).integ - (rd s Reg.timeTbKi [t] 23 0 : Rat) / 1048576 * nanoseconds theta *
      (((s.time.dt - (tb s t).lastUpdate : Nat) : Rat) / 800000000) ∧
      (tb u t).freq = freqUnits ((tb u t).integ - (rd s Reg.timeTbKp [t] 23 0 : Rat) / 65536 * nanoseconds theta) ∧
      tbState u t = 2 ∧ ∀ k < 4, k ≠ t → tb u k = tb s k)

/-- Captures, the reference and the timing pins (R242, R246, R271 to R273): a capture latches every time base and DT in one
cycle; a lost reference shows and its return clears it; an enabled PPSIN edge is stamped, less its delay; as a time base passes a
whole second, each enabled output of it takes its edges of the second that begins. -/
def Obligations.TimeIsSeenOutside : Prop :=
  (∀ s, Reaches s .host (Reg.timeCapture.addr []) →
    Does .timeCapture s [.inForce] fun u =>
      (∀ k < 4, word u Reg.timeCapSLo [k] = BitVec.ofNat 32 (timeFormat (tbFrac s k)).1 ∧
        word u Reg.timeCapSHi [k] = BitVec.ofNat 32 ((timeFormat (tbFrac s k)).1 / 2 ^ 32) ∧
        word u Reg.timeCapNs [k] = BitVec.ofNat 32 (timeFormat (tbFrac s k)).2.1 ∧
        word u Reg.timeCapFrac [k] = BitVec.ofNat 32 (timeFormat (tbFrac s k)).2.2) ∧
      word u Reg.timeCapNs [4] = BitVec.ofNat 32 (timeFormat (dtFrac s)).2.1 ∧
      RegsBut ((List.range 5).flatMap fun k =>
        [Reg.timeCapSLo.addr [k], Reg.timeCapSHi.addr [k], Reg.timeCapNs.addr [k], Reg.timeCapFrac.addr [k]]) s u) ∧
  (∀ s, Quiet s → offline s = false → rdBit s Reg.timeRef [] 1 = true → s.time.refLost = false →
    Does .refLost s [.time, .inForce] fun u =>
      u.time = { s.time with refLost := true } ∧ rdBit u Reg.timeRef [] 31 = false ∧ RegsBut [Reg.timeRef.addr []] s u) ∧
  (∀ s, Quiet s → offline s = false → rdBit s Reg.timeRef [] 1 = true → s.time.refLost = true →
    Does .refRestored s [.time, .inForce] fun u =>
      u.time = { s.time with refLost := false } ∧ rdBit u Reg.timeRef [] 31 = true ∧ RegsBut [Reg.timeRef.addr []] s u) ∧
  (∀ s (k : Fin 2) el f now, now = advance el s → Quiet now → offline now = false → now.time.ppsin.length = 2 →
    rdBit now Reg.timePpsinCfg [k] 31 = true → rdBit now Reg.timePpsinCfg [k] 30 = f → (ppsin now k).length < 16 →
    (∀ t < 4, tbSource now t ≠ 4 + k.val) →
    DoesFrom now (.ppsinEdge k el f) s [.time] fun u =>
      ppsin u k = ppsin now k ++ [(stampNow now).shift (-(rd now Reg.timePpsinCfg [k] 15 0 * 65536 : Nat))] ∧
        ∀ j, j ≠ k.val → ppsin u j = ppsin now j) ∧
  (∀ s (k : Fin 2) el f now, now = advance el s → Quiet now → offline now = false → rdBit now Reg.timePpsinCfg [k] 31 = true →
    rdBit now Reg.timePpsinCfg [k] 30 = f → 16 ≤ (ppsin now k).length → (∀ t < 4, tbSource now t ≠ 4 + k.val) →
    DoesFrom now (.ppsinEdge k el f) s [.counters] fun u =>
      ctr u Ctr.time [] 5 = (ctr now Ctr.time [] 5 + 1) % 2 ^ 40 ∧ CountersBut [Ctr.time.addr [] 5] now u) ∧
  (∀ s (k : Fin 2), Reaches s .host (Reg.timePpsinPop.addr [k]) → s.time.ppsin.length = 2 →
    Does (.ppsinPop k) s [.time] fun u =>
      ppsin u k = (ppsin s k).drop 1 ∧ (∀ j, j ≠ k.val → ppsin u j = ppsin s j) ∧
        u.time = { s.time with ppsin := u.time.ppsin }) ∧
  (∀ s (t : Fin 4) el now, now = advance el s → passesNow now t unitsPerSec = true → (tb now t).secondAt ≠ now.time.dt →
    now.time.tbs.length = 4 → now.time.wclk.length = 4 →
    DoesFrom now (.wholeSecond t el) s [.time, .clock, .out] fun u =>
      (∀ k < 4, rdBit now Reg.timePpsoutCfg [k] 31 = true → driven now false k = true →
        rd now Reg.timePpsoutCfg [k] 29 28 = t.val →
        Output.edges k (afterSecond now t (signed (word now Reg.timePpsoutOfs [k]).toNat 32 * 65536)) 1
          (held 1 500000 (rd now Reg.timePpsoutCfg [k] 23 0) * 65536000) ∈ u.out) ∧
      (rdBit now Reg.timeClk10Cfg [] 31 = true → now.power.inReset = false → rd now Reg.timeClk10Cfg [] 29 28 = t.val →
        Output.edges 4 (afterSecond now t (min 99 (rd now Reg.timeClk10Cfg [] 6 0) * 65536 : Nat)) 10000000 3276800 ∈ u.out) ∧
      (∀ k < 4, driven now true k = true → rd now Reg.timeWclkCfg [k] 29 28 = t.val → wclkMuted now k = false →
        (wclk u k).running = true ∧ ((wclk now k).running = false ∨ (wclk now k).rephase = true →
          Output.edges (5 + k) (afterSecond now t (signed (word now Reg.timeWclkOfs [k]).toNat 32 * 65536))
            (wclkRate (rd now Reg.timeWclkCfg [k] 2 0)) (fracPerSec / (2 * wclkRate (rd now Reg.timeWclkCfg [k] 2 0))) ∈ u.out)) ∧
      u.time = { now.time with tbs := u.time.tbs, clk10 := u.time.clk10, wclk := u.time.wclk } ∧ now.out <:+ u.out ∧
      tb u t = { tb now t with secondAt := now.time.dt } ∧ ∀ k < 4, k ≠ t.val → tb u k = tb now k) ∧
  (∀ s (t : Fin 4) el now, now = advance el s → passesNow now t unitsPerSec = false →
    DoesFrom now (.wholeSecond t el) s [] fun _ => True)

/-- PTP (R258, R263, R265 to R267, Table 9-7): a context write waits or is refused; each message begins at a free port at its
instant with its sequence number, which then advances; a Sync that has left counts and keeps its stamp for its Follow_Up; what
waits too long is given up. -/
def Obligations.PtpMessagesLeave : Prop :=
  (∀ s req (p : Fin 80) (t : Fin 4) cfg, Reaches s req (0x5800020 + (p * 4 + t) * 64) → Alone s → ptpRefusal s p t cfg = 0 →
    Does (.ptpContextWrite req p t cfg) s [.time] fun u =>
      u.time = { s.time with ctxWait := put s.time.ctxWait (p.val * 4 + t.val) (cfg &&& ptpMask, s.time.dt) }) ∧
  (∀ s req (p : Fin 80) (t : Fin 4) cfg, Reaches s req (0x5800020 + (p * 4 + t) * 64) → Alone s → ptpRefusal s p t cfg ≠ 0 →
    Does (.ptpContextWrite req p t cfg) s [.inForce] fun u =>
      word u Reg.timeRefuseCnt [] = word s Reg.timeRefuseCnt [] + 1 ∧
        word u Reg.timeRefuseLast [] = BitVec.ofNat 32 (ptpRefusal s p t cfg * 2 ^ 16 + p * 4 + t) ∧
        RegsBut [Reg.timeRefuseCnt.addr [], Reg.timeRefuseLast.addr []] s u) ∧
  (∀ s (p : Fin 80) (t : Fin 4) el c cfg now, now = advance el s → p.val * 4 + t.val = c → ptpCfg now p t = cfg →
    maySend now p t = true → ptpRole cfg = 1 → passesNow now t (syncTicks cfg * (5 * 4096000000000)) = true →
    (ptp now c).syncSentAt ≠ some now.time.dt → flag cfg 248 = false ∨ relaying now t = false → portGroup now p = none →
    LineFree now p → classHeld now p (fld cfg 202 200) = false →
    DoesFrom now (.syncTx p t el) s [.time, .ports, .freeCtr] fun u =>
      ptp u c = { ptp now c with
        syncSeq := ((ptp now c).syncSeq + 1) % 65536, followUp := none, syncSentAt := some now.time.dt } ∧
        (∀ k, k ≠ c → ptp u k = ptp now k) ∧
        Begins u now p (ownMessage now p t 0 (ptp now c).syncSeq (!flag cfg 249) 0 0 (timestampBytes 0)).2) ∧
  (∀ s (p : Fin 80) (t : Fin 4) el c cfg seq sent now, now = advance el s → p.val * 4 + t.val = c → ptpCfg now p t = cfg →
    (ptp now c).followUp = some (seq, sent) → (ptp now c).relay = none → maySend now p t = true →
    dtFrac now ≤ sent.dt + fracPerMs → portGroup now p = none → LineFree now p → classHeld now p (fld cfg 202 200) = false →
    DoesFrom now (.followUpTx p t el) s [.time, .ports, .freeCtr] fun u =>
      ptp u c = { ptp now c with followUp := none } ∧ (∀ k, k ≠ c → ptp u k = ptp now k) ∧
        Begins u now p (ownMessage (spend now) p t 8 seq false (subNano (sent.tb.getD t 0)) 0
          (timestampBytes (sent.tb.getD t 0) ++ if flag cfg 248 then followUpTlv 0 (freeWord now) else [])).2) ∧
  (∀ s (p : Fin 80) (t : Fin 4) el c cfg now, now = advance el s → p.val * 4 + t.val = c → ptpCfg now p t = cfg →
    (ptp now c).relay.isSome = true → (ptp now c).syncSentAt = none → now.time.dt ≤ (ptp now c).relayAt + 8000000 →
    flag cfg 248 = true → ptpRole cfg = 1 → maySend now p t = true → portGroup now p = none → LineFree now p →
    classHeld now p (fld cfg 202 200) = false →
    DoesFrom now (.relaySyncTx p t el) s [.time, .ports, .freeCtr] fun u =>
      ptp u c = { ptp now c with
        syncSeq := ((ptp now c).syncSeq + 1) % 65536, followUp := none, syncSentAt := some now.time.dt } ∧
        Begins u now p (ownMessage now p t 0 (ptp now c).syncSeq true 0 0 (timestampBytes 0)).2) ∧
  (∀ s (p : Fin 80) (t : Fin 4) el c cfg now, now = advance el s → p.val * 4 + t.val = c → ptpCfg now p t = cfg →
    get 0 now.time.ctx c = cfg → ((ptp now c).delayAt.any fun a => decide (a ≤ now.time.dt)) = true → ptpRole cfg = 2 →
    flag cfg 250 = false → maySend now p t = true → portGroup now p = none → LineFree now p →
    classHeld now p (fld cfg 202 200) = false →
    DoesFrom now (.delayReqTx p t el) s [.time, .ports, .freeCtr, .draws] fun u =>
      (ptp u c).delaySeq = ((ptp now c).delaySeq + 1) % 65536 ∧ (ptp u c).delayReq = none ∧
        (∀ k, k ≠ c → ptp u k = ptp now k) ∧
        (∃ n, n ≤ 2 * delayTicks cfg ∧ (ptp u c).delayAt = some (now.time.dt + n)) ∧
        ∃ o, o.use = .ptp c 1 (ptp now c).delaySeq (messageAt cfg) (ptpTransport cfg != 0) false 0 ∧ Begins u now p o) ∧
  (∀ s (p : Fin 80) (t : Fin 4) el c cfg now, now = advance el s → p.val * 4 + t.val = c → ptpCfg now p t = cfg →
    ptpRole cfg ≠ 0 → flag cfg 250 = true → (∀ a, (ptp now c).pdelaySentAt = some a → a + delayTicks cfg ≤ now.time.dt) →
    maySend now p t = true → portGroup now p = none → LineFree now p → classHeld now p (fld cfg 202 200) = false →
    DoesFrom now (.pdelayReqTx p t el) s [.time, .ports, .freeCtr] fun u =>
      ptp u c = { ptp now c with
        pdelaySeq := ((ptp now c).pdelaySeq + 1) % 65536, pdelayReq := none, pdelayResp := none,
        pdelaySentAt := some now.time.dt } ∧
        ∃ o, o.use = .ptp c 2 (ptp now c).pdelaySeq (messageAt cfg) (ptpTransport cfg != 0) false 0 ∧ Begins u now p o) ∧
  (∀ s p z c seq k udp two corr cls b u, p < 80 → offline s = false → (port s p).ownNow = some z →
    z.own = ⟨.ptp c 0 seq k udp two corr, cls, b⟩ → (port s p).backingOff = none →
    lineEnd s p z.startedAt z.wire.length ≤ s.time.dt → u = (endOwn s p).1 →
    (endOwn s p).2 = true ∧ (port u p).ownNow = none ∧
      ptp u c = { ptp s c with followUp := if two then some (seq, z.stamp) else none } ∧ (∀ j, j ≠ c → ptp u j = ptp s j) ∧
      ctr u Ctr.ptp [c] 0 = (ctr s Ctr.ptp [c] 0 + 1) % 2 ^ 40 ∧ u.out = .frame p z.stamp z.wire :: s.out) ∧
  (∀ s (p : Fin 80) (t : Fin 4) c h, p.val * 4 + t.val = c → (ptp s c).waiting = some h → followUpLate s c h = true →
    Does (.followUpTimeout p t) s [.time, .counters] fun u =>
      ptp u c = { ptp s c with waiting := none } ∧ (∀ k, k ≠ c → ptp u k = ptp s k) ∧
        ctr u Ctr.ptp [c] 6 = (ctr s Ctr.ptp [c] 6 + 1) % 2 ^ 40 ∧ CountersBut [Ctr.ptp.addr [c] 6] s u) ∧
  (∀ s (p : Fin 80), Does (.tcRecordLapse p) s [.time] fun u =>
    get [] u.time.records p = (get [] s.time.records p).filter (fun r => decide (s.time.dt < r.madeAt + 800000000)) ∧
      (∀ q, q ≠ p.val → get [] u.time.records q = get [] s.time.records q) ∧
      u.time = { s.time with records := u.time.records })

/-- ACC_JOB_CMD (R293, R294, R296 to R298, R302 to R304, Table 10-10): START, COMMIT and STOP that nothing refuses wait for their
apply samples; one that the job's state forbids is refused; a STOP in STARTING ends the job at once; at its apply sample a START
makes the job RUNNING and a STOP ends it; a STANDBY takes a carried command with the apply sample it carries. -/
def Obligations.JobsFollowCommands : Prop :=
  (∀ s req (j : Fin 1024) atTime x d e, Reaches s req (Reg.accJobCmd.addr []) → Alone s → placeMode s 0 = 0 → placeMode s 1 = 0 →
    (job s j).state = 0 → (job s j).pending = [] → (job s j).restart = none → (s.acc.staged.part j).job j = x → fld x 505 500 = e →
    { s.acc.staged.part j with jobs := set 0 (s.acc.staged.part j).jobs j (setFld x 505 500 e) } = d →
    partRefusal s j d e = none →
    Does (.accJobStart req j atTime) s [.staged, .inForce, .acc] fun t =>
      job t j = { state := 1, engine := e, pending := [⟨0, applySample s x atTime, d⟩], start := applySample s x atTime,
                  move := none, restart := none, steps := (tb s (jobTb x)).steps } ∧
        (∀ k, k ≠ j.val → job t k = job s k) ∧ rd t Reg.accJobCmd [] 26 24 = 0 ∧
        word t Reg.accJobApplyLo [] = BitVec.ofNat 32 (applySample s x atTime)) ∧
  (∀ s req (j : Fin 1024) atTime, Reaches s req (Reg.accJobCmd.addr []) → Alone s → (job s j).state ≠ 0 → (job s j).pending = [] →
    (job s j).restart = none →
    Does (.accJobStart req j atTime) s [.staged, .inForce] fun t =>
      rd t Reg.accJobCmd [] 26 24 = 1 ∧ word t Reg.accRefuseCnt [] = word s Reg.accRefuseCnt [] + 1 ∧
        word t Reg.accRefuseLast [] = BitVec.ofNat 32 (6 * 2 ^ 16 + j) ∧
        RegsBut [Reg.accJobCmd.addr [], Reg.accRefuseCnt.addr [], Reg.accRefuseLast.addr []] s t) ∧
  (∀ s req (j : Fin 1024) atTime, Reaches s req (Reg.accJobCmd.addr []) → Alone s → (job s j).state = 2 →
    (job s j).pending = [] → (job s j).restart = none → (job s j).move = none → s.place.lineMoves = [] →
    partRefusal s j (commitPart s j) (job s j).engine = none → structBad s (commitPart s j) j = false →
    Does (.accJobCommit req j atTime) s [.staged, .inForce, .acc] fun t =>
      job t j = { job s j with pending := [⟨1, applySample s (s.acc.inForce.job j) atTime, commitPart s j⟩] } ∧
        (∀ k, k ≠ j.val → job t k = job s k) ∧ t.acc = { s.acc with jobs := t.acc.jobs } ∧ rd t Reg.accJobCmd [] 26 24 = 0) ∧
  (∀ s req (j : Fin 1024) atTime, Reaches s req (Reg.accJobCmd.addr []) → Alone s → (job s j).state = 2 →
    (job s j).pending = [] → (job s j).restart = none → (job s j).move = none →
    Does (.accJobStop req j atTime) s [.staged, .inForce, .acc] fun t =>
      job t j = { job s j with
        state := 3, pending := [⟨2, applySample s (s.acc.inForce.job j) atTime, AccDesc.none⟩] } ∧
        (∀ k, k ≠ j.val → job t k = job s k) ∧ t.acc = { s.acc with jobs := t.acc.jobs } ∧ rd t Reg.accJobCmd [] 26 24 = 0) ∧
  (∀ s req (j : Fin 1024) atTime, Reaches s req (Reg.accJobCmd.addr []) → Alone s → (job s j).state = 1 →
    (∀ c ∈ (job s j).pending, c.op = 0) → (job s j).restart = none → (job s j).move = none →
    Does (.accJobStop req j atTime) s [.staged, .inForce, .acc, .place] fun t =>
      job t j = { Job.stopped with engine := (job s j).engine } ∧ ∀ k, k ≠ j.val → job t k = job s k) ∧
  (∀ s (j : Fin 1024) el c now, now = advance el s → (job now j).pending = [c] → c.op = 0 → (job now j).state = 1 →
    (job now j).restart = none → stepped now j = false →
    reachedTime now (now.acc.inForce.job j) c.sample = true → outsReached now j c.sample = true →
    DoesFrom now (.applySampleReached j el) s [.acc] fun t =>
      job t j = { job now j with state := 2, pending := [] } ∧ ∀ k, k ≠ j.val → job t k = job now k) ∧
  (∀ s (j : Fin 1024) el c now, now = advance el s → (job now j).pending = [c] → c.op = 2 → (job now j).state = 3 →
    (job now j).move = none → (job now j).restart = none → stepped now j = false →
    reachedTime now (now.acc.inForce.job j) c.sample = true → outsReached now j c.sample = true →
    DoesFrom now (.applySampleReached j el) s [.acc, .place] fun t =>
      job t j = { Job.stopped with engine := (job now j).engine } ∧ ∀ k, k ≠ j.val → job t k = job now k) ∧
  (∀ s (j : Fin 1024) el c now, now = advance el s → (job now j).pending = [c] → c.op = 1 → (job now j).state = 2 →
    (job now j).restart = none → stepped now j = false →
    reachedTime now (now.acc.inForce.job j) c.sample = true → outsReached now j c.sample = true →
    DoesFrom now (.applySampleReached j el) s [.acc] fun t =>
      job t j = { job now j with pending := [] } ∧ t.acc.inForce = now.acc.inForce.adopt j (c.desc.placed now j) ∧
        ∀ k, k ≠ j.val → job t k = job now k) ∧
  (∀ s (j : Fin 1024) (apply el : Nat) x now, now = advance el s → role now = 2 → placeMode now 0 = 0 → placeMode now 1 = 0 → (job now j).state = 0 →
    (now.acc.staged.part j).job j = x → ¬ (apply * fracPerSec : Int) < tbFrac now (jobTb (now.acc.staged.job j)) *
      jobRate (now.acc.staged.job j) →
    DoesFrom now (.carriedCommandRx j 0 apply el) s [.inForce, .acc] fun t =>
      (job t j).state = 1 ∧ (job t j).start = apply ∧ (job t j).engine = fld x 505 500 ∧
        ∀ k, k ≠ j.val → job t k = job now k) ∧
  (∀ s (j : Fin 1024) (apply el : Nat) now, now = advance el s → role now = 2 → (job now j).state = 2 → (job now j).pending = [] → (job now j).move = none →
    now.place.lineMoves = [] →
    ¬ (apply * fracPerSec : Int) < tbFrac now (jobTb (now.acc.inForce.job j)) * jobRate (now.acc.inForce.job j) →
    DoesFrom now (.carriedCommandRx j 1 apply el) s [.inForce, .acc] fun t =>
      job t j = { job now j with pending := [⟨1, apply, commitPart now j⟩] }) ∧
  (∀ s (j : Fin 1024) (apply el : Nat) now, now = advance el s → role now = 2 → (job now j).state = 2 → (job now j).pending = [] → (job now j).move = none →
    ¬ (apply * fracPerSec : Int) < tbFrac now (jobTb (now.acc.inForce.job j)) * jobRate (now.acc.inForce.job j) →
    DoesFrom now (.carriedCommandRx j 2 apply el) s [.inForce, .acc] fun t =>
      job t j = { job now j with state := 3, pending := [⟨2, apply, AccDesc.none⟩], restart := none })

/-- Packets (R277, R280 to R283, R287 to R289, R311): an engine takes the oldest copy at its cluster port; a packet in time is
counted and its first sample noted, and its samples, as 24-bit values, are written to their lines;
a packet that is late, early, a duplicate or of another format is counted as such; a deadline
that passes counts a missing packet; an output packet advances its stream; a tap's gain and a result stay within their ranges. -/
def Obligations.PacketsAreTakenAndMade : Prop :=
  (∀ s (k : Fin 8) c x h u, s.acc.inbox = [(k.val, c)] → frame s c.frame = some x → x.stream = some h →
    clusterSubs s k h = [u] →
    exec (.inputPacketRx k) s = done (releaseCopy
      (takePacket { s with acc := { s.acc with inbox := [] } } k x (unclosed x.bytes) u) c)) ∧
  (∀ s k x b u j, subJob s u = some j → (job s j).state ≠ 5 →
    (∀ e ∈ jobEngines s j, e < 64) → readPacket (get 0 s.acc.inForce.subs u)
      (convRate (jobRate (s.acc.inForce.job j)) (fld (get 0 s.acc.inForce.subs u) 492 491)) b = none →
    ctr (takePacket s k x b u) Ctr.sub [u] 5 = (ctr s Ctr.sub [u] 5 + 1) % 2 ^ 40 ∧
      subRun (takePacket s k x b u) u = subRun s u ∧ (takePacket s k x b u).acc = s.acc) ∧
  (∀ s k x b u j c fs ts o n, subJob s u = some j → (job s j).state ≠ 5 → get 0 s.acc.inForce.subs u = c → fld c 492 491 = 0 →
    (∀ e ∈ jobEngines s j, e < 64) → jobRate (s.acc.inForce.job j) = fs → readPacket c fs b = some (ts, o) →
    packetIndex c fs ts (x.stamp.tb.getD (jobTb (s.acc.inForce.job j)) 0) = (n : Nat) → n ∉ (subRun s u).accepted →
    (n * fracPerSec : Int) + linkOffset (s.acc.inForce.job j) * fracPerUs * fs - 20000 * fracPerUs * fs ≤
      x.stamp.tb.getD (jobTb (s.acc.inForce.job j)) 0 * fs →
    x.stamp.tb.getD (jobTb (s.acc.inForce.job j)) 0 * fs ≤
      (n * fracPerSec : Int) + linkOffset (s.acc.inForce.job j) * fracPerUs * fs - 10 * fracPerUs * fs →
    ctr (takePacket s k x b u) Ctr.sub [u] 0 = (ctr s Ctr.sub [u] 0 + 1) % 2 ^ 40 ∧
      (subRun (takePacket s k x b u) u).accepted = n :: (subRun s u).accepted) ∧
  (∀ s (u : Fin 4096) index el j now, now = advance el s → subJob now u = some j → index ∉ (subRun now u).accepted →
    index ∉ (subRun now u).missed → index % subSamples (get 0 now.acc.inForce.subs u) (jobRate (now.acc.inForce.job j)) = 0 →
    flag (get 0 now.acc.inForce.subs u) 511 = true →
    ((index * fracPerSec + linkOffset (now.acc.inForce.job j) * fracPerUs * jobRate (now.acc.inForce.job j) : Nat) : Int) ≤
      tbFrac now (jobTb (now.acc.inForce.job j)) * jobRate (now.acc.inForce.job j) →
    DoesFrom now (.inputDeadline u index el) s [.counters, .acc] fun t =>
      subRun t u = { subRun now u with missed := index :: (subRun now u).missed } ∧ (∀ v, v ≠ u.val → subRun t v = subRun now v) ∧
        ctr t Ctr.sub [u] 3 = (ctr now Ctr.sub [u] 3 + 1) % 2 ^ 40 ∧ CountersBut [Ctr.sub.addr [u] 3] now t) ∧
  (∀ s (o : Fin 2048) el j x e m now, now = advance el s →
    (activeJobs now).find? (fun j => (jobPart now j).validOuts.any fun e => e.1 == o.val) = some j →
    (job now j).state = 2 → (job now j).pending = [] → (job now j).restart = none → stepped now j = false → now.acc.inForce.job j = x →
    get 0 now.acc.inForce.outs o = e → flag e 1023 = true → get 0 now.acc.outNext o = m →
    (computeTime e x m 0 : Int) ≤ tbFrac now (jobTb x) * convRate (jobRate x) (outConv e) →
    ∃ t, exec (.outputPacketCompute o el) s = .next t ∧ get 0 t.acc.outNext o = m + outSamples e (jobRate x) ∧
      ∀ k, k ≠ o.val → get 0 t.acc.outNext k = get 0 now.acc.outNext k) ∧
  (∀ s req (e : Fin 64) (n : Fin 6) ev, Reaches s req (Reg.accPerfSel.addr [e, n]) → Alone s →
    Does (.perfSelWrite req e n ev) s [.staged, .waiting] fun t =>
      rd t Reg.accPerfSel [e, n] 7 0 = rd s Reg.accPerfSel [e, n] 7 0 ∧ fld (stagedWord t Reg.accPerfSel [e, n]) 7 0 = ev.toNat ∧
        t.regs.waiting = (s.regs.waiting.filter fun w => !(w.addr == Reg.accPerfSel.addr [e, n] && w.kind == 0)) ++
          [⟨Reg.accPerfSel.addr [e, n], 0xFF, 0, s.time.dt, req⟩]) ∧
  (∀ (b : List Byte) o, readSample 0 b o = signed (field b o 2) 16 * 256 ∧ readSample 1 b o = signed (field b o 3) 24 ∧
    readSample 2 b o = signed (field b o 3) 24 ∧ readSample 3 b o = signed (field b o 4) 32 / 256 ∧
    ∀ fmt, -8388608 ≤ readSample fmt b o ∧ readSample fmt b o ≤ 8388607) ∧
  (∀ s j u c rate b o (n : Nat) i e g k v,
    ((jobPart s j).validInputs.filter fun e => fld e.2 126 115 == u) = [(i, e)] → s.place.lineMoves = [] →
    fld c 492 491 = 0 → fld e 107 101 = g → packetSamples (fld c 490 489) rate ≤ g * 1024 →
    k < packetSamples (fld c 490 489) rate →
    readSample (fld c 494 493) b (o + k * ((fld c 488 482 + 1) * sampleBytes (fld c 494 493)) +
      fld e 114 108 * sampleBytes (fld c 494 493)) = v →
    find (storePacket s j u c rate b o n n).acc.lines (fld e 100 80 * 1024 + (n + k) % (g * 1024)) =
      some ⟨n + k, (tb s (jobTb ((jobPart s j).job j))).steps, v⟩) ∧
  (∀ fmt a, fmt ≠ 3 → -8388608 ≤ (resultOf fmt a).1 ∧ (resultOf fmt a).1 ≤ 8388607) ∧
  (∀ (t : TapRun) m, min t.gFrom t.gTo ≤ t.gainAt m ∧ t.gainAt m ≤ max t.gFrom t.gTo)

/-- Moves, faults and steps (R299, R305, R306): a move whose packets agree ends on its new engine, and one whose packets differ
is given up and counted; a failed engine's jobs enter FAULT; MC2 restarts one on the engine that R319 chooses, at an apply sample at which it leaves FAULT; a
step of its time base restarts a job. -/
def Obligations.JobsMoveAndRecover : Prop :=
  (∀ s (j : Fin 1024) m, (job s j).move = some m → moveComputed s j m = true →
    Does (.migrationCompare j true) s [.acc, .place] fun t =>
      (job t j).engine = m.dest ∧ (job t j).move = none ∧
        (job t j).state = (if (job s j).state = 4 then 2 else (job s j).state) ∧ ∀ k, k ≠ j.val → job t k = job s k) ∧
  (∀ s (j : Fin 1024) m, (job s j).move = some m → moveComputed s j m = true →
    Does (.migrationCompare j false) s [.inForce, .acc, .place] fun t =>
      (job t j).engine = (job s j).engine ∧ (job t j).move = none ∧
        word t Reg.accMigmisCnt [] = word s Reg.accMigmisCnt [] + 1 ∧ word t Reg.accMigmisLast [] = BitVec.ofNat 32 j ∧
        RegsBut [Reg.accMigmisCnt.addr [], Reg.accMigmisLast.addr []] s t) ∧
  (∀ s (e : Fin 64) j, jobsOn s e = [j] → (job s j).engine = e.val → (job s j).state ≠ 5 → (job s j).move = none →
    Does (.engineFault e) s [.inForce, .acc] fun t =>
      job t j = { job s j with state := 5, restart := none } ∧ word t Reg.accFaultCnt [] = word s Reg.accFaultCnt [] + 1 ∧
        word t Reg.accFaultLast [] = BitVec.ofNat 32 j ∧ RegsBut [Reg.accFaultCnt.addr [], Reg.accFaultLast.addr []] s t) ∧
  (∀ s (j : Fin 1024) (e : Fin 64) el b now, now = advance el s → (job now j).state = 5 → (job now j).restart = none →
    mc2Up now = true → faultEngineOf now j = some (e.val, b) → e.val / 8 = (job now j).engine / 8 →
    (job now j).pending = [] →
    DoesFrom now (.jobFaultRestart j e el) s [.acc, .counters, .place] fun t =>
      (job t j).state = 5 ∧ (job t j).restart = some (applyLead now (now.acc.inForce.job j)) ∧ (job t j).engine = e.val ∧
        (job t j).move = none ∧ ∀ k, k ≠ j.val → job t k = job now k) ∧
  (∀ s (j : Fin 1024) el r now, now = advance el s → (job now j).state = 5 → (job now j).restart = some r →
    (job now j).pending = [] → reachedTime now (now.acc.inForce.job j) r = true →
    DoesFrom now (.applySampleReached j el) s [.acc] fun t =>
      job t j = { job now j with state := 2, restart := none } ∧ ∀ k, k ≠ j.val → job t k = job now k) ∧
  (∀ s (j : Fin 1024) el now, now = advance el s → (job now j).state ≠ 0 → stepped now j = true →
    DoesFrom now (.jobStepRestart j el) s [.inForce, .acc] fun t =>
      (job t j).state = (job now j).state ∧ (job t j).engine = (job now j).engine ∧ stepped t j = false ∧
        word t Reg.accStepCnt [] = word now Reg.accStepCnt [] + 1 ∧ word t Reg.accStepLast [] = BitVec.ofNat 32 j ∧
        (∀ u, inRange (subRange (now.acc.inForce.job j)) u = true → (subRun t u).accepted = []) ∧
        RegsBut [Reg.accStepCnt.addr [], Reg.accStepLast.addr []] now t)

/-- Placement (R326, R327, R332, R333): a copied line switches at an apply sample; a queue is allocated, named and journalled,
or the command answers why not; MC2 copies its journal to flash in order, and journals on its return what was decided without
it. -/
def Obligations.PlacementDecides : Prop :=
  (∀ s (i : Fin 16384) el m j now, now = advance el s → now.place.lineMoves = [m] → m.input = i.val → m.switchAt = none →
    (activeJobs now).find? (fun j => inRange (inputRange (now.acc.inForce.job j)) i) = some j →
    reachedTime now (now.acc.inForce.job j) m.a0 = true →
    DoesFrom now (.lineCopyDone i el) s [.acc, .place] fun t =>
      ∃ a, t.place.lineMoves = [{ m with switchAt := some a }] ∧ a % applyUnit (jobRate (now.acc.inForce.job j)) = 0 ∧
        t.acc = { now.acc with lines := t.acc.lines }) ∧
  (∀ s req (p : Fin 96) (c : Fin 8) q, Reaches s req (Reg.placeQCmd.addr []) → Alone s → placeMode s 2 ≠ 0 → mc2Up s = true →
    freeQueue s 5 = some q →
    Does (.placeQAllocate req p c) s [.staged, .inForce, .sched, .place, .freeCtr] fun t =>
      rd t Reg.placeQCmd [] 29 27 = 0 ∧ word t Reg.placeQResult [] = BitVec.ofNat 32 q ∧ fld (queueCfg t q) 255 249 = p.val ∧
        fld (queueCfg t q) 248 246 = c.val ∧ (∀ k, k ≠ q → queueCfg t k = queueCfg s k) ∧
        word t Reg.placeJnlCnt [] = word s Reg.placeJnlCnt [] + 1) ∧
  (∀ s req (p : Fin 96) (c : Fin 8), Reaches s req (Reg.placeQCmd.addr []) → Alone s → placeMode s 2 = 0 →
    Does (.placeQAllocate req p c) s [.staged, .inForce] fun t =>
      rd t Reg.placeQCmd [] 29 27 = 2 ∧ RegsBut [Reg.placeQCmd.addr []] s t) ∧
  (∀ s req (p : Fin 96) (c : Fin 8), Reaches s req (Reg.placeQCmd.addr []) → Alone s → placeMode s 2 ≠ 0 → mc2Up s = true →
    freeQueue s 5 = none →
    Does (.placeQAllocate req p c) s [.staged, .inForce, .place, .freeCtr] fun t =>
      rd t Reg.placeQCmd [] 29 27 = 3 ∧ word t Reg.placeNoroomCnt [] = word s Reg.placeNoroomCnt [] + 1 ∧
        word t Reg.placeNoroomLast [] = BitVec.ofNat 32 (2 * 2 ^ 29 + p)) ∧
  (∀ s, mc2Up s = true → s.place.flashCopied ≠ (word s Reg.placeJnlCnt []).toNat →
    Does .journalFlashCopy s [.place, .img] fun t =>
      t.place = { s.place with flashCopied := (s.place.flashCopied + 1) % 2 ^ 32 } ∧
        t.img = { s.img with flashJournal := s.img.flashJournal ++ [get 0 s.place.journal (s.place.flashCopied % 65536)] }) ∧
  (∀ s, stageDone s 2 = true →
    Does .mc2Resume s [.power, .inForce, .place] fun t =>
      mc2Up t = true ∧ t.place.heldBack = [] ∧
        word t Reg.placeJnlCnt [] = word s Reg.placeJnlCnt [] + BitVec.ofNat 32 s.place.heldBack.length ∧
        RegsBut [Reg.placeJnlCnt.addr []] s t)

/-- Trunk lanes (R338 to R343, R348, Table 12-2): a lane sends its frame with a header whose CRC checks; a header with a good CRC
takes a lane from HUNT to PRESYNC, three more that fit take it to SYNC, a bad one in PRESYNC back to HUNT; in SYNC a bad header
counts towards the seventh. -/
def Obligations.LanesAlign : Prop :=
  (∀ s (n : Fin 48) el g i fc now, now = advance el s → laneGroup now n = g → n.val ∈ groupLanes now g → groupOn now g = true →
    (groupLanes now g).idxOf n.val = i → i ≠ 0 → (izlGroup now g).txQuiet.getLsbD i = false → n.val ∉ now.power.idleLanes →
    (izlLane now n).txFc ≠ nextFrameCnt now g → (nextFrameCnt now g + 65535) % 65536 = fc →
    DoesFrom now (.laneFrameTx n el) s [.izl, .out] fun t =>
      (izlLane t n).txFc = nextFrameCnt now g ∧ (∀ m, m ≠ n.val → izlLane t m = izlLane now m) ∧
        ∃ hdr oh pay, t.out = .laneFrame n fc hdr oh pay :: now.out ∧ hdr.length = 16 ∧
          izlCrc (hdr.take 14) = field hdr 14 2 ∧ oh.length = 48) ∧
  (∀ s (n : Fin 48) el g now, now = advance el s → laneGroup now n = g → n.val ∈ groupLanes now g → groupOn now g = true → (groupLanes now g).idxOf n.val = 0 →
    (izlGroup now g).txQuiet.getLsbD 0 = false → n.val ∉ now.power.idleLanes → (izlGroup now g).txNext = (izlGroup now g).txActive →
    DoesFrom now (.laneFrameTx n el) s [.izl, .out] fun t =>
      (izlLane t n).txFc = ((izlLane now n).txFc + 1) % 65536 ∧
        ∃ hdr oh pay, t.out = .laneFrame n (izlLane now n).txFc hdr oh pay :: now.out) ∧
  (∀ s (n : Fin 48) el h sbip g now, now = advance el s → laneGroup now n = g → g < 16 → n.val ∈ groupLanes now g → groupOn now g = true →
    rdBit now Reg.izlGrpStat [g] 31 = false → rxLane now g 0 = none → laneSync now n = 0 → headerCrc h = true →
    DoesFrom now (.laneHeaderRx n el h sbip) s [.inForce, .izl] fun t =>
      laneSync t n = 1 ∧ rd t Reg.izlLaneStat [n] 27 24 = fld h 111 108 ∧ rd t Reg.izlLaneStat [n] 23 16 = fld h 99 92 ∧
        (izlLane t n).expectFc = (fld h 127 112 + 1) % 65536 ∧ ∀ m : Fin 48, m ≠ n → laneSync t m = laneSync now m) ∧
  (∀ s (n : Fin 48) el h sbip g now, now = advance el s → laneGroup now n = g → n.val ∈ groupLanes now g → groupOn now g = true → laneSync now n = 0 →
    headerCrc h = false → DoesFrom now (.laneHeaderRx n el h sbip) s [] fun _ => True) ∧
  (∀ s (n : Fin 48) el h sbip g now, now = advance el s → laneGroup now n = g → g < 16 → n.val ∈ groupLanes now g → groupOn now g = true →
    rdBit now Reg.izlGrpStat [g] 31 = false → laneSync now n = 1 → headerFits now g n h = true → (izlLane now n).good = 3 →
    DoesFrom now (.laneHeaderRx n el h sbip) s [.inForce, .izl] fun t => laneSync t n = 2) ∧
  (∀ s (n : Fin 48) el h sbip g now, now = advance el s → laneGroup now n = g → g < 16 → n.val ∈ groupLanes now g → groupOn now g = true →
    rdBit now Reg.izlGrpStat [g] 31 = false → rxLane now g 0 = none → laneSync now n = 1 → headerFits now g n h = false →
    DoesFrom now (.laneHeaderRx n el h sbip) s [.inForce, .izl] fun t => laneSync t n = 0) ∧
  (∀ s (n : Fin 48) el h sbip g now, now = advance el s → laneGroup now n = g → n.val ∈ groupLanes now g → groupOn now g = true → laneSync now n = 2 →
    headerFits now g n h = false → (izlLane now n).bad < 6 →
    DoesFrom now (.laneHeaderRx n el h sbip) s [.izl] fun t => (izlLane t n).bad = (izlLane now n).bad + 1)

/-- Group frames and leaves (R344, R349, R350, R352, R354, R356): good path overhead brings the peer's lane sets; a change of the
ACTIVE set takes effect; the third good leaf in LD_PRESYNC gives LD_SYNC and a filler there delivers nothing; a cross link
discards a frame leaf; AIS stands once it is heard. -/
def Obligations.GroupsDelineate : Prop :=
  (∀ s (g : Fin 16) b pbip, groupOn s g = true → (rxLane s g 0).isSome = true → b.length = 48 → izlCrc (b.take 46) = field b 46 2 →
    rdBit s Reg.izlGrpStat [g] 31 = false →
    Does (.groupFrameRx g b pbip) s [.inForce, .izl] fun t =>
      (izlGroup t g).rxActive = BitVec.ofNat 16 (field b 4 2) ∧ (izlGroup t g).rxNext = BitVec.ofNat 16 (field b 6 2) ∧
        (izlGroup t g).rxChange = field b 8 2 ∧ (izlGroup t g).peerOk = BitVec.ofNat 16 (field b 14 2) ∧
        (izlGroup t g).pohBad = 0 ∧ rdBit t Reg.izlGrpStat [g] 26 = bit (byteAt b 13) 7) ∧
  (∀ s (g : Fin 16) b pbip, groupOn s g = true → (rxLane s g 0).isSome = true → b.length ≠ 48 ∨ izlCrc (b.take 46) ≠ field b 46 2 →
    rdBit s Reg.izlGrpStat [g] 31 = false →
    Does (.groupFrameRx g b pbip) s [.inForce, .izl] fun t => (izlGroup t g).pohBad = (izlGroup s g).pohBad + 1) ∧
  (∀ s (g : Fin 16), (izlGroup s g).txNext ≠ (izlGroup s g).txActive → nextFrameCnt s g = (izlGroup s g).txChange →
    Does (.activeSetChange g true) s [.inForce, .izl] fun t =>
      (izlGroup t g).txActive = (izlGroup s g).txNext ∧ rd t Reg.izlGrpMask [g] 31 16 = (izlGroup s g).txNext.toNat ∧
        (izlGroup t g).rxActive = (izlGroup s g).rxActive) ∧
  (∀ s (g : Fin 16), (izlGroup s g).rxNext ≠ (izlGroup s g).rxActive → rdBit s Reg.izlGrpStat [g] 31 = false →
    (rxLane s g 0).any (fun m => (izlLane s m).rxFc == (izlGroup s g).rxChange) = true →
    Does (.activeSetChange g false) s [.inForce, .izl] fun t => (izlGroup t g).rxActive = (izlGroup s g).rxNext) ∧
  (∀ s (g : Fin 16) el b now, now = advance el s → rdBit now Reg.izlGrpStat [g] 31 = true → rd now Reg.izlGrpStat [g] 30 29 = 2 →
    (izlGroup now g).ldWait = false → leafBad b = false → rdBit now Reg.izlGrpStat [g] 27 = false →
    exec (.leafRx g el b) s = done (flowUpdate (deliverLeaf
      (putIzlGroup now g { izlGroup now g with ldBad := 0 }) g b) false)) ∧
  (∀ s (g : Fin 16) el now, now = advance el s → rdBit now Reg.izlGrpStat [g] 31 = true → rd now Reg.izlGrpStat [g] 30 29 = 2 →
    (izlGroup now g).ldWait = false → rdBit now Reg.izlGrpStat [g] 27 = false → inHierarchy now = false →
    DoesFrom now (.leafRx g el (leafHeader 0 0)) s [.izl] fun t =>
      izlGroup t g = { izlGroup now g with ldBad := 0 } ∧ ∀ k, k ≠ g.val → izlGroup t k = izlGroup now k) ∧
  (∀ s (g : Fin 16) el b now, now = advance el s → rdBit now Reg.izlGrpStat [g] 31 = true → rd now Reg.izlGrpStat [g] 30 29 = 1 → leafBad b = false →
    (izlGroup now g).ldGood + 1 < 3 →
    DoesFrom now (.leafRx g el b) s [.izl, .counters] fun t =>
      (izlGroup t g).ldGood = (izlGroup now g).ldGood + 1 ∧
        ctr t Ctr.izl [g] 3 = (ctr now Ctr.izl [g] 3 + 1) % 2 ^ 40) ∧
  (∀ s (g : Fin 16) el b now, now = advance el s → rdBit now Reg.izlGrpStat [g] 31 = true → rd now Reg.izlGrpStat [g] 30 29 = 2 →
    (izlGroup now g).ldWait = false → leafBad b = false → rdBit now Reg.izlGrpStat [g] 27 = false → inHierarchy now = false →
    groupRole now g = 4 → byteAt b 0 / 64 = 0 → byteAt b 0 % 64 * 256 + byteAt b 1 ≠ 0 →
    DoesFrom now (.leafRx g el b) s [.izl, .counters] fun t =>
      ctr t Ctr.izl [g] 3 = (ctr now Ctr.izl [g] 3 + 1) % 2 ^ 40 ∧ CountersBut [Ctr.izl.addr [g] 3] now t) ∧
  (∀ s (g : Fin 16), groupUp s g = true →
    Does (.aisLeafRx g) s [.inForce, .izl] fun t =>
      rdBit t Reg.izlGrpStat [g] 28 = true ∧ (izlGroup t g).aisQuiet = 0 ∧ RegsBut [Reg.izlGrpStat.addr [g]] s t)

/-- The hierarchy (R366 to R373, R347): HELLO leaves on every hierarchy group that is up; a HELLO heard is noted; the manager
binds a number to a joiner and a worker takes the number it is assigned; a FLOW leaf sets its origin's VOQs; a lost upstream
orphans a worker; RELEASE and REJOIN; a JOIN waits while MC3 restarts (R457). -/
def Obligations.HierarchyForms : Prop :=
  (∀ s, hierRole s ≠ 0 → role s ≠ 2 → s.izl.helloAt + tenMs ≤ s.time.dt →
    Does .helloTx s [.izl, .counters] fun t =>
      t.izl.helloAt = s.time.dt ∧ ∀ g < 16, (izlGroup t g).txLeaves =
        if hierGroup s g && groupUp s g then (izlGroup s g).txLeaves ++ controlLeaf (hello s) else (izlGroup s g).txLeaves) ∧
  (∀ s (g : Fin 16) el b now, now = advance el s → Alone now → groupUp now g = true → hierGroup now g = true → byteAt b 0 = 1 →
    32 ≤ b.length →
    ∃ t n, exec (.helloRx g el b) s = .next t ∧ (izlGroup t g).neighbour = some n ∧ n.device = byteAt b 1 ∧
      n.unitId = BitVec.ofNat 64 (field b 4 8) ∧ n.heardAt = now.time.dt ∧
      ctr t Ctr.izl [g] 1 = (ctr now Ctr.izl [g] 1 + 1) % 2 ^ 48) ∧
  (∀ s (g : Fin 16) b n, Alone s → groupUp s g = true → hierGroup s g = true → byteAt b 0 = 2 → 14 ≤ b.length →
    coreDown s 3 = false → byteAt b 2 = ownDevice s → hierRole s = 1 → numberFor s (BitVec.ofNat 64 (field b 4 8)) = n → n ≠ 0xFF →
    Does (.joinRx g b) s [.inForce, .izl, .counters] fun t =>
      (n, BitVec.ofNat 64 (field b 4 8)) ∈ t.izl.bindings ∧ n ∈ t.izl.joined ∧
        (∀ e ∈ s.izl.bindings, e.1 ≠ n → e ∈ t.izl.bindings) ∧
        word t Reg.izlHierEvtCnt [] = word s Reg.izlHierEvtCnt [] + 1) ∧
  (∀ s (g : Fin 16) b, Alone s → groupUp s g = true → hierGroup s g = true → byteAt b 0 = 3 → 14 ≤ b.length →
    coreDown s 3 = false → byteAt b 2 = 0xFF → hierRole s = 2 → g.val = upstream s → field b 4 8 = hierId s → hierState s = 2 → byteAt b 12 ≠ 0xFF →
    Does (.assignRx g b) s [.inForce, .counters] fun t =>
      hierState t = 3 ∧ ownDevice t = byteAt b 12 ∧ upstream t = upstream s ∧
        word t Reg.izlHierEvtCnt [] = word s Reg.izlHierEvtCnt [] + 1) ∧
  (∀ s (g : Fin 16) b, groupUp s g = true → hierGroup s g = true → byteAt b 0 = 4 → 100 ≤ b.length →
    admitted s (byteAt b 1) = true → byteAt b 1 ≠ ownDevice s →
    Does (.flowRx g b) s [.izl, .counters, .sched] fun t =>
      (∀ k < 768, find t.sched.xoff (voqOf s (byteAt b 1) 0 0 + k) =
        if bit (byteAt b (4 + k / 8)) (k % 8) then some s.time.dt else none) ∧
        ∀ q, (q < voqOf s (byteAt b 1) 0 0 ∨ voqOf s (byteAt b 1) 0 0 + 768 ≤ q) → find t.sched.xoff q = find s.sched.xoff q) ∧
  (∀ s, inHierarchy s = true →
    Does .flowRefresh s [.izl, .counters] fun t => t.izl.xoffMap = xoffNow s) ∧
  (∀ s, hierRole s = 2 → upstream s ≠ 15 → hears s (upstream s) = false → bestUpstream s (· != upstream s) = none →
    Does .upstreamLoss s [.inForce, .izl] fun t => upstream t = 15 ∧ hierState t = hierState s) ∧
  (∀ s, hierRole s = 2 → upstream s = 15 → hierState s = 3 → ownDevice s ≠ 0xFF →
    s.izl.lostAt + msTicks 1000 ≤ s.time.dt →
    Does .orphanTimeout s [.inForce] fun t =>
      hierState t = 4 ∧ ownDevice t = ownDevice s ∧ word t Reg.izlHierEvtCnt [] = word s Reg.izlHierEvtCnt [] + 1 ∧
        RegsBut [Reg.izlHierStat.addr [], Reg.izlHierEvtCnt.addr [], Reg.izlHierEvtLast.addr []] s t) ∧
  (∀ s, hierRole s = 2 → upstream s = 15 → hierState s = 2 → ownDevice s = 0xFF →
    s.izl.lostAt + msTicks 1000 ≤ s.time.dt →
    Does .orphanTimeout s [.inForce] fun t => hierState t = 1 ∧ RegsBut [Reg.izlHierStat.addr []] s t) ∧
  (∀ s (d : Fin 128), Reaches s .host (Reg.izlHierCmd.addr []) → Alone s → hierRole s = 1 → isJoined s d = false →
    (∃ u, (d.val, u) ∈ s.izl.bindings) →
    Does (.izlHierRelease d) s [.staged, .inForce, .izl] fun t =>
      t.izl.bindings = s.izl.bindings.filter (·.1 != d.val) ∧ rd t Reg.izlHierCmd [] 27 25 = 0) ∧
  (∀ s (d : Fin 128), Reaches s .host (Reg.izlHierCmd.addr []) → hierRole s ≠ 1 →
    Does (.izlHierRelease d) s [.staged, .inForce] fun t => rd t Reg.izlHierCmd [] 27 25 = 1) ∧
  (∀ s, Reaches s .host (Reg.izlHierCmd.addr []) → hierRole s = 2 → bestUpstream s (fun _ => true) = none →
    Does .izlHierRejoin s [.staged, .inForce] fun t =>
      hierState t = 1 ∧ ownDevice t = ownDevice s ∧ rd t Reg.izlHierCmd [] 27 25 = 0 ∧
        RegsBut [Reg.izlHierCmd.addr [], Reg.izlHierStat.addr []] s t) ∧
  (∀ s req (g : Fin 16) data, Reaches s req (Reg.izlGrpCfg.addr [g]) →
    Does (.izlGrpCfgWrite req g data) s [.staged, .waiting] fun t =>
      stagedWord t Reg.izlGrpCfg [g] = blend 0xFFFFFF00 (stagedWord s Reg.izlGrpCfg [g]) data ∧
        t.regs.waiting = (s.regs.waiting.filter fun e => !(e.addr == Reg.izlGrpCfg.addr [g] && e.kind == 0)) ++
          [⟨Reg.izlGrpCfg.addr [g], 0xFFFFFF00, 0, s.time.dt, req⟩]) ∧
  (∀ s (g : Fin 16) b, groupUp s g = true → hierGroup s g = true → byteAt b 0 = 2 → 14 ≤ b.length → coreDown s 3 = true →
    Does (.joinRx g b) s [.izl, .counters] fun t => t.izl.held = s.izl.held ++ [(g.val, b)] ∧ t.izl.bindings = s.izl.bindings)

/-- Orders and monitoring (R357 to R359, R494, R495): an ORDER is performed once, and its repeat is answered from what was kept;
a reply ends the order it answers; an order that nobody answers is repeated five times; at a quarter hour every bin moves one
place back; and the manager's STAGE, ACTIVATE and ABORT send their order and are busy until it is answered, or are refused
with their RESULT. -/
def Obligations.OrdersAndBins : Prop :=
  (∀ s (g : Fin 16) b, groupUp s g = true → hierGroup s g = true → byteAt b 0 = 5 → 12 ≤ b.length → byteAt b 2 = ownDevice s →
    coreDown s 3 = false → byteAt b 8 < 0x80 → hierRole s = 2 → hierState s = 3 →
    s.izl.answered.find? (fun a => a.1 == byteAt b 1 && a.2.1 == field b 4 4) = none →
    ∃ t reply, exec (.orderRx g b) s = .next t ∧ t.izl.answered.head? = some (byteAt b 1, field b 4 4, reply)) ∧
  (∀ s (g : Fin 16) b a u, groupUp s g = true → hierGroup s g = true → byteAt b 0 = 5 → 12 ≤ b.length →
    byteAt b 2 = ownDevice s → coreDown s 3 = false → byteAt b 8 < 0x80 → hierRole s = 2 → hierState s = 3 →
    s.izl.answered.find? (fun a => a.1 == byteAt b 1 && a.2.1 == field b 4 4) = some a → groupToward s (byteAt b 1) = some u → hierGroup s u = true →
    groupUp s u = true →
    Does (.orderRx g b) s [.izl, .counters] fun t =>
      (izlGroup t u).txLeaves = (izlGroup s u).txLeaves ++ controlLeaf a.2.2 ∧ t.izl.answered = s.izl.answered) ∧
  (∀ s (g : Fin 16) b w, groupUp s g = true → hierGroup s g = true → byteAt b 0 = 5 → 12 ≤ b.length →
    coreDown s 3 = false → byteAt b 2 = ownDevice s → 0x80 ≤ byteAt b 8 → hierRole s = 1 → s.izl.orders = [w] → w.device = byteAt b 1 →
    w.seq = field b 4 4 → byteAt b 9 = 0 → s.img.update = none →
    Does (.orderReplyRx g b) s [.izl, .counters, .inForce] fun t =>
      t.izl.orders = [] ∧ rd t Reg.imgHierCmd [] 24 21 = 0 ∧ rdBit t Reg.imgHierCmd [] 30 = false) ∧
  (∀ s (g : Fin 16) b w, groupUp s g = true → hierGroup s g = true → byteAt b 0 = 5 → 12 ≤ b.length →
    coreDown s 3 = false → byteAt b 2 = ownDevice s → 0x80 ≤ byteAt b 8 → hierRole s = 1 → s.izl.orders = [w] → w.device = byteAt b 1 →
    w.seq = field b 4 4 → byteAt b 9 ≠ 0 →
    Does (.orderReplyRx g b) s [.izl, .counters, .inForce, .img] fun t =>
      t.izl.orders = [] ∧ rd t Reg.imgHierCmd [] 24 21 = 4 ∧ t.img = { s.img with update := none }) ∧
  (∀ s (d : Fin 128) w, s.izl.orders = [w] → w.device = d.val → orderLate s w = true → w.tries < 5 →
    Does (.orderRetry d) s [.izl, .counters] fun t =>
      t.izl.orders = [{ w with tries := w.tries + 1, sentAt := some s.time.dt }]) ∧
  (∀ s (d : Fin 128) w, s.izl.orders = [w] → w.device = d.val → orderLate s w = true → 5 ≤ w.tries →
    Does (.orderRetry d) s [.izl, .inForce, .img] fun t =>
      t.izl = { s.izl with orders := [] } ∧ rd t Reg.imgHierCmd [] 24 21 = 5 ∧ t.img = { s.img with update := none }) ∧
  (∀ s el now, now = advance el s → pmSeconds now ≠ now.izl.pmAt → DoesFrom now (.pmSecond el) s [.izl] fun t =>
    t.izl.tbSuspect = false ∧ t.izl.pmAt = pmSeconds now ∧ (∀ x, pmMonitored now x = false → ∀ b < 64, x < 64 → pmBin t x b = pmBin now x b) ∧
      t.izl.groups = now.izl.groups ∧ t.izl.lanes = now.izl.lanes) ∧
  (∀ s el now, now = closeSecond (advance el s) → pmSeconds now / 900 ≠ now.izl.rollAt →
    DoesFrom now (.pmBinRoll el) s [.izl, .inForce] fun t =>
    t.izl.rollAt = pmSeconds now / 900 ∧ word t Reg.izlPmRollCnt [] = word now Reg.izlPmRollCnt [] + 1 ∧
      (∀ x < 64, ∀ k < 32, pmBin t x (k + 1) = pmBin now x k) ∧ RegsBut [Reg.izlPmRollCnt.addr []] now t) ∧
  (∀ e v n, v < 10 → fld (pmAdd e v n) (pmAt v + 31) (pmAt v) = (heldInt 0 (2 ^ 32 - 1) (fld e (pmAt v + 31) (pmAt v) + n)).toNat) ∧
  (∀ s req x k d, Reaches s req (Reg.imgHierCmd.addr []) → hierRole s = 1 → rdBit s Reg.imgHierCmd [] 30 = false →
    s.img.update = none → fld (stagedWord s Reg.imgHierCmd []) 25 25 = k → fld (stagedWord s Reg.imgHierCmd []) 6 0 = d →
    bundleIn s k = some x → coreDown s 3 = false → s.izl.orders.all (·.sentAt.isSome) = true →
    Does (.hierStage req) s [.staged, .inForce, .img, .izl, .counters] fun t =>
      t.img = { s.img with update := some ⟨d, k, 0, 0⟩ } ∧ rdBit t Reg.imgHierCmd [] 30 = true ∧
        ∃ w, t.izl.orders = s.izl.orders ++ [w] ∧ w.device = d ∧ w.seq = s.izl.orderSeq ∧ w.tries = 0 ∧ w.sentAt = some s.time.dt) ∧
  (∀ s req x k d, Reaches s req (Reg.imgHierCmd.addr []) → hierRole s = 1 → rdBit s Reg.imgHierCmd [] 30 = false →
    s.img.update = none → fld (stagedWord s Reg.imgHierCmd []) 25 25 = k → fld (stagedWord s Reg.imgHierCmd []) 6 0 = d →
    bundleIn s k = some x → windowConflict s d x = none → s.izl.joined.all (fun e => heardHere s e) = true →
    coreDown s 3 = false → s.izl.orders.all (·.sentAt.isSome) = true →
    Does (.hierActivate req) s [.staged, .inForce, .img, .izl, .counters, .freeCtr] fun t =>
      t.img = { s.img with update := some ⟨d, k, 0, 3⟩ } ∧ rdBit t Reg.imgHierCmd [] 30 = true ∧
        ∃ w, t.izl.orders = s.izl.orders ++ [w] ∧ w.device = d ∧ w.tries = 0 ∧ w.sentAt = some s.time.dt) ∧
  (∀ s req x k d e, Reaches s req (Reg.imgHierCmd.addr []) → hierRole s = 1 → rdBit s Reg.imgHierCmd [] 30 = false →
    s.img.update = none → fld (stagedWord s Reg.imgHierCmd []) 25 25 = k → fld (stagedWord s Reg.imgHierCmd []) 6 0 = d →
    bundleIn s k = some x → windowConflict s d x = some e →
    Does (.hierActivate req) s [.staged, .inForce] fun t =>
      rd t Reg.imgHierCmd [] 24 21 = 2 ∧ rd t Reg.imgHierCmd [] 20 14 = e % 128 ∧ rdBit t Reg.imgHierCmd [] 30 = false) ∧
  (∀ s req d, Reaches s req (Reg.imgHierCmd.addr []) → hierRole s = 1 → rdBit s Reg.imgHierCmd [] 30 = false →
    fld (stagedWord s Reg.imgHierCmd []) 6 0 = d →
    coreDown s 3 = false → s.izl.orders.all (·.sentAt.isSome) = true →
    Does (.hierAbort req) s [.staged, .inForce, .izl, .counters] fun t =>
      rdBit t Reg.imgHierCmd [] 30 = true ∧
        ∃ w, t.izl.orders = s.izl.orders ++ [w] ∧ w.device = d ∧ w.tries = 0 ∧ w.sentAt = some s.time.dt) ∧
  (∀ s req, Reaches s req (Reg.imgHierCmd.addr []) → hierRole s ≠ 1 → rdBit s Reg.imgHierCmd [] 30 = false →
    Does (.hierStage req) s [.staged, .inForce] fun t => rd t Reg.imgHierCmd [] 24 21 = 3)

/-- Pairing (R377 to R380, R392, R396): a unit that finds its peer joins it, leads it, or is refused with reason 7; one that
finds none in time leads alone; a lane in service stands in LANES_UP, and with the last one every carried class becomes STALE; a
notification flushes what was learned on the other port of its pair. -/
def Obligations.TwinsPair : Prop :=
  (∀ s p, twinOn s = true → popBit s 22 = true → paired s = false → role s ≠ 1 → role s ≠ 2 → p.role = 1 ∨ primary s = false →
    pairingPasses s p = false →
    Does (.peerFound p) s [.inForce, .twin, .clock] fun t =>
      role t = 3 ∧ substate t = 4 ∧ paired t = false ∧ word t Reg.twinRoleLast [] = 0x70003 ∧
        word t Reg.twinRoleCnt [] = word s Reg.twinRoleCnt [] + 1 ∧
        t.twin = { s.twin with peer := some p, peerRole := p.role, searching := true, missed := 0, take := false, finalDone := false } ∧
        RegsBut ([Reg.twinStat.addr [], Reg.twinRoleCnt.addr [], Reg.twinRoleLast.addr []] ++
          (List.range 4).map fun k => Reg.timeTbStat.addr [k]) s t) ∧
  (∀ s p, twinOn s = true → popBit s 22 = true → paired s = false → role s ≠ 1 → role s ≠ 2 → p.role = 1 ∨ primary s = false →
    pairingPasses s p = true →
    Does (.peerFound p) s [.inForce, .twin, .clock] fun t =>
      role t = 3 ∧ substate t = 1 ∧ paired t = true ∧ t.twin.peer = some p ∧ t.twin.searching = false ∧
        t.twin.syncAt = s.time.dt ∧ t.twin.complete = none ∧ t.twin.incoming = []) ∧
  (∀ s p, twinOn s = true → popBit s 22 = true → paired s = false → role s ≠ 1 → role s ≠ 2 → p.role ≠ 1 → primary s = true →
    Does (.peerFound p) s [.inForce, .twin, .clock, .counters, .out] fun t =>
      role t = 1 ∧ substate t = 0 ∧ paired t = pairingPasses s p ∧ t.twin.peer = some p) ∧
  (∀ s p, twinOn s = true → popBit s 22 = true → role s = 1 → pairingPasses s p = false →
    Does (.peerFound p) s [.inForce, .twin] fun t =>
      role t = 1 ∧ paired t = false ∧ t.twin.peer = some p ∧ RegsBut [Reg.twinStat.addr []] s t) ∧
  (∀ s, twinOn s = true → role s = 0 → s.twin.searching = true → s.twin.searchAt + msTicks 3000 ≤ s.time.dt →
    Does .peerSearchTimeout s [.inForce, .clock, .twin] fun t =>
      role t = 1 ∧ substate t = 0 ∧ word t Reg.twinRoleLast [] = 1 ∧ word t Reg.twinRoleCnt [] = word s Reg.twinRoleCnt [] + 1) ∧
  (∀ s (k : Fin 4), popBit s 22 = true → windowsOpen s = true → offline s = false →
    Does (.twinLaneChange k true) s [.inForce] fun t =>
      rdBit t Reg.twinStat [] (20 + k) = true ∧ RegsBut [Reg.twinStat.addr []] s t) ∧
  (∀ s (k j : Fin 4), popBit s 22 = true → windowsOpen s = true → offline s = false → j ≠ k → rdBit s Reg.twinStat [] (20 + j) = true →
    Does (.twinLaneChange k false) s [.inForce] fun t =>
      rdBit t Reg.twinStat [] (20 + k) = false ∧ RegsBut [Reg.twinStat.addr []] s t) ∧
  (∀ s (k : Fin 4), popBit s 22 = true → windowsOpen s = true → offline s = false → rd s Reg.twinStat [] 23 20 = 2 ^ k.val →
    s.sched.sending = [] → s.sched.queues = [] → paired s = true →
    Does (.twinLaneChange k false) s [.inForce, .twin] fun t =>
      rd t Reg.twinStat [] 23 20 = 0 ∧ (∀ c < 11, stale t c = carriedClass s c) ∧ t.twin.staged = [] ∧
        (role s = 3 → paired t = false ∧ t.twin.searching = true) ∧ RegsBut [Reg.twinStat.addr []] s t) ∧
  (∀ s (p : Fin 80) hb q f, receives s p = true → neighbourPorts s p = [q] →
    f = (⟨true, false, false, q, 0, false, []⟩ : Flush) → ((fdbValid s).filter fun x => flushMatches f x.2) ≠ [] →
    Does (.twinNotificationRx p hb) s [.fdb] fun t =>
      t.fdb = { s.fdb with flushes := s.fdb.flushes ++
        [{ f with todo := ((fdbValid s).filter fun x => flushMatches f x.2).map fun x => entryKey x.2 }] })

/-- Heartbeats (R387, R389, R393): one of the peer counts for its cycle when it comes within 50 µs of the cycle's start; one
with FAIL, or the third cycle without any, makes a unit that stands ready take over; one with TAKE parks the ACTIVE unit; and two
ACTIVE units are noticed. The times are those of Table 13-4. -/
def Obligations.HeartbeatsDecide : Prop :=
  (∀ s el alt (hb : Heartbeat) now, now = advance el s → twinOn now = true → offline now = false → (now.twin.peer.any fun p => p.unitId == hb.unitId) = true → Quiet now →
    hb.fail = false ∨ standsReady now = false → hb.take = false ∨ role now ≠ 1 → hb.role ≠ 1 ∨ role now ≠ 1 →
    DoesFrom now (.heartbeatRx el alt hb) s [.twin, .freeCtr] fun t =>
      t.twin = { now.twin with
        peerRole := hb.role, peerCycle := hb.cycle, altHeard := now.twin.altHeard || alt,
        heard := now.twin.heard || decide (now.time.dt ≤ now.time.cycleStart + 40000),
        missed := if now.time.dt ≤ now.time.cycleStart + 40000 then 0 else now.twin.missed }) ∧
  (∀ s el alt (hb : Heartbeat) now, now = advance el s → twinOn now = true → offline now = false → (now.twin.peer.any fun p => p.unitId == hb.unitId) = true → Quiet now →
    hb.fail = false ∨ standsReady now = false → hb.take = false → hb.role = 1 → role now = 1 →
    DoesFrom now (.heartbeatRx el alt hb) s [.twin, .freeCtr] fun t => t.twin.dual = true ∧ t.twin.peerRole = 1) ∧
  (∀ s el alt (hb : Heartbeat) now, now = advance el s → twinOn now = true → offline now = false → (now.twin.peer.any fun p => p.unitId == hb.unitId) = true → Quiet now →
    hb.fail = true → standsReady now = true → replState now ≠ 3 → Dark now →
    DoesFrom now (.heartbeatRx el alt hb) s [.twin, .freeCtr, .inForce, .counters, .clock] fun t =>
      role t = 1 ∧ substate t = 0 ∧ paired t = false ∧ word t Reg.twinRoleLast [] = 0x20001 ∧
        t.twin.incoming = [] ∧ t.twin.complete = none ∧ t.twin.searching = true ∧
        ctr t Ctr.twin [] 5 = (ctr now Ctr.twin [] 5 + 1) % 2 ^ 40 ∧ CountersBut [Ctr.twin.addr [] 5] now t) ∧
  (∀ s el alt (hb : Heartbeat) now, now = advance el s → twinOn now = true → offline now = false → (now.twin.peer.any fun p => p.unitId == hb.unitId) = true → Quiet now →
    hb.take = true → role now = 1 → replState now ≠ 3 → now.sched.queues = [] →
    DoesFrom now (.heartbeatRx el alt hb) s [.twin, .freeCtr, .inForce, .clock] fun t =>
      role t = 3 ∧ substate t = 1 ∧ word t Reg.twinRoleLast [] = 0x30003 ∧ t.twin.boundary = none) ∧
  (∀ s, paired s = true → s.twin.heard = false → s.twin.judged = false → heartbeatEnd s < s.time.dt → s.twin.missed < 2 →
    Does .heartbeatMissed s [.twin, .counters] fun t =>
      t.twin = { s.twin with missed := s.twin.missed + 1, judged := true } ∧
        ctr t Ctr.twin [] 0 = (ctr s Ctr.twin [] 0 + 1) % 2 ^ 40 ∧ CountersBut [Ctr.twin.addr [] 0] s t) ∧
  (∀ s, paired s = true → s.twin.heard = false → s.twin.judged = false → heartbeatEnd s < s.time.dt → 2 ≤ s.twin.missed → standsReady s = true → replState s ≠ 3 → Dark s →
    Does .heartbeatMissed s [.clock, .twin, .inForce, .counters] fun t =>
      role t = 1 ∧ substate t = 0 ∧ paired t = false ∧ word t Reg.twinRoleLast [] = 0x10001 ∧
        ctr t Ctr.twin [] 0 = (ctr s Ctr.twin [] 0 + 1) % 2 ^ 40 ∧
        ctr t Ctr.twin [] 5 = (ctr s Ctr.twin [] 5 + 1) % 2 ^ 40) ∧
  (∀ s, paired s = true → s.twin.heard = false → s.twin.judged = false → heartbeatEnd s < s.time.dt → 2 ≤ s.twin.missed → role s = 1 →
    Does .heartbeatMissed s [.twin, .inForce, .counters] fun t =>
      role t = 1 ∧ paired t = false ∧ t.twin.searching = true ∧ RegsBut [Reg.twinStat.addr []] s t) ∧
  (∀ s, paired s = true → s.twin.heard = false → s.twin.judged = false → heartbeatEnd s < s.time.dt → 2 ≤ s.twin.missed → role s = 3 → substate s = 4 →
    Does .heartbeatMissed s [.twin, .counters] fun t =>
      role t = 3 ∧ ctr t Ctr.twin [] 0 = (ctr s Ctr.twin [] 0 + 1) % 2 ^ 40)

/-- Carried state (R383, R385, R395): records and whole copies of a cycle wait for its marker; one that is incomplete is not
applied; the copy of a STALE class returns it to its mode; at the end of SYNCING what is complete is put in place. -/
def Obligations.CarriedStateApplies : Prop :=
  (∀ s (k : Fin 11) a ws, paired s = true → role s = 2 ∨ role s = 3 → k.val ≠ 8 → Quiet s → offline s = false →
    Does (.twinStateRx (.mirror k a ws)) s [.twin, .freeCtr] fun t =>
      t.twin = { s.twin with incoming := s.twin.incoming ++ [.mirror k a ws] }) ∧
  (∀ s (k : Fin 11) cells, paired s = true → role s = 2 ∨ role s = 3 → k.val ≠ 8 → Quiet s → offline s = false →
    Does (.twinStateRx (.copy k cells true)) s [.twin, .freeCtr] fun t =>
      t.twin = { s.twin with incoming := s.twin.incoming ++ [.copy k cells true] }) ∧
  (∀ s (k : Fin 11) cells, paired s = true → role s = 2 ∨ role s = 3 → Quiet s → offline s = false →
    Does (.twinStateRx (.copy k cells false)) s [.twin, .counters, .freeCtr] fun t =>
      t.twin = { s.twin with incomplete := true } ∧ ctr t Ctr.twin [] 1 = (ctr s Ctr.twin [] 1 + 1) % 2 ^ 40 ∧
        CountersBut [Ctr.twin.addr [] 1] s t) ∧
  (∀ s c, paired s = true → role s = 2 ∨ role s = 3 → Quiet s → offline s = false → s.twin.incomplete = false → s.twin.complete = none →
    Does (.twinStateRx (.marker c true)) s [.twin, .freeCtr] fun t =>
      t.twin = { s.twin with incoming := [], complete := some ⟨c, s.twin.incoming⟩ }) ∧
  (∀ s c whole, paired s = true → role s = 2 ∨ role s = 3 → Quiet s → offline s = false → whole = false ∨ s.twin.incomplete = true →
    Does (.twinStateRx (.marker c whole)) s [.twin, .freeCtr] fun t =>
      t.twin = { s.twin with incoming := s.twin.incoming.filter isMirror, incomplete := false }) ∧
  (∀ s (k : Fin 11), activePaired s = true → stale s k = true → rd s Reg.twinStat [] 23 20 ≠ 0 → offline s = false →
    Does (.staleCopyDone k) s [.twin, .out] fun t =>
      t.twin = { s.twin with copied := (s.twin.copied.filter (· != k.val)) ++ [k.val] } ∧
        t.out = .twinState (.copy k (classCells s k) true) :: s.out) ∧
  (∀ s (k : Fin 11), activePaired s = true → k.val ∈ s.twin.copied → stale (sendCycle s) k = false) ∧
  (∀ s c, role s = 3 → substate s = 1 → paired s = true → s.twin.complete = some ⟨c, []⟩ → primary s = true →
    Does .syncCopyDone s [.inForce, .twin, .clock] fun t =>
      role t = 3 ∧ substate t = 2 ∧ word t Reg.twinRoleCnt [] = word s Reg.twinRoleCnt [] ∧ t.twin = { s.twin with complete := none, take := false, finalDone := false } ∧
        rd t Reg.twinCommit [] 30 0 = c % 2 ^ 31) ∧
  (∀ s, role s = 3 → substate s = 1 → paired s = true → s.twin.complete = none → primary s = false →
    Does .syncCopyDone s [.inForce, .clock, .twin] fun t =>
      role t = 2 ∧ substate t = 0 ∧ word t Reg.twinRoleLast [] = 0x60002 ∧
        word t Reg.twinRoleCnt [] = word s Reg.twinRoleCnt [] + 1)

/-- TWIN_CMD and the boundary (R385, R389, R390, R394, R395): a SWITCHOVER of a synced pair fixes a boundary LEAD cycles on, and
any other is refused with its RESULT; at the boundary the ACTIVE unit parks and the other leads; TAKEOVER, DECLARE_FAIL and RESYNC
act in their roles alone; the primary reverts by FINAL and a boundary of its own. -/
def Obligations.SwitchoverFollowsCommand : Prop :=
  (∀ s, Reaches s .host (Reg.twinCmd.addr []) → paired s = true → role s = 2 ∨ role s = 1 ∧ s.twin.peerRole = 2 →
    rd s Reg.twinStat [] 10 0 = 0 → s.twin.boundary = none → offline s = false →
    Does .switchover s [.staged, .inForce, .twin, .out] fun t =>
      rd t Reg.twinCmd [] 27 25 = 0 ∧ t.out = .twinBoundary ((cycleCount s + rd s Reg.twinCfg [] 22 17) % 2 ^ 31) false :: s.out ∧ RegsBut [Reg.twinCmd.addr []] s t ∧
        t.twin = { s.twin with boundary := some ((cycleCount s + rd s Reg.twinCfg [] 22 17) % 2 ^ 31), reverting := false }) ∧
  (∀ s, Reaches s .host (Reg.twinCmd.addr []) → role s = 0 ∨ role s = 1 ∧ paired s = false →
    Does .switchover s [.staged, .inForce] fun t => rd t Reg.twinCmd [] 27 25 = 1 ∧ RegsBut [Reg.twinCmd.addr []] s t) ∧
  (∀ s, Reaches s .host (Reg.twinCmd.addr []) → role s = 3 ∨ role s = 2 ∧ paired s = false ∨
    (role s = 1 ∨ role s = 2) ∧ paired s = true ∧ rd s Reg.twinStat [] 10 0 ≠ 0 ∨
    role s = 1 ∧ paired s = true ∧ s.twin.peerRole ≠ 2 →
    Does .switchover s [.staged, .inForce] fun t => rd t Reg.twinCmd [] 27 25 = 2 ∧ RegsBut [Reg.twinCmd.addr []] s t) ∧
  (∀ s, Reaches s .host (Reg.twinCmd.addr []) → paired s = true → role s = 2 ∨ role s = 1 ∧ s.twin.peerRole = 2 →
    rd s Reg.twinStat [] 10 0 = 0 → s.twin.boundary ≠ none →
    Does .switchover s [.staged, .inForce] fun t => rd t Reg.twinCmd [] 27 25 = 3 ∧ RegsBut [Reg.twinCmd.addr []] s t) ∧
  (∀ s, Reaches s .host (Reg.twinCmd.addr []) → role s = 2 ∨ role s = 3 → replState s ≠ 3 → Dark s → paired s = false →
    rd s Reg.twinStat [] 23 20 = 0 → rdBit s Reg.twinCfg [] 30 = false →
    Does .twinCmdTakeover s [.staged, .inForce, .counters, .twin, .clock] fun t =>
      role t = 1 ∧ substate t = 0 ∧ rd t Reg.twinCmd [] 27 25 = 0 ∧ t.twin.take = true ∧ t.twin.complete = none ∧
        word t Reg.twinRoleLast [] = 0x30001 ∧ ctr t Ctr.twin [] 5 = (ctr s Ctr.twin [] 5 + 1) % 2 ^ 40) ∧
  (∀ s, Reaches s .host (Reg.twinCmd.addr []) → role s = 0 ∨ role s = 1 →
    Does .twinCmdTakeover s [.staged, .inForce] fun t => rd t Reg.twinCmd [] 27 25 = 1 ∧ RegsBut [Reg.twinCmd.addr []] s t) ∧
  (∀ s, Reaches s .host (Reg.twinCmd.addr []) → role s = 1 → paired s = false → (∀ p < 48, portGroup s p = none) →
    (∀ p, Calm s p) → (∀ p < 80, rdBit s Reg.pipePortCfg [pipeOf s p, p] 31 = false) →
    ∃ t, exec .declareFail s = .next t ∧ rd t Reg.twinCmd [] 27 25 = 0 ∧ t.twin = { s.twin with failSent := true } ∧
      ∀ p < 80, linkUp t p = false) ∧
  (∀ s, Reaches s .host (Reg.twinCmd.addr []) → role s ≠ 1 →
    Does .declareFail s [.staged, .inForce] fun t => rd t Reg.twinCmd [] 27 25 = 1 ∧ RegsBut [Reg.twinCmd.addr []] s t) ∧
  (∀ s (k : Fin 11), Reaches s .host (Reg.twinCmd.addr []) → role s = 1 → carriedClass s k = true →
    Does (.resync k) s [.staged, .inForce, .twin] fun t =>
      rd t Reg.twinCmd [] 27 25 = 0 ∧ stale t k = true ∧ (∀ j < 11, j ≠ k.val → stale t j = stale s j) ∧
        t.twin = { s.twin with staged := set 0 s.twin.staged k 0, copied := s.twin.copied.filter (· != k.val) }) ∧
  (∀ s (k : Fin 11), Reaches s .host (Reg.twinCmd.addr []) → role s ≠ 1 →
    Does (.resync k) s [.staged, .inForce] fun t => rd t Reg.twinCmd [] 27 25 = 1 ∧ RegsBut [Reg.twinCmd.addr []] s t) ∧
  (∀ s, paired s = true → role s = 1 → s.sched.queues = [] → s.twin.boundary.any (· != cycleCount s) = false →
    Does .switchoverBoundary s [.inForce, .twin, .clock] fun t =>
      role t = 3 ∧ substate t = 1 ∧ t.twin.boundary = none ∧ word t Reg.twinRoleCnt [] = word s Reg.twinRoleCnt [] + 1 ∧
        word t Reg.twinRoleLast [] = if s.twin.reverting ∨ s.twin.peerRole = 3 then 0x40003 else 0x30003) ∧
  (∀ s, paired s = true → role s = 2 ∨ role s = 3 ∧ substate s = 3 → s.twin.boundary.any (· != cycleCount s) = false →
    Does .switchoverBoundary s [.inForce, .twin, .clock, .counters, .out] fun t =>
      role t = 1 ∧ substate t = 0 ∧ t.twin.boundary = none ∧
        word t Reg.twinRoleLast [] = if s.twin.reverting ∨ s.twin.peerRole = 3 then 0x40001 else 0x30001) ∧
  (∀ s, role s = 3 → substate s = 2 → rd s Reg.twinStat [] 10 0 = 0 → wtrLeft s = 0 →
    Does .wtrExpiry s [.inForce, .clock, .twin] fun t =>
      role t = 3 ∧ substate t = 3 ∧ word t Reg.twinRoleCnt [] = word s Reg.twinRoleCnt []) ∧
  (∀ s, activePaired s = true → s.twin.peerRole = 3 → rd s Reg.twinStat [] 10 0 = 0 → offline s = false →
    Does .wtrExpiry s [.out] fun t =>
      ∀ k : Fin 11, carriedClass s k = true → .twinState (.copy k (classCells s k) true) ∈ t.out) ∧
  (∀ s, role s = 3 → substate s = 3 → s.twin.finalDone = true → offline s = false → s.twin.boundary = none → (∀ k < 4, followsTwin s k = true → tbState s k = 2) →
    Does .revertReady s [.twin, .out] fun t =>
      t.out = .twinBoundary ((cycleCount s + rd s Reg.twinCfg [] 22 17) % 2 ^ 31) true :: s.out ∧ t.twin = { s.twin with boundary := some ((cycleCount s + rd s Reg.twinCfg [] 22 17) % 2 ^ 31), reverting := true })

/-- Ring pairs (R398, R400 to R403, Table 13-7): OPEN on a pair that is READY opens its switches, behind a sequence in progress
it waits, and otherwise it is ignored; both links make the pair OPEN and the time limit makes it FAILED; FORCE closes it; and MC0
opens the pairs of stage 10, or fails one that is not READY in time. -/
def Obligations.RingPairsOpen : Prop :=
  (∀ s (r : Fin 4), Reaches s .host (Reg.twinRingCtrl.addr [r]) → ringReady s r = true → ringState s r = 0 ∨ ringState s r = 3 →
    ringBusy s = false → (s.twin.pairs.getD r ⟨true⟩).closed = true →
    Does (.ringOpen r) s [.inForce, .twin, .out] fun t =>
      ringState t r = 1 ∧ t.twin = { s.twin with pairs := s.twin.pairs.set r ⟨false⟩, ringAt := s.twin.ringAt.set r s.time.dt } ∧ t.out = .bypass r false :: s.out ∧
        word t Reg.twinRingCnt [] = word s Reg.twinRingCnt [] + 1 ∧ word t Reg.twinRingLast [] = BitVec.ofNat 32 (r * 2 ^ 16 + 1) ∧
        RegsBut [Reg.twinRingStat.addr [r], Reg.twinRingCnt.addr [], Reg.twinRingLast.addr []] s t) ∧
  (∀ s (r : Fin 4), Reaches s .host (Reg.twinRingCtrl.addr [r]) → ringReady s r = true → ringState s r = 0 ∨ ringState s r = 3 →
    ringBusy s = true → s.twin.openQueue.contains r.val = false →
    Does (.ringOpen r) s [.twin] fun t => t.twin = { s.twin with openQueue := s.twin.openQueue ++ [r.val] }) ∧
  (∀ s (r : Fin 4), Reaches s .host (Reg.twinRingCtrl.addr [r]) → ringReady s r = false ∨ ringState s r ≠ 0 ∧ ringState s r ≠ 3 →
    Does (.ringOpen r) s [] fun _ => True) ∧
  (∀ s (r : Fin 4), ringTurn s r = true → ringReady s r = true → ringState s r = 0 ∨ ringState s r = 3 → ringBusy s = false →
    coreDown s 0 = false → (s.twin.pairs.getD r ⟨true⟩).closed = true →
    Does (.ringAutoOpen r) s [.inForce, .twin, .out] fun t =>
      ringState t r = 1 ∧ t.out = .bypass r false :: s.out ∧ t.twin = { s.twin with
        pairs := s.twin.pairs.set r ⟨false⟩, reopen := s.twin.reopen.filter (· != r.val), ringWait := t.twin.ringWait,
        ringAt := t.twin.ringAt }) ∧
  (∀ s (r : Fin 4), ringStage s = true → ringTurn s r = true → ringReady s r = false → ringPast s r = true → s.twin.openQueue = [] →
    (s.twin.pairs.getD r ⟨true⟩).closed = true →
    Does (.ringReadyTimeout r) s [.inForce, .counters, .twin] fun t =>
      ringState t r = 3 ∧ rdBit t Reg.glbReadyInfo [] 26 = true ∧
        ctr t Ctr.twin [] 7 = (ctr s Ctr.twin [] 7 + 1) % 2 ^ 40 ∧ CountersBut [Ctr.twin.addr [] 7] s t ∧
        t.twin = { s.twin with reopen := s.twin.reopen.filter (· != r.val), ringWait := t.twin.ringWait, ringAt := t.twin.ringAt }) ∧
  (∀ s (r : Fin 4), ringState s r = 1 → (∀ n ∈ ringLanes r, linkUp s n = true) → s.twin.openQueue = [] →
    Does (.ringLinksUp r) s [.inForce, .twin] fun t =>
      ringState t r = 2 ∧ t.twin = { s.twin with ringWait := t.twin.ringWait, ringAt := t.twin.ringAt } ∧ word t Reg.twinRingCnt [] = word s Reg.twinRingCnt [] + 1 ∧
        word t Reg.twinRingLast [] = BitVec.ofNat 32 (r * 2 ^ 16 + 2) ∧
        RegsBut [Reg.twinRingStat.addr [r], Reg.twinRingCnt.addr [], Reg.twinRingLast.addr []] s t) ∧
  (∀ s (r : Fin 4), ringState s r = 1 → ringPast s r = true → (s.twin.pairs.getD r ⟨true⟩).closed = false → s.twin.openQueue = [] →
    (∀ n ∈ ringLanes r, portGroup s n = none ∧ linkUp s n = false) →
    Does (.ringOpenTimeout r) s [.inForce, .counters, .ports, .twin, .out] fun t =>
      ringState t r = 3 ∧ t.twin = { s.twin with
        pairs := s.twin.pairs.set r ⟨true⟩, reopen := s.twin.reopen.filter (· != r.val), ringWait := t.twin.ringWait,
        ringAt := t.twin.ringAt } ∧ t.out = .bypass r true :: s.out ∧
        ctr t Ctr.twin [] 7 = (ctr s Ctr.twin [] 7 + 1) % 2 ^ 40 ∧ CountersBut [Ctr.twin.addr [] 7] s t) ∧
  (∀ s req (r : Fin 4), Reaches s req (Reg.twinRingCtrl.addr [r]) → rdBit s Reg.twinRingCtrl [r] 1 = false →
    flag (stagedWord s Reg.twinRingCtrl [r]) 31 = false → (s.twin.pairs.getD r ⟨true⟩).closed = true → s.twin.openQueue = [] →
    Does (.ringForceWrite req r true) s [.staged, .inForce] fun t =>
      rdBit t Reg.twinRingCtrl [r] 1 = true ∧ ringState t r = 4) ∧
  (∀ s req (r : Fin 4), Reaches s req (Reg.twinRingCtrl.addr [r]) → rdBit s Reg.twinRingCtrl [r] 1 = true →
    flag (stagedWord s Reg.twinRingCtrl [r]) 31 = false → ringEnabled s r = true →
    Does (.ringForceWrite req r false) s [.staged, .inForce] fun t =>
      rdBit t Reg.twinRingCtrl [r] 1 = false ∧ ringState t r = 0)

/-- The endpoint and its rings (R439, R440, R443, R446, R449): a reset of the endpoint turns every ring off and masks every
vector; a ring's tail moves where the count it posts fits the ring; EN begins and ends its STATE. -/
def Obligations.RingsAreGoverned : Prop :=
  (∀ s el now, now = advance el s → now.sched.queues = [] → now.host.rxWait = [] → now.host.tdma = none → (∀ w < 2, word now Reg.fdbLockHost [w] = 0) →
    DoesFrom now (.endpointReset el) s [.staged, .inForce, .fabric, .masks, .host] fun t =>
      hostUp t = false ∧ (∀ tx, ∀ r < 64, ringOn t tx r = false ∧ ringMode t tx r = 0) ∧
        t.host = { now.host with busMaster := false, txPending := [] } ∧ rdBit t Reg.glbMsHold [] 0 = false ∧
        t.irq.masked = BitVec.allOnes 64 ∧ t.irq.msixEnable = false ∧ t.irq.functionMask = false ∧ t.irq.msixTable = []) ∧
  (∀ s d0 oor bm, hostUp s = false ∨ (d0 && oor && bm) = true ∨ s.sched.queues = [] →
    Does (.hostPortStateChange d0 oor bm) s [.host] fun t =>
      t.host = { s.host with d0 := d0, outOfReset := oor, busMaster := bm }) ∧
  (∀ s req tx (r : Fin 64) data, Reaches s req ((ringTailReg tx).addr (ringIx s r)) →
    (fld data 15 0 + 65536 - ringHead s tx r) % 65536 ≤ ringSize s tx r →
    Does (.hostRingTailWrite req tx r data) s [.staged, .inForce] fun t =>
      rd t (ringTailReg tx) (ringIx s r) 15 0 = fld data 15 0 ∧ RegsBut [(ringTailReg tx).addr (ringIx s r)] s t) ∧
  (∀ s req tx (r : Fin 64) data, Reaches s req ((ringTailReg tx).addr (ringIx s r)) →
    ringSize s tx r < (fld data 15 0 + 65536 - ringHead s tx r) % 65536 →
    Does (.hostRingTailWrite req tx r data) s [.staged] fun t =>
      fld (stagedWord t (ringTailReg tx) (ringIx s r)) 15 0 = fld data 15 0) ∧
  (∀ s req tx (r : Fin 64) data, Reaches s req ((ringCfgReg tx).addr (ringIx s r)) → ringOn s tx r = false →
    Does (.hostRingEnable req tx r data) s [.staged, .inForce] fun t =>
      ringOn t tx r = true ∧ ringMode t tx r = 1 ∧ rd t (ringStatReg tx) (ringIx s r) 18 16 = 0 ∧
        rd t (ringCfgReg tx) (ringIx s r) 23 20 = max 6 (min 13 (fld data 23 20)) ∧
        RegsBut [(ringCfgReg tx).addr (ringIx s r), (ringBaseLo tx).addr (ringIx s r), (ringBaseHi tx).addr (ringIx s r),
          (ringStatReg tx).addr (ringIx s r)] s t) ∧
  (∀ s req (r : Fin 64) data, Reaches s req (Reg.hostTxCfg.addr (ringIx s r)) → ringOn s true r = true →
    Does (.hostRingDisable req true r data) s [.staged, .inForce] fun t =>
      ringOn t true r = false ∧ ringMode t true r = 0) ∧
  (∀ s req (r : Fin 64) data, Reaches s req (Reg.hostRxCfg.addr (ringIx s r)) → ringOn s false r = true → rxWaits s r = [] →
    Does (.hostRingDisable req false r data) s [.staged, .inForce, .host] fun t =>
      ringOn t false r = false ∧ ringMode t false r = 0 ∧ rxWaits t r = [])

/-- Frames through the rings (R445 to R449, Tables 15-2 and 15-3): the head frame of a receive ring goes to its buffers and its
descriptors, HEAD and DONE_CNT advance, and its HRX buffer returns; one that has waited HOST_RX_WAIT is discarded; a chain that
is fetched waits for its buffer, or stands with the STATUS of its fault; a frame that has left completes its descriptors. Each is a
DMA request that takes an operation tag, and waits while all are in use (R19). -/
def Obligations.FramesPassTheRings : Prop :=
  (∀ s (r : Fin 64) el bufs w rest n now, now = advance el s → now.bpm.tagsInUse < tagLimit → hostUp now = true → ringOn now false r = true → rxWaits now r = w :: rest →
    w.spoiled = false → rxNeeds now r w.bytes.length = n → n ≤ rxAvailable now r → bufs.length = n →
    DoesFrom now (.rxFrameDeliver r el bufs) s [.inForce, .out, .host, .counters, .bpm] fun t =>
      rxWaits t r = rest ∧ (∀ q, q ≠ r.val → rxWaits t q = rxWaits now q) ∧
        ringHead t false r = (ringHead now false r + n) % 65536 ∧
        word t Reg.hostRxDoneCnt (ringIx now r) = word now Reg.hostRxDoneCnt (ringIx now r) + 1 ∧
        ctr t Ctr.hostRx (ringIx now r) 0 = (ctr now Ctr.hostRx (ringIx now r) 0 + 1) % 2 ^ 48 ∧
        CountersBut [Ctr.hostRx.addr (ringIx now r) 0] now t ∧ t.out.length = now.out.length + 2 * n ∧
        (0 < n → t.out.head? = some (.hostWrite (descAddr now false r (ringHead now false r)) (lowBytes 32
          (rxDesc w 0 n (bufs.getD 0 0) (w.bytes.take (max 1 (rd now Reg.hostRxCfg (ringIx now r) 6 0) * 256)).length
            (rd now Reg.hostRxCfg (ringIx now r) 26 24))))) ∧
        RegsBut [Reg.hostRxStat.addr (ringIx now r), Reg.hostRxDoneCnt.addr (ringIx now r)] now t) ∧
  (∀ s (r : Fin 64) i el w now, now = advance el s → (rxWaits now r)[i]? = some w → w.joinedAt + w.wait * 800 ≤ now.time.dt →
    DoesFrom now (.rxTimeout r i el) s [.host, .counters, .bpm] fun t =>
      rxWaits t r = (rxWaits now r).eraseIdx i ∧
        ctr t Ctr.hostRx (ringIx now r) 1 = (ctr now Ctr.hostRx (ringIx now r) 1 + 1) % 2 ^ 40 ∧
        CountersBut [Ctr.hostRx.addr (ringIx now r) 1] now t) ∧
  (∀ s (r : Fin 64) el chain now, now = advance el s → now.bpm.tagsInUse < tagLimit → hostUp now = true → forwards now = true → ringMode now true r = 1 → chain ≠ [] →
    chain.length ≤ txPosted now r → chainStatus chain = 0 → Quiet now →
    DoesFrom now (.txFrameFetch r el chain) s [.host, .bpm] fun t =>
      txWaits t r = txWaits now r ++ [⟨chain.length, none, 0, chain.getLast?.any (·.tsReq), none, padTo 60 (chainBytes chain),
        (chain.head?.filter (·.direct)).map fun d => (d.port, d.cls % 8)⟩] ∧
        (⟨2, 0, .hostTx r⟩ : DramReq) ∈ t.bpm.dramReqs) ∧
  (∀ s (r : Fin 64) el chain now, now = advance el s → now.bpm.tagsInUse < tagLimit → hostUp now = true → forwards now = true → ringMode now true r = 1 → chain ≠ [] →
    chain.length ≤ txPosted now r → chainStatus chain = 1 ∨ chainStatus chain = 4 → Quiet now →
    DoesFrom now (.txFrameFetch r el chain) s [.host, .counters, .bpm] fun t =>
      t.bpm = { now.bpm with tagsInUse := now.bpm.tagsInUse + 1 } ∧ ((txWaits t r).getLast?.map (·.status)) = some (chainStatus chain) ∧
        ctr t Ctr.hostTx (ringIx now r) 1 = (ctr now Ctr.hostTx (ringIx now r) 1 + 1) % 2 ^ 40 ∧
        CountersBut [Ctr.hostTx.addr (ringIx now r) 1] now t) ∧
  (∀ s (r : Fin 64) el chain now, now = advance el s → now.bpm.tagsInUse < tagLimit → hostUp now = true → forwards now = true → ringMode now true r = 1 → chain ≠ [] →
    chain.length ≤ txPosted now r → chainStatus chain = 2 ∨ chainStatus chain = 3 → Quiet now →
    DoesFrom now (.txFrameFetch r el chain) s [.host, .counters, .inForce, .bpm] fun t =>
      t.bpm = { now.bpm with tagsInUse := now.bpm.tagsInUse + 1 } ∧
      ringMode t true r = 2 ∧ rd t Reg.hostTxStat (ringIx now r) 18 16 = chainStatus chain ∧
        ((txWaits t r).getLast?.map (·.status)) = some (chainStatus chain) ∧
        RegsBut [Reg.hostTxStat.addr (ringIx now r)] now t) ∧
  (∀ s (r : Fin 64) x rest st z, s.bpm.tagsInUse < tagLimit → hostUp s = true → txWaits s r = x :: rest → txOutcome s x = some (st, z) →
    Does (.txCompletion r) s [.out, .host, .inForce, .counters, .bpm] fun t =>
      t.bpm = { s.bpm with tagsInUse := s.bpm.tagsInUse + 1 } ∧
      txWaits t r = rest ∧ ringHead t true r = (ringHead s true r + x.descs) % 65536 ∧
        word t Reg.hostTxDoneCnt (ringIx s r) = word s Reg.hostTxDoneCnt (ringIx s r) + 1 ∧
        t.out = (List.range x.descs).map (fun i => Output.hostWrite (descAddr s true r (ringHead s true r + i))
          (txDone st (rd s Reg.hostTxCfg (ringIx s r) 26 24) z)) ++ s.out ∧
        ctr t Ctr.hostTx (ringIx s r) 0 =
          (if st = 0 ∨ st = 5 then (ctr s Ctr.hostTx (ringIx s r) 0 + 1) % 2 ^ 48 else ctr s Ctr.hostTx (ringIx s r) 0) ∧
        CountersBut [Ctr.hostTx.addr (ringIx s r) 0] s t ∧
        RegsBut [Reg.hostTxStat.addr (ringIx s r), Reg.hostTxDoneCnt.addr (ringIx s r)] s t) ∧
  (∀ s (r : Fin 64) el bufs now, now = advance el s → tagLimit ≤ now.bpm.tagsInUse → DoesFrom now (.rxFrameDeliver r el bufs) s [] fun _ => True) ∧
  (∀ s (r : Fin 64) el chain now, now = advance el s → tagLimit ≤ now.bpm.tagsInUse →
    DoesFrom now (.txFrameFetch r el chain) s [] fun _ => True) ∧
  (∀ s (r : Fin 64), tagLimit ≤ s.bpm.tagsInUse → Does (.txCompletion r) s [] fun _ => True) ∧
  (∀ s (r : Fin 64) el bufs w rest now, now = advance el s → now.bpm.tagsInUse < tagLimit → hostUp now = true →
    ringOn now false r = true → rxWaits now r = w :: rest → w.spoiled = true → rxNeeds now r w.bytes.length = bufs.length →
    bufs.length ≤ rxAvailable now r →
    DoesFrom now (.rxFrameDeliver r el bufs) s [.host, .bpm] fun t => rxWaits t r = rest)

/-- Table DMA (R453 to R455): GO starts a transfer that R453 allows and is otherwise refused with its RESULT; the entries that are
read go to host memory; an error ends the transfer with RESULT 6 and the bytes moved before it. -/
def Obligations.TablesMoveByDma : Prop :=
  (∀ s req data, Reaches s req (Reg.glbTdmaCtrl.addr []) → rdBit s Reg.glbTdmaCtrl [] 30 = true →
    Does (.tableDmaGo req data) s [.staged, .inForce] fun t =>
      rd t Reg.glbTdmaCtrl [] 26 24 = 1 ∧ rdBit t Reg.glbTdmaCtrl [] 30 = true ∧ RegsBut [Reg.glbTdmaCtrl.addr []] s t) ∧
  (∀ s req data st, Reaches s req (Reg.glbTdmaCtrl.addr []) → rdBit s Reg.glbTdmaCtrl [] 30 = false →
    dmaCheck s (rd s Reg.glbTdmaWin [] 31 0) (rd s Reg.glbTdmaLen [] 16 0) (flag data 29) = st → st ≠ 0 →
    Does (.tableDmaGo req data) s [.staged, .inForce] fun t =>
      rd t Reg.glbTdmaCtrl [] 26 24 = st ∧ rdBit t Reg.glbTdmaCtrl [] 30 = false ∧ RegsBut [Reg.glbTdmaCtrl.addr []] s t) ∧
  (∀ s req data, Reaches s req (Reg.glbTdmaCtrl.addr []) → rdBit s Reg.glbTdmaCtrl [] 30 = false →
    dmaCheck s (rd s Reg.glbTdmaWin [] 31 0) (rd s Reg.glbTdmaLen [] 16 0) (flag data 29) = 0 →
    Does (.tableDmaGo req data) s [.staged, .inForce, .host, .bpm] fun t =>
      rd t Reg.glbTdmaCtrl [] 26 24 = 0 ∧ rdBit t Reg.glbTdmaCtrl [] 30 = true ∧ rd t Reg.glbTdmaCtrl [] 16 0 = 0 ∧
        t.host = { s.host with tdma := some ⟨rd s Reg.glbTdmaWin [] 31 0, rd s Reg.glbTdmaLen [] 16 0, flag data 29,
          BitVec.ofNat 64 (rd s Reg.glbTdmaHaddrHi [] 31 0 * 2 ^ 32 + rd s Reg.glbTdmaHaddrLo [] 31 0), none, []⟩ } ∧
        (⟨5, 0, .tableDma⟩ : DramReq) ∈ t.bpm.dramReqs) ∧
  (∀ s d i (tb : Table) e hostData k, s.bpm.tagsInUse < tagLimit → s.host.tdma = some d → d.buf = some i → dmaTable d.win d.len = some (tb, e) →
    0 < d.len / (shapeOf tb).2.1 → k < (shapeOf tb).2.1 → Quiet s →
    Does (.tableDmaDone hostData (some k)) s [.inForce, .host, .bpm] fun t =>
      t.host = { s.host with tdma := none } ∧ findBuf t 5 i = none ∧ rdBit t Reg.glbTdmaCtrl [] 30 = false ∧
        rd t Reg.glbTdmaCtrl [] 26 24 = 6 ∧ rd t Reg.glbTdmaCtrl [] 16 0 = 0) ∧
  (∀ s d i (tb : Table) e hostData, s.bpm.tagsInUse < tagLimit → s.host.tdma = some d → d.buf = some i → dmaTable d.win d.len = some (tb, e) →
    d.toTable = false → d.len = (shapeOf tb).2.1 →
    Does (.tableDmaDone hostData none) s [.inForce, .host, .bpm, .out] fun t =>
      t.host = { s.host with tdma := none } ∧ rdBit t Reg.glbTdmaCtrl [] 30 = false ∧ rd t Reg.glbTdmaCtrl [] 26 24 = 0 ∧
        rd t Reg.glbTdmaCtrl [] 16 0 = d.len % 2 ^ 17 ∧
        t.out = .hostWrite d.haddr ((List.range (d.len / 4)).flatMap fun w => lowBytes 4 (tableWord s tb e w).toNat) :: s.out ∧
        RegsBut [Reg.glbTdmaCtrl.addr []] s t)

/-- Region replacement (R49 to R53, Tables 2-11 and 2-12): each operation acts in its state alone; at the switch boundary the
regions switch together, or the replacement is refused where a queue whose use changes is not idle; a STANDBY checks the container
by itself and waits for the boundary. -/
def Obligations.RegionsReplace : Prop :=
  (∀ s req c, Reaches s req (Reg.imgSiReplCtrl.addr []) → replState s = 1 → readPartial s (stagedBytes s) = .error c →
    updStep s ≠ 3 →
    Does (.replVerify req) s [.inForce, .img] fun t =>
      replState t = 5 ∧ rd t Reg.imgSiReplStat [] 15 8 = c % 256 ∧
        word t Reg.imgSiRefuseCnt [] = word s Reg.imgSiRefuseCnt [] + 1 ∧ t.img = { s.img with
          repl := ⟨none, [], none⟩, staging := { Staging.free with bundle := s.img.staging.bundle } }) ∧
  (∀ s req x ids, Reaches s req (Reg.imgSiReplCtrl.addr []) → replState s = 1 → readPartial s (stagedBytes s) = .ok (x, ids) →
    Does (.replVerify req) s [.inForce, .img, .out] fun t =>
      t.out = (if role s = 1 ∧ paired s = true ∧ offline s = false then .twinContainer (stagedBytes s) :: s.out else s.out) ∧
      replState t = 2 ∧ stageState t = 3 ∧ t.img = { s.img with repl := ⟨some x, ids, none⟩ } ∧
        RegsBut [Reg.imgSiReplStat.addr [], Reg.imgStageStat.addr []] s t) ∧
  (∀ s req, Reaches s req (Reg.imgSiReplCtrl.addr []) → replState s ≠ 1 → Does (.replVerify req) s [] fun _ => True) ∧
  (∀ s req, Reaches s req (Reg.imgSiReplCtrl.addr []) → replState s = 2 →
    Does (.replArm req) s [.inForce, .img] fun t =>
      replState t = 3 ∧ RegsBut [Reg.imgSiReplStat.addr []] s t ∧ t.img = { s.img with repl := { s.img.repl with
        switchAt := some ((cycleCount s + rd s Reg.imgSiReplLead [] 9 0) % 2 ^ 31) } }) ∧
  (∀ s req, Reaches s req (Reg.imgSiReplCtrl.addr []) → replState s ≠ 2 → Does (.replArm req) s [] fun _ => True) ∧
  (∀ s req, Reaches s req (Reg.imgSiReplCtrl.addr []) → replState s = 2 ∨ replState s = 3 → updStep s ≠ 3 →
    Does (.replAbort req) s [.inForce, .img] fun t =>
      replState t = 6 ∧ rd t Reg.imgSiReplStat [] 15 8 = 0 ∧ t.img.repl = ⟨none, [], none⟩ ∧ t.img.staging.holder = none) ∧
  (∀ s req, Reaches s req (Reg.imgSiReplCtrl.addr []) → replState s = 4 ∨ replState s = 5 ∨ replState s = 6 →
    Does (.replAck req) s [.inForce] fun t => replState t = 0 ∧ RegsBut [Reg.imgSiReplStat.addr []] s t) ∧
  (∀ s x, s.img.repl.container = some x → switchDue s = true → queuesFree s x = true → ballsFree s x = true →
    paired s = false → updStep s ≠ 3 →
    Does .replSwitch s [.inForce, .img, .image] fun t =>
      t.image = x ∧ word t Reg.imgSiRun [] = x.ver ∧ replState t = 4 ∧ t.img.repl = ⟨none, [], none⟩) ∧
  (∀ s x, s.img.repl.container = some x → switchDue s = true → queuesFree s x = false → s.img.activation = none → updStep s ≠ 3 →
    Does .replSwitch s [.inForce, .img] fun t =>
      replState t = 5 ∧ rd t Reg.imgSiReplStat [] 15 8 = 0x0B ∧
        word t Reg.imgSiRefuseCnt [] = word s Reg.imgSiRefuseCnt [] + 1) ∧
  (∀ s bytes, offline s = false → role s = 2 → paired s = true → replState s = 2 ∨ replState s = 3 →
    Does (.replContainerToStandby bytes) s [.inForce, .out] fun t =>
      t.out = .twinAnswer false :: s.out ∧
      replState t = replState s ∧ rd t Reg.imgSiReplStat [] 15 8 = 0x0A ∧
        word t Reg.imgSiRefuseCnt [] = word s Reg.imgSiRefuseCnt [] + 1) ∧
  (∀ s bytes x ids, offline s = false → role s = 2 → paired s = true → replState s ≠ 2 → replState s ≠ 3 → s.img.staging.holder = none →
    readPartial s bytes = .ok (x, ids) →
    Does (.replContainerToStandby bytes) s [.inForce, .img, .out] fun t =>
      t.out = .twinAnswer true :: s.out ∧ replState t = 3 ∧ t.img.repl = ⟨some x, ids, none⟩ ∧ t.img.staging.holder = some .twinPeer)

/-- Staging (R470, R483 to R487): CLAIM takes a free lock for a source that may hold it and otherwise says why not; what another
source holds refuses the rest; WRITE copies a range of staging; END, VERIFY, COMMIT and ABORT act in their states; and the lock
lapses after its time. -/
def Obligations.BundlesAreStaged : Prop :=
  (∀ s (kind : Bool), Reaches s .host (Reg.imgStageCmd.addr []) → rdBit s Reg.imgStageCmd [] 30 = false →
    s.img.staging.holder = none → mayStage s .host = true → kind = true ∨ onTrial s = false →
    Does (.stageClaim .host kind) s [.staged, .inForce, .img] fun t =>
      stageState t = 1 ∧ stageKind t = bnat kind ∧ rd t Reg.imgStageCmd [] 19 16 = 0 ∧
        t.img = { s.img with staging := { Staging.free with holder := some .host, lastAt := s.time.dt } } ∧
        word t Reg.imgStageUidLo [] = BitVec.ofNat 32 Config.unitId.toNat) ∧
  (∀ s (kind : Bool), Reaches s .host (Reg.imgStageCmd.addr []) → rdBit s Reg.imgStageCmd [] 30 = false →
    s.img.staging.holder ≠ none →
    Does (.stageClaim .host kind) s [.staged, .inForce] fun t =>
      rd t Reg.imgStageCmd [] 19 16 = 1 ∧ word t Reg.imgBusyCnt [] = word s Reg.imgBusyCnt [] + 1 ∧
        RegsBut [Reg.imgStageCmd.addr [], Reg.imgBusyCnt.addr []] s t) ∧
  (∀ s (kind : Bool), Reaches s .host (Reg.imgStageCmd.addr []) → rdBit s Reg.imgStageCmd [] 30 = false →
    s.img.staging.holder = none → mayStage s .host = false →
    Does (.stageClaim .host kind) s [.staged, .inForce] fun t =>
      rd t Reg.imgStageCmd [] 19 16 = 2 ∧ RegsBut [Reg.imgStageCmd.addr []] s t) ∧
  (∀ s ofs len, Reaches s .host (Reg.imgStageCmd.addr []) → rdBit s Reg.imgStageCmd [] 30 = false →
    s.img.staging.holder = some .host → stageState s = 1 → (word s Reg.imgStageOfs []).toNat = ofs →
    (word s Reg.imgStageLen []).toNat = len →
    Does (.stageWrite .host) s [.staged, .inForce, .img] fun t =>
      rdBit t Reg.imgStageCmd [] 30 = stageRange ofs len ∧
        rd t Reg.imgStageCmd [] 19 16 = (if stageRange ofs len then 0 else 6) ∧
        t.img = { s.img with staging := { s.img.staging with
          lastAt := s.time.dt, copying := if stageRange ofs len then some (ofs, len) else s.img.staging.copying } }) ∧
  (∀ s, Reaches s .host (Reg.imgStageCmd.addr []) → rdBit s Reg.imgStageCmd [] 30 = false → s.img.staging.holder ≠ some .host →
    Does (.stageWrite .host) s [.staged, .inForce] fun t =>
      rd t Reg.imgStageCmd [] 19 16 = 3 ∧ RegsBut [Reg.imgStageCmd.addr []] s t) ∧
  (∀ s ofs len data, s.img.staging.copying = some (ofs, len) → s.img.staging.holder = some .host → stageKind s = 1 →
    stageRange ofs len = true → Quiet s →
    Does (.stageWriteDone data false) s [.inForce, .img] fun t =>
      rdBit t Reg.imgStageCmd [] 30 = false ∧ rd t Reg.imgStageCmd [] 19 16 = 0 ∧
        t.img = { s.img with staging := { s.img.staging with
          copying := none, lastAt := s.time.dt, top := max s.img.staging.top (ofs + len),
          bytes := Memory.writeList s.img.staging.bytes ofs (padTo len (data.take len)) } } ∧
        RegsBut [Reg.imgStageCmd.addr []] s t) ∧
  (∀ s c data, s.img.staging.copying = some c → s.img.staging.holder = some .host →
    Does (.stageWriteDone data true) s [.inForce, .img] fun t =>
      rdBit t Reg.imgStageCmd [] 30 = false ∧ rd t Reg.imgStageCmd [] 19 16 = 7 ∧
        t.img = { s.img with staging := { s.img.staging with copying := none, lastAt := s.time.dt } }) ∧
  (∀ s, Reaches s .host (Reg.imgStageCmd.addr []) → rdBit s Reg.imgStageCmd [] 30 = false → s.img.staging.holder = some .host →
    stageState s = 1 → stageKind s = 0 →
    Does (.stageEnd .host) s [.staged, .inForce, .img] fun t =>
      stageState t = 2 ∧ rd t Reg.imgStageCmd [] 19 16 = 0 ∧
        t.img = { s.img with staging := { s.img.staging with lastAt := s.time.dt } }) ∧
  (∀ s x b, Reaches s .host (Reg.imgStageCmd.addr []) → rdBit s Reg.imgStageCmd [] 30 = false →
    s.img.staging.holder = some .host → stageState s = 2 → stageKind s = 0 → recovering s = false →
    readBundle s.img.custKey s.img.floor (stagedBytes s) = .ok x → targetBank s = some b → b < s.img.banks.length →
    Does (.stageVerify .host) s [.staged, .inForce, .img] fun t =>
      stageState t = 3 ∧ rd t Reg.imgStageStat [] 28 27 = routeOf s x % 4 ∧ rd t Reg.imgStageCmd [] 19 16 = 0 ∧
        t.img.staging.bundle = some x ∧ bankOfImg t b = ⟨2, s.img.staging.bytes, x.ver⟩) ∧
  (∀ s c, Reaches s .host (Reg.imgStageCmd.addr []) → rdBit s Reg.imgStageCmd [] 30 = false →
    s.img.staging.holder = some .host → stageState s = 2 → stageKind s = 0 →
    readBundle s.img.custKey s.img.floor (stagedBytes s) = .error c →
    Does (.stageVerify .host) s [.staged, .inForce, .img] fun t =>
      stageState t = 2 ∧ rd t Reg.imgStageStat [] 23 16 = c % 256 ∧ rd t Reg.imgStageCmd [] 19 16 = 8) ∧
  (∀ s x b, Reaches s .host (Reg.imgStageCmd.addr []) → rdBit s Reg.imgStageCmd [] 30 = false →
    s.img.staging.holder = some .host → stageState s = 3 → stageKind s = 0 → s.img.staging.bundle = some x →
    targetBank s = some b → b < s.img.banks.length →
    Does (.stageCommit .host) s [.staged, .inForce, .img] fun t =>
      t.img.named = b ∧ t.img.committed = some x ∧ (bankOfImg t b).state = 3 ∧ t.img.staging.holder = none ∧
        stageState t = 0 ∧ rd t Reg.imgStageCmd [] 19 16 = 0) ∧
  (∀ s, Reaches s .host (Reg.imgStageCmd.addr []) → rdBit s Reg.imgStageCmd [] 30 = false →
    s.img.staging.holder = some .host → stageKind s = 0 →
    Does (.stageAbort .host) s [.staged, .inForce, .img] fun t =>
      t.img = { s.img with staging := { Staging.free with bundle := s.img.staging.bundle } } ∧
        stageState t = 0 ∧ rd t Reg.imgStageCmd [] 19 16 = 0) ∧
  (∀ s, s.img.staging.holder ≠ none → stageKind s = 0 → s.img.staging.lastAt + msTicks 600000 ≤ s.time.dt →
    Does .stagingLockTimeout s [.inForce, .img] fun t =>
      t.img = { s.img with staging := { Staging.free with bundle := s.img.staging.bundle } } ∧ stageState t = 0)

/-- Activation (R487 to R490, Table 17-4): an activation that R487 or R488 forbids is refused with its RESULT; the hitless route
goes engine by engine and core by core; the twin route begins on a paired ACTIVE unit; a restart boots the committed bank; and a
step that fails abandons the activation. -/
def Obligations.ActivationsProceed : Prop :=
  (∀ s req, Reaches s req (Reg.imgUpdCmd.addr []) → mayActivate s 1 ≠ 0 →
    Does (.activateHitless req) s [.staged, .inForce] fun t =>
      rd t Reg.imgUpdCmd [] 26 24 = mayActivate s 1 ∧ RegsBut [Reg.imgUpdCmd.addr []] s t) ∧
  (∀ s req e es, Reaches s req (Reg.imgUpdCmd.addr []) → mayActivate s 1 = 0 → engines s = e :: es → placeMode s 0 ≠ 0 →
    role s ≠ 1 ∨ paired s = false →
    Does (.activateHitless req) s [.staged, .inForce, .img, .place] fun t =>
      rd t Reg.imgUpdCmd [] 26 24 = 0 ∧ updStep t = 1 ∧ rd t Reg.imgUpdStat [] 23 16 = e ∧
        t.img = { s.img with activation := some ⟨0, e :: es, [2, 3, 1, 0], [], [], false, s.time.dt⟩ } ∧
        ∀ j ∈ jobsOn s e, (false, j) ∈ t.place.displaced) ∧
  (∀ s req, Reaches s req (Reg.imgUpdCmd.addr []) → mayActivate s 1 = 0 → role s = 1 → paired s = true →
    Does (.activateHitless req) s [.staged, .inForce, .img] fun t =>
      rd t Reg.imgUpdCmd [] 26 24 = 0 ∧ updStep t = 4 ∧
        t.img = { s.img with activation := some ⟨2, [], [], [], [], false, s.time.dt⟩ }) ∧
  (∀ s req, Reaches s req (Reg.imgUpdCmd.addr []) → mayActivate s 2 = 0 → role s = 1 → paired s = true →
    Does (.activateTwin req) s [.staged, .inForce, .img, .out] fun t =>
      rd t Reg.imgUpdCmd [] 26 24 = 0 ∧ updStep t = 4 ∧
        t.img = { s.img with activation := some ⟨1, [], [], [], [], false, s.time.dt⟩ } ∧
        t.out = (if offline s = true then s.out else
          .twinContainer (((targetBank s).map fun b => bankBytes (bankOfImg s b).bytes).getD []) :: s.out)) ∧
  (∀ s req, Reaches s req (Reg.imgUpdCmd.addr []) → mayActivate s 2 ≠ 0 →
    Does (.activateTwin req) s [.staged, .inForce] fun t =>
      rd t Reg.imgUpdCmd [] 26 24 = mayActivate s 2 ∧ RegsBut [Reg.imgUpdCmd.addr []] s t) ∧
  (∀ s req b, Bypassed s → Reaches s req (Reg.imgUpdCmd.addr []) → s.img.activation = none → s.img.committed ≠ none →
    targetBank s = some b → (bankOfImg s b).state = 3 →
    Does (.activateRestart req) s resetParts fun t =>
      AfterReset s t 2 ∧ t.img.named = b ∧ t.img.banks = s.img.banks ∧ t.time.dt = s.time.dt) ∧
  (∀ s req, Reaches s req (Reg.imgUpdCmd.addr []) → s.img.activation = none → s.img.committed = none →
    (bankOfImg s s.img.named).state ≠ 3 →
    Does (.activateRestart req) s [.staged, .inForce] fun t =>
      rd t Reg.imgUpdCmd [] 26 24 = 3 ∧ RegsBut [Reg.imgUpdCmd.addr []] s t) ∧
  (∀ s (e : Fin 64) a e2 es, s.img.activation = some a → a.mode = 0 → a.engines = e.val :: e2 :: es → jobsOn s e = [] →
    placeMode s 0 ≠ 0 →
    Does (.engineDrained e) s [.inForce, .img, .place] fun t =>
      updStep t = 1 ∧ rd t Reg.imgUpdStat [] 23 16 = e2 % 256 ∧
        t.img = { s.img with activation := some { a with engines := e2 :: es, doneEngines := e.val :: a.doneEngines, since := s.time.dt } } ∧
        RegsBut [Reg.imgUpdStat.addr []] s t) ∧
  (∀ s (e : Fin 64) a, s.img.activation = some a → a.mode = 0 → a.engines.head? = some e.val → a.doneCores = [] →
    a.doneEngines = [] → drainPast s a = true →
    Does (.drainTimeout e) s [.inForce, .img] fun t =>
      updStep t = 9 ∧ rd t Reg.imgUpdStat [] 15 8 = 1 ∧
        t.img = { s.img with activation := none, named := s.img.running.getD s.img.named } ∧
        word t Reg.imgUpdEvtCnt [] = word s Reg.imgUpdEvtCnt [] + 1 ∧
        RegsBut [Reg.imgUpdStat.addr [], Reg.imgUpdEvtCnt.addr [], Reg.imgUpdEvtLast.addr []] s t) ∧
  (∀ s (c : Fin 4) a c2 cs, s.img.activation = some a → a.mode = 0 → a.engines = [] → a.cores = c.val :: c2 :: cs → c.val ≠ 2 →
    c2 < 4 → (c.val = 3 → s.izl.held = [] ∧ s.izl.orders.all (·.sentAt.isSome) = true) →
    Does (.coreUpdateDone c true) s [.inForce, .img, .power, .twin] fun t =>
      t.twin = { s.twin with ringWait := t.twin.ringWait, ringAt := t.twin.ringAt } ∧
      updStep t = 2 ∧ rd t Reg.imgUpdStat [] 23 16 = c2 ∧
        t.power = { s.power with coresDown :=
          (s.power.coresDown &&& ~~~ BitVec.ofNat 4 (2 ^ c.val)) ||| BitVec.ofNat 4 (2 ^ c2) } ∧
        t.img = { s.img with activation := some { a with cores := c2 :: cs, doneCores := c.val :: a.doneCores, since := s.time.dt } }) ∧
  (∀ s (c : Fin 4) a cs, s.img.activation = some a → a.mode = 0 → a.engines = [] → a.cores = c.val :: cs →
    Does (.coreUpdateDone c false) s [.inForce, .img, .power] fun t =>
      updStep t = 10 ∧ rd t Reg.imgUpdStat [] 15 8 = 2 ∧ t.img.named = s.img.running.getD s.img.named ∧
        t.img.activation = some { a with mode := 3, cores := c.val :: a.doneCores, doneCores := [], since := s.time.dt })

/-- Confirmation and fuses (R480 to R482): CONFIRM, or TRIAL_HOLD seconds of service, makes a TRIAL bank VALID; the floor rises to
the running bundle's version, and a command that would not raise it is refused; a customer key is programmed into an empty slot
alone. -/
def Obligations.TrialsAreConfirmed : Prop :=
  (∀ s req b, Reaches s req (Reg.imgUpdCmd.addr []) → s.img.running = some b → (bankOfImg s b).state = 3 →
    Does (.confirm req) s [.staged, .inForce, .img] fun t =>
      bankOfImg t b = { bankOfImg s b with state := 2 } ∧ rd t Reg.imgUpdCmd [] 26 24 = 0 ∧
        word t Reg.imgUpdEvtCnt [] = word s Reg.imgUpdEvtCnt [] + 1 ∧
        word t Reg.imgUpdEvtLast [] = BitVec.ofNat 32 (3 * 65536 + ownDevice s % 128)) ∧
  (∀ s req, Reaches s req (Reg.imgUpdCmd.addr []) → onTrial s = false →
    Does (.confirm req) s [.staged, .inForce] fun t =>
      rd t Reg.imgUpdCmd [] 26 24 = 3 ∧ RegsBut [Reg.imgUpdCmd.addr []] s t) ∧
  (∀ s b, stageDone s 11 = true → s.img.running = some b → (bankOfImg s b).state = 3 →
    get 0 s.power.stageAt 11 + msTicks (1000 * rd s Reg.imgUpdCfg [] 31 16) ≤ s.time.dt →
    Does .trialHoldExpiry s [.inForce, .img] fun t =>
      bankOfImg t b = { bankOfImg s b with state := 2 } ∧ t.img = { s.img with banks := t.img.banks } ∧
        RegsBut [Reg.imgUpdEvtCnt.addr [], Reg.imgUpdEvtLast.addr []] s t) ∧
  (∀ s req x, Reaches s req (Reg.imgUpdCmd.addr []) → s.img.bundle = some x → onTrial s = false → s.img.floor < x.svn →
    Does (.raiseFloor req) s [.staged, .inForce, .img] fun t =>
      t.img = { s.img with floor := x.svn } ∧ rd t Reg.imgUpdCmd [] 26 24 = 0) ∧
  (∀ s req x, Reaches s req (Reg.imgUpdCmd.addr []) → s.img.bundle = some x → onTrial s = true ∨ x.svn ≤ s.img.floor →
    Does (.raiseFloor req) s [.staged, .inForce] fun t => rd t Reg.imgUpdCmd [] 26 24 = 3) ∧
  (∀ s req, Reaches s req (Reg.imgUpdCmd.addr []) → s.img.custKey = none →
    Does (.programCustKey req) s [.staged, .inForce, .img] fun t =>
      t.img = { s.img with custKey := some (Memory.readList s.bar4 0x2000000 96) } ∧ rd t Reg.imgUpdCmd [] 26 24 = 0) ∧
  (∀ s req, Reaches s req (Reg.imgUpdCmd.addr []) → s.img.custKey ≠ none →
    Does (.programCustKey req) s [.staged, .inForce] fun t => rd t Reg.imgUpdCmd [] 26 24 = 3)

/-- Maintenance (R496 to R502, R504, Table 18-5): a unit of work counts what it found and deals with it where it lies; a ball is
claimed by one owner, who alone drives it and releases it, and a refused claim is recorded. -/
def Obligations.UnitsReportAndBallsAreClaimed : Prop :=
  (∀ s (a : Fin 14), maintActs s a = true → a.val < 3 →
    Does (.maintUnitDone a .corrected) s [.counters] fun t =>
      ctr t Ctr.maint [] (if a.val = 2 then 2 else 0) = (ctr s Ctr.maint [] (if a.val = 2 then 2 else 0) + 1) % 2 ^ 40 ∧
        CountersBut [Ctr.maint.addr [] (if a.val = 2 then 2 else 0)] s t) ∧
  (∀ s (a : Fin 14) f x, maintActs s a = true → a.val < 2 → frame s f = some x →
    Does (.maintUnitDone a (.uncorrectable (.cell f))) s [.counters, .frames] fun t =>
      ctr t Ctr.maint [] 1 = (ctr s Ctr.maint [] 1 + 1) % 2 ^ 40 ∧ CountersBut [Ctr.maint.addr [] 1] s t ∧
        frame t f = some { x with spoiled := true } ∧ ∀ g, g ≠ f → frame t g = frame s g) ∧
  (∀ s (a : Fin 14), maintActs s a = true → a.val < 2 →
    Does (.maintUnitDone a (.uncorrectable .replicated)) s [.counters] fun t =>
      ctr t Ctr.maint [] 1 = (ctr s Ctr.maint [] 1 + 1) % 2 ^ 40 ∧ CountersBut [Ctr.maint.addr [] 1] s t) ∧
  (∀ s (a : Fin 14) u, unitActivity u = a.val → s.maint.recal.contains ⟨u, true⟩ = true →
    Does (.maintUnitDone a (.recalibrated u true)) s [.counters, .inForce, .maint] fun t =>
      t.maint = { s.maint with
        recal := s.maint.recal.filter (· != ⟨u, true⟩), cal := put s.maint.cal (unitCode u) s.time.dt } ∧
      ctr t Ctr.maint [] 4 = (ctr s Ctr.maint [] 4 + 1) % 2 ^ 40 ∧ ctr t Ctr.maint [] 6 = (ctr s Ctr.maint [] 6 + 1) % 2 ^ 40 ∧
      word t Reg.maintCompCnt [] = word s Reg.maintCompCnt [] + 1 ∧
      word t Reg.maintCompLast [] = BitVec.ofNat 32 (unitCode u) ∧
      RegsBut [Reg.maintCompCnt.addr [], Reg.maintCompLast.addr []] s t) ∧
  (∀ s (a : Fin 14) u, unitActivity u = a.val → s.maint.recal.contains ⟨u, false⟩ = true →
    Does (.maintUnitDone a (.recalibrated u false)) s [.counters, .maint] fun t =>
      t.maint = { s.maint with
        recal := s.maint.recal.filter (· != ⟨u, false⟩), cal := put s.maint.cal (unitCode u) s.time.dt } ∧
      ctr t Ctr.maint [] 4 = (ctr s Ctr.maint [] 4 + 1) % 2 ^ 40 ∧ CountersBut [Ctr.maint.addr [] 4] s t) ∧
  (∀ s (a : Fin 14) u, unitActivity u = a.val → (recalUnits s).contains u = true → unitOnPath s u = true →
    (s.maint.recal.any fun r => r.unit == u) = false → (s.maint.due.any fun d => d.unit == u) = false →
    Does (.maintUnitDone a (.deferred u)) s [.counters, .maint] fun t =>
      t.maint = { s.maint with due := s.maint.due ++ [⟨u, some s.time.dt⟩] } ∧
        ctr t Ctr.maint [] 5 = (ctr s Ctr.maint [] 5 + 1) % 2 ^ 40 ∧ CountersBut [Ctr.maint.addr [] 5] s t) ∧
  (∀ s, maintActs s 2 = true →
    Does (.maintUnitDone 2 .patrolLate) s [.maint] fun t => t.maint = { s.maint with patrolLate := true }) ∧
  (∀ s, maintActs s 2 = true →
    Does (.maintUnitDone 2 .done) s [.maint] fun t => t.maint = { s.maint with patrolLate := false }) ∧
  (∀ s, maintActs s 6 = true →
    Does (.maintUnitDone 6 .done) s [.counters] fun t =>
      ctr t Ctr.maint [] 7 = (ctr s Ctr.maint [] 7 + 1) % 2 ^ 40 ∧ CountersBut [Ctr.maint.addr [] 7] s t) ∧
  (∀ s (a : Fin 14) res, maintActs s a = false → fallsDue res = false → Does (.maintUnitDone a res) s [] fun _ => True) ∧
  (∀ s data m, s.obs.moving = some m →
    Does (.maintUnitDone 11 (.block data true)) s [.inForce, .obs] fun t =>
      t.obs = { s.obs with moving := none } ∧ rdBit t Reg.obsExpCtrl [] 30 = false ∧ rd t Reg.obsExpCtrl [] 26 24 = 4) ∧
  (∀ s req (n : Fin 64) code, Reaches s req (Reg.maintBall.addr [n]) → ballClaimed s n = false → ballOwner s n = 0 → code ≠ 0 →
    Does (.ballOwnerWrite req n code) s [.staged, .inForce] fun t =>
      ballOwner t n = ownerCode req % 16 ∧ rd t Reg.maintBall [n] 1 0 = rd s Reg.maintBall [n] 1 0 ∧
        RegsBut [Reg.maintBall.addr [n]] s t) ∧
  (∀ s req (n : Fin 64), Reaches s req (Reg.maintBall.addr [n]) → ballClaimed s n = false → ballOwner s n ≠ 0 →
    ballOwner s n = ownerCode req →
    Does (.ballOwnerWrite req n 0) s [.staged, .inForce] fun t => ballOwner t n = 0 ∧ RegsBut [Reg.maintBall.addr [n]] s t) ∧
  (∀ s req (n : Fin 64) code, Reaches s req (Reg.maintBall.addr [n]) → ballClaimed s n = false → ballOwner s n ≠ 0 →
    ballOwner s n ≠ ownerCode req → code ≠ 0 →
    Does (.ballOwnerWrite req n code) s [.staged, .inForce] fun t =>
      word t Reg.maintBall [n] = word s Reg.maintBall [n] ∧ word t Reg.maintClaimCnt [] = word s Reg.maintClaimCnt [] + 1 ∧
        rd t Reg.maintClaimLast [] 31 28 = 2 ∧ RegsBut [Reg.maintClaimCnt.addr [], Reg.maintClaimLast.addr []] s t) ∧
  (∀ s req (n : Fin 64) dir out, Reaches s req (Reg.maintBall.addr [n]) → ballClaimed s n = false → ballOwner s n ≠ 0 →
    ballOwner s n = ownerCode req →
    Does (.ballDriveWrite req n dir out) s [.staged, .inForce] fun t =>
      rd t Reg.maintBall [n] 1 0 = 2 * bnat dir + bnat out ∧ ballOwner t n = ballOwner s n ∧
        RegsBut [Reg.maintBall.addr [n]] s t) ∧
  (∀ s req (n : Fin 64) dir out, Reaches s req (Reg.maintBall.addr [n]) → ballClaimed s n = true →
    Does (.ballDriveWrite req n dir out) s [.inForce] fun t =>
      word t Reg.maintBall [n] = word s Reg.maintBall [n] ∧ rd t Reg.maintClaimLast [] 31 28 = 1)

/-- The trace and the epochs (R509 to R512, R515): records leave in frames while the lane has room, and those that do not fit
count; a snapshot adds records with the counters of each block instance, each of a size that a frame holds; an epoch is recorded with the digest of its crossings. -/
def Obligations.TraceAndEpochsReport : Prop :=
  (∀ s room r, rdBit s Reg.obsTraceCfg [] 31 = true → s.obs.trace = [r] → r.size ≤ room → r.size ≤ traceSpace →
    Does (.traceFrameTx room) s [.out, .counters, .obs] fun t =>
      t.out = .trace (traceFrame s [r]) :: s.out ∧ ctr t Ctr.obs [] 0 = (ctr s Ctr.obs [] 0 + 1) % 2 ^ 48 ∧
        t.obs = { s.obs with trace := [], traceGap := false, traceSeq := (s.obs.traceSeq + 1) % 2 ^ 32 }) ∧
  (∀ s room r, rdBit s Reg.obsTraceCfg [] 31 = true → s.obs.trace = [r] → room < r.size →
    Does (.traceFrameTx room) s [.counters, .obs] fun t =>
      t.obs.trace = [] ∧ t.obs.traceGap = true ∧ ctr t Ctr.obs [] 1 = (ctr s Ctr.obs [] 1 + 1) % 2 ^ 40 ∧
        CountersBut [Ctr.obs.addr [] 1] s t) ∧
  (∀ s, rdBit s Reg.obsTraceCfg [] 31 = true → rdBit s Reg.obsTraceCfg [] 14 = true → rd s Reg.obsSnapCfg [] 31 16 ≠ 0 →
    s.obs.snapAt + snapTicks s ≤ s.time.dt → (List.range 12).filter (rdBit s Reg.obsSnapCfg []) = [4] →
    Does .snapshotPeriod s [.obs] fun t =>
      t.obs = { s.obs with snapAt := s.time.dt, trace := s.obs.trace ++ snapRecs s 4 0xB00000 }) ∧
  (∀ s b base, ((snapRecs s b base).map (·.body)).flatten = ((ctrGroups ++ ringGroups).flatMap (groupEntries s base)).flatten ∧
    ∀ r ∈ (snapRecs s b base).dropLast, r.ty = 0x0E ∧ r.size ≤ traceSpace) ∧
  (∀ s el crossings now, now = pass el s → now.obs.epochAt < epochStart now → Quiet now → now.obs.imported = none →
    DoesFrom now (.sillageEpoch el crossings) s [.obs] fun t =>
      t.obs = { now.obs with digestA := [], digestB := [], framesSent := [], epochAt := epochStart now }) ∧
  (∀ s el crossings r now, now = pass el s → now.obs.epochAt < epochStart now → recording now = true → rdBit now Reg.obsTraceCfg [] 31 = false → now.obs.imported = none → now.obs.framesSent = [] →
    r = ({ ty := 6, flags := 0, dt := dtFrac now, src := 0, body := toBytes 4 (endedEpoch now) ++
      toBytes 8 (crc64 crossings).toNat ++ crossings } : Rec) → now.obs.bytes + r.size ≤ captureSize →
    DoesFrom now (.sillageEpoch el crossings) s [.obs, .counters] fun t =>
      t.obs.records = now.obs.records ++ [r] ∧ t.obs.bytes = now.obs.bytes + r.size ∧
        ctr t Ctr.obs [] 2 = (ctr now Ctr.obs [] 2 + 1) % 2 ^ 48 ∧ CountersBut [Ctr.obs.addr [] 2] now t)

/-- The recorder (R514 to R518, Table 19-5): ARM begins a capture with a checkpoint, STOP and RELEASE empty it, a trigger moves a
running capture to POST and counts in any state, and the end of POST freezes it; each acts in its own state alone. -/
def Obligations.RecorderChangesState : Prop :=
  (∀ s req, Reaches s req (Reg.obsRecCtrl.addr []) → recState s = 0 →
    Does (.recArm req) s [.inForce, .obs, .counters] fun t =>
      recState t = 1 ∧ t.obs.imported = none ∧ t.obs.ckpts.length = 1 ∧ t.obs.lost = none ∧ word t Reg.obsCapLen [] = 0 ∧
        RegsBut [Reg.obsRecStat.addr [], Reg.obsCapLen.addr []] s t) ∧
  (∀ s req, Reaches s req (Reg.obsRecCtrl.addr []) → recState s ≠ 0 → Does (.recArm req) s [] fun _ => True) ∧
  (∀ s req, s.power.inReset = false → req ≠ .spi → serves s (Reg.obsRecCtrl.addr []) = true → rerunState s < 2 → recState s = 1 →
    Does (.recStop req) s [.inForce, .obs, .counters] fun t =>
      recState t = 0 ∧ t.obs.records = [] ∧ t.obs.bytes = 0 ∧ t.obs.ckpts = [] ∧ word t Reg.obsCapLen [] = 0 ∧
        RegsBut [Reg.obsRecStat.addr [], Reg.obsCapLen.addr []] s t) ∧
  (∀ s req, Reaches s req (Reg.obsRecCtrl.addr []) → recState s = 3 →
    Does (.recRelease req) s [.inForce, .obs] fun t =>
      recState t = 0 ∧ t.obs.records = [] ∧ t.obs.bytes = 0 ∧ RegsBut [Reg.obsRecStat.addr [], Reg.obsCapLen.addr []] s t) ∧
  (∀ s req, Reaches s req (Reg.obsRecCtrl.addr []) → recState s ≠ 3 → Does (.recRelease req) s [] fun _ => True) ∧
  (∀ s req, s.power.inReset = false → req ≠ .spi → serves s (Reg.obsRecCtrl.addr []) = true → rerunState s < 2 → recState s = 1 →
    Does (.recTrigger req) s [.inForce, .obs, .counters] fun t =>
      recState t = 2 ∧ rd t Reg.obsRecStat [] 28 26 = 2 ∧ t.obs.trigEpoch = epochNow s ∧
        word t Reg.obsTrigCnt [] = word s Reg.obsTrigCnt [] + 1) ∧
  (∀ s req, Reaches s req (Reg.obsRecCtrl.addr []) → recState s ≠ 1 →
    Does (.recTrigger req) s [.inForce] fun t =>
      word t Reg.obsTrigCnt [] = word s Reg.obsTrigCnt [] + 1 ∧ RegsBut [Reg.obsTrigCnt.addr []] s t) ∧
  (∀ s (m : Fin 4), mayFire s m = true → recState s = 1 →
    Does (.matchTrigger m) s [.inForce, .obs, .counters] fun t =>
      recState t = 2 ∧ rd t Reg.obsRecStat [] 28 26 = 3 ∧ rd t Reg.obsRecStat [] 25 24 = m ∧ t.obs.trigEpoch = epochNow s) ∧
  (∀ s (m : Fin 4), mayFire s m = false → Does (.matchTrigger m) s [] fun _ => True) ∧
  (∀ s, recState s = 2 → s.obs.trigAt + msTicks (rd s Reg.obsRecCfg [] 11 0) ≤ s.time.dt →
    Does .postExpiry s [.inForce, .obs] fun t =>
      recState t = 3 ∧ t.obs.lastEpoch = epochNow s ∧ t.obs.ckpts = completeCkpts s ∧ t.obs.segments = [] ∧
        rd t Reg.obsCapLen [] 15 0 = min 65535 (captureUnits s) ∧ RegsBut [Reg.obsRecStat.addr [], Reg.obsCapLen.addr []] s t) ∧
  (∀ s, recState s ≠ 2 ∨ s.time.dt < s.obs.trigAt + msTicks (rd s Reg.obsRecCfg [] 11 0) → Does .postExpiry s [] fun _ => True) ∧
  (∀ s, recording s = true → ckptDue s = true →
    Does .checkpointTimer s [.obs] fun t =>
      ∃ c, t.obs.ckpts = s.obs.ckpts ++ [c] ∧ c.num = s.obs.ckpts.length ∧ c.tick = s.time.dt ∧ c.complete = false ∧
        c.fdb = s.fdb ∧ c.strm = s.strm ∧ c.sched = s.sched ∧ c.bpm = s.bpm ∧ c.acc = s.acc ∧ c.tbs = s.time.tbs ∧ c.draws = s.draws) ∧
  (∀ s, recording s = false ∨ ckptDue s = false → Does .checkpointTimer s [] fun _ => True)

/-- Exports and rerun (R520 to R524): a transfer starts in FROZEN and in range, or is refused with its RESULT; ENTER checks its
conditions and holds the capture; START loads a checkpoint, with DT at its boundary. -/
def Obligations.CapturesMoveAndReplay : Prop :=
  (∀ s req, Reaches s req (Reg.obsExpCtrl.addr []) → rdBit s Reg.obsExpCtrl [] 30 = true →
    Does (.captureExportGo req) s [.inForce] fun t =>
      rd t Reg.obsExpCtrl [] 26 24 = 1 ∧ RegsBut [Reg.obsExpCtrl.addr []] s t) ∧
  (∀ s req, Reaches s req (Reg.obsExpCtrl.addr []) → rdBit s Reg.obsExpCtrl [] 30 = false →
    flag (stagedWord s Reg.obsExpCtrl []) 29 = false → recState s ≠ 3 →
    Does (.captureExportGo req) s [.staged, .inForce] fun t =>
      rd t Reg.obsExpCtrl [] 26 24 = 2 ∧ RegsBut [Reg.obsExpCtrl.addr []] s t) ∧
  (∀ s req, Reaches s req (Reg.obsExpCtrl.addr []) → rdBit s Reg.obsExpCtrl [] 30 = false →
    flag (stagedWord s Reg.obsExpCtrl []) 29 = false → recState s = 3 → expRange s = false →
    Does (.captureExportGo req) s [.staged, .inForce] fun t =>
      rd t Reg.obsExpCtrl [] 26 24 = 3 ∧ RegsBut [Reg.obsExpCtrl.addr []] s t) ∧
  (∀ s req, Reaches s req (Reg.obsExpCtrl.addr []) → rdBit s Reg.obsExpCtrl [] 30 = false →
    flag (stagedWord s Reg.obsExpCtrl []) 29 = false → recState s = 3 → expRange s = true →
    Does (.captureExportGo req) s [.staged, .inForce, .obs] fun t =>
      rd t Reg.obsExpCtrl [] 26 24 = 0 ∧ rdBit t Reg.obsExpCtrl [] 30 = true ∧
        t.obs = { s.obs with moving := some (0, (word s Reg.obsExpLen []).toNat) } ∧
        RegsBut [Reg.obsExpCtrl.addr []] s t) ∧
  (∀ s req, Reaches s req (Reg.obsRerunCtrl.addr []) → flag (stagedWord s Reg.obsRerunCtrl []) 31 = false →
    enterResult s (readCapture s) ≠ 0 →
    Does (.rerunEnter req) s [.staged, .inForce] fun t =>
      rd t Reg.obsRerunStat [] 28 24 = enterResult s (readCapture s) ∧ rerunState t = rerunState s) ∧
  (∀ s req, Reaches s req (Reg.obsRerunCtrl.addr []) → flag (stagedWord s Reg.obsRerunCtrl []) 31 = false →
    enterResult s (readCapture s) = 0 → Bypassed s →
    Does (.rerunEnter req) s [.staged, .inForce, .obs, .twin] fun t =>
      rd t Reg.obsRerunStat [] 28 24 = 0 ∧ rerunState t = 1 ∧ t.obs = { s.obs with imported := some (readCapture s) } ∧
        t.twin = { s.twin with openQueue := [] }) ∧
  (∀ s req x c, Reaches s req (Reg.obsRerunCtrl.addr []) → flag (stagedWord s Reg.obsRerunCtrl []) 30 = false →
    rerunState s = 1 → s.obs.imported = some x → x.ckpts = [c] → c.residence = [] →
    Does (.rerunStart req) s [.staged, .inForce, .fdb, .strm, .sched, .bpm, .acc, .frames, .power, .clock, .time, .draws, .obs] fun t =>
      rerunState t = 2 ∧ t.time.dt = c.tick ∧ t.time.tbs = c.tbs ∧ t.fdb = c.fdb ∧ t.strm = c.strm ∧ t.sched = c.sched ∧
        t.bpm = c.bpm ∧ t.acc = c.acc ∧ t.frames = [] ∧ word t Reg.obsRerunEpoch [] = BitVec.ofNat 32 c.epoch ∧
        t.power = { s.power with checkpoints := c.cores } ∧ t.seed = recordedSeed s x.records ∧ t.draws = c.draws) ∧
  (∀ s req, Reaches s req (Reg.obsRerunCtrl.addr []) → flag (stagedWord s Reg.obsRerunCtrl []) 30 = false → rerunState s = 0 →
    Does (.rerunStart req) s [.staged, .inForce] fun t => rerunState t = 0 ∧ RegsBut [Reg.obsRerunCtrl.addr []] s t)

/-- A step takes the command at the front: step with `c` at the front of the queue is exec of `c` with the queue's rest. -/
def Obligations.StepRunsFront : Prop :=
  ∀ (s : State) (c : Instr) (r : List Instr), s.pending = c :: r → step s = exec c { s with pending := r }

/-- The passing of time: a step on an empty queue is one tick of 1.25 ns, in which only the clocks move (log entry 2, a design
choice), and commands of TIME_TB_CMD that wait are performed in it (R254) and records of a rerun injected (R522); and at a device-cycle boundary (R245, R418, R456), on a unit with no trunk, cluster, twin or traffic, the count of device
cycles goes up by one, the next cycle starts there, and each core that runs writes its checkpoint. -/
def Obligations.TimePasses : Prop :=
  (∀ s : State, s.pending = [] → rerunState s ≠ 2 → s.time.tbCmds = [] → ∃ t, step s = .next (settle t) ∧ OnlyChanges [.clock] s t ∧
    t.time.dt = s.time.dt + if (timeRuns s = true ∧ rerunState s < 3) then 1 else 0) ∧
  (∀ s : State, s.pending = [] → rerunState s ≠ 2 → step s = .next (settle (advance 1 s))) ∧
  (∀ s x, s.pending = [] → rerunState s = 2 → s.obs.imported = some x → step s = .next (settle (injectAll x.todo 1 s))) ∧
  (∀ s el e now, now = advance el s → cycleEnd now = some e → now.power.inReset = false → stageDone now 5 = false → now.regs.waiting = [] → Dark now → (∀ p, (port now p).lpiSince = none) → now.time.ctxWait = [] →
    now.place.pinsWait = [] → (∀ k < 8, isCluster now k = false) → (∀ g < 16, groupOn now g = false) → inHierarchy now = false →
    mc2Up now = false → now.place.endings = [] → now.place.lineMoves = [] → role now = 0 → paired now = false →
    now.img.activation = none → Quiet now → now.obs.lost = none → (decide (2 ≤ tbState now 0) = now.time.alignTb0) →
    DoesFrom now (.deviceCycleBoundary el []) s [.time, .inForce, .fabric, .bpm, .ports, .place, .twin, .obs, .acc, .power,
      .freeCtr] fun t =>
        rd t Reg.timeDevcyc [] 30 0 = (rd now Reg.timeDevcyc [] 30 0 + 1) % 2 ^ 31 ∧
          rdBit t Reg.timeDevcyc [] 31 = rdBit now Reg.timeDevcyc [] 31 ∧
          t.time.cycleStart = e ∧ t.time.cycleTb0 = now.time.cycleTb0 + 1 ∧ t.time.dt = now.time.dt ∧
          ∀ k < 4, coreDown now k = false → get 0 t.power.checkpoints k = now.time.dt)

/-- Every command completes: in every state and with every operand it answers a next state, in which vectors whose condition is over
are armed (R434); the machine has no fault and no refusal. Each command is named. -/
def Obligations.NoCommandStops : Prop :=
  (∀ (c : Instr) (s : State), ∃ u, exec c s = .next (settle u)) ∧
  ((∀ s, ∃ next, exec .powerOn s = .next (settle next)) ∧ (∀ s, ∃ next, exec .pwrgdAssert s = .next (settle next)) ∧
    (∀ s, ∃ next, exec .powerLoss s = .next (settle next)) ∧
    (∀ s present, ∃ next, exec (.vaux33Change present) s = .next (settle next)) ∧
    (∀ s, ∃ next, exec .resetNAssert s = .next (settle next)) ∧
    (∀ s exit, ∃ next, exec (.resetExit exit) s = .next (settle next)) ∧
    (∀ s req data, ∃ next, exec (.glbResetCmdGo req data) s = .next (settle next)) ∧
    (∀ s, ∃ next, exec .thermalShutdown s = .next (settle next)) ∧
    (∀ s, ∃ next, exec .thermalRecover s = .next (settle next)) ∧
    (∀ s el romGood fusesGood, ∃ next, exec (.bootRomDone el romGood fusesGood) s = .next (settle next)) ∧
    (∀ s el readError, ∃ next, exec (.bankCheckDone el readError) s = .next (settle next)) ∧
    (∀ s el, ∃ next, exec (.bankTryTimeout el) s = .next (settle next)) ∧
    (∀ s n el failed, ∃ next, exec (.stageComplete n el failed) s = .next (settle next)) ∧
    (∀ s n el, ∃ next, exec (.stageLimitExpiry n el) s = .next (settle next)) ∧
    (∀ s el, ∃ next, exec (.fatalCondition el) s = .next (settle next)) ∧
    (∀ s el upsets, ∃ next, exec (.deviceCycleBoundary el upsets) s = .next (settle next)) ∧
    (∀ s a res, ∃ next, exec (.maintUnitDone a res) s = .next (settle next)) ∧
    (∀ s addr, ∃ next, exec (.applyDeadline addr) s = .next (settle next)) ∧
    (∀ s req addr data, ∃ next, exec (.registerWrite req addr data) s = .next (settle next)) ∧
    (∀ s req addr data, ∃ next, exec (.acknowledgeWrite req addr data) s = .next (settle next)) ∧
    (∀ s req addr, ∃ next, exec (.counterLowRead req addr) s = .next (settle next))) ∧
  ((∀ s req addr data, ∃ next, exec (.aliasWrite req addr data) s = .next (settle next)) ∧
    (∀ s req data, ∃ next, exec (.msHoldWrite req data) s = .next (settle next)) ∧
    (∀ s mc, ∃ next, exec (.msHoldExpire mc) s = .next (settle next)) ∧
    (∀ s req w data, ∃ next, exec (.irqVecRearm req w data) s = .next (settle next)) ∧
    (∀ s el v, ∃ next, exec (.msixMessage el v) s = .next (settle next)) ∧
    (∀ s w, ∃ next, exec (.msixControlWrite w) s = .next (settle next)) ∧
    (∀ s req addr data, ∃ next, exec (.tableEntryWrite req addr data) s = .next (settle next)) ∧
    (∀ s, ∃ next, exec .tableEpoch s = .next (settle next)) ∧
    (∀ s port el len hdr, ∃ next, exec (.frameHeaderRx port el len hdr) s = .next (settle next)) ∧
    (∀ s port el rest pcsErr, ∃ next, exec (.frameTailRx port el rest pcsErr) s = .next (settle next)) ∧
    (∀ s port el bytes, ∃ next, exec (.macControlFrameRx port el bytes) s = .next (settle next)) ∧
    (∀ s port cls, ∃ next, exec (.pauseExpiry port cls) s = .next (settle next)) ∧
    (∀ s port, ∃ next, exec (.pauseRefresh port) s = .next (settle next)) ∧
    (∀ s port el, ∃ next, exec (.dequeueDecision port el) s = .next (settle next)) ∧
    (∀ s, ∃ next, exec .allocationSlot s = .next (settle next)) ∧
    (∀ s pool, ∃ next, exec (.pointerCacheRefill pool) s = .next (settle next)) ∧
    (∀ s, ∃ next, exec .operationTagReturned s = .next (settle next)) ∧
    (∀ s tag ptr n last, ∃ next, exec (.share tag ptr n last) s = .next (settle next)) ∧
    (∀ s tag pool ptr, ∃ next, exec (.dropRef tag pool ptr) s = .next (settle next)) ∧
    (∀ s tag pool ptr, ∃ next, exec (.free tag pool ptr) s = .next (settle next)) ∧
    (∀ s port, ∃ next, exec (.linkUp port) s = .next (settle next))) ∧
  ((∀ s port el, ∃ next, exec (.linkDown port el) s = .next (settle next)) ∧
    (∀ s lane remote, ∃ next, exec (.linkFault lane remote) s = .next (settle next)) ∧
    (∀ s lane common partnerFec, ∃ next, exec (.anComplete lane common partnerFec) s = .next (settle next)) ∧
    (∀ s lane, ∃ next, exec (.anRestart lane) s = .next (settle next)) ∧
    (∀ s req lane en, ∃ next, exec (.hpPortEnWrite req lane en) s = .next (settle next)) ∧
    (∀ s req lane code, ∃ next, exec (.fecSelWrite req lane code) s = .next (settle next)) ∧
    (∀ s lane, ∃ next, exec (.ltFail lane) s = .next (settle next)) ∧
    (∀ s lane, ∃ next, exec (.ltRestart lane) s = .next (settle next)) ∧
    (∀ s k ack, ∃ next, exec (.modulePresencePoll k ack) s = .next (settle next)) ∧
    (∀ s k present, ∃ next, exec (.modulePresenceChange k present) s = .next (settle next)) ∧
    (∀ s k, ∃ next, exec (.moduleDebounceExpiry k) s = .next (settle next)) ∧
    (∀ s k iface media, ∃ next, exec (.moduleIdentified k iface media) s = .next (settle next)) ∧
    (∀ s k application, ∃ next, exec (.moduleReady k application) s = .next (settle next)) ∧
    (∀ s k, ∃ next, exec (.moduleStepTimeout k) s = .next (settle next)) ∧
    (∀ s k, ∃ next, exec (.moduleRemoved k) s = .next (settle next)) ∧
    (∀ s k values, ∃ next, exec (.moduleMonitorPoll k values) s = .next (settle next)) ∧
    (∀ s req k data, ∃ next, exec (.moduleXferGo req k data) s = .next (settle next)) ∧
    (∀ s k result bytes, ∃ next, exec (.moduleXferDone k result bytes) s = .next (settle next)) ∧
    (∀ s c, ∃ next, exec (.cpAnRestart c) s = .next (settle next)) ∧
    (∀ s req c data, ∃ next, exec (.cpCfgWrite req c data) s = .next (settle next)) ∧
    (∀ s c partner, ∃ next, exec (.copperAnComplete c partner) s = .next (settle next))) ∧
  ((∀ s c el, ∃ next, exec (.lpiEntry c el) s = .next (settle next)) ∧
    (∀ s c enter, ∃ next, exec (.lpiRx c enter) s = .next (settle next)) ∧
    (∀ s c carrier, ∃ next, exec (.carrierSense c carrier) s = .next (settle next)) ∧
    (∀ s c el bits, ∃ next, exec (.collision c el bits) s = .next (settle next)) ∧
    (∀ s c el, ∃ next, exec (.backoffExpiry c el) s = .next (settle next)) ∧
    (∀ s req c data, ∃ next, exec (.cableDiagRun req c data) s = .next (settle next)) ∧
    (∀ s c pairs, ∃ next, exec (.cableDiagDone c pairs) s = .next (settle next)) ∧
    (∀ s, ∃ next, exec .learn s = .next (settle next)) ∧ (∀ s, ∃ next, exec .relocationMove s = .next (settle next)) ∧
    (∀ s, ∃ next, exec .stashDrain s = .next (settle next)) ∧ (∀ s, ∃ next, exec .deferralReplay s = .next (settle next)) ∧
    (∀ s el, ∃ next, exec (.agingTick el) s = .next (settle next)) ∧ (∀ s, ∃ next, exec .ageDelete s = .next (settle next)) ∧
    (∀ s req data, ∃ next, exec (.fdbFlush req data) s = .next (settle next)) ∧
    (∀ s index, ∃ next, exec (.flushDelete index) s = .next (settle next)) ∧
    (∀ s req mc w data, ∃ next, exec (.fdbLockRequest req mc w data) s = .next (settle next)) ∧
    (∀ s mc seg, ∃ next, exec (.fdbLockGrant mc seg) s = .next (settle next)) ∧
    (∀ s mc seg, ∃ next, exec (.fdbLockExpire mc seg) s = .next (settle next)) ∧
    (∀ s req bank seed, ∃ next, exec (.fdbHashSeedWrite req bank seed) s = .next (settle next)) ∧
    (∀ s req, ∃ next, exec (.fdbCmdLookup req) s = .next (settle next)) ∧
    (∀ s req, ∃ next, exec (.fdbCmdWrite req) s = .next (settle next))) ∧
  ((∀ s req, ∃ next, exec (.fdbCmdDelete req) s = .next (settle next)) ∧
    (∀ s port group, ∃ next, exec (.mdbEditSetPort port group) s = .next (settle next)) ∧
    (∀ s port group, ∃ next, exec (.mdbEditClearPort port group) s = .next (settle next)) ∧
    (∀ s group, ∃ next, exec (.mdbEditClearReportSeen group) s = .next (settle next)) ∧
    (∀ s req h cfg, ∃ next, exec (.streamContextWrite req h cfg) s = .next (settle next)) ∧
    (∀ s req, ∃ next, exec (.strmCmdLookup req) s = .next (settle next)) ∧
    (∀ s req, ∃ next, exec (.strmCmdInsert req) s = .next (settle next)) ∧
    (∀ s req, ∃ next, exec (.strmCmdDelete req) s = .next (settle next)) ∧
    (∀ s h, ∃ next, exec (.ctxResetRecovery h) s = .next (settle next)) ∧
    (∀ s h, ∃ next, exec (.ctxUnblock h) s = .next (settle next)) ∧
    (∀ s h, ∃ next, exec (.ctxGenSeqZero h) s = .next (settle next)) ∧
    (∀ s h, ∃ next, exec (.ctxBalancesFull h) s = .next (settle next)) ∧
    (∀ s h, ∃ next, exec (.recoveryTimerExpiry h) s = .next (settle next)) ∧
    (∀ s el, ∃ next, exec (.latentTest el) s = .next (settle next)) ∧
    (∀ s pair mac, ∃ next, exec (.nodeForget pair mac) s = .next (settle next)) ∧
    (∀ s pair frame, ∃ next, exec (.supervisionFrameTx pair frame) s = .next (settle next)) ∧
    (∀ s req q cfg, ∃ next, exec (.queueDescriptorWrite req q cfg) s = .next (settle next)) ∧
    (∀ s req port index entry, ∃ next, exec (.gateEntryWrite req port index entry) s = .next (settle next)) ∧
    (∀ s req port el, ∃ next, exec (.gateCommit req port el) s = .next (settle next)) ∧
    (∀ s port el, ∃ next, exec (.gateCycleStart port el) s = .next (settle next)) ∧
    (∀ s port el, ∃ next, exec (.gateEntryExpiry port el) s = .next (settle next))) ∧
  ((∀ s q, ∃ next, exec (.qCmdZeroMaxima q) s = .next (settle next)) ∧
    (∀ s q, ∃ next, exec (.qCmdClearQueueDebt q) s = .next (settle next)) ∧
    (∀ s port cls, ∃ next, exec (.qCmdClearClassDebt port cls) s = .next (settle next)) ∧
    (∀ s req d data, ∃ next, exec (.voqRouteWrite req d data) s = .next (settle next)) ∧
    (∀ s d port cls, ∃ next, exec (.voqXoffLapse d port cls) s = .next (settle next)) ∧
    (∀ s tb el theta epoch active, ∃ next, exec (.servoUpdate tb el theta epoch active) s = .next (settle next)) ∧
    (∀ s tb el, ∃ next, exec (.srcTimeout tb el) s = .next (settle next)) ∧
    (∀ s tb, ∃ next, exec (.tbCmdAdj tb) s = .next (settle next)) ∧
    (∀ s tb, ∃ next, exec (.tbCmdSet tb) s = .next (settle next)) ∧
    (∀ s tb el, ∃ next, exec (.tbCmdDeliverSwOffset tb el) s = .next (settle next)) ∧
    (∀ s, ∃ next, exec .timeCapture s = .next (settle next)) ∧ (∀ s, ∃ next, exec .refLost s = .next (settle next)) ∧
    (∀ s, ∃ next, exec .refRestored s = .next (settle next)) ∧
    (∀ s req port tb cfg, ∃ next, exec (.ptpContextWrite req port tb cfg) s = .next (settle next)) ∧
    (∀ s port el bytes, ∃ next, exec (.ptpMessageRx port el bytes) s = .next (settle next)) ∧
    (∀ s port tb el, ∃ next, exec (.syncTx port tb el) s = .next (settle next)) ∧
    (∀ s port tb el, ∃ next, exec (.followUpTx port tb el) s = .next (settle next)) ∧
    (∀ s port tb el, ∃ next, exec (.relaySyncTx port tb el) s = .next (settle next)) ∧
    (∀ s port tb el, ∃ next, exec (.delayReqTx port tb el) s = .next (settle next)) ∧
    (∀ s port tb el, ∃ next, exec (.pdelayReqTx port tb el) s = .next (settle next)) ∧
    (∀ s port tb, ∃ next, exec (.followUpTimeout port tb) s = .next (settle next))) ∧
  ((∀ s port, ∃ next, exec (.tcRecordLapse port) s = .next (settle next)) ∧
    (∀ s k el falling, ∃ next, exec (.ppsinEdge k el falling) s = .next (settle next)) ∧
    (∀ s k, ∃ next, exec (.ppsinPop k) s = .next (settle next)) ∧
    (∀ s req j atTime, ∃ next, exec (.accJobStart req j atTime) s = .next (settle next)) ∧
    (∀ s req j atTime, ∃ next, exec (.accJobCommit req j atTime) s = .next (settle next)) ∧
    (∀ s req j atTime, ∃ next, exec (.accJobStop req j atTime) s = .next (settle next)) ∧
    (∀ s j el, ∃ next, exec (.applySampleReached j el) s = .next (settle next)) ∧
    (∀ s cluster, ∃ next, exec (.inputPacketRx cluster) s = .next (settle next)) ∧
    (∀ s u index el, ∃ next, exec (.inputDeadline u index el) s = .next (settle next)) ∧
    (∀ s o el, ∃ next, exec (.outputPacketCompute o el) s = .next (settle next)) ∧
    (∀ s j el, ∃ next, exec (.jobStepRestart j el) s = .next (settle next)) ∧
    (∀ s j op apply el, ∃ next, exec (.carriedCommandRx j op apply el) s = .next (settle next)) ∧
    (∀ s j equal, ∃ next, exec (.migrationCompare j equal) s = .next (settle next)) ∧
    (∀ s e, ∃ next, exec (.engineFault e) s = .next (settle next)) ∧
    (∀ s j e el, ∃ next, exec (.jobFaultRestart j e el) s = .next (settle next)) ∧
    (∀ s req e n event, ∃ next, exec (.perfSelWrite req e n event) s = .next (settle next)) ∧
    (∀ s input el, ∃ next, exec (.lineCopyDone input el) s = .next (settle next)) ∧
    (∀ s req port cls, ∃ next, exec (.placeQAllocate req port cls) s = .next (settle next)) ∧
    (∀ s, ∃ next, exec .journalFlashCopy s = .next (settle next)) ∧ (∀ s, ∃ next, exec .mc2Resume s = .next (settle next)) ∧
    (∀ s lane el, ∃ next, exec (.laneFrameTx lane el) s = .next (settle next))) ∧
  ((∀ s lane el hdr sbip, ∃ next, exec (.laneHeaderRx lane el hdr sbip) s = .next (settle next)) ∧
    (∀ s g poh pbip, ∃ next, exec (.groupFrameRx g poh pbip) s = .next (settle next)) ∧
    (∀ s g transmit, ∃ next, exec (.activeSetChange g transmit) s = .next (settle next)) ∧
    (∀ s g el bytes, ∃ next, exec (.leafRx g el bytes) s = .next (settle next)) ∧
    (∀ s g, ∃ next, exec (.aisLeafRx g) s = .next (settle next)) ∧ (∀ s, ∃ next, exec .helloTx s = .next (settle next)) ∧
    (∀ s g el bytes, ∃ next, exec (.helloRx g el bytes) s = .next (settle next)) ∧
    (∀ s g bytes, ∃ next, exec (.joinRx g bytes) s = .next (settle next)) ∧
    (∀ s g bytes, ∃ next, exec (.assignRx g bytes) s = .next (settle next)) ∧
    (∀ s g bytes, ∃ next, exec (.flowRx g bytes) s = .next (settle next)) ∧
    (∀ s, ∃ next, exec .flowRefresh s = .next (settle next)) ∧
    (∀ s g bytes, ∃ next, exec (.orderRx g bytes) s = .next (settle next)) ∧
    (∀ s g bytes, ∃ next, exec (.orderReplyRx g bytes) s = .next (settle next)) ∧
    (∀ s d, ∃ next, exec (.orderRetry d) s = .next (settle next)) ∧
    (∀ s, ∃ next, exec .upstreamLoss s = .next (settle next)) ∧ (∀ s, ∃ next, exec .orphanTimeout s = .next (settle next)) ∧
    (∀ s el, ∃ next, exec (.pmSecond el) s = .next (settle next)) ∧
    (∀ s el, ∃ next, exec (.pmBinRoll el) s = .next (settle next)) ∧
    (∀ s d, ∃ next, exec (.izlHierRelease d) s = .next (settle next)) ∧
    (∀ s, ∃ next, exec .izlHierRejoin s = .next (settle next)) ∧
    (∀ s req g data, ∃ next, exec (.izlGrpCfgWrite req g data) s = .next (settle next))) ∧
  ((∀ s peer, ∃ next, exec (.peerFound peer) s = .next (settle next)) ∧
    (∀ s, ∃ next, exec .peerSearchTimeout s = .next (settle next)) ∧
    (∀ s el alt hb, ∃ next, exec (.heartbeatRx el alt hb) s = .next (settle next)) ∧
    (∀ s, ∃ next, exec .heartbeatMissed s = .next (settle next)) ∧
    (∀ s rec, ∃ next, exec (.twinStateRx rec) s = .next (settle next)) ∧
    (∀ s cls, ∃ next, exec (.staleCopyDone cls) s = .next (settle next)) ∧
    (∀ s k up, ∃ next, exec (.twinLaneChange k up) s = .next (settle next)) ∧
    (∀ s port hb, ∃ next, exec (.twinNotificationRx port hb) s = .next (settle next)) ∧
    (∀ s, ∃ next, exec .switchover s = .next (settle next)) ∧ (∀ s, ∃ next, exec .twinCmdTakeover s = .next (settle next)) ∧
    (∀ s, ∃ next, exec .declareFail s = .next (settle next)) ∧ (∀ s cls, ∃ next, exec (.resync cls) s = .next (settle next)) ∧
    (∀ s, ∃ next, exec .switchoverBoundary s = .next (settle next)) ∧
    (∀ s, ∃ next, exec .syncCopyDone s = .next (settle next)) ∧ (∀ s, ∃ next, exec .wtrExpiry s = .next (settle next)) ∧
    (∀ s, ∃ next, exec .revertReady s = .next (settle next)) ∧ (∀ s r, ∃ next, exec (.ringOpen r) s = .next (settle next)) ∧
    (∀ s r, ∃ next, exec (.ringAutoOpen r) s = .next (settle next)) ∧
    (∀ s r, ∃ next, exec (.ringReadyTimeout r) s = .next (settle next)) ∧
    (∀ s r, ∃ next, exec (.ringLinksUp r) s = .next (settle next)) ∧
    (∀ s r, ∃ next, exec (.ringOpenTimeout r) s = .next (settle next))) ∧
  ((∀ s req r force, ∃ next, exec (.ringForceWrite req r force) s = .next (settle next)) ∧
    (∀ s el, ∃ next, exec (.endpointReset el) s = .next (settle next)) ∧
    (∀ s d0 outOfReset busMaster, ∃ next, exec (.hostPortStateChange d0 outOfReset busMaster) s = .next (settle next)) ∧
    (∀ s req tx r data, ∃ next, exec (.hostRingTailWrite req tx r data) s = .next (settle next)) ∧
    (∀ s req tx r data, ∃ next, exec (.hostRingEnable req tx r data) s = .next (settle next)) ∧
    (∀ s req tx r data, ∃ next, exec (.hostRingDisable req tx r data) s = .next (settle next)) ∧
    (∀ s r el bufs, ∃ next, exec (.rxFrameDeliver r el bufs) s = .next (settle next)) ∧
    (∀ s r place el, ∃ next, exec (.rxTimeout r place el) s = .next (settle next)) ∧
    (∀ s r el chain, ∃ next, exec (.txFrameFetch r el chain) s = .next (settle next)) ∧
    (∀ s r, ∃ next, exec (.txCompletion r) s = .next (settle next)) ∧
    (∀ s req data, ∃ next, exec (.tableDmaGo req data) s = .next (settle next)) ∧
    (∀ s hostData errorAt, ∃ next, exec (.tableDmaDone hostData errorAt) s = .next (settle next)) ∧
    (∀ s core el, ∃ next, exec (.watchdogExpiry core el) s = .next (settle next)) ∧
    (∀ s el, ∃ next, exec (.mc0WatchdogExpiry el) s = .next (settle next)) ∧
    (∀ s core, ∃ next, exec (.coreRestartDone core) s = .next (settle next)) ∧
    (∀ s req, ∃ next, exec (.replVerify req) s = .next (settle next)) ∧
    (∀ s req, ∃ next, exec (.replArm req) s = .next (settle next)) ∧
    (∀ s req, ∃ next, exec (.replAbort req) s = .next (settle next)) ∧
    (∀ s req, ∃ next, exec (.replAck req) s = .next (settle next)) ∧ (∀ s, ∃ next, exec .replSwitch s = .next (settle next)) ∧
    (∀ s bytes, ∃ next, exec (.replContainerToStandby bytes) s = .next (settle next))) ∧
  ((∀ s src kind, ∃ next, exec (.stageClaim src kind) s = .next (settle next)) ∧
    (∀ s src, ∃ next, exec (.stageWrite src) s = .next (settle next)) ∧
    (∀ s data error, ∃ next, exec (.stageWriteDone data error) s = .next (settle next)) ∧
    (∀ s src, ∃ next, exec (.stageEnd src) s = .next (settle next)) ∧
    (∀ s src, ∃ next, exec (.stageVerify src) s = .next (settle next)) ∧
    (∀ s src, ∃ next, exec (.stageCommit src) s = .next (settle next)) ∧
    (∀ s src, ∃ next, exec (.stageAbort src) s = .next (settle next)) ∧
    (∀ s, ∃ next, exec .stagingLockTimeout s = .next (settle next)) ∧
    (∀ s req, ∃ next, exec (.activateHitless req) s = .next (settle next)) ∧
    (∀ s req, ∃ next, exec (.activateTwin req) s = .next (settle next)) ∧
    (∀ s req, ∃ next, exec (.activateRestart req) s = .next (settle next)) ∧
    (∀ s req, ∃ next, exec (.confirm req) s = .next (settle next)) ∧
    (∀ s req, ∃ next, exec (.raiseFloor req) s = .next (settle next)) ∧
    (∀ s req, ∃ next, exec (.programCustKey req) s = .next (settle next)) ∧
    (∀ s e, ∃ next, exec (.engineDrained e) s = .next (settle next)) ∧
    (∀ s e, ∃ next, exec (.drainTimeout e) s = .next (settle next)) ∧
    (∀ s core ok, ∃ next, exec (.coreUpdateDone core ok) s = .next (settle next)) ∧
    (∀ s, ∃ next, exec .trialHoldExpiry s = .next (settle next)) ∧
    (∀ s req, ∃ next, exec (.hierStage req) s = .next (settle next)) ∧
    (∀ s req, ∃ next, exec (.hierActivate req) s = .next (settle next)) ∧
    (∀ s req, ∃ next, exec (.hierAbort req) s = .next (settle next))) ∧
  ((∀ s req n code, ∃ next, exec (.ballOwnerWrite req n code) s = .next (settle next)) ∧
    (∀ s req n dir out, ∃ next, exec (.ballDriveWrite req n dir out) s = .next (settle next)) ∧
    (∀ s space offset words, ∃ next, exec (.spiRead space offset words) s = .next (settle next)) ∧
    (∀ s, ∃ next, exec .spiStatus s = .next (settle next)) ∧ (∀ s, ∃ next, exec .spiIdent s = .next (settle next)) ∧
    (∀ s room, ∃ next, exec (.traceFrameTx room) s = .next (settle next)) ∧
    (∀ s, ∃ next, exec .snapshotPeriod s = .next (settle next)) ∧
    (∀ s el crossings, ∃ next, exec (.sillageEpoch el crossings) s = .next (settle next)) ∧
    (∀ s req, ∃ next, exec (.recArm req) s = .next (settle next)) ∧
    (∀ s req, ∃ next, exec (.recStop req) s = .next (settle next)) ∧
    (∀ s req, ∃ next, exec (.recRelease req) s = .next (settle next)) ∧
    (∀ s req, ∃ next, exec (.recTrigger req) s = .next (settle next)) ∧
    (∀ s m, ∃ next, exec (.matchTrigger m) s = .next (settle next)) ∧
    (∀ s, ∃ next, exec .postExpiry s = .next (settle next)) ∧ (∀ s, ∃ next, exec .checkpointTimer s = .next (settle next)) ∧
    (∀ s req, ∃ next, exec (.captureExportGo req) s = .next (settle next)) ∧
    (∀ s req, ∃ next, exec (.rerunEnter req) s = .next (settle next)) ∧
    (∀ s req, ∃ next, exec (.rerunStart req) s = .next (settle next)) ∧
    (∀ s req addr width upsets, ∃ next, exec (.registerRead req addr width upsets) s = .next (settle next)) ∧
    (∀ s, ∃ next, exec .holdupChargeFull s = .next (settle next)) ∧
    (∀ s tb el, ∃ next, exec (.wholeSecond tb el) s = .next (settle next)))

/-- A disarmed vector's condition stands (R434): a step re-arms every vector whose level has gone. -/
def Obligations.DisarmedVectorsStand : Prop :=
  Invariant fun s => s.irq.disarmed &&& ~~~levels s = 0

/-- No vector is disarmed after reset. -/
def Obligations.ResetArmsVectors : Prop :=
  State.reset.irq.disarmed &&& ~~~levels State.reset = 0 ∧ State.reset.irq.disarmed = 0

/-- What reset leaves (R461, R463, R551): the registers that chapters 14 to 19 give a reset value read it, no link is up, no role
is taken, no readiness stage is reached, and no command waits. -/
def Obligations.ResetLeaves : Prop :=
  (∀ r ix, word State.reset r ix = r.resetWord ix ∧ stagedWord State.reset r ix = r.resetWord ix) ∧
    (∀ g ix i, ctr State.reset g ix i = 0) ∧ (∀ p < 80, linkUp State.reset p = false) ∧ (∀ n < 12, stageDone State.reset n = false) ∧
    role State.reset = 0 ∧ recState State.reset = 0 ∧ State.reset.pending = [] ∧ State.reset.bar4.wf ∧
    word State.reset Reg.twinCfg [] = 0x0008003C ∧ word State.reset Reg.twinClassMode [] = 0x00015555 ∧
    (∀ r < 4, word State.reset Reg.twinRingCtrl [r] = 0x00140000)
end

