-- ==== Sys2Proof/Laws/Sparse.lean ====
section
/-! SUPPORT. The laws of sparse tables and of addressed memory: what a read after a write gives, and that every
operation keeps the canonical form. -/
namespace Sys2Proof.Machine

variable {α : Type} {d e : α} {l : Sparse α} {j k : Nat} {v : α}

@[simp] theorem get_nil : get d [] k = d := rfl

@[simp] theorem get_put_same : get d (put l k v) k = v := by
  induction l with
  | nil => simp [put, get]
  | cons x l ih =>
    obtain ⟨j, w⟩ := x
    by_cases h : k < j
    · simp [put, h, get]
    · by_cases h' : k = j
      · simp [put, h', get]
      · simp [put, h, h', get, ih]

theorem get_put_other (h : j ≠ k) : get d (put l k v) j = get d l j := by
  induction l with
  | nil => simp [put, get, h]
  | cons x l ih =>
    obtain ⟨i, w⟩ := x
    by_cases h1 : k < i
    · simp [put, h1, get, h]
    · by_cases h2 : k = i
      · subst h2; simp [put, get, h]
      · simp [put, h1, h2, get, ih]

@[simp] theorem get_drop_same : get d (drop l k) k = d := by
  induction l with
  | nil => rfl
  | cons x l ih =>
    obtain ⟨i, w⟩ := x
    by_cases h : k = i
    · simp [drop, h]; subst h; exact ih
    · simp [drop, h, get, ih]

theorem get_drop_other (h : j ≠ k) : get d (drop l k) j = get d l j := by
  induction l with
  | nil => rfl
  | cons x l ih =>
    obtain ⟨i, w⟩ := x
    by_cases h1 : k = i
    · subst h1; simp [drop, get, h, ih]
    · simp [drop, h1, get, ih]

/-- A read after a write to the same key gives the value written. -/
@[simp] theorem get_set_same [DecidableEq α] : get d (set d l k v) k = v := by
  unfold set; split
  · subst_vars; simp
  · simp

/-- A write leaves every other key alone, whatever value an unlisted key reads as. -/
theorem get_set_other [DecidableEq α] (h : j ≠ k) : get d (set e l k v) j = get d l j := by
  unfold set; split
  · exact get_drop_other h
  · exact get_put_other h

@[simp] theorem find_put_same : find (put l k v) k = some v := by
  induction l with
  | nil => simp [put, find]
  | cons x l ih =>
    obtain ⟨j, w⟩ := x
    by_cases h : k < j
    · simp [put, h, find]
    · by_cases h' : k = j
      · simp [put, h', find]
      · simp [put, h, h', find, ih]

theorem find_put_other (h : j ≠ k) : find (put l k v) j = find l j := by
  induction l with
  | nil => simp [put, find, h]
  | cons x l ih =>
    obtain ⟨i, w⟩ := x
    by_cases h1 : k < i
    · simp [put, h1, find, h]
    · by_cases h2 : k = i
      · subst h2; simp [put, find, h]
      · simp [put, h1, h2, find, ih]

@[simp] theorem find_drop_same : find (drop l k) k = none := by
  induction l with
  | nil => rfl
  | cons x l ih =>
    obtain ⟨i, w⟩ := x
    by_cases h : k = i
    · simp [drop, h]; subst h; exact ih
    · simp [drop, h, find, ih]

theorem find_drop_other (h : j ≠ k) : find (drop l k) j = find l j := by
  induction l with
  | nil => rfl
  | cons x l ih =>
    obtain ⟨i, w⟩ := x
    by_cases h1 : k = i
    · subst h1; simp [drop, find, h, ih]
    · simp [drop, h1, find, ih]

/-! ### The canonical form -/

theorem mem_put {x : Nat × α} (h : x ∈ put l k v) : x = (k, v) ∨ x ∈ l := by
  induction l with
  | nil => simpa [put] using h
  | cons y l ih =>
    obtain ⟨i, w⟩ := y
    by_cases h1 : k < i
    · simpa [put, h1] using h
    · by_cases h2 : k = i
      · rw [put, if_neg h1, if_pos h2] at h; rcases List.mem_cons.1 h with h | h <;> simp [h]
      · rw [put, if_neg h1, if_neg h2] at h
        rcases List.mem_cons.1 h with h | h
        · simp [h]
        · rcases ih h with h | h <;> simp [h]

theorem mem_drop {x : Nat × α} (h : x ∈ drop l k) : x ∈ l := by
  induction l with
  | nil => simp [drop] at h
  | cons y l ih =>
    obtain ⟨i, w⟩ := y
    by_cases h1 : k = i
    · rw [drop, if_pos h1] at h; exact List.mem_cons_of_mem _ (ih h)
    · rw [drop, if_neg h1] at h
      rcases List.mem_cons.1 h with h | h
      · simp [h]
      · exact List.mem_cons_of_mem _ (ih h)

theorem sorted_drop (h : sorted l) : sorted (drop l k) := by
  induction l with
  | nil => simp [drop, sorted]
  | cons y l ih =>
    obtain ⟨i, w⟩ := y
    have h' := List.pairwise_cons.1 h
    by_cases h1 : k = i
    · rw [drop, if_pos h1]; exact ih h'.2
    · rw [drop, if_neg h1]
      exact List.pairwise_cons.2 ⟨fun x hx => h'.1 x (mem_drop hx), ih h'.2⟩

theorem sorted_put (h : sorted l) : sorted (put l k v) := by
  induction l with
  | nil => simp [put, sorted]
  | cons y l ih =>
    obtain ⟨i, w⟩ := y
    have h' := List.pairwise_cons.1 h
    by_cases h1 : k < i
    · rw [put, if_pos h1]
      refine List.pairwise_cons.2 ⟨fun x hx => ?_, h⟩
      rcases List.mem_cons.1 hx with rfl | hx
      · exact h1
      · exact lt_trans h1 (h'.1 x hx)
    · by_cases h2 : k = i
      · rw [put, if_neg h1, if_pos h2]; subst h2; exact List.pairwise_cons.2 ⟨h'.1, h'.2⟩
      · rw [put, if_neg h1, if_neg h2]
        refine List.pairwise_cons.2 ⟨fun x hx => ?_, ih h'.2⟩
        rcases mem_put hx with rfl | hx
        · exact lt_of_le_of_ne (not_lt.1 h1) (Ne.symm h2)
        · exact h'.1 x hx

/-- A write keeps the canonical form. -/
theorem canon_set [DecidableEq α] (h : canon d l) : canon d (set d l k v) := by
  unfold set; split
  · exact ⟨sorted_drop h.1, fun x hx => h.2 x (mem_drop hx)⟩
  · next hv =>
    refine ⟨sorted_put h.1, fun x hx => ?_⟩
    rcases mem_put hx with rfl | hx
    · exact hv
    · exact h.2 x hx

theorem canon_nil : canon d ([] : Sparse α) := by simp [canon, sorted]

/-! ### Addressed memory (BAR4) -/

@[simp] theorem Memory.read_write_same (m : Memory) (a : Nat) (b : Byte) : (m.write a b).read a = b := get_set_same

theorem Memory.read_write_other (m : Memory) {a c : Nat} (b : Byte) (h : c ≠ a) : (m.write a b).read c = m.read c :=
  get_set_other h

/-- Writing a byte keeps the canonical form of memory. -/
theorem Memory.wf_write {m : Memory} (h : m.wf) (a : Nat) (b : Byte) : (m.write a b).wf := canon_set h

/-- Writing bytes upward keeps the canonical form of memory. -/
theorem Memory.wf_writeList {m : Memory} (h : m.wf) (a : Nat) (bs : List Byte) : (m.writeList a bs).wf := by
  induction bs generalizing m a with
  | nil => exact h
  | cons b bs ih => exact ih (Memory.wf_write h a b) (a + 1)

/-- An address outside the bytes written reads as before. -/
theorem Memory.read_writeList_other (m : Memory) (a c : Nat) (bs : List Byte) (h : c < a ∨ a + bs.length ≤ c) :
    (m.writeList a bs).read c = m.read c := by
  induction bs generalizing m a with
  | nil => rfl
  | cons b bs ih =>
    simp only [List.length_cons] at h
    rw [Memory.writeList, ih (m.write a b) (a + 1) (by omega), Memory.read_write_other m b (by omega)]

end Sys2Proof.Machine
end

