-- ==== Sys2Proof/Laws/State.lean ====
section
/-! SUPPORT. What each named update of the state leaves alone: one lemma for each field and each update, so that no proof
unfolds a record update. -/
namespace Sys2Proof.Machine

@[simp] theorem putWord_power (s : State) (r : RegRow) (ix : List Nat) (w : Word) : (putWord s r ix w).power = s.power := rfl
@[simp] theorem putWord_irq (s : State) (r : RegRow) (ix : List Nat) (w : Word) : (putWord s r ix w).irq = s.irq := rfl
@[simp] theorem putWord_fix (s : State) (r : RegRow) (ix : List Nat) (w : Word) : (putWord s r ix w).fix = s.fix := rfl
@[simp] theorem putWord_image (s : State) (r : RegRow) (ix : List Nat) (w : Word) : (putWord s r ix w).image = s.image := rfl
@[simp] theorem putWord_frames (s : State) (r : RegRow) (ix : List Nat) (w : Word) : (putWord s r ix w).frames = s.frames := rfl
@[simp] theorem putWord_nextFrame (s : State) (r : RegRow) (ix : List Nat) (w : Word) : (putWord s r ix w).nextFrame = s.nextFrame := rfl
@[simp] theorem putWord_ports (s : State) (r : RegRow) (ix : List Nat) (w : Word) : (putWord s r ix w).ports = s.ports := rfl
@[simp] theorem putWord_modules (s : State) (r : RegRow) (ix : List Nat) (w : Word) : (putWord s r ix w).modules = s.modules := rfl
@[simp] theorem putWord_bpm (s : State) (r : RegRow) (ix : List Nat) (w : Word) : (putWord s r ix w).bpm = s.bpm := rfl
@[simp] theorem putWord_sched (s : State) (r : RegRow) (ix : List Nat) (w : Word) : (putWord s r ix w).sched = s.sched := rfl
@[simp] theorem putWord_fdb (s : State) (r : RegRow) (ix : List Nat) (w : Word) : (putWord s r ix w).fdb = s.fdb := rfl
@[simp] theorem putWord_strm (s : State) (r : RegRow) (ix : List Nat) (w : Word) : (putWord s r ix w).strm = s.strm := rfl
@[simp] theorem putWord_time (s : State) (r : RegRow) (ix : List Nat) (w : Word) : (putWord s r ix w).time = s.time := rfl
@[simp] theorem putWord_acc (s : State) (r : RegRow) (ix : List Nat) (w : Word) : (putWord s r ix w).acc = s.acc := rfl
@[simp] theorem putWord_place (s : State) (r : RegRow) (ix : List Nat) (w : Word) : (putWord s r ix w).place = s.place := rfl
@[simp] theorem putWord_izl (s : State) (r : RegRow) (ix : List Nat) (w : Word) : (putWord s r ix w).izl = s.izl := rfl
@[simp] theorem putWord_twin (s : State) (r : RegRow) (ix : List Nat) (w : Word) : (putWord s r ix w).twin = s.twin := rfl
@[simp] theorem putWord_host (s : State) (r : RegRow) (ix : List Nat) (w : Word) : (putWord s r ix w).host = s.host := rfl
@[simp] theorem putWord_img (s : State) (r : RegRow) (ix : List Nat) (w : Word) : (putWord s r ix w).img = s.img := rfl
@[simp] theorem putWord_maint (s : State) (r : RegRow) (ix : List Nat) (w : Word) : (putWord s r ix w).maint = s.maint := rfl
@[simp] theorem putWord_obs (s : State) (r : RegRow) (ix : List Nat) (w : Word) : (putWord s r ix w).obs = s.obs := rfl
@[simp] theorem putWord_bar4 (s : State) (r : RegRow) (ix : List Nat) (w : Word) : (putWord s r ix w).bar4 = s.bar4 := rfl
@[simp] theorem putWord_out (s : State) (r : RegRow) (ix : List Nat) (w : Word) : (putWord s r ix w).out = s.out := rfl
@[simp] theorem putWord_pending (s : State) (r : RegRow) (ix : List Nat) (w : Word) : (putWord s r ix w).pending = s.pending := rfl
@[simp] theorem putWord_seed (s : State) (r : RegRow) (ix : List Nat) (w : Word) : (putWord s r ix w).seed = s.seed := rfl
@[simp] theorem putWord_draws (s : State) (r : RegRow) (ix : List Nat) (w : Word) : (putWord s r ix w).draws = s.draws := rfl
@[simp] theorem putWord_freeCtr (s : State) (r : RegRow) (ix : List Nat) (w : Word) : (putWord s r ix w).freeCtr = s.freeCtr := rfl

@[simp] theorem putStaged_power (s : State) (r : RegRow) (ix : List Nat) (w : Word) : (putStaged s r ix w).power = s.power := rfl
@[simp] theorem putStaged_irq (s : State) (r : RegRow) (ix : List Nat) (w : Word) : (putStaged s r ix w).irq = s.irq := rfl
@[simp] theorem putStaged_fix (s : State) (r : RegRow) (ix : List Nat) (w : Word) : (putStaged s r ix w).fix = s.fix := rfl
@[simp] theorem putStaged_image (s : State) (r : RegRow) (ix : List Nat) (w : Word) : (putStaged s r ix w).image = s.image := rfl
@[simp] theorem putStaged_frames (s : State) (r : RegRow) (ix : List Nat) (w : Word) : (putStaged s r ix w).frames = s.frames := rfl
@[simp] theorem putStaged_nextFrame (s : State) (r : RegRow) (ix : List Nat) (w : Word) : (putStaged s r ix w).nextFrame = s.nextFrame := rfl
@[simp] theorem putStaged_ports (s : State) (r : RegRow) (ix : List Nat) (w : Word) : (putStaged s r ix w).ports = s.ports := rfl
@[simp] theorem putStaged_modules (s : State) (r : RegRow) (ix : List Nat) (w : Word) : (putStaged s r ix w).modules = s.modules := rfl
@[simp] theorem putStaged_bpm (s : State) (r : RegRow) (ix : List Nat) (w : Word) : (putStaged s r ix w).bpm = s.bpm := rfl
@[simp] theorem putStaged_sched (s : State) (r : RegRow) (ix : List Nat) (w : Word) : (putStaged s r ix w).sched = s.sched := rfl
@[simp] theorem putStaged_fdb (s : State) (r : RegRow) (ix : List Nat) (w : Word) : (putStaged s r ix w).fdb = s.fdb := rfl
@[simp] theorem putStaged_strm (s : State) (r : RegRow) (ix : List Nat) (w : Word) : (putStaged s r ix w).strm = s.strm := rfl
@[simp] theorem putStaged_time (s : State) (r : RegRow) (ix : List Nat) (w : Word) : (putStaged s r ix w).time = s.time := rfl
@[simp] theorem putStaged_acc (s : State) (r : RegRow) (ix : List Nat) (w : Word) : (putStaged s r ix w).acc = s.acc := rfl
@[simp] theorem putStaged_place (s : State) (r : RegRow) (ix : List Nat) (w : Word) : (putStaged s r ix w).place = s.place := rfl
@[simp] theorem putStaged_izl (s : State) (r : RegRow) (ix : List Nat) (w : Word) : (putStaged s r ix w).izl = s.izl := rfl
@[simp] theorem putStaged_twin (s : State) (r : RegRow) (ix : List Nat) (w : Word) : (putStaged s r ix w).twin = s.twin := rfl
@[simp] theorem putStaged_host (s : State) (r : RegRow) (ix : List Nat) (w : Word) : (putStaged s r ix w).host = s.host := rfl
@[simp] theorem putStaged_img (s : State) (r : RegRow) (ix : List Nat) (w : Word) : (putStaged s r ix w).img = s.img := rfl
@[simp] theorem putStaged_maint (s : State) (r : RegRow) (ix : List Nat) (w : Word) : (putStaged s r ix w).maint = s.maint := rfl
@[simp] theorem putStaged_obs (s : State) (r : RegRow) (ix : List Nat) (w : Word) : (putStaged s r ix w).obs = s.obs := rfl
@[simp] theorem putStaged_bar4 (s : State) (r : RegRow) (ix : List Nat) (w : Word) : (putStaged s r ix w).bar4 = s.bar4 := rfl
@[simp] theorem putStaged_out (s : State) (r : RegRow) (ix : List Nat) (w : Word) : (putStaged s r ix w).out = s.out := rfl
@[simp] theorem putStaged_pending (s : State) (r : RegRow) (ix : List Nat) (w : Word) : (putStaged s r ix w).pending = s.pending := rfl
@[simp] theorem putStaged_seed (s : State) (r : RegRow) (ix : List Nat) (w : Word) : (putStaged s r ix w).seed = s.seed := rfl
@[simp] theorem putStaged_draws (s : State) (r : RegRow) (ix : List Nat) (w : Word) : (putStaged s r ix w).draws = s.draws := rfl
@[simp] theorem putStaged_freeCtr (s : State) (r : RegRow) (ix : List Nat) (w : Word) : (putStaged s r ix w).freeCtr = s.freeCtr := rfl

@[simp] theorem wr_power (s : State) (r : RegRow) (ix : List Nat) (hi lo v : Nat) : (wr s r ix hi lo v).power = s.power := rfl
@[simp] theorem wr_irq (s : State) (r : RegRow) (ix : List Nat) (hi lo v : Nat) : (wr s r ix hi lo v).irq = s.irq := rfl
@[simp] theorem wr_fix (s : State) (r : RegRow) (ix : List Nat) (hi lo v : Nat) : (wr s r ix hi lo v).fix = s.fix := rfl
@[simp] theorem wr_image (s : State) (r : RegRow) (ix : List Nat) (hi lo v : Nat) : (wr s r ix hi lo v).image = s.image := rfl
@[simp] theorem wr_frames (s : State) (r : RegRow) (ix : List Nat) (hi lo v : Nat) : (wr s r ix hi lo v).frames = s.frames := rfl
@[simp] theorem wr_nextFrame (s : State) (r : RegRow) (ix : List Nat) (hi lo v : Nat) : (wr s r ix hi lo v).nextFrame = s.nextFrame := rfl
@[simp] theorem wr_ports (s : State) (r : RegRow) (ix : List Nat) (hi lo v : Nat) : (wr s r ix hi lo v).ports = s.ports := rfl
@[simp] theorem wr_modules (s : State) (r : RegRow) (ix : List Nat) (hi lo v : Nat) : (wr s r ix hi lo v).modules = s.modules := rfl
@[simp] theorem wr_bpm (s : State) (r : RegRow) (ix : List Nat) (hi lo v : Nat) : (wr s r ix hi lo v).bpm = s.bpm := rfl
@[simp] theorem wr_sched (s : State) (r : RegRow) (ix : List Nat) (hi lo v : Nat) : (wr s r ix hi lo v).sched = s.sched := rfl
@[simp] theorem wr_fdb (s : State) (r : RegRow) (ix : List Nat) (hi lo v : Nat) : (wr s r ix hi lo v).fdb = s.fdb := rfl
@[simp] theorem wr_strm (s : State) (r : RegRow) (ix : List Nat) (hi lo v : Nat) : (wr s r ix hi lo v).strm = s.strm := rfl
@[simp] theorem wr_time (s : State) (r : RegRow) (ix : List Nat) (hi lo v : Nat) : (wr s r ix hi lo v).time = s.time := rfl
@[simp] theorem wr_acc (s : State) (r : RegRow) (ix : List Nat) (hi lo v : Nat) : (wr s r ix hi lo v).acc = s.acc := rfl
@[simp] theorem wr_place (s : State) (r : RegRow) (ix : List Nat) (hi lo v : Nat) : (wr s r ix hi lo v).place = s.place := rfl
@[simp] theorem wr_izl (s : State) (r : RegRow) (ix : List Nat) (hi lo v : Nat) : (wr s r ix hi lo v).izl = s.izl := rfl
@[simp] theorem wr_twin (s : State) (r : RegRow) (ix : List Nat) (hi lo v : Nat) : (wr s r ix hi lo v).twin = s.twin := rfl
@[simp] theorem wr_host (s : State) (r : RegRow) (ix : List Nat) (hi lo v : Nat) : (wr s r ix hi lo v).host = s.host := rfl
@[simp] theorem wr_img (s : State) (r : RegRow) (ix : List Nat) (hi lo v : Nat) : (wr s r ix hi lo v).img = s.img := rfl
@[simp] theorem wr_maint (s : State) (r : RegRow) (ix : List Nat) (hi lo v : Nat) : (wr s r ix hi lo v).maint = s.maint := rfl
@[simp] theorem wr_obs (s : State) (r : RegRow) (ix : List Nat) (hi lo v : Nat) : (wr s r ix hi lo v).obs = s.obs := rfl
@[simp] theorem wr_bar4 (s : State) (r : RegRow) (ix : List Nat) (hi lo v : Nat) : (wr s r ix hi lo v).bar4 = s.bar4 := rfl
@[simp] theorem wr_out (s : State) (r : RegRow) (ix : List Nat) (hi lo v : Nat) : (wr s r ix hi lo v).out = s.out := rfl
@[simp] theorem wr_pending (s : State) (r : RegRow) (ix : List Nat) (hi lo v : Nat) : (wr s r ix hi lo v).pending = s.pending := rfl
@[simp] theorem wr_seed (s : State) (r : RegRow) (ix : List Nat) (hi lo v : Nat) : (wr s r ix hi lo v).seed = s.seed := rfl
@[simp] theorem wr_draws (s : State) (r : RegRow) (ix : List Nat) (hi lo v : Nat) : (wr s r ix hi lo v).draws = s.draws := rfl
@[simp] theorem wr_freeCtr (s : State) (r : RegRow) (ix : List Nat) (hi lo v : Nat) : (wr s r ix hi lo v).freeCtr = s.freeCtr := rfl

@[simp] theorem wrBit_power (s : State) (r : RegRow) (ix : List Nat) (i : Nat) (b : Bool) : (wrBit s r ix i b).power = s.power := rfl
@[simp] theorem wrBit_irq (s : State) (r : RegRow) (ix : List Nat) (i : Nat) (b : Bool) : (wrBit s r ix i b).irq = s.irq := rfl
@[simp] theorem wrBit_fix (s : State) (r : RegRow) (ix : List Nat) (i : Nat) (b : Bool) : (wrBit s r ix i b).fix = s.fix := rfl
@[simp] theorem wrBit_image (s : State) (r : RegRow) (ix : List Nat) (i : Nat) (b : Bool) : (wrBit s r ix i b).image = s.image := rfl
@[simp] theorem wrBit_frames (s : State) (r : RegRow) (ix : List Nat) (i : Nat) (b : Bool) : (wrBit s r ix i b).frames = s.frames := rfl
@[simp] theorem wrBit_nextFrame (s : State) (r : RegRow) (ix : List Nat) (i : Nat) (b : Bool) : (wrBit s r ix i b).nextFrame = s.nextFrame := rfl
@[simp] theorem wrBit_ports (s : State) (r : RegRow) (ix : List Nat) (i : Nat) (b : Bool) : (wrBit s r ix i b).ports = s.ports := rfl
@[simp] theorem wrBit_modules (s : State) (r : RegRow) (ix : List Nat) (i : Nat) (b : Bool) : (wrBit s r ix i b).modules = s.modules := rfl
@[simp] theorem wrBit_bpm (s : State) (r : RegRow) (ix : List Nat) (i : Nat) (b : Bool) : (wrBit s r ix i b).bpm = s.bpm := rfl
@[simp] theorem wrBit_sched (s : State) (r : RegRow) (ix : List Nat) (i : Nat) (b : Bool) : (wrBit s r ix i b).sched = s.sched := rfl
@[simp] theorem wrBit_fdb (s : State) (r : RegRow) (ix : List Nat) (i : Nat) (b : Bool) : (wrBit s r ix i b).fdb = s.fdb := rfl
@[simp] theorem wrBit_strm (s : State) (r : RegRow) (ix : List Nat) (i : Nat) (b : Bool) : (wrBit s r ix i b).strm = s.strm := rfl
@[simp] theorem wrBit_time (s : State) (r : RegRow) (ix : List Nat) (i : Nat) (b : Bool) : (wrBit s r ix i b).time = s.time := rfl
@[simp] theorem wrBit_acc (s : State) (r : RegRow) (ix : List Nat) (i : Nat) (b : Bool) : (wrBit s r ix i b).acc = s.acc := rfl
@[simp] theorem wrBit_place (s : State) (r : RegRow) (ix : List Nat) (i : Nat) (b : Bool) : (wrBit s r ix i b).place = s.place := rfl
@[simp] theorem wrBit_izl (s : State) (r : RegRow) (ix : List Nat) (i : Nat) (b : Bool) : (wrBit s r ix i b).izl = s.izl := rfl
@[simp] theorem wrBit_twin (s : State) (r : RegRow) (ix : List Nat) (i : Nat) (b : Bool) : (wrBit s r ix i b).twin = s.twin := rfl
@[simp] theorem wrBit_host (s : State) (r : RegRow) (ix : List Nat) (i : Nat) (b : Bool) : (wrBit s r ix i b).host = s.host := rfl
@[simp] theorem wrBit_img (s : State) (r : RegRow) (ix : List Nat) (i : Nat) (b : Bool) : (wrBit s r ix i b).img = s.img := rfl
@[simp] theorem wrBit_maint (s : State) (r : RegRow) (ix : List Nat) (i : Nat) (b : Bool) : (wrBit s r ix i b).maint = s.maint := rfl
@[simp] theorem wrBit_obs (s : State) (r : RegRow) (ix : List Nat) (i : Nat) (b : Bool) : (wrBit s r ix i b).obs = s.obs := rfl
@[simp] theorem wrBit_bar4 (s : State) (r : RegRow) (ix : List Nat) (i : Nat) (b : Bool) : (wrBit s r ix i b).bar4 = s.bar4 := rfl
@[simp] theorem wrBit_out (s : State) (r : RegRow) (ix : List Nat) (i : Nat) (b : Bool) : (wrBit s r ix i b).out = s.out := rfl
@[simp] theorem wrBit_pending (s : State) (r : RegRow) (ix : List Nat) (i : Nat) (b : Bool) : (wrBit s r ix i b).pending = s.pending := rfl
@[simp] theorem wrBit_seed (s : State) (r : RegRow) (ix : List Nat) (i : Nat) (b : Bool) : (wrBit s r ix i b).seed = s.seed := rfl
@[simp] theorem wrBit_draws (s : State) (r : RegRow) (ix : List Nat) (i : Nat) (b : Bool) : (wrBit s r ix i b).draws = s.draws := rfl
@[simp] theorem wrBit_freeCtr (s : State) (r : RegRow) (ix : List Nat) (i : Nat) (b : Bool) : (wrBit s r ix i b).freeCtr = s.freeCtr := rfl

@[simp] theorem wrBoth_power (s : State) (r : RegRow) (ix : List Nat) (hi lo v : Nat) : (wrBoth s r ix hi lo v).power = s.power := rfl
@[simp] theorem wrBoth_irq (s : State) (r : RegRow) (ix : List Nat) (hi lo v : Nat) : (wrBoth s r ix hi lo v).irq = s.irq := rfl
@[simp] theorem wrBoth_fix (s : State) (r : RegRow) (ix : List Nat) (hi lo v : Nat) : (wrBoth s r ix hi lo v).fix = s.fix := rfl
@[simp] theorem wrBoth_image (s : State) (r : RegRow) (ix : List Nat) (hi lo v : Nat) : (wrBoth s r ix hi lo v).image = s.image := rfl
@[simp] theorem wrBoth_frames (s : State) (r : RegRow) (ix : List Nat) (hi lo v : Nat) : (wrBoth s r ix hi lo v).frames = s.frames := rfl
@[simp] theorem wrBoth_nextFrame (s : State) (r : RegRow) (ix : List Nat) (hi lo v : Nat) : (wrBoth s r ix hi lo v).nextFrame = s.nextFrame := rfl
@[simp] theorem wrBoth_ports (s : State) (r : RegRow) (ix : List Nat) (hi lo v : Nat) : (wrBoth s r ix hi lo v).ports = s.ports := rfl
@[simp] theorem wrBoth_modules (s : State) (r : RegRow) (ix : List Nat) (hi lo v : Nat) : (wrBoth s r ix hi lo v).modules = s.modules := rfl
@[simp] theorem wrBoth_bpm (s : State) (r : RegRow) (ix : List Nat) (hi lo v : Nat) : (wrBoth s r ix hi lo v).bpm = s.bpm := rfl
@[simp] theorem wrBoth_sched (s : State) (r : RegRow) (ix : List Nat) (hi lo v : Nat) : (wrBoth s r ix hi lo v).sched = s.sched := rfl
@[simp] theorem wrBoth_fdb (s : State) (r : RegRow) (ix : List Nat) (hi lo v : Nat) : (wrBoth s r ix hi lo v).fdb = s.fdb := rfl
@[simp] theorem wrBoth_strm (s : State) (r : RegRow) (ix : List Nat) (hi lo v : Nat) : (wrBoth s r ix hi lo v).strm = s.strm := rfl
@[simp] theorem wrBoth_time (s : State) (r : RegRow) (ix : List Nat) (hi lo v : Nat) : (wrBoth s r ix hi lo v).time = s.time := rfl
@[simp] theorem wrBoth_acc (s : State) (r : RegRow) (ix : List Nat) (hi lo v : Nat) : (wrBoth s r ix hi lo v).acc = s.acc := rfl
@[simp] theorem wrBoth_place (s : State) (r : RegRow) (ix : List Nat) (hi lo v : Nat) : (wrBoth s r ix hi lo v).place = s.place := rfl
@[simp] theorem wrBoth_izl (s : State) (r : RegRow) (ix : List Nat) (hi lo v : Nat) : (wrBoth s r ix hi lo v).izl = s.izl := rfl
@[simp] theorem wrBoth_twin (s : State) (r : RegRow) (ix : List Nat) (hi lo v : Nat) : (wrBoth s r ix hi lo v).twin = s.twin := rfl
@[simp] theorem wrBoth_host (s : State) (r : RegRow) (ix : List Nat) (hi lo v : Nat) : (wrBoth s r ix hi lo v).host = s.host := rfl
@[simp] theorem wrBoth_img (s : State) (r : RegRow) (ix : List Nat) (hi lo v : Nat) : (wrBoth s r ix hi lo v).img = s.img := rfl
@[simp] theorem wrBoth_maint (s : State) (r : RegRow) (ix : List Nat) (hi lo v : Nat) : (wrBoth s r ix hi lo v).maint = s.maint := rfl
@[simp] theorem wrBoth_obs (s : State) (r : RegRow) (ix : List Nat) (hi lo v : Nat) : (wrBoth s r ix hi lo v).obs = s.obs := rfl
@[simp] theorem wrBoth_bar4 (s : State) (r : RegRow) (ix : List Nat) (hi lo v : Nat) : (wrBoth s r ix hi lo v).bar4 = s.bar4 := rfl
@[simp] theorem wrBoth_out (s : State) (r : RegRow) (ix : List Nat) (hi lo v : Nat) : (wrBoth s r ix hi lo v).out = s.out := rfl
@[simp] theorem wrBoth_pending (s : State) (r : RegRow) (ix : List Nat) (hi lo v : Nat) : (wrBoth s r ix hi lo v).pending = s.pending := rfl
@[simp] theorem wrBoth_seed (s : State) (r : RegRow) (ix : List Nat) (hi lo v : Nat) : (wrBoth s r ix hi lo v).seed = s.seed := rfl
@[simp] theorem wrBoth_draws (s : State) (r : RegRow) (ix : List Nat) (hi lo v : Nat) : (wrBoth s r ix hi lo v).draws = s.draws := rfl
@[simp] theorem wrBoth_freeCtr (s : State) (r : RegRow) (ix : List Nat) (hi lo v : Nat) : (wrBoth s r ix hi lo v).freeCtr = s.freeCtr := rfl

@[simp] theorem countEvent_power (s : State) (r : RegRow) (ix : List Nat) : (countEvent s r ix).power = s.power := rfl
@[simp] theorem countEvent_irq (s : State) (r : RegRow) (ix : List Nat) : (countEvent s r ix).irq = s.irq := rfl
@[simp] theorem countEvent_fix (s : State) (r : RegRow) (ix : List Nat) : (countEvent s r ix).fix = s.fix := rfl
@[simp] theorem countEvent_image (s : State) (r : RegRow) (ix : List Nat) : (countEvent s r ix).image = s.image := rfl
@[simp] theorem countEvent_frames (s : State) (r : RegRow) (ix : List Nat) : (countEvent s r ix).frames = s.frames := rfl
@[simp] theorem countEvent_nextFrame (s : State) (r : RegRow) (ix : List Nat) : (countEvent s r ix).nextFrame = s.nextFrame := rfl
@[simp] theorem countEvent_ports (s : State) (r : RegRow) (ix : List Nat) : (countEvent s r ix).ports = s.ports := rfl
@[simp] theorem countEvent_modules (s : State) (r : RegRow) (ix : List Nat) : (countEvent s r ix).modules = s.modules := rfl
@[simp] theorem countEvent_bpm (s : State) (r : RegRow) (ix : List Nat) : (countEvent s r ix).bpm = s.bpm := rfl
@[simp] theorem countEvent_sched (s : State) (r : RegRow) (ix : List Nat) : (countEvent s r ix).sched = s.sched := rfl
@[simp] theorem countEvent_fdb (s : State) (r : RegRow) (ix : List Nat) : (countEvent s r ix).fdb = s.fdb := rfl
@[simp] theorem countEvent_strm (s : State) (r : RegRow) (ix : List Nat) : (countEvent s r ix).strm = s.strm := rfl
@[simp] theorem countEvent_time (s : State) (r : RegRow) (ix : List Nat) : (countEvent s r ix).time = s.time := rfl
@[simp] theorem countEvent_acc (s : State) (r : RegRow) (ix : List Nat) : (countEvent s r ix).acc = s.acc := rfl
@[simp] theorem countEvent_place (s : State) (r : RegRow) (ix : List Nat) : (countEvent s r ix).place = s.place := rfl
@[simp] theorem countEvent_izl (s : State) (r : RegRow) (ix : List Nat) : (countEvent s r ix).izl = s.izl := rfl
@[simp] theorem countEvent_twin (s : State) (r : RegRow) (ix : List Nat) : (countEvent s r ix).twin = s.twin := rfl
@[simp] theorem countEvent_host (s : State) (r : RegRow) (ix : List Nat) : (countEvent s r ix).host = s.host := rfl
@[simp] theorem countEvent_img (s : State) (r : RegRow) (ix : List Nat) : (countEvent s r ix).img = s.img := rfl
@[simp] theorem countEvent_maint (s : State) (r : RegRow) (ix : List Nat) : (countEvent s r ix).maint = s.maint := rfl
@[simp] theorem countEvent_obs (s : State) (r : RegRow) (ix : List Nat) : (countEvent s r ix).obs = s.obs := rfl
@[simp] theorem countEvent_bar4 (s : State) (r : RegRow) (ix : List Nat) : (countEvent s r ix).bar4 = s.bar4 := rfl
@[simp] theorem countEvent_out (s : State) (r : RegRow) (ix : List Nat) : (countEvent s r ix).out = s.out := rfl
@[simp] theorem countEvent_pending (s : State) (r : RegRow) (ix : List Nat) : (countEvent s r ix).pending = s.pending := rfl
@[simp] theorem countEvent_seed (s : State) (r : RegRow) (ix : List Nat) : (countEvent s r ix).seed = s.seed := rfl
@[simp] theorem countEvent_draws (s : State) (r : RegRow) (ix : List Nat) : (countEvent s r ix).draws = s.draws := rfl
@[simp] theorem countEvent_freeCtr (s : State) (r : RegRow) (ix : List Nat) : (countEvent s r ix).freeCtr = s.freeCtr := rfl

@[simp] theorem bump_power (s : State) (g : CtrGroup) (ix : List Nat) (i n : Nat) : (bump s g ix i n).power = s.power := rfl
@[simp] theorem bump_irq (s : State) (g : CtrGroup) (ix : List Nat) (i n : Nat) : (bump s g ix i n).irq = s.irq := rfl
@[simp] theorem bump_fix (s : State) (g : CtrGroup) (ix : List Nat) (i n : Nat) : (bump s g ix i n).fix = s.fix := rfl
@[simp] theorem bump_image (s : State) (g : CtrGroup) (ix : List Nat) (i n : Nat) : (bump s g ix i n).image = s.image := rfl
@[simp] theorem bump_frames (s : State) (g : CtrGroup) (ix : List Nat) (i n : Nat) : (bump s g ix i n).frames = s.frames := rfl
@[simp] theorem bump_nextFrame (s : State) (g : CtrGroup) (ix : List Nat) (i n : Nat) : (bump s g ix i n).nextFrame = s.nextFrame := rfl
@[simp] theorem bump_ports (s : State) (g : CtrGroup) (ix : List Nat) (i n : Nat) : (bump s g ix i n).ports = s.ports := rfl
@[simp] theorem bump_modules (s : State) (g : CtrGroup) (ix : List Nat) (i n : Nat) : (bump s g ix i n).modules = s.modules := rfl
@[simp] theorem bump_bpm (s : State) (g : CtrGroup) (ix : List Nat) (i n : Nat) : (bump s g ix i n).bpm = s.bpm := rfl
@[simp] theorem bump_sched (s : State) (g : CtrGroup) (ix : List Nat) (i n : Nat) : (bump s g ix i n).sched = s.sched := rfl
@[simp] theorem bump_fdb (s : State) (g : CtrGroup) (ix : List Nat) (i n : Nat) : (bump s g ix i n).fdb = s.fdb := rfl
@[simp] theorem bump_strm (s : State) (g : CtrGroup) (ix : List Nat) (i n : Nat) : (bump s g ix i n).strm = s.strm := rfl
@[simp] theorem bump_time (s : State) (g : CtrGroup) (ix : List Nat) (i n : Nat) : (bump s g ix i n).time = s.time := rfl
@[simp] theorem bump_acc (s : State) (g : CtrGroup) (ix : List Nat) (i n : Nat) : (bump s g ix i n).acc = s.acc := rfl
@[simp] theorem bump_place (s : State) (g : CtrGroup) (ix : List Nat) (i n : Nat) : (bump s g ix i n).place = s.place := rfl
@[simp] theorem bump_izl (s : State) (g : CtrGroup) (ix : List Nat) (i n : Nat) : (bump s g ix i n).izl = s.izl := rfl
@[simp] theorem bump_twin (s : State) (g : CtrGroup) (ix : List Nat) (i n : Nat) : (bump s g ix i n).twin = s.twin := rfl
@[simp] theorem bump_host (s : State) (g : CtrGroup) (ix : List Nat) (i n : Nat) : (bump s g ix i n).host = s.host := rfl
@[simp] theorem bump_img (s : State) (g : CtrGroup) (ix : List Nat) (i n : Nat) : (bump s g ix i n).img = s.img := rfl
@[simp] theorem bump_maint (s : State) (g : CtrGroup) (ix : List Nat) (i n : Nat) : (bump s g ix i n).maint = s.maint := rfl
@[simp] theorem bump_obs (s : State) (g : CtrGroup) (ix : List Nat) (i n : Nat) : (bump s g ix i n).obs = s.obs := rfl
@[simp] theorem bump_bar4 (s : State) (g : CtrGroup) (ix : List Nat) (i n : Nat) : (bump s g ix i n).bar4 = s.bar4 := rfl
@[simp] theorem bump_out (s : State) (g : CtrGroup) (ix : List Nat) (i n : Nat) : (bump s g ix i n).out = s.out := rfl
@[simp] theorem bump_pending (s : State) (g : CtrGroup) (ix : List Nat) (i n : Nat) : (bump s g ix i n).pending = s.pending := rfl
@[simp] theorem bump_seed (s : State) (g : CtrGroup) (ix : List Nat) (i n : Nat) : (bump s g ix i n).seed = s.seed := rfl
@[simp] theorem bump_draws (s : State) (g : CtrGroup) (ix : List Nat) (i n : Nat) : (bump s g ix i n).draws = s.draws := rfl
@[simp] theorem bump_freeCtr (s : State) (g : CtrGroup) (ix : List Nat) (i n : Nat) : (bump s g ix i n).freeCtr = s.freeCtr := rfl

@[simp] theorem emit_power (s : State) (o : Output) : (emit s o).power = s.power := rfl
@[simp] theorem emit_regs (s : State) (o : Output) : (emit s o).regs = s.regs := rfl
@[simp] theorem emit_irq (s : State) (o : Output) : (emit s o).irq = s.irq := rfl
@[simp] theorem emit_fix (s : State) (o : Output) : (emit s o).fix = s.fix := rfl
@[simp] theorem emit_image (s : State) (o : Output) : (emit s o).image = s.image := rfl
@[simp] theorem emit_frames (s : State) (o : Output) : (emit s o).frames = s.frames := rfl
@[simp] theorem emit_nextFrame (s : State) (o : Output) : (emit s o).nextFrame = s.nextFrame := rfl
@[simp] theorem emit_ports (s : State) (o : Output) : (emit s o).ports = s.ports := rfl
@[simp] theorem emit_modules (s : State) (o : Output) : (emit s o).modules = s.modules := rfl
@[simp] theorem emit_bpm (s : State) (o : Output) : (emit s o).bpm = s.bpm := rfl
@[simp] theorem emit_sched (s : State) (o : Output) : (emit s o).sched = s.sched := rfl
@[simp] theorem emit_fdb (s : State) (o : Output) : (emit s o).fdb = s.fdb := rfl
@[simp] theorem emit_strm (s : State) (o : Output) : (emit s o).strm = s.strm := rfl
@[simp] theorem emit_time (s : State) (o : Output) : (emit s o).time = s.time := rfl
@[simp] theorem emit_acc (s : State) (o : Output) : (emit s o).acc = s.acc := rfl
@[simp] theorem emit_place (s : State) (o : Output) : (emit s o).place = s.place := rfl
@[simp] theorem emit_izl (s : State) (o : Output) : (emit s o).izl = s.izl := rfl
@[simp] theorem emit_twin (s : State) (o : Output) : (emit s o).twin = s.twin := rfl
@[simp] theorem emit_host (s : State) (o : Output) : (emit s o).host = s.host := rfl
@[simp] theorem emit_img (s : State) (o : Output) : (emit s o).img = s.img := rfl
@[simp] theorem emit_maint (s : State) (o : Output) : (emit s o).maint = s.maint := rfl
@[simp] theorem emit_obs (s : State) (o : Output) : (emit s o).obs = s.obs := rfl
@[simp] theorem emit_bar4 (s : State) (o : Output) : (emit s o).bar4 = s.bar4 := rfl
@[simp] theorem emit_pending (s : State) (o : Output) : (emit s o).pending = s.pending := rfl
@[simp] theorem emit_seed (s : State) (o : Output) : (emit s o).seed = s.seed := rfl
@[simp] theorem emit_draws (s : State) (o : Output) : (emit s o).draws = s.draws := rfl
@[simp] theorem emit_freeCtr (s : State) (o : Output) : (emit s o).freeCtr = s.freeCtr := rfl

@[simp] theorem spend_power (s : State) : (spend s).power = s.power := rfl
@[simp] theorem spend_regs (s : State) : (spend s).regs = s.regs := rfl
@[simp] theorem spend_irq (s : State) : (spend s).irq = s.irq := rfl
@[simp] theorem spend_fix (s : State) : (spend s).fix = s.fix := rfl
@[simp] theorem spend_image (s : State) : (spend s).image = s.image := rfl
@[simp] theorem spend_frames (s : State) : (spend s).frames = s.frames := rfl
@[simp] theorem spend_nextFrame (s : State) : (spend s).nextFrame = s.nextFrame := rfl
@[simp] theorem spend_ports (s : State) : (spend s).ports = s.ports := rfl
@[simp] theorem spend_modules (s : State) : (spend s).modules = s.modules := rfl
@[simp] theorem spend_bpm (s : State) : (spend s).bpm = s.bpm := rfl
@[simp] theorem spend_sched (s : State) : (spend s).sched = s.sched := rfl
@[simp] theorem spend_fdb (s : State) : (spend s).fdb = s.fdb := rfl
@[simp] theorem spend_strm (s : State) : (spend s).strm = s.strm := rfl
@[simp] theorem spend_time (s : State) : (spend s).time = s.time := rfl
@[simp] theorem spend_acc (s : State) : (spend s).acc = s.acc := rfl
@[simp] theorem spend_place (s : State) : (spend s).place = s.place := rfl
@[simp] theorem spend_izl (s : State) : (spend s).izl = s.izl := rfl
@[simp] theorem spend_twin (s : State) : (spend s).twin = s.twin := rfl
@[simp] theorem spend_host (s : State) : (spend s).host = s.host := rfl
@[simp] theorem spend_img (s : State) : (spend s).img = s.img := rfl
@[simp] theorem spend_maint (s : State) : (spend s).maint = s.maint := rfl
@[simp] theorem spend_obs (s : State) : (spend s).obs = s.obs := rfl
@[simp] theorem spend_bar4 (s : State) : (spend s).bar4 = s.bar4 := rfl
@[simp] theorem spend_out (s : State) : (spend s).out = s.out := rfl
@[simp] theorem spend_pending (s : State) : (spend s).pending = s.pending := rfl
@[simp] theorem spend_seed (s : State) : (spend s).seed = s.seed := rfl
@[simp] theorem spend_draws (s : State) : (spend s).draws = s.draws := rfl

@[simp] theorem putTb_power (s : State) (t : Nat) (b : TimeBase) : (putTb s t b).power = s.power := rfl
@[simp] theorem putTb_regs (s : State) (t : Nat) (b : TimeBase) : (putTb s t b).regs = s.regs := rfl
@[simp] theorem putTb_irq (s : State) (t : Nat) (b : TimeBase) : (putTb s t b).irq = s.irq := rfl
@[simp] theorem putTb_fix (s : State) (t : Nat) (b : TimeBase) : (putTb s t b).fix = s.fix := rfl
@[simp] theorem putTb_image (s : State) (t : Nat) (b : TimeBase) : (putTb s t b).image = s.image := rfl
@[simp] theorem putTb_frames (s : State) (t : Nat) (b : TimeBase) : (putTb s t b).frames = s.frames := rfl
@[simp] theorem putTb_nextFrame (s : State) (t : Nat) (b : TimeBase) : (putTb s t b).nextFrame = s.nextFrame := rfl
@[simp] theorem putTb_ports (s : State) (t : Nat) (b : TimeBase) : (putTb s t b).ports = s.ports := rfl
@[simp] theorem putTb_modules (s : State) (t : Nat) (b : TimeBase) : (putTb s t b).modules = s.modules := rfl
@[simp] theorem putTb_bpm (s : State) (t : Nat) (b : TimeBase) : (putTb s t b).bpm = s.bpm := rfl
@[simp] theorem putTb_sched (s : State) (t : Nat) (b : TimeBase) : (putTb s t b).sched = s.sched := rfl
@[simp] theorem putTb_fdb (s : State) (t : Nat) (b : TimeBase) : (putTb s t b).fdb = s.fdb := rfl
@[simp] theorem putTb_strm (s : State) (t : Nat) (b : TimeBase) : (putTb s t b).strm = s.strm := rfl
@[simp] theorem putTb_acc (s : State) (t : Nat) (b : TimeBase) : (putTb s t b).acc = s.acc := rfl
@[simp] theorem putTb_place (s : State) (t : Nat) (b : TimeBase) : (putTb s t b).place = s.place := rfl
@[simp] theorem putTb_izl (s : State) (t : Nat) (b : TimeBase) : (putTb s t b).izl = s.izl := rfl
@[simp] theorem putTb_twin (s : State) (t : Nat) (b : TimeBase) : (putTb s t b).twin = s.twin := rfl
@[simp] theorem putTb_host (s : State) (t : Nat) (b : TimeBase) : (putTb s t b).host = s.host := rfl
@[simp] theorem putTb_img (s : State) (t : Nat) (b : TimeBase) : (putTb s t b).img = s.img := rfl
@[simp] theorem putTb_maint (s : State) (t : Nat) (b : TimeBase) : (putTb s t b).maint = s.maint := rfl
@[simp] theorem putTb_obs (s : State) (t : Nat) (b : TimeBase) : (putTb s t b).obs = s.obs := rfl
@[simp] theorem putTb_bar4 (s : State) (t : Nat) (b : TimeBase) : (putTb s t b).bar4 = s.bar4 := rfl
@[simp] theorem putTb_out (s : State) (t : Nat) (b : TimeBase) : (putTb s t b).out = s.out := rfl
@[simp] theorem putTb_pending (s : State) (t : Nat) (b : TimeBase) : (putTb s t b).pending = s.pending := rfl
@[simp] theorem putTb_seed (s : State) (t : Nat) (b : TimeBase) : (putTb s t b).seed = s.seed := rfl
@[simp] theorem putTb_draws (s : State) (t : Nat) (b : TimeBase) : (putTb s t b).draws = s.draws := rfl
@[simp] theorem putTb_freeCtr (s : State) (t : Nat) (b : TimeBase) : (putTb s t b).freeCtr = s.freeCtr := rfl

@[simp] theorem elapse_power (s : State) (el : Nat) : (elapse el s).power = s.power := rfl
@[simp] theorem elapse_regs (s : State) (el : Nat) : (elapse el s).regs = s.regs := rfl
@[simp] theorem elapse_irq (s : State) (el : Nat) : (elapse el s).irq = s.irq := rfl
@[simp] theorem elapse_fix (s : State) (el : Nat) : (elapse el s).fix = s.fix := rfl
@[simp] theorem elapse_image (s : State) (el : Nat) : (elapse el s).image = s.image := rfl
@[simp] theorem elapse_frames (s : State) (el : Nat) : (elapse el s).frames = s.frames := rfl
@[simp] theorem elapse_nextFrame (s : State) (el : Nat) : (elapse el s).nextFrame = s.nextFrame := rfl
@[simp] theorem elapse_ports (s : State) (el : Nat) : (elapse el s).ports = s.ports := rfl
@[simp] theorem elapse_modules (s : State) (el : Nat) : (elapse el s).modules = s.modules := rfl
@[simp] theorem elapse_bpm (s : State) (el : Nat) : (elapse el s).bpm = s.bpm := rfl
@[simp] theorem elapse_sched (s : State) (el : Nat) : (elapse el s).sched = s.sched := rfl
@[simp] theorem elapse_fdb (s : State) (el : Nat) : (elapse el s).fdb = s.fdb := rfl
@[simp] theorem elapse_strm (s : State) (el : Nat) : (elapse el s).strm = s.strm := rfl
@[simp] theorem elapse_acc (s : State) (el : Nat) : (elapse el s).acc = s.acc := rfl
@[simp] theorem elapse_place (s : State) (el : Nat) : (elapse el s).place = s.place := rfl
@[simp] theorem elapse_izl (s : State) (el : Nat) : (elapse el s).izl = s.izl := rfl
@[simp] theorem elapse_twin (s : State) (el : Nat) : (elapse el s).twin = s.twin := rfl
@[simp] theorem elapse_host (s : State) (el : Nat) : (elapse el s).host = s.host := rfl
@[simp] theorem elapse_img (s : State) (el : Nat) : (elapse el s).img = s.img := rfl
@[simp] theorem elapse_maint (s : State) (el : Nat) : (elapse el s).maint = s.maint := rfl
@[simp] theorem elapse_obs (s : State) (el : Nat) : (elapse el s).obs = s.obs := rfl
@[simp] theorem elapse_bar4 (s : State) (el : Nat) : (elapse el s).bar4 = s.bar4 := rfl
@[simp] theorem elapse_out (s : State) (el : Nat) : (elapse el s).out = s.out := rfl
@[simp] theorem elapse_pending (s : State) (el : Nat) : (elapse el s).pending = s.pending := rfl
@[simp] theorem elapse_seed (s : State) (el : Nat) : (elapse el s).seed = s.seed := rfl
@[simp] theorem elapse_draws (s : State) (el : Nat) : (elapse el s).draws = s.draws := rfl
@[simp] theorem elapse_freeCtr (s : State) (el : Nat) : (elapse el s).freeCtr = s.freeCtr := rfl

@[simp] theorem putPort_power (s : State) (p : Nat) (x : Port) : (putPort s p x).power = s.power := rfl
@[simp] theorem putPort_regs (s : State) (p : Nat) (x : Port) : (putPort s p x).regs = s.regs := rfl
@[simp] theorem putPort_irq (s : State) (p : Nat) (x : Port) : (putPort s p x).irq = s.irq := rfl
@[simp] theorem putPort_fix (s : State) (p : Nat) (x : Port) : (putPort s p x).fix = s.fix := rfl
@[simp] theorem putPort_image (s : State) (p : Nat) (x : Port) : (putPort s p x).image = s.image := rfl
@[simp] theorem putPort_frames (s : State) (p : Nat) (x : Port) : (putPort s p x).frames = s.frames := rfl
@[simp] theorem putPort_nextFrame (s : State) (p : Nat) (x : Port) : (putPort s p x).nextFrame = s.nextFrame := rfl
@[simp] theorem putPort_modules (s : State) (p : Nat) (x : Port) : (putPort s p x).modules = s.modules := rfl
@[simp] theorem putPort_bpm (s : State) (p : Nat) (x : Port) : (putPort s p x).bpm = s.bpm := rfl
@[simp] theorem putPort_sched (s : State) (p : Nat) (x : Port) : (putPort s p x).sched = s.sched := rfl
@[simp] theorem putPort_fdb (s : State) (p : Nat) (x : Port) : (putPort s p x).fdb = s.fdb := rfl
@[simp] theorem putPort_strm (s : State) (p : Nat) (x : Port) : (putPort s p x).strm = s.strm := rfl
@[simp] theorem putPort_time (s : State) (p : Nat) (x : Port) : (putPort s p x).time = s.time := rfl
@[simp] theorem putPort_acc (s : State) (p : Nat) (x : Port) : (putPort s p x).acc = s.acc := rfl
@[simp] theorem putPort_place (s : State) (p : Nat) (x : Port) : (putPort s p x).place = s.place := rfl
@[simp] theorem putPort_izl (s : State) (p : Nat) (x : Port) : (putPort s p x).izl = s.izl := rfl
@[simp] theorem putPort_twin (s : State) (p : Nat) (x : Port) : (putPort s p x).twin = s.twin := rfl
@[simp] theorem putPort_host (s : State) (p : Nat) (x : Port) : (putPort s p x).host = s.host := rfl
@[simp] theorem putPort_img (s : State) (p : Nat) (x : Port) : (putPort s p x).img = s.img := rfl
@[simp] theorem putPort_maint (s : State) (p : Nat) (x : Port) : (putPort s p x).maint = s.maint := rfl
@[simp] theorem putPort_obs (s : State) (p : Nat) (x : Port) : (putPort s p x).obs = s.obs := rfl
@[simp] theorem putPort_bar4 (s : State) (p : Nat) (x : Port) : (putPort s p x).bar4 = s.bar4 := rfl
@[simp] theorem putPort_out (s : State) (p : Nat) (x : Port) : (putPort s p x).out = s.out := rfl
@[simp] theorem putPort_pending (s : State) (p : Nat) (x : Port) : (putPort s p x).pending = s.pending := rfl
@[simp] theorem putPort_seed (s : State) (p : Nat) (x : Port) : (putPort s p x).seed = s.seed := rfl
@[simp] theorem putPort_draws (s : State) (p : Nat) (x : Port) : (putPort s p x).draws = s.draws := rfl
@[simp] theorem putPort_freeCtr (s : State) (p : Nat) (x : Port) : (putPort s p x).freeCtr = s.freeCtr := rfl

@[simp] theorem putModule_power (s : State) (k : Nat) (m : Module) : (putModule s k m).power = s.power := rfl
@[simp] theorem putModule_regs (s : State) (k : Nat) (m : Module) : (putModule s k m).regs = s.regs := rfl
@[simp] theorem putModule_irq (s : State) (k : Nat) (m : Module) : (putModule s k m).irq = s.irq := rfl
@[simp] theorem putModule_fix (s : State) (k : Nat) (m : Module) : (putModule s k m).fix = s.fix := rfl
@[simp] theorem putModule_image (s : State) (k : Nat) (m : Module) : (putModule s k m).image = s.image := rfl
@[simp] theorem putModule_frames (s : State) (k : Nat) (m : Module) : (putModule s k m).frames = s.frames := rfl
@[simp] theorem putModule_nextFrame (s : State) (k : Nat) (m : Module) : (putModule s k m).nextFrame = s.nextFrame := rfl
@[simp] theorem putModule_ports (s : State) (k : Nat) (m : Module) : (putModule s k m).ports = s.ports := rfl
@[simp] theorem putModule_bpm (s : State) (k : Nat) (m : Module) : (putModule s k m).bpm = s.bpm := rfl
@[simp] theorem putModule_sched (s : State) (k : Nat) (m : Module) : (putModule s k m).sched = s.sched := rfl
@[simp] theorem putModule_fdb (s : State) (k : Nat) (m : Module) : (putModule s k m).fdb = s.fdb := rfl
@[simp] theorem putModule_strm (s : State) (k : Nat) (m : Module) : (putModule s k m).strm = s.strm := rfl
@[simp] theorem putModule_time (s : State) (k : Nat) (m : Module) : (putModule s k m).time = s.time := rfl
@[simp] theorem putModule_acc (s : State) (k : Nat) (m : Module) : (putModule s k m).acc = s.acc := rfl
@[simp] theorem putModule_place (s : State) (k : Nat) (m : Module) : (putModule s k m).place = s.place := rfl
@[simp] theorem putModule_izl (s : State) (k : Nat) (m : Module) : (putModule s k m).izl = s.izl := rfl
@[simp] theorem putModule_twin (s : State) (k : Nat) (m : Module) : (putModule s k m).twin = s.twin := rfl
@[simp] theorem putModule_host (s : State) (k : Nat) (m : Module) : (putModule s k m).host = s.host := rfl
@[simp] theorem putModule_img (s : State) (k : Nat) (m : Module) : (putModule s k m).img = s.img := rfl
@[simp] theorem putModule_maint (s : State) (k : Nat) (m : Module) : (putModule s k m).maint = s.maint := rfl
@[simp] theorem putModule_obs (s : State) (k : Nat) (m : Module) : (putModule s k m).obs = s.obs := rfl
@[simp] theorem putModule_bar4 (s : State) (k : Nat) (m : Module) : (putModule s k m).bar4 = s.bar4 := rfl
@[simp] theorem putModule_out (s : State) (k : Nat) (m : Module) : (putModule s k m).out = s.out := rfl
@[simp] theorem putModule_pending (s : State) (k : Nat) (m : Module) : (putModule s k m).pending = s.pending := rfl
@[simp] theorem putModule_seed (s : State) (k : Nat) (m : Module) : (putModule s k m).seed = s.seed := rfl
@[simp] theorem putModule_draws (s : State) (k : Nat) (m : Module) : (putModule s k m).draws = s.draws := rfl
@[simp] theorem putModule_freeCtr (s : State) (k : Nat) (m : Module) : (putModule s k m).freeCtr = s.freeCtr := rfl

@[simp] theorem putQueue_power (s : State) (q : Nat) (x : Queue) : (putQueue s q x).power = s.power := rfl
@[simp] theorem putQueue_regs (s : State) (q : Nat) (x : Queue) : (putQueue s q x).regs = s.regs := rfl
@[simp] theorem putQueue_irq (s : State) (q : Nat) (x : Queue) : (putQueue s q x).irq = s.irq := rfl
@[simp] theorem putQueue_fix (s : State) (q : Nat) (x : Queue) : (putQueue s q x).fix = s.fix := rfl
@[simp] theorem putQueue_image (s : State) (q : Nat) (x : Queue) : (putQueue s q x).image = s.image := rfl
@[simp] theorem putQueue_frames (s : State) (q : Nat) (x : Queue) : (putQueue s q x).frames = s.frames := rfl
@[simp] theorem putQueue_nextFrame (s : State) (q : Nat) (x : Queue) : (putQueue s q x).nextFrame = s.nextFrame := rfl
@[simp] theorem putQueue_ports (s : State) (q : Nat) (x : Queue) : (putQueue s q x).ports = s.ports := rfl
@[simp] theorem putQueue_modules (s : State) (q : Nat) (x : Queue) : (putQueue s q x).modules = s.modules := rfl
@[simp] theorem putQueue_bpm (s : State) (q : Nat) (x : Queue) : (putQueue s q x).bpm = s.bpm := rfl
@[simp] theorem putQueue_fdb (s : State) (q : Nat) (x : Queue) : (putQueue s q x).fdb = s.fdb := rfl
@[simp] theorem putQueue_strm (s : State) (q : Nat) (x : Queue) : (putQueue s q x).strm = s.strm := rfl
@[simp] theorem putQueue_time (s : State) (q : Nat) (x : Queue) : (putQueue s q x).time = s.time := rfl
@[simp] theorem putQueue_acc (s : State) (q : Nat) (x : Queue) : (putQueue s q x).acc = s.acc := rfl
@[simp] theorem putQueue_place (s : State) (q : Nat) (x : Queue) : (putQueue s q x).place = s.place := rfl
@[simp] theorem putQueue_izl (s : State) (q : Nat) (x : Queue) : (putQueue s q x).izl = s.izl := rfl
@[simp] theorem putQueue_twin (s : State) (q : Nat) (x : Queue) : (putQueue s q x).twin = s.twin := rfl
@[simp] theorem putQueue_host (s : State) (q : Nat) (x : Queue) : (putQueue s q x).host = s.host := rfl
@[simp] theorem putQueue_img (s : State) (q : Nat) (x : Queue) : (putQueue s q x).img = s.img := rfl
@[simp] theorem putQueue_maint (s : State) (q : Nat) (x : Queue) : (putQueue s q x).maint = s.maint := rfl
@[simp] theorem putQueue_obs (s : State) (q : Nat) (x : Queue) : (putQueue s q x).obs = s.obs := rfl
@[simp] theorem putQueue_bar4 (s : State) (q : Nat) (x : Queue) : (putQueue s q x).bar4 = s.bar4 := rfl
@[simp] theorem putQueue_out (s : State) (q : Nat) (x : Queue) : (putQueue s q x).out = s.out := rfl
@[simp] theorem putQueue_pending (s : State) (q : Nat) (x : Queue) : (putQueue s q x).pending = s.pending := rfl
@[simp] theorem putQueue_seed (s : State) (q : Nat) (x : Queue) : (putQueue s q x).seed = s.seed := rfl
@[simp] theorem putQueue_draws (s : State) (q : Nat) (x : Queue) : (putQueue s q x).draws = s.draws := rfl
@[simp] theorem putQueue_freeCtr (s : State) (q : Nat) (x : Queue) : (putQueue s q x).freeCtr = s.freeCtr := rfl

@[simp] theorem putGate_power (s : State) (p : Nat) (g : Gate) : (putGate s p g).power = s.power := rfl
@[simp] theorem putGate_regs (s : State) (p : Nat) (g : Gate) : (putGate s p g).regs = s.regs := rfl
@[simp] theorem putGate_irq (s : State) (p : Nat) (g : Gate) : (putGate s p g).irq = s.irq := rfl
@[simp] theorem putGate_fix (s : State) (p : Nat) (g : Gate) : (putGate s p g).fix = s.fix := rfl
@[simp] theorem putGate_image (s : State) (p : Nat) (g : Gate) : (putGate s p g).image = s.image := rfl
@[simp] theorem putGate_frames (s : State) (p : Nat) (g : Gate) : (putGate s p g).frames = s.frames := rfl
@[simp] theorem putGate_nextFrame (s : State) (p : Nat) (g : Gate) : (putGate s p g).nextFrame = s.nextFrame := rfl
@[simp] theorem putGate_ports (s : State) (p : Nat) (g : Gate) : (putGate s p g).ports = s.ports := rfl
@[simp] theorem putGate_modules (s : State) (p : Nat) (g : Gate) : (putGate s p g).modules = s.modules := rfl
@[simp] theorem putGate_bpm (s : State) (p : Nat) (g : Gate) : (putGate s p g).bpm = s.bpm := rfl
@[simp] theorem putGate_fdb (s : State) (p : Nat) (g : Gate) : (putGate s p g).fdb = s.fdb := rfl
@[simp] theorem putGate_strm (s : State) (p : Nat) (g : Gate) : (putGate s p g).strm = s.strm := rfl
@[simp] theorem putGate_time (s : State) (p : Nat) (g : Gate) : (putGate s p g).time = s.time := rfl
@[simp] theorem putGate_acc (s : State) (p : Nat) (g : Gate) : (putGate s p g).acc = s.acc := rfl
@[simp] theorem putGate_place (s : State) (p : Nat) (g : Gate) : (putGate s p g).place = s.place := rfl
@[simp] theorem putGate_izl (s : State) (p : Nat) (g : Gate) : (putGate s p g).izl = s.izl := rfl
@[simp] theorem putGate_twin (s : State) (p : Nat) (g : Gate) : (putGate s p g).twin = s.twin := rfl
@[simp] theorem putGate_host (s : State) (p : Nat) (g : Gate) : (putGate s p g).host = s.host := rfl
@[simp] theorem putGate_img (s : State) (p : Nat) (g : Gate) : (putGate s p g).img = s.img := rfl
@[simp] theorem putGate_maint (s : State) (p : Nat) (g : Gate) : (putGate s p g).maint = s.maint := rfl
@[simp] theorem putGate_obs (s : State) (p : Nat) (g : Gate) : (putGate s p g).obs = s.obs := rfl
@[simp] theorem putGate_bar4 (s : State) (p : Nat) (g : Gate) : (putGate s p g).bar4 = s.bar4 := rfl
@[simp] theorem putGate_out (s : State) (p : Nat) (g : Gate) : (putGate s p g).out = s.out := rfl
@[simp] theorem putGate_pending (s : State) (p : Nat) (g : Gate) : (putGate s p g).pending = s.pending := rfl
@[simp] theorem putGate_seed (s : State) (p : Nat) (g : Gate) : (putGate s p g).seed = s.seed := rfl
@[simp] theorem putGate_draws (s : State) (p : Nat) (g : Gate) : (putGate s p g).draws = s.draws := rfl
@[simp] theorem putGate_freeCtr (s : State) (p : Nat) (g : Gate) : (putGate s p g).freeCtr = s.freeCtr := rfl

@[simp] theorem putPortSched_power (s : State) (p : Nat) (x : PortSched) : (putPortSched s p x).power = s.power := rfl
@[simp] theorem putPortSched_regs (s : State) (p : Nat) (x : PortSched) : (putPortSched s p x).regs = s.regs := rfl
@[simp] theorem putPortSched_irq (s : State) (p : Nat) (x : PortSched) : (putPortSched s p x).irq = s.irq := rfl
@[simp] theorem putPortSched_fix (s : State) (p : Nat) (x : PortSched) : (putPortSched s p x).fix = s.fix := rfl
@[simp] theorem putPortSched_image (s : State) (p : Nat) (x : PortSched) : (putPortSched s p x).image = s.image := rfl
@[simp] theorem putPortSched_frames (s : State) (p : Nat) (x : PortSched) : (putPortSched s p x).frames = s.frames := rfl
@[simp] theorem putPortSched_nextFrame (s : State) (p : Nat) (x : PortSched) : (putPortSched s p x).nextFrame = s.nextFrame := rfl
@[simp] theorem putPortSched_ports (s : State) (p : Nat) (x : PortSched) : (putPortSched s p x).ports = s.ports := rfl
@[simp] theorem putPortSched_modules (s : State) (p : Nat) (x : PortSched) : (putPortSched s p x).modules = s.modules := rfl
@[simp] theorem putPortSched_bpm (s : State) (p : Nat) (x : PortSched) : (putPortSched s p x).bpm = s.bpm := rfl
@[simp] theorem putPortSched_fdb (s : State) (p : Nat) (x : PortSched) : (putPortSched s p x).fdb = s.fdb := rfl
@[simp] theorem putPortSched_strm (s : State) (p : Nat) (x : PortSched) : (putPortSched s p x).strm = s.strm := rfl
@[simp] theorem putPortSched_time (s : State) (p : Nat) (x : PortSched) : (putPortSched s p x).time = s.time := rfl
@[simp] theorem putPortSched_acc (s : State) (p : Nat) (x : PortSched) : (putPortSched s p x).acc = s.acc := rfl
@[simp] theorem putPortSched_place (s : State) (p : Nat) (x : PortSched) : (putPortSched s p x).place = s.place := rfl
@[simp] theorem putPortSched_izl (s : State) (p : Nat) (x : PortSched) : (putPortSched s p x).izl = s.izl := rfl
@[simp] theorem putPortSched_twin (s : State) (p : Nat) (x : PortSched) : (putPortSched s p x).twin = s.twin := rfl
@[simp] theorem putPortSched_host (s : State) (p : Nat) (x : PortSched) : (putPortSched s p x).host = s.host := rfl
@[simp] theorem putPortSched_img (s : State) (p : Nat) (x : PortSched) : (putPortSched s p x).img = s.img := rfl
@[simp] theorem putPortSched_maint (s : State) (p : Nat) (x : PortSched) : (putPortSched s p x).maint = s.maint := rfl
@[simp] theorem putPortSched_obs (s : State) (p : Nat) (x : PortSched) : (putPortSched s p x).obs = s.obs := rfl
@[simp] theorem putPortSched_bar4 (s : State) (p : Nat) (x : PortSched) : (putPortSched s p x).bar4 = s.bar4 := rfl
@[simp] theorem putPortSched_out (s : State) (p : Nat) (x : PortSched) : (putPortSched s p x).out = s.out := rfl
@[simp] theorem putPortSched_pending (s : State) (p : Nat) (x : PortSched) : (putPortSched s p x).pending = s.pending := rfl
@[simp] theorem putPortSched_seed (s : State) (p : Nat) (x : PortSched) : (putPortSched s p x).seed = s.seed := rfl
@[simp] theorem putPortSched_draws (s : State) (p : Nat) (x : PortSched) : (putPortSched s p x).draws = s.draws := rfl
@[simp] theorem putPortSched_freeCtr (s : State) (p : Nat) (x : PortSched) : (putPortSched s p x).freeCtr = s.freeCtr := rfl

@[simp] theorem putStreamState_power (s : State) (h : Nat) (x : StreamState) : (putStreamState s h x).power = s.power := rfl
@[simp] theorem putStreamState_regs (s : State) (h : Nat) (x : StreamState) : (putStreamState s h x).regs = s.regs := rfl
@[simp] theorem putStreamState_irq (s : State) (h : Nat) (x : StreamState) : (putStreamState s h x).irq = s.irq := rfl
@[simp] theorem putStreamState_fix (s : State) (h : Nat) (x : StreamState) : (putStreamState s h x).fix = s.fix := rfl
@[simp] theorem putStreamState_image (s : State) (h : Nat) (x : StreamState) : (putStreamState s h x).image = s.image := rfl
@[simp] theorem putStreamState_frames (s : State) (h : Nat) (x : StreamState) : (putStreamState s h x).frames = s.frames := rfl
@[simp] theorem putStreamState_nextFrame (s : State) (h : Nat) (x : StreamState) : (putStreamState s h x).nextFrame = s.nextFrame := rfl
@[simp] theorem putStreamState_ports (s : State) (h : Nat) (x : StreamState) : (putStreamState s h x).ports = s.ports := rfl
@[simp] theorem putStreamState_modules (s : State) (h : Nat) (x : StreamState) : (putStreamState s h x).modules = s.modules := rfl
@[simp] theorem putStreamState_bpm (s : State) (h : Nat) (x : StreamState) : (putStreamState s h x).bpm = s.bpm := rfl
@[simp] theorem putStreamState_sched (s : State) (h : Nat) (x : StreamState) : (putStreamState s h x).sched = s.sched := rfl
@[simp] theorem putStreamState_fdb (s : State) (h : Nat) (x : StreamState) : (putStreamState s h x).fdb = s.fdb := rfl
@[simp] theorem putStreamState_time (s : State) (h : Nat) (x : StreamState) : (putStreamState s h x).time = s.time := rfl
@[simp] theorem putStreamState_acc (s : State) (h : Nat) (x : StreamState) : (putStreamState s h x).acc = s.acc := rfl
@[simp] theorem putStreamState_place (s : State) (h : Nat) (x : StreamState) : (putStreamState s h x).place = s.place := rfl
@[simp] theorem putStreamState_izl (s : State) (h : Nat) (x : StreamState) : (putStreamState s h x).izl = s.izl := rfl
@[simp] theorem putStreamState_twin (s : State) (h : Nat) (x : StreamState) : (putStreamState s h x).twin = s.twin := rfl
@[simp] theorem putStreamState_host (s : State) (h : Nat) (x : StreamState) : (putStreamState s h x).host = s.host := rfl
@[simp] theorem putStreamState_img (s : State) (h : Nat) (x : StreamState) : (putStreamState s h x).img = s.img := rfl
@[simp] theorem putStreamState_maint (s : State) (h : Nat) (x : StreamState) : (putStreamState s h x).maint = s.maint := rfl
@[simp] theorem putStreamState_obs (s : State) (h : Nat) (x : StreamState) : (putStreamState s h x).obs = s.obs := rfl
@[simp] theorem putStreamState_bar4 (s : State) (h : Nat) (x : StreamState) : (putStreamState s h x).bar4 = s.bar4 := rfl
@[simp] theorem putStreamState_out (s : State) (h : Nat) (x : StreamState) : (putStreamState s h x).out = s.out := rfl
@[simp] theorem putStreamState_pending (s : State) (h : Nat) (x : StreamState) : (putStreamState s h x).pending = s.pending := rfl
@[simp] theorem putStreamState_seed (s : State) (h : Nat) (x : StreamState) : (putStreamState s h x).seed = s.seed := rfl
@[simp] theorem putStreamState_draws (s : State) (h : Nat) (x : StreamState) : (putStreamState s h x).draws = s.draws := rfl
@[simp] theorem putStreamState_freeCtr (s : State) (h : Nat) (x : StreamState) : (putStreamState s h x).freeCtr = s.freeCtr := rfl

@[simp] theorem putPtp_power (s : State) (c : Nat) (x : PtpState) : (putPtp s c x).power = s.power := rfl
@[simp] theorem putPtp_regs (s : State) (c : Nat) (x : PtpState) : (putPtp s c x).regs = s.regs := rfl
@[simp] theorem putPtp_irq (s : State) (c : Nat) (x : PtpState) : (putPtp s c x).irq = s.irq := rfl
@[simp] theorem putPtp_fix (s : State) (c : Nat) (x : PtpState) : (putPtp s c x).fix = s.fix := rfl
@[simp] theorem putPtp_image (s : State) (c : Nat) (x : PtpState) : (putPtp s c x).image = s.image := rfl
@[simp] theorem putPtp_frames (s : State) (c : Nat) (x : PtpState) : (putPtp s c x).frames = s.frames := rfl
@[simp] theorem putPtp_nextFrame (s : State) (c : Nat) (x : PtpState) : (putPtp s c x).nextFrame = s.nextFrame := rfl
@[simp] theorem putPtp_ports (s : State) (c : Nat) (x : PtpState) : (putPtp s c x).ports = s.ports := rfl
@[simp] theorem putPtp_modules (s : State) (c : Nat) (x : PtpState) : (putPtp s c x).modules = s.modules := rfl
@[simp] theorem putPtp_bpm (s : State) (c : Nat) (x : PtpState) : (putPtp s c x).bpm = s.bpm := rfl
@[simp] theorem putPtp_sched (s : State) (c : Nat) (x : PtpState) : (putPtp s c x).sched = s.sched := rfl
@[simp] theorem putPtp_fdb (s : State) (c : Nat) (x : PtpState) : (putPtp s c x).fdb = s.fdb := rfl
@[simp] theorem putPtp_strm (s : State) (c : Nat) (x : PtpState) : (putPtp s c x).strm = s.strm := rfl
@[simp] theorem putPtp_acc (s : State) (c : Nat) (x : PtpState) : (putPtp s c x).acc = s.acc := rfl
@[simp] theorem putPtp_place (s : State) (c : Nat) (x : PtpState) : (putPtp s c x).place = s.place := rfl
@[simp] theorem putPtp_izl (s : State) (c : Nat) (x : PtpState) : (putPtp s c x).izl = s.izl := rfl
@[simp] theorem putPtp_twin (s : State) (c : Nat) (x : PtpState) : (putPtp s c x).twin = s.twin := rfl
@[simp] theorem putPtp_host (s : State) (c : Nat) (x : PtpState) : (putPtp s c x).host = s.host := rfl
@[simp] theorem putPtp_img (s : State) (c : Nat) (x : PtpState) : (putPtp s c x).img = s.img := rfl
@[simp] theorem putPtp_maint (s : State) (c : Nat) (x : PtpState) : (putPtp s c x).maint = s.maint := rfl
@[simp] theorem putPtp_obs (s : State) (c : Nat) (x : PtpState) : (putPtp s c x).obs = s.obs := rfl
@[simp] theorem putPtp_bar4 (s : State) (c : Nat) (x : PtpState) : (putPtp s c x).bar4 = s.bar4 := rfl
@[simp] theorem putPtp_out (s : State) (c : Nat) (x : PtpState) : (putPtp s c x).out = s.out := rfl
@[simp] theorem putPtp_pending (s : State) (c : Nat) (x : PtpState) : (putPtp s c x).pending = s.pending := rfl
@[simp] theorem putPtp_seed (s : State) (c : Nat) (x : PtpState) : (putPtp s c x).seed = s.seed := rfl
@[simp] theorem putPtp_draws (s : State) (c : Nat) (x : PtpState) : (putPtp s c x).draws = s.draws := rfl
@[simp] theorem putPtp_freeCtr (s : State) (c : Nat) (x : PtpState) : (putPtp s c x).freeCtr = s.freeCtr := rfl

@[simp] theorem putJob_power (s : State) (j : Nat) (x : Job) : (putJob s j x).power = s.power := rfl
@[simp] theorem putJob_regs (s : State) (j : Nat) (x : Job) : (putJob s j x).regs = s.regs := rfl
@[simp] theorem putJob_irq (s : State) (j : Nat) (x : Job) : (putJob s j x).irq = s.irq := rfl
@[simp] theorem putJob_fix (s : State) (j : Nat) (x : Job) : (putJob s j x).fix = s.fix := rfl
@[simp] theorem putJob_image (s : State) (j : Nat) (x : Job) : (putJob s j x).image = s.image := rfl
@[simp] theorem putJob_frames (s : State) (j : Nat) (x : Job) : (putJob s j x).frames = s.frames := rfl
@[simp] theorem putJob_nextFrame (s : State) (j : Nat) (x : Job) : (putJob s j x).nextFrame = s.nextFrame := rfl
@[simp] theorem putJob_ports (s : State) (j : Nat) (x : Job) : (putJob s j x).ports = s.ports := rfl
@[simp] theorem putJob_modules (s : State) (j : Nat) (x : Job) : (putJob s j x).modules = s.modules := rfl
@[simp] theorem putJob_bpm (s : State) (j : Nat) (x : Job) : (putJob s j x).bpm = s.bpm := rfl
@[simp] theorem putJob_sched (s : State) (j : Nat) (x : Job) : (putJob s j x).sched = s.sched := rfl
@[simp] theorem putJob_fdb (s : State) (j : Nat) (x : Job) : (putJob s j x).fdb = s.fdb := rfl
@[simp] theorem putJob_strm (s : State) (j : Nat) (x : Job) : (putJob s j x).strm = s.strm := rfl
@[simp] theorem putJob_time (s : State) (j : Nat) (x : Job) : (putJob s j x).time = s.time := rfl
@[simp] theorem putJob_place (s : State) (j : Nat) (x : Job) : (putJob s j x).place = s.place := rfl
@[simp] theorem putJob_izl (s : State) (j : Nat) (x : Job) : (putJob s j x).izl = s.izl := rfl
@[simp] theorem putJob_twin (s : State) (j : Nat) (x : Job) : (putJob s j x).twin = s.twin := rfl
@[simp] theorem putJob_host (s : State) (j : Nat) (x : Job) : (putJob s j x).host = s.host := rfl
@[simp] theorem putJob_img (s : State) (j : Nat) (x : Job) : (putJob s j x).img = s.img := rfl
@[simp] theorem putJob_maint (s : State) (j : Nat) (x : Job) : (putJob s j x).maint = s.maint := rfl
@[simp] theorem putJob_obs (s : State) (j : Nat) (x : Job) : (putJob s j x).obs = s.obs := rfl
@[simp] theorem putJob_bar4 (s : State) (j : Nat) (x : Job) : (putJob s j x).bar4 = s.bar4 := rfl
@[simp] theorem putJob_out (s : State) (j : Nat) (x : Job) : (putJob s j x).out = s.out := rfl
@[simp] theorem putJob_pending (s : State) (j : Nat) (x : Job) : (putJob s j x).pending = s.pending := rfl
@[simp] theorem putJob_seed (s : State) (j : Nat) (x : Job) : (putJob s j x).seed = s.seed := rfl
@[simp] theorem putJob_draws (s : State) (j : Nat) (x : Job) : (putJob s j x).draws = s.draws := rfl
@[simp] theorem putJob_freeCtr (s : State) (j : Nat) (x : Job) : (putJob s j x).freeCtr = s.freeCtr := rfl

@[simp] theorem putIzlLane_power (s : State) (n : Nat) (x : IzlLane) : (putIzlLane s n x).power = s.power := rfl
@[simp] theorem putIzlLane_regs (s : State) (n : Nat) (x : IzlLane) : (putIzlLane s n x).regs = s.regs := rfl
@[simp] theorem putIzlLane_irq (s : State) (n : Nat) (x : IzlLane) : (putIzlLane s n x).irq = s.irq := rfl
@[simp] theorem putIzlLane_fix (s : State) (n : Nat) (x : IzlLane) : (putIzlLane s n x).fix = s.fix := rfl
@[simp] theorem putIzlLane_image (s : State) (n : Nat) (x : IzlLane) : (putIzlLane s n x).image = s.image := rfl
@[simp] theorem putIzlLane_frames (s : State) (n : Nat) (x : IzlLane) : (putIzlLane s n x).frames = s.frames := rfl
@[simp] theorem putIzlLane_nextFrame (s : State) (n : Nat) (x : IzlLane) : (putIzlLane s n x).nextFrame = s.nextFrame := rfl
@[simp] theorem putIzlLane_ports (s : State) (n : Nat) (x : IzlLane) : (putIzlLane s n x).ports = s.ports := rfl
@[simp] theorem putIzlLane_modules (s : State) (n : Nat) (x : IzlLane) : (putIzlLane s n x).modules = s.modules := rfl
@[simp] theorem putIzlLane_bpm (s : State) (n : Nat) (x : IzlLane) : (putIzlLane s n x).bpm = s.bpm := rfl
@[simp] theorem putIzlLane_sched (s : State) (n : Nat) (x : IzlLane) : (putIzlLane s n x).sched = s.sched := rfl
@[simp] theorem putIzlLane_fdb (s : State) (n : Nat) (x : IzlLane) : (putIzlLane s n x).fdb = s.fdb := rfl
@[simp] theorem putIzlLane_strm (s : State) (n : Nat) (x : IzlLane) : (putIzlLane s n x).strm = s.strm := rfl
@[simp] theorem putIzlLane_time (s : State) (n : Nat) (x : IzlLane) : (putIzlLane s n x).time = s.time := rfl
@[simp] theorem putIzlLane_acc (s : State) (n : Nat) (x : IzlLane) : (putIzlLane s n x).acc = s.acc := rfl
@[simp] theorem putIzlLane_place (s : State) (n : Nat) (x : IzlLane) : (putIzlLane s n x).place = s.place := rfl
@[simp] theorem putIzlLane_twin (s : State) (n : Nat) (x : IzlLane) : (putIzlLane s n x).twin = s.twin := rfl
@[simp] theorem putIzlLane_host (s : State) (n : Nat) (x : IzlLane) : (putIzlLane s n x).host = s.host := rfl
@[simp] theorem putIzlLane_img (s : State) (n : Nat) (x : IzlLane) : (putIzlLane s n x).img = s.img := rfl
@[simp] theorem putIzlLane_maint (s : State) (n : Nat) (x : IzlLane) : (putIzlLane s n x).maint = s.maint := rfl
@[simp] theorem putIzlLane_obs (s : State) (n : Nat) (x : IzlLane) : (putIzlLane s n x).obs = s.obs := rfl
@[simp] theorem putIzlLane_bar4 (s : State) (n : Nat) (x : IzlLane) : (putIzlLane s n x).bar4 = s.bar4 := rfl
@[simp] theorem putIzlLane_out (s : State) (n : Nat) (x : IzlLane) : (putIzlLane s n x).out = s.out := rfl
@[simp] theorem putIzlLane_pending (s : State) (n : Nat) (x : IzlLane) : (putIzlLane s n x).pending = s.pending := rfl
@[simp] theorem putIzlLane_seed (s : State) (n : Nat) (x : IzlLane) : (putIzlLane s n x).seed = s.seed := rfl
@[simp] theorem putIzlLane_draws (s : State) (n : Nat) (x : IzlLane) : (putIzlLane s n x).draws = s.draws := rfl
@[simp] theorem putIzlLane_freeCtr (s : State) (n : Nat) (x : IzlLane) : (putIzlLane s n x).freeCtr = s.freeCtr := rfl

@[simp] theorem putIzlGroup_power (s : State) (g : Nat) (x : IzlGroup) : (putIzlGroup s g x).power = s.power := rfl
@[simp] theorem putIzlGroup_regs (s : State) (g : Nat) (x : IzlGroup) : (putIzlGroup s g x).regs = s.regs := rfl
@[simp] theorem putIzlGroup_irq (s : State) (g : Nat) (x : IzlGroup) : (putIzlGroup s g x).irq = s.irq := rfl
@[simp] theorem putIzlGroup_fix (s : State) (g : Nat) (x : IzlGroup) : (putIzlGroup s g x).fix = s.fix := rfl
@[simp] theorem putIzlGroup_image (s : State) (g : Nat) (x : IzlGroup) : (putIzlGroup s g x).image = s.image := rfl
@[simp] theorem putIzlGroup_frames (s : State) (g : Nat) (x : IzlGroup) : (putIzlGroup s g x).frames = s.frames := rfl
@[simp] theorem putIzlGroup_nextFrame (s : State) (g : Nat) (x : IzlGroup) : (putIzlGroup s g x).nextFrame = s.nextFrame := rfl
@[simp] theorem putIzlGroup_ports (s : State) (g : Nat) (x : IzlGroup) : (putIzlGroup s g x).ports = s.ports := rfl
@[simp] theorem putIzlGroup_modules (s : State) (g : Nat) (x : IzlGroup) : (putIzlGroup s g x).modules = s.modules := rfl
@[simp] theorem putIzlGroup_bpm (s : State) (g : Nat) (x : IzlGroup) : (putIzlGroup s g x).bpm = s.bpm := rfl
@[simp] theorem putIzlGroup_sched (s : State) (g : Nat) (x : IzlGroup) : (putIzlGroup s g x).sched = s.sched := rfl
@[simp] theorem putIzlGroup_fdb (s : State) (g : Nat) (x : IzlGroup) : (putIzlGroup s g x).fdb = s.fdb := rfl
@[simp] theorem putIzlGroup_strm (s : State) (g : Nat) (x : IzlGroup) : (putIzlGroup s g x).strm = s.strm := rfl
@[simp] theorem putIzlGroup_time (s : State) (g : Nat) (x : IzlGroup) : (putIzlGroup s g x).time = s.time := rfl
@[simp] theorem putIzlGroup_acc (s : State) (g : Nat) (x : IzlGroup) : (putIzlGroup s g x).acc = s.acc := rfl
@[simp] theorem putIzlGroup_place (s : State) (g : Nat) (x : IzlGroup) : (putIzlGroup s g x).place = s.place := rfl
@[simp] theorem putIzlGroup_twin (s : State) (g : Nat) (x : IzlGroup) : (putIzlGroup s g x).twin = s.twin := rfl
@[simp] theorem putIzlGroup_host (s : State) (g : Nat) (x : IzlGroup) : (putIzlGroup s g x).host = s.host := rfl
@[simp] theorem putIzlGroup_img (s : State) (g : Nat) (x : IzlGroup) : (putIzlGroup s g x).img = s.img := rfl
@[simp] theorem putIzlGroup_maint (s : State) (g : Nat) (x : IzlGroup) : (putIzlGroup s g x).maint = s.maint := rfl
@[simp] theorem putIzlGroup_obs (s : State) (g : Nat) (x : IzlGroup) : (putIzlGroup s g x).obs = s.obs := rfl
@[simp] theorem putIzlGroup_bar4 (s : State) (g : Nat) (x : IzlGroup) : (putIzlGroup s g x).bar4 = s.bar4 := rfl
@[simp] theorem putIzlGroup_out (s : State) (g : Nat) (x : IzlGroup) : (putIzlGroup s g x).out = s.out := rfl
@[simp] theorem putIzlGroup_pending (s : State) (g : Nat) (x : IzlGroup) : (putIzlGroup s g x).pending = s.pending := rfl
@[simp] theorem putIzlGroup_seed (s : State) (g : Nat) (x : IzlGroup) : (putIzlGroup s g x).seed = s.seed := rfl
@[simp] theorem putIzlGroup_draws (s : State) (g : Nat) (x : IzlGroup) : (putIzlGroup s g x).draws = s.draws := rfl
@[simp] theorem putIzlGroup_freeCtr (s : State) (g : Nat) (x : IzlGroup) : (putIzlGroup s g x).freeCtr = s.freeCtr := rfl

@[simp] theorem putFrame_power (s : State) (f : Nat) (x : Frame) : (putFrame s f x).power = s.power := rfl
@[simp] theorem putFrame_regs (s : State) (f : Nat) (x : Frame) : (putFrame s f x).regs = s.regs := rfl
@[simp] theorem putFrame_irq (s : State) (f : Nat) (x : Frame) : (putFrame s f x).irq = s.irq := rfl
@[simp] theorem putFrame_fix (s : State) (f : Nat) (x : Frame) : (putFrame s f x).fix = s.fix := rfl
@[simp] theorem putFrame_image (s : State) (f : Nat) (x : Frame) : (putFrame s f x).image = s.image := rfl
@[simp] theorem putFrame_nextFrame (s : State) (f : Nat) (x : Frame) : (putFrame s f x).nextFrame = s.nextFrame := rfl
@[simp] theorem putFrame_ports (s : State) (f : Nat) (x : Frame) : (putFrame s f x).ports = s.ports := rfl
@[simp] theorem putFrame_modules (s : State) (f : Nat) (x : Frame) : (putFrame s f x).modules = s.modules := rfl
@[simp] theorem putFrame_bpm (s : State) (f : Nat) (x : Frame) : (putFrame s f x).bpm = s.bpm := rfl
@[simp] theorem putFrame_sched (s : State) (f : Nat) (x : Frame) : (putFrame s f x).sched = s.sched := rfl
@[simp] theorem putFrame_fdb (s : State) (f : Nat) (x : Frame) : (putFrame s f x).fdb = s.fdb := rfl
@[simp] theorem putFrame_strm (s : State) (f : Nat) (x : Frame) : (putFrame s f x).strm = s.strm := rfl
@[simp] theorem putFrame_time (s : State) (f : Nat) (x : Frame) : (putFrame s f x).time = s.time := rfl
@[simp] theorem putFrame_acc (s : State) (f : Nat) (x : Frame) : (putFrame s f x).acc = s.acc := rfl
@[simp] theorem putFrame_place (s : State) (f : Nat) (x : Frame) : (putFrame s f x).place = s.place := rfl
@[simp] theorem putFrame_izl (s : State) (f : Nat) (x : Frame) : (putFrame s f x).izl = s.izl := rfl
@[simp] theorem putFrame_twin (s : State) (f : Nat) (x : Frame) : (putFrame s f x).twin = s.twin := rfl
@[simp] theorem putFrame_host (s : State) (f : Nat) (x : Frame) : (putFrame s f x).host = s.host := rfl
@[simp] theorem putFrame_img (s : State) (f : Nat) (x : Frame) : (putFrame s f x).img = s.img := rfl
@[simp] theorem putFrame_maint (s : State) (f : Nat) (x : Frame) : (putFrame s f x).maint = s.maint := rfl
@[simp] theorem putFrame_obs (s : State) (f : Nat) (x : Frame) : (putFrame s f x).obs = s.obs := rfl
@[simp] theorem putFrame_bar4 (s : State) (f : Nat) (x : Frame) : (putFrame s f x).bar4 = s.bar4 := rfl
@[simp] theorem putFrame_out (s : State) (f : Nat) (x : Frame) : (putFrame s f x).out = s.out := rfl
@[simp] theorem putFrame_pending (s : State) (f : Nat) (x : Frame) : (putFrame s f x).pending = s.pending := rfl
@[simp] theorem putFrame_seed (s : State) (f : Nat) (x : Frame) : (putFrame s f x).seed = s.seed := rfl
@[simp] theorem putFrame_draws (s : State) (f : Nat) (x : Frame) : (putFrame s f x).draws = s.draws := rfl
@[simp] theorem putFrame_freeCtr (s : State) (f : Nat) (x : Frame) : (putFrame s f x).freeCtr = s.freeCtr := rfl

@[simp] theorem settle_power (s : State) : (settle s).power = s.power := rfl
@[simp] theorem settle_regs (s : State) : (settle s).regs = s.regs := rfl
@[simp] theorem settle_fix (s : State) : (settle s).fix = s.fix := rfl
@[simp] theorem settle_image (s : State) : (settle s).image = s.image := rfl
@[simp] theorem settle_frames (s : State) : (settle s).frames = s.frames := rfl
@[simp] theorem settle_nextFrame (s : State) : (settle s).nextFrame = s.nextFrame := rfl
@[simp] theorem settle_ports (s : State) : (settle s).ports = s.ports := rfl
@[simp] theorem settle_modules (s : State) : (settle s).modules = s.modules := rfl
@[simp] theorem settle_bpm (s : State) : (settle s).bpm = s.bpm := rfl
@[simp] theorem settle_sched (s : State) : (settle s).sched = s.sched := rfl
@[simp] theorem settle_fdb (s : State) : (settle s).fdb = s.fdb := rfl
@[simp] theorem settle_strm (s : State) : (settle s).strm = s.strm := rfl
@[simp] theorem settle_time (s : State) : (settle s).time = s.time := rfl
@[simp] theorem settle_acc (s : State) : (settle s).acc = s.acc := rfl
@[simp] theorem settle_place (s : State) : (settle s).place = s.place := rfl
@[simp] theorem settle_izl (s : State) : (settle s).izl = s.izl := rfl
@[simp] theorem settle_twin (s : State) : (settle s).twin = s.twin := rfl
@[simp] theorem settle_host (s : State) : (settle s).host = s.host := rfl
@[simp] theorem settle_img (s : State) : (settle s).img = s.img := rfl
@[simp] theorem settle_maint (s : State) : (settle s).maint = s.maint := rfl
@[simp] theorem settle_obs (s : State) : (settle s).obs = s.obs := rfl
@[simp] theorem settle_bar4 (s : State) : (settle s).bar4 = s.bar4 := rfl
@[simp] theorem settle_out (s : State) : (settle s).out = s.out := rfl
@[simp] theorem settle_pending (s : State) : (settle s).pending = s.pending := rfl
@[simp] theorem settle_seed (s : State) : (settle s).seed = s.seed := rfl
@[simp] theorem settle_draws (s : State) : (settle s).draws = s.draws := rfl
@[simp] theorem settle_freeCtr (s : State) : (settle s).freeCtr = s.freeCtr := rfl

@[simp] theorem putWord_regs_staged (s : State) (r : RegRow) (ix : List Nat) (w : Word) : (putWord s r ix w).regs.staged = s.regs.staged := rfl
@[simp] theorem putWord_regs_waiting (s : State) (r : RegRow) (ix : List Nat) (w : Word) : (putWord s r ix w).regs.waiting = s.regs.waiting := rfl
@[simp] theorem putWord_regs_holdClearedAt (s : State) (r : RegRow) (ix : List Nat) (w : Word) : (putWord s r ix w).regs.holdClearedAt = s.regs.holdClearedAt := rfl
@[simp] theorem putWord_regs_holdHostCycles (s : State) (r : RegRow) (ix : List Nat) (w : Word) : (putWord s r ix w).regs.holdHostCycles = s.regs.holdHostCycles := rfl
@[simp] theorem putWord_regs_holdMcCycles (s : State) (r : RegRow) (ix : List Nat) (w : Word) : (putWord s r ix w).regs.holdMcCycles = s.regs.holdMcCycles := rfl
@[simp] theorem putWord_regs_partialWords (s : State) (r : RegRow) (ix : List Nat) (w : Word) : (putWord s r ix w).regs.partialWords = s.regs.partialWords := rfl
@[simp] theorem putWord_regs_shadows (s : State) (r : RegRow) (ix : List Nat) (w : Word) : (putWord s r ix w).regs.shadows = s.regs.shadows := rfl
@[simp] theorem putWord_regs_counters (s : State) (r : RegRow) (ix : List Nat) (w : Word) : (putWord s r ix w).regs.counters = s.regs.counters := rfl

@[simp] theorem putStaged_regs_inForce (s : State) (r : RegRow) (ix : List Nat) (w : Word) : (putStaged s r ix w).regs.inForce = s.regs.inForce := rfl
@[simp] theorem putStaged_regs_waiting (s : State) (r : RegRow) (ix : List Nat) (w : Word) : (putStaged s r ix w).regs.waiting = s.regs.waiting := rfl
@[simp] theorem putStaged_regs_holdClearedAt (s : State) (r : RegRow) (ix : List Nat) (w : Word) : (putStaged s r ix w).regs.holdClearedAt = s.regs.holdClearedAt := rfl
@[simp] theorem putStaged_regs_holdHostCycles (s : State) (r : RegRow) (ix : List Nat) (w : Word) : (putStaged s r ix w).regs.holdHostCycles = s.regs.holdHostCycles := rfl
@[simp] theorem putStaged_regs_holdMcCycles (s : State) (r : RegRow) (ix : List Nat) (w : Word) : (putStaged s r ix w).regs.holdMcCycles = s.regs.holdMcCycles := rfl
@[simp] theorem putStaged_regs_partialWords (s : State) (r : RegRow) (ix : List Nat) (w : Word) : (putStaged s r ix w).regs.partialWords = s.regs.partialWords := rfl
@[simp] theorem putStaged_regs_shadows (s : State) (r : RegRow) (ix : List Nat) (w : Word) : (putStaged s r ix w).regs.shadows = s.regs.shadows := rfl
@[simp] theorem putStaged_regs_counters (s : State) (r : RegRow) (ix : List Nat) (w : Word) : (putStaged s r ix w).regs.counters = s.regs.counters := rfl

@[simp] theorem wr_regs_staged (s : State) (r : RegRow) (ix : List Nat) (hi lo v : Nat) : (wr s r ix hi lo v).regs.staged = s.regs.staged := rfl
@[simp] theorem wr_regs_waiting (s : State) (r : RegRow) (ix : List Nat) (hi lo v : Nat) : (wr s r ix hi lo v).regs.waiting = s.regs.waiting := rfl
@[simp] theorem wr_regs_holdClearedAt (s : State) (r : RegRow) (ix : List Nat) (hi lo v : Nat) : (wr s r ix hi lo v).regs.holdClearedAt = s.regs.holdClearedAt := rfl
@[simp] theorem wr_regs_holdHostCycles (s : State) (r : RegRow) (ix : List Nat) (hi lo v : Nat) : (wr s r ix hi lo v).regs.holdHostCycles = s.regs.holdHostCycles := rfl
@[simp] theorem wr_regs_holdMcCycles (s : State) (r : RegRow) (ix : List Nat) (hi lo v : Nat) : (wr s r ix hi lo v).regs.holdMcCycles = s.regs.holdMcCycles := rfl
@[simp] theorem wr_regs_partialWords (s : State) (r : RegRow) (ix : List Nat) (hi lo v : Nat) : (wr s r ix hi lo v).regs.partialWords = s.regs.partialWords := rfl
@[simp] theorem wr_regs_shadows (s : State) (r : RegRow) (ix : List Nat) (hi lo v : Nat) : (wr s r ix hi lo v).regs.shadows = s.regs.shadows := rfl
@[simp] theorem wr_regs_counters (s : State) (r : RegRow) (ix : List Nat) (hi lo v : Nat) : (wr s r ix hi lo v).regs.counters = s.regs.counters := rfl

@[simp] theorem wrBit_regs_staged (s : State) (r : RegRow) (ix : List Nat) (i : Nat) (b : Bool) : (wrBit s r ix i b).regs.staged = s.regs.staged := rfl
@[simp] theorem wrBit_regs_waiting (s : State) (r : RegRow) (ix : List Nat) (i : Nat) (b : Bool) : (wrBit s r ix i b).regs.waiting = s.regs.waiting := rfl
@[simp] theorem wrBit_regs_holdClearedAt (s : State) (r : RegRow) (ix : List Nat) (i : Nat) (b : Bool) : (wrBit s r ix i b).regs.holdClearedAt = s.regs.holdClearedAt := rfl
@[simp] theorem wrBit_regs_holdHostCycles (s : State) (r : RegRow) (ix : List Nat) (i : Nat) (b : Bool) : (wrBit s r ix i b).regs.holdHostCycles = s.regs.holdHostCycles := rfl
@[simp] theorem wrBit_regs_holdMcCycles (s : State) (r : RegRow) (ix : List Nat) (i : Nat) (b : Bool) : (wrBit s r ix i b).regs.holdMcCycles = s.regs.holdMcCycles := rfl
@[simp] theorem wrBit_regs_partialWords (s : State) (r : RegRow) (ix : List Nat) (i : Nat) (b : Bool) : (wrBit s r ix i b).regs.partialWords = s.regs.partialWords := rfl
@[simp] theorem wrBit_regs_shadows (s : State) (r : RegRow) (ix : List Nat) (i : Nat) (b : Bool) : (wrBit s r ix i b).regs.shadows = s.regs.shadows := rfl
@[simp] theorem wrBit_regs_counters (s : State) (r : RegRow) (ix : List Nat) (i : Nat) (b : Bool) : (wrBit s r ix i b).regs.counters = s.regs.counters := rfl

@[simp] theorem wrBoth_regs_waiting (s : State) (r : RegRow) (ix : List Nat) (hi lo v : Nat) : (wrBoth s r ix hi lo v).regs.waiting = s.regs.waiting := rfl
@[simp] theorem wrBoth_regs_holdClearedAt (s : State) (r : RegRow) (ix : List Nat) (hi lo v : Nat) : (wrBoth s r ix hi lo v).regs.holdClearedAt = s.regs.holdClearedAt := rfl
@[simp] theorem wrBoth_regs_holdHostCycles (s : State) (r : RegRow) (ix : List Nat) (hi lo v : Nat) : (wrBoth s r ix hi lo v).regs.holdHostCycles = s.regs.holdHostCycles := rfl
@[simp] theorem wrBoth_regs_holdMcCycles (s : State) (r : RegRow) (ix : List Nat) (hi lo v : Nat) : (wrBoth s r ix hi lo v).regs.holdMcCycles = s.regs.holdMcCycles := rfl
@[simp] theorem wrBoth_regs_partialWords (s : State) (r : RegRow) (ix : List Nat) (hi lo v : Nat) : (wrBoth s r ix hi lo v).regs.partialWords = s.regs.partialWords := rfl
@[simp] theorem wrBoth_regs_shadows (s : State) (r : RegRow) (ix : List Nat) (hi lo v : Nat) : (wrBoth s r ix hi lo v).regs.shadows = s.regs.shadows := rfl
@[simp] theorem wrBoth_regs_counters (s : State) (r : RegRow) (ix : List Nat) (hi lo v : Nat) : (wrBoth s r ix hi lo v).regs.counters = s.regs.counters := rfl

@[simp] theorem countEvent_regs_staged (s : State) (r : RegRow) (ix : List Nat) : (countEvent s r ix).regs.staged = s.regs.staged := rfl
@[simp] theorem countEvent_regs_waiting (s : State) (r : RegRow) (ix : List Nat) : (countEvent s r ix).regs.waiting = s.regs.waiting := rfl
@[simp] theorem countEvent_regs_holdClearedAt (s : State) (r : RegRow) (ix : List Nat) : (countEvent s r ix).regs.holdClearedAt = s.regs.holdClearedAt := rfl
@[simp] theorem countEvent_regs_holdHostCycles (s : State) (r : RegRow) (ix : List Nat) : (countEvent s r ix).regs.holdHostCycles = s.regs.holdHostCycles := rfl
@[simp] theorem countEvent_regs_holdMcCycles (s : State) (r : RegRow) (ix : List Nat) : (countEvent s r ix).regs.holdMcCycles = s.regs.holdMcCycles := rfl
@[simp] theorem countEvent_regs_partialWords (s : State) (r : RegRow) (ix : List Nat) : (countEvent s r ix).regs.partialWords = s.regs.partialWords := rfl
@[simp] theorem countEvent_regs_shadows (s : State) (r : RegRow) (ix : List Nat) : (countEvent s r ix).regs.shadows = s.regs.shadows := rfl
@[simp] theorem countEvent_regs_counters (s : State) (r : RegRow) (ix : List Nat) : (countEvent s r ix).regs.counters = s.regs.counters := rfl

@[simp] theorem bump_regs_staged (s : State) (g : CtrGroup) (ix : List Nat) (i n : Nat) : (bump s g ix i n).regs.staged = s.regs.staged := rfl
@[simp] theorem bump_regs_inForce (s : State) (g : CtrGroup) (ix : List Nat) (i n : Nat) : (bump s g ix i n).regs.inForce = s.regs.inForce := rfl
@[simp] theorem bump_regs_waiting (s : State) (g : CtrGroup) (ix : List Nat) (i n : Nat) : (bump s g ix i n).regs.waiting = s.regs.waiting := rfl
@[simp] theorem bump_regs_holdClearedAt (s : State) (g : CtrGroup) (ix : List Nat) (i n : Nat) : (bump s g ix i n).regs.holdClearedAt = s.regs.holdClearedAt := rfl
@[simp] theorem bump_regs_holdHostCycles (s : State) (g : CtrGroup) (ix : List Nat) (i n : Nat) : (bump s g ix i n).regs.holdHostCycles = s.regs.holdHostCycles := rfl
@[simp] theorem bump_regs_holdMcCycles (s : State) (g : CtrGroup) (ix : List Nat) (i n : Nat) : (bump s g ix i n).regs.holdMcCycles = s.regs.holdMcCycles := rfl
@[simp] theorem bump_regs_partialWords (s : State) (g : CtrGroup) (ix : List Nat) (i n : Nat) : (bump s g ix i n).regs.partialWords = s.regs.partialWords := rfl
@[simp] theorem bump_regs_shadows (s : State) (g : CtrGroup) (ix : List Nat) (i n : Nat) : (bump s g ix i n).regs.shadows = s.regs.shadows := rfl

@[simp] theorem putTb_time_dt (s : State) (t : Nat) (b : TimeBase) : (putTb s t b).time.dt = s.time.dt := rfl
@[simp] theorem putTb_time_tbCmds (s : State) (t : Nat) (b : TimeBase) : (putTb s t b).time.tbCmds = s.time.tbCmds := rfl
@[simp] theorem putTb_time_refLost (s : State) (t : Nat) (b : TimeBase) : (putTb s t b).time.refLost = s.time.refLost := rfl
@[simp] theorem putTb_time_alignTb0 (s : State) (t : Nat) (b : TimeBase) : (putTb s t b).time.alignTb0 = s.time.alignTb0 := rfl
@[simp] theorem putTb_time_cycleStart (s : State) (t : Nat) (b : TimeBase) : (putTb s t b).time.cycleStart = s.time.cycleStart := rfl
@[simp] theorem putTb_time_cycleTb0 (s : State) (t : Nat) (b : TimeBase) : (putTb s t b).time.cycleTb0 = s.time.cycleTb0 := rfl
@[simp] theorem putTb_time_ctx (s : State) (t : Nat) (b : TimeBase) : (putTb s t b).time.ctx = s.time.ctx := rfl
@[simp] theorem putTb_time_ctxWait (s : State) (t : Nat) (b : TimeBase) : (putTb s t b).time.ctxWait = s.time.ctxWait := rfl
@[simp] theorem putTb_time_ptp (s : State) (t : Nat) (b : TimeBase) : (putTb s t b).time.ptp = s.time.ptp := rfl
@[simp] theorem putTb_time_limiter (s : State) (t : Nat) (b : TimeBase) : (putTb s t b).time.limiter = s.time.limiter := rfl
@[simp] theorem putTb_time_records (s : State) (t : Nat) (b : TimeBase) : (putTb s t b).time.records = s.time.records := rfl
@[simp] theorem putTb_time_ppsin (s : State) (t : Nat) (b : TimeBase) : (putTb s t b).time.ppsin = s.time.ppsin := rfl
@[simp] theorem putTb_time_ppsout (s : State) (t : Nat) (b : TimeBase) : (putTb s t b).time.ppsout = s.time.ppsout := rfl
@[simp] theorem putTb_time_clk10 (s : State) (t : Nat) (b : TimeBase) : (putTb s t b).time.clk10 = s.time.clk10 := rfl
@[simp] theorem putTb_time_wclk (s : State) (t : Nat) (b : TimeBase) : (putTb s t b).time.wclk = s.time.wclk := rfl

@[simp] theorem elapse_time_tbCmds (s : State) (el : Nat) : (elapse el s).time.tbCmds = s.time.tbCmds := rfl
@[simp] theorem elapse_time_refLost (s : State) (el : Nat) : (elapse el s).time.refLost = s.time.refLost := rfl
@[simp] theorem elapse_time_alignTb0 (s : State) (el : Nat) : (elapse el s).time.alignTb0 = s.time.alignTb0 := rfl
@[simp] theorem elapse_time_cycleStart (s : State) (el : Nat) : (elapse el s).time.cycleStart = s.time.cycleStart := rfl
@[simp] theorem elapse_time_cycleTb0 (s : State) (el : Nat) : (elapse el s).time.cycleTb0 = s.time.cycleTb0 := rfl
@[simp] theorem elapse_time_ctx (s : State) (el : Nat) : (elapse el s).time.ctx = s.time.ctx := rfl
@[simp] theorem elapse_time_ctxWait (s : State) (el : Nat) : (elapse el s).time.ctxWait = s.time.ctxWait := rfl
@[simp] theorem elapse_time_ptp (s : State) (el : Nat) : (elapse el s).time.ptp = s.time.ptp := rfl
@[simp] theorem elapse_time_limiter (s : State) (el : Nat) : (elapse el s).time.limiter = s.time.limiter := rfl
@[simp] theorem elapse_time_records (s : State) (el : Nat) : (elapse el s).time.records = s.time.records := rfl
@[simp] theorem elapse_time_ppsin (s : State) (el : Nat) : (elapse el s).time.ppsin = s.time.ppsin := rfl
@[simp] theorem elapse_time_ppsout (s : State) (el : Nat) : (elapse el s).time.ppsout = s.time.ppsout := rfl
@[simp] theorem elapse_time_clk10 (s : State) (el : Nat) : (elapse el s).time.clk10 = s.time.clk10 := rfl
@[simp] theorem elapse_time_wclk (s : State) (el : Nat) : (elapse el s).time.wclk = s.time.wclk := rfl

@[simp] theorem putQueue_sched_config (s : State) (q : Nat) (x : Queue) : (putQueue s q x).sched.config = s.sched.config := rfl
@[simp] theorem putQueue_sched_configWait (s : State) (q : Nat) (x : Queue) : (putQueue s q x).sched.configWait = s.sched.configWait := rfl
@[simp] theorem putQueue_sched_ports (s : State) (q : Nat) (x : Queue) : (putQueue s q x).sched.ports = s.sched.ports := rfl
@[simp] theorem putQueue_sched_gates (s : State) (q : Nat) (x : Queue) : (putQueue s q x).sched.gates = s.sched.gates := rfl
@[simp] theorem putQueue_sched_gateStaged (s : State) (q : Nat) (x : Queue) : (putQueue s q x).sched.gateStaged = s.sched.gateStaged := rfl
@[simp] theorem putQueue_sched_xoff (s : State) (q : Nat) (x : Queue) : (putQueue s q x).sched.xoff = s.sched.xoff := rfl
@[simp] theorem putQueue_sched_sending (s : State) (q : Nat) (x : Queue) : (putQueue s q x).sched.sending = s.sched.sending := rfl

@[simp] theorem putGate_sched_queues (s : State) (p : Nat) (g : Gate) : (putGate s p g).sched.queues = s.sched.queues := rfl
@[simp] theorem putGate_sched_config (s : State) (p : Nat) (g : Gate) : (putGate s p g).sched.config = s.sched.config := rfl
@[simp] theorem putGate_sched_configWait (s : State) (p : Nat) (g : Gate) : (putGate s p g).sched.configWait = s.sched.configWait := rfl
@[simp] theorem putGate_sched_ports (s : State) (p : Nat) (g : Gate) : (putGate s p g).sched.ports = s.sched.ports := rfl
@[simp] theorem putGate_sched_gateStaged (s : State) (p : Nat) (g : Gate) : (putGate s p g).sched.gateStaged = s.sched.gateStaged := rfl
@[simp] theorem putGate_sched_xoff (s : State) (p : Nat) (g : Gate) : (putGate s p g).sched.xoff = s.sched.xoff := rfl
@[simp] theorem putGate_sched_sending (s : State) (p : Nat) (g : Gate) : (putGate s p g).sched.sending = s.sched.sending := rfl

@[simp] theorem putPortSched_sched_queues (s : State) (p : Nat) (x : PortSched) : (putPortSched s p x).sched.queues = s.sched.queues := rfl
@[simp] theorem putPortSched_sched_config (s : State) (p : Nat) (x : PortSched) : (putPortSched s p x).sched.config = s.sched.config := rfl
@[simp] theorem putPortSched_sched_configWait (s : State) (p : Nat) (x : PortSched) : (putPortSched s p x).sched.configWait = s.sched.configWait := rfl
@[simp] theorem putPortSched_sched_gates (s : State) (p : Nat) (x : PortSched) : (putPortSched s p x).sched.gates = s.sched.gates := rfl
@[simp] theorem putPortSched_sched_gateStaged (s : State) (p : Nat) (x : PortSched) : (putPortSched s p x).sched.gateStaged = s.sched.gateStaged := rfl
@[simp] theorem putPortSched_sched_xoff (s : State) (p : Nat) (x : PortSched) : (putPortSched s p x).sched.xoff = s.sched.xoff := rfl
@[simp] theorem putPortSched_sched_sending (s : State) (p : Nat) (x : PortSched) : (putPortSched s p x).sched.sending = s.sched.sending := rfl

@[simp] theorem putPtp_time_dt (s : State) (c : Nat) (x : PtpState) : (putPtp s c x).time.dt = s.time.dt := rfl
@[simp] theorem putPtp_time_tbs (s : State) (c : Nat) (x : PtpState) : (putPtp s c x).time.tbs = s.time.tbs := rfl
@[simp] theorem putPtp_time_tbCmds (s : State) (c : Nat) (x : PtpState) : (putPtp s c x).time.tbCmds = s.time.tbCmds := rfl
@[simp] theorem putPtp_time_refLost (s : State) (c : Nat) (x : PtpState) : (putPtp s c x).time.refLost = s.time.refLost := rfl
@[simp] theorem putPtp_time_alignTb0 (s : State) (c : Nat) (x : PtpState) : (putPtp s c x).time.alignTb0 = s.time.alignTb0 := rfl
@[simp] theorem putPtp_time_cycleStart (s : State) (c : Nat) (x : PtpState) : (putPtp s c x).time.cycleStart = s.time.cycleStart := rfl
@[simp] theorem putPtp_time_cycleTb0 (s : State) (c : Nat) (x : PtpState) : (putPtp s c x).time.cycleTb0 = s.time.cycleTb0 := rfl
@[simp] theorem putPtp_time_ctx (s : State) (c : Nat) (x : PtpState) : (putPtp s c x).time.ctx = s.time.ctx := rfl
@[simp] theorem putPtp_time_ctxWait (s : State) (c : Nat) (x : PtpState) : (putPtp s c x).time.ctxWait = s.time.ctxWait := rfl
@[simp] theorem putPtp_time_limiter (s : State) (c : Nat) (x : PtpState) : (putPtp s c x).time.limiter = s.time.limiter := rfl
@[simp] theorem putPtp_time_records (s : State) (c : Nat) (x : PtpState) : (putPtp s c x).time.records = s.time.records := rfl
@[simp] theorem putPtp_time_ppsin (s : State) (c : Nat) (x : PtpState) : (putPtp s c x).time.ppsin = s.time.ppsin := rfl
@[simp] theorem putPtp_time_ppsout (s : State) (c : Nat) (x : PtpState) : (putPtp s c x).time.ppsout = s.time.ppsout := rfl
@[simp] theorem putPtp_time_clk10 (s : State) (c : Nat) (x : PtpState) : (putPtp s c x).time.clk10 = s.time.clk10 := rfl
@[simp] theorem putPtp_time_wclk (s : State) (c : Nat) (x : PtpState) : (putPtp s c x).time.wclk = s.time.wclk := rfl

@[simp] theorem settle_irq_msixEnable (s : State) : (settle s).irq.msixEnable = s.irq.msixEnable := rfl
@[simp] theorem settle_irq_functionMask (s : State) : (settle s).irq.functionMask = s.irq.functionMask := rfl
@[simp] theorem settle_irq_masked (s : State) : (settle s).irq.masked = s.irq.masked := rfl
@[simp] theorem settle_irq_lastMessage (s : State) : (settle s).irq.lastMessage = s.irq.lastMessage := rfl
@[simp] theorem settle_irq_msixTable (s : State) : (settle s).irq.msixTable = s.irq.msixTable := rfl

end Sys2Proof.Machine
end

