-- ==== Sys2Proof/Laws/Registers.lean ====
section
/-! SUPPORT. What a read of a register, a field or a counter gives after a write of one. -/
namespace Sys2Proof.Machine

/-! ### Fields -/

theorem setFld_bound {m : Nat} (x v hi lo : Nat) (hx : x < 2 ^ m) (hl : lo ≤ hi) (hm : hi < m) :
    x - bits x hi lo * 2 ^ lo + v % 2 ^ (hi + 1 - lo) * 2 ^ lo < 2 ^ m ∧
      bits (x - bits x hi lo * 2 ^ lo + v % 2 ^ (hi + 1 - lo) * 2 ^ lo) hi lo = v % 2 ^ (hi + 1 - lo) ∧
      (x - bits x hi lo * 2 ^ lo + v % 2 ^ (hi + 1 - lo) * 2 ^ lo) % 2 ^ lo = x % 2 ^ lo ∧
      (x - bits x hi lo * 2 ^ lo + v % 2 ^ (hi + 1 - lo) * 2 ^ lo) / 2 ^ (hi + 1) = x / 2 ^ (hi + 1) := by
  have hb : 0 < 2 ^ lo := Nat.two_pow_pos lo
  have hmm : 0 < 2 ^ (hi + 1 - lo) := Nat.two_pow_pos _
  have hsplit : 2 ^ (hi + 1) = 2 ^ (hi + 1 - lo) * 2 ^ lo := by rw [← Nat.pow_add]; congr 1; omega
  have htop : 2 ^ m = 2 ^ (m - (hi + 1)) * 2 ^ (hi + 1) := by rw [← Nat.pow_add]; congr 1; omega
  set b := 2 ^ lo with hbdef
  set k := 2 ^ (hi + 1 - lo) with hkdef
  obtain ⟨q, hq⟩ : ∃ q, q = x / b / k := ⟨_, rfl⟩
  have hv : v % k < k := Nat.mod_lt _ hmm
  have h1 : x = (q * k + x / b % k) * b + x % b := by
    have e1 := Nat.div_add_mod x b
    have e2 := Nat.div_add_mod (x / b) k
    rw [hq]
    calc x = b * (x / b) + x % b := e1.symm
      _ = b * (k * (x / b / k) + x / b % k) + x % b := by rw [e2]
      _ = _ := by ring
  have hr : x % b < b := Nat.mod_lt _ hb
  have hbits : bits x hi lo = x / b % k := rfl
  have hnew : x - bits x hi lo * b + v % k * b = (q * k + v % k) * b + x % b := by
    rw [hbits]
    conv_lhs => rw [h1]
    have e3 : ((q * k + x / b % k) * b + x % b) / b % k = x / b % k := by rw [← h1]
    rw [e3]
    have : (q * k + x / b % k) * b + x % b = q * k * b + x % b + x / b % k * b := by ring
    rw [this, Nat.add_sub_cancel]; ring
  have hdiv : ((q * k + v % k) * b + x % b) / b = q * k + v % k := by
    rw [Nat.add_comm, Nat.add_mul_div_right _ _ hb, Nat.div_eq_of_lt hr]; omega
  refine ⟨?_, ?_, ?_, ?_⟩
  · rw [hnew]
    have hqlt : q < 2 ^ (m - (hi + 1)) := by
      rw [hq, Nat.div_div_eq_div_mul, Nat.div_lt_iff_lt_mul (Nat.mul_pos hb hmm), Nat.mul_comm b k, ← hsplit, ← htop]
      exact hx
    have : (q * k + v % k) * b + x % b < (q + 1) * (k * b) := by nlinarith
    calc _ < (q + 1) * (k * b) := this
      _ ≤ 2 ^ (m - (hi + 1)) * (k * b) := Nat.mul_le_mul_right _ hqlt
      _ = 2 ^ m := by rw [htop, hsplit]
  · rw [hnew]
    show ((q * k + v % k) * b + x % b) / b % k = v % k
    rw [hdiv, Nat.add_comm, Nat.add_mul_mod_self_right, Nat.mod_mod]
  · rw [hnew, Nat.add_comm, Nat.add_mul_mod_self_right, Nat.mod_mod]
  · rw [hnew, hsplit, Nat.mul_comm k b, ← Nat.div_div_eq_div_mul, ← Nat.div_div_eq_div_mul, hdiv, hq, Nat.add_comm,
      Nat.add_mul_div_right _ _ hmm, Nat.div_eq_of_lt hv]; omega

variable {m : Nat} {x : BitVec m} {hi lo v : Nat}

theorem setFld_toNat (hl : lo ≤ hi) (hm : hi < m) :
    (setFld x hi lo v).toNat = x.toNat - bits x.toNat hi lo * 2 ^ lo + v % 2 ^ (hi + 1 - lo) * 2 ^ lo := by
  simp only [setFld, BitVec.toNat_ofNat]
  exact Nat.mod_eq_of_lt (setFld_bound x.toNat v hi lo x.isLt hl hm).1

/-- The field reads as written. -/
theorem fld_setFld_same (hl : lo ≤ hi) (hm : hi < m) : fld (setFld x hi lo v) hi lo = v % 2 ^ (hi + 1 - lo) := by
  rw [fld, setFld_toNat hl hm]; exact (setFld_bound x.toNat v hi lo x.isLt hl hm).2.1

/-- A field below the one written keeps its value. -/
theorem fld_setFld_below {h' l' : Nat} (hl : lo ≤ hi) (hm : hi < m) (h : h' < lo) :
    fld (setFld x hi lo v) h' l' = fld x h' l' := by
  rw [fld, fld, setFld_toNat hl hm]
  have e := (setFld_bound x.toNat v hi lo x.isLt hl hm).2.2.1
  generalize x.toNat - bits x.toNat hi lo * 2 ^ lo + v % 2 ^ (hi + 1 - lo) * 2 ^ lo = y at e
  have low (z : Nat) : bits z h' l' = bits (z % 2 ^ lo) h' l' := by
    by_cases hc : l' ≤ h'
    · simp only [bits]
      have e1 : 2 ^ lo = 2 ^ l' * 2 ^ (lo - l') := by rw [← Nat.pow_add]; congr 1; omega
      have e2 : 2 ^ (lo - l') = 2 ^ (h' + 1 - l') * 2 ^ (lo - (h' + 1)) := by rw [← Nat.pow_add]; congr 1; omega
      rw [e1, Nat.mod_mul_right_div_self, e2, Nat.mod_mul_right_mod]
    · simp [bits, show h' + 1 - l' = 0 by omega, Nat.mod_one]
  rw [low y, e, ← low]

/-- A field above the one written keeps its value. -/
theorem fld_setFld_above {h' l' : Nat} (hl : lo ≤ hi) (hm : hi < m) (h : hi < l') :
    fld (setFld x hi lo v) h' l' = fld x h' l' := by
  rw [fld, fld, setFld_toNat hl hm]
  have e := (setFld_bound x.toNat v hi lo x.isLt hl hm).2.2.2
  generalize x.toNat - bits x.toNat hi lo * 2 ^ lo + v % 2 ^ (hi + 1 - lo) * 2 ^ lo = y at e
  have high (z : Nat) : bits z h' l' = z / 2 ^ (hi + 1) / 2 ^ (l' - (hi + 1)) % 2 ^ (h' + 1 - l') := by
    simp only [bits]
    rw [Nat.div_div_eq_div_mul, ← Nat.pow_add, show hi + 1 + (l' - (hi + 1)) = l' by omega]
  rw [high y, e, ← high]

theorem flag_eq_fld {i : Nat} : flag x i = decide (fld x i i = 1) := by
  have e : fld x i i = x.toNat / 2 ^ i % 2 := by simp [fld, bits]
  rw [e]
  simp only [flag, BitVec.getLsbD, Nat.testBit, Nat.shiftRight_eq_div_pow]
  rw [Nat.and_comm, Nat.and_one_is_mod]
  rcases Nat.mod_two_eq_zero_or_one (x.toNat / 2 ^ i) with h | h <;> simp [h]

/-! ### Registers -/

variable {s : State} {r q : RegRow} {ix jx : List Nat} {w : Word}

@[simp] theorem word_putWord_same : word (putWord s r ix w) r ix = w := get_set_same

theorem word_putWord_other (h : q.addr jx ≠ r.addr ix) : word (putWord s r ix w) q jx = word s q jx := get_set_other h

@[simp] theorem word_wr_same : word (wr s r ix hi lo v) r ix = setFld (word s r ix) hi lo v := get_set_same

theorem word_wr_other (h : q.addr jx ≠ r.addr ix) : word (wr s r ix hi lo v) q jx = word s q jx := get_set_other h

theorem rd_wr_same (hl : lo ≤ hi) (hm : hi < 32) : rd (wr s r ix hi lo v) r ix hi lo = v % 2 ^ (hi + 1 - lo) := by
  rw [rd, word_wr_same, fld_setFld_same hl hm]

theorem rd_wr_other {h' l' : Nat} (h : q.addr jx ≠ r.addr ix) : rd (wr s r ix hi lo v) q jx h' l' = rd s q jx h' l' := by
  rw [rd, rd, word_wr_other h]

theorem rdBit_wrBit_same {i : Nat} {b : Bool} (h : i < 32) : rdBit (wrBit s r ix i b) r ix i = b := by
  rw [rdBit, wrBit, word_wr_same, flag_eq_fld, fld_setFld_same (Nat.le_refl i) h]
  cases b <;> simp [bnat]

@[simp] theorem word_countEvent_same : word (countEvent s r ix) r ix = word s r ix + 1 := get_set_same

theorem word_countEvent_other (h : q.addr jx ≠ r.addr ix) : word (countEvent s r ix) q jx = word s q jx := get_set_other h

/-- A counter after a bump: more by `n`, wrapping at its width. -/
@[simp] theorem ctr_bump_same {g : CtrGroup} {i n : Nat} :
    ctr (bump s g ix i n) g ix i = (ctr s g ix i + n) % 2 ^ g.widths.getD i 0 := get_set_same

theorem ctr_bump_other {g g' : CtrGroup} {i j n : Nat} (h : g'.addr jx j ≠ g.addr ix i) :
    ctr (bump s g ix i n) g' jx j = ctr s g' jx j := get_set_other h

end Sys2Proof.Machine
end

