-- ==== Sys2Proof/Laws/Does.lean ====
section
/-! SUPPORT. Frames of the shared operations, and how a command's effect follows from what its meaning hands to `done`. -/
namespace Sys2Proof.Machine

theorem OnlyChanges.refl (ps : List Part) (s : State) : OnlyChanges ps s s := by
  intro p _; cases p <;> simp [Part.same]

theorem Part.same_trans {p : Part} {s t u : State} (h : p.same s t) (h' : p.same t u) : p.same s u := by
  cases p <;> simp_all [Part.same]

theorem OnlyChanges.trans {ps : List Part} {s t u : State} (h : OnlyChanges ps s t) (h' : OnlyChanges ps t u) :
    OnlyChanges ps s u := fun p hp => Part.same_trans (h p hp) (h' p hp)

theorem OnlyChanges.mono {ps qs : List Part} {s t : State} (h : OnlyChanges ps s t) (hs : ∀ p ∈ ps, p ∈ qs) :
    OnlyChanges qs s t := fun p hp => h p fun hm => hp (hs p hm)

theorem onlyChanges_settle {ps : List Part} {s t : State} (h : OnlyChanges ps s t) :
    OnlyChanges (.arming :: ps) s (settle t) := by
  intro p hp
  have h' := h p fun hm => hp (List.mem_cons_of_mem _ hm)
  cases p <;> first | exact h' | exact absurd (List.mem_cons_self ..) hp

/-- The effect of a command whose meaning hands `u` to `done`. -/
theorem doesFrom_of {b : State} {c : Instr} {s u : State} {ps : List Part} {P : State → Prop} (h : exec c s = done u)
    (f : OnlyChanges ps b u) (p : P (settle u)) : DoesFrom b c s ps P := ⟨settle u, h, onlyChanges_settle f, p⟩

theorem does_of {c : Instr} {s u : State} {ps : List Part} {P : State → Prop} (h : exec c s = done u)
    (f : OnlyChanges ps s u) (p : P (settle u)) : Does c s ps P := doesFrom_of h f p

/-! ### Frames of the shared operations -/

theorem onlyChanges_putWord (s : State) (r : RegRow) (ix : List Nat) (w : Word) :
    OnlyChanges [.inForce] s (putWord s r ix w) := by intro p hp; cases p <;> simp_all [Part.same]

theorem onlyChanges_putStaged (s : State) (r : RegRow) (ix : List Nat) (w : Word) :
    OnlyChanges [.staged] s (putStaged s r ix w) := by intro p hp; cases p <;> simp_all [Part.same]

theorem onlyChanges_wr (s : State) (r : RegRow) (ix : List Nat) (hi lo v : Nat) :
    OnlyChanges [.inForce] s (wr s r ix hi lo v) := by intro p hp; cases p <;> simp_all [Part.same]

theorem onlyChanges_wrBit (s : State) (r : RegRow) (ix : List Nat) (i : Nat) (b : Bool) :
    OnlyChanges [.inForce] s (wrBit s r ix i b) := by intro p hp; cases p <;> simp_all [Part.same]

theorem onlyChanges_wrBoth (s : State) (r : RegRow) (ix : List Nat) (hi lo v : Nat) :
    OnlyChanges [.staged, .inForce] s (wrBoth s r ix hi lo v) := by intro p hp; cases p <;> simp_all [Part.same]

theorem onlyChanges_countEvent (s : State) (r : RegRow) (ix : List Nat) :
    OnlyChanges [.inForce] s (countEvent s r ix) := by intro p hp; cases p <;> simp_all [Part.same]

theorem onlyChanges_bump (s : State) (g : CtrGroup) (ix : List Nat) (i n : Nat) :
    OnlyChanges [.counters] s (bump s g ix i n) := by intro p hp; cases p <;> simp_all [Part.same]

theorem onlyChanges_emit (s : State) (o : Output) : OnlyChanges [.out] s (emit s o) := by
  intro p hp; cases p <;> simp_all [Part.same]

theorem onlyChanges_spend (s : State) : OnlyChanges [.freeCtr] s (spend s) := by
  intro p hp; cases p <;> simp_all [Part.same]

theorem onlyChanges_elapse (el : Nat) (s : State) : OnlyChanges [.clock] s (elapse el s) := by
  intro p hp; cases p <;> simp_all [Part.same]

/-- Time that passes while no time base command waits moves the clock alone (R254). -/
theorem advance_of_idle {el : Nat} {s : State} (h : s.time.tbCmds = []) : advance el s = elapse el s := by
  simp [advance, h]

theorem onlyChanges_advance (el : Nat) (s : State) (h : s.time.tbCmds = []) : OnlyChanges [.clock] s (advance el s) := by
  rw [advance_of_idle h]; exact onlyChanges_elapse el s

theorem onlyChanges_putPort (s : State) (p : Nat) (x : Port) : OnlyChanges [.ports] s (putPort s p x) := by
  intro p hp; cases p <;> simp_all [Part.same]

theorem onlyChanges_putModule (s : State) (k : Nat) (m : Module) : OnlyChanges [.modules] s (putModule s k m) := by
  intro p hp; cases p <;> simp_all [Part.same]

theorem onlyChanges_putQueue (s : State) (q : Nat) (x : Queue) : OnlyChanges [.sched] s (putQueue s q x) := by
  intro p hp; cases p <;> simp_all [Part.same]

theorem onlyChanges_putGate (s : State) (p : Nat) (g : Gate) : OnlyChanges [.sched] s (putGate s p g) := by
  intro p hp; cases p <;> simp_all [Part.same]

theorem onlyChanges_putStreamState (s : State) (h : Nat) (x : StreamState) :
    OnlyChanges [.strm] s (putStreamState s h x) := by intro p hp; cases p <;> simp_all [Part.same]

theorem onlyChanges_putJob (s : State) (j : Nat) (x : Job) : OnlyChanges [.acc] s (putJob s j x) := by
  intro p hp; cases p <;> simp_all [Part.same]

theorem onlyChanges_putIzlGroup (s : State) (g : Nat) (x : IzlGroup) : OnlyChanges [.izl] s (putIzlGroup s g x) := by
  intro p hp; cases p <;> simp_all [Part.same]

theorem onlyChanges_putFrame (s : State) (f : Nat) (x : Frame) : OnlyChanges [.frames] s (putFrame s f x) := by
  intro p hp; cases p <;> simp_all [Part.same, putFrame]

/-! ### Words and counters that an operation leaves alone -/

theorem RegsBut.refl (l : List Nat) (s : State) : RegsBut l s s := fun _ _ _ => rfl

theorem RegsBut.trans {l : List Nat} {s t u : State} (h : RegsBut l s t) (h' : RegsBut l t u) : RegsBut l s u :=
  fun a d ha => (h' a d ha).trans (h a d ha)

theorem regsBut_of_eq {l : List Nat} {s t : State} (h : t.regs.inForce = s.regs.inForce) : RegsBut l s t :=
  fun a d _ => by rw [h]

theorem regsBut_putWord {l : List Nat} {s : State} {r : RegRow} {ix : List Nat} {w : Word} (h : r.addr ix ∈ l) :
    RegsBut l s (putWord s r ix w) := fun _ _ ha => get_set_other fun e => ha (e ▸ h)

theorem regsBut_wr {l : List Nat} {s : State} {r : RegRow} {ix : List Nat} {hi lo v : Nat} (h : r.addr ix ∈ l) :
    RegsBut l s (wr s r ix hi lo v) := regsBut_putWord h

theorem regsBut_wrBit {l : List Nat} {s : State} {r : RegRow} {ix : List Nat} {i : Nat} {b : Bool} (h : r.addr ix ∈ l) :
    RegsBut l s (wrBit s r ix i b) := regsBut_putWord h

theorem regsBut_wrBoth {l : List Nat} {s : State} {r : RegRow} {ix : List Nat} {hi lo v : Nat} (h : r.addr ix ∈ l) :
    RegsBut l s (wrBoth s r ix hi lo v) := regsBut_putWord h

theorem regsBut_countEvent {l : List Nat} {s : State} {r : RegRow} {ix : List Nat} (h : r.addr ix ∈ l) :
    RegsBut l s (countEvent s r ix) := regsBut_putWord h

theorem CountersBut.trans {l : List Nat} {s t u : State} (h : CountersBut l s t) (h' : CountersBut l t u) :
    CountersBut l s u := fun a ha => (h' a ha).trans (h a ha)

theorem countersBut_of_eq {l : List Nat} {s t : State} (h : t.regs.counters = s.regs.counters) : CountersBut l s t :=
  fun a _ => by rw [h]

theorem countersBut_bump {l : List Nat} {s : State} {g : CtrGroup} {ix : List Nat} {i n : Nat} (h : g.addr ix i ∈ l) :
    CountersBut l s (bump s g ix i n) := fun _ ha => get_set_other fun e => ha (e ▸ h)

end Sys2Proof.Machine
end

