-- ==== Sys2Proof/Machine/Package.lean ====
section
/-! DEFINITION. The package: which signal each of its 1,936 balls carries, what an open ball reads, and the typical power of a
configuration (R526 to R532, R542, R544, R548). -/
namespace Sys2Proof.Machine

/-- What a ball carries (Tables 20-4 to 20-8); `p` tells the P leg of a pair, and a pair of a copper port is 0 for A to 3 for D. -/
inductive BallSignal where
  | hrx (n : Nat) (p : Bool) | htx (n : Nat) (p : Bool)
  | cmdi (n pair : Nat) (p : Bool)
  | trx (k : Nat) (p : Bool) | ttx (k : Nat) (p : Bool) | otx (p : Bool)
  | per (i : Nat) (p : Bool) | pet (i : Nat) (p : Bool) | prefclk (p : Bool) | perstN
  | resetN | pwrgd | intN | bootSel (i : Nat) | twinId | testMode
  | tck | tms | tdi | tdo | trstN
  | obsSck | obsSdi | obsSdo | obsCsN
  | gpio (n : Nat) | mscl (k : Nat) | msda (k : Nat)
  | ppsout (k : Nat) | wclk (k : Nat) | clk10out | ppsin (k : Nat) | refin
  | vin12 | vaux33 | gnd
  deriving DecidableEq, Repr

/-- The letters of rows 1 to 20 (Table 20-2). -/
def rowLetters : List String :=
  ["A", "B", "C", "D", "E", "F", "G", "H", "J", "K", "L", "M", "N", "P", "T", "U", "V", "W", "Y", "Z"]

/-- The letters of row `r` (R527). -/
def rowName (r : Nat) : String :=
  if r ≤ 20 then rowLetters.getD (r - 1) "" else if r ≤ 40 then "A" ++ rowLetters.getD (r - 21) ""
  else "B" ++ rowLetters.getD (r - 41) ""

/-- The name of the ball in row `r` and column `c`. -/
def ballName (r c : Nat) : String := rowName r ++ toString c

/-- Column `c` among the pairs of the lane regions: the pair's place in its row and its leg; none for a ground column. -/
def laneColumn (c : Nat) : Option (Nat × Bool) :=
  match (c - 5) % 3 with
  | 0 => some ((c - 5) / 3, true)
  | 1 => some ((c - 5) / 3, false)
  | _ => none

/-- A lane region's ball: `rows` are the rows of its receive and transmit pairs for t of 0 and then of 1, and `first` is its
first lane (R529, Table 20-4). -/
def laneBall (rows : Nat × Nat × Nat × Nat) (first r c : Nat) : BallSignal :=
  match laneColumn c with
  | none => .gnd
  | some (j, p) =>
    if r = rows.1 then .hrx (first + j) p else if r = rows.2.1 then .htx (first + j) p
    else if r = rows.2.2.1 then .hrx (first + 12 + j) p else if r = rows.2.2.2 then .htx (first + 12 + j) p else .gnd

/-- A copper region's ball, in row `r` and with P legs in the odd columns: half `h` of the ports from `first` on (R530). -/
def copperBall (first h r c : Nat) : BallSignal :=
  .cmdi (first + 8 * h + (r - 7) / 4) ((r - 7) % 4) (c % 2 == 1)

/-- The place of `c` among the pairs whose P legs lie in columns `a`, `a + gap`, …, and its leg. -/
def pairAt (a gap n c : Nat) : Option (Nat × Bool) :=
  if c < a then none
  else if (c - a) / gap < n ∧ (c - a) % gap < 2 then some ((c - a) / gap, (c - a) % gap == 0) else none

/-- The signals of consecutive balls from column `a` on, and ground beside them. -/
def rowOf (a : Nat) (l : List BallSignal) (c : Nat) : BallSignal := if c < a then .gnd else l.getD (c - a) .gnd

/-- A ball of the centre (Table 20-6). -/
def centreBall (r c : Nat) : BallSignal :=
  match r with
  | 10 => match pairAt 6 4 4 c, pairAt 26 3 4 c with
    | some (k, p), _ => .trx k p
    | _, some (i, p) => .per i p
    | _, _ => .gnd
  | 12 => match pairAt 6 4 4 c, pairAt 26 3 4 c with
    | some (k, p), _ => .ttx k p
    | _, some (i, p) => .pet i p
    | _, _ => rowOf 22 [.otx true, .otx false] c
  | 14 => rowOf 26 [.prefclk true, .prefclk false, .gnd, .perstN] c
  | 15 =>
    if c < 26 then
      rowOf 6 [.resetN, .pwrgd, .intN, .gnd, .bootSel 0, .bootSel 1, .twinId, .testMode, .gnd, .tck, .tms, .tdi, .tdo, .trstN] c
    else rowOf 26 [.obsSck, .obsSdi, .obsSdo, .obsCsN] c
  | 16 => rowOf 6 [.vaux33, .vaux33, .vaux33, .vaux33] c
  | _ => if 21 ≤ r ∧ r ≤ 28 ∧ 17 ≤ c ∧ c ≤ 28 then .vin12 else .gnd

/-- A ball of the left half of the bottom corners (Table 20-8). -/
def bottomLeft (r c : Nat) : BallSignal :=
  match r with
  | 43 => rowOf 1 [.ppsout 0, .ppsout 1, .wclk 0, .wclk 1] c
  | 44 => rowOf 1 [.clk10out, .ppsin 0, .ppsin 1, .refin] c
  | _ => .gpio (48 + 4 * (r - 39) + (c - 1))

/-- The signal of the ball in row `r` and column `c`, each from 1 to 44 (R528, Table 20-3). -/
def ballSignal (r c : Nat) : BallSignal :=
  if c < 5 then
    if r ≤ 6 then .gpio (4 * (r - 1) + (c - 1))
    else if r ≤ 38 then copperBall 0 ((c - 1) / 2) r c
    else bottomLeft r c
  else if 40 < c then
    if r ≤ 6 then .gpio (24 + 4 * (r - 1) + (c - 41))
    else if r ≤ 38 then copperBall 16 ((44 - c) / 2) r c
    else if c % 2 = 1 then .mscl (2 * (r - 39) + (c - 41) / 2) else .msda (2 * (r - 39) + (c - 41) / 2)
  else if r ≤ 8 then laneBall (2, 4, 6, 8) 0 r c
  else if 37 ≤ r then laneBall (43, 41, 39, 37) 24 r c
  else centreBall r c

/-- Every ball with its signal, row by row. -/
def ballMap : List BallSignal :=
  (List.range 44).flatMap fun r => (List.range 44).map fun c => ballSignal (r + 1) (c + 1)

/-! ### Pulls and straps (R544) -/

/-- What a single-ended ball's internal pull makes of it while nothing drives it; none where it has no pull (Table 20-15). -/
def pullOf : BallSignal → Option Bool
  | .resetN | .bootSel _ | .twinId | .intN | .gpio _ | .mscl _ | .msda _ | .tms | .tdi | .obsCsN => some true
  | .testMode | .perstN | .ppsin _ | .pwrgd | .tck | .trstN | .obsSck | .obsSdi => some false
  | .hrx .. | .htx .. | .cmdi .. | .trx .. | .ttx .. | .otx _ | .per .. | .pet .. | .prefclk _ | .tdo | .obsSdo | .ppsout _
  | .wclk _ | .clk10out | .refin | .vin12 | .vaux33 | .gnd => none

/-- How the board ties a ball. -/
inductive Tie where
  | ground | unconnected | high
  deriving DecidableEq, Repr

/-- The level that an input reads under its tie. -/
def tiedLevel (b : BallSignal) (t : Tie) : Bool :=
  match t with
  | .ground => false
  | .high => true
  | .unconnected => (pullOf b).getD false

/-- The straps that RESET_EXIT samples on a board with these ties. -/
def tiedStraps (boot0 boot1 twin test : Tie) : Straps :=
  { bootSel := BitVec.ofNat 2 (bnat (tiedLevel (.bootSel 0) boot0) + 2 * bnat (tiedLevel (.bootSel 1) boot1)),
    twinId := tiedLevel .twinId twin, testMode := tiedLevel .testMode test }

/-! ### Power and temperature (R542, R548) -/

/-- The typical power of lane `n` of a populated octet, in 10 mW (Table 20-12). -/
def lanePower (s : State) (n : Nat) : Nat :=
  let m := laneMode s n
  if m = 0 then 5
  else if m = 0x10 ∨ m = 0x11 then
    if rdBit s Reg.izlLaneStat [n] 28 then 5 else if m = 0x11 then 75 else 45
  else match m with
    | 1 => 12 | 2 => 30 | 3 => 45 | 6 => 45
    | _ => 75

/-- The typical power of copper port `c` of a populated octet, in 10 mW. -/
def copperPower (s : State) (c : Nat) : Nat :=
  if !linkUp s (48 + c) || rdBit s Reg.cpLinkStat [c] 12 then 3
  else match rd s Reg.cpLinkStat [c] 2 1 with
    | 0 => 10 | 1 => 15 | _ => 40

/-- The typical power of populated cluster `k`, in 10 mW, by its clock and the mean load of its engines. -/
def clusterPower (s : State) (k : Nat) : Nat :=
  [50, 30, 20].getD (s.acc.clocks.getD k 0) 0 +
    250 * ((List.range 8).map fun e => engineLoad s (8 * k + e) none).sum / (8 * fullLoad)

/-- The typical power of the device, in 10 mW: the terms of Table 20-12 of the populated units. -/
def typicalPower (s : State) : Nat :=
  let each (n first : Nat) (f : Nat → Nat) : Nat := (((List.range n).filter fun k => popBit s (first + k)).map f).sum
  1200 + each 6 0 (fun o => 80 + ((List.range 8).map fun i => lanePower s (8 * o + i)).sum) +
    each 4 6 (fun o => 30 + ((List.range 8).map fun i => copperPower s (8 * o + i)).sum) +
    each 4 10 (fun k => if rdBit s Reg.pipeStat [k] 0 then 260 else 500) + each 8 14 (clusterPower s) +
    (if popBit s 22 then 320 else 0) + if rdBit s Reg.obsTraceCfg [] 31 then 30 else 0

/-- The bound on the power of the device, in 10 mW. -/
def maximumPower (s : State) : Nat := min 14000 (typicalPower s * 122 / 100)

/-- θJC, junction to lid top, in mK/W (Table 20-18). -/
def thetaJc : Nat := 70

/-- The junction temperature in mK above 0 °C, at ambient `ta` mK and `p` W, through an interface and a heat sink of `cs` and
`sa` mK/W. -/
def junction (ta : Int) (p cs sa : Nat) : Int := ta + p * (thetaJc + cs + sa)

end Sys2Proof.Machine
end

