-- ==== Sys2Proof/WellFormed.lean ====
section
/-! DEFINITION. Which commands are well formed: addresses within their base address registers, byte strings of the
lengths that their frames, leaves and buffers have. Every other operand is bounded by its type. -/
namespace Sys2Proof

/-- An address of BAR0, BAR2 or BAR4 (Table 14-1). -/
def inBars (a : Nat) : Bool :=
  decide (a < 0x10000000) || decide (0x20000000 ≤ a ∧ a < 0x44000000)

/-- A word of BAR0. -/
def wordOf0 (a : Nat) : Bool := decide (a < 0x10000000 ∧ a % 4 = 0)

/-- An upset strikes a register word in its staged half (R424). -/
def upsetWf (u : Upset) : Bool := decide (u.addr < 0x1000000 ∧ u.addr % 4 = 0 ∧ u.addr % 0x10000 < 0x8000)

/-- A transmit descriptor and its buffer agree (Table 15-3). -/
def txDescWf (d : TxDesc) : Bool := decide (d.len < 2 ^ 14 ∧ d.port < 128 ∧ d.cls < 8 ∧ d.data.length ≤ d.len)

/-- The command is well formed. -/
def Instr.wf (i : Instr) : Bool :=
  match i with
  | .deviceCycleBoundary _ upsets => upsets.all upsetWf
  | .applyDeadline addr => wordOf0 addr
  | .registerWrite _ addr data => inBars addr && decide (0 < data.width ∧ data.width ≤ 8)
  | .acknowledgeWrite _ addr _ => wordOf0 addr
  | .counterLowRead _ addr => wordOf0 addr
  | .aliasWrite _ addr _ => decide (addr < 0x20000000)
  | .tableEntryWrite _ addr _ => wordOf0 addr && decide (0x1000000 ≤ addr)
  | .frameHeaderRx _ _ len hdr => decide (hdr.length ≤ len ∧ min 64 len ≤ hdr.length)
  | .macControlFrameRx _ _ bytes => decide (18 ≤ bytes.length)
  | .share _ _ n _ => decide (n < 256)
  | .moduleXferDone _ _ bytes => decide (bytes.length ≤ 32)
  | .cableDiagDone _ pairs => decide (pairs.length = 4)
  | .flushDelete index => decide (index < 131136)
  | .supervisionFrameTx _ frame => decide (14 ≤ frame.length)
  | .ptpMessageRx _ _ bytes => decide (18 ≤ bytes.length)
  | .inputDeadline _ index _ => decide (index < 2 ^ 64)
  | .groupFrameRx _ poh _ => decide (poh.length = 48)
  | .leafRx _ _ bytes => decide (8 ≤ bytes.length)
  | .peerFound peer => decide (peer.role ≤ 6)
  | .heartbeatRx _ _ hb => decide (hb.role ≤ 7)
  | .twinNotificationRx _ hb => decide (hb.role ≤ 7)
  | .rxFrameDeliver _ _ bufs => decide (0 < bufs.length)
  | .txFrameFetch _ _ chain => decide (0 < chain.length) && chain.all txDescWf
  | .tableDmaDone hostData _ => decide (hostData.length ≤ 4194304)
  | .spiRead _ offset words => decide (offset.toNat % 4 = 0 ∧ 0 < words)
  | .registerRead _ addr width upsets => inBars addr && decide (0 < width ∧ width ≤ 8) && upsets.all upsetWf
  | .powerOn | .pwrgdAssert | .powerLoss | .vaux33Change .. | .resetNAssert | .resetExit ..
  | .glbResetCmdGo .. | .thermalShutdown | .thermalRecover | .bootRomDone .. | .bankCheckDone ..
  | .bankTryTimeout .. | .stageComplete .. | .stageLimitExpiry .. | .fatalCondition .. | .maintUnitDone ..
  | .msHoldWrite .. | .msHoldExpire .. | .irqVecRearm .. | .msixMessage .. | .msixControlWrite ..
  | .tableEpoch | .frameTailRx .. | .pauseExpiry .. | .pauseRefresh .. | .dequeueDecision ..
  | .allocationSlot | .pointerCacheRefill .. | .operationTagReturned | .dropRef .. | .free .. | .linkUp ..
  | .linkDown .. | .linkFault .. | .anComplete .. | .anRestart .. | .hpPortEnWrite .. | .fecSelWrite ..
  | .ltFail .. | .ltRestart .. | .modulePresencePoll .. | .modulePresenceChange .. | .moduleDebounceExpiry ..
  | .moduleIdentified .. | .moduleReady .. | .moduleStepTimeout .. | .moduleRemoved ..
  | .moduleMonitorPoll .. | .moduleXferGo .. | .cpAnRestart .. | .cpCfgWrite .. | .copperAnComplete ..
  | .lpiEntry .. | .lpiRx .. | .carrierSense .. | .collision .. | .backoffExpiry .. | .cableDiagRun ..
  | .learn | .relocationMove | .stashDrain | .deferralReplay | .agingTick .. | .ageDelete | .fdbFlush ..
  | .fdbLockRequest .. | .fdbLockGrant .. | .fdbLockExpire .. | .fdbHashSeedWrite .. | .fdbCmdLookup ..
  | .fdbCmdWrite .. | .fdbCmdDelete .. | .mdbEditSetPort .. | .mdbEditClearPort ..
  | .mdbEditClearReportSeen .. | .streamContextWrite .. | .strmCmdLookup .. | .strmCmdInsert ..
  | .strmCmdDelete .. | .ctxResetRecovery .. | .ctxUnblock .. | .ctxGenSeqZero .. | .ctxBalancesFull ..
  | .recoveryTimerExpiry .. | .latentTest .. | .nodeForget .. | .queueDescriptorWrite .. | .gateEntryWrite ..
  | .gateCommit .. | .gateCycleStart .. | .gateEntryExpiry .. | .qCmdZeroMaxima .. | .qCmdClearQueueDebt ..
  | .qCmdClearClassDebt .. | .voqRouteWrite .. | .voqXoffLapse .. | .servoUpdate .. | .srcTimeout ..
  | .tbCmdAdj .. | .tbCmdSet .. | .tbCmdDeliverSwOffset .. | .timeCapture | .refLost | .refRestored
  | .ptpContextWrite .. | .syncTx .. | .followUpTx .. | .relaySyncTx .. | .delayReqTx .. | .pdelayReqTx ..
  | .followUpTimeout .. | .tcRecordLapse .. | .ppsinEdge .. | .ppsinPop .. | .accJobStart ..
  | .accJobCommit .. | .accJobStop .. | .applySampleReached .. | .inputPacketRx .. | .outputPacketCompute ..
  | .jobStepRestart .. | .carriedCommandRx .. | .migrationCompare .. | .engineFault .. | .jobFaultRestart ..
  | .perfSelWrite .. | .lineCopyDone .. | .placeQAllocate .. | .journalFlashCopy | .mc2Resume
  | .laneFrameTx .. | .laneHeaderRx .. | .activeSetChange .. | .aisLeafRx .. | .helloTx | .helloRx ..
  | .joinRx .. | .assignRx .. | .flowRx .. | .flowRefresh | .orderRx .. | .orderReplyRx .. | .orderRetry ..
  | .upstreamLoss | .orphanTimeout | .pmSecond .. | .pmBinRoll .. | .izlHierRelease .. | .izlHierRejoin
  | .izlGrpCfgWrite .. | .peerSearchTimeout | .heartbeatMissed | .twinStateRx .. | .staleCopyDone ..
  | .twinLaneChange .. | .switchover | .twinCmdTakeover | .declareFail | .resync .. | .switchoverBoundary
  | .syncCopyDone | .wtrExpiry | .revertReady | .ringOpen .. | .ringAutoOpen .. | .ringReadyTimeout ..
  | .ringLinksUp .. | .ringOpenTimeout .. | .ringForceWrite .. | .endpointReset .. | .hostPortStateChange ..
  | .hostRingTailWrite .. | .hostRingEnable .. | .hostRingDisable .. | .rxTimeout .. | .txCompletion ..
  | .tableDmaGo .. | .watchdogExpiry .. | .mc0WatchdogExpiry .. | .coreRestartDone .. | .replVerify ..
  | .replArm .. | .replAbort .. | .replAck .. | .replSwitch | .replContainerToStandby .. | .stageClaim ..
  | .stageWrite .. | .stageWriteDone .. | .stageEnd .. | .stageVerify .. | .stageCommit .. | .stageAbort ..
  | .stagingLockTimeout | .activateHitless .. | .activateTwin .. | .activateRestart .. | .confirm ..
  | .raiseFloor .. | .programCustKey .. | .engineDrained .. | .drainTimeout .. | .coreUpdateDone ..
  | .trialHoldExpiry | .hierStage .. | .hierActivate .. | .hierAbort .. | .ballOwnerWrite ..
  | .ballDriveWrite .. | .spiStatus | .spiIdent | .traceFrameTx .. | .snapshotPeriod | .sillageEpoch ..
  | .recArm .. | .recStop .. | .recRelease .. | .recTrigger .. | .matchTrigger .. | .postExpiry
  | .checkpointTimer | .captureExportGo .. | .rerunEnter .. | .rerunStart .. | .holdupChargeFull
  | .wholeSecond .. => true

end Sys2Proof
end

