-- ==== Sys2Proof/Tests/Slice0.lean ====
section
/-! SUPPORT. Tests of single commands on small states, an ill-formed term for each check of well-formedness, and for each
statement a witness that its hypotheses can be met. -/
section
set_option Elab.async false
open Sys2Proof Sys2Proof.Machine

namespace Sys2Proof.Slice0

/-- Word `ix` of register `r` with value `v`, staged and in force. -/
def reg (r : RegRow) (ix : List Nat) (v : Word) (s : State) : State := putStaged (putWord s r ix v) r ix v

/-- A structure image of 48 Ethernet lanes at 10 Gb/s with every unit populated. -/
def image : Image :=
  { Image.none with
    lanes := List.replicate 48 ⟨2, 0xFF, 3⟩, bindH := List.replicate 48 0, bindC := List.replicate 32 1,
    bindG := List.replicate 16 0xF, injEc := List.replicate 8 0, injHost := [2, 3], pop := BitVec.allOnes 23,
    qpart := [⟨0, 1024, 1⟩, ⟨1024, 1024, 2⟩, ⟨2048, 98304, 3⟩, ⟨100352, 1024, 5⟩] }

/-- A device in service under that image, with its endpoint up. -/
def base : State :=
  reg Reg.glbReady [] 0xFFF { State.reset with
    power := { State.reset.power with vin := true, vaux := true, pwrgd := true, inReset := false, charged := true },
    image := image, host := { State.reset.host with d0 := true, outOfReset := true, busMaster := true } }

/-- The same with lanes 0 to 3 in trunk group 0. -/
def trunk : State :=
  { base with image := { image with lanes := List.replicate 4 ⟨0x10, 0, 1⟩ ++ List.replicate 44 ⟨2, 0xFF, 3⟩ } }

def bundle : Bundle :=
  { ver := 7, svn := 3, izl := (2, 1, 2), ctrl := (1, 1, 1), accOut := 1, ckpt := (1, 1),
    classVer := List.replicate 11 (1, 1), image := image, microcode := 1, microHitless := true }

/-- The device in reset with its rails in regulation, after `n` readiness stages. -/
def ready (n : Nat) : State := reg Reg.glbReady [] (BitVec.ofNat 32 (2 ^ n - 1)) base

def stampZero : Stamp := ⟨0, [0, 0, 0, 0], [0, 0, 0, 0]⟩

/-- A frame of front port `p` with bytes `b` that nothing has classified. -/
def frameOf (p : Nat) (b : List Byte) : Frame :=
  { inPort := p, pipe := 0, bytes := b, length := b.length, cut := false, whole := true, bad := false, mru := 1522, stamp := stampZero,
    vid := 1, fid := 0, tagged := false, pcp := 0, dei := false, cls := 0, stream := none, path := 0, cfg := 0,
      genSeq := none,
    metered := none, stormed := none, prot := false, steered := false, holdWhole := false, learn := none, head := none,
    cells := 0, copies := 0, fan := 0, tailWaits := false, ptp := false, dropped := false, mid := false, staging := none,
    source := none, here := true, nodeFull := false, spoiled := false }

/-- A good frame of 64 bytes. -/
def good : List Byte := List.replicate 60 0x22 ++ [92, 3, 69, 255]

/-- A pause frame of 65,535 quanta. -/
def pauseIn : List Byte :=
  (List.replicate 12 0 ++ ([0x88, 8, 0, 1, 0xFF, 0xFF, 0, 0, 0, 0, 0, 0] ++
    (List.replicate 12 0 ++ (List.replicate 12 0 ++ List.replicate 12 0)))) ++ [89, 251, 91, 204]

def copyOf (f : Nat) : Copy :=
  { frame := f, enqueuedAt := 0, tag := 0, ct := false, mirror := false, trunc := 0, punt := none, pair := none,
    passLane := none, stream := none }

/-- A copy of frame 1 under egress tag `t`. -/
def tagged1 (t : BitVec 8) : Copy := { copyOf 1 with tag := t }

def bufOf (owner : BitVec 8) : Buf :=
  { owner := owner, shared := false, count := 1, last := 0, holders := [], deferred := false, closed := true,
    returning := false, cells := [5], prot := false, fromReserve := 0, requester := 0, cls := 0 }

/-- The device with buffer `b` at index 5 of pool `n`. -/
def withBuf (n : Nat) (b : Buf) : State := putBuf base n 5 b

/-- The device at the end of a slot in which operations `l` were given. -/
def slotOps (s : State) (l : List BufOp) : State := { s with bpm := { s.bpm with ops := l } }

/-- The pointer of index 5 in pool `n`. -/
def ptr5 (n : Nat) : Word := BitVec.ofNat 32 (poolBase n + 5 * bufSize n)

def sendingOf (f : Nat) : Sending :=
  { frame := f, copy := copyOf f, queue := 384, cls := 0, startedAt := 0, stamp := stampZero, cut := false }

/-- A master's lanes hold a module with passive copper cable: lanes 8 to 11, of master 2. -/
def copper8 : State := putWord base Reg.hpModStat [8] 0x104

/-- Copper port 0 up at half duplex with a frame in transmission. -/
def half : State :=
  let s := putFrame (putWord base Reg.cpLinkStat [0] 1) 1 (frameOf 3 good)
  { s with sched := { s.sched with sending := [(48, sendingOf 1)] } }

/-- A request to learn station 5 of FID 1 on port `p`, its key, and its slot in bank 0. -/
def learn5 (p : Nat) : LearnReq := ⟨1, 5, p, false⟩

def key5 : Nat := 2 ^ 48 + 5

def slot5 : Nat := 25424

/-- A dynamic entry of that station on port `p` with time stamp `ts`. -/
def sta (p ts : Nat) : BitVec 128 := setFld (freshEntry base key5 p) 111 96 ts

/-- The device with `e` at index `i` of the FDB. -/
def stored (i : Nat) (e : BitVec 128) : State := { base with fdb := { base.fdb with entries := [(i, e)] } }

/-- FDB_CMD_KEY0 and KEY1 name station 5 of FID 1. -/
def keyed (s : State) : State := putWord (putWord s Reg.fdbCmdKey0 [] 5) Reg.fdbCmdKey1 [] 0x10000

/-- A SID entry for MAC destination 5 in VLAN 1 and stream 9, and its slot in bank 0. -/
def sidE : BitVec 512 := BitVec.ofNat 512 (2 ^ 511 + 9 * 2 ^ 476 + 2 ^ 464 + 5 * 2 ^ 416)

def sid5 : Nat := 8596

/-- STRM_CMD_DATA holds that entry. -/
def sidIn (s : State) : State := (List.range 16).foldl (fun s w => putWord s Reg.strmCmdData [w] (BitVec.ofNat 32 (sidE.toNat / 2 ^ (32 * w)))) s

/-- The SID table holds it at index `i`. -/
def sidHeld (i : Nat) : State := sidIn { base with strm := { base.strm with sid := [(i, sidE)] } }

/-- Time base 3 in state `v`. -/
def tb3 (v : Nat) : State := putWord base Reg.timeTbStat [3] (BitVec.ofNat 32 (v * 2 ^ 30))

/-- Copper port 31 up, with PTP context 3 configured as `cfg` and in state `x`. -/
def ptp79 (cfg : Nat) (x : PtpState) : State :=
  let s := putWord base Reg.cpLinkStat [31] 1
  { s with time := { s.time with ctx := [(319, BitVec.ofNat 256 cfg)], ptp := [(319, x)] } }

/-- The descriptors of job 1023: TB 0, 48 kHz, engine 63, a link offset of 1 ms, and one subscription, input channel and
output stream, each the last of its table. -/
def jobX : BitVec 512 :=
  BitVec.ofNat 512 (2 ^ 511 + 63 * 2 ^ 500 + 1000 * 2 ^ 480 + 4095 * 2 ^ 468 + 2 ^ 461 + 16383 * 2 ^ 447 + 2 ^ 438 +
    2047 * 2 ^ 427 + 2 ^ 421)

def descX : AccDesc :=
  { AccDesc.none with
    jobs := [(1023, jobX)], subs := [(4095, BitVec.ofNat 512 (2 ^ 511 + 9 * 2 ^ 495))],
    inputs := [(16383, BitVec.ofNat 128 (2 ^ 127 + 4095 * 2 ^ 115 + 2 ^ 101))], outs := [(2047,
      BitVec.ofNat 1024 (2 ^ 1023))] }

/-- Job 1023 in force and in state `v` on engine 63. -/
def running (v : Nat) : State :=
  putJob { base with acc := { base.acc with inForce := descX } } 1023 { Job.stopped with state := v, engine := 63 }

/-- Job 1023 without descriptors in state `v`, with `cs` waiting, on a unit in twin role `r`. -/
def bare (r v : Nat) (cs : List JobCmd) : State :=
  putJob (putWord base Reg.twinStat [] (BitVec.ofNat 32 (r * 2 ^ 29))) 1023 { Job.stopped with state := v, pending := cs }

/-- Six L16 samples of one channel in RTP with timestamp 0. -/
def rtpIn : List Byte :=
  List.replicate 12 0x22 ++ [8, 0, 0x45, 0, 0, 52, 0, 0, 0, 0, 9, 17, 0, 0, 10, 0, 0, 1, 10, 0, 0, 2, 0, 1, 0, 2, 0, 32, 0,
    0] ++
    [0x80, 96, 0, 1, 0, 0, 0, 0, 0, 0, 0, 7] ++ List.replicate 12 0x80

/-- Trunk group 0 of lanes 0 to 3 with IZL_GRP_CFG `cfg` and IZL_GRP_STAT `stat`. -/
def grp (cfg stat : Word) : State := putWord (putWord trunk Reg.izlGrpCfg [0] cfg) Reg.izlGrpStat [0] stat

/-- The same with IZL_LANE_STAT `v` of lane `n`. -/
def lane (n : Nat) (v stat : Word) : State := putWord (grp 0x80000000 stat) Reg.izlLaneStat [n] v

/-- An Izlen-2 header of logical lane 3 with frame count `fc` and good CRC. -/
def hdr3 (fc : Nat) : BitVec 128 :=
  let x := fc * 2 ^ 96 + 3 * 2 ^ 92 + 2 * 2 ^ 90 + 0x5A * 2 ^ 76
  BitVec.ofNat 128 (x * 65536 + izlCrc (toBytes 14 x))

/-- Path overhead whose CRC is good: transmit sets 0xF and 0x7, a change at 9, RX_OK 3. -/
def pohIn : List Byte :=
  [0, 0, 0, 0, 0, 15, 0, 7, 0, 9, 255, 255, 255, 128, 0, 3] ++ List.replicate 30 0 ++ [193, 230]

/-- A hierarchy group up on lanes 0 to 3, on a device with ROLE `r`, STATE `st`, UPSTREAM `up` and number `dev`. -/
def hier (r st up dev : Nat) : State :=
  putWord (putWord (grp 0xA0000000 0xC0000000) Reg.izlHierCfg [] (BitVec.ofNat 32 r)) Reg.izlHierStat []
    (BitVec.ofNat 32 (st * 2 ^ 29 + up * 2 ^ 16 + dev))

/-- A control leaf's bytes: type, source, destination and hops, then `l`, filled to 100. -/
def ctl (ty src dst : Byte) (l : List Byte) : List Byte := [ty, src, dst, 8] ++ l ++ List.replicate (96 - l.length) 0

/-- The same device paired with a twin of UNIT_ID 0. -/
def pairedZero (s : State) : State :=
  { putWord s Reg.twinStat [] 0x08000000 with twin := { s.twin with peer := some ⟨0, 1, true, 0, 0, true, true⟩ } }

/-- An order waiting on device 5, and its reply with RESULT `r`. -/
def wait5 (tries : Nat) : OrderWait := { device := 5, seq := 7, body := [], tries := tries, sentAt := some 0 }

/-- Copper port 31 carries the parent path of TB 3. -/
def onPath31 : State := putWord (putWord base Reg.timeTbCfg [3] 0x104F0000) Reg.timeTbStat [3] 0x80000000

/-- 1,000 s later. -/
def later (s : State) : State := { s with time := { s.time with dt := 800000000000 } }

/-- The device after a HELLO on group 0 from device 5, whose windows hold no version. -/
def heard5 (s : State) : State :=
  putIzlGroup s 0 { izlGroup s 0 with neighbour := some ⟨9, 5, 2, 1, 0, [(0, 1, 0), (0, 1, 0)], 0⟩ }

def reply5 (op r : Byte) : List Byte := ctl 5 5 0 [0, 0, 0, 7, op, r]

/-- A unit with twin operation enabled, TWIN_STAT `stat`, and a peer of UNIT_ID 9. -/
def twinned (stat : Word) : State :=
  let s := putWord (reg Reg.twinCfg [] 0x80060000 base) Reg.twinStat [] stat
  { s with twin := { s.twin with peer := some ⟨9, 1, false, 0, 0, true, true⟩ } }

/-- A peer in role `r` whose TWIN_ID is `id` and whose CHIP_REV is `rev`. -/
def peerOf (r rev : Nat) (id : Bool) : Peer := ⟨9, r, id, rev, base.image.lineage, true, true⟩

/-- A heartbeat of that peer. -/
def beat (r : Nat) (fail take : Bool) : Heartbeat := ⟨r, fail, take, 5, 9, 9⟩

def missedBeats (n : Nat) (s : State) : State := { s with twin := { s.twin with missed := n, heard := false } }

/-- Ring pair 3 of four enabled pairs in STATE `v`, with the ports of its lanes enabled. -/
def ring3 (v : Nat) : State :=
  { putWord (putWord (putWord base Reg.hpCfg [46] 1) Reg.hpCfg [47] 1) Reg.twinRingStat [3] (BitVec.ofNat 32 (v * 2 ^ 29)) with
    image := { image with ring := List.replicate 4 1 } }

/-- Both rings `r` = 63, in the window of their pipeline, with CFG `c`, TAIL `n` and STATE `m`. -/
def ring63 (tx : Bool) (c : Word) (n m : Nat) : State :=
  let s := reg (ringCfgReg tx) (ringIx base 63) c base
  putWord (reg (ringTailReg tx) (ringIx base 63) (BitVec.ofNat 32 n) s) (ringStatReg tx) (ringIx base 63) (BitVec.ofNat 32 (m * 2 ^ 30))

/-- A received frame of 600 bytes that waits on a ring. -/
def rxWait : RxWait := ⟨List.replicate 600 0x22, 7, 7, 79, 31, some 9, 1, stampZero, 0, 5, false⟩

/-- A transmit descriptor of a buffer of 64 bytes. -/
def txDescOf (first last direct : Bool) (port : Nat) : TxDesc := ⟨64, first, last, direct, true, port, 7, good, false⟩

/-- A table DMA of the last FDB entry, its buffer granted. -/
def dmaLast (toTable : Bool) : TableDma := ⟨0x21FFFF0, 16, toTable, 0x1000, some 5, []⟩

/-- The device with IMG_SI_REPL_STAT in state `v` and `x` as the container under replacement. -/
def repl (v : Nat) (x : Option Image) : State :=
  let s := putWord base Reg.imgSiReplStat [] (BitVec.ofNat 32 v)
  { s with img := { s.img with repl := ⟨x, [], some 0⟩ } }

/-- The lock of a bundle held by `h` with IMG_STAGE_STAT `v`. -/
def lock (h : Option StageSrc) (v : Word) : State :=
  let s := putWord base Reg.imgStageStat [] v
  { s with img := { s.img with staging := { Staging.free with holder := h } } }

/-- A bundle committed to bank 1 for route 1, on `s`. -/
def committed (s : State) : State :=
  let s := putWord s Reg.imgStageStat [] 0x08000000
  { s with img := { s.img with committed := some bundle, banks := [⟨2, [], 1⟩, ⟨3, [], 7⟩] } }

/-- A hitless activation with `es` engines and `cs` cores to go. -/
def activating (es cs : List Nat) : State := { base with img := { base.img with activation := some ⟨0, es, cs, [], [], false, 0⟩ } }

/-- Bank 0 runs, in state `v`, with `bundle`. -/
def runs0 (v : Nat) : State :=
  { base with img := { base.img with banks := [⟨v, [], 7⟩, Bank.blank], running := some 0, bundle := some bundle } }

/-- The recorder in state `v`. -/
def recIn (v : Nat) : State := putWord base Reg.obsRecStat [] (BitVec.ofNat 32 (v * 2 ^ 29))

/-- A record of the trace. -/
def recA : Rec := ⟨3, 0, 0, 0, [1, 2, 3]⟩

/-- An export of `len` bytes at offset 0, with the recorder in state `v`. -/
def exportOf (v : Nat) (len : Word) : State := reg Reg.obsExpLen [] len (recIn v)

/-- A checkpoint of epoch 5 without residents. -/
def ckptX : Checkpoint :=
  ⟨0, 5, 4000, 1, 1, true, base.regs, base.fdb, base.strm, base.sched, base.bpm, base.acc, base.time.tbs, [(1, 4000)], [],
    0, []⟩

/-- An imported capture of that checkpoint. -/
def rerunX : Rerun := ⟨0, 0, 0, 7, 9, 0, 0, [], [ckptX], [], 0⟩

/-- The device with a capture of one CKPT record brought in, on the bundle that made it. -/
def broughtIn : State :=
  { base with
    img := { base.img with bundle := some bundle }
    obs := { base.obs with importBytes :=
      [(0, 0x48), (1, 0x5A), (2, 0x53), (3, 0x52), (27, 7), (43, 32), (45, 1), (512, 9), (513, 1), (515, 16)] } }

/-! ### Lemmas of the witnesses -/

theorem not_ball (a : Nat) (h : (rowAt a).map (fun x => x.1.base) ≠ some Reg.maintBall.base) :
    ∀ ix, rowAt a ≠ some (Reg.maintBall, ix) :=
  fun _ e => h (congrArg (Option.map fun x => x.1.base) e)

theorem not_low (a : Nat) (h : (ctrAt a).isNone = true) : ∀ g ix i, ctrAt a ≠ some (g, ix, i, .low) := by
  intro g ix i e
  rw [e] at h
  cases h


theorem get_unlisted {α : Type} (d : α) : ∀ (l : Sparse α) (k : Nat), k ∉ keys l → get d l k = d
  | [], _, _ => rfl
  | (j, v) :: l, k, h => by
    have hk : k ≠ j := fun e => h (by simp [keys, e])
    have hl : k ∉ keys l := fun e => h (by simp only [keys, List.map_cons, List.mem_cons]; exact .inr e)
    rw [Sys2Proof.Machine.get, if_neg hk]
    exact get_unlisted d l k hl

theorem no_drop (s : State) (p : Nat) (h : ∀ q ∈ keys s.sched.queues, headDrop s p q = none) : ∀ q,
  headDrop s p q = none := by
  intro q
  by_cases e : q ∈ keys s.sched.queues
  · exact h q e
  · simp [headDrop, queue, get_unlisted _ _ _ e, Queue.empty]

theorem crc_bytes {r : BitVec 32} {a b : List Byte} :
    crc 0x04C11DB7#32 r ((a ++ b).flatMap bitsLsb) = crc 0x04C11DB7#32 (crc 0x04C11DB7#32 r (a.flatMap bitsLsb)) (b.flatMap bitsLsb) := by
  simp [crc, List.flatMap_append, List.foldl_append]

theorem tail_row {b f : List Byte} {n : Nat} (hf : fcsBytes b = f) (h : f.length = 4) (hn : 60 ≤ b.length) (hm : b.length + 4 ≤ n) :
    tailRow (b ++ f) n false = none := by
  have hu : unclosed (b ++ f) = b := by simp [unclosed, h]
  have h63 : ¬ b.length + 4 ≤ 63 := by omega
  have hn' : ¬ n < b.length + 4 := by omega
  simp [tailRow, hu, hf, h, h63, hn']


theorem fcs_good : fcsBytes (List.replicate 12 (0x22 : Byte) ++ (List.replicate 12 (0x22 : Byte) ++ (List.replicate 12 (0x22 : Byte) ++ (List.replicate 12 (0x22 : Byte) ++ (List.replicate 12 (0x22 : Byte)))))) = [92,
  3, 69, 255] := by
  simp only [fcsBytes]
  rw [crc_bytes,
    show crc 0x04C11DB7#32 (BitVec.allOnes 32) ((List.replicate 12 (0x22 : Byte)).flatMap bitsLsb) = 2284507672#32 from by decide +kernel,
    crc_bytes,
    show crc 0x04C11DB7#32 (2284507672#32) ((List.replicate 12 (0x22 : Byte)).flatMap bitsLsb) = 1367252813#32 from by decide +kernel,
    crc_bytes,
    show crc 0x04C11DB7#32 (1367252813#32) ((List.replicate 12 (0x22 : Byte)).flatMap bitsLsb) = 3174789132#32 from by decide +kernel,
    crc_bytes,
    show crc 0x04C11DB7#32 (3174789132#32) ((List.replicate 12 (0x22 : Byte)).flatMap bitsLsb) = 1778235842#32 from by decide +kernel,
    show crc 0x04C11DB7#32 (1778235842#32) ((List.replicate 12 (0x22 : Byte)).flatMap bitsLsb) = 3309264128#32 from by decide +kernel]
  decide +kernel

theorem fcs_pauseIn : fcsBytes (List.replicate 12 (0 : Byte) ++ ([0x88, 8, 0, 1, 0xFF, 0xFF, 0, 0, 0, 0, 0,
  (0 : Byte)] ++ (List.replicate 12 (0 : Byte) ++ (List.replicate 12 (0 : Byte) ++ (List.replicate 12 (0 : Byte)))))) = [89,
  251, 91, 204] := by
  simp only [fcsBytes]
  rw [crc_bytes,
    show crc 0x04C11DB7#32 (BitVec.allOnes 32) ((List.replicate 12 (0 : Byte)).flatMap bitsLsb) = 161240097#32 from by decide +kernel,
    crc_bytes,
    show crc 0x04C11DB7#32 (161240097#32) (([0x88, 8, 0, 1, 0xFF, 0xFF, 0, 0, 0, 0, 0,
      (0 : Byte)]).flatMap bitsLsb) = 2292780228#32 from by decide +kernel,
    crc_bytes,
    show crc 0x04C11DB7#32 (2292780228#32) ((List.replicate 12 (0 : Byte)).flatMap bitsLsb) = 3674426935#32 from by decide +kernel,
    crc_bytes,
    show crc 0x04C11DB7#32 (3674426935#32) ((List.replicate 12 (0 : Byte)).flatMap bitsLsb) = 324639813#32 from by decide +kernel,
    show crc 0x04C11DB7#32 (324639813#32) ((List.replicate 12 (0 : Byte)).flatMap bitsLsb) = 1696605644#32 from by decide +kernel]
  decide +kernel

theorem tail_good : tailRow good 1522 false = none :=
  tail_row (b := List.replicate 60 0x22) fcs_good rfl (by simp) (by simp)

theorem tail_pauseIn : tailRow pauseIn 1522 false = none :=
  tail_row (b := List.replicate 12 0 ++ ([0x88, 8, 0, 1, 0xFF, 0xFF, 0, 0, 0, 0, 0,
    0] ++ (List.replicate 12 0 ++ (List.replicate 12 0 ++ List.replicate 12 0)))) fcs_pauseIn rfl (by simp) (by simp)


theorem no_free (s : State) (h : s.image.qpart = [⟨768, 261376, 3⟩]) :
    ∀ n a, 768 ≤ a → a + n ≤ 262144 → lowestFree s 5 n a = none
  | 0, _, _, _ => rfl
  | n + 1, a, h1, h2 => by
    have h3 : ¬ a < 768 := by omega
    have h4 : a < 768 + 261376 := by omega
    simp [lowestFree, queueUse, h, h1, h3, h4, no_free s h n (a + 1) (by omega) (by omega)]


theorem known_img (s : State) (i : Img) :
    knownWindows { s with img := i } = (ownDevice s, ownWindows { s with img := i }) :: (knownWindows s).tail := rfl

theorem no_conflict (i : Img) (x : Bundle) : windowConflict { hier 1 3 15 0 with img := i } 0 x = none := by
  have h : (knownWindows (hier 1 3 15 0)).tail = [] := by decide +kernel
  have d : ownDevice (hier 1 3 15 0) = 0 := by decide +kernel
  simp [windowConflict, known_img, h, d]

theorem conflict5 (i : Img) (x : Bundle) : windowConflict { heard5 (hier 1 3 15 0) with img := i } 0 x = some 5 := by
  have h : (knownWindows (heard5 (hier 1 3 15 0))).tail = [(5, [(0, 1, 0), (0, 1, 0)])] := by decide +kernel
  have d : ownDevice (heard5 (hier 1 3 15 0)) = 0 := by decide +kernel
  have w : windowsFit x.ctrl (0, 1, 0) = false := by simp [windowsFit]; omega
  simp [windowConflict, known_img, h, d, w]


/-! What the image store holds changes none of these. -/

theorem serves_img (s : State) (i : Img) (a : Nat) : serves { s with img := i } a = serves s a := by
  have w : windowsOpen { s with img := i } = windowsOpen s := rfl
  have p : ∀ n, popBit { s with img := i } n = popBit s n := fun _ => rfl
  have h : ∀ n, isHPort { s with img := i } n = isHPort s n := fun _ => rfl
  have c : ∀ n, isCPort { s with img := i } n = isCPort s n := fun _ => rfl
  have k : ∀ n, isPipe { s with img := i } n = isPipe s n := fun _ => rfl
  have o : ∀ n, pipeOf { s with img := i } n = pipeOf s n := fun _ => rfl
  simp only [serves, pipeServes, ringPipe, w, p, h, c, k, o]

theorem reaches_img {s : State} (i : Img) {req : Requester} {a : Nat} (h : Reaches s req a) : Reaches { s with img := i } req a :=
  ⟨h.1, h.2.1, (serves_img s i a).trans h.2.2.1, h.2.2.2⟩

theorem rd_img {s : State} (i : Img) {r : RegRow} {ix : List Nat} {m n v : Nat} (h : rd s r ix m n = v) :
    rd { s with img := i } r ix m n = v := h

theorem rdBit_img {s : State} (i : Img) {r : RegRow} {ix : List Nat} {n : Nat} {v : Bool} (h : rdBit s r ix n = v) :
    rdBit { s with img := i } r ix n = v := h

theorem staged_img {s : State} (i : Img) {r : RegRow} {ix : List Nat} {m n v : Nat} (h : fld (stagedWord s r ix) m n = v) :
    fld (stagedWord { s with img := i } r ix) m n = v := h

theorem hierRole_img {s : State} (i : Img) {v : Nat} (h : hierRole s = v) : hierRole { s with img := i } = v := h

theorem replState_img {s : State} (i : Img) {v : Nat} (h : replState s = v) : replState { s with img := i } = v := h

theorem coreDown_img {s : State} (i : Img) {k : Nat} {v : Bool} (h : coreDown s k = v) : coreDown { s with img := i } k = v := h

theorem offline_img {s : State} (i : Img) {v : Bool} (h : offline s = v) : offline { s with img := i } = v := h

theorem recovering_img {s : State} (i : Img) {v : Bool} (h : recovering s = v) : recovering { s with img := i } = v := h

theorem target_staging {s : State} (z : Staging) {b : Option Nat} (h : targetBank s = b) :
    targetBank { s with img := { s.img with staging := z } } = b := h

/-- The same image has every queue free. -/
theorem free_same (s : State) (v : Word) : queuesFree s { s.image with ver := v } = true := by
  simp only [queuesFree, List.all_eq_true]
  intro q _
  have h : queueUse s q = queueUse { s with image := { s.image with ver := v } } q := rfl
  simp [h]

theorem not_free (s : State) (x : Image) (q : Nat) (hq : q < 262144)
    (h : (queueUse s q == queueUse { s with image := x } q || queueIdle s q) = false) : queuesFree s x = false :=
  List.all_eq_false.mpr ⟨q, List.mem_range.mpr hq, by simp [h]⟩


theorem enter_ok (h : (readCapture broughtIn).ckpts ≠ []) : enterResult broughtIn (readCapture broughtIn) = 0 := by
  unfold enterResult
  iterate 6 rw [if_neg (by decide +kernel)]
  exact if_neg fun e => e.elim (by decide +kernel) h

/-! ### Ill-formed commands are refused, one for each check of `Instr.wf` -/

def upsetAt (a : Nat) : Upset := ⟨a, false, 0, 1, false⟩

theorem test_wf_upset_range : Instr.wf (.deviceCycleBoundary 0 [upsetAt 0x1000000]) = false := by decide
theorem test_wf_upset_aligned : Instr.wf (.deviceCycleBoundary 0 [upsetAt 2]) = false := by decide
theorem test_wf_upset_staged : Instr.wf (.deviceCycleBoundary 0 [upsetAt 0x8000]) = false := by decide
theorem test_wf_deadline : Instr.wf (.applyDeadline 0x10000000) = false := by decide
theorem test_wf_write_hole : Instr.wf (.registerWrite .host 0x1FFFFFFC ⟨4, 0⟩) = false := by decide
theorem test_wf_write_top : Instr.wf (.registerWrite .host 0x44000000 ⟨4, 0⟩) = false := by decide
theorem test_wf_write_width : Instr.wf (.registerWrite .host 0 ⟨9, 0⟩) = false := by decide
theorem test_wf_acknowledge : Instr.wf (.acknowledgeWrite .host 2 0) = false := by decide
theorem test_wf_counter_read : Instr.wf (.counterLowRead .host 1) = false := by decide
theorem test_wf_alias : Instr.wf (.aliasWrite .host 0x20000000 0) = false := by decide
theorem test_wf_table_aligned : Instr.wf (.tableEntryWrite .host 0x1000002 0) = false := by decide
theorem test_wf_table_range : Instr.wf (.tableEntryWrite .host 0xFFFFFC 0) = false := by decide
theorem test_wf_header_short : Instr.wf (.frameHeaderRx 0 0 64 (List.replicate 63 0)) = false := by decide
theorem test_wf_header_long : Instr.wf (.frameHeaderRx 0 0 20 (List.replicate 21 0)) = false := by decide
theorem test_wf_mac_control : Instr.wf (.macControlFrameRx 0 0 (List.replicate 17 0)) = false := by decide
theorem test_wf_share : Instr.wf (.share 0 0 256 0) = false := by decide
theorem test_wf_module_bytes : Instr.wf (.moduleXferDone 0 0 (List.replicate 33 0)) = false := by decide
theorem test_wf_cable_pairs : Instr.wf (.cableDiagDone 0 []) = false := by decide
theorem test_wf_flush_index : Instr.wf (.flushDelete 131136) = false := by decide +kernel
theorem test_wf_supervision : Instr.wf (.supervisionFrameTx 0 (List.replicate 13 0)) = false := by decide
theorem test_wf_ptp : Instr.wf (.ptpMessageRx 0 0 (List.replicate 17 0)) = false := by decide
theorem test_wf_packet_index : Instr.wf (.inputDeadline 0 (2 ^ 64) 0) = false := by decide +kernel
theorem test_wf_path_overhead : Instr.wf (.groupFrameRx 0 (List.replicate 47 0) 0) = false := by decide
theorem test_wf_leaf : Instr.wf (.leafRx 0 0 (List.replicate 7 0)) = false := by decide
theorem test_wf_peer_role : Instr.wf (.peerFound (peerOf 7 0 false)) = false := by decide +kernel
theorem test_wf_heartbeat_role : Instr.wf (.heartbeatRx 0 false (beat 8 false false)) = false := by decide
theorem test_wf_notification_role : Instr.wf (.twinNotificationRx 0 (beat 8 false false)) = false := by decide
theorem test_wf_no_buffers : Instr.wf (.rxFrameDeliver 0 0 []) = false := by decide
theorem test_wf_no_chain : Instr.wf (.txFrameFetch 0 0 []) = false := by decide
theorem test_wf_descriptor : Instr.wf (.txFrameFetch 0 0 [⟨1, true, true, false, false, 0, 8, [],
  false⟩]) = false := by decide
theorem test_wf_buffer : Instr.wf (.txFrameFetch 0 0 [⟨1, true, true, false, false, 0, 0, [1, 2],
  false⟩]) = false := by decide
theorem test_wf_spi_aligned : Instr.wf (.spiRead 0 2 1) = false := by decide
theorem test_wf_spi_words : Instr.wf (.spiRead 0 0 0) = false := by decide
theorem test_wf_read_width : Instr.wf (.registerRead .host 0 9 []) = false := by decide
theorem test_wf_read_hole : Instr.wf (.registerRead .host 0x10000000 4 []) = false := by decide
theorem test_wf_read_upset : Instr.wf (.registerRead .host 0 4 [upsetAt 1]) = false := by decide

/-- More host data than table DMA moves in one transfer. -/
theorem test_wf_dma_data (l : List Word) (h : l.length = 4194305) : Instr.wf (.tableDmaDone l none) = false := by
  simp [Instr.wf, h]

/-- A well-formed command is accepted. -/
theorem test_wf_accepts : Instr.wf (.registerWrite .host 0x43FFFFFC ⟨4, 0⟩) = true := by decide

/-! ### No word spells a command, since no row of the table gives bits -/

theorem test_no_word_decodes : decodeTableWord 32 0xFFFFFFFF = none := rfl

theorem test_fetch_word_changes_nothing : State.reset.withFetchWord 32 1 = State.reset := rfl

/-! ### Checks: the published check values of each CRC over the digits 1 to 9 -/

def digits : List Byte := [0x31, 0x32, 0x33, 0x34, 0x35, 0x36, 0x37, 0x38, 0x39]

/-- CRC-32 0xCBF43926, least significant byte first (R4). -/
theorem test_fcs : fcsBytes digits = [0x26, 0x39, 0xF4, 0xCB] := by decide +kernel

/-- CRC-16 0x29B1 (R340). -/
theorem test_izl_crc : izlCrc digits = 0x29B1 := by decide +kernel

/-- CRC-64 0x6C40DF5F0B497347 (R515). -/
theorem test_crc64 : crc64 digits = 0x6C40DF5F0B497347 := by decide +kernel

/-- CRC-32C 0xE3069283, which complements the register (R126). -/
theorem test_crc32c : ~~~ crc32c (BitVec.allOnes 32) digits = 0xE3069283 := by decide +kernel

/-- A filler leaf header: two bytes of zero and their CRC-16, 0x1D0F (R345). -/
theorem test_filler_leaf : leafHeader 0 0 = [0, 0, 0x1D, 0x0F] := by decide +kernel

/-! ### One step each -/

/-- The state after one step with `c` in front. -/
def after (s : State) (c : Instr) : State :=
  match step { s with pending := [c] } with
  | .next t => t
  | .fault _ => s
  | .refused _ => s

/-- Power: the first rail, then every rail completes stage 0 (R461). -/
theorem test_power_on : (after State.reset .powerOn).power.vin = true := by decide +kernel
theorem test_rails_complete_stage : stageDone (after (after State.reset .powerOn) .pwrgdAssert) 0 = true := by decide +kernel

/-- An immediate field is in force at once (R413), and the queue is empty after its one command. -/
theorem test_scratch_write :
    word (after base (.registerWrite .host (Reg.glbScratch.addr []) ⟨4,
      0xDEADBEEF⟩)) Reg.glbScratch [] = 0xDEADBEEF := by decide +kernel
theorem test_queue_drains : (after base .tableEpoch).pending = [] := by decide +kernel

/-- An MS field is staged, and does not act before its apply point (R415). -/
theorem test_ms_write_waits :
    let t := after base (.registerWrite .host (Reg.obsTraceCfg.addr []) ⟨4, 0x80000000⟩)
    stagedWord t Reg.obsTraceCfg [] = 0x80000000 ∧ word t Reg.obsTraceCfg [] = 0 := by decide +kernel

/-- A link that comes up stands in HP_LINK_STAT (R62). -/
theorem test_link_up : linkUp (after (reg Reg.hpCfg [0] 1 base) (.linkUp 0)) 0 = true := by decide +kernel

/-- Trunk: the first good header takes a lane from HUNT to PRESYNC (R348). -/
theorem test_lane_presync : laneSync (after (grp 0x80000000 0) (.laneHeaderRx 3 0 (hdr3 7) 0)) 3 = 1 := by decide +kernel
theorem test_lane_bad_header : laneSync (after (grp 0x80000000 0) (.laneHeaderRx 3 0 (hdr3 7 ^^^ 1) 0)) 3 = 0 := by decide +kernel

/-- Hierarchy: a worker takes upstream 15 when its upstream falls silent (R369). -/
theorem test_upstream_lost : upstream (after (hier 2 3 0 127) .upstreamLoss) = 15 := by decide +kernel

/-- Twin: the third cycle without a heartbeat makes a STANDBY unit ACTIVE, and the second does not (R389). -/
theorem test_third_miss : role (after (later (missedBeats 2 (twinned 0x48000000))) .heartbeatMissed) = 1 := by decide +kernel
theorem test_second_miss : role (after (later (missedBeats 1 (twinned 0x48000000))) .heartbeatMissed) = 2 := by decide +kernel

/-- Ring bypass: OPEN on a pair that is READY opens its switches (R400). -/
theorem test_ring_open : ringState (after (ring3 0) (.ringOpen 3)) 3 = 1 := by decide +kernel

/-- Host: a tail beyond the ring's size has no effect (R443). -/
theorem test_tail_too_far :
    rd (after base (.hostRingTailWrite .host true 63 257)) Reg.hostTxTail (ringIx base 63) 15 0 = 0 := by decide +kernel

/-- Recorder: POST ends in FROZEN (Table 19-5). -/
theorem test_post_freezes : recState (after (later (recIn 2)) .postExpiry) = 3 := by decide +kernel

/-- Maintenance: a free ball is claimed by the host as owner 1 (R502). -/
theorem test_ball_claim : ballOwner (after base (.ballOwnerWrite .host 63 1)) 63 = 1 := by decide +kernel

/-! ### Examples of the manual -/

/-- The map of balls gives the counts of chapter 20 (R528). -/
theorem test_ball_counts : (ballMap.filter (· == .gnd)).length = 1239 ∧ (ballMap.filter (· == .vin12)).length = 96 ∧
    (ballMap.filter (· == .vaux33)).length = 4 := by decide +kernel

/-- Example 20-1: the pairs of H41 and of C13. -/
theorem test_ball_example : ballName 39 20 = "AY20" ∧ ballSignal 39 20 = .hrx 41 true ∧ ballSignal 37 21 = .htx 41 false ∧
    ballName 27 3 = "AG3" ∧ ballSignal 27 3 = .cmdi 13 0 true ∧ ballSignal 30 4 = .cmdi 13 3 false := by decide +kernel

/-- The stage rack of Example 20-2. -/
def rack : State :=
  let lanes := List.replicate 4 ⟨3, 0xFF, 7⟩ ++ List.replicate 44 ⟨0, 0xFF, 1⟩
  let s := { base with image := { base.image with pop := 0xC4C1, lanes := lanes } }
  putWord ((List.range 16).foldl (fun s c => putWord s Reg.cpLinkStat [c] 5) s) Reg.pipeStat [0] 1

/-- Example 20-2: 27.4 W, of which 2.0 W are the load of the engines. -/
theorem test_power_rack : typicalPower rack = 2540 := by decide +kernel

/-- The descriptors of job J40 in Example 10-1. -/
def tower : AccDesc :=
  let route (k slot taps : Nat) : Nat × BitVec 128 := (k,
    BitVec.ofNat 128 (2 ^ 127 + 300 * 2 ^ 116 + slot * 2 ^ 109 + taps * 2 ^ 104))
  let input (k slot base : Nat) : Nat × BitVec 128 :=
    (k, BitVec.ofNat 128 (2 ^ 127 + 600 * 2 ^ 115 + slot * 2 ^ 108 + 25 * 2 ^ 101 + base * 2 ^ 80))
  { AccDesc.none with
    jobs := [(40,
      BitVec.ofNat 512 (2 ^ 511 + 600 * 2 ^ 468 + 2 ^ 461 + 2000 * 2 ^ 447 + 2 * 2 ^ 438 + 300 * 2 ^ 427 + 2 ^ 421 +
      1000 * 2 ^ 408 + 3 * 2 ^ 400))]
    subs := [(600, BitVec.ofNat 512 (2 ^ 511 + 300 * 2 ^ 495 + 2 ^ 493 + 3 * 2 ^ 489 + 7 * 2 ^ 482))]
    inputs := [input 2000 0 0, input 2001 1 25]
    outs := [(300, BitVec.ofNat 1024 (2 ^ 1023 + 2 ^ 1021 + 3 * 2 ^ 1017 + 2 * 2 ^ 1010))]
    routes := [route 1000 0 1, route 1001 1 1, route 1002 2 2] }

/-- Example 10-1: the job costs 8.688 million slots per second. -/
theorem test_load_tower : partLoad tower 40 = 8688000 := by decide +kernel

/-! ### Witnesses: for each statement that has hypotheses,
  states and operands that meet all of a clause's hypotheses together,
one existential for each clause, in order. A hypothesis that a bundle, a container or a capture is valid rests on functions
of `Config` that nothing evaluates: there the witness is any that they call valid. -/

theorem witness_SuppliesAndResets :
    (∃ (s : State), s.power.vin = true ∧ s.power.hot = false ∧ s.power.pwrgd = false) ∧
    (∃ (s : State) (p : _), timeRuns { s with power := { s.power with vaux := p } } = true) ∧
    (∃ (s : State), Bypassed s ∧ s.power.pwrgd = true) ∧
    (∃ (s : State) (req : Requester), Bypassed s ∧ Reaches s req (Reg.glbResetCmd.addr []) ∧
      rd s Reg.glbResetCmd [] 15 0 = 0xA55A) ∧
    (∃ (s : State), Bypassed s ∧ s.power.vin = true ∧ s.power.hot = false) ∧
    (∃ (s : State), Bypassed s ∧ s.power.vin = true ∧ s.power.hot = false) ∧
    (∃ (s : State) (el : _) (now : _), (Bypassed now ∧ now.power.pwrgd = true ∧ now.power.inReset = false ∧
      rdBit now Reg.obsRecCfg [] 31 = false ∧ role now ≠ 1) ∧ now = advance el s) :=
  ⟨⟨({ base with power := { base.power with pwrgd := false } }), by decide +kernel⟩,
   ⟨base, true, by decide +kernel⟩,
   ⟨base, by decide +kernel⟩,
   ⟨(putWord base Reg.glbResetCmd [] 0xA55A), .host, by decide +kernel⟩,
   ⟨base, by decide +kernel⟩,
   ⟨base, by decide +kernel⟩,
   ⟨(reg Reg.obsRecCfg [] 0 base), 5, ((advance 5 (reg Reg.obsRecCfg [] 0 base))), by decide +kernel, rfl⟩⟩

theorem witness_CoresRestart :
    (∃ (s : State) (core : Fin 3) (el : _) (now : _), (coreRuns now (core + 1) = true ∧
      ((get [] now.power.expiries (core + 1)).filter fun t => decide (now.time.dt - t ≤ expiryWindow)).length < 2) ∧
      now = advance el s) ∧
    (∃ (s : State) (el : _) (now : _), (Bypassed now ∧ coreRuns now 0 = true ∧
      ((get [] now.power.expiries 0).filter fun t => decide (now.time.dt - t ≤ expiryWindow)).length < 2) ∧
      now = advance el s) ∧
    (∃ (s : State), coreDown s 0 = true ∧ stageDone s 2 = true) ∧
    (∃ (s : State), coreDown s 1 = true ∧ stageDone s 2 = true) ∧
    (∃ (s : State), coreDown s 3 = true ∧ stageDone s 2 = true ∧ s.izl.held = [] ∧ s.izl.orders = []) ∧
    (∃ (s : State), coreDown s 2 = true ∧ stageDone s 2 = true ∧ s.place.heldBack = []) ∧
    (∃ (s : State), s.power.vin = true) :=
  ⟨⟨base, (2 : Fin 3), 3, ((advance 3 base)), by decide +kernel, rfl⟩,
   ⟨base, 0, ((advance 0 base)), by decide +kernel, rfl⟩,
   ⟨({ base with power := { base.power with coresDown := 1 } }), by decide +kernel⟩,
   ⟨({ base with power := { base.power with coresDown := 2 } }), by decide +kernel⟩,
   ⟨({ base with power := { base.power with coresDown := 8 } }), by decide +kernel⟩,
   ⟨({ base with power := { base.power with coresDown := 4 } }), by decide +kernel⟩,
   ⟨base, by decide +kernel⟩⟩

theorem witness_BootTriesBanks :
    (∃ (s : State) (el : _) (now : _), (now.power.pwrgd = true ∧ now.power.inReset = true ∧
      now.power.pwrgdAt + msTicks 1 ≤ now.time.dt ∧ rd now Reg.glbResetCause [] 2 0 = 0) ∧ now = advance el s) ∧
    (∃ (s : State) (el : _) (now : _), (now.power.pwrgd = true ∧ now.power.inReset = true ∧
      now.power.pwrgdAt + msTicks 1 ≤ now.time.dt ∧ rd now Reg.glbResetCause [] 2 0 ≠ 0) ∧ now = advance el s) ∧
    (∃ (s : State) (el : _) (now : _), now.time.dt < now.power.pwrgdAt + msTicks 1 ∧ now = advance el s) ∧
    (∃ (s : State) (el : _) (now : _), (now.power.inReset = false ∧ stageDone now 0 = true ∧ stageDone now 1 = false ∧
      halted now = false) ∧ now = advance el s) ∧
    (∃ (s : State) (el : _) (now : _), (now.power.inReset = false ∧ stageDone now 0 = true ∧ stageDone now 1 = false ∧
      halted now = false ∧ rdBit now Reg.glbStrap [] 4 = false ∧ rd now Reg.glbStrap [] 1 0 ≠ 3 ∧ now.power.failed = [] ∧
      fatalCount now < 4) ∧ now = advance el s) ∧
    (∃ (s : State) (el : _) (e : _) (b : _) (c : _) (now : _), (b < 2 ∧ now.power.trying = some b ∧
      (bankOfImg now b).state ≠ 3 ∧ checkBank now b e = .error c) ∧ now = advance el s) ∧
    (∀ (i : Img) x,
      checkBank (advance 0 { ready 2 with power := { base.power with trying := some 1 }, img := i }) 1 false = .ok x → ∃ (s : State) (el : Nat) (e : Bool) (b : Nat) (y : Bundle),
      b < 2 ∧ s.power.trying = some b ∧ checkBank (advance el s) b e = .ok y) ∧
    (∃ (s : State) (el : _) (b : _) (now : _), (b < 2 ∧ now.power.trying = some b ∧ (bankOfImg now b).state ≠ 3 ∧
      now.power.tryAt + msTicks 2000 ≤ now.time.dt) ∧ now = advance el s) :=
  ⟨⟨({ base with power := { base.power with inReset := true } }), 800000,
    ((advance 800000 ({ base with power := { base.power with inReset := true } }))), by decide +kernel, rfl⟩,
   ⟨(putWord { base with power := { base.power with inReset := true } } Reg.glbResetCause [] 1), 800000,
     ((advance 800000 (putWord { base with power := { base.power with inReset := true } } Reg.glbResetCause [] 1))),
     by decide +kernel, rfl⟩,
   ⟨({ base with power := { base.power with inReset := true } }), 799999,
     ((advance 799999 ({ base with power := { base.power with inReset := true } }))), by decide +kernel, rfl⟩,
   ⟨(ready 1), 1, ((advance 1 (ready 1))), by decide +kernel, rfl⟩,
   ⟨(ready 1), 1, ((advance 1 (ready 1))), by decide +kernel, rfl⟩,
   ⟨({ ready 2 with power := { base.power with trying := some 1 } }), 0, false, 1, 0x21,
     ((advance 0 ({ ready 2 with power := { base.power with trying := some 1 } }))), by decide +kernel, rfl⟩,
   fun i x h => ⟨{ ready 2 with power := { base.power with trying := some 1 }, img := i }, 0, false, 1, x, by decide, rfl,
     h⟩,
   ⟨({ ready 2 with power := { base.power with trying := some 0 } }), 1600000000, 0,
     ((advance 1600000000 ({ ready 2 with power := { base.power with trying := some 0 } }))), by decide +kernel, rfl⟩⟩

theorem witness_StagesComplete :
    (∃ (s : State) (el : _) (x : _) (now : _), (stageRuns now 3 = true ∧ now.img.bundle = some x) ∧ now = advance el s) ∧
    (∃ (s : State) (n : Fin 12) (el : _) (now : _), (5 ≤ n.val ∧ n.val ≤ 10 ∧ stageRuns now n = true ∧
      stageMet now n = true) ∧ now = advance el s) ∧
    (∃ (s : State) (n : Fin 12) (el : _) (now : _), ((n.val = 6 ∨ n.val = 7 ∨ n.val = 9) ∧ stageRuns now n = true ∧
      stageLimit now n ≤ now.time.dt) ∧ now = advance el s) ∧
    (∃ (s : State) (el : _) (now : _), (stageRuns now 1 = true ∧ now.power.origin + msTicks 100 ≤ now.time.dt) ∧
      now = advance el s) :=
  ⟨⟨({ ready 3 with img := { base.img with bundle := some bundle } }), 0, bundle,
    ((advance 0 ({ ready 3 with img := { base.img with bundle := some bundle } }))), by decide +kernel, rfl⟩,
   ⟨(ready 5), (5 : Fin 12), 1, ((advance 1 (ready 5))), by decide +kernel, rfl⟩,
   ⟨(ready 5), (9 : Fin 12), 1000000000000, ((advance 1000000000000 (ready 5))), by decide +kernel, rfl⟩,
   ⟨(ready 1), 80000000, ((advance 80000000 (ready 1))), by decide +kernel, rfl⟩⟩

theorem witness_RegisterWritesLand :
    (∃ (s : State) (req : Requester), Reaches s req (Reg.glbScratch.addr [])) ∧
    (∃ (s : State) (req : Requester) (p : _), p < 96 ∧ Reaches s req (Reg.schedPortCfg.addr [p]) ∧
      standsBy s req (some 0) = false ∧ activePaired s = false) ∧
    (∃ (s : State) (p : _) (req : Requester) (since : _), p < 96 ∧ s.regs.waiting = [⟨Reg.schedPortCfg.addr [p],
      0x803F00FF, 1, since, req⟩]) ∧
    (∃ (s : State) (req : Requester), Reaches s req (Reg.glbBuserrAck.addr [])) ∧
    (∃ (s : State) (a : _), s.power.inReset = false ∧ busFault a 4 = none ∧ a < bar2 ∧
      (isLive a = true ∨ serves s (stagedOf a) = false)) :=
  ⟨⟨base, .host, by decide +kernel⟩,
   ⟨base, (.mc 3), 95, by decide +kernel⟩,
   ⟨({ base with regs := { base.regs with waiting := [⟨Reg.schedPortCfg.addr [0], 0x803F00FF, 1, 7, .host⟩] } }), 0, .host,
     7, by decide +kernel⟩,
   ⟨base, .host, by decide +kernel⟩,
   ⟨base, (Reg.glbScratch.addr [] + 0x8000), by decide +kernel⟩⟩

theorem witness_RegisterReadsAnswer :
    (∃ (s : State) (a : _), (s.power.inReset = false ∧ busFault a 4 = none ∧ a < bar2) ∧ (∀ g ix i,
      ctrAt (stagedOf a) ≠ some (g, ix, i, .low))) ∧
    (∃ (a : _), (a < 0x400000 ∨ 0x600000 ≤ a)) ∧
    (∃ (s : State), serves s (Reg.glbScratch.addr []) = true) ∧
    (∃ (s : State) (a : _), serves s (stagedOf a) = false) ∧
    (∃ (s : State) (a : _) (g : _) (ix : _) (i : _), s.power.inReset = false ∧ busFault a 4 = none ∧ a < bar2 ∧
      serves s (stagedOf a) = true ∧ ctrAt (stagedOf a) = some (g, ix, i, .low)) ∧
    (∃ (s : State) (a : _) (width : _), s.power.inReset = false ∧ a < bar2 ∧ a % 4 = 0 ∧ (mapped a = false ∨ width ≠ 4)) ∧
    (∃ (s : State) (a : _) (width : _), s.power.inReset = false ∧ a < bar2 ∧ a % 4 = 0 ∧ (mapped a = false ∨ width ≠ 4)) ∧
    (∃ (w : Nat) (b : Nat), w % 4 = 0 ∧ b < 32) ∧
    (∃ (a : _), a < 0x20000000) ∧
    (∃ (s : State) (a : _), s.power.inReset = false ∧ a < 0x20000000 ∧ a % 4 = 0 ∧ mapped (a / 128 * 4) = true) ∧
    (∃ (s : State) (a : _), s.power.inReset = false ∧ a < 0x20000000 ∧ a % 4 = 0 ∧ mapped (a / 128 * 4) = false) ∧
    (∃ (s : State) (a : _), s.power.inReset = false ∧ a < 0x20000000 ∧ a % 4 = 0 ∧ mapped (a / 128 * 4) = false) ∧
    (∃ (s : State) (req : Requester) (i : _), i < 32 ∧ Reaches s req (Reg.glbScratch.addr [])) ∧
    (∃ (s : State) (o : BitVec 30), (s.power.vin = true ∧ o.toNat % 4 = 0 ∧ o.toNat < bar2 ∧ mapped o.toNat = true) ∧
      (∀ g ix i, ctrAt (stagedOf o.toNat) ≠ some (g, ix, i, .low))) ∧
    (∃ (s : State) (o : BitVec 30), spiAlive s = true ∧ o.toNat % 4 = 0 ∧ o.toNat < bar2 ∧ mapped o.toNat = false) ∧
    (∃ (s : State), spiAlive s = true) ∧
    (∃ (s : State), spiAlive s = true) :=
  ⟨⟨base, (Reg.glbScratch.addr []), by decide +kernel, not_low _ (by decide +kernel)⟩,
   ⟨0x600000, by decide +kernel⟩,
   ⟨base, by decide +kernel⟩,
   ⟨State.reset, (Reg.hpCfg.addr [0]), by decide +kernel⟩,
   ⟨base, (Ctr.hport.addr [47] 0), Ctr.hport, ([47]), 0, by decide +kernel⟩,
   ⟨base, 0x0FFFFFFC, 8, by decide +kernel⟩,
   ⟨base, 0x0FFFFFFC, 2, by decide +kernel⟩,
   ⟨(4 : Nat), (31 : Nat), by decide +kernel⟩,
   ⟨0x1FFFFFFF, by decide +kernel⟩,
   ⟨base, (128 * (Reg.glbScratch.addr [] / 4) + 4 * 31), by decide +kernel⟩,
   ⟨base, 0x1FFFFFFC, by decide +kernel⟩,
   ⟨base, 0x1FFFFFFC, by decide +kernel⟩,
   ⟨base, .host, 31, by decide +kernel⟩,
   ⟨base, (BitVec.ofNat 30 (Reg.glbScratch.addr [])), by decide +kernel, not_low _ (by decide +kernel)⟩,
   ⟨base, (0x0FFFFFFC : BitVec 30), by decide +kernel⟩,
   ⟨base, by decide +kernel⟩,
   ⟨base, by decide +kernel⟩⟩

theorem witness_SharedMemoryHoldsWords :
    (∃ (s : State) (o : _), s.power.inReset = false ∧ o % 4 = 0 ∧ o < 0x3FF8000 ∧ Memory.wf s.bar4) :=
  ⟨base, 0x3FF7FFC, by decide +kernel⟩

theorem witness_TableWordsLand :
    (∃ (s : State) (k : _) (i : _) (w : _), i < 131072 ∧ w < 3 ∧ Reaches s (.mc k) (0x2000000 + 16 * i + 4 * w)) ∧
    (∃ (s : State) (k : _) (i : _) (a : _) (b : _) (c : _), i < 131072 ∧ Reaches s (.mc k) (0x2000000 + 16 * i + 12) ∧
      standsBy s (.mc k) (some 1) = false ∧ find s.regs.partialWords (0x2000000 + 16 * i) = some a ∧
      find s.regs.partialWords (0x2000000 + 16 * i + 4) = some b ∧
      find s.regs.partialWords (0x2000000 + 16 * i + 8) = some c) ∧
    (∃ (s : State) (k : _) (i : _), i < 17 ∧ Reaches s (.mc k) (0x9000100 + 4 * i)) :=
  ⟨⟨base, 0, 131071, 2, by decide +kernel⟩,
   ⟨({ base with regs := { base.regs with partialWords := [(0x2000000, 1), (0x2000004, 2), (0x2000008, 3)] } }), 1, 0, 1,
     2, 3, by decide +kernel⟩,
   ⟨base, 1, 16, by decide +kernel⟩⟩

theorem witness_HoldsAndVectors :
    (∃ (s : State) (data : Word), Reaches s .host (Reg.glbMsHold.addr []) ∧ flag data 0 = true) ∧
    (∃ (s : State) (k : _) (data : Word), Reaches s (.mc k) (Reg.glbMsHold.addr []) ∧ flag data 1 = false ∧
      rdBit s Reg.glbMsHold [] 1 = true) ∧
    (∃ (s : State) (mc : _), rdBit s Reg.glbMsHold [] (bnat mc) = true ∧
      100 ≤ (if mc then s.regs.holdMcCycles else s.regs.holdHostCycles)) ∧
    (∃ (s : State) (el : _) (v : Fin 64) (now : _), (wouldSend now v = true ∧ holdoffPassed now v = true ∧
      vectorMasked now v = false) ∧ now = advance el s) ∧
    (∃ (s : State) (req : Requester) (w : Fin 2), Reaches s req (Reg.irqVecRearm.addr [w])) :=
  ⟨⟨base, 1, by decide +kernel⟩,
   ⟨(reg Reg.glbMsHold [] 2 base), 1, 0, by decide +kernel⟩,
   ⟨({ reg Reg.glbMsHold [] 1 base with regs := { (reg Reg.glbMsHold [] 1 base).regs with holdHostCycles := 100 } }),
     false, by decide +kernel⟩,
   ⟨({ reg Reg.irqRoute [97] 0x8000003F (reg Reg.obsCondEn [] 8 base) with obs := { base.obs with gap := true }, irq := { base.irq with msixEnable := true, masked := 0 } }),
     4, (63 : Fin 64),
     ((advance 4 ({ reg Reg.irqRoute [97] 0x8000003F (reg Reg.obsCondEn [] 8 base) with obs := { base.obs with gap := true }, irq := { base.irq with msixEnable := true, masked := 0 } }))),
     by decide +kernel, rfl⟩,
   ⟨base, .host, (1 : Fin 2), by decide +kernel⟩⟩

theorem witness_LinksFollowTheLine :
    (∃ (s : State) (p : Fin 80), p.val < 48 ∧ hWindow s p = true ∧ portEn s p = true ∧ linkUp s p = false ∧
      released s p = true ∧ (port s p).trainingAbandoned = false ∧
      (anEffective s p = true → rdBit s Reg.hpLinkStat [p] 2 = true) ∧ Quiet s) ∧
    (∃ (s : State) (p : Fin 80), 48 ≤ p.val ∧ cWindow s (p - 48) = true ∧ portEn s p = true ∧ linkUp s p = false ∧
      released s p = true ∧ forced s (p - 48) = true ∧ Quiet s) ∧
    (∃ (s : State) (p : Fin 80) (el : _) (now : _), (linkUp now p = true ∧ portGroup now p = none ∧ Calm now p ∧
      Still now p ∧ Quiet now ∧ offline now = false ∧ rdBit now Reg.pipePortCfg [pipeOf now p, p] 31 = false) ∧
      now = advance el s) ∧
    (∃ (s : State) (n : Fin 48), hWindow s n = true ∧ portEn s n = true ∧ linkUp s n = false ∧ offline s = false) ∧
    (∃ (s : State) (n : Fin 48), hWindow s n = true ∧ portEn s n = true ∧ anEffective s n = true ∧ linkUp s n = false ∧
      offline s = false) ∧
    (∃ (s : State) (n : Fin 48), hWindow s n = true ∧ portEn s n = true ∧ anEffective s n = true ∧ linkUp s n = false ∧
      offline s = false) ∧
    (∃ (s : State) (n : Fin 48), training s n = true ∧ (port s n).trainAt + trainLimit s n ≤ s.time.dt) ∧
    (∃ (s : State) (n : Fin 48), portEn s n = true ∧ (port s n).trainingAbandoned = true ∧
      (port s n).trainAt + msTicks 100 ≤ s.time.dt) :=
  ⟨⟨(reg Reg.hpCfg [0] 1 base), (0 : Fin 80), by decide +kernel⟩,
   ⟨(reg Reg.cpCfg [31] 0x11 base), (79 : Fin 80), by decide +kernel⟩,
   ⟨(reg Reg.pipePortCfg [0, 47] 0x43240001 (putWord (reg Reg.hpCfg [47] 1 base) Reg.hpLinkStat [47] 1)), (47 : Fin 80), 9,
     ((advance 9 (reg Reg.pipePortCfg [0, 47] 0x43240001 (putWord (reg Reg.hpCfg [47] 1 base) Reg.hpLinkStat [47] 1)))),
     by decide +kernel, rfl⟩,
   ⟨(reg Reg.hpCfg [47] 1 base), (47 : Fin 48), by decide +kernel⟩,
   ⟨(reg Reg.hpCfg [8] 0x19 copper8), (8 : Fin 48), by decide +kernel⟩,
   ⟨(reg Reg.hpCfg [8] 0x19 copper8), (8 : Fin 48), by decide +kernel⟩,
   ⟨({ reg Reg.hpCfg [8] 0x11 copper8 with time := { base.time with dt := 3000000000 } }), (8 : Fin 48), by decide +kernel⟩,
   ⟨({ putPort (reg Reg.hpCfg [8] 1 base) 8 { Port.idle with trainingAbandoned := true } with time := { base.time with dt := 80000000 } }),
     (8 : Fin 48), by decide +kernel⟩⟩

theorem witness_PortConfigurationLands :
    (∃ (s : State) (req : Requester) (n : Fin 48), Reaches s req (Reg.hpCfg.addr [n]) ∧ Alone s ∧ linkUp s n = false) ∧
    (∃ (s : State) (req : Requester) (n : Fin 48), Reaches s req (Reg.hpCfg.addr [n]) ∧ Alone s ∧ linkUp s n = false) ∧
    (∃ (s : State) (n : Fin 48), Reaches s .host (Reg.hpCfg.addr [n]) ∧ Alone s ∧ linkUp s n = false ∧
      flag (stagedWord s Reg.hpCfg [n]) 0 = true) :=
  ⟨⟨base, .host, (47 : Fin 48), by decide +kernel⟩,
   ⟨base, .host, (0 : Fin 48), by decide +kernel⟩,
   ⟨(reg Reg.hpCfg [0] 1 base), (0 : Fin 48), by decide +kernel⟩⟩

theorem witness_ModulesStepThrough :
    (∃ (s : State) (k : Fin 12), masterOn s k = true ∧ presentBall s k = false ∧ modState s k = 0 ∧
      (modul s k).pollAt + msTicks 100 ≤ s.time.dt) ∧
    (∃ (s : State) (k : Fin 12), masterOn s k = true ∧ modState s k = 1) ∧
    (∃ (s : State) (k : Fin 12), masterOn s k = true ∧ modState s k = 1 ∧ stepPast s k 20 = true ∧
      (modul s k).present = true ∧ (∀ n < 48, linkUp s n = false)) ∧
    (∃ (s : State) (k : Fin 12), masterOn s k = true ∧ modState s k = 2 ∧ (modul s k).present = true ∧
      s.time.dt ≤ (modul s k).since + msTicks 50) ∧
    (∃ (s : State) (k : Fin 12), masterOn s k = true ∧ modState s k = 3 ∧ (modul s k).present = true ∧
      s.time.dt ≤ (modul s k).since + msTicks 60000 ∧ (∀ n < 48, linkUp s n = false)) ∧
    (∃ (s : State) (k : Fin 12), masterOn s k = true ∧ ((modState s k = 2 ∧ stepPast s k 50 = true) ∨ modState s k = 3) ∧
      (∀ n < 48, linkUp s n = false)) ∧
    (∃ (s : State) (k : Fin 12), masterOn s k = true ∧ modState s k ≠ 0 ∧ (modul s k).present = false ∧ (∀ n < 48,
      linkUp s n = false)) ∧
    (∃ (s : State) (k : Fin 12), masterOn s k = true ∧ modState s k = 4 ∧ rd s Reg.hpModCfg [4 * k] 15 8 ≠ 0 ∧
      (modul s k).monitorAt + msTicks (10 * rd s Reg.hpModCfg [4 * k] 15 8) ≤ s.time.dt) ∧
    (∃ (s : State) (req : Requester) (k : Fin 12) (data : Word), Reaches s req (Reg.hpModXfer.addr [4 * k]) ∧ Alone s ∧
      rdBit s Reg.hpModXferStat [4 * k] 3 = false ∧ (modul s k).present = true ∧
      touchesPageSelect (blend 0x7FFFFFFF (word s Reg.hpModXfer [4 * k]) data) = false) ∧
    (∃ (s : State) (k : Fin 12) (r : _) (w : Word), (modul s k).mailbox = some w ∧ r ≠ 0) ∧
    (∃ (s : State) (k : Fin 12) (w : Word), (modul s k).mailbox = some w ∧ flag w 30 = false) :=
  ⟨⟨({ base with time := { base.time with dt := 80000000 } }), (11 : Fin 12), by decide +kernel⟩,
   ⟨(putWord base Reg.hpModStat [0] 1), (0 : Fin 12), by decide +kernel⟩,
   ⟨({ putModule (putWord base Reg.hpModStat [4] 1) 1 { Module.empty with present := true } with time := { base.time with dt := 80000000 } }),
     (1 : Fin 12), by decide +kernel⟩,
   ⟨(putModule (putWord base Reg.hpModStat [4] 2) 1 { Module.empty with present := true }), (1 : Fin 12), by decide +kernel⟩,
   ⟨(putModule (putWord base Reg.hpModStat [4] 3) 1 { Module.empty with present := true }), (1 : Fin 12), by decide +kernel⟩,
   ⟨({ putWord base Reg.hpModStat [4] 2 with time := { base.time with dt := 80000000 } }), (1 : Fin 12), by decide +kernel⟩,
   ⟨(putWord base Reg.hpModStat [4] 4), (1 : Fin 12), by decide +kernel⟩,
   ⟨({ reg Reg.hpModCfg [4] 0x04016401 (putWord base Reg.hpModStat [4] 4) with time := { base.time with dt := 800000000 } }),
     (1 : Fin 12), by decide +kernel⟩,
   ⟨(putModule base 1 { Module.empty with present := true }), .host, (1 : Fin 12), 0x01000000, by decide +kernel⟩,
   ⟨(putModule base 11 { Module.empty with mailbox := some 0x40000000 }), (11 : Fin 12), 2, ((0x40000000 : Word)),
     by decide +kernel⟩,
   ⟨(putModule base 11 { Module.empty with mailbox := some 0x03000000 }), (11 : Fin 12), ((0x03000000 : Word)),
     by decide +kernel⟩⟩

theorem witness_CopperNegotiates :
    (∃ (s : State) (c : Fin 32) (x : CopperPartner) (r : Resolved), cWindow s c = true ∧ portEn s (48 + c) = true ∧
      linkUp s (48 + c) = false ∧ released s (48 + c) = true ∧ forced s c = false ∧ negotiate s c x = some r ∧ Quiet s) ∧
    (∃ (s : State) (c : Fin 32) (x : CopperPartner), cWindow s c = true ∧ portEn s (48 + c) = true ∧
      linkUp s (48 + c) = false ∧ released s (48 + c) = true ∧ forced s c = false ∧ negotiate s c x = none) ∧
    (∃ (s : State) (c : _) (x : CopperPartner), x.negotiates = true ∧ bit (advFull s c) 2 = false ∧
      bit (advFull s c) 1 = true ∧ x.full.getLsbD 1 = true) ∧
    (∃ (s : State) (req : Requester) (c : Fin 32), Reaches s req (Reg.cpCfg.addr [c]) ∧ Alone s ∧
      linkUp s (48 + c) = false) ∧
    (∃ (s : State) (c : Fin 32), Reaches s .host (Reg.cpCfg.addr [c]) ∧ Alone s ∧ linkUp s (48 + c) = false ∧
      flag (stagedWord s Reg.cpCfg [c]) 0 = true) ∧
    (∃ (s : State) (req : Requester) (c : Fin 32), Reaches s req (Reg.cpDiagCtrl.addr [c]) ∧ Alone s ∧
      linkUp s (48 + c) = false ∧ rdBit s Reg.cpDiagCtrl [c] 3 = false) ∧
    (∃ (s : State) (req : Requester) (c : Fin 32) (data : Word), Reaches s req (Reg.cpDiagCtrl.addr [c]) ∧ Alone s ∧
      linkUp s (48 + c) = true ∧ rdBit s Reg.cpDiagCtrl [c] 3 = false ∧ flag data 1 = false) ∧
    (∃ (s : State) (c : Fin 32), (port s (48 + c)).diagRuns = true) ∧
    (∃ (v : Nat) (d : Nat), 2 ≤ v ∧ v ≤ 5 ∧ d < 256) :=
  ⟨⟨(reg Reg.cpCfg [31] 0x768 (reg Reg.cpCfg [0] 0x00000769 base)), (0 : Fin 32), ((⟨true, 7, 3, true, true, 0, 0, false,
    true, false, 0⟩ : CopperPartner)), ((⟨2, true, false, true⟩ : Resolved)), by decide +kernel⟩,
   ⟨(reg Reg.cpCfg [0] 0x00000769 base), (0 : Fin 32), ((⟨true, 0, 0, false, false, 0, 0, false, true, false,
     0⟩ : CopperPartner)), by decide +kernel⟩,
   ⟨(reg Reg.cpCfg [0] 0x00000269 base), 0, ((⟨true, 2, 0, false, false, 0, 0, false, true, false, 0⟩ : CopperPartner)),
     by decide +kernel⟩,
   ⟨base, .host, (31 : Fin 32), by decide +kernel⟩,
   ⟨(reg Reg.cpCfg [0] 0x00000769 base), (0 : Fin 32), by decide +kernel⟩,
   ⟨base, .host, (0 : Fin 32), by decide +kernel⟩,
   ⟨(putWord base Reg.cpLinkStat [0] 1), .host, (0 : Fin 32), 1, by decide +kernel⟩,
   ⟨(putPort (putWord base Reg.cpDiagCtrl [0] 8) 48 { Port.idle with diagRuns := true }), (0 : Fin 32), by decide +kernel⟩,
   ⟨(5 : Nat), (201 : Nat), by decide +kernel⟩⟩

theorem witness_CopperLinesShareAndSleep :
    (∃ (s : State) (c : Fin 32) (el : _) (now : _), (linkUp now (48 + c) = true ∧ rdBit now Reg.cpLinkStat [c] 11 = true ∧
      (port now (48 + c)).lpiSince = none ∧ portIdle now (48 + c) = true ∧ gateRunning now (48 + c) = false ∧
      parentPath now (48 + c) = false ∧
      (port now (48 + c)).activeAt + max 1 (rd now Reg.cpEee [c] 15 0) * 800 ≤ now.time.dt) ∧ now = advance el s) ∧
    (∃ (s : State) (c : Fin 32), linkUp s (48 + c) = true ∧ offline s = false) ∧
    (∃ (s : State) (c : Fin 32), linkUp s (48 + c) = true ∧ halfDuplex s (48 + c) = true ∧ offline s = false) ∧
    (∃ (s : State) (c : Fin 32) (el : _) (n : _) (now : _), (attempting now (48 + c) = true ∧
      halfDuplex now (48 + c) = true ∧ offline now = false ∧ n ≤ 512 ∧ (port now (48 + c)).collisions < 15) ∧
      now = advance el s) ∧
    (∃ (s : State) (c : Fin 32) (el : _) (y : _) (e : _) (now : _), (find now.sched.sending (48 + c) = some y ∧
      (port now (48 + c)).backingOff = some e ∧ e ≤ now.time.dt ∧ (port now (48 + c)).carrier = false) ∧
      now = advance el s) ∧
    (∃ (s : State) (c : Fin 32) (el : _) (n : _) (now : _), (find now.sched.sending (48 + c) = none ∧
      attempting now (48 + c) = true ∧ halfDuplex now (48 + c) = true ∧ offline now = false ∧ 512 < n) ∧
      now = advance el s) :=
  ⟨⟨(putWord base Reg.cpLinkStat [0] 0x80D), (0 : Fin 32), 1000000,
    ((advance 1000000 (putWord base Reg.cpLinkStat [0] 0x80D))), by decide +kernel, rfl⟩,
   ⟨(putWord base Reg.cpLinkStat [0] 0x80D), (0 : Fin 32), by decide +kernel⟩,
   ⟨(putWord base Reg.cpLinkStat [0] 1), (0 : Fin 32), by decide +kernel⟩,
   ⟨half, (0 : Fin 32), 0, 512, ((advance 0 half)), by decide +kernel, rfl⟩,
   ⟨(putPort half 48 { Port.idle with backingOff := some 3 }), (0 : Fin 32), 3, (sendingOf 1), 3,
     ((advance 3 (putPort half 48 { Port.idle with backingOff := some 3 }))), by decide +kernel, rfl⟩,
   ⟨(putPort { half with sched := base.sched } 48 { Port.idle with ownNow := some ⟨⟨.twin, 0, []⟩, [], 0, stampZero⟩ }),
     (0 : Fin 32), 0, 513,
     ((advance 0 (putPort { half with sched := base.sched } 48 { Port.idle with ownNow := some ⟨⟨.twin, 0, []⟩, [], 0, stampZero⟩ }))),
     by decide +kernel, rfl⟩⟩

theorem witness_FramesComeAndGo :
    (∃ (s : State) (p : Fin 96) (el : _) (now : _), (receives now p = true ∧ (port now p).receiving = none ∧
      now.regs.waiting = []) ∧ now = advance el s) ∧
    (∃ (s : State) (p : Fin 96) (el : _) (len : _) (now : _), (p.val < 80 ∧ len < 64 ∧ receives now p = true ∧
      (port now p).receiving = none ∧ now.regs.waiting = [] ∧ inHierarchy now = false) ∧ now = advance el s) ∧
    (∃ (s : State) (p : Fin 80) (el : _) (rest : _) (f : _) (x : _) (now : _), (portGroup now p = none ∧
      (port now p).receiving = some f ∧ frame now f = some x ∧ x.inPort = p ∧ x.dropped = true ∧ x.bad = true ∧
      x.mid = false ∧ x.copies = 0 ∧ x.head = none ∧ x.staging = none ∧ x.source = none ∧ x.learn = none ∧ x.stream = none ∧
      x.stormed = none ∧ now.sched.queues = [] ∧ now.bpm.cellReqs = [] ∧ selectionOf now p none = none ∧
      inHierarchy now = false ∧ field (x.bytes ++ rest) 12 2 ≠ 0x8808) ∧ now = advance el s ∧
      tailRow (x.bytes ++ rest) x.mru false = none) ∧
    (∃ (s : State) (p : Fin 96) (el : _) (now : _), receives now p = false ∧ now = advance el s) ∧
    (∃ (s : State) (p : Fin 80) (el : _) (now : _), receives now p = true ∧ now = advance el s) ∧
    (∃ (s : State) (p : Fin 80) (el : _) (b : _) (now : _), (receives now p = true ∧ halfDuplex now p = false ∧
      (port now p).receiving = none ∧ field b 12 2 = 0x8808 ∧ field b 14 2 = 1 ∧ now.regs.waiting = [] ∧
      selectionOf now p none = none ∧ flowMode now p = 1 ∧ macRd now Reg.hpFlow Reg.cpFlow p 5 5 = 1) ∧ now = advance el s ∧
      tailRow b (mru now p) false = none) ∧
    (∃ (s : State) (p : Fin 80), inTime s (port s p).paused = false) ∧
    (∃ (s : State) (p : Fin 80) (c : Fin 8), inTime s ((port s p).pfc.getD c none) = false) ∧
    (∃ (s : State) (p : Fin 80), linkUp s p = true ∧ macRd s Reg.hpFlow Reg.cpFlow p 4 4 ≠ 0 ∧ flowMode s p = 1 ∧
      (port s p).xoffSent = true ∧ (port s p).xoffAt + refreshTicks s p ≤ s.time.dt ∧ LineFree s p) ∧
    (∃ (s : State) (p : Fin 96) (el : _) (now : _) (g : _) (u : _) (v : _) (cls : _) (q : _) (c : _) (l : List Copy) (x : _),
      (p.val < 80 ∧ stopped now = false ∧ find g.sched.sending p = none ∧ (port g p).ownNow = none ∧
      awaitsBuffer g p = false ∧ linkUp u p = true ∧ (port u p).wakeAt ≤ u.time.dt ∧ (port u p).carrier = false ∧
      nextOwn u p = none ∧ decideQueue (settleCredit u p) p = some (cls, q, v) ∧
      (queue (settleCredit u p) q).copies = c :: l ∧ frame (settleCredit u p) c.frame = some x ∧ hierRole v = 0) ∧
      now = advance el s ∧ g = gateCatchUp gateFuel now p ∧ u = applyPending g p ∧ (∀ q, headDrop u p q = none)) :=
  ⟨⟨base, (95 : Fin 96), 3, ((advance 3 base)), by decide +kernel, rfl⟩,
   ⟨(putWord base Reg.cpLinkStat [31] 1), (79 : Fin 96), 0, 63, ((advance 0 (putWord base Reg.cpLinkStat [31] 1))),
     by decide +kernel, rfl⟩,
   ⟨(putPort (putFrame (putWord base Reg.hpLinkStat [0] 1) 1 ({ frameOf 0 (good.take 32) with dropped := true, bad := true })) 0 { Port.idle with receiving := some 1 }),
     (0 : Fin 80), 2, (good.drop 32), 1, ({ frameOf 0 (good.take 32) with dropped := true, bad := true }),
     ((advance 2 (putPort (putFrame (putWord base Reg.hpLinkStat [0] 1) 1 ({ frameOf 0 (good.take 32) with dropped := true, bad := true })) 0 { Port.idle with receiving := some 1 }))),
     by decide +kernel, rfl, tail_good⟩,
   ⟨base, (0 : Fin 96), 5, ((advance 5 base)), by decide +kernel, rfl⟩,
   ⟨(putWord base Reg.hpLinkStat [0] 1), (0 : Fin 80), 0, ((advance 0 (putWord base Reg.hpLinkStat [0] 1))),
     by decide +kernel, rfl⟩,
   ⟨(putWord (putWord base Reg.hpLinkStat [0] 1) Reg.hpFlow [0] 0x21), (0 : Fin 80), 0, pauseIn,
     ((advance 0 (putWord (putWord base Reg.hpLinkStat [0] 1) Reg.hpFlow [0] 0x21))), by decide +kernel, rfl, tail_pauseIn⟩,
   ⟨(putPort base 79 { Port.idle with paused := some 0 }), (79 : Fin 80), by decide +kernel⟩,
   ⟨base, (79 : Fin 80), (7 : Fin 8), by decide +kernel⟩,
   ⟨(advance 4000000 (putPort (putWord (putWord base Reg.hpLinkStat [0] 1) Reg.hpFlow [0] 0x11) 0 { Port.idle with xoffSent := true })),
     (0 : Fin 80), by decide +kernel⟩,
   ⟨(putQueue (putFrame (putWord base Reg.hpLinkStat [0] 1) 1 ({ frameOf 3 good with head := some 0, cells := 1, copies := 1 })) 0 { Queue.empty with copies := [copyOf 1] }),
     (0 : Fin 96), 0,
     ((advance 0 (putQueue (putFrame (putWord base Reg.hpLinkStat [0] 1) 1 ({ frameOf 3 good with head := some 0, cells := 1, copies := 1 })) 0 { Queue.empty with copies := [copyOf 1] }))),
     ((gateCatchUp gateFuel ((advance 0 (putQueue (putFrame (putWord base Reg.hpLinkStat [0] 1) 1 ({ frameOf 3 good with head := some 0, cells := 1, copies := 1 })) 0 { Queue.empty with copies := [copyOf 1] }))) (0 : Fin 96))),
     ((applyPending ((gateCatchUp gateFuel ((advance 0 (putQueue (putFrame (putWord base Reg.hpLinkStat [0] 1) 1 ({ frameOf 3 good with head := some 0, cells := 1, copies := 1 })) 0 { Queue.empty with copies := [copyOf 1] }))) (0 : Fin 96))) (0 : Fin 96))),
     (((decideQueue (settleCredit (applyPending (gateCatchUp gateFuel (advance 0 (putQueue (putFrame (putWord base Reg.hpLinkStat [0] 1) 1 ({ frameOf 3 good with head := some 0, cells := 1, copies := 1 })) 0 { Queue.empty with copies := [copyOf 1] })) 0) 0) 0) 0).getD (0,
     0,
     (putQueue (putFrame (putWord base Reg.hpLinkStat [0] 1) 1 ({ frameOf 3 good with head := some 0, cells := 1, copies := 1 })) 0 { Queue.empty with copies := [copyOf 1] }))).2.2),
     0, 0, (copyOf 1), (([] : List Copy)), ({ frameOf 3 good with head := some 0, cells := 1, copies := 1 }),
     by decide +kernel, rfl, rfl, rfl, no_drop _ _ (by decide +kernel)⟩⟩

theorem witness_SlotsGrantCells :
    (∃ (s : State), SlotOf s []) ∧
    (∃ (s : State) (r : _) (f : _) (x : _) (tag : _), 80 ≤ r ∧ r < 96 ∧ stopped s = false ∧ s.bpm.cellReqs = [(r, [f])] ∧
      s.bpm.dramReqs = [] ∧ s.bpm.ops = [] ∧ s.bpm.pools.length = 6 ∧ frame s f = some x ∧ x.inPort = r ∧ x.head = none ∧
      x.tailWaits = false ∧ x.whole = false ∧ x.prot = false ∧ x.fan = 1 ∧ heldTags s f = [tag] ∧ x.bytes.length ≤ 256 ∧
      unusedReserve s 0 < poolFree s 0 ∧ charged s (r * 9) < rd s Reg.bpmAccMax [r] 18 0 ∧ (pool s 0).fresh < 262144) ∧
    (∃ (s : State) (n : Fin 6), n.val ≠ 0 ∧ s.bpm.pools.length = 6 ∧ (pool s n).refilling = true ∧ s.bpm.tagWaiters = []) ∧
    (∃ (s : State), 0 < s.bpm.tagsInUse ∧ s.bpm.tagWaiters = []) ∧
    (∃ (s : State) (n : _) (l : List Nat), 0 < s.bpm.tagsInUse ∧ s.bpm.tagWaiters = n :: l) :=
  ⟨⟨base, by decide +kernel⟩,
   ⟨(putQueue { putFrame base 1 ({ frameOf 95 good with copies := 1, fan := 1, whole := false }) with bpm := { base.bpm with cellReqs := [(95, [1])] } } 0 { Queue.empty with copies := [tagged1 7] }),
     95, 1, ({ frameOf 95 good with copies := 1, fan := 1, whole := false }), 7, by decide +kernel⟩,
   ⟨(putPool { base with bpm := { base.bpm with tagsInUse := 1 } } 5 { Pool.full with refilling := true }), (5 : Fin 6),
     by decide +kernel⟩,
   ⟨({ base with bpm := { base.bpm with tagsInUse := 1 } }), by decide +kernel⟩,
   ⟨({ base with bpm := { base.bpm with tagsInUse := 1, tagWaiters := [3] } }), 3, (([] : List Nat)), by decide +kernel⟩⟩

theorem witness_BuffersAreCounted :
    (∃ (s : State) (tag : _) (ptr : _) (n : _) (last : _) (i : _) (b : _), SlotOf s [.share tag ptr n last] ∧
      poolOf ptr = 0 ∧ locate 0 ptr = .inr i ∧ s.bpm.pools.length = 6 ∧ findBuf s 0 i = some b ∧ b.shared = false ∧
      b.owner = tag ∧ 2 ≤ n ∧ n ≤ 128) ∧
    (∃ (s : State) (tag : _) (ptr : _) (n : _) (last : _) (i : _) (b : _), SlotOf s [.share tag ptr n last] ∧
      poolOf ptr = 0 ∧ locate 0 ptr = .inr i ∧ findBuf s 0 i = some b ∧ b.shared = false ∧ b.owner = tag ∧
      (n < 2 ∨ 128 < n)) ∧
    (∃ (s : State) (tag : _) (n : Fin 6) (ptr : _) (i : _) (b : _), SlotOf s [.dropRef tag n ptr] ∧ locate n ptr = .inr i ∧
      s.bpm.pools.length = 6 ∧ findBuf s n i = some b ∧ b.holders.contains tag = true ∧ 2 ≤ b.count ∧
      (2 < b.count ∨ b.deferred = false)) ∧
    (∃ (s : State) (tag : _) (n : Fin 6) (ptr : _) (i : _) (b : _), SlotOf s [.dropRef tag n ptr] ∧ locate n ptr = .inr i ∧
      s.bpm.pools.length = 6 ∧ findBuf s n i = some b ∧ b.holders.contains tag = true ∧ b.count = 2 ∧ b.deferred = true) ∧
    (∃ (s : State) (tag : _) (n : Fin 6) (ptr : _) (i : _) (b : _), SlotOf s [.dropRef tag n ptr] ∧ locate n ptr = .inr i ∧
      findBuf s n i = some b ∧ b.holders.contains tag = true ∧ b.count ≤ 1) ∧
    (∃ (s : State) (tag : _) (n : Fin 6) (ptr : _) (i : _) (b : _), SlotOf s [.dropRef tag n ptr] ∧ locate n ptr = .inr i ∧
      findBuf s n i = some b ∧ b.holders.contains tag = false) ∧
    (∃ (s : State) (tag : _) (n : Fin 6) (ptr : _) (i : _) (b : _), SlotOf s [.free tag n ptr] ∧ n.val ≠ 0 ∧
      locate n ptr = .inr i ∧ s.bpm.pools.length = 6 ∧ findBuf s n i = some b ∧ b.shared = false ∧ b.owner = tag ∧
      b.closed = true) ∧
    (∃ (s : State) (tag : _) (n : Fin 6) (ptr : _) (i : _) (b : _), SlotOf s [.free tag n ptr] ∧ locate n ptr = .inr i ∧
      s.bpm.pools.length = 6 ∧ findBuf s n i = some b ∧ b.shared = true ∧ b.last = tag ∧ b.deferred = false ∧ b.count ≠ 1) ∧
    (∃ (s : State) (tag : _) (n : Fin 6) (ptr : _) (h : _) (i : _) (b : _), SlotOf s [.free tag n ptr, .dropRef h n ptr] ∧
      locate n ptr = .inr i ∧ s.bpm.pools.length = 6 ∧ findBuf s n i = some b ∧ b.shared = true ∧ b.last = tag ∧
      b.deferred = false ∧ b.count = 2 ∧ b.closed = true ∧ b.holders.contains h = true) ∧
    (∃ (s : State) (tag : _) (n : Fin 6) (ptr : _) (k : _), SlotOf s [.free tag n ptr] ∧ locate n ptr = .inl k) :=
  ⟨⟨(slotOps (withBuf 0 (bufOf 3)) [.share 3 (ptr5 0) 128 7]), 3, (ptr5 0), 128, 7, 5, (bufOf 3), by decide +kernel⟩,
   ⟨(slotOps (withBuf 0 (bufOf 3)) [.share 3 (ptr5 0) 129 7]), 3, (ptr5 0), 129, 7, 5, (bufOf 3), by decide +kernel⟩,
   ⟨(slotOps (withBuf 5 ({ bufOf 3 with shared := true, count := 2, last := 9, holders := [4] })) [.dropRef 4 5 (ptr5 5)]),
     4, (5 : Fin 6), (ptr5 5), 5, ({ bufOf 3 with shared := true, count := 2, last := 9, holders := [4] }),
     by decide +kernel⟩,
   ⟨(slotOps (withBuf 0 ({ bufOf 3 with shared := true, count := 2, last := 9, holders := [4, 4], deferred := true })) [.dropRef 4 0 (ptr5 0)]),
     4, (0 : Fin 6), (ptr5 0), 5,
     ({ bufOf 3 with shared := true, count := 2, last := 9, holders := [4, 4], deferred := true }), by decide +kernel⟩,
   ⟨(slotOps (withBuf 0 ({ bufOf 3 with shared := true, count := 1, last := 9, holders := [4] })) [.dropRef 4 0 (ptr5 0)]),
     4, (0 : Fin 6), (ptr5 0), 5, ({ bufOf 3 with shared := true, count := 1, last := 9, holders := [4] }),
     by decide +kernel⟩,
   ⟨(slotOps (withBuf 3 ({ bufOf 3 with shared := true, count := 2, last := 9, holders := [4] })) [.dropRef 5 3 (ptr5 3)]),
     5, (3 : Fin 6), (ptr5 3), 5, ({ bufOf 3 with shared := true, count := 2, last := 9, holders := [4] }),
     by decide +kernel⟩,
   ⟨(slotOps (withBuf 1 (bufOf 0xD1)) [.free 0xD1 1 (ptr5 1)]), 0xD1, (1 : Fin 6), (ptr5 1), 5, (bufOf 0xD1),
     by decide +kernel⟩,
   ⟨(slotOps (withBuf 0 ({ bufOf 3 with shared := true, count := 2, last := 9, holders := [4] })) [.free 9 0 (ptr5 0)]), 9,
     (0 : Fin 6), (ptr5 0), 5, ({ bufOf 3 with shared := true, count := 2, last := 9, holders := [4] }), by decide +kernel⟩,
   ⟨(slotOps (withBuf 0 ({ bufOf 3 with shared := true, count := 2, last := 9, holders := [4] })) [.free 9 0 (ptr5 0),
     .dropRef 4 0 (ptr5 0)]), 9, (0 : Fin 6), (ptr5 0), 4, 5,
     ({ bufOf 3 with shared := true, count := 2, last := 9, holders := [4] }), by decide +kernel⟩,
   ⟨(slotOps base [.free 1 0 0x04000000]), 1, (0 : Fin 6), 0x04000000, 1, by decide +kernel⟩⟩

theorem witness_DestinationsResolve :
    (∃ (v : _) (b : _) (h : _), h.bcast = true ∧ snooped v b h = none) ∧
    (∃ (s : State) (v : _) (fid : _) (b : _) (h : _) (e : _), h.bcast = false ∧ snooped v b h = none ∧
      lookupDa s fid h = some e ∧ fld e 113 112 = 0 ∧ fld e 88 82 ≤ 95) ∧
    (∃ (s : State) (p : _) (v : BitVec 256) (ports : _) (e : _), e ∈ pruned s p v ports) :=
  ⟨⟨(BitVec.allOnes 256), (List.replicate 6 0xFF ++ List.replicate 54 0x22),
    (parse (List.replicate 6 0xFF ++ List.replicate 54 0x22)), by decide +kernel⟩,
   ⟨(stored slot5 (sta 95 0)), (BitVec.allOnes 256), 1, ([0, 0, 0, 0, 0, 5] ++ List.replicate 54 0x22), (parse ([0, 0, 0,
     0, 0, 5] ++ List.replicate 54 0x22)), (sta 95 0), by decide +kernel⟩,
   ⟨(reg Reg.pipePortCfg [0, 5] 0x43240001 base), 3, ((BitVec.allOnes 256 : BitVec 256)), ([3, 5]), 5, by decide +kernel⟩⟩

theorem witness_StationsAreLearned :
    (∃ (s : State) (q : _) (l : List LearnReq) (i : _) (rot : _) (walk : _), Alone s ∧ s.fdb.learnQueue = q :: l ∧
      writerFree s = true ∧ s.fdb.replayQueue = [] ∧ fdbFind s (fdbKey q.fid q.mac.toNat) = [] ∧ atLimit s q.port = false ∧
      i < fdbSize ∧
      place 4 fdbSize 64 (fdbFirst s) (fdbKeyAt s) (fun i => segLocked s (fdbSeg s i)) (segLocked s (homeSeg s (fdbKey q.fid q.mac.toNat))) s.fdb.rot s.fdb.walk (fdbKey q.fid q.mac.toNat) = (.slot i,
      rot, walk)) ∧
    (∃ (s : State) (q : _) (l : List LearnReq) (i : _), s.fdb.learnQueue = q :: l ∧ writerFree s = true ∧
      s.fdb.replayQueue = [] ∧ fdbFind s (fdbKey q.fid q.mac.toNat) = [i] ∧ fld (fdbEntry s i) 88 82 = q.port) ∧
    (∃ (s : State) (q : _) (l : List LearnReq) (i : _), Alone s ∧ s.fdb.learnQueue = q :: l ∧ writerFree s = true ∧
      s.fdb.replayQueue = [] ∧ i < fdbSize ∧ fdbFind s (fdbKey q.fid q.mac.toNat) = [i] ∧ fld (fdbEntry s i) 88 82 ≠ q.port ∧
      flag (fdbEntry s i) 126 = false ∧ flag (fdbEntry s i) 125 = false ∧ segLocked s (fdbSeg s i) = false ∧
      atLimit s q.port = false) ∧
    (∃ (s : State) (q : _) (l : List LearnReq) (i : _), s.fdb.learnQueue = q :: l ∧ writerFree s = true ∧
      s.fdb.replayQueue = [] ∧ fdbFind s (fdbKey q.fid q.mac.toNat) = [i] ∧ fld (fdbEntry s i) 88 82 ≠ q.port ∧
      (flag (fdbEntry s i) 126 = true ∨ flag (fdbEntry s i) 125 = true)) ∧
    (∃ (s : State) (q : _) (l : List LearnReq) (i : _), Alone s ∧ s.fdb.learnQueue = q :: l ∧ writerFree s = true ∧
      s.fdb.replayQueue = [] ∧ i < fdbSize ∧ fdbFind s (fdbKey q.fid q.mac.toNat) = [i] ∧ fld (fdbEntry s i) 88 82 ≠ q.port ∧
      flag (fdbEntry s i) 126 = false ∧ flag (fdbEntry s i) 125 = false ∧ segLocked s (fdbSeg s i) = false ∧
      atLimit s q.port = true) ∧
    (∃ (s : State) (src : _) (dst : _) (l : List (Nat × Nat)), Alone s ∧ s.fdb.chain = (src, dst) :: l ∧ dst < fdbSize) ∧
    (∃ (s : State) (j : _) (x : _) (rot : _) (walk : _) (moved : _), j < 64 ∧ writerFree s = true ∧
      s.fdb.replayQueue = [] ∧ s.fdb.learnQueue = [] ∧
      (((List.range 64).filter fun j => (fdbKeyAt s (fdbSize + j)).isSome).find? fun j => decide (s.fdb.stashNext ≤ j)) = some j ∧
      segLocked s (fdbSeg s (fdbSize + j)) = false ∧
      placeMain 4 (fdbFirst s) (fdbKeyAt s) (fun x => segLocked s (fdbSeg s x)) s.fdb.rot s.fdb.walk (entryKey (fdbEntry s (fdbSize + j))) = (some (.slot x),
      rot, walk, moved)) ∧
    (∃ (s : State) (q : _) (i : _), writerFree s = true ∧ s.fdb.replayQueue = [q] ∧
      fdbFind s (fdbKey q.fid q.mac.toNat) = [i] ∧ fld (fdbEntry s i) 88 82 = q.port) :=
  ⟨⟨({ base with fdb := { base.fdb with learnQueue := [learn5 3] } }), (learn5 3), (([] : List LearnReq)), slot5, 0, 0,
    by decide +kernel⟩,
   ⟨({ stored slot5 (sta 3 7) with fdb := { (stored slot5 (sta 3 7)).fdb with learnQueue := [learn5 3], tick := 9 } }),
     (learn5 3), (([] : List LearnReq)), slot5, by decide +kernel⟩,
   ⟨({ stored slot5 (sta 95 7) with fdb := { (stored slot5 (sta 95 7)).fdb with learnQueue := [learn5 3], tick := 9 } }),
     (learn5 3), (([] : List LearnReq)), slot5, by decide +kernel⟩,
   ⟨({ stored slot5 (setFld (sta 95 7) 126 126 1) with fdb := { (stored slot5 (setFld (sta 95 7) 126 126 1)).fdb with learnQueue := [learn5 3], tick := 9 } }),
     (learn5 3), (([] : List LearnReq)), slot5, by decide +kernel⟩,
   ⟨({ putWord (stored slot5 (sta 95 7)) Reg.pipeLearnLimit [0, 3] 0 with fdb := { (stored slot5 (sta 95 7)).fdb with learnQueue := [learn5 3], tick := 9 } }),
     (learn5 3), (([] : List LearnReq)), slot5, by decide +kernel⟩,
   ⟨({ stored slot5 (sta 3 7) with fdb := { (stored slot5 (sta 3 7)).fdb with chain := [(slot5, 131071)] } }), slot5,
     131071, (([] : List (Nat × Nat))), by decide +kernel⟩,
   ⟨(stored (fdbSize + 63) (setFld (sta 3 7) 65 60 12)), 63, slot5, 0, 0, false, by decide +kernel⟩,
   ⟨({ stored slot5 (sta 3 7) with fdb := { (stored slot5 (sta 3 7)).fdb with replayQueue := [learn5 3], tick := 9 } }),
     (learn5 3), slot5, by decide +kernel⟩⟩

theorem witness_StationsAgeAndFlush :
    (∃ (s : State) (el : _) (now : _), nextAge now ≤ now.time.dt ∧ now = advance el s) ∧
    (∃ (s : State) (el : _) (now : _), now.time.dt < nextAge now ∧ now = advance el s) ∧
    (∃ (s : State) (k : _) (ts : _) (l : List (Nat × Nat)) (i : _), Alone s ∧ s.fdb.ageQueue = (k, ts) :: l ∧
      deletesMay s = true ∧ s.fdb.flushes = [] ∧ fdbFind s k = [i] ∧ segLocked s (fdbSeg s i) = false ∧
      flag (fdbEntry s i) 126 = false ∧ fld (fdbEntry s i) 111 96 = ts) ∧
    (∃ (s : State) (k : _) (ts : _) (l : List (Nat × Nat)) (i : _), s.fdb.ageQueue = (k, ts) :: l ∧ deletesMay s = true ∧
      fdbFind s k = [i] ∧ segLocked s (fdbSeg s i) = false ∧ flag (fdbEntry s i) 126 = false ∧
      fld (fdbEntry s i) 111 96 ≠ ts) ∧
    (∃ (s : State) (req : Requester) (data : Word) (f : Flush), Reaches s req (Reg.fdbFlush.addr []) ∧ Alone s ∧
      flag data 31 = true ∧ flushBusy s = false ∧ f = (⟨flag data 29, flag data 28, flag data 27, fld data 26 20,
      fld data 19 8, true, []⟩ : Flush) ∧ ((fdbValid s).filter fun x => flushMatches f x.2) ≠ []) ∧
    (∃ (s : State) (i : _) (k : _) (f : Flush), Alone s ∧ fdbKeyAt s i = some k ∧ fdbFind s k = [i] ∧ deletesMay s = true ∧
      f ∈ s.fdb.flushes ∧ k ∈ f.todo ∧ flushMatches f (fdbEntry s i) = true ∧ segLocked s (fdbSeg s i) = false) :=
  ⟨⟨base, 1000000000, ((advance 1000000000 base)), by decide +kernel, rfl⟩,
   ⟨base, 1, ((advance 1 base)), by decide +kernel, rfl⟩,
   ⟨({ stored slot5 (sta 3 7) with fdb := { (stored slot5 (sta 3 7)).fdb with ageQueue := [(key5, 7)] } }), key5, 7,
     (([] : List (Nat × Nat))), slot5, by decide +kernel⟩,
   ⟨({ stored slot5 (sta 3 8) with fdb := { (stored slot5 (sta 3 8)).fdb with ageQueue := [(key5, 7)] } }), key5, 7,
     (([] : List (Nat × Nat))), slot5, by decide +kernel⟩,
   ⟨(stored slot5 (sta 3 8)), .host, 0x80000000, ((⟨false, false, false, 0, 0, true, []⟩ : Flush)), by decide +kernel⟩,
   ⟨({ stored slot5 (sta 3 8) with fdb := { (stored slot5 (sta 3 8)).fdb with flushes := [⟨false, false, false, 0, 0, true, [key5]⟩] } }),
     slot5, key5, ((⟨false, false, false, 0, 0, true, [key5]⟩ : Flush)), by decide +kernel⟩⟩

theorem witness_SegmentsLock :
    (∃ (s : State) (req : Requester) (mc : _) (w : Fin 2) (data : Word), Reaches s req ((lockReg mc).addr [w]) ∧
      isMc req = mc ∧ word s (lockReg mc) [w] &&& ~~~data = 0) ∧
    (∃ (s : State) (req : Requester) (mc : _) (w : Fin 2) (data : Word), Reaches s req ((lockReg mc).addr [w]) ∧
      isMc req = mc ∧ word s (lockReg mc) [w] &&& ~~~data ≠ 0) ∧
    (∃ (s : State) (mc : _) (g : Fin 64), flag (stagedWord s (lockReg mc) [g / 32]) (g % 32) = true ∧
      segLocked s g = false ∧ segBusy s g = false) ∧
    (∃ (s : State) (mc : _) (g : Fin 64), segHeld s mc g = true ∧
      get 0 s.fdb.lockAt (g + 64 * bnat mc) + lockTicks ≤ s.time.dt) ∧
    (∃ (s : State) (req : Requester) (b : Fin 4), Reaches s req (Reg.fdbHashSeed.addr [b]) ∧ Alone s ∧ fdbValid s = []) ∧
    (∃ (s : State) (req : Requester) (b : Fin 4), Reaches s req (Reg.fdbHashSeed.addr [b]) ∧ fdbValid s ≠ []) :=
  ⟨⟨base, .host, false, (1 : Fin 2), 0x80000000, by decide +kernel⟩,
   ⟨({ putWord base Reg.fdbLockMc [0] 3 with fdb := { base.fdb with deferQueue := [learn5 3] } }), (.mc 1), true,
     (0 : Fin 2), 2, by decide +kernel⟩,
   ⟨(putStaged base Reg.fdbLockHost [1] 0x80000000), false, (63 : Fin 64), by decide +kernel⟩,
   ⟨(advance 8000000 (putWord base Reg.fdbLockHost [1] 0x80000000)), false, (63 : Fin 64), by decide +kernel⟩,
   ⟨base, .host, (3 : Fin 4), by decide +kernel⟩,
   ⟨(stored slot5 (sta 3 8)), .host, (0 : Fin 4), by decide +kernel⟩⟩

theorem witness_TableCommandsAct :
    (∃ (s : State) (req : Requester) (i : _) (l : List Nat), Reaches s req (Reg.fdbCmdCtrl.addr []) ∧ Alone s ∧
      fdbFind s (cmdKey s) = i :: l) ∧
    (∃ (s : State) (req : Requester), Reaches s req (Reg.fdbCmdCtrl.addr []) ∧ Alone s ∧ fdbFind s (cmdKey s) = []) ∧
    (∃ (s : State) (req : Requester) (i : _) (rot : _) (walk : _), Reaches s req (Reg.fdbCmdCtrl.addr []) ∧ Alone s ∧
      s.fdb.tableWrites = [] ∧ noChain s = true ∧ fdbFind s (cmdKey s) = [] ∧ flag (cmdEntry s) 127 = true ∧
      fld (cmdEntry s) 113 112 = 0 ∧ fld (cmdEntry s) 88 82 ≤ 95 ∧ i < fdbSize ∧
      place 4 fdbSize 64 (fdbFirst s) (fdbKeyAt s) (fun i => segBarred s req (fdbSeg s i)) (segBarred s req (homeSeg s (cmdKey s))) s.fdb.rot s.fdb.walk (cmdKey s) = (.slot i,
      rot, walk)) ∧
    (∃ (s : State) (req : Requester) (i : _), Reaches s req (Reg.fdbCmdCtrl.addr []) ∧ Alone s ∧ s.fdb.tableWrites = [] ∧
      noChain s = true ∧ fdbFind s (cmdKey s) = [i] ∧ segBarred s req (fdbSeg s i) = false) ∧
    (∃ (s : State), Reaches s (.mc 1) (Reg.fdbMdbEdit.addr []) ∧ Alone s ∧ s.fdb.tableWrites = []) ∧
    (∃ (s : State), Reaches s (.mc 1) (Reg.fdbMdbEdit.addr []) ∧ Alone s ∧ s.fdb.tableWrites = []) ∧
    (∃ (s : State), Reaches s (.mc 1) (Reg.fdbMdbEdit.addr []) ∧ Alone s ∧ s.fdb.tableWrites = []) ∧
    (∃ (s : State) (i : _) (j : _) (g : _) (ws : List Word) (vs : List Word) (us : List Word) (r : _), Alone s ∧
      noChain s = true ∧ s.fdb.flushes = [] ∧ i < fdbSize ∧ j < fdbSize ∧ g < 16384 ∧ segBarred s r (fdbSeg s i) = false ∧
      s.fdb.tableWrites = [⟨0x2000000 + 16 * i, ws, r⟩, ⟨0x2000000 + 16 * j, vs, r⟩, ⟨0x2300000 + 32 * g, us, r⟩]) :=
  ⟨⟨(keyed (stored slot5 (sta 3 8))), .host, slot5, (([] : List Nat)), by decide +kernel⟩,
   ⟨(keyed base), .host, by decide +kernel⟩,
   ⟨(putWord (putWord (keyed base) Reg.fdbCmdData [3] 0x80000000) Reg.fdbCmdData [2] 0x017C0000), .host, slot5, 0, 0,
     by decide +kernel⟩,
   ⟨(keyed (stored slot5 (sta 3 8))), (.mc 0), slot5, by decide +kernel⟩,
   ⟨base, by decide +kernel⟩,
   ⟨base, by decide +kernel⟩,
   ⟨base, by decide +kernel⟩,
   ⟨({ base with fdb := { base.fdb with tableWrites := [⟨0x2000000 + 16 * slot5, [5, 0x10000, 0, 0x80000000], .host⟩, ⟨0x2000000 + 16 * 131071, [1, 0, 0, 0], .host⟩, ⟨0x2300000 + 32 * 16383, [1, 0, 0, 0, 0, 0, 0, 0x80000000], .host⟩] } }),
     slot5, 131071, 16383, (([5, 0x10000, 0, 0x80000000] : List Word)), (([1, 0, 0, 0] : List Word)), (([1, 0, 0, 0, 0, 0, 0,
     0x80000000] : List Word)), .host, by decide +kernel⟩⟩

theorem witness_StreamTableCommandsAct :
    (∃ (s : State) (req : Requester) (i : _) (l : List Nat), Reaches s req (Reg.strmCmdCtrl.addr []) ∧ Alone s ∧
      sidFind s (sidKey (sidData s)) = i :: l) ∧
    (∃ (s : State) (req : Requester), Reaches s req (Reg.strmCmdCtrl.addr []) ∧ Alone s ∧
      sidFind s (sidKey (sidData s)) = []) ∧
    (∃ (s : State) (req : Requester) (i : _) (rot : _) (walk : _), Reaches s req (Reg.strmCmdCtrl.addr []) ∧ Alone s ∧
      flag (sidData s) 511 = true ∧ sidFind s (sidKey (sidData s)) = [] ∧
      place 2 sidSize 32 (sidFirst s) (sidKeyAt s) (fun _ => false) false s.strm.rot s.strm.walk (sidKey (sidData s)) = (.slot i,
      rot, walk)) ∧
    (∃ (s : State) (req : Requester) (i : _), Reaches s req (Reg.strmCmdCtrl.addr []) ∧ Alone s ∧
      flag (sidData s) 511 = true ∧ sidFind s (sidKey (sidData s)) = [i]) ∧
    (∃ (s : State) (req : Requester), Reaches s req (Reg.strmCmdCtrl.addr []) ∧ Alone s ∧ flag (sidData s) 511 = false) ∧
    (∃ (s : State) (req : Requester) (i : _), Reaches s req (Reg.strmCmdCtrl.addr []) ∧ Alone s ∧
      sidFind s (sidKey (sidData s)) = [i]) ∧
    (∃ (s : State) (req : Requester), Reaches s req (Reg.strmCmdCtrl.addr []) ∧ Alone s ∧
      sidFind s (sidKey (sidData s)) = []) :=
  ⟨⟨(sidHeld 65567), .host, 65567, (([] : List Nat)), by decide +kernel⟩,
   ⟨(sidIn base), .host, by decide +kernel⟩,
   ⟨(sidIn base), .host, sid5, 0, 0, by decide +kernel⟩,
   ⟨(sidHeld sid5), (.mc 3), sid5, by decide +kernel⟩,
   ⟨base, .host, by decide +kernel⟩,
   ⟨(sidHeld sid5), .host, sid5, by decide +kernel⟩,
   ⟨(sidIn base), .host, by decide +kernel⟩⟩

theorem witness_StreamContextsChange :
    (∃ (s : State) (req : Requester) (h : BitVec 16) (cfg : _) (c : _), Reaches s req (0x3000020 + h.toNat * 64) ∧
      Alone s ∧
      c = (if fld (cfg &&& contextMask) 207 194 = 0 then cfg &&& contextMask else setFld (cfg &&& contextMask) 207 194 (held 64 10240 (fld (cfg &&& contextMask) 207 194))) ∧
      contextRefusal s h.toNat c = 0) ∧
    (∃ (s : State) (req : Requester) (h : BitVec 16) (cfg : _) (c : _), Reaches s req (0x3000020 + h.toNat * 64) ∧
      Alone s ∧
      c = (if fld (cfg &&& contextMask) 207 194 = 0 then cfg &&& contextMask else setFld (cfg &&& contextMask) 207 194 (held 64 10240 (fld (cfg &&& contextMask) 207 194))) ∧
      contextRefusal s h.toNat c ≠ 0) ∧
    (∃ (s : State), Reaches s .host (Reg.strmCtxCmd.addr []) ∧ Alone s) ∧
    (∃ (s : State), Reaches s .host (Reg.strmCtxCmd.addr []) ∧ Alone s) ∧
    (∃ (s : State), Reaches s .host (Reg.strmCtxCmd.addr []) ∧ Alone s) ∧
    (∃ (s : State), Reaches s .host (Reg.strmCtxCmd.addr []) ∧ Alone s) ∧
    (∃ (s : State) (h : BitVec 16), (streamState s h.toNat).timerEnd.any (fun e => decide (e ≤ s.time.dt)) = true) ∧
    (∃ (s : State) (el : _) (now : _), latentEnd now ≤ now.time.dt ∧ now = advance el s) ∧
    (∃ (s : State) (el : _) (now : _), now.time.dt < latentEnd now ∧ now = advance el s) ∧
    (∃ (s : State) (el : _) (h : _) (x : _) (now : _), (latentEnd now ≤ now.time.dt ∧ now.strm.state = [(h, x)] ∧
      flag (streamCfg now h) 120 = true ∧
      rd now Reg.strmLatent [] 15 0 < ((x.passed * fld (streamCfg now h) 119 118 : Nat) - (x.discarded : Int)).natAbs) ∧
      now = advance el s) ∧
    (∃ (s : State) (p : Fin 12) (mac : BitVec 48) (x : Node), nodeOf s p mac = some x ∧
      x.lastAt + rd s Reg.strmNode [] 15 0 * 800000 ≤ s.time.dt) :=
  ⟨⟨base, .host, (0xFFFF : BitVec 16), (BitVec.ofNat 256 (2 ^ 255 + 2 ^ 194 + 2 ^ 150 + 2 ^ 148 + 4 * 2 ^ 140 + 2 ^ 124)),
    (((if fld ((BitVec.ofNat 256 (2 ^ 255 + 2 ^ 194 + 2 ^ 150 + 2 ^ 148 + 4 * 2 ^ 140 + 2 ^ 124)) &&& contextMask) 207 194 = 0 then (BitVec.ofNat 256 (2 ^ 255 + 2 ^ 194 + 2 ^ 150 + 2 ^ 148 + 4 * 2 ^ 140 + 2 ^ 124)) &&& contextMask else setFld ((BitVec.ofNat 256 (2 ^ 255 + 2 ^ 194 + 2 ^ 150 + 2 ^ 148 + 4 * 2 ^ 140 + 2 ^ 124)) &&& contextMask) 207 194 (held 64 10240 (fld ((BitVec.ofNat 256 (2 ^ 255 + 2 ^ 194 + 2 ^ 150 + 2 ^ 148 + 4 * 2 ^ 140 + 2 ^ 124)) &&& contextMask) 207 194))))),
    by decide +kernel⟩,
   ⟨base, .host, (0 : BitVec 16), (BitVec.ofNat 256 (2 ^ 255 + 2 ^ 254)),
     (((if fld ((BitVec.ofNat 256 (2 ^ 255 + 2 ^ 254)) &&& contextMask) 207 194 = 0 then (BitVec.ofNat 256 (2 ^ 255 + 2 ^ 254)) &&& contextMask else setFld ((BitVec.ofNat 256 (2 ^ 255 + 2 ^ 254)) &&& contextMask) 207 194 (held 64 10240 (fld ((BitVec.ofNat 256 (2 ^ 255 + 2 ^ 254)) &&& contextMask) 207 194))))),
     by decide +kernel⟩,
   ⟨base, by decide +kernel⟩,
   ⟨base, by decide +kernel⟩,
   ⟨base, by decide +kernel⟩,
   ⟨base, by decide +kernel⟩,
   ⟨(advance 9 (putStreamState base 0xFFFF { StreamState.idle with timerEnd := some 5 })), (0xFFFF : BitVec 16),
     by decide +kernel⟩,
   ⟨base, 80000000000, ((advance 80000000000 base)), by decide +kernel, rfl⟩,
   ⟨base, 1, ((advance 1 base)), by decide +kernel, rfl⟩,
   ⟨({ base with strm := { base.strm with state := [(9, ({ StreamState.idle with passed := 65536 }))], config := [(9, BitVec.ofNat 256 (2 ^ 255 + 2 ^ 120 + 2 ^ 118))] } }),
     80000000000, 9, ({ StreamState.idle with passed := 65536 }),
     ((advance 80000000000 ({ base with strm := { base.strm with state := [(9, ({ StreamState.idle with passed := 65536 }))], config := [(9, BitVec.ofNat 256 (2 ^ 255 + 2 ^ 120 + 2 ^ 118))] } }))),
     by decide +kernel, rfl⟩,
   ⟨(advance 800000000 (putNode base ((⟨11, 5, [[], [], [7]], 0⟩ : Node)))), (11 : Fin 12), ((5 : BitVec 48)), ((⟨11, 5,
     [[], [], [7]], 0⟩ : Node)), by decide +kernel⟩⟩

theorem witness_RecoveryPassesOnce :
    (∃ (s : State) (h : _), (streamState s h).takeAny = true) ∧
    (∃ (s : State) (h : _) (cfg : BitVec 256), flag cfg 147 = true ∧ (streamState s h).takeAny = false) ∧
    (∃ (s : State) (h : _) (cfg : BitVec 256) (n : _), flag cfg 147 = false ∧ fld cfg 146 140 ≠ 0 ∧
      (recover s h cfg n).2 = true) ∧
    (∃ (s : State) (h : _) (cfg : BitVec 256) (n : _), flag cfg 147 = false ∧ (streamState s h).takeAny = false ∧
      (min 64 (fld cfg 146 140) : Nat) ≤ (n - (streamState s h).recSeq).toInt.natAbs) ∧
    (∃ (cfg : BitVec 256), flag cfg 121 = false) ∧
    (∃ (cfg : BitVec 256), flag cfg 121 = true) ∧
    (∃ (s : State) (q : Fin 12), forwards s = true ∧ pairOn s q = true ∧ coreDown s 1 = false) :=
  ⟨⟨base, 5, by decide +kernel⟩,
   ⟨(putStreamState base 5 { StreamState.idle with takeAny := false }), 5, ((BitVec.ofNat 256 (2 ^ 147) : BitVec 256)),
     by decide +kernel⟩,
   ⟨base, 5, ((BitVec.ofNat 256 (4 * 2 ^ 140) : BitVec 256)), 7, by decide +kernel⟩,
   ⟨(putStreamState base 5 { StreamState.idle with takeAny := false }), 5, ((BitVec.ofNat 256 (4 * 2 ^ 140) : BitVec 256)),
     4, by decide +kernel⟩,
   ⟨((0 : BitVec 256)), by decide +kernel⟩,
   ⟨((BitVec.ofNat 256 (2 ^ 121) : BitVec 256)), by decide +kernel⟩,
   ⟨({ reg Reg.strmPrpPair [7] 0x80000000 base with power := { base.power with coresDown := 0 } }), (11 : Fin 12),
     by decide +kernel⟩⟩

theorem witness_QueuesAreConfigured :
    (∃ (s : State) (req : Requester) (q : BitVec 18) (cfg : _), Reaches s req (0x1000020 + q.toNat * 64) ∧ Alone s ∧
      descriptorRefusal s q.toNat cfg = 0) ∧
    (∃ (s : State) (req : Requester) (q : BitVec 18) (cfg : _), Reaches s req (0x1000020 + q.toNat * 64) ∧ Alone s ∧
      descriptorRefusal s q.toNat cfg ≠ 0) ∧
    (∃ (s : State) (q : BitVec 18) (cfg : _) (k : _), k < 64 ∧ find s.sched.configWait q.toNat = some cfg) ∧
    (∃ (s : State), Reaches s .host (Reg.schedQCmd.addr []) ∧ Alone s) ∧
    (∃ (s : State), Reaches s .host (Reg.schedQCmd.addr []) ∧ Alone s) ∧
    (∃ (s : State) (p : Fin 96), Reaches s .host (Reg.schedQCmd.addr []) ∧ Alone s ∧ (portSched s p).credit.length = 8) ∧
    (∃ (s : State) (req : Requester) (d : Fin 128), Reaches s req (Reg.schedVoqRoute.addr [d]) ∧ Alone s ∧
      d.val ≠ ownDevice s) ∧
    (∃ (s : State) (req : Requester) (d : Fin 128), Reaches s req (Reg.schedVoqRoute.addr [d]) ∧ d.val = ownDevice s) ∧
    (∃ (s : State) (d : Fin 128) (p : Fin 96) (c : Fin 8) (w : _), find s.sched.xoff (voqOf s d p c) = some w ∧
      w + rd s Reg.schedVoqCfg [] 15 0 * 800 ≤ s.time.dt) ∧
    (∃ (s : State) (d : Fin 128) (p : Fin 96) (c : Fin 8) (w : _), find s.sched.xoff (voqOf s d p c) = some w ∧
      s.time.dt < w + rd s Reg.schedVoqCfg [] 15 0 * 800) :=
  ⟨⟨base, .host, (2100 : BitVec 18), (BitVec.ofNat 256 (0x7F * 2 ^ 249)), by decide +kernel⟩,
   ⟨base, .host, (101375 : BitVec 18), (BitVec.ofNat 256 (96 * 2 ^ 249)), by decide +kernel⟩,
   ⟨({ base with sched := { base.sched with configWait := [(101375, BitVec.ofNat 256 (2 ^ 245 + 2 ^ 249))] } }),
     (101375 : BitVec 18), (BitVec.ofNat 256 (2 ^ 245 + 2 ^ 249)), 63, by decide +kernel⟩,
   ⟨(putQueue base 5 { Queue.empty with maxCells := 7, balance := -5 }), by decide +kernel⟩,
   ⟨(putQueue base 5 { Queue.empty with maxCells := 7, balance := -5 }), by decide +kernel⟩,
   ⟨(putPortSched base 95 { PortSched.idle with credit := [0, 0, 0, 0, 0, 0, 0, -9] }), (95 : Fin 96), by decide +kernel⟩,
   ⟨base, .host, (127 : Fin 128), by decide +kernel⟩,
   ⟨(putWord base Reg.izlHierStat [] 3), .host, (3 : Fin 128), by decide +kernel⟩,
   ⟨(advance 1000000 { base with sched := { base.sched with xoff := [(voqOf base 127 95 7, 5)] } }), (127 : Fin 128),
     (95 : Fin 96), (7 : Fin 8), 5, by decide +kernel⟩,
   ⟨({ base with sched := { base.sched with xoff := [(voqOf base 127 95 7, 5)] } }), (127 : Fin 128), (95 : Fin 96),
     (7 : Fin 8), 5, by decide +kernel⟩⟩

theorem witness_GateListsRun :
    (∃ (s : State) (req : Requester) (p : Fin 80) (i : Fin 1024), Reaches s req (0x5100000 + p * 0x2000 + i * 8) ∧ Alone s) ∧
    (∃ (s : State) (req : Requester) (p : Fin 80) (el : _) (g : _) (now : _),
      (Reaches now req (Reg.schedGateCfg.addr [p]) ∧ Alone now ∧ gateRunning now p = false ∧ stagedGate now p = g) ∧
      now = advance el s) ∧
    (∃ (s : State) (req : Requester) (p : Fin 80) (el : _) (now : _), (Reaches now req (Reg.schedGateCfg.addr [p]) ∧
      Alone now ∧ gateRunning now p = true) ∧ now = advance el s) ∧
    (∃ (s : State) (p : Fin 80) (el : _) (g : GateParams) (now : _), (Alone now ∧ (gate now p).pending = some g ∧
      g.en = true ∧ (gate now p).cycleEnd ≤ tbNs now (gateTb now p) ∧ (port now p).lpiSince = none) ∧ now = advance el s) ∧
    (∃ (s : State) (p : Fin 80) (el : _) (g : GateParams) (now : _), (Alone now ∧ (gate now p).pending = some g ∧
      g.en = false ∧ (gate now p).cycleEnd ≤ tbNs now (gateTb now p)) ∧ now = advance el s) ∧
    (∃ (s : State) (p : Fin 80) (el : _) (now : _), ((gate now p).pending = none ∧ gateRunning now p = true ∧
      (gate now p).cycleEnd ≤ tbNs now (gate now p).inForce.tb ∧
      tbNs now (gate now p).inForce.tb < (gate now p).cycleEnd + (gate now p).inForce.cycle ∧ (port now p).lpiSince = none) ∧
      now = advance el s) ∧
    (∃ (s : State) (p : Fin 80) (el : _) (now : _), cycleDue now p = false ∧ now = advance el s) ∧
    (∃ (s : State) (p : Fin 80) (el : _) (now : _), entryDue now p = false ∧ now = advance el s) ∧
    (∃ (s : State) (p : Fin 80) (el : _) (now : _), (gateRunning now p = true ∧
      rdBit now Reg.schedGateStat [p] 29 = false ∧ rd now Reg.schedGateStat [p] 9 0 < (gate now p).inForce.last ∧
      (gate now p).inForce.last < 1024 ∧ (gate now p).entryEnd ≤ tbNs now (gate now p).inForce.tb ∧
      tbNs now (gate now p).inForce.tb < (gate now p).cycleEnd) ∧ now = advance el s) ∧
    (∃ (s : State) (p : _) (c : _), p < 80 ∧ gateRunning s p = true ∧ c < 8) ∧
    (∃ (s : State) (p : _) (c : _), gateOpen s p c = false) :=
  ⟨⟨base, .host, (79 : Fin 80), (1023 : Fin 1024), by decide +kernel⟩,
   ⟨(putStaged (putStaged base Reg.schedGateCfg [79] 0xC0FF0003) Reg.schedGateCycle [79] 1000), .host, (79 : Fin 80), 9,
     (stagedGate (putStaged (putStaged base Reg.schedGateCfg [79] 0xC0FF0003) Reg.schedGateCycle [79] 1000) 79),
     ((advance 9 (putStaged (putStaged base Reg.schedGateCfg [79] 0xC0FF0003) Reg.schedGateCycle [79] 1000))),
     by decide +kernel, rfl⟩,
   ⟨(putWord base Reg.schedGateStat [0] 0x80000000), (.mc 2), (0 : Fin 80), 9,
     ((advance 9 (putWord base Reg.schedGateStat [0] 0x80000000))), by decide +kernel, rfl⟩,
   ⟨(putGate base 0 { Gate.idle with pending := some ((⟨true, 1, 2, 1000, 300, [(0, 0x0100000200)]⟩ : GateParams)), cycleEnd := 5000 }),
     (0 : Fin 80), 4000, ((⟨true, 1, 2, 1000, 300, [(0, 0x0100000200)]⟩ : GateParams)),
     ((advance 4000 (putGate base 0 { Gate.idle with pending := some ((⟨true, 1, 2, 1000, 300, [(0, 0x0100000200)]⟩ : GateParams)), cycleEnd := 5000 }))),
     by decide +kernel, rfl⟩,
   ⟨(putGate (putWord base Reg.schedGateStat [0] 0x80000000) 0 { Gate.idle with pending := some ((⟨false, 1, 2, 1000, 300, [(0, 0x0100000200)]⟩ : GateParams)), cycleEnd := 5000 }),
     (0 : Fin 80), 4000, ((⟨false, 1, 2, 1000, 300, [(0, 0x0100000200)]⟩ : GateParams)),
     ((advance 4000 (putGate (putWord base Reg.schedGateStat [0] 0x80000000) 0 { Gate.idle with pending := some ((⟨false, 1, 2, 1000, 300, [(0, 0x0100000200)]⟩ : GateParams)), cycleEnd := 5000 }))),
     by decide +kernel, rfl⟩,
   ⟨(putGate (putWord base Reg.schedGateStat [0] 0x80000002) 0 { Gate.idle with inForce := ⟨true, 1, 2, 1000, 300, [(0, 0x0100000200)]⟩, cycleEnd := 5000 }),
     (0 : Fin 80), 4400,
     ((advance 4400 (putGate (putWord base Reg.schedGateStat [0] 0x80000002) 0 { Gate.idle with inForce := ⟨true, 1, 2, 1000, 300, [(0, 0x0100000200)]⟩, cycleEnd := 5000 }))),
     by decide +kernel, rfl⟩,
   ⟨base, (0 : Fin 80), 4, ((advance 4 base)), by decide +kernel, rfl⟩,
   ⟨base, (0 : Fin 80), 4, ((advance 4 base)), by decide +kernel, rfl⟩,
   ⟨(putGate (putWord base Reg.schedGateStat [0] 0x80000001) 0 { Gate.idle with inForce := ⟨true, 1, 2, 1000, 300, [(0, 0x0100000200)]⟩, cycleEnd := 5000, entryEnd := 4600 }),
     (0 : Fin 80), 3800,
     ((advance 3800 (putGate (putWord base Reg.schedGateStat [0] 0x80000001) 0 { Gate.idle with inForce := ⟨true, 1, 2, 1000, 300, [(0, 0x0100000200)]⟩, cycleEnd := 5000, entryEnd := 4600 }))),
     by decide +kernel, rfl⟩,
   ⟨(putWord base Reg.schedGateStat [79] 0x80000001), 79, 7, by decide +kernel⟩,
   ⟨(putGate (putWord base Reg.schedGateStat [79] 0x80000000) 79 { Gate.idle with inForce := ⟨true, 1, 2, 1000, 300, [(0, 0x7F00000200)]⟩, cycleEnd := 5000, entryEnd := 4600 }),
     79, 7, by decide +kernel⟩⟩

theorem witness_TimeBasesAreServoed :
    (∃ (s : State) (t : _) (theta : Int), t < 4 ∧ s.time.tbs.length = 4 ∧ tbState s t = 2 ∧ (tb s t).est = 0 ∧
      theta.natAbs ≤ unlockThresh s t) ∧
    (∃ (s : State) (t : _) (theta : Int), t < 4 ∧ s.time.tbs.length = 4 ∧ tbState s t = 1 ∧ stepThresh s t < theta.natAbs) ∧
    (∃ (s : State) (t : _), t < 4 ∧ s.time.tbs.length = 4 ∧ tbState s t = 0) ∧
    (∃ (s : State) (t : _) (theta : Int), t < 4 ∧ s.time.tbs.length = 4 ∧ tbState s t = 3 ∧ theta.natAbs ≤ lockThresh s t) ∧
    (∃ (s : State) (t : Fin 4) (el : _) (now : _), (Quiet now ∧ offline now = false ∧ followsTwin now t = false ∧
      tbSource now t ≠ 0) ∧ now = advance el s) ∧
    (∃ (s : State) (t : Fin 4) (el : _) (e : _) (now : _), (offline now = false ∧ followsTwin now t = false ∧
      tbSource now t ≠ 0 ∧ BitVec.ofNat 8 (tb now t).epoch ≠ e) ∧ now = advance el s) ∧
    (∃ (s : State) (t : Fin 4) (el : _) (now : _), (timeoutAt now t ≤ now.time.dt ∧ now.time.tbs.length = 4 ∧
      (tbState now t = 2 ∨ (tbState now t = 1 ∧ (tb now t).lockedSinceStep = true)) ∧
      (t.val = 0 → now.time.alignTb0 = true)) ∧ now = advance el s) ∧
    (∃ (s : State) (t : Fin 4) (el : _) (now : _), (timeoutAt now t ≤ now.time.dt ∧ tbState now t = 1 ∧
      (tb now t).lockedSinceStep = false) ∧ now = advance el s) ∧
    (∃ (s : State) (t : Fin 4) (el : _) (now : _), now.time.dt < timeoutAt now t ∧ now = advance el s) ∧
    (∃ (s : State) (t : Fin 4), Reaches s .host (Reg.timeTbCmd.addr [t])) ∧
    (∃ (s : State) (t : Fin 4), Reaches s .host (Reg.timeTbCmd.addr [t])) ∧
    (∃ (s : State) (t : Fin 4) (el : _) (now : _), (Reaches now .host (Reg.timeTbCmd.addr [t]) ∧ tbSource now t = 3) ∧
      now = advance el s) ∧
    (∃ (s : State) (t : Fin 4) (el : _) (now : _), (Reaches now .host (Reg.timeTbCmd.addr [t]) ∧ tbSource now t ≠ 3) ∧
      now = advance el s) ∧
    (∃ (s : State) (t : _) (x : TbCmd) (d : Int), t < 4 ∧ s.time.tbs.length = 4 ∧ find s.time.tbCmds t = some x ∧
      x.set = none ∧ x.adj = some d ∧ x.sw = none ∧ d.natAbs ≤ stepThresh s t) ∧
    (∃ (s : State) (t : _) (x : TbCmd) (d : Int), t < 4 ∧ s.time.tbs.length = 4 ∧ find s.time.tbCmds t = some x ∧
      x.set = none ∧ x.adj = some d ∧ x.sw = none ∧ stepThresh s t < d.natAbs) ∧
    (∃ (s : State) (t : _) (x : TbCmd) (v : Int), t < 4 ∧ s.time.tbs.length = 4 ∧ find s.time.tbCmds t = some x ∧
      x.set = some v ∧ x.adj = none ∧ x.sw = none) ∧
    (∃ (s : State) (t : _) (x : TbCmd) (v : Int) (d : Int), t < 4 ∧ s.time.tbs.length = 4 ∧ find s.time.tbCmds t = some x ∧
      x.set = some v ∧ x.adj = some d ∧ x.sw = none) ∧
    (∃ (s : State) (t : _) (x : TbCmd) (theta : Int) (u : _), (t < 4 ∧ s.time.tbs.length = 4 ∧
      find s.time.tbCmds t = some x ∧ x.set = none ∧ x.adj = none ∧ x.sw = some theta ∧ tbSource s t = 3 ∧
      followsTwin s t = false ∧ tbState s t = 2 ∧ (tb s t).est = 0 ∧ theta.natAbs ≤ unlockThresh s t) ∧ u = performTb s t) :=
  ⟨⟨(putTb (tb3 2) 3 { tb base 3 with lockedSinceStep := true, est := 0 }), 3, ((5 : Int)), by decide +kernel⟩,
   ⟨(tb3 1), 3, ((2 ^ 60 : Int)), by decide +kernel⟩,
   ⟨(tb3 0), 3, by decide +kernel⟩,
   ⟨(tb3 3), 3, ((1 : Int)), by decide +kernel⟩,
   ⟨(reg Reg.timeTbCfg [3] 0x10000000 (tb3 1)), (3 : Fin 4), 4, ((advance 4 (reg Reg.timeTbCfg [3] 0x10000000 (tb3 1)))),
     by decide +kernel, rfl⟩,
   ⟨(reg Reg.timeTbCfg [3] 0x10000000 (tb3 1)), (3 : Fin 4), 4, 1,
     ((advance 4 (reg Reg.timeTbCfg [3] 0x10000000 (tb3 1)))), by decide +kernel, rfl⟩,
   ⟨({ putWord base Reg.timeTbStat [0] 0x80000000 with time := { base.time with alignTb0 := true } }), (0 : Fin 4),
     80000000000,
     ((advance 80000000000 ({ putWord base Reg.timeTbStat [0] 0x80000000 with time := { base.time with alignTb0 := true } }))),
     by decide +kernel, rfl⟩,
   ⟨(tb3 1), (3 : Fin 4), 80000000000, ((advance 80000000000 (tb3 1))), by decide +kernel, rfl⟩,
   ⟨(tb3 2), (3 : Fin 4), 4, ((advance 4 (tb3 2))), by decide +kernel, rfl⟩,
   ⟨(reg Reg.timeTbAdj [3] 0xFFFFFFFF (tb3 2)), (3 : Fin 4), by decide +kernel⟩,
   ⟨(reg Reg.timeTbSetNs [3] 0x3FFFFFFF (tb3 2)), (3 : Fin 4), by decide +kernel⟩,
   ⟨(reg Reg.timeTbCfg [3] 0x30000000 (tb3 2)), (3 : Fin 4), 4, ((advance 4 (reg Reg.timeTbCfg [3] 0x30000000 (tb3 2)))),
     by decide +kernel, rfl⟩,
   ⟨(tb3 2), (3 : Fin 4), 4, ((advance 4 (tb3 2))), by decide +kernel, rfl⟩,
   ⟨({ tb3 2 with time := { (tb3 2).time with tbCmds := [(3, ((⟨none, some 65536, none⟩ : TbCmd)))] } }), 3, ((⟨none,
     some 65536, none⟩ : TbCmd)), ((65536 : Int)), by decide +kernel⟩,
   ⟨({ tb3 2 with time := { (tb3 2).time with tbCmds := [(3, ((⟨none, some (2 ^ 60), none⟩ : TbCmd)))] } }), 3, ((⟨none,
     some (2 ^ 60), none⟩ : TbCmd)), ((2 ^ 60 : Int)), by decide +kernel⟩,
   ⟨({ tb3 2 with time := { (tb3 2).time with tbCmds := [(3, ((⟨some 123456789, none, none⟩ : TbCmd)))] } }), 3,
     ((⟨some 123456789, none, none⟩ : TbCmd)), ((123456789 : Int)), by decide +kernel⟩,
   ⟨({ tb3 2 with time := { (tb3 2).time with tbCmds := [(3, ((⟨some 123456789, some (-65536), none⟩ : TbCmd)))] } }), 3,
     ((⟨some 123456789, some (-65536), none⟩ : TbCmd)), ((123456789 : Int)), ((-65536 : Int)), by decide +kernel⟩,
   ⟨({ putTb (reg Reg.timeTbCfg [3] 0x30000000 (tb3 2)) 3 { tb base 3 with lockedSinceStep := true, est := 0 } with time := { (putTb (reg Reg.timeTbCfg [3] 0x30000000 (tb3 2)) 3 { tb base 3 with lockedSinceStep := true, est := 0 }).time with tbCmds := [(3, ((⟨none, none, some 5⟩ : TbCmd)))] } }),
     3, ((⟨none, none, some 5⟩ : TbCmd)), ((5 : Int)),
     ((performTb ({ putTb (reg Reg.timeTbCfg [3] 0x30000000 (tb3 2)) 3 { tb base 3 with lockedSinceStep := true, est := 0 } with time := { (putTb (reg Reg.timeTbCfg [3] 0x30000000 (tb3 2)) 3 { tb base 3 with lockedSinceStep := true, est := 0 }).time with tbCmds := [(3, ((⟨none, none, some 5⟩ : TbCmd)))] } }) 3)),
     by decide +kernel, rfl⟩⟩

theorem witness_TimeIsSeenOutside :
    (∃ (s : State), Reaches s .host (Reg.timeCapture.addr [])) ∧
    (∃ (s : State), Quiet s ∧ offline s = false ∧ rdBit s Reg.timeRef [] 1 = true ∧ s.time.refLost = false) ∧
    (∃ (s : State), Quiet s ∧ offline s = false ∧ rdBit s Reg.timeRef [] 1 = true ∧ s.time.refLost = true) ∧
    (∃ (s : State) (k : Fin 2) (el : _) (f : _) (now : _), (Quiet now ∧ offline now = false ∧ now.time.ppsin.length = 2 ∧
      rdBit now Reg.timePpsinCfg [k] 31 = true ∧ rdBit now Reg.timePpsinCfg [k] 30 = f ∧ (ppsin now k).length < 16 ∧
      (∀ t < 4, tbSource now t ≠ 4 + k.val)) ∧ now = advance el s) ∧
    (∃ (s : State) (k : Fin 2) (el : _) (f : _) (now : _), (Quiet now ∧ offline now = false ∧
      rdBit now Reg.timePpsinCfg [k] 31 = true ∧ rdBit now Reg.timePpsinCfg [k] 30 = f ∧ 16 ≤ (ppsin now k).length ∧
      (∀ t < 4, tbSource now t ≠ 4 + k.val)) ∧ now = advance el s) ∧
    (∃ (s : State) (k : Fin 2), Reaches s .host (Reg.timePpsinPop.addr [k]) ∧ s.time.ppsin.length = 2) ∧
    (∃ (s : State) (t : Fin 4) (el : _) (now : _), (passesNow now t unitsPerSec = true ∧
      (tb now t).secondAt ≠ now.time.dt ∧ now.time.tbs.length = 4 ∧ now.time.wclk.length = 4) ∧ now = advance el s) ∧
    (∃ (s : State) (t : Fin 4) (el : _) (now : _), passesNow now t unitsPerSec = false ∧ now = advance el s) :=
  ⟨⟨(advance 4000000000 base), by decide +kernel⟩,
   ⟨(reg Reg.timeRef [] 0x80000002 base), by decide +kernel⟩,
   ⟨({ reg Reg.timeRef [] 2 base with time := { base.time with refLost := true } }), by decide +kernel⟩,
   ⟨(reg Reg.timePpsinCfg [1] 0xC000FFFF base), (1 : Fin 2), 9, true,
     ((advance 9 (reg Reg.timePpsinCfg [1] 0xC000FFFF base))), by decide +kernel, rfl⟩,
   ⟨({ reg Reg.timePpsinCfg [1] 0x80000000 base with time := { base.time with ppsin := [[], List.replicate 16 stampZero] } }),
     (1 : Fin 2), 9, false,
     ((advance 9 ({ reg Reg.timePpsinCfg [1] 0x80000000 base with time := { base.time with ppsin := [[], List.replicate 16 stampZero] } }))),
     by decide +kernel, rfl⟩,
   ⟨({ base with time := { base.time with ppsin := [[], List.replicate 16 stampZero] } }), (1 : Fin 2), by decide +kernel⟩,
   ⟨(reg Reg.timePpsoutCfg [0] 0x80000000 (reg Reg.timeWclkCfg [1] 0xC0000000 base)), (0 : Fin 4), 800000000,
     ((advance 800000000 (reg Reg.timePpsoutCfg [0] 0x80000000 (reg Reg.timeWclkCfg [1] 0xC0000000 base)))),
     by decide +kernel, rfl⟩,
   ⟨base, (0 : Fin 4), 5000, ((advance 5000 base)), by decide +kernel, rfl⟩⟩

theorem witness_PtpMessagesLeave :
    (∃ (s : State) (req : Requester) (p : Fin 80) (t : Fin 4) (cfg : _), Reaches s req (0x5800020 + (p * 4 + t) * 64) ∧
      Alone s ∧ ptpRefusal s p t cfg = 0) ∧
    (∃ (s : State) (req : Requester) (p : Fin 80) (t : Fin 4) (cfg : _), Reaches s req (0x5800020 + (p * 4 + t) * 64) ∧
      Alone s ∧ ptpRefusal s p t cfg ≠ 0) ∧
    (∃ (s : State) (p : Fin 80) (t : Fin 4) (el : _) (c : _) (cfg : _) (now : _), (p.val * 4 + t.val = c ∧
      ptpCfg now p t = cfg ∧ maySend now p t = true ∧ ptpRole cfg = 1 ∧
      passesNow now t (syncTicks cfg * (5 * 4096000000000)) = true ∧ (ptp now c).syncSentAt ≠ some now.time.dt ∧
      (flag cfg 248 = false ∨ relaying now t = false) ∧ portGroup now p = none ∧ LineFree now p ∧
      classHeld now p (fld cfg 202 200) = false) ∧ now = advance el s) ∧
    (∃ (s : State) (p : Fin 80) (t : Fin 4) (el : _) (c : _) (cfg : _) (seq : _) (sent : _) (now : _),
      (p.val * 4 + t.val = c ∧ ptpCfg now p t = cfg ∧ (ptp now c).followUp = some (seq, sent) ∧ (ptp now c).relay = none ∧
      maySend now p t = true ∧ dtFrac now ≤ sent.dt + fracPerMs ∧ portGroup now p = none ∧ LineFree now p ∧
      classHeld now p (fld cfg 202 200) = false) ∧ now = advance el s) ∧
    (∃ (s : State) (p : Fin 80) (t : Fin 4) (el : _) (c : _) (cfg : _) (now : _), (p.val * 4 + t.val = c ∧
      ptpCfg now p t = cfg ∧ (ptp now c).relay.isSome = true ∧ (ptp now c).syncSentAt = none ∧
      now.time.dt ≤ (ptp now c).relayAt + 8000000 ∧ flag cfg 248 = true ∧ ptpRole cfg = 1 ∧ maySend now p t = true ∧
      portGroup now p = none ∧ LineFree now p ∧ classHeld now p (fld cfg 202 200) = false) ∧ now = advance el s) ∧
    (∃ (s : State) (p : Fin 80) (t : Fin 4) (el : _) (c : _) (cfg : _) (now : _), (p.val * 4 + t.val = c ∧
      ptpCfg now p t = cfg ∧ get 0 now.time.ctx c = cfg ∧
      ((ptp now c).delayAt.any fun a => decide (a ≤ now.time.dt)) = true ∧ ptpRole cfg = 2 ∧ flag cfg 250 = false ∧
      maySend now p t = true ∧ portGroup now p = none ∧ LineFree now p ∧ classHeld now p (fld cfg 202 200) = false) ∧
      now = advance el s) ∧
    (∃ (s : State) (p : Fin 80) (t : Fin 4) (el : _) (c : _) (cfg : _) (now : _), (p.val * 4 + t.val = c ∧
      ptpCfg now p t = cfg ∧ ptpRole cfg ≠ 0 ∧ flag cfg 250 = true ∧ (∀ a,
      (ptp now c).pdelaySentAt = some a → a + delayTicks cfg ≤ now.time.dt) ∧ maySend now p t = true ∧
      portGroup now p = none ∧ LineFree now p ∧ classHeld now p (fld cfg 202 200) = false) ∧ now = advance el s) ∧
    (∃ (s : State) (p : _) (z : _) (c : _) (seq : _) (k : _) (udp : _) (two : _) (corr : _) (cls : _) (b : _) (u : _),
      (p < 80 ∧ offline s = false ∧ (port s p).ownNow = some z ∧ z.own = ⟨.ptp c 0 seq k udp two corr, cls, b⟩ ∧
      (port s p).backingOff = none ∧ lineEnd s p z.startedAt z.wire.length ≤ s.time.dt) ∧ u = (endOwn s p).1) ∧
    (∃ (s : State) (p : Fin 80) (t : Fin 4) (c : _) (h : _), p.val * 4 + t.val = c ∧ (ptp s c).waiting = some h ∧
      followUpLate s c h = true) :=
  ⟨⟨base, .host, (79 : Fin 80), (3 : Fin 4), (BitVec.ofNat 256 (2 ^ 255 + 2 ^ 253)), by decide +kernel⟩,
   ⟨base, .host, (0 : Fin 80), (0 : Fin 4), (BitVec.ofNat 256 (2 ^ 255 + 2 ^ 253 + 2 ^ 248)), by decide +kernel⟩,
   ⟨(ptp79 (2 ^ 255 + 2 ^ 253) PtpState.idle), (79 : Fin 80), (3 : Fin 4), 0, (((79 : Fin 80).val * 4 + (3 : Fin 4).val)),
     ((ptpCfg ((advance 0 (ptp79 (2 ^ 255 + 2 ^ 253) PtpState.idle))) (79 : Fin 80) (3 : Fin 4))),
     ((advance 0 (ptp79 (2 ^ 255 + 2 ^ 253) PtpState.idle))), by decide +kernel, rfl⟩,
   ⟨(ptp79 (2 ^ 255 + 2 ^ 253) { PtpState.idle with followUp := some (65535, stampZero) }), (79 : Fin 80), (3 : Fin 4), 2,
     (((79 : Fin 80).val * 4 + (3 : Fin 4).val)),
     ((ptpCfg ((advance 2 (ptp79 (2 ^ 255 + 2 ^ 253) { PtpState.idle with followUp := some (65535, stampZero) }))) (79 : Fin 80) (3 : Fin 4))),
     65535, stampZero, ((advance 2 (ptp79 (2 ^ 255 + 2 ^ 253) { PtpState.idle with followUp := some (65535, stampZero) }))),
     by decide +kernel, rfl⟩,
   ⟨(ptp79 (2 ^ 255 + 2 ^ 253 + 2 ^ 248 + 2 ^ 250) { PtpState.idle with relay := some ⟨1, stampZero, 0, 0⟩ }),
     (79 : Fin 80), (3 : Fin 4), 2, (((79 : Fin 80).val * 4 + (3 : Fin 4).val)),
     ((ptpCfg ((advance 2 (ptp79 (2 ^ 255 + 2 ^ 253 + 2 ^ 248 + 2 ^ 250) { PtpState.idle with relay := some ⟨1, stampZero, 0, 0⟩ }))) (79 : Fin 80) (3 : Fin 4))),
     ((advance 2 (ptp79 (2 ^ 255 + 2 ^ 253 + 2 ^ 248 + 2 ^ 250) { PtpState.idle with relay := some ⟨1, stampZero, 0, 0⟩ }))),
     by decide +kernel, rfl⟩,
   ⟨(ptp79 (2 ^ 255 + 2 ^ 254) { PtpState.idle with delayAt := some 1 }), (79 : Fin 80), (3 : Fin 4), 2,
     (((79 : Fin 80).val * 4 + (3 : Fin 4).val)),
     ((ptpCfg ((advance 2 (ptp79 (2 ^ 255 + 2 ^ 254) { PtpState.idle with delayAt := some 1 }))) (79 : Fin 80) (3 : Fin 4))),
     ((advance 2 (ptp79 (2 ^ 255 + 2 ^ 254) { PtpState.idle with delayAt := some 1 }))), by decide +kernel, rfl⟩,
   ⟨(ptp79 (2 ^ 255 + 2 ^ 254 + 2 ^ 250) PtpState.idle), (79 : Fin 80), (3 : Fin 4), 2,
     (((79 : Fin 80).val * 4 + (3 : Fin 4).val)),
     ((ptpCfg ((advance 2 (ptp79 (2 ^ 255 + 2 ^ 254 + 2 ^ 250) PtpState.idle))) (79 : Fin 80) (3 : Fin 4))),
     ((advance 2 (ptp79 (2 ^ 255 + 2 ^ 254 + 2 ^ 250) PtpState.idle))), by decide +kernel, rfl⟩,
   ⟨(advance 100000 (putPort (ptp79 (2 ^ 255 + 2 ^ 253) PtpState.idle) 79 { Port.idle with ownNow := some (⟨⟨.ptp 319 0 5 14 false true 0, 0, good⟩, good, 0, stampZero⟩) })),
     79, (⟨⟨.ptp 319 0 5 14 false true 0, 0, good⟩, good, 0, stampZero⟩), 319, 5, 14, false, true, 0, 0, good,
     (((endOwn (advance 100000 (putPort (ptp79 (2 ^ 255 + 2 ^ 253) PtpState.idle) 79 { Port.idle with ownNow := some (⟨⟨.ptp 319 0 5 14 false true 0, 0, good⟩, good, 0, stampZero⟩) })) 79).1)),
     by decide +kernel, rfl⟩,
   ⟨(advance 100000000000 (ptp79 (2 ^ 255 + 2 ^ 254) { PtpState.idle with waiting := some (⟨1, stampZero, 0, 0⟩) })),
     (79 : Fin 80), (3 : Fin 4), (((79 : Fin 80).val * 4 + (3 : Fin 4).val)), (⟨1, stampZero, 0, 0⟩), by decide +kernel⟩⟩

theorem witness_JobsFollowCommands :
    (∃ (s : State) (req : Requester) (j : Fin 1024) (x : _) (d : _) (e : _), Reaches s req (Reg.accJobCmd.addr []) ∧
      Alone s ∧ placeMode s 0 = 0 ∧ placeMode s 1 = 0 ∧ (job s j).state = 0 ∧ (job s j).pending = [] ∧
      (job s j).restart = none ∧ (s.acc.staged.part j).job j = x ∧ fld x 505 500 = e ∧
      { s.acc.staged.part j with jobs := set 0 (s.acc.staged.part j).jobs j (setFld x 505 500 e) } = d ∧
      partRefusal s j d e = none) ∧
    (∃ (s : State) (req : Requester) (j : Fin 1024), Reaches s req (Reg.accJobCmd.addr []) ∧ Alone s ∧
      (job s j).state ≠ 0 ∧ (job s j).pending = [] ∧ (job s j).restart = none) ∧
    (∃ (s : State) (req : Requester) (j : Fin 1024), Reaches s req (Reg.accJobCmd.addr []) ∧ Alone s ∧
      (job s j).state = 2 ∧ (job s j).pending = [] ∧ (job s j).restart = none ∧ (job s j).move = none ∧
      s.place.lineMoves = [] ∧ partRefusal s j (commitPart s j) (job s j).engine = none ∧
      structBad s (commitPart s j) j = false) ∧
    (∃ (s : State) (req : Requester) (j : Fin 1024), Reaches s req (Reg.accJobCmd.addr []) ∧ Alone s ∧
      (job s j).state = 2 ∧ (job s j).pending = [] ∧ (job s j).restart = none ∧ (job s j).move = none) ∧
    (∃ (s : State) (req : Requester) (j : Fin 1024), Reaches s req (Reg.accJobCmd.addr []) ∧ Alone s ∧
      (job s j).state = 1 ∧ (∀ c ∈ (job s j).pending, c.op = 0) ∧ (job s j).restart = none ∧ (job s j).move = none) ∧
    (∃ (s : State) (j : Fin 1024) (el : _) (c : JobCmd) (now : _), ((job now j).pending = [c] ∧ c.op = 0 ∧
      (job now j).state = 1 ∧ (job now j).restart = none ∧ stepped now j = false ∧
      reachedTime now (now.acc.inForce.job j) c.sample = true ∧ outsReached now j c.sample = true) ∧ now = advance el s) ∧
    (∃ (s : State) (j : Fin 1024) (el : _) (c : JobCmd) (now : _), ((job now j).pending = [c] ∧ c.op = 2 ∧
      (job now j).state = 3 ∧ (job now j).move = none ∧ (job now j).restart = none ∧ stepped now j = false ∧
      reachedTime now (now.acc.inForce.job j) c.sample = true ∧ outsReached now j c.sample = true) ∧ now = advance el s) ∧
    (∃ (s : State) (j : Fin 1024) (el : _) (c : JobCmd) (now : _), ((job now j).pending = [c] ∧ c.op = 1 ∧
      (job now j).state = 2 ∧ (job now j).restart = none ∧ stepped now j = false ∧
      reachedTime now (now.acc.inForce.job j) c.sample = true ∧ outsReached now j c.sample = true) ∧ now = advance el s) ∧
    (∃ (s : State) (j : Fin 1024) (apply : Nat) (el : Nat) (x : _) (now : _), (role now = 2 ∧ placeMode now 0 = 0 ∧
      placeMode now 1 = 0 ∧ (job now j).state = 0 ∧ (now.acc.staged.part j).job j = x ∧
      ¬ (apply * fracPerSec : Int) < tbFrac now (jobTb (now.acc.staged.job j)) * jobRate (now.acc.staged.job j)) ∧
      now = advance el s) ∧
    (∃ (s : State) (j : Fin 1024) (apply : Nat) (el : Nat) (now : _), (role now = 2 ∧ (job now j).state = 2 ∧
      (job now j).pending = [] ∧ (job now j).move = none ∧ now.place.lineMoves = [] ∧
      ¬ (apply * fracPerSec : Int) < tbFrac now (jobTb (now.acc.inForce.job j)) * jobRate (now.acc.inForce.job j)) ∧
      now = advance el s) ∧
    (∃ (s : State) (j : Fin 1024) (apply : Nat) (el : Nat) (now : _), (role now = 2 ∧ (job now j).state = 2 ∧
      (job now j).pending = [] ∧ (job now j).move = none ∧
      ¬ (apply * fracPerSec : Int) < tbFrac now (jobTb (now.acc.inForce.job j)) * jobRate (now.acc.inForce.job j)) ∧
      now = advance el s) :=
  ⟨⟨({ reg Reg.placeClassMode [] 0 base with acc := { base.acc with staged := { AccDesc.none with jobs := [(1023, jobX)] } } }),
    .host, (1023 : Fin 1024),
    (((({ reg Reg.placeClassMode [] 0 base with acc := { base.acc with staged := { AccDesc.none with jobs := [(1023, jobX)] } } }).acc.staged.part (1023 : Fin 1024)).job (1023 : Fin 1024))),
    (({ ({ reg Reg.placeClassMode [] 0 base with acc := { base.acc with staged := { AccDesc.none with jobs := [(1023, jobX)] } } }).acc.staged.part (1023 : Fin 1024) with jobs := set 0 (({ reg Reg.placeClassMode [] 0 base with acc := { base.acc with staged := { AccDesc.none with jobs := [(1023, jobX)] } } }).acc.staged.part (1023 : Fin 1024)).jobs (1023 : Fin 1024) (setFld (((({ reg Reg.placeClassMode [] 0 base with acc := { base.acc with staged := { AccDesc.none with jobs := [(1023, jobX)] } } }).acc.staged.part (1023 : Fin 1024)).job (1023 : Fin 1024))) 505 500 ((fld (((({ reg Reg.placeClassMode [] 0 base with acc := { base.acc with staged := { AccDesc.none with jobs := [(1023, jobX)] } } }).acc.staged.part (1023 : Fin 1024)).job (1023 : Fin 1024))) 505 500))) })),
    ((fld (((({ reg Reg.placeClassMode [] 0 base with acc := { base.acc with staged := { AccDesc.none with jobs := [(1023, jobX)] } } }).acc.staged.part (1023 : Fin 1024)).job (1023 : Fin 1024))) 505 500)),
    by decide +kernel⟩,
   ⟨(bare 0 2 []), (.mc 1), (1023 : Fin 1024), by decide +kernel⟩,
   ⟨(bare 0 2 []), .host, (1023 : Fin 1024), by decide +kernel⟩,
   ⟨(bare 0 2 []), .host, (1023 : Fin 1024), by decide +kernel⟩,
   ⟨(bare 0 1 [⟨0, 5, AccDesc.none⟩]), .host, (1023 : Fin 1024), by decide +kernel⟩,
   ⟨(bare 0 1 [((⟨0, 0, AccDesc.none⟩ : JobCmd))]), (1023 : Fin 1024), 1, ((⟨0, 0, AccDesc.none⟩ : JobCmd)),
     ((advance 1 (bare 0 1 [((⟨0, 0, AccDesc.none⟩ : JobCmd))]))), by decide +kernel, rfl⟩,
   ⟨(bare 0 3 [((⟨2, 0, AccDesc.none⟩ : JobCmd))]), (1023 : Fin 1024), 1, ((⟨2, 0, AccDesc.none⟩ : JobCmd)),
     ((advance 1 (bare 0 3 [((⟨2, 0, AccDesc.none⟩ : JobCmd))]))), by decide +kernel, rfl⟩,
   ⟨(bare 0 2 [((⟨1, 0, AccDesc.none⟩ : JobCmd))]), (1023 : Fin 1024), 1, ((⟨1, 0, AccDesc.none⟩ : JobCmd)),
     ((advance 1 (bare 0 2 [((⟨1, 0, AccDesc.none⟩ : JobCmd))]))), by decide +kernel, rfl⟩,
   ⟨({ reg Reg.placeClassMode [] 0 (bare 2 0 []) with acc := { base.acc with staged := { AccDesc.none with jobs := [(1023, jobX)] } } }),
     (1023 : Fin 1024), (48 * 2 ^ 30), (1 : Nat),
     (((((advance (1 : Nat) ({ reg Reg.placeClassMode [] 0 (bare 2 0 []) with acc := { base.acc with staged := { AccDesc.none with jobs := [(1023, jobX)] } } }))).acc.staged.part (1023 : Fin 1024)).job (1023 : Fin 1024))),
     ((advance (1 : Nat) ({ reg Reg.placeClassMode [] 0 (bare 2 0 []) with acc := { base.acc with staged := { AccDesc.none with jobs := [(1023, jobX)] } } }))),
     by decide +kernel, rfl⟩,
   ⟨(bare 2 2 []), (1023 : Fin 1024), (48 * 2 ^ 30), (1 : Nat), ((advance (1 : Nat) (bare 2 2 []))), by decide +kernel, rfl⟩,
   ⟨(bare 2 2 []), (1023 : Fin 1024), (48 * 2 ^ 30), (1 : Nat), ((advance (1 : Nat) (bare 2 2 []))), by decide +kernel, rfl⟩⟩

theorem witness_PacketsAreTakenAndMade :
    (∃ (s : State) (k : Fin 8) (c : _) (x : _) (h : _) (u : _), s.acc.inbox = [(k.val, c)] ∧ frame s c.frame = some x ∧
      x.stream = some h ∧ clusterSubs s k h = [u]) ∧
    (∃ (s : State) (b : _) (u : _) (j : _), subJob s u = some j ∧ (job s j).state ≠ 5 ∧ (∀ e ∈ jobEngines s j, e < 64) ∧
      readPacket (get 0 s.acc.inForce.subs u) (convRate (jobRate (s.acc.inForce.job j)) (fld (get 0 s.acc.inForce.subs u) 492 491)) b = none) ∧
    (∃ (s : State) (x : Frame) (b : _) (u : _) (j : _) (c : _) (fs : _) (ts : _) (o : _) (n : Nat), subJob s u = some j ∧
      (job s j).state ≠ 5 ∧ get 0 s.acc.inForce.subs u = c ∧ fld c 492 491 = 0 ∧ (∀ e ∈ jobEngines s j, e < 64) ∧
      jobRate (s.acc.inForce.job j) = fs ∧ readPacket c fs b = some (ts, o) ∧
      packetIndex c fs ts (x.stamp.tb.getD (jobTb (s.acc.inForce.job j)) 0) = (n : Nat) ∧ n ∉ (subRun s u).accepted ∧
      (n * fracPerSec : Int) + linkOffset (s.acc.inForce.job j) * fracPerUs * fs - 20000 * fracPerUs * fs ≤ x.stamp.tb.getD (jobTb (s.acc.inForce.job j)) 0 * fs ∧
      x.stamp.tb.getD (jobTb (s.acc.inForce.job j)) 0 * fs ≤ (n * fracPerSec : Int) + linkOffset (s.acc.inForce.job j) * fracPerUs * fs - 10 * fracPerUs * fs) ∧
    (∃ (s : State) (u : Fin 4096) (index : _) (el : _) (j : _) (now : _), (subJob now u = some j ∧
      index ∉ (subRun now u).accepted ∧ index ∉ (subRun now u).missed ∧
      index % subSamples (get 0 now.acc.inForce.subs u) (jobRate (now.acc.inForce.job j)) = 0 ∧
      flag (get 0 now.acc.inForce.subs u) 511 = true ∧
      ((index * fracPerSec + linkOffset (now.acc.inForce.job j) * fracPerUs * jobRate (now.acc.inForce.job j) : Nat) : Int) ≤ tbFrac now (jobTb (now.acc.inForce.job j)) * jobRate (now.acc.inForce.job j)) ∧
      now = advance el s) ∧
    (∃ (s : State) (o : Fin 2048) (el : _) (j : _) (x : _) (e : _) (m : _) (now : _),
      ((activeJobs now).find? (fun j => (jobPart now j).validOuts.any fun e => e.1 == o.val) = some j ∧
      (job now j).state = 2 ∧ (job now j).pending = [] ∧ (job now j).restart = none ∧ stepped now j = false ∧
      now.acc.inForce.job j = x ∧ get 0 now.acc.inForce.outs o = e ∧ flag e 1023 = true ∧ get 0 now.acc.outNext o = m ∧
      (computeTime e x m 0 : Int) ≤ tbFrac now (jobTb x) * convRate (jobRate x) (outConv e)) ∧ now = advance el s) ∧
    (∃ (s : State) (req : Requester) (e : Fin 64) (n : Fin 6), Reaches s req (Reg.accPerfSel.addr [e, n]) ∧ Alone s) ∧
    (∃ (s : State) (j : _) (u : _) (c : BitVec 512) (rate : _) (b : _) (o : _) (i : _) (e : BitVec 128) (g : _) (k : _) (v : _),
      ((jobPart s j).validInputs.filter fun e => fld e.2 126 115 == u) = [(i, e)] ∧ s.place.lineMoves = [] ∧
      fld c 492 491 = 0 ∧ fld e 107 101 = g ∧ packetSamples (fld c 490 489) rate ≤ g * 1024 ∧
      k < packetSamples (fld c 490 489) rate ∧
      readSample (fld c 494 493) b (o + k * ((fld c 488 482 + 1) * sampleBytes (fld c 494 493)) + fld e 114 108 * sampleBytes (fld c 494 493)) = v) ∧
    (∃ (fmt : _), fmt ≠ 3) :=
  ⟨⟨({ putFrame (running 2) 1 ({ frameOf 3 good with stream := some 9 }) with acc := { (running 2).acc with inbox := [(7, tagged1 0xC0)] } }),
    (7 : Fin 8), (tagged1 0xC0), ({ frameOf 3 good with stream := some 9 }), 9, 4095, by decide +kernel⟩,
   ⟨(running 2), good, 4095, 1023, by decide +kernel⟩,
   ⟨(running 2), ((frameOf 3 rtpIn : Frame)), rtpIn, 4095, 1023, ((get 0 (running 2).acc.inForce.subs 4095)),
     ((jobRate ((running 2).acc.inForce.job 1023))), 0, 54, ((0 : Nat)), by decide +kernel⟩,
   ⟨(running 2), (4095 : Fin 4096), 0, 1600000, 1023, ((advance 1600000 (running 2))), by decide +kernel, rfl⟩,
   ⟨(running 2), (2047 : Fin 2048), 1600000, 1023, ((((advance 1600000 (running 2))).acc.inForce.job 1023)),
     ((get 0 ((advance 1600000 (running 2))).acc.inForce.outs (2047 : Fin 2048))),
     ((get 0 ((advance 1600000 (running 2))).acc.outNext (2047 : Fin 2048))), ((advance 1600000 (running 2))),
     by decide +kernel, rfl⟩,
   ⟨base, .host, (63 : Fin 64), (5 : Fin 6), by decide +kernel⟩,
   ⟨(running 2), 1023, 4095, ((BitVec.ofNat 512 (2 ^ 511 + 9 * 2 ^ 495) : BitVec 512)), 48000, rtpIn, 54, 16383,
     ((BitVec.ofNat 128 (2 ^ 127 + 4095 * 2 ^ 115 + 2 ^ 101) : BitVec 128)),
     ((fld ((BitVec.ofNat 128 (2 ^ 127 + 4095 * 2 ^ 115 + 2 ^ 101) : BitVec 128)) 107 101)), 5,
     ((readSample (fld ((BitVec.ofNat 512 (2 ^ 511 + 9 * 2 ^ 495) : BitVec 512)) 494 493) rtpIn (54 + 5 * ((fld ((BitVec.ofNat 512 (2 ^ 511 + 9 * 2 ^ 495) : BitVec 512)) 488 482 + 1) * sampleBytes (fld ((BitVec.ofNat 512 (2 ^ 511 + 9 * 2 ^ 495) : BitVec 512)) 494 493)) + fld ((BitVec.ofNat 128 (2 ^ 127 + 4095 * 2 ^ 115 + 2 ^ 101) : BitVec 128)) 114 108 * sampleBytes (fld ((BitVec.ofNat 512 (2 ^ 511 + 9 * 2 ^ 495) : BitVec 512)) 494 493)))),
     by decide +kernel⟩,
   ⟨2, by decide +kernel⟩⟩

theorem witness_JobsMoveAndRecover :
    (∃ (s : State) (j : Fin 1024) (m : JobMove), (job s j).move = some m ∧ moveComputed s j m = true) ∧
    (∃ (s : State) (j : Fin 1024) (m : JobMove), (job s j).move = some m ∧ moveComputed s j m = true) ∧
    (∃ (s : State) (e : Fin 64) (j : _), jobsOn s e = [j] ∧ (job s j).engine = e.val ∧ (job s j).state ≠ 5 ∧
      (job s j).move = none) ∧
    (∃ (s : State) (j : Fin 1024) (e : Fin 64) (el : _) (b : _) (now : _), ((job now j).state = 5 ∧
      (job now j).restart = none ∧ mc2Up now = true ∧ faultEngineOf now j = some (e.val, b) ∧
      e.val / 8 = (job now j).engine / 8 ∧ (job now j).pending = []) ∧ now = advance el s) ∧
    (∃ (s : State) (j : Fin 1024) (el : _) (r : Nat) (now : _), ((job now j).state = 5 ∧ (job now j).restart = some r ∧
      (job now j).pending = [] ∧ reachedTime now (now.acc.inForce.job j) r = true) ∧ now = advance el s) ∧
    (∃ (s : State) (j : Fin 1024) (el : _) (now : _), ((job now j).state ≠ 0 ∧ stepped now j = true) ∧ now = advance el s) :=
  ⟨⟨(putJob base 1023 { Job.stopped with state := 4, engine := 1, move := some ((⟨63, 0, [], 5, 7⟩ : JobMove)) }),
    (1023 : Fin 1024), ((⟨63, 0, [], 5, 7⟩ : JobMove)), by decide +kernel⟩,
   ⟨(putJob base 1023 { Job.stopped with state := 2, engine := 1, move := some ((⟨0, 0, [], 5, 7⟩ : JobMove)) }),
     (1023 : Fin 1024), ((⟨0, 0, [], 5, 7⟩ : JobMove)), by decide +kernel⟩,
   ⟨(putJob base 1023 { Job.stopped with state := 2, engine := 63 }), (63 : Fin 64), 1023, by decide +kernel⟩,
   ⟨(putJob base 1023 { Job.stopped with state := 5, engine := 7 }), (1023 : Fin 1024), (0 : Fin 64), 1, false,
     ((advance 1 (putJob base 1023 { Job.stopped with state := 5, engine := 7 }))), by decide +kernel, rfl⟩,
   ⟨(putJob base 1023 { Job.stopped with state := 5, engine := 7, restart := some 0 }), (1023 : Fin 1024), 1, ((0 : Nat)),
     ((advance 1 (putJob base 1023 { Job.stopped with state := 5, engine := 7, restart := some 0 }))), by decide +kernel,
     rfl⟩,
   ⟨(putJob (running 2) 1023 { job (running 2) 1023 with steps := 1 }), (1023 : Fin 1024), 1,
     ((advance 1 (putJob (running 2) 1023 { job (running 2) 1023 with steps := 1 }))), by decide +kernel, rfl⟩⟩

theorem witness_PlacementDecides :
    (∃ (s : State) (i : Fin 16384) (el : _) (m : LineMove) (j : _) (now : _), (now.place.lineMoves = [m] ∧
      m.input = i.val ∧ m.switchAt = none ∧
      (activeJobs now).find? (fun j => inRange (inputRange (now.acc.inForce.job j)) i) = some j ∧
      reachedTime now (now.acc.inForce.job j) m.a0 = true) ∧ now = advance el s) ∧
    (∃ (s : State) (req : Requester) (q : _), Reaches s req (Reg.placeQCmd.addr []) ∧ Alone s ∧ placeMode s 2 ≠ 0 ∧
      mc2Up s = true ∧ freeQueue s 5 = some q) ∧
    (∃ (s : State) (req : Requester), Reaches s req (Reg.placeQCmd.addr []) ∧ Alone s ∧ placeMode s 2 = 0) ∧
    (∃ (s : State) (req : Requester), (Reaches s req (Reg.placeQCmd.addr []) ∧ Alone s ∧ placeMode s 2 ≠ 0 ∧
      mc2Up s = true) ∧ freeQueue s 5 = none) ∧
    (∃ (s : State), mc2Up s = true ∧ s.place.flashCopied ≠ (word s Reg.placeJnlCnt []).toNat) ∧
    (∃ (s : State), stageDone s 2 = true) :=
  ⟨⟨({ running 2 with place := { base.place with lineMoves := [((⟨16383, 5, 0, none⟩ : LineMove))] } }),
    (16383 : Fin 16384), 1, ((⟨16383, 5, 0, none⟩ : LineMove)), 1023,
    ((advance 1 ({ running 2 with place := { base.place with lineMoves := [((⟨16383, 5, 0, none⟩ : LineMove))] } }))),
    by decide +kernel, rfl⟩,
   ⟨({ reg Reg.placeClassMode [] 0x20 base with image := { image with qpart := [] } }), .host, 768, by decide +kernel⟩,
   ⟨(reg Reg.placeClassMode [] 0 base), .host, by decide +kernel⟩,
   ⟨({ reg Reg.placeClassMode [] 0x20 base with image := { image with qpart := [⟨768, 261376, 3⟩] } }), .host,
     by decide +kernel, no_free _ rfl _ _ (by decide) (by decide)⟩,
   ⟨(putWord base Reg.placeJnlCnt [] 1), by decide +kernel⟩,
   ⟨({ putWord base Reg.placeJnlCnt [] 1 with power := { base.power with coresDown := 4 }, place := { base.place with heldBack := [1, 2] } }),
     by decide +kernel⟩⟩

theorem witness_LanesAlign :
    (∃ (s : State) (n : Fin 48) (el : _) (g : Nat) (i : Nat) (fc : Nat) (now : _), (laneGroup now n = g ∧
      n.val ∈ groupLanes now g ∧ groupOn now g = true ∧ (groupLanes now g).idxOf n.val = i ∧ i ≠ 0 ∧
      (izlGroup now g).txQuiet.getLsbD i = false ∧ n.val ∉ now.power.idleLanes ∧ (izlLane now n).txFc ≠ nextFrameCnt now g ∧
      (nextFrameCnt now g + 65535) % 65536 = fc) ∧ now = advance el s) ∧
    (∃ (s : State) (n : Fin 48) (el : _) (g : Nat) (now : _), (laneGroup now n = g ∧ n.val ∈ groupLanes now g ∧
      groupOn now g = true ∧ (groupLanes now g).idxOf n.val = 0 ∧ (izlGroup now g).txQuiet.getLsbD 0 = false ∧
      n.val ∉ now.power.idleLanes ∧ (izlGroup now g).txNext = (izlGroup now g).txActive) ∧ now = advance el s) ∧
    (∃ (s : State) (n : Fin 48) (el : _) (h : _) (g : Nat) (now : _), (laneGroup now n = g ∧ g < 16 ∧
      n.val ∈ groupLanes now g ∧ groupOn now g = true ∧ rdBit now Reg.izlGrpStat [g] 31 = false ∧ rxLane now g 0 = none ∧
      laneSync now n = 0 ∧ headerCrc h = true) ∧ now = advance el s) ∧
    (∃ (s : State) (n : Fin 48) (el : _) (h : BitVec 128) (g : Nat) (now : _), (laneGroup now n = g ∧
      n.val ∈ groupLanes now g ∧ groupOn now g = true ∧ laneSync now n = 0 ∧ headerCrc h = false) ∧ now = advance el s) ∧
    (∃ (s : State) (n : Fin 48) (el : _) (h : _) (g : Nat) (now : _), (laneGroup now n = g ∧ g < 16 ∧
      n.val ∈ groupLanes now g ∧ groupOn now g = true ∧ rdBit now Reg.izlGrpStat [g] 31 = false ∧ laneSync now n = 1 ∧
      headerFits now g n h = true ∧ (izlLane now n).good = 3) ∧ now = advance el s) ∧
    (∃ (s : State) (n : Fin 48) (el : _) (h : _) (g : Nat) (now : _), (laneGroup now n = g ∧ g < 16 ∧
      n.val ∈ groupLanes now g ∧ groupOn now g = true ∧ rdBit now Reg.izlGrpStat [g] 31 = false ∧ rxLane now g 0 = none ∧
      laneSync now n = 1 ∧ headerFits now g n h = false) ∧ now = advance el s) ∧
    (∃ (s : State) (n : Fin 48) (el : _) (h : _) (g : Nat) (now : _), (laneGroup now n = g ∧ n.val ∈ groupLanes now g ∧
      groupOn now g = true ∧ laneSync now n = 2 ∧ headerFits now g n h = false ∧ (izlLane now n).bad < 6) ∧
      now = advance el s) :=
  ⟨⟨(putIzlLane (grp 0x80000000 0) 0 { izlLane (grp 0x80000000 0) 0 with txFc := 5 }), (3 : Fin 48), 1, ((0 : Nat)),
    ((3 : Nat)), ((4 : Nat)),
    ((advance 1 (putIzlLane (grp 0x80000000 0) 0 { izlLane (grp 0x80000000 0) 0 with txFc := 5 }))), by decide +kernel, rfl⟩,
   ⟨(grp 0x80000000 0), (0 : Fin 48), 1, ((0 : Nat)), ((advance 1 (grp 0x80000000 0))), by decide +kernel, rfl⟩,
   ⟨(grp 0x80000000 0), (3 : Fin 48), 1, (hdr3 65535), ((0 : Nat)), ((advance 1 (grp 0x80000000 0))), by decide +kernel,
     rfl⟩,
   ⟨(grp 0x80000000 0), (3 : Fin 48), 1, ((1 : BitVec 128)), ((0 : Nat)), ((advance 1 (grp 0x80000000 0))),
     by decide +kernel, rfl⟩,
   ⟨(putIzlLane (lane 3 0x435A0000 0) 3 { izlLane base 3 with good := 3, expectFc := 65535 }), (3 : Fin 48), 1,
     (hdr3 65535), ((0 : Nat)),
     ((advance 1 (putIzlLane (lane 3 0x435A0000 0) 3 { izlLane base 3 with good := 3, expectFc := 65535 }))),
     by decide +kernel, rfl⟩,
   ⟨(putIzlLane (lane 3 0x435A0000 0) 3 { izlLane base 3 with good := 3, expectFc := 5 }), (3 : Fin 48), 1, (hdr3 65535),
     ((0 : Nat)), ((advance 1 (putIzlLane (lane 3 0x435A0000 0) 3 { izlLane base 3 with good := 3, expectFc := 5 }))),
     by decide +kernel, rfl⟩,
   ⟨(putIzlLane (lane 3 0x835A0000 0) 3 { izlLane base 3 with bad := 5 }), (3 : Fin 48), 1, (hdr3 65535), ((0 : Nat)),
     ((advance 1 (putIzlLane (lane 3 0x835A0000 0) 3 { izlLane base 3 with bad := 5 }))), by decide +kernel, rfl⟩⟩

theorem witness_GroupsDelineate :
    (∃ (s : State) (g : Fin 16) (b : _), groupOn s g = true ∧ (rxLane s g 0).isSome = true ∧ b.length = 48 ∧
      izlCrc (b.take 46) = field b 46 2 ∧ rdBit s Reg.izlGrpStat [g] 31 = false) ∧
    (∃ (s : State) (g : Fin 16) (b : _), groupOn s g = true ∧ (rxLane s g 0).isSome = true ∧
      (b.length ≠ 48 ∨ izlCrc (b.take 46) ≠ field b 46 2) ∧ rdBit s Reg.izlGrpStat [g] 31 = false) ∧
    (∃ (s : State) (g : Fin 16), (izlGroup s g).txNext ≠ (izlGroup s g).txActive ∧
      nextFrameCnt s g = (izlGroup s g).txChange) ∧
    (∃ (s : State) (g : Fin 16), (izlGroup s g).rxNext ≠ (izlGroup s g).rxActive ∧ rdBit s Reg.izlGrpStat [g] 31 = false ∧
      (rxLane s g 0).any (fun m => (izlLane s m).rxFc == (izlGroup s g).rxChange) = true) ∧
    (∃ (s : State) (g : Fin 16) (el : _) (b : _) (now : _), (rdBit now Reg.izlGrpStat [g] 31 = true ∧
      rd now Reg.izlGrpStat [g] 30 29 = 2 ∧ (izlGroup now g).ldWait = false ∧ leafBad b = false ∧
      rdBit now Reg.izlGrpStat [g] 27 = false) ∧ now = advance el s) ∧
    (∃ (s : State) (g : Fin 16) (el : _) (now : _), (rdBit now Reg.izlGrpStat [g] 31 = true ∧
      rd now Reg.izlGrpStat [g] 30 29 = 2 ∧ (izlGroup now g).ldWait = false ∧ rdBit now Reg.izlGrpStat [g] 27 = false ∧
      inHierarchy now = false) ∧ now = advance el s) ∧
    (∃ (s : State) (g : Fin 16) (el : _) (b : _) (now : _), (rdBit now Reg.izlGrpStat [g] 31 = true ∧
      rd now Reg.izlGrpStat [g] 30 29 = 1 ∧ leafBad b = false ∧ (izlGroup now g).ldGood + 1 < 3) ∧ now = advance el s) ∧
    (∃ (s : State) (g : Fin 16) (el : _) (b : _) (now : _), (rdBit now Reg.izlGrpStat [g] 31 = true ∧
      rd now Reg.izlGrpStat [g] 30 29 = 2 ∧ (izlGroup now g).ldWait = false ∧ leafBad b = false ∧
      rdBit now Reg.izlGrpStat [g] 27 = false ∧ inHierarchy now = false ∧ groupRole now g = 4 ∧ byteAt b 0 / 64 = 0 ∧
      byteAt b 0 % 64 * 256 + byteAt b 1 ≠ 0) ∧ now = advance el s) ∧
    (∃ (s : State) (g : Fin 16), groupUp s g = true) :=
  ⟨⟨(lane 0 0x80000000 0), (0 : Fin 16), pohIn, by decide +kernel⟩,
   ⟨(lane 0 0x80000000 0), (0 : Fin 16), ([]), by decide +kernel⟩,
   ⟨(putIzlGroup (grp 0x80000000 0) 0 { izlGroup (grp 0x80000000 0) 0 with txActive := 3, txNext := 1 }), (0 : Fin 16),
     by decide +kernel⟩,
   ⟨(let x := lane 0 0x80000000 0; putIzlGroup (putIzlLane x 0 { izlLane x 0 with rxFc := 9 }) 0 { izlGroup x 0 with rxActive := 3, rxNext := 1, rxChange := 9 }),
     (0 : Fin 16), by decide +kernel⟩,
   ⟨(grp 0x80000000 0xC0000000), (0 : Fin 16), 1, (frameLeaf good), ((advance 1 (grp 0x80000000 0xC0000000))),
     by decide +kernel, rfl⟩,
   ⟨(grp 0x80000000 0xC0000000), (0 : Fin 16), 1, ((advance 1 (grp 0x80000000 0xC0000000))), by decide +kernel, rfl⟩,
   ⟨(grp 0x80000000 0xA0000000), (0 : Fin 16), 1, (frameLeaf good), ((advance 1 (grp 0x80000000 0xA0000000))),
     by decide +kernel, rfl⟩,
   ⟨(grp 0x80000000 0xC2000000), (0 : Fin 16), 1, (frameLeaf good), ((advance 1 (grp 0x80000000 0xC2000000))),
     by decide +kernel, rfl⟩,
   ⟨(grp 0x80000000 0xC0000000), (0 : Fin 16), by decide +kernel⟩⟩

theorem witness_HierarchyForms :
    (∃ (s : State), hierRole s ≠ 0 ∧ role s ≠ 2 ∧ s.izl.helloAt + tenMs ≤ s.time.dt) ∧
    (∃ (s : State) (g : Fin 16) (el : _) (b : _) (now : _), (Alone now ∧ groupUp now g = true ∧ hierGroup now g = true ∧
      byteAt b 0 = 1 ∧ 32 ≤ b.length) ∧ now = advance el s) ∧
    (∃ (s : State) (g : Fin 16) (b : _) (n : Nat), Alone s ∧ groupUp s g = true ∧ hierGroup s g = true ∧ byteAt b 0 = 2 ∧
      14 ≤ b.length ∧ coreDown s 3 = false ∧ byteAt b 2 = ownDevice s ∧ hierRole s = 1 ∧
      numberFor s (BitVec.ofNat 64 (field b 4 8)) = n ∧ n ≠ 0xFF) ∧
    (∃ (s : State) (g : Fin 16) (b : _), (Alone s ∧ groupUp s g = true ∧ hierGroup s g = true ∧ byteAt b 0 = 3 ∧
      14 ≤ b.length ∧ coreDown s 3 = false ∧ byteAt b 2 = 0xFF ∧ hierRole s = 2 ∧ g.val = upstream s ∧ hierState s = 2 ∧
      byteAt b 12 ≠ 0xFF) ∧ field b 4 8 = hierId s) ∧
    (∃ (s : State) (g : Fin 16) (b : _), groupUp s g = true ∧ hierGroup s g = true ∧ byteAt b 0 = 4 ∧ 100 ≤ b.length ∧
      admitted s (byteAt b 1) = true ∧ byteAt b 1 ≠ ownDevice s) ∧
    (∃ (s : State), inHierarchy s = true) ∧
    (∃ (s : State), hierRole s = 2 ∧ upstream s ≠ 15 ∧ hears s (upstream s) = false ∧
      bestUpstream s (· != upstream s) = none) ∧
    (∃ (s : State), hierRole s = 2 ∧ upstream s = 15 ∧ hierState s = 3 ∧ ownDevice s ≠ 0xFF ∧
      s.izl.lostAt + msTicks 1000 ≤ s.time.dt) ∧
    (∃ (s : State), hierRole s = 2 ∧ upstream s = 15 ∧ hierState s = 2 ∧ ownDevice s = 0xFF ∧
      s.izl.lostAt + msTicks 1000 ≤ s.time.dt) ∧
    (∃ (s : State) (d : Fin 128), (Reaches s .host (Reg.izlHierCmd.addr []) ∧ Alone s ∧ hierRole s = 1 ∧
      isJoined s d = false) ∧ (∃ u, (d.val, u) ∈ s.izl.bindings)) ∧
    (∃ (s : State), Reaches s .host (Reg.izlHierCmd.addr []) ∧ hierRole s ≠ 1) ∧
    (∃ (s : State), Reaches s .host (Reg.izlHierCmd.addr []) ∧ hierRole s = 2 ∧ bestUpstream s (fun _ => true) = none) ∧
    (∃ (s : State) (req : Requester) (g : Fin 16), Reaches s req (Reg.izlGrpCfg.addr [g])) ∧
    (∃ (s : State) (g : Fin 16) (b : _), groupUp s g = true ∧ hierGroup s g = true ∧ byteAt b 0 = 2 ∧ 14 ≤ b.length ∧
      coreDown s 3 = true) :=
  ⟨⟨(later (hier 1 3 15 0)), by decide +kernel⟩,
   ⟨(hier 1 3 15 0), (0 : Fin 16), 1, (ctl 1 127 255 [1, 2, 3, 4, 5, 6, 7, 8]), ((advance 1 (hier 1 3 15 0))),
     by decide +kernel, rfl⟩,
   ⟨(hier 1 3 15 0), (0 : Fin 16), (ctl 2 5 0 [1, 2, 3, 4, 5, 6, 7, 8, 0, 0]), ((1 : Nat)), by decide +kernel⟩,
   ⟨(pairedZero (hier 2 2 0 255)), (0 : Fin 16), (ctl 3 0 255 [0, 0, 0, 0, 0, 0, 0, 0, 127, 0]), by decide +kernel,
     (Nat.min_zero _).symm⟩,
   ⟨(hier 1 3 15 0), (0 : Fin 16), (ctl 4 5 254 (List.replicate 96 0xFF)), by decide +kernel⟩,
   ⟨(hier 1 3 15 0), by decide +kernel⟩,
   ⟨(hier 2 3 0 127), by decide +kernel⟩,
   ⟨(later (hier 2 3 15 127)), by decide +kernel⟩,
   ⟨(later (hier 2 2 15 255)), by decide +kernel⟩,
   ⟨({ hier 1 3 15 0 with izl := { (hier 1 3 15 0).izl with bindings := [(127, 7)] } }), (127 : Fin 128),
     by decide +kernel, ⟨7, List.mem_singleton.mpr rfl⟩⟩,
   ⟨(hier 2 3 0 127), by decide +kernel⟩,
   ⟨(hier 2 3 0 127), by decide +kernel⟩,
   ⟨base, (.mc 2), (15 : Fin 16), by decide +kernel⟩,
   ⟨({ hier 1 3 15 0 with power := { (hier 1 3 15 0).power with coresDown := 8 } }), (0 : Fin 16), (ctl 2 5 0 [1, 2, 3, 4,
     5, 6, 7, 8, 0, 0]), by decide +kernel⟩⟩

theorem witness_OrdersAndBins :
    (∃ (s : State) (g : Fin 16) (b : _), groupUp s g = true ∧ hierGroup s g = true ∧ byteAt b 0 = 5 ∧ 12 ≤ b.length ∧
      byteAt b 2 = ownDevice s ∧ coreDown s 3 = false ∧ byteAt b 8 < 0x80 ∧ hierRole s = 2 ∧ hierState s = 3 ∧
      s.izl.answered.find? (fun a => a.1 == byteAt b 1 && a.2.1 == field b 4 4) = none) ∧
    (∃ (s : State) (g : Fin 16) (b : _) (a : Nat × Nat × List Byte) (u : Nat), groupUp s g = true ∧ hierGroup s g = true ∧
      byteAt b 0 = 5 ∧ 12 ≤ b.length ∧ byteAt b 2 = ownDevice s ∧ coreDown s 3 = false ∧ byteAt b 8 < 0x80 ∧ hierRole s = 2 ∧
      hierState s = 3 ∧ s.izl.answered.find? (fun a => a.1 == byteAt b 1 && a.2.1 == field b 4 4) = some a ∧
      groupToward s (byteAt b 1) = some u ∧ hierGroup s u = true ∧ groupUp s u = true) ∧
    (∃ (s : State) (g : Fin 16) (b : _) (w : OrderWait), groupUp s g = true ∧ hierGroup s g = true ∧ byteAt b 0 = 5 ∧
      12 ≤ b.length ∧ coreDown s 3 = false ∧ byteAt b 2 = ownDevice s ∧ 0x80 ≤ byteAt b 8 ∧ hierRole s = 1 ∧
      s.izl.orders = [w] ∧ w.device = byteAt b 1 ∧ w.seq = field b 4 4 ∧ byteAt b 9 = 0 ∧ s.img.update = none) ∧
    (∃ (s : State) (g : Fin 16) (b : _) (w : OrderWait), groupUp s g = true ∧ hierGroup s g = true ∧ byteAt b 0 = 5 ∧
      12 ≤ b.length ∧ coreDown s 3 = false ∧ byteAt b 2 = ownDevice s ∧ 0x80 ≤ byteAt b 8 ∧ hierRole s = 1 ∧
      s.izl.orders = [w] ∧ w.device = byteAt b 1 ∧ w.seq = field b 4 4 ∧ byteAt b 9 ≠ 0) ∧
    (∃ (s : State) (d : Fin 128) (w : OrderWait), s.izl.orders = [w] ∧ w.device = d.val ∧ orderLate s w = true ∧
      w.tries < 5) ∧
    (∃ (s : State) (d : Fin 128) (w : OrderWait), s.izl.orders = [w] ∧ w.device = d.val ∧ orderLate s w = true ∧
      5 ≤ w.tries) ∧
    (∃ (s : State) (el : _) (now : _), pmSeconds now ≠ now.izl.pmAt ∧ now = advance el s) ∧
    (∃ (s : State) (el : _) (now : _), pmSeconds now / 900 ≠ now.izl.rollAt ∧ now = closeSecond (advance el s)) ∧
    (∃ (v : _), v < 10) ∧
    (∀ (i : Img) x,
      i.update = none → bundleIn { hier 1 3 15 0 with img := i } 0 = some x → ∃ (s : State) (req : Requester) (y : Bundle) (k d : Nat),
      Reaches s req (Reg.imgHierCmd.addr []) ∧ hierRole s = 1 ∧ rdBit s Reg.imgHierCmd [] 30 = false ∧ s.img.update = none ∧
      fld (stagedWord s Reg.imgHierCmd []) 25 25 = k ∧ fld (stagedWord s Reg.imgHierCmd []) 6 0 = d ∧ bundleIn s k = some y ∧
      coreDown s 3 = false ∧ s.izl.orders.all (·.sentAt.isSome) = true) ∧
    (∀ (i : Img) x,
      i.update = none → bundleIn { hier 1 3 15 0 with img := i } 0 = some x → ∃ (s : State) (req : Requester) (y : Bundle) (k d : Nat),
      Reaches s req (Reg.imgHierCmd.addr []) ∧ hierRole s = 1 ∧ rdBit s Reg.imgHierCmd [] 30 = false ∧ s.img.update = none ∧
      fld (stagedWord s Reg.imgHierCmd []) 25 25 = k ∧ fld (stagedWord s Reg.imgHierCmd []) 6 0 = d ∧ bundleIn s k = some y ∧
      windowConflict s d y = none ∧ s.izl.joined.all (fun e => heardHere s e) = true ∧ coreDown s 3 = false ∧
      s.izl.orders.all (·.sentAt.isSome) = true) ∧
    (∀ (i : Img) x,
      i.update = none → bundleIn { heard5 (hier 1 3 15 0) with img := i } 0 = some x → ∃ (s : State) (req : Requester) (y : Bundle) (k d e : Nat),
      Reaches s req (Reg.imgHierCmd.addr []) ∧ hierRole s = 1 ∧ rdBit s Reg.imgHierCmd [] 30 = false ∧ s.img.update = none ∧
      fld (stagedWord s Reg.imgHierCmd []) 25 25 = k ∧ fld (stagedWord s Reg.imgHierCmd []) 6 0 = d ∧ bundleIn s k = some y ∧
      windowConflict s d y = some e) ∧
    (∃ (s : State) (req : Requester) (d : Nat), Reaches s req (Reg.imgHierCmd.addr []) ∧ hierRole s = 1 ∧
      rdBit s Reg.imgHierCmd [] 30 = false ∧ fld (stagedWord s Reg.imgHierCmd []) 6 0 = d ∧ coreDown s 3 = false ∧
      s.izl.orders.all (·.sentAt.isSome) = true) ∧
    (∃ (s : State) (req : Requester), Reaches s req (Reg.imgHierCmd.addr []) ∧ hierRole s ≠ 1 ∧
      rdBit s Reg.imgHierCmd [] 30 = false) :=
  ⟨⟨(hier 2 3 0 5), (0 : Fin 16), (ctl 5 0 5 [0, 0, 0, 7, 3, 0, 0, 0]), by decide +kernel⟩,
   ⟨({ hier 2 3 0 5 with izl := { (hier 2 3 0 5).izl with answered := [(0, 6, [2]), (((0, 7, [1]) : Nat × Nat × List Byte))] } }),
     (0 : Fin 16), (ctl 5 0 5 [0, 0, 0, 7, 3, 0, 0, 0]), (((0, 7, [1]) : Nat × Nat × List Byte)), ((0 : Nat)),
     by decide +kernel⟩,
   ⟨({ hier 1 3 15 0 with izl := { (hier 1 3 15 0).izl with orders := [((wait5 5 : OrderWait))] } }), (0 : Fin 16),
     (reply5 0x94 0), ((wait5 5 : OrderWait)), by decide +kernel⟩,
   ⟨({ hier 1 3 15 0 with izl := { (hier 1 3 15 0).izl with orders := [((wait5 5 : OrderWait))] } }), (0 : Fin 16),
     (reply5 0x94 3), ((wait5 5 : OrderWait)), by decide +kernel⟩,
   ⟨(later { hier 1 3 15 0 with izl := { (hier 1 3 15 0).izl with orders := [((wait5 4 : OrderWait))] } }), (5 : Fin 128),
     ((wait5 4 : OrderWait)), by decide +kernel⟩,
   ⟨(later { hier 1 3 15 0 with izl := { (hier 1 3 15 0).izl with orders := [((wait5 5 : OrderWait))] } }), (5 : Fin 128),
     ((wait5 5 : OrderWait)), by decide +kernel⟩,
   ⟨(later base), 1, ((advance 1 (later base))), by decide +kernel, rfl⟩,
   ⟨(later base), 1, ((closeSecond (advance 1 (later base)))), by decide +kernel, rfl⟩,
   ⟨9, by decide +kernel⟩,
   fun i x u h => ⟨{ hier 1 3 15 0 with img := i }, .host, x, 0, 0, reaches_img i (by decide +kernel),
     hierRole_img i (by decide +kernel), rdBit_img i (by decide +kernel), u, staged_img i (by decide +kernel),
     staged_img i (by decide +kernel), h, coreDown_img i (by decide +kernel), rfl⟩,
   fun i x u h => ⟨{ hier 1 3 15 0 with img := i }, .host, x, 0, 0, reaches_img i (by decide +kernel),
     hierRole_img i (by decide +kernel), rdBit_img i (by decide +kernel), u, staged_img i (by decide +kernel),
     staged_img i (by decide +kernel), h, no_conflict i x, rfl, coreDown_img i (by decide +kernel), rfl⟩,
   fun i x u h => ⟨{ heard5 (hier 1 3 15 0) with img := i }, .host, x, 0, 0, 5, reaches_img i (by decide +kernel),
     hierRole_img i (by decide +kernel), rdBit_img i (by decide +kernel), u, staged_img i (by decide +kernel),
     staged_img i (by decide +kernel), h, conflict5 i x⟩,
   ⟨(hier 1 3 15 0), .host, ((0 : Nat)), by decide +kernel⟩,
   ⟨(hier 2 3 0 5), .host, by decide +kernel⟩⟩

theorem witness_TwinsPair :
    (∃ (s : State) (p : Peer), twinOn s = true ∧ popBit s 22 = true ∧ paired s = false ∧ role s ≠ 1 ∧ role s ≠ 2 ∧
      (p.role = 1 ∨ primary s = false) ∧ pairingPasses s p = false) ∧
    (∃ (s : State) (p : Peer), twinOn s = true ∧ popBit s 22 = true ∧ paired s = false ∧ role s ≠ 1 ∧ role s ≠ 2 ∧
      (p.role = 1 ∨ primary s = false) ∧ pairingPasses s p = true) ∧
    (∃ (s : State) (p : Peer), twinOn s = true ∧ popBit s 22 = true ∧ paired s = false ∧ role s ≠ 1 ∧ role s ≠ 2 ∧
      p.role ≠ 1 ∧ primary s = true) ∧
    (∃ (s : State) (p : Peer), twinOn s = true ∧ popBit s 22 = true ∧ role s = 1 ∧ pairingPasses s p = false) ∧
    (∃ (s : State), twinOn s = true ∧ role s = 0 ∧ s.twin.searching = true ∧ s.twin.searchAt + msTicks 3000 ≤ s.time.dt) ∧
    (∃ (s : State), popBit s 22 = true ∧ windowsOpen s = true ∧ offline s = false) ∧
    (∃ (s : State) (k : Fin 4) (j : Fin 4), popBit s 22 = true ∧ windowsOpen s = true ∧ offline s = false ∧ j ≠ k ∧
      rdBit s Reg.twinStat [] (20 + j) = true) ∧
    (∃ (s : State) (k : Fin 4), popBit s 22 = true ∧ windowsOpen s = true ∧ offline s = false ∧
      rd s Reg.twinStat [] 23 20 = 2 ^ k.val ∧ s.sched.sending = [] ∧ s.sched.queues = [] ∧ paired s = true) ∧
    (∃ (s : State) (p : Fin 80) (q : Nat) (f : Flush), receives s p = true ∧ neighbourPorts s p = [q] ∧ f = (⟨true, false,
      false, q, 0, false, []⟩ : Flush) ∧ ((fdbValid s).filter fun x => flushMatches f x.2) ≠ []) :=
  ⟨⟨(twinned 0), ((peerOf 1 1 false : Peer)), by decide +kernel⟩,
   ⟨(twinned 0x60000000), ((peerOf 1 0 false : Peer)), by decide +kernel⟩,
   ⟨(twinned 0x10000000), ((peerOf 0 0 true : Peer)), by decide +kernel⟩,
   ⟨(twinned 0x20000000), ((peerOf 1 1 false : Peer)), by decide +kernel⟩,
   ⟨(later { twinned 0 with twin := { (twinned 0).twin with searching := true } }), by decide +kernel⟩,
   ⟨base, by decide +kernel⟩,
   ⟨(twinned 0x00900000), (3 : Fin 4), (0 : Fin 4), by decide +kernel⟩,
   ⟨(twinned 0x68800000), (3 : Fin 4), by decide +kernel⟩,
   ⟨(putWord (putWord (stored slot5 (sta 0 0)) Reg.cpLinkStat [31] 1) Reg.twinNbr [15] 0x8000004F), (79 : Fin 80),
     ((0 : Nat)), ((⟨true, false, false, 0, 0, false, []⟩ : Flush)), by decide +kernel⟩⟩

theorem witness_HeartbeatsDecide :
    (∃ (s : State) (el : _) (hb : Heartbeat) (now : _), (twinOn now = true ∧ offline now = false ∧
      (now.twin.peer.any fun p => p.unitId == hb.unitId) = true ∧ Quiet now ∧ (hb.fail = false ∨ standsReady now = false) ∧
      (hb.take = false ∨ role now ≠ 1) ∧ (hb.role ≠ 1 ∨ role now ≠ 1)) ∧ now = advance el s) ∧
    (∃ (s : State) (el : _) (hb : Heartbeat) (now : _), (twinOn now = true ∧ offline now = false ∧
      (now.twin.peer.any fun p => p.unitId == hb.unitId) = true ∧ Quiet now ∧ (hb.fail = false ∨ standsReady now = false) ∧
      hb.take = false ∧ hb.role = 1 ∧ role now = 1) ∧ now = advance el s) ∧
    (∃ (s : State) (el : _) (hb : Heartbeat) (now : _), (twinOn now = true ∧ offline now = false ∧
      (now.twin.peer.any fun p => p.unitId == hb.unitId) = true ∧ Quiet now ∧ hb.fail = true ∧ standsReady now = true ∧
      replState now ≠ 3 ∧ Dark now) ∧ now = advance el s) ∧
    (∃ (s : State) (el : _) (hb : Heartbeat) (now : _), (twinOn now = true ∧ offline now = false ∧
      (now.twin.peer.any fun p => p.unitId == hb.unitId) = true ∧ Quiet now ∧ hb.take = true ∧ role now = 1 ∧
      replState now ≠ 3 ∧ now.sched.queues = []) ∧ now = advance el s) ∧
    (∃ (s : State), paired s = true ∧ s.twin.heard = false ∧ s.twin.judged = false ∧ heartbeatEnd s < s.time.dt ∧
      s.twin.missed < 2) ∧
    (∃ (s : State), paired s = true ∧ s.twin.heard = false ∧ s.twin.judged = false ∧ heartbeatEnd s < s.time.dt ∧
      2 ≤ s.twin.missed ∧ standsReady s = true ∧ replState s ≠ 3 ∧ Dark s) ∧
    (∃ (s : State), paired s = true ∧ s.twin.heard = false ∧ s.twin.judged = false ∧ heartbeatEnd s < s.time.dt ∧
      2 ≤ s.twin.missed ∧ role s = 1) ∧
    (∃ (s : State), paired s = true ∧ s.twin.heard = false ∧ s.twin.judged = false ∧ heartbeatEnd s < s.time.dt ∧
      2 ≤ s.twin.missed ∧ role s = 3 ∧ substate s = 4) :=
  ⟨⟨(twinned 0x48000000), 40000, (beat 1 false false), ((advance 40000 (twinned 0x48000000))), by decide +kernel, rfl⟩,
   ⟨(twinned 0x28000000), 40001, (beat 1 false false), ((advance 40001 (twinned 0x28000000))), by decide +kernel, rfl⟩,
   ⟨(twinned 0x48000000), 1, (beat 1 true false), ((advance 1 (twinned 0x48000000))), by decide +kernel, rfl⟩,
   ⟨(twinned 0x28000000), 1, (beat 2 false true), ((advance 1 (twinned 0x28000000))), by decide +kernel, rfl⟩,
   ⟨(later (missedBeats 1 (twinned 0x48000000))), by decide +kernel⟩,
   ⟨(later (missedBeats 2 (twinned 0x48000000))), by decide +kernel⟩,
   ⟨(later (missedBeats 2 (twinned 0x28000000))), by decide +kernel⟩,
   ⟨(later (missedBeats 2 (twinned 0x6C000000))), by decide +kernel⟩⟩

theorem witness_CarriedStateApplies :
    (∃ (s : State) (k : Fin 11), paired s = true ∧ (role s = 2 ∨ role s = 3) ∧ k.val ≠ 8 ∧ Quiet s ∧ offline s = false) ∧
    (∃ (s : State) (k : Fin 11), paired s = true ∧ (role s = 2 ∨ role s = 3) ∧ k.val ≠ 8 ∧ Quiet s ∧ offline s = false) ∧
    (∃ (s : State), paired s = true ∧ (role s = 2 ∨ role s = 3) ∧ Quiet s ∧ offline s = false) ∧
    (∃ (s : State), paired s = true ∧ (role s = 2 ∨ role s = 3) ∧ Quiet s ∧ offline s = false ∧ s.twin.incomplete = false ∧
      s.twin.complete = none) ∧
    (∃ (s : State) (whole : _), paired s = true ∧ (role s = 2 ∨ role s = 3) ∧ Quiet s ∧ offline s = false ∧
      (whole = false ∨ s.twin.incomplete = true)) ∧
    (∃ (s : State) (k : Fin 11), activePaired s = true ∧ stale s k = true ∧ rd s Reg.twinStat [] 23 20 ≠ 0 ∧
      offline s = false) ∧
    (∃ (s : State) (k : Fin 11), activePaired s = true ∧ k.val ∈ s.twin.copied) ∧
    (∃ (s : State) (c : Nat), role s = 3 ∧ substate s = 1 ∧ paired s = true ∧ s.twin.complete = some ⟨c, []⟩ ∧
      primary s = true) ∧
    (∃ (s : State), role s = 3 ∧ substate s = 1 ∧ paired s = true ∧ s.twin.complete = none ∧ primary s = false) :=
  ⟨⟨(twinned 0x48000000), (10 : Fin 11), by decide +kernel⟩,
   ⟨(twinned 0x69000000), (10 : Fin 11), by decide +kernel⟩,
   ⟨(twinned 0x69000000), by decide +kernel⟩,
   ⟨(twinned 0x48000000), by decide +kernel⟩,
   ⟨({ twinned 0x48000000 with twin := { (twinned 0x48000000).twin with incoming := [.mirror 1 5 [6], .copy 2 [] true] } }),
     false, by decide +kernel⟩,
   ⟨(twinned 0x28100400), (10 : Fin 11), by decide +kernel⟩,
   ⟨(let x := twinned 0x28100400; { x with twin := { x.twin with copied := [10] } }), (10 : Fin 11), by decide +kernel⟩,
   ⟨({ twinned 0x79000000 with twin := { (twinned 0x79000000).twin with complete := some ⟨5, []⟩ } }), ((5 : Nat)),
     by decide +kernel⟩,
   ⟨(twinned 0x69000000), by decide +kernel⟩⟩

theorem witness_SwitchoverFollowsCommand :
    (∃ (s : State), Reaches s .host (Reg.twinCmd.addr []) ∧ paired s = true ∧ (role s = 2 ∨ role s = 1 ∧
      s.twin.peerRole = 2) ∧ rd s Reg.twinStat [] 10 0 = 0 ∧ s.twin.boundary = none ∧ offline s = false) ∧
    (∃ (s : State), Reaches s .host (Reg.twinCmd.addr []) ∧ (role s = 0 ∨ role s = 1 ∧ paired s = false)) ∧
    (∃ (s : State), Reaches s .host (Reg.twinCmd.addr []) ∧ (role s = 3 ∨ role s = 2 ∧
      paired s = false ∨ (role s = 1 ∨ role s = 2) ∧ paired s = true ∧ rd s Reg.twinStat [] 10 0 ≠ 0 ∨ role s = 1 ∧
      paired s = true ∧ s.twin.peerRole ≠ 2)) ∧
    (∃ (s : State), Reaches s .host (Reg.twinCmd.addr []) ∧ paired s = true ∧ (role s = 2 ∨ role s = 1 ∧
      s.twin.peerRole = 2) ∧ rd s Reg.twinStat [] 10 0 = 0 ∧ s.twin.boundary ≠ none) ∧
    (∃ (s : State), Reaches s .host (Reg.twinCmd.addr []) ∧ (role s = 2 ∨ role s = 3) ∧ replState s ≠ 3 ∧ Dark s ∧
      paired s = false ∧ rd s Reg.twinStat [] 23 20 = 0 ∧ rdBit s Reg.twinCfg [] 30 = false) ∧
    (∃ (s : State), Reaches s .host (Reg.twinCmd.addr []) ∧ (role s = 0 ∨ role s = 1)) ∧
    (∃ (s : State), (Reaches s .host (Reg.twinCmd.addr []) ∧ role s = 1 ∧ paired s = false ∧ (∀ p < 48,
      portGroup s p = none) ∧ (∀ p < 80, rdBit s Reg.pipePortCfg [pipeOf s p, p] 31 = false)) ∧ (∀ p, Calm s p)) ∧
    (∃ (s : State), Reaches s .host (Reg.twinCmd.addr []) ∧ role s ≠ 1) ∧
    (∃ (s : State) (k : Fin 11), Reaches s .host (Reg.twinCmd.addr []) ∧ role s = 1 ∧ carriedClass s k = true) ∧
    (∃ (s : State), Reaches s .host (Reg.twinCmd.addr []) ∧ role s ≠ 1) ∧
    (∃ (s : State), paired s = true ∧ role s = 1 ∧ s.sched.queues = [] ∧ s.twin.boundary.any (· != cycleCount s) = false) ∧
    (∃ (s : State), paired s = true ∧ (role s = 2 ∨ role s = 3 ∧ substate s = 3) ∧
      s.twin.boundary.any (· != cycleCount s) = false) ∧
    (∃ (s : State), role s = 3 ∧ substate s = 2 ∧ rd s Reg.twinStat [] 10 0 = 0 ∧ wtrLeft s = 0) ∧
    (∃ (s : State), activePaired s = true ∧ s.twin.peerRole = 3 ∧ rd s Reg.twinStat [] 10 0 = 0 ∧ offline s = false) ∧
    (∃ (s : State), role s = 3 ∧ substate s = 3 ∧ s.twin.finalDone = true ∧ offline s = false ∧ s.twin.boundary = none ∧
      (∀ k < 4, followsTwin s k = true → tbState s k = 2)) :=
  ⟨⟨(twinned 0x48000000), by decide +kernel⟩,
   ⟨(twinned 0x20000000), by decide +kernel⟩,
   ⟨(twinned 0x60000000), by decide +kernel⟩,
   ⟨({ twinned 0x48000000 with twin := { (twinned 0x48000000).twin with boundary := some 5 } }), by decide +kernel⟩,
   ⟨(twinned 0x40000000), by decide +kernel⟩,
   ⟨(twinned 0x20000000), by decide +kernel⟩,
   ⟨((List.range 80).foldl (fun s p => putWord s Reg.pipePortCfg [pipeOf base p, p] 0) (twinned 0x20000000)),
     by decide +kernel, fun _ => ⟨rfl, rfl, rfl, rfl⟩⟩,
   ⟨(twinned 0x60000000), by decide +kernel⟩,
   ⟨(reg Reg.twinClassMode [] 0x115555 (twinned 0x20000000)), (10 : Fin 11), by decide +kernel⟩,
   ⟨(twinned 0x60000000), by decide +kernel⟩,
   ⟨(twinned 0x28000000), by decide +kernel⟩,
   ⟨(twinned 0x6B000000), by decide +kernel⟩,
   ⟨(twinned 0x62000000), by decide +kernel⟩,
   ⟨(let x := twinned 0x28000000; { x with twin := { x.twin with peerRole := 3 } }), by decide +kernel⟩,
   ⟨(let x := (List.range 4).foldl (fun s k => putWord s Reg.timeTbStat [k] 0x80000000) (twinned 0x63000000); { x with twin := { x.twin with finalDone := true } }),
     by decide +kernel⟩⟩

theorem witness_RingPairsOpen :
    (∃ (s : State) (r : Fin 4), Reaches s .host (Reg.twinRingCtrl.addr [r]) ∧ ringReady s r = true ∧
      (ringState s r = 0 ∨ ringState s r = 3) ∧ ringBusy s = false ∧ (s.twin.pairs.getD r ⟨true⟩).closed = true) ∧
    (∃ (s : State) (r : Fin 4), Reaches s .host (Reg.twinRingCtrl.addr [r]) ∧ ringReady s r = true ∧
      (ringState s r = 0 ∨ ringState s r = 3) ∧ ringBusy s = true ∧ s.twin.openQueue.contains r.val = false) ∧
    (∃ (s : State) (r : Fin 4), Reaches s .host (Reg.twinRingCtrl.addr [r]) ∧ (ringReady s r = false ∨ ringState s r ≠ 0 ∧
      ringState s r ≠ 3)) ∧
    (∃ (s : State) (r : Fin 4), ringTurn s r = true ∧ ringReady s r = true ∧ (ringState s r = 0 ∨ ringState s r = 3) ∧
      ringBusy s = false ∧ coreDown s 0 = false ∧ (s.twin.pairs.getD r ⟨true⟩).closed = true) ∧
    (∃ (s : State) (r : Fin 4), ringStage s = true ∧ ringTurn s r = true ∧ ringReady s r = false ∧ ringPast s r = true ∧
      s.twin.openQueue = [] ∧ (s.twin.pairs.getD r ⟨true⟩).closed = true) ∧
    (∃ (s : State) (r : Fin 4), ringState s r = 1 ∧ (∀ n ∈ ringLanes r, linkUp s n = true) ∧ s.twin.openQueue = []) ∧
    (∃ (s : State) (r : Fin 4), ringState s r = 1 ∧ ringPast s r = true ∧ (s.twin.pairs.getD r ⟨true⟩).closed = false ∧
      s.twin.openQueue = [] ∧ (∀ n ∈ ringLanes r, portGroup s n = none ∧ linkUp s n = false)) ∧
    (∃ (s : State) (req : Requester) (r : Fin 4), Reaches s req (Reg.twinRingCtrl.addr [r]) ∧
      rdBit s Reg.twinRingCtrl [r] 1 = false ∧ flag (stagedWord s Reg.twinRingCtrl [r]) 31 = false ∧
      (s.twin.pairs.getD r ⟨true⟩).closed = true ∧ s.twin.openQueue = []) ∧
    (∃ (s : State) (req : Requester) (r : Fin 4), Reaches s req (Reg.twinRingCtrl.addr [r]) ∧
      rdBit s Reg.twinRingCtrl [r] 1 = true ∧ flag (stagedWord s Reg.twinRingCtrl [r]) 31 = false ∧
      ringEnabled s r = true) :=
  ⟨⟨(ring3 3), (3 : Fin 4), by decide +kernel⟩,
   ⟨(putWord (ring3 0) Reg.twinRingStat [0] 0x20000000), (3 : Fin 4), by decide +kernel⟩,
   ⟨(ring3 2), (3 : Fin 4), by decide +kernel⟩,
   ⟨({ ring3 3 with twin := { base.twin with reopen := [3] } }), (3 : Fin 4), by decide +kernel⟩,
   ⟨(later { reg Reg.glbReady [] 0x3FF (reg Reg.twinRingCtrl [3] 4 base) with image := { image with ring := List.replicate 4 1 } }),
     (3 : Fin 4), by decide +kernel⟩,
   ⟨(putWord (putWord (ring3 1) Reg.hpLinkStat [46] 1) Reg.hpLinkStat [47] 1), (3 : Fin 4), by decide +kernel⟩,
   ⟨(later { ring3 1 with twin := { base.twin with pairs := [⟨true⟩, ⟨true⟩, ⟨true⟩, ⟨false⟩] } }), (3 : Fin 4),
     by decide +kernel⟩,
   ⟨(ring3 0), (.mc 0), (3 : Fin 4), by decide +kernel⟩,
   ⟨(reg Reg.twinRingCtrl [3] 2 (ring3 4)), (.mc 0), (3 : Fin 4), by decide +kernel⟩⟩

theorem witness_RingsAreGoverned :
    (∃ (s : State) (el : _) (now : _), (now.sched.queues = [] ∧ now.host.rxWait = [] ∧ now.host.tdma = none ∧ (∀ w < 2,
      word now Reg.fdbLockHost [w] = 0)) ∧ now = advance el s) ∧
    (∃ (s : State) (d0 : _) (oor : _) (bm : _), (hostUp s = false ∨ (d0 && oor && bm) = true ∨ s.sched.queues = [])) ∧
    (∃ (s : State) (req : Requester) (tx : _) (r : Fin 64) (data : Word),
      Reaches s req ((ringTailReg tx).addr (ringIx s r)) ∧
      (fld data 15 0 + 65536 - ringHead s tx r) % 65536 ≤ ringSize s tx r) ∧
    (∃ (s : State) (req : Requester) (tx : _) (r : Fin 64) (data : Word),
      Reaches s req ((ringTailReg tx).addr (ringIx s r)) ∧
      ringSize s tx r < (fld data 15 0 + 65536 - ringHead s tx r) % 65536) ∧
    (∃ (s : State) (req : Requester) (tx : _) (r : Fin 64), Reaches s req ((ringCfgReg tx).addr (ringIx s r)) ∧
      ringOn s tx r = false) ∧
    (∃ (s : State) (req : Requester) (r : Fin 64), Reaches s req (Reg.hostTxCfg.addr (ringIx s r)) ∧
      ringOn s true r = true) ∧
    (∃ (s : State) (req : Requester) (r : Fin 64), Reaches s req (Reg.hostRxCfg.addr (ringIx s r)) ∧
      ringOn s false r = true ∧ rxWaits s r = []) :=
  ⟨⟨(reg Reg.glbMsHold [] 1 (ring63 true 0x80800008 5 1)), 1,
    ((advance 1 (reg Reg.glbMsHold [] 1 (ring63 true 0x80800008 5 1)))), by decide +kernel, rfl⟩,
   ⟨base, false, true, true, by decide +kernel⟩,
   ⟨base, .host, true, (63 : Fin 64), 256, by decide +kernel⟩,
   ⟨base, .host, false, (63 : Fin 64), 257, by decide +kernel⟩,
   ⟨base, .host, true, (63 : Fin 64), by decide +kernel⟩,
   ⟨(ring63 true 0x80800008 0 1), .host, (63 : Fin 64), by decide +kernel⟩,
   ⟨(ring63 false 0x80800008 0 1), .host, (63 : Fin 64), by decide +kernel⟩⟩

theorem witness_FramesPassTheRings :
    (∃ (s : State) (r : Fin 64) (el : _) (bufs : List (BitVec 64)) (w : RxWait) (rest : List RxWait) (n : Nat) (now : _),
      (now.bpm.tagsInUse < tagLimit ∧ hostUp now = true ∧ ringOn now false r = true ∧ rxWaits now r = w :: rest ∧
      w.spoiled = false ∧ rxNeeds now r w.bytes.length = n ∧ n ≤ rxAvailable now r ∧ bufs.length = n) ∧ now = advance el s) ∧
    (∃ (s : State) (r : Fin 64) (i : Nat) (el : _) (w : RxWait) (now : _), ((rxWaits now r)[i]? = some w ∧
      w.joinedAt + w.wait * 800 ≤ now.time.dt) ∧ now = advance el s) ∧
    (∃ (s : State) (r : Fin 64) (el : _) (chain : List TxDesc) (now : _), (now.bpm.tagsInUse < tagLimit ∧
      hostUp now = true ∧ forwards now = true ∧ ringMode now true r = 1 ∧ chain ≠ [] ∧ chain.length ≤ txPosted now r ∧
      chainStatus chain = 0 ∧ Quiet now) ∧ now = advance el s) ∧
    (∃ (s : State) (r : Fin 64) (el : _) (chain : List TxDesc) (now : _), (now.bpm.tagsInUse < tagLimit ∧
      hostUp now = true ∧ forwards now = true ∧ ringMode now true r = 1 ∧ chain ≠ [] ∧ chain.length ≤ txPosted now r ∧
      (chainStatus chain = 1 ∨ chainStatus chain = 4) ∧ Quiet now) ∧ now = advance el s) ∧
    (∃ (s : State) (r : Fin 64) (el : _) (chain : List TxDesc) (now : _), (now.bpm.tagsInUse < tagLimit ∧
      hostUp now = true ∧ forwards now = true ∧ ringMode now true r = 1 ∧ chain ≠ [] ∧ chain.length ≤ txPosted now r ∧
      (chainStatus chain = 2 ∨ chainStatus chain = 3) ∧ Quiet now) ∧ now = advance el s) ∧
    (∃ (s : State) (r : Fin 64) (x : TxPending) (rest : List TxPending) (st : Nat) (z : Option Stamp),
      s.bpm.tagsInUse < tagLimit ∧ hostUp s = true ∧ txWaits s r = x :: rest ∧ txOutcome s x = some (st, z)) ∧
    (∃ (s : State) (el : _) (now : _), tagLimit ≤ now.bpm.tagsInUse ∧ now = advance el s) ∧
    (∃ (s : State) (el : _) (now : _), tagLimit ≤ now.bpm.tagsInUse ∧ now = advance el s) ∧
    (∃ (s : State), tagLimit ≤ s.bpm.tagsInUse) ∧
    (∃ (s : State) (r : Fin 64) (el : _) (bufs : List (BitVec 64)) (w : RxWait) (rest : List RxWait) (now : _),
      (now.bpm.tagsInUse < tagLimit ∧ hostUp now = true ∧ ringOn now false r = true ∧ rxWaits now r = w :: rest ∧
      w.spoiled = true ∧ rxNeeds now r w.bytes.length = bufs.length ∧ bufs.length ≤ rxAvailable now r) ∧
      now = advance el s) :=
  ⟨⟨({ ring63 false 0x83800001 3 1 with host := { base.host with rxWait := [(63, [rxWait])] } }), (63 : Fin 64), 1,
    (([0x1000, 0x2000, 0x3000] : List (BitVec 64))), ((rxWait : RxWait)), (([] : List RxWait)), ((3 : Nat)),
    ((advance 1 ({ ring63 false 0x83800001 3 1 with host := { base.host with rxWait := [(63, [rxWait])] } }))),
    by decide +kernel, rfl⟩,
   ⟨({ ring63 false 0x80800001 3 1 with host := { base.host with rxWait := [(63, [rxWait])] } }), (63 : Fin 64),
     ((0 : Nat)), 4000, ((rxWait : RxWait)),
     ((advance 4000 ({ ring63 false 0x80800001 3 1 with host := { base.host with rxWait := [(63, [rxWait])] } }))),
     by decide +kernel, rfl⟩,
   ⟨(ring63 true 0x80800001 2 1), (63 : Fin 64), 1, (([txDescOf true false true 95,
     txDescOf false true false 0] : List TxDesc)), ((advance 1 (ring63 true 0x80800001 2 1))), by decide +kernel, rfl⟩,
   ⟨(ring63 true 0x80800001 2 1), (63 : Fin 64), 1, (([txDescOf true false true 96,
     txDescOf false true false 0] : List TxDesc)), ((advance 1 (ring63 true 0x80800001 2 1))), by decide +kernel, rfl⟩,
   ⟨(ring63 true 0x80800001 2 1), (63 : Fin 64), 1, (([txDescOf true true true 95,
     txDescOf false true false 0] : List TxDesc)), ((advance 1 (ring63 true 0x80800001 2 1))), by decide +kernel, rfl⟩,
   ⟨({ ring63 true 0x83800001 2 1 with host := { base.host with txPending := [(63, [((⟨2, some 1, 0, true, some stampZero, [], none⟩ : TxPending))])] } }),
     (63 : Fin 64), ((⟨2, some 1, 0, true, some stampZero, [], none⟩ : TxPending)), (([] : List TxPending)), ((0 : Nat)),
     ((some stampZero : Option Stamp)), by decide +kernel⟩,
   ⟨({ base with bpm := { base.bpm with tagsInUse := 65536 } }), 4,
     ((advance 4 ({ base with bpm := { base.bpm with tagsInUse := 65536 } }))), by decide +kernel, rfl⟩,
   ⟨({ base with bpm := { base.bpm with tagsInUse := 65536 } }), 4,
     ((advance 4 ({ base with bpm := { base.bpm with tagsInUse := 65536 } }))), by decide +kernel, rfl⟩,
   ⟨({ base with bpm := { base.bpm with tagsInUse := 65536 } }), by decide +kernel⟩,
   ⟨({ ring63 false 0x83800001 3 1 with host := { base.host with rxWait := [(63, [{ rxWait with spoiled := true }])] } }),
     (63 : Fin 64), 1, (([0x1000, 0x2000, 0x3000] : List (BitVec 64))), (({ rxWait with spoiled := true } : RxWait)),
     (([] : List RxWait)),
     ((advance 1 ({ ring63 false 0x83800001 3 1 with host := { base.host with rxWait := [(63, [{ rxWait with spoiled := true }])] } }))),
     by decide +kernel, rfl⟩⟩

theorem witness_TablesMoveByDma :
    (∃ (s : State) (req : Requester), Reaches s req (Reg.glbTdmaCtrl.addr []) ∧ rdBit s Reg.glbTdmaCtrl [] 30 = true) ∧
    (∃ (s : State) (req : Requester) (data : Word) (st : Nat), Reaches s req (Reg.glbTdmaCtrl.addr []) ∧
      rdBit s Reg.glbTdmaCtrl [] 30 = false ∧
      dmaCheck s (rd s Reg.glbTdmaWin [] 31 0) (rd s Reg.glbTdmaLen [] 16 0) (flag data 29) = st ∧ st ≠ 0) ∧
    (∃ (s : State) (req : Requester) (data : Word), Reaches s req (Reg.glbTdmaCtrl.addr []) ∧
      rdBit s Reg.glbTdmaCtrl [] 30 = false ∧
      dmaCheck s (rd s Reg.glbTdmaWin [] 31 0) (rd s Reg.glbTdmaLen [] 16 0) (flag data 29) = 0) ∧
    (∃ (s : State) (d : TableDma) (i : Nat) (tb : Table) (e : Nat) (k : Nat), s.bpm.tagsInUse < tagLimit ∧
      s.host.tdma = some d ∧ d.buf = some i ∧ dmaTable d.win d.len = some (tb, e) ∧ 0 < d.len / (shapeOf tb).2.1 ∧
      k < (shapeOf tb).2.1 ∧ Quiet s) ∧
    (∃ (s : State) (d : TableDma) (i : Nat) (tb : Table) (e : Nat), s.bpm.tagsInUse < tagLimit ∧ s.host.tdma = some d ∧
      d.buf = some i ∧ dmaTable d.win d.len = some (tb, e) ∧ d.toTable = false ∧ d.len = (shapeOf tb).2.1) :=
  ⟨⟨(reg Reg.glbTdmaCtrl [] 0x40000000 base), .host, by decide +kernel⟩,
   ⟨(reg Reg.glbTdmaLen [] 15 (reg Reg.glbTdmaWin [] 0x2000000 base)), .host, 0x80000000, ((3 : Nat)), by decide +kernel⟩,
   ⟨(reg Reg.glbTdmaLen [] 0x10000 (reg Reg.glbTdmaWin [] 0x2000000 base)), .host, 0x80000000, by decide +kernel⟩,
   ⟨({ withBuf 5 (bufOf 0) with host := { base.host with tdma := some ((dmaLast true : TableDma)) } }),
     ((dmaLast true : TableDma)), ((5 : Nat)), .fdb, ((131071 : Nat)), ((15 : Nat)), by decide +kernel⟩,
   ⟨({ withBuf 5 (bufOf 0) with host := { base.host with tdma := some ((dmaLast false : TableDma)) } }),
     ((dmaLast false : TableDma)), ((5 : Nat)), .fdb, ((131071 : Nat)), by decide +kernel⟩⟩

theorem witness_RegionsReplace :
    (∃ (s : State) (req : Requester) (c : Nat), Reaches s req (Reg.imgSiReplCtrl.addr []) ∧ replState s = 1 ∧
      readPartial s (stagedBytes s) = .error c ∧ updStep s ≠ 3) ∧
    (∀ (i : Img) x ids, readPartial { repl 1 none with img := i } (stagedBytes { repl 1 none with img := i }) = .ok (x,
      ids) → ∃ (s : State) (req : Requester) (y : Image) (l : List Nat), Reaches s req (Reg.imgSiReplCtrl.addr []) ∧
      replState s = 1 ∧ readPartial s (stagedBytes s) = .ok (y, l)) ∧
    (∃ (s : State) (req : Requester), Reaches s req (Reg.imgSiReplCtrl.addr []) ∧ replState s ≠ 1) ∧
    (∃ (s : State) (req : Requester), Reaches s req (Reg.imgSiReplCtrl.addr []) ∧ replState s = 2) ∧
    (∃ (s : State) (req : Requester), Reaches s req (Reg.imgSiReplCtrl.addr []) ∧ replState s ≠ 2) ∧
    (∃ (s : State) (req : Requester), Reaches s req (Reg.imgSiReplCtrl.addr []) ∧ (replState s = 2 ∨ replState s = 3) ∧
      updStep s ≠ 3) ∧
    (∃ (s : State) (req : Requester), Reaches s req (Reg.imgSiReplCtrl.addr []) ∧
      (replState s = 4 ∨ replState s = 5 ∨ replState s = 6)) ∧
    (∃ (s : State) (x : Image), (s.img.repl.container = some x ∧ switchDue s = true ∧ ballsFree s x = true ∧
      paired s = false ∧ updStep s ≠ 3) ∧ queuesFree s x = true) ∧
    (∃ (s : State) (x : Image), (s.img.repl.container = some x ∧ switchDue s = true ∧ s.img.activation = none ∧
      updStep s ≠ 3) ∧ queuesFree s x = false) ∧
    (∃ (s : State), offline s = false ∧ role s = 2 ∧ paired s = true ∧ (replState s = 2 ∨ replState s = 3)) ∧
    (∀ (i : Img) b x ids, i.staging.holder = none → readPartial { twinned 0x48000000 with img := i } b = .ok (x,
      ids) → ∃ (s : State) (bytes : List Byte) (y : Image) (l : List Nat), offline s = false ∧ role s = 2 ∧ paired s = true ∧
      replState s ≠ 2 ∧ replState s ≠ 3 ∧ s.img.staging.holder = none ∧ readPartial s bytes = .ok (y, l)) :=
  ⟨⟨(repl 1 none), .host, ((1 : Nat)), by decide +kernel⟩,
   fun i x ids e => ⟨{ repl 1 none with img := i }, .host, x, ids, reaches_img i (by decide +kernel),
     replState_img i (by decide +kernel), e⟩,
   ⟨(repl 2 none), .host, by decide +kernel⟩,
   ⟨(repl 2 none), .host, by decide +kernel⟩,
   ⟨(repl 3 none), .host, by decide +kernel⟩,
   ⟨(repl 3 none), .host, by decide +kernel⟩,
   ⟨(repl 6 none), .host, by decide +kernel⟩,
   ⟨(repl 3 (some (({ base.image with ver := 9 } : Image)))), (({ base.image with ver := 9 } : Image)), by decide +kernel,
     free_same _ 9⟩,
   ⟨({ repl 3 (some (({ image with qpart := [] } : Image))) with sched := { base.sched with queues := [(1024, { Queue.empty with copies := [copyOf 1] })] } }),
     (({ image with qpart := [] } : Image)), by decide +kernel, not_free _ _ 1024 (by decide) (by decide +kernel)⟩,
   ⟨(putWord (repl 2 none) Reg.twinStat [] 0x48000000), by decide +kernel⟩,
   fun i b x ids n e => ⟨{ twinned 0x48000000 with img := i }, b, x, ids, offline_img i (by decide +kernel),
     rd_img i (by decide +kernel), rdBit_img i (by decide +kernel),
     fun h => absurd ((replState_img i (v := 0) (by decide +kernel)).symm.trans h) (by decide),
     fun h => absurd ((replState_img i (v := 0) (by decide +kernel)).symm.trans h) (by decide), n, e⟩⟩

theorem witness_BundlesAreStaged :
    (∃ (s : State) (kind : Bool), Reaches s .host (Reg.imgStageCmd.addr []) ∧ rdBit s Reg.imgStageCmd [] 30 = false ∧
      s.img.staging.holder = none ∧ mayStage s .host = true ∧ (kind = true ∨ onTrial s = false)) ∧
    (∃ (s : State), Reaches s .host (Reg.imgStageCmd.addr []) ∧ rdBit s Reg.imgStageCmd [] 30 = false ∧
      s.img.staging.holder ≠ none) ∧
    (∃ (s : State), Reaches s .host (Reg.imgStageCmd.addr []) ∧ rdBit s Reg.imgStageCmd [] 30 = false ∧
      s.img.staging.holder = none ∧ mayStage s .host = false) ∧
    (∃ (s : State) (ofs : _) (len : _), Reaches s .host (Reg.imgStageCmd.addr []) ∧ rdBit s Reg.imgStageCmd [] 30 = false ∧
      s.img.staging.holder = some .host ∧ stageState s = 1 ∧ (word s Reg.imgStageOfs []).toNat = ofs ∧
      (word s Reg.imgStageLen []).toNat = len) ∧
    (∃ (s : State), Reaches s .host (Reg.imgStageCmd.addr []) ∧ rdBit s Reg.imgStageCmd [] 30 = false ∧
      s.img.staging.holder ≠ some .host) ∧
    (∃ (s : State) (ofs : Nat) (len : Nat), s.img.staging.copying = some (ofs, len) ∧ s.img.staging.holder = some .host ∧
      stageKind s = 1 ∧ stageRange ofs len = true ∧ Quiet s) ∧
    (∃ (s : State) (c : Nat × Nat), s.img.staging.copying = some c ∧ s.img.staging.holder = some .host) ∧
    (∃ (s : State), Reaches s .host (Reg.imgStageCmd.addr []) ∧ rdBit s Reg.imgStageCmd [] 30 = false ∧
      s.img.staging.holder = some .host ∧ stageState s = 1 ∧ stageKind s = 0) ∧
    (∀ (z : Staging) x,
      z.holder = some .host → readBundle (lock (some .host) 0x40000000).img.custKey (lock (some .host) 0x40000000).img.floor (Memory.readList z.bytes 0 z.top) = .ok x → ∃ (s : State) (y : Bundle) (b : Nat),
      Reaches s .host (Reg.imgStageCmd.addr []) ∧ rdBit s Reg.imgStageCmd [] 30 = false ∧ s.img.staging.holder = some .host ∧
      stageState s = 2 ∧ stageKind s = 0 ∧ recovering s = false ∧
      readBundle s.img.custKey s.img.floor (stagedBytes s) = .ok y ∧ targetBank s = some b ∧ b < s.img.banks.length) ∧
    (∃ (s : State) (c : Nat), Reaches s .host (Reg.imgStageCmd.addr []) ∧ rdBit s Reg.imgStageCmd [] 30 = false ∧
      s.img.staging.holder = some .host ∧ stageState s = 2 ∧ stageKind s = 0 ∧
      readBundle s.img.custKey s.img.floor (stagedBytes s) = .error c) ∧
    (∃ (s : State) (x : _) (b : Nat), Reaches s .host (Reg.imgStageCmd.addr []) ∧ rdBit s Reg.imgStageCmd [] 30 = false ∧
      s.img.staging.holder = some .host ∧ stageState s = 3 ∧ stageKind s = 0 ∧ s.img.staging.bundle = some x ∧
      targetBank s = some b ∧ b < s.img.banks.length) ∧
    (∃ (s : State), Reaches s .host (Reg.imgStageCmd.addr []) ∧ rdBit s Reg.imgStageCmd [] 30 = false ∧
      s.img.staging.holder = some .host ∧ stageKind s = 0) ∧
    (∃ (s : State), s.img.staging.holder ≠ none ∧ stageKind s = 0 ∧ s.img.staging.lastAt + msTicks 600000 ≤ s.time.dt) :=
  ⟨⟨base, true, by decide +kernel⟩,
   ⟨(lock (some .twinPeer) 0x20000000), by decide +kernel⟩,
   ⟨(putWord base Reg.imgUpdAuth [] 2), by decide +kernel⟩,
   ⟨(reg Reg.imgStageLen [] 1048576 (reg Reg.imgStageOfs [] 267386880 (lock (some .host) 0x20000000))),
     (((word (reg Reg.imgStageLen [] 1048576 (reg Reg.imgStageOfs [] 267386880 (lock (some .host) 0x20000000))) Reg.imgStageOfs []).toNat)),
     (((word (reg Reg.imgStageLen [] 1048576 (reg Reg.imgStageOfs [] 267386880 (lock (some .host) 0x20000000))) Reg.imgStageLen []).toNat)),
     by decide +kernel⟩,
   ⟨(lock (some .twinPeer) 0x20000000), by decide +kernel⟩,
   ⟨({ lock (some .host) 0x24000000 with img := { base.img with staging := { Staging.free with holder := some .host, copying := some (64, 64) } } }),
     ((64 : Nat)), ((64 : Nat)), by decide +kernel⟩,
   ⟨({ lock (some .host) 0x20000000 with img := { base.img with staging := { Staging.free with holder := some .host, copying := some (0, 64) } } }),
     (((0, 64) : Nat × Nat)), by decide +kernel⟩,
   ⟨(lock (some .host) 0x20000000), by decide +kernel⟩,
   fun z x n e => ⟨{ lock (some .host) 0x40000000 with img := { (lock (some .host) 0x40000000).img with staging := z } },
     x, 1, reaches_img _ (by decide +kernel), rdBit_img _ (by decide +kernel), n, rd_img _ (by decide +kernel),
     rd_img _ (by decide +kernel), recovering_img _ (by decide +kernel), e, target_staging z (by decide +kernel),
     show 1 < (lock (some .host) 0x40000000).img.banks.length by decide +kernel⟩,
   ⟨(lock (some .host) 0x40000000), ((1 : Nat)), by decide +kernel⟩,
   ⟨({ lock (some .host) 0x60000000 with img := { base.img with staging := { Staging.free with holder := some .host, bundle := some bundle } } }),
     bundle, ((1 : Nat)), by decide +kernel⟩,
   ⟨(lock (some .host) 0x60000000), by decide +kernel⟩,
   ⟨(later (lock (some .twinPeer) 0x20000000)), by decide +kernel⟩⟩

theorem witness_ActivationsProceed :
    (∃ (s : State) (req : Requester), Reaches s req (Reg.imgUpdCmd.addr []) ∧ mayActivate s 1 ≠ 0) ∧
    (∃ (s : State) (req : Requester) (e : Nat) (es : List Nat), Reaches s req (Reg.imgUpdCmd.addr []) ∧
      mayActivate s 1 = 0 ∧ engines s = e :: es ∧ placeMode s 0 ≠ 0 ∧ (role s ≠ 1 ∨ paired s = false)) ∧
    (∃ (s : State) (req : Requester), Reaches s req (Reg.imgUpdCmd.addr []) ∧ mayActivate s 1 = 0 ∧ role s = 1 ∧
      paired s = true) ∧
    (∃ (s : State) (req : Requester), Reaches s req (Reg.imgUpdCmd.addr []) ∧ mayActivate s 2 = 0 ∧ role s = 1 ∧
      paired s = true) ∧
    (∃ (s : State) (req : Requester), Reaches s req (Reg.imgUpdCmd.addr []) ∧ mayActivate s 2 ≠ 0) ∧
    (∃ (s : State) (req : Requester) (b : Nat), Bypassed s ∧ Reaches s req (Reg.imgUpdCmd.addr []) ∧
      s.img.activation = none ∧ s.img.committed ≠ none ∧ targetBank s = some b ∧ (bankOfImg s b).state = 3) ∧
    (∃ (s : State) (req : Requester), Reaches s req (Reg.imgUpdCmd.addr []) ∧ s.img.activation = none ∧
      s.img.committed = none ∧ (bankOfImg s s.img.named).state ≠ 3) ∧
    (∃ (s : State) (e : Fin 64) (a : Activation) (e2 : Nat) (es : List Nat), s.img.activation = some a ∧ a.mode = 0 ∧
      a.engines = e.val :: e2 :: es ∧ jobsOn s e = [] ∧ placeMode s 0 ≠ 0) ∧
    (∃ (s : State) (e : Fin 64) (a : Activation), s.img.activation = some a ∧ a.mode = 0 ∧ a.engines.head? = some e.val ∧
      a.doneCores = [] ∧ a.doneEngines = [] ∧ drainPast s a = true) ∧
    (∃ (s : State) (c : Fin 4) (a : Activation) (c2 : Nat) (cs : List Nat), s.img.activation = some a ∧ a.mode = 0 ∧
      a.engines = [] ∧ a.cores = c.val :: c2 :: cs ∧ c.val ≠ 2 ∧ c2 < 4 ∧ (c.val = 3 → s.izl.held = [] ∧
      s.izl.orders.all (·.sentAt.isSome) = true)) ∧
    (∃ (s : State) (c : Fin 4) (a : Activation) (cs : List Nat), s.img.activation = some a ∧ a.mode = 0 ∧ a.engines = [] ∧
      a.cores = c.val :: cs) :=
  ⟨⟨(activating [63] []), .host, by decide +kernel⟩,
   ⟨(committed base), .host, ((0 : Nat)), (((List.range 64).drop 1 : List Nat)), by decide +kernel⟩,
   ⟨(committed (twinned 0x28000000)), .host, by decide +kernel⟩,
   ⟨(committed (twinned 0x28000000)), .host, by decide +kernel⟩,
   ⟨base, .host, by decide +kernel⟩,
   ⟨(committed base), .host, ((1 : Nat)), by decide +kernel⟩,
   ⟨base, .host, by decide +kernel⟩,
   ⟨(activating [63, 62] [2, 3, 1, 0]), (63 : Fin 64), ((⟨0, [63, 62], [2, 3, 1, 0], [], [], false, 0⟩ : Activation)),
     ((62 : Nat)), (([] : List Nat)), by decide +kernel⟩,
   ⟨(later (activating [63] [])), (63 : Fin 64), ((⟨0, [63], [], [], [], false, 0⟩ : Activation)), by decide +kernel⟩,
   ⟨({ activating [] [3, 1] with power := { base.power with coresDown := 8 } }), (3 : Fin 4), ((⟨0, [], [3, 1], [], [],
     false, 0⟩ : Activation)), ((1 : Nat)), (([] : List Nat)), by decide +kernel⟩,
   ⟨({ activating [] [3, 1] with power := { base.power with coresDown := 8 } }), (3 : Fin 4), ((⟨0, [], [3, 1], [], [],
     false, 0⟩ : Activation)), (([1] : List Nat)), by decide +kernel⟩⟩

theorem witness_TrialsAreConfirmed :
    (∃ (s : State) (req : Requester) (b : Nat), Reaches s req (Reg.imgUpdCmd.addr []) ∧ s.img.running = some b ∧
      (bankOfImg s b).state = 3) ∧
    (∃ (s : State) (req : Requester), Reaches s req (Reg.imgUpdCmd.addr []) ∧ onTrial s = false) ∧
    (∃ (s : State) (b : Nat), stageDone s 11 = true ∧ s.img.running = some b ∧ (bankOfImg s b).state = 3 ∧
      get 0 s.power.stageAt 11 + msTicks (1000 * rd s Reg.imgUpdCfg [] 31 16) ≤ s.time.dt) ∧
    (∃ (s : State) (req : Requester) (x : _), Reaches s req (Reg.imgUpdCmd.addr []) ∧ s.img.bundle = some x ∧
      onTrial s = false ∧ s.img.floor < x.svn) ∧
    (∃ (s : State) (req : Requester) (x : _), Reaches s req (Reg.imgUpdCmd.addr []) ∧ s.img.bundle = some x ∧
      (onTrial s = true ∨ x.svn ≤ s.img.floor)) ∧
    (∃ (s : State) (req : Requester), Reaches s req (Reg.imgUpdCmd.addr []) ∧ s.img.custKey = none) ∧
    (∃ (s : State) (req : Requester), Reaches s req (Reg.imgUpdCmd.addr []) ∧ s.img.custKey ≠ none) :=
  ⟨⟨(runs0 3), .host, ((0 : Nat)), by decide +kernel⟩,
   ⟨(runs0 2), .host, by decide +kernel⟩,
   ⟨(later (runs0 3)), ((0 : Nat)), by decide +kernel⟩,
   ⟨(runs0 2), .host, bundle, by decide +kernel⟩,
   ⟨(runs0 3), .host, bundle, by decide +kernel⟩,
   ⟨base, (.mc 1), by decide +kernel⟩,
   ⟨({ base with img := { base.img with custKey := some good } }), (.mc 1), by decide +kernel⟩⟩

theorem witness_UnitsReportAndBallsAreClaimed :
    (∃ (s : State) (a : Fin 14), maintActs s a = true ∧ a.val < 3) ∧
    (∃ (s : State) (a : Fin 14) (f : Nat) (x : Frame), maintActs s a = true ∧ a.val < 2 ∧ frame s f = some x) ∧
    (∃ (s : State) (a : Fin 14), maintActs s a = true ∧ a.val < 2) ∧
    (∃ (s : State) (a : Fin 14) (u : RecalUnit), unitActivity u = a.val ∧ s.maint.recal.contains ⟨u, true⟩ = true) ∧
    (∃ (s : State) (a : Fin 14) (u : RecalUnit), unitActivity u = a.val ∧ s.maint.recal.contains ⟨u, false⟩ = true) ∧
    (∃ (s : State) (a : Fin 14) (u : RecalUnit), unitActivity u = a.val ∧ (recalUnits s).contains u = true ∧
      unitOnPath s u = true ∧ (s.maint.recal.any fun r => r.unit == u) = false ∧
      (s.maint.due.any fun d => d.unit == u) = false) ∧
    (∃ (s : State), maintActs s 2 = true) ∧
    (∃ (s : State), maintActs s 2 = true) ∧
    (∃ (s : State), maintActs s 6 = true) ∧
    (∃ (s : State) (a : Fin 14) (res : MaintResult), maintActs s a = false ∧ fallsDue res = false) ∧
    (∃ (s : State) (m : Nat × Nat), s.obs.moving = some m) ∧
    (∃ (s : State) (req : Requester) (n : Fin 64) (code : Nat), Reaches s req (Reg.maintBall.addr [n]) ∧
      ballClaimed s n = false ∧ ballOwner s n = 0 ∧ code ≠ 0) ∧
    (∃ (s : State) (req : Requester) (n : Fin 64), Reaches s req (Reg.maintBall.addr [n]) ∧ ballClaimed s n = false ∧
      ballOwner s n ≠ 0 ∧ ballOwner s n = ownerCode req) ∧
    (∃ (s : State) (req : Requester) (n : Fin 64) (code : Nat), Reaches s req (Reg.maintBall.addr [n]) ∧
      ballClaimed s n = false ∧ ballOwner s n ≠ 0 ∧ ballOwner s n ≠ ownerCode req ∧ code ≠ 0) ∧
    (∃ (s : State) (req : Requester) (n : Fin 64), Reaches s req (Reg.maintBall.addr [n]) ∧ ballClaimed s n = false ∧
      ballOwner s n ≠ 0 ∧ ballOwner s n = ownerCode req) ∧
    (∃ (s : State) (req : Requester) (n : Fin 64), Reaches s req (Reg.maintBall.addr [n]) ∧ ballClaimed s n = true) :=
  ⟨⟨({ putWord base Reg.maintActive [] 0x7F with maint := { base.maint with recal := [⟨.twinLane 3, true⟩, ⟨.hlane 47, false⟩] } }),
    (2 : Fin 14), by decide +kernel⟩,
   ⟨(putFrame ({ putWord base Reg.maintActive [] 0x7F with maint := { base.maint with recal := [⟨.twinLane 3, true⟩, ⟨.hlane 47, false⟩] } }) 1 ((frameOf 3 good : Frame))),
     (1 : Fin 14), ((1 : Nat)), ((frameOf 3 good : Frame)), by decide +kernel⟩,
   ⟨({ putWord base Reg.maintActive [] 0x7F with maint := { base.maint with recal := [⟨.twinLane 3, true⟩, ⟨.hlane 47, false⟩] } }),
     (0 : Fin 14), by decide +kernel⟩,
   ⟨({ putWord base Reg.maintActive [] 0x7F with maint := { base.maint with recal := [⟨.twinLane 3, true⟩, ⟨.hlane 47, false⟩] } }),
     (3 : Fin 14), ((.twinLane 3 : RecalUnit)), by decide +kernel⟩,
   ⟨({ putWord base Reg.maintActive [] 0x7F with maint := { base.maint with recal := [⟨.twinLane 3, true⟩, ⟨.hlane 47, false⟩] } }),
     (3 : Fin 14), ((.hlane 47 : RecalUnit)), by decide +kernel⟩,
   ⟨onPath31, (4 : Fin 14), ((.copper 31 : RecalUnit)), by decide +kernel⟩,
   ⟨({ putWord base Reg.maintActive [] 0x7F with maint := { base.maint with recal := [⟨.twinLane 3, true⟩, ⟨.hlane 47, false⟩] } }),
     by decide +kernel⟩,
   ⟨({ putWord base Reg.maintActive [] 0x7F with maint := { base.maint with recal := [⟨.twinLane 3, true⟩, ⟨.hlane 47, false⟩] } }),
     by decide +kernel⟩,
   ⟨({ putWord base Reg.maintActive [] 0x7F with maint := { base.maint with recal := [⟨.twinLane 3, true⟩, ⟨.hlane 47, false⟩] } }),
     by decide +kernel⟩,
   ⟨base, (11 : Fin 14), ((.corrected : MaintResult)), by decide +kernel⟩,
   ⟨({ base with obs := { base.obs with moving := some (65536, 65536) } }), (((65536, 65536) : Nat × Nat)),
     by decide +kernel⟩,
   ⟨(putWord base Reg.maintBall [63] 3), (.mc 3), (63 : Fin 64), ((5 : Nat)), by decide +kernel⟩,
   ⟨(putWord base Reg.maintBall [63] 0x50000003), (.mc 3), (63 : Fin 64), by decide +kernel⟩,
   ⟨(putWord base Reg.maintBall [63] 0x10000003), (.mc 3), (63 : Fin 64), ((5 : Nat)), by decide +kernel⟩,
   ⟨(putWord base Reg.maintBall [63] 0x50000001), (.mc 3), (63 : Fin 64), by decide +kernel⟩,
   ⟨({ base with image := { image with ball := List.replicate 16 1 } }), .host, (63 : Fin 64), by decide +kernel⟩⟩

theorem witness_TraceAndEpochsReport :
    (∃ (s : State) (room : Nat) (r : Rec), rdBit s Reg.obsTraceCfg [] 31 = true ∧ s.obs.trace = [r] ∧ r.size ≤ room ∧
      r.size ≤ traceSpace) ∧
    (∃ (s : State) (room : Nat) (r : Rec), rdBit s Reg.obsTraceCfg [] 31 = true ∧ s.obs.trace = [r] ∧ room < r.size) ∧
    (∃ (s : State), rdBit s Reg.obsTraceCfg [] 31 = true ∧ rdBit s Reg.obsTraceCfg [] 14 = true ∧
      rd s Reg.obsSnapCfg [] 31 16 ≠ 0 ∧ s.obs.snapAt + snapTicks s ≤ s.time.dt ∧
      (List.range 12).filter (rdBit s Reg.obsSnapCfg []) = [4]) ∧
    (∃ (s : State) (el : _) (now : _), (now.obs.epochAt < epochStart now ∧ Quiet now ∧ now.obs.imported = none) ∧
      now = pass el s) ∧
    (∃ (s : State) (el : _) (crossings : List Byte) (r : Rec) (now : _), (now.obs.epochAt < epochStart now ∧
      recording now = true ∧ rdBit now Reg.obsTraceCfg [] 31 = false ∧ now.obs.imported = none ∧ now.obs.framesSent = [] ∧
      r = ({ ty := 6, flags := 0, dt := dtFrac now, src := 0, body := toBytes 4 (endedEpoch now) ++ toBytes 8 (crc64 crossings).toNat ++ crossings } : Rec) ∧
      now.obs.bytes + r.size ≤ captureSize) ∧ now = pass el s) :=
  ⟨⟨({ reg Reg.obsTraceCfg [] 0x80000000 base with obs := { base.obs with trace := [((recA : Rec))] } }), ((32 : Nat)),
    ((recA : Rec)), by decide +kernel⟩,
   ⟨({ reg Reg.obsTraceCfg [] 0x80000000 base with obs := { base.obs with trace := [((recA : Rec))] } }), ((31 : Nat)),
     ((recA : Rec)), by decide +kernel⟩,
   ⟨(later (reg Reg.obsSnapCfg [] 0x10010 (reg Reg.obsTraceCfg [] 0x80004000 base))), by decide +kernel⟩,
   ⟨({ base with obs := { base.obs with digestA := [(3, [1])], framesSent := [(3, 1)] } }), 800,
     ((pass 800 ({ base with obs := { base.obs with digestA := [(3, [1])], framesSent := [(3, 1)] } }))), by decide +kernel,
     rfl⟩,
   ⟨({ recIn 2 with obs := { base.obs with bytes := 2147483600 } }), 800, (([1, 2] : List Byte)),
     ((({ ty := 6, flags := 0, dt := dtFrac ((pass 800 ({ recIn 2 with obs := { base.obs with bytes := 2147483600 } }))), src := 0, body := toBytes 4 (endedEpoch ((pass 800 ({ recIn 2 with obs := { base.obs with bytes := 2147483600 } })))) ++ toBytes 8 (crc64 (([1, 2] : List Byte))).toNat ++ (([1, 2] : List Byte)) } : Rec))),
     ((pass 800 ({ recIn 2 with obs := { base.obs with bytes := 2147483600 } }))), by decide +kernel, rfl⟩⟩

theorem witness_RecorderChangesState :
    (∃ (s : State) (req : Requester), Reaches s req (Reg.obsRecCtrl.addr []) ∧ recState s = 0) ∧
    (∃ (s : State) (req : Requester), Reaches s req (Reg.obsRecCtrl.addr []) ∧ recState s ≠ 0) ∧
    (∃ (s : State) (req : Requester), s.power.inReset = false ∧ req ≠ .spi ∧ serves s (Reg.obsRecCtrl.addr []) = true ∧
      rerunState s < 2 ∧ recState s = 1) ∧
    (∃ (s : State) (req : Requester), Reaches s req (Reg.obsRecCtrl.addr []) ∧ recState s = 3) ∧
    (∃ (s : State) (req : Requester), Reaches s req (Reg.obsRecCtrl.addr []) ∧ recState s ≠ 3) ∧
    (∃ (s : State) (req : Requester), s.power.inReset = false ∧ req ≠ .spi ∧ serves s (Reg.obsRecCtrl.addr []) = true ∧
      rerunState s < 2 ∧ recState s = 1) ∧
    (∃ (s : State) (req : Requester), Reaches s req (Reg.obsRecCtrl.addr []) ∧ recState s ≠ 1) ∧
    (∃ (s : State) (m : Fin 4), mayFire s m = true ∧ recState s = 1) ∧
    (∃ (s : State) (m : Fin 4), mayFire s m = false) ∧
    (∃ (s : State), recState s = 2 ∧ s.obs.trigAt + msTicks (rd s Reg.obsRecCfg [] 11 0) ≤ s.time.dt) ∧
    (∃ (s : State), (recState s ≠ 2 ∨ s.time.dt < s.obs.trigAt + msTicks (rd s Reg.obsRecCfg [] 11 0))) ∧
    (∃ (s : State), recording s = true ∧ ckptDue s = true) ∧
    (∃ (s : State), (recording s = false ∨ ckptDue s = false)) :=
  ⟨⟨(recIn 0), .host, by decide +kernel⟩,
   ⟨(recIn 3), .host, by decide +kernel⟩,
   ⟨(recIn 1), .host, by decide +kernel⟩,
   ⟨(recIn 3), .host, by decide +kernel⟩,
   ⟨(recIn 0), .host, by decide +kernel⟩,
   ⟨(recIn 1), .host, by decide +kernel⟩,
   ⟨(recIn 3), .host, by decide +kernel⟩,
   ⟨(reg Reg.obsTrigCfg [3] 0xA0000000 (recIn 1)), (3 : Fin 4), by decide +kernel⟩,
   ⟨(recIn 1), (3 : Fin 4), by decide +kernel⟩,
   ⟨(later (recIn 2)), by decide +kernel⟩,
   ⟨(recIn 1), by decide +kernel⟩,
   ⟨(recIn 2), by decide +kernel⟩,
   ⟨(recIn 3), by decide +kernel⟩⟩

theorem witness_CapturesMoveAndReplay :
    (∃ (s : State) (req : Requester), Reaches s req (Reg.obsExpCtrl.addr []) ∧ rdBit s Reg.obsExpCtrl [] 30 = true) ∧
    (∃ (s : State) (req : Requester), Reaches s req (Reg.obsExpCtrl.addr []) ∧ rdBit s Reg.obsExpCtrl [] 30 = false ∧
      flag (stagedWord s Reg.obsExpCtrl []) 29 = false ∧ recState s ≠ 3) ∧
    (∃ (s : State) (req : Requester), Reaches s req (Reg.obsExpCtrl.addr []) ∧ rdBit s Reg.obsExpCtrl [] 30 = false ∧
      flag (stagedWord s Reg.obsExpCtrl []) 29 = false ∧ recState s = 3 ∧ expRange s = false) ∧
    (∃ (s : State) (req : Requester), Reaches s req (Reg.obsExpCtrl.addr []) ∧ rdBit s Reg.obsExpCtrl [] 30 = false ∧
      flag (stagedWord s Reg.obsExpCtrl []) 29 = false ∧ recState s = 3 ∧ expRange s = true) ∧
    (∃ (s : State) (req : Requester), Reaches s req (Reg.obsRerunCtrl.addr []) ∧
      flag (stagedWord s Reg.obsRerunCtrl []) 31 = false ∧ enterResult s (readCapture s) ≠ 0) ∧
    ((readCapture broughtIn).ckpts ≠ [] → ∃ (s : State) (req : Requester), (Reaches s req (Reg.obsRerunCtrl.addr []) ∧
      flag (stagedWord s Reg.obsRerunCtrl []) 31 = false ∧ Bypassed s) ∧ enterResult s (readCapture s) = 0) ∧
    (∃ (s : State) (req : Requester) (x : Rerun) (c : _), Reaches s req (Reg.obsRerunCtrl.addr []) ∧
      flag (stagedWord s Reg.obsRerunCtrl []) 30 = false ∧ rerunState s = 1 ∧ s.obs.imported = some x ∧ x.ckpts = [c] ∧
      c.residence = []) ∧
    (∃ (s : State) (req : Requester), Reaches s req (Reg.obsRerunCtrl.addr []) ∧
      flag (stagedWord s Reg.obsRerunCtrl []) 30 = false ∧ rerunState s = 0) :=
  ⟨⟨(putWord base Reg.obsExpCtrl [] 0x40000000), .host, by decide +kernel⟩,
   ⟨(exportOf 0 65536), .host, by decide +kernel⟩,
   ⟨(exportOf 3 65535), .host, by decide +kernel⟩,
   ⟨(exportOf 3 16777216), .host, by decide +kernel⟩,
   ⟨base, .host, by decide +kernel⟩,
   fun h => ⟨broughtIn, .host, by decide +kernel, enter_ok h⟩,
   ⟨({ putWord base Reg.obsRerunStat [] 0x20000000 with obs := { base.obs with imported := some ((rerunX : Rerun)) } }),
     .host, ((rerunX : Rerun)), ckptX, by decide +kernel⟩,
   ⟨base, .host, by decide +kernel⟩⟩

theorem witness_StepRunsFront :
    (∃ (s : State) (c : Instr) (r : List Instr), s.pending = c :: r) :=
  ⟨({ base with pending := [((.pmSecond 1 : Instr)), ((.pmSecond 1 : Instr))] }), ((.pmSecond 1 : Instr)),
    (([((.pmSecond 1 : Instr))] : List Instr)), by decide +kernel⟩

theorem witness_TimePasses :
    (∃ (s : State), s.pending = [] ∧ rerunState s ≠ 2 ∧ s.time.tbCmds = []) ∧
    (∃ (s : State), s.pending = [] ∧ rerunState s ≠ 2) ∧
    (∃ (s : State) (x : Rerun), s.pending = [] ∧ rerunState s = 2 ∧ s.obs.imported = some x) ∧
    (∃ (s : State) (el : _) (e : Nat) (now : _), (cycleEnd now = some e ∧ now.power.inReset = false ∧
      stageDone now 5 = false ∧ now.regs.waiting = [] ∧ Dark now ∧ now.time.ctxWait = [] ∧ now.place.pinsWait = [] ∧
      (∀ k < 8, isCluster now k = false) ∧ (∀ g < 16, groupOn now g = false) ∧ inHierarchy now = false ∧ mc2Up now = false ∧
      now.place.endings = [] ∧ now.place.lineMoves = [] ∧ role now = 0 ∧ paired now = false ∧ now.img.activation = none ∧
      Quiet now ∧ now.obs.lost = none ∧ (decide (2 ≤ tbState now 0) = now.time.alignTb0)) ∧ now = advance el s ∧ (∀ p,
      (port now p).lpiSince = none)) :=
  ⟨⟨base, by decide +kernel⟩,
   ⟨base, by decide +kernel⟩,
   ⟨({ putWord base Reg.obsRerunStat [] 0x40000000 with obs := { base.obs with imported := some ((rerunX : Rerun)) } }),
     ((rerunX : Rerun)), by decide +kernel⟩,
   ⟨(reg Reg.glbReady [] 0xFDF { base with image := { image with pop := 0x3FFF }, power := { base.power with coresDown := 4 } }),
     800000, ((800000 : Nat)),
     ((advance 800000 (reg Reg.glbReady [] 0xFDF { base with image := { image with pop := 0x3FFF }, power := { base.power with coresDown := 4 } }))),
     by decide +kernel, rfl, fun _ => rfl⟩⟩

end Sys2Proof.Slice0

end
end

/-! PROOFS. Buffers are counted (R190 to R193, R200, R209): the frames of the buffer operations, what each reads afterwards,
the order in which a slot applies its operations, and from these the effect of each operation in its slot. -/
namespace Sys2Proof.Machine

/-! ### Frames and readings of the buffer pool manager's updates -/

theorem onlyChanges_of_bpm (s : State) (x : Bpm) : OnlyChanges [.bpm] s { s with bpm := x } := by
  intro p hp; cases p <;> simp_all [Part.same]

theorem onlyChanges_putPool (s : State) (n : Nat) (p : Pool) : OnlyChanges [.bpm] s (putPool s n p) :=
  onlyChanges_of_bpm s _

theorem onlyChanges_putBuf (s : State) (n i : Nat) (b : Buf) : OnlyChanges [.bpm] s (putBuf s n i b) :=
  onlyChanges_putPool s n _

theorem OnlyChanges.bpm_eq {ps : List Part} {s t : State} (h : OnlyChanges ps s t) (hb : Part.bpm ∉ ps) : t.bpm = s.bpm :=
  h .bpm hb

theorem Does.imp {c : Instr} {s : State} {ps : List Part} {P Q : State → Prop} (h : Does c s ps P)
    (hPQ : ∀ t, P t → Q t) : Does c s ps Q :=
  let ⟨t, ht, hf, hp⟩ := h
  ⟨t, ht, hf, hPQ t hp⟩

theorem pool_of_pools {s t : State} (h : t.bpm.pools = s.bpm.pools) (n : Nat) : pool t n = pool s n := by
  rw [pool, pool, h]

theorem pool_putPool_same {s : State} {n : Nat} {p : Pool} (hn : n < s.bpm.pools.length) : pool (putPool s n p) n = p := by
  simp [pool, putPool, hn]

theorem findBuf_putBuf_same {s : State} {n i : Nat} {b : Buf} (hn : n < s.bpm.pools.length) :
    findBuf (putBuf s n i b) n i = some b := by
  rw [findBuf, putBuf, pool_putPool_same hn, find_put_same]

theorem findBuf_putBuf_other {s : State} {n i k : Nat} {b : Buf} (hn : n < s.bpm.pools.length) (h : k ≠ i) :
    findBuf (putBuf s n i b) n k = findBuf s n k := by
  rw [findBuf, putBuf, pool_putPool_same hn, find_put_other h, findBuf]

@[simp] theorem pools_length_putBuf (s : State) (n i : Nat) (b : Buf) :
    (putBuf s n i b).bpm.pools.length = s.bpm.pools.length := List.length_set

theorem put_put {α : Type} (l : Sparse α) (k : Nat) (v w : α) : put (put l k v) k w = put l k w := by
  induction l with
  | nil => simp [put]
  | cons x l ih =>
    obtain ⟨j, u⟩ := x
    rcases Nat.lt_trichotomy k j with h | h | h
    · simp [put, h]
    · simp [put, h]
    · simp [put, Nat.lt_asymm h, Nat.ne_of_gt h, ih]

theorem putBuf_putBuf {s : State} {n i : Nat} {b c : Buf} (hn : n < s.bpm.pools.length) :
    putBuf (putBuf s n i b) n i c = putBuf s n i c := by
  simp only [putBuf, pool_putPool_same hn, put_put]
  simp [putPool]

/-! ### Flow control beside a pool (R71, R98)

A discharge makes flow control follow the account; the MAC then changes neither the pools nor a counter of the BPM. -/

/-- Nothing changes but what the MAC of copper port `p` changes as it leaves LPI and begins frames of the device's own. -/
def MacOnly (p : Nat) (s t : State) : Prop :=
  OnlyChanges [.counters, .ports, .inForce] s t ∧ CountersBut [Ctr.cport.addr [p - 48] 47] s t

theorem MacOnly.refl (p : Nat) (s : State) : MacOnly p s s := ⟨.refl _ s, fun _ _ => rfl⟩

theorem MacOnly.trans {p : Nat} {s t u : State} (h : MacOnly p s t) (h' : MacOnly p t u) : MacOnly p s u :=
  ⟨h.1.trans h'.1, h.2.trans h'.2⟩

theorem macOnly_putPort (p : Nat) (s : State) (q : Nat) (x : Port) : MacOnly p s (putPort s q x) :=
  ⟨(onlyChanges_putPort s q x).mono (by simp), countersBut_of_eq rfl⟩

theorem macOnly_wrBit (p : Nat) (s : State) (r : RegRow) (ix : List Nat) (i : Nat) (b : Bool) :
    MacOnly p s (wrBit s r ix i b) :=
  ⟨(onlyChanges_wrBit s r ix i b).mono (by simp), countersBut_of_eq rfl⟩

theorem macOnly_countLpi (s : State) (p : Nat) : MacOnly p s (countLpi s p) := by
  unfold countLpi
  split
  · exact .refl p s
  · exact (macOnly_putPort p s p _).trans
      ⟨(onlyChanges_bump _ _ _ _ _).mono (by simp), countersBut_bump (List.mem_singleton_self _)⟩

theorem macOnly_leaveLpi (s : State) (p : Nat) : MacOnly p s (leaveLpi s p) := by
  unfold leaveLpi
  split
  · exact .refl p s
  · exact ((macOnly_countLpi s p).trans (macOnly_wrBit p _ _ _ _ _)).trans (macOnly_putPort p _ p _)

theorem macOnly_startOwn (s : State) (p : Nat) : MacOnly p s (startOwn s p) := by
  unfold startOwn
  split
  · exact .refl p s
  · split
    · exact macOnly_putPort p s p _
    · exact .refl p s

theorem macOnly_sendOwn (s : State) (p : Nat) (o : OwnFrame) : MacOnly p s (sendOwn s p o) := by
  unfold sendOwn
  split
  · exact ((macOnly_leaveLpi s p).trans (macOnly_putPort p _ p _)).trans (macOnly_startOwn _ p)
  · exact .refl p s

theorem macOnly_sendPause (s : State) (p q : Nat) : MacOnly p s (sendPause s p q) := by
  unfold sendPause sendControlFrame
  split
  · exact macOnly_sendOwn s p _
  · exact (macOnly_putPort p s p _).trans (macOnly_sendOwn _ p _)

theorem macOnly_sendPfc (s : State) (p : Nat) (vector xoff : BitVec 8) : MacOnly p s (sendPfc s p vector xoff) := by
  unfold sendPfc sendControlFrame
  split
  · exact macOnly_sendOwn s p _
  · exact (macOnly_putPort p s p _).trans (macOnly_sendOwn _ p _)

theorem macOnly_ite {p : Nat} {s t u : State} {c : Prop} [Decidable c] (ht : MacOnly p s t) (hu : MacOnly p s u) :
    MacOnly p s (if c then t else u) := by
  split
  · exact ht
  · exact hu

theorem macOnly_followAccount (s : State) (p : Nat) : MacOnly p s (followAccount s p) := by
  unfold followAccount
  have pause (x : Port) (q : Nat) : MacOnly p s (sendPause (putPort s p x) p q) :=
    (macOnly_putPort p s p x).trans (macOnly_sendPause _ p q)
  have pfc (x : Port) (v w : BitVec 8) : MacOnly p s (sendPfc (putPort s p x) p v w) :=
    (macOnly_putPort p s p x).trans (macOnly_sendPfc _ p v w)
  refine macOnly_ite (.refl p s) (macOnly_ite (.trans ?_ (macOnly_putPort p _ p _)) (.trans ?_ (macOnly_putPort p _ p _)))
  all_goals
    exact macOnly_ite (macOnly_ite (pause _ _) (macOnly_ite (pause _ _) (.refl p s)))
      (macOnly_ite (macOnly_ite (pfc _ _ _) (.refl p s)) (.refl p s))

theorem ctr_bpm_followAccount (s : State) (p i : Nat) : ctr (followAccount s p) Ctr.bpm [] i = ctr s Ctr.bpm [] i := by
  by_cases hp : 80 ≤ p
  · simp [followAccount, hp]
  · refine (macOnly_followAccount s p).2 _ ?_
    simp only [List.mem_singleton, CtrGroup.addr, Ctr.bpm, Ctr.cport, List.map, offsetOf]
    omega

/-! ### Charges released, and buffers that return (R192, R194) -/

theorem discharge_eq_followAccount (s : State) (r c n : Nat) :
    ∃ x : Bpm, discharge s r c n = followAccount { s with bpm := x } r ∧ x.pools = s.bpm.pools := ⟨_, rfl, rfl⟩

theorem discharge_pools (s : State) (r c n : Nat) : (discharge s r c n).bpm.pools = s.bpm.pools := by
  obtain ⟨x, h, hx⟩ := discharge_eq_followAccount s r c n
  rw [h, (macOnly_followAccount _ r).1.bpm_eq (by simp), hx]

theorem ctr_bpm_discharge (s : State) (r c n i : Nat) :
    ctr (discharge s r c n) Ctr.bpm [] i = ctr s Ctr.bpm [] i := by
  obtain ⟨x, h, -⟩ := discharge_eq_followAccount s r c n
  rw [h, ctr_bpm_followAccount]; rfl

/-- What may change as a buffer returns: the BPM, and what flow control changes. -/
abbrev returnParts : List Part := [.bpm, .counters, .ports, .inForce]

theorem onlyChanges_discharge (s : State) (r c n : Nat) : OnlyChanges returnParts s (discharge s r c n) := by
  obtain ⟨x, h, -⟩ := discharge_eq_followAccount s r c n
  rw [h]
  exact ((onlyChanges_of_bpm s x).mono (by simp)).trans ((macOnly_followAccount _ r).1.mono (by simp))

/-- Pool `p` once buffer `i`, whose descriptor is `b`, has returned. -/
def Pool.withReturned (p : Pool) (i : Nat) (b : Buf) : Pool :=
  { p with bufs := drop p.bufs i, returned := p.returned ++ b.cells, reserveUsed := p.reserveUsed - b.fromReserve }

section
variable {s : State} {n i : Nat} {b : Buf}

theorem returnBuf_cell (hb : findBuf s 0 i = some b) :
    returnBuf s 0 i = discharge (putPool s 0 ((pool s 0).withReturned i b)) b.requester b.cls b.cells.length := by
  rw [returnBuf, hb]; rfl

theorem returnBuf_dram (hb : findBuf s n i = some b) (h : n ≠ 0) :
    returnBuf s n i = putPool s n ((pool s n).withReturned i b) := by
  rw [returnBuf, hb]; exact if_neg h

theorem pools_returnBuf (hb : findBuf s n i = some b) :
    (returnBuf s n i).bpm.pools = (putPool s n ((pool s n).withReturned i b)).bpm.pools := by
  rcases Nat.eq_zero_or_pos n with rfl | h
  · rw [returnBuf_cell hb, discharge_pools]
  · rw [returnBuf_dram hb h.ne']

theorem pool_returnBuf (hb : findBuf s n i = some b) (hn : n < s.bpm.pools.length) :
    pool (returnBuf s n i) n = (pool s n).withReturned i b := by
  rw [pool_of_pools (pools_returnBuf hb), pool_putPool_same hn]

theorem findBuf_returnBuf_same (hb : findBuf s n i = some b) (hn : n < s.bpm.pools.length) :
    findBuf (returnBuf s n i) n i = none := by
  rw [findBuf, pool_returnBuf hb hn]; exact find_drop_same

theorem findBuf_returnBuf_other {k : Nat} (hb : findBuf s n i = some b) (hn : n < s.bpm.pools.length) (h : k ≠ i) :
    findBuf (returnBuf s n i) n k = findBuf s n k := by
  rw [findBuf, pool_returnBuf hb hn]; exact find_drop_other h

theorem ctr_bpm_returnBuf (hb : findBuf s n i = some b) (j : Nat) :
    ctr (returnBuf s n i) Ctr.bpm [] j = ctr s Ctr.bpm [] j := by
  rcases Nat.eq_zero_or_pos n with rfl | h
  · rw [returnBuf_cell hb, ctr_bpm_discharge]; rfl
  · rw [returnBuf_dram hb h.ne']; rfl

theorem onlyChanges_returnBuf_dram (hb : findBuf s n i = some b) (h : n ≠ 0) :
    OnlyChanges [.bpm] s (returnBuf s n i) := by
  rw [returnBuf_dram hb h]; exact onlyChanges_putPool s n _

theorem onlyChanges_returnBuf (hb : findBuf s n i = some b) : OnlyChanges returnParts s (returnBuf s n i) := by
  rcases Nat.eq_zero_or_pos n with rfl | h
  · rw [returnBuf_cell hb]
    exact ((onlyChanges_putPool s 0 _).mono (by simp)).trans (onlyChanges_discharge _ _ _ _)
  · exact (onlyChanges_returnBuf_dram hb h.ne').mono (by simp)

/-! ### The last reference is released (R192, R194) -/

theorem letGo_closed (hb : findBuf s n i = some b) (hc : b.closed = true) : letGo s n i = returnBuf s n i := by
  simp [letGo, hb, hc]

theorem letGo_open (hb : findBuf s n i = some b) (hc : b.closed = false) :
    letGo s n i = putBuf s n i { b with returning := true } := by
  simp [letGo, hb, hc]

theorem findBuf_letGo_same (hb : findBuf s n i = some b) (hn : n < s.bpm.pools.length) :
    findBuf (letGo s n i) n i = if b.closed then none else some { b with returning := true } := by
  cases hc : b.closed
  · simp [letGo_open hb hc, findBuf_putBuf_same hn, hc]
  · simp [letGo_closed hb hc, findBuf_returnBuf_same hb hn]

theorem findBuf_letGo_other {k : Nat} (hb : findBuf s n i = some b) (hn : n < s.bpm.pools.length) (h : k ≠ i) :
    findBuf (letGo s n i) n k = findBuf s n k := by
  cases hc : b.closed
  · rw [letGo_open hb hc, findBuf_putBuf_other hn h]
  · rw [letGo_closed hb hc, findBuf_returnBuf_other hb hn h]

theorem ctr_bpm_letGo (hb : findBuf s n i = some b) (j : Nat) :
    ctr (letGo s n i) Ctr.bpm [] j = ctr s Ctr.bpm [] j := by
  cases hc : b.closed
  · rw [letGo_open hb hc]; rfl
  · rw [letGo_closed hb hc, ctr_bpm_returnBuf hb]

theorem onlyChanges_letGo (hb : findBuf s n i = some b) : OnlyChanges returnParts s (letGo s n i) := by
  cases hc : b.closed
  · rw [letGo_open hb hc]; exact (onlyChanges_putBuf s n i _).mono (by simp)
  · rw [letGo_closed hb hc]; exact onlyChanges_returnBuf hb

/-! ### One holder drops its reference (R191, R192) -/

/-- The buffer without one reference of holder `tag`. -/
def Buf.without (b : Buf) (tag : BitVec 8) : Buf := { b with holders := b.holders.erase tag, count := b.count - 1 }

theorem dropHolder_eq (tag : BitVec 8) (hb : findBuf s n i = some b) (hn : n < s.bpm.pools.length) :
    dropHolder s n i tag = if b.count - 1 = 1 ∧ b.deferred then letGo (bump (putBuf s n i (b.without tag)) Ctr.bpm [] 6 1) n i
      else putBuf s n i (b.without tag) := by
  simp [dropHolder, hb, lowerCount, findBuf_putBuf_same hn, putBuf_putBuf hn, Buf.without]

theorem dropHolder_keeps (tag : BitVec 8) (hb : findBuf s n i = some b) (hn : n < s.bpm.pools.length)
    (h : 2 < b.count ∨ b.deferred = false) : dropHolder s n i tag = putBuf s n i (b.without tag) := by
  rw [dropHolder_eq tag hb hn, if_neg]
  rintro ⟨hc, hd⟩
  rcases h with h | h
  · omega
  · simp [h] at hd

theorem dropHolder_releases (tag : BitVec 8) (hb : findBuf s n i = some b) (hn : n < s.bpm.pools.length)
    (hc : b.count = 2) (hd : b.deferred = true) :
    dropHolder s n i tag = letGo (bump (putBuf s n i (b.without tag)) Ctr.bpm [] 6 1) n i := by
  rw [dropHolder_eq tag hb hn, if_pos ⟨by omega, hd⟩]

end

/-! ### Rejected operations (R200, R209) -/

section
variable (s : State) (kind op n : Nat) (tag found : BitVec 8) (ptr : Word)

theorem word_bpmErrCnt_reject :
    word (reject s kind op n tag found ptr) Reg.bpmErrCnt [] = word s Reg.bpmErrCnt [] + 1 := word_countEvent_same

theorem bpmKind_width (h : kind < 7) : Ctr.bpm.widths.getD (7 + kind) 0 = 40 := by
  revert kind; decide

theorem ctr_bpm_reject (h : kind < 7) :
    ctr (reject s kind op n tag found ptr) Ctr.bpm [] (7 + kind) = (ctr s Ctr.bpm [] (7 + kind) + 1) % 2 ^ 40 := by
  rw [← bpmKind_width kind h]; exact ctr_bump_same

theorem regsBut_reject : RegsBut [Reg.bpmErrCnt.addr []] s (reject s kind op n tag found ptr) :=
  (regsBut_of_eq (t := bump s Ctr.bpm [] (7 + kind) 1) rfl).trans (regsBut_countEvent (List.mem_singleton_self _))

theorem onlyChanges_reject : OnlyChanges [.bpm, .counters, .inForce] s (reject s kind op n tag found ptr) :=
  (((onlyChanges_bump s Ctr.bpm [] (7 + kind) 1).mono (by simp)).trans
    ((onlyChanges_countEvent _ Reg.bpmErrCnt []).mono (by simp))).trans ((onlyChanges_of_bpm _ _).mono (by simp))

end

theorem locate_fails {n k : Nat} {ptr : Word} (h : locate n ptr = .inl k) : k = 1 ∨ k = 2 := by
  simp only [locate] at h
  split at h
  · exact .inl (Sum.inl.inj h).symm
  · split at h
    · exact .inr (Sum.inl.inj h).symm
    · cases h

/-! ### What each operation does (Table 7-3) -/

section
variable {s : State} {tag last : BitVec 8} {ptr : Word} {n i m : Nat} {b : Buf}

theorem shareBuf_accepted (hp : poolOf ptr = 0) (hl : locate 0 ptr = .inr i) (hb : findBuf s 0 i = some b)
    (hs : b.shared = false) (ho : b.owner = tag) (h2 : 2 ≤ m) (h128 : m ≤ 128) :
    shareBuf s tag ptr m last = putBuf s 0 i { b with shared := true, count := m, last := last, holders := [] } := by
  simp [shareBuf, hp, hl, hb, hs, ho, Nat.not_lt.2 h2, Nat.not_lt.2 h128]

theorem shareBuf_outOfRange (hp : poolOf ptr = 0) (hl : locate 0 ptr = .inr i) (hb : findBuf s 0 i = some b)
    (hs : b.shared = false) (ho : b.owner = tag) (hm : m < 2 ∨ 128 < m) :
    shareBuf s tag ptr m last = reject s 6 2 0 tag (foundTag s 0 i) ptr := by
  simp only [shareBuf, hp, hl, hb, hs, ho, bne_self_eq_false, Bool.false_or, Bool.false_eq_true, if_false]
  exact if_pos (by simpa using hm)

theorem dropRefBuf_accepted (hl : locate n ptr = .inr i) (hb : findBuf s n i = some b) (hh : b.holders.contains tag = true)
    (hc : 2 ≤ b.count) : dropRefBuf s tag n ptr = dropHolder s n i tag := by
  rw [dropRefBuf, hl]
  simp only [hb, hh, Bool.not_true, Bool.false_eq_true, if_false]
  exact if_neg (by omega)

theorem dropRefBuf_toZero (hl : locate n ptr = .inr i) (hb : findBuf s n i = some b) (hh : b.holders.contains tag = true)
    (hc : b.count ≤ 1) : dropRefBuf s tag n ptr = reject s 5 1 n tag (foundTag s n i) ptr := by
  rw [dropRefBuf, hl]
  simp only [hb, hh, Bool.not_true, Bool.false_eq_true, if_false]
  exact if_pos hc

theorem dropRefBuf_notHolder (hl : locate n ptr = .inr i) (hb : findBuf s n i = some b)
    (hh : b.holders.contains tag = false) : dropRefBuf s tag n ptr = reject s 4 1 n tag (foundTag s n i) ptr := by
  rw [dropRefBuf, hl]
  simp only [hb, hh, Bool.not_false, if_true]

theorem freeBuf_owner (hl : locate n ptr = .inr i) (hb : findBuf s n i = some b) (hs : b.shared = false)
    (ho : b.owner = tag) : freeBuf s tag n ptr = letGo s n i := by
  simp [freeBuf, hl, hb, hs, ho]

theorem freeBuf_deferred (hl : locate n ptr = .inr i) (hb : findBuf s n i = some b) (hs : b.shared = true)
    (ho : b.last = tag) (hd : b.deferred = false) (hc : b.count ≠ 1) :
    freeBuf s tag n ptr = putBuf s n i { b with deferred := true } := by
  simp [freeBuf, hl, hb, hs, ho, hd, hc]

theorem freeBuf_lastReference (hl : locate n ptr = .inr i) (hb : findBuf s n i = some b) (hs : b.shared = true)
    (ho : b.last = tag) (hd : b.deferred = false) (hc : b.count = 1) : freeBuf s tag n ptr = letGo s n i := by
  simp [freeBuf, hl, hb, hs, ho, hd, hc]

theorem freeBuf_notLocated {k : Nat} (hl : locate n ptr = .inl k) :
    freeBuf s tag n ptr = reject s k 0 n tag 0xFF ptr := by
  simp [freeBuf, hl]

end

/-! ### The order of a slot's operations (R193) -/

theorem BufOp.rank_lt (o : BufOp) : o.rank < 258 := by
  cases o with
  | share => simp [rank]
  | dropRef tag => have := tag.isLt; simp only [rank]; omega
  | free => simp [rank]

/-- The operations `l` by rising rank below `m`. -/
def byRank (m : Nat) (l : List BufOp) : List BufOp := (List.range m).flatMap fun k => l.filter fun o => o.rank == k

theorem byRank_succ (m : Nat) (l : List BufOp) : byRank (m + 1) l = byRank m l ++ l.filter fun o => o.rank == m := by
  simp [byRank, List.range_succ]

theorem byRank_single (o : BufOp) (m : Nat) : byRank m [o] = if o.rank < m then [o] else [] := by
  induction m with
  | zero => rfl
  | succ m ih =>
    rw [byRank_succ, ih]
    rcases Nat.lt_trichotomy o.rank m with h | h | h
    · simp [h, h.ne, Nat.lt_succ_of_lt h]
    · simp [h]
    · simp [Nat.lt_asymm h, h.ne', Nat.not_lt.2 h]

/-- Of two operations the one of lower rank applies first, though it was given second. -/
theorem byRank_pair {a o : BufOp} (h : o.rank < a.rank) (m : Nat) : byRank m [a, o] = byRank m [o] ++ byRank m [a] := by
  induction m with
  | zero => rfl
  | succ m ih =>
    rw [byRank_succ, byRank_succ, byRank_succ, ih, byRank_single a m]
    by_cases ha : a.rank = m
    · simp [ha, (ha ▸ h).ne]
    · by_cases ho : o.rank = m
      · simp [ha, ho, Nat.lt_asymm (ho ▸ h)]
      · simp [ha, ho]

/-- The state as its slot's operations begin to apply: none waits any more. -/
def takeOps (s : State) : State := { s with bpm := { s.bpm with ops := [] } }

theorem onlyChanges_takeOps (s : State) : OnlyChanges [.bpm] s (takeOps s) := onlyChanges_of_bpm s _

theorem applyOps_single {s : State} {o : BufOp} (h : s.bpm.ops = [o]) : applyOps s = applyOp (takeOps s) o := by
  change (byRank 258 s.bpm.ops).foldl applyOp (takeOps s) = _
  rw [h, byRank_single, if_pos o.rank_lt]; rfl

theorem applyOps_pair {s : State} {a o : BufOp} (h : s.bpm.ops = [a, o]) (hr : o.rank < a.rank) :
    applyOps s = applyOp (applyOp (takeOps s) o) a := by
  change (byRank 258 s.bpm.ops).foldl applyOp (takeOps s) = _
  rw [h, byRank_pair hr, byRank_single, byRank_single, if_pos o.rank_lt, if_pos a.rank_lt]; rfl

/-! ### A slot with nothing to grant (R183) -/

theorem slotCells_idle {s : State} (h : s.bpm.cellReqs = []) : slotCells s = s := by
  have fixed (w : SlotWork) (r : Nat) : cellRequest (s, w) r = (s, w) := by simp [cellRequest, h]
  simp [slotCells, List.foldl_fixed' (fixed _)]

theorem slotDram_idle {s : State} (h : s.bpm.dramReqs = []) (n : Nat) : slotDram s n = s := by
  have kept : { s with bpm := { s.bpm with dramReqs := [] } } = s := by rw [← h]
  simp only [slotDram, h, List.filter_nil, List.mergeSort_nil, firstEach, List.foldl_nil, ite_self]
  exact kept

/-- The next slot begins. -/
def nextSlot (s : State) : State := { s with bpm := { s.bpm with slot := (s.bpm.slot + 1) % 480 } }

theorem exec_allocationSlot_idle {s : State} {l : List BufOp} (h : SlotOf s l) :
    exec .allocationSlot s = done (nextSlot (applyOps s)) := by
  obtain ⟨hs, hc, hd, -⟩ := h
  change done (if stopped s then s else allocationSlot s) = _
  rw [hs, allocationSlot, slotCells_idle hc, List.foldl_fixed' (slotDram_idle hd)]; rfl

theorem SlotOf.ops_eq {s : State} {l : List BufOp} (h : SlotOf s l) : s.bpm.ops = l :=
  let ⟨_, _, _, hops⟩ := h
  hops

/-- A slot with nothing to grant does what its operations do. -/
theorem does_slot {s t : State} {l : List BufOp} {ps : List Part} {P : State → Prop} (h : SlotOf s l)
    (ht : applyOps s = t) (hb : Part.bpm ∈ ps) (f : OnlyChanges ps (takeOps s) t) (p : P (settle (nextSlot t))) :
    Does .allocationSlot s ps P := by
  have bpm {u v : State} (hu : OnlyChanges [.bpm] u v) : OnlyChanges ps u v := hu.mono (by simpa using hb)
  exact does_of (ht ▸ exec_allocationSlot_idle h)
    (((bpm (onlyChanges_takeOps s)).trans f).trans (bpm (onlyChanges_of_bpm t _))) p

/-- A slot whose one operation a check rejects (R200). -/
theorem does_slot_rejected {s : State} {o : BufOp} {kind op n : Nat} {tag found : BitVec 8} {ptr : Word} (h : SlotOf s [o])
    (hk : kind < 7) (hr : applyOp (takeOps s) o = reject (takeOps s) kind op n tag found ptr) :
    Does .allocationSlot s [.bpm, .counters, .inForce] fun t =>
      t.bpm.pools = s.bpm.pools ∧ word t Reg.bpmErrCnt [] = word s Reg.bpmErrCnt [] + 1 ∧
        ctr t Ctr.bpm [] (7 + kind) = (ctr s Ctr.bpm [] (7 + kind) + 1) % 2 ^ 40 ∧ RegsBut [Reg.bpmErrCnt.addr []] s t := by
  have hword := word_bpmErrCnt_reject (takeOps s) kind op n tag found ptr
  have hctr := ctr_bpm_reject (takeOps s) kind op n tag found ptr hk
  have hregs := regsBut_reject (takeOps s) kind op n tag found ptr
  exact does_slot h ((applyOps_single h.ops_eq).trans hr) (by simp) (onlyChanges_reject (takeOps s) kind op n tag found ptr)
    ⟨rfl, hword, hctr, hregs⟩

/-! ### Each operation in its slot -/

section
variable {s : State} {tag last : BitVec 8} {ptr : Word} {n i m : Nat} {b : Buf}

theorem does_slot_share (h : SlotOf s [.share tag ptr m last]) (hp : poolOf ptr = 0) (hl : locate 0 ptr = .inr i)
    (hn : 0 < s.bpm.pools.length) (hb : findBuf s 0 i = some b) (hs : b.shared = false) (ho : b.owner = tag) (h2 : 2 ≤ m)
    (h128 : m ≤ 128) :
    Does .allocationSlot s [.bpm] fun t =>
      findBuf t 0 i = some { b with shared := true, count := m, last := last, holders := [] } ∧
        ∀ k, k ≠ i → findBuf t 0 k = findBuf s 0 k :=
  does_slot h ((applyOps_single h.ops_eq).trans (shareBuf_accepted hp hl hb hs ho h2 h128)) (by simp)
    (onlyChanges_putBuf _ _ _ _)
    ⟨findBuf_putBuf_same (s := takeOps s) hn, fun _ hk => findBuf_putBuf_other (s := takeOps s) hn hk⟩

theorem does_slot_dropRef (h : SlotOf s [.dropRef tag n ptr]) (hl : locate n ptr = .inr i) (hn : n < s.bpm.pools.length)
    (hb : findBuf s n i = some b) (hh : b.holders.contains tag = true) (hc : 2 ≤ b.count)
    (hd : 2 < b.count ∨ b.deferred = false) :
    Does .allocationSlot s [.bpm] fun t =>
      findBuf t n i = some (b.without tag) ∧ ∀ k, k ≠ i → findBuf t n k = findBuf s n k :=
  have hop : applyOps s = putBuf (takeOps s) n i (b.without tag) := by
    rw [applyOps_single h.ops_eq]
    exact (dropRefBuf_accepted (s := takeOps s) hl hb hh hc).trans (dropHolder_keeps tag hb hn hd)
  does_slot h hop (by simp) (onlyChanges_putBuf _ _ _ _)
    ⟨findBuf_putBuf_same (s := takeOps s) hn, fun _ hk => findBuf_putBuf_other (s := takeOps s) hn hk⟩

/-- The DROP_REF that brings the count to 1 executes the deferred FREE, and counts it (R192). -/
theorem does_slot_dropRef_release (h : SlotOf s [.dropRef tag n ptr]) (hl : locate n ptr = .inr i)
    (hn : n < s.bpm.pools.length) (hb : findBuf s n i = some b) (hh : b.holders.contains tag = true) (hc : b.count = 2)
    (hd : b.deferred = true) :
    Does .allocationSlot s returnParts fun t =>
      findBuf t n i = (if b.closed then none else some { b.without tag with returning := true }) ∧
        (∀ k, k ≠ i → findBuf t n k = findBuf s n k) ∧ ctr t Ctr.bpm [] 6 = (ctr s Ctr.bpm [] 6 + 1) % 2 ^ 40 := by
  have hput := onlyChanges_putBuf (takeOps s) n i (b.without tag)
  set u := bump (putBuf (takeOps s) n i (b.without tag)) Ctr.bpm [] 6 1
  have hop : applyOps s = letGo u n i := by
    rw [applyOps_single h.ops_eq]
    exact (dropRefBuf_accepted (s := takeOps s) hl hb hh hc.ge).trans (dropHolder_releases tag hb hn hc hd)
  have hbu : findBuf u n i = some (b.without tag) := findBuf_putBuf_same (s := takeOps s) hn
  have hnu : n < u.bpm.pools.length := (pools_length_putBuf (takeOps s) n i _).symm ▸ hn
  refine does_slot h hop (by simp) ?_ ⟨findBuf_letGo_same hbu hnu, fun k hk => ?_, ?_⟩
  · exact ((hput.mono (by simp)).trans ((onlyChanges_bump _ Ctr.bpm [] 6 1).mono (by simp))).trans (onlyChanges_letGo hbu)
  · exact (findBuf_letGo_other hbu hnu hk).trans (findBuf_putBuf_other (s := takeOps s) hn hk)
  · exact (ctr_bpm_letGo hbu 6).trans ctr_bump_same

theorem does_slot_free_dram (h : SlotOf s [.free tag n ptr]) (h0 : n ≠ 0) (hl : locate n ptr = .inr i)
    (hn : n < s.bpm.pools.length) (hb : findBuf s n i = some b) (hs : b.shared = false) (ho : b.owner = tag)
    (hc : b.closed = true) :
    Does .allocationSlot s [.bpm] fun t => findBuf t n i = none ∧ pool t n = (pool s n).withReturned i b :=
  have hop : applyOps s = returnBuf (takeOps s) n i := by
    rw [applyOps_single h.ops_eq]
    exact (freeBuf_owner (s := takeOps s) hl hb hs ho).trans (letGo_closed hb hc)
  does_slot h hop (by simp) (onlyChanges_returnBuf_dram hb h0)
    ⟨findBuf_returnBuf_same (s := takeOps s) hb hn, pool_returnBuf (s := takeOps s) hb hn⟩

theorem does_slot_free_deferred (h : SlotOf s [.free tag n ptr]) (hl : locate n ptr = .inr i)
    (hn : n < s.bpm.pools.length) (hb : findBuf s n i = some b) (hs : b.shared = true) (ho : b.last = tag)
    (hd : b.deferred = false) (hc : b.count ≠ 1) :
    Does .allocationSlot s [.bpm] fun t => findBuf t n i = some { b with deferred := true } :=
  does_slot h ((applyOps_single h.ops_eq).trans (freeBuf_deferred hl hb hs ho hd hc)) (by simp) (onlyChanges_putBuf _ _ _ _)
    (findBuf_putBuf_same (s := takeOps s) hn)

/-- A DROP_REF that takes the count to 1 comes before the FREE of its slot, which then finds one reference and is no
deferred one (R192, R193). -/
theorem does_slot_free_dropRef {holder : BitVec 8} (h : SlotOf s [.free tag n ptr, .dropRef holder n ptr])
    (hl : locate n ptr = .inr i) (hn : n < s.bpm.pools.length) (hb : findBuf s n i = some b) (hs : b.shared = true)
    (ho : b.last = tag) (hd : b.deferred = false) (hc : b.count = 2) (hcl : b.closed = true)
    (hh : b.holders.contains holder = true) :
    Does .allocationSlot s returnParts fun t => findBuf t n i = none ∧ ctr t Ctr.bpm [] 6 = ctr s Ctr.bpm [] 6 := by
  have hput := onlyChanges_putBuf (takeOps s) n i (b.without holder)
  have hbu : findBuf (putBuf (takeOps s) n i (b.without holder)) n i = some (b.without holder) := findBuf_putBuf_same hn
  have hnu : n < (putBuf (takeOps s) n i (b.without holder)).bpm.pools.length := by rwa [pools_length_putBuf]
  have hdrop : applyOp (takeOps s) (.dropRef holder n ptr) = putBuf (takeOps s) n i (b.without holder) :=
    (dropRefBuf_accepted (s := takeOps s) hl hb hh hc.ge).trans (dropHolder_keeps holder hb hn (.inr hd))
  set u := putBuf (takeOps s) n i (b.without holder)
  have hrank : (BufOp.dropRef holder n ptr).rank < (BufOp.free tag n ptr).rank := by
    have := holder.isLt
    simp only [BufOp.rank]; omega
  have hone : (b.without holder).count = 1 := by simp [Buf.without, hc]
  have hop : applyOps s = returnBuf u n i := by
    rw [applyOps_pair h.ops_eq hrank, hdrop]
    exact (freeBuf_lastReference hl hbu hs ho hd hone).trans (letGo_closed hbu hcl)
  exact does_slot h hop (by simp) ((hput.mono (by simp)).trans (onlyChanges_returnBuf hbu))
    ⟨findBuf_returnBuf_same hbu hnu, ctr_bpm_returnBuf hbu 6⟩

end

theorem does_giveOp {c : Instr} {s : State} {o : BufOp} (h : exec c s = done (giveOp s o)) :
    Does c s [.bpm] fun t => t.bpm = { s.bpm with ops := s.bpm.ops ++ [o] } :=
  does_of h (onlyChanges_of_bpm s _) rfl

/-- Settles O17: each operation waits for its slot, and each of its cases follows from the lemma on a slot with that one
operation; the order of two operations is `does_slot_free_dropRef`. -/
theorem buffersAreCounted : Obligations.BuffersAreCounted := by
  have inPools {s : State} (n : Fin 6) (h : s.bpm.pools.length = 6) : n.val < s.bpm.pools.length := by rw [h]; exact n.isLt
  refine ⟨fun _ _ _ _ _ => does_giveOp rfl, fun _ _ _ _ => does_giveOp rfl, fun _ _ _ _ => does_giveOp rfl,
    ?share, ?shareOutOfRange, ?dropRef, ?dropRefReleases, ?dropRefToZero, ?dropRefNotHolder, ?freeDram, ?freeDeferred,
    ?freeAfterDropRef, ?notLocated⟩
  case share =>
    intro s tag ptr n last i b h hp hl hn hb hs ho h2 h128
    exact does_slot_share h hp hl (inPools 0 hn) hb hs ho h2 h128
  case shareOutOfRange =>
    intro s tag ptr n last i b h hp hl hb hs ho hm
    exact does_slot_rejected h (by decide) (shareBuf_outOfRange hp hl hb hs ho hm)
  case dropRef =>
    intro s tag n ptr i b h hl hn hb hh hc hd
    exact does_slot_dropRef h hl (inPools n hn) hb hh hc hd
  case dropRefReleases =>
    intro s tag n ptr i b h hl hn hb hh hc hd
    refine (does_slot_dropRef_release h hl (inPools n hn) hb hh hc hd).imp ?_
    rintro t ⟨hi, hother, hctr⟩
    exact ⟨by simpa [Buf.without, hc] using hi, hother, hctr⟩
  case dropRefToZero =>
    intro s tag n ptr i b h hl hb hh hc
    refine (does_slot_rejected h (by decide) (dropRefBuf_toZero hl hb hh hc)).imp ?_
    rintro t ⟨hpools, -, hctr, -⟩
    exact ⟨hpools, hctr⟩
  case dropRefNotHolder =>
    intro s tag n ptr i b h hl hb hh
    refine (does_slot_rejected h (by decide) (dropRefBuf_notHolder hl hb hh)).imp ?_
    rintro t ⟨hpools, -, hctr, -⟩
    exact ⟨hpools, hctr⟩
  case freeDram =>
    intro s tag n ptr i b h h0 hl hn hb hs ho hc
    refine (does_slot_free_dram h h0 hl (inPools n hn) hb hs ho hc).imp ?_
    rintro t ⟨hi, hpool⟩
    exact ⟨hi, by rw [hpool]; rfl, by rw [hpool]; rfl⟩
  case freeDeferred =>
    intro s tag n ptr i b h hl hn hb hs ho hd hc
    exact does_slot_free_deferred h hl (inPools n hn) hb hs ho hd hc
  case freeAfterDropRef =>
    intro s tag n ptr holder i b h hl hn hb hs ho hd hc hcl hh
    exact does_slot_free_dropRef h hl (inPools n hn) hb hs ho hd hc hcl hh
  case notLocated =>
    intro s tag n ptr k h hl
    have hk : k < 7 := by rcases locate_fails hl with rfl | rfl <;> decide
    refine (does_slot_rejected h hk (freeBuf_notLocated hl)).imp ?_
    rintro t ⟨hpools, hword, hctr, -⟩
    exact ⟨hpools, hctr, hword⟩

end Sys2Proof.Machine

/-! PROOFS. Register reads answer (R79, R410, R412, R421 to R423, R507, R508): what a read that draws or settles leaves, what a
bus error records, one bit written through BAR2, and from these the answer of each access. -/
namespace Sys2Proof.Machine

/-! ### What a read does before it answers (R79, R108, R426) -/

section
variable {s t : State} {req : Requester} {a b width : Nat}

@[simp] theorem voteRead_nil (s : State) (a : Nat) : voteRead s a [] = s := by
  unfold voteRead voteAt
  split
  · split
    · rfl
    · simp [voteWord]
  · rfl

/-- The time counted in transmit LPI moves ports and counters alone (R108). -/
theorem settleLpi_eq (s : State) (a : Nat) :
    ∃ x c, settleLpi s a = { s with ports := x, regs := { s.regs with counters := c } } := by
  unfold settleLpi
  split
  · unfold countLpi
    split
    · exact ⟨s.ports, s.regs.counters, rfl⟩
    · exact ⟨_, _, rfl⟩
  · exact ⟨s.ports, s.regs.counters, rfl⟩

theorem onlyChanges_settleLpi (s : State) (a : Nat) : OnlyChanges [.ports, .counters] s (settleLpi s a) := by
  obtain ⟨x, c, h⟩ := settleLpi_eq s a
  rw [h]
  intro p hp
  cases p <;> simp_all [Part.same]

theorem settleLpi_of_elsewhere (h : a < 0x400000 ∨ 0x600000 ≤ a) : settleLpi s a = s :=
  if_neg fun hc => by omega

/-- Which words answer depends neither on the ports' working state nor on counters. -/
@[simp] theorem serves_settleLpi (s : State) (a b : Nat) : serves (settleLpi s a) b = serves s b := by
  obtain ⟨x, c, h⟩ := settleLpi_eq s a
  rw [h]
  set u : State := { s with ports := x, regs := { s.regs with counters := c } }
  have hopen : windowsOpen u = windowsOpen s := rfl
  have hpop (n : Nat) : popBit u n = popBit s n := rfl
  have hport (n : Nat) : isHPort u n = isHPort s n := rfl
  have cport (n : Nat) : isCPort u n = isCPort s n := rfl
  have hpipe (n : Nat) : isPipe u n = isPipe s n := rfl
  have hpipeOf (n : Nat) : pipeOf u n = pipeOf s n := rfl
  simp only [serves, pipeServes, ringPipe, hopen, hpop, hport, cport, hpipe, hpipeOf]

theorem onlyChanges_drawOpen (s : State) (a : Nat) : OnlyChanges [.freeCtr] s (drawOpen s a) := by
  unfold drawOpen
  split
  · exact onlyChanges_spend s
  · split
    · exact .refl _ s
    · split
      · exact onlyChanges_spend s
      · exact .refl _ s

/-- How many free values a read draws depends on its offset alone. -/
theorem drawOpen_freeCtr_congr (a : Nat) (h : t.freeCtr = s.freeCtr) :
    (drawOpen t a).freeCtr = (drawOpen s a).freeCtr := by
  unfold drawOpen
  split
  · simp [spend, h]
  · split
    · exact h
    · split
      · simp [spend, h]
      · exact h

theorem latch_of_not_low (h : ∀ g ix i, ctrAt (stagedOf a) ≠ some (g, ix, i, .low)) : latch s req a = s := by
  -- `h` excludes the case that latches
  simp only [latch]

theorem latch_of_low {g : CtrGroup} {ix : List Nat} {i : Nat} (h : ctrAt (stagedOf a) = some (g, ix, i, .low)) :
    latch s req a = { s with regs := { s.regs with
      shadows := set 0 s.regs.shadows (shadowKey req (stagedOf a)) (BitVec.ofNat 32 (ctr s g ix i / 2 ^ 32)) } } := by
  simp only [latch, h]

theorem onlyChanges_latch (s : State) (req : Requester) (a : Nat) : OnlyChanges [.fabric] s (latch s req a) := by
  simp only [latch]
  split
  · intro p hp
    cases p <;> simp_all [Part.same]
  · exact .refl _ s

/-! ### The word a read gives -/

theorem peek_of_closed (h : serves s (stagedOf a) = false) : peek s req a = 0 := by
  simp [peek, h]

theorem peek_of_low {g : CtrGroup} {ix : List Nat} {i : Nat} (hs : serves s (stagedOf a) = true)
    (h : ctrAt (stagedOf a) = some (g, ix, i, .low)) : peek s req a = BitVec.ofNat 32 (ctr s g ix i) := by
  simp [peek, hs, h, ctrWord]

/-! ### Decoding -/

theorem aliasOf_word_bit {w i : Nat} (hw : w % 4 = 0) (hi : i < 32) : aliasOf (w * 32 + i * 4) = (w, i) := by
  rw [aliasOf, Prod.mk.injEq]; omega

theorem alias_lt_bar4 (h : a < 0x20000000) : bar2 + a < bar4 := by simp only [bar2, bar4]; omega

theorem mapped_alias (h : a < 0x20000000) : mapped (bar2 + a) = mapped (a / 128 * 4) := by
  have h1 : ¬ bar2 + a < bar2 := by omega
  have h2 := alias_lt_bar4 h
  have h3 : a / 128 * 4 < bar2 := by simp only [bar2]; omega
  simp only [mapped, h1, h2, h3, if_true, if_false, Nat.add_sub_cancel_left, aliasOf]

theorem busFault_of_mapped (h4 : a % 4 = 0) (h : mapped a = true) : busFault a 4 = none := by
  simp [busFault, h4, h]

theorem busFault_of_unmapped (h4 : a % 4 = 0) (h : mapped a = false ∨ width ≠ 4) :
    busFault a width = some (if width = 4 then 0 else 1) := by
  by_cases hw : width = 4
  · subst hw
    simpa [busFault, h4] using h
  · simp [busFault, hw]

theorem alias_aligned (h : a % 4 = 0) : (bar2 + a) % 4 = 0 := by simp only [bar2]; omega

/-! ### Reads of decoded words -/

/-- A read of a word that is no counter's low word settles, draws and changes nothing else. -/
theorem readWord_of_not_low (h : a < bar2) (hc : ∀ g ix i, ctrAt (stagedOf a) ≠ some (g, ix, i, .low)) :
    readWord s req a [] = (drawOpen (settleLpi s a) a, peek (settleLpi s a) req a) := by
  simp only [readWord, if_pos h, voteRead_nil, latch_of_not_low hc]

/-- A read of one bit settles and draws as a read of its word, and latches no shadow (R422). -/
theorem readWord_alias (h : a < 0x20000000) :
    readWord s req (bar2 + a) [] = (drawOpen (settleLpi s (a / 128 * 4)) (a / 128 * 4),
      BitVec.ofNat 32 (bnat (flag (peek (settleLpi s (a / 128 * 4)) req (a / 128 * 4)) (a % 128 / 4)))) := by
  have h1 : ¬ bar2 + a < bar2 := by omega
  have h2 := alias_lt_bar4 h
  simp only [readWord, if_neg h1, if_pos h2, Nat.add_sub_cancel_left, aliasOf, voteRead_nil]

theorem busRead_of_decoded {us : List Upset} (hr : s.power.inReset = false) (hf : busFault a width = none) :
    busRead s req a width us = emit (readWord s req a us).1 (.readDone req a (readWord s req a us).2) := by
  simp [busRead, hr, hf]

theorem busRead_of_fault {us : List Upset} {k : Nat} (hr : s.power.inReset = false) (hf : busFault a width = some k) :
    busRead s req a width us = busError s req a k false := by
  simp [busRead, hr, hf]

theorem busWrite_of_fault {data : Word} {k : Nat} (hr : s.power.inReset = false) (hf : busFault a width = some k) :
    busWrite s req a width data = busError s req a k true := by
  simp [busWrite, hr, hf]

/-- The parts that settling and drawing may change. -/
theorem onlyChanges_settled_draw (s : State) (a : Nat) :
    OnlyChanges [.ports, .counters, .freeCtr] s (drawOpen (settleLpi s a) a) :=
  ((onlyChanges_settleLpi s a).mono (by simp)).trans ((onlyChanges_drawOpen _ a).mono (by simp))

theorem drawOpen_settleLpi_freeCtr (s : State) (a b : Nat) :
    (drawOpen (settleLpi s a) b).freeCtr = (drawOpen s b).freeCtr :=
  drawOpen_freeCtr_congr b (onlyChanges_settleLpi s a .freeCtr (by simp))

/-- The effect of a command that settles and draws for the word at `a`, and answers `o`. -/
theorem does_settled_draw {c : Instr} {o : Output} (h : exec c s = done (emit (drawOpen (settleLpi s a) a) o)) :
    Does c s [.out, .ports, .counters, .freeCtr] fun t =>
      t.out = o :: s.out ∧ t.ports = (settleLpi s a).ports ∧ t.regs.counters = (settleLpi s a).regs.counters ∧
        t.freeCtr = (drawOpen s a).freeCtr := by
  have hframe := onlyChanges_settled_draw s a
  have hdraw := onlyChanges_drawOpen (settleLpi s a) a
  have hout : (drawOpen (settleLpi s a) a).out = s.out := hframe .out (by simp)
  exact does_of h ((hframe.mono (by simp)).trans ((onlyChanges_emit _ o).mono (by simp)))
    ⟨congrArg (o :: ·) hout, hdraw .ports (by simp), hdraw .counters (by simp), drawOpen_settleLpi_freeCtr s a a⟩

/-- COUNTER_LOW_READ of a counter's low word answers it and latches the high word (R79). -/
theorem does_counterLowRead {g : CtrGroup} {ix : List Nat} {i : Nat} (hr : s.power.inReset = false)
    (hf : busFault a 4 = none) (ha : a < bar2) (hs : serves s (stagedOf a) = true)
    (hc : ctrAt (stagedOf a) = some (g, ix, i, .low)) :
    Does (.counterLowRead req a) s [.fabric, .out, .ports, .counters, .freeCtr] fun t =>
      t.out = .readDone req a (BitVec.ofNat 32 (ctr (settleLpi s a) g ix i)) :: s.out ∧
        t.regs.counters = (settleLpi s a).regs.counters ∧
        get 0 t.regs.shadows (shadowKey req (stagedOf a)) = BitVec.ofNat 32 (ctr (settleLpi s a) g ix i / 2 ^ 32) := by
  set u := latch (settleLpi s a) req a with hu
  have hexec : exec (.counterLowRead req a) s =
      done (emit (drawOpen u a) (.readDone req a (BitVec.ofNat 32 (ctr (settleLpi s a) g ix i)))) := by
    show execCounterLowRead req a s = _
    simp only [execCounterLowRead, hc, busRead_of_decoded hr hf, readWord, if_pos ha, voteRead_nil]
    rw [peek_of_low (by simpa using hs) hc]
  have hlatch := onlyChanges_latch (settleLpi s a) req a
  have hdraw := onlyChanges_drawOpen u a
  have hframe : OnlyChanges [.fabric, .ports, .counters, .freeCtr] s (drawOpen u a) :=
    (((onlyChanges_settleLpi s a).mono (by simp)).trans (hlatch.mono (by simp))).trans (hdraw.mono (by simp))
  have hout : (drawOpen u a).out = s.out := hframe .out (by simp)
  have hcounters : (drawOpen u a).regs.counters = (settleLpi s a).regs.counters :=
    (hdraw .counters (by simp)).trans (hlatch .counters (by simp))
  obtain ⟨-, -, -, -, hshadows⟩ := hdraw .fabric (by simp)
  refine does_of hexec ((hframe.mono (by simp)).trans ((onlyChanges_emit _ _).mono (by simp)))
    ⟨congrArg (_ :: ·) hout, hcounters, ?_⟩
  show get 0 (drawOpen u a).regs.shadows _ = _
  rw [hshadows, hu, latch_of_low hc, get_set_same]

/-! ### Bus errors (R407, R410) -/

theorem onlyChanges_busError (s : State) (req : Requester) (a k : Nat) (w : Bool) :
    OnlyChanges [.inForce, .out] s (busError s req a k w) :=
  ((((onlyChanges_countEvent s _ _).trans (onlyChanges_putWord _ _ _ _)).trans (onlyChanges_putWord _ _ _ _)).mono
    (by simp)).trans ((onlyChanges_emit _ _).mono (by simp))

theorem regsBut_busError (s : State) (req : Requester) (a k : Nat) (w : Bool) :
    RegsBut [Reg.glbBuserrCnt.addr [], Reg.glbBuserrLast.addr [], Reg.glbBuserrInfo.addr []] s (busError s req a k w) :=
  ((regsBut_countEvent (by simp)).trans (regsBut_putWord (by simp))).trans (regsBut_putWord (by simp))

theorem word_glbBuserrCnt_busError (s : State) (req : Requester) (a k : Nat) (w : Bool) :
    word (busError s req a k w) Reg.glbBuserrCnt [] = word s Reg.glbBuserrCnt [] + 1 :=
  (word_putWord_other (by decide)).trans ((word_putWord_other (by decide)).trans word_countEvent_same)

theorem word_glbBuserrLast_busError (s : State) (req : Requester) (a k : Nat) (w : Bool) :
    word (busError s req a k w) Reg.glbBuserrLast [] =
      BitVec.ofNat 32 (if a < bar2 then a else if a < bar4 then a - bar2 else a - bar4) :=
  (word_putWord_other (by decide)).trans word_putWord_same

theorem word_glbBuserrInfo_busError (s : State) (req : Requester) (a k : Nat) (w : Bool) :
    word (busError s req a k w) Reg.glbBuserrInfo [] =
      BitVec.ofNat 32 (bnat (decide (bar2 ≤ a ∧ a < bar4)) * 64 + bnat w * 32 + k * 16 + reqCode req) :=
  word_putWord_same

/-- The effect of a command that the bus refuses. -/
theorem does_busError {c : Instr} {k : Nat} {w : Bool} (h : exec c s = done (busError s req a k w)) :
    Does c s [.inForce, .out] fun t =>
      t.out = .busError req a :: s.out ∧ word t Reg.glbBuserrCnt [] = word s Reg.glbBuserrCnt [] + 1 ∧
        word t Reg.glbBuserrLast [] =
          BitVec.ofNat 32 (if a < bar2 then a else if a < bar4 then a - bar2 else a - bar4) ∧
        word t Reg.glbBuserrInfo [] =
          BitVec.ofNat 32 (bnat (decide (bar2 ≤ a ∧ a < bar4)) * 64 + bnat w * 32 + k * 16 + reqCode req) ∧
        RegsBut [Reg.glbBuserrCnt.addr [], Reg.glbBuserrLast.addr [], Reg.glbBuserrInfo.addr []] s t :=
  does_of h (onlyChanges_busError s req a k w)
    ⟨rfl, word_glbBuserrCnt_busError s req a k w, word_glbBuserrLast_busError s req a k w,
      word_glbBuserrInfo_busError s req a k w, regsBut_busError s req a k w⟩

/-- What a bus error below BAR2 records: KIND 1 for a width that is not four bytes, 0 for an address nothing decodes. -/
theorem buserrInfo_below_bar2 (w : Bool) (ha : a < bar2) :
    bnat (decide (bar2 ≤ a ∧ a < bar4)) * 64 + bnat w * 32 + (if width = 4 then 0 else 1) * 16 + reqCode req =
      (if width = 4 then bnat w * 32 else bnat w * 32 + 16) + reqCode req := by
  have h : ¬ (bar2 ≤ a ∧ a < bar4) := by omega
  by_cases hw : width = 4 <;> simp [hw, h, bnat, Nat.add_comm]

/-! ### Writes that nothing records -/

theorem record_of_quiet (h : Quiet s) (ty flags src : Nat) (body : List Byte) : record s ty flags src body = s := by
  obtain ⟨hrec, htrace⟩ := h
  simp [record, traceRec, hrec, htrace]

/-- A write that reaches its register does what it does, and nothing else. -/
theorem accept_of_reaches (h : Reaches s req b) (flags a : Nat) (data : Word) (f : State → State) :
    accept s req flags b a data f = f s := by
  obtain ⟨hreset, hspi, hserves, hrerun, hquiet⟩ := h
  have hlive : ¬ 2 ≤ rerunState s := by omega
  simp [accept, hreset, hspi, hserves, hlive, record_of_quiet hquiet]

/-- A write through BAR2 writes its one bit (R421, R423). -/
theorem busWrite_alias {data : Word} (ha : a < 0x20000000) (h4 : a % 4 = 0) (hm : mapped (a / 128 * 4) = true)
    (h : Reaches s req (stagedOf (a / 128 * 4))) :
    busWrite s req (bar2 + a) 4 data = landBit s req (a / 128 * 4) (a % 128 / 4) (flag data 0) := by
  have h1 : ¬ bar2 + a < bar2 := by omega
  have h2 := alias_lt_bar4 ha
  have hfault := busFault_of_mapped (alias_aligned h4) ((mapped_alias ha).trans hm)
  have haccept := accept_of_reaches h 1 a data fun s => landBit s req (a / 128 * 4) (a % 128 / 4) (flag data 0)
  obtain ⟨hreset, -⟩ := h
  simpa [busWrite, hreset, hfault, h1, h2, aliasOf] using haccept

/-! ### GLB_SCRATCH, by words and by bits (R413, R423) -/

theorem rowAt_glbScratch : rowAt (Reg.glbScratch.addr []) = some (Reg.glbScratch, []) := rfl

theorem ctrAt_glbScratch : ctrAt (Reg.glbScratch.addr []) = none := rfl

/-- `BitVec.and_allOnes` for the literal to which `simp` takes the mask of a whole word. -/
theorem and_fullMask (w : Word) : w &&& 4294967295#32 = w := BitVec.and_allOnes

theorem mask_rw_glbScratch : (Reg.glbScratch.mask fun f => f.acc == .rw) = 0xFFFFFFFF := by decide

theorem regWord_glbScratch (s : State) (live : Bool) :
    regWord s Reg.glbScratch [] live = if live then word s Reg.glbScratch [] else stagedWord s Reg.glbScratch [] := by
  have hcomputed : computedWord s Reg.glbScratch [] = none := rfl
  have hball : (Reg.glbScratch.base == Reg.maintBall.base) = false := rfl
  have hseen : (Reg.glbScratch.mask fun f => f.acc != .wo) = 0xFFFFFFFF := by decide
  simp [regWord, hcomputed, hball, mask_rw_glbScratch, hseen, blend, and_fullMask]

/-- The staged half shows what was written, and the live mirror what is in force (R412). -/
theorem peek_glbScratch (h : serves s (Reg.glbScratch.addr []) = true) :
    peek s req (Reg.glbScratch.addr []) = stagedWord s Reg.glbScratch [] ∧
      peek s req (Reg.glbScratch.addr [] + 0x8000) = word s Reg.glbScratch [] := by
  have hctr := ctrAt_glbScratch
  have hrow := rowAt_glbScratch
  rw [show Reg.glbScratch.addr [] = 16 from rfl] at *
  have peekAt (a : Nat) (ha : stagedOf a = 16) : peek s req a = regWord s Reg.glbScratch [] (isLive a) := by
    simp [peek, ha, h, hctr, hrow, laneReg]
  rw [peekAt 16 (by decide), peekAt (16 + 0x8000) (by decide), regWord_glbScratch, regWord_glbScratch]
  exact ⟨if_neg (by decide), if_pos (by decide)⟩

theorem setFld_fld_whole (w : Word) : setFld w 31 0 (fld w 31 0) = w := by
  apply BitVec.eq_of_toNat_eq
  have := w.isLt
  rw [setFld_toNat (by decide) (by decide)]
  simp only [fld, bits]
  omega

theorem heldAt_glbScratch (w : Word) : Reg.glbScratch.heldAt [] w = w := setFld_fld_whole w

theorem lawfulAt_glbScratch (s : State) : lawfulAt s Reg.glbScratch [] = true := rfl

theorem word_putStaged (s : State) (r q : RegRow) (ix jx : List Nat) (w : Word) :
    word (putStaged s r ix w) q jx = word s q jx := rfl

theorem stagedWord_putStaged_same (s : State) (r : RegRow) (ix : List Nat) (w : Word) :
    stagedWord (putStaged s r ix w) r ix = w := get_set_same

/-- GLB_SCRATCH with the bits of `m` taken from `data`, in force and as staged. -/
def scratchWritten (s : State) (m data : Word) : State :=
  putWord (putStaged s Reg.glbScratch [] (blend m (stagedWord s Reg.glbScratch []) data)) Reg.glbScratch []
    (blend m (word s Reg.glbScratch []) (blend m (stagedWord s Reg.glbScratch []) data))

/-- Every bit of GLB_SCRATCH is RW and in force at once. -/
theorem stage_glbScratch {m : Word} (hm : m ≠ 0#32) (data : Word) :
    stage s req Reg.glbScratch [] m data = scratchWritten s m data := by
  have hclass : regClass Reg.glbScratch = none := rfl
  have hrw : writable Reg.glbScratch req = 0xFFFFFFFF := by
    have hbase : Reg.glbScratch.base ≠ Reg.irqRoute.base := by decide
    simp [writable, mask_rw_glbScratch, hbase]
  have hms : Reg.glbScratch.applyMask .ms = 0 := by decide
  have hfrm : Reg.glbScratch.applyMask .frm = 0 := by decide
  have hpkt : Reg.glbScratch.applyMask .pkt = 0 := by decide
  have himm : Reg.glbScratch.applyMask .imm = 0xFFFFFFFF := by decide
  simp [stage, standsBy, hclass, hrw, hms, hfrm, hpkt, himm, await, hm, applyEntries, applyOne, refuseUnlawful,
    rowAt_glbScratch, heldAt_glbScratch, lawfulAt_glbScratch, and_fullMask, word_putStaged,
    stagedWord_putStaged_same, scratchWritten]

theorem onlyChanges_scratchWritten (s : State) (m data : Word) :
    OnlyChanges [.staged, .inForce] s (scratchWritten s m data) :=
  ((onlyChanges_putStaged s _ _ _).mono (by simp)).trans ((onlyChanges_putWord _ _ _ _).mono (by simp))

theorem regsBut_scratchWritten (s : State) (m data : Word) :
    RegsBut [Reg.glbScratch.addr []] s (scratchWritten s m data) :=
  regsBut_putWord (s := putStaged s _ _ _) (by simp)

theorem flag_blend {j : Nat} (hj : j < 32) (m v w : Word) :
    flag (blend m v w) j = if flag m j then flag w j else flag v j := by
  simp only [flag, blend, BitVec.getLsbD_or, BitVec.getLsbD_and, BitVec.getLsbD_not, decide_eq_true hj, Bool.true_and]
  by_cases h : m.getLsbD j = true <;> simp [h]

theorem flag_maskOf {i j : Nat} (hj : j < 32) : flag (maskOf i i) j = decide (j = i) := by
  have hmask : maskOf i i = BitVec.ofNat 32 (2 ^ i) := by simp [maskOf]
  rw [flag, hmask, BitVec.getLsbD_ofNat, Nat.testBit_two_pow]
  simp [hj, eq_comm]

theorem maskOf_bit_ne_zero {i : Nat} (hi : i < 32) : maskOf i i ≠ 0#32 := fun h => by
  have := flag_maskOf (i := i) hi
  simp [h, flag] at this

/-- A bit of GLB_SCRATCH after bit `i` alone was written. -/
theorem rdBit_scratchWritten {i j : Nat} (hj : j < 32) (v : Bool) :
    rdBit (scratchWritten s (maskOf i i) (if v then maskOf i i else 0)) Reg.glbScratch [] j =
      if j = i then v else rdBit s Reg.glbScratch [] j := by
  rw [rdBit, scratchWritten, word_putWord_same, flag_blend hj, flag_blend hj, flag_maskOf hj]
  by_cases h : j = i
  · cases v
    · simp [h, flag]
    · simp [h, flag_maskOf (h ▸ hj)]
  · simp [h, rdBit]

theorem landBit_glbScratch {i : Nat} (hi : i < 32) (v : Bool) :
    landBit s req (Reg.glbScratch.addr []) i v =
      stage s req Reg.glbScratch [] (maskOf i i) (if v then maskOf i i else 0) := by
  have hacc : Reg.glbScratch.accessOf i = some .rw := by
    have : i ≤ 31 := by omega
    simp [RegRow.accessOf, Reg.glbScratch, F, this]
  have hlive : isLive (Reg.glbScratch.addr []) = false := rfl
  have hmsix : ¬ (0x10400 ≤ Reg.glbScratch.addr [] ∧ Reg.glbScratch.addr [] < 0x10808) := by decide
  simp only [landBit, hlive, ctrAt_glbScratch, if_neg hmsix, rowAt_glbScratch, hacc]
  rfl

/-- The effect of a command that writes bit `i` of GLB_SCRATCH. -/
theorem does_scratchBit {c : Instr} {i : Nat} {v : Bool} (hi : i < 32)
    (h : exec c s = done (scratchWritten s (maskOf i i) (if v then maskOf i i else 0))) :
    Does c s [.staged, .inForce] fun t =>
      rdBit t Reg.glbScratch [] i = v ∧ (∀ j < 32, j ≠ i → rdBit t Reg.glbScratch [] j = rdBit s Reg.glbScratch [] j) ∧
        RegsBut [Reg.glbScratch.addr []] s t := by
  refine does_of h (onlyChanges_scratchWritten s _ _) ⟨?_, fun j hj hji => ?_, regsBut_scratchWritten s _ _⟩
  · exact (rdBit_scratchWritten hi v).trans (if_pos rfl)
  · exact (rdBit_scratchWritten hj v).trans (if_neg hji)

/-- A write of one bit of GLB_SCRATCH through BAR2 (R421, R423). -/
theorem does_aliasWrite_glbScratch {i : Nat} {data : Word} (hi : i < 32) (h : Reaches s req (Reg.glbScratch.addr [])) :
    Does (.aliasWrite req (128 * (Reg.glbScratch.addr [] / 4) + 4 * i) data) s [.staged, .inForce] fun t =>
      rdBit t Reg.glbScratch [] i = flag data 0 ∧
        (∀ j < 32, j ≠ i → rdBit t Reg.glbScratch [] j = rdBit s Reg.glbScratch [] j) ∧
        RegsBut [Reg.glbScratch.addr []] s t := by
  refine does_scratchBit hi ?_
  have haddr : Reg.glbScratch.addr [] = 16 := rfl
  have hword : (128 * (Reg.glbScratch.addr [] / 4) + 4 * i) / 128 * 4 = Reg.glbScratch.addr [] := by omega
  have hbit : (128 * (Reg.glbScratch.addr [] / 4) + 4 * i) % 128 / 4 = i := by omega
  have hwindow : 128 * (Reg.glbScratch.addr [] / 4) + 4 * i < 0x20000000 := by omega
  have hwrite := busWrite_alias (data := data) hwindow (by omega) (by rw [hword]; rfl) (by rw [hword]; exact h)
  rw [hword, hbit, landBit_glbScratch hi, stage_glbScratch (maskOf_bit_ne_zero hi)] at hwrite
  exact congrArg done ((if_pos hwindow).trans hwrite)

/-! ### The observation SPI (R507, R508) -/

theorem onlyChanges_spiErr (s : State) (e : Bool) :
    OnlyChanges [.obs] s { s with obs := { s.obs with spiErr := e } } := by
  intro p hp; cases p <;> simp_all [Part.same]

theorem spiWords_one (s : State) (space o : Nat) :
    spiWords space 1 o s = ((spiWord s space (o % 2 ^ 30)).1, toBytes 4 (spiWord s space (o % 2 ^ 30)).2.toNat) := by
  simp [spiWords]

/-- A READ of one word answers what that word gives, with ERR clear before it. -/
theorem execSpiRead_one {o : BitVec 30} (h : spiAlive s = true) {u : State} {v : Word}
    (hw : spiWord { s with obs := { s.obs with spiErr := false } } 0 o.toNat = (u, v)) :
    exec (.spiRead 0 o 1) s = done (emit u (.spi (toBytes 4 v.toNat))) := by
  have hwords := spiWords_one { s with obs := { s.obs with spiErr := false } } 0 o.toNat
  rw [Nat.mod_eq_of_lt o.isLt, hw] at hwords
  exact (if_pos h).trans (congrArg (fun x : State × List Byte => done (emit x.1 (.spi x.2))) hwords)

theorem spiWord_of_mapped (hv : s.power.vin = true) (h4 : a % 4 = 0) (ha : a < bar2) (hm : mapped a = true) :
    spiWord s 0 a = readWord s .spi a [] := by
  simp [spiWord, h4, ha, hm, hv]

theorem spiWord_of_unmapped (h4 : a % 4 = 0) (hm : mapped a = false) :
    spiWord s 0 a = ({ s with obs := { s.obs with spiErr := true } }, 0) := by
  simp [spiWord, h4, hm]

theorem does_spiRead_mapped {o : BitVec 30} (hv : s.power.vin = true) (h4 : o.toNat % 4 = 0) (ha : o.toNat < bar2)
    (hm : mapped o.toNat = true) (hc : ∀ g ix i, ctrAt (stagedOf o.toNat) ≠ some (g, ix, i, .low)) :
    Does (.spiRead 0 o 1) s [.out, .obs, .ports, .counters, .freeCtr] fun t =>
      t.obs = { s.obs with spiErr := false } ∧
        t.out = .spi (toBytes 4
          (peek (settleLpi { s with obs := { s.obs with spiErr := false } } o.toNat) .spi o.toNat).toNat) :: s.out := by
  set u : State := { s with obs := { s.obs with spiErr := false } }
  have halive : spiAlive s = true := by simp [spiAlive, hv]
  have hexec := execSpiRead_one halive ((spiWord_of_mapped (s := u) hv h4 ha hm).trans (readWord_of_not_low ha hc))
  have hread := onlyChanges_settled_draw u o.toNat
  have hframe := ((onlyChanges_spiErr s false).mono (qs := [.obs, .ports, .counters, .freeCtr]) (by simp)).trans
    (hread.mono (by simp))
  have hobs : (drawOpen (settleLpi u o.toNat) o.toNat).obs = u.obs := hread .obs (by simp)
  have hout : (drawOpen (settleLpi u o.toNat) o.toNat).out = s.out := hframe .out (by simp)
  exact does_of hexec ((hframe.mono (by simp)).trans ((onlyChanges_emit _ _).mono (by simp)))
    ⟨hobs, congrArg (_ :: ·) hout⟩

theorem does_spiRead_unmapped {o : BitVec 30} (halive : spiAlive s = true) (h4 : o.toNat % 4 = 0)
    (hm : mapped o.toNat = false) :
    Does (.spiRead 0 o 1) s [.out, .obs] fun t =>
      t.obs = { s.obs with spiErr := true } ∧ t.out = .spi [0, 0, 0, 0] :: s.out :=
  does_of (execSpiRead_one halive (spiWord_of_unmapped h4 hm))
    (((onlyChanges_spiErr s true).mono (by simp)).trans ((onlyChanges_emit _ _).mono (by simp))) ⟨rfl, rfl⟩

/-- The effect of a command that answers one output. -/
theorem does_emit {c : Instr} {o : Output} (h : exec c s = done (emit s o)) :
    Does c s [.out] fun t => t.out = o :: s.out :=
  does_of h (onlyChanges_emit s o) rfl

end

/-- Settles O6: a read is a settling, a draw and an answer (`does_settled_draw`), by word or by bit; an access that nothing
decodes is `does_busError`; a bit written through BAR2 is `does_aliasWrite_glbScratch`. -/
theorem registerReadsAnswer : Obligations.RegisterReadsAnswer := by
  refine ⟨?wordRead, fun _ _ => settleLpi_of_elsewhere, fun _ => peek_glbScratch, fun _ _ _ => peek_of_closed,
    fun _ _ _ _ _ _ => does_counterLowRead, ?readFault, ?writeFault, fun _ _ => aliasOf_word_bit, fun _ => mapped_alias,
    ?aliasRead, ?aliasReadFault, ?aliasWriteFault, fun _ _ _ _ => does_aliasWrite_glbScratch,
    fun _ _ => does_spiRead_mapped, fun _ _ halive h4 _ => does_spiRead_unmapped halive h4, ?spiStatus, ?spiIdent⟩
  case wordRead =>
    intro s req a hr hf ha hc
    refine does_settled_draw ?_
    show done (busRead s req a 4 []) = _
    rw [busRead_of_decoded hr hf, readWord_of_not_low ha hc]
  case readFault =>
    intro s req a width hr ha h4 hm
    have hexec : exec (.registerRead req a width []) s = done (busError s req a (if width = 4 then 0 else 1) false) :=
      congrArg done (busRead_of_fault hr (busFault_of_unmapped h4 hm))
    refine (does_busError hexec).imp ?_
    rintro t ⟨hout, hcnt, hlast, hinfo, hregs⟩
    rw [if_pos ha] at hlast
    rw [buserrInfo_below_bar2 false ha] at hinfo
    exact ⟨hout, hcnt, hlast, hinfo, hregs⟩
  case writeFault =>
    intro s req a width data hr ha h4 hm
    have hexec : exec (.registerWrite req a ⟨width, data⟩) s =
        done (busError s req a (if width = 4 then 0 else 1) true) :=
      congrArg done (busWrite_of_fault hr (busFault_of_unmapped h4 hm))
    refine (does_busError hexec).imp ?_
    rintro t ⟨hout, hcnt, -, hinfo, hregs⟩
    rw [buserrInfo_below_bar2 true ha] at hinfo
    exact ⟨hout, hcnt, hinfo, hregs⟩
  case aliasRead =>
    intro s req a hr ha h4 hm
    have hf := busFault_of_mapped (alias_aligned h4) ((mapped_alias ha).trans hm)
    have hread := (busRead_of_decoded (req := req) (us := []) hr hf).trans (by rw [readWord_alias ha])
    refine (does_settled_draw (c := .registerRead req (bar2 + a) 4 []) (congrArg done hread)).imp ?_
    rintro t ⟨hout, -, hcounters, hfree⟩
    exact ⟨hout, hcounters, hfree⟩
  case aliasReadFault =>
    intro s req a hr ha h4 hm
    have hf := busFault_of_unmapped (width := 4) (alias_aligned h4) (.inl ((mapped_alias ha).trans hm))
    have hexec : exec (.registerRead req (bar2 + a) 4 []) s = done (busError s req (bar2 + a) 0 false) :=
      congrArg done (busRead_of_fault hr hf)
    refine (does_busError hexec).imp ?_
    rintro t ⟨hout, hcnt, hlast, -, hregs⟩
    refine ⟨hout, hcnt, hlast.trans ?_, hregs⟩
    rw [if_neg (by omega), if_pos (alias_lt_bar4 ha), Nat.add_sub_cancel_left]
  case aliasWriteFault =>
    intro s req a data hr ha h4 hm
    have hf := busFault_of_unmapped (width := 4) (alias_aligned h4) (.inl ((mapped_alias ha).trans hm))
    have hexec : exec (.aliasWrite req a data) s = done (busError s req (bar2 + a) 0 true) :=
      congrArg done ((if_pos ha).trans (busWrite_of_fault hr hf))
    refine (does_busError hexec).imp ?_
    rintro t ⟨hout, hcnt, -, -, hregs⟩
    exact ⟨hout, hcnt, hregs⟩
  case spiStatus =>
    intro s h
    exact does_emit (congrArg done (if_pos h))
  case spiIdent =>
    intro s h
    exact does_emit (congrArg done (if_pos h))

end Sys2Proof.Machine

/-! PROOFS. What every step keeps (R434): each command hands a state to `done`, so a step ends in `settle`; and what reset
leaves (R461, R463). -/
namespace Sys2Proof.Machine

/-! ### The levels do not depend on which vectors are armed -/

section
variable (s : State)

theorem word_settle (r : RegRow) (ix : List Nat) : word (settle s) r ix = word s r ix := rfl
theorem windowsOpen_settle : windowsOpen (settle s) = windowsOpen s := rfl
theorem glbCond_settle : glbCond (settle s) = glbCond s := rfl
theorem fixCond_settle : fixCond (settle s) = fixCond s := rfl
theorem hpCond_settle (n : Nat) : hpCond (settle s) n = hpCond s n := rfl
theorem cpCond_settle (c : Nat) : cpCond (settle s) c = cpCond s c := rfl
theorem pipeCond_settle (k : Nat) : pipeCond (settle s) k = pipeCond s k := rfl
theorem fdbCond_settle : fdbCond (settle s) = fdbCond s := rfl
theorem strmCond_settle : strmCond (settle s) = strmCond s := rfl
theorem bpmCond_settle : bpmCond (settle s) = bpmCond s := rfl
theorem schedCond_settle : schedCond (settle s) = schedCond s := rfl
theorem timeCond_settle : timeCond (settle s) = timeCond s := rfl
theorem accCond_settle : accCond (settle s) = accCond s := rfl
theorem placeCond_settle : placeCond (settle s) = placeCond s := rfl
theorem izlCond_settle : izlCond (settle s) = izlCond s := rfl
theorem twinCond_settle : twinCond (settle s) = twinCond s := rfl
theorem imgCond_settle : imgCond (settle s) = imgCond s := rfl
theorem maintCond_settle : maintCond (settle s) = maintCond s := rfl
theorem obsCond_settle : obsCond (settle s) = obsCond s := rfl

theorem sourceLevel_settle (n : Nat) : sourceLevel (settle s) n = sourceLevel s n := by
  simp only [sourceLevel, word_settle, windowsOpen_settle, glbCond_settle, fixCond_settle, hpCond_settle, cpCond_settle,
    pipeCond_settle, fdbCond_settle, strmCond_settle, bpmCond_settle, schedCond_settle, timeCond_settle, accCond_settle,
    placeCond_settle, izlCond_settle, twinCond_settle, imgCond_settle, maintCond_settle, obsCond_settle]
  rfl

theorem levels_settle : levels (settle s) = levels s := by
  simp only [levels, rd, rdBit, word_settle, sourceLevel_settle]
  rfl

/-- The vectors that stay disarmed through `settle` have their level (R434). -/
theorem disarmed_settle : (settle s).irq.disarmed &&& ~~~levels (settle s) = 0 := by
  rw [levels_settle]
  show (s.irq.disarmed &&& levels s) &&& ~~~levels s = 0#64
  rw [BitVec.and_assoc, BitVec.and_not_self]
  exact BitVec.and_zero

end

/-! ### Every command completes -/

/-- A command's meaning hands some state to `done`. -/
def Completes (o : Host.Outcome State Fault Refusal) : Prop := ∃ u, o = done u

theorem completes_done (u : State) : Completes (done u) := ⟨u, rfl⟩

/-- Every command completes: most meanings are `done` of their effect, and the others choose among such. -/
theorem exec_completes (c : Instr) (s : State) : Completes (exec c s) := by
  cases c
  case
      powerOn | glbResetCmdGo | thermalRecover | registerWrite | msHoldWrite | irqVecRearm | share | dropRef |
      free | anRestart | hpPortEnWrite | fecSelWrite | moduleXferGo | cpAnRestart | cpCfgWrite | cableDiagRun |
      relocationMove | fdbFlush | fdbHashSeedWrite | fdbCmdLookup | fdbCmdWrite | fdbCmdDelete | mdbEditSetPort |
      mdbEditClearPort | mdbEditClearReportSeen | streamContextWrite | strmCmdLookup | strmCmdInsert |
      strmCmdDelete | ctxResetRecovery | ctxUnblock | ctxGenSeqZero | ctxBalancesFull | queueDescriptorWrite |
      gateEntryWrite | gateCommit | qCmdZeroMaxima | qCmdClearQueueDebt | qCmdClearClassDebt | tbCmdAdj | tbCmdSet
      | tbCmdDeliverSwOffset | timeCapture | ptpContextWrite | tcRecordLapse | ppsinPop | accJobStart |
      accJobCommit | accJobStop | engineFault | perfSelWrite | placeQAllocate | helloRx | joinRx | assignRx |
      flowRx | flowRefresh | orderRx | orderReplyRx | pmSecond | izlHierRelease | izlHierRejoin | izlGrpCfgWrite |
      switchover | twinCmdTakeover | declareFail | resync | ringOpen | ringForceWrite | endpointReset |
      hostRingTailWrite | hostRingEnable | hostRingDisable | tableDmaGo | replVerify | replArm | replAbort |
      replAck | stageClaim | stageWrite | stageEnd | stageVerify | stageCommit | stageAbort | activateHitless |
      activateTwin | activateRestart | confirm | raiseFloor | programCustKey | hierStage | hierActivate |
      hierAbort | ballOwnerWrite | ballDriveWrite | recArm | recStop | recRelease | recTrigger | captureExportGo |
      rerunEnter | rerunStart | registerRead =>
    exact completes_done _
  all_goals
    simp only [exec,
      execPwrgdAssert, execPowerLoss, execVaux33Change, execResetNAssert, execResetExit, execThermalShutdown,
      execBootRomDone, execBankCheckDone, execBankTryTimeout, execStageComplete, execStageLimitExpiry,
      execFatalCondition, execDeviceCycleBoundary, execMaintUnitDone, execApplyDeadline, execAcknowledgeWrite,
      execCounterLowRead, execAliasWrite, execMsHoldExpire, execMsixMessage, execMsixControlWrite,
      execTableEntryWrite, execTableEpoch, execFrameHeaderRx, execFrameTailRx, execMacControlFrameRx,
      execPauseExpiry, execPauseRefresh, execDequeueDecision, execAllocationSlot, execPointerCacheRefill,
      execOperationTagReturned, execLinkUp, execLinkDown, execLinkFault, execAnComplete, execLtFail,
      execLtRestart, execModulePresencePoll, execModulePresenceChange, execModuleDebounceExpiry,
      execModuleIdentified, execModuleReady, execModuleStepTimeout, execModuleRemoved, execModuleMonitorPoll,
      execModuleXferDone, execCopperAnComplete, execLpiEntry, execLpiRx, execCarrierSense, execCollision,
      execBackoffExpiry, execCableDiagDone, execLearn, execStashDrain, execDeferralReplay, execAgingTick,
      execAgeDelete, execFlushDelete, execFdbLockRequest, execFdbLockGrant, execFdbLockExpire,
      execRecoveryTimerExpiry, execLatentTest, execNodeForget, execSupervisionFrameTx, execGateCycleStart,
      execGateEntryExpiry, execVoqRouteWrite, execVoqXoffLapse, execServoUpdate, execSrcTimeout, execRefLost,
      execRefRestored, execPtpMessageRx, execSyncTx, execFollowUpTx, execRelaySyncTx, execDelayReqTx,
      execPdelayReqTx, execFollowUpTimeout, execPpsinEdge, execApplySampleReached, execInputPacketRx,
      execInputDeadline, execOutputPacketCompute, execJobStepRestart, execCarriedCommandRx, execMigrationCompare,
      execJobFaultRestart, execLineCopyDone, execJournalFlashCopy, execMc2Resume, execLaneFrameTx,
      execLaneHeaderRx, execGroupFrameRx, execActiveSetChange, execLeafRx, execAisLeafRx, execHelloTx,
      execOrderRetry, execUpstreamLoss, execOrphanTimeout, execPmBinRoll, execPeerFound, execPeerSearchTimeout,
      execHeartbeatRx, execHeartbeatMissed, execTwinStateRx, execStaleCopyDone, execTwinLaneChange,
      execTwinNotificationRx, execSwitchoverBoundary, execSyncCopyDone, execWtrExpiry, execRevertReady,
      execRingAutoOpen, execRingReadyTimeout, execRingLinksUp, execRingOpenTimeout, execHostPortStateChange,
      execRxFrameDeliver, execRxTimeout, execTxFrameFetch, execTxCompletion, execTableDmaDone, execWatchdogExpiry,
      execMc0WatchdogExpiry, execCoreRestartDone, execReplSwitch, execReplContainerToStandby, execStageWriteDone,
      execStagingLockTimeout, execEngineDrained, execDrainTimeout, execCoreUpdateDone, execTrialHoldExpiry,
      execSpiRead, execSpiStatus, execSpiIdent, execTraceFrameTx, execSnapshotPeriod, execSillageEpoch,
      execMatchTrigger, execPostExpiry, execCheckpointTimer, execHoldupChargeFull, execWholeSecond]
    repeat' split
    all_goals exact completes_done _

theorem exec_settles (c : Instr) (s : State) : ∃ u, exec c s = .next (settle u) := exec_completes c s

theorem step_completes (s : State) : Completes (step s) := by
  unfold step
  split
  · exact completes_done _
  · exact exec_completes _ _

/-! ### What reset leaves (R461, R463, R551) -/

theorem linkUp_reset : ∀ p < 80, linkUp State.reset p = false := by decide

theorem stageDone_reset : ∀ n < 12, stageDone State.reset n = false := by decide

/-- Settles O55: the queue is not empty. -/
theorem stepRunsFront : Obligations.StepRunsFront := by
  intro s c r h
  rw [step, h]

/-- Settles O57: `exec_settles`, for each command. -/
theorem noCommandStops : Obligations.NoCommandStops := by
  refine ⟨exec_settles, ?_⟩
  and_intros <;> (intros; exact exec_settles _ _)

/-- Settles O58: a step ends in `settle`, which arms the vectors whose level has gone. -/
theorem disarmedVectorsStand : Obligations.DisarmedVectorsStand := by
  intro s t _ hstep
  obtain ⟨u, hu⟩ := step_completes s
  obtain rfl : settle u = t := by
    have h : Host.Outcome.next (settle u) = .next t := hu.symm.trans hstep
    exact Host.Outcome.next.inj h
  exact disarmed_settle u

/-- Settles O59: the reset state has no vector disarmed. -/
theorem resetArmsVectors : Obligations.ResetArmsVectors := ⟨BitVec.zero_and, rfl⟩

/-- Settles O60: at reset no word and no counter is listed, so each reads its reset value. -/
theorem resetLeaves : Obligations.ResetLeaves :=
  ⟨fun _ _ => ⟨rfl, rfl⟩, fun _ _ _ => rfl, linkUp_reset, stageDone_reset, by decide, by decide, rfl, canon_nil, by decide,
    by decide, by decide⟩

end Sys2Proof.Machine

/-! PROOFS. Rules that every family uses: frames composed one after the other, frames of a part replaced as a whole, fields
and flags of a word that was written, and a write of a register by a command that stands for it. -/
namespace Sys2Proof.Machine

/-! ### Frames composed -/

section
variable {ps qs : List Part} {l : List Nat} {s t u : State}

/-- What two updates, one after the other, may change. -/
theorem OnlyChanges.append (h : OnlyChanges ps s t) (h' : OnlyChanges qs t u) : OnlyChanges (ps ++ qs) s u :=
  (h.mono fun _ hp => List.mem_append_left _ hp).trans (h'.mono fun _ hp => List.mem_append_right _ hp)

theorem OnlyChanges.ite {c : Prop} [Decidable c] (h : OnlyChanges ps s t) (h' : OnlyChanges ps s u) :
    OnlyChanges ps s (if c then t else u) := by
  split
  · exact h
  · exact h'

theorem OnlyChanges.foldl {α : Type} {f : State → α → State} (h : ∀ t x, OnlyChanges ps t (f t x)) (xs : List α) (s : State) :
    OnlyChanges ps s (xs.foldl f s) :=
  List.foldlRecOn (motive := OnlyChanges ps s) xs f (.refl ps s) fun t ht x _ => ht.trans (h t x)

theorem RegsBut.ite {c : Prop} [Decidable c] (h : RegsBut l s t) (h' : RegsBut l s u) :
    RegsBut l s (if c then t else u) := by
  split
  · exact h
  · exact h'

theorem RegsBut.foldl {α : Type} {f : State → α → State} (h : ∀ t x, RegsBut l t (f t x)) (xs : List α) (s : State) :
    RegsBut l s (xs.foldl f s) :=
  List.foldlRecOn (motive := RegsBut l s) xs f (.refl l s) fun t ht x _ => ht.trans (h t x)

theorem RegsBut.mono {l' : List Nat} (h : RegsBut l s t) (hl : ∀ a ∈ l, a ∈ l') : RegsBut l' s t :=
  fun a d ha => h a d fun hm => ha (hl a hm)

/-- A word outside those that may change is as before. -/
theorem RegsBut.word_eq {r : RegRow} {ix : List Nat} (h : RegsBut l s t) (ha : r.addr ix ∉ l) : word t r ix = word s r ix :=
  h _ _ ha

theorem RegsBut.rd_eq {r : RegRow} {ix : List Nat} {hi lo : Nat} (h : RegsBut l s t) (ha : r.addr ix ∉ l) :
    rd t r ix hi lo = rd s r ix hi lo := by rw [rd, rd, h.word_eq ha]

theorem RegsBut.rdBit_eq {r : RegRow} {ix : List Nat} {i : Nat} (h : RegsBut l s t) (ha : r.addr ix ∉ l) :
    rdBit t r ix i = rdBit s r ix i := by rw [rdBit, rdBit, h.word_eq ha]

theorem DoesFrom.imp {b : State} {c : Instr} {P Q : State → Prop} (h : DoesFrom b c s ps P) (hPQ : ∀ t, P t → Q t) :
    DoesFrom b c s ps Q :=
  let ⟨t, ht, hf, hp⟩ := h
  ⟨t, ht, hf, hPQ t hp⟩

/-- The effect of a command whose meaning hands `u` to `done`, read off `u` itself: of the arming of vectors nothing is said. -/
theorem doesFrom_of_any {b : State} {c : Instr} {P : State → Prop} (h : exec c s = done u) (f : OnlyChanges ps b u)
    (p : ∀ i, P { u with irq := i }) : DoesFrom b c s ps P := doesFrom_of h f (p _)

theorem does_of_any {c : Instr} {P : State → Prop} (h : exec c s = done u) (f : OnlyChanges ps s u)
    (p : ∀ i, P { u with irq := i }) : Does c s ps P := doesFrom_of_any h f p

/-- A command whose meaning leaves the state as it is does nothing. -/
theorem doesFrom_nothing {b : State} {c : Instr} (h : exec c s = done b) : DoesFrom b c s [] fun _ => True :=
  doesFrom_of h (.refl [] b) trivial

end

/-! ### Parts and words that an update may change -/

/-- `t` is as `s` but in the parts `ps`, and in the words in force at the offsets `l`. -/
def Within (ps : List Part) (l : List Nat) (s t : State) : Prop := OnlyChanges ps s t ∧ RegsBut l s t

section
variable {ps qs : List Part} {l m : List Nat} {s t u : State}

theorem Within.refl (ps : List Part) (l : List Nat) (s : State) : Within ps l s s := ⟨.refl ps s, .refl l s⟩

theorem Within.trans (h : Within ps l s t) (h' : Within ps l t u) : Within ps l s u := ⟨h.1.trans h'.1, h.2.trans h'.2⟩

theorem Within.mono (h : Within ps l s t) (hs : ∀ p ∈ ps, p ∈ qs) (hl : ∀ a ∈ l, a ∈ m) : Within qs m s t :=
  ⟨h.1.mono hs, h.2.mono hl⟩

theorem Within.append (h : Within ps l s t) (h' : Within qs m t u) : Within (ps ++ qs) (l ++ m) s u :=
  ⟨h.1.append h'.1, (h.2.mono fun _ ha => List.mem_append_left _ ha).trans (h'.2.mono fun _ ha => List.mem_append_right _ ha)⟩

theorem Within.ite {c : Prop} [Decidable c] (h : Within ps l s t) (h' : Within ps l s u) :
    Within ps l s (if c then t else u) := ⟨h.1.ite h'.1, h.2.ite h'.2⟩

/-- An update that may or may not be made. -/
theorem Within.orNot {c : Prop} [Decidable c] (h : Within ps l s t) : Within ps l s (if c then t else s) := h.ite (.refl ps l s)

theorem Within.foldl {α : Type} {f : State → α → State} (h : ∀ t x, Within ps l t (f t x)) (xs : List α) (s : State) :
    Within ps l s (xs.foldl f s) := ⟨.foldl (fun t x => (h t x).1) xs s, .foldl (fun t x => (h t x).2) xs s⟩

theorem Within.foldl_mem {α : Type} {f : State → α → State} {xs : List α} (h : ∀ t, ∀ x ∈ xs, Within ps l t (f t x))
    (s : State) : Within ps l s (xs.foldl f s) :=
  List.foldlRecOn (motive := Within ps l s) xs f (.refl ps l s) fun t ht x hx => ht.trans (h t x hx)

/-- Where no word in force may change, none has. -/
theorem OnlyChanges.within (h : OnlyChanges ps s t) (hp : Part.inForce ∉ ps) : Within ps [] s t :=
  ⟨h, regsBut_of_eq (h .inForce hp)⟩

end

section
variable (s : State) (r : RegRow) (ix : List Nat)

theorem within_putWord (w : Word) : Within [.inForce] [r.addr ix] s (putWord s r ix w) :=
  ⟨onlyChanges_putWord s r ix w, regsBut_putWord (List.mem_singleton_self _)⟩

theorem within_wr (hi lo v : Nat) : Within [.inForce] [r.addr ix] s (wr s r ix hi lo v) := within_putWord s r ix _

theorem within_wrBit (i : Nat) (b : Bool) : Within [.inForce] [r.addr ix] s (wrBit s r ix i b) := within_putWord s r ix _

theorem within_countEvent : Within [.inForce] [r.addr ix] s (countEvent s r ix) := within_putWord s r ix _

theorem within_wrBoth (hi lo v : Nat) : Within [.staged, .inForce] [r.addr ix] s (wrBoth s r ix hi lo v) :=
  ⟨onlyChanges_wrBoth s r ix hi lo v, regsBut_wrBoth (List.mem_singleton_self _)⟩

theorem within_putStaged (w : Word) : Within [.staged] [] s (putStaged s r ix w) :=
  (onlyChanges_putStaged s r ix w).within (by decide)

theorem within_emit (o : Output) : Within [.out] [] s (emit s o) := (onlyChanges_emit s o).within (by decide)

theorem within_bump (g : CtrGroup) (jx : List Nat) (i n : Nat) : Within [.counters] [] s (bump s g jx i n) :=
  (onlyChanges_bump s g jx i n).within (by decide)

theorem within_spend : Within [.freeCtr] [] s (spend s) := (onlyChanges_spend s).within (by decide)

end

/-! ### Frames of a part replaced as a whole -/

section
variable (s : State)

theorem onlyChanges_of_power (x : Power) : OnlyChanges [.power] s { s with power := x } := by
  intro p hp; cases p <;> simp_all [Part.same]

theorem onlyChanges_of_image (x : Image) : OnlyChanges [.image] s { s with image := x } := by
  intro p hp; cases p <;> simp_all [Part.same]

theorem onlyChanges_of_sched (x : Sched) : OnlyChanges [.sched] s { s with sched := x } := by
  intro p hp; cases p <;> simp_all [Part.same]

theorem onlyChanges_of_fdb (x : Fdb) : OnlyChanges [.fdb] s { s with fdb := x } := by
  intro p hp; cases p <;> simp_all [Part.same]

theorem onlyChanges_of_strm (x : Strm) : OnlyChanges [.strm] s { s with strm := x } := by
  intro p hp; cases p <;> simp_all [Part.same]

theorem onlyChanges_of_time (x : Time) : OnlyChanges [.clock, .time] s { s with time := x } := by
  intro p hp; cases p <;> simp_all [Part.same]

theorem onlyChanges_of_acc (x : Acc) : OnlyChanges [.acc] s { s with acc := x } := by
  intro p hp; cases p <;> simp_all [Part.same]

theorem onlyChanges_of_place (x : Place) : OnlyChanges [.place] s { s with place := x } := by
  intro p hp; cases p <;> simp_all [Part.same]

theorem onlyChanges_of_izl (x : Izl) : OnlyChanges [.izl] s { s with izl := x } := by
  intro p hp; cases p <;> simp_all [Part.same]

theorem onlyChanges_of_twin (x : Twin) : OnlyChanges [.twin] s { s with twin := x } := by
  intro p hp; cases p <;> simp_all [Part.same]

theorem onlyChanges_of_host (x : HostIf) : OnlyChanges [.host] s { s with host := x } := by
  intro p hp; cases p <;> simp_all [Part.same]

theorem onlyChanges_of_img (x : Img) : OnlyChanges [.img] s { s with img := x } := by
  intro p hp; cases p <;> simp_all [Part.same]

theorem onlyChanges_of_maint (x : Maint) : OnlyChanges [.maint] s { s with maint := x } := by
  intro p hp; cases p <;> simp_all [Part.same]

theorem onlyChanges_of_obs (x : Obs) : OnlyChanges [.obs] s { s with obs := x } := by
  intro p hp; cases p <;> simp_all [Part.same]

theorem within_of_power (x : Power) : Within [.power] [] s { s with power := x } :=
  (onlyChanges_of_power s x).within (by decide)

theorem within_of_image (x : Image) : Within [.image] [] s { s with image := x } :=
  (onlyChanges_of_image s x).within (by decide)

theorem within_of_sched (x : Sched) : Within [.sched] [] s { s with sched := x } :=
  (onlyChanges_of_sched s x).within (by decide)

theorem within_of_fdb (x : Fdb) : Within [.fdb] [] s { s with fdb := x } :=
  (onlyChanges_of_fdb s x).within (by decide)

theorem within_of_strm (x : Strm) : Within [.strm] [] s { s with strm := x } :=
  (onlyChanges_of_strm s x).within (by decide)

theorem within_of_time (x : Time) : Within [.clock, .time] [] s { s with time := x } :=
  (onlyChanges_of_time s x).within (by decide)

theorem within_of_place (x : Place) : Within [.place] [] s { s with place := x } :=
  (onlyChanges_of_place s x).within (by decide)

theorem within_of_izl (x : Izl) : Within [.izl] [] s { s with izl := x } :=
  (onlyChanges_of_izl s x).within (by decide)

theorem within_of_twin (x : Twin) : Within [.twin] [] s { s with twin := x } :=
  (onlyChanges_of_twin s x).within (by decide)

theorem within_of_host (x : HostIf) : Within [.host] [] s { s with host := x } :=
  (onlyChanges_of_host s x).within (by decide)

theorem within_of_img (x : Img) : Within [.img] [] s { s with img := x } :=
  (onlyChanges_of_img s x).within (by decide)

theorem within_of_maint (x : Maint) : Within [.maint] [] s { s with maint := x } :=
  (onlyChanges_of_maint s x).within (by decide)

theorem within_of_obs (x : Obs) : Within [.obs] [] s { s with obs := x } :=
  (onlyChanges_of_obs s x).within (by decide)

end

/-! ### Fields and flags of a written word -/

section
variable {m : Nat} {x : BitVec m} {hi lo v i j : Nat} {b : Bool}

theorem flag_setFld_same (h : i < m) : flag (setFld x i i (bnat b)) i = b := by
  rw [flag_eq_fld, fld_setFld_same (Nat.le_refl i) h]
  cases b <;> simp [bnat]

theorem flag_setFld_below (hl : lo ≤ hi) (hm : hi < m) (h : i < lo) : flag (setFld x hi lo v) i = flag x i := by
  rw [flag_eq_fld, flag_eq_fld, fld_setFld_below hl hm h]

theorem flag_setFld_above (hl : lo ≤ hi) (hm : hi < m) (h : hi < i) : flag (setFld x hi lo v) i = flag x i := by
  rw [flag_eq_fld, flag_eq_fld, fld_setFld_above hl hm h]

theorem flag_setFld_other (hm : j < m) (h : i ≠ j) : flag (setFld x j j v) i = flag x i := by
  rcases Nat.lt_or_gt_of_ne h with h | h
  · exact flag_setFld_below (Nat.le_refl j) hm h
  · exact flag_setFld_above (Nat.le_refl j) hm h

end

section
variable {s : State} {r q : RegRow} {ix jx : List Nat} {hi lo v i j : Nat} {b : Bool}

@[simp] theorem word_wrBit_same : word (wrBit s r ix i b) r ix = setFld (word s r ix) i i (bnat b) := word_wr_same

theorem word_wrBit_other (h : q.addr jx ≠ r.addr ix) : word (wrBit s r ix i b) q jx = word s q jx := word_wr_other h

theorem word_wrBoth_same : word (wrBoth s r ix hi lo v) r ix = setFld (word s r ix) hi lo v := word_wr_same

theorem word_wrBoth_other (h : q.addr jx ≠ r.addr ix) : word (wrBoth s r ix hi lo v) q jx = word s q jx := word_wr_other h

theorem rd_wrBoth_same (hl : lo ≤ hi) (hm : hi < 32) : rd (wrBoth s r ix hi lo v) r ix hi lo = v % 2 ^ (hi + 1 - lo) :=
  rd_wr_same hl hm

theorem rdBit_wrBit_other (hi : i < 32) (h : j ≠ i) : rdBit (wrBit s r ix i b) r ix j = rdBit s r ix j := by
  rw [rdBit, word_wrBit_same, flag_setFld_other hi h, rdBit]

end

/-! ### Reading a state after its vectors were re-armed -/

section
variable {l : List Nat} {s t : State}

theorem rd_settle (s : State) (r : RegRow) (ix : List Nat) (hi lo : Nat) : rd (settle s) r ix hi lo = rd s r ix hi lo := rfl

theorem rdBit_settle (s : State) (r : RegRow) (ix : List Nat) (i : Nat) : rdBit (settle s) r ix i = rdBit s r ix i := rfl

theorem RegsBut.settle (h : RegsBut l s t) : RegsBut l s (settle t) := h

theorem CountersBut.settle (h : CountersBut l s t) : CountersBut l s (settle t) := h

end

end Sys2Proof.Machine

/-! PROOFS. Supplies and resets (R461): PWRGD_ASSERT also notes its own tick. -/
namespace Sys2Proof.Machine

/-- A device with VIN12 in range and its rails not yet in regulation, 5 ticks after the rails last were. -/
def railsRising : State :=
  { State.reset with power := { State.reset.power with vin := true, pwrgdAt := 5 } }

/-- PWRGD_ASSERT notes the tick at which the rails are in regulation. -/
theorem pwrgdAt_pwrgdAssert {s t : State} (hv : s.power.vin = true) (hh : s.power.hot = false)
    (hp : s.power.pwrgd = false) (h : exec .pwrgdAssert s = .next t) : t.power.pwrgdAt = s.time.dt := by
  have hexec : exec .pwrgdAssert s = execPwrgdAssert s := rfl
  rw [hexec, execPwrgdAssert, if_pos (by simp [hv, hh, hp])] at h
  rw [← Host.Outcome.next.inj h]
  rfl

/-- Refutes O1: PWRGD_ASSERT also sets the tick of power good, which the second clause takes to stay as it was. -/
theorem not_suppliesAndResets : ¬ Obligations.SuppliesAndResets := by
  rintro ⟨-, hpwrgd, -⟩
  obtain ⟨t, hexec, -, hpower, -⟩ := hpwrgd railsRising rfl rfl rfl
  have hat : t.power.pwrgdAt = 0 := pwrgdAt_pwrgdAssert rfl rfl rfl hexec
  rw [hpower] at hat
  exact absurd hat (by decide)

end Sys2Proof.Machine

/-! PROOFS. Boot tries banks (R464 to R470): what failing, marking a stage and trying a bank change, and from these the effect
of each command of boot. -/
namespace Sys2Proof.Machine

section
variable {s now : State} {b c n : Nat}

/-! ### A stage that fails, or completes -/

theorem within_failStage (s : State) (n c : Nat) :
    Within [.inForce] [Reg.glbReady.addr [], Reg.glbReadyFail.addr []] s (failStage s n c) :=
  ((within_wrBit s _ _ _ _).append (within_putWord _ _ _ _)).mono (by decide) (by decide)

theorem word_glbReadyFail_failStage (s : State) (n c : Nat) :
    word (failStage s n c) Reg.glbReadyFail [] = BitVec.ofNat 32 (n * 2 ^ 28 + c) := word_putWord_same

theorem halted_failStage (s : State) (n c : Nat) : halted (failStage s n c) = true := by
  have h : word (failStage s n c) Reg.glbReady [] = setFld (word s Reg.glbReady []) 31 31 (bnat true) :=
    (word_putWord_other (by decide)).trans word_wrBit_same
  rw [halted, rdBit, h]
  exact flag_setFld_same (by decide)

/-- `s` with its stage `n` complete in time, before the notice leaves. -/
def stageEnded (s : State) (n : Nat) : State :=
  let s := wrBit s Reg.glbReady [] n true
  let s := { s with power := { s.power with stageAt := put s.power.stageAt n s.time.dt } }
  wr (putWord s Reg.glbStageMs [n] (BitVec.ofNat 32 (stageMs s))) Reg.glbReady [] 27 24 (reachedStage s)

theorem markStage_of_early (hn : n < 2) : markStage s n false false = stageEnded s n := if_pos hn

theorem markStage_of_late (hn : 2 ≤ n) : markStage s n false false = emit (stageEnded s n) (.stageNotice n) :=
  if_neg (Nat.not_lt.2 hn)

theorem within_stageEnded (s : State) (n : Nat) :
    Within [.inForce, .power] [Reg.glbReady.addr [], Reg.glbStageMs.addr [n]] s (stageEnded s n) :=
  ((((within_wrBit s _ _ _ _).append (within_of_power _ _)).append (within_putWord _ _ _ _)).append
    (within_wr _ _ _ _ _ _)).mono (by decide) (by simp)

theorem stageDone_stageEnded (s : State) {n : Nat} (hn : n < 3) : stageDone (stageEnded s n) n = true := by
  have hne : Reg.glbReady.addr [] ≠ Reg.glbStageMs.addr [n] := by
    have : n = 0 ∨ n = 1 ∨ n = 2 := by omega
    rcases this with rfl | rfl | rfl <;> decide
  rw [stageDone, rdBit, stageEnded, word_wr_same, word_putWord_other hne, flag_setFld_below (by decide) (by decide) (by omega)]
  exact (congrArg (flag · n) word_wrBit_same).trans (flag_setFld_same (by omega))

theorem power_stageEnded (s : State) (n : Nat) :
    (stageEnded s n).power = { s.power with stageAt := put s.power.stageAt n s.time.dt } := rfl

theorem word_glbStageMs_stageEnded (s : State) {n : Nat} (hn : n < 3) :
    word (stageEnded s n) Reg.glbStageMs [n] = BitVec.ofNat 32 (stageMs s) := by
  have hne : Reg.glbStageMs.addr [n] ≠ Reg.glbReady.addr [] := by
    have : n = 0 ∨ n = 1 ∨ n = 2 := by omega
    rcases this with rfl | rfl | rfl <;> decide
  exact (word_wr_other hne).trans word_putWord_same

/-! ### The bank that is tried next -/

theorem within_enterRecovery (s : State) (c : Nat) :
    Within [.inForce, .power] [Reg.glbReady.addr [], Reg.glbReadyFail.addr [], Reg.glbBootStat.addr []] s
      (enterRecovery s c) :=
  ((((within_failStage s _ _).append (within_wrBit _ _ _ _ _)).append (within_of_power _ _)).append
    (within_wr _ _ _ _ _ _)).mono (by decide) (by decide)

theorem power_enterRecovery (s : State) (c : Nat) : (enterRecovery s c).power = { s.power with trying := none } := by
  have hshown := (within_failStage s 2 c).append (within_wrBit (failStage s 2 c) Reg.glbReady [] 30 true)
  have hpower : (wrBit (failStage s 2 c) Reg.glbReady [] 30 true).power = s.power := hshown.1 .power (by decide)
  show ({ (wrBit (failStage s 2 c) Reg.glbReady [] 30 true).power with trying := none } : Power) = _
  rw [hpower]

/-- The first bank of BOOT_SEL's order that has not failed. -/
def nextBank (s : State) : Option Nat := (bankOrder s).find? fun b => !s.power.failed.contains b

theorem tryNext_of_bank (h : nextBank s = some b) :
    tryNext s = { s with power := { s.power with trying := some b, tryAt := s.time.dt } } := by
  unfold nextBank at h
  simp only [tryNext, h]

theorem tryNext_of_none (h : nextBank s = none) : tryNext s = enterRecovery s 3 := by
  unfold nextBank at h
  simp only [tryNext, h]

theorem within_tryNext (s : State) :
    Within [.inForce, .power] [Reg.glbReady.addr [], Reg.glbReadyFail.addr [], Reg.glbBootStat.addr []] s (tryNext s) := by
  cases h : nextBank s with
  | none => rw [tryNext_of_none h]; exact within_enterRecovery s 3
  | some b => rw [tryNext_of_bank h]; exact (within_of_power s _).mono (by decide) (by simp)

theorem trying_tryNext (s : State) : (tryNext s).power.trying = nextBank s := by
  cases h : nextBank s with
  | none => rw [tryNext_of_none h]; rw [power_enterRecovery]
  | some b => rw [tryNext_of_bank h]

theorem failed_tryNext (s : State) : (tryNext s).power.failed = s.power.failed := by
  cases h : nextBank s with
  | none => rw [tryNext_of_none h]; rw [power_enterRecovery]
  | some b => rw [tryNext_of_bank h]

/-- RECOVERY shows as BANK 3, beside the banks' codes. -/
theorem rd_glbBootStat_tryNext (s : State) {hi lo : Nat} (h : hi < 29) :
    rd (tryNext s) Reg.glbBootStat [] hi lo = rd s Reg.glbBootStat [] hi lo := by
  cases hb : nextBank s with
  | none =>
    have hword : word (enterRecovery s 3) Reg.glbBootStat [] = setFld (word s Reg.glbBootStat []) 30 29 3 :=
      word_wr_same.trans (congrArg (setFld · 30 29 3)
        (((within_of_power _ _).2.word_eq (by simp)).trans
          ((word_wrBit_other (by decide)).trans ((within_failStage s 2 3).2.word_eq (by decide)))))
    rw [tryNext_of_none hb, rd, hword, fld_setFld_below (by decide) (by decide) h, rd]
  | some b => rw [tryNext_of_bank hb]; rfl

/-- How many FATAL resets count depends on DT and the ticks that are kept. -/
theorem fatalCount_congr {t : State} (hd : t.time.dt = s.time.dt) (hf : t.power.fatals = s.power.fatals) :
    fatalCount t = fatalCount s := by
  rw [fatalCount, fatalCount, hd, hf]

/-! ### A bank that fails -/

theorem failTrial_of_not_trial (h : (bankOfImg s b).state ≠ 3) : failTrial s b = s := if_neg h

/-- `s` with bank `b` failed with code `c`, before the next is tried. -/
def bankFailed (s : State) (b c : Nat) : State :=
  let s := wr s Reg.glbBootStat [] (8 * b + 15) (8 * b + 8) c
  { s with power := { s.power with failed := s.power.failed ++ [b], trying := none } }

theorem failBank_of_not_trial (h : (bankOfImg s b).state ≠ 3) : failBank s b c = tryNext (bankFailed s b c) :=
  congrArg tryNext (failTrial_of_not_trial (s := bankFailed s b c) h)

theorem within_failBank (h : (bankOfImg s b).state ≠ 3) :
    Within [.inForce, .power] [Reg.glbBootStat.addr [], Reg.glbReady.addr [], Reg.glbReadyFail.addr []] s
      (failBank s b c) := by
  rw [failBank_of_not_trial h]
  exact (((within_wr s _ _ _ _ _).append (within_of_power _ _)).append (within_tryNext _)).mono (by decide) (by decide)

theorem failed_failBank (h : (bankOfImg s b).state ≠ 3) : (failBank s b c).power.failed = s.power.failed ++ [b] := by
  rw [failBank_of_not_trial h]
  exact failed_tryNext _

theorem code_failBank (h : (bankOfImg s b).state ≠ 3) (hb : b < 2) :
    rd (failBank s b c) Reg.glbBootStat [] (8 * b + 15) (8 * b + 8) = c % 256 := by
  rw [failBank_of_not_trial h, rd_glbBootStat_tryNext _ (by omega)]
  have hwritten : rd (bankFailed s b c) Reg.glbBootStat [] (8 * b + 15) (8 * b + 8) = c % 2 ^ (8 * b + 15 + 1 - (8 * b + 8)) :=
    rd_wr_same (s := s) (by omega) (by omega)
  rw [hwritten, show 8 * b + 15 + 1 - (8 * b + 8) = 8 by omega, show 2 ^ 8 = 256 from rfl]

/-- The order in which banks are tried depends on the strap, the fatal resets and the bank that is named. -/
theorem bankOrder_congr {t : State} (hs : word t Reg.glbStrap [] = word s Reg.glbStrap []) (hf : fatalCount t = fatalCount s)
    (hn : t.img.named = s.img.named) : bankOrder t = bankOrder s := by
  rw [bankOrder, bankOrder, rd, rd, hs, hf, hn]

theorem trying_failBank (h : (bankOfImg s b).state ≠ 3) :
    (failBank s b c).power.trying = (bankOrder s).find? fun k => !(s.power.failed ++ [b]).contains k := by
  rw [failBank_of_not_trial h, trying_tryNext, nextBank]
  rw [bankOrder_congr (t := bankFailed s b c) (s := s) (word_wr_other (by decide)) rfl rfl]
  rfl

/-! ### Reset is left (R245, R465) -/

/-- The straps as GLB_STRAP shows them. -/
def strapWord (x : Straps) : Word := BitVec.ofNat 32 (bnat x.testMode * 16 + bnat x.twinId * 8 + x.bootSel.toNat)

/-- `s` out of reset: its clocks run from here, and the straps are sampled. -/
def resetLeft (s : State) (x : Straps) : State :=
  putWord (startClocks { s with power := { s.power with inReset := false, resetLow := false } }) Reg.glbStrap []
    (strapWord x)

theorem within_startClocks (s : State) : Within [.fdb, .clock, .time, .strm] [] s (startClocks s) :=
  (((within_of_fdb s { s.fdb with tickAt := s.time.dt }).append
    (within_of_time (restartAge s)
      { s.time with tbs := (List.range 4).map (startTb s), alignTb0 := false, cycleStart := s.time.dt })).append
    (within_of_strm _ { s.strm with latentAt := s.time.dt })).mono (by decide) (by simp)

theorem within_resetLeft (s : State) (x : Straps) :
    Within [.power, .fdb, .clock, .time, .strm, .inForce] [Reg.glbStrap.addr []] s (resetLeft s x) :=
  (((within_of_power s _).append (within_startClocks _)).append (within_putWord _ _ _ _)).mono (by decide) (by simp)

/-- `s` out of reset, with its stages timed from here. -/
def resetLeftAfresh (s : State) (x : Straps) : State :=
  { resetLeft s x with power := { (resetLeft s x).power with origin := (resetLeft s x).time.dt } }

theorem power_resetLeftAfresh (s : State) (x : Straps) :
    (resetLeftAfresh s x).power = { s.power with inReset := false, resetLow := false, origin := s.time.dt } := rfl

theorem dt_resetLeftAfresh (s : State) (x : Straps) : (resetLeftAfresh s x).time.dt = s.time.dt := rfl

theorem within_resetLeftAfresh (s : State) (x : Straps) :
    Within [.power, .fdb, .clock, .time, .strm, .inForce] [Reg.glbStrap.addr []] s (resetLeftAfresh s x) :=
  ((within_resetLeft s x).append (within_of_power _ _)).mono (by decide) (by simp)

theorem execResetExit_of_por {el : Nat} {x : Straps} (hnow : now = advance el s) (hp : now.power.pwrgd = true)
    (hr : now.power.inReset = true) (hd : now.power.pwrgdAt + msTicks 1 ≤ now.time.dt)
    (hc : rd now Reg.glbResetCause [] 2 0 = 0) : exec (.resetExit ⟨el, x⟩) s = done (resetLeft now x) := by
  show execResetExit ⟨el, x⟩ s = _
  rw [execResetExit, ← hnow]
  have hcause : rd (resetLeft now x) Reg.glbResetCause [] 2 0 = 0 :=
    ((within_resetLeft _ x).2.rd_eq (by decide)).trans hc
  exact (if_pos (by simp [hp, hr, hd])).trans (if_pos hcause)

theorem execResetExit_of_cause {el : Nat} {x : Straps} (hnow : now = advance el s) (hp : now.power.pwrgd = true)
    (hr : now.power.inReset = true) (hd : now.power.pwrgdAt + msTicks 1 ≤ now.time.dt)
    (hc : rd now Reg.glbResetCause [] 2 0 ≠ 0) :
    exec (.resetExit ⟨el, x⟩) s =
      done (markStage (resetLeftAfresh now x) 0 false false) := by
  show execResetExit ⟨el, x⟩ s = _
  rw [execResetExit, ← hnow]
  have hcause : rd (resetLeft now x) Reg.glbResetCause [] 2 0 ≠ 0 := by
    rwa [(within_resetLeft _ x).2.rd_eq (by decide)]
  exact (if_pos (by simp [hp, hr, hd])).trans (if_neg hcause)

/-- A TB that was not kept starts at 0 s (R244). -/
theorem now_startTb (s : State) {i : Nat} (h : tbState s i < 2) : (startTb s i).now = 0 := by
  have hk : keptTb s i = false := by simp [keptTb, h]
  simp [startTb, hk, TimeBase.zero]

theorem tb_resetLeft (s : State) (x : Straps) {i : Nat} (hi : i < 4) : tb (resetLeft s x) i = startTb s i := by
  show ((List.range 4).map (startTb s)).getD i TimeBase.zero = _
  simp [hi]

/-! ### Each command of boot -/

theorem does_resetExit_por {el : Nat} {x : Straps} (hnow : now = advance el s) (hp : now.power.pwrgd = true)
    (hr : now.power.inReset = true) (hd : now.power.pwrgdAt + msTicks 1 ≤ now.time.dt)
    (hc : rd now Reg.glbResetCause [] 2 0 = 0) :
    DoesFrom now (.resetExit ⟨el, x⟩) s [.power, .inForce, .time, .clock, .strm, .fdb] fun t =>
      t.power = { now.power with inReset := false, resetLow := false } ∧ RegsBut [Reg.glbStrap.addr []] now t ∧
        t.time = { now.time with tbs := (List.range 4).map (startTb now), alignTb0 := false, cycleStart := now.time.dt } ∧
        (∀ i < 4, tbState now i < 2 → (tb t i).now = 0) ∧ word t Reg.glbStrap [] = strapWord x := by
  have hframe := within_resetLeft now x
  refine doesFrom_of_any (execResetExit_of_por hnow hp hr hd hc) (hframe.1.mono (by decide))
    fun _ => ⟨rfl, hframe.2, rfl, fun i hi hs => ?_, word_putWord_same⟩
  exact (congrArg TimeBase.now (tb_resetLeft now x hi)).trans (now_startTb now hs)

theorem does_resetExit_cause {el : Nat} {x : Straps} (hnow : now = advance el s) (hp : now.power.pwrgd = true)
    (hr : now.power.inReset = true) (hd : now.power.pwrgdAt + msTicks 1 ≤ now.time.dt)
    (hc : rd now Reg.glbResetCause [] 2 0 ≠ 0) :
    DoesFrom now (.resetExit ⟨el, x⟩) s [.power, .inForce, .time, .clock, .strm, .fdb] fun t =>
      t.power = { now.power with inReset := false, resetLow := false, origin := now.time.dt,
                                 stageAt := put now.power.stageAt 0 now.time.dt } ∧ stageDone t 0 = true ∧
        word t Reg.glbStageMs [0] = 0 ∧
        RegsBut [Reg.glbStrap.addr [], Reg.glbReady.addr [], Reg.glbStageMs.addr [0]] now t := by
  have hframe := (within_resetLeftAfresh now x).append (within_stageEnded (resetLeftAfresh now x) 0)
  have hexec := execResetExit_of_cause (x := x) hnow hp hr hd hc
  rw [markStage_of_early (by decide)] at hexec
  refine doesFrom_of_any hexec (hframe.1.mono (by decide))
    fun _ => ⟨?_, stageDone_stageEnded _ (by decide), ?_, hframe.2.mono (by decide)⟩
  · rw [power_stageEnded, power_resetLeftAfresh, dt_resetLeftAfresh]
  · have hms : stageMs (resetLeftAfresh now x) = 0 := by
      rw [stageMs, power_resetLeftAfresh, dt_resetLeftAfresh]
      simp
    exact (word_glbStageMs_stageEnded _ (by decide)).trans (by rw [hms]; rfl)

theorem does_bootRomDone_bad {el : Nat} {fusesGood : Bool} (hnow : now = advance el s) (hr : now.power.inReset = false)
    (h0 : stageDone now 0 = true) (h1 : stageDone now 1 = false) (hh : halted now = false) :
    DoesFrom now (.bootRomDone el false fusesGood) s [.inForce] fun t =>
      halted t = true ∧ word t Reg.glbReadyFail [] = 0x10000001 ∧
        RegsBut [Reg.glbReady.addr [], Reg.glbReadyFail.addr []] now t := by
  have hexec : exec (.bootRomDone el false fusesGood) s = done (failStage now 1 1) := by
    show execBootRomDone el false fusesGood s = _
    rw [execBootRomDone, ← hnow]
    exact (if_neg (by simp [hr, h0, h1, hh])).trans (if_pos rfl)
  have hframe := within_failStage now 1 1
  have hcode : word (failStage now 1 1) Reg.glbReadyFail [] = 0x10000001 := by
    rw [word_glbReadyFail_failStage, show 1 * 2 ^ 28 + 1 = 0x10000001 by norm_num]
    rfl
  exact doesFrom_of hexec hframe.1
    ⟨(rdBit_settle _ _ _ _).trans (halted_failStage now 1 1), (word_settle _ _ _).trans hcode, hframe.2.settle⟩

/-- `s` with stage 1 complete and the FATAL resets shown. -/
def romDone (s : State) : State :=
  wr (markStage s 1 false false) Reg.glbBootStat [] 25 24 (min 3 (fatalCount (markStage s 1 false false)))

theorem within_romDone (s : State) :
    Within [.inForce, .power] [Reg.glbReady.addr [], Reg.glbStageMs.addr [1], Reg.glbBootStat.addr []] s (romDone s) := by
  rw [romDone, markStage_of_early (by decide)]
  exact ((within_stageEnded s 1).append (within_wr _ _ _ _ _ _)).mono (by decide) (by decide)

theorem power_romDone (s : State) :
    (romDone s).power = { s.power with stageAt := put s.power.stageAt 1 s.time.dt } := by
  rw [romDone, wr_power, markStage_of_early (by decide), power_stageEnded]

/-- Stage 1's completion changes neither the strap, nor the resets, nor the bank that is named. -/
theorem bankOrder_romDone (s : State) : bankOrder (romDone s) = bankOrder s :=
  have hframe := within_romDone s
  have himg := hframe.1 .img (by decide)
  have hclock := hframe.1 .clock (by decide)
  have hpower := power_romDone s
  bankOrder_congr (hframe.2.word_eq (by decide)) (fatalCount_congr hclock.1 (by rw [hpower])) (congrArg Img.named himg)

theorem does_bootRomDone {el : Nat} (hnow : now = advance el s) (hr : now.power.inReset = false)
    (h0 : stageDone now 0 = true) (h1 : stageDone now 1 = false) (hh : halted now = false)
    (ht : rdBit now Reg.glbStrap [] 4 = false) (hb : rd now Reg.glbStrap [] 1 0 ≠ 3) (hf : now.power.failed = [])
    (hc : fatalCount now < 4) :
    DoesFrom now (.bootRomDone el true true) s [.power, .inForce] fun t =>
      stageDone t 1 = true ∧ t.power = { now.power with trying := (bankOrder now).head?, tryAt := now.time.dt,
                                                        stageAt := put now.power.stageAt 1 now.time.dt } ∧
        RegsBut [Reg.glbReady.addr [], Reg.glbStageMs.addr [1], Reg.glbBootStat.addr []] now t := by
  obtain ⟨b, l, horder⟩ : ∃ b l, bankOrder now = b :: l := by
    have hlt : rd now Reg.glbStrap [] 1 0 < 4 := Nat.mod_lt _ (by decide)
    obtain h | h | h : rd now Reg.glbStrap [] 1 0 = 0 ∨ rd now Reg.glbStrap [] 1 0 = 1 ∨ rd now Reg.glbStrap [] 1 0 = 2 := by
      omega
    · by_cases h3 : 3 ≤ fatalCount now <;> simp [bankOrder, h, h3]
    · simp [bankOrder, h]
    · simp [bankOrder, h]
  have hfailed : (romDone now).power.failed = [] := by rw [power_romDone, hf]
  have hnext : nextBank (romDone now) = some b := by
    rw [nextBank, bankOrder_romDone, horder, hfailed]
    rfl
  have hrom := within_romDone now
  have hstrap : rdBit (romDone now) Reg.glbStrap [] 4 = false := (hrom.2.rdBit_eq (by decide)).trans ht
  have hexec : exec (.bootRomDone el true true) s = done (tryNext (romDone now)) := by
    show execBootRomDone el true true s = _
    rw [execBootRomDone, ← hnow]
    refine (if_neg (by simp [hr, h0, h1, hh])).trans ((if_neg (by decide)).trans ((if_neg (by decide)).trans ?_))
    have hcount : fatalCount (romDone now) = fatalCount now :=
      fatalCount_congr (hrom.1 .clock (by decide)).1 (by rw [power_romDone])
    refine (if_neg (Bool.eq_false_iff.1 hstrap)).trans (if_neg fun h => ?_)
    exact absurd hc (Nat.not_lt.2 (hcount ▸ h.2))
  rw [tryNext_of_bank hnext] at hexec
  refine doesFrom_of_any hexec (hrom.1.append (onlyChanges_of_power _ _) |>.mono (by decide)) fun _ => ⟨?_, ?_, hrom.2⟩
  · have hstage : rdBit (romDone now) Reg.glbReady [] 1 = rdBit (markStage now 1 false false) Reg.glbReady [] 1 :=
      (within_wr _ _ _ _ _ _).2.rdBit_eq (by decide)
    rw [markStage_of_early (by decide)] at hstage
    exact hstage.trans (stageDone_stageEnded now (by decide))
  · have hdt : (romDone now).time.dt = now.time.dt := (hrom.1 .clock (by decide)).1
    show ({ (romDone now).power with trying := some b, tryAt := (romDone now).time.dt } : Power) = _
    rw [horder, power_romDone, hdt]
    rfl

theorem does_bankCheckDone_error {el : Nat} {e : Bool} (hnow : now = advance el s) (hb : b < 2)
    (ht : now.power.trying = some b) (hs : (bankOfImg now b).state ≠ 3) (hc : checkBank now b e = .error c) :
    DoesFrom now (.bankCheckDone el e) s [.power, .inForce] fun t =>
      rd t Reg.glbBootStat [] (8 * b + 15) (8 * b + 8) = c % 256 ∧ t.power.failed = now.power.failed ++ [b] ∧
        t.power.trying = ((bankOrder now).find? fun k => !(now.power.failed ++ [b]).contains k) ∧
        RegsBut [Reg.glbBootStat.addr [], Reg.glbReady.addr [], Reg.glbReadyFail.addr []] now t := by
  have hexec : exec (.bankCheckDone el e) s = done (failBank now b c) := by
    show execBankCheckDone el e s = _
    simp only [execBankCheckDone, ← hnow, ht, hc]
  have hframe := within_failBank (c := c) hs
  exact doesFrom_of_any hexec (hframe.1.mono (by decide))
    fun _ => ⟨code_failBank hs hb, failed_failBank hs, trying_failBank hs, hframe.2⟩

theorem does_bankTryTimeout {el : Nat} (hnow : now = advance el s) (hb : b < 2) (ht : now.power.trying = some b)
    (hs : (bankOfImg now b).state ≠ 3) (hd : now.power.tryAt + msTicks 2000 ≤ now.time.dt) :
    DoesFrom now (.bankTryTimeout el) s [.power, .inForce] fun t =>
      rd t Reg.glbBootStat [] (8 * b + 15) (8 * b + 8) = 0x23 ∧ t.power.failed = now.power.failed ++ [b] ∧
        RegsBut [Reg.glbBootStat.addr [], Reg.glbReady.addr [], Reg.glbReadyFail.addr []] now t := by
  have hexec : exec (.bankTryTimeout el) s = done (failBank now b 0x23) := by
    show execBankTryTimeout el s = _
    simp only [execBankTryTimeout, ← hnow, bankTimeout, if_pos hd, ht]
  have hframe := within_failBank (c := 0x23) hs
  exact doesFrom_of_any hexec (hframe.1.mono (by decide)) fun _ => ⟨code_failBank hs hb, failed_failBank hs, hframe.2⟩

/-! ### A bundle that passed -/

/-- Bank `b` is shown as the one that boots, and whether another failed before it. -/
def bankShown (s : State) (b : Nat) : State :=
  wrBit (wr s Reg.glbBootStat [] 30 29 b) Reg.glbBootStat [] 31 (decide (b < 2) && s.power.failed != [])

/-- The bundle of bank `b` runs. -/
def bundleTaken (s : State) (b : Nat) (x : Bundle) : State :=
  { bankShown s b with power := { (bankShown s b).power with trying := none },
                       img := { (bankShown s b).img with running := if b < 2 then some b else none, bundle := some x } }

/-- The bundle of bank `b` loaded, before stage 2 completes. -/
def bundleLoaded (s : State) (b : Nat) (x : Bundle) : State :=
  wrBit (wrBit (putWord (putWord (bundleTaken s b x) Reg.imgBundleRun [] x.ver) Reg.glbReadyFail [] 0)
    Reg.glbReady [] 31 false) Reg.glbReady [] 30 false

theorem loadBundle_eq (s : State) (b : Nat) (x : Bundle) :
    loadBundle s b x = emit (stageEnded (bundleLoaded s b x) 2) (.stageNotice 2) :=
  markStage_of_late (s := bundleLoaded s b x) (n := 2) (by decide)

theorem within_bankShown (s : State) (b : Nat) : Within [.inForce] [Reg.glbBootStat.addr []] s (bankShown s b) :=
  ((within_wr s _ _ _ _ _).append (within_wrBit _ _ _ _ _)).mono (by decide) (by decide)

theorem within_bundleTaken (s : State) (b : Nat) (x : Bundle) :
    Within [.inForce, .power, .img] [Reg.glbBootStat.addr []] s (bundleTaken s b x) :=
  (((within_bankShown s b).append (within_of_power _ { (bankShown s b).power with trying := none })).append
    (within_of_img _ _)).mono (by decide) (by decide)

/-- What follows the taking of the bundle changes registers alone. -/
theorem within_bundleLoaded_of_taken (s : State) (b : Nat) (x : Bundle) :
    Within [.inForce] [Reg.imgBundleRun.addr [], Reg.glbReadyFail.addr [], Reg.glbReady.addr []] (bundleTaken s b x)
      (bundleLoaded s b x) :=
  ((((within_putWord _ _ _ _).append (within_putWord _ _ _ _)).append (within_wrBit _ _ _ _ _)).append
    (within_wrBit _ _ _ _ _)).mono (by decide) (by decide)

theorem within_bundleLoaded (s : State) (b : Nat) (x : Bundle) :
    Within [.inForce, .power, .img] [Reg.glbBootStat.addr [], Reg.imgBundleRun.addr [], Reg.glbReadyFail.addr [],
      Reg.glbReady.addr []] s (bundleLoaded s b x) :=
  ((within_bundleTaken s b x).append (within_bundleLoaded_of_taken s b x)).mono (by decide) (by decide)

theorem trying_bundleLoaded (s : State) (b : Nat) (x : Bundle) : (bundleLoaded s b x).power.trying = none :=
  congrArg Power.trying ((within_bundleLoaded_of_taken s b x).1 .power (by decide))

theorem img_bundleLoaded (s : State) {b : Nat} (hb : b < 2) (x : Bundle) :
    (bundleLoaded s b x).img = { s.img with running := some b, bundle := some x } := by
  have himg : (bankShown s b).img = s.img := (within_bankShown s b).1 .img (by decide)
  refine ((within_bundleLoaded_of_taken s b x).1 .img (by decide)).trans ?_
  show ({ (bankShown s b).img with running := if b < 2 then some b else none, bundle := some x } : Img) = _
  rw [if_pos hb, himg]

theorem word_imgBundleRun_bundleLoaded (s : State) (b : Nat) (x : Bundle) :
    word (bundleLoaded s b x) Reg.imgBundleRun [] = x.ver :=
  (word_wrBit_other (by decide)).trans ((word_wrBit_other (by decide)).trans
    ((word_putWord_other (by decide)).trans word_putWord_same))

theorem word_glbReadyFail_bundleLoaded (s : State) (b : Nat) (x : Bundle) :
    word (bundleLoaded s b x) Reg.glbReadyFail [] = 0 :=
  (word_wrBit_other (by decide)).trans ((word_wrBit_other (by decide)).trans word_putWord_same)

theorem does_bankCheckDone_ok {el : Nat} {e : Bool} {x : Bundle} (hnow : now = advance el s) (hb : b < 2)
    (ht : now.power.trying = some b) (hc : checkBank now b e = .ok x) :
    DoesFrom now (.bankCheckDone el e) s [.power, .img, .inForce, .out] fun t =>
      stageDone t 2 = true ∧ t.power.trying = none ∧ t.img = { now.img with running := some b, bundle := some x } ∧
        word t Reg.imgBundleRun [] = x.ver ∧ word t Reg.glbReadyFail [] = 0 ∧
        RegsBut [Reg.glbBootStat.addr [], Reg.glbReady.addr [], Reg.glbStageMs.addr [2], Reg.imgBundleRun.addr [],
          Reg.glbReadyFail.addr []] now t := by
  have hexec : exec (.bankCheckDone el e) s = done (emit (stageEnded (bundleLoaded now b x) 2) (.stageNotice 2)) := by
    show execBankCheckDone el e s = _
    simp only [execBankCheckDone, ← hnow, ht, hc, loadBundle_eq]
  have hstage := within_stageEnded (bundleLoaded now b x) 2
  have hnotice := within_emit (stageEnded (bundleLoaded now b x) 2) (.stageNotice 2)
  have hframe := ((within_bundleLoaded now b x).append hstage).append hnotice
  have hafter := hstage.append hnotice
  refine doesFrom_of_any hexec (hframe.1.mono (by decide)) fun _ =>
    ⟨stageDone_stageEnded _ (by decide), ?_, ?_, ?_, ?_, hframe.2.mono (by decide)⟩
  · show (stageEnded (bundleLoaded now b x) 2).power.trying = none
    rw [power_stageEnded, trying_bundleLoaded]
  · exact (hafter.1 .img (by decide)).trans (img_bundleLoaded now hb x)
  · exact (hafter.2.word_eq (by decide)).trans (word_imgBundleRun_bundleLoaded now b x)
  · exact (hafter.2.word_eq (by decide)).trans (word_glbReadyFail_bundleLoaded now b x)

end

/-- Settles O3: boot's commands fail a stage (`within_failStage`), mark one (`stageEnded`), fail a bank (`failBank`) or load its
bundle (`bundleLoaded`). -/
theorem bootTriesBanks : Obligations.BootTriesBanks := by
  refine ⟨fun _ _ _ _ => does_resetExit_por, fun _ _ _ _ => does_resetExit_cause, ?early,
    fun _ _ _ _ => does_bootRomDone_bad, fun _ _ _ => does_bootRomDone, fun _ _ _ _ _ _ => does_bankCheckDone_error,
    fun _ _ _ _ _ _ => does_bankCheckDone_ok, fun _ _ _ _ => does_bankTryTimeout⟩
  case early =>
    intro s el x now hnow hd
    refine doesFrom_nothing ?_
    show execResetExit ⟨el, x⟩ s = _
    rw [execResetExit, ← hnow]
    exact if_neg (by simp [hd])

end Sys2Proof.Machine

/-! PROOFS. Stages complete (R472 to R474): what marking a stage changes, what follows it, and what loading the structure image
writes. -/
namespace Sys2Proof.Machine

section
variable {s now : State} {n j : Nat}

/-! ### A stage is marked -/

/-- `s` with stage `n` marked, before the notice leaves. -/
def stageMarked (s : State) (n : Nat) (late na : Bool) : State :=
  let s := wrBit s Reg.glbReady [] n true
  let s := if late then wrBit s Reg.glbReadyInfo [] (16 + n) true else s
  let s := if na then wrBit s Reg.glbReadyInfo [] n true else s
  let s := { s with power := { s.power with stageAt := put s.power.stageAt n s.time.dt } }
  wr (putWord s Reg.glbStageMs [n] (BitVec.ofNat 32 (stageMs s))) Reg.glbReady [] 27 24 (reachedStage s)

theorem markStage_eq (s : State) (n : Nat) (late na : Bool) :
    markStage s n late na =
      if n < 2 then stageMarked s n late na else emit (stageMarked s n late na) (.stageNotice n) := rfl

/-- The words that stage `n` may change as it completes. -/
def markWords (n : Nat) : List Nat := [Reg.glbReady.addr [], Reg.glbReadyInfo.addr [], Reg.glbStageMs.addr [n]]

theorem within_stageMarked (s : State) (n : Nat) (late na : Bool) :
    Within [.inForce, .power] (markWords n) s (stageMarked s n late na) :=
  ((((((within_wrBit s _ _ _ _).append (within_wrBit _ _ _ _ _).orNot).append (within_wrBit _ _ _ _ _).orNot).append
    (within_of_power _ _)).append (within_putWord _ _ _ _)).append (within_wr _ _ _ _ _ _)).mono (by decide)
    (by simp [markWords])

theorem within_markStage (s : State) (n : Nat) (late na : Bool) :
    Within [.inForce, .power, .out] (markWords n) s (markStage s n late na) := by
  have h := within_stageMarked s n late na
  rw [markStage_eq]
  exact (h.mono (by decide) fun _ => id).ite ((h.append (within_emit _ _)).mono (by decide) (by simp))

/-- The words of the stages' completion are distinct. -/
theorem glbStageMs_addr_ne : ∀ n < 12,
    Reg.glbStageMs.addr [n] ≠ Reg.glbReady.addr [] ∧ Reg.glbStageMs.addr [n] ≠ Reg.glbReadyInfo.addr [] := by decide

/-- A stage's bit in GLB_READY after stage `n` was marked. -/
theorem stageDone_markStage (s : State) (late na : Bool) (hn : n < 12) (hj : j < 12) :
    stageDone (markStage s n late na) j = (decide (j = n) || stageDone s j) := by
  have hready : word (markStage s n late na) Reg.glbReady [] = word (stageMarked s n late na) Reg.glbReady [] := by
    rw [markStage_eq]
    split
    · rfl
    · exact (within_emit _ _).2.word_eq (by simp)
  have hinfo (s : State) (i : Nat) (c : Bool) :
      word (if c = true then wrBit s Reg.glbReadyInfo [] i true else s) Reg.glbReady [] = word s Reg.glbReady [] :=
    (within_wrBit s _ _ _ _).orNot.2.word_eq (by decide)
  have hpower (s : State) (x : Power) : word { s with power := x } Reg.glbReady [] = word s Reg.glbReady [] := rfl
  rw [stageDone, rdBit, hready, stageMarked, word_wr_same, flag_setFld_below (by decide) (by decide) (by omega),
    word_putWord_other (glbStageMs_addr_ne n hn).1.symm, hpower, hinfo, hinfo, word_wrBit_same]
  by_cases h : j = n
  · subst h
    rw [flag_setFld_same (by omega)]
    simp
  · rw [flag_setFld_other (by omega) h]
    simp [h, stageDone, rdBit]

/-- TIMED_OUT of a stage that completed late. -/
theorem late_markStage (s : State) (hn : n < 12) : rdBit (markStage s n true false) Reg.glbReadyInfo [] (16 + n) = true := by
  have hinfo : word (markStage s n true false) Reg.glbReadyInfo [] = word (stageMarked s n true false) Reg.glbReadyInfo [] := by
    rw [markStage_eq]
    split
    · rfl
    · exact (within_emit _ _).2.word_eq (by simp)
  rw [rdBit, hinfo, stageMarked, word_wr_other (by decide), word_putWord_other (glbStageMs_addr_ne n hn).2.symm]
  exact (congrArg (flag · (16 + n)) word_wrBit_same).trans (flag_setFld_same (by omega))

/-- A stage that completes in time shows no TIMED_OUT. -/
theorem rdBit_glbReadyInfo_markStage (s : State) (na : Bool) {k : Nat} (hn : n < 12) (hk : k ≠ n) :
    rdBit (markStage s n false na) Reg.glbReadyInfo [] k = rdBit s Reg.glbReadyInfo [] k := by
  have hinfo : word (markStage s n false na) Reg.glbReadyInfo [] = word (stageMarked s n false na) Reg.glbReadyInfo [] := by
    rw [markStage_eq]
    split
    · rfl
    · exact (within_emit _ _).2.word_eq (by simp)
  have hready : word (wrBit s Reg.glbReady [] n true) Reg.glbReadyInfo [] = word s Reg.glbReadyInfo [] :=
    word_wrBit_other (by decide)
  have hpower (s : State) (x : Power) : word { s with power := x } Reg.glbReadyInfo [] = word s Reg.glbReadyInfo [] := rfl
  rw [rdBit, hinfo, stageMarked, word_wr_other (by decide), word_putWord_other (glbStageMs_addr_ne n hn).2.symm, hpower]
  cases na
  · exact congrArg (flag · k) hready
  · exact (rdBit_wrBit_other (s := wrBit s Reg.glbReady [] n true) (by omega) hk).trans (congrArg (flag · k) hready)

/-! ### What follows a stage -/

/-- The words that completing stages may change. -/
def stageWords : List Nat :=
  [Reg.glbReady.addr [], Reg.glbReadyInfo.addr []] ++ (List.range 12).map fun k => Reg.glbStageMs.addr [k]

theorem markWords_subset (hn : n < 12) : ∀ a ∈ markWords n, a ∈ stageWords := by
  intro a ha
  simp only [markWords, List.mem_cons, List.not_mem_nil, or_false] at ha
  rcases ha with rfl | rfl | rfl
  · simp [stageWords]
  · simp [stageWords]
  · exact List.mem_append_right _ (List.mem_map_of_mem (List.mem_range.2 hn))

theorem within_puntDefaults (s : State) : Within [.host] [] s (puntDefaults s) := by
  have hpunt (s : State) (x : HostIf) : Within [.host] [] s { s with host := x } := within_of_host s x
  refine Within.trans (.foldl (fun t c => ?_) _ s) (.foldl (fun t e => ?_) _ _)
  · exact Within.ite (.refl _ _ t) (hpunt t _)
  · exact Within.ite (.refl _ _ t) (hpunt t _)

theorem within_nextTurn (s : State) : Within [.twin] [] s (nextTurn s) :=
  Within.ite (.refl _ _ s) (within_of_twin s _)

/-- Stage 10 is marked as not applicable where no pair is opened for it. -/
def stageTenSkipped (s : State) : State :=
  if (List.range 10).all (stageDone s) && !stageDone s 10 && !(List.range 4).any (autoPair s) then
    markStage s 10 false true else s

theorem followStages_eq (s : State) : followStages s =
    if stageDone (stageTenSkipped s) 10 && !stageDone (stageTenSkipped s) 11 then
      puntDefaults (markStage (stageTenSkipped s) 11 false false) else nextTurn (stageTenSkipped s) := rfl

/-- The parts that completing stages may change. -/
def stageParts : List Part := [.power, .inForce, .twin, .host, .out]

theorem within_mark_stageParts (s : State) (late na : Bool) (hn : n < 12) :
    Within stageParts stageWords s (markStage s n late na) :=
  (within_markStage s n late na).mono (by decide) (markWords_subset hn)

theorem within_stageTenSkipped (s : State) : Within stageParts stageWords s (stageTenSkipped s) :=
  Within.orNot (within_mark_stageParts s _ _ (by decide))

theorem within_followStages (s : State) : Within stageParts stageWords s (followStages s) := by
  have hskip := within_stageTenSkipped s
  rw [followStages_eq]
  refine Within.ite ?_ ?_
  · exact (hskip.trans (within_mark_stageParts _ _ _ (by decide))).trans
      ((within_puntDefaults _).mono (by decide) (by simp))
  · exact hskip.trans ((within_nextTurn _).mono (by decide) (by simp))

/-- What follows a stage clears no stage's bit and no TIMED_OUT. -/
theorem followStages_keeps (s : State) :
    (∀ j < 12, stageDone s j = true → stageDone (followStages s) j = true) ∧
      ∀ k, 12 ≤ k → rdBit (followStages s) Reg.glbReadyInfo [] k = rdBit s Reg.glbReadyInfo [] k := by
  have hskip : (∀ j < 12, stageDone s j = true → stageDone (stageTenSkipped s) j = true) ∧
      ∀ k, 12 ≤ k → rdBit (stageTenSkipped s) Reg.glbReadyInfo [] k = rdBit s Reg.glbReadyInfo [] k := by
    rw [stageTenSkipped]
    split
    · refine ⟨fun j hj h => ?_, fun k hk => rdBit_glbReadyInfo_markStage s true (by decide) (by omega)⟩
      rw [stageDone_markStage s _ _ (by decide) hj, h, Bool.or_true]
    · exact ⟨fun _ _ h => h, fun _ _ => rfl⟩
  obtain ⟨hdone, hlate⟩ := hskip
  rw [followStages_eq]
  split
  · have hpunt := (within_puntDefaults (markStage (stageTenSkipped s) 11 false false)).2
    refine ⟨fun j hj h => (hpunt.rdBit_eq (by simp)).trans ?_, fun k hk => (hpunt.rdBit_eq (by simp)).trans ?_⟩
    · exact (stageDone_markStage _ _ _ (by decide) hj).trans (by rw [hdone j hj h, Bool.or_true])
    · exact (rdBit_glbReadyInfo_markStage _ false (by decide) (by omega)).trans (hlate k hk)
  · have hturn := (within_nextTurn (stageTenSkipped s)).2
    exact ⟨fun j hj h => (hturn.rdBit_eq (by simp)).trans (hdone j hj h),
      fun k hk => (hturn.rdBit_eq (by simp)).trans (hlate k hk)⟩

theorem within_endStage (s : State) (late : Bool) (hn : n < 12) : Within stageParts stageWords s (endStage s n late) :=
  (within_mark_stageParts s late false hn).trans (within_followStages _)

theorem stageDone_endStage (s : State) (late : Bool) (hn : n < 12) : stageDone (endStage s n late) n = true :=
  (followStages_keeps _).1 n hn (by rw [stageDone_markStage s _ _ hn hn, decide_eq_true rfl, Bool.true_or])

theorem late_endStage (s : State) (hn : n < 12) : rdBit (endStage s n true) Reg.glbReadyInfo [] (16 + n) = true :=
  ((followStages_keeps _).2 (16 + n) (by omega)).trans (late_markStage s hn)

/-! ### Stages 5 to 10 -/

theorem does_stageComplete {el : Nat} {n : Fin 12} (hnow : now = advance el s) (h5 : 5 ≤ n.val) (h10 : n.val ≤ 10)
    (hr : stageRuns now n = true) (hm : stageMet now n = true) :
    DoesFrom now (.stageComplete n el false) s [.power, .inForce, .twin, .host, .out] fun t =>
      stageDone t n = true ∧ RegsBut stageWords now t := by
  obtain ⟨late, hexec⟩ : ∃ late, exec (.stageComplete n el false) s = done (endStage now n late) := by
    show ∃ late, execStageComplete n el false s = _
    rw [execStageComplete, ← hnow]
    have hruns : ¬ (!stageRuns now n) = true := by simpa using hr
    simp only [if_neg hruns]
    obtain ⟨n, hn⟩ := n
    have hcases : n = 5 ∨ n = 6 ∨ n = 7 ∨ n = 8 ∨ n = 9 ∨ n = 10 := by simp only at h5 h10; omega
    rcases hcases with rfl | rfl | rfl | rfl | rfl | rfl <;> exact ⟨_, congrArg done (if_pos hm)⟩
  have hframe := within_endStage now late n.isLt
  exact doesFrom_of hexec hframe.1 ⟨(rdBit_settle _ _ _ _).trans (stageDone_endStage now late n.isLt), hframe.2.settle⟩

theorem does_stageLimitExpiry {el : Nat} {n : Fin 12} (hnow : now = advance el s)
    (hn : n.val = 6 ∨ n.val = 7 ∨ n.val = 9) (hr : stageRuns now n = true) (hl : stageLimit now n ≤ now.time.dt) :
    DoesFrom now (.stageLimitExpiry n el) s [.power, .inForce, .twin, .host, .out] fun t =>
      stageDone t n = true ∧ rdBit t Reg.glbReadyInfo [] (16 + n) = true ∧ RegsBut stageWords now t := by
  have hexec : exec (.stageLimitExpiry n el) s = done (endStage now n true) := by
    show execStageLimitExpiry n el s = _
    rw [execStageLimitExpiry, ← hnow]
    have hdue : ¬ (!stageRuns now n || decide (now.time.dt < stageLimit now n)) = true := by simpa [hr] using hl
    simp only [if_neg hdue]
    obtain ⟨n, hlt⟩ := n
    simp only at hn
    rcases hn with rfl | rfl | rfl <;> rfl
  have hframe := within_endStage now true n.isLt
  exact doesFrom_of hexec hframe.1 ⟨(rdBit_settle _ _ _ _).trans (stageDone_endStage now true n.isLt),
    (rdBit_settle _ _ _ _).trans (late_endStage now n.isLt), hframe.2.settle⟩

theorem does_stageLimitExpiry_rom {el : Nat} (hnow : now = advance el s) (hr : stageRuns now 1 = true)
    (hl : now.power.origin + msTicks 100 ≤ now.time.dt) :
    DoesFrom now (.stageLimitExpiry 1 el) s [.inForce, .freeCtr] fun t =>
      halted t = true ∧ (word t Reg.glbReadyFail [] = 0x10000001 ∨ word t Reg.glbReadyFail [] = 0x10000002) ∧
        RegsBut [Reg.glbReady.addr [], Reg.glbReadyFail.addr []] now t := by
  set code := 1 + fld (freeWord now) 0 0 with hcode
  have hexec : exec (.stageLimitExpiry 1 el) s = done (failStage (spend now) 1 code) := by
    show execStageLimitExpiry 1 el s = _
    rw [execStageLimitExpiry, ← hnow]
    have hlimit : stageLimit now 1 ≤ now.time.dt := hl
    have hdue : ¬ (!stageRuns now 1 || decide (now.time.dt < stageLimit now 1)) = true := by simpa [hr] using hlimit
    exact if_neg hdue
  have hframe := (within_spend now).append (within_failStage (spend now) 1 code)
  have hword := word_glbReadyFail_failStage (spend now) 1 code
  have hbit : fld (freeWord now) 0 0 = 0 ∨ fld (freeWord now) 0 0 = 1 := Nat.mod_two_eq_zero_or_one _
  refine doesFrom_of hexec (hframe.1.mono (by decide)) ⟨(rdBit_settle _ _ _ _).trans (halted_failStage _ 1 code), ?_,
    (hframe.2.mono (by simp)).settle⟩
  rw [word_settle, hword]
  rcases hbit with h | h <;> rw [hcode, h]
  · exact .inl (by norm_num; rfl)
  · exact .inr (by norm_num; rfl)

/-! ### The structure image is loaded -/

/-- The image runs, and its version and lineage are shown. -/
def imageShown (s : State) (x : Image) : State :=
  putWord (putWord { s with image := x } Reg.imgSiRun [] x.ver) Reg.imgSiLineage [] x.lineage

/-- Each H-port takes the strongest FEC that its FEC_SET allows. -/
def fecChosen (s : State) : State :=
  ((List.range 48).filter (isHPort s)).foldl (fun s n =>
    showFec (wrBoth s Reg.hpCfg [n] 10 8 ((highestFec (fecSet s n)).getD 0)) n) s

/-- The lanes of a FRER ring pair take their paths. -/
def pathsSet (s : State) : State :=
  (List.range 4).foldl (fun s r =>
    if ringKind s r = 2 then
      wrBoth (wrBoth s Reg.strmPortCfg [40 + 2 * r] 9 8 0) Reg.strmPortCfg [41 + 2 * r] 9 8 1
    else s) s

theorem applyImage_eq (s : State) (x : Image) :
    applyImage s x = wrBit (pathsSet (fecChosen (imageShown s x))) Reg.twinStat [] 28
      (!rdBit (pathsSet (fecChosen (imageShown s x))) Reg.glbStrap [] 3) := rfl

/-- The words that the image's FEC choices and paths change. -/
def laneWords : List Nat :=
  ((List.range 48).flatMap fun n => [Reg.hpCfg.addr [n], Reg.hpLinkStat.addr [n]]) ++
    (List.range 48).map fun n => Reg.strmPortCfg.addr [n]

theorem within_fecChosen (s : State) : Within [.staged, .inForce] laneWords s (fecChosen s) := by
  refine Within.foldl_mem (fun t n hn => ?_) s
  have hmem (a : Nat) (ha : a = Reg.hpCfg.addr [n] ∨ a = Reg.hpLinkStat.addr [n]) : a ∈ laneWords :=
    List.mem_append_left _ (List.mem_flatMap.2 ⟨n, List.mem_of_mem_filter hn, by simpa using ha⟩)
  exact ((within_wrBoth t _ _ _ _ _).append (within_wr _ _ _ _ _ _)).mono (by decide) (by simpa using hmem)

theorem within_pathsSet (s : State) : Within [.staged, .inForce] laneWords s (pathsSet s) := by
  refine Within.foldl_mem (fun t r hr => Within.orNot ?_) s
  have hlt := List.mem_range.1 hr
  have hmem (n : Nat) (h : n < 48) : Reg.strmPortCfg.addr [n] ∈ laneWords :=
    List.mem_append_right _ (List.mem_map_of_mem (List.mem_range.2 h))
  refine ((within_wrBoth t _ _ _ _ _).append (within_wrBoth _ _ _ _ _ _)).mono (by decide) fun a ha => ?_
  simp only [List.cons_append, List.nil_append, List.mem_cons, List.not_mem_nil, or_false] at ha
  rcases ha with rfl | rfl
  · exact hmem _ (by omega)
  · exact hmem _ (by omega)

/-- What follows the showing of the image changes registers of lanes and TWIN_STAT. -/
theorem within_applyImage_of_shown (s : State) (x : Image) :
    Within [.staged, .inForce] (laneWords ++ [Reg.twinStat.addr []]) (imageShown s x) (applyImage s x) := by
  rw [applyImage_eq]
  exact (((within_fecChosen _).trans (within_pathsSet _)).append (within_wrBit _ _ _ _ _)).mono (by decide) fun _ => id

theorem onlyChanges_imageShown (s : State) (x : Image) : OnlyChanges [.image, .inForce] s (imageShown s x) :=
  (((onlyChanges_of_image s x).append (onlyChanges_putWord _ _ _ _)).append (onlyChanges_putWord _ _ _ _)).mono (by decide)

/-- The words that ring pairs change as they move. -/
def ringWords : List Nat :=
  [Reg.twinRingCnt.addr [], Reg.twinRingLast.addr []] ++ (List.range 4).map fun r => Reg.twinRingStat.addr [r]

theorem within_setRing (s : State) {r : Nat} (v : Nat) (hr : r < 4) : Within [.inForce] ringWords s (setRing s r v) := by
  refine Within.ite (.refl _ _ s) ?_
  have hmem : Reg.twinRingStat.addr [r] ∈ ringWords := List.mem_append_right _ (List.mem_map_of_mem (List.mem_range.2 hr))
  refine (((within_wr s _ _ _ _ _).append (within_countEvent _ _ _)).append (within_putWord _ _ _ _)).mono (by decide) ?_
  have hcnt : Reg.twinRingCnt.addr [] ∈ ringWords := by simp [ringWords]
  have hlast : Reg.twinRingLast.addr [] ∈ ringWords := by simp [ringWords]
  simpa using ⟨hmem, hcnt, hlast⟩

/-- Switches that open take no link down. -/
theorem within_moveSwitches_open (s : State) (r : Nat) : Within [.twin, .out] [] s (moveSwitches s r false) := by
  refine Within.ite (.refl _ _ s) ?_
  exact ((within_of_twin s _).append (within_emit _ _)).mono (by decide) (by simp)

theorem within_throughAll (s : State) : Within [.twin, .out, .inForce] ringWords s (throughAll s) := by
  refine Within.foldl_mem (fun t r hr => Within.ite (.refl _ _ t) ?_) s
  exact ((within_moveSwitches_open t r).append (within_setRing _ 5 (List.mem_range.1 hr))).mono (by decide) (by simp)

theorem does_stageComplete_structure {el : Nat} {x : Bundle} (hnow : now = advance el s) (hr : stageRuns now 3 = true)
    (hx : now.img.bundle = some x) :
    DoesFrom now (.stageComplete 3 el false) s [.power, .inForce, .staged, .image, .twin, .out] fun t =>
      t.image = x.image ∧ stageDone t 3 = true ∧ word t Reg.imgSiRun [] = x.image.ver ∧
        word t Reg.imgSiLineage [] = x.image.lineage := by
  have hexec : exec (.stageComplete 3 el false) s =
      done (throughAll (markStage (applyImage now x.image) 3 false false)) := by
    show execStageComplete 3 el false s = _
    have hruns : ¬ (!stageRuns now 3) = true := by simpa using hr
    have hload : loadStructure now = throughAll (markStage (applyImage now x.image) 3 false false) := by
      simp only [loadStructure, hx]
    rw [execStageComplete, ← hnow, ← hload]
    exact if_neg hruns
  have happly := within_applyImage_of_shown now x.image
  have hmark := within_markStage (applyImage now x.image) 3 false false
  have hthrough := within_throughAll (markStage (applyImage now x.image) 3 false false)
  have hafter := (happly.append hmark).append hthrough
  have hstage : stageDone (markStage (applyImage now x.image) 3 false false) 3 = true := by
    rw [stageDone_markStage _ _ _ (by decide) (by decide), decide_eq_true rfl, Bool.true_or]
  have himage : (imageShown now x.image).image = x.image := rfl
  have hrun : word (imageShown now x.image) Reg.imgSiRun [] = x.image.ver :=
    (word_putWord_other (by decide)).trans word_putWord_same
  have hlineage : word (imageShown now x.image) Reg.imgSiLineage [] = x.image.lineage := word_putWord_same
  refine doesFrom_of hexec (((onlyChanges_imageShown now x.image).append hafter.1).mono (by decide)) ⟨?_, ?_, ?_, ?_⟩
  · exact (hafter.1 .image (by decide)).trans himage
  · exact (rdBit_settle _ _ _ _).trans ((hthrough.2.rdBit_eq (by decide)).trans hstage)
  · exact (word_settle _ _ _).trans ((hafter.2.word_eq (by decide)).trans hrun)
  · exact (word_settle _ _ _).trans ((hafter.2.word_eq (by decide)).trans hlineage)

end

/-- Settles O4: a stage that ends is marked (`markStage`), and what follows it clears no stage (`followStages_keeps`). -/
theorem stagesComplete : Obligations.StagesComplete :=
  ⟨fun _ _ _ _ => does_stageComplete_structure, fun _ _ _ _ => does_stageComplete,
    fun _ _ _ _ => does_stageLimitExpiry, fun _ _ _ => does_stageLimitExpiry_rom⟩

end Sys2Proof.Machine

/-! PROOFS. Register writes (R415): a value that waits for a frame boundary of a port keeps waiting while the port sends. -/
namespace Sys2Proof.Machine

/-- What a fact of the state says of a command's outcome. -/
def outcomeHolds (p : State → Bool) : Host.Outcome State Fault Refusal → Bool
  | .next t => p t
  | _ => false

/-- A command that does `P` leaves a state in which `P` holds and which the model evaluates to. -/
theorem Does.holds {c : Instr} {s : State} {ps : List Part} {P : State → Prop} {p : State → Bool} (h : Does c s ps P)
    (hp : ∀ t, P t → p t = true) : outcomeHolds p (exec c s) = true := by
  obtain ⟨t, hexec, -, hP⟩ := h
  rw [hexec]
  exact hp t hP

/-- SCHED_PORT_CFG of port 0 waits for a frame boundary while the port sends a frame of the device's own. -/
def sendingPort : State :=
  putPort { State.reset with regs := { State.reset.regs with
      waiting := [⟨Reg.schedPortCfg.addr [0], 0x803F00FF, 1, 0, .host⟩] } } 0
    { Port.idle with ownNow := some ⟨⟨.twin, 0, []⟩, [], 0, ⟨0, [], []⟩⟩ }

/-- Refutes O5: its third clause puts a value that waits for FRM in force whether or not the port is sending. -/
theorem not_registerWritesLand : ¬ Obligations.RegisterWritesLand := by
  rintro ⟨-, -, happly, -⟩
  have hdoes := happly sendingPort 0 .host 0 (by decide) rfl
  have hempty := hdoes.holds (p := fun t => t.regs.waiting.isEmpty) fun t ht => by simp [ht.1]
  have hwaits : outcomeHolds (fun t => t.regs.waiting.isEmpty) (exec (.applyDeadline (Reg.schedPortCfg.addr [0])) sendingPort)
      = false := by decide +kernel
  rw [hwaits] at hempty
  contradiction

end Sys2Proof.Machine

/-! PROOFS. Shared memory (R406): a word that is written is read back byte by byte. -/
namespace Sys2Proof.Machine

/-- Bytes written upward are read back. -/
theorem Memory.readList_writeList (m : Memory) (a : Nat) (bs : List Byte) :
    (m.writeList a bs).readList a bs.length = bs := by
  induction bs generalizing m a with
  | nil => rfl
  | cons b bs ih =>
    have hfirst : ((m.write a b).writeList (a + 1) bs).read a = b := by
      rw [Memory.read_writeList_other _ _ _ _ (.inl (Nat.lt_succ_self a)), Memory.read_write_same]
    rw [Memory.writeList, List.length_cons, Memory.readList, hfirst, ih]

theorem ofBytes_toBytes_four {x : Nat} (h : x < 2 ^ 32) : ofBytes (toBytes 4 x) = x := by
  simp only [toBytes, ofBytes, List.foldl_cons, List.foldl_nil, BitVec.toNat_ofNat]
  omega

section
variable {s : State} {k : Fin 4} {req : Requester} {o : Nat} {data : Word}

/-- Memory with a word written at `o`, its least significant byte first. -/
def wordWritten (s : State) (o : Nat) (data : Word) : State :=
  { s with bar4 := Memory.writeList s.bar4 o (toBytes 4 data.toNat).reverse }

theorem onlyChanges_wordWritten (s : State) (o : Nat) (data : Word) : OnlyChanges [.bar4] s (wordWritten s o data) := by
  intro p hp; cases p <;> simp_all [Part.same, wordWritten]

theorem bar4Word_of_written {u : State} (ho : o < 0x3FF8000)
    (h : u.bar4 = Memory.writeList s.bar4 o (toBytes 4 data.toNat).reverse) : bar4Word u o = data := by
  have hbytes : Memory.readList u.bar4 o 4 = (toBytes 4 data.toNat).reverse := by
    rw [h]; exact Memory.readList_writeList s.bar4 o (toBytes 4 data.toNat).reverse
  rw [bar4Word, if_pos ho, hbytes, List.reverse_reverse, ofBytes_toBytes_four data.isLt, BitVec.ofNat_toNat, BitVec.setWidth_eq]

theorem busFault_shared (h4 : o % 4 = 0) (ho : o < 0x3FF8000) : busFault (bar4 + o) 4 = none := by
  refine busFault_of_mapped (by simp only [bar4]; omega) ?_
  rw [mapped, if_neg (by simp only [bar2, bar4]; omega), if_neg (by omega), decide_eq_true_iff]
  omega

theorem readWord_shared (ho : o < 0x3FF8000) : readWord s req (bar4 + o) [] = (s, bar4Word s o) := by
  have hcounter : pageCounter s o = none := if_neg fun h => by omega
  rw [readWord, if_neg (by simp only [bar2, bar4]; omega), if_neg (by omega), Nat.add_sub_cancel_left]
  exact congrArg (fun c => (Option.elim c s (latch s .host), bar4Word s o)) hcounter

/-- A read of a word of shared memory answers it and changes nothing. -/
theorem does_sharedRead (hr : s.power.inReset = false) (h4 : o % 4 = 0) (ho : o < 0x3FF8000) (hv : bar4Word s o = data) :
    Does (.registerRead req (bar4 + o) 4 []) s [.out] fun t => t.out = .readDone req (bar4 + o) data :: s.out := by
  refine does_emit (congrArg done ?_)
  rw [busRead_of_decoded hr (busFault_shared h4 ho), readWord_shared ho, hv]

theorem busWrite_shared (hr : s.power.inReset = false) (h4 : o % 4 = 0) (ho : o < 0x3FF8000) :
    busWrite s (.mc k) (bar4 + o) 4 data = wordWritten s o data := by
  have hhost : (Requester.mc k == .host) = false := rfl
  have hspi : (Requester.mc k == .spi) = false := rfl
  have hne : ¬ Requester.mc k = .host := nofun
  simp only [busWrite, hr, busFault_shared h4 ho, if_neg (show ¬ bar4 + o < bar2 by simp only [bar2, bar4]; omega),
    if_neg (show ¬ bar4 + o < bar4 by omega), Nat.add_sub_cancel_left, accept, hhost, hspi, if_neg hne, if_pos ho]
  simp [wordWritten]

end

/-- Settles O7: the word's four bytes are written upward from `o` (`readList_writeList`), and a read of shared memory has no
other effect than its answer. -/
theorem sharedMemoryHoldsWords : Obligations.SharedMemoryHoldsWords := by
  intro s k o data hr h4 ho hwf
  have hexec : exec (.registerWrite (.mc k) (bar4 + o) ⟨4, data⟩) s = done (wordWritten s o data) :=
    congrArg done (busWrite_shared hr h4 ho)
  have hwf' : Memory.wf (wordWritten s o data).bar4 := Memory.wf_writeList hwf _ _
  have hother (b : Nat) (hb : b < o ∨ o + 4 ≤ b) : Memory.read (wordWritten s o data).bar4 b = Memory.read s.bar4 b :=
    Memory.read_writeList_other s.bar4 o b (toBytes 4 data.toNat).reverse hb
  exact does_of_any hexec (onlyChanges_wordWritten s o data) fun i =>
    ⟨hwf', bar4Word_of_written ho rfl, hother, does_sharedRead hr h4 ho (bar4Word_of_written ho rfl)⟩

end Sys2Proof.Machine

/-! PROOFS. The table windows (R116, R405, R409): which table, entry and word an offset names, what a word below the highest
leaves, and how the highest lands an entry. -/
namespace Sys2Proof.Machine

/-! ### Decoding -/

/-- How far the offsets reach that indices name. -/
def offsetBound (ds : List (Nat × Nat)) : Nat :=
  match ds with
  | [] => 1
  | (n, s) :: _ => n * s

theorem indicesOf_of_bound {ds : List (Nat × Nat)} (hs : ∀ d ∈ ds, 0 < d.2) {off : Nat} (h : offsetBound ds ≤ off) :
    indicesOf ds off = none := by
  cases ds with
  | nil =>
    obtain ⟨n, rfl⟩ : ∃ n, off = n + 1 := ⟨off - 1, by simp only [offsetBound] at h; omega⟩
    rfl
  | cons d ds =>
    obtain ⟨n, s⟩ := d
    have hs0 : 0 < s := hs (n, s) List.mem_cons_self
    exact if_neg fun hlt => absurd (Nat.lt_of_lt_of_le ((Nat.div_lt_iff_lt_mul hs0).mp hlt) h) (lt_irrefl _)

/-- The dimensions of a group's counters, each of two words. -/
def CtrGroup.valueDims (g : CtrGroup) : List (Nat × Nat) :=
  g.dims.map (fun d => (d.1, d.2.1)) ++ [(g.widths.length, 8), (2, 4)]

/-- The dimensions of a group's words of bits. -/
def CtrGroup.wordDims (g : CtrGroup) : List (Nat × Nat) := g.dims.map (fun d => (d.1, d.2.2)) ++ [(g.words, 4)]

/-- Nothing of a group lies from offset `lo` up to `hi`. -/
def CtrGroup.clearOf (g : CtrGroup) (lo hi : Nat) : Bool :=
  let clear (ds : List (Nat × Nat)) (b : Nat) : Bool := ds.all (fun d => 0 < d.2) && (hi ≤ b || b + offsetBound ds ≤ lo)
  clear g.valueDims g.base && clear g.wordDims g.msb && clear g.wordDims g.epoch

theorem indicesOf_of_clear {ds : List (Nat × Nat)} {b lo hi a : Nat} (hlo : lo ≤ a) (hhi : a < hi)
    (h : (ds.all (fun d => 0 < d.2) && (decide (hi ≤ b) || decide (b + offsetBound ds ≤ lo))) = true) :
    a < b ∨ indicesOf ds (a - b) = none := by
  simp only [Bool.and_eq_true, Bool.or_eq_true, List.all_eq_true, decide_eq_true_iff] at h
  obtain ⟨hs, h | h⟩ := h
  · exact .inl (by omega)
  · exact .inr (indicesOf_of_bound hs (by omega))

theorem wordIndex_of_clear {g : CtrGroup} {b a : Nat} (h : a < b ∨ indicesOf g.wordDims (a - b) = none) :
    g.wordIndex b a = none := by
  rcases h with h | h
  · exact if_pos h
  · simp only [CtrGroup.wordIndex, ← CtrGroup.wordDims.eq_1, h, Option.map_none, ite_self]

theorem index_of_clear {g : CtrGroup} {a : Nat} (h : a < g.base ∨ indicesOf g.valueDims (a - g.base) = none) :
    g.index a = none := by
  rcases h with h | h
  · exact if_pos h
  · simp only [CtrGroup.index, ← CtrGroup.valueDims.eq_1, h, Option.map_none, ite_self]

/-- An offset of a range that holds no counter is no counter's. -/
theorem ctrAt_of_clear {lo hi a : Nat} (hlo : lo ≤ a) (hhi : a < hi)
    (h : (ctrGroups ++ ringGroups).all (·.clearOf lo hi) = true) : ctrAt a = none := by
  have hclear (g : CtrGroup) (hg : g ∈ ctrGroups ++ ringGroups) :
      g.index a = none ∧ g.wordIndex g.msb a = none ∧ g.wordIndex g.epoch a = none := by
    have hg := List.all_eq_true.mp h g hg
    simp only [CtrGroup.clearOf, Bool.and_eq_true (_ && _)] at hg
    obtain ⟨⟨hvalue, hmsb⟩, hepoch⟩ := hg
    exact ⟨index_of_clear (indicesOf_of_clear hlo hhi hvalue), wordIndex_of_clear (indicesOf_of_clear hlo hhi hmsb),
      wordIndex_of_clear (indicesOf_of_clear hlo hhi hepoch)⟩
  simp only [ctrAt, Option.orElse_eq_orElse, Option.orElse_eq_or, Option.or_eq_none_iff, List.findSome?_eq_none_iff,
    Option.map_eq_none_iff]
  exact ⟨fun g hg => (hclear g (List.mem_append_left _ hg)), fun g hg => (hclear g (List.mem_append_right _ hg)).1⟩

/-- The offsets of table `t`. -/
def Table.holds (t : Table) (a : Nat) : Prop := (shapeOf t).1 ≤ a ∧ a < (shapeOf t).1 + (shapeOf t).2.1 * (shapeOf t).2.2

/-- No two tables share an offset. -/
theorem tables_disjoint : ∀ t ∈ tables, ∀ u ∈ tables, u ≠ t →
    (shapeOf t).1 + (shapeOf t).2.1 * (shapeOf t).2.2 ≤ (shapeOf u).1 ∨
      (shapeOf u).1 + (shapeOf u).2.1 * (shapeOf u).2.2 ≤ (shapeOf t).1 := by decide

theorem findSome?_of_unique {α β : Type} {f : α → Option β} {l : List α} {x : α} {y : β} (hx : x ∈ l) (hy : f x = some y)
    (h : ∀ z ∈ l, z ≠ x → f z = none) : l.findSome? f = some y := by
  induction l with
  | nil => exact absurd hx List.not_mem_nil
  | cons z l ih =>
    by_cases hz : z = x
    · simp [hz, hy]
    · simpa [List.findSome?_cons, h z List.mem_cons_self hz] using
        ih ((List.mem_cons.mp hx).resolve_left (Ne.symm hz)) fun u hu => h u (List.mem_cons_of_mem _ hu)

theorem tableAt_of_holds {t : Table} {a : Nat} (hmem : t ∈ tables) (h : t.holds a) :
    tableAt a = some (t, (a - (shapeOf t).1) / (shapeOf t).2.1, (a - (shapeOf t).1) % (shapeOf t).2.1 / 4) := by
  refine findSome?_of_unique hmem (if_pos h) fun u hu hne => if_neg fun hin => ?_
  obtain ⟨hlo, hhi⟩ : t.holds a := h
  obtain ⟨hlo', hhi'⟩ : u.holds a := hin
  rcases tables_disjoint t hmem u hu hne with hd | hd <;> omega

/-- Word `w` of entry `i` of a table. -/
theorem tableAt_entry {t : Table} {i w base size count : Nat} (hmem : t ∈ tables) (hs : shapeOf t = (base, size, count))
    (hi : i < count) (hw : 4 * w < size) (h4 : size % 4 = 0) : tableAt (base + size * i + 4 * w) = some (t, i, w) := by
  have hbound : size * i + size ≤ size * count := by
    rw [← Nat.mul_succ]; exact Nat.mul_le_mul_left size hi
  have h := tableAt_of_holds (a := base + size * i + 4 * w) hmem (by simp only [Table.holds, hs]; omega)
  simp only [hs, show base + size * i + 4 * w - base = 4 * w + size * i by omega, Nat.add_mul_mod_self_left,
    Nat.add_mul_div_left _ _ (show 0 < size by omega), Nat.div_eq_of_lt hw, Nat.mod_eq_of_lt hw, Nat.zero_add] at h
  rw [h, Nat.mul_div_cancel_left w (by decide)]

theorem mapped_of_tableAt {a : Nat} (hlo : 0x1000000 ≤ a) (hhi : a < 0x10000000) (h : (tableAt a).isSome = true) :
    mapped a = true := by
  rw [mapped, if_pos (by simp only [bar2]; omega), mapped0, if_neg (by omega), windowDecoded, h, decide_eq_true hhi]
  rfl

section
variable {s : State} {req : Requester} {a : Nat} {data : Word}

/-- A word written in a table window reaches the table (R409). -/
theorem exec_tableEntryWrite (hlo : 0x1000000 ≤ a) (hhi : a < 0x10000000) (h4 : a % 4 = 0) (ht : (tableAt a).isSome = true)
    (hc : ctrAt a = none) (h : Reaches s req a) : exec (.tableEntryWrite req a data) s = done (tableWrite s req a data) := by
  have hstaged : stagedOf a = a := if_neg fun hlow => absurd hlow.1 (by omega)
  have hlive : isLive a = false := by simp [isLive, hstaged]
  have hland : land0 s req a data = tableWrite s req a data := by
    simp only [land0, hlive, hc, if_pos hlo]
    rfl
  have hwrite : busWrite s req a 4 data = land0 s req a data := by
    have hbelow : a < bar2 := by simp only [bar2]; omega
    have hreset : s.power.inReset = false := h.1
    simp only [busWrite, hreset, busFault_of_mapped h4 (mapped_of_tableAt hlo hhi ht), if_pos hbelow, hstaged]
    exact accept_of_reaches h 0 a data fun s => land0 s req a data
  exact congrArg done ((if_pos ⟨hlo, hhi⟩).trans (hwrite.trans hland))

/-- A word below the highest of an entry is kept. -/
theorem tableWrite_below {t : Table} {i w base size count : Nat} (hat : tableAt a = some (t, i, w))
    (hs : shapeOf t = (base, size, count)) (hfirst : firstWord t ≤ w) (hlast : w < size / 4 - 1) :
    tableWrite s req a data =
      { s with regs := { s.regs with partialWords := put s.regs.partialWords (base + i * size + 4 * w) data } } := by
  simp only [tableWrite, hat, hs, if_neg (Nat.not_lt.mpr hfirst), if_pos hlast]

theorem onlyChanges_partialWords (s : State) (x : Sparse Word) :
    OnlyChanges [.fabric] s { s with regs := { s.regs with partialWords := x } } := by
  intro p hp; cases p <;> simp_all [Part.same]

end

/-! ### The words of an entry that lands -/

/-- Number `e` with word `k` replaced by `v`. -/
def withWord (e k v : Nat) : Nat := e - bits e (32 * k + 31) (32 * k) * 2 ^ (32 * k) + v * 2 ^ (32 * k)

/-- Word `k` of a number that is written in base `B`. -/
theorem withWord_eq {B e k lo w hi : Nat} (v : Nat) (hB : B = 2 ^ 32) (he : e = lo + B ^ k * (w + B * hi)) (hlo : lo < B ^ k)
    (hw : w < B) : withWord e k v = lo + B ^ k * (v + B * hi) := by
  have hpow : 2 ^ (32 * k) = B ^ k := by rw [hB, Nat.pow_mul]
  have hpos : 0 < B ^ k := Nat.lt_of_le_of_lt (Nat.zero_le lo) hlo
  have hwidth : 32 * k + 31 + 1 - 32 * k = 32 := by omega
  rw [he, withWord, bits, hpow, Nat.add_mul_div_left _ _ hpos, Nat.div_eq_of_lt hlo, Nat.zero_add, hwidth, ← hB,
    Nat.add_mul_mod_self_left, Nat.mod_eq_of_lt hw, Nat.mul_comm w, Nat.mul_comm v, Nat.mul_add, Nat.mul_add]
  omega

/-- An entry with word `k` replaced by what was kept for it, if anything was. -/
def withKept (kept : Sparse Word) (offset : Nat → Nat) (e k : Nat) : Nat :=
  match find kept (offset k) with
  | some v => withWord e k v.toNat
  | none => e

theorem withKept_of_find {kept : Sparse Word} {offset : Nat → Nat} {e k : Nat} {v : Word} (h : find kept (offset k) = some v) :
    withKept kept offset e k = withWord e k v.toNat := by
  simp only [withKept, h]

/-- The state without the words kept at the first `n` offsets. -/
def dropKept (s : State) (offset : Nat → Nat) (n : Nat) : State :=
  let rest := (List.range n).foldl (fun l k => drop l (offset k)) s.regs.partialWords
  { s with regs := { s.regs with partialWords := rest } }

/-- The word at the highest offset lands an entry of what was kept and what the entry held. -/
theorem tableWrite_last {s : State} {req : Requester} {a : Nat} {data : Word} {t : Table} {i w base size count n : Nat}
    (hat : tableAt a = some (t, i, w)) (hs : shapeOf t = (base, size, count)) (hn : size / 4 - 1 = n)
    (hfirst : firstWord t ≤ w) (hlast : n ≤ w) :
    tableWrite s req a data =
      landEntry (dropKept s (fun k => base + i * size + 4 * k) n) req t i
        ((List.range n).foldl (withKept s.regs.partialWords fun k => base + i * size + 4 * k)
          (entryConfig s t i % 2 ^ (32 * n) + data.toNat * 2 ^ (32 * n))) := by
  simp only [tableWrite, hat, hs, hn, if_neg (Nat.not_lt.mpr hfirst), if_neg (Nat.not_lt.mpr hlast)]
  rfl

/-- A number of four words by its words in base `B`. -/
theorem exists_lower_words {B : Nat} (hB : B = 2 ^ 32) (x d : Nat) : ∃ p q r, p < B ∧ q < B ∧ r < B ∧
    x % 2 ^ 96 + d * 2 ^ 96 = p + B * (q + B * (r + B * d)) := by
  have hword (y : Nat) : y % B < B := Nat.mod_lt y (hB ▸ Nat.two_pow_pos 32)
  have h96 : 2 ^ 96 = B * (B * B) := by rw [hB]; norm_num
  refine ⟨_, _, _, hword x, hword (x / B), hword (x / B / B), ?_⟩
  rw [h96, Nat.mod_mul, Nat.mod_mul]
  ring

/-- The lower three words of four replaced. -/
theorem withWord_three {B a b c d p q r e : Nat} (hB : B = 2 ^ 32) (hp : p < B) (hq : q < B) (hr : r < B) (ha : a < B)
    (hlo : a + B * b < B ^ 2) (hx : e = p + B * (q + B * (r + B * d))) :
    withWord (withWord (withWord e 0 a) 1 b) 2 c = a + B * (b + B * (c + B * d)) := by
  have h0 := withWord_eq (k := 0) (lo := 0) (hi := q + B * (r + B * d)) a hB (hx.trans (by ring)) (by simp) hp
  have h1 := withWord_eq (k := 1) (lo := a) (hi := r + B * d) b hB (h0.trans (by ring)) (by simpa using ha) hq
  have h2 := withWord_eq (k := 2) (lo := a + B * b) (hi := d) c hB (h1.trans (by ring)) hlo hr
  exact h2.trans (by ring)

/-- Of an entry of four words whose lower three were kept, nothing is left of what it held. -/
theorem words_of_four_kept {B : Nat} (hB : B = 2 ^ 32) {kept : Sparse Word} {offset : Nat → Nat} {x : Nat} {a b c d : Word}
    (ha : find kept (offset 0) = some a) (hb : find kept (offset 1) = some b) (hc : find kept (offset 2) = some c) :
    (List.range 3).foldl (withKept kept offset) (x % 2 ^ 96 + d.toNat * 2 ^ 96) =
      a.toNat + B * (b.toNat + B * (c.toNat + B * d.toNat)) := by
  have hlt (w : Word) : w.toNat < B := hB ▸ w.isLt
  have hlo : a.toNat + B * b.toNat < B ^ 2 := by
    have hb := Nat.mul_succ B _ ▸ Nat.mul_le_mul_left B (Nat.succ_le_of_lt (hlt b))
    have ha := hlt a
    rw [Nat.pow_two]
    omega
  obtain ⟨p, q, r, hp, hq, hr, hx⟩ := exists_lower_words hB x d.toNat
  rw [← withWord_three hB hp hq hr (hlt a) hlo hx]
  show withKept kept offset (withKept kept offset (withKept kept offset _ 0) 1) 2 = _
  rw [withKept_of_find ha, withKept_of_find hb, withKept_of_find hc]

theorem wordsOf_four {B : Nat} (hB : B = 2 ^ 32) (a b c d : Word) :
    wordsOf 4 (BitVec.ofNat 128 (a.toNat + B * (b.toNat + B * (c.toNat + B * d.toNat)))) = [a, b, c, d] := by
  have hrange : List.range 4 = [0, 1, 2, 3] := rfl
  have := a.isLt
  have := b.isLt
  have := c.isLt
  have := d.isLt
  subst hB
  simp only [wordsOf, hrange, List.map_cons, List.map_nil, List.cons.injEq, and_true, BitVec.toNat_ofNat]
  refine ⟨?_, ?_, ?_, ?_⟩ <;> apply BitVec.eq_of_toNat_eq <;> rw [BitVec.toNat_ofNat] <;> omega

/-! ### What the statement's words do -/

theorem landEntry_fdb {s : State} {req : Requester} (i e : Nat) (h : standsBy s req (some 1) = false) :
    landEntry s req .fdb i e =
      { s with fdb := { s.fdb with tableWrites := s.fdb.tableWrites ++
        [⟨0x2000000 + i * 16, wordsOf 4 (BitVec.ofNat 128 e), req⟩] } } := by
  simp only [landEntry, shapeOf, true_or, if_true, h]
  rfl

theorem landEntry_reason (s : State) (req : Requester) (i e : Nat) :
    landEntry s req .reason i e =
      { s with host := { s.host with reasons := set 0 s.host.reasons i (BitVec.ofNat 32 e &&& 0x80000007) } } := rfl

theorem find_dropKept {s : State} {offset : Nat → Nat} {n k : Nat} (hk : k < n) :
    find (dropKept s offset n).regs.partialWords (offset k) = none := by
  have hfold (l : List Nat) (m : Sparse Word) (h : find m (offset k) = none ∨ k ∈ l) :
      find (l.foldl (fun m j => drop m (offset j)) m) (offset k) = none := by
    induction l generalizing m with
    | nil => exact h.resolve_right List.not_mem_nil
    | cons j l ih =>
      refine ih _ ?_
      by_cases hj : offset k = offset j
      · exact .inl (hj ▸ find_drop_same)
      · refine h.imp (fun hm => (find_drop_other hj).trans hm) fun hmem => ?_
        exact (List.mem_cons.mp hmem).resolve_left fun hkj => hj (congrArg offset hkj)
  exact hfold _ _ (.inr (List.mem_range.mpr hk))

theorem onlyChanges_dropKept (s : State) (offset : Nat → Nat) (n : Nat) : OnlyChanges [.fabric] s (dropKept s offset n) :=
  onlyChanges_partialWords s _

theorem ctrAt_fdbWindow {a : Nat} (hlo : 0x2000000 ≤ a) (hhi : a < 0x2200000) : ctrAt a = none :=
  ctrAt_of_clear hlo hhi (by decide +kernel)

theorem ctrAt_reasonWindow {a : Nat} (hlo : 0x9000100 ≤ a) (hhi : a < 0x9000144) : ctrAt a = none :=
  ctrAt_of_clear hlo hhi (by decide +kernel)

theorem tableAt_fdb {i w : Nat} (hi : i < 131072) (hw : w < 4) : tableAt (0x2000000 + 16 * i + 4 * w) = some (.fdb, i, w) :=
  tableAt_entry (by decide) rfl hi (by omega) (by decide)

theorem tableAt_reason {i : Nat} (hi : i < 17) : tableAt (0x9000100 + 4 * i) = some (.reason, i, 0) :=
  tableAt_entry (w := 0) (by decide) rfl hi (by decide) (by decide)

theorem exec_fdbWordWrite {s : State} {req : Requester} {i w : Nat} {data : Word} (hi : i < 131072) (hw : w < 4)
    (h : Reaches s req (0x2000000 + 16 * i + 4 * w)) :
    exec (.tableEntryWrite req (0x2000000 + 16 * i + 4 * w) data) s =
      done (tableWrite s req (0x2000000 + 16 * i + 4 * w) data) :=
  exec_tableEntryWrite (by omega) (by omega) (by omega) (by rw [tableAt_fdb hi hw]; rfl)
    (ctrAt_fdbWindow (by omega) (by omega)) h

/-- Settles O8: a word that is not an entry's highest is kept (`tableWrite_below`); the highest lands the entry of the words
that were kept (`tableWrite_last`), whose window has no word of the entry left to keep. -/
theorem tableWordsLand : Obligations.TableWordsLand := by
  refine ⟨?below, ?fdb, ?reason⟩
  case below =>
    intro s k i w data hi hw h
    refine does_of ((exec_fdbWordWrite hi (by omega) h).trans (congrArg done (tableWrite_below (tableAt_fdb hi (by omega)) rfl
      (Nat.zero_le w) (by omega)))) (onlyChanges_partialWords s _) ?_
    rw [Nat.mul_comm 16 i]
    rfl
  case fdb =>
    intro s k i a b c data hi h hstand ha hb hc
    set u := dropKept s (fun j => 0x2000000 + i * 16 + 4 * j) 3
    have hstand' : standsBy u (.mc k) (some 1) = false := hstand
    have hwrite := tableWrite_last (s := s) (req := .mc k) (data := data) (tableAt_fdb (w := 3) hi (by omega)) rfl rfl
      (Nat.zero_le 3) (Nat.le_refl 3)
    rw [words_of_four_kept rfl (offset := fun j => 0x2000000 + i * 16 + 4 * j) (by rwa [Nat.mul_comm i]) (by rwa [Nat.mul_comm i])
      (by rwa [Nat.mul_comm i]), landEntry_fdb _ _ hstand', wordsOf_four rfl] at hwrite
    refine does_of ((exec_fdbWordWrite (w := 3) hi (by omega) h).trans (congrArg done hwrite))
      ((onlyChanges_dropKept s _ _).append (onlyChanges_of_fdb u _)) ⟨?_, fun w hw => ?_⟩
    · rw [Nat.mul_comm 16 i]
      rfl
    · rw [Nat.mul_comm 16 i]
      exact find_dropKept (offset := fun j => 0x2000000 + i * 16 + 4 * j) hw
  case reason =>
    intro s k i data hi h
    have hexec := exec_tableEntryWrite (data := data) (by omega) (by omega) (by omega) (by rw [tableAt_reason hi]; rfl)
      (ctrAt_reasonWindow (by omega) (by omega)) h
    have hwrite := (tableWrite_last (s := s) (req := .mc k) (data := data) (tableAt_reason hi) rfl rfl (Nat.zero_le 0)
      (Nat.le_refl 0)).trans (landEntry_reason _ _ i _)
    have hdata (x : Nat) : BitVec.ofNat 32 ((List.range 0).foldl (withKept s.regs.partialWords fun k => 0x9000100 + i * 4 + 4 * k)
        (x % 2 ^ (32 * 0) + data.toNat * 2 ^ (32 * 0))) = data := by
      rw [List.range_zero, List.foldl_nil, Nat.mul_zero, Nat.pow_zero, Nat.mod_one, Nat.zero_add, Nat.mul_one,
        BitVec.ofNat_toNat, BitVec.setWidth_eq]
    rw [hdata] at hwrite
    exact does_of (hexec.trans (congrArg done hwrite)) (onlyChanges_of_host s _) rfl

end Sys2Proof.Machine

/-! PROOFS. Links of front ports (R63): a copper link that goes down leaves the negotiated FEC of its port as it was. -/
namespace Sys2Proof.Machine

/-- Copper port 48 with its link up, and a FEC that no negotiation of a copper port gives. -/
def copperWithFec : State :=
  putPort (putWord (putWord State.reset Reg.pipePortCfg [0, 48] 0) Reg.cpLinkStat [0] 1) 48 { Port.idle with negotiatedFec := some 1 }

/-- Refutes O10: its third clause clears the negotiated FEC of a copper port too. -/
theorem not_linksFollowTheLine : ¬ Obligations.LinksFollowTheLine := by
  rintro ⟨-, -, hdown, -⟩
  have hdoes := hdown copperWithFec 48 0 (advance 0 copperWithFec) rfl (by decide +kernel) (by decide +kernel)
    (by decide +kernel) (by decide +kernel) (by decide +kernel) (by decide +kernel) (by decide +kernel)
  obtain ⟨t, hexec, -, -, -, -, hfec, -⟩ := hdoes
  have hkept : outcomeHolds (fun t => (port t 48).negotiatedFec.isSome) (exec (.linkDown 48 0) copperWithFec) = true := by
    decide +kernel
  rw [hexec] at hkept
  exact absurd hkept (by simp [outcomeHolds, show (port t 48).negotiatedFec = none from hfec])

end Sys2Proof.Machine

/-! PROOFS. A write of a register whose fields are all in force at once (R413 to R415), and HP_CFG (R54, R58, R59). -/
namespace Sys2Proof.Machine

/-! ### Registers whose fields are in force at once -/

/-- Every RW field of `r` is IMM, and any value may be in force in it. -/
structure RegRow.Immediate (r : RegRow) (ix : List Nat) : Prop where
  row : rowAt (r.addr ix) = some (r, ix)
  ms : r.applyMask .ms = 0
  frm : r.applyMask .frm = 0
  pkt : r.applyMask .pkt = 0
  lawful : ∀ t, lawfulAt t r ix = true
  apart : r.addr ix ≠ Reg.twinStat.addr []

/-- The bits of a word of `r` that a write of `req` puts in force. -/
def RegRow.taken (r : RegRow) (req : Requester) : Word := writable r req &&& r.applyMask .imm

/-- What a write of the whole word leaves staged. -/
def stagedBy (s : State) (req : Requester) (r : RegRow) (ix : List Nat) (data : Word) : Word :=
  blend (writable r req) (stagedWord s r ix) data

/-- What a write of the whole word leaves in force. -/
def inForceBy (s : State) (req : Requester) (r : RegRow) (ix : List Nat) (data : Word) : Word :=
  blend (r.taken req) (word s r ix) (r.heldAt ix (stagedBy s req r ix data))

/-- The state after a write of the whole word of a register whose fields are in force at once. -/
def immediate (s : State) (req : Requester) (r : RegRow) (ix : List Nat) (data : Word) : State :=
  putWord (putStaged s r ix (stagedBy s req r ix data)) r ix (inForceBy s req r ix data)

section
variable {s : State} {req : Requester} {r q : RegRow} {ix jx : List Nat} {data : Word}

theorem standsBy_of_alone (h : Alone s) (k : Option Nat) : standsBy s req k = false := by
  obtain ⟨hrole, -⟩ := h
  have h2 : (role s == 2) = false := by simp; omega
  have h3 : (role s == 3) = false := by simp; omega
  simp [standsBy, h2, h3]

theorem mirror_of_unpaired (h : activePaired s = false) (k : Fin 11) (a : Nat) (ws : List Word) : mirror s k a ws = s := by
  simp [mirror, h]

theorem within_immediate (s : State) (req : Requester) (r : RegRow) (ix : List Nat) (data : Word) :
    Within [.staged, .inForce] [r.addr ix] s (immediate s req r ix data) :=
  (within_putStaged s r ix _).append (within_putWord _ r ix _)

theorem word_immediate_same : word (immediate s req r ix data) r ix = inForceBy s req r ix data := word_putWord_same

theorem stagedWord_immediate_same : stagedWord (immediate s req r ix data) r ix = stagedBy s req r ix data :=
  stagedWord_putStaged_same s r ix _

theorem activePaired_immediate (h : r.Immediate ix) (ha : activePaired s = false) :
    activePaired (immediate s req r ix data) = false := by
  have hne : Reg.twinStat.addr [] ∉ [r.addr ix] := by simpa using h.apart.symm
  have hw := (within_immediate s req r ix data).2
  rw [activePaired, role, hw.rd_eq hne, hw.rdBit_eq hne]
  exact ha

theorem applyEntries_one (h : r.Immediate ix) (s : State) (m : Word) (k n : Nat) (req : Requester) :
    applyEntries s [⟨r.addr ix, m, k, n, req⟩] = putWord s r ix (blend m (word s r ix) (r.heldAt ix (stagedWord s r ix))) := by
  simp [applyEntries, applyOne, refuseUnlawful, h.row, h.lawful]

/-- A write of the whole word of a register whose fields are in force at once, on a unit that keeps no twin in step. -/
theorem stage_immediate (h : r.Immediate ix) (halone : Alone s) (hm : r.taken req ≠ 0) :
    stage s req r ix 0xFFFFFFFF data = immediate s req r ix data := by
  have hand (w : Word) : 0xFFFFFFFF &&& w = w := BitVec.allOnes_and
  have hzero (w : Word) : w &&& 0 = 0 := BitVec.and_zero
  have hpaired := activePaired_immediate (req := req) (data := data) h halone.2
  have hnow : (if writable r req &&& r.applyMask .imm = 0 then putStaged s r ix (stagedBy s req r ix data)
      else applyEntries (putStaged s r ix (stagedBy s req r ix data)) [⟨r.addr ix, r.taken req, 3, s.time.dt, req⟩]) =
      immediate s req r ix data := by
    rw [if_neg (by exact hm), applyEntries_one h, stagedWord_putStaged_same]
    rfl
  unfold stage
  simp only [standsBy_of_alone halone, hand, h.ms, h.frm, h.pkt, hzero, await, if_true]
  rw [if_neg (show ¬ (false = true) by decide)]
  split
  · split
    · exact (congrArg (fun t => mirror t _ _ [stagedWord t r ix]) hnow).trans (mirror_of_unpaired hpaired _ _ _)
    · exact hnow
  · exact hnow

end

/-! ### Fields bit by bit -/

/-- A bit of a field is one of the word. -/
theorem testBit_fld {w : Nat} (z : BitVec w) (hi lo j : Nat) :
    (fld z hi lo).testBit j = (decide (j < hi + 1 - lo) && flag z (lo + j)) := by
  rw [fld, bits, Nat.testBit_mod_two_pow, Nat.testBit_div_two_pow, flag, BitVec.getLsbD, Nat.add_comm j lo]

/-- A field is what its bits are. -/
theorem fld_ext {m k : Nat} {x : BitVec m} {y : BitVec k} {hi lo : Nat} (h : ∀ i, lo ≤ i → i ≤ hi → flag x i = flag y i) :
    fld x hi lo = fld y hi lo := by
  refine Nat.eq_of_testBit_eq fun j => ?_
  rw [testBit_fld, testBit_fld]
  by_cases hj : j < hi + 1 - lo
  · rw [h (lo + j) (by omega) (by omega)]
  · simp [hj]

/-- The bits of a field that is zero are clear. -/
theorem flag_of_fld_zero {m : Nat} {x : BitVec m} {hi lo i : Nat} (h : fld x hi lo = 0) (hl : lo ≤ i) (hh : i ≤ hi) :
    flag x i = false := by
  have hbit := testBit_fld x hi lo (i - lo)
  rwa [h, Nat.zero_testBit, show lo + (i - lo) = i by omega, decide_eq_true (by omega), Bool.true_and, eq_comm] at hbit

theorem setFld_fld_self {m : Nat} (x : BitVec m) {hi lo : Nat} (hl : lo ≤ hi) (hm : hi < m) : setFld x hi lo (fld x hi lo) = x := by
  refine BitVec.eq_of_toNat_eq ?_
  have hle : bits x.toNat hi lo * 2 ^ lo ≤ x.toNat :=
    (Nat.mul_le_mul_right _ (Nat.mod_le _ _)).trans (Nat.div_mul_le_self _ _)
  rw [setFld_toNat hl hm, fld, show bits x.toNat hi lo % 2 ^ (hi + 1 - lo) = bits x.toNat hi lo from Nat.mod_mod _ _,
    Nat.sub_add_cancel hle]

/-- A row whose fields take any value holds nothing. -/
theorem heldAt_of_any {r : RegRow} {ix : List Nat} (hbase : r.base ≠ Reg.bpmPoolRes.base)
    (h : ∀ f ∈ r.fields, f.hold = .any ∧ f.lo ≤ f.hi ∧ f.hi < 32) (w : Word) : r.heldAt ix w = w := by
  rw [RegRow.heldAt, if_neg hbase, RegRow.heldWord]
  refine List.foldlRecOn (motive := fun x => x = w) r.fields _ rfl ?_
  rintro x rfl f hf
  obtain ⟨hany, hl, hm⟩ := h f hf
  rw [hany]
  exact setFld_fld_self x hl hm

section
variable {s : State} {req : Requester} {r : RegRow} {ix : List Nat} {data : Word}

theorem flag_stagedBy {i : Nat} (hi : i < 32) (hw : flag (writable r req) i = true) :
    flag (stagedBy s req r ix data) i = flag data i := by
  rw [stagedBy, flag_blend hi, if_pos hw]

/-- A bit that a write puts in force, of a row that holds nothing. -/
theorem flag_inForceBy {i : Nat} (hi : i < 32) (hany : ∀ w, r.heldAt ix w = w) (ht : flag (r.taken req) i = true) :
    flag (inForceBy s req r ix data) i = flag data i := by
  have hw : flag (writable r req) i = true := by
    rw [flag, RegRow.taken, BitVec.getLsbD_and, Bool.and_eq_true] at ht
    exact ht.1
  rw [inForceBy, flag_blend hi, if_pos ht, hany, flag_stagedBy hi hw]

end

/-! ### HP_CFG -/

section
variable {s t : State} {req : Requester} {n : Nat} {data : Word}

theorem immediate_hpCfg : ∀ n < 48, rowAt (Reg.hpCfg.addr [n]) = some (Reg.hpCfg, [n]) ∧
    Reg.hpCfg.addr [n] ≠ Reg.twinStat.addr [] := by decide +kernel

theorem hpCfg_immediate (hn : n < 48) : Reg.hpCfg.Immediate [n] where
  row := (immediate_hpCfg n hn).1
  ms := by decide
  frm := by decide
  pkt := by decide
  lawful _ := rfl
  apart := (immediate_hpCfg n hn).2

theorem taken_hpCfg (req : Requester) : Reg.hpCfg.taken req = 0x719 := by
  have hbase : Reg.hpCfg.base ≠ Reg.irqRoute.base := by decide
  simp only [RegRow.taken, writable, hbase, false_and, if_false]
  decide

theorem regs_apart_hport : ∀ n < 48, Reg.hpCfg.addr [n] ≠ Reg.hpLinkStat.addr [n] := by decide +kernel

/-! ### The link state of an H-port that has no link -/

theorem within_of_port (s : State) (p : Nat) (x : Port) : Within [.ports] [] s (putPort s p x) :=
  (onlyChanges_putPort s p x).within (by decide)

theorem portGroup_of_isHPort (h : isHPort s n = true) : portGroup s n = none := by
  simp only [isHPort, Bool.and_eq_true, decide_eq_true_iff] at h
  exact if_neg fun hg => by omega

theorem linkUp_hport (hn : n < 48) (h : isHPort s n = true) : linkUp s n = rdBit s Reg.hpLinkStat [n] 0 := by
  rw [linkUp, if_pos hn, portGroup_of_isHPort h]

theorem isHPort_congr (h : t.image = s.image) (n : Nat) : isHPort t n = isHPort s n := by
  simp only [isHPort, laneMode, popBit, h]
  rfl

theorem within_showFec (s : State) (n : Nat) : Within [.inForce] [Reg.hpLinkStat.addr [n]] s (showFec s n) :=
  within_wr s _ _ _ _ _

theorem rd_showFec_low {hi lo : Nat} (h : hi < 4) :
    rd (showFec s n) Reg.hpLinkStat [n] hi lo = rd s Reg.hpLinkStat [n] hi lo := by
  rw [rd, showFec, word_wr_same, fld_setFld_below (by decide) (by decide) h]
  rfl

theorem rdBit_showFec_low {i : Nat} (h : i < 4) : rdBit (showFec s n) Reg.hpLinkStat [n] i = rdBit s Reg.hpLinkStat [n] i := by
  rw [rdBit, showFec, word_wr_same, flag_setFld_below (by decide) (by decide) h]
  rfl

/-- What a port that begins to acquire its link notes. -/
theorem within_beginLink (s : State) (p : Nat) : Within [.ports, .out] [] s (beginLink s p) := by
  unfold beginLink
  refine Within.orNot (Within.trans (t := putPort s p { port s p with trainAt := s.time.dt, trainingAbandoned := false })
    ((within_of_port s p _).mono (by decide) (by simp)) ?_)
  exact Within.orNot ((within_emit _ _).mono (by decide) (by simp))

theorem port_putPort_same (s : State) (p : Nat) (x : Port) : port (putPort s p x) p = x := get_set_same

theorem port_putPort_other {p q : Nat} (h : q ≠ p) (s : State) (x : Port) : port (putPort s p x) q = port s q :=
  get_set_other h

theorem port_emit (s : State) (o : Output) (p : Nat) : port (emit s o) p = port s p := rfl

/-- Beginning to acquire a link leaves what was negotiated as it was. -/
theorem negotiated_beginLink (s : State) (p : Nat) :
    (port (beginLink s p) p).negotiatedFec = (port s p).negotiatedFec ∧
      (port (beginLink s p) p).anNoMatch = (port s p).anNoMatch := by
  unfold beginLink
  split
  · dsimp only
    split
    · simp only [port_emit, port_putPort_same, and_self]
    · simp only [port_putPort_same, and_self]
  · exact ⟨rfl, rfl⟩

/-- An H-port without a link: its lock and its negotiation cleared. -/
def unlocked (s : State) (n : Nat) : State :=
  wr (putPort s n { port s n with negotiatedFec := none, anNoMatch := false }) Reg.hpLinkStat [n] 3 0 0

theorem within_unlocked (s : State) (n : Nat) : Within [.ports, .inForce] [Reg.hpLinkStat.addr [n]] s (unlocked s n) :=
  (within_of_port s n _).append (within_wr _ _ _ _ _ _)

/-- An H-port without a link loses what it had negotiated, and acquires a link anew where it may. -/
theorem linkLost_hport (hn : n < 48) (h : linkUp s n = false) : linkLost s n = beginLink (showFec (unlocked s n) n) n := by
  simp only [linkLost, if_pos hn, portDown, h, Bool.false_eq_true, if_false]
  rfl

theorem within_linkLost_hport (hn : n < 48) (h : linkUp s n = false) :
    Within [.inForce, .ports, .out] [Reg.hpLinkStat.addr [n]] s (linkLost s n) := by
  rw [linkLost_hport hn h]
  exact ((within_unlocked s n).append ((within_showFec _ n).append (within_beginLink _ n))).mono (by decide) (by simp)

theorem rd_linkLost_hport (hn : n < 48) (h : linkUp s n = false) : rd (linkLost s n) Reg.hpLinkStat [n] 3 0 = 0 := by
  rw [linkLost_hport hn h, (within_beginLink _ n).2.rd_eq (by simp), rd_showFec_low (by decide), unlocked,
    rd_wr_same (by decide) (by decide), Nat.zero_mod]

theorem negotiated_linkLost_hport (hn : n < 48) (h : linkUp s n = false) :
    (port (linkLost s n) n).negotiatedFec = none ∧ (port (linkLost s n) n).anNoMatch = false := by
  have hport : port (showFec (unlocked s n) n) n = { port s n with negotiatedFec := none, anNoMatch := false } :=
    port_putPort_same s n _
  obtain ⟨hfec, hmatch⟩ := negotiated_beginLink (showFec (unlocked s n) n) n
  rw [linkLost_hport hn h, hfec, hmatch, hport]
  exact ⟨rfl, rfl⟩

theorem within_restartLink_hport (hn : n < 48) (h : linkUp s n = false) :
    Within [.inForce, .ports, .out] [Reg.hpLinkStat.addr [n]] s (restartLink s n) :=
  Within.orNot (within_linkLost_hport hn h)

/-! ### What a landed write of HP_CFG does -/

/-- FEC_SEL as it was where FEC_SET lacks the code that was written (R58). -/
def keepFec (s : State) (n : Nat) (before : Word) : State :=
  if bit (fecSet s n) (rd s Reg.hpCfg [n] 10 8) then s else wr s Reg.hpCfg [n] 10 8 (fld before 10 8)

theorem within_keepFec (s : State) (n : Nat) (before : Word) : Within [.inForce] [Reg.hpCfg.addr [n]] s (keepFec s n before) := by
  unfold keepFec
  split
  · exact .refl _ _ s
  · exact within_wr s _ _ _ _ _

theorem rd_keepFec (s : State) (n : Nat) (before : Word) : rd (keepFec s n before) Reg.hpCfg [n] 10 8 =
    if bit (fecSet s n) (rd s Reg.hpCfg [n] 10 8) then rd s Reg.hpCfg [n] 10 8 else fld before 10 8 := by
  unfold keepFec
  split
  · rfl
  · rw [rd_wr_same (by decide) (by decide)]
    exact Nat.mod_eq_of_lt (Nat.mod_lt _ (by decide))

theorem rdBit_keepFec_low (s : State) (n : Nat) (before : Word) {i : Nat} (h : i < 8) :
    rdBit (keepFec s n before) Reg.hpCfg [n] i = rdBit s Reg.hpCfg [n] i := by
  unfold keepFec
  split
  · rfl
  · rw [rdBit, word_wr_same, flag_setFld_below (by decide) (by decide) h]
    rfl

/-- What follows once FEC_SEL and FEC_ACT are decided. -/
def hpCfgActs (s : State) (n : Nat) (before : Word) (restart : Bool) : State :=
  if flag before 0 && !rdBit s Reg.hpCfg [n] 0 then
    putPort (linkLost s n) n { port (linkLost s n) n with localFault := false, remoteFault := false }
  else if !flag before 0 && rdBit s Reg.hpCfg [n] 0 then restartLink s n
  else if restart || fld before 10 8 != rd s Reg.hpCfg [n] 10 8 then restartLink s n
  else if flag before 3 && !rdBit s Reg.hpCfg [n] 3 then putPort s n { port s n with anNoMatch := false }
  else s

theorem hpCfgLanded_eq (s : State) (n : Nat) (before : Word) (restart : Bool) :
    hpCfgLanded s n before restart = hpCfgActs (showFec (keepFec s n before) n) n before restart := rfl

theorem within_hpCfgActs (hn : n < 48) (h : linkUp s n = false) (before : Word) (restart : Bool) :
    Within [.inForce, .ports, .out] [Reg.hpLinkStat.addr [n]] s (hpCfgActs s n before restart) := by
  have hport (u : State) (x : Port) : Within [.inForce, .ports, .out] [Reg.hpLinkStat.addr [n]] u (putPort u n x) :=
    (within_of_port u n x).mono (by decide) (by simp)
  unfold hpCfgActs
  refine Within.ite ((within_linkLost_hport hn h).trans (hport _ _)) ?_
  refine Within.ite (within_restartLink_hport hn h) (Within.ite (within_restartLink_hport hn h) ?_)
  exact Within.orNot (hport _ _)

/-- A write that begins negotiation again, on a port that is enabled after it. -/
theorem hpCfgActs_restart {before : Word} (h : portEn s n = true) (hbit : rdBit s Reg.hpCfg [n] 0 = true) :
    hpCfgActs s n before true = linkLost s n := by
  have hrestart : restartLink s n = linkLost s n := if_pos h
  simp only [hpCfgActs, hbit, hrestart, Bool.not_true, Bool.and_false, Bool.true_or, Bool.false_eq_true, if_false, if_true,
    ite_self]

theorem blockOf_hport : ∀ n < 48, ((blockOf (Reg.hpCfg.addr [n])).map fun x => (x.1.base, x.2)) = some (0x100000, n, 0) := by
  decide +kernel

/-- The offset of HP_CFG answers where its window does (R54, R471). -/
theorem hWindow_of_serves (hn : n < 48) (h : serves s (Reg.hpCfg.addr [n]) = true) : hWindow s n = true := by
  have hoff : Reg.hpCfg.addr [n] < 0x1000000 := by simp only [RegRow.addr, Reg.hpCfg, offsetOf]; omega
  obtain ⟨⟨b, i, o⟩, hblock, hparts⟩ := Option.map_eq_some_iff.mp (blockOf_hport n hn)
  obtain ⟨hbase, rfl, rfl⟩ : b.base = 0x100000 ∧ i = n ∧ o = 0 := by simpa using hparts
  simp only [serves, if_neg (Nat.not_le.mpr hoff), hblock, hbase] at h
  simp only [hWindow, Bool.and_eq_true]
  cases hopen : windowsOpen s <;> simp_all

/-- A write of HP_CFG by a command that stands for it. -/
theorem hpDoorbell_eq (hn : n < 48) (h : Reaches s req (Reg.hpCfg.addr [n])) (halone : Alone s) (data : Word) :
    hpDoorbell s req n data =
      hpCfgActs (showFec (keepFec (immediate s req Reg.hpCfg [n] data) n (word s Reg.hpCfg [n])) n) n (word s Reg.hpCfg [n])
        (flag data 2) := by
  have htaken : Reg.hpCfg.taken req ≠ 0 := by rw [taken_hpCfg]; decide
  have hserves : serves s (Reg.hpCfg.addr [n]) = true := h.2.2.1
  rw [hpDoorbell, doorbell, accept_of_reaches h, hpCfgWrite, if_pos (hWindow_of_serves hn hserves),
    stage_immediate (hpCfg_immediate hn) halone htaken, hpCfgLanded_eq]

theorem writable_hpCfg (req : Requester) : writable Reg.hpCfg req = 0x719 := by
  have hbase : Reg.hpCfg.base ≠ Reg.irqRoute.base := by decide
  simp only [writable, hbase, false_and, if_false]
  decide

theorem heldAt_hpCfg (w : Word) : Reg.hpCfg.heldAt [n] w = w := heldAt_of_any (by decide) (by decide) w

/-- The state with HP_CFG written and FEC_SEL and FEC_ACT decided. -/
def hpCfgTaken (s : State) (req : Requester) (n : Nat) (data : Word) : State :=
  showFec (keepFec (immediate s req Reg.hpCfg [n] data) n (word s Reg.hpCfg [n])) n

theorem within_hpCfgTaken (s : State) (req : Requester) (n : Nat) (data : Word) :
    Within [.staged, .inForce] [Reg.hpCfg.addr [n], Reg.hpLinkStat.addr [n]] s (hpCfgTaken s req n data) :=
  ((within_immediate s req Reg.hpCfg [n] data).append ((within_keepFec _ n _).append (within_showFec _ n))).mono
    (by decide) (by simp)

/-- A port that has no link gets none by a write of HP_CFG. -/
theorem linkUp_hpCfgTaken (hn : n < 48) (hport : isHPort s n = true) (h : linkUp s n = false) :
    linkUp (hpCfgTaken s req n data) n = false := by
  have hne := (regs_apart_hport n hn).symm
  have himage : (hpCfgTaken s req n data).image = s.image := (within_hpCfgTaken s req n data).1 .image (by decide)
  rw [linkUp_hport hn hport] at h
  rw [linkUp_hport hn ((isHPort_congr himage n).trans hport), hpCfgTaken, rdBit_showFec_low (by decide),
    (within_keepFec _ n _).2.rdBit_eq (by simpa using hne), (within_immediate s req Reg.hpCfg [n] data).2.rdBit_eq
      (by simpa using hne), h]

theorem rdBit_hpCfgTaken (hn : n < 48) {i : Nat} (hi : i = 0 ∨ i = 3 ∨ i = 4) :
    rdBit (hpCfgTaken s req n data) Reg.hpCfg [n] i = flag data i := by
  have hne := regs_apart_hport n hn
  have ht : flag (Reg.hpCfg.taken req) i = true := by rw [taken_hpCfg]; rcases hi with rfl | rfl | rfl <;> decide
  rw [hpCfgTaken, (within_showFec _ n).2.rdBit_eq (by simpa using hne), rdBit_keepFec_low _ _ _ (by omega), rdBit,
    word_immediate_same, flag_inForceBy (by omega) heldAt_hpCfg ht]

theorem fecSet_congr (h : t.image = s.image) (n : Nat) : fecSet t n = fecSet s n := by simp only [fecSet, h]

theorem rd_hpCfgTaken (hn : n < 48) : rd (hpCfgTaken s req n data) Reg.hpCfg [n] 10 8 =
    if bit (fecSet s n) (fld data 10 8) then fld data 10 8 else rd s Reg.hpCfg [n] 10 8 := by
  have hne := regs_apart_hport n hn
  have himage : (immediate s req Reg.hpCfg [n] data).image = s.image := (within_immediate s req Reg.hpCfg [n] data).1 .image (by decide)
  have hfld : rd (immediate s req Reg.hpCfg [n] data) Reg.hpCfg [n] 10 8 = fld data 10 8 := by
    rw [rd, word_immediate_same]
    refine fld_ext fun i hlo hhi => flag_inForceBy (by omega) heldAt_hpCfg ?_
    rw [taken_hpCfg]
    interval_cases i <;> decide
  rw [hpCfgTaken, (within_showFec _ n).2.rd_eq (by simpa using hne), rd_keepFec, hfld, fecSet_congr himage, rd]

theorem fld_stagedWord_hpCfgTaken {hi lo : Nat} (hhi : hi < 32)
    (h : ∀ i, lo ≤ i → i ≤ hi → flag (0x719 : Word) i = true) :
    fld (stagedWord (hpCfgTaken s req n data) Reg.hpCfg [n]) hi lo = fld data hi lo := by
  have hstaged : (hpCfgTaken s req n data).regs.staged = (immediate s req Reg.hpCfg [n] data).regs.staged :=
    ((within_keepFec _ n _).append (within_showFec _ n)).1 .staged (by decide)
  have hword : stagedWord (hpCfgTaken s req n data) Reg.hpCfg [n] = stagedBy s req Reg.hpCfg [n] data := by
    rw [stagedWord, hstaged]
    exact stagedWord_immediate_same
  rw [hword]
  refine fld_ext fun i hlo hi' => flag_stagedBy (by omega) ?_
  rw [writable_hpCfg]
  exact h i hlo hi'

theorem rdBit_hpCfg_acts (hn : n < 48) {i : Nat}
    (h : Within [.inForce, .ports, .out] [Reg.hpLinkStat.addr [n]] (hpCfgTaken s req n data) t) (hi : i = 0 ∨ i = 3 ∨ i = 4) :
    rdBit t Reg.hpCfg [n] i = flag data i :=
  (h.2.rdBit_eq (by simpa using regs_apart_hport n hn)).trans (rdBit_hpCfgTaken hn hi)

theorem fld_staged_acts {hi lo : Nat}
    (h : Within [.inForce, .ports, .out] [Reg.hpLinkStat.addr [n]] (hpCfgTaken s req n data) t) (hhi : hi < 32)
    (hm : ∀ i < 32, lo ≤ i → i ≤ hi → flag (0x719 : Word) i = true) : fld (stagedWord t Reg.hpCfg [n]) hi lo = fld data hi lo := by
  have hstaged : t.regs.staged = (hpCfgTaken s req n data).regs.staged := h.1 .staged (by decide)
  have hword : stagedWord t Reg.hpCfg [n] = stagedWord (hpCfgTaken s req n data) Reg.hpCfg [n] := by
    rw [stagedWord, hstaged]; rfl
  rw [hword, fld_stagedWord_hpCfgTaken hhi fun i hlo hhi' => hm i (by omega) hlo hhi']

theorem flag_staged_acts {i : Nat}
    (h : Within [.inForce, .ports, .out] [Reg.hpLinkStat.addr [n]] (hpCfgTaken s req n data) t) (hi : i < 32)
    (hm : ∀ j < 32, i ≤ j → j ≤ i → flag (0x719 : Word) j = true) : flag (stagedWord t Reg.hpCfg [n]) i = flag data i := by
  rw [flag_eq_fld, flag_eq_fld, fld_staged_acts h hi hm]

/-- What a command that writes HP_CFG does, on a port without a link. -/
theorem does_hpCfg {c : Instr} (hn : n < 48) (h : Reaches s req (Reg.hpCfg.addr [n])) (halone : Alone s)
    (hdown : linkUp s n = false) (hexec : exec c s = done (hpDoorbell s req n data)) {P : State → Prop}
    (hP : ∀ t, Within [.inForce, .ports, .out] [Reg.hpLinkStat.addr [n]] (hpCfgTaken s req n data) t →
      Within [.staged, .inForce, .ports, .out] [Reg.hpCfg.addr [n], Reg.hpLinkStat.addr [n]] s t →
      t = hpCfgActs (hpCfgTaken s req n data) n (word s Reg.hpCfg [n]) (flag data 2) → ∀ i, P { t with irq := i }) :
    Does c s [.staged, .inForce, .ports, .out] P := by
  have hport : isHPort s n = true := by
    have hserves : serves s (Reg.hpCfg.addr [n]) = true := h.2.2.1
    simpa using (Bool.and_eq_true_iff.mp (hWindow_of_serves hn hserves)).2
  have hacts := within_hpCfgActs hn (linkUp_hpCfgTaken (req := req) (data := data) hn hport hdown) (word s Reg.hpCfg [n])
    (flag data 2)
  have hall := ((within_hpCfgTaken s req n data).append hacts).mono
    (qs := [.staged, .inForce, .ports, .out]) (m := [Reg.hpCfg.addr [n], Reg.hpLinkStat.addr [n]]) (by decide) (by simp)
  rw [hpDoorbell_eq hn h halone] at hexec
  exact does_of_any hexec hall.1 (hP _ hacts hall rfl)

end

/-- Settles O11: the write lands (`hpDoorbell_eq`), FEC_SEL and FEC_ACT are decided (`hpCfgTaken`), and what follows leaves
HP_CFG as it was then. -/
theorem portConfigurationLands : Obligations.PortConfigurationLands := by
  refine ⟨?enable, ?fec, ?restart⟩
  case enable =>
    intro s req n en h halone hdown
    have hdata : flag (setFld (stagedWord s Reg.hpCfg [n]) 0 0 (bnat en)) 0 = en := flag_setFld_same (by decide)
    refine does_hpCfg n.isLt h halone hdown rfl fun t hacts hall _ i => ⟨?_, ?_, hall.2⟩
    · exact (rdBit_hpCfg_acts n.isLt hacts (.inl rfl)).trans hdata
    · exact (flag_staged_acts hacts (by decide) (by decide)).trans hdata
  case fec =>
    intro s req n code h halone hdown
    have hdata : fld (setFld (stagedWord s Reg.hpCfg [n]) 10 8 code.toNat) 10 8 = code.toNat := by
      rw [fld_setFld_same (by decide) (by decide)]
      exact Nat.mod_eq_of_lt code.isLt
    refine does_hpCfg n.isLt h halone hdown rfl fun t hacts hall _ i => ⟨?_, ?_, hall.2⟩
    · exact (fld_staged_acts hacts (by decide) (by decide)).trans hdata
    · have hrd := (hacts.2.rd_eq (hi := 10) (lo := 8) (by simpa using regs_apart_hport n n.isLt)).trans (rd_hpCfgTaken n.isLt)
      rw [hdata] at hrd
      exact hrd
  case restart =>
    intro s n h halone hdown hen
    have hdata : flag (setFld (stagedWord s Reg.hpCfg [n]) 2 2 1) 2 = true := flag_setFld_same (b := true) (by decide)
    have hdata0 : flag (setFld (stagedWord s Reg.hpCfg [n]) 2 2 1) 0 = true := by
      rw [flag_setFld_below (by decide) (by decide) (by decide), hen]
    have hport : isHPort s n = true := (Bool.and_eq_true_iff.mp (hWindow_of_serves n.isLt h.2.2.1)).2
    refine does_hpCfg n.isLt h halone hdown rfl fun t hacts hall ht i => ?_
    set v := hpCfgTaken s .host n (setFld (stagedWord s Reg.hpCfg [n]) 2 2 1)
    have hbit : rdBit v Reg.hpCfg [n] 0 = true := (rdBit_hpCfgTaken n.isLt (.inl rfl)).trans hdata0
    have hport' : isHPort v n = true := (isHPort_congr ((within_hpCfgTaken _ _ _ _).1 .image (by decide)) n).trans hport
    have hdown' : linkUp v n = false := linkUp_hpCfgTaken n.isLt hport hdown
    have hen' : portEn v n = true := by rw [portEn, if_pos n.isLt, hport', hbit, Bool.and_true]
    rw [hdata, hpCfgActs_restart hen' hbit] at ht
    subst ht
    obtain ⟨hfec, hmatch⟩ := negotiated_linkLost_hport n.isLt hdown'
    exact ⟨rd_linkLost_hport n.isLt hdown', hfec, hmatch, hall.2⟩

end Sys2Proof.Machine

/-! PROOFS. Copper lines (R97 to R103): energy-efficient Ethernet, carrier, collisions and back-off. -/
namespace Sys2Proof.Machine

/-- The effect of a command read off the state that its meaning hands to `done`: of the arming of vectors nothing is said, so
that what holds of a state holds of it however they are armed. -/
theorem doesFrom_of_all {b s u : State} {ps : List Part} {c : Instr} {P : State → Prop} (h : exec c s = done u)
    (f : OnlyChanges ps b u) (p : P u) (any : ∀ v i, P v → P { v with irq := i }) : DoesFrom b c s ps P :=
  doesFrom_of_any h f fun i => any u i p

theorem does_of_all {s u : State} {ps : List Part} {c : Instr} {P : State → Prop} (h : exec c s = done u)
    (f : OnlyChanges ps s u) (p : P u) (any : ∀ v i, P v → P { v with irq := i }) : Does c s ps P :=
  doesFrom_of_all h f p any

section
variable {s now : State} {c : Fin 32} {el n p : Nat}

/-! ### Counters of a copper port -/

theorem countPort_copper (s : State) (c : Fin 32) (i n : Nat) :
    countPort s (48 + c) i n = bump s Ctr.cport [c] i n := by
  have h1 : ¬ (48 + c.val < 48 ∧ portGroup s (48 + c) ≠ none) := fun h => by omega
  have h2 : ¬ 48 + c.val < 48 := by omega
  have h3 : 48 + c.val < 80 := by omega
  rw [countPort, if_neg h1, if_neg h2, if_pos h3, Nat.add_sub_cancel_left]

theorem within_countPort (s : State) (p i n : Nat) : Within [.counters] [] s (countPort s p i n) := by
  unfold countPort
  refine Within.ite (.refl _ _ s) (Within.ite (within_bump _ _ _ _ _) ?_)
  exact Within.orNot (within_bump _ _ _ _ _)

theorem ctr_countPort_copper (s : State) (c : Fin 32) {i : Nat} (hi : Ctr.cport.widths.getD i 0 = 40) (n : Nat) :
    ctr (countPort s (48 + c) i n) Ctr.cport [c] i = (ctr s Ctr.cport [c] i + n) % 2 ^ 40 := by
  rw [countPort_copper, ctr_bump_same, hi]

theorem ctr_putPort (s : State) (p : Nat) (x : Port) (g : CtrGroup) (ix : List Nat) (i : Nat) :
    ctr (putPort s p x) g ix i = ctr s g ix i := rfl

theorem ctr_wrBit (s : State) (r : RegRow) (jx : List Nat) (j : Nat) (b : Bool) (g : CtrGroup) (ix : List Nat) (i : Nat) :
    ctr (wrBit s r jx j b) g ix i = ctr s g ix i := rfl

/-! ### Low-power idle -/

/-- Copper port `c` with its transmitter in LPI. -/
def inLpi (s : State) (c : Fin 32) : State :=
  let u := wrBit (countPort s (48 + c) 45 1) Reg.cpLinkStat [c] 12 true
  putPort u (48 + c) { port u (48 + c) with lpiSince := some u.time.dt }

theorem within_inLpi (s : State) (c : Fin 32) :
    Within [.inForce, .counters, .ports] [Reg.cpLinkStat.addr [c]] s (inLpi s c) :=
  (((within_countPort s _ _ _).append (within_wrBit _ _ _ _ _)).append (within_of_port _ _ _)).mono (by decide) (by simp)

theorem rdBit_inLpi (s : State) (c : Fin 32) : rdBit (inLpi s c) Reg.cpLinkStat [c] 12 = true :=
  ((within_of_port _ _ _).2.rdBit_eq (by simp)).trans (rdBit_wrBit_same (by decide))

theorem port_inLpi (s : State) (c : Fin 32) : (port (inLpi s c) (48 + c)).lpiSince = some s.time.dt := by
  have hdt : (wrBit (countPort s (48 + c) 45 1) Reg.cpLinkStat [c] 12 true).time.dt = s.time.dt :=
    (((within_countPort s _ _ _).append (within_wrBit _ _ _ _ _)).1 .clock (by decide)).1
  rw [inLpi, port_putPort_same, hdt]

theorem ctr_inLpi (s : State) (c : Fin 32) :
    ctr (inLpi s c) Ctr.cport [c] 45 = (ctr s Ctr.cport [c] 45 + 1) % 2 ^ 40 := by
  rw [inLpi, ctr_putPort, ctr_wrBit, ctr_countPort_copper s c rfl]

/-- The partner's LPI as port `c` shows it. -/
def partnerLpi (s : State) (c : Fin 32) (enter : Bool) : State :=
  wrBit (if enter && !rdBit s Reg.cpLinkStat [c] 13 then countPort s (48 + c) 46 1 else s) Reg.cpLinkStat [c] 13 enter

theorem within_partnerLpi (s : State) (c : Fin 32) (enter : Bool) :
    Within [.inForce, .counters] [Reg.cpLinkStat.addr [c]] s (partnerLpi s c enter) :=
  ((Within.orNot (within_countPort s _ _ _)).append (within_wrBit _ _ _ _ _)).mono (by decide) (by simp)

theorem ctr_partnerLpi (s : State) (c : Fin 32) (enter : Bool) : ctr (partnerLpi s c enter) Ctr.cport [c] 46 =
    if enter && !rdBit s Reg.cpLinkStat [c] 13 then (ctr s Ctr.cport [c] 46 + 1) % 2 ^ 40 else ctr s Ctr.cport [c] 46 := by
  rw [partnerLpi, ctr_wrBit]
  split
  · exact ctr_countPort_copper s c rfl 1
  · rfl

/-! ### Carrier -/

/-- Carrier as copper port `p` takes it. -/
def carrierTaken (s : State) (p : Nat) (on : Bool) : State :=
  putPort s p { port s p with carrier := on, carrierErr := (port s p).carrierErr || (!on && attempting s p) }

theorem within_carrierTaken (s : State) (p : Nat) (on : Bool) : Within [.ports] [] s (carrierTaken s p on) :=
  within_of_port s p _

theorem execCarrierSense_eq {on : Bool} (hup : linkUp s (48 + c) = true) (hhalf : halfDuplex s (48 + c) = true)
    (hon : offline s = false) : ∃ t, execCarrierSense c on s = done t ∧
      Within [.counters] [] (carrierTaken s (48 + c) on) t := by
  refine ⟨_, by simp only [execCarrierSense, hup, hhalf, hon, Bool.not_false, Bool.and_true, if_true]; rfl, ?_⟩
  refine Within.trans (t := if on && !(port s (48 + c)).carrier && (port s (48 + c)).backPressure then
    countPort (carrierTaken s (48 + c) on) (48 + c) 44 1 else carrierTaken s (48 + c) on) ?_ ?_
  · exact Within.orNot (within_countPort _ _ _ _)
  · exact Within.orNot (within_countPort _ _ _ _)

/-! ### Collisions and back-off -/

theorem within_draw (s : State) (k : Nat) : Within [.draws] [] s (draw s k).1 := by
  refine OnlyChanges.within (fun q hq => ?_) (by decide)
  cases q <;> simp_all [Part.same, draw]

/-- Copper port `c` backing off after its next collision. -/
def backedOff (s : State) (c : Fin 32) : State :=
  let x := port s (48 + c)
  let wait := bitTicks s (48 + c) (32 + 512 * ((draw s c).2 % 2 ^ min (x.collisions + 1) 10))
  putPort (draw s c).1 (48 + c) { x with collisions := x.collisions + 1, backingOff := some (s.time.dt + wait) }

theorem within_backedOff (s : State) (c : Fin 32) : Within [.ports, .draws] [] s (backedOff s c) :=
  ((within_draw s c).append (within_of_port _ _ _)).mono (by decide) (by simp)

theorem execCollision_early (hnow : now = advance el s) (ha : attempting now (48 + c) = true)
    (hh : halfDuplex now (48 + c) = true) (hon : offline now = false) (hn : n ≤ 512)
    (hk : (port now (48 + c)).collisions < 15) : execCollision c el n s = done (backedOff now c) := by
  have hfew : ¬ 16 ≤ (port now (48 + c)).collisions + 1 := by omega
  simp only [execCollision, ← hnow, hh, ha, hon, Bool.not_false, Bool.and_true, if_true, if_neg (Nat.not_lt.mpr hn),
    if_neg hfew]
  rfl

/-- Copper port `c` with what it transmitted, which was no queued copy, discarded. -/
def discarded (s : State) (c : Fin 32) : State :=
  countPort (putPort s (48 + c) { port s (48 + c) with ownNow := none, collisions := 0, backingOff := none, wakeAt := s.time.dt + bitTicks s (48 + c) 128 }) (48 + c) 37 1

theorem within_discarded (s : State) (c : Fin 32) : Within [.ports, .counters] [] s (discarded s c) :=
  (within_of_port s _ _).append (within_countPort _ _ _ _)

theorem port_discarded (s : State) (c : Fin 32) :
    (port (discarded s c) (48 + c)).ownNow = none ∧ (port (discarded s c) (48 + c)).collisions = 0 := by
  have hports := (within_countPort (putPort s (48 + c) { port s (48 + c) with ownNow := none, collisions := 0, backingOff := none, wakeAt := s.time.dt + bitTicks s (48 + c) 128 }) (48 + c) 37 1).1 .ports (by decide)
  have hport := congrArg (fun l => get Port.idle l (48 + c.val)) hports
  have hsame := hport.trans (port_putPort_same s (48 + c) _)
  exact ⟨congrArg Port.ownNow hsame, congrArg Port.collisions hsame⟩

theorem execCollision_late (hnow : now = advance el s) (hs : find now.sched.sending (48 + c) = none)
    (ha : attempting now (48 + c) = true) (hh : halfDuplex now (48 + c) = true) (hon : offline now = false) (hn : 512 < n) :
    execCollision c el n s = done (discarded now c) := by
  simp only [execCollision, ← hnow, hh, ha, hon, Bool.not_false, Bool.and_true, if_true, if_pos hn, discardSending, hs]
  rfl

/-- The copy `y` that port `p` sends, begun again. -/
def resent (s : State) (p : Nat) (y : Sending) : State :=
  let y := { y with startedAt := s.time.dt, stamp := egressStamp s p }
  { s with sched := { s.sched with sending := put s.sched.sending p y } }

theorem retry_eq {y : Sending} (h : find s.sched.sending p = some y) : ∃ x, retry s p = putPort (resent s p y) p x ∧
    x.backingOff = none := by
  refine ⟨_, by simp only [retry, h]; rfl, rfl⟩

theorem within_resent (s : State) (p : Nat) (y : Sending) : Within [.sched] [] s (resent s p y) := within_of_sched s _

end

/-- Settles O14: each command that its conditions let act takes one step of its port (`inLpi`, `partnerLpi`, `carrierTaken`,
`backedOff`, `resent`, `discarded`). -/
theorem copperLinesShareAndSleep : Obligations.CopperLinesShareAndSleep := by
  refine ⟨?lpiTx, ?lpiRx, ?carrier, ?collision, ?backoff, ?late⟩
  case lpiTx =>
    intro s c el now hnow hup heee hlpi hidle hgate hparent hquiet
    have hexec : exec (.lpiEntry c el) s = done (inLpi now c) := by
      show execLpiEntry c el s = _
      simp only [execLpiEntry, ← hnow, hup, heee, hlpi, hidle, hgate, hparent, hquiet, Option.isNone_none, Bool.not_false,
        decide_true, Bool.and_self, if_true]
      rfl
    exact doesFrom_of_all hexec (within_inLpi now c).1
      ⟨port_inLpi now c, rdBit_inLpi now c, ctr_inLpi now c, (within_inLpi now c).2⟩ fun _ _ h => h
  case lpiRx =>
    intro s c enter hup hon
    have hexec : exec (.lpiRx c enter) s = done (partnerLpi s c enter) := by
      show execLpiRx c enter s = _
      simp only [execLpiRx, hup, hon, Bool.not_false, Bool.and_self, if_true]
      rfl
    exact does_of_all hexec (within_partnerLpi s c enter).1
      ⟨rdBit_wrBit_same (by decide), (within_partnerLpi s c enter).2, ctr_partnerLpi s c enter⟩ fun _ _ h => h
  case carrier =>
    intro s c on hup hhalf hon
    obtain ⟨t, hexec, ht⟩ := execCarrierSense_eq (on := on) hup hhalf hon
    have hport (q : Nat) : port t q = port (carrierTaken s (48 + c) on) q :=
      congrArg (fun l => get Port.idle l q) (ht.1 .ports (by decide))
    have hcarrier : (port t (48 + c)).carrier = on := by rw [hport, carrierTaken, port_putPort_same]
    have hother (q : Nat) (hq : q ≠ 48 + c.val) : port t q = port s q := by rw [hport, carrierTaken, port_putPort_other hq]
    exact does_of_all hexec (((within_carrierTaken s (48 + c) on).append ht).1.mono (by decide)) ⟨hcarrier, hother⟩
      fun _ _ h => h
  case collision =>
    intro s c el n now hnow ha hh hon hn hk
    have hport : port (backedOff now c) (48 + c) = _ := port_putPort_same (draw now c).1 (48 + c) _
    have hother (q : Nat) (hq : q ≠ 48 + c.val) : port (backedOff now c) q = port now q := port_putPort_other hq (draw now c).1 _
    exact doesFrom_of_all (execCollision_early hnow ha hh hon hn hk) (within_backedOff now c).1
      ⟨congrArg Port.collisions hport,
        ⟨_, Nat.mod_lt (draw now c).2 (Nat.two_pow_pos _), congrArg Port.backingOff hport⟩, hother⟩ fun _ _ h => h
  case backoff =>
    intro s c el y e now hnow hy he hle hcarrier
    obtain ⟨x, hretry, hx⟩ := retry_eq hy
    have hexec : exec (.backoffExpiry c el) s = done (putPort (resent now (48 + c) y) (48 + c) x) := by
      show execBackoffExpiry c el s = _
      simp only [execBackoffExpiry, ← hnow, he, hcarrier, Option.any_some, hle, decide_true, Bool.not_false, Bool.and_self,
        if_true, hretry]
    have hport : port (putPort (resent now (48 + c) y) (48 + c) x) (48 + c) = x := port_putPort_same _ _ x
    exact doesFrom_of_all hexec (((within_resent now (48 + c) y).append (within_of_port _ _ x)).1.mono (by decide))
      ⟨(congrArg Port.backingOff hport).trans hx, find_put_same⟩ fun _ _ h => h
  case late =>
    intro s c el n now hnow hs ha hh hon hn
    obtain ⟨hown, hcollisions⟩ := port_discarded now c
    exact doesFrom_of_all (execCollision_late hnow hs ha hh hon hn) (within_discarded now c).1
      ⟨hown, hcollisions, ctr_countPort_copper _ c rfl 1⟩ fun _ _ h => h

end Sys2Proof.Machine

/-! PROOFS. Modules (R81 to R85): the state of a master, the ports that it holds down, and its mailbox. -/
namespace Sys2Proof.Machine

section
variable {s t : State} {k n v : Nat}

/-! ### The state of a master -/

theorem within_of_module (s : State) (k : Nat) (m : Module) : Within [.modules] [] s (putModule s k m) :=
  (onlyChanges_putModule s k m).within (by decide)

theorem modul_putModule_same (s : State) (k : Nat) (m : Module) : modul (putModule s k m) k = m := get_set_same

theorem within_setModState (s : State) (k v : Nat) :
    Within [.modules, .inForce] [Reg.hpModStat.addr [4 * k]] s (setModState s k v) :=
  (within_of_module s k _).append (within_wr _ _ _ _ _ _)

theorem modState_setModState (s : State) (k : Nat) (hv : v < 8) : modState (setModState s k v) k = v :=
  (rd_wr_same (by decide) (by decide)).trans (Nat.mod_eq_of_lt hv)

theorem rd_setModState_above (s : State) (k v : Nat) {hi lo : Nat} (hl : 3 ≤ lo) :
    rd (setModState s k v) Reg.hpModStat [4 * k] hi lo = rd s Reg.hpModStat [4 * k] hi lo := by
  rw [rd, setModState, word_wr_same, fld_setFld_above (by decide) (by decide) (by omega)]
  rfl

theorem modul_setModState (s : State) (k v : Nat) :
    modul (setModState s k v) k = { modul s k with since := s.time.dt } := modul_putModule_same s k _

/-! ### Which ports a master holds -/

/-- The words of LINK_STAT of the H-ports. -/
def hLinkStats : List Nat := (List.range 48).map fun n => Reg.hpLinkStat.addr [n]

theorem mem_hLinkStats (hn : n < 48) : Reg.hpLinkStat.addr [n] ∈ hLinkStats :=
  List.mem_map_of_mem (List.mem_range.mpr hn)

theorem modRegs_apart : ∀ k < 12, Reg.hpModCfg.addr [4 * k] ∉ hLinkStats ∧ Reg.hpModStat.addr [4 * k] ∉ hLinkStats := by
  decide +kernel

theorem modCfg_ne_modStat : ∀ j < 12, ∀ k < 12, Reg.hpModCfg.addr [4 * j] ≠ Reg.hpModStat.addr [4 * k] := by decide +kernel

theorem linkStat_ne_modStat : ∀ n < 48, ∀ k < 12, Reg.hpLinkStat.addr [n] ≠ Reg.hpModStat.addr [4 * k] := by decide +kernel

/-- The master that serves a lane depends on HP_MOD_CFG alone. -/
theorem masterOf_congr (h : ∀ k < 12, word t Reg.hpModCfg [4 * k] = word s Reg.hpModCfg [4 * k]) (n : Nat) :
    masterOf t n = masterOf s n := by
  refine List.find?_congr fun k hk => ?_
  have hk : k < 12 := List.mem_range.mp hk
  simp only [rd, h k hk]
  rfl

theorem mem_servedPorts : n ∈ servedPorts s k ↔ n < 48 ∧ masterOf s n = some k ∧ isHPort s n = true := by
  simp [servedPorts]

/-- A port is held down exactly while the master that serves it holds its ports. -/
theorem moduleHeld_of_served (hn : n < 48) (h : masterOf s n = some k) : moduleHeld s n = moduleHolds s k := by
  simp [moduleHeld, hn, h]

/-! ### Links lost while a master holds them -/

/-- `t` is as `s` but in the ports' working state and in LINK_STAT, and no link has come up. -/
def LinksLost (s t : State) : Prop :=
  Within [.inForce, .ports] hLinkStats s t ∧
    ∀ n < 48, rdBit s Reg.hpLinkStat [n] 0 = false → rdBit t Reg.hpLinkStat [n] 0 = false

theorem LinksLost.refl (s : State) : LinksLost s s := ⟨.refl _ _ s, fun _ _ h => h⟩

theorem LinksLost.trans {u : State} (h : LinksLost s t) (h' : LinksLost t u) : LinksLost s u :=
  ⟨h.1.trans h'.1, fun n hn hs => h'.2 n hn (h.2 n hn hs)⟩

theorem LinksLost.masterOf (h : LinksLost s t) (n : Nat) : masterOf t n = masterOf s n :=
  masterOf_congr (fun k hk => h.1.2.word_eq (modRegs_apart k hk).1) n

theorem LinksLost.modul (h : LinksLost s t) (k : Nat) : modul t k = modul s k :=
  congrArg (fun l => get Module.empty l k) (h.1.1 .modules (by decide))

theorem LinksLost.modState (h : LinksLost s t) (hk : k < 12) : modState t k = modState s k :=
  h.1.2.rd_eq (modRegs_apart k hk).2

theorem LinksLost.moduleHolds (h : LinksLost s t) (hk : k < 12) : moduleHolds t k = moduleHolds s k := by
  rw [Machine.moduleHolds, Machine.moduleHolds, h.modState hk, h.modul]

theorem LinksLost.isHPort (h : LinksLost s t) (n : Nat) : isHPort t n = isHPort s n :=
  isHPort_congr (h.1.1 .image (by decide)) n

/-- A held port begins no link. -/
theorem beginLink_of_held (h : moduleHeld s n = true) : beginLink s n = s := by
  have hheld : released s n = false := by simp [released, h]
  simp [beginLink, hheld]

theorem linksLost_unlocked (hn : n < 48) (s : State) : LinksLost s (showFec (unlocked s n) n) := by
  refine ⟨((within_unlocked s n).append (within_showFec _ n)).mono (by decide)
    (by simpa using mem_hLinkStats hn), fun m hm h => ?_⟩
  by_cases hmn : m = n
  · subst hmn
    have hrd : rd (unlocked s m) Reg.hpLinkStat [m] 3 0 = 0 := (rd_wr_same (by decide) (by decide)).trans (Nat.zero_mod _)
    rw [rdBit_showFec_low (by decide)]
    exact flag_of_fld_zero hrd (by decide) (by decide)
  · have hne : Reg.hpLinkStat.addr [m] ≠ Reg.hpLinkStat.addr [n] := by
      simp only [RegRow.addr, Reg.hpLinkStat, offsetOf]; omega
    exact (((within_unlocked s n).append (within_showFec _ n)).2.rdBit_eq (by simpa using hne)).trans h

/-- A port that its module holds loses its lock and its negotiation, and begins no link. -/
theorem linksLost_linkLost (hn : n < 48) (hk : k < 12) (hport : isHPort s n = true) (hserved : masterOf s n = some k)
    (hholds : moduleHolds s k = true) (hdown : rdBit s Reg.hpLinkStat [n] 0 = false) : LinksLost s (linkLost s n) := by
  have hlost := linksLost_unlocked hn s
  have hheld : moduleHeld (showFec (unlocked s n) n) n = true := by
    rw [moduleHeld_of_served hn ((hlost.masterOf n).trans hserved), hlost.moduleHolds hk, hholds]
  rw [linkLost_hport hn (by rw [linkUp_hport hn hport, hdown]), beginLink_of_held hheld]
  exact hlost

/-- The ports that a master serves lose their links where none is up and the master holds them. -/
theorem linksLost_holdServed (hk : k < 12) (hholds : moduleHolds s k = true)
    (hdown : ∀ n < 48, isHPort s n = true → rdBit s Reg.hpLinkStat [n] 0 = false) : LinksLost s (holdServed s k) := by
  refine List.foldlRecOn (motive := LinksLost s) _ linkLost (.refl s) fun t ht n hn => ?_
  obtain ⟨hn, hserved, hport⟩ := mem_servedPorts.mp hn
  exact ht.trans (linksLost_linkLost hn hk ((ht.isHPort n).trans hport) ((ht.masterOf n).trans hserved)
    ((ht.moduleHolds hk).trans hholds) (ht.2 n hn (hdown n hn hport)))

/-! ### Presence -/

theorem within_seePresence (s : State) (k : Nat) (b : Bool) :
    Within [.modules, .inForce] [Reg.hpModStat.addr [4 * k]] s (seePresence s k b) := by
  have hput : Within [.modules, .inForce] [Reg.hpModStat.addr [4 * k]] s (putModule s k { modul s k with present := b }) :=
    (within_of_module s k _).mono (by decide) (by simp)
  have hset (v : Nat) (t : State) : Within [.modules, .inForce] [Reg.hpModStat.addr [4 * k]] t (setModState t k v) :=
    within_setModState t k v
  unfold seePresence
  exact Within.ite (hput.trans (hset 1 _)) (Within.ite (hput.trans (hset 0 _)) hput)

/-- A new module starts step 1, and one that goes before it has been acted on leaves EMPTY (Table 3-5). -/
theorem seePresence_acts {b : Bool} (h : modState s k = if b then 0 else 1) :
    modState (seePresence s k b) k = (if b then 1 else 0) ∧
      modul (seePresence s k b) k = { modul s k with present := b, since := s.time.dt } := by
  have hput : Within [.modules] [] s (putModule s k { modul s k with present := b }) := within_of_module s k _
  have hstate : modState (putModule s k { modul s k with present := b }) k = modState s k := hput.2.rd_eq (by simp)
  have hmodul (v : Nat) : modul (setModState (putModule s k { modul s k with present := b }) k v) k =
      { modul s k with present := b, since := s.time.dt } := by rw [modul_setModState, modul_putModule_same]; rfl
  have hsee : seePresence s k b = setModState (putModule s k { modul s k with present := b }) k (if b then 1 else 0) := by
    cases b <;> simp [seePresence, hstate, h]
  rw [hsee]
  exact ⟨modState_setModState _ k (by cases b <;> decide), hmodul _⟩

/-! ### Steps that hold the ports -/

theorem masterOf_setModState (hk : k < 12) (s : State) (v n : Nat) : masterOf (setModState s k v) n = masterOf s n :=
  masterOf_congr (fun j hj => (within_setModState s k v).2.word_eq (by simpa using modCfg_ne_modStat j hj k hk)) n

theorem isHPort_setModState (s : State) (k v n : Nat) : isHPort (setModState s k v) n = isHPort s n :=
  isHPort_congr ((within_setModState s k v).1 .image (by decide)) n

theorem moduleHolds_of_state (h : modState s k = v) (h2 : 2 ≤ v) : moduleHolds s k = (v != 4) := by
  rw [moduleHolds, h, if_neg (by omega)]

theorem noLink_of_down (h : ∀ n < 48, linkUp s n = false) (n : Nat) (hn : n < 48) (hport : isHPort s n = true) :
    rdBit s Reg.hpLinkStat [n] 0 = false := linkUp_hport hn hport ▸ h n hn

/-- What a step to a state that holds the ports down leaves. -/
theorem holdStep_spec (hk : k < 12) (h2 : 2 ≤ v) (h4 : v ≠ 4) (h8 : v < 8) (hdown : ∀ n < 48, linkUp s n = false) :
    OnlyChanges [.inForce, .ports, .modules] s (holdStep s k v) ∧ modState (holdStep s k v) k = v ∧
      modul (holdStep s k v) k = { modul s k with since := s.time.dt } ∧
      ∀ n ∈ servedPorts s k, moduleHeld (holdStep s k v) n = true := by
  have hstate := modState_setModState s k h8
  have hset := within_setModState s k v
  have hholds : moduleHolds (setModState s k v) k = true := by rw [moduleHolds_of_state hstate h2]; simpa using h4
  have hlost : LinksLost (setModState s k v) (holdStep s k v) := linksLost_holdServed hk hholds fun n hn hport =>
    (hset.2.rdBit_eq (by simpa using linkStat_ne_modStat n hn k hk)).trans
      (noLink_of_down hdown n hn ((isHPort_setModState s k v n).symm.trans hport))
  refine ⟨(hset.append hlost.1).1.mono (by decide), (hlost.modState hk).trans hstate,
    (hlost.modul k).trans (modul_setModState s k v), fun n hn => ?_⟩
  obtain ⟨hn, hserved, -⟩ := mem_servedPorts.mp hn
  rw [moduleHeld_of_served hn ((hlost.masterOf n).trans ((masterOf_setModState hk s v n).trans hserved)),
    hlost.moduleHolds hk, hholds]

/-- A module that is READY: the ports that have no link acquire one. -/
theorem moduleReady_spec (hk : k < 12) : OnlyChanges [.inForce, .ports, .modules, .out] s (moduleReady s k) ∧
    modState (moduleReady s k) k = 4 ∧ ∀ n ∈ servedPorts s k, moduleHeld (moduleReady s k) n = false := by
  set u := putModule (setModState s k 4) k { modul (setModState s k 4) k with removed := false, monitorAt := s.time.dt } with hu
  have hput : Within [.modules] [] (setModState s k 4) u := within_of_module _ k _
  have hset := within_setModState s k 4
  have hbegin : Within [.ports, .out] [] u (moduleReady s k) := Within.foldl (fun t n => within_beginLink t n) _ u
  have hall := (hset.append (hput.append hbegin)).mono (qs := [.inForce, .ports, .modules, .out])
    (m := [Reg.hpModStat.addr [4 * k]]) (by decide) (by simp)
  have hstate : modState (moduleReady s k) k = 4 :=
    ((hput.append hbegin).2.rd_eq (by simp)).trans (modState_setModState s k (by decide))
  refine ⟨hall.1, hstate, fun n hn => ?_⟩
  obtain ⟨hn, hserved, -⟩ := mem_servedPorts.mp hn
  have hmaster : masterOf (moduleReady s k) n = some k :=
    (masterOf_congr (fun j hj => hall.2.word_eq (by simpa using modCfg_ne_modStat j hj k hk)) n).trans hserved
  rw [moduleHeld_of_served hn hmaster, moduleHolds_of_state hstate (by decide)]
  rfl

/-- Master `k` without its module. -/
def emptied (s : State) (k : Nat) : State :=
  putWord (putModule s k { modul s k with monitor := [], removed := true }) Reg.hpModStat [4 * k] 0

/-- A module that is removed: its ports go down and its monitoring values are gone. -/
theorem removed_spec (hk : k < 12) (hdown : ∀ n < 48, linkUp s n = false) :
    OnlyChanges [.inForce, .ports, .modules] s (holdServed (emptied s k) k) ∧
      word (holdServed (emptied s k) k) Reg.hpModStat [4 * k] = 0 ∧ (modul (holdServed (emptied s k) k) k).monitor = [] ∧
      ∀ n ∈ servedPorts s k, moduleHeld (holdServed (emptied s k) k) n = true := by
  set u := emptied s k
  have hword : word u Reg.hpModStat [4 * k] = 0 := word_putWord_same
  have hmodul : modul u k = { modul s k with monitor := [], removed := true } := modul_putModule_same s k _
  have hset : Within [.modules, .inForce] [Reg.hpModStat.addr [4 * k]] s u :=
    (within_of_module s k _).append (within_putWord _ _ _ _)
  have hport (n : Nat) : isHPort u n = isHPort s n := isHPort_congr (hset.1 .image (by decide)) n
  have hstate : modState u k = 0 := by rw [modState, rd, hword]; rfl
  have hholds : moduleHolds u k = true := by rw [moduleHolds, hstate, if_pos (by decide), hmodul]
  have hlost : LinksLost u (holdServed u k) := linksLost_holdServed hk hholds fun n hn hp =>
    (hset.2.rdBit_eq (by simpa using linkStat_ne_modStat n hn k hk)).trans
      (noLink_of_down hdown n hn ((hport n).symm.trans hp))
  refine ⟨(hset.append hlost.1).1.mono (by decide), (hlost.1.2.word_eq (modRegs_apart k hk).2).trans hword,
    congrArg Module.monitor ((hlost.modul k).trans hmodul), fun n hn => ?_⟩
  obtain ⟨hn, hserved, -⟩ := mem_servedPorts.mp hn
  have hmaster : masterOf u n = some k :=
    (masterOf_congr (fun j hj => hset.2.word_eq (by simpa using modCfg_ne_modStat j hj k hk)) n).trans hserved
  rw [moduleHeld_of_served hn ((hlost.masterOf n).trans hmaster), hlost.moduleHolds hk, hholds]

/-! ### The mailbox -/

variable {req : Requester} {data : Word}

theorem hpModXfer_row : ∀ k < 12, rowAt (Reg.hpModXfer.addr [4 * k]) = some (Reg.hpModXfer, [4 * k]) ∧
    Reg.hpModXfer.addr [4 * k] ≠ Reg.twinStat.addr [] ∧
    Reg.hpModXfer.addr [4 * k] ≠ Reg.hpModXferStat.addr [4 * k] := by decide +kernel

theorem hpModData_ne_xfer (k i : Nat) : Reg.hpModData.addr [4 * k, i] ≠ Reg.hpModXfer.addr [4 * k] := by
  simp only [RegRow.addr, Reg.hpModData, Reg.hpModXfer, offsetOf]; omega

theorem hpModXfer_immediate (hk : k < 12) : Reg.hpModXfer.Immediate [4 * k] where
  row := (hpModXfer_row k hk).1
  ms := by decide
  frm := by decide
  pkt := by decide
  lawful _ := rfl
  apart := (hpModXfer_row k hk).2.1

theorem writable_hpModXfer (req : Requester) : writable Reg.hpModXfer req = 0x7FFFFFFF := by
  have hbase : Reg.hpModXfer.base ≠ Reg.irqRoute.base := by decide
  simp only [writable, hbase, false_and, if_false]
  decide

theorem taken_hpModXfer (req : Requester) : Reg.hpModXfer.taken req = 0x7FFFFFFF := by
  rw [RegRow.taken, writable_hpModXfer]
  decide

theorem blend_blend (m a b c : Word) : blend m a (blend m b c) = blend m a c := by
  ext i hi
  simp only [blend, BitVec.getElem_or, BitVec.getElem_and, BitVec.getElem_not]
  cases m[i] <;> simp

/-- GO is no bit that a transfer's word keeps. -/
theorem blend_setFld_go (a : Word) : blend 0x7FFFFFFF a (setFld data 31 31 1) = blend 0x7FFFFFFF a data := by
  refine BitVec.eq_of_getLsbD_eq fun i hi => ?_
  show flag _ i = flag _ i
  rw [flag_blend hi, flag_blend hi]
  by_cases h31 : i = 31
  · subst h31
    rw [if_neg (show ¬ flag (0x7FFFFFFF : Word) 31 = true by decide), if_neg (show ¬ flag (0x7FFFFFFF : Word) 31 = true by decide)]
  · rw [flag_setFld_other (by decide) h31]

/-- The word that a write of HP_MOD_XFER leaves in force. -/
theorem inForceBy_hpModXfer : inForceBy s req Reg.hpModXfer [4 * k] (setFld data 31 31 1) =
    blend 0x7FFFFFFF (word s Reg.hpModXfer [4 * k]) data := by
  rw [inForceBy, heldAt_of_any (by decide) (by decide), stagedBy, taken_hpModXfer, writable_hpModXfer, blend_blend,
    blend_setFld_go]

/-- A register outside GLB, IRQ and IMG answers only where the windows are open (R471). -/
theorem windowsOpen_of_serves {a base : Nat} (ha : a < 0x1000000) (hblock : ((blockOf a).map fun x => x.1.base) = some base)
    (hbase : base ≠ 0 ∧ base ≠ 0x10000 ∧ base ≠ 0xF40000) (h : serves s a = true) : windowsOpen s = true := by
  obtain ⟨⟨b, i, o⟩, hb, rfl⟩ := Option.map_eq_some_iff.mp hblock
  obtain ⟨h0, h1, h2⟩ := hbase
  simp only [serves, if_neg (Nat.not_le.mpr ha), hb, h0, h1, h2, or_self, if_false] at h
  cases hopen : windowsOpen s
  · simp [hopen] at h
  · rfl

theorem hpModXfer_block : ∀ k < 12, Reg.hpModXfer.addr [4 * k] < 0x1000000 ∧
    ((blockOf (Reg.hpModXfer.addr [4 * k])).map fun x => x.1.base) = some 0x100000 := by decide +kernel

/-- A transfer that is queued, as it leaves. -/
def queued (s : State) (k : Nat) (w : Word) : State :=
  let t := putModule (putWord s Reg.hpModXferStat [4 * k] 8) k { modul s k with mailbox := some w }
  emit t (.moduleXfer k w (xferBytes s k w))

theorem within_queued (s : State) (k : Nat) (w : Word) :
    Within [.inForce, .modules, .out] [Reg.hpModXferStat.addr [4 * k]] s (queued s k w) :=
  (within_putWord _ _ _ _).append ((within_of_module _ _ _).append (within_emit _ _))

theorem word_queued (s : State) (k : Nat) (w : Word) : word (queued s k w) Reg.hpModXferStat [4 * k] = 8 :=
  ((within_of_module _ _ _).append (within_emit _ _)).2.word_eq (by simp) |>.trans word_putWord_same

theorem mailbox_queued (s : State) (k : Nat) (w : Word) : (modul (queued s k w) k).mailbox = some w :=
  congrArg Module.mailbox (modul_putModule_same (putWord s Reg.hpModXferStat [4 * k] 8) k _)

theorem out_queued (s : State) (k : Nat) (w : Word) :
    (queued s k w).out = .moduleXfer k w (xferBytes s k w) :: s.out := rfl

theorem stagedWord_immediate_other {r q : RegRow} {ix jx : List Nat} (h : q.addr jx ≠ r.addr ix) :
    stagedWord (immediate s req r ix data) q jx = stagedWord s q jx := get_set_other h

/-- The bytes of a transfer are those that its buffer has staged. -/
theorem xferBytes_congr (h : ∀ i, stagedWord t Reg.hpModData [4 * k, i] = stagedWord s Reg.hpModData [4 * k, i]) (w : Word) :
    xferBytes t k w = xferBytes s k w := by
  unfold xferBytes
  split
  · exact List.map_congr_left fun i _ => by simp only [h]
  · rfl

theorem moduleXferWrite_eq (hk : k < 12) (h : Reaches s req (Reg.hpModXfer.addr [4 * k])) (halone : Alone s)
    (hbusy : rdBit s Reg.hpModXferStat [4 * k] 3 = false) (hpresent : (modul s k).present = true)
    (hselect : touchesPageSelect (blend 0x7FFFFFFF (word s Reg.hpModXfer [4 * k]) data) = false) :
    moduleXferWrite s req k (setFld data 31 31 1) =
      queued (immediate s req Reg.hpModXfer [4 * k] (setFld data 31 31 1)) k
        (blend 0x7FFFFFFF (word s Reg.hpModXfer [4 * k]) data) := by
  obtain ⟨-, -, hserves, -⟩ := h
  obtain ⟨hlow, hblock⟩ := hpModXfer_block k hk
  have hopen := windowsOpen_of_serves hlow hblock (by decide) hserves
  have htaken : Reg.hpModXfer.taken req ≠ 0 := by rw [taken_hpModXfer]; decide
  have hstage := stage_immediate (data := setFld data 31 31 1) (hpModXfer_immediate hk) halone htaken
  have hgo : flag (setFld data 31 31 1) 31 = true := flag_setFld_same (b := true) (by decide)
  have hw := within_immediate s req Reg.hpModXfer [4 * k] (setFld data 31 31 1)
  set u := immediate s req Reg.hpModXfer [4 * k] (setFld data 31 31 1)
  have hword : word u Reg.hpModXfer [4 * k] = blend 0x7FFFFFFF (word s Reg.hpModXfer [4 * k]) data :=
    word_immediate_same.trans inForceBy_hpModXfer
  have hbusy' : rdBit u Reg.hpModXferStat [4 * k] 3 = false :=
    (hw.2.rdBit_eq (by simpa using (hpModXfer_row k hk).2.2.symm)).trans hbusy
  have hpresent' : (modul u k).present = true :=
    (congrArg (fun l => (get Module.empty l k).present) (hw.1 .modules (by decide))).trans hpresent
  simp only [moduleXferWrite, queued, hopen, hstage, hword, hgo, hbusy', hselect, hpresent', Bool.not_true,
    Bool.false_eq_true, if_false]

/-! ### The end of a transfer -/

/-- Byte `i` of a read that is OK in the data buffer. -/
def byteRead (s : State) (k : Nat) (bytes : List Byte) (i : Nat) : State :=
  wrBoth s Reg.hpModData [4 * k, i / 4] (31 - 8 * (i % 4)) (31 - 8 * (i % 4) - 7) (byteAt bytes i)

/-- The data buffer once the first `n` bytes of a read are in it. -/
def bytesRead (s : State) (k : Nat) (bytes : List Byte) (n : Nat) : State :=
  (List.range n).foldl (fun s i => byteRead s k bytes i) s

theorem bytesRead_succ (s : State) (k : Nat) (bytes : List Byte) (n : Nat) :
    bytesRead s k bytes (n + 1) = byteRead (bytesRead s k bytes n) k bytes n := by
  rw [bytesRead, List.range_succ, List.foldl_append]
  rfl

theorem hpModData_apart : ∀ k < 12, ∀ i < 8, Reg.hpModData.addr [4 * k, i] ≠ Reg.hpModXferStat.addr [4 * k] := by
  decide +kernel

theorem within_bytesRead (s : State) (k : Nat) (bytes : List Byte) (n : Nat) (hn : n ≤ 32) :
    Within [.staged, .inForce] ((List.range 8).map fun i => Reg.hpModData.addr [4 * k, i]) s (bytesRead s k bytes n) := by
  refine Within.foldl_mem (fun t i hi => ?_) s
  have hi : i < n := List.mem_range.mp hi
  exact (within_wrBoth t Reg.hpModData [4 * k, i / 4] _ _ _).mono (by decide) fun a ha => by
    rw [List.mem_singleton.mp ha]
    exact List.mem_map_of_mem (List.mem_range.mpr (by omega))

theorem byteAt_lt (bs : List Byte) (i : Nat) : byteAt bs i < 2 ^ 8 := (bs.getD i 0).isLt

theorem rd_byteRead_same (s : State) (k : Nat) (bytes : List Byte) (i : Nat) :
    rd (byteRead s k bytes i) Reg.hpModData [4 * k, i / 4] (31 - 8 * (i % 4)) (24 - 8 * (i % 4)) = byteAt bytes i := by
  have hlo : 24 - 8 * (i % 4) = 31 - 8 * (i % 4) - 7 := by omega
  have hwidth : 31 - 8 * (i % 4) + 1 - (31 - 8 * (i % 4) - 7) = 8 := by omega
  rw [hlo, byteRead, rd_wrBoth_same (by omega) (by omega), hwidth, Nat.mod_eq_of_lt (byteAt_lt bytes i)]

theorem rd_byteRead_other {i j : Nat} (h : i ≠ j) (s : State) (k : Nat) (bytes : List Byte) :
    rd (byteRead s k bytes j) Reg.hpModData [4 * k, i / 4] (31 - 8 * (i % 4)) (24 - 8 * (i % 4)) =
      rd s Reg.hpModData [4 * k, i / 4] (31 - 8 * (i % 4)) (24 - 8 * (i % 4)) := by
  by_cases hw : i / 4 = j / 4
  · rw [rd, rd, hw, byteRead, word_wrBoth_same]
    rcases Nat.lt_or_gt_of_ne (show i % 4 ≠ j % 4 by omega) with hij | hij
    · exact fld_setFld_above (by omega) (by omega) (by omega)
    · exact fld_setFld_below (by omega) (by omega) (by omega)
  · have hne : Reg.hpModData.addr [4 * k, i / 4] ≠ Reg.hpModData.addr [4 * k, j / 4] := by
      simp only [RegRow.addr, Reg.hpModData, offsetOf]; omega
    rw [rd, byteRead, word_wrBoth_other hne, rd]

theorem rd_bytesRead (s : State) (k : Nat) (bytes : List Byte) {n i : Nat} (hi : i < n) :
    rd (bytesRead s k bytes n) Reg.hpModData [4 * k, i / 4] (31 - 8 * (i % 4)) (24 - 8 * (i % 4)) = byteAt bytes i := by
  induction n with
  | zero => exact absurd hi (Nat.not_lt_zero i)
  | succ n ih =>
    rw [bytesRead_succ]
    by_cases h : i = n
    · subst h; exact rd_byteRead_same _ k bytes i
    · rw [rd_byteRead_other h, ih (by omega)]

/-- The mailbox of a transfer that has ended with RESULT `r`. -/
def ended (s : State) (k : Nat) (r : BitVec 3) : State :=
  putWord (putModule s k { modul s k with mailbox := none }) Reg.hpModXferStat [4 * k] (BitVec.ofNat 32 r.toNat)

theorem within_ended (s : State) (k : Nat) (r : BitVec 3) :
    Within [.inForce, .modules] [Reg.hpModXferStat.addr [4 * k]] s (ended s k r) :=
  ((within_of_module s k _).append (within_putWord _ _ _ _)).mono (by decide) (by simp)

theorem mailbox_ended (s : State) (k : Nat) (r : BitVec 3) : (modul (ended s k r) k).mailbox = none :=
  congrArg Module.mailbox (modul_putModule_same s k _)

theorem word_ended (s : State) (k : Nat) (r : BitVec 3) :
    word (ended s k r) Reg.hpModXferStat [4 * k] = BitVec.ofNat 32 r.toNat := word_putWord_same

end

/-- Settles O12: each command acts on its master's state, and a step that holds the ports (`holdStep_spec`) takes their links
down before it ends. -/
theorem modulesStepThrough : Obligations.ModulesStepThrough := by
  refine ⟨?poll, ?change, ?debounce, ?identified, ?ready, ?timeout, ?removed, ?monitor, ?go, ?doneBad, ?doneRead⟩
  case poll =>
    intro s k hon hball hstate hdue
    set u := putModule s k { modul s k with pollFailed := false, pollAt := s.time.dt } with hu
    have hput : Within [.modules] [] s u := within_of_module s k _
    have hmod : modul u k = { modul s k with pollFailed := false, pollAt := s.time.dt } := modul_putModule_same s k _
    have hexec : exec (.modulePresencePoll k true) s = done (seePresence u k true) := by
      show execModulePresencePoll k true s = _
      simp only [execModulePresencePoll, hon, hball, hdue, decide_true, Bool.not_false, Bool.and_self, if_true]
      rfl
    obtain ⟨hone, hmodul⟩ := seePresence_acts (s := u) (k := k) (b := true) ((hput.2.rd_eq (by simp)).trans hstate)
    rw [hmod] at hmodul
    exact does_of_all hexec ((hput.append (within_seePresence u k true)).1.mono (by decide)) ⟨hone, hmodul⟩ fun _ _ h => h
  case change =>
    intro s k hon hstate
    have hexec : exec (.modulePresenceChange k false) s = done (seePresence s k false) := by
      show execModulePresenceChange k false s = _
      rw [execModulePresenceChange, if_pos hon]
    exact does_of_all hexec ((within_seePresence s k false).1.mono (by decide)) (seePresence_acts (b := false) hstate)
      fun _ _ h => h
  case debounce =>
    intro s k hon hstate hpast hpresent hdown
    obtain ⟨hframe, hnew, hmodul, hheld⟩ := holdStep_spec (v := 2) k.isLt (by decide) (by decide) (by decide) hdown
    have hexec : exec (.moduleDebounceExpiry k) s = done (holdStep s k 2) := by
      show execModuleDebounceExpiry k s = _
      simp only [execModuleDebounceExpiry, hon, hstate, hpast, hpresent, BEq.rfl, Bool.and_self, if_true]
    exact does_of_all hexec hframe ⟨hnew, congrArg Module.since hmodul, hheld⟩ fun _ _ h => h
  case identified =>
    intro s k i m hon hstate hpresent hdue
    set u := wr (wr s Reg.hpModStat [4 * k] 5 4 i.toNat) Reg.hpModStat [4 * k] 10 8 m.toNat with hu
    have hexec : exec (.moduleIdentified k i m) s = done (setModState u k 3) := by
      show execModuleIdentified k i m s = _
      simp only [execModuleIdentified, hon, hstate, hpresent, BEq.rfl, Bool.and_self, if_true, if_neg (Nat.not_lt.mpr hdue)]
      rfl
    have hw : Within [.modules, .inForce] [Reg.hpModStat.addr [4 * k]] s (setModState u k 3) :=
      (((within_wr s _ _ _ _ _).trans (within_wr _ _ _ _ _ _)).mono (by decide) (by simp)).trans (within_setModState u k 3)
    have hi : rd u Reg.hpModStat [4 * k] 5 4 = i.toNat := by
      rw [rd, hu, word_wr_same, fld_setFld_below (by decide) (by decide) (by decide)]
      exact (rd_wr_same (by decide) (by decide)).trans (Nat.mod_eq_of_lt i.isLt)
    have hm : rd u Reg.hpModStat [4 * k] 10 8 = m.toNat :=
      (rd_wr_same (by decide) (by decide)).trans (Nat.mod_eq_of_lt m.isLt)
    exact does_of_all hexec (hw.1.mono (by decide))
      ⟨modState_setModState u k (by decide), (rd_setModState_above u k 3 (by decide)).trans hi,
        (rd_setModState_above u k 3 (by decide)).trans hm, hw.2⟩ fun _ _ h => h
  case ready =>
    intro s k fits hon hstate hpresent hdue hdown
    have hlate : ¬ (modul s k).since + msTicks 60000 < s.time.dt := Nat.not_lt.mpr hdue
    have hexec : exec (.moduleReady k fits) s = done (if fits then moduleReady s k else holdStep s k 5) := by
      show execModuleReady k fits s = _
      simp only [execModuleReady, hon, hstate, hpresent, hlate, BEq.rfl, Bool.true_or, Bool.and_self, decide_false,
        Bool.and_false, Bool.false_eq_true, if_true, if_false]
    cases fits
    case true =>
      obtain ⟨hframe, hnew, hheld⟩ := moduleReady_spec (s := s) k.isLt
      exact does_of_all hexec hframe ⟨hnew, hheld⟩ fun _ _ h => h
    case false =>
      obtain ⟨hframe, hnew, -, hheld⟩ := holdStep_spec (v := 5) k.isLt (by decide) (by decide) (by decide) hdown
      exact does_of_all hexec (hframe.mono (by decide)) ⟨hnew, hheld⟩ fun _ _ h => h
  case timeout =>
    intro s k hon hstate hdown
    obtain ⟨hframe, hnew, -, hheld⟩ := holdStep_spec (v := 6) k.isLt (by decide) (by decide) (by decide) hdown
    have hexec : exec (.moduleStepTimeout k) s = done (holdStep s k 6) := by
      show execModuleStepTimeout k s = _
      rw [execModuleStepTimeout, if_pos]
      simpa [hon] using hstate
    exact does_of_all hexec hframe ⟨hnew, hheld⟩ fun _ _ h => h
  case removed =>
    intro s k hon hstate hpresent hdown
    obtain ⟨hframe, hword, hmonitor, hheld⟩ := removed_spec k.isLt hdown
    have hexec : exec (.moduleRemoved k) s = done (holdServed (emptied s k) k) := by
      show execModuleRemoved k s = _
      rw [execModuleRemoved, if_pos (by simpa [hon, hpresent] using hstate)]
      rfl
    exact does_of_all hexec hframe ⟨hword, hmonitor, hheld⟩ fun _ _ h => h
  case monitor =>
    intro s k v hon hstate hpoll hdue
    have hexec : exec (.moduleMonitorPoll k v) s = done (putModule s k { modul s k with monitor := v, monitorAt := s.time.dt }) := by
      show execModuleMonitorPoll k v s = _
      rw [execModuleMonitorPoll, if_pos (by simpa [hon, hstate, hdue] using hpoll)]
    exact does_of_all hexec (onlyChanges_putModule s k _) (modul_putModule_same s k _) fun _ _ h => h
  case go =>
    intro s req k data h halone hbusy hpresent hselect
    set w := blend 0x7FFFFFFF (word s Reg.hpModXfer [4 * k]) data
    set u := immediate s req Reg.hpModXfer [4 * k] (setFld data 31 31 1)
    have hexec : exec (.moduleXferGo req k data) s = done (queued u k w) :=
      congrArg done ((accept_of_reaches h 0 _ _ _).trans (moduleXferWrite_eq k.isLt h halone hbusy hpresent hselect))
    have hw : Within [.staged, .inForce] [Reg.hpModXfer.addr [4 * k]] s u := within_immediate s req _ _ _
    have hbytes : xferBytes u k w = xferBytes s k w := xferBytes_congr (fun i => stagedWord_immediate_other (hpModData_ne_xfer k i)) w
    have hout : (queued u k w).out = .moduleXfer k w (xferBytes s k w) :: s.out := by
      rw [out_queued, hbytes, hw.1 .out (by decide)]
    exact does_of_all hexec ((hw.append (within_queued u k w)).1.mono (by decide))
      ⟨word_queued u k w, hout, mailbox_queued u k w⟩ fun _ _ h => h
  case doneBad =>
    intro s k r bytes w hmailbox hr
    have hexec : exec (.moduleXferDone k r bytes) s = done (ended s k r) := by
      show execModuleXferDone k r bytes s = _
      simp only [execModuleXferDone, hmailbox, hr, false_and, if_false]
      rfl
    exact does_of_all hexec ((within_ended s k r).1.mono (by decide)) ⟨mailbox_ended s k r, word_ended s k r⟩ fun _ _ h => h
  case doneRead =>
    intro s k bytes w hmailbox hread
    have hn : fld w 28 24 < 32 := Nat.mod_lt _ (by decide)
    have hexec : exec (.moduleXferDone k 0 bytes) s = done (bytesRead (ended s k 0) k bytes (fld w 28 24 + 1)) := by
      show execModuleXferDone k 0 bytes s = _
      simp only [execModuleXferDone, hmailbox, hread, Bool.not_false, and_self, if_true]
      rfl
    have hw := within_bytesRead (ended s k 0) k bytes (fld w 28 24 + 1) hn
    have hstat : word (bytesRead (ended s k 0) k bytes (fld w 28 24 + 1)) Reg.hpModXferStat [4 * k.val] = 0 := by
      refine (hw.2.word_eq fun hm => ?_).trans (word_ended s k 0)
      obtain ⟨i, hi, heq⟩ := List.mem_map.mp hm
      exact hpModData_apart k k.isLt i (List.mem_range.mp hi) heq
    have hmail : (modul (bytesRead (ended s k 0) k bytes (fld w 28 24 + 1)) k).mailbox = none :=
      (congrArg (fun l => (get Module.empty l k).mailbox) (hw.1 .modules (by decide))).trans (mailbox_ended s k 0)
    exact does_of_all hexec (((within_ended s k 0).append hw).1.mono (by decide))
      ⟨hmail, hstat, fun i hi => rd_bytesRead _ k bytes (Nat.lt_succ_of_le hi)⟩ fun _ _ h => h

end Sys2Proof.Machine

/-! PROOFS. Copper links (R90 to R95, R106, R107): negotiation, writes of CP_CFG and cable diagnostics. -/
namespace Sys2Proof.Machine

section
variable {s t : State} {req : Requester} {c : Fin 32} {data : Word}

/-! ### The link of a copper port -/

theorem linkUp_copper (s : State) (c : Fin 32) : linkUp s (48 + c) = rdBit s Reg.cpLinkStat [c] 0 := by
  rw [linkUp, if_neg (by omega), if_pos (by omega), Nat.add_sub_cancel_left]

theorem copper_rows : ∀ c < 32, rowAt (Reg.cpCfg.addr [c]) = some (Reg.cpCfg, [c]) ∧
    rowAt (Reg.cpDiagCtrl.addr [c]) = some (Reg.cpDiagCtrl, [c]) ∧
    Reg.cpCfg.addr [c] ≠ Reg.twinStat.addr [] ∧ Reg.cpDiagCtrl.addr [c] ≠ Reg.twinStat.addr [] := by decide +kernel

theorem copper_blocks : ∀ c < 32,
    ((blockOf (Reg.cpCfg.addr [c])).map fun x => (x.1.base, x.2.1)) = some (0x400000, c) ∧
      ((blockOf (Reg.cpDiagCtrl.addr [c])).map fun x => (x.1.base, x.2.1)) = some (0x400000, c) := by decide +kernel

theorem copper_apart (c : Nat) : Reg.cpCfg.addr [c] ≠ Reg.cpLinkStat.addr [c] ∧
    Reg.cpDiagCtrl.addr [c] ≠ Reg.cpLinkStat.addr [c] := by
  simp only [RegRow.addr, Reg.cpCfg, Reg.cpDiagCtrl, Reg.cpLinkStat, offsetOf]; omega

/-- The registers of a copper port answer where its window does (R87, R471). -/
theorem cWindow_of_serves {a n : Nat} (ha : a < 0x1000000)
    (hblock : ((blockOf a).map fun x => (x.1.base, x.2.1)) = some (0x400000, n)) (h : serves s a = true) :
    cWindow s n = true := by
  obtain ⟨⟨b, i, o⟩, hb, hparts⟩ := Option.map_eq_some_iff.mp hblock
  obtain ⟨hbase, rfl⟩ : b.base = 0x400000 ∧ i = n := by simpa using hparts
  simp only [serves, if_neg (Nat.not_le.mpr ha), hb, hbase] at h
  simp only [cWindow, Bool.and_eq_true]
  cases hopen : windowsOpen s <;> simp_all

/-- A copper port without a link: its negotiation cleared, and MDIX_ACT as it reads while the link is down. -/
def copperUnlocked (s : State) (c : Nat) : State :=
  putWord (putPort s (48 + c) { port s (48 + c) with anNoMatch := false }) Reg.cpLinkStat [c] (BitVec.ofNat 32 (downMdix s c * 32))

theorem within_copperUnlocked (s : State) (c : Nat) :
    Within [.ports, .inForce] [Reg.cpLinkStat.addr [c]] s (copperUnlocked s c) :=
  (within_of_port s _ _).append (within_putWord _ _ _ _)

theorem linkLost_copper (h : linkUp s (48 + c) = false) :
    linkLost s (48 + c) = beginLink (copperUnlocked s c) (48 + c) := by
  have hnot : ¬ 48 + c.val < 48 := by omega
  simp only [linkLost, if_neg hnot, portDown, h, Bool.false_eq_true, if_false, Nat.add_sub_cancel_left]
  rfl

theorem within_linkLost_copper (h : linkUp s (48 + c) = false) :
    Within [.inForce, .ports, .out] [Reg.cpLinkStat.addr [c]] s (linkLost s (48 + c)) := by
  rw [linkLost_copper h]
  exact ((within_copperUnlocked s c).append (within_beginLink _ _)).mono (by decide) (by simp)

theorem word_linkLost_copper (h : linkUp s (48 + c) = false) :
    word (linkLost s (48 + c)) Reg.cpLinkStat [c] = BitVec.ofNat 32 (downMdix s c * 32) := by
  rw [linkLost_copper h, (within_beginLink _ _).2.word_eq (by simp), copperUnlocked, word_putWord_same]

theorem anNoMatch_linkLost_copper (h : linkUp s (48 + c) = false) : (port (linkLost s (48 + c)) (48 + c)).anNoMatch = false := by
  have hport : port (copperUnlocked s c) (48 + c) = { port s (48 + c) with anNoMatch := false } := port_putPort_same s _ _
  rw [linkLost_copper h, (negotiated_beginLink _ _).2, hport]

/-- MDIX_ACT is shown in bit 5 of a word whose bit 0 is clear. -/
theorem linkUp_of_mdix {n : Nat} (h : word s Reg.cpLinkStat [c] = BitVec.ofNat 32 (n * 32)) : linkUp s (48 + c) = false := by
  rw [linkUp_copper, rdBit, h, flag, BitVec.getLsbD_ofNat]
  have hbit : (n * 32).testBit 0 = false := by
    rw [Nat.testBit_zero]
    simp
    omega
  rw [hbit, Bool.and_false]

/-! ### A link that negotiation brings up -/

/-- A state is quiet where its recorder's words are those of a quiet one. -/
theorem quiet_of_regsBut {l : List Nat} (h : RegsBut l s t) (hrec : Reg.obsRecStat.addr [] ∉ l)
    (htrace : Reg.obsTraceCfg.addr [] ∉ l) (hq : Quiet s) : Quiet t := by
  obtain ⟨hr, ht⟩ := hq
  exact ⟨by rw [recording, recState, h.rd_eq hrec]; exact hr, (h.rdBit_eq htrace).trans ht⟩

/-- Port `p` with its fault state cleared and its link just up. -/
def Port.gained (x : Port) (copper : Bool) (dt : Nat) : Port :=
  { x with localFault := false, remoteFault := x.remoteFault && copper, anNoMatch := false, activeAt := dt }

/-- A copper link that comes up, unrecorded, draws the code that its record would have had. -/
theorem linkGained_copper (hq : Quiet s) :
    linkGained s (48 + c) = spend (putPort s (48 + c) ((port s (48 + c)).gained true s.time.dt)) := by
  have hnot : ¬ 48 + c.val < 48 := by omega
  have hle : 48 ≤ 48 + c.val := by omega
  have hquiet : Quiet (spend (putPort s (48 + c) ((port s (48 + c)).gained true s.time.dt))) := 
    quiet_of_regsBut ((within_of_port s _ _).append (within_spend _)).2 (by simp) (by simp) hq
  simp only [linkGained, linkRecord, if_neg hnot, decide_eq_true hle]
  exact record_of_quiet hquiet _ _ _ _

/-- Copper port `c` with LINK_STAT `w` and its partner's remote fault. -/
def resolved (s : State) (c : Fin 32) (w : Word) (fault : Bool) : State :=
  putPort (putWord s Reg.cpLinkStat [c] w) (48 + c) { port s (48 + c) with remoteFault := fault }

theorem within_resolved (s : State) (c : Fin 32) (w : Word) (fault : Bool) :
    Within [.inForce, .ports] [Reg.cpLinkStat.addr [c]] s (resolved s c w fault) :=
  (within_putWord _ _ _ _).append (within_of_port _ _ _)

theorem word_resolved (s : State) (c : Fin 32) (w : Word) (fault : Bool) :
    word (resolved s c w fault) Reg.cpLinkStat [c] = w := word_putWord_same

theorem obs_apart_copper : ∀ c < 32, Reg.cpLinkStat.addr [c] ≠ Reg.obsRecStat.addr [] ∧
    Reg.cpLinkStat.addr [c] ≠ Reg.obsTraceCfg.addr [] := by decide +kernel

theorem quiet_resolved (hq : Quiet s) (w : Word) (fault : Bool) : Quiet (resolved s c w fault) := by
  obtain ⟨hrec, htrace⟩ := obs_apart_copper c c.isLt
  exact quiet_of_regsBut (within_resolved s c w fault).2 (by simpa using hrec.symm) (by simpa using htrace.symm) hq

/-- What is left of a negotiation that brings the link up. -/
theorem within_gained_resolved (hq : Quiet s) (w : Word) (fault : Bool) :
    Within [.inForce, .ports, .freeCtr] [Reg.cpLinkStat.addr [c]] s (linkGained (resolved s c w fault) (48 + c)) ∧
      word (linkGained (resolved s c w fault) (48 + c)) Reg.cpLinkStat [c] = w := by
  set u := resolved s c w fault
  have hgain : Within [.ports, .freeCtr] [] u (linkGained u (48 + c)) := by
    rw [linkGained_copper (quiet_resolved hq w fault)]
    exact (within_of_port _ _ _).append (within_spend _)
  exact ⟨((within_resolved s c w fault).append hgain).mono (by decide) (by simp),
    (hgain.2.word_eq (by simp)).trans (word_resolved s c w fault)⟩

/-- CP_LINK_STAT of a link that comes up shows the link. -/
theorem flag_copperStat (x : CopperPartner) (r : Resolved) (an : Bool) : flag (copperStat s c x r an) 0 = true := by
  have hodd : ∀ a b d e f g h : Nat, (a * 2 ^ 11 + b * 2 ^ 10 + d * 2 ^ 6 + e * 2 ^ 5 + f * 2 ^ 4 + g * 2 ^ 3 + h * 2 + 1) % 2 = 1 := by
    intros; omega
  rw [flag, copperStat, BitVec.getLsbD_ofNat, Nat.testBit_zero, hodd]
  rfl

/-! ### CP_CFG -/

theorem cpCfg_immediate (c : Fin 32) : Reg.cpCfg.Immediate [c] where
  row := (copper_rows c c.isLt).1
  ms := by decide
  frm := by decide
  pkt := by decide
  lawful _ := rfl
  apart := (copper_rows c c.isLt).2.2.1

theorem writable_cpCfg (req : Requester) : writable Reg.cpCfg req = 0xFFF79 := by
  have hbase : Reg.cpCfg.base ≠ Reg.irqRoute.base := by decide
  simp only [writable, hbase, false_and, if_false]
  decide

theorem taken_cpCfg (req : Requester) : Reg.cpCfg.taken req = 0xFFF79 := by
  rw [RegRow.taken, writable_cpCfg]
  decide

/-- The word that a write of CP_CFG leaves in force. -/
theorem inForceBy_cpCfg : inForceBy s req Reg.cpCfg [c] data = blend 0xFFF79 (word s Reg.cpCfg [c]) data := by
  rw [inForceBy, heldAt_of_any (by decide) (by decide), stagedBy, taken_cpCfg, writable_cpCfg, blend_blend]

/-- The state with CP_CFG written on a port without a link, and MDIX_ACT as it then reads. -/
def cpCfgTaken (s : State) (req : Requester) (c : Fin 32) (data : Word) : State :=
  wr (immediate s req Reg.cpCfg [c] data) Reg.cpLinkStat [c] 5 5 (downMdix (immediate s req Reg.cpCfg [c] data) c)

theorem within_cpCfgTaken (s : State) (req : Requester) (c : Fin 32) (data : Word) :
    Within [.staged, .inForce] [Reg.cpCfg.addr [c], Reg.cpLinkStat.addr [c]] s (cpCfgTaken s req c data) :=
  ((within_immediate s req Reg.cpCfg [c] data).append (within_wr _ _ _ _ _ _)).mono (by decide) (by simp)

theorem word_cpCfgTaken : word (cpCfgTaken s req c data) Reg.cpCfg [c] = blend 0xFFF79 (word s Reg.cpCfg [c]) data :=
  ((within_wr _ Reg.cpLinkStat [c.val] 5 5 _).2.word_eq (by simpa using (copper_apart c).1)).trans
    (word_immediate_same.trans inForceBy_cpCfg)

theorem linkUp_cpCfgTaken : linkUp (cpCfgTaken s req c data) (48 + c) = linkUp s (48 + c) := by
  rw [linkUp_copper, linkUp_copper, rdBit, cpCfgTaken, word_wr_same, flag_setFld_below (by decide) (by decide) (by decide)]
  exact (within_immediate s req Reg.cpCfg [c] data).2.rdBit_eq (by simpa using (copper_apart c).1.symm)

/-- What follows once MDIX_ACT is decided. -/
def cpCfgActs (s : State) (c : Fin 32) (before after data : Word) : State :=
  if flag before 0 && !flag after 0 then
    putPort (linkLost s (48 + c)) (48 + c) { port (linkLost s (48 + c)) (48 + c) with remoteFault := false }
  else if flag after 0 && (!flag before 0 || flag data 2 || (before ^^^ after) &&& negotiationFields != 0) then
    restartLink s (48 + c)
  else s

/-- A write of CP_CFG by a command that stands for it, on a port without a link. -/
theorem cpCfgWrite_eq (h : Reaches s req (Reg.cpCfg.addr [c])) (halone : Alone s) (hdown : linkUp s (48 + c) = false) :
    cpCfgWrite s req c data = cpCfgActs (cpCfgTaken s req c data) c (word s Reg.cpCfg [c])
      (blend 0xFFF79 (word s Reg.cpCfg [c]) data) data := by
  obtain ⟨-, -, hserves, -⟩ := h
  have haddr : Reg.cpCfg.addr [c] < 0x1000000 := by simp only [RegRow.addr, Reg.cpCfg, offsetOf]; omega
  have hwindow := cWindow_of_serves haddr (copper_blocks c c.isLt).1 hserves
  have htaken : Reg.cpCfg.taken req ≠ 0 := by rw [taken_cpCfg]; decide
  have hstage := stage_immediate (data := data) (cpCfg_immediate c) halone htaken
  have hafter : word (immediate s req Reg.cpCfg [c] data) Reg.cpCfg [c] = blend 0xFFF79 (word s Reg.cpCfg [c]) data :=
    word_immediate_same.trans inForceBy_cpCfg
  have hdown' : linkUp (immediate s req Reg.cpCfg [c] data) (48 + c) = false := by
    rw [linkUp_copper] at hdown ⊢
    exact ((within_immediate s req Reg.cpCfg [c] data).2.rdBit_eq (by simpa using (copper_apart c).1.symm)).trans hdown
  have hfollow : followAccount (cpCfgTaken s req c data) (48 + c) = cpCfgTaken s req c data :=
    if_pos (.inr (by rw [linkUp_cpCfgTaken, hdown]; rfl))
  simp only [cpCfgWrite, hwindow, if_true, hstage, hafter, hdown', Bool.false_eq_true, if_false]
  rw [show wr (immediate s req Reg.cpCfg [c] data) Reg.cpLinkStat [c] 5 5 (downMdix (immediate s req Reg.cpCfg [c] data) c) =
    cpCfgTaken s req c data from rfl, hfollow]
  rfl

theorem within_cpCfgActs (h : linkUp s (48 + c) = false) (before after : Word) :
    Within [.inForce, .ports, .out] [Reg.cpLinkStat.addr [c]] s (cpCfgActs s c before after data) := by
  unfold cpCfgActs
  refine Within.ite ((within_linkLost_copper h).trans ((within_of_port _ _ _).mono (by decide) (by simp))) ?_
  exact Within.orNot (Within.orNot (within_linkLost_copper h))

/-- No write of CP_CFG brings a link up. -/
theorem linkUp_cpCfgActs (h : linkUp s (48 + c) = false) (before after : Word) :
    linkUp (cpCfgActs s c before after data) (48 + c) = false := by
  have hlost : linkUp (linkLost s (48 + c)) (48 + c) = false := linkUp_of_mdix (word_linkLost_copper h)
  unfold cpCfgActs
  split
  · rw [linkUp_copper] at hlost ⊢
    exact ((within_of_port _ _ _).2.rdBit_eq (by simp)).trans hlost
  · split
    · unfold restartLink
      split
      · exact hlost
      · exact h
    · exact h

/-- A write that begins negotiation again, on a port that is enabled after it. -/
theorem cpCfgActs_restart {before after : Word} (hen : portEn s (48 + c) = true) (hafter : flag after 0 = true)
    (hrestart : flag data 2 = true) : cpCfgActs s c before after data = linkLost s (48 + c) := by
  have hlost : restartLink s (48 + c) = linkLost s (48 + c) := if_pos hen
  simp only [cpCfgActs, hafter, hrestart, hlost, Bool.not_true, Bool.and_false, Bool.true_or, Bool.or_true, Bool.and_true,
    Bool.false_eq_true, if_false, if_true]

theorem portEn_copper (s : State) (c : Fin 32) : portEn s (48 + c) = (isCPort s c && rdBit s Reg.cpCfg [c] 0) := by
  rw [portEn, if_neg (by omega), if_pos (by omega), Nat.add_sub_cancel_left]

theorem downMdix_congr (h : word t Reg.cpCfg [c] = word s Reg.cpCfg [c]) : downMdix t c = downMdix s c := by
  simp only [downMdix, rd, rdBit, h]
  rfl

/-! ### Cable diagnostics -/

theorem cpDiagCtrl_immediate (c : Fin 32) : Reg.cpDiagCtrl.Immediate [c] where
  row := (copper_rows c c.isLt).2.1
  ms := by decide
  frm := by decide
  pkt := by decide
  lawful _ := rfl
  apart := (copper_rows c c.isLt).2.2.2

theorem taken_cpDiagCtrl (req : Requester) : Reg.cpDiagCtrl.taken req = 2 := by
  have hbase : Reg.cpDiagCtrl.base ≠ Reg.irqRoute.base := by decide
  simp only [RegRow.taken, writable, hbase, false_and, if_false]
  decide

/-- CP_DIAG_CTRL just written. -/
def diagTaken (s : State) (req : Requester) (c : Fin 32) (data : Word) : State :=
  immediate s req Reg.cpDiagCtrl [c] (setFld data 0 0 1)

theorem within_diagTaken (s : State) (req : Requester) (c : Fin 32) (data : Word) :
    Within [.staged, .inForce] [Reg.cpDiagCtrl.addr [c]] s (diagTaken s req c data) := within_immediate s req _ _ _

theorem linkUp_diagTaken : linkUp (diagTaken s req c data) (48 + c) = linkUp s (48 + c) := by
  rw [linkUp_copper, linkUp_copper]
  exact (within_diagTaken s req c data).2.rdBit_eq (by simpa using (copper_apart c).2.symm)

theorem rdBit_diagTaken_other {i : Nat} (hi : i < 32) (h : flag (2 : Word) i = false) :
    rdBit (diagTaken s req c data) Reg.cpDiagCtrl [c] i = rdBit s Reg.cpDiagCtrl [c] i := by
  rw [rdBit, diagTaken, word_immediate_same, inForceBy, flag_blend hi, taken_cpDiagCtrl, if_neg (by rw [h]; decide)]
  rfl

theorem rdBit_diagTaken_one : rdBit (diagTaken s req c data) Reg.cpDiagCtrl [c] 1 = flag data 1 := by
  rw [rdBit, diagTaken, word_immediate_same, flag_inForceBy (by decide) (heldAt_of_any (by decide) (by decide))
    (by rw [taken_cpDiagCtrl]; decide), flag_setFld_above (by decide) (by decide) (by decide)]

/-- A diagnostic that begins: its port loses its link, and its RESULT is gone. -/
def diagBegun (s : State) (c : Fin 32) : State :=
  let u := putPort s (48 + c) { port s (48 + c) with diagRuns := !octetRecal s c }
  wr (wrBit u Reg.cpDiagCtrl [c] 3 true) Reg.cpDiagCtrl [c] 5 4 0

theorem within_diagBegun (s : State) (c : Fin 32) :
    Within [.ports, .inForce] [Reg.cpDiagCtrl.addr [c]] s (diagBegun s c) :=
  ((within_of_port s _ _).append ((within_wrBit _ _ _ _ _).append (within_wr _ _ _ _ _ _))).mono (by decide) (by simp)

theorem diagWrite_eq (h : Reaches s req (Reg.cpDiagCtrl.addr [c])) (halone : Alone s)
    (hidle : rdBit s Reg.cpDiagCtrl [c] 3 = false) : diagWrite s req c (setFld data 0 0 1) =
      if linkUp s (48 + c) && !flag data 1 then wr (diagTaken s req c data) Reg.cpDiagCtrl [c] 5 4 2
      else linkLost (diagBegun (diagTaken s req c data) c) (48 + c) := by
  obtain ⟨-, -, hserves, -⟩ := h
  have haddr : Reg.cpDiagCtrl.addr [c] < 0x1000000 := by simp only [RegRow.addr, Reg.cpDiagCtrl, offsetOf]; omega
  have hwindow := cWindow_of_serves haddr (copper_blocks c c.isLt).2 hserves
  have htaken : Reg.cpDiagCtrl.taken req ≠ 0 := by rw [taken_cpDiagCtrl]; decide
  have hstage : stage s req Reg.cpDiagCtrl [c] 0xFFFFFFFF (setFld data 0 0 1) = diagTaken s req c data :=
    stage_immediate (cpDiagCtrl_immediate c) halone htaken
  have hrun : flag (setFld data 0 0 1) 0 = true := flag_setFld_same (b := true) (by decide)
  simp only [diagWrite, hwindow, if_true, hidle, hstage, hrun, linkUp_diagTaken, rdBit_diagTaken_one, Bool.not_true,
    Bool.or_false, Bool.false_eq_true, if_false]
  rfl

/-- While a diagnostic is in progress its port begins no link. -/
theorem beginLink_of_diag (h : rdBit s Reg.cpDiagCtrl [c] 3 = true) : beginLink s (48 + c) = s := by
  have hle : 48 ≤ 48 + c.val := by omega
  have hheld : released s (48 + c) = false := by
    simp only [released, decide_eq_true hle, Nat.add_sub_cancel_left, h, Bool.and_self, Bool.not_true, Bool.and_false]
  simp [beginLink, hheld]

theorem diagRuns_beginLink (s : State) (p : Nat) : (port (beginLink s p) p).diagRuns = (port s p).diagRuns := by
  unfold beginLink
  split
  · dsimp only
    split
    · simp only [port_emit, port_putPort_same]
    · simp only [port_putPort_same]
  · rfl

/-- A diagnostic that begins on a port without a link. -/
theorem diagBegun_spec (hdown : linkUp s (48 + c) = false) :
    Within [.inForce, .ports] [Reg.cpDiagCtrl.addr [c], Reg.cpLinkStat.addr [c]] s (linkLost (diagBegun s c) (48 + c)) ∧
      rdBit (linkLost (diagBegun s c) (48 + c)) Reg.cpDiagCtrl [c] 3 = true ∧
      rd (linkLost (diagBegun s c) (48 + c)) Reg.cpDiagCtrl [c] 5 4 = 0 ∧
      (port (linkLost (diagBegun s c) (48 + c)) (48 + c)).diagRuns = !octetRecal s c := by
  have hne := (copper_apart c).2
  have hbit : rdBit (diagBegun s c) Reg.cpDiagCtrl [c] 3 = true := by
    rw [rdBit, diagBegun, word_wr_same, flag_setFld_below (by decide) (by decide) (by decide)]
    exact rdBit_wrBit_same (by decide)
  have hresult : rd (diagBegun s c) Reg.cpDiagCtrl [c] 5 4 = 0 := (rd_wr_same (by decide) (by decide)).trans (Nat.zero_mod _)
  have hdown' : linkUp (diagBegun s c) (48 + c) = false := by
    rw [linkUp_copper] at hdown ⊢
    exact ((within_diagBegun s c).2.rdBit_eq (by simpa using hne.symm)).trans hdown
  have hunlock := within_copperUnlocked (diagBegun s c) c
  have hbit' : rdBit (copperUnlocked (diagBegun s c) c) Reg.cpDiagCtrl [c] 3 = true :=
    (hunlock.2.rdBit_eq (by simpa using hne)).trans hbit
  have hport : port (diagBegun s c) (48 + c) = { port s (48 + c) with diagRuns := !octetRecal s c } := port_putPort_same s _ _
  have hport' : port (copperUnlocked (diagBegun s c) c) (48 + c) = { port (diagBegun s c) (48 + c) with anNoMatch := false } :=
    port_putPort_same _ _ _
  rw [linkLost_copper hdown', beginLink_of_diag hbit']
  refine ⟨((within_diagBegun s c).append hunlock).mono (by decide) (by simp), hbit',
    (hunlock.2.rd_eq (by simpa using hne)).trans hresult, ?_⟩
  rw [hport', hport]

/-- The pairs' words once the first `n` are written. -/
def pairsShown (s : State) (c : Fin 32) (f : Nat → Word) (n : Nat) : State :=
  (List.range n).foldl (fun s k => putWord s Reg.cpDiagPair [c, k] (f k)) s

theorem pairs_apart {c j k : Nat} (h : j ≠ k) : Reg.cpDiagPair.addr [c, j] ≠ Reg.cpDiagPair.addr [c, k] := by
  simp only [RegRow.addr, Reg.cpDiagPair, offsetOf]; omega

theorem within_pairsShown (s : State) (c : Fin 32) (f : Nat → Word) (n : Nat) :
    Within [.inForce] ((List.range n).map fun k => Reg.cpDiagPair.addr [c, k]) s (pairsShown s c f n) :=
  Within.foldl_mem (fun _ _ hk => (within_putWord _ _ _ _).mono (by decide) fun a ha => by
    rw [List.mem_singleton.mp ha]; exact List.mem_map_of_mem hk) s

theorem word_pairsShown (s : State) (c : Fin 32) (f : Nat → Word) {n k : Nat} (hk : k < n) :
    word (pairsShown s c f n) Reg.cpDiagPair [c, k] = f k := by
  induction n with
  | zero => exact absurd hk (Nat.not_lt_zero k)
  | succ n ih =>
    have hsucc : pairsShown s c f (n + 1) = putWord (pairsShown s c f n) Reg.cpDiagPair [c, n] (f n) := by
      rw [pairsShown, List.range_succ, List.foldl_append]; rfl
    rw [hsucc]
    by_cases h : k = n
    · subst h; exact word_putWord_same
    · rw [word_putWord_other (pairs_apart h), ih (by omega)]

end

/-- The state of a diagnostic that has ended. -/
def diagEnded (s : State) (c : Fin 32) (fault : Bool) : State :=
  let u := putPort s (48 + c) { port s (48 + c) with diagRuns := false, diagFault := fault }
  wr (wrBit u Reg.cpDiagCtrl [c] 3 false) Reg.cpDiagCtrl [c] 5 4 1

theorem within_diagEnded (s : State) (c : Fin 32) (fault : Bool) :
    Within [.ports, .inForce] [Reg.cpDiagCtrl.addr [c]] s (diagEnded s c fault) :=
  ((within_of_port s _ _).append ((within_wrBit _ _ _ _ _).append (within_wr _ _ _ _ _ _))).mono (by decide) (by simp)

/-- What has ended reads DONE and no longer runs, whether or not the port then acquires a link. -/
theorem diagEnded_spec (s : State) (c : Fin 32) (fault : Bool) :
    rdBit (beginLink (diagEnded s c fault) (48 + c)) Reg.cpDiagCtrl [c] 3 = false ∧
      rd (beginLink (diagEnded s c fault) (48 + c)) Reg.cpDiagCtrl [c] 5 4 = 1 ∧
      (port (beginLink (diagEnded s c fault) (48 + c)) (48 + c)).diagRuns = false := by
  have hbegin := within_beginLink (diagEnded s c fault) (48 + c)
  have hbit : rdBit (diagEnded s c fault) Reg.cpDiagCtrl [c] 3 = false := by
    rw [rdBit, diagEnded, word_wr_same, flag_setFld_below (by decide) (by decide) (by decide)]
    exact rdBit_wrBit_same (by decide)
  have hport : port (diagEnded s c fault) (48 + c) = { port s (48 + c) with diagRuns := false, diagFault := fault } :=
    port_putPort_same s _ _
  refine ⟨(hbegin.2.rdBit_eq (by simp)).trans hbit,
    (hbegin.2.rd_eq (by simp)).trans (rd_wr_same (by decide) (by decide)), ?_⟩
  rw [diagRuns_beginLink, hport]

theorem diag_ne_pair (c : Fin 32) (k : Nat) : Reg.cpDiagPair.addr [c, k] ≠ Reg.cpDiagCtrl.addr [c] := by
  simp only [RegRow.addr, Reg.cpDiagPair, Reg.cpDiagCtrl, offsetOf]; omega

/-- Settles O13: a negotiation shows what it resolves, a write of CP_CFG lands (`cpCfgWrite_eq`) and a diagnostic runs
(`diagWrite_eq`), each on the port's own words. -/
theorem copperNegotiates : Obligations.CopperNegotiates := by
  refine ⟨?agreed, ?noMatch, ?hundred, ?cfg, ?restart, ?diag, ?diagUp, ?diagDone, ?pair⟩
  case agreed =>
    intro s c x r hwindow hen hdown hreleased hforced hagreed hquiet
    set w := copperStat s c x r true with hw
    obtain ⟨hwithin, hword⟩ := within_gained_resolved (c := c) hquiet w (x.remoteFault && x.negotiates)
    have hexec : exec (.copperAnComplete c x) s = done (linkGained (resolved s c w (x.remoteFault && x.negotiates)) (48 + c)) := by
      show execCopperAnComplete c x s = _
      simp only [execCopperAnComplete, hwindow, hen, hdown, hreleased, hforced, hagreed, Bool.not_false, Bool.and_self, if_true,
        Bool.false_eq_true, if_false]
      rfl
    have hup : linkUp (linkGained (resolved s c w (x.remoteFault && x.negotiates)) (48 + c)) (48 + c) = true := by
      rw [linkUp_copper, rdBit, hword, hw, flag_copperStat]
    exact does_of_all hexec hwithin.1 ⟨hup, hword, hwithin.2⟩ fun _ _ h => h
  case noMatch =>
    intro s c x hwindow hen hdown hreleased hforced hnone
    have hexec : exec (.copperAnComplete c x) s = done (putPort s (48 + c)
        { port s (48 + c) with anNoMatch := true, remoteFault := x.remoteFault && x.negotiates }) := by
      show execCopperAnComplete c x s = _
      simp only [execCopperAnComplete, hwindow, hen, hdown, hreleased, hforced, hnone, Bool.not_false, Bool.and_self, if_true,
        Bool.false_eq_true, if_false]
    exact does_of_all hexec (onlyChanges_putPort s _ _) (port_putPort_same s _ _) fun _ _ h => h
  case hundred =>
    intro s c x hneg h2 h1 hx
    simp [negotiate, hneg, h2, h1, hx]
  case cfg =>
    intro s req c data h halone hdown
    have hexec : exec (.cpCfgWrite req c data) s = done _ :=
      congrArg done ((accept_of_reaches h 0 _ _ _).trans (cpCfgWrite_eq h halone hdown))
    have hdown' := (linkUp_cpCfgTaken (req := req) (data := data)).trans hdown
    have hacts := within_cpCfgActs (data := data) hdown' (word s Reg.cpCfg [c]) (blend 0xFFF79 (word s Reg.cpCfg [c]) data)
    have hall := ((within_cpCfgTaken s req c data).append hacts).mono (qs := [.staged, .inForce, .ports, .out])
      (m := [Reg.cpCfg.addr [c], Reg.cpLinkStat.addr [c]]) (by decide) (by simp)
    exact does_of_all hexec hall.1 ⟨(hacts.2.word_eq (by simpa using (copper_apart c).1)).trans word_cpCfgTaken,
      linkUp_cpCfgActs hdown' _ _, hall.2⟩ fun _ _ h => h
  case restart =>
    intro s c h halone hdown hen
    set data := setFld (stagedWord s Reg.cpCfg [c]) 2 2 1
    set u := cpCfgTaken s .host c data
    have hrestart : flag data 2 = true := flag_setFld_same (b := true) (by decide)
    have hafter : flag (blend 0xFFF79 (word s Reg.cpCfg [c]) data) 0 = true := by
      rw [flag_blend (by decide), if_pos (by decide), flag_setFld_below (by decide) (by decide) (by decide), hen]
    have hdown' : linkUp u (48 + c) = false := linkUp_cpCfgTaken.trans hdown
    have hbit : rdBit u Reg.cpCfg [c] 0 = true := by rw [rdBit, word_cpCfgTaken, hafter]
    have hcport : isCPort u c = true := by
      have haddr : Reg.cpCfg.addr [c] < 0x1000000 := by simp only [RegRow.addr, Reg.cpCfg, offsetOf]; omega
      have hwindow := cWindow_of_serves haddr (copper_blocks c c.isLt).1 h.2.2.1
      rw [isCPort, popBit, (within_cpCfgTaken s .host c data).1 .image (by decide)]
      exact (Bool.and_eq_true_iff.mp hwindow).2
    have hexec : exec (.cpAnRestart c) s = done (linkLost u (48 + c)) := by
      refine congrArg done ((accept_of_reaches h 0 _ _ _).trans ((cpCfgWrite_eq h halone hdown).trans ?_))
      exact cpCfgActs_restart (by rw [portEn_copper, hcport, hbit]; rfl) hafter hrestart
    have hlost := within_linkLost_copper hdown'
    have hmdix : downMdix (linkLost u (48 + c)) c = downMdix u c :=
      downMdix_congr (hlost.2.word_eq (by simpa using (copper_apart c).1))
    exact does_of_all hexec (((within_cpCfgTaken s .host c data).append hlost).1.mono (by decide))
      ⟨anNoMatch_linkLost_copper hdown', by rw [word_linkLost_copper hdown', hmdix]⟩ fun _ _ h => h
  case diag =>
    intro s req c data h halone hdown hidle
    have hexec : exec (.cableDiagRun req c data) s = done (linkLost (diagBegun (diagTaken s req c data) c) (48 + c)) := by
      refine congrArg done ((accept_of_reaches h 0 _ _ _).trans ((diagWrite_eq h halone hidle).trans ?_))
      rw [hdown]; rfl
    have hw := within_diagTaken s req c data
    obtain ⟨hwithin, hbit, hresult, hruns⟩ := diagBegun_spec (linkUp_diagTaken.trans hdown : linkUp (diagTaken s req c data) _ = _)
    have hrecal : octetRecal (diagTaken s req c data) c = octetRecal s c := by
      rw [octetRecal, hw.1 .maint (by decide)]; rfl
    exact does_of_all hexec ((hw.append hwithin).1.mono (by decide)) ⟨hbit, hresult, hruns.trans (by rw [hrecal])⟩ fun _ _ h => h
  case diagUp =>
    intro s req c data h halone hup hidle hbreak
    set u := diagTaken s req c data
    have hexec : exec (.cableDiagRun req c data) s = done (wr u Reg.cpDiagCtrl [c] 5 4 2) := by
      refine congrArg done ((accept_of_reaches h 0 _ _ _).trans ((diagWrite_eq h halone hidle).trans ?_))
      rw [hup, hbreak]; rfl
    have hw : Within [.staged, .inForce] [Reg.cpDiagCtrl.addr [c]] s (wr u Reg.cpDiagCtrl [c] 5 4 2) :=
      ((within_diagTaken s req c data).append (within_wr u _ _ _ _ _)).mono (by decide) (by simp)
    have hbit : rdBit (wr u Reg.cpDiagCtrl [c] 5 4 2) Reg.cpDiagCtrl [c] 3 = false := by
      rw [rdBit, word_wr_same, flag_setFld_below (by decide) (by decide) (by decide)]
      exact (rdBit_diagTaken_other (by decide) (by decide)).trans hidle
    have hlink : linkUp (wr u Reg.cpDiagCtrl [c] 5 4 2) (48 + c) = true := by
      rw [linkUp_copper] at hup ⊢
      exact (hw.2.rdBit_eq (by simpa using (copper_apart c).2.symm)).trans hup
    exact does_of_all hexec hw.1 ⟨hbit, rd_wr_same (by decide) (by decide), hlink⟩ fun _ _ h => h
  case diagDone =>
    intro s c pairs hruns
    set f : Nat → Word := fun k => BitVec.ofNat 32 ((pairResult (pairs.getD k (0, 0))).1 * 256 + (pairResult (pairs.getD k (0, 0))).2)
    set u := pairsShown s c f 4
    have hshown : (List.range 4).foldl (fun s k => putWord s Reg.cpDiagPair [c, k] (BitVec.ofNat 32
        ((((List.range 4).map fun k => pairResult (pairs.getD k (0, 0))).getD k (0, 0)).1 * 256 +
          (((List.range 4).map fun k => pairResult (pairs.getD k (0, 0))).getD k (0, 0)).2))) s = u := by
      refine List.foldl_ext _ _ s fun t k hk => ?_
      rw [List.getD_eq_getElem?_getD, List.getElem?_map, List.getElem?_range (List.mem_range.mp hk)]
      rfl
    let fault := ((List.range 4).map fun k => pairResult (pairs.getD k (0, 0))).any fun r => decide (2 ≤ r.1 ∧ r.1 ≤ 5)
    have hexec : exec (.cableDiagDone c pairs) s = done (beginLink (diagEnded u c fault) (48 + c)) := by
      show execCableDiagDone c pairs s = _
      simp only [execCableDiagDone, hruns, if_true, hshown]
      rfl
    have hu : Within [.inForce] _ s u := within_pairsShown s c f 4
    have hend := within_diagEnded u c fault
    have hbegin := within_beginLink (diagEnded u c fault) (48 + c)
    obtain ⟨hbit, hresult, hstops⟩ := diagEnded_spec u c fault
    refine does_of_all hexec ((hu.append (hend.append hbegin)).1.mono (by decide)) ⟨hbit, hresult, hstops, fun k hk => ?_⟩
      fun _ _ h => h
    exact ((hend.append hbegin).2.word_eq (by simpa using diag_ne_pair c k)).trans (word_pairsShown s c f hk)
  case pair =>
    intro v d h2 h5 hd
    have hv : (BitVec.ofNat 3 v).toNat = v := by rw [BitVec.toNat_ofNat]; omega
    have hdist : (BitVec.ofNat 8 d).toNat = d := by rw [BitVec.toNat_ofNat]; omega
    have h7 : v ≠ 7 := by omega
    simp only [pairResult, hv, hdist, h7, if_false, h2, h5, and_self, if_true]
    split
    · rfl
    · split <;> rfl

end Sys2Proof.Machine

/-! PROOFS. Where a frame goes (R118, R122, R123). -/
namespace Sys2Proof.Machine

section
variable {s : State} {v : BitVec 256} {fid : Nat} {b : List Byte} {h : Header} {e : BitVec 128}

theorem snoopOf_of_not_snooped (hs : snooped v b h = none) : snoopOf s v b h = none := by
  rw [snoopOf, hs]; rfl

/-- Broadcast that is not snooped floods under the broadcast policer. -/
theorem resolve_broadcast (hb : h.bcast = true) (hs : snooped v b h = none) :
    resolve s v fid b h = { Dest.none with ports := floodSet v, storm := some 2 } := by
  simp only [resolve, snoopOf_of_not_snooped hs, if_pos hb]

/-- A unicast entry on a local port. -/
theorem resolve_local (hb : h.bcast = false) (hs : snooped v b h = none) (he : lookupDa s fid h = some e)
    (hkind : fld e 113 112 = 0) (hport : fld e 88 82 ≤ 95) :
    resolve s v fid b h = { Dest.none with
      ports := [fld e 88 82], named := some (fld e 88 82), act := fld e 124 123, actClass := fld e 120 118 } := by
  have hlocal : ¬ 95 < fld e 88 82 := by omega
  simp only [resolve, snoopOf_of_not_snooped hs, hb, he, hkind, if_neg hlocal, Bool.false_eq_true, if_false]

/-- What is left of a set: the bridge port of a forwarding member port off the ingress port's own bridge port. -/
theorem mem_pruned {s : State} {p d : Nat} {ports : List Nat} : d ∈ pruned s p v ports ↔
    ∃ q ∈ ports, bridgePort s q = d ∧ flag v q = true ∧ portCfg s q 25 24 = 3 ∧ bridgePort s q ≠ bridgePort s p := by
  simp only [pruned, List.mem_mergeSort, List.mem_eraseDups, List.mem_map, List.mem_filter, Bool.and_eq_true, bne_iff_ne,
    beq_iff_eq]
  constructor
  · rintro ⟨q, ⟨hq, ⟨haway, hmember⟩, hforwards⟩, hbridge⟩
    exact ⟨q, hq, hbridge, hmember, hforwards, haway⟩
  · rintro ⟨q, hq, hbridge, hmember, hforwards, haway⟩
    exact ⟨q, ⟨hq, ⟨haway, hmember⟩, hforwards⟩, hbridge⟩

theorem nodup_eraseDups (l : List Nat) : l.eraseDups.Nodup := by
  induction hn : l.length using Nat.strong_induction_on generalizing l with
  | _ n ih =>
    cases l with
    | nil => simp
    | cons a l =>
      rw [List.eraseDups_cons, List.nodup_cons]
      have hshorter : (l.filter fun b => !b == a).length < n := by
        rw [← hn]; exact Nat.lt_succ_of_le (List.length_filter_le _ l)
      exact ⟨by simp, ih _ hshorter _ rfl⟩

theorem pruned_nodup (s : State) (p : Nat) (v : BitVec 256) (ports : List Nat) : (pruned s p v ports).Nodup :=
  (List.mergeSort_perm _ _).nodup_iff.mpr (nodup_eraseDups _)

theorem not_mem_pruned_ingress {p : Nat} {ports : List Nat} (hp : pairOf s p = none) : p ∉ pruned s p v ports := by
  rw [mem_pruned]
  rintro ⟨q, -, hbridge, -, -, haway⟩
  exact haway (hbridge.trans (by rw [bridgePort, hp]))

end

/-- Settles O18: `resolve` follows its branches for broadcast and for a local unicast entry, and `pruned` is characterised by
`mem_pruned`. -/
theorem destinationsResolve : Obligations.DestinationsResolve := by
  refine ⟨fun s v fid b h hb hs => ?_, fun s v fid b h e hb hs he hkind hport => ?_, fun s p v ports e he => mem_pruned.mp he,
    fun s p v ports => ⟨pruned_nodup s p v ports, fun hp _ => not_mem_pruned_ingress hp⟩⟩
  · rw [resolve_broadcast hb hs]; exact ⟨rfl, rfl, rfl⟩
  · rw [resolve_local hb hs he hkind hport]; exact ⟨rfl, rfl, rfl⟩

end Sys2Proof.Machine

/-! PROOFS. The FDB writer (R116, R126, R127, R131, R133, R137): what a landing and the removal of flushed keys leave. -/
namespace Sys2Proof.Machine

/-! ### One entry lands -/

/-- The entry stored when `e` lands at index `i`: HOME is kept in stash entries alone. -/
def landed (s : State) (i : Nat) (e : BitVec 128) : BitVec 128 :=
  let e := setFld (e &&& fdbMask) 65 60 0
  if i < fdbSize ∨ !flag e 127 then e else setFld e 65 60 (homeSeg s (entryKey e))

/-- The state with entry `e` held at index `i`. -/
def putFdb (s : State) (i : Nat) (e : BitVec 128) : State :=
  { s with fdb := { s.fdb with entries := set 0 s.fdb.entries i e } }

section
variable {s : State} {i j k : Nat} {e : BitVec 128}

theorem landed_main (h : i < fdbSize) : landed s i e = setFld (e &&& fdbMask) 65 60 0 := if_pos (.inl h)

theorem landed_zero : landed s i 0 = 0 := by
  have hzero : setFld ((0 : BitVec 128) &&& fdbMask) 65 60 0 = 0 := by decide +kernel
  rw [landed, hzero]
  exact if_pos (.inr (by decide +kernel))

/-- On a unit that keeps no twin in step an entry lands in the table alone. -/
theorem landFdb_of_unpaired (h : activePaired s = false) : landFdb s i e = putFdb s i (landed s i e) :=
  mirror_of_unpaired (s := putFdb s i (landed s i e)) h 1 _ _

@[simp] theorem fdbEntry_putFdb_same : fdbEntry (putFdb s i e) i = e := get_set_same

theorem fdbEntry_putFdb_other (h : j ≠ i) : fdbEntry (putFdb s i e) j = fdbEntry s j := get_set_other h

theorem onlyChanges_putFdb (s : State) (i : Nat) (e : BitVec 128) : OnlyChanges [.fdb] s (putFdb s i e) :=
  onlyChanges_of_fdb s _

@[simp] theorem ctr_putFdb (g : CtrGroup) (ix : List Nat) (n : Nat) : ctr (putFdb s i e) g ix n = ctr s g ix n := rfl

/-! ### Keys are found where entries hold them -/

theorem fdbKeyAt_putFdb_other (h : j ≠ i) : fdbKeyAt (putFdb s i e) j = fdbKeyAt s j := by
  rw [fdbKeyAt, fdbEntry_putFdb_other h, fdbKeyAt]

theorem fdbKeyAt_putFdb_invalid (h : flag e 127 = false) : fdbKeyAt (putFdb s i e) i = none := by
  rw [fdbKeyAt, fdbEntry_putFdb_same, h]; rfl

/-- The indices at which a key may be found (R126, R127, R133). -/
def fdbCandidates (s : State) (k : Nat) : List Nat :=
  ((List.range 4).flatMap fun b => (List.range 4).map (fdbFirst s b k + ·)) ++ (List.range 64).map (fdbSize + ·)

theorem fdbFind_eq (s : State) (k : Nat) : fdbFind s k = (fdbCandidates s k).filter fun i => fdbKeyAt s i == some k := by
  rw [fdbCandidates, List.filter_append]; rfl

/-- A key found at one index only is nowhere once that entry is gone. -/
theorem fdbFind_putFdb_gone (h : fdbFind s k = [i]) (he : flag e 127 = false) : fdbFind (putFdb s i e) k = [] := by
  rw [fdbFind_eq] at h ⊢
  refine List.filter_eq_nil_iff.mpr fun j hj => ?_
  by_cases hji : j = i
  · subst hji; rw [fdbKeyAt_putFdb_invalid he]; exact fun hnone => nomatch hnone
  · rw [fdbKeyAt_putFdb_other hji]
    intro hheld
    have hmem : j ∈ (fdbCandidates s k).filter fun i => fdbKeyAt s i == some k := List.mem_filter.mpr ⟨hj, hheld⟩
    rw [h] at hmem
    exact hji (List.mem_singleton.mp hmem)

end

/-! ### Flushed keys that are gone are done with -/

section
variable {s : State} {i j : Nat}

/-- `pruneFlushes` rewrites the flushes in progress alone. -/
theorem pruneFlushes_fdb (s : State) : ∃ l, pruneFlushes s = { s with fdb := { s.fdb with flushes := l } } := by
  unfold pruneFlushes
  split
  · exact ⟨s.fdb.flushes, rfl⟩
  · exact ⟨_, rfl⟩

theorem pruneFlushes_of_none (h : s.fdb.flushes = []) : pruneFlushes s = s := if_pos h

theorem onlyChanges_pruneFlushes (s : State) : OnlyChanges [.fdb] s (pruneFlushes s) := by
  obtain ⟨l, hl⟩ := pruneFlushes_fdb s
  rw [hl]; exact onlyChanges_of_fdb s _

@[simp] theorem fdbEntry_pruneFlushes (s : State) (i : Nat) : fdbEntry (pruneFlushes s) i = fdbEntry s i := by
  obtain ⟨l, hl⟩ := pruneFlushes_fdb s
  rw [hl]; rfl

theorem pruneFlushes_fields (s : State) : (pruneFlushes s).fdb = { s.fdb with flushes := (pruneFlushes s).fdb.flushes } := by
  obtain ⟨l, hl⟩ := pruneFlushes_fdb s
  rw [hl]

theorem movesThisTick_pruneFlushes (s : State) : (pruneFlushes s).fdb.movesThisTick = s.fdb.movesThisTick := by
  obtain ⟨l, hl⟩ := pruneFlushes_fdb s
  rw [hl]

/-- One flush of one key that is gone is complete. -/
theorem flushes_pruneFlushes_gone {f : Flush} {k : Nat} (hf : s.fdb.flushes = [f]) (hk : f.todo = [k]) (hgone : fdbFind s k = []) :
    (pruneFlushes s).fdb.flushes = [] := by
  rw [pruneFlushes, if_neg (by rw [hf]; exact List.cons_ne_nil f [])]
  simp only [hf, List.map_cons, List.map_nil, hk, List.filter_cons, hgone, List.any_nil, List.filter_nil]
  rfl

/-- One entry removed, on a unit that keeps no twin in step. -/
theorem clearFdb_one (h : activePaired s = false) : clearFdb s [i] = pruneFlushes (putFdb s i 0) := by
  rw [clearFdb, List.foldl_cons, List.foldl_nil, landFdb_of_unpaired h, landed_zero]

theorem onlyChanges_clearFdb_one (h : activePaired s = false) : OnlyChanges [.fdb] s (clearFdb s [i]) := by
  rw [clearFdb_one h]
  exact (onlyChanges_putFdb s i 0).trans (onlyChanges_pruneFlushes _)

theorem fdbEntry_clearFdb_same (h : activePaired s = false) : fdbEntry (clearFdb s [i]) i = 0 := by
  rw [clearFdb_one h, fdbEntry_pruneFlushes, fdbEntry_putFdb_same]

theorem fdbEntry_clearFdb_other (h : activePaired s = false) (hj : j ≠ i) : fdbEntry (clearFdb s [i]) j = fdbEntry s j := by
  rw [clearFdb_one h, fdbEntry_pruneFlushes, fdbEntry_putFdb_other hj]

/-- A removal leaves the rest of the FDB's state but the flushes in progress. -/
theorem clearFdb_fields (h : activePaired s = false) : (clearFdb s [i]).fdb =
    { s.fdb with entries := set 0 s.fdb.entries i 0, flushes := (clearFdb s [i]).fdb.flushes } := by
  rw [clearFdb_one h]; exact pruneFlushes_fields _

/-! ### Counters beside the table -/

@[simp] theorem fdb_bump (s : State) (g : CtrGroup) (ix : List Nat) (n m : Nat) : (bump s g ix n m).fdb = s.fdb := rfl

@[simp] theorem fdbEntry_bump (s : State) (g : CtrGroup) (ix : List Nat) (n m i : Nat) :
    fdbEntry (bump s g ix n m) i = fdbEntry s i := rfl

/-- A counter stands where no counter may change. -/
theorem ctr_of_onlyChanges {ps : List Part} {t : State} (h : OnlyChanges ps s t) (hp : Part.counters ∉ ps) (g : CtrGroup)
    (ix : List Nat) (n : Nat) : ctr t g ix n = ctr s g ix n := by
  have hsame : t.regs.counters = s.regs.counters := h .counters hp
  rw [ctr, ctr, hsame]

end

/-! ### A touch of the age array (R142) -/

section
variable {s : State} {i j : Nat}

theorem onlyChanges_touchFdb (s : State) (is : List Nat) : OnlyChanges [.fdb] s (touchFdb s is) := onlyChanges_of_fdb s _

theorem touchFdb_one : touchFdb s [i] = putFdb s i (setFld (fdbEntry s i) 111 96 s.fdb.tick) := by
  rw [touchFdb, List.foldl_cons, List.foldl_nil, putFdb, fdbEntry]

theorem fdbEntry_touchFdb_one_same : fdbEntry (touchFdb s [i]) i = setFld (fdbEntry s i) 111 96 s.fdb.tick := by
  rw [touchFdb_one, fdbEntry_putFdb_same]

theorem fdbEntry_touchFdb_one_other (h : j ≠ i) : fdbEntry (touchFdb s [i]) j = fdbEntry s j := by
  rw [touchFdb_one, fdbEntry_putFdb_other h]

end

end Sys2Proof.Machine

/-! PROOFS. Learning (R129 to R136): each case of a learn request, the writes of a chain, the stash and deferred requests. -/
namespace Sys2Proof.Machine

/-- The state once the front request has left the queue of R130. -/
def unqueued (s : State) (l : List LearnReq) : State := { s with fdb := { s.fdb with learnQueue := l } }

/-- The key of the station that a request names. -/
def LearnReq.key (q : LearnReq) : Nat := fdbKey q.fid q.mac.toNat

/-- The entry of a station that has moved to port `p` (R135). -/
def movedEntry (s : State) (i p : Nat) : BitVec 128 := setFld (setFld (fdbEntry s i) 88 82 p) 111 96 s.fdb.tick

/-- One more station has moved in this tick. -/
def moveCounted (s : State) : State := { s with fdb := { s.fdb with movesThisTick := s.fdb.movesThisTick + 1 } }

section
variable {s : State} {q : LearnReq} {l : List LearnReq} {i j : Nat}

theorem exec_learn (hq : s.fdb.learnQueue = q :: l) (hfree : writerFree s = true) (hreplay : s.fdb.replayQueue = []) :
    exec .learn s = done (learnOne (unqueued s l) q) := by
  show execLearn s = _
  have hempty : (s.fdb.replayQueue == []) = true := by rw [hreplay]; rfl
  simp only [execLearn, hq, hfree, hempty, Bool.and_self, if_true]
  rfl

/-! ### The cases of a request -/

theorem learnOne_refresh (hfind : fdbFind s q.key = [i]) (hport : fld (fdbEntry s i) 88 82 = q.port) :
    learnOne s q = touchFdb s [i] := by
  have hfind : fdbFind s (fdbKey q.fid q.mac.toNat) = [i] := hfind
  simp only [learnOne, hfind, if_pos hport]

theorem learnOne_stays (hfind : fdbFind s q.key = [i]) (hport : fld (fdbEntry s i) 88 82 ≠ q.port)
    (hfixed : flag (fdbEntry s i) 126 = true ∨ flag (fdbEntry s i) 125 = true) : learnOne s q = bump s Ctr.fdb [] 5 1 := by
  have hfind : fdbFind s (fdbKey q.fid q.mac.toNat) = [i] := hfind
  have hfixed : (flag (fdbEntry s i) 126 || flag (fdbEntry s i) 125) = true := by simpa using hfixed
  simp only [learnOne, hfind, if_neg hport, if_pos hfixed]

theorem learnOne_limit (hfind : fdbFind s q.key = [i]) (hport : fld (fdbEntry s i) 88 82 ≠ q.port)
    (hstatic : flag (fdbEntry s i) 126 = false) (hsecure : flag (fdbEntry s i) 125 = false)
    (hseg : segLocked s (fdbSeg s i) = false) (hlimit : atLimit s q.port = true) :
    learnOne s q = countPipe (clearFdb s [i]) q.port 6 1 := by
  have hfind : fdbFind s (fdbKey q.fid q.mac.toNat) = [i] := hfind
  simp only [learnOne, hfind, if_neg hport, hstatic, hsecure, List.any_cons, List.any_nil, hseg, Bool.or_self, hlimit, if_true,
    Bool.false_eq_true, if_false]

theorem learnOne_moves (hfind : fdbFind s q.key = [i]) (hport : fld (fdbEntry s i) 88 82 ≠ q.port)
    (hstatic : flag (fdbEntry s i) 126 = false) (hsecure : flag (fdbEntry s i) 125 = false)
    (hseg : segLocked s (fdbSeg s i) = false) (hlimit : atLimit s q.port = false) :
    learnOne s q = bump (pruneFlushes (moveCounted (landFdb s i (movedEntry s i q.port)))) Ctr.fdb [] 4 1 := by
  have hfind : fdbFind s (fdbKey q.fid q.mac.toNat) = [i] := hfind
  simp only [learnOne, hfind, if_neg hport, hstatic, hsecure, List.any_cons, List.any_nil, hseg, Bool.or_self, hlimit,
    Bool.false_eq_true, if_false, List.foldl_cons, List.foldl_nil]
  rfl

theorem learnOne_new {rot walk : Nat} (hfind : fdbFind s q.key = []) (hlimit : atLimit s q.port = false)
    (hplace : place 4 fdbSize 64 (fdbFirst s) (fdbKeyAt s) (fun i => segLocked s (fdbSeg s i)) (segLocked s (homeSeg s q.key))
      s.fdb.rot s.fdb.walk q.key = (.slot i, rot, walk)) :
    learnOne s q = bump (landFdb (putWalk s rot walk) i (freshEntry s q.key q.port)) Ctr.fdb [] 0 1 := by
  have hfind : fdbFind s (fdbKey q.fid q.mac.toNat) = [] := hfind
  unfold LearnReq.key at hplace
  simp only [learnOne, hfind, hlimit, Bool.false_eq_true, if_false, hplace]
  rfl

end

/-! ### What each case leaves -/

section
variable {s : State} {q : LearnReq} {l : List LearnReq} {i j : Nat}

theorem onlyChanges_unqueued (s : State) (l : List LearnReq) : OnlyChanges [.fdb] s (unqueued s l) := onlyChanges_of_fdb s _

theorem ctr_fdb_count {u : State} (h : OnlyChanges [.fdb] s u) {i : Nat} (hw : Ctr.fdb.widths.getD i 0 = 40) :
    ctr (bump u Ctr.fdb [] i 1) Ctr.fdb [] i = (ctr s Ctr.fdb [] i + 1) % 2 ^ 40 := by
  rw [ctr_bump_same, hw, ctr_of_onlyChanges h (by decide)]

/-- A new key in the slot that R132 gives it. -/
def learnedNew (s : State) (q : LearnReq) (l : List LearnReq) (i rot walk : Nat) : State :=
  putFdb (putWalk (unqueued s l) rot walk) i (setFld (freshEntry s q.key q.port &&& fdbMask) 65 60 0)

theorem onlyChanges_learnedNew (s : State) (q : LearnReq) (l : List LearnReq) (i rot walk : Nat) :
    OnlyChanges [.fdb] s (learnedNew s q l i rot walk) :=
  ((onlyChanges_unqueued s l).trans (onlyChanges_of_fdb _ _)).trans (onlyChanges_putFdb _ _ _)

theorem fdbEntry_learnedNew_other {rot walk : Nat} (h : j ≠ i) : fdbEntry (learnedNew s q l i rot walk) j = fdbEntry s j := by
  rw [learnedNew, fdbEntry_putFdb_other h]; rfl

theorem learnQueue_learnedNew {rot walk : Nat} : (learnedNew s q l i rot walk).fdb.learnQueue = l := rfl

theorem exec_learn_new {rot walk : Nat} (halone : Alone s) (hq : s.fdb.learnQueue = q :: l) (hfree : writerFree s = true)
    (hreplay : s.fdb.replayQueue = []) (hfind : fdbFind s q.key = []) (hlimit : atLimit s q.port = false) (hi : i < fdbSize)
    (hplace : place 4 fdbSize 64 (fdbFirst s) (fdbKeyAt s) (fun i => segLocked s (fdbSeg s i)) (segLocked s (homeSeg s q.key))
      s.fdb.rot s.fdb.walk q.key = (.slot i, rot, walk)) :
    exec .learn s = done (bump (learnedNew s q l i rot walk) Ctr.fdb [] 0 1) := by
  rw [exec_learn hq hfree hreplay, learnOne_new (s := unqueued s l) hfind hlimit hplace,
    landFdb_of_unpaired (s := putWalk (unqueued s l) rot walk) halone.2, landed_main hi]
  rfl

/-- A station that has moved to the port of its request. -/
def learnedMove (s : State) (q : LearnReq) (l : List LearnReq) (i : Nat) : State :=
  pruneFlushes (moveCounted (putFdb (unqueued s l) i (setFld (movedEntry s i q.port &&& fdbMask) 65 60 0)))

theorem onlyChanges_learnedMove (s : State) (q : LearnReq) (l : List LearnReq) (i : Nat) :
    OnlyChanges [.fdb] s (learnedMove s q l i) :=
  (((onlyChanges_unqueued s l).trans (onlyChanges_putFdb _ _ _)).trans (onlyChanges_of_fdb _ _)).trans
    (onlyChanges_pruneFlushes _)

theorem fdbEntry_moveCounted (s : State) (i : Nat) : fdbEntry (moveCounted s) i = fdbEntry s i := rfl

theorem fdbEntry_unqueued (s : State) (l : List LearnReq) (i : Nat) : fdbEntry (unqueued s l) i = fdbEntry s i := rfl

theorem fdbEntry_learnedMove_same : fdbEntry (learnedMove s q l i) i = setFld (movedEntry s i q.port &&& fdbMask) 65 60 0 := by
  rw [learnedMove, fdbEntry_pruneFlushes, fdbEntry_moveCounted, fdbEntry_putFdb_same]

theorem fdbEntry_learnedMove_other (h : j ≠ i) : fdbEntry (learnedMove s q l i) j = fdbEntry s j := by
  rw [learnedMove, fdbEntry_pruneFlushes, fdbEntry_moveCounted, fdbEntry_putFdb_other h, fdbEntry_unqueued]

theorem movesThisTick_moveCounted (s : State) : (moveCounted s).fdb.movesThisTick = s.fdb.movesThisTick + 1 := rfl

theorem movesThisTick_putFdb (s : State) (i : Nat) (e : BitVec 128) : (putFdb s i e).fdb.movesThisTick = s.fdb.movesThisTick := rfl

theorem movesThisTick_unqueued (s : State) (l : List LearnReq) : (unqueued s l).fdb.movesThisTick = s.fdb.movesThisTick := rfl

theorem moves_learnedMove : (learnedMove s q l i).fdb.movesThisTick = s.fdb.movesThisTick + 1 := by
  rw [learnedMove, movesThisTick_pruneFlushes, movesThisTick_moveCounted, movesThisTick_putFdb, movesThisTick_unqueued]

theorem exec_learn_moves (halone : Alone s) (hq : s.fdb.learnQueue = q :: l) (hfree : writerFree s = true)
    (hreplay : s.fdb.replayQueue = []) (hi : i < fdbSize) (hfind : fdbFind s q.key = [i]) (hport : fld (fdbEntry s i) 88 82 ≠ q.port)
    (hstatic : flag (fdbEntry s i) 126 = false) (hsecure : flag (fdbEntry s i) 125 = false)
    (hseg : segLocked s (fdbSeg s i) = false) (hlimit : atLimit s q.port = false) :
    exec .learn s = done (bump (learnedMove s q l i) Ctr.fdb [] 4 1) := by
  rw [exec_learn hq hfree hreplay, learnOne_moves (s := unqueued s l) hfind hport hstatic hsecure hseg hlimit,
    landFdb_of_unpaired (s := unqueued s l) halone.2, landed_main hi]
  rfl

theorem exec_learn_limit (hq : s.fdb.learnQueue = q :: l) (hfree : writerFree s = true)
    (hreplay : s.fdb.replayQueue = []) (hfind : fdbFind s q.key = [i]) (hport : fld (fdbEntry s i) 88 82 ≠ q.port)
    (hstatic : flag (fdbEntry s i) 126 = false) (hsecure : flag (fdbEntry s i) 125 = false)
    (hseg : segLocked s (fdbSeg s i) = false) (hlimit : atLimit s q.port = true) :
    exec .learn s = done (countPipe (clearFdb (unqueued s l) [i]) q.port 6 1) := by
  rw [exec_learn hq hfree hreplay, learnOne_limit (s := unqueued s l) hfind hport hstatic hsecure hseg hlimit]

theorem onlyChanges_learnedLimit (halone : Alone s) (l : List LearnReq) (i p : Nat) :
    OnlyChanges [.fdb, .counters] s (countPipe (clearFdb (unqueued s l) [i]) p 6 1) :=
  OnlyChanges.append ((onlyChanges_unqueued s l).trans (onlyChanges_clearFdb_one halone.2)) (onlyChanges_bump _ _ _ _ _)

/-! ### A chain's moves (R133) -/

/-- One move of the chain in progress made. -/
def chainMoved (s : State) (src dst : Nat) (l : List (Nat × Nat)) : State :=
  putFdb { s with fdb := { s.fdb with chain := l } } dst (setFld (fdbEntry s src &&& fdbMask) 65 60 0)

theorem onlyChanges_chainMoved (s : State) (src dst : Nat) (l : List (Nat × Nat)) :
    OnlyChanges [.fdb] s (chainMoved s src dst l) := (onlyChanges_of_fdb s _).trans (onlyChanges_putFdb _ _ _)

theorem fdbEntry_chainMoved_other {src dst : Nat} {l : List (Nat × Nat)} (h : j ≠ dst) :
    fdbEntry (chainMoved s src dst l) j = fdbEntry s j := by rw [chainMoved, fdbEntry_putFdb_other h]; rfl

theorem exec_relocationMove {src dst : Nat} {l : List (Nat × Nat)} (halone : Alone s) (hchain : s.fdb.chain = (src, dst) :: l)
    (hd : dst < fdbSize) : exec .relocationMove s = done (bump (chainMoved s src dst l) Ctr.fdb [] 8 1) := by
  show done (chainStep s) = _
  simp only [chainStep, hchain]
  rw [landFdb_of_unpaired (s := { s with fdb := { s.fdb with chain := l } }) halone.2, landed_main hd]
  rfl

/-! ### The stash and deferred requests (R134, R140) -/

/-- A stash entry's chain to a free slot begins. -/
def drainBegun (s : State) (j x rot walk : Nat) : State :=
  startChain (putWalk { s with fdb := { s.fdb with stashNext := j + 1 } } rot walk) [] x (fdbEntry s (fdbSize + j)) (2 + j)

theorem exec_stashDrain {x rot walk : Nat} {moved : Bool} (hfree : writerFree s = true) (hreplay : s.fdb.replayQueue = [])
    (hlearn : s.fdb.learnQueue = [])
    (hnext : (((List.range 64).filter fun j => (fdbKeyAt s (fdbSize + j)).isSome).find? fun j => decide (s.fdb.stashNext ≤ j)) = some j)
    (hseg : segLocked s (fdbSeg s (fdbSize + j)) = false)
    (hplace : placeMain 4 (fdbFirst s) (fdbKeyAt s) (fun x => segLocked s (fdbSeg s x)) s.fdb.rot s.fdb.walk
      (entryKey (fdbEntry s (fdbSize + j))) = (some (.slot x), rot, walk, moved)) :
    exec .stashDrain s = done (drainBegun s j x rot walk) := by
  show execStashDrain s = _
  have hempty : (s.fdb.replayQueue == []) = true := by rw [hreplay]; rfl
  have hnone : (s.fdb.learnQueue == []) = true := by rw [hlearn]; rfl
  have hseg' : segLocked { s with fdb := { s.fdb with stashNext := j + 1 } }
      (fdbSeg { s with fdb := { s.fdb with stashNext := j + 1 } } (fdbSize + j)) = false := hseg
  have hplace' : placeMain 4 (fdbFirst { s with fdb := { s.fdb with stashNext := j + 1 } })
      (fdbKeyAt { s with fdb := { s.fdb with stashNext := j + 1 } })
      (fun x => segLocked { s with fdb := { s.fdb with stashNext := j + 1 } }
        (fdbSeg { s with fdb := { s.fdb with stashNext := j + 1 } } x)) s.fdb.rot s.fdb.walk
      (entryKey (fdbEntry { s with fdb := { s.fdb with stashNext := j + 1 } } (fdbSize + j))) =
      (some (.slot x), rot, walk, moved) := hplace
  simp only [execStashDrain, hfree, hempty, hnone, Bool.and_self, Bool.not_true, Bool.false_eq_true, if_false, hnext,
    Option.some_or, hseg', hplace']
  rfl

theorem noChain_of_writerFree (h : writerFree s = true) : noChain s = true := by
  rw [writerFree, Bool.and_eq_true] at h; exact h.1

/-- The one released request, performed. -/
def replayed (s : State) (i : Nat) : State := touchFdb { s with fdb := { s.fdb with replayQueue := [] } } [i]

theorem exec_deferralReplay (hfree : writerFree s = true) (hreplay : s.fdb.replayQueue = [q]) (hfind : fdbFind s q.key = [i])
    (hport : fld (fdbEntry s i) 88 82 = q.port) : exec .deferralReplay s = done (replayed s i) := by
  show execDeferralReplay s = _
  have hone := learnOne_refresh (s := { s with fdb := { s.fdb with replayQueue := [] } }) (q := q) (i := i) hfind hport
  simp only [execDeferralReplay, hfree, if_true, hreplay, replay, noChain_of_writerFree hfree, hone]
  rfl

end

/-- Settles O19: each case of a learn request by its equation, then what the state that it names leaves. -/
theorem stationsAreLearned : Obligations.StationsAreLearned := by
  refine ⟨fun s q l i rot walk halone hq hfree hreplay hfind hlimit hi hplace => ?_,
    fun s q l i hq hfree hreplay hfind hport => ?_,
    fun s q l i halone hq hfree hreplay hi hfind hport hstatic hsecure hseg hlimit => ?_,
    fun s q l i hq hfree hreplay hfind hport hfixed => ?_,
    fun s q l i halone hq hfree hreplay hi hfind hport hstatic hsecure hseg hlimit => ?_,
    fun s src dst l halone hchain hd => ?_,
    fun s j x rot walk moved hj hfree hreplay hlearn hnext hseg hplace => ?_,
    fun s q i hfree hreplay hfind hport => ?_⟩
  · refine does_of_all (exec_learn_new halone hq hfree hreplay hfind hlimit hi hplace)
      ((onlyChanges_learnedNew s q l i rot walk).append (onlyChanges_bump _ _ _ _ _)) ⟨?_, fun j hj => ?_, ?_, ?_⟩ fun _ _ h => h
    · rw [fdbEntry_bump, learnedNew, fdbEntry_putFdb_same]; rfl
    · rw [fdbEntry_bump, fdbEntry_learnedNew_other hj]
    · rw [fdb_bump, learnQueue_learnedNew]
    · exact ctr_fdb_count (onlyChanges_learnedNew s q l i rot walk) rfl
  · have hexec : exec .learn s = done (touchFdb (unqueued s l) [i]) := by
      rw [exec_learn hq hfree hreplay, learnOne_refresh (s := unqueued s l) hfind hport]
    refine does_of_all hexec ((onlyChanges_unqueued s l).trans (onlyChanges_touchFdb _ _)) ⟨?_, fun j hj => ?_, rfl⟩ fun _ _ h => h
    · rw [fdbEntry_touchFdb_one_same]; rfl
    · rw [fdbEntry_touchFdb_one_other hj, fdbEntry_unqueued]
  · refine does_of_all (exec_learn_moves halone hq hfree hreplay hi hfind hport hstatic hsecure hseg hlimit)
      ((onlyChanges_learnedMove s q l i).append (onlyChanges_bump _ _ _ _ _)) ⟨?_, fun j hj => ?_, ?_, ?_⟩ fun _ _ h => h
    · rw [fdbEntry_bump, fdbEntry_learnedMove_same]; rfl
    · rw [fdbEntry_bump, fdbEntry_learnedMove_other hj]
    · rw [fdb_bump, moves_learnedMove]
    · exact ctr_fdb_count (onlyChanges_learnedMove s q l i) rfl
  · have hexec : exec .learn s = done (bump (unqueued s l) Ctr.fdb [] 5 1) := by
      rw [exec_learn hq hfree hreplay, learnOne_stays (s := unqueued s l) hfind hport hfixed]
    exact does_of_all hexec ((onlyChanges_unqueued s l).append (onlyChanges_bump _ _ _ _ _))
      ⟨rfl, ctr_fdb_count (onlyChanges_unqueued s l) rfl⟩ fun _ _ h => h
  · refine does_of_all (exec_learn_limit hq hfree hreplay hfind hport hstatic hsecure hseg hlimit)
      (onlyChanges_learnedLimit halone l i q.port) ⟨?_, fun j hj => ?_, ?_⟩ fun _ _ h => h
    · rw [countPipe, fdbEntry_bump, fdbEntry_clearFdb_same (s := unqueued s l) halone.2]
    · rw [countPipe, fdbEntry_bump, fdbEntry_clearFdb_other (s := unqueued s l) halone.2 hj, fdbEntry_unqueued]
    · rw [countPipe, fdb_bump, clearFdb_fields (s := unqueued s l) halone.2]; rfl
  · refine does_of_all (exec_relocationMove halone hchain hd)
      ((onlyChanges_chainMoved s src dst l).append (onlyChanges_bump _ _ _ _ _)) ⟨?_, fun j hj => ?_, rfl, ?_⟩ fun _ _ h => h
    · rw [fdbEntry_bump, chainMoved, fdbEntry_putFdb_same]
    · rw [fdbEntry_bump, fdbEntry_chainMoved_other hj]
    · exact ctr_fdb_count (onlyChanges_chainMoved s src dst l) rfl
  · exact does_of_all (exec_stashDrain hfree hreplay hlearn hnext hseg hplace) (onlyChanges_of_fdb s _) rfl fun _ _ h => h
  · refine does_of_all (exec_deferralReplay hfree hreplay hfind hport)
      ((onlyChanges_of_fdb s _).trans (onlyChanges_touchFdb _ _)) ⟨rfl, ?_, fun j hj => ?_⟩ fun _ _ h => h
    · rw [replayed, fdbEntry_touchFdb_one_same]; rfl
    · rw [replayed, fdbEntry_touchFdb_one_other hj]; rfl

end Sys2Proof.Machine

/-! PROOFS. Aging and flushes (R137, R143 to R145), and registers whose words come into force as they are written. -/
namespace Sys2Proof.Machine

/-! ### Registers without a rule of their own -/

/-- The bases of the rows that a rule of their own governs: who may write them, or what may be in force in them. -/
def ruledBases : List Nat :=
  [Reg.irqRoute.base, Reg.bpmPoolRes.base, Reg.hpModCfg.base, Reg.bpmAccMax.base, Reg.bpmAccWarnA.base, Reg.bpmAccWarnB.base,
    Reg.bpmClsWarnA.base, Reg.bpmClsWarnB.base, Reg.strmPrpPair.base, Reg.twinClassMode.base, Reg.timeTbCfg.base,
    Reg.izlGrpShed.base, Reg.izlGrpCfg.base, Reg.schedVoqRoute.base]

/-- Every RW field of the row is IMM and takes any value, from any requester. -/
def RegRow.plain (r : RegRow) : Bool :=
  decide (r.applyMask .ms = 0 ∧ r.applyMask .frm = 0 ∧ r.applyMask .pkt = 0 ∧ r.base ∉ ruledBases ∧
    ∀ f ∈ r.fields, f.hold = .any ∧ f.lo ≤ f.hi ∧ f.hi < 32)

section
variable {s : State} {req : Requester} {r q : RegRow} {ix jx : List Nat} {data : Word}

theorem RegRow.plain.unruled (h : r.plain = true) : r.base ∉ ruledBases := (of_decide_eq_true h).2.2.2.1

theorem lawfulAt_of_plain (h : r.plain = true) (t : State) (ix : List Nat) : lawfulAt t r ix = true := by
  have hbase := RegRow.plain.unruled h
  simp only [ruledBases, List.mem_cons, List.not_mem_nil, or_false, not_or] at hbase
  simp [lawfulAt, hbase]

theorem heldAt_of_plain (h : r.plain = true) (w : Word) : r.heldAt ix w = w :=
  heldAt_of_any (fun hb => RegRow.plain.unruled h (by rw [hb]; decide)) (of_decide_eq_true h).2.2.2.2 w

theorem writable_of_plain (h : r.plain = true) : writable r req = r.mask fun f => f.acc == .rw :=
  if_neg fun hb => RegRow.plain.unruled h (by rw [hb.1]; decide)

theorem taken_of_plain (h : r.plain = true) : r.taken req = (r.mask fun f => f.acc == .rw) &&& r.applyMask .imm := by
  rw [RegRow.taken, writable_of_plain h]

theorem immediate_of_plain (h : r.plain = true) (hrow : rowAt (r.addr ix) = some (r, ix))
    (hapart : r.addr ix ≠ Reg.twinStat.addr []) : r.Immediate ix :=
  let ⟨hms, hfrm, hpkt, _, _⟩ := of_decide_eq_true h
  ⟨hrow, hms, hfrm, hpkt, fun t => lawfulAt_of_plain h t ix, hapart⟩

/-- The bits of a field that a write puts in force. -/
theorem fld_inForceBy {hi lo : Nat} (hm : hi < 32) (hplain : r.plain = true)
    (ht : ∀ i ≤ hi, lo ≤ i → flag ((r.mask fun f => f.acc == .rw) &&& r.applyMask .imm) i = true) :
    fld (inForceBy s req r ix data) hi lo = fld data hi lo :=
  fld_ext fun i hl hh => flag_inForceBy (by omega) (heldAt_of_plain hplain) (by rw [taken_of_plain hplain]; exact ht i hh hl)

theorem word_immediate_other (h : q.addr jx ≠ r.addr ix) : word (immediate s req r ix data) q jx = word s q jx :=
  (within_immediate s req r ix data).2.word_eq (by simpa using h)

end

/-! ### Aging (R143 to R145) -/

/-- `t` is `s` with other entries in the FDB and more keys that wait for their deletion. -/
def Scanned (s t : State) : Prop :=
  ∃ es q, t = { s with fdb := { s.fdb with entries := es, ageQueue := s.fdb.ageQueue ++ q } }

/-- The FDB once its tick has advanced, before the scanner's visits. -/
def ageTicked (s : State) : State :=
  { s with fdb := { s.fdb with tick := (s.fdb.tick + 1) % 65536, tickAt := nextAge s,
                               movesLastTick := s.fdb.movesThisTick, movesThisTick := 0 } }

section
variable {s t u : State} {k ts i j : Nat} {l : List (Nat × Nat)}

theorem Scanned.refl (s : State) : Scanned s s := ⟨s.fdb.entries, [], by rw [List.append_nil]⟩

theorem Scanned.trans (h : Scanned s t) (h' : Scanned t u) : Scanned s u := by
  obtain ⟨es, q, rfl⟩ := h
  obtain ⟨es', q', rfl⟩ := h'
  exact ⟨es', q ++ q', by rw [List.append_assoc]⟩

theorem scanned_putFdb (s : State) (i : Nat) (e : BitVec 128) : Scanned s (putFdb s i e) :=
  ⟨set 0 s.fdb.entries i e, [], by rw [List.append_nil, putFdb]⟩

theorem scanned_queued (s : State) (c : Prop) [Decidable c] (x : Nat × Nat) :
    Scanned s (if c then { s with fdb := { s.fdb with ageQueue := s.fdb.ageQueue ++ [x] } } else s) := by
  split
  · exact ⟨s.fdb.entries, [x], rfl⟩
  · exact .refl s

theorem scanned_scanEntry (s : State) (i : Nat) : Scanned s (scanEntry s i) := by
  unfold scanEntry
  extract_lets e age ts
  clear_value age ts
  split
  · exact .refl s
  · exact (scanned_putFdb s i (setFld e 111 96 ts)).trans (scanned_queued _ _ _)

theorem scanned_scan (is : List Nat) (s : State) : Scanned s (is.foldl scanEntry s) :=
  List.foldlRecOn (motive := Scanned s) is scanEntry (.refl s) fun t ht i _ => ht.trans (scanned_scanEntry t i)

theorem Scanned.onlyChanges (h : Scanned s t) : OnlyChanges [.fdb] s t := by
  obtain ⟨es, q, rfl⟩ := h
  exact onlyChanges_of_fdb s _

/-- The state once the oldest compare-and-delete has left its queue. -/
def unaged (s : State) (l : List (Nat × Nat)) : State := { s with fdb := { s.fdb with ageQueue := l } }

theorem exec_ageDelete_gone (hq : s.fdb.ageQueue = (k, ts) :: l) (hmay : deletesMay s = true) (hfind : fdbFind s k = [i])
    (hseg : segLocked s (fdbSeg s i) = false) (hstatic : flag (fdbEntry s i) 126 = false) (hts : fld (fdbEntry s i) 111 96 = ts) :
    exec .ageDelete s = done (bump (clearFdb (unaged s l) [i]) Ctr.fdb [] 6 1) := by
  show execAgeDelete s = _
  have hfind' : fdbFind { s with fdb := { s.fdb with ageQueue := l } } k = [i] := hfind
  have hseg' : segLocked { s with fdb := { s.fdb with ageQueue := l } }
    (fdbSeg { s with fdb := { s.fdb with ageQueue := l } } i) = false := hseg
  have hstatic' : flag (fdbEntry { s with fdb := { s.fdb with ageQueue := l } } i) 126 = false := hstatic
  have hts' : fld (fdbEntry { s with fdb := { s.fdb with ageQueue := l } } i) 111 96 = ts := hts
  simp only [execAgeDelete, hq, hmay, Bool.not_true, Bool.false_eq_true, if_false, hfind', List.any_cons, List.any_nil, hseg',
    hstatic', Bool.or_self, if_pos hts']
  rfl

theorem exec_ageDelete_saved (hq : s.fdb.ageQueue = (k, ts) :: l) (hmay : deletesMay s = true) (hfind : fdbFind s k = [i])
    (hseg : segLocked s (fdbSeg s i) = false) (hstatic : flag (fdbEntry s i) 126 = false) (hts : fld (fdbEntry s i) 111 96 ≠ ts) :
    exec .ageDelete s = done (bump (unaged s l) Ctr.fdb [] 7 1) := by
  show execAgeDelete s = _
  have hfind' : fdbFind { s with fdb := { s.fdb with ageQueue := l } } k = [i] := hfind
  have hseg' : segLocked { s with fdb := { s.fdb with ageQueue := l } }
    (fdbSeg { s with fdb := { s.fdb with ageQueue := l } } i) = false := hseg
  have hstatic' : flag (fdbEntry { s with fdb := { s.fdb with ageQueue := l } } i) 126 = false := hstatic
  have hts' : fld (fdbEntry { s with fdb := { s.fdb with ageQueue := l } } i) 111 96 ≠ ts := hts
  simp only [execAgeDelete, hq, hmay, Bool.not_true, Bool.false_eq_true, if_false, hfind', List.any_cons, List.any_nil, hseg',
    hstatic', Bool.or_self, if_neg hts']
  rfl

theorem onlyChanges_unaged (s : State) (l : List (Nat × Nat)) : OnlyChanges [.fdb] s (unaged s l) := onlyChanges_of_fdb s _

theorem onlyChanges_aged (halone : Alone s) (l : List (Nat × Nat)) (i : Nat) :
    OnlyChanges [.fdb] s (clearFdb (unaged s l) [i]) :=
  (onlyChanges_unaged s l).trans (onlyChanges_clearFdb_one (s := unaged s l) halone.2)

/-! ### Flushes (R137) -/

/-- The flush that a word of FDB_FLUSH orders. -/
def flushOf (data : Word) : Flush := ⟨flag data 29, flag data 28, flag data 27, fld data 26 20, fld data 19 8, true, []⟩

/-- The keys that a flush matches as it begins. -/
def flushKeys (s : State) (f : Flush) : List Nat := ((fdbValid s).filter fun x => flushMatches f x.2).map fun x => entryKey x.2

theorem fdbFlush_immediate : Reg.fdbFlush.Immediate [] := immediate_of_plain (by decide) (by decide +kernel) (by decide)

theorem startFlush_of_match {f : Flush} (h : flushKeys s f ≠ []) : startFlush s f =
    { s with fdb := { s.fdb with flushes := s.fdb.flushes ++ [{ f with todo := flushKeys s f }] } } := if_neg h

theorem flushKeys_congr (h : t.fdb = s.fdb) (f : Flush) : flushKeys t f = flushKeys s f := by
  rw [flushKeys, flushKeys, fdbValid, fdbValid, h]

/-- A state with one more flush in progress. -/
def flushBegun (s : State) (f : Flush) : State :=
  { s with fdb := { s.fdb with flushes := s.fdb.flushes ++ [{ f with todo := flushKeys s f }] } }

theorem fdb_flushBegun (h : t.fdb = s.fdb) (f : Flush) : (flushBegun t f).fdb =
    { s.fdb with flushes := s.fdb.flushes ++ [{ f with todo := flushKeys s f }] } := by
  rw [flushBegun, flushKeys_congr h, h]

theorem flushBusy_flushBegun {f : Flush} (h : f.fromCommand = true) : flushBusy (flushBegun s f) = true := by
  simp [flushBusy, flushBegun, h]

/-- FDB_FLUSH with GO, on a unit that keeps no twin in step. -/
theorem fdbFlush_eq {req : Requester} {data : Word} (halone : Alone s) (hgo : flag data 31 = true) (hidle : flushBusy s = false)
    (hmatch : flushKeys s (flushOf data) ≠ []) :
    fdbFlush s req data = flushBegun (immediate s req Reg.fdbFlush [] data) (flushOf data) := by
  have hplain : Reg.fdbFlush.plain = true := by decide
  have hstage := stage_immediate (req := req) (data := data) fdbFlush_immediate halone (by rw [taken_of_plain hplain]; decide)
  have hfdb : (immediate s req Reg.fdbFlush [] data).fdb = s.fdb := rfl
  have hbusy : flushBusy (immediate s req Reg.fdbFlush [] data) = false := hidle
  have hany (w : Word) : Reg.fdbFlush.heldAt [] w = w := heldAt_of_plain hplain w
  have hbit (i : Nat) (hi : i < 32) (h : flag (Reg.fdbFlush.taken req) i = true) :
      rdBit (immediate s req Reg.fdbFlush [] data) Reg.fdbFlush [] i = flag data i := by
    rw [rdBit, word_immediate_same, flag_inForceBy hi hany h]
  have hflush : (⟨rdBit (immediate s req Reg.fdbFlush [] data) Reg.fdbFlush [] 29,
      rdBit (immediate s req Reg.fdbFlush [] data) Reg.fdbFlush [] 28, rdBit (immediate s req Reg.fdbFlush [] data) Reg.fdbFlush [] 27,
      rd (immediate s req Reg.fdbFlush [] data) Reg.fdbFlush [] 26 20,
      rd (immediate s req Reg.fdbFlush [] data) Reg.fdbFlush [] 19 8, true, []⟩ : Flush) = flushOf data := by
    rw [hbit 29 (by decide) (by rw [taken_of_plain hplain]; decide), hbit 28 (by decide) (by rw [taken_of_plain hplain]; decide),
      hbit 27 (by decide) (by rw [taken_of_plain hplain]; decide), rd, rd, word_immediate_same,
      fld_inForceBy (by decide) hplain (by decide), fld_inForceBy (by decide) hplain (by decide)]
    rfl
  rw [fdbFlush, hstage]
  simp only [hgo, hbusy, Bool.not_false, Bool.and_self, if_true]
  rw [hflush, startFlush_of_match (by rwa [flushKeys_congr hfdb])]
  rfl

theorem exec_fdbFlush {req : Requester} {data : Word} (h : Reaches s req (Reg.fdbFlush.addr [])) (halone : Alone s)
    (hgo : flag data 31 = true) (hidle : flushBusy s = false) (hmatch : flushKeys s (flushOf data) ≠ []) :
    exec (.fdbFlush req data) s = done (flushBegun (immediate s req Reg.fdbFlush [] data) (flushOf data)) :=
  congrArg done ((accept_of_reaches h 0 _ _ _).trans (fdbFlush_eq halone hgo hidle hmatch))

theorem exec_flushDelete {f : Flush} (hkey : fdbKeyAt s i = some k) (hfind : fdbFind s k = [i]) (hmay : deletesMay s = true)
    (hf : f ∈ s.fdb.flushes) (hk : k ∈ f.todo) (hmatch : flushMatches f (fdbEntry s i) = true)
    (hseg : segLocked s (fdbSeg s i) = false) : exec (.flushDelete i) s = done (clearFdb s [i]) := by
  show execFlushDelete i s = _
  have hany : (s.fdb.flushes.any fun f => f.todo.contains k && flushMatches f (fdbEntry s i)) = true :=
    List.any_eq_true.mpr ⟨f, hf, by rw [List.contains_iff_mem.mpr hk, hmatch]; rfl⟩
  simp only [execFlushDelete, hkey, hfind, hmay, hany, List.any_cons, List.any_nil, hseg, Bool.or_self, Bool.not_false,
    Bool.and_self, if_true]

end

/-- Settles O20: the scan by `Scanned`, a removal by `clearFdb_one`, and FDB_FLUSH by `fdbFlush_eq`. -/
theorem stationsAgeAndFlush : Obligations.StationsAgeAndFlush := by
  refine ⟨fun s el now hnow hdue => ?_, fun s el now hnow hnot => ?_,
    fun s k ts l i halone hq hmay hflushes hfind hseg hstatic hts => ?_,
    fun s k ts l i hq hmay hfind hseg hstatic hts => ?_,
    fun s req data f h halone hgo hidle hf hmatch => ?_,
    fun s i k f halone hkey hfind hmay hf hk hmatch hseg => ?_⟩
  · have hexec : exec (.agingTick el) s = done ((keys (ageTicked now).fdb.entries).foldl scanEntry (ageTicked now)) := by
      show execAgingTick el s = _
      simp only [execAgingTick, ← hnow, if_neg (Nat.not_lt.mpr hdue)]
      rfl
    have hscan := scanned_scan (keys (ageTicked now).fdb.entries) (ageTicked now)
    refine doesFrom_of_all hexec ((onlyChanges_of_fdb now _).trans hscan.onlyChanges) ?_ fun _ _ h => h
    obtain ⟨es, q, ht⟩ := hscan
    rw [ht]
    exact ⟨rfl, rfl, rfl, rfl, List.prefix_append _ _, rfl, rfl, rfl⟩
  · refine doesFrom_nothing ?_
    show execAgingTick el s = _
    simp only [execAgingTick, ← hnow, if_pos hnot]
  · refine does_of_all (exec_ageDelete_gone hq hmay hfind hseg hstatic hts)
      ((onlyChanges_aged halone l i).append (onlyChanges_bump _ _ _ _ _)) ⟨?_, fun j hj => ?_, ?_, ?_⟩ fun _ _ h => h
    · rw [fdbEntry_bump, fdbEntry_clearFdb_same (s := unaged s l) halone.2]
    · rw [fdbEntry_bump, fdbEntry_clearFdb_other (s := unaged s l) halone.2 hj]; rfl
    · rw [fdb_bump, clearFdb_fields (s := unaged s l) halone.2]; rfl
    · exact ctr_fdb_count (onlyChanges_aged halone l i) rfl
  · exact does_of_all (exec_ageDelete_saved hq hmay hfind hseg hstatic hts)
      ((onlyChanges_unaged s l).append (onlyChanges_bump _ _ _ _ _)) ⟨rfl, ctr_fdb_count (onlyChanges_unaged s l) rfl⟩ fun _ _ h => h
  · subst hf
    have hkeys : flushKeys s (flushOf data) ≠ [] := by rw [flushKeys, ne_eq, List.map_eq_nil_iff]; exact hmatch
    refine does_of_all (exec_fdbFlush h halone hgo hidle hkeys)
      ((within_immediate s req Reg.fdbFlush [] data).1.append (onlyChanges_of_fdb _ _)) ⟨?_, ?_⟩ fun _ _ h => h
    · exact fdb_flushBegun (t := immediate s req Reg.fdbFlush [] data) (s := s) rfl (flushOf data)
    · exact flushBusy_flushBegun rfl
  · refine does_of_all (exec_flushDelete hkey hfind hmay hf hk hmatch hseg) (onlyChanges_clearFdb_one halone.2)
      ⟨fdbEntry_clearFdb_same halone.2, fun hflushes htodo => ?_, fun j hj => fdbEntry_clearFdb_other halone.2 hj⟩ fun _ _ h => h
    rw [clearFdb_one halone.2]
    exact flushes_pruneFlushes_gone (s := putFdb s i 0) hflushes htodo (fdbFind_putFdb_gone hfind (by decide +kernel))

end Sys2Proof.Machine

/-! PROOFS. Segment locks and seeds (R128, R138 to R140). -/
namespace Sys2Proof.Machine

section
variable {s : State} {req : Requester} {mc : Bool} {w g : Nat} {data : Word}

/-! ### The lock registers -/

theorem lockReg_addr (mc : Bool) (w : Nat) : (lockReg mc).addr [w] = 0xA00100 + 8 * bnat mc + 4 * w := by
  cases mc <;> simp [lockReg, RegRow.addr, Reg.fdbLockHost, Reg.fdbLockMc, offsetOf, bnat] <;> omega

theorem lockReg_not_apart (mc : Bool) {v w : Nat} (hv : v < 2) (hw : w < 2) : (lockReg (!mc)).addr [v] ≠ (lockReg mc).addr [w] := by
  rw [lockReg_addr, lockReg_addr]
  cases mc <;> simp [bnat] <;> omega

theorem lockExpireCnt_apart (mc : Bool) (w : Nat) (hw : w < 2) : (lockReg mc).addr [w] ≠ Reg.fdbLockExpireCnt.addr [] := by
  have haddr : Reg.fdbLockExpireCnt.addr [] = 0xa00210 := by decide
  rw [lockReg_addr, haddr]
  cases mc <;> simp [bnat] <;> omega

theorem segHeld_eq (s : State) (mc : Bool) (g : Nat) : segHeld s mc g = rdBit s (lockReg mc) [g / 32] (g % 32) := by
  cases mc <;> rfl

theorem onlyChanges_releaseDeferred (s : State) : OnlyChanges [.fdb] s (releaseDeferred s) := onlyChanges_of_fdb s _

theorem exec_fdbLockRequest (h : Reaches s req ((lockReg mc).addr [w])) (hmc : isMc req = mc) (hw : w < 2) :
    exec (.fdbLockRequest req mc ⟨w, hw⟩ data) s = done (lockWrite s mc w data) :=
  congrArg done ((accept_of_reaches h 0 _ _ _).trans (if_pos hmc))

theorem lockWrite_holds (h : word s (lockReg mc) [w] &&& ~~~data = 0) : lockWrite s mc w data = putStaged s (lockReg mc) [w] data :=
  if_pos h

theorem lockWrite_releases (h : word s (lockReg mc) [w] &&& ~~~data ≠ 0) : lockWrite s mc w data =
    releaseDeferred (putWord (putStaged s (lockReg mc) [w] data) (lockReg mc) [w] (word s (lockReg mc) [w] &&& data)) := if_neg h

/-! ### Grant and expiry -/

/-- Segment `g` granted. -/
def lockGranted (s : State) (mc : Bool) (g : Nat) : State :=
  wrBit { s with fdb := { s.fdb with lockAt := put s.fdb.lockAt (g + 64 * bnat mc) s.time.dt } } (lockReg mc) [g / 32] (g % 32) true

theorem exec_fdbLockGrant {g : Fin 64} (hreq : flag (stagedWord s (lockReg mc) [g.val / 32]) (g.val % 32) = true)
    (hfree : segLocked s g = false) (hidle : segBusy s g = false) : exec (.fdbLockGrant mc g) s = done (lockGranted s mc g) := by
  show execFdbLockGrant mc g s = _
  simp only [execFdbLockGrant, hreq, hfree, hidle, Bool.not_false, Bool.and_self, if_true]
  rfl

theorem within_lockGranted (s : State) (mc : Bool) (g : Nat) :
    Within [.inForce, .fdb] [(lockReg mc).addr [g / 32]] s (lockGranted s mc g) :=
  ((within_of_fdb s _).append (within_wrBit _ _ _ _ _)).mono (by decide) (by simp)

theorem segHeld_lockGranted_same : segHeld (lockGranted s mc g) mc g = true := by
  rw [segHeld_eq, lockGranted]
  exact rdBit_wrBit_same (Nat.mod_lt g (by decide))

theorem segHeld_lockGranted_other (hg : g < 64) : segHeld (lockGranted s mc g) (!mc) g = segHeld s (!mc) g := by
  rw [segHeld_eq, segHeld_eq, (within_lockGranted s mc g).2.rdBit_eq]
  simpa using lockReg_not_apart mc (show g / 32 < 2 by omega) (show g / 32 < 2 by omega)

/-- The lock on segment `g` expired. -/
def lockExpired (s : State) (mc : Bool) (g : Nat) : State :=
  noteLost (releaseDeferred (countEvent (wrBoth s (lockReg mc) [g / 32] (g % 32) (g % 32) 0) Reg.fdbLockExpireCnt [])) mc g

theorem exec_fdbLockExpire {g : Fin 64} (hheld : segHeld s mc g = true)
    (hdue : get 0 s.fdb.lockAt (g + 64 * bnat mc) + lockTicks ≤ s.time.dt) :
    exec (.fdbLockExpire mc g) s = done (lockExpired s mc g) := by
  show execFdbLockExpire mc g s = _
  simp only [execFdbLockExpire, hheld, decide_eq_true hdue, Bool.and_self, if_true]
  rfl

theorem within_lockExpired (s : State) (mc : Bool) (g : Nat) :
    Within [.staged, .inForce, .fdb, .host] [(lockReg mc).addr [g / 32], Reg.fdbLockExpireCnt.addr []] s (lockExpired s mc g) :=
  ((((within_wrBoth s _ _ _ _ _).append (within_countEvent _ _ _)).append (within_of_fdb _ _)).append
    (within_of_host _ _)).mono (by decide) (by simp)

/-- The words of a state whose lock has expired: the release of what waited and the note to a table DMA write none. -/
theorem word_lockExpired (r : RegRow) (ix : List Nat) : word (lockExpired s mc g) r ix =
    word (countEvent (wrBoth s (lockReg mc) [g / 32] (g % 32) (g % 32) 0) Reg.fdbLockExpireCnt []) r ix := rfl

theorem segHeld_lockExpired (hg : g < 64) : segHeld (lockExpired s mc g) mc g = false := by
  rw [segHeld_eq, rdBit, word_lockExpired, word_countEvent_other (lockExpireCnt_apart mc _ (by omega)), word_wrBoth_same]
  exact flag_setFld_same (b := false) (Nat.mod_lt g (by decide))

theorem stagedWord_lockExpired : flag (stagedWord (lockExpired s mc g) (lockReg mc) [g / 32]) (g % 32) = false := by
  have hstaged : stagedWord (lockExpired s mc g) (lockReg mc) [g / 32] =
    stagedWord (wrBoth s (lockReg mc) [g / 32] (g % 32) (g % 32) 0) (lockReg mc) [g / 32] := rfl
  rw [hstaged, wrBoth, stagedWord_putStaged_same]
  exact flag_setFld_same (b := false) (Nat.mod_lt g (by decide))

theorem expiries_lockExpired (hg : g < 64) :
    word (lockExpired s mc g) Reg.fdbLockExpireCnt [] = word s Reg.fdbLockExpireCnt [] + 1 := by
  rw [word_lockExpired, word_countEvent_same, word_wrBoth_other (lockExpireCnt_apart mc _ (by omega)).symm]

/-! ### Seeds (R128) -/

theorem fdbHashSeed_rows : ∀ b < 4, rowAt (Reg.fdbHashSeed.addr [b]) = some (Reg.fdbHashSeed, [b]) ∧
    Reg.fdbHashSeed.addr [b] ≠ Reg.twinStat.addr [] := by decide +kernel

theorem exec_fdbHashSeedWrite {b : Fin 4} (h : Reaches s req (Reg.fdbHashSeed.addr [b.val])) :
    exec (.fdbHashSeedWrite req b data) s = done (seedWrite s req b data) :=
  congrArg done (accept_of_reaches h 0 _ _ _)

theorem seedWrite_empty {b : Nat} (hb : b < 4) (halone : Alone s) (hempty : fdbValid s = []) :
    seedWrite s req b data = immediate s req Reg.fdbHashSeed [b] data := by
  have hplain : Reg.fdbHashSeed.plain = true := by decide
  rw [seedWrite, if_pos hempty]
  exact stage_immediate (immediate_of_plain hplain (fdbHashSeed_rows b hb).1 (fdbHashSeed_rows b hb).2) halone
    (by rw [taken_of_plain hplain]; decide)

/-- A row that is one field takes the whole word. -/
theorem word_immediate_whole {r : RegRow} {ix : List Nat} (hplain : r.plain = true)
    (hall : (r.mask fun f => f.acc == .rw) &&& r.applyMask .imm = 0xFFFFFFFF) : word (immediate s req r ix data) r ix = data := by
  refine BitVec.eq_of_getLsbD_eq fun i hi => ?_
  rw [word_immediate_same]
  exact flag_inForceBy hi (heldAt_of_plain hplain) (by rw [taken_of_plain hplain, hall]; exact (BitVec.getLsbD_allOnes).trans (decide_eq_true hi))

end

/-- Settles O21: each clause by the state that it leaves. -/
theorem segmentsLock : Obligations.SegmentsLock := by
  refine ⟨fun s req mc w data h hmc hheld => ?_, fun s req mc w data h hmc hheld => ?_,
    fun s mc g hreq hfree hidle => ?_, fun s mc g hheld hdue => ?_, fun s req b seed h halone hempty => ?_,
    fun s req b seed h hvalid => ?_⟩
  · exact does_of_all ((exec_fdbLockRequest h hmc w.2).trans (congrArg done (lockWrite_holds hheld)))
      (onlyChanges_putStaged s _ _ _) (stagedWord_putStaged_same s _ _ _) fun _ _ h => h
  · refine does_of_all ((exec_fdbLockRequest h hmc w.2).trans (congrArg done (lockWrite_releases hheld)))
      (((onlyChanges_putStaged s _ _ _).append (onlyChanges_putWord _ _ _ _)).append (onlyChanges_releaseDeferred _))
      ⟨?_, ?_, rfl⟩ fun _ _ h => h
    · exact word_putWord_same
    · exact (((within_putStaged s _ _ _).append (within_putWord _ _ _ _)).append (within_of_fdb _ _)).2.mono (by simp)
  · refine does_of_all (exec_fdbLockGrant hreq hfree hidle) (within_lockGranted s mc g).1
      ⟨segHeld_lockGranted_same, ?_, (within_lockGranted s mc g).2, rfl⟩ fun _ _ h => h
    rw [segHeld_lockGranted_other g.2]
    rw [segLocked, Bool.or_eq_false_iff] at hfree
    cases mc
    · exact hfree.2
    · exact hfree.1
  · exact does_of_all (exec_fdbLockExpire hheld hdue) (within_lockExpired s mc g).1
      ⟨rfl, segHeld_lockExpired g.2, stagedWord_lockExpired, expiries_lockExpired g.2, rfl, (within_lockExpired s mc g).2⟩
      fun _ _ h => h
  · refine does_of_all ((exec_fdbHashSeedWrite h).trans (congrArg done (seedWrite_empty b.2 halone hempty)))
      (within_immediate s req _ _ _).1 ⟨word_immediate_whole (by decide) (by decide), (within_immediate s req _ _ _).2⟩ fun _ _ h => h
  · exact doesFrom_nothing ((exec_fdbHashSeedWrite h).trans (congrArg done (if_neg hvalid)))

end Sys2Proof.Machine

/-! PROOFS. FDB_CMD, FDB_MDB_EDIT and the table epoch (R110, R116, R131, R139, R148, R557). -/
namespace Sys2Proof.Machine

/-! ### The words of an entry shown in registers -/

/-- The words `v 0` up to `v (n - 1)` written to the registers of a row, both halves. -/
def showWords (r : RegRow) (v : Nat → Nat) (n : Nat) (s : State) : State :=
  (List.range n).foldl (fun s w => wrBoth s r [w] 31 0 (v w)) s

section
variable {s : State} {r q : RegRow} {jx : List Nat} {v : Nat → Nat} {n w : Nat}

theorem setFld_whole (x : Word) (v : Nat) : setFld x 31 0 v = BitVec.ofNat 32 v := by
  refine BitVec.eq_of_toNat_eq ?_
  have hall : bits x.toNat 31 0 = x.toNat := (Nat.mod_eq_of_lt (by rw [Nat.pow_zero, Nat.div_one]; exact x.isLt)).trans (Nat.div_one _)
  rw [setFld_toNat (by decide) (by decide), hall, BitVec.toNat_ofNat, Nat.pow_zero, Nat.mul_one, Nat.mul_one, Nat.sub_self, Nat.zero_add]

theorem showWords_succ : showWords r v (n + 1) s = wrBoth (showWords r v n s) r [n] 31 0 (v n) := by
  rw [showWords, List.range_succ, List.foldl_append, List.foldl_cons, List.foldl_nil, showWords]

theorem within_showWords (r : RegRow) (v : Nat → Nat) (n : Nat) (s : State) :
    Within [.staged, .inForce] ((List.range n).map fun w => r.addr [w]) s (showWords r v n s) :=
  Within.foldl_mem (fun t w hw => (within_wrBoth t r [w] 31 0 (v w)).mono (by decide)
    (by simpa using ⟨w, List.mem_range.mp hw, rfl⟩)) s

/-- A word shown in a register of its own. -/
theorem word_showWords (hapart : ∀ i < n, ∀ j < n, i ≠ j → r.addr [i] ≠ r.addr [j]) (hw : w < n) :
    word (showWords r v n s) r [w] = BitVec.ofNat 32 (v w) := by
  induction n with
  | zero => omega
  | succ n ih =>
    rw [showWords_succ]
    rcases Nat.lt_succ_iff_lt_or_eq.mp hw with hlt | rfl
    · rw [word_wrBoth_other (hapart w (by omega) n (by omega) (by omega))]
      exact ih (fun i hi j hj => hapart i (by omega) j (by omega)) hlt
    · rw [word_wrBoth_same, setFld_whole]

/-- Writes whose values are read off parts of the state that they leave alone. -/
theorem foldl_wrBoth_eq_showWords {f : State → Nat → Nat} (hf : ∀ u w x, f (wrBoth u r [w] 31 0 x) = f u) :
    (List.range n).foldl (fun s w => wrBoth s r [w] 31 0 (f s w)) s = showWords r (f s) n s := by
  have hlist (l : List Nat) (t : State) : l.foldl (fun s w => wrBoth s r [w] 31 0 (f s w)) t =
      l.foldl (fun s w => wrBoth s r [w] 31 0 (f t w)) t := by
    induction l generalizing t with
    | nil => rfl
    | cons x l ih => rw [List.foldl_cons, List.foldl_cons, ih, hf]
  exact hlist _ s

/-- A word of an entry. -/
theorem toNat_div_two_pow {m : Nat} (e : BitVec m) {k : Nat} (hk : k < m) :
    (e / BitVec.ofNat m (2 ^ k)).toNat = e.toNat / 2 ^ k := by
  rw [BitVec.toNat_udiv, BitVec.toNat_ofNat, Nat.mod_eq_of_lt (Nat.pow_lt_pow_right (by decide) hk)]

/-! ### RESULT and INDEX of a command register -/

/-- RESULT in bits [2:0], with INDEX from bit 8 on where there is one. -/
def answered (s : State) (r : RegRow) (hi res : Nat) (i : Option Nat) : State :=
  match i with
  | none => wr s r [] 2 0 res
  | some i => wr (wr s r [] 2 0 res) r [] hi 8 i

theorem within_answered (s : State) (r : RegRow) (hi res : Nat) (i : Option Nat) :
    Within [.inForce] [r.addr []] s (answered s r hi res i) := by
  cases i with
  | none => exact within_wr s r [] 2 0 res
  | some i => exact (within_wr s r [] 2 0 res).trans (within_wr _ r [] hi 8 i)

theorem result_answered {hi res : Nat} (hh : 8 ≤ hi) (h32 : hi < 32) (i : Option Nat) :
    rd (answered s r hi res i) r [] 2 0 = res % 8 := by
  cases i with
  | none => exact rd_wr_same (by decide) (by decide)
  | some i =>
    rw [answered, rd, word_wr_same, fld_setFld_below hh h32 (by decide)]
    exact rd_wr_same (by decide) (by decide)

theorem index_answered {hi res i : Nat} (hh : 8 ≤ hi) (h32 : hi < 32) :
    rd (answered s r hi res (some i)) r [] hi 8 = i % 2 ^ (hi + 1 - 8) := rd_wr_same hh h32

end

/-! ### A free slot (R132) -/

/-- The slot of step 1 of R132, which moves no counter. -/
theorem place_eq_slot {banks size stash rot walk key i rot' walk' : Nat} {first : Nat → Nat → Nat} {keyAt : Nat → Option Nat}
    {locked : Nat → Bool} {home : Bool} :
    place banks size stash first keyAt locked home rot walk key = (.slot i, rot', walk') ↔
      ((List.range banks).findSome? fun b => freeSlot keyAt locked false (first b key)) = some i ∧ rot' = rot ∧ walk' = walk := by
  unfold place placeMain
  cases hfree : (List.range banks).findSome? fun b => freeSlot keyAt locked false (first b key) with
  | some j => simp [eq_comm]
  | none =>
    rcases chainWalk banks first keyAt locked 8 rot key [] walk false with ⟨_ | ⟨moves, j⟩, w, barred⟩
    · simp only [reduceCtorEq, false_and, iff_false]
      split
      · simp
      · split_ifs <;> simp
    · simp

theorem findSome?_congr_left {α β : Type} {f g : α → Option β} {l : List α} (h : ∀ x ∈ l, f x = g x) :
    l.findSome? f = l.findSome? g := by
  induction l with
  | nil => rfl
  | cons x l ih =>
    rw [List.findSome?_cons, List.findSome?_cons, h x List.mem_cons_self, ih fun y hy => h y (List.mem_cons_of_mem x hy)]

/-- Two tables alike in their buckets give a key the same free slot. -/
theorem place_slot_congr {banks size stash rot walk key i rot' walk' : Nat} {first first' : Nat → Nat → Nat}
    {keyAt : Nat → Option Nat} {locked locked' : Nat → Bool} {home home' : Bool} (hfirst : ∀ b < banks, first' b key = first b key)
    (hlocked : locked' = locked)
    (h : place banks size stash first keyAt locked home rot walk key = (.slot i, rot', walk')) :
    place banks size stash first' keyAt locked' home' rot walk key = (.slot i, rot', walk') := by
  rw [place_eq_slot] at h ⊢
  subst hlocked
  rw [← h.1]
  exact ⟨findSome?_congr_left fun b hb => by rw [hfirst b (List.mem_range.mp hb)], h.2⟩

/-! ### What FDB_CMD leaves of the table's other state -/

section
variable {s u : State} {req : Requester} {i k g : Nat}

theorem alone_of_within {ps : List Part} {l : List Nat} (h : Within ps l s u) (hl : Reg.twinStat.addr [] ∉ l) (ha : Alone s) :
    Alone u := by
  refine ⟨?_, ?_⟩
  · rw [role, h.2.rd_eq hl]; exact ha.1
  · rw [activePaired, role, h.2.rd_eq hl, h.2.rdBit_eq hl]; exact ha.2

/-- `u` holds the same FDB as `s`, with the same seeds and locks. -/
structure SameFdb (s u : State) : Prop where
  fdb : u.fdb = s.fdb
  seed : ∀ b < 4, word u Reg.fdbHashSeed [b] = word s Reg.fdbHashSeed [b]
  lock : ∀ mc w, word u (lockReg mc) [w] = word s (lockReg mc) [w]

theorem SameFdb.entry (h : SameFdb s u) (i : Nat) : fdbEntry u i = fdbEntry s i := by rw [fdbEntry, fdbEntry, h.fdb]

theorem SameFdb.first (h : SameFdb s u) {b : Nat} (hb : b < 4) (k : Nat) : fdbFirst u b k = fdbFirst s b k := by
  rw [fdbFirst, fdbFirst, h.seed b hb]

theorem SameFdb.keyAt (h : SameFdb s u) : fdbKeyAt u = fdbKeyAt s := by
  funext i; rw [fdbKeyAt, fdbKeyAt, h.entry]

theorem SameFdb.find (h : SameFdb s u) (k : Nat) : fdbFind u k = fdbFind s k := by
  have hbuckets : ((List.range 4).flatMap fun b => (List.range 4).map (fdbFirst u b k + ·)) =
      (List.range 4).flatMap fun b => (List.range 4).map (fdbFirst s b k + ·) :=
    List.flatMap_congr fun b hb => by rw [h.first (List.mem_range.mp hb)]
  rw [fdbFind, fdbFind, hbuckets, h.keyAt]

theorem SameFdb.seg (h : SameFdb s u) (i : Nat) : fdbSeg u i = fdbSeg s i := by rw [fdbSeg, fdbSeg, h.entry]

theorem SameFdb.home (h : SameFdb s u) (k : Nat) : homeSeg u k = homeSeg s k := by
  rw [homeSeg, homeSeg, h.first (by decide)]

theorem SameFdb.barred (h : SameFdb s u) (req : Requester) (g : Nat) : segBarred u req g = segBarred s req g := by
  rw [segBarred, segBarred, segHeld_eq, segHeld_eq, rdBit, rdBit, h.lock]

/-- FDB_CMD_CTRL with a command's word. -/
def fdbCommanded (s : State) (req : Requester) (data : Word) : State := immediate s req Reg.fdbCmdCtrl [] data

theorem fdbCmdCtrl_immediate : Reg.fdbCmdCtrl.Immediate [] := immediate_of_plain (by decide) (by decide +kernel) (by decide)

theorem fdbCmdCtrl_addr : Reg.fdbCmdCtrl.addr [] = 0xa00058 := by decide

theorem within_fdbCommanded (s : State) (req : Requester) (data : Word) :
    Within [.staged, .inForce] [Reg.fdbCmdCtrl.addr []] s (fdbCommanded s req data) := within_immediate s req _ _ data

theorem alone_fdbCommanded {data : Word} (h : Alone s) : Alone (fdbCommanded s req data) :=
  alone_of_within (within_fdbCommanded s req data) (by decide) h

theorem stage_fdbCmdCtrl (halone : Alone s) (data : Word) :
    stage s req Reg.fdbCmdCtrl [] 0xFFFFFFFF data = fdbCommanded s req data :=
  stage_immediate fdbCmdCtrl_immediate halone (by rw [taken_of_plain (by decide)]; decide)

theorem word_fdbCommanded {data : Word} {r : RegRow} {ix : List Nat} (h : r.addr ix ≠ Reg.fdbCmdCtrl.addr []) :
    word (fdbCommanded s req data) r ix = word s r ix := word_immediate_other h

theorem lockReg_ne_fdbCmdCtrl (mc : Bool) (w : Nat) : (lockReg mc).addr [w] ≠ Reg.fdbCmdCtrl.addr [] := by
  rw [lockReg_addr, fdbCmdCtrl_addr]
  exact fun h => absurd h (by omega)

theorem fdbHashSeed_apart : ∀ b < 4, Reg.fdbHashSeed.addr [b] ≠ Reg.fdbCmdCtrl.addr [] := by decide

theorem sameFdb_fdbCommanded (s : State) (req : Requester) (data : Word) : SameFdb s (fdbCommanded s req data) where
  fdb := rfl
  seed b hb := word_fdbCommanded (fdbHashSeed_apart b hb)
  lock mc w := word_fdbCommanded (lockReg_ne_fdbCmdCtrl mc w)

theorem cmdKey_fdbCommanded (data : Word) : cmdKey (fdbCommanded s req data) = cmdKey s := by
  have hrd (r : RegRow) (hi lo : Nat) (h : r.addr [] ≠ Reg.fdbCmdCtrl.addr []) :
      rd (fdbCommanded s req data) r [] hi lo = rd s r [] hi lo := by rw [rd, rd, word_fdbCommanded h]
  rw [cmdKey, cmdKey, hrd _ _ _ (by decide), hrd _ _ _ (by decide), hrd _ _ _ (by decide)]

theorem fdbCmdData_apart : ∀ w < 4, Reg.fdbCmdData.addr [w] ≠ Reg.fdbCmdCtrl.addr [] := by decide

theorem cmdEntry_fdbCommanded (data : Word) : cmdEntry (fdbCommanded s req data) = cmdEntry s := by
  have hwords : (List.range 4).map (fun w => word (fdbCommanded s req data) Reg.fdbCmdData [w]) =
      (List.range 4).map fun w => word s Reg.fdbCmdData [w] :=
    List.map_congr_left fun w hw => word_fdbCommanded (fdbCmdData_apart w (List.mem_range.mp hw))
  rw [cmdEntry, cmdEntry, hwords, cmdKey_fdbCommanded]

/-! ### The commands -/

theorem cmdResult_eq (s : State) (res : Nat) (i : Option Nat) : cmdResult s res i = answered s Reg.fdbCmdCtrl 25 res i := by
  cases i <;> rfl

/-- The words of an FDB entry. -/
def fdbWords (s : State) (i w : Nat) : Nat := (fdbEntry s i / BitVec.ofNat 128 (2 ^ (32 * w))).toNat

theorem fdbEntry_answered (s : State) (r : RegRow) (hi res : Nat) (i : Option Nat) (j : Nat) :
    fdbEntry (answered s r hi res i) j = fdbEntry s j := by cases i <;> rfl

theorem cmdLookup_hit {l : List Nat} (h : fdbFind s (cmdKey s) = i :: l) :
    cmdLookup s = answered (showWords Reg.fdbCmdData (fdbWords s i) 4 s) Reg.fdbCmdCtrl 25 0 (some i) := by
  have hfold := foldl_wrBoth_eq_showWords (s := s) (r := Reg.fdbCmdData) (n := 4) (f := fun s w => fdbWords s i w)
    fun u w x => by funext j; rfl
  simp only [cmdLookup, h, cmdResult_eq]
  rw [← hfold]
  rfl

theorem cmdLookup_miss (h : fdbFind s (cmdKey s) = []) : cmdLookup s = answered s Reg.fdbCmdCtrl 25 1 none := by
  simp only [cmdLookup, h, cmdResult_eq]

theorem landAll_idle (hwrites : s.fdb.tableWrites = []) (hchain : noChain s = true) : landAll s 0 = s := by
  have hfinish : finishChain 10 s = s := if_pos hchain
  simp only [landAll, if_true, hfinish, hwrites, List.foldl_nil]

theorem landAll_of_none {t : Nat} (ht : t ≠ 0) (hwrites : s.fdb.tableWrites = []) : landAll s t = s := by
  simp only [landAll, if_neg ht, hwrites, List.foldl_nil]

theorem cmdWrite_new {rot walk : Nat} (halone : Alone s) (hwrites : s.fdb.tableWrites = []) (hchain : noChain s = true)
    (hfind : fdbFind s (cmdKey s) = []) (hvalid : flag (cmdEntry s) 127 = true) (hkind : fld (cmdEntry s) 113 112 = 0)
    (hport : fld (cmdEntry s) 88 82 ≤ 95) (hi : i < fdbSize)
    (hplace : place 4 fdbSize 64 (fdbFirst s) (fdbKeyAt s) (fun i => segBarred s req (fdbSeg s i))
      (segBarred s req (homeSeg s (cmdKey s))) s.fdb.rot s.fdb.walk (cmdKey s) = (.slot i, rot, walk)) :
    cmdWrite s req = answered (putFdb (putWalk s rot walk) i (setFld (cmdEntry s &&& fdbMask) 65 60 0)) Reg.fdbCmdCtrl 25 0 (some i) := by
  have hlow : decide (95 < fld (cmdEntry s) 88 82) = false := decide_eq_false (by omega)
  simp only [cmdWrite, landAll_idle hwrites hchain, hfind, List.any_nil, hvalid, hkind, hlow, hplace, Bool.not_true,
    Bool.and_false, Bool.or_false, Bool.false_and, Nat.reduceBEq, Bool.false_eq_true, if_false, cmdResult_eq]
  rw [landFdb_of_unpaired (s := putWalk s rot walk) halone.2, landed_main hi]

theorem cmdDelete_one (hwrites : s.fdb.tableWrites = []) (hchain : noChain s = true) (hfind : fdbFind s (cmdKey s) = [i])
    (hseg : segBarred s req (fdbSeg s i) = false) :
    cmdDelete s req = answered (clearFdb s [i]) Reg.fdbCmdCtrl 25 0 (some i) := by
  simp only [cmdDelete, landAll_idle hwrites hchain, hfind, List.any_cons, List.any_nil, hseg, Bool.or_self, Bool.false_eq_true,
    if_false, cmdResult_eq]

theorem fdbCmdDoorbell_eq (h : Reaches s req (Reg.fdbCmdCtrl.addr [])) (data : Word) :
    fdbCmdDoorbell s req data = fdbCmd s req data := by
  rw [fdbCmdDoorbell, doorbell, accept_of_reaches h]

theorem exec_fdbCmdLookup (h : Reaches s req (Reg.fdbCmdCtrl.addr [])) (halone : Alone s) :
    exec (.fdbCmdLookup req) s = done (cmdLookup (fdbCommanded s req 0x80000000)) := by
  have hgo : flag (0x80000000 : Word) 31 = true := by decide
  have hop : fld (0x80000000 : Word) 30 29 = 0 := by decide
  refine congrArg done ((fdbCmdDoorbell_eq h _).trans ?_)
  simp only [fdbCmd, stage_fdbCmdCtrl halone, hgo, hop, Bool.not_true, Bool.false_eq_true, if_false]

theorem exec_fdbCmdWrite (h : Reaches s req (Reg.fdbCmdCtrl.addr [])) (halone : Alone s) :
    exec (.fdbCmdWrite req) s = done (cmdWrite (fdbCommanded s req 0xA0000000) req) := by
  have hgo : flag (0xA0000000 : Word) 31 = true := by decide
  have hop : fld (0xA0000000 : Word) 30 29 = 1 := by decide
  have hsolo := standsBy_of_alone (req := req) (alone_fdbCommanded (req := req) (data := 0xA0000000) halone) (some 1)
  refine congrArg done ((fdbCmdDoorbell_eq h _).trans ?_)
  simp only [fdbCmd, stage_fdbCmdCtrl halone, hgo, hop, hsolo, Bool.not_true, Bool.false_eq_true, if_false]

theorem exec_fdbCmdDelete (h : Reaches s req (Reg.fdbCmdCtrl.addr [])) (halone : Alone s) :
    exec (.fdbCmdDelete req) s = done (cmdDelete (fdbCommanded s req 0xC0000000) req) := by
  have hgo : flag (0xC0000000 : Word) 31 = true := by decide
  have hop : fld (0xC0000000 : Word) 30 29 = 2 := by decide
  have hsolo := standsBy_of_alone (req := req) (alone_fdbCommanded (req := req) (data := 0xC0000000) halone) (some 1)
  refine congrArg done ((fdbCmdDoorbell_eq h _).trans ?_)
  simp only [fdbCmd, stage_fdbCmdCtrl halone, hgo, hop, hsolo, Bool.not_true, Bool.false_eq_true, if_false]


/-! ### FDB_MDB_EDIT (R148) -/

/-- MDB group `g` with its stored bits taken from `e`. -/
def putMdb (s : State) (g : Nat) (e : BitVec 256) : State :=
  { s with fdb := { s.fdb with mdb := set 0 s.fdb.mdb g (e &&& mdbMask) } }

theorem landMdb_of_unpaired {e : BitVec 256} (h : activePaired s = false) : landMdb s g e = putMdb s g e :=
  mirror_of_unpaired (s := putMdb s g e) h 2 _ _

theorem mdbGroup_putMdb_same {e : BitVec 256} : mdbGroup (putMdb s g e) g = e &&& mdbMask := get_set_same

theorem mdbGroup_putMdb_other {e : BitVec 256} (h : k ≠ g) : mdbGroup (putMdb s g e) k = mdbGroup s k := get_set_other h

theorem onlyChanges_putMdb (s : State) (g : Nat) (e : BitVec 256) : OnlyChanges [.fdb] s (putMdb s g e) := onlyChanges_of_fdb s _

theorem fdbEntry_putMdb (s : State) (g : Nat) (e : BitVec 256) (i : Nat) : fdbEntry (putMdb s g e) i = fdbEntry s i := rfl

theorem mdbEdit_set {p : Nat} (hp : p < 96) (hwrites : s.fdb.tableWrites = []) :
    mdbEdit s 0 p g = landMdb s g (setFld (mdbGroup s g) p p 1) := by
  simp only [mdbEdit, landAll_of_none (t := 1) (by decide) hwrites, if_pos hp]

theorem mdbEdit_clear {p : Nat} (hp : p < 96) (hwrites : s.fdb.tableWrites = []) :
    mdbEdit s 1 p g = landMdb s g (setFld (mdbGroup s g) p p 0) := by
  simp only [mdbEdit, landAll_of_none (t := 1) (by decide) hwrites, if_pos hp]

theorem mdbEdit_seen (hwrites : s.fdb.tableWrites = []) :
    mdbEdit s 2 0 g = landMdb s g (setFld (mdbGroup s g) 191 96 0) := by
  simp only [mdbEdit, landAll_of_none (t := 1) (by decide) hwrites]

/-- FDB_MDB_EDIT with a command's word. -/
def mdbCommanded (s : State) (data : Word) : State := immediate s (.mc 1) Reg.fdbMdbEdit [] data

theorem within_mdbCommanded (s : State) (data : Word) :
    Within [.staged, .inForce] [Reg.fdbMdbEdit.addr []] s (mdbCommanded s data) := within_immediate s _ _ _ data

theorem fdbMdbEdit_immediate : Reg.fdbMdbEdit.Immediate [] := immediate_of_plain (by decide) (by decide +kernel) (by decide)

theorem editWord_toNat {op p : Nat} (hop : op < 4) (hp : p < 128) (hg : g < 16384) :
    (editWord op p g).toNat = 2 ^ 31 + op * 2 ^ 28 + p * 2 ^ 21 + g := by
  rw [editWord, BitVec.toNat_ofNat]; omega

theorem editWord_fields {op p : Nat} (hop : op < 4) (hp : p < 128) (hg : g < 16384) :
    flag (editWord op p g) 31 = true ∧ fld (editWord op p g) 29 28 = op ∧ fld (editWord op p g) 27 21 = p ∧
      fld (editWord op p g) 13 0 = g := by
  rw [flag_eq_fld]
  simp only [fld, editWord_toNat hop hp hg, bits, decide_eq_true_eq]
  omega

theorem mdbDoorbell_eq {op p : Nat} (hop : op < 4) (hp : p < 128) (hg : g < 16384)
    (h : Reaches s (.mc 1) (Reg.fdbMdbEdit.addr [])) (halone : Alone s) :
    mdbDoorbell s (editWord op p g) = mdbEdit (mdbCommanded s (editWord op p g)) op p g := by
  obtain ⟨hgo, hfop, hfp, hfg⟩ := editWord_fields hop hp hg
  have hstage : stage s (.mc 1) Reg.fdbMdbEdit [] 0xFFFFFFFF (editWord op p g) = mdbCommanded s (editWord op p g) :=
    stage_immediate fdbMdbEdit_immediate halone (by rw [taken_of_plain (by decide)]; decide)
  have hsolo := standsBy_of_alone (req := .mc 1)
    (alone_of_within (within_mdbCommanded s (editWord op p g)) (by decide) halone) (some 2)
  rw [mdbDoorbell, doorbell, accept_of_reaches h]
  simp only [mdbEditWrite, hstage, hgo, hfop, hfp, hfg, hsolo, Bool.not_false, Bool.and_self, if_true]

/-- One edit of one group, on a unit that keeps no twin in step. -/
theorem does_mdbEdit {c : Instr} {data : Word} {e : BitVec 256} (halone : Alone s)
    (hexec : exec c s = done (landMdb (mdbCommanded s data) g e)) :
    Does c s [.staged, .inForce, .fdb] fun t => mdbGroup t g = e &&& mdbMask ∧ ∀ k, k ≠ g → mdbGroup t k = mdbGroup s k := by
  have hunpaired : activePaired (mdbCommanded s data) = false :=
    (alone_of_within (within_mdbCommanded s data) (by decide) halone).2
  rw [landMdb_of_unpaired hunpaired] at hexec
  refine does_of_all hexec ((within_mdbCommanded s data).1.append (onlyChanges_putMdb _ _ _))
    ⟨mdbGroup_putMdb_same, fun k hk => ?_⟩ fun _ _ h => h
  rw [mdbGroup_putMdb_other hk]; rfl

/-! ### The table epoch (R110, R131) -/

/-- A state with other writes waiting for the table epoch. -/
def waits (s : State) (l : List TableWrite) : State := { s with fdb := { s.fdb with tableWrites := l } }

theorem fdbEntry_waits (s : State) (l : List TableWrite) (i : Nat) : fdbEntry (waits s l) i = fdbEntry s i := rfl

theorem landFirst_some {t : Nat} {w : TableWrite} (h : s.fdb.tableWrites.find? (fun w => tableOf w.addr == t) = some w) :
    landFirst s t = landTable (waits s (s.fdb.tableWrites.eraseP fun x => tableOf x.addr == t)) w := by
  simp only [landFirst, h]; rfl

theorem landFirst_none {t : Nat} (h : s.fdb.tableWrites.find? (fun w => tableOf w.addr == t) = none) : landFirst s t = s := by
  simp only [landFirst, h]

theorem tableOf_fdb (hi : i < fdbSize) : tableOf (0x2000000 + 16 * i) = 0 := by
  rw [tableOf, if_pos (by unfold fdbSize at hi; omega)]

theorem tableOf_mdb (hg : g < 16384) : tableOf (0x2300000 + 32 * g) = 1 := by
  have hlow : ¬ 0x2300000 + 32 * g < 0x2300000 := Nat.not_lt.mpr (Nat.le_add_right _ _)
  have hhigh : 0x2300000 + 32 * g < 0x2400000 := by omega
  rw [tableOf, if_neg hlow, if_pos hhigh]

theorem flushes_putFdb (s : State) (i : Nat) (e : BitVec 128) : (putFdb s i e).fdb.flushes = s.fdb.flushes := rfl

theorem tableWrites_putFdb (s : State) (i : Nat) (e : BitVec 128) : (putFdb s i e).fdb.tableWrites = s.fdb.tableWrites := rfl

theorem alone_putFdb {e : BitVec 128} (h : Alone s) : Alone (putFdb s i e) := h

theorem fdbWrite_main {ws : List Word} {r : Requester} (hi : i < fdbSize) :
    fdbWrite ⟨0x2000000 + 16 * i, ws, r⟩ = (i, BitVec.ofNat 128 (joinWords ws)) := by
  have hlow : 0x2000000 + 16 * i < 0x2200000 := by unfold fdbSize at hi; omega
  have hindex : (0x2000000 + 16 * i - 0x2000000) / 16 = i := by
    rw [Nat.add_sub_cancel_left, Nat.mul_div_cancel_left i (by decide)]
  rw [fdbWrite, if_pos hlow, hindex]

theorem landTable_of_fdb {a : Nat} {ws : List Word} {r : Requester} {e : BitVec 128} (h : tableOf a = 0)
    (hw : fdbWrite ⟨a, ws, r⟩ = (i, e)) : landTable s ⟨a, ws, r⟩ =
      if (writeSegs s i e).any (segBarred s r) then s else pruneFlushes (landFdb s i e) := by
  simp only [landTable, h, hw]

theorem landTable_of_mdb {a : Nat} {ws : List Word} {r : Requester} (h : tableOf a = 1) :
    landTable s ⟨a, ws, r⟩ = landMdb s ((a - 0x2300000) / 32) (BitVec.ofNat 256 (joinWords ws)) := by
  simp only [landTable, h]

theorem landTable_fdb {ws : List Word} {r : Requester} (halone : Alone s) (hflushes : s.fdb.flushes = []) (hi : i < fdbSize)
    (hseg : segBarred s r (fdbSeg s i) = false) : landTable s ⟨0x2000000 + 16 * i, ws, r⟩ =
      putFdb s i (setFld (BitVec.ofNat 128 (joinWords ws) &&& fdbMask) 65 60 0) := by
  have hsegs : (writeSegs s i (BitVec.ofNat 128 (joinWords ws))).any (segBarred s r) = false := by
    have hone : fdbSeg s i = i / 2048 := if_pos hi
    rw [hone] at hseg
    rw [writeSegs, if_pos hi, List.any_cons, List.any_nil, hseg, Bool.or_self]
  rw [landTable_of_fdb (tableOf_fdb hi) (fdbWrite_main hi), hsegs, if_neg (by decide), landFdb_of_unpaired halone.2,
    landed_main hi]
  exact pruneFlushes_of_none ((flushes_putFdb s i _).trans hflushes)

theorem landTable_mdb {us : List Word} {r : Requester} (halone : Alone s) (hg : g < 16384) :
    landTable s ⟨0x2300000 + 32 * g, us, r⟩ = putMdb s g (BitVec.ofNat 256 (joinWords us)) := by
  have hindex : (0x2300000 + 32 * g - 0x2300000) / 32 = g := by
    rw [Nat.add_sub_cancel_left, Nat.mul_div_cancel_left g (by decide)]
  rw [landTable_of_mdb (tableOf_mdb hg), hindex, landMdb_of_unpaired halone.2]

/-- The epoch of two FDB writes and one MDB write: the first FDB write and the MDB write land. -/
def epochLanded (s : State) (i j g : Nat) (ws vs us : List Word) (r : Requester) : State :=
  putMdb (waits (putFdb (waits s [⟨0x2000000 + 16 * j, vs, r⟩, ⟨0x2300000 + 32 * g, us, r⟩]) i
    (setFld (BitVec.ofNat 128 (joinWords ws) &&& fdbMask) 65 60 0)) [⟨0x2000000 + 16 * j, vs, r⟩]) g (BitVec.ofNat 256 (joinWords us))

theorem exec_tableEpoch {j : Nat} {ws vs us : List Word} {r : Requester} (halone : Alone s) (hchain : noChain s = true)
    (hflushes : s.fdb.flushes = []) (hi : i < fdbSize) (hj : j < fdbSize) (hg : g < 16384)
    (hseg : segBarred s r (fdbSeg s i) = false)
    (hwrites : s.fdb.tableWrites = [⟨0x2000000 + 16 * i, ws, r⟩, ⟨0x2000000 + 16 * j, vs, r⟩, ⟨0x2300000 + 32 * g, us, r⟩]) :
    exec .tableEpoch s = done (epochLanded s i j g ws vs us r) := by
  have hti := tableOf_fdb hi
  have htj := tableOf_fdb hj
  have htg := tableOf_mdb hg
  have hfirst : landFirst s 0 = putFdb (waits s [⟨0x2000000 + 16 * j, vs, r⟩, ⟨0x2300000 + 32 * g, us, r⟩]) i
      (setFld (BitVec.ofNat 128 (joinWords ws) &&& fdbMask) 65 60 0) := by
    rw [landFirst_some (w := ⟨0x2000000 + 16 * i, ws, r⟩) (by simp [hwrites, hti])]
    rw [show s.fdb.tableWrites.eraseP (fun x => tableOf x.addr == 0) =
      [⟨0x2000000 + 16 * j, vs, r⟩, ⟨0x2300000 + 32 * g, us, r⟩] by simp [hwrites, hti]]
    exact landTable_fdb halone hflushes hi hseg
  have hsecond (e : BitVec 128) :
      landFirst (putFdb (waits s [⟨0x2000000 + 16 * j, vs, r⟩, ⟨0x2300000 + 32 * g, us, r⟩]) i e) 1 =
        putMdb (waits (putFdb (waits s [⟨0x2000000 + 16 * j, vs, r⟩, ⟨0x2300000 + 32 * g, us, r⟩]) i e)
          [⟨0x2000000 + 16 * j, vs, r⟩]) g (BitVec.ofNat 256 (joinWords us)) := by
    generalize hput : putFdb (waits s [⟨0x2000000 + 16 * j, vs, r⟩, ⟨0x2300000 + 32 * g, us, r⟩]) i e = u
    have hu : u.fdb.tableWrites = [⟨0x2000000 + 16 * j, vs, r⟩, ⟨0x2300000 + 32 * g, us, r⟩] := by
      rw [← hput, tableWrites_putFdb]; rfl
    have hua : Alone u := by rw [← hput]; exact alone_putFdb (s := waits s _) halone
    rw [landFirst_some (w := ⟨0x2300000 + 32 * g, us, r⟩) (by simp [hu, htj, htg])]
    rw [show u.fdb.tableWrites.eraseP (fun x => tableOf x.addr == 1) = [⟨0x2000000 + 16 * j, vs, r⟩] by simp [hu, htj, htg]]
    exact landTable_mdb hua hg
  have hthird (u : State) (hu : u.fdb.tableWrites = [⟨0x2000000 + 16 * j, vs, r⟩]) : landFirst u 2 = u :=
    landFirst_none (by simp [hu, htj])
  show execTableEpoch s = _
  simp only [execTableEpoch, hchain, if_true]
  rw [hfirst, hsecond, hthird (putMdb _ _ _) rfl, epochLanded]

theorem onlyChanges_epochLanded (s : State) (i j g : Nat) (ws vs us : List Word) (r : Requester) :
    OnlyChanges [.fdb] s (epochLanded s i j g ws vs us r) :=
  (((onlyChanges_of_fdb s _).trans (onlyChanges_putFdb _ _ _)).trans (onlyChanges_of_fdb _ _)).trans (onlyChanges_putMdb _ _ _)

end

/-- Settles O22: each command by its equation on the state that its word leaves, each table's landing by its own rule. -/
theorem tableCommandsAct : Obligations.TableCommandsAct := by
  refine ⟨fun s req i l h halone hfind => ?_, fun s req h halone hfind => ?_,
    fun s req i rot walk h halone hwrites hchain hfind hvalid hkind hport hi hplace => ?_,
    fun s req i h halone hwrites hchain hfind hseg => ?_, fun s p g h halone hwrites => ?_, fun s p g h halone hwrites => ?_,
    fun s g h halone hwrites => ?_, fun s i j g ws vs us r halone hchain hflushes hi hj hg hseg hwrites => ?_⟩
  · have hsame := sameFdb_fdbCommanded s req 0x80000000
    have hfound : fdbFind (fdbCommanded s req 0x80000000) (cmdKey (fdbCommanded s req 0x80000000)) = i :: l := by
      rw [cmdKey_fdbCommanded, hsame.find, hfind]
    refine does_of_all ((exec_fdbCmdLookup h halone).trans (congrArg done (cmdLookup_hit hfound)))
      ((((within_fdbCommanded s req _).append (within_showWords _ _ _ _)).append (within_answered _ _ _ _ _)).1.mono (by decide))
      ⟨result_answered (by decide) (by decide) _, index_answered (by decide) (by decide), fun w hw => ?_⟩ fun _ _ h => h
    rw [(within_answered _ _ _ _ _).2.word_eq (by simpa using fdbCmdData_apart w hw), word_showWords (by decide) hw, fdbWords,
      toNat_div_two_pow _ (by omega), hsame.entry]
  · have hfound : fdbFind (fdbCommanded s req 0x80000000) (cmdKey (fdbCommanded s req 0x80000000)) = [] := by
      rw [cmdKey_fdbCommanded, (sameFdb_fdbCommanded s req _).find, hfind]
    have hw := ((within_fdbCommanded s req 0x80000000).append (within_answered _ Reg.fdbCmdCtrl 25 1 none)).mono
      (qs := [.staged, .inForce]) (m := [Reg.fdbCmdCtrl.addr []]) (by decide) (by simp)
    exact does_of_all ((exec_fdbCmdLookup h halone).trans (congrArg done (cmdLookup_miss hfound))) hw.1
      ⟨result_answered (by decide) (by decide) _, hw.2⟩ fun _ _ h => h
  · have hsame := sameFdb_fdbCommanded s req 0xA0000000
    have hkey := cmdKey_fdbCommanded (s := s) (req := req) 0xA0000000
    have hentry := cmdEntry_fdbCommanded (s := s) (req := req) 0xA0000000
    have hnew := cmdWrite_new (req := req) (alone_fdbCommanded (req := req) (data := 0xA0000000) halone) hwrites hchain
      (by rw [hkey, hsame.find, hfind]) (by rw [hentry, hvalid]) (by rw [hentry, hkind]) (by rw [hentry]; exact hport) hi
      (by rw [hkey, hsame.keyAt]
          exact place_slot_congr (fun b hb => hsame.first hb _) (funext fun i => by rw [hsame.barred, hsame.seg]) hplace)
    rw [hentry] at hnew
    refine does_of_all ((exec_fdbCmdWrite h halone).trans (congrArg done hnew))
      ((((within_fdbCommanded s req _).1.append ((onlyChanges_of_fdb _ _).trans (onlyChanges_putFdb _ _ _))).append
        (within_answered _ _ _ _ _).1).mono (by decide))
      ⟨?_, fun j hj => ?_, result_answered (by decide) (by decide) _, ?_⟩ fun _ _ h => h
    · rw [fdbEntry_answered, fdbEntry_putFdb_same]
    · rw [fdbEntry_answered, fdbEntry_putFdb_other hj]
      exact hsame.entry j
    · rw [index_answered (by decide) (by decide)]
      exact Nat.mod_eq_of_lt (by unfold fdbSize at hi; omega)
  · have hsame := sameFdb_fdbCommanded s req 0xC0000000
    have hua := alone_fdbCommanded (req := req) (data := 0xC0000000) halone
    have hone := cmdDelete_one (req := req) (s := fdbCommanded s req 0xC0000000) (i := i) hwrites hchain
      (by rw [cmdKey_fdbCommanded, hsame.find, hfind]) (by rw [hsame.barred, hsame.seg, hseg])
    refine does_of_all ((exec_fdbCmdDelete h halone).trans (congrArg done hone))
      ((((within_fdbCommanded s req _).1.append (onlyChanges_clearFdb_one hua.2)).append (within_answered _ _ _ _ _).1).mono
        (by decide)) ⟨?_, fun j hj => ?_, result_answered (by decide) (by decide) _⟩ fun _ _ h => h
    · rw [fdbEntry_answered, fdbEntry_clearFdb_same hua.2]
    · rw [fdbEntry_answered, fdbEntry_clearFdb_other hua.2 hj, hsame.entry]
  · refine does_mdbEdit (data := editWord 0 p g) halone (congrArg done ((mdbDoorbell_eq (op := 0) (by decide) (by omega) g.2 h halone).trans ?_))
    rw [mdbEdit_set (s := mdbCommanded s (editWord 0 p g)) p.2 hwrites]; rfl
  · refine does_mdbEdit (data := editWord 1 p g) halone (congrArg done ((mdbDoorbell_eq (op := 1) (by decide) (by omega) g.2 h halone).trans ?_))
    rw [mdbEdit_clear (s := mdbCommanded s (editWord 1 p g)) p.2 hwrites]; rfl
  · refine does_mdbEdit (data := editWord 2 0 g) halone (congrArg done ((mdbDoorbell_eq (op := 2) (by decide) (by omega) g.2 h halone).trans ?_))
    rw [mdbEdit_seen (s := mdbCommanded s (editWord 2 0 g)) hwrites]; rfl
  · refine does_of_all (exec_tableEpoch halone hchain hflushes hi hj hg hseg hwrites) (onlyChanges_epochLanded s i j g ws vs us r)
      ⟨?_, mdbGroup_putMdb_same, fun k hk => ?_, rfl⟩ fun _ _ h => h
    · rw [epochLanded, fdbEntry_putMdb, fdbEntry_waits, fdbEntry_putFdb_same]
    · rw [epochLanded, fdbEntry_putMdb, fdbEntry_waits, fdbEntry_putFdb_other hk, fdbEntry_waits]

end Sys2Proof.Machine

/-! PROOFS. STRM_CMD (R158 to R160). -/
namespace Sys2Proof.Machine

/-- STRM_CMD_CTRL with a command's word. -/
def sidCommanded (s : State) (req : Requester) (data : Word) : State := immediate s req Reg.strmCmdCtrl [] data

/-- SID entry `i` with its stored bits taken from `e`. -/
def putSid (s : State) (i : Nat) (e : BitVec 512) : State :=
  { s with strm := { s.strm with sid := set 0 s.strm.sid i (e &&& sidMask) } }

/-- The counters of R132 as a placement leaves them. -/
def putSidWalk (s : State) (rot walk : Nat) : State := { s with strm := { s.strm with rot := rot, walk := walk } }

section
variable {s u : State} {req : Requester} {i j k : Nat} {e : BitVec 512}

/-! ### The table -/

theorem landSid_of_unpaired (h : activePaired s = false) : landSid s i e = putSid s i e :=
  mirror_of_unpaired (s := putSid s i e) h 3 _ _

theorem sidEntry_putSid_same : sidEntry (putSid s i e) i = e &&& sidMask := get_set_same

theorem sidEntry_putSid_other (h : j ≠ i) : sidEntry (putSid s i e) j = sidEntry s j := get_set_other h

theorem onlyChanges_putSid (s : State) (i : Nat) (e : BitVec 512) : OnlyChanges [.strm] s (putSid s i e) := onlyChanges_of_strm s _

theorem strm_putSid : (putSid s i e).strm = { s.strm with sid := (putSid s i e).strm.sid } := rfl

theorem strm_putSid_of_eq (h : u.strm = s.strm) : (putSid u i e).strm = { s.strm with sid := (putSid u i e).strm.sid } := by
  rw [strm_putSid, h]

theorem strm_answered (s : State) (r : RegRow) (hi res : Nat) (i : Option Nat) : (answered s r hi res i).strm = s.strm := by
  cases i <;> rfl

theorem sidEntry_congr (h : u.strm = s.strm) (i : Nat) : sidEntry u i = sidEntry s i := by rw [sidEntry, sidEntry, h]

theorem sidEntry_answered (s : State) (r : RegRow) (hi res : Nat) (i : Option Nat) (j : Nat) :
    sidEntry (answered s r hi res i) j = sidEntry s j := sidEntry_congr (strm_answered s r hi res i) j

/-! ### What STRM_CMD_CTRL leaves of the table -/

/-- `u` holds the same SID table as `s`, with the same seeds. -/
structure SameSid (s u : State) : Prop where
  strm : u.strm = s.strm
  seed : ∀ b < 2, word u Reg.strmHashSeed [b] = word s Reg.strmHashSeed [b]

theorem SameSid.first (h : SameSid s u) {b : Nat} (hb : b < 2) (k : Nat) : sidFirst u b k = sidFirst s b k := by
  rw [sidFirst, sidFirst, h.seed b hb]

theorem SameSid.keyAt (h : SameSid s u) : sidKeyAt u = sidKeyAt s := by
  funext i; rw [sidKeyAt, sidKeyAt, sidEntry_congr h.strm]

theorem SameSid.find (h : SameSid s u) (k : Nat) : sidFind u k = sidFind s k := by
  have hbuckets : ((List.range 2).flatMap fun b => (List.range 4).map (sidFirst u b k + ·)) =
      (List.range 2).flatMap fun b => (List.range 4).map (sidFirst s b k + ·) :=
    List.flatMap_congr fun b hb => by rw [h.first (List.mem_range.mp hb)]
  rw [sidFind, sidFind, hbuckets, h.keyAt]

theorem strmCmdCtrl_immediate : Reg.strmCmdCtrl.Immediate [] := immediate_of_plain (by decide) (by decide +kernel) (by decide)

theorem within_sidCommanded (s : State) (req : Requester) (data : Word) :
    Within [.staged, .inForce] [Reg.strmCmdCtrl.addr []] s (sidCommanded s req data) := within_immediate s req _ _ data

theorem alone_sidCommanded {data : Word} (h : Alone s) : Alone (sidCommanded s req data) :=
  alone_of_within (within_sidCommanded s req data) (by decide) h

theorem strmHashSeed_apart : ∀ b < 2, Reg.strmHashSeed.addr [b] ≠ Reg.strmCmdCtrl.addr [] := by decide

theorem strmCmdData_apart : ∀ w < 16, Reg.strmCmdData.addr [w] ≠ Reg.strmCmdCtrl.addr [] := by decide

theorem sameSid_sidCommanded (s : State) (req : Requester) (data : Word) : SameSid s (sidCommanded s req data) where
  strm := rfl
  seed b hb := word_immediate_other (strmHashSeed_apart b hb)

theorem sidData_sidCommanded (data : Word) : sidData (sidCommanded s req data) = sidData s := by
  have hwords : (List.range 16).map (fun w => word (sidCommanded s req data) Reg.strmCmdData [w]) =
      (List.range 16).map fun w => word s Reg.strmCmdData [w] :=
    List.map_congr_left fun w hw => word_immediate_other (strmCmdData_apart w (List.mem_range.mp hw))
  rw [sidData, sidData, hwords]

/-- The locations of the command's key are as they were. -/
theorem sidFind_sidCommanded (data : Word) : sidFind (sidCommanded s req data) (sidKey (sidData (sidCommanded s req data))) =
    sidFind s (sidKey (sidData s)) := by
  rw [sidData_sidCommanded, (sameSid_sidCommanded s req data).find]

/-! ### The commands -/

theorem sidResult_eq (s : State) (res : Nat) (i : Option Nat) : sidResult s res i = answered s Reg.strmCmdCtrl 24 res i := by
  cases i <;> rfl

/-- The words of a SID entry. -/
def sidWords (s : State) (i w : Nat) : Nat := (sidEntry s i / BitVec.ofNat 512 (2 ^ (32 * w))).toNat

theorem sidLookup_hit {l : List Nat} (h : sidFind s (sidKey (sidData s)) = i :: l) :
    sidLookup s = answered (showWords Reg.strmCmdData (sidWords s i) 16 s) Reg.strmCmdCtrl 24 0 (some i) := by
  have hfold := foldl_wrBoth_eq_showWords (s := s) (r := Reg.strmCmdData) (n := 16) (f := fun s w => sidWords s i w)
    fun u w x => by funext j; rfl
  simp only [sidLookup, h, sidResult_eq]
  rw [← hfold]
  rfl

theorem sidLookup_miss (h : sidFind s (sidKey (sidData s)) = []) : sidLookup s = answered s Reg.strmCmdCtrl 24 1 none := by
  simp only [sidLookup, h, sidResult_eq]

theorem sidInsert_invalid (h : flag (sidData s) 511 = false) : sidInsert s = answered s Reg.strmCmdCtrl 24 4 none := by
  simp only [sidInsert, h, Bool.not_false, if_true, sidResult_eq]

theorem sidInsert_held (ha : activePaired s = false) (hvalid : flag (sidData s) 511 = true)
    (h : sidFind s (sidKey (sidData s)) = [i]) :
    sidInsert s = answered (putSid s i (sidData s)) Reg.strmCmdCtrl 24 0 (some i) := by
  simp only [sidInsert, hvalid, Bool.not_true, Bool.false_eq_true, if_false, h, List.foldl_cons, List.foldl_nil, sidResult_eq,
    landSid_of_unpaired ha]

theorem sidInsert_new {rot walk : Nat} (ha : activePaired s = false) (hvalid : flag (sidData s) 511 = true)
    (h : sidFind s (sidKey (sidData s)) = [])
    (hplace : place 2 sidSize 32 (sidFirst s) (sidKeyAt s) (fun _ => false) false s.strm.rot s.strm.walk (sidKey (sidData s)) =
      (.slot i, rot, walk)) :
    sidInsert s = answered (putSid (putSidWalk s rot walk) i (sidData s)) Reg.strmCmdCtrl 24 0 (some i) := by
  simp only [sidInsert, hvalid, Bool.not_true, Bool.false_eq_true, if_false, h, hplace, sidResult_eq]
  rw [← landSid_of_unpaired (s := putSidWalk s rot walk) ha]
  rfl

theorem sidDelete_held (ha : activePaired s = false) (h : sidFind s (sidKey (sidData s)) = [i]) :
    sidDelete s = answered (putSid s i 0) Reg.strmCmdCtrl 24 0 (some i) := by
  simp only [sidDelete, h, List.foldl_cons, List.foldl_nil, sidResult_eq, landSid_of_unpaired ha]

theorem sidDelete_miss (h : sidFind s (sidKey (sidData s)) = []) : sidDelete s = answered s Reg.strmCmdCtrl 24 1 none := by
  simp only [sidDelete, h, sidResult_eq]

theorem strmDoorbell_eq (h : Reaches s req (Reg.strmCmdCtrl.addr [])) (data : Word) :
    strmDoorbell s req data = sidCommand s req data := by
  rw [strmDoorbell, doorbell, accept_of_reaches h]

theorem stage_strmCmdCtrl (halone : Alone s) (data : Word) :
    stage s req Reg.strmCmdCtrl [] 0xFFFFFFFF data = sidCommanded s req data :=
  stage_immediate strmCmdCtrl_immediate halone (by rw [taken_of_plain (by decide)]; decide)

theorem exec_strmCmdLookup (h : Reaches s req (Reg.strmCmdCtrl.addr [])) (halone : Alone s) :
    exec (.strmCmdLookup req) s = done (sidLookup (sidCommanded s req 0x80000000)) := by
  have hgo : flag (0x80000000 : Word) 31 = true := by decide
  have hop : fld (0x80000000 : Word) 30 29 = 0 := by decide
  refine congrArg done ((strmDoorbell_eq h _).trans ?_)
  simp only [sidCommand, stage_strmCmdCtrl halone, hgo, hop, Bool.not_true, Bool.false_eq_true, if_false]

theorem exec_strmCmdInsert (h : Reaches s req (Reg.strmCmdCtrl.addr [])) (halone : Alone s) :
    exec (.strmCmdInsert req) s = done (sidInsert (sidCommanded s req 0xA0000000)) := by
  have hgo : flag (0xA0000000 : Word) 31 = true := by decide
  have hop : fld (0xA0000000 : Word) 30 29 = 1 := by decide
  have hsolo := standsBy_of_alone (req := req) (alone_sidCommanded (req := req) (data := 0xA0000000) halone) (some 3)
  refine congrArg done ((strmDoorbell_eq h _).trans ?_)
  simp only [sidCommand, stage_strmCmdCtrl halone, hgo, hop, hsolo, Bool.not_true, Bool.false_eq_true, if_false]

theorem exec_strmCmdDelete (h : Reaches s req (Reg.strmCmdCtrl.addr [])) (halone : Alone s) :
    exec (.strmCmdDelete req) s = done (sidDelete (sidCommanded s req 0xC0000000)) := by
  have hgo : flag (0xC0000000 : Word) 31 = true := by decide
  have hop : fld (0xC0000000 : Word) 30 29 = 2 := by decide
  have hsolo := standsBy_of_alone (req := req) (alone_sidCommanded (req := req) (data := 0xC0000000) halone) (some 3)
  refine congrArg done ((strmDoorbell_eq h _).trans ?_)
  simp only [sidCommand, stage_strmCmdCtrl halone, hgo, hop, hsolo, Bool.not_true, Bool.false_eq_true, if_false]

/-- A command that answers without touching the table. -/
theorem within_sidAnswered (s : State) (req : Requester) (data : Word) (res : Nat) :
    Within [.staged, .inForce] [Reg.strmCmdCtrl.addr []] s (answered (sidCommanded s req data) Reg.strmCmdCtrl 24 res none) :=
  ((within_sidCommanded s req data).append (within_answered _ _ _ _ _)).mono (by decide) (by simp)

/-- A command that changes the stream part alone before it answers. -/
theorem within_sidActed {v : State} {data : Word} {res : Nat} {i : Option Nat} (h : OnlyChanges [.strm] (sidCommanded s req data) v) :
    Within [.staged, .inForce, .strm] [Reg.strmCmdCtrl.addr []] s (answered v Reg.strmCmdCtrl 24 res i) :=
  (((within_sidCommanded s req data).append (h.within (by decide))).append (within_answered _ _ _ _ _)).mono (by decide) (by simp)

end

/-- Settles O23: each operation by its equation on the state that its word leaves. -/
theorem streamTableCommandsAct : Obligations.StreamTableCommandsAct := by
  refine ⟨fun s req i l h halone hfind => ?_, fun s req h halone hfind => ?_,
    fun s req i rot walk h halone hvalid hfind hplace => ?_, fun s req i h halone hvalid hfind => ?_,
    fun s req h halone hvalid => ?_, fun s req i h halone hfind => ?_, fun s req h halone hfind => ?_⟩
  · have hsame := sameSid_sidCommanded s req 0x80000000
    have hw := ((within_sidCommanded s req 0x80000000).append (within_showWords Reg.strmCmdData
      (sidWords (sidCommanded s req 0x80000000) i) 16 _)).append (within_answered _ Reg.strmCmdCtrl 24 0 (some i))
    refine does_of_all ((exec_strmCmdLookup h halone).trans
        (congrArg done (sidLookup_hit ((sidFind_sidCommanded _).trans hfind)))) (hw.1.mono (by decide))
      ⟨result_answered (by decide) (by decide) _, index_answered (by decide) (by decide), fun w hlt => ?_,
        hw.2.mono fun a ha => by simp only [List.mem_append, List.mem_cons, List.not_mem_nil, or_false] at ha ⊢; tauto⟩
      fun _ _ h => h
    rw [(within_answered _ _ _ _ _).2.word_eq (by simpa using strmCmdData_apart w hlt), word_showWords (by decide) hlt, sidWords,
      toNat_div_two_pow _ (by omega), sidEntry_congr hsame.strm]
  · have hw := within_sidAnswered s req 0x80000000 1
    exact does_of_all ((exec_strmCmdLookup h halone).trans
        (congrArg done (sidLookup_miss ((sidFind_sidCommanded _).trans hfind)))) hw.1
      ⟨result_answered (by decide) (by decide) _, hw.2⟩ fun _ _ h => h
  · have hsame := sameSid_sidCommanded s req 0xA0000000
    have hdata := sidData_sidCommanded (s := s) (req := req) 0xA0000000
    have hnew := sidInsert_new (alone_sidCommanded (req := req) (data := 0xA0000000) halone).2 (by rw [hdata, hvalid])
      ((sidFind_sidCommanded _).trans hfind)
      (by rw [hdata, hsame.keyAt]; exact place_slot_congr (fun b hb => hsame.first hb _) rfl hplace)
    rw [hdata] at hnew
    have hw := within_sidActed (req := req) (res := 0) (i := some i)
      ((onlyChanges_of_strm (sidCommanded s req 0xA0000000) { (sidCommanded s req 0xA0000000).strm with rot := rot, walk := walk }).trans
        (onlyChanges_putSid _ i (sidData s)))
    refine does_of_all ((exec_strmCmdInsert h halone).trans (congrArg done hnew)) hw.1
      ⟨?_, fun j hj => ?_, result_answered (by decide) (by decide) _, index_answered (by decide) (by decide), ?_, hw.2⟩ fun _ _ h => h
    · rw [sidEntry_answered, sidEntry_putSid_same]
    · rw [sidEntry_answered, sidEntry_putSid_other hj]; rfl
    · rw [strm_answered, strm_putSid]; rfl
  · have hdata := sidData_sidCommanded (s := s) (req := req) 0xA0000000
    have hheld := sidInsert_held (alone_sidCommanded (req := req) (data := 0xA0000000) halone).2 (by rw [hdata, hvalid])
      ((sidFind_sidCommanded _).trans hfind)
    rw [hdata] at hheld
    have hw := within_sidActed (req := req) (res := 0) (i := some i) (onlyChanges_putSid (sidCommanded s req 0xA0000000) i (sidData s))
    refine does_of_all ((exec_strmCmdInsert h halone).trans (congrArg done hheld)) hw.1
      ⟨?_, fun j hj => ?_, result_answered (by decide) (by decide) _, ?_⟩ fun _ _ h => h
    · rw [sidEntry_answered, sidEntry_putSid_same]
    · rw [sidEntry_answered, sidEntry_putSid_other hj]; rfl
    · rw [strm_answered, strm_putSid]; rfl
  · exact does_of_all ((exec_strmCmdInsert h halone).trans
        (congrArg done (sidInsert_invalid (by rw [sidData_sidCommanded, hvalid])))) (within_sidAnswered s req _ 4).1
      (result_answered (by decide) (by decide) _) fun _ _ h => h
  · have hw := within_sidActed (req := req) (res := 0) (i := some i) (onlyChanges_putSid (sidCommanded s req 0xC0000000) i 0)
    refine does_of_all ((exec_strmCmdDelete h halone).trans (congrArg done
        (sidDelete_held (alone_sidCommanded (req := req) (data := 0xC0000000) halone).2 ((sidFind_sidCommanded _).trans hfind)))) hw.1
      ⟨?_, fun j hj => ?_, result_answered (by decide) (by decide) _, index_answered (by decide) (by decide), ?_⟩ fun _ _ h => h
    · rw [sidEntry_answered, sidEntry_putSid_same]; exact BitVec.zero_and
    · rw [sidEntry_answered, sidEntry_putSid_other hj]; rfl
    · rw [strm_answered]
      exact strm_putSid_of_eq (sameSid_sidCommanded s req 0xC0000000).strm
  · exact does_of_all ((exec_strmCmdDelete h halone).trans
        (congrArg done (sidDelete_miss ((sidFind_sidCommanded _).trans hfind)))) (within_sidAnswered s req _ 1).1
      (result_answered (by decide) (by decide) _) fun _ _ h => h

end Sys2Proof.Machine

/-! PROOFS. Stream contexts (R155, R161, R162, R165, R167, R170 to R172), and writes of whole table entries. -/
namespace Sys2Proof.Machine

/-! ### A whole table entry written -/

section
variable {s : State} {req : Requester} {a b : Nat}

/-- Every offset of the table windows answers where one does (R471). -/
theorem reaches_table (ha : 0x1000000 ≤ a) (hb : 0x1000000 ≤ b) (h : Reaches s req a) : Reaches s req b := by
  obtain ⟨hreset, hspi, hserves, hrest⟩ := h
  rw [serves, if_pos ha] at hserves
  exact ⟨hreset, hspi, by rw [serves, if_pos hb, hserves], hrest⟩

theorem doorbell_of_reaches (h : Reaches s req a) (data : Word) (f : State → State) : doorbell s req a data f = f s :=
  accept_of_reaches h 0 a data f

theorem entryDoorbell_eq (ha : 0x1000000 ≤ a) (h : Reaches s req a) (ws : List Word) (f : State → State) :
    entryDoorbell s req a ws f = f s := by
  have hword (k : Nat) : Reaches s req (a + k) := reaches_table ha (by omega) h
  have hlower (l : List (Word × Nat)) : l.foldl (fun s w => doorbell s req (a + 4 * w.2) w.1 id) s = s :=
    List.foldlRecOn (motive := fun t => t = s) l _ rfl fun t ht w _ => by rw [ht, doorbell_of_reaches (hword _)]; rfl
  rw [entryDoorbell, hlower, doorbell_of_reaches (hword _)]

end

/-! ### Context writes -/

/-- The state half of context `h` once configuration `c` is in force. -/
def contextState (s : State) (h : Nat) (c : BitVec 256) : StreamState :=
  let old := streamCfg s h
  let x := { streamState s h with
    balances := (List.range 4).map fun k => (min (meterCap c) (meterBalance s old (streamState s h) k), s.time.dt) }
  if fld old 151 150 != fld c 151 150 || flag old 148 != flag c 148 || flag old 147 != flag c 147 ||
    fld old 146 140 != fld c 146 140 then x.resetRecovery else x

/-- The state with both halves of context `h`. -/
def putContext (s : State) (h : Nat) (c : BitVec 256) (x : StreamState) : State :=
  { s with strm := { s.strm with config := set 0 s.strm.config h c, state := set StreamState.idle s.strm.state h x } }

/-- A context write that nothing refuses. -/
def contextLanded (s : State) (h : Nat) (c : BitVec 256) : State :=
  rebind (putContext s h c (contextState s h c)) h (streamCfg s h) c

section
variable {s t : State} {req : Requester} {h k : Nat} {cfg c old new : BitVec 256} {x : StreamState}

theorem onlyChanges_rebind (s : State) (h : Nat) (old new : BitVec 256) : OnlyChanges [.sched] s (rebind s h old new) := by
  unfold rebind
  extract_lets bound p olds
  split
  · exact .refl _ s
  · split
    · exact .refl _ s
    · exact OnlyChanges.foldl (fun t q => onlyChanges_of_sched t _) _ s

theorem strm_rebind (s : State) (h : Nat) (old new : BitVec 256) : (rebind s h old new).strm = s.strm :=
  onlyChanges_rebind s h old new .strm (by decide)

theorem onlyChanges_contextLanded (s : State) (h : Nat) (c : BitVec 256) :
    OnlyChanges [.strm, .sched] s (contextLanded s h c) := (onlyChanges_of_strm s _).append (onlyChanges_rebind _ _ _ _)

theorem strm_contextLanded : (contextLanded s h c).strm =
    { s.strm with config := set 0 s.strm.config h c, state := set StreamState.idle s.strm.state h (contextState s h c) } :=
  strm_rebind _ h _ c

theorem streamCfg_contextLanded_same : streamCfg (contextLanded s h c) h = c := by
  rw [streamCfg, strm_contextLanded]; exact get_set_same

theorem streamCfg_contextLanded_other (hk : k ≠ h) : streamCfg (contextLanded s h c) k = streamCfg s k := by
  rw [streamCfg, strm_contextLanded]; exact get_set_other hk

theorem streamState_contextLanded_same : streamState (contextLanded s h c) h = contextState s h c := by
  rw [streamState, strm_contextLanded]; exact get_set_same

theorem streamState_contextLanded_other (hk : k ≠ h) : streamState (contextLanded s h c) k = streamState s k := by
  rw [streamState, strm_contextLanded]; exact get_set_other hk

theorem contextState_kept : (contextState s h c).genSeq = (streamState s h).genSeq ∧
    (contextState s h c).blocked = (streamState s h).blocked := by
  unfold contextState
  extract_lets old x
  split <;> exact ⟨rfl, rfl⟩

/-- Recovery starts anew where its enabling changes. -/
theorem contextState_reset (hchanged : flag (streamCfg s h) 148 ≠ flag c 148) :
    (contextState s h c).takeAny = true ∧ (contextState s h c).history = 0 ∧ (contextState s h c).timerEnd = none := by
  have hne : (flag (streamCfg s h) 148 != flag c 148) = true := bne_iff_ne.mpr hchanged
  simp only [contextState, hne, Bool.or_true, Bool.true_or, if_true]
  exact ⟨rfl, rfl, rfl⟩

theorem contextWrite_lands (halone : Alone s)
    (hc : c = if fld (cfg &&& contextMask) 207 194 = 0 then cfg &&& contextMask
      else setFld (cfg &&& contextMask) 207 194 (held 64 10240 (fld (cfg &&& contextMask) 207 194)))
    (hr : contextRefusal s h c = 0) : contextWrite s req h cfg = contextLanded s h c := by
  have hsolo := standsBy_of_alone (req := req) halone (some 3)
  have hpaired : activePaired (contextLanded s h c) = false := by
    have hregs : (contextLanded s h c).regs.inForce = s.regs.inForce := onlyChanges_contextLanded s h c .inForce (by decide)
    exact (alone_of_within (l := []) ⟨onlyChanges_contextLanded s h c, regsBut_of_eq hregs⟩ (by simp) halone).2
  unfold contextWrite
  rw [if_neg (by rw [hsolo]; decide)]
  simp only [← hc, hr]
  exact mirror_of_unpaired hpaired 3 _ _

theorem contextWrite_refused (halone : Alone s)
    (hc : c = if fld (cfg &&& contextMask) 207 194 = 0 then cfg &&& contextMask
      else setFld (cfg &&& contextMask) 207 194 (held 64 10240 (fld (cfg &&& contextMask) 207 194)))
    (hr : contextRefusal s h c ≠ 0) : contextWrite s req h cfg =
      streamEvent s Reg.strmRefuseCnt Reg.strmRefuseLast h (contextRefusal s h c) := by
  have hsolo := standsBy_of_alone (req := req) halone (some 3)
  obtain ⟨n, hn⟩ := Nat.exists_eq_succ_of_ne_zero hr
  unfold contextWrite
  rw [if_neg (by rw [hsolo]; decide)]
  simp only [← hc, hn]

theorem exec_streamContextWrite {h : BitVec 16} (hreach : Reaches s req (0x3000020 + h.toNat * 64)) :
    exec (.streamContextWrite req h cfg) s = done (contextWrite s req h.toNat cfg) :=
  congrArg done (entryDoorbell_eq (by omega) hreach _ _)

/-! ### Events of a stream -/

theorem within_streamEvent (s : State) (cnt last : RegRow) (h reason : Nat) :
    Within [.inForce] [cnt.addr [], last.addr []] s (streamEvent s cnt last h reason) :=
  ((within_countEvent s cnt []).append (within_putWord _ last [] _)).mono (by decide) (by simp)

theorem count_streamEvent {cnt last : RegRow} {reason : Nat} (hne : cnt.addr [] ≠ last.addr []) :
    word (streamEvent s cnt last h reason) cnt [] = word s cnt [] + 1 := by
  rw [streamEvent, word_putWord_other hne, word_countEvent_same]

theorem last_streamEvent {cnt last : RegRow} {reason : Nat} :
    word (streamEvent s cnt last h reason) last [] = BitVec.ofNat 32 (reason * 65536 + h) := word_putWord_same

theorem last_streamEvent_zero {cnt last : RegRow} : word (streamEvent s cnt last h 0) last [] = BitVec.ofNat 32 h := by
  rw [last_streamEvent, Nat.zero_mul, Nat.zero_add]

/-! ### STRM_CTX_CMD -/

/-- STRM_CTX_CMD with a command's word. -/
def ctxCommanded (s : State) (data : Word) : State := immediate s .host Reg.strmCtxCmd [] data

theorem within_ctxCommanded (s : State) (data : Word) :
    Within [.staged, .inForce] [Reg.strmCtxCmd.addr []] s (ctxCommanded s data) := within_immediate s _ _ _ data

theorem strmCtxCmd_immediate : Reg.strmCtxCmd.Immediate [] := immediate_of_plain (by decide) (by decide +kernel) (by decide)

theorem ctxCmdWord_toNat {op : Nat} (hop : op < 4) (h : BitVec 16) :
    (ctxCmdWord op h).toNat = 2 ^ 31 + op * 2 ^ 28 + h.toNat := by
  rw [ctxCmdWord, BitVec.toNat_ofNat]; omega

theorem ctxCmdWord_fields {op : Nat} (hop : op < 4) (h : BitVec 16) : flag (ctxCmdWord op h) 31 = true ∧
    fld (ctxCmdWord op h) 29 28 = op ∧ fld (ctxCmdWord op h) 15 0 = h.toNat := by
  rw [flag_eq_fld]
  simp only [fld, ctxCmdWord_toNat hop h, bits, decide_eq_true_eq]
  omega

theorem ctxDoorbell_eq {op : Nat} (hop : op < 4) {h : BitVec 16} (hreach : Reaches s .host (Reg.strmCtxCmd.addr []))
    (halone : Alone s) : ctxDoorbell s (ctxCmdWord op h) = contextCommand (ctxCommanded s (ctxCmdWord op h)) op h.toNat := by
  obtain ⟨hgo, hfop, hfh⟩ := ctxCmdWord_fields hop h
  have hstage : stage s .host Reg.strmCtxCmd [] 0xFFFFFFFF (ctxCmdWord op h) = ctxCommanded s (ctxCmdWord op h) :=
    stage_immediate strmCtxCmd_immediate halone (by rw [taken_of_plain (by decide)]; decide)
  rw [ctxDoorbell, doorbell_of_reaches hreach]
  simp only [contextCommandWrite, hstage, hgo, hfop, hfh, if_true]

theorem exec_ctxResetRecovery {h : BitVec 16} (hreach : Reaches s .host (Reg.strmCtxCmd.addr [])) (halone : Alone s) :
    exec (.ctxResetRecovery h) s =
      done (putStreamState (ctxCommanded s (ctxCmdWord 0 h)) h.toNat (streamState s h.toNat).resetRecovery) :=
  congrArg done (ctxDoorbell_eq (op := 0) (by decide) hreach halone)

theorem exec_ctxUnblock {h : BitVec 16} (hreach : Reaches s .host (Reg.strmCtxCmd.addr [])) (halone : Alone s) :
    exec (.ctxUnblock h) s =
      done (putStreamState (ctxCommanded s (ctxCmdWord 1 h)) h.toNat { streamState s h.toNat with blocked := false }) :=
  congrArg done (ctxDoorbell_eq (op := 1) (by decide) hreach halone)

theorem exec_ctxGenSeqZero {h : BitVec 16} (hreach : Reaches s .host (Reg.strmCtxCmd.addr [])) (halone : Alone s) :
    exec (.ctxGenSeqZero h) s =
      done (putStreamState (ctxCommanded s (ctxCmdWord 2 h)) h.toNat { streamState s h.toNat with genSeq := 0 }) :=
  congrArg done (ctxDoorbell_eq (op := 2) (by decide) hreach halone)

/-- The state half of a context with its balances at their caps. -/
def fullState (s : State) (h : Nat) : StreamState :=
  { streamState s h with balances := List.replicate 4 (meterCap (streamCfg s h), s.time.dt) }

theorem exec_ctxBalancesFull {h : BitVec 16} (hreach : Reaches s .host (Reg.strmCtxCmd.addr [])) (halone : Alone s) :
    exec (.ctxBalancesFull h) s = done (putStreamState (ctxCommanded s (ctxCmdWord 3 h)) h.toNat (fullState s h.toNat)) :=
  congrArg done (ctxDoorbell_eq (op := 3) (by decide) hreach halone)

theorem streamState_putStreamState_same : streamState (putStreamState s h x) h = x := get_set_same

theorem streamState_putStreamState_other (hk : k ≠ h) : streamState (putStreamState s h x) k = streamState s k := get_set_other hk

/-- A command of STRM_CTX_CMD that leaves context `h` with state half `x`. -/
theorem does_ctxCommand {i : Instr} {data : Word} {P : StreamState → State → Prop}
    (hexec : exec i s = done (putStreamState (ctxCommanded s data) h x))
    (hp : P x (putStreamState (ctxCommanded s data) h x)) (any : ∀ v j, P x v → P x { v with irq := j }) :
    Does i s [.staged, .inForce, .strm] fun t =>
      P x t ∧ streamState t h = x ∧ (∀ k, k ≠ h → streamState t k = streamState s k) ∧ t.strm = { s.strm with state := t.strm.state } ∧
        RegsBut [Reg.strmCtxCmd.addr []] s t := by
  have hw := ((within_ctxCommanded s data).append ((onlyChanges_putStreamState _ h x).within (by decide))).mono
    (qs := [.staged, .inForce, .strm]) (m := [Reg.strmCtxCmd.addr []]) (by decide) (by simp)
  exact does_of_all hexec hw.1 ⟨hp, streamState_putStreamState_same, fun k hk => streamState_putStreamState_other hk, rfl, hw.2⟩
    fun v j ⟨hv, hrest⟩ => ⟨any v j hv, hrest⟩

/-- A balance filled at this tick is at its cap. -/
theorem meterBalance_full (hx : x.balances = List.replicate 4 (meterCap c, s.time.dt)) (hk : k < 4) :
    meterBalance s c x k = meterCap c := by
  have hget : (List.replicate 4 (meterCap c, s.time.dt)).getD k (0, 0) = (meterCap c, s.time.dt) := by
    rw [List.getD_eq_getElem _ _ (by simpa using hk), List.getElem_replicate]
  simp only [meterBalance, hx, hget, Int.sub_self, Int.mul_zero, Int.add_zero, Int.min_self]

/-! ### Timers (R167, R170) -/

theorem get_of_not_mem_keys {α : Type} {d : α} {l : Sparse α} (hk : k ∉ keys l) : get d l k = d := by
  induction l with
  | nil => rfl
  | cons e l ih =>
    obtain ⟨j, v⟩ := e
    rw [keys, List.map_cons, List.mem_cons, not_or] at hk
    rw [get, if_neg hk.1]
    exact ih hk.2

/-- The end of a latent-error period changes what a context counted. -/
theorem latentTest_state (s : State) (h k : Nat) : streamState (latentTest s h) k =
    if k = h then { streamState s h with passed := 0, discarded := 0 } else streamState s k := by
  have hput : streamState (putStreamState s h { streamState s h with passed := 0, discarded := 0 }) k =
      if k = h then { streamState s h with passed := 0, discarded := 0 } else streamState s k := by
    split
    · next hk => rw [hk]; exact streamState_putStreamState_same
    · next hk => exact streamState_putStreamState_other hk
  unfold latentTest
  extract_lets x c d u
  split <;> exact hput

theorem within_latentTest (s : State) (h : Nat) : Within [.strm, .counters, .inForce]
    [Reg.strmLatentCnt.addr [], Reg.strmLatentLast.addr []] s (latentTest s h) := by
  unfold latentTest
  extract_lets x c d u
  have hput : Within [.strm, .counters, .inForce] [Reg.strmLatentCnt.addr [], Reg.strmLatentLast.addr []] s u :=
    ((onlyChanges_putStreamState s h _).within (by decide)).mono (by decide) (by simp)
  split
  · exact hput.trans (((within_bump u _ _ _ _).append (within_streamEvent _ _ _ _ _)).mono (by decide) (by simp))
  · exact hput

theorem latentAt_latentTest (s : State) (h : Nat) : (latentTest s h).strm.latentAt = s.strm.latentAt := by
  unfold latentTest
  extract_lets x c d u
  split <;> rfl

theorem latentEnd_latentTest (s : State) (h : Nat) : latentEnd (latentTest s h) = latentEnd s := by
  rw [latentEnd, latentEnd, latentAt_latentTest, (within_latentTest s h).2.rd_eq (by decide)]

/-- What an idle context counted at the end of a period. -/
def StreamState.periodEnded (x : StreamState) : StreamState := { x with passed := 0, discarded := 0 }

theorem periodEnded_idem (x : StreamState) : x.periodEnded.periodEnded = x.periodEnded := rfl

theorem latentTests_state (l : List Nat) (s : State) (k : Nat) : streamState (l.foldl latentTest s) k =
    if k ∈ l then (streamState s k).periodEnded else streamState s k := by
  induction l generalizing s with
  | nil => rfl
  | cons h l ih =>
    rw [List.foldl_cons, ih, latentTest_state]
    by_cases hk : k = h
    · subst hk
      rw [if_pos rfl, if_pos List.mem_cons_self]
      split
      · exact periodEnded_idem _
      · rfl
    · rw [if_neg hk]
      simp only [List.mem_cons, hk, false_or]

/-- The state with the period of R170 in progress begun at tick `n`. -/
def periodFrom (s : State) (n : Nat) : State := { s with strm := { s.strm with latentAt := n } }

theorem streamState_periodFrom (s : State) (n k : Nat) : streamState (periodFrom s n) k = streamState s k := rfl

theorem word_periodFrom (s : State) (n : Nat) (r : RegRow) (ix : List Nat) : word (periodFrom s n) r ix = word s r ix := rfl

/-- The end of the period for every context. -/
def latentEnded (s : State) : State :=
  periodFrom ((keys s.strm.state).foldl latentTest s) (latentEnd ((keys s.strm.state).foldl latentTest s))

theorem latentEnd_tests (l : List Nat) (s : State) : latentEnd (l.foldl latentTest s) = latentEnd s :=
  List.foldlRecOn (motive := fun t => latentEnd t = latentEnd s) l latentTest rfl fun t ht h _ => (latentEnd_latentTest t h).trans ht

theorem onlyChanges_latentEnded (s : State) : OnlyChanges [.strm, .counters, .inForce] s (latentEnded s) :=
  (OnlyChanges.foldl (fun t h => (within_latentTest t h).1) _ s).trans ((onlyChanges_of_strm _ _).mono (by decide))

theorem streamState_latentEnded (s : State) (k : Nat) :
    streamState (latentEnded s) k = { streamState s k with passed := 0, discarded := 0 } := by
  rw [latentEnded, streamState_periodFrom, latentTests_state]
  split
  · rfl
  · next hk => rw [streamState, get_of_not_mem_keys hk]; rfl

theorem exec_latentTest {now : State} {el : Nat} (hnow : now = advance el s) (hdue : latentEnd now ≤ now.time.dt) :
    exec (.latentTest el) s = done (latentEnded now) := by
  show execLatentTest el s = _
  simp only [execLatentTest, ← hnow, if_neg (Nat.not_lt.mpr hdue)]
  rfl

/-- A context out of tolerance. -/
theorem latentTest_fails (hon : flag (streamCfg s h) 120 = true)
    (hd : rd s Reg.strmLatent [] 15 0 <
      (((streamState s h).passed * fld (streamCfg s h) 119 118 : Nat) - ((streamState s h).discarded : Int)).natAbs) :
    latentTest s h = streamEvent (bump (putStreamState s h (streamState s h).periodEnded) Ctr.stream [h] 12 1)
      Reg.strmLatentCnt Reg.strmLatentLast h 0 := by
  unfold latentTest
  extract_lets x c d u
  have hd' : rd u Reg.strmLatent [] 15 0 < d.natAbs := hd
  rw [if_pos (by rw [show flag c 120 = true from hon, decide_eq_true hd']; rfl)]
  rfl

/-! ### Nodes (R172) -/

/-- The node table without one node. -/
def nodeForgotten (s : State) (p : Nat) (mac : BitVec 48) : State :=
  { s with strm := { s.strm with nodes := s.strm.nodes.filter fun n => !(n.pair == p && n.mac == mac) } }

theorem nodeOf_forgotten_same {p : Nat} {mac : BitVec 48} : nodeOf (nodeForgotten s p mac) p mac = none := by
  rw [nodeOf, nodeForgotten, List.find?_eq_none]
  intro n hn
  have hkept := (List.mem_filter.mp hn).2
  rw [Bool.not_eq_true'] at hkept
  rw [hkept]; decide

theorem find?_filter_of_imp {α : Type} {p q : α → Bool} (h : ∀ x, p x = true → q x = true) (l : List α) :
    (l.filter q).find? p = l.find? p := by
  rw [List.find?_filter]
  congr 1
  funext x
  cases hp : p x
  · exact decide_eq_false fun hboth => Bool.false_ne_true hboth.2
  · exact decide_eq_true ⟨h x hp, rfl⟩

theorem nodeOf_forgotten_other {p q : Nat} {mac m : BitVec 48} (hne : (q, m) ≠ (p, mac)) :
    nodeOf (nodeForgotten s p mac) q m = nodeOf s q m := by
  refine find?_filter_of_imp (fun n hn => ?_) s.strm.nodes
  rw [Bool.and_eq_true, beq_iff_eq, beq_iff_eq] at hn
  obtain ⟨rfl, rfl⟩ := hn
  rw [Bool.not_eq_true', Bool.and_eq_false_iff, beq_eq_false_iff_ne, beq_eq_false_iff_ne]
  by_contra hboth
  rw [not_or, not_not, not_not] at hboth
  exact hne (Prod.ext hboth.1 hboth.2)

theorem exec_nodeForget {p : Fin 12} {mac : BitVec 48} {x : Node} (hx : nodeOf s p mac = some x)
    (hdue : x.lastAt + rd s Reg.strmNode [] 15 0 * 800000 ≤ s.time.dt) :
    exec (.nodeForget p mac) s = done (nodeForgotten s p mac) := by
  show execNodeForget p mac s = _
  simp only [execNodeForget, hx, if_neg (Nat.not_lt.mpr hdue)]
  rfl

end

/-- Settles O24: a context write by `contextWrite_lands` and `contextWrite_refused`, a command by `does_ctxCommand`, the end of a
period by induction on the contexts, and a node's removal by the search that skips it. -/
theorem streamContextsChange : Obligations.StreamContextsChange := by
  refine ⟨fun s req h cfg c hreach halone hc hr => ?_, fun s req h cfg c hreach halone hc hr => ?_,
    fun s h hreach halone => ?_, fun s h hreach halone => ?_, fun s h hreach halone => ?_, fun s h hreach halone => ?_,
    fun s h hdue => ?_, fun s el now hnow hdue => ?_, fun s el now hnow hnot => ?_,
    fun s el h x now hnow hdue hone hon hd => ?_, fun s p mac x hx hdue => ?_⟩
  · refine does_of_all ((exec_streamContextWrite hreach).trans (congrArg done (contextWrite_lands halone hc hr)))
      (onlyChanges_contextLanded s h.toNat c)
      ⟨streamCfg_contextLanded_same, fun k hk => ⟨streamCfg_contextLanded_other hk, streamState_contextLanded_other hk⟩, ?_, ?_,
        fun hchanged => ?_, ?_⟩ fun _ _ h => h
    · rw [streamState_contextLanded_same]; exact contextState_kept.1
    · rw [streamState_contextLanded_same]; exact contextState_kept.2
    · rw [streamState_contextLanded_same]; exact contextState_reset hchanged
    · rw [strm_contextLanded]
  · have hw := within_streamEvent s Reg.strmRefuseCnt Reg.strmRefuseLast h.toNat (contextRefusal s h.toNat c)
    exact does_of_all ((exec_streamContextWrite hreach).trans (congrArg done (contextWrite_refused halone hc hr))) hw.1
      ⟨count_streamEvent (by decide), last_streamEvent, hw.2⟩ fun _ _ h => h
  · exact (does_ctxCommand (P := fun _ _ => True) (exec_ctxResetRecovery hreach halone) trivial fun _ _ h => h).imp fun t ht => ht.2
  · exact (does_ctxCommand (P := fun _ _ => True) (exec_ctxUnblock hreach halone) trivial fun _ _ h => h).imp fun t ht => ht.2
  · exact (does_ctxCommand (P := fun _ _ => True) (exec_ctxGenSeqZero hreach halone) trivial fun _ _ h => h).imp fun t ht => ht.2
  · refine (does_ctxCommand (P := fun x t => ∀ k < 4, meterBalance t (streamCfg t h.toNat) x k = meterCap (streamCfg s h.toNat))
      (exec_ctxBalancesFull hreach halone)
      (fun k hk => meterBalance_full (s := putStreamState (ctxCommanded s _) _ _) (x := fullState s h.toNat) rfl hk) fun _ _ h => h).imp ?_
    rintro t ⟨hfull, hstate, hother, hstrm, hregs⟩
    exact ⟨fun k hk => by rw [hstate]; exact hfull k hk, hother, hstrm, hregs⟩
  · have hexec : exec (.recoveryTimerExpiry h) s =
        done (bump (putStreamState s h.toNat (streamState s h.toNat).resetRecovery) Ctr.stream [h.toNat] 11 1) := by
      show execRecoveryTimerExpiry h s = _
      simp only [execRecoveryTimerExpiry, hdue, if_true]
    have hput := onlyChanges_putStreamState s h.toNat (streamState s h.toNat).resetRecovery
    refine does_of_all hexec (hput.append (onlyChanges_bump _ _ _ _ _))
      ⟨streamState_putStreamState_same, fun k hk => streamState_putStreamState_other hk, ?_, ?_⟩ fun _ _ h => h
    · rw [ctr_bump_same, ctr_of_onlyChanges hput (by decide)]; rfl
    · exact countersBut_bump (s := putStreamState s h.toNat (streamState s h.toNat).resetRecovery) (List.mem_singleton_self _)
  · refine doesFrom_of_all (exec_latentTest hnow hdue) (onlyChanges_latentEnded now)
      ⟨latentEnd_tests (keys now.strm.state) now, streamState_latentEnded now⟩ fun _ _ h => h
  · refine doesFrom_nothing ?_
    show execLatentTest el s = _
    simp only [execLatentTest, ← hnow, if_pos hnot]
  · have hx : streamState now h = x := by rw [streamState, hone]; exact if_pos rfl
    have hend : latentEnded now = periodFrom (latentTest now h) (latentEnd (latentTest now h)) := by rw [latentEnded, hone]; rfl
    have hput := onlyChanges_putStreamState now h (streamState now h).periodEnded
    refine doesFrom_of_all (exec_latentTest hnow hdue) (onlyChanges_latentEnded now) ?_ fun _ _ h => h
    rw [hend, latentTest_fails hon (by rw [hx]; exact hd)]
    refine ⟨?_, ?_, ?_⟩
    · exact (ctr_bump_same (s := putStreamState now h _)).trans (by rw [ctr_of_onlyChanges hput (by decide)]; rfl)
    · rw [word_periodFrom, count_streamEvent (cnt := Reg.strmLatentCnt) (last := Reg.strmLatentLast) (by decide),
        ((hput.within (by decide)).append (within_bump _ _ _ _ _)).2.word_eq (r := Reg.strmLatentCnt) (by decide)]
    · rw [word_periodFrom, last_streamEvent_zero]
  · exact does_of_all (exec_nodeForget hx hdue) (onlyChanges_of_strm s _)
      ⟨nodeOf_forgotten_same, fun q m hne => nodeOf_forgotten_other hne, rfl⟩ fun _ _ h => h

end Sys2Proof.Machine

/-! PROOFS. Sequence recovery and generation (R165, R167, R169), and a pair's supervision frame (R173). -/
namespace Sys2Proof.Machine

/-- A context's state half once a frame has passed recovery. -/
def StreamState.frameTaken (x : StreamState) (s : State) (cfg : BitVec 256) : StreamState :=
  { x with timerEnd := some (s.time.dt + fld cfg 139 124 * 80000), passed := x.passed + 1 }

section
variable {s : State} {h : Nat} {cfg : BitVec 256} {n : BitVec 16} {x : StreamState} {c : Prop} [Decidable c]

theorem streamState_bump (s : State) (g : CtrGroup) (ix : List Nat) (i k h : Nat) :
    streamState (bump s g ix i k) h = streamState s h := rfl

/-- What a passed frame leaves of its context. -/
theorem streamState_passRecovery : streamState (passRecovery s h cfg x) h = x.frameTaken s cfg := by
  rw [passRecovery, streamState_bump, streamState_putStreamState_same, StreamState.frameTaken]

/-! ### The match algorithm -/

theorem recover_match_repeat (hmatch : flag cfg 147 = true) (hany : (streamState s h).takeAny = false)
    (hn : n = (streamState s h).recSeq) : (recover s h cfg n).2 = false := by
  have hrep : (!(streamState s h).takeAny && n == (streamState s h).recSeq) = true := by rw [hany, hn, beq_self_eq_true]; rfl
  simp only [recover, hmatch, hrep, if_true]

/-- The match algorithm takes a number that it does not hold. -/
theorem recover_match_new (hmatch : flag cfg 147 = true)
    (hnew : (!(streamState s h).takeAny && n == (streamState s h).recSeq) = false) :
    (recover s h cfg n).2 = true ∧ (streamState (recover s h cfg n).1 h).recSeq = n ∧
      (streamState (recover s h cfg n).1 h).takeAny = false := by
  simp only [recover, hmatch, hnew, if_true, Bool.false_eq_true, if_false, streamState_passRecovery]
  exact ⟨trivial, rfl, rfl⟩

/-! ### The vector algorithm -/

/-- The length of the history of a context. -/
def historyLen (cfg : BitVec 256) : Nat := min 64 (fld cfg 146 140)

/-- How far a number lies ahead of the last one. -/
def aheadBy (s : State) (h : Nat) (n : BitVec 16) : Int := (n - (streamState s h).recSeq).toInt

theorem recover_vector_any (hvector : flag cfg 147 = false) (hany : (streamState s h).takeAny = true) :
    recover s h cfg n = (passRecovery s h cfg { streamState s h with recSeq := n, history := 1, takeAny := false }, true) := by
  simp only [recover, hvector, hany, if_true, Bool.false_eq_true, if_false]

theorem recover_vector_outside (hvector : flag cfg 147 = false) (hany : (streamState s h).takeAny = false)
    (hout : (historyLen cfg : Int) ≤ aheadBy s h n ∨ aheadBy s h n ≤ -(historyLen cfg : Int)) :
    recover s h cfg n = (bump s Ctr.stream [h] 8 1, false) := by
  simp only [recover, hvector, hany, Bool.false_eq_true, if_false]
  exact if_pos hout

/-- Within the window and not ahead: the history decides. -/
theorem recover_vector_behind (hvector : flag cfg 147 = false) (hany : (streamState s h).takeAny = false)
    (hin : ¬ ((historyLen cfg : Int) ≤ aheadBy s h n ∨ aheadBy s h n ≤ -(historyLen cfg : Int))) (hle : aheadBy s h n ≤ 0) :
    recover s h cfg n = if (streamState s h).history.getLsbD (-aheadBy s h n).toNat
      then (discardRecovery s h (streamState s h), false)
      else (passRecovery (bump s Ctr.stream [h] 7 1) h cfg { streamState s h with
        takeAny := false, history := setFld (streamState s h).history (-aheadBy s h n).toNat (-aheadBy s h n).toNat 1 }, true) := by
  simp only [recover, hvector, hany, Bool.false_eq_true, if_false]
  unfold historyLen aheadBy at hin
  unfold aheadBy at hle
  rw [if_neg hin, if_pos hle]
  rfl

/-- Within the window and ahead: the number is taken. -/
theorem recover_vector_ahead (hvector : flag cfg 147 = false) (hany : (streamState s h).takeAny = false)
    (hin : ¬ ((historyLen cfg : Int) ≤ aheadBy s h n ∨ aheadBy s h n ≤ -(historyLen cfg : Int))) (hgt : ¬ aheadBy s h n ≤ 0) :
    ∃ u, recover s h cfg n = (passRecovery u h cfg { streamState s h with
      recSeq := n, takeAny := false, history := ((streamState s h).history <<< (aheadBy s h n).toNat) ||| 1 }, true) := by
  simp only [recover, hvector, hany, Bool.false_eq_true, if_false]
  unfold historyLen aheadBy at hin
  unfold aheadBy at hgt
  rw [if_neg hin, if_neg hgt]
  exact ⟨_, rfl⟩

/-- A number that the history holds is eliminated. -/
theorem recover_vector_held (hvector : flag cfg 147 = false) (hany : (streamState s h).takeAny = false)
    (hin : ¬ ((historyLen cfg : Int) ≤ aheadBy s h n ∨ aheadBy s h n ≤ -(historyLen cfg : Int))) (hle : aheadBy s h n ≤ 0)
    (hheld : (streamState s h).history.getLsbD (-aheadBy s h n).toNat = true) : (recover s h cfg n).2 = false := by
  rw [recover_vector_behind hvector hany hin hle, if_pos hheld]

/-- The number just taken is the last one, and the lowest bit of the history stands for it. -/
theorem recover_vector_last (hvector : flag cfg 147 = false) (hlen : fld cfg 146 140 ≠ 0) (hany : (streamState s h).takeAny = false)
    (hseq : (streamState s h).recSeq = n) (hbit : (streamState s h).history.getLsbD 0 = true) : (recover s h cfg n).2 = false := by
  have hahead : aheadBy s h n = 0 := by rw [aheadBy, hseq, BitVec.sub_self]; rfl
  have hpos : 0 < historyLen cfg := Nat.lt_min.mpr ⟨by decide, Nat.pos_of_ne_zero hlen⟩
  exact recover_vector_held hvector hany (by rw [hahead]; omega) (by rw [hahead]) (by rw [hahead]; exact hbit)

/-- A number that has passed does not pass again. -/
theorem recover_vector_once (hvector : flag cfg 147 = false) (hlen : fld cfg 146 140 ≠ 0) (hpass : (recover s h cfg n).2 = true) :
    (recover (recover s h cfg n).1 h cfg n).2 = false := by
  cases hany : (streamState s h).takeAny with
  | true =>
    rw [recover_vector_any hvector hany]
    refine recover_vector_last hvector hlen ?_ ?_ ?_ <;> rw [streamState_passRecovery]
    · rfl
    · rfl
    · exact show (1 : BitVec 64).getLsbD 0 = true by decide
  | false =>
    by_cases hout : (historyLen cfg : Int) ≤ aheadBy s h n ∨ aheadBy s h n ≤ -(historyLen cfg : Int)
    · rw [recover_vector_outside hvector hany hout] at hpass
      exact absurd hpass Bool.false_ne_true
    · by_cases hle : aheadBy s h n ≤ 0
      · rw [recover_vector_behind hvector hany hout hle] at hpass ⊢
        split at hpass
        · exact absurd hpass Bool.false_ne_true
        · next hnot =>
          rw [if_neg hnot]
          have hsame : aheadBy (passRecovery (bump s Ctr.stream [h] 7 1) h cfg { streamState s h with
              takeAny := false, history := setFld (streamState s h).history (-aheadBy s h n).toNat (-aheadBy s h n).toNat 1 }) h n = aheadBy s h n := by
            rw [aheadBy, streamState_passRecovery]; rfl
          have hlt : (-aheadBy s h n).toNat < 64 := by
            have hmax : historyLen cfg ≤ 64 := Nat.min_le_left _ _
            omega
          refine recover_vector_held hvector ?_ (by rw [hsame]; exact hout) (by rw [hsame]; exact hle) ?_
          · rw [streamState_passRecovery]; rfl
          · rw [hsame, streamState_passRecovery]
            exact flag_setFld_same (b := true) hlt
      · obtain ⟨u, hu⟩ := recover_vector_ahead (n := n) hvector hany hout hle
        rw [hu]
        refine recover_vector_last hvector hlen ?_ ?_ ?_ <;> rw [streamState_passRecovery]
        · rfl
        · rfl
        · show (((streamState s h).history <<< (aheadBy s h n).toNat) ||| 1).getLsbD 0 = true
          rw [BitVec.getLsbD_or, show (1 : BitVec 64).getLsbD 0 = true by decide, Bool.or_true]

end

/-- Settles O25: each branch of `recover` by its equation; a number that passed is the last one or is marked in the history. -/
theorem recoveryPassesOnce : Obligations.RecoveryPassesOnce := by
  refine ⟨fun s h cfg n hany => ?_, fun s h cfg n hmatch hany => ?_, fun s h cfg n hvector hlen hpass => ?_,
    fun s h cfg n hvector hany hfar => ?_, fun s h cfg hown => ?_, fun s h cfg hrtp => ?_, fun s q b hf hon hup => ?_⟩
  · cases hmatch : flag cfg 147 with
    | true => exact recover_match_new hmatch (by rw [hany]; rfl)
    | false =>
      rw [recover_vector_any hmatch hany, streamState_passRecovery]
      exact ⟨rfl, rfl, rfl⟩
  · by_cases hn : n = (streamState s h).recSeq
    · rw [recover_match_repeat hmatch hany hn, hn, bne_self_eq_false]
    · have hne : (n == (streamState s h).recSeq) = false := beq_eq_false_iff_ne.mpr hn
      rw [(recover_match_new hmatch (by rw [hne, Bool.and_false])).1]
      exact (bne_iff_ne.mpr hn).symm
  · exact recover_vector_once hvector hlen hpass
  · have hout : (historyLen cfg : Int) ≤ aheadBy s h n ∨ aheadBy s h n ≤ -(historyLen cfg : Int) := by
      have hfar : historyLen cfg ≤ (aheadBy s h n).natAbs := hfar
      omega
    rw [recover_vector_outside hvector hany hout]
    exact ⟨rfl, rfl⟩
  · simp only [generate, hown, Bool.false_eq_true, if_false]
    rw [streamState_putStreamState_same]
    exact ⟨trivial, rfl⟩
  · simp only [generate, hrtp, if_true]
    exact ⟨trivial, ctr_bump_same⟩
  · show execSupervisionFrameTx q b s = _
    simp only [execSupervisionFrameTx, hf, hon, hup, Bool.not_false, Bool.and_self, if_true]

end Sys2Proof.Machine

/-! PROOFS. Queue descriptors, SCHED_Q_CMD and VOQ routes (R212, R213, R220, R221, R231, R235, R236, R238). -/
namespace Sys2Proof.Machine

section
variable {s u : State} {req : Requester} {q k r p c : Nat} {cfg : BitVec 256} {x : Queue}

/-! ### Queues and ports of the scheduler -/

theorem queue_putQueue_same : queue (putQueue s q x) q = x := get_set_same

theorem queue_putQueue_other (h : r ≠ q) : queue (putQueue s q x) r = queue s r := get_set_other h

theorem portSched_putPortSched_same {y : PortSched} : portSched (putPortSched s p y) p = y := get_set_same

theorem portSched_putPortSched_other {y : PortSched} (h : r ≠ p) : portSched (putPortSched s p y) r = portSched s r := get_set_other h

theorem onlyChanges_putPortSched (s : State) (p : Nat) (y : PortSched) : OnlyChanges [.sched] s (putPortSched s p y) :=
  onlyChanges_of_sched s _

theorem addr_ge (r : RegRow) (ix : List Nat) : r.base ≤ r.addr ix := Nat.le_add_right _ _

/-! ### Descriptors (R212, R213) -/

/-- A descriptor that waits for PKT. -/
def descriptorWaits (s : State) (q : Nat) (cfg : BitVec 256) : State :=
  { s with sched := { s.sched with configWait := put s.sched.configWait q (cfg &&& queueMask) } }

theorem descriptorWrite_waits (halone : Alone s) (h : descriptorRefusal s q cfg = 0) :
    descriptorWrite s req q cfg = descriptorWaits s q cfg := by
  have hsolo := standsBy_of_alone (req := req) halone (some 4)
  unfold descriptorWrite
  rw [if_neg (by rw [hsolo]; decide), h]
  exact mirror_of_unpaired (s := descriptorWaits s q cfg) halone.2 4 _ _

/-- A refused descriptor. -/
def descriptorRefused (s : State) (q reason : Nat) : State :=
  putWord (countEvent s Reg.schedRefuseCnt []) Reg.schedRefuseLast [] (BitVec.ofNat 32 (reason * 2 ^ 20 + q))

theorem descriptorWrite_refused (halone : Alone s) (h : descriptorRefusal s q cfg ≠ 0) :
    descriptorWrite s req q cfg = descriptorRefused s q (descriptorRefusal s q cfg) := by
  have hsolo := standsBy_of_alone (req := req) halone (some 4)
  obtain ⟨n, hn⟩ := Nat.exists_eq_succ_of_ne_zero h
  unfold descriptorWrite
  rw [if_neg (by rw [hsolo]; decide), hn]
  rfl

theorem within_descriptorRefused (s : State) (q reason : Nat) : Within [.inForce]
    [Reg.schedRefuseCnt.addr [], Reg.schedRefuseLast.addr []] s (descriptorRefused s q reason) :=
  ((within_countEvent s _ []).append (within_putWord _ _ [] _)).mono (by decide) (by simp)

theorem count_descriptorRefused {reason : Nat} :
    word (descriptorRefused s q reason) Reg.schedRefuseCnt [] = word s Reg.schedRefuseCnt [] + 1 := by
  rw [descriptorRefused, word_putWord_other (by decide), word_countEvent_same]

theorem exec_queueDescriptorWrite {q : BitVec 18} (h : Reaches s req (0x1000020 + q.toNat * 64)) :
    exec (.queueDescriptorWrite req q cfg) s = done (descriptorWrite s req q.toNat cfg) :=
  congrArg done (entryDoorbell_eq (by omega) h _ _)

/-! ### A descriptor comes into force (R212, R220) -/

/-- The state with configuration `cfg` of queue `q` in force and none waiting. -/
def putQueueCfg (s : State) (q : Nat) (cfg : BitVec 256) : State :=
  { s with sched := { s.sched with config := set queueReset s.sched.config q cfg, configWait := drop s.sched.configWait q } }

theorem queue_putQueueCfg : queue (putQueueCfg s q cfg) r = queue s r := rfl

theorem applyQueue_some (h : find s.sched.configWait q = some cfg) : applyQueue s q =
    if flag cfg 245 then putQueue (putQueueCfg s q cfg) q
      { queue (putQueueCfg s q cfg) q with balance := min (queueBalance s q) (queueCap cfg), balanceAt := s.time.dt }
    else putQueueCfg s q cfg := by
  simp only [applyQueue, h]; rfl

theorem onlyChanges_applyQueue (s : State) (q : Nat) : OnlyChanges [.sched] s (applyQueue s q) := by
  unfold applyQueue
  split
  · exact .refl _ s
  · exact OnlyChanges.ite ((onlyChanges_of_sched s _).trans (onlyChanges_putQueue _ _ _)) (onlyChanges_of_sched s _)

theorem queueCfg_applyQueue_same (h : find s.sched.configWait q = some cfg) : queueCfg (applyQueue s q) q = cfg := by
  rw [applyQueue_some h]; split <;> exact get_set_same

theorem queueCfg_applyQueue_other (h : find s.sched.configWait q = some cfg) (hr : r ≠ q) :
    queueCfg (applyQueue s q) r = queueCfg s r := by
  rw [applyQueue_some h]; split <;> exact get_set_other hr

theorem configWait_applyQueue (h : find s.sched.configWait q = some cfg) : find (applyQueue s q).sched.configWait q = none := by
  rw [applyQueue_some h]; split <;> exact find_drop_same

theorem copies_applyQueue (h : find s.sched.configWait q = some cfg) : (queue (applyQueue s q) r).copies = (queue s r).copies := by
  rw [applyQueue_some h]
  split
  · by_cases hr : r = q
    · rw [hr, queue_putQueue_same]; rfl
    · rw [queue_putQueue_other hr, queue_putQueueCfg]
  · rw [queue_putQueueCfg]

theorem queueCap_nonneg (cfg : BitVec 256) : 0 ≤ queueCap cfg := Int.natCast_nonneg _

/-- A shaped queue's balance at the instant at which it was brought up to date. -/
theorem queueBalance_now (hon : flag (queueCfg s q) 245 = true) (hat : (queue s q).balanceAt = s.time.dt) :
    queueBalance s q = min (queueCap (queueCfg s q)) (queue s q).balance := by
  simp only [queueBalance, hon, if_true, hat, Int.sub_self, Int.mul_zero, Int.add_zero]

theorem queueBalance_off (hoff : flag (queueCfg s q) 245 = false) : queueBalance s q = queueCap (queueCfg s q) := by
  simp only [queueBalance, hoff, Bool.false_eq_true, if_false]

theorem queueBalance_le_cap (s : State) (q : Nat) : queueBalance s q ≤ queueCap (queueCfg s q) := by
  cases hon : flag (queueCfg s q) 245 with
  | false => exact (queueBalance_off hon).le
  | true => simp only [queueBalance, hon, if_true]; exact min_le_left _ _

theorem balance_applyQueue (h : find s.sched.configWait q = some cfg) (hon : flag cfg 245 = true) :
    queueBalance (applyQueue s q) q = min (queueBalance s q) (queueCap cfg) := by
  have hcfg := queueCfg_applyQueue_same h
  have hq : queue (applyQueue s q) q =
      { queue s q with balance := min (queueBalance s q) (queueCap cfg), balanceAt := s.time.dt } := by
    rw [applyQueue_some h, if_pos hon, queue_putQueue_same, queue_putQueueCfg]
  have hdt : (applyQueue s q).time.dt = s.time.dt := (onlyChanges_applyQueue s q .clock (by decide)).1
  rw [queueBalance_now (by rw [hcfg, hon]) (by rw [hq, hdt]), hcfg, hq, min_comm, min_assoc, min_self]

theorem exec_applyDeadline_queue {q : BitVec 18} (hk : k < 64) :
    exec (.applyDeadline (0x1000000 + q.toNat * 64 + k)) s = done (applyQueue s q.toNat) := by
  have hlt := q.isLt
  have hrange : 0x1000000 ≤ 0x1000000 + q.toNat * 64 + k ∧ 0x1000000 + q.toNat * 64 + k < 0x1000000 + 2 ^ 24 := by omega
  have hindex : (0x1000000 + q.toNat * 64 + k - 0x1000000) / 64 = q.toNat := by omega
  show execApplyDeadline _ s = _
  rw [execApplyDeadline, if_pos hrange, hindex]

/-! ### SCHED_Q_CMD -/

/-- SCHED_Q_CMD with a command's word. -/
def queueCommanded (s : State) (data : Word) : State := immediate s .host Reg.schedQCmd [] data

theorem within_queueCommanded (s : State) (data : Word) :
    Within [.staged, .inForce] [Reg.schedQCmd.addr []] s (queueCommanded s data) := within_immediate s _ _ _ data

theorem schedQCmd_immediate : Reg.schedQCmd.Immediate [] := immediate_of_plain (by decide) (by decide +kernel) (by decide)

theorem qCmdWord_toNat {op : Nat} (hop : op < 4) (hc : c < 8) (hp : p < 128) (hq : q < 2 ^ 18) :
    (qCmdWord op c p q).toNat = 2 ^ 31 + op * 2 ^ 28 + c * 2 ^ 25 + p * 2 ^ 18 + q := by
  rw [qCmdWord, BitVec.toNat_ofNat]; omega

theorem qCmdWord_fields {op : Nat} (hop : op < 4) (hc : c < 8) (hp : p < 128) (hq : q < 2 ^ 18) :
    flag (qCmdWord op c p q) 31 = true ∧ fld (qCmdWord op c p q) 29 28 = op ∧ fld (qCmdWord op c p q) 17 0 = q ∧
      fld (qCmdWord op c p q) 24 18 = p ∧ fld (qCmdWord op c p q) 27 25 = c := by
  rw [flag_eq_fld]
  simp only [fld, qCmdWord_toNat hop hc hp hq, bits, decide_eq_true_eq]
  omega

theorem queueDoorbell_eq {op : Nat} (hop : op < 4) (hc : c < 8) (hp : p < 128) (hq : q < 2 ^ 18)
    (h : Reaches s .host (Reg.schedQCmd.addr [])) (halone : Alone s) :
    queueDoorbell s (qCmdWord op c p q) = queueCommand (queueCommanded s (qCmdWord op c p q)) op q p c := by
  obtain ⟨hgo, hfop, hfq, hfp, hfc⟩ := qCmdWord_fields hop hc hp hq
  have hstage : stage s .host Reg.schedQCmd [] 0xFFFFFFFF (qCmdWord op c p q) = queueCommanded s (qCmdWord op c p q) :=
    stage_immediate schedQCmd_immediate halone (by rw [taken_of_plain (by decide)]; decide)
  rw [queueDoorbell, doorbell_of_reaches h]
  simp only [queueCommandWrite, hstage, hgo, hfop, hfq, hfp, hfc, if_true]

theorem onlyChanges_settleBalance (s : State) (q : Nat) : OnlyChanges [.sched] s (settleBalance s q) := by
  unfold settleBalance
  exact OnlyChanges.ite (onlyChanges_putQueue _ _ _) (.refl _ s)

/-- A queue's balance brought up to date leaves its copies and every other queue. -/
theorem settleBalance_cases (s : State) (q : Nat) :
    (flag (queueCfg s q) 245 = true ∧
      settleBalance s q = putQueue s q { queue s q with balance := queueBalance s q, balanceAt := s.time.dt }) ∨
      (flag (queueCfg s q) 245 = false ∧ settleBalance s q = s) := by
  cases hon : flag (queueCfg s q) 245 with
  | true => exact .inl ⟨rfl, by rw [settleBalance, if_pos hon]⟩
  | false => exact .inr ⟨rfl, by rw [settleBalance, if_neg (by rw [hon]; decide)]⟩

/-- The queue whose debt is cleared. -/
def debtCleared (s : State) (q : Nat) : State :=
  putQueue (settleBalance s q) q { queue (settleBalance s q) q with balance := max 0 (queue (settleBalance s q) q).balance }

theorem onlyChanges_debtCleared (s : State) (q : Nat) : OnlyChanges [.sched] s (debtCleared s q) :=
  (onlyChanges_settleBalance s q).trans (onlyChanges_putQueue _ _ _)

theorem queue_debtCleared_other (hr : r ≠ q) : queue (debtCleared s q) r = queue s r := by
  rw [debtCleared, queue_putQueue_other hr]
  rcases settleBalance_cases s q with ⟨-, h⟩ | ⟨-, h⟩
  · rw [h, queue_putQueue_other hr]
  · rw [h]

theorem copies_debtCleared : (queue (debtCleared s q) q).copies = (queue s q).copies := by
  rw [debtCleared, queue_putQueue_same]
  rcases settleBalance_cases s q with ⟨-, h⟩ | ⟨-, h⟩
  · rw [h, queue_putQueue_same]
  · rw [h]

theorem sched_settleBalance (s : State) (q : Nat) :
    (settleBalance s q).sched = { s.sched with queues := (settleBalance s q).sched.queues } := by
  rcases settleBalance_cases s q with ⟨-, h⟩ | ⟨-, h⟩ <;> rw [h]; rfl

theorem sched_debtCleared (s : State) (q : Nat) : (debtCleared s q).sched = { s.sched with queues := (debtCleared s q).sched.queues } := by
  show { (settleBalance s q).sched with queues := (debtCleared s q).sched.queues } = _
  rw [sched_settleBalance]

theorem queueCfg_debtCleared : queueCfg (debtCleared s q) r = queueCfg s r := by
  have hconfig : (debtCleared s q).sched.config = s.sched.config := by rw [sched_debtCleared]
  rw [queueCfg, queueCfg, hconfig]

theorem balance_debtCleared : queueBalance (debtCleared s q) q = max 0 (queueBalance s q) := by
  rcases settleBalance_cases s q with ⟨hon, h⟩ | ⟨hoff, -⟩
  · have hq : queue (debtCleared s q) q = { queue s q with balance := max 0 (queueBalance s q), balanceAt := s.time.dt } := by
      rw [debtCleared, queue_putQueue_same, h, queue_putQueue_same]
    have hdt : (debtCleared s q).time.dt = s.time.dt := (onlyChanges_debtCleared s q .clock (by decide)).1
    rw [queueBalance_now (by rw [queueCfg_debtCleared, hon]) (by rw [hq, hdt]), queueCfg_debtCleared, hq]
    exact min_eq_right (max_le (queueCap_nonneg _) (queueBalance_le_cap s q))
  · rw [queueBalance_off (by rw [queueCfg_debtCleared, hoff]), queueCfg_debtCleared, queueBalance_off hoff,
      max_eq_right (queueCap_nonneg _)]

/-- The class node whose debt is cleared. -/
def classDebtCleared (s : State) (p c : Nat) : State :=
  putPortSched (settleCredit s p) p { portSched (settleCredit s p) p with
    credit := (portSched (settleCredit s p) p).credit.set c (max 0 ((portSched (settleCredit s p) p).credit.getD c 0)) }

/-- Some class of port `p` has a shaper. -/
def anyShaper (s : State) (p : Nat) : Bool := (List.range 8).any fun c => rdBit s Reg.schedCbs [p, c] 31

theorem settleCredit_cases (s : State) (p : Nat) :
    (anyShaper s p = true ∧ settleCredit s p = putPortSched s p { portSched s p with
      credit := (List.range 8).map (creditNow s p), creditAt := List.replicate 8 s.time.dt }) ∨
      (anyShaper s p = false ∧ settleCredit s p = s) := by
  cases hany : anyShaper s p with
  | true => exact .inl ⟨rfl, if_pos hany⟩
  | false => exact .inr ⟨rfl, if_neg (by rw [show ((List.range 8).any fun c => rdBit s Reg.schedCbs [p, c] 31) = false from hany]; decide)⟩

theorem onlyChanges_settleCredit (s : State) (p : Nat) : OnlyChanges [.sched] s (settleCredit s p) := by
  rcases settleCredit_cases s p with ⟨-, h⟩ | ⟨-, h⟩ <;> rw [h]
  · exact onlyChanges_putPortSched s p _
  · exact .refl _ s

theorem sched_settleCredit (s : State) (p : Nat) :
    (settleCredit s p).sched = { s.sched with ports := (settleCredit s p).sched.ports } := by
  rcases settleCredit_cases s p with ⟨-, h⟩ | ⟨-, h⟩ <;> rw [h]; rfl

theorem portSched_settleCredit_other (hr : r ≠ p) : portSched (settleCredit s p) r = portSched s r := by
  rcases settleCredit_cases s p with ⟨-, h⟩ | ⟨-, h⟩ <;> rw [h]
  exact portSched_putPortSched_other hr

/-- A class without a shaper keeps its credit. -/
theorem creditNow_unshaped (h : rdBit s Reg.schedCbs [p, c] 31 = false) : creditNow s p c = (portSched s p).credit.getD c 0 := by
  have hshaped : shaped s p c = false := by rw [shaped, h, Bool.false_and]
  simp only [creditNow, hshaped, Bool.not_false, true_or, if_true]

theorem credit_settleCredit (hlen : (portSched s p).credit.length = 8) (hc : c < 8) :
    (portSched (settleCredit s p) p).credit.length = 8 ∧ (portSched (settleCredit s p) p).credit.getD c 0 = creditNow s p c := by
  rcases settleCredit_cases s p with ⟨-, h⟩ | ⟨hnone, h⟩ <;> rw [h]
  · rw [portSched_putPortSched_same]
    refine ⟨by simp, ?_⟩
    rw [List.getD_eq_getElem _ _ (by simpa using hc), List.getElem_map, List.getElem_range]
  · have hoff : rdBit s Reg.schedCbs [p, c] 31 = false := by
      rw [anyShaper, List.any_eq_false] at hnone
      exact Bool.eq_false_iff.mpr (hnone c (List.mem_range.mpr hc))
    exact ⟨hlen, (creditNow_unshaped hoff).symm⟩

theorem credit_classDebtCleared (hlen : (portSched s p).credit.length = 8) (hc : c < 8) :
    (portSched (classDebtCleared s p c) p).credit.getD c 0 = max 0 (creditNow s p c) := by
  obtain ⟨hlen', hnow⟩ := credit_settleCredit hlen hc
  rw [classDebtCleared, portSched_putPortSched_same, hnow, List.getD_eq_getElem _ _ (by rw [List.length_set, hlen']; exact hc),
    List.getElem_set_self]

theorem sched_classDebtCleared (s : State) (p c : Nat) :
    (classDebtCleared s p c).sched = { s.sched with ports := (classDebtCleared s p c).sched.ports } := by
  show { (settleCredit s p).sched with ports := (classDebtCleared s p c).sched.ports } = _
  rw [sched_settleCredit]

theorem onlyChanges_classDebtCleared (s : State) (p c : Nat) : OnlyChanges [.sched] s (classDebtCleared s p c) :=
  (onlyChanges_settleCredit s p).trans (onlyChanges_putPortSched _ _ _)

/-! ### What SCHED_Q_CMD leaves of a credit -/

theorem word_queueCommanded {data : Word} {w : RegRow} {ix : List Nat} (h : w.addr ix ≠ Reg.schedQCmd.addr []) :
    word (queueCommanded s data) w ix = word s w ix := word_immediate_other h

/-- The rows of the scheduler that lie above SCHED_Q_CMD. -/
theorem word_queueCommanded_above {data : Word} {w : RegRow} (ix : List Nat) (h : Reg.schedQCmd.base < w.base) :
    word (queueCommanded s data) w ix = word s w ix :=
  word_queueCommanded (Nat.ne_of_gt (Nat.lt_of_lt_of_le h (addr_ge w ix)))

theorem cpLinkStat_apart_qCmd : ∀ k < 32, Reg.cpLinkStat.addr [k] ≠ Reg.schedQCmd.addr [] := by decide

theorem portRate_queueCommanded (data : Word) (p : Nat) : portRate (queueCommanded s data) p = portRate s p := by
  unfold portRate
  split
  · rfl
  · split
    · next hlo hhi => rw [rd, rd, word_queueCommanded (cpLinkStat_apart_qCmd (p - 48) (by omega))]
    · have htwin (k : Nat) : rdBit (queueCommanded s data) Reg.twinStat [] k = rdBit s Reg.twinStat [] k := by
        rw [rdBit, rdBit, word_queueCommanded (by decide)]
      simp only [htwin]

theorem gateOpen_queueCommanded (data : Word) (p c : Nat) : gateOpen (queueCommanded s data) p c = gateOpen s p c := by
  have hstat (i : Nat) : rdBit (queueCommanded s data) Reg.schedGateStat [p] i = rdBit s Reg.schedGateStat [p] i := by
    rw [rdBit, rdBit, word_queueCommanded_above [p] (by decide)]
  have hentry : rd (queueCommanded s data) Reg.schedGateStat [p] 9 0 = rd s Reg.schedGateStat [p] 9 0 := by
    rw [rd, rd, word_queueCommanded_above [p] (by decide)]
  have hinit : rd (queueCommanded s data) Reg.schedGateCfg [p] 23 16 = rd s Reg.schedGateCfg [p] 23 16 := by
    rw [rd, rd, word_queueCommanded_above [p] (by decide)]
  rw [gateOpen, gateOpen, gateRunning, gateRunning, hstat, hentry, hinit]
  rfl

theorem members_queueCommanded (data : Word) (p c : Nat) : members (queueCommanded s data) p c = members s p c := by
  have hown : ownDevice (queueCommanded s data) = ownDevice s := by
    rw [ownDevice, ownDevice, rd, rd, word_queueCommanded (by decide)]
  have hroute (d : Nat) : word (queueCommanded s data) Reg.schedVoqRoute [d] = word s Reg.schedVoqRoute [d] :=
    word_queueCommanded_above [d] (by decide)
  have hport (q : Nat) : queuePort (queueCommanded s data) q = queuePort s q := by
    unfold queuePort
    rw [hown]
    simp only [rd, rdBit, hroute]
    rfl
  have hclass (q : Nat) : queueClass (queueCommanded s data) q = queueClass s q := rfl
  rw [members, members]
  simp only [hport, hclass]
  rfl

theorem creditNow_queueCommanded (data : Word) (p c : Nat) : creditNow (queueCommanded s data) p c = creditNow s p c := by
  have hcbs : word (queueCommanded s data) Reg.schedCbs [p, c] = word s Reg.schedCbs [p, c] :=
    word_queueCommanded_above _ (by decide)
  have hhi : word (queueCommanded s data) Reg.schedCbsHi [p, c] = word s Reg.schedCbsHi [p, c] :=
    word_queueCommanded_above _ (by decide)
  have hshaped : shaped (queueCommanded s data) p c = shaped s p c := by
    rw [shaped, shaped, rdBit, rdBit, rd, rd, hcbs, portRate_queueCommanded]
  rw [creditNow, creditNow, hshaped, gateOpen_queueCommanded, members_queueCommanded, rd, rd, rd, rd, hcbs, hhi]
  rfl

/-! ### VOQ routes (R235) -/

/-- A route that waits for PKT. -/
def routeWaits (s : State) (req : Requester) (d : Nat) (data : Word) : State :=
  await (putStaged s Reg.schedVoqRoute [d] (blend 0x8000007F (stagedWord s Reg.schedVoqRoute [d]) data)) req
    (Reg.schedVoqRoute.addr [d]) 0x8000007F 2

theorem writable_voqRoute (req : Requester) : writable Reg.schedVoqRoute req = 0x8000007F := by
  have hbase : Reg.schedVoqRoute.base ≠ Reg.irqRoute.base := by decide
  rw [writable, if_neg fun h => hbase h.1]
  decide

theorem stage_voqRoute (halone : Alone s) (d : Nat) (data : Word) :
    stage s req Reg.schedVoqRoute [d] 0xFFFFFFFF data = routeWaits s req d data := by
  have hms : (0x8000007F : Word) &&& Reg.schedVoqRoute.applyMask .ms = 0 := by decide
  have hfrm : (0x8000007F : Word) &&& Reg.schedVoqRoute.applyMask .frm = 0 := by decide
  have hpkt : (0x8000007F : Word) &&& Reg.schedVoqRoute.applyMask .pkt = 0x8000007F := by decide
  have himm : (0x8000007F : Word) &&& Reg.schedVoqRoute.applyMask .imm = 0 := by decide
  have hall : (0xFFFFFFFF : Word) &&& 0x8000007F = 0x8000007F := by decide
  have hpaired : activePaired (routeWaits s req d data) = false := halone.2
  unfold stage
  simp only [standsBy_of_alone halone, writable_voqRoute, hall, hms, hfrm, hpkt, himm, if_true, Bool.false_eq_true, if_false]
  split
  · split
    · exact mirror_of_unpaired hpaired _ _ _
    · rfl
  · rfl

theorem waiting_routeWaits (d : Nat) (data : Word) : (routeWaits s req d data).regs.waiting =
    (s.regs.waiting.filter fun e => !(e.addr == Reg.schedVoqRoute.addr [d] && e.kind == 2)) ++
      [⟨Reg.schedVoqRoute.addr [d], 0x8000007F, 2, s.time.dt, req⟩] := by
  rw [routeWaits, await, if_neg (by decide)]; rfl

theorem onlyChanges_routeWaits (s : State) (req : Requester) (d : Nat) (data : Word) :
    OnlyChanges [.staged, .waiting] s (routeWaits s req d data) := by
  rw [routeWaits, await, if_neg (by decide)]
  intro p hp; cases p <;> simp_all [Part.same]

theorem stagedWord_routeWaits (d : Nat) (data : Word) : stagedWord (routeWaits s req d data) Reg.schedVoqRoute [d] =
    blend 0x8000007F (stagedWord s Reg.schedVoqRoute [d]) data := by
  rw [routeWaits, await, if_neg (by decide)]
  exact stagedWord_putStaged_same s _ _ _

theorem exec_voqRouteWrite {d : Fin 128} {data : Word} (h : Reaches s req (Reg.schedVoqRoute.addr [d.val])) :
    exec (.voqRouteWrite req d data) s =
      done (if d.val = ownDevice s then s else stage s req Reg.schedVoqRoute [d] 0xFFFFFFFF data) :=
  congrArg done (doorbell_of_reaches h data _)

end

/-- Settles O26: descriptors, commands and routes each by their equation, and a class node's credit as SCHED_Q_CMD leaves it. -/
theorem queuesAreConfigured : Obligations.QueuesAreConfigured := by
  refine ⟨fun s req q cfg h halone hr => ?_, fun s req q cfg h halone hr => ?_, fun s q cfg k hk hwait => ?_,
    fun s q h halone => ?_, fun s q h halone => ?_, fun s p c h halone hlen => ?_, fun s req d data h halone hd => ?_,
    fun s req d data h hd => ?_, fun s d p c w hw hdue => ?_, fun s d p c w hw hnot => ?_⟩
  · exact does_of_all ((exec_queueDescriptorWrite h).trans (congrArg done (descriptorWrite_waits halone hr)))
      (onlyChanges_of_sched s _) rfl fun _ _ h => h
  · have hw := within_descriptorRefused s q.toNat (descriptorRefusal s q.toNat cfg)
    exact does_of_all ((exec_queueDescriptorWrite h).trans (congrArg done (descriptorWrite_refused halone hr))) hw.1
      ⟨count_descriptorRefused, word_putWord_same, hw.2⟩ fun _ _ h => h
  · exact does_of_all (exec_applyDeadline_queue hk) (onlyChanges_applyQueue s q.toNat)
      ⟨queueCfg_applyQueue_same hwait, fun r hr => queueCfg_applyQueue_other hwait hr, configWait_applyQueue hwait,
        fun hon => balance_applyQueue hwait hon, fun r => copies_applyQueue hwait⟩ fun _ _ h => h
  · have hq : q.toNat < 2 ^ 18 := q.isLt
    have hexec : exec (.qCmdZeroMaxima q) s = done (putQueue (queueCommanded s (qCmdWord 0 0 0 q.toNat)) q.toNat
        { queue s q.toNat with maxCells := 0, maxDelay := 0 }) :=
      congrArg done (queueDoorbell_eq (op := 0) (by decide) (by decide) (by decide) hq h halone)
    have hw := ((within_queueCommanded s (qCmdWord 0 0 0 q.toNat)).append
      ((onlyChanges_putQueue _ q.toNat { queue s q.toNat with maxCells := 0, maxDelay := 0 }).within (by decide)))
    exact does_of_all hexec hw.1 ⟨queue_putQueue_same, fun r hr => queue_putQueue_other hr, rfl, hw.2.mono (by simp)⟩ fun _ _ h => h
  · have hq : q.toNat < 2 ^ 18 := q.isLt
    have hexec : exec (.qCmdClearQueueDebt q) s = done (debtCleared (queueCommanded s (qCmdWord 1 0 0 q.toNat)) q.toNat) :=
      congrArg done (queueDoorbell_eq (op := 1) (by decide) (by decide) (by decide) hq h halone)
    have hw := ((within_queueCommanded s (qCmdWord 1 0 0 q.toNat)).append
      ((onlyChanges_debtCleared _ q.toNat).within (by decide)))
    exact does_of_all hexec hw.1 ⟨balance_debtCleared, copies_debtCleared, fun r hr => queue_debtCleared_other hr,
      sched_debtCleared _ _, hw.2.mono (by simp)⟩ fun _ _ h => h
  · have hexec : exec (.qCmdClearClassDebt p c) s = done (classDebtCleared (queueCommanded s (qCmdWord 2 c p 0)) p c) :=
      congrArg done (queueDoorbell_eq (op := 2) (by decide) c.2 (by omega) (by decide) h halone)
    have hw := ((within_queueCommanded s (qCmdWord 2 c p 0)).append
      ((onlyChanges_classDebtCleared _ p c).within (by decide)))
    refine does_of_all hexec hw.1 ⟨?_, fun r hr => ?_, sched_classDebtCleared _ _ _, hw.2.mono (by simp)⟩ fun _ _ h => h
    · rw [credit_classDebtCleared (s := queueCommanded s _) hlen c.2, creditNow_queueCommanded]
    · rw [classDebtCleared, portSched_putPortSched_other hr, portSched_settleCredit_other hr]; rfl
  · exact does_of_all ((exec_voqRouteWrite h).trans (congrArg done ((if_neg hd).trans (stage_voqRoute halone d data))))
      (onlyChanges_routeWaits s req d data) ⟨stagedWord_routeWaits d data, waiting_routeWaits d data⟩ fun _ _ h => h
  · exact doesFrom_nothing ((exec_voqRouteWrite h).trans (congrArg done (if_pos hd)))
  · have hexec : exec (.voqXoffLapse d p c) s =
        done { s with sched := { s.sched with xoff := drop s.sched.xoff (voqOf s d p c) } } := by
      show execVoqXoffLapse d p c s = _
      simp only [execVoqXoffLapse, hw, if_pos hdue]
    exact does_of_all hexec (onlyChanges_of_sched s _) rfl fun _ _ h => h
  · refine doesFrom_nothing ?_
    show execVoqXoffLapse d p c s = _
    simp only [execVoqXoffLapse, hw, if_neg (Nat.not_le.mpr hnot)]

end Sys2Proof.Machine

/-! PROOFS. Gate lists (R222, R223, R225, R227). -/
namespace Sys2Proof.Machine

section
variable {s now : State} {req : Requester} {p r c : Nat} {g : GateParams} {x : Gate}

theorem gate_putGate_same : gate (putGate s p x) p = x := get_set_same

theorem gate_putGate_other (h : r ≠ p) : gate (putGate s p x) r = gate s r := get_set_other h

/-! ### What a credit brought up to date leaves -/

theorem gate_settleCredit (s : State) (p r : Nat) : gate (settleCredit s p) r = gate s r := by
  have hgates : (settleCredit s p).sched.gates = s.sched.gates := by rw [sched_settleCredit]
  rw [gate, gate, hgates]

theorem word_settleCredit (s : State) (p : Nat) (w : RegRow) (ix : List Nat) : word (settleCredit s p) w ix = word s w ix :=
  ((onlyChanges_settleCredit s p).within (by decide)).2.word_eq (by simp)

theorem rd_settleCredit (s : State) (p : Nat) (w : RegRow) (ix : List Nat) (hi lo : Nat) :
    rd (settleCredit s p) w ix hi lo = rd s w ix hi lo := by rw [rd, rd, word_settleCredit]

theorem gateRunning_settleCredit (s : State) (p r : Nat) : gateRunning (settleCredit s p) r = gateRunning s r := by
  rw [gateRunning, gateRunning, rdBit, rdBit, word_settleCredit]

theorem tbNs_settleCredit (s : State) (p t : Nat) : tbNs (settleCredit s p) t = tbNs s t := by
  rcases settleCredit_cases s p with ⟨-, h⟩ | ⟨-, h⟩ <;> rw [h]; rfl

theorem port_settleCredit (s : State) (p r : Nat) : port (settleCredit s p) r = port s r := by
  rcases settleCredit_cases s p with ⟨-, h⟩ | ⟨-, h⟩ <;> rw [h]; rfl

theorem startInstant_settleCredit (s : State) (p r : Nat) : startInstant (settleCredit s p) r = startInstant s r := by
  unfold startInstant
  rw [gate_settleCredit]
  simp only [gateRunning_settleCredit, tbNs_settleCredit]

theorem activePaired_settleCredit (s : State) (p : Nat) : activePaired (settleCredit s p) = activePaired s := by
  rw [activePaired, activePaired, role, role, rd_settleCredit, rdBit, rdBit, word_settleCredit]

/-! ### Staging and commits (R222, R223) -/

/-- A staged entry of a gate list. -/
def entryStaged (s : State) (p i : Nat) (e : BitVec 64) : State :=
  { s with sched := { s.sched with gateStaged := set gateReset s.sched.gateStaged (p * 1024 + i) (e &&& 0xFF3FFFFFFF) } }

theorem gateEntryWrite_eq {i : Nat} {e : BitVec 64} (halone : Alone s) : gateEntryWrite s req p i e = entryStaged s p i e := by
  unfold gateEntryWrite
  rw [if_neg (by rw [standsBy_of_alone halone]; decide)]
  exact mirror_of_unpaired (s := entryStaged s p i e) halone.2 4 _ _

theorem exec_gateEntryWrite {p : Fin 80} {i : Fin 1024} {e : BitVec 64} (h : Reaches s req (0x5100000 + p * 0x2000 + i * 8)) :
    exec (.gateEntryWrite req p i e) s = done (gateEntryWrite s req p i e) :=
  congrArg done (entryDoorbell_eq (by omega) h _ _)

/-- The next instant of the grid lies after `t`, at most a cycle away, on the grid. -/
theorem gridAfter_bounds (g : GateParams) (hc : 0 < g.cycle) (t : Int) :
    t + 1 ≤ gridAfter g t ∧ gridAfter g t ≤ t + g.cycle ∧ (gridAfter g t - g.base) % g.cycle = 0 := by
  have hpos : (0 : Int) < g.cycle := by exact_mod_cast hc
  have hlow := Int.emod_nonneg (t - g.base) hpos.ne'
  have hhigh := Int.emod_lt_of_pos (t - g.base) hpos
  refine ⟨by unfold gridAfter; omega, by unfold gridAfter; omega, ?_⟩
  have hsplit : gridAfter g t - g.base = (t - g.base - (t - g.base) % g.cycle) + g.cycle := by unfold gridAfter; ring
  rw [hsplit, Int.add_emod_right]
  exact Int.emod_eq_zero_of_dvd (Int.dvd_self_sub_emod)

theorem cycle_stagedGate_pos (s : State) (p : Nat) : 0 < (stagedGate s p).cycle := by
  show 0 < held 1000 1000000000 _
  unfold held
  split
  · decide
  · split
    · decide
    · omega

/-- The start for which a commit waits. -/
def commitStart (s : State) (p : Nat) : Int :=
  if gateRunning s p then (gate s p).cycleEnd else gridAfter (stagedGate s p) (tbNs s (stagedGate s p).tb + 1999)

/-- A commit that waits. -/
def gateCommitted (s : State) (p : Nat) : State :=
  wrBit (putGate s p { gate s p with pending := some (stagedGate s p), cycleEnd := commitStart s p }) Reg.schedGateStat [p] 30 true

theorem within_gateCommitted (s : State) (p : Nat) :
    Within [.sched, .inForce] [Reg.schedGateStat.addr [p]] s (gateCommitted s p) :=
  (((onlyChanges_putGate s p _).within (by decide)).append (within_wrBit _ _ _ _ _)).mono (by decide) (by simp)

theorem gate_wrBit (s : State) (w : RegRow) (ix : List Nat) (i : Nat) (b : Bool) (r : Nat) : gate (wrBit s w ix i b) r = gate s r := rfl

theorem gate_gateCommitted_same :
    gate (gateCommitted s p) p = { gate s p with pending := some (stagedGate s p), cycleEnd := commitStart s p } := by
  rw [gateCommitted, gate_wrBit, gate_putGate_same]

theorem gate_gateCommitted_other (h : r ≠ p) : gate (gateCommitted s p) r = gate s r := by
  rw [gateCommitted, gate_wrBit, gate_putGate_other h]

theorem tbNs_of_tbs {u : State} (h : u.time.tbs = s.time.tbs) (t : Nat) : tbNs u t = tbNs s t := by rw [tbNs, tbNs, tb, tb, h]

theorem exec_gateCommit {p : Fin 80} {el : Nat} (hnow : now = advance el s) (h : Reaches now req (Reg.schedGateCfg.addr [p.val]))
    (halone : Alone now) : exec (.gateCommit req p el) s = done (gateCommitted now p) := by
  show execGateCommit req p el s = _
  have hcommit : gateCommit now req p = gateCommitted now p := by
    simp only [gateCommit, standsBy_of_alone halone, Bool.false_eq_true, if_false, gateCommitted, commitStart]
  simp only [execGateCommit, ← hnow]
  rw [doorbell_of_reaches h, hcommit]

/-! ### Cycle starts (R222, R223) -/

/-- A gate list in force at entry 0. -/
def GateParams.begun (g : GateParams) (start cycleEnd : Int) (short : Bool) : Gate where
  inForce := g
  pending := none
  short := short
  entryEnd := if g.last = 0 then cycleEnd else min (start + interval g 0) cycleEnd
  cycleEnd := cycleEnd

/-- List `g` begun on a port that does not sleep. -/
def cycleBegun (s : State) (p : Nat) (g : GateParams) (start cycleEnd : Int) (short : Bool) : State :=
  putWord (putGate s p (g.begun start cycleEnd short)) Reg.schedGateStat [p] 0x80000000

section
variable {start cycleEnd : Int} {short : Bool}

theorem beginCycle_awake (h : (port s p).lpiSince = none) :
    beginCycle s p g start cycleEnd short = cycleBegun s p g start cycleEnd short := by
  have hawake : (port (cycleBegun s p g start cycleEnd short) p).lpiSince.isNone = true := by
    rw [show port (cycleBegun s p g start cycleEnd short) p = port s p from rfl, h]; rfl
  exact if_pos hawake

theorem within_cycleBegun (s : State) (p : Nat) (g : GateParams) (start cycleEnd : Int) (short : Bool) :
    Within [.sched, .inForce] [Reg.schedGateStat.addr [p]] s (cycleBegun s p g start cycleEnd short) :=
  (((onlyChanges_putGate s p _).within (by decide)).append (within_putWord _ _ _ _)).mono (by decide) (by simp)

theorem gate_putWord (s : State) (w : RegRow) (ix : List Nat) (d : Word) (r : Nat) : gate (putWord s w ix d) r = gate s r := rfl

theorem gate_cycleBegun_other (h : r ≠ p) : gate (cycleBegun s p g start cycleEnd short) r = gate s r := by
  rw [cycleBegun, gate_putWord, gate_putGate_other h]

theorem gate_cycleBegun_same : gate (cycleBegun s p g start cycleEnd short) p = g.begun start cycleEnd short := by
  rw [cycleBegun, gate_putWord, gate_putGate_same]

/-- GATE_STAT as a cycle begins: running, at entry 0, with no commit pending. -/
theorem stat_cycleBegun (hp : p < 80) : gateRunning (cycleBegun s p g start cycleEnd short) p = true ∧
    rd (cycleBegun s p g start cycleEnd short) Reg.schedGateStat [p] 9 0 = 0 ∧
      rdBit (cycleBegun s p g start cycleEnd short) Reg.schedGateStat [p] 30 = false := by
  rw [gateRunning, rdBit, rdBit, rd, cycleBegun, word_putWord_same, decide_eq_true hp]
  decide

end

theorem gateOpen_of_running (hp : p < 80) (h : gateRunning s p = true) (c : Nat) :
    gateOpen s p c = entryOpen (gate s p).inForce (rd s Reg.schedGateStat [p] 9 0) c := by
  rw [gateOpen, if_neg (by omega), if_pos h]

theorem within_showGate (s : State) (p : Nat) (g : GateParams) : Within [.inForce]
    [Reg.schedGateCfg.addr [p], Reg.schedGateCfg.addr [p], Reg.schedGateCycle.addr [p], Reg.schedGateBaseNs.addr [p],
      Reg.schedGateBaseSLo.addr [p], Reg.schedGateBaseSHi.addr [p]] s (showGate s p g) :=
  ((((((within_wr s _ _ _ _ _).append (within_wr _ _ _ _ _ _)).append (within_wr _ _ _ _ _ _)).append
    (within_wr _ _ _ _ _ _)).append (within_putWord _ _ _ _)).append (within_putWord _ _ _ _)).mono (by decide) (by simp)

theorem gate_of_onlyChanges {ps : List Part} {t : State} (h : OnlyChanges ps s t) (hp : Part.sched ∉ ps) (r : Nat) :
    gate t r = gate s r := by
  have hsched : t.sched = s.sched := h .sched hp
  rw [gate, gate, hsched]

theorem gate_showGate (s : State) (p : Nat) (g : GateParams) (r : Nat) : gate (showGate s p g) r = gate s r :=
  gate_of_onlyChanges (within_showGate s p g).1 (by decide) r

theorem port_showGate (s : State) (p : Nat) (g : GateParams) (r : Nat) : port (showGate s p g) r = port s r := by
  have hports : (showGate s p g).ports = s.ports := (within_showGate s p g).1 .ports (by decide)
  rw [port, port, hports]

theorem mirrorGate_of_unpaired (h : activePaired s = false) : mirrorGate s p g = s := if_neg (by rw [h]; decide)

theorem twinStat_apart_gate : ∀ p < 80, Reg.twinStat.addr [] ∉ [Reg.schedGateCfg.addr [p], Reg.schedGateCfg.addr [p],
    Reg.schedGateCycle.addr [p], Reg.schedGateBaseNs.addr [p], Reg.schedGateBaseSLo.addr [p], Reg.schedGateBaseSHi.addr [p]] := by
  decide +kernel

theorem gateCycleStart_begins (hp : p < 80) (hpend : (gate s p).pending = some g) (hen : g.en = true)
    (hpaired : activePaired s = false) (hawake : (port s p).lpiSince = none) : gateCycleStart s p =
      cycleBegun (showGate s p g) p g (startInstant s p) (gridAfter g (startInstant s p))
        (decide (gridAfter g (startInstant s p) - startInstant s p < g.cycle)) := by
  have hshown : activePaired (showGate s p g) = false := by
    rw [activePaired, role, (within_showGate s p g).2.rd_eq (twinStat_apart_gate p hp),
      (within_showGate s p g).2.rdBit_eq (twinStat_apart_gate p hp)]
    exact hpaired
  simp only [gateCycleStart, hpend, hen, if_true, mirrorGate_of_unpaired hshown]
  exact beginCycle_awake (by rw [port_showGate, hawake])

/-- A commit with EN 0 takes effect: no list runs. -/
def gatesOpened (s : State) (p : Nat) (g : GateParams) : State :=
  putWord (putGate (showGate s p g) p { gate s p with inForce := g, pending := none, short := false }) Reg.schedGateStat [p] 0

theorem gateCycleStart_opens (hp : p < 80) (hpend : (gate s p).pending = some g) (hen : g.en = false)
    (hpaired : activePaired s = false) : gateCycleStart s p = gatesOpened s p g := by
  have hshown : activePaired (showGate s p g) = false := by
    rw [activePaired, role, (within_showGate s p g).2.rd_eq (twinStat_apart_gate p hp),
      (within_showGate s p g).2.rdBit_eq (twinStat_apart_gate p hp)]
    exact hpaired
  simp only [gateCycleStart, hpend, hen, Bool.false_eq_true, if_false, mirrorGate_of_unpaired hshown, gatesOpened]

theorem gateCycleStart_repeats (hpend : (gate s p).pending = none) (hrun : gateRunning s p = true)
    (hawake : (port s p).lpiSince = none) : gateCycleStart s p =
      cycleBegun s p (gate s p).inForce (startInstant s p) (startInstant s p + (gate s p).inForce.cycle) false := by
  simp only [gateCycleStart, hpend, hrun, if_true]
  exact beginCycle_awake hawake

theorem onlyChanges_gatesOpened (s : State) (p : Nat) (g : GateParams) : OnlyChanges [.sched, .inForce] s (gatesOpened s p g) :=
  ((((within_showGate s p g).1.append (onlyChanges_putGate _ _ _)).append (onlyChanges_putWord _ _ _ _))).mono (by decide)

theorem gateRunning_gatesOpened : gateRunning (gatesOpened s p g) p = false := by
  rw [gateRunning, rdBit, gatesOpened, word_putWord_same, show flag (0 : Word) 31 = false by decide, Bool.and_false]

theorem pending_gatesOpened : (gate (gatesOpened s p g) p).pending = none := by
  rw [gatesOpened, gate_putWord, gate_putGate_same]

theorem gateOpen_of_idle (hrun : gateRunning s p = false) (hpend : (gate s p).pending = none) (c : Nat) : gateOpen s p c = true := by
  simp only [gateOpen, hrun, hpend, Option.isSome_none, Bool.false_eq_true, if_false, ite_self]

theorem exec_gateCycleStart {p : Fin 80} {el : Nat} (hnow : now = advance el s) (hdue : cycleDue now p = true) :
    exec (.gateCycleStart p el) s = done (gateCycleStart (settleCredit now p) p) := by
  show execGateCycleStart p el s = _
  simp only [execGateCycleStart, ← hnow, hdue, if_true, gateEvent]

/-- A pending commit whose instant has been reached. -/
theorem cycleDue_of_pending (hpend : (gate s p).pending = some g) (hdue : (gate s p).cycleEnd ≤ tbNs s (gateTb s p)) :
    cycleDue s p = true := by
  rw [cycleDue, hpend, Option.isSome_some, Bool.or_true, Bool.true_and, decide_eq_true hdue]

theorem gateTb_of_running (h : gateRunning s p = true) : gateTb s p = (gate s p).inForce.tb := if_pos h

/-- The start of a list that has passed no whole cycle since its own cycle ended. -/
theorem startInstant_of_running (hpend : (gate s p).pending = none) (hdue : (gate s p).cycleEnd ≤ tbNs s (gate s p).inForce.tb)
    (hlate : tbNs s (gate s p).inForce.tb < (gate s p).cycleEnd + (gate s p).inForce.cycle) :
    startInstant s p = (gate s p).cycleEnd := by
  have hzero : (tbNs s (gate s p).inForce.tb - (gate s p).cycleEnd) / ((gate s p).inForce.cycle : Int) = 0 :=
    Int.ediv_eq_zero_of_lt (by omega) (by omega)
  simp only [startInstant, hpend, hzero, Int.zero_mul, Int.add_zero]

/-- A commit's start keeps the instant for which it waited unless it changes the time base. -/
theorem startInstant_of_pending (hpend : (gate s p).pending = some g)
    (h : gateRunning s p = false ∨ (gate s p).inForce.tb = g.tb) : startInstant s p = (gate s p).cycleEnd := by
  have hno : ¬ (gateRunning s p = true ∧ (gate s p).inForce.tb ≠ g.tb) := by
    rintro ⟨hrun, hne⟩
    exact h.elim (fun hidle => Bool.false_ne_true (hidle.symm.trans hrun)) hne
  simp only [startInstant, hpend, if_neg hno]

/-! ### Entries (R222) -/

/-- The end of the entry that follows the one in force. -/
def nextEnd (s : State) (p : Nat) : Int :=
  let x := gate s p
  let e := rd s Reg.schedGateStat [p] 9 0
  if e + 1 = x.inForce.last then x.cycleEnd else min (x.entryEnd + interval x.inForce (e + 1)) x.cycleEnd

theorem entryStep_eq : entryStep s p = wr (putGate s p { gate s p with entryEnd := nextEnd s p }) Reg.schedGateStat [p] 9 0
    (rd s Reg.schedGateStat [p] 9 0 + 1) := rfl

theorem nextEnd_bounds (h : (gate s p).entryEnd ≤ (gate s p).cycleEnd) :
    (gate s p).entryEnd ≤ nextEnd s p ∧ nextEnd s p ≤ (gate s p).cycleEnd := by
  unfold nextEnd
  dsimp only
  split
  · exact ⟨h, le_refl _⟩
  · exact ⟨le_min (by omega) h, min_le_right _ _⟩

theorem within_entryStep (s : State) (p : Nat) : Within [.sched, .inForce] [Reg.schedGateStat.addr [p]] s (entryStep s p) :=
  (((onlyChanges_putGate s p _).within (by decide)).append (within_wr _ _ _ _ _ _)).mono (by decide) (by simp)

theorem gate_wr (s : State) (w : RegRow) (ix : List Nat) (hi lo v r : Nat) : gate (wr s w ix hi lo v) r = gate s r := rfl

theorem gate_entryStep : gate (entryStep s p) p = { gate s p with entryEnd := nextEnd s p } := by
  rw [entryStep_eq, gate_wr, gate_putGate_same]

theorem entry_entryStep (h : rd s Reg.schedGateStat [p] 9 0 + 1 < 1024) :
    rd (entryStep s p) Reg.schedGateStat [p] 9 0 = rd s Reg.schedGateStat [p] 9 0 + 1 := by
  rw [entryStep_eq, rd_wr_same (by decide) (by decide)]
  exact Nat.mod_eq_of_lt h

theorem gateRunning_entryStep : gateRunning (entryStep s p) p = gateRunning s p := by
  rw [gateRunning, gateRunning, rdBit, rdBit, entryStep_eq, word_wr_same, flag_setFld_above (by decide) (by decide) (by decide)]
  rfl

theorem exec_gateEntryExpiry {p : Fin 80} {el : Nat} (hnow : now = advance el s) (hnot : cycleDue now p = false)
    (hdue : entryDue now p = true) : exec (.gateEntryExpiry p el) s = done (entryStep (settleCredit now p) p) := by
  show execGateEntryExpiry p el s = _
  simp only [execGateEntryExpiry, ← hnow, hdue, hnot, if_true, gateEvent, Bool.false_eq_true, if_false]

end

/-- Settles O27: a commit by `gateCommitted`, a cycle start by `cycleBegun` or `gatesOpened`, an entry's end by `entryStep`, each
read off on the port's gate and GATE_STAT. -/
theorem gateListsRun : Obligations.GateListsRun := by
  refine ⟨fun s req p i e h halone => ?_, fun s req p el g now hnow h halone hidle hg => ?_,
    fun s req p el now hnow h halone hrun => ?_, fun s p el g now hnow halone hpend hen hdue hawake => ?_,
    fun s p el g now hnow halone hpend hen hdue => ?_, fun s p el now hnow hpend hrun hdue hlate hawake => ?_,
    fun s p el now hnow hnot => ?_, fun s p el now hnow hnot => ?_,
    fun s p el now hnow hrun hheld hlast hmax hdue hbefore => ?_, fun s p c hp hrun hc => gateOpen_of_running hp hrun c,
    fun s p c hclosed => ?_⟩
  · exact does_of_all ((exec_gateEntryWrite h).trans (congrArg done (gateEntryWrite_eq halone))) (onlyChanges_of_sched s _) rfl
      fun _ _ h => h
  · subst hg
    have hstart : commitStart now p = gridAfter (stagedGate now p) (tbNs now (stagedGate now p).tb + 1999) :=
      if_neg (by rw [hidle]; decide)
    obtain ⟨hlow, hhigh, hgrid⟩ := gridAfter_bounds (stagedGate now p) (cycle_stagedGate_pos now p)
      (tbNs now (stagedGate now p).tb + 1999)
    have htb : tbNs (gateCommitted now p) (stagedGate now p).tb = tbNs now (stagedGate now p).tb := 
      tbNs_of_tbs ((within_gateCommitted now p).1 .clock (by decide)).2 _
    refine doesFrom_of_all (exec_gateCommit hnow h halone) (within_gateCommitted now p).1 ?_ fun _ _ h => h
    rw [gate_gateCommitted_same, htb, hstart]
    dsimp only
    exact ⟨rfl, rfl, by omega, hgrid, by omega, rdBit_wrBit_same (by decide), fun r hr => gate_gateCommitted_other hr,
      (within_gateCommitted now p).2⟩
  · refine doesFrom_of_all (exec_gateCommit hnow h halone) (within_gateCommitted now p).1 ⟨?_, rdBit_wrBit_same (by decide)⟩
      fun _ _ h => h
    have hstart : commitStart now p = (gate now p).cycleEnd := if_pos hrun
    rw [gate_gateCommitted_same, hstart]
  · have hbegins := gateCycleStart_begins (s := settleCredit now p) p.2 (by rw [gate_settleCredit, hpend]) hen
      (by rw [activePaired_settleCredit, halone.2]) (by rw [port_settleCredit, hawake])
    rw [startInstant_settleCredit] at hbegins
    have hgate (r : Nat) : gate (showGate (settleCredit now p) p g) r = gate now r := by rw [gate_showGate, gate_settleCredit]
    refine doesFrom_of_all ((exec_gateCycleStart hnow (cycleDue_of_pending hpend hdue)).trans (congrArg done hbegins))
      ((((onlyChanges_settleCredit now p).append (within_showGate _ _ _).1).append (within_cycleBegun _ _ _ _ _ _).1).mono (by decide))
      ?_ fun _ _ h => h
    generalize hshort : decide (gridAfter g (startInstant now p) - startInstant now p < g.cycle) = short
    obtain ⟨hruns, hentry, hnone⟩ := stat_cycleBegun (s := showGate (settleCredit now p) p g) (g := g) (start := startInstant now p)
      (cycleEnd := gridAfter g (startInstant now p)) (short := short) p.2
    have hbegun := gate_cycleBegun_same (s := showGate (settleCredit now p) p g) (p := p) (g := g) (start := startInstant now p)
      (cycleEnd := gridAfter g (startInstant now p)) (short := short)
    refine ⟨hruns, hentry, hnone, ?_, ?_, ?_, startInstant_of_pending hpend, fun c hc => ?_, fun r hr => ?_⟩
    · rw [hbegun]; rfl
    · rw [hbegun]; rfl
    · rw [hbegun]; rfl
    · rw [gateOpen_of_running p.2 hruns, hentry, hbegun]; rfl
    · rw [gate_cycleBegun_other hr, hgate]
  · have hopens := gateCycleStart_opens (s := settleCredit now p) p.2 (by rw [gate_settleCredit, hpend]) hen
      (by rw [activePaired_settleCredit, halone.2])
    exact doesFrom_of_all ((exec_gateCycleStart hnow (cycleDue_of_pending hpend hdue)).trans (congrArg done hopens))
      (((onlyChanges_settleCredit now p).append (onlyChanges_gatesOpened _ _ _)).mono (by decide))
      ⟨gateRunning_gatesOpened, pending_gatesOpened, fun c _ => gateOpen_of_idle gateRunning_gatesOpened pending_gatesOpened c⟩
      fun _ _ h => h
  · have hdue' : cycleDue now p = true := by
      rw [cycleDue, hrun, Bool.true_or, Bool.true_and, gateTb_of_running hrun, decide_eq_true hdue]
    have hrepeats := gateCycleStart_repeats (s := settleCredit now p) (p := p) (by rw [gate_settleCredit, hpend])
      (by rw [gateRunning_settleCredit, hrun]) (by rw [port_settleCredit, hawake])
    rw [startInstant_settleCredit, startInstant_of_running hpend hdue hlate, gate_settleCredit] at hrepeats
    have hw := ((onlyChanges_settleCredit now p).within (by decide)).append (within_cycleBegun (settleCredit now p) p
      (gate now p).inForce (gate now p).cycleEnd ((gate now p).cycleEnd + (gate now p).inForce.cycle) false)
    refine doesFrom_of_all ((exec_gateCycleStart hnow hdue').trans (congrArg done hrepeats)) (hw.1.mono (by decide))
      ⟨?_, ?_, (stat_cycleBegun p.2).2.1, hw.2.mono (by simp)⟩ fun _ _ h => h
    · rw [gate_cycleBegun_same]; rfl
    · rw [gate_cycleBegun_same]; rfl
  · refine doesFrom_nothing ?_
    show execGateCycleStart p el s = _
    simp only [execGateCycleStart, ← hnow, hnot, Bool.false_eq_true, if_false]
  · refine doesFrom_nothing ?_
    show execGateEntryExpiry p el s = _
    simp only [execGateEntryExpiry, ← hnow, hnot, Bool.false_eq_true, if_false]
  · have hnot : cycleDue now p = false := by
      rw [cycleDue, gateTb_of_running hrun, decide_eq_false (Int.not_le.mpr hbefore), Bool.and_false]
    have hentry : entryDue now p = true := by
      rw [entryDue, hrun, hheld, decide_eq_true hlast, decide_eq_true ⟨by omega, hdue⟩]; rfl
    have hw := ((onlyChanges_settleCredit now p).within (by decide)).append (within_entryStep (settleCredit now p) p)
    have hnext := nextEnd_bounds (s := settleCredit now p) (p := p) (by rw [gate_settleCredit]; omega)
    rw [gate_settleCredit] at hnext
    refine doesFrom_of_all (exec_gateEntryExpiry hnow hnot hentry) (hw.1.mono (by decide)) ?_ fun _ _ h => h
    rw [gate_entryStep, gate_settleCredit, entry_entryStep (by rw [rd_settleCredit]; omega), rd_settleCredit, gateRunning_entryStep,
      gateRunning_settleCredit]
    exact ⟨rfl, hrun, rfl, hnext.1, hnext.2, rfl, hw.2.mono (by simp)⟩
  · simp only [remaining, hclosed, Bool.not_false, if_true]

end Sys2Proof.Machine

/-! PROOFS. The servo, steps and jumps of time bases, and TIME_TB_CMD (R249 to R254). -/
namespace Sys2Proof.Machine

/-! ### What stands beside the time bases -/

/-- No word of the time bases' register blocks changes but those listed, nor DT, nor what waits of TIME_TB_CMD. -/
def TbRegs (l : List Nat) (s u : State) : Prop :=
  u.time.dt = s.time.dt ∧ u.time.tbCmds = s.time.tbCmds ∧
    ∀ a, 0xE01000 ≤ a ∧ a < 0xE01400 → a ∉ l → ∀ d, get d u.regs.inForce a = get d s.regs.inForce a

/-- Nothing of a time base changes: neither the words of its block nor its accumulator. -/
def TbAside (s u : State) : Prop := TbRegs [] s u ∧ u.time.tbs = s.time.tbs

section
variable {s t u : State} {l m : List Nat} {ps : List Part}

theorem TbRegs.refl (l : List Nat) (s : State) : TbRegs l s s := ⟨rfl, rfl, fun _ _ _ _ => rfl⟩

theorem TbRegs.trans (h : TbRegs l s t) (h' : TbRegs l t u) : TbRegs l s u :=
  ⟨h'.1.trans h.1, h'.2.1.trans h.2.1, fun a ha hl d => (h'.2.2 a ha hl d).trans (h.2.2 a ha hl d)⟩

theorem TbRegs.mono (h : TbRegs l s t) (hl : ∀ a ∈ l, a ∈ m) : TbRegs m s t :=
  ⟨h.1, h.2.1, fun a ha hm => h.2.2 a ha fun hal => hm (hl a hal)⟩

theorem TbRegs.word_eq {r : RegRow} {ix : List Nat} (h : TbRegs l s t) (ha : 0xE01000 ≤ r.addr ix ∧ r.addr ix < 0xE01400)
    (hl : r.addr ix ∉ l) : word t r ix = word s r ix := h.2.2 _ ha hl _

theorem TbRegs.rd_eq {r : RegRow} {ix : List Nat} (h : TbRegs l s t) (ha : 0xE01000 ≤ r.addr ix ∧ r.addr ix < 0xE01400)
    (hl : r.addr ix ∉ l) (hi lo : Nat) : rd t r ix hi lo = rd s r ix hi lo := congrArg (fld · hi lo) (h.word_eq ha hl)

theorem Within.tbRegs (h : Within ps l s t) (hc : Part.clock ∉ ps) (ht : Part.time ∉ ps) : TbRegs l s t :=
  ⟨(h.1 .clock hc).1, (h.1 .time ht).1, fun a _ hl d => h.2 a d hl⟩

theorem TbAside.refl (s : State) : TbAside s s := ⟨.refl _ s, rfl⟩

theorem TbAside.trans (h : TbAside s t) (h' : TbAside t u) : TbAside s u := ⟨h.1.trans h'.1, h'.2.trans h.2⟩

theorem TbAside.ite {c : Prop} [Decidable c] (h : TbAside s t) (h' : TbAside s u) : TbAside s (if c then t else u) := by
  split
  · exact h
  · exact h'

theorem TbAside.orNot {c : Prop} [Decidable c] (h : TbAside s t) : TbAside s (if c then t else s) := h.ite (.refl s)

theorem TbAside.foldl {α : Type} {f : State → α → State} {xs : List α} (h : ∀ t, ∀ x ∈ xs, TbAside t (f t x)) (s : State) :
    TbAside s (xs.foldl f s) :=
  List.foldlRecOn (motive := TbAside s) xs f (.refl s) fun t ht x hx => ht.trans (h t x hx)

theorem TbAside.tb_eq (h : TbAside s t) (k : Nat) : tb t k = tb s k := by rw [tb, tb, h.2]

theorem Within.tbAside (h : Within ps l s t) (hc : Part.clock ∉ ps) (ht : Part.time ∉ ps)
    (hl : ∀ a ∈ l, a < 0xE01000 ∨ 0xE01400 ≤ a) : TbAside s t :=
  ⟨⟨(h.1 .clock hc).1, (h.1 .time ht).1, fun a ha _ d => h.2 a d fun hal => by have := hl a hal; omega⟩, (h.1 .clock hc).2⟩

end

section
variable {s : State} {p t k : Nat}

theorem within_leaveLpi (s : State) (p : Nat) :
    Within [.counters, .ports, .inForce] [Reg.cpLinkStat.addr [p - 48]] s (leaveLpi s p) := by
  refine ⟨(macOnly_leaveLpi s p).1, ?_⟩
  have hcount : RegsBut [] s (countLpi s p) := by
    unfold countLpi
    split
    · exact .refl _ s
    · exact fun a d _ => rfl
  unfold leaveLpi
  split
  · exact .refl _ s
  · exact (hcount.mono (by simp)).trans ((within_wrBit _ _ _ 12 false).2.trans fun a d _ => rfl)

/-- The LINK_STAT registers of copper ports lie below the time bases' blocks. -/
theorem cpLinkStat_below : ∀ c < 32, Reg.cpLinkStat.addr [c] < 0xE01000 := by decide

theorem tbAside_leaveLpi (s : State) (hp : p < 80) : TbAside s (leaveLpi s p) :=
  (within_leaveLpi s p).tbAside (by decide) (by decide) fun a ha => by
    rw [List.mem_singleton.1 ha]
    exact .inl (cpLinkStat_below (p - 48) (by omega))

theorem tbAside_wclk (s : State) (k : Nat) (o : TimingOut) : TbAside s (putWclk s k o) := ⟨⟨rfl, rfl, fun _ _ _ _ => rfl⟩, rfl⟩

theorem tbAside_clk10 (s : State) (o : TimingOut) : TbAside s { s with time := { s.time with clk10 := o } } :=
  ⟨⟨rfl, rfl, fun _ _ _ _ => rfl⟩, rfl⟩

theorem tbAside_emit (s : State) (o : Output) : TbAside s (emit s o) := (within_emit s o).tbAside (by decide) (by decide) (by simp)

theorem tbAside_putWord {r : RegRow} {ix : List Nat} (s : State) (w : Word) (h : r.addr ix < 0xE01000 ∨ 0xE01400 ≤ r.addr ix) :
    TbAside s (putWord s r ix w) := (within_putWord s r ix w).tbAside (by decide) (by decide) (by simpa using h)

theorem tbAside_muteClocks (s : State) : TbAside s (muteClocks s) := by
  have hfold := TbAside.foldl (xs := List.range 4)
    (f := fun s k => if (wclk s k).running && wclkMuted s k then emit (putWclk s k { wclk s k with running := false }) (.low (5 + k)) else s)
    (fun t k _ => ((tbAside_wclk t k _).trans (tbAside_emit _ _)).orNot) s
  exact hfold.trans ((tbAside_clk10 _ _).trans (tbAside_emit _ _)).orNot

theorem tbAside_wakeParent (s : State) (t : Nat) : TbAside s (wakeParent s t) := by
  unfold wakeParent
  extract_lets p
  split
  · next h => exact tbAside_leaveLpi s h.2.1
  · exact .refl s

theorem tbAside_alignCycle (s : State) : TbAside s (alignCycle s) := by
  unfold alignCycle
  extract_lets want x u
  have hu : TbAside s u := ⟨⟨rfl, rfl, fun _ _ _ _ => rfl⟩, rfl⟩
  exact .ite (.refl s) (hu.trans ((tbAside_putWord u _ (by decide)).trans (tbAside_putWord _ _ (by decide))))

theorem tbAside_rephase (s : State) (t : Nat) : TbAside s (rephase s t) :=
  (TbAside.foldl (fun u k _ => ((tbAside_wclk u k _).trans (tbAside_putWord _ _ (by decide))).orNot) s).trans
    (tbAside_clk10 _ _).orNot

theorem tbAside_lagClocks (s : State) (t : Nat) (d : Int) : TbAside s (lagClocks s t d) :=
  TbAside.foldl (fun u k _ => (tbAside_wclk u k _).orNot) s

/-! ### Gate lists beside the time bases -/

theorem tbAside_putGate (s : State) (p : Nat) (x : Gate) : TbAside s (putGate s p x) := ⟨⟨rfl, rfl, fun _ _ _ _ => rfl⟩, rfl⟩

theorem tbAside_settleCredit (s : State) (p : Nat) : TbAside s (settleCredit s p) :=
  ((onlyChanges_settleCredit s p).within (by decide)).tbAside (by decide) (by decide) (by simp)

/-- The gate registers of ports lie below the time bases' blocks. -/
theorem gateRegs_below : ∀ p < 80, Reg.schedGateStat.addr [p] < 0xE01000 ∧ Reg.schedGateCfg.addr [p] < 0xE01000 ∧
    Reg.schedGateCycle.addr [p] < 0xE01000 ∧ Reg.schedGateBaseNs.addr [p] < 0xE01000 ∧
    Reg.schedGateBaseSLo.addr [p] < 0xE01000 ∧ Reg.schedGateBaseSHi.addr [p] < 0xE01000 := by decide

theorem tbAside_showGate (s : State) (hp : p < 80) (g : GateParams) : TbAside s (showGate s p g) := by
  obtain ⟨-, hcfg, hcyc, hns, hlo, hhi⟩ := gateRegs_below p hp
  exact (within_showGate s p g).tbAside (by decide) (by decide) fun a ha => .inl (by
    simp only [List.mem_cons, List.not_mem_nil, or_false] at ha
    rcases ha with rfl | rfl | rfl | rfl | rfl | rfl <;> assumption)

theorem tbAside_mirror (s : State) (k : Fin 11) (a : Nat) (ws : List Word) : TbAside s (mirror s k a ws) := by
  have htwin (x : Twin) : TbAside s { s with twin := x } := (within_of_twin s x).tbAside (by decide) (by decide) (by simp)
  have hbump (u : State) (i : Nat) : TbAside u (bump u Ctr.twin [] i 1) :=
    (within_bump u _ _ i 1).tbAside (by decide) (by decide) (by simp)
  exact TbAside.orNot (.ite ((htwin _).trans ((hbump _ 2).trans (.ite (.refl _) (tbAside_emit _ _))))
    ((htwin _).trans ((tbAside_putWord _ _ (by decide)).trans (hbump _ 3))))

theorem tbAside_mirrorGate (s : State) (p : Nat) (g : GateParams) : TbAside s (mirrorGate s p g) :=
  (TbAside.foldl (fun u r _ => tbAside_mirror u 4 r.1 r.2) s).orNot

theorem tbAside_beginCycle (s : State) (hp : p < 80) (g : GateParams) (start stop : Int) (short : Bool) :
    TbAside s (beginCycle s p g start stop short) :=
  (tbAside_putGate s p _).trans
    ((tbAside_putWord _ _ (.inl (gateRegs_below p hp).1)).trans (tbAside_leaveLpi _ hp))

theorem tbAside_gateCycleStart (s : State) (hp : p < 80) : TbAside s (gateCycleStart s p) := by
  unfold gateCycleStart
  extract_lets x start
  split
  · next g _ =>
    exact ((tbAside_showGate s hp g).trans (tbAside_mirrorGate _ p g)).trans (.ite (tbAside_beginCycle _ hp g _ _ _)
      ((tbAside_putGate _ p _).trans (tbAside_putWord _ _ (.inl (gateRegs_below p hp).1))))
  · exact (tbAside_beginCycle s hp _ _ _ _).orNot

theorem tbAside_gateEvent (s : State) (hp : p < 80) : TbAside s (gateEvent s p) := by
  have hstep (u : State) : TbAside u (entryStep u p) := by
    rw [entryStep_eq]
    exact (tbAside_putGate u p _).trans (tbAside_putWord _ _ (.inl (gateRegs_below p hp).1))
  exact .ite ((tbAside_settleCredit s p).trans (tbAside_gateCycleStart _ hp))
    ((tbAside_settleCredit s p).trans (hstep _)).orNot

theorem tbAside_gateCatchUp (hp : p < 80) (n : Nat) : ∀ s, TbAside s (gateCatchUp n s p) := by
  induction n with
  | zero => exact fun s => .refl s
  | succ n ih => exact fun s => ((tbAside_gateEvent s hp).trans (ih _)).orNot

theorem tbAside_followGates (s : State) (t : Nat) : TbAside s (followGates s t) :=
  TbAside.foldl (fun u _ hp => (tbAside_gateCatchUp (List.mem_range.1 hp) gateFuel u).orNot) s

theorem tbAside_holdGates (s : State) (t : Nat) : TbAside s (holdGates s t) := by
  refine TbAside.foldl (fun u p hp => ?_) s
  have hstat := (gateRegs_below p (List.mem_range.1 hp)).1
  exact ((((tbAside_settleCredit u p).trans (tbAside_putGate _ p _)).trans (tbAside_putWord _ _ (.inl hstat))).trans
    ((tbAside_putWord _ _ (by decide)).trans (tbAside_putWord _ _ (by decide)))).orNot

end

/-! ### States, steps and jumps -/

/-- A time base moved by `d`, with a new jump epoch. -/
def TimeBase.moved (b : TimeBase) (d : Int) : TimeBase := { b with now := b.now + d * unitsPerFrac, epoch := b.epoch + 1 }

/-- A time base whose servo begins anew at tick `dt`, after a step. -/
def TimeBase.restarted (b : TimeBase) (dt : Nat) : TimeBase :=
  { b with steps := b.steps + 1, est := 2, run := 0, bad := 0, since := dt, lockedSinceStep := false }

section
variable {s u : State} {t k v : Nat} {d : Int} {b : TimeBase}

theorem rd_wr_above {r : RegRow} {ix : List Nat} {hi lo h' l' : Nat} (hl : lo ≤ hi) (hm : hi < 32) (h : hi < l') :
    rd (wr s r ix hi lo v) r ix h' l' = rd s r ix h' l' := by
  rw [rd, word_wr_same, fld_setFld_above hl hm h, rd]

theorem tb_of_set_same (h : u.time.tbs = s.time.tbs.set t b) (ht : t < s.time.tbs.length) : tb u t = b := by
  rw [tb, h, List.getD_eq_getElem?_getD, List.getElem?_set_self ht, Option.getD_some]

theorem tb_of_set_other (h : u.time.tbs = s.time.tbs.set t b) (hk : k ≠ t) : tb u k = tb s k := by
  rw [tb, h, List.getD_eq_getElem?_getD, List.getElem?_set_ne hk.symm, ← List.getD_eq_getElem?_getD, ← tb]

/-- The registers of a time base's block that the device writes. -/
theorem stat_in_block : ∀ t < 4, 0xE01000 ≤ Reg.timeTbStat.addr [t] ∧ Reg.timeTbStat.addr [t] < 0xE01400 := by decide

theorem eventCnt_in_block : ∀ t < 4, (0xE01000 ≤ Reg.timeTbEventCnt.addr [t] ∧ Reg.timeTbEventCnt.addr [t] < 0xE01400) ∧
    Reg.timeTbEventCnt.addr [t] ≠ Reg.timeTbStat.addr [t] := by decide

theorem tbRegs_putTb (s : State) (t : Nat) (b : TimeBase) : TbRegs [] s (putTb s t b) := ⟨rfl, rfl, fun _ _ _ _ => rfl⟩

theorem tbRegs_putWord (s : State) (r : RegRow) (ix : List Nat) (w : Word) : TbRegs [r.addr ix] s (putWord s r ix w) :=
  (within_putWord s r ix w).tbRegs (by decide) (by decide)

/-- The registers that a change of state writes, before what follows it. -/
def stateNoted (s : State) (t v : Nat) : State := countEvent (wr s Reg.timeTbStat [t] 31 30 v) Reg.timeTbEventCnt [t]

/-- TB `t` has been LOCKED since its last step, where its new state is LOCKED. -/
def lockNoted (s : State) (t v : Nat) : State := if v = 2 then putTb s t { tb s t with lockedSinceStep := true } else s

/-- A worker's TB0 is suspect once it is neither LOCKED nor HOLDOVER. -/
def suspectNoted (s : State) (t v : Nat) : State :=
  if t = 0 ∧ v < 2 then { s with izl := { s.izl with tbSuspect := true } } else s

/-- What follows a change of state of TB `t`, beside the registers that show it. -/
def stateFollowed (s : State) (t v : Nat) : State :=
  let s := suspectNoted (lockNoted (wakeParent (muteClocks s) t) t v) t v
  if t = 0 then alignCycle s else s

theorem setTbState_same (h : tbState s t = v) : setTbState s t v = s := if_pos h

theorem setTbState_change (h : tbState s t ≠ v) : setTbState s t v = stateFollowed (stateNoted s t v) t v := if_neg h

theorem tbAside_suspectNoted (s : State) (t v : Nat) : TbAside s (suspectNoted s t v) :=
  TbAside.orNot ((within_of_izl s _).tbAside (by decide) (by decide) (by simp))

theorem tbRegs_lockNoted (s : State) (t v : Nat) : TbRegs [] s (lockNoted s t v) := by
  unfold lockNoted
  split
  · exact tbRegs_putTb s t _
  · exact .refl _ s

theorem tbAside_beforeLock (s : State) (t : Nat) : TbAside s (wakeParent (muteClocks s) t) :=
  (tbAside_muteClocks s).trans (tbAside_wakeParent _ t)

theorem tbAside_afterLock (s : State) (t v : Nat) :
    TbAside (lockNoted (wakeParent (muteClocks s) t) t v) (stateFollowed s t v) :=
  (tbAside_suspectNoted _ t v).trans (tbAside_alignCycle _).orNot

theorem tbAside_stateFollowed (hv : v ≠ 2) : TbAside s (stateFollowed s t v) := by
  have hlock := tbAside_afterLock s t v
  rw [lockNoted, if_neg hv] at hlock
  exact (tbAside_beforeLock s t).trans hlock

theorem tbRegs_stateFollowed (s : State) (t v : Nat) : TbRegs [] s (stateFollowed s t v) :=
  ((tbAside_beforeLock s t).1.trans (tbRegs_lockNoted _ t v)).trans (tbAside_afterLock s t v).1

theorem tbRegs_stateNoted (s : State) (t v : Nat) :
    TbRegs [Reg.timeTbStat.addr [t], Reg.timeTbEventCnt.addr [t]] s (stateNoted s t v) :=
  ((tbRegs_putWord s _ _ _).mono (by simp)).trans ((tbRegs_putWord _ _ _ _).mono (by simp))

theorem time_stateNoted (s : State) (t v : Nat) : (stateNoted s t v).time = s.time := by
  rw [stateNoted, countEvent, putWord_time, wr_time]

theorem tbRegs_setTbState (s : State) (t v : Nat) :
    TbRegs [Reg.timeTbStat.addr [t], Reg.timeTbEventCnt.addr [t]] s (setTbState s t v) := by
  by_cases h : tbState s t = v
  · rw [setTbState_same h]
    exact .refl _ s
  · rw [setTbState_change h]
    exact (tbRegs_stateNoted s t v).trans ((tbRegs_stateFollowed _ t v).mono (by simp))

theorem tbState_setTbState (ht : t < 4) (hv : v < 4) : tbState (setTbState s t v) t = v := by
  by_cases h : tbState s t = v
  · rw [setTbState_same h, h]
  · rw [setTbState_change h, tbState, (tbRegs_stateFollowed _ t v).rd_eq (stat_in_block t ht) (by simp), stateNoted, countEvent,
      rd, word_putWord_other (eventCnt_in_block t ht).2.symm]
    exact (rd_wr_same (by decide) (by decide)).trans (Nat.mod_eq_of_lt hv)

theorem tbs_setTbState (hv : v ≠ 2) : (setTbState s t v).time.tbs = s.time.tbs := by
  by_cases h : tbState s t = v
  · rw [setTbState_same h]
  · rw [setTbState_change h, (tbAside_stateFollowed hv).2, time_stateNoted]

theorem tb_setTbState (hv : v ≠ 2) (k : Nat) : tb (setTbState s t v) k = tb s k := by rw [tb, tbs_setTbState hv, ← tb]

theorem length_lockNoted : (lockNoted s t v).time.tbs.length = s.time.tbs.length := by
  unfold lockNoted
  split
  · exact List.length_set
  · rfl

theorem length_setTbState : (setTbState s t v).time.tbs.length = s.time.tbs.length := by
  by_cases h : tbState s t = v
  · rw [setTbState_same h]
  · rw [setTbState_change h, (tbAside_afterLock _ t v).2, length_lockNoted, (tbAside_beforeLock _ t).2, time_stateNoted]

theorem eventCnt_setTbState (ht : t < 4) (h : tbState s t ≠ v) :
    word (setTbState s t v) Reg.timeTbEventCnt [t] = word s Reg.timeTbEventCnt [t] + 1 := by
  obtain ⟨hin, hne⟩ := eventCnt_in_block t ht
  rw [setTbState_change h, (tbRegs_stateFollowed _ t v).word_eq hin (by simp), stateNoted, countEvent, word_putWord_same,
    wr, word_putWord_other hne]

theorem tbs_wr_putTb (s : State) (t : Nat) (b : TimeBase) (r : RegRow) (ix : List Nat) (hi lo v : Nat) :
    (wr (putTb s t b) r ix hi lo v).time.tbs = s.time.tbs.set t b := rfl

theorem tbRegs_moveTb (s : State) (t : Nat) (d : Int) : TbRegs [Reg.timeTbStat.addr [t]] s (moveTb s t d) :=
  (((tbAside_lagClocks s t d).1.trans (tbRegs_putTb _ t _)).mono (by simp)).trans (tbRegs_putWord _ _ _ _)

theorem tbs_moveTb : (moveTb s t d).time.tbs = s.time.tbs.set t ((tb s t).moved d) := by
  have hlag := tbAside_lagClocks s t d
  rw [moveTb, tbs_wr_putTb, hlag.2, hlag.tb_eq]
  rfl

theorem tbState_moveTb (ht : t < 4) : tbState (moveTb s t d) t = tbState s t := by
  have hlag := (tbAside_lagClocks s t d).1.trans
    (tbRegs_putTb _ t { tb (lagClocks s t d) t with now := (tb (lagClocks s t d) t).now + d * unitsPerFrac,
                                                    epoch := (tb (lagClocks s t d) t).epoch + 1 })
  exact (rd_wr_above (h' := 31) (l' := 30) (by decide) (by decide) (by decide)).trans (hlag.rd_eq (stat_in_block t ht) (by simp) 31 30)

/-- A step before the gate lists of the TB follow it or are held. -/
def stepMoved (s : State) (t : Nat) (d : Int) : State :=
  let s := moveTb s t d
  wr (putTb s t ((tb s t).restarted s.time.dt)) Reg.timeTbStat [t] 7 0 0

theorem tbAside_stepMoved (s : State) (t : Nat) (d : Int) : TbAside (stepMoved s t d) (stepTb s t d) :=
  (tbAside_rephase _ t).trans (.ite (tbAside_holdGates _ t) (tbAside_followGates _ t))

theorem tbState_stepTb (ht : t < 4) : tbState (stepTb s t d) t = tbState s t := by
  rw [tbState, (tbAside_stepMoved s t d).1.rd_eq (stat_in_block t ht) (by simp), stepMoved,
    rd_wr_above (by decide) (by decide) (by decide), (tbRegs_putTb _ t _).rd_eq (stat_in_block t ht) (by simp), ← tbState,
    tbState_moveTb ht]

theorem tb_moveTb (ht : t < s.time.tbs.length) : tb (moveTb s t d) t = (tb s t).moved d := tb_of_set_same tbs_moveTb ht

theorem tbs_stepTb (ht : t < s.time.tbs.length) :
    (stepTb s t d).time.tbs = s.time.tbs.set t (((tb s t).moved d).restarted s.time.dt) := by
  have hdt := (tbRegs_moveTb s t d).1
  rw [(tbAside_stepMoved s t d).2, stepMoved, tbs_wr_putTb, tbs_moveTb, List.set_set, tb_moveTb ht, hdt]

theorem tbAside_jumpTb (s : State) (t : Nat) (d : Int) : TbAside (moveTb s t d) (jumpTb s t d) :=
  (tbAside_followGates _ t).trans (TbAside.orNot ⟨⟨rfl, rfl, fun _ _ _ _ => rfl⟩, rfl⟩)

end
end Sys2Proof.Machine

/-! PROOFS. The servo's updates and timeouts, and the commands of TIME_TB_CMD (R249 to R254). -/
namespace Sys2Proof.Machine

/-- The registers of TB `t` that the device itself writes. -/
def shownRegs (t : Nat) : List Nat :=
  [Reg.timeTbStat.addr [t], Reg.timeTbEventCnt.addr [t], Reg.timeTbFreq.addr [t], Reg.timeTbOffsetLo.addr [t],
    Reg.timeTbOffsetHi.addr [t]]

/-- The registers of a TB that a host writes. -/
def setRegs : List RegRow :=
  [Reg.timeTbCfg, Reg.timeTbKp, Reg.timeTbKi, Reg.timeTbStep, Reg.timeTbLock, Reg.timeTbUnlock, Reg.timeTbCmd]

section
variable {s u : State} {t k v : Nat} {d theta : Int} {r : RegRow}

theorem setRegs_apart : ∀ t < 4, ∀ r ∈ setRegs, (0xE01000 ≤ r.addr [t] ∧ r.addr [t] < 0xE01400) ∧ r.addr [t] ∉ shownRegs t := by
  decide

theorem TbRegs.set_word (h : TbRegs (shownRegs t) s u) (ht : t < 4) (hr : r ∈ setRegs) : word u r [t] = word s r [t] :=
  let ⟨hin, hnot⟩ := setRegs_apart t ht r hr
  h.word_eq hin hnot

theorem TbRegs.set_rd (h : TbRegs (shownRegs t) s u) (ht : t < 4) (hr : r ∈ setRegs) (hi lo : Nat) :
    rd u r [t] hi lo = rd s r [t] hi lo := congrArg (fld · hi lo) (h.set_word ht hr)

theorem TbRegs.stepThresh_eq (h : TbRegs (shownRegs t) s u) (ht : t < 4) : stepThresh u t = stepThresh s t := by
  rw [stepThresh, stepThresh, h.set_rd ht (by simp [setRegs])]

theorem TbRegs.lockThresh_eq (h : TbRegs (shownRegs t) s u) (ht : t < 4) : lockThresh u t = lockThresh s t := by
  rw [lockThresh, lockThresh, h.set_rd ht (by simp [setRegs])]

theorem TbRegs.unlockThresh_eq (h : TbRegs (shownRegs t) s u) (ht : t < 4) : unlockThresh u t = unlockThresh s t := by
  rw [unlockThresh, unlockThresh, h.lockThresh_eq ht, h.set_rd ht (by simp [setRegs])]

theorem tbRegs_set (s : State) (t v : Nat) : TbRegs (shownRegs t) s (setTbState s t v) :=
  (tbRegs_setTbState s t v).mono (by simp [shownRegs])

theorem tbRegs_putOffset (s : State) (t : Nat) (theta : Int) : TbRegs (shownRegs t) s (putOffset s t theta) :=
  ((tbRegs_putWord s _ _ _).mono (by simp [shownRegs])).trans ((tbRegs_putWord _ _ _ _).mono (by simp [shownRegs]))

theorem tbs_putOffset : (putOffset s t theta).time = s.time := rfl

theorem tb_putOffset (k : Nat) : tb (putOffset s t theta) k = tb s k := rfl

theorem length_putOffset (hlen : s.time.tbs.length = 4) : (putOffset s t theta).time.tbs.length = 4 := by
  rw [tbs_putOffset, hlen]

theorem offset_apart : ∀ t < 4, Reg.timeTbStat.addr [t] ≠ Reg.timeTbOffsetLo.addr [t] ∧
    Reg.timeTbStat.addr [t] ≠ Reg.timeTbOffsetHi.addr [t] := by decide

theorem tbState_putOffset (ht : t < 4) : tbState (putOffset s t theta) t = tbState s t := by
  obtain ⟨hlo, hhi⟩ := offset_apart t ht
  rw [tbState, tbState, rd, rd, putOffset, word_putWord_other hhi, word_putWord_other hlo]

/-! ### Steering -/

/-- The integrator after an update of a servo that runs. -/
def integAfter (s : State) (t : Nat) (theta : Int) : Rat :=
  (tb s t).integ - (rd s Reg.timeTbKi [t] 23 0 : Rat) / 1048576 * nanoseconds theta *
    (((s.time.dt - (tb s t).lastUpdate : Nat) : Rat) / 800000000)

/-- The frequency correction of TB `t` by its integrator and θ. -/
def steeredFreq (s : State) (t : Nat) (theta : Int) : Int :=
  freqUnits ((tb s t).integ - (rd s Reg.timeTbKp [t] 23 0 : Rat) / 65536 * nanoseconds theta)

/-- TB `t` with the frequency, the runs and the instant of an update. -/
def steered (s : State) (t : Nat) (theta : Int) : TimeBase :=
  { tb s t with freq := steeredFreq s t theta
                run := if theta.natAbs ≤ lockThresh s t then (tb s t).run + 1 else 0
                bad := if unlockThresh s t < theta.natAbs then (tb s t).bad + 1 else 0
                lastUpdate := s.time.dt }

/-- An update after the integrator has taken it. -/
def steerOn (s : State) (t : Nat) (theta : Int) : State :=
  wr (putTb (putFreq s t (steeredFreq s t theta)) t (steered s t theta)) Reg.timeTbStat [t] 7 0
    (min 255 (steered s t theta).run)

theorem tbRegs_putFreq (s : State) (t : Nat) (f : Int) : TbRegs (shownRegs t) s (putFreq s t f) :=
  ((tbRegs_putTb s t _).mono (by simp)).trans ((tbRegs_putWord _ _ _ _).mono (by simp [shownRegs]))

theorem tbs_putFreq {f : Int} : (putFreq s t f).time.tbs = s.time.tbs.set t { tb s t with freq := f } := rfl

theorem dt_putFreq {f : Int} : (putFreq s t f).time.dt = s.time.dt := rfl

theorem steer_eq (ht : t < 4) (hint : (integrate s t theta).time.tbs.length = 4) :
    steer s t theta = steerOn (integrate s t theta) t theta := by
  unfold steer
  generalize integrate s t theta = s at hint ⊢
  have hregs := tbRegs_putFreq s t (steeredFreq s t theta)
  have htb : tb (putFreq s t (steeredFreq s t theta)) t = { tb s t with freq := steeredFreq s t theta } :=
    tb_of_set_same tbs_putFreq (by omega)
  have hfreq : freqUnits ((tb s t).integ - (rd s Reg.timeTbKp [t] 23 0 : Rat) / 65536 * nanoseconds theta) =
    steeredFreq s t theta := rfl
  simp only [hfreq, hregs.lockThresh_eq ht, hregs.unlockThresh_eq ht, htb, dt_putFreq]
  rfl

theorem tbRegs_integrate (s : State) (t : Nat) (theta : Int) : TbRegs [] s (integrate s t theta) := by
  unfold integrate
  extract_lets b dt
  split
  · exact tbRegs_putTb s t _
  · split
    · split
      · exact tbRegs_putTb (spend s) t _
      · exact tbRegs_putTb s t _
    · exact tbRegs_putTb s t _

theorem length_integrate : (integrate s t theta).time.tbs.length = s.time.tbs.length := by
  unfold integrate
  extract_lets b dt
  split
  · exact List.length_set
  · split
    · split <;> exact List.length_set
    · exact List.length_set

theorem integrate_running (h : (tb s t).est = 0) :
    integrate s t theta = putTb s t { tb s t with integ := integAfter s t theta } := by
  unfold integrate
  simp only [h]
  rfl

theorem tbs_steerOn : (steerOn s t theta).time.tbs = s.time.tbs.set t (steered s t theta) := by
  rw [steerOn, tbs_wr_putTb, tbs_putFreq, List.set_set]

theorem freq_apart : ∀ t < 4, Reg.timeTbStat.addr [t] ≠ Reg.timeTbFreq.addr [t] := by decide

theorem rd_putTb {b : TimeBase} {q : RegRow} {ix : List Nat} {hi lo : Nat} : rd (putTb s t b) q ix hi lo = rd s q ix hi lo := rfl

theorem tbState_putTb {b : TimeBase} : tbState (putTb s k b) t = tbState s t := rfl

theorem tbState_steerOn (ht : t < 4) : tbState (steerOn s t theta) t = tbState s t := by
  rw [tbState, steerOn, rd_wr_above (by decide) (by decide) (by decide), rd_putTb, putFreq, rd, word_putWord_other (freq_apart t ht)]
  rfl

theorem freqWord_steerOn (ht : t < 4) :
    word (steerOn s t theta) Reg.timeTbFreq [t] = BitVec.ofInt 32 (steeredFreq s t theta) := by
  rw [steerOn, wr, word_putWord_other (freq_apart t ht).symm]
  exact word_putWord_same

theorem steer_steerOn (ht : t < 4) (hlen : s.time.tbs.length = 4) : steer s t theta = steerOn (integrate s t theta) t theta :=
  steer_eq ht (length_integrate.trans hlen)

theorem tbState_steer (ht : t < 4) (hlen : s.time.tbs.length = 4) : tbState (steer s t theta) t = tbState s t := by
  rw [steer_steerOn ht hlen, tbState_steerOn ht, tbState, (tbRegs_integrate s t theta).rd_eq (stat_in_block t ht) (by simp), ← tbState]

theorem bad_steer (ht : t < 4) (hlen : s.time.tbs.length = 4) (hsmall : theta.natAbs ≤ unlockThresh s t) :
    (tb (steer s t theta) t).bad = 0 := by
  have hsame := ((tbRegs_integrate s t theta).mono (m := shownRegs t) (by simp)).unlockThresh_eq ht
  have hint : (integrate s t theta).time.tbs.length = 4 := length_integrate.trans hlen
  rw [steer_steerOn ht hlen, tb_of_set_same tbs_steerOn (by omega)]
  exact if_neg (by omega)

/-- What an update of a servo that runs leaves of its TB. -/
theorem steer_running (ht : t < 4) (hlen : s.time.tbs.length = 4) (hest : (tb s t).est = 0) :
    (tb (steer s t theta) t).integ = integAfter s t theta ∧
      (tb (steer s t theta) t).freq = freqUnits (integAfter s t theta -
        (rd s Reg.timeTbKp [t] 23 0 : Rat) / 65536 * nanoseconds theta) ∧
      word (steer s t theta) Reg.timeTbFreq [t] = BitVec.ofInt 32 (tb (steer s t theta) t).freq ∧
      (tb (steer s t theta) t).now = (tb s t).now ∧ ∀ k, k ≠ t → tb (steer s t theta) k = tb s k := by
  have hput : (putTb s t { tb s t with integ := integAfter s t theta }).time.tbs =
    s.time.tbs.set t { tb s t with integ := integAfter s t theta } := rfl
  have htb := tb_of_set_same hput (by omega)
  have hafter := tb_of_set_same (t := t) (tbs_steerOn (s := putTb s t { tb s t with integ := integAfter s t theta }) (theta := theta))
    (by rw [hput, List.length_set]; omega)
  rw [steer_steerOn ht hlen, integrate_running hest, freqWord_steerOn ht, hafter, steered, htb]
  refine ⟨rfl, ?_, rfl, rfl, fun k hk => ?_⟩
  · simp only [steeredFreq, htb, rd_putTb]
  · rw [tb_of_set_other tbs_steerOn hk, tb_of_set_other hput hk]

/-! ### Updates -/

/-- An update once FREE and HOLDOVER are left. -/
def servoOn (s : State) (t : Nat) (theta : Int) : State :=
  if tbState s t = 1 ∧ stepThresh s t < theta.natAbs then stepTb (putTb s t { tb s t with lastUpdate := s.time.dt }) t (-theta)
  else
    let s := steer s t theta
    let s := if tbState s t = 1 ∧ max 1 (rd s Reg.timeTbLock [t] 31 24) ≤ (tb s t).run then setTbState s t 2 else s
    if tbState s t = 2 ∧ 4 ≤ (tb s t).bad then setTbState s t 1 else s

/-- FREE left for ACQUIRING. -/
def freeLeft (s : State) (t : Nat) : State := if tbState s t = 0 then setTbState s t 1 else s

/-- HOLDOVER left by an update. -/
def holdoverLeft (s : State) (t : Nat) (theta : Int) : State :=
  if tbState s t = 3 then setTbState s t (if theta.natAbs ≤ lockThresh s t then 2 else 1) else s

theorem servo_eq : servo s t theta = servoOn (holdoverLeft (freeLeft (putOffset s t theta) t) t theta) t theta := rfl

theorem servo_running (ht : t < 4) (hfree : tbState s t ≠ 0) (hheld : tbState s t ≠ 3) :
    servo s t theta = servoOn (putOffset s t theta) t theta := by
  have hstate := tbState_putOffset (s := s) (theta := theta) ht
  rw [servo_eq, freeLeft, if_neg (by rw [hstate]; exact hfree), holdoverLeft, if_neg (by rw [hstate]; exact hheld)]

theorem servoOn_locked (ht : t < 4) (hlen : s.time.tbs.length = 4) (hstate : tbState s t = 2)
    (hsmall : theta.natAbs ≤ unlockThresh s t) : servoOn s t theta = steer s t theta := by
  have hafter := (tbState_steer (theta := theta) ht hlen).trans hstate
  have hbad := bad_steer ht hlen hsmall
  unfold servoOn
  rw [if_neg (by rw [hstate]; exact fun h => absurd h.1 (by decide))]
  extract_lets a b
  have hb : b = a := if_neg (by rw [hafter]; exact fun h => absurd h.1 (by decide))
  rw [hb]
  exact if_neg (by rw [hbad]; exact fun h => absurd h.2 (by decide))

theorem servoOn_step (hstate : tbState s t = 1) (hbig : stepThresh s t < theta.natAbs) :
    servoOn s t theta = stepTb (putTb s t { tb s t with lastUpdate := s.time.dt }) t (-theta) := if_pos ⟨hstate, hbig⟩

/-- An update in ACQUIRING leaves ACQUIRING or LOCKED. -/
theorem tbState_servoOn_acquiring (ht : t < 4) (hlen : s.time.tbs.length = 4) (hstate : tbState s t = 1) :
    tbState (servoOn s t theta) t ≠ 0 := by
  unfold servoOn
  split
  · rw [tbState_stepTb ht, tbState_putTb, hstate]
    decide
  · extract_lets a b
    have ha : tbState a t ≠ 0 := by rw [tbState_steer ht hlen, hstate]; decide
    have hb : tbState b t ≠ 0 := by
      unfold b
      split
      · rw [tbState_setTbState ht (by decide)]; decide
      · exact ha
    split
    · rw [tbState_setTbState ht (by decide)]; decide
    · exact hb

theorem servo_free (ht : t < 4) (hlen : s.time.tbs.length = 4) (hstate : tbState s t = 0) :
    tbState (servo s t theta) t ≠ 0 := by
  have hoff := (tbState_putOffset (s := s) (theta := theta) ht).trans hstate
  have hone := tbState_setTbState (s := putOffset s t theta) (v := 1) ht (by decide)
  rw [servo_eq, freeLeft, if_pos hoff, holdoverLeft, if_neg (by rw [hone]; decide)]
  exact tbState_servoOn_acquiring ht (length_setTbState.trans (length_putOffset hlen)) hone

theorem servo_holdover (ht : t < 4) (hlen : s.time.tbs.length = 4) (hstate : tbState s t = 3)
    (hsmall : theta.natAbs ≤ lockThresh s t) : tbState (servo s t theta) t = 2 := by
  have hoff := (tbState_putOffset (s := s) (theta := theta) ht).trans hstate
  have htwo := tbState_setTbState (s := putOffset s t theta) (v := 2) ht (by decide)
  have hregs := (tbRegs_putOffset s t theta).trans (tbRegs_set (putOffset s t theta) t 2)
  have hle : theta.natAbs ≤ unlockThresh (setTbState (putOffset s t theta) t 2) t := by
    rw [hregs.unlockThresh_eq ht]
    exact hsmall.trans (Nat.le_max_left _ _)
  rw [servo_eq, freeLeft, if_neg (by rw [hoff]; decide), holdoverLeft, if_pos hoff,
    if_pos (by rw [(tbRegs_putOffset s t theta).lockThresh_eq ht]; exact hsmall),
    servoOn_locked ht (length_setTbState.trans (length_putOffset hlen)) htwo hle, tbState_steer ht (length_setTbState.trans (length_putOffset hlen)), htwo]

theorem servo_locked (ht : t < 4) (hlen : s.time.tbs.length = 4) (hstate : tbState s t = 2)
    (hsmall : theta.natAbs ≤ unlockThresh s t) : servo s t theta = steer (putOffset s t theta) t theta := by
  rw [servo_running ht (by rw [hstate]; decide) (by rw [hstate]; decide)]
  exact servoOn_locked ht (length_putOffset hlen) ((tbState_putOffset ht).trans hstate)
    (by rw [(tbRegs_putOffset s t theta).unlockThresh_eq ht]; exact hsmall)

/-- What an update in LOCKED leaves. -/
theorem servo_locked_facts (ht : t < 4) (hlen : s.time.tbs.length = 4) (hstate : tbState s t = 2) (hest : (tb s t).est = 0)
    (hsmall : theta.natAbs ≤ unlockThresh s t) :
    (tb (servo s t theta) t).integ = integAfter s t theta ∧
      (tb (servo s t theta) t).freq = freqUnits ((tb (servo s t theta) t).integ -
        (rd s Reg.timeTbKp [t] 23 0 : Rat) / 65536 * nanoseconds theta) ∧
      word (servo s t theta) Reg.timeTbFreq [t] = BitVec.ofInt 32 (tb (servo s t theta) t).freq ∧
      tbState (servo s t theta) t = 2 ∧ (tb (servo s t theta) t).now = (tb s t).now ∧
      ∀ k < 4, k ≠ t → tb (servo s t theta) k = tb s k := by
  have hregs := tbRegs_putOffset s t theta
  have hafter : integAfter (putOffset s t theta) t theta = integAfter s t theta := by
    unfold integAfter
    rw [hregs.set_rd ht (by simp [setRegs]), tb_putOffset, tbs_putOffset]
  obtain ⟨hinteg, hfreq, hword, hnow, hothers⟩ := steer_running (s := putOffset s t theta) (theta := theta) ht (length_putOffset hlen) hest
  rw [servo_locked ht hlen hstate hsmall]
  refine ⟨hinteg.trans hafter, ?_, hword, ?_, hnow, fun k _ hk => hothers k hk⟩
  · rw [hinteg, hfreq, hregs.set_rd ht (by simp [setRegs])]
  · rw [tbState_steer ht (length_putOffset hlen), tbState_putOffset ht, hstate]

theorem servo_step (ht : t < 4) (hlen : s.time.tbs.length = 4) (hstate : tbState s t = 1) (hbig : stepThresh s t < theta.natAbs) :
    (tb (servo s t theta) t).now = (tb s t).now - theta * unitsPerFrac ∧ (tb (servo s t theta) t).epoch = (tb s t).epoch + 1 ∧
      (tb (servo s t theta) t).steps = (tb s t).steps + 1 ∧ (tb (servo s t theta) t).freq = (tb s t).freq ∧
      tbState (servo s t theta) t = 1 ∧ ∀ k < 4, k ≠ t → tb (servo s t theta) k = tb s k := by
  have hoff := (tbState_putOffset (s := s) (theta := theta) ht).trans hstate
  have hthresh := (tbRegs_putOffset s t theta).stepThresh_eq ht
  have hput (b : TimeBase) : (putTb (putOffset s t theta) t b).time.tbs = s.time.tbs.set t b := rfl
  rw [servo_running ht (by rw [hstate]; decide) (by rw [hstate]; decide), servoOn_step hoff (by rw [hthresh]; exact hbig)]
  have hset := tbs_stepTb (d := -theta) (t := t) (s := putTb (putOffset s t theta) t
    { tb (putOffset s t theta) t with lastUpdate := (putOffset s t theta).time.dt }) (by rw [hput, List.length_set]; omega)
  have hlen' := (hput { tb (putOffset s t theta) t with lastUpdate := (putOffset s t theta).time.dt }).symm ▸
    (List.length_set (as := s.time.tbs) (i := t)).trans hlen
  refine ⟨?_, ?_, ?_, ?_, ?_, fun k _ hk => ?_⟩
  · rw [tb_of_set_same hset (by omega), tb_of_set_same (hput _) (by omega)]
    show (tb s t).now + -theta * unitsPerFrac = _
    rw [Int.neg_mul, Int.sub_eq_add_neg]
  · rw [tb_of_set_same hset (by omega), tb_of_set_same (hput _) (by omega)]; rfl
  · rw [tb_of_set_same hset (by omega), tb_of_set_same (hput _) (by omega)]; rfl
  · rw [tb_of_set_same hset (by omega), tb_of_set_same (hput _) (by omega)]; rfl
  · rw [tbState_stepTb ht, tbState_putTb, hoff]
  · rw [tb_of_set_other hset hk, tb_of_set_other (hput _) hk]

end
end Sys2Proof.Machine

/-! PROOFS. Commands of TIME_TB_CMD, SRC_TIMEOUT and what they change (R250 to R254). -/
namespace Sys2Proof.Machine

section
variable {s now u : State} {t k v : Nat} {d theta : Int} {x : TbCmd} {req : Requester} {r : RegRow} {ix : List Nat} {data : Word}

/-- A write of a register that no class of the twin carries, whose fields are in force at once. -/
theorem stage_classless (h : r.Immediate ix) (hclass : regClass r = none) (hm : r.taken req ≠ 0) :
    stage s req r ix 0xFFFFFFFF data = immediate s req r ix data := by
  have hand (w : Word) : 0xFFFFFFFF &&& w = w := BitVec.allOnes_and
  have hzero (w : Word) : w &&& 0 = 0 := BitVec.and_zero
  have hstands : standsBy s req none = false := by simp [standsBy]
  unfold stage
  simp only [hclass, hstands, hand, h.ms, h.frm, h.pkt, hzero, await, if_true]
  rw [if_neg (show ¬ (false = true) by decide), if_neg (by exact hm)]
  exact (applyEntries_one h _ _ 3 _ req).trans (by rw [stagedWord_putStaged_same]; rfl)

theorem tbCmd_immediate : ∀ t < 4, Reg.timeTbCmd.Immediate [t] := fun t ht =>
  immediate_of_plain (by decide) (by revert t; decide +kernel) (by revert t; decide)

/-- TIME_TB_CMD as written, before its command waits. -/
def tbCommanded (s : State) (t : Nat) (data : Word) : State := immediate s .host Reg.timeTbCmd [t] data

theorem stage_tbCmd (ht : t < 4) (data : Word) : stage s .host Reg.timeTbCmd [t] 0xFFFFFFFF data = tbCommanded s t data :=
  stage_classless (tbCmd_immediate t ht) (by decide) (by rw [taken_of_plain (by decide)]; decide)

theorem within_tbCommanded (s : State) (t : Nat) (data : Word) :
    Within [.staged, .inForce] [Reg.timeTbCmd.addr [t]] s (tbCommanded s t data) := within_immediate s .host _ _ _

/-- Command `x` of TB `t` waits for the next TI cycle. -/
def tbWaits (s : State) (t : Nat) (x : TbCmd) : State :=
  wrBit { s with time := { s.time with tbCmds := set TbCmd.none s.time.tbCmds t x } } Reg.timeTbCmd [t] 30 true

theorem onlyChanges_tbCmds (s : State) (l : Sparse TbCmd) :
    OnlyChanges [.time] s { s with time := { s.time with tbCmds := l } } := by
  intro p hp; cases p <;> simp_all [Part.same]

theorem within_tbWaits (s : State) (t : Nat) (x : TbCmd) :
    Within [.time, .inForce] [Reg.timeTbCmd.addr [t]] s (tbWaits s t x) :=
  ((onlyChanges_tbCmds s _).within (by decide)).append (within_wrBit _ _ _ _ _)

theorem within_tbCommandWaits (s : State) (t : Nat) (data : Word) (x : TbCmd) :
    Within [.staged, .inForce, .time] [Reg.timeTbCmd.addr [t]] s (tbWaits (tbCommanded s t data) t x) :=
  ((within_tbCommanded s t data).append (within_tbWaits _ t x)).mono (by decide) (by simp)

theorem time_tbCommanded : (tbCommanded s t data).time = s.time := rfl

theorem time_tbWaits : (tbWaits s t x).time = { s.time with tbCmds := set TbCmd.none s.time.tbCmds t x } := rfl

theorem go_tbWaits : rdBit (tbWaits s t x) Reg.timeTbCmd [t] 30 = true := rdBit_wrBit_same (by decide)

/-- What a command leaves that waits. -/
theorem tbCommandWaits_facts (s : State) (t : Nat) (data : Word) (x : TbCmd) :
    (tbWaits (tbCommanded s t data) t x).time = { s.time with tbCmds := set TbCmd.none s.time.tbCmds t x } ∧
      rdBit (tbWaits (tbCommanded s t data) t x) Reg.timeTbCmd [t] 30 = true ∧
      RegsBut [Reg.timeTbCmd.addr [t]] s (tbWaits (tbCommanded s t data) t x) := by
  refine ⟨?_, go_tbWaits, (within_tbCommandWaits s t data x).2⟩
  rw [time_tbWaits, time_tbCommanded]

/-- The registers that a command's operand stands in. -/
theorem operands_apart : ∀ t < 4, ∀ r ∈ [Reg.timeTbAdj, Reg.timeTbSetSHi, Reg.timeTbSetSLo, Reg.timeTbSetNs, Reg.timeTbCfg,
    Reg.timeTbSwOffsetHi, Reg.timeTbSwOffsetLo], r.addr [t] ∉ [Reg.timeTbCmd.addr [t]] := by decide

theorem word_tbCommanded (ht : t < 4) (hr : r ∈ [Reg.timeTbAdj, Reg.timeTbSetSHi, Reg.timeTbSetSLo, Reg.timeTbSetNs, Reg.timeTbCfg,
    Reg.timeTbSwOffsetHi, Reg.timeTbSwOffsetLo]) : word (tbCommanded s t data) r [t] = word s r [t] :=
  (within_tbCommanded s t data).2.word_eq (operands_apart t ht r hr)

theorem rd_tbCommanded (ht : t < 4) (hr : r ∈ [Reg.timeTbAdj, Reg.timeTbSetSHi, Reg.timeTbSetSLo, Reg.timeTbSetNs, Reg.timeTbCfg,
    Reg.timeTbSwOffsetHi, Reg.timeTbSwOffsetLo]) (hi lo : Nat) : rd (tbCommanded s t data) r [t] hi lo = rd s r [t] hi lo :=
  congrArg (fld · hi lo) (word_tbCommanded ht hr)

theorem tbSource_tbCommanded (ht : t < 4) : tbSource (tbCommanded s t data) t = tbSource s t := by
  unfold tbSource
  rw [rd_tbCommanded ht (by simp)]

theorem setTarget_tbCommanded (ht : t < 4) : setTarget (tbCommanded s t data) t = setTarget s t := by
  unfold setTarget
  rw [rd_tbCommanded ht (by simp), rd_tbCommanded ht (by simp), rd_tbCommanded ht (by simp)]

theorem tbCommandWrite_adj (ht : t < 4) : tbCommandWrite s .host t 0x80000000 =
    tbWaits (tbCommanded s t 0x80000000) t
      { get TbCmd.none s.time.tbCmds t with adj := some (signed (word s Reg.timeTbAdj [t]).toNat 32 * 65536) } := by
  unfold tbCommandWrite
  rw [stage_tbCmd ht, ← word_tbCommanded (s := s) (r := Reg.timeTbAdj) (data := 0x80000000) ht (by simp)]
  rfl

theorem tbCommandWrite_set (ht : t < 4) : tbCommandWrite s .host t 0x80000001 =
    tbWaits (tbCommanded s t 0x80000001) t { get TbCmd.none s.time.tbCmds t with set := some (setTarget s t) } := by
  unfold tbCommandWrite
  rw [stage_tbCmd ht, ← setTarget_tbCommanded (s := s) (data := 0x80000001) ht]
  rfl

/-- θ of SW_OFFSET as its registers hold it. -/
def swOffset (s : State) (t : Nat) : Int :=
  signed (rd s Reg.timeTbSwOffsetHi [t] 15 0 * 2 ^ 32 + rd s Reg.timeTbSwOffsetLo [t] 31 0) 48

theorem swOffset_tbCommanded (ht : t < 4) : swOffset (tbCommanded s t data) t = swOffset s t := by
  unfold swOffset
  rw [rd_tbCommanded ht (by simp), rd_tbCommanded ht (by simp)]

theorem tbCommandWrite_sw (ht : t < 4) (hsrc : tbSource s t = 3) : tbCommandWrite s .host t 0x80000002 =
    tbWaits (tbCommanded s t 0x80000002) t { get TbCmd.none s.time.tbCmds t with sw := some (swOffset s t) } := by
  unfold tbCommandWrite
  rw [stage_tbCmd ht, ← swOffset_tbCommanded (s := s) (data := 0x80000002) ht]
  exact if_pos ((tbSource_tbCommanded ht).trans hsrc)

theorem tbCommandWrite_sw_other (ht : t < 4) (hsrc : tbSource s t ≠ 3) :
    tbCommandWrite s .host t 0x80000002 = tbCommanded s t 0x80000002 := by
  unfold tbCommandWrite
  rw [stage_tbCmd ht]
  exact if_neg ((tbSource_tbCommanded ht).trans_ne hsrc)

/-! ### The commands performed -/

/-- TB `t` without a command that waits. -/
def tbTaken (s : State) (t : Nat) : State :=
  wrBit { s with time := { s.time with tbCmds := drop s.time.tbCmds t } } Reg.timeTbCmd [t] 30 false

theorem time_tbTaken : (tbTaken s t).time = { s.time with tbCmds := drop s.time.tbCmds t } := by rw [tbTaken, wrBit_time]

theorem tb_tbTaken (k : Nat) : tb (tbTaken s t) k = tb s k := by
  unfold tb
  rw [time_tbTaken]

theorem length_tbTaken (hlen : s.time.tbs.length = 4) : (tbTaken s t).time.tbs.length = 4 := by rw [time_tbTaken, hlen]

theorem regsBut_tbTaken (s : State) (t : Nat) : RegsBut [Reg.timeTbCmd.addr [t]] s (tbTaken s t) :=
  ((onlyChanges_tbCmds s _).within (by decide) |>.append (within_wrBit _ _ _ _ _)).2

/-- The registers of a time base that its servo and its steps read. -/
theorem tbRead_apart : ∀ t < 4, ∀ r ∈ [Reg.timeTbStat, Reg.timeTbCfg, Reg.timeTbKi, Reg.timeTbKp, Reg.timeTbStep, Reg.timeTbLock,
    Reg.timeTbUnlock], r.addr [t] ∉ [Reg.timeTbCmd.addr [t]] := by decide

theorem rd_tbTaken (ht : t < 4) (hr : r ∈ [Reg.timeTbStat, Reg.timeTbCfg, Reg.timeTbKi, Reg.timeTbKp, Reg.timeTbStep,
    Reg.timeTbLock, Reg.timeTbUnlock]) (hi lo : Nat) : rd (tbTaken s t) r [t] hi lo = rd s r [t] hi lo :=
  (regsBut_tbTaken s t).rd_eq (tbRead_apart t ht r hr)

theorem tbState_tbTaken (ht : t < 4) : tbState (tbTaken s t) t = tbState s t := rd_tbTaken ht (by simp) 31 30

theorem stepThresh_tbTaken (ht : t < 4) : stepThresh (tbTaken s t) t = stepThresh s t :=
  congrArg (· * 65536) (rd_tbTaken ht (by simp) 29 0)

theorem unlockThresh_tbTaken (ht : t < 4) : unlockThresh (tbTaken s t) t = unlockThresh s t := by
  rw [unlockThresh, unlockThresh, lockThresh, lockThresh, rd_tbTaken ht (by simp), rd_tbTaken ht (by simp)]

/-- A state in which the registers of TB `t` that the device does not show are as after the command was taken. -/
theorem go_of_tbRegs (ht : t < 4) (h : TbRegs (shownRegs t) (tbTaken s t) u) :
    rdBit u Reg.timeTbCmd [t] 30 = false ∧ u.time.tbCmds = drop s.time.tbCmds t := by
  refine ⟨?_, by rw [h.2.1, time_tbTaken]⟩
  rw [rdBit, h.set_word ht (by simp [setRegs]), ← rdBit, tbTaken, rdBit_wrBit_same (by decide)]

/-- What a command that is taken does: SET, then ADJ, then the update. -/
def tbPerformed (s : State) (t : Nat) (x : TbCmd) : State :=
  let s := match x.set with
    | none => s
    | some v => setTb s t v
  let s := match x.adj with
    | none => s
    | some d => adjTb s t d
  match x.sw with
  | none => s
  | some theta => deliverSw s t theta

theorem performTb_eq (hx : find s.time.tbCmds t = some x) : performTb s t = tbPerformed (tbTaken s t) t x := by
  unfold performTb
  rw [hx]
  rfl

theorem tbPerformed_adj (hset : x.set = none) (hadj : x.adj = some d) (hsw : x.sw = none) : tbPerformed s t x = adjTb s t d := by
  simp only [tbPerformed, hset, hadj, hsw]

theorem tbPerformed_set {y : Int} (hset : x.set = some y) (hadj : x.adj = none) (hsw : x.sw = none) :
    tbPerformed s t x = setTb s t y := by simp only [tbPerformed, hset, hadj, hsw]

theorem tbPerformed_both {y : Int} (hset : x.set = some y) (hadj : x.adj = some d) (hsw : x.sw = none) :
    tbPerformed s t x = adjTb (setTb s t y) t d := by simp only [tbPerformed, hset, hadj, hsw]

theorem tbPerformed_sw (hset : x.set = none) (hadj : x.adj = none) (hsw : x.sw = some theta) :
    tbPerformed s t x = deliverSw s t theta := by simp only [tbPerformed, hset, hadj, hsw]

theorem tbRegs_jump (s : State) (t : Nat) (d : Int) : TbRegs (shownRegs t) s (jumpTb s t d) :=
  ((tbRegs_moveTb s t d).mono (by simp [shownRegs])).trans ((tbAside_jumpTb s t d).1.mono (by simp))

theorem tbs_jumpTb : (jumpTb s t d).time.tbs = s.time.tbs.set t ((tb s t).moved d) := (tbAside_jumpTb s t d).2.trans tbs_moveTb

theorem tbs_commandStep (ht : t < s.time.tbs.length) :
    (commandStep s t d).time.tbs = s.time.tbs.set t (((tb s t).moved d).restarted s.time.dt) := by
  have hone : (1 : Nat) ≠ 2 := by decide
  rw [commandStep, tbs_stepTb (by rw [tbs_setTbState hone]; exact ht), tbs_setTbState hone, tb_setTbState hone, (tbRegs_set s t 1).1]

theorem tbState_commandStep (ht : t < 4) : tbState (commandStep s t d) t = 1 := by
  rw [commandStep, tbState_stepTb ht, tbState_setTbState ht (by decide)]

theorem role_tbTaken (ht : t < 4) : role (tbTaken s t) = role s := by
  have hne : ∀ t < 4, Reg.twinStat.addr [] ∉ [Reg.timeTbCmd.addr [t]] := by decide
  exact (regsBut_tbTaken s t).rd_eq (hne t ht)

theorem followsTwin_tbTaken (ht : t < 4) : followsTwin (tbTaken s t) t = followsTwin s t := by
  rw [followsTwin, followsTwin, role_tbTaken ht, (regsBut_tbTaken s t).rdBit_eq (tbRead_apart t ht _ (by simp))]

theorem tbSource_tbTaken (ht : t < 4) : tbSource (tbTaken s t) t = tbSource s t := by
  rw [tbSource, tbSource, rd_tbTaken ht (by simp)]

theorem tbs_setTb {x : Int} (ht : t < s.time.tbs.length) : ∃ b, (setTb s t x).time.tbs = s.time.tbs.set t b ∧
    b.now = x * unitsPerFrac ∧ b.epoch = (tb s t).epoch + 1 := by
  have hstep := tbs_commandStep (d := x - tbFrac s t) ht
  refine ⟨{ tb (commandStep s t (x - tbFrac s t)) t with now := x * unitsPerFrac }, ?_, rfl, ?_⟩
  · show (commandStep s t (x - tbFrac s t)).time.tbs.set t _ = _
    rw [hstep, List.set_set]
  · show (tb (commandStep s t (x - tbFrac s t)) t).epoch = _
    rw [tb_of_set_same hstep ht]
    rfl

theorem tbState_setTb {x : Int} (ht : t < 4) : tbState (setTb s t x) t = 1 := by
  rw [setTb, tbState_putTb, tbState_commandStep ht]

theorem now_adjTb (ht : t < s.time.tbs.length) : (tb (adjTb s t d) t).now = (tb s t).now + d * unitsPerFrac := by
  unfold adjTb
  split
  · rw [tb_of_set_same (tbs_commandStep ht) ht]; rfl
  · rw [tb_of_set_same tbs_jumpTb ht]; rfl

theorem tbFrac_of_now {y : Int} (h : (tb u t).now = y * unitsPerFrac) : tbFrac u t = y := by
  rw [tbFrac, h, Int.mul_ediv_cancel _ (by decide)]

/-! ### What a change of state may change -/

/-- A change beside the time bases is none of DT or theirs. -/
theorem OnlyChanges.unclocked {ps : List Part} (h : OnlyChanges (.clock :: ps) s u) (ha : TbAside s u) : OnlyChanges ps s u := by
  intro p hp
  by_cases hc : p = .clock
  · subst hc
    exact ⟨ha.1.1, ha.2⟩
  · exact h p (by simp [hc, hp])

theorem onlyChanges_muteClocks (s : State) : OnlyChanges [.clock, .time, .out] s (muteClocks s) := by
  have hclk (u : State) (x : Time) (o : Output) : OnlyChanges [.clock, .time, .out] u (emit { u with time := x } o) :=
    ((onlyChanges_of_time u x).append (onlyChanges_emit _ o)).mono (by decide)
  exact (OnlyChanges.foldl (fun u k => (hclk u _ _).ite (.refl _ u)) (List.range 4) s).trans ((hclk _ _ _).ite (.refl _ _))

theorem onlyChanges_wakeParent (s : State) (t : Nat) : OnlyChanges [.counters, .ports, .inForce] s (wakeParent s t) :=
  (macOnly_leaveLpi s _).1.ite (.refl _ s)

theorem onlyChanges_alignCycle (s : State) : OnlyChanges [.clock, .time, .inForce] s (alignCycle s) := by
  unfold alignCycle
  extract_lets want x u
  have hu : OnlyChanges [.clock, .time] s u := onlyChanges_of_time s _
  exact OnlyChanges.ite (.refl _ s)
    ((hu.append ((onlyChanges_wrBit u _ _ _ _).trans (onlyChanges_putWord _ _ _ _))).mono (by decide))

theorem onlyChanges_suspectNoted (s : State) (t v : Nat) : OnlyChanges [.izl] s (suspectNoted s t v) :=
  (onlyChanges_of_izl s _).ite (.refl _ s)

theorem suspectNoted_of_locked (hv : 2 ≤ v) : suspectNoted s t v = s := if_neg (by omega)

theorem lockNoted_of_other (hv : v ≠ 2) : lockNoted s t v = s := if_neg hv

theorem onlyChanges_afterSuspect {ps : List Part} (h : OnlyChanges ps s u) (t : Nat) :
    OnlyChanges (ps ++ [.clock, .time, .inForce]) s (if t = 0 then alignCycle u else u) :=
  h.append ((onlyChanges_alignCycle u).ite (.refl _ u))

theorem onlyChanges_beforeLock (s : State) (t : Nat) :
    OnlyChanges [.clock, .time, .out, .counters, .ports, .inForce] s (wakeParent (muteClocks s) t) :=
  (onlyChanges_muteClocks s).append (onlyChanges_wakeParent _ t)

/-- A change of state to HOLDOVER. -/
theorem onlyChanges_toHoldover (s : State) (t : Nat) :
    OnlyChanges [.inForce, .time, .out, .ports, .counters] s (setTbState s t 3) := by
  by_cases h : tbState s t = 3
  · rw [setTbState_same h]
    exact .refl _ s
  · rw [setTbState_change h]
    refine (OnlyChanges.append (qs := [.inForce, .time, .out, .ports, .counters])
      ((onlyChanges_putWord s _ _ _).trans (onlyChanges_putWord _ _ _ _)) (.unclocked ?_ (tbAside_stateFollowed (by decide)))).mono
      (by decide)
    unfold stateFollowed
    rw [suspectNoted_of_locked (by decide), lockNoted_of_other (by decide)]
    exact (onlyChanges_afterSuspect (onlyChanges_beforeLock _ t) t).mono (by decide)

/-- A change of state to FREE. -/
theorem onlyChanges_toFree (s : State) (t : Nat) :
    OnlyChanges [.inForce, .time, .izl, .out, .ports, .counters] s (setTbState s t 0) := by
  by_cases h : tbState s t = 0
  · rw [setTbState_same h]
    exact .refl _ s
  · rw [setTbState_change h]
    refine (OnlyChanges.append (qs := [.inForce, .time, .izl, .out, .ports, .counters])
      ((onlyChanges_putWord s _ _ _).trans (onlyChanges_putWord _ _ _ _)) (.unclocked ?_ (tbAside_stateFollowed (by decide)))).mono
      (by decide)
    unfold stateFollowed
    rw [lockNoted_of_other (by decide)]
    exact (onlyChanges_afterSuspect ((onlyChanges_beforeLock _ t).append (onlyChanges_suspectNoted _ t 0)) t).mono (by decide)

theorem onlyChanges_putTb (s : State) (t : Nat) (b : TimeBase) : OnlyChanges [.clock] s (putTb s t b) := by
  intro p hp; cases p <;> simp_all [Part.same, putTb]

/-- HOLDOVER begins at the integrator's frequency. -/
def heldOver (s : State) (t : Nat) : State := setTbState (putFreq s t (freqUnits (tb s t).integ)) t 3

theorem onlyChanges_heldOver (s : State) (t : Nat) :
    OnlyChanges [.clock, .inForce, .time, .out, .ports, .counters] s (heldOver s t) :=
  ((onlyChanges_putTb s t _).append ((onlyChanges_putWord _ _ _ _).append (onlyChanges_toHoldover _ t))).mono (by decide)

theorem tbState_putFreq (ht : t < 4) {f : Int} : tbState (putFreq s t f) t = tbState s t := by
  rw [tbState, rd, putFreq, word_putWord_other (freq_apart t ht)]
  rfl

theorem eventCnt_putFreq (ht : t < 4) {f : Int} :
    word (putFreq s t f) Reg.timeTbEventCnt [t] = word s Reg.timeTbEventCnt [t] := by
  have hne : ∀ t < 4, Reg.timeTbEventCnt.addr [t] ≠ Reg.timeTbFreq.addr [t] := by decide
  rw [putFreq, word_putWord_other (hne t ht)]
  rfl

theorem heldOver_facts (ht : t < 4) (hlen : s.time.tbs.length = 4) (hstate : tbState s t ≠ 3) :
    tbState (heldOver s t) t = 3 ∧ (tb (heldOver s t) t).freq = freqUnits (tb s t).integ ∧
      (tb (heldOver s t) t).now = (tb s t).now ∧
      word (heldOver s t) Reg.timeTbEventCnt [t] = word s Reg.timeTbEventCnt [t] + 1 ∧
      (heldOver s t).time.dt = s.time.dt ∧ ∀ k < 4, k ≠ t → tb (heldOver s t) k = tb s k := by
  have hthree : (3 : Nat) ≠ 2 := by decide
  unfold heldOver
  rw [tb_setTbState hthree, tb_of_set_same tbs_putFreq (by omega), tbState_setTbState ht (by decide),
    eventCnt_setTbState ht (by rw [tbState_putFreq ht]; exact hstate), eventCnt_putFreq ht, (tbRegs_set _ t 3).1, dt_putFreq]
  exact ⟨rfl, rfl, rfl, rfl, rfl, fun k _ hk => by rw [tb_setTbState hthree, tb_of_set_other tbs_putFreq hk]⟩

/-! ### The commands themselves -/

theorem exec_srcTimeout_held {t : Fin 4} {el : Nat} (hnow : now = advance el s) (hdue : timeoutAt now t ≤ now.time.dt)
    (hstate : tbState now t = 2 ∨ (tbState now t = 1 ∧ (tb now t).lockedSinceStep = true)) :
    exec (.srcTimeout t el) s = done (heldOver now t) := by
  show execSrcTimeout t el s = _
  unfold execSrcTimeout
  rw [← hnow]
  rcases hstate with h | ⟨h, hlocked⟩
  · simp only [if_neg (Nat.not_lt.2 hdue), h]
    rfl
  · simp only [if_neg (Nat.not_lt.2 hdue), h, hlocked, if_true]
    rfl

theorem exec_srcTimeout_free {t : Fin 4} {el : Nat} (hnow : now = advance el s) (hdue : timeoutAt now t ≤ now.time.dt)
    (hstate : tbState now t = 1) (hlocked : (tb now t).lockedSinceStep = false) :
    exec (.srcTimeout t el) s = done (setTbState now t 0) := by
  show execSrcTimeout t el s = _
  unfold execSrcTimeout
  rw [← hnow]
  simp only [if_neg (Nat.not_lt.2 hdue), hstate, hlocked]
  rfl

theorem exec_servoUpdate {t : Fin 4} {el : Nat} (hnow : now = advance el s) (hquiet : Quiet now) (hoff : offline now = false)
    (htwin : followsTwin now t = false) (hsrc : tbSource now t ≠ 0) :
    exec (.servoUpdate t el theta (BitVec.ofNat 8 (tb now t).epoch) none) s = done (servo now t theta) := by
  show execServoUpdate t el theta _ none s = _
  unfold execServoUpdate
  have hrec : recordServo now t theta = now := record_of_quiet hquiet _ _ _ _
  rw [← hnow]
  simp only [hoff, htwin, hsrc, Bool.false_and, bne_self_eq_false, hrec, ite_self, Option.isSome_none, or_self, if_false,
    Bool.false_eq_true]

theorem exec_servoUpdate_old {t : Fin 4} {el : Nat} {e : BitVec 8} (hnow : now = advance el s) (hoff : offline now = false)
    (htwin : followsTwin now t = false) (hsrc : tbSource now t ≠ 0) (hold : BitVec.ofNat 8 (tb now t).epoch ≠ e) :
    exec (.servoUpdate t el theta e none) s = done (servoDiscard now) := by
  show execServoUpdate t el theta _ none s = _
  unfold execServoUpdate
  rw [← hnow]
  simp only [hoff, htwin, hsrc, Bool.false_and, bne_iff_ne.2 hold, Option.isSome_none, or_self, if_false, if_true,
    Bool.false_eq_true]

theorem tbDoorbell_eq {t : Fin 4} (h : Reaches s .host (Reg.timeTbCmd.addr [t.val])) (data : Word) :
    tbDoorbell s t data = tbCommandWrite s .host t data := doorbell_of_reaches h data _

/-- Settles O28: servo, steps and jumps by what each leaves of its TB, beside which outputs and gate lists move. -/
theorem timeBasesAreServoed : Obligations.TimeBasesAreServoed := by
  unfold Obligations.TimeBasesAreServoed
  refine ⟨?_, ?_, ?_, ?_, ?_, ?_, ?_, ?_, ?_, ?_, ?_, ?_, ?_, ?_, ?_, ?_, ?_, ?_⟩
  · intro s t theta ht hlen hstate hest hsmall
    exact servo_locked_facts ht hlen hstate hest hsmall
  · intro s t theta ht hlen hstate hbig
    exact servo_step ht hlen hstate hbig
  · intro s t theta ht hlen hstate
    exact servo_free ht hlen hstate
  · intro s t theta ht hlen hstate hsmall
    exact servo_holdover ht hlen hstate hsmall
  · intro s t el theta now hnow hquiet hoff htwin hsrc
    exact exec_servoUpdate hnow hquiet hoff htwin hsrc
  · intro s t el theta e now hnow hoff htwin hsrc hold
    refine doesFrom_of_all (exec_servoUpdate_old hnow hoff htwin hsrc hold) (onlyChanges_bump _ _ _ _ _) ⟨?_, rfl⟩ fun _ _ h => h
    exact ctr_bump_same
  · intro s t el now hnow hdue hlen hstate _
    refine doesFrom_of_all (exec_srcTimeout_held hnow hdue hstate) (onlyChanges_heldOver now t)
      (heldOver_facts t.isLt hlen ?_) fun _ _ h => h
    rcases hstate with h | ⟨h, -⟩ <;> rw [h] <;> decide
  · intro s t el now hnow hdue hstate hlocked
    refine doesFrom_of_all (exec_srcTimeout_free hnow hdue hstate hlocked) (onlyChanges_toFree now t)
      ⟨tbState_setTbState t.isLt (by decide), fun k _ => tb_setTbState (by decide) k,
        eventCnt_setTbState t.isLt (by rw [hstate]; decide)⟩ fun _ _ h => h
  · intro s t el now hnow hearly
    refine doesFrom_nothing ?_
    show execSrcTimeout t el s = _
    unfold execSrcTimeout
    rw [← hnow]
    exact if_pos hearly
  · intro s t hreach
    have hexec : exec (.tbCmdAdj t) s = done (tbCommandWrite s .host t 0x80000000) :=
      congrArg done (tbDoorbell_eq hreach _)
    rw [tbCommandWrite_adj t.isLt] at hexec
    exact does_of_all hexec (within_tbCommandWaits s t _ _).1 (tbCommandWaits_facts s t _ _) fun _ _ h => h
  · intro s t hreach
    have hexec : exec (.tbCmdSet t) s = done (tbCommandWrite s .host t 0x80000001) :=
      congrArg done (tbDoorbell_eq hreach _)
    rw [tbCommandWrite_set t.isLt] at hexec
    exact does_of_all hexec (within_tbCommandWaits s t _ _).1 (tbCommandWaits_facts s t _ _) fun _ _ h => h
  · intro s t el now hnow hreach hsrc
    have hexec : exec (.tbCmdDeliverSwOffset t el) s = done (tbCommandWrite now .host t 0x80000002) :=
      hnow ▸ congrArg done (tbDoorbell_eq (hnow ▸ hreach) _)
    rw [tbCommandWrite_sw t.isLt hsrc] at hexec
    exact doesFrom_of_all hexec (within_tbCommandWaits now t _ _).1 (tbCommandWaits_facts now t _ _) fun _ _ h => h
  · intro s t el now hnow hreach hsrc
    have hexec : exec (.tbCmdDeliverSwOffset t el) s = done (tbCommandWrite now .host t 0x80000002) :=
      hnow ▸ congrArg done (tbDoorbell_eq (hnow ▸ hreach) _)
    rw [tbCommandWrite_sw_other t.isLt hsrc] at hexec
    exact doesFrom_of_all hexec (within_tbCommanded now t _).1 (within_tbCommanded now t _).2 fun _ _ h => h
  · intro s t x d ht hlen hx hset hadj hsw hsmall
    have hjump : performTb s t = jumpTb (tbTaken s t) t d := by
      rw [performTb_eq hx, tbPerformed_adj hset hadj hsw, adjTb, if_neg (by rw [stepThresh_tbTaken ht]; omega)]
    have hlen' := length_tbTaken (t := t) hlen
    rw [hjump, tb_of_set_same tbs_jumpTb (by omega), tb_tbTaken]
    exact ⟨rfl, fun k _ hk => (tb_of_set_other tbs_jumpTb hk).trans (tb_tbTaken k), go_of_tbRegs ht (tbRegs_jump _ t d)⟩
  · intro s t x d ht hlen hx hset hadj hsw hbig
    have hstep : performTb s t = commandStep (tbTaken s t) t d := by
      rw [performTb_eq hx, tbPerformed_adj hset hadj hsw, adjTb, if_pos (by rw [stepThresh_tbTaken ht]; omega)]
    have hlen' := length_tbTaken (t := t) hlen
    have hin : t < (tbTaken s t).time.tbs.length := by omega
    rw [hstep, tb_of_set_same (tbs_commandStep hin) hin, tb_tbTaken]
    exact ⟨rfl, tbState_commandStep ht, rfl, fun k _ hk => (tb_of_set_other (tbs_commandStep hin) hk).trans (tb_tbTaken k)⟩
  · intro s t x v ht hlen hx hset hadj hsw
    have hlen' := length_tbTaken (t := t) hlen
    have hin : t < (tbTaken s t).time.tbs.length := by omega
    obtain ⟨b, hb, hnow, hepoch⟩ := tbs_setTb (x := v) hin
    rw [performTb_eq hx, tbPerformed_set hset hadj hsw]
    refine ⟨tbFrac_of_now (by rw [tb_of_set_same hb hin, hnow]), tbState_setTb ht, ?_, fun k _ hk => ?_⟩
    · rw [tb_of_set_same hb hin, hepoch, tb_tbTaken]
    · rw [tb_of_set_other hb hk, tb_tbTaken]
  · intro s t x v d ht hlen hx hset hadj hsw
    have hlen' := length_tbTaken (t := t) hlen
    have hin : t < (tbTaken s t).time.tbs.length := by omega
    obtain ⟨b, hb, hnow, -⟩ := tbs_setTb (x := v) hin
    rw [performTb_eq hx, tbPerformed_both hset hadj hsw]
    refine tbFrac_of_now ?_
    rw [now_adjTb (by rw [hb, List.length_set]; exact hin), tb_of_set_same hb hin, hnow, Int.add_mul]
  · intro s t x theta u ht hlen hx hset hadj hsw hsrc htwin hstate hest hsmall hu
    have hsw' : performTb s t = servo (tbTaken s t) t theta := by
      rw [performTb_eq hx, tbPerformed_sw hset hadj hsw, deliverSw, if_pos]
      rw [tbSource_tbTaken ht, followsTwin_tbTaken ht, htwin]
      exact ⟨hsrc, rfl⟩
    have hfacts := servo_locked_facts (s := tbTaken s t) (theta := theta) ht (length_tbTaken hlen)
      ((tbState_tbTaken ht).trans hstate) (by rw [tb_tbTaken, hest]) (by rw [unlockThresh_tbTaken ht]; exact hsmall)
    obtain ⟨hinteg, hfreq, -, hlocked, -, hothers⟩ := hfacts
    rw [hu, hsw']
    refine ⟨?_, ?_, hlocked, fun k hk hne => (hothers k hk hne).trans (tb_tbTaken k)⟩
    · rw [hinteg, integAfter, rd_tbTaken ht (by simp), tb_tbTaken, time_tbTaken]
    · rw [hfreq, rd_tbTaken ht (by simp)]

end
end Sys2Proof.Machine

/-! PROOFS. Captures, the reference and the timing pins (R242, R246, R271 to R273). -/
namespace Sys2Proof.Machine

/-! ### Captures -/

/-- The registers of capture `k`. -/
def capRegs (k : Nat) : List Nat :=
  [Reg.timeCapSLo.addr [k], Reg.timeCapSHi.addr [k], Reg.timeCapNs.addr [k], Reg.timeCapFrac.addr [k]]

/-- The registers of capture `k` hold the time `x`. -/
def Captured (u : State) (k : Nat) (x : Int) : Prop :=
  word u Reg.timeCapSLo [k] = BitVec.ofNat 32 (timeFormat x).1 ∧
    word u Reg.timeCapSHi [k] = BitVec.ofNat 32 ((timeFormat x).1 / 2 ^ 32) ∧
    word u Reg.timeCapNs [k] = BitVec.ofNat 32 (timeFormat x).2.1 ∧
    word u Reg.timeCapFrac [k] = BitVec.ofNat 32 (timeFormat x).2.2

section
variable {s now u v : State} {t k j : Nat} {x : Int} {o : Output}

theorem capRegs_apart : ∀ k < 5, Reg.timeCapSHi.addr [k] ≠ Reg.timeCapSLo.addr [k] ∧ Reg.timeCapNs.addr [k] ≠ Reg.timeCapSLo.addr [k] ∧
    Reg.timeCapNs.addr [k] ≠ Reg.timeCapSHi.addr [k] ∧ Reg.timeCapFrac.addr [k] ≠ Reg.timeCapSLo.addr [k] ∧
    Reg.timeCapFrac.addr [k] ≠ Reg.timeCapSHi.addr [k] ∧ Reg.timeCapFrac.addr [k] ≠ Reg.timeCapNs.addr [k] := by decide

theorem captured_putCapture (hk : k < 5) : Captured (putCapture s k x) k x := by
  obtain ⟨hhl, hnl, hnh, hfl, hfh, hfn⟩ := capRegs_apart k hk
  unfold putCapture
  refine ⟨?_, ?_, ?_, word_putWord_same⟩
  · rw [word_putWord_other hfl.symm, word_putWord_other hnl.symm, word_putWord_other hhl.symm, word_putWord_same]
  · rw [word_putWord_other hfh.symm, word_putWord_other hnh.symm, word_putWord_same]
  · rw [word_putWord_other hfn.symm, word_putWord_same]

theorem within_putCapture (s : State) (k : Nat) (x : Int) : Within [.inForce] (capRegs k) s (putCapture s k x) :=
  ((within_putWord s _ _ _).append ((within_putWord _ _ _ _).append ((within_putWord _ _ _ _).append
    (within_putWord _ _ _ _)))).mono (by decide) (by simp [capRegs])

theorem time_putCapture : (putCapture s k x).time = s.time := rfl

theorem capRegs_disjoint : ∀ k < 5, ∀ j < 5, k = j ∨ ∀ a ∈ capRegs k, a ∉ capRegs j := by decide

theorem Captured.beside (h : Captured s k x) (hk : k < 5) (hj : j < 5) (hne : k ≠ j) {y : Int} :
    Captured (putCapture s j y) k x := by
  have hregs := (within_putCapture s j y).2
  have hnot := (capRegs_disjoint k hk j hj).resolve_left hne
  obtain ⟨hlo, hhi, hns, hfr⟩ := h
  exact ⟨(hregs.word_eq (hnot _ (by simp [capRegs]))).trans hlo, (hregs.word_eq (hnot _ (by simp [capRegs]))).trans hhi,
    (hregs.word_eq (hnot _ (by simp [capRegs]))).trans hns, (hregs.word_eq (hnot _ (by simp [capRegs]))).trans hfr⟩

/-- The first `n` time bases captured, and nothing but their captures changed. -/
theorem captures_upTo (s : State) : ∀ n ≤ 4, let u := (List.range n).foldl (fun s t => putCapture s t (tbFrac s t)) s
    u.time = s.time ∧ (∀ k < n, Captured u k (tbFrac s k)) ∧
      Within [.inForce] ((List.range 5).flatMap capRegs) s u := by
  intro n
  induction n with
  | zero => exact fun _ => ⟨rfl, fun k hk => absurd hk (Nat.not_lt_zero k), .refl _ _ s⟩
  | succ n ih =>
    intro hn
    obtain ⟨htime, hcap, hwithin⟩ := ih (by omega)
    rw [List.range_succ, List.foldl_append, List.foldl_cons, List.foldl_nil]
    generalize (List.range n).foldl (fun s t => putCapture s t (tbFrac s t)) s = u at htime hcap hwithin
    have hfrac : tbFrac u n = tbFrac s n := by rw [tbFrac, tbFrac, tb, tb, htime]
    refine ⟨by rw [time_putCapture, htime], fun k hk => ?_, hwithin.trans
      ((within_putCapture u n _).mono (by simp) fun a ha => List.mem_flatMap.2 ⟨n, List.mem_range.2 (by omega), ha⟩)⟩
    rcases Nat.lt_succ_iff_lt_or_eq.1 hk with h | rfl
    · exact (hcap k h).beside (by omega) (by omega) (by omega)
    · rw [hfrac]
      exact captured_putCapture (by omega)

theorem captureTime_facts (s : State) : (∀ k < 4, Captured (captureTime s) k (tbFrac s k)) ∧
    Captured (captureTime s) 4 (dtFrac s) ∧ Within [.inForce] ((List.range 5).flatMap capRegs) s (captureTime s) := by
  obtain ⟨htime, hcap, hwithin⟩ := captures_upTo s 4 (by decide)
  unfold captureTime
  generalize (List.range 4).foldl (fun s t => putCapture s t (tbFrac s t)) s = u at htime hcap hwithin
  exact ⟨fun k hk => (hcap k hk).beside (by omega) (by decide) (by omega), captured_putCapture (by decide),
    hwithin.trans ((within_putCapture u 4 _).mono (by simp) fun a ha => List.mem_flatMap.2 ⟨4, by decide, ha⟩)⟩

/-! ### The reference -/

/-- The reference shown as lost or regained. -/
def refShown (s : State) (lost : Bool) : State :=
  wrBit { s with time := { s.time with refLost := lost } } Reg.timeRef [] 31 (!lost)

theorem onlyChanges_refLost (s : State) (lost : Bool) : OnlyChanges [.time] s { s with time := { s.time with refLost := lost } } := by
  intro p hp; cases p <;> simp_all [Part.same]

theorem within_refShown (s : State) (lost : Bool) : Within [.time, .inForce] [Reg.timeRef.addr []] s (refShown s lost) :=
  ((onlyChanges_refLost s lost).within (by decide)).append (within_wrBit _ _ _ _ _)

theorem refChange_eq {lost : Bool} (hquiet : Quiet s) (hen : rdBit s Reg.timeRef [] 1 = true) (hlost : s.time.refLost = !lost) :
    refChange s lost = refShown s lost := by
  have hquiet' : Quiet (refShown s lost) := quiet_of_regsBut (within_refShown s lost).2 (by decide) (by decide) hquiet
  unfold refChange
  rw [hen, hlost, if_pos (by cases lost <;> rfl)]
  exact record_of_quiet hquiet' _ _ _ _

theorem refShown_facts (s : State) (lost : Bool) : (refShown s lost).time = { s.time with refLost := lost } ∧
    rdBit (refShown s lost) Reg.timeRef [] 31 = !lost ∧ RegsBut [Reg.timeRef.addr []] s (refShown s lost) :=
  ⟨by rw [refShown, wrBit_time], rdBit_wrBit_same (by decide), (within_refShown s lost).2⟩

/-! ### Timing inputs -/

theorem onlyChanges_putPpsin (s : State) (k : Nat) (l : List Stamp) : OnlyChanges [.time] s (putPpsin s k l) := by
  intro p hp; cases p <;> simp_all [Part.same, putPpsin]

theorem ppsin_putPpsin_same {l : List Stamp} (hk : k < s.time.ppsin.length) : ppsin (putPpsin s k l) k = l := by
  rw [ppsin, putPpsin, List.getD_eq_getElem?_getD, List.getElem?_set_self hk, Option.getD_some]

theorem ppsin_putPpsin_other {l : List Stamp} (hj : j ≠ k) : ppsin (putPpsin s k l) j = ppsin s j := by
  rw [ppsin, putPpsin, List.getD_eq_getElem?_getD, List.getElem?_set_ne hj.symm, ← List.getD_eq_getElem?_getD, ← ppsin]

/-- No time base takes an input that is no source of any. -/
theorem noServo {f : State → Nat → State} (h : ∀ t < 4, tbSource s t ≠ 4 + k) :
    (List.range 4).foldl (fun s t => if tbSource s t = 4 + k ∧ !followsTwin s t then f s t else s) s = s :=
  List.foldlRecOn (motive := fun u => u = s) _ _ rfl fun u hu t ht => by
    rw [hu, if_neg fun hc => h t (List.mem_range.1 ht) hc.1]

theorem edgeIn_taken (hquiet : Quiet s) (hfree : (ppsin s k).length < 16) (hsrc : ∀ t < 4, tbSource s t ≠ 4 + k) :
    edgeIn s k = putPpsin s k (ppsin s k ++ [(stampNow s).shift (-(rd s Reg.timePpsinCfg [k] 15 0 * 65536 : Nat))]) := by
  unfold edgeIn
  extract_lets st a b
  have ha : a = s := record_of_quiet hquiet _ _ _ _
  have hb : b = putPpsin s k (ppsin s k ++ [st]) := by
    unfold b
    rw [ha, if_neg (by omega)]
  rw [hb]
  exact noServo hsrc

theorem edgeIn_full (hquiet : Quiet s) (hfull : 16 ≤ (ppsin s k).length) (hsrc : ∀ t < 4, tbSource s t ≠ 4 + k) :
    edgeIn s k = bump s Ctr.time [] 5 1 := by
  unfold edgeIn
  extract_lets st a b
  have ha : a = s := record_of_quiet hquiet _ _ _ _
  have hb : b = bump s Ctr.time [] 5 1 := by
    unfold b
    rw [ha, if_pos hfull]
  rw [hb]
  exact noServo hsrc

theorem exec_ppsinEdge {k : Fin 2} {el : Nat} {f : Bool} (hnow : now = advance el s) (hoff : offline now = false)
    (hen : rdBit now Reg.timePpsinCfg [k] 31 = true) (hf : rdBit now Reg.timePpsinCfg [k] 30 = f) :
    exec (.ppsinEdge k el f) s = done (edgeIn now k) := by
  show execPpsinEdge k el f s = _
  unfold execPpsinEdge
  rw [← hnow]
  simp only [hen, hf, hoff, beq_self_eq_true, Bool.and_self, Bool.not_false, if_true]

/-! ### Timing outputs -/

/-- Nothing changes but CLK10OUT, the clock outputs and what has left. -/
def Pulsed (s u : State) : Prop :=
  ∃ c w l, u = { s with time := { s.time with clk10 := c, wclk := w }, out := l ++ s.out }

theorem Pulsed.refl (s : State) : Pulsed s s := ⟨s.time.clk10, s.time.wclk, [], rfl⟩

theorem Pulsed.trans (h : Pulsed s u) (h' : Pulsed u v) : Pulsed s v := by
  obtain ⟨c, w, l, rfl⟩ := h
  obtain ⟨c', w', l', rfl⟩ := h'
  exact ⟨c', w', l' ++ l, by rw [List.append_assoc]⟩

theorem Pulsed.mem (h : Pulsed s u) (ho : o ∈ s.out) : o ∈ u.out := by
  obtain ⟨c, w, l, rfl⟩ := h
  exact List.mem_append_right l ho

theorem pulsed_emit (s : State) (o : Output) : Pulsed s (emit s o) := ⟨s.time.clk10, s.time.wclk, [o], rfl⟩

theorem pulsed_wclk (s : State) (k : Nat) (x : TimingOut) : Pulsed s (putWclk s k x) := ⟨s.time.clk10, s.time.wclk.set k x, [], rfl⟩

theorem Pulsed.ite {c : Prop} [Decidable c] (h : Pulsed s u) : Pulsed s (if c then u else s) := by
  split
  · exact h
  · exact .refl s

theorem pulsed_foldl {f : State → Nat → State} (h : ∀ u k, Pulsed u (f u k)) (l : List Nat) (s : State) : Pulsed s (l.foldl f s) :=
  List.foldlRecOn (motive := Pulsed s) l f (.refl s) fun u hu k _ => hu.trans (h u k)

/-- What one of a list's turns sends has left at its end. -/
theorem mem_out_foldl {f : State → Nat → State} (h : ∀ u k, Pulsed u (f u k)) {l : List Nat} (hk : k ∈ l) {s : State}
    (ho : ∀ u, Pulsed s u → o ∈ (f u k).out) : o ∈ (l.foldl f s).out := by
  obtain ⟨pre, post, rfl⟩ := List.append_of_mem hk
  rw [List.foldl_append, List.foldl_cons]
  exact (pulsed_foldl h post _).mem (ho _ (pulsed_foldl h pre s))

theorem pulsed_pulsePps (t : Nat) (s : State) (k : Nat) : Pulsed s (pulsePps t s k) := (pulsed_emit s _).ite

theorem pulsed_runClk10 (t : Nat) (s : State) : Pulsed s (runClk10 t s) :=
  Pulsed.ite ⟨_, s.time.wclk, [_], rfl⟩

/-- WCLK `k` begins or takes its phase anew where it has to. -/
def wclkBegun (s : State) (k : Nat) : State :=
  if !(wclk s k).running || (wclk s k).rephase then
    putWclk s k { running := true, rephase := false, lag := 0, lagAt := s.time.dt }
  else s

/-- The edges of WCLK `k` of TB `t` in the second that begins. -/
def wclkEdges (s : State) (t k : Nat) : Output :=
  .edges (5 + k) (afterSecond s t (signed (word s Reg.timeWclkOfs [k]).toNat 32 * 65536 + lagNow s (wclk s k)))
    (wclkRate (rd s Reg.timeWclkCfg [k] 2 0)) (fracPerSec / (2 * wclkRate (rd s Reg.timeWclkCfg [k] 2 0)))

theorem runWclk_eq : runWclk t s k =
    if driven s true k && rd s Reg.timeWclkCfg [k] 29 28 == t && !wclkMuted s k then
      emit (wclkBegun s k) (wclkEdges (wclkBegun s k) t k)
    else s := rfl

theorem pulsed_wclkBegun (s : State) (k : Nat) : Pulsed s (wclkBegun s k) := (pulsed_wclk s k _).ite

theorem pulsed_runWclk (t : Nat) (s : State) (k : Nat) : Pulsed s (runWclk t s k) := by
  rw [runWclk_eq]
  exact ((pulsed_wclkBegun s k).trans (pulsed_emit _ _)).ite

theorem wclk_putWclk_same {x : TimingOut} (hk : k < s.time.wclk.length) : wclk (putWclk s k x) k = x := by
  rw [wclk, putWclk, List.getD_eq_getElem?_getD, List.getElem?_set_self hk, Option.getD_some]

theorem wclk_putWclk_other {x : TimingOut} (hj : j ≠ k) : wclk (putWclk s k x) j = wclk s j := by
  rw [wclk, putWclk, List.getD_eq_getElem?_getD, List.getElem?_set_ne hj.symm, ← List.getD_eq_getElem?_getD, ← wclk]

theorem wclk_emit : wclk (emit s o) k = wclk s k := rfl

theorem wclk_wclkBegun_other (hj : j ≠ k) : wclk (wclkBegun s k) j = wclk s j := by
  unfold wclkBegun
  split
  · exact wclk_putWclk_other hj
  · rfl

theorem wclk_runWclk_other (hj : j ≠ k) : wclk (runWclk t s k) j = wclk s j := by
  rw [runWclk_eq]
  split
  · rw [wclk_emit, wclk_wclkBegun_other hj]
  · rfl

theorem length_wclkBegun : (wclkBegun s k).time.wclk.length = s.time.wclk.length := by
  unfold wclkBegun
  split
  · exact List.length_set
  · rfl

theorem length_runWclk : (runWclk t s k).time.wclk.length = s.time.wclk.length := by
  rw [runWclk_eq]
  split
  · exact length_wclkBegun
  · rfl

theorem running_wclkBegun (hk : k < s.time.wclk.length) : (wclk (wclkBegun s k) k).running = true := by
  unfold wclkBegun
  split
  · rw [wclk_putWclk_same hk]
  · next h =>
    simp only [Bool.or_eq_true, Bool.not_eq_true', not_or, Bool.not_eq_false] at h
    exact h.1

theorem lagNow_zero {x : TimingOut} (h : x.lag = 0) : lagNow s x = 0 := by
  unfold lagNow
  extract_lets y
  rw [h, if_pos (Int.le_refl 0)]
  omega

theorem wclkEdges_begun (hk : k < s.time.wclk.length) (h : (wclk s k).running = false ∨ (wclk s k).rephase = true) :
    wclkEdges (wclkBegun s k) t k = .edges (5 + k) (afterSecond s t (signed (word s Reg.timeWclkOfs [k]).toNat 32 * 65536))
      (wclkRate (rd s Reg.timeWclkCfg [k] 2 0)) (fracPerSec / (2 * wclkRate (rd s Reg.timeWclkCfg [k] 2 0))) := by
  have hbegin : (!(wclk s k).running || (wclk s k).rephase) = true := by rcases h with h | h <;> rw [h] <;> simp
  rw [wclkBegun, if_pos hbegin, wclkEdges, wclk_putWclk_same hk, lagNow_zero rfl, Int.add_zero]
  rfl

/-- What a clock output's turn leaves, given that nothing but outputs changed before it. -/
theorem runWclk_facts (hu : Pulsed s u) (hk : k < u.time.wclk.length) (hsame : wclk u k = wclk s k) (hdriven : driven s true k = true)
    (htb : rd s Reg.timeWclkCfg [k] 29 28 = t) (hmute : wclkMuted s k = false) :
    (wclk (runWclk t u k) k).running = true ∧ ((wclk s k).running = false ∨ (wclk s k).rephase = true →
      Output.edges (5 + k) (afterSecond s t (signed (word s Reg.timeWclkOfs [k]).toNat 32 * 65536))
        (wclkRate (rd s Reg.timeWclkCfg [k] 2 0)) (fracPerSec / (2 * wclkRate (rd s Reg.timeWclkCfg [k] 2 0))) ∈
        (runWclk t u k).out) := by
  have hedges := wclkEdges_begun (t := t) hk
  rw [hsame] at hedges
  have hrun : runWclk t u k = emit (wclkBegun u k) (wclkEdges (wclkBegun u k) t k) := by
    obtain ⟨c, w, l, rfl⟩ := hu
    have hcond : (driven s true k && rd s Reg.timeWclkCfg [k] 29 28 == t && !wclkMuted s k) = true := by
      rw [hdriven, htb, hmute]
      simp
    exact if_pos hcond
  rw [hrun, wclk_emit]
  refine ⟨running_wclkBegun hk, fun h => ?_⟩
  rw [hedges h]
  obtain ⟨c, w, l, rfl⟩ := hu
  exact List.mem_cons_self

/-- A clock output's turn among the others'. -/
theorem runWclks_facts (hk : k < 4) (hlen : s.time.wclk.length = 4) (hdriven : driven s true k = true)
    (htb : rd s Reg.timeWclkCfg [k] 29 28 = t) (hmute : wclkMuted s k = false) :
    (wclk ((List.range 4).foldl (runWclk t) s) k).running = true ∧ ((wclk s k).running = false ∨ (wclk s k).rephase = true →
      Output.edges (5 + k) (afterSecond s t (signed (word s Reg.timeWclkOfs [k]).toNat 32 * 65536))
        (wclkRate (rd s Reg.timeWclkCfg [k] 2 0)) (fracPerSec / (2 * wclkRate (rd s Reg.timeWclkCfg [k] 2 0))) ∈
        ((List.range 4).foldl (runWclk t) s).out) := by
  obtain ⟨pre, post, hl, hpre⟩ := List.eq_append_cons_of_mem (List.mem_range.2 hk)
  have hpost : k ∉ post := fun h => by
    have hnodup := hl ▸ List.nodup_range (n := 4)
    exact (List.nodup_cons.1 (List.nodup_append.1 hnodup).2.1).1 h
  have hother (l : List Nat) (hnot : k ∉ l) (u : State) : wclk (l.foldl (runWclk t) u) k = wclk u k :=
    List.foldlRecOn (motive := fun v => wclk v k = wclk u k) l _ rfl fun v hv j hj =>
      (wclk_runWclk_other fun h => hnot (by rw [h]; exact hj)).trans hv
  have hlength (l : List Nat) (u : State) : (l.foldl (runWclk t) u).time.wclk.length = u.time.wclk.length :=
    List.foldlRecOn (motive := fun v : State => v.time.wclk.length = u.time.wclk.length) l _ rfl fun v hv j _ => length_runWclk.trans hv
  obtain ⟨hrun, hmem⟩ := runWclk_facts (pulsed_foldl (pulsed_runWclk t) pre s) (by rw [hlength, hlen]; exact hk)
    (hother pre hpre s) hdriven htb hmute
  rw [hl, List.foldl_append, List.foldl_cons, hother post hpost]
  exact ⟨hrun, fun h => (pulsed_foldl (pulsed_runWclk t) post _).mem (hmem h)⟩

/-- The second of TB `t` taken at this tick. -/
def secondTaken (s : State) (t : Nat) : State := putTb s t { tb s t with secondAt := s.time.dt }

/-- The outputs of TB `t` once its second is taken. -/
def secondRun (s : State) (t : Nat) : State :=
  (List.range 4).foldl (runWclk t) (runClk10 t ((List.range 4).foldl (pulsePps t) s))

theorem tbs_secondTaken : (secondTaken s t).time.tbs = s.time.tbs.set t { tb s t with secondAt := s.time.dt } := rfl

theorem tb_secondTaken (ht : t < s.time.tbs.length) (k : Nat) :
    (tb (secondTaken s t) k).now = (tb s k).now ∧ (tb (secondTaken s t) k).epoch = (tb s k).epoch := by
  by_cases hk : k = t
  · rw [hk, tb_of_set_same tbs_secondTaken ht]
    exact ⟨rfl, rfl⟩
  · rw [tb_of_set_other tbs_secondTaken hk]
    exact ⟨rfl, rfl⟩

theorem afterSecond_secondTaken (ht : t < s.time.tbs.length) (d : Int) :
    afterSecond (secondTaken s t) t d = afterSecond s t d := by
  have hfrac (k : Nat) : tbFrac (secondTaken s t) k = tbFrac s k := by rw [tbFrac, tbFrac, (tb_secondTaken ht k).1]
  have hstamp : stampNow (secondTaken s t) = stampNow s := by
    unfold stampNow
    simp only [funext hfrac, (tb_secondTaken ht _).2]
    rfl
  rw [afterSecond, afterSecond, hstamp, hfrac]

theorem exec_wholeSecond {t : Fin 4} {el : Nat} (hnow : now = advance el s) (hpass : passesNow now t unitsPerSec = true)
    (hnew : (tb now t).secondAt ≠ now.time.dt) : exec (.wholeSecond t el) s = done (secondRun (secondTaken now t) t) := by
  show execWholeSecond t el s = _
  unfold execWholeSecond
  rw [← hnow]
  exact if_neg (by simp [hpass, hnew])

theorem pulsed_secondPre (s : State) (t : Nat) : Pulsed s (runClk10 t ((List.range 4).foldl (pulsePps t) s)) :=
  (pulsed_foldl (pulsed_pulsePps t) _ s).trans (pulsed_runClk10 t _)

theorem pulsed_secondRun (s : State) (t : Nat) : Pulsed s (secondRun s t) :=
  (pulsed_secondPre s t).trans (pulsed_foldl (pulsed_runWclk t) _ _)

theorem wclk_secondPre (s : State) (t : Nat) :
    (runClk10 t ((List.range 4).foldl (pulsePps t) s)).time.wclk = s.time.wclk := by
  have hpps : ((List.range 4).foldl (pulsePps t) s).time.wclk = s.time.wclk :=
    List.foldlRecOn (motive := fun v : State => v.time.wclk = s.time.wclk) _ _ rfl fun v hv k _ => by
      unfold pulsePps
      split
      · exact hv
      · exact hv
  unfold runClk10
  split
  · exact hpps
  · exact hpps

theorem pps_secondRun (hk : k < 4) (hen : rdBit s Reg.timePpsoutCfg [k] 31 = true) (hdriven : driven s false k = true)
    (htb : rd s Reg.timePpsoutCfg [k] 29 28 = t) :
    Output.edges k (afterSecond s t (signed (word s Reg.timePpsoutOfs [k]).toNat 32 * 65536)) 1
      (held 1 500000 (rd s Reg.timePpsoutCfg [k] 23 0) * 65536000) ∈ (secondRun s t).out := by
  refine ((pulsed_runClk10 t _).trans (pulsed_foldl (pulsed_runWclk t) _ _)).mem
    (mem_out_foldl (pulsed_pulsePps t) (List.mem_range.2 hk) fun u hu => ?_)
  obtain ⟨c, w, l, rfl⟩ := hu
  have hcond : (rdBit s Reg.timePpsoutCfg [k] 31 && driven s false k && rd s Reg.timePpsoutCfg [k] 29 28 == t) = true := by
    rw [hen, hdriven, htb]
    simp
  unfold pulsePps
  rw [if_pos (by exact hcond)]
  exact List.mem_cons_self

theorem clk10_secondRun (hen : rdBit s Reg.timeClk10Cfg [] 31 = true) (hreset : s.power.inReset = false)
    (htb : rd s Reg.timeClk10Cfg [] 29 28 = t) :
    Output.edges 4 (afterSecond s t (min 99 (rd s Reg.timeClk10Cfg [] 6 0) * 65536 : Nat)) 10000000 3276800 ∈ (secondRun s t).out := by
  refine (pulsed_foldl (pulsed_runWclk t) _ _).mem ?_
  have hpps := pulsed_foldl (pulsed_pulsePps t) (List.range 4) s
  generalize (List.range 4).foldl (pulsePps t) s = u at hpps
  obtain ⟨c, w, l, rfl⟩ := hpps
  have hcond : (rdBit s Reg.timeClk10Cfg [] 31 && !s.power.inReset && rd s Reg.timeClk10Cfg [] 29 28 == t) = true := by
    rw [hen, hreset, htb]
    simp
  unfold runClk10
  rw [if_pos (by exact hcond)]
  exact List.mem_cons_self

theorem wclk_secondRun (hk : k < 4) (hlen : s.time.wclk.length = 4) (hdriven : driven s true k = true)
    (htb : rd s Reg.timeWclkCfg [k] 29 28 = t) (hmute : wclkMuted s k = false) :
    (wclk (secondRun s t) k).running = true ∧ ((wclk s k).running = false ∨ (wclk s k).rephase = true →
      Output.edges (5 + k) (afterSecond s t (signed (word s Reg.timeWclkOfs [k]).toNat 32 * 65536))
        (wclkRate (rd s Reg.timeWclkCfg [k] 2 0)) (fracPerSec / (2 * wclkRate (rd s Reg.timeWclkCfg [k] 2 0))) ∈
        (secondRun s t).out) := by
  have hwclk := wclk_secondPre s t
  have hpre := pulsed_secondPre s t
  unfold secondRun
  generalize runClk10 t ((List.range 4).foldl (pulsePps t) s) = u at hwclk hpre
  obtain ⟨c, w, l, rfl⟩ := hpre
  subst hwclk
  exact runWclks_facts (s := { s with time := { s.time with clk10 := c }, out := l ++ s.out }) hk hlen hdriven htb hmute

theorem tbs_secondRun (s : State) (t : Nat) : (secondRun s t).time.tbs = s.time.tbs := by
  obtain ⟨c, w, l, hu⟩ := pulsed_secondRun s t
  rw [hu]

theorem Pulsed.onlyChanges (h : Pulsed s u) : OnlyChanges [.time, .out] s u := by
  obtain ⟨c, w, l, rfl⟩ := h
  intro p hp; cases p <;> simp_all [Part.same]

/-- Settles O29: captures and stamps by the registers they write; an output's turn changes nothing that another's reads. -/
theorem timeIsSeenOutside : Obligations.TimeIsSeenOutside := by
  unfold Obligations.TimeIsSeenOutside
  refine ⟨?_, ?_, ?_, ?_, ?_, ?_, ?_, ?_⟩
  · intro s hreach
    have hexec : exec .timeCapture s = done (captureTime s) := congrArg done (doorbell_of_reaches hreach 1 captureTime)
    obtain ⟨htbs, ⟨-, -, hns, -⟩, hwithin⟩ := captureTime_facts s
    exact does_of_all hexec hwithin.1 ⟨htbs, hns, hwithin.2⟩ fun _ _ h => h
  · intro s hquiet hoff hen hlost
    have hexec : exec .refLost s = done (refShown s true) := by
      rw [← refChange_eq (lost := true) hquiet hen hlost]
      exact congrArg done (if_neg (by rw [hoff]; decide))
    exact does_of_all hexec (within_refShown s true).1 (refShown_facts s true) fun _ _ h => h
  · intro s hquiet hoff hen hlost
    have hexec : exec .refRestored s = done (refShown s false) := by
      rw [← refChange_eq (lost := false) hquiet hen hlost]
      exact congrArg done (if_neg (by rw [hoff]; decide))
    exact does_of_all hexec (within_refShown s false).1 (refShown_facts s false) fun _ _ h => h
  · intro s k el f now hnow hquiet hoff hlen hen hf hfree hsrc
    have hexec := exec_ppsinEdge hnow hoff hen hf
    rw [edgeIn_taken hquiet hfree hsrc] at hexec
    exact doesFrom_of_all hexec (onlyChanges_putPpsin _ _ _)
      ⟨ppsin_putPpsin_same (by rw [hlen]; exact k.isLt), fun j hj => ppsin_putPpsin_other hj⟩ fun _ _ h => h
  · intro s k el f now hnow hquiet hoff hen hf hfull hsrc
    have hexec := exec_ppsinEdge hnow hoff hen hf
    rw [edgeIn_full hquiet hfull hsrc] at hexec
    exact doesFrom_of_all hexec (onlyChanges_bump _ _ _ _ _) ⟨ctr_bump_same, countersBut_bump (List.mem_singleton_self _)⟩
      fun _ _ h => h
  · intro s k hreach hlen
    have hexec : exec (.ppsinPop k) s = done (popPpsin s k) := congrArg done (doorbell_of_reaches hreach 1 _)
    exact does_of_all hexec (onlyChanges_putPpsin _ _ _)
      ⟨ppsin_putPpsin_same (by rw [hlen]; exact k.isLt), fun j hj => ppsin_putPpsin_other hj, rfl⟩ fun _ _ h => h
  · intro s t el now hnow hpass hnew htbs hwclk
    have ht : t.val < now.time.tbs.length := by rw [htbs]; exact t.isLt
    have hrun := pulsed_secondRun (secondTaken now t) t
    have hafter := afterSecond_secondTaken ht
    refine doesFrom_of_all (exec_wholeSecond hnow hpass hnew)
      (((onlyChanges_putTb now t _).append hrun.onlyChanges).mono (by decide)) ⟨?_, ?_, ?_, ?_, ?_, ?_, ?_⟩ fun _ _ h => h
    · intro k hk hen hdriven htb
      rw [← hafter]
      exact pps_secondRun hk hen hdriven htb
    · intro hen hreset htb
      rw [← hafter]
      exact clk10_secondRun hen hreset htb
    · intro k hk hdriven htb hmute
      rw [← hafter]
      exact wclk_secondRun hk hwclk hdriven htb hmute
    · obtain ⟨c, w, l, hu⟩ := hrun
      rw [hu]
      rfl
    · obtain ⟨c, w, l, hu⟩ := hrun
      rw [hu]
      exact List.suffix_append l now.out
    · rw [tb, tbs_secondRun, ← tb, tb_of_set_same tbs_secondTaken ht]
    · intro k _ hk
      rw [tb, tbs_secondRun, ← tb, tb_of_set_other tbs_secondTaken hk]
  · intro s t el now hnow hpass
    refine doesFrom_nothing ?_
    show execWholeSecond t el s = _
    unfold execWholeSecond
    rw [← hnow]
    exact if_pos (by simp [hpass])

end
end Sys2Proof.Machine

/-! PROOFS. The PTP message engine (R258, R263, R265 to R267). -/
namespace Sys2Proof.Machine

/-! ### Frames of the device's own at a free port -/

/-- Frame `o` of the device's own waits at port `p`. -/
def ownQueued (s : State) (p : Nat) (o : OwnFrame) : State := putPort s p { port s p with own := (port s p).own ++ [o] }

/-- Frame `o` of the device's own, put at port `p` and begun there. -/
def begun (s : State) (p : Nat) (o : OwnFrame) : State := beginOwn (ownQueued s p o) p o

section
variable {s now u v : State} {p t c k : Nat} {o : OwnFrame}

theorem onlyChanges_begun (s : State) (p : Nat) (o : OwnFrame) : OnlyChanges [.ports] s (begun s p o) :=
  (onlyChanges_putPort s p _).trans (onlyChanges_putPort _ p _)

theorem egressStamp_ownQueued : egressStamp (ownQueued s p o) p = egressStamp s p := rfl

theorem begins_begun : Begins (begun s p o) s p o := by
  unfold begun beginOwn
  rw [Begins, port_putPort_same, egressStamp_ownQueued]
  rfl

theorem port_ownQueued : port (ownQueued s p o) p = { port s p with own := (port s p).own ++ [o] } := port_putPort_same s p _

theorem classHeld_ownQueued {k : Nat} : classHeld (ownQueued s p o) p k = classHeld s p k := by
  rw [classHeld, port_ownQueued]
  rfl

theorem nextOwn_ownQueued (hown : (port s p).own = []) (hclass : classHeld s p o.cls = false) (hcontrol : o.isControl = false) :
    nextOwn (ownQueued s p o) p = some o := by
  rw [nextOwn, port_ownQueued, hown]
  simp [hcontrol, classHeld_ownQueued, hclass]

theorem leaveLpi_awake (h : (port s p).lpiSince = none) : leaveLpi s p = s := if_pos (by rw [h]; rfl)

/-- A free port with its link begins the frame at once where it is the next to be sent. -/
theorem sendOwn_next (hlink : linkUp s p = true) (hfree : LineFree s p) (hnext : nextOwn (ownQueued s p o) p = some o) :
    sendOwn s p o = begun s p o := by
  obtain ⟨hbusy, hown, hwake, hlpi, hcarrier⟩ := hfree
  have hbusy' : lineBusy (ownQueued s p o) p = false := by
    rw [lineBusy, port_ownQueued]
    exact hbusy
  have hcarrier' : (halfDuplex (ownQueued s p o) p && (port (ownQueued s p o) p).carrier) = false := by
    rw [port_ownQueued]
    exact hcarrier
  have hwake' : decide ((ownQueued s p o).time.dt < (port (ownQueued s p o) p).wakeAt) = false := by
    rw [port_ownQueued]
    exact decide_eq_false (Nat.not_lt.2 hwake)
  have hsend : sendOwn s p o = startOwn (ownQueued s p o) p := by
    rw [sendOwn, if_pos hlink, leaveLpi_awake hlpi]
    rfl
  rw [hsend, startOwn, hbusy', hcarrier', hwake', hnext]
  rfl

/-- A free port with its link begins the frame at once, if its class is not held. -/
theorem sendOwn_free (hlink : linkUp s p = true) (hfree : LineFree s p) (hclass : classHeld s p o.cls = false)
    (hcontrol : o.isControl = false) : sendOwn s p o = begun s p o :=
  sendOwn_next hlink hfree (nextOwn_ownQueued hfree.2.1 hclass hcontrol)

/-! ### The engine's own changes -/

/-- Nothing changes but contexts' states, a generator's draws and the free values spent. -/
def Engaged (s u : State) : Prop := ∃ x d n, u = { s with time := { s.time with ptp := x }, draws := d, freeCtr := n }

theorem Engaged.refl (s : State) : Engaged s s := ⟨s.time.ptp, s.draws, s.freeCtr, rfl⟩

theorem Engaged.trans (h : Engaged s u) (h' : Engaged u v) : Engaged s v := by
  obtain ⟨x, d, n, rfl⟩ := h
  obtain ⟨x', d', n', rfl⟩ := h'
  exact ⟨x', d', n', rfl⟩

theorem engaged_putPtp (s : State) (c : Nat) (x : PtpState) : Engaged s (putPtp s c x) := ⟨_, s.draws, s.freeCtr, rfl⟩

theorem engaged_spend (s : State) : Engaged s (spend s) := ⟨s.time.ptp, s.draws, _, rfl⟩

theorem engaged_draw (s : State) (k : Nat) : Engaged s (draw s k).1 := ⟨s.time.ptp, _, s.freeCtr, rfl⟩

theorem Engaged.lineFree (h : Engaged s u) (hfree : LineFree s p) : LineFree u p := by
  obtain ⟨x, d, n, rfl⟩ := h
  exact hfree

theorem Engaged.linkUp_eq (h : Engaged s u) : linkUp u p = linkUp s p := by
  obtain ⟨x, d, n, rfl⟩ := h
  rfl

theorem Engaged.classHeld_eq (h : Engaged s u) : classHeld u p k = classHeld s p k := by
  obtain ⟨x, d, n, rfl⟩ := h
  rfl

theorem Engaged.portGroup_eq (h : Engaged s u) : portGroup u p = portGroup s p := by
  obtain ⟨x, d, n, rfl⟩ := h
  rfl

theorem Engaged.ptpCfg_eq (h : Engaged s u) : ptpCfg u p t = ptpCfg s p t := by
  obtain ⟨x, d, n, rfl⟩ := h
  rfl

theorem Engaged.begins (h : Engaged s u) (hbegin : Begins v u p o) : Begins v s p o := by
  obtain ⟨x, d, n, rfl⟩ := h
  exact hbegin

theorem Engaged.ownMessage_eq (h : Engaged s u) (hn : u.freeCtr = s.freeCtr) (ty seq : Nat) (two : Bool) (corr keep : Int)
    (body : List Byte) : (ownMessage u p t ty seq two corr keep body).2 = (ownMessage s p t ty seq two corr keep body).2 := by
  obtain ⟨x, d, n, rfl⟩ := h
  subst hn
  rfl

theorem ptp_putPtp_same {x : PtpState} : ptp (putPtp s c x) c = x := get_set_same

theorem ptp_putPtp_other {x : PtpState} (h : k ≠ c) : ptp (putPtp s c x) k = ptp s k := get_set_other h

theorem ptp_begun : ptp (begun s p o) k = ptp s k := rfl

theorem ptp_spend : ptp (spend s) k = ptp s k := rfl

theorem onlyChanges_putPtp (s : State) (c : Nat) (x : PtpState) : OnlyChanges [.time] s (putPtp s c x) := by
  intro q hq; cases q <;> simp_all [Part.same, putPtp]

/-- A message of a context that may send, whose line port is free. -/
theorem sendMessage_free {ty seq : Nat} {two : Bool} {corr keep : Int} {body : List Byte} (hengaged : Engaged now s)
    (hsend : maySend now p t = true) (hgroup : portGroup now p = none) (hfree : LineFree now p)
    (hclass : classHeld now p (fld (ptpCfg now p t) 202 200) = false) :
    sendMessage s p t ty seq two corr keep body = begun (spend s) p (ownMessage s p t ty seq two corr keep body).2 := by
  have hspent := hengaged.trans (engaged_spend s)
  have hlink : linkUp (spend s) p = true := by
    rw [hspent.linkUp_eq]
    exact (Bool.and_eq_true _ _ ▸ hsend).2
  have hheld : classHeld (spend s) p (ownMessage s p t ty seq two corr keep body).2.cls = false := by
    rw [hspent.classHeld_eq, ownMessage, hengaged.ptpCfg_eq]
    exact hclass
  have hnone : portGroup (spend s) p = none := hspent.portGroup_eq.trans hgroup
  rw [sendMessage, ← sendOwn_free hlink (hspent.lineFree hfree) hheld rfl]
  show sendEngine (spend s) p _ = _
  rw [sendEngine, hnone]
  rfl

/-- A message sent by a context whose state becomes `x` first. -/
def sentWith (s : State) (c : Nat) (x : PtpState) (p : Nat) (o : OwnFrame) : State := begun (spend (putPtp s c x)) p o

theorem onlyChanges_sentWith (s : State) (c : Nat) (x : PtpState) (p : Nat) (o : OwnFrame) :
    OnlyChanges [.time, .ports, .freeCtr] s (sentWith s c x p o) :=
  ((onlyChanges_putPtp s c x).append ((onlyChanges_spend _).append (onlyChanges_begun _ p o))).mono (by decide)

theorem ptp_sentWith_same {x : PtpState} : ptp (sentWith s c x p o) c = x := by
  rw [sentWith, ptp_begun, ptp_spend, ptp_putPtp_same]

theorem ptp_sentWith_other {x : PtpState} (h : k ≠ c) : ptp (sentWith s c x p o) k = ptp s k := by
  rw [sentWith, ptp_begun, ptp_spend, ptp_putPtp_other h]

theorem begins_sentWith {x : PtpState} : Begins (sentWith s c x p o) s p o :=
  ((engaged_putPtp s c x).trans (engaged_spend _)).begins begins_begun

/-- A context's message as its state becomes `x`. -/
theorem sendMessage_with {x : PtpState} {ty seq : Nat} {two : Bool} {corr keep : Int} {body : List Byte} (hengaged : Engaged now s)
    (hsend : maySend now p t = true) (hgroup : portGroup now p = none) (hfree : LineFree now p)
    (hclass : classHeld now p (fld (ptpCfg now p t) 202 200) = false) :
    sendMessage (putPtp s c x) p t ty seq two corr keep body =
      sentWith s c x p (ownMessage s p t ty seq two corr keep body).2 := by
  rw [sendMessage_free (hengaged.trans (engaged_putPtp s c x)) hsend hgroup hfree hclass,
    (engaged_putPtp s c x).ownMessage_eq rfl]
  rfl

/-- A context after its Sync at tick `dt`. -/
def PtpState.synced (x : PtpState) (dt : Nat) : PtpState :=
  { x with syncSeq := (x.syncSeq + 1) % 65536, followUp := none, syncSentAt := some dt }

theorem sendSync_free {two : Bool} (hsend : maySend now p t = true) (hgroup : portGroup now p = none) (hfree : LineFree now p)
    (hclass : classHeld now p (fld (ptpCfg now p t) 202 200) = false) :
    sendSync now p t two = sentWith now (p * 4 + t) ((ptp now (p * 4 + t)).synced now.time.dt) p
      (ownMessage now p t 0 (ptp now (p * 4 + t)).syncSeq two 0 0 (timestampBytes 0)).2 :=
  sendMessage_with (.refl now) hsend hgroup hfree hclass

/-! ### A frame that has left -/

/-- Nothing changes but ports, what is counted below the PTP counters, and no frame that a port is sending. -/
def MacCounted (s u : State) : Prop :=
  OnlyChanges [.counters, .ports] s u ∧ (∀ a, 0x5820000 ≤ a → get 0 u.regs.counters a = get 0 s.regs.counters a) ∧
    ∀ q, (port u q).ownNow = (port s q).ownNow

theorem MacCounted.refl (s : State) : MacCounted s s := ⟨.refl _ s, fun _ _ => rfl, fun _ => rfl⟩

theorem MacCounted.trans (h : MacCounted s u) (h' : MacCounted u v) : MacCounted s v :=
  ⟨h.1.trans h'.1, fun a ha => (h'.2.1 a ha).trans (h.2.1 a ha), fun q => (h'.2.2 q).trans (h.2.2 q)⟩

theorem macCounted_putPort {x : Port} (h : x.ownNow = (port s p).ownNow) : MacCounted s (putPort s p x) := by
  refine ⟨(onlyChanges_putPort s p x).mono (by simp), fun _ _ => rfl, fun q => ?_⟩
  by_cases hq : q = p
  · rw [hq, port_putPort_same, h]
  · rw [port_putPort_other hq]

theorem macCounted_bump {g : CtrGroup} {ix : List Nat} {i : Nat} (s : State) (n : Nat) (h : g.addr ix i < 0x5820000) :
    MacCounted s (bump s g ix i n) :=
  ⟨(onlyChanges_bump s g ix i n).mono (by simp), fun a ha => get_set_other (by omega), fun _ => rfl⟩

/-- The MAC counters of front ports lie below the PTP counters. -/
theorem hportCounter_below {i : Nat} (hp : p < 48) (hi : i < 64) : Ctr.hport.addr [p] i < 0x5820000 := by
  have haddr : Ctr.hport.addr [p] i = 0x104000 + (p * 0x10000 + 0) + 8 * i := rfl
  omega

theorem cportCounter_below {i : Nat} (hc : c < 32) (hi : i < 64) : Ctr.cport.addr [c] i < 0x5820000 := by
  have haddr : Ctr.cport.addr [c] i = 0x404000 + (c * 0x10000 + 0) + 8 * i := rfl
  omega

theorem macCounted_countPort (s : State) (p n : Nat) {i : Nat} (hi : i < 64) : MacCounted s (countPort s p i n) := by
  unfold countPort
  split
  · exact .refl s
  · split
    · next h => exact macCounted_bump s n (hportCounter_below h hi)
    · split
      · exact macCounted_bump s n (cportCounter_below (by omega) hi)
      · exact .refl s

theorem macCounted_countTx (s : State) (p n da : Nat) : MacCounted s (countTx s p n da true) := by
  refine ((macCounted_countPort s p n (by decide)).trans (macCounted_countPort _ p 1 (by decide))).trans
    (macCounted_countPort _ p 1 ?_)
  split
  · decide
  · split <;> decide

theorem macCounted_countCollisions (s : State) (p : Nat) : MacCounted s (countCollisions s p) := by
  unfold countCollisions
  extract_lets n
  split
  · exact .refl s
  · have hi : (if n = 1 then 35 else 36) < 64 := by split <;> decide
    have hport : MacCounted s (putPort s p { port s p with collisions := 0 }) := macCounted_putPort rfl
    exact hport.trans (macCounted_countPort _ p 1 hi)

theorem macCounted_keepGap (s : State) (p start n : Nat) : MacCounted s (keepGap s p start n) := by
  unfold keepGap
  split
  · exact macCounted_putPort rfl
  · exact .refl s

/-- Port `p` as its frame of the device's own has left. -/
def ownCleared (s : State) (p : Nat) : State := putPort s p { port s p with ownNow := none }

/-- A frame of the device's own that is no control frame, once it is counted and has left. -/
def ownLeft (s : State) (p : Nat) (z : OwnSending) : State :=
  keepGap (sendBytes (countCollisions (countTx (ownCleared s p) p z.wire.length (field z.wire 0 6) true) p) p false z.stamp z.wire)
    p z.startedAt z.wire.length

theorem ownSent_sync {z : OwnSending} {seq k cls : Nat} {udp two : Bool} {corr : Int} {b : List Byte}
    (hown : z.own = ⟨.ptp c 0 seq k udp two corr, cls, b⟩) : ownSent s p z =
      bump (putPtp (ownLeft s p z) c { ptp (ownLeft s p z) c with followUp := if two then some (seq, z.stamp) else none })
        Ctr.ptp [c] 0 1 := by
  unfold ownSent
  simp only [hown]
  rfl

theorem offline_of_onlyChanges {ps : List Part} (h : OnlyChanges ps s u) (hp : Part.inForce ∉ ps) : offline u = offline s := by
  have hregs : u.regs.inForce = s.regs.inForce := h .inForce hp
  rw [offline, offline, rerunState, rerunState, rd, rd, word, word, hregs]

theorem ptp_of_onlyChanges {ps : List Part} (h : OnlyChanges ps s u) (hp : Part.time ∉ ps) (k : Nat) : ptp u k = ptp s k := by
  obtain ⟨-, -, -, -, -, -, -, hptp, -⟩ := h .time hp
  rw [ptp, ptp, hptp]

theorem sendBytes_line {st : Stamp} {bs : List Byte} (hp : p < 80) (hoff : offline s = false) :
    sendBytes s p false st bs = emit (digestSent s p false st bs) (.frame p st bs) := by
  have hline : onLine p = true := by simp [onLine, hp]
  have hoff' : offline (digestSent s p false st bs) = false := hoff
  rw [sendBytes, hline, if_pos rfl, emitLine, hoff']
  rfl

/-- What a frame of the device's own leaves as it has left a line port outside rerun mode. -/
theorem ownLeft_facts {z : OwnSending} (hp : p < 80) (hoff : offline s = false) :
    (port (ownLeft s p z) p).ownNow = none ∧ (∀ k, ptp (ownLeft s p z) k = ptp s k) ∧
      (ownLeft s p z).out = .frame p z.stamp z.wire :: s.out ∧
      ∀ a, 0x5820000 ≤ a → get 0 (ownLeft s p z).regs.counters a = get 0 s.regs.counters a := by
  have hcounted := (macCounted_countTx (ownCleared s p) p z.wire.length (field z.wire 0 6)).trans
    (macCounted_countCollisions _ p)
  have hclear : OnlyChanges [.ports] s (ownCleared s p) := onlyChanges_putPort s p _
  have hnone : (port (ownCleared s p) p).ownNow = none := by rw [ownCleared, port_putPort_same]
  unfold ownLeft
  generalize countCollisions (countTx (ownCleared s p) p z.wire.length (field z.wire 0 6) true) p = u at hcounted
  obtain ⟨honly, hctr, hport⟩ := hcounted
  have hu := hclear.append honly
  have hgap := macCounted_keepGap (sendBytes u p false z.stamp z.wire) p z.startedAt z.wire.length
  rw [sendBytes_line hp ((offline_of_onlyChanges hu (by decide)).trans hoff)] at hgap ⊢
  generalize keepGap (emit (digestSent u p false z.stamp z.wire) (.frame p z.stamp z.wire)) p z.startedAt z.wire.length = v at hgap
  obtain ⟨hgonly, hgctr, hgport⟩ := hgap
  refine ⟨(hgport p).trans ((hport p).trans hnone), ?_, ?_, fun a ha => (hgctr a ha).trans (hctr a ha)⟩
  · intro k
    exact (ptp_of_onlyChanges hgonly (by decide) k).trans (ptp_of_onlyChanges hu (by decide) k)
  · have hout : v.out = .frame p z.stamp z.wire :: u.out := hgonly .out (by decide)
    rw [hout, show u.out = s.out from hu .out (by decide)]

theorem ptpCounter_above (c i : Nat) : 0x5820000 ≤ Ctr.ptp.addr [c] i := by
  have haddr : Ctr.ptp.addr [c] i = 0x5820000 + (c * 128 + 0) + 8 * i := rfl
  omega

/-! ### Commands -/

theorem maySend_on (h : maySend s p t = true) : ptpOn (ptpCfg s p t) = true := (Bool.and_eq_true _ _ ▸ h).1

theorem exec_ptpContextWrite {req : Requester} {p : Fin 80} {t : Fin 4} {cfg : BitVec 256}
    (h : Reaches s req (0x5800020 + (p * 4 + t) * 64)) :
    exec (.ptpContextWrite req p t cfg) s = done (ptpContextWrite s req p t cfg) :=
  congrArg done (entryDoorbell_eq (by omega) h _ _)

theorem ptpContextWrite_waits {req : Requester} {cfg : BitVec 256} (halone : Alone s) (h : ptpRefusal s p t cfg = 0) :
    ptpContextWrite s req p t cfg =
      { s with time := { s.time with ctxWait := put s.time.ctxWait (p * 4 + t) (cfg &&& ptpMask, s.time.dt) } } := by
  rw [ptpContextWrite, standsBy_of_alone halone, if_neg (by decide), h]
  exact mirror_of_unpaired (s := { s with
    time := { s.time with ctxWait := put s.time.ctxWait (p * 4 + t) (cfg &&& ptpMask, s.time.dt) } }) halone.2 _ _ _

/-- A context write refused for reason `r`. -/
def contextRefused (s : State) (p t r : Nat) : State :=
  putWord (countEvent s Reg.timeRefuseCnt []) Reg.timeRefuseLast [] (BitVec.ofNat 32 (r * 2 ^ 16 + p * 4 + t))

theorem ptpContextWrite_refused {req : Requester} {cfg : BitVec 256} (halone : Alone s) (h : ptpRefusal s p t cfg ≠ 0) :
    ptpContextWrite s req p t cfg = contextRefused s p t (ptpRefusal s p t cfg) := by
  obtain ⟨n, hn⟩ := Nat.exists_eq_succ_of_ne_zero h
  rw [ptpContextWrite, standsBy_of_alone halone, if_neg (by decide), hn]
  rfl

theorem within_contextRefused (s : State) (p t r : Nat) :
    Within [.inForce] [Reg.timeRefuseCnt.addr [], Reg.timeRefuseLast.addr []] s (contextRefused s p t r) :=
  ((within_countEvent s _ _).append (within_putWord _ _ _ _)).mono (by decide) (by simp)

theorem count_contextRefused {r : Nat} :
    word (contextRefused s p t r) Reg.timeRefuseCnt [] = word s Reg.timeRefuseCnt [] + 1 := by
  rw [contextRefused, word_putWord_other (by decide), countEvent, word_putWord_same]

theorem onlyChanges_ctxWait (s : State) (x : Sparse (BitVec 256 × Nat)) :
    OnlyChanges [.time] s { s with time := { s.time with ctxWait := x } } := by
  intro q hq; cases q <;> simp_all [Part.same]

theorem exec_syncTx {p : Fin 80} {t : Fin 4} {el : Nat} {cfg : BitVec 256} (hnow : now = advance el s)
    (hcfg : ptpCfg now p t = cfg) (hsend : maySend now p t = true) (hrole : ptpRole cfg = 1)
    (hpass : passesNow now t (syncTicks cfg * (5 * 4096000000000)) = true)
    (hnew : (ptp now (p.val * 4 + t.val)).syncSentAt ≠ some now.time.dt) (hrelay : flag cfg 248 = false ∨ relaying now t = false) :
    exec (.syncTx p t el) s = done (sendSync now p t (!flag cfg 249)) := by
  show execSyncTx p t el s = _
  unfold execSyncTx
  have hno : (!(flag cfg 248 && relaying now t)) = true := by rcases hrelay with h | h <;> simp [h]
  rw [← hnow]
  simp only [hcfg, hsend, hrole, hpass, hno, bne_iff_ne.2 hnew, beq_self_eq_true, Bool.and_self, if_true]

theorem exec_followUpTx {p : Fin 80} {t : Fin 4} {el c seq : Nat} {cfg : BitVec 256} {sent : Stamp} (hnow : now = advance el s)
    (hc : p.val * 4 + t.val = c) (hcfg : ptpCfg now p t = cfg) (hfollow : (ptp now c).followUp = some (seq, sent))
    (hrelay : (ptp now c).relay = none) (hsend : maySend now p t = true) (hin : dtFrac now ≤ sent.dt + fracPerMs) :
    exec (.followUpTx p t el) s = done (sendMessage (putPtp (spend now) c { ptp now c with followUp := none }) p t 8 seq false
      (subNano (sent.tb.getD t 0)) 0
      (timestampBytes (sent.tb.getD t 0) ++ if flag cfg 248 then followUpTlv 0 (freeWord now) else [])) := by
  show execFollowUpTx p t el s = _
  have hin' : ¬ sent.dt + fracPerMs < dtFrac now := Nat.not_lt.2 hin
  unfold execFollowUpTx
  rw [← hnow]
  simp only [hc, hcfg, hfollow, hrelay, hsend, hin', Bool.not_true, Bool.false_eq_true, or_self, if_false, Option.isSome_none]

theorem exec_relaySyncTx {p : Fin 80} {t : Fin 4} {el : Nat} {cfg : BitVec 256} (hnow : now = advance el s)
    (hcfg : ptpCfg now p t = cfg) (hrelay : (ptp now (p.val * 4 + t.val)).relay.isSome = true)
    (hnone : (ptp now (p.val * 4 + t.val)).syncSentAt = none)
    (hin : now.time.dt ≤ (ptp now (p.val * 4 + t.val)).relayAt + 8000000) (hprofile : flag cfg 248 = true) (hrole : ptpRole cfg = 1)
    (hsend : maySend now p t = true) : exec (.relaySyncTx p t el) s = done (sendSync now p t true) := by
  show execRelaySyncTx p t el s = _
  unfold execRelaySyncTx
  rw [← hnow]
  simp only [hcfg, hrelay, hnone, hin, hprofile, hrole, hsend, beq_self_eq_true, Option.isNone_none, decide_true, Bool.and_self,
    if_true]

theorem exec_pdelayReqTx {p : Fin 80} {t : Fin 4} {el c : Nat} {cfg : BitVec 256} (hnow : now = advance el s)
    (hc : p.val * 4 + t.val = c) (hcfg : ptpCfg now p t = cfg) (hrole : ptpRole cfg ≠ 0) (hmech : flag cfg 250 = true)
    (hdue : ∀ a, (ptp now c).pdelaySentAt = some a → a + delayTicks cfg ≤ now.time.dt) (hsend : maySend now p t = true) :
    exec (.pdelayReqTx p t el) s = done (sendMessage (putPtp (spend now) c { ptp now c with
      pdelaySeq := ((ptp now c).pdelaySeq + 1) % 65536, pdelayReq := none, pdelayResp := none, pdelaySentAt := some now.time.dt })
      p t 2 (ptp now c).pdelaySeq false 0 0 (toBytes 10 (freeWord now).toNat ++ toBytes 10 0)) := by
  show execPdelayReqTx p t el s = _
  have hall : ((ptp now c).pdelaySentAt.all fun a => decide (a + delayTicks cfg ≤ now.time.dt)) = true := by
    simpa [Option.all_eq_true] using hdue
  unfold execPdelayReqTx
  rw [← hnow]
  simp only [hc, hcfg, hsend, hmech, hall, bne_iff_ne.2 hrole, Bool.and_self, if_true]

/-- The state once the next Delay_Req of context `c` is drawn. -/
def delayArmed (s : State) (c : Nat) (cfg : BitVec 256) : State :=
  putPtp (draw s (32 + c)).1 c
    { ptp (draw s (32 + c)).1 c with delayAt := some (s.time.dt + (draw s (32 + c)).2 % (2 * delayTicks cfg + 1)) }

theorem armDelay_eq {cfg : BitVec 256} (hcfg : get 0 s.time.ctx c = cfg) (hon : ptpOn cfg = true) (hrole : ptpRole cfg = 2)
    (hmech : flag cfg 250 = false) : armDelay s c = delayArmed s c cfg := by
  unfold armDelay
  rw [hcfg, if_pos ⟨hon, hrole, by rw [hmech]; rfl⟩]
  rfl

theorem engaged_delayArmed (s : State) (c : Nat) (cfg : BitVec 256) : Engaged s (delayArmed s c cfg) :=
  (engaged_draw s _).trans (engaged_putPtp _ c _)

theorem onlyChanges_draw (s : State) (k : Nat) : OnlyChanges [.draws] s (draw s k).1 := by
  intro q hq; cases q <;> simp_all [Part.same, draw]

theorem onlyChanges_delayArmed (s : State) (c : Nat) (cfg : BitVec 256) : OnlyChanges [.draws, .time] s (delayArmed s c cfg) :=
  (onlyChanges_draw s _).append (onlyChanges_putPtp _ c _)

theorem ptp_draw : ptp (draw s k).1 c = ptp s c := rfl

theorem ptp_delayArmed_same {cfg : BitVec 256} : ptp (delayArmed s c cfg) c =
    { ptp s c with delayAt := some (s.time.dt + (draw s (32 + c)).2 % (2 * delayTicks cfg + 1)) } := by
  rw [delayArmed, ptp_putPtp_same, ptp_draw]

theorem ptp_delayArmed_other {cfg : BitVec 256} (h : k ≠ c) : ptp (delayArmed s c cfg) k = ptp s k := by
  rw [delayArmed, ptp_putPtp_other h, ptp_draw]

theorem exec_delayReqTx {p : Fin 80} {t : Fin 4} {el c : Nat} {cfg : BitVec 256} (hnow : now = advance el s)
    (hc : p.val * 4 + t.val = c) (hcfg : get 0 now.time.ctx c = cfg)
    (hdue : ((ptp now c).delayAt.any fun a => decide (a ≤ now.time.dt)) = true) (hon : ptpOn cfg = true) (hrole : ptpRole cfg = 2)
    (hmech : flag cfg 250 = false) (hsend : maySend (delayArmed now c cfg) p t = true) :
    exec (.delayReqTx p t el) s = done (sendMessage (putPtp (spend (delayArmed now c cfg)) c { ptp (delayArmed now c cfg) c with
      delaySeq := ((ptp now c).delaySeq + 1) % 65536, delayReq := none })
      p t 1 (ptp now c).delaySeq false 0 0 (toBytes 10 (freeWord (delayArmed now c cfg)).toNat)) := by
  show execDelayReqTx p t el s = _
  unfold execDelayReqTx
  rw [← hnow]
  simp only [hc, hdue, armDelay_eq hcfg hon hrole hmech, hsend, if_true]

theorem onlyChanges_spentWith (s : State) (c : Nat) (x : PtpState) (p : Nat) (o : OwnFrame) :
    OnlyChanges [.time, .ports, .freeCtr] s (sentWith (spend s) c x p o) :=
  ((onlyChanges_spend s).append (onlyChanges_sentWith _ c x p o)).mono (by decide)

theorem onlyChanges_records (s : State) (x : Sparse (List TcRecord)) :
    OnlyChanges [.time] s { s with time := { s.time with records := x } } := by
  intro q hq; cases q <;> simp_all [Part.same]

theorem endOwn_left {z : OwnSending} (hz : (port s p).ownNow = some z) (hback : (port s p).backingOff = none)
    (hend : lineEnd s p z.startedAt z.wire.length ≤ s.time.dt) : endOwn s p = (ownSent s p z, true) := by
  have hend' : decide (s.time.dt < lineEnd s p z.startedAt z.wire.length) = false := decide_eq_false (Nat.not_lt.2 hend)
  unfold endOwn
  rw [hz]
  simp only [hback, hend', Option.isSome_none, Bool.or_self, Bool.false_eq_true, if_false]

/-- Settles O30: a context's message goes to its free port and begins there; what leaves counts at its context. -/
theorem ptpMessagesLeave : Obligations.PtpMessagesLeave := by
  unfold Obligations.PtpMessagesLeave
  refine ⟨?_, ?_, ?_, ?_, ?_, ?_, ?_, ?_, ?_, ?_⟩
  · intro s req p t cfg hreach halone hok
    have hexec := exec_ptpContextWrite (cfg := cfg) hreach
    rw [ptpContextWrite_waits halone hok] at hexec
    exact does_of_all hexec (onlyChanges_ctxWait s _) rfl fun _ _ h => h
  · intro s req p t cfg hreach halone hbad
    have hexec := exec_ptpContextWrite (cfg := cfg) hreach
    rw [ptpContextWrite_refused halone hbad] at hexec
    exact does_of_all hexec (within_contextRefused s _ _ _).1
      ⟨count_contextRefused, word_putWord_same, (within_contextRefused s _ _ _).2⟩ fun _ _ h => h
  · intro s p t el c cfg now hnow hc hcfg hsend hrole hpass hnew hrelay hgroup hfree hclass
    subst hc
    have hexec := exec_syncTx hnow hcfg hsend hrole hpass hnew hrelay
    rw [sendSync_free hsend hgroup hfree (by rw [hcfg]; exact hclass)] at hexec
    exact doesFrom_of_all hexec (onlyChanges_sentWith now _ _ _ _)
      ⟨ptp_sentWith_same, fun k hk => ptp_sentWith_other hk, begins_sentWith⟩ fun _ _ h => h
  · intro s p t el c cfg seq sent now hnow hc hcfg hfollow hrelay hsend hin hgroup hfree hclass
    have hexec := exec_followUpTx hnow hc hcfg hfollow hrelay hsend hin
    rw [sendMessage_with (engaged_spend now) hsend hgroup hfree (by rw [hcfg]; exact hclass)] at hexec
    exact doesFrom_of_all hexec (onlyChanges_spentWith now _ _ _ _)
      ⟨ptp_sentWith_same, fun k hk => ptp_sentWith_other hk, (engaged_spend now).begins begins_sentWith⟩ fun _ _ h => h
  · intro s p t el c cfg now hnow hc hcfg hrelay hnone hin hprofile hrole hsend hgroup hfree hclass
    subst hc
    have hexec := exec_relaySyncTx hnow hcfg hrelay hnone hin hprofile hrole hsend
    rw [sendSync_free hsend hgroup hfree (by rw [hcfg]; exact hclass)] at hexec
    exact doesFrom_of_all hexec (onlyChanges_sentWith now _ _ _ _) ⟨ptp_sentWith_same, begins_sentWith⟩ fun _ _ h => h
  · intro s p t el c cfg now hnow hc hcfg hget hdue hrole hmech hsend hgroup hfree hclass
    have hon : ptpOn cfg = true := hcfg ▸ maySend_on hsend
    have harmed := engaged_delayArmed now c cfg
    have hsend' : maySend (delayArmed now c cfg) p t = true := by
      rw [maySend, harmed.ptpCfg_eq, harmed.linkUp_eq]
      exact hsend
    have hexec := exec_delayReqTx hnow hc hget hdue hon hrole hmech hsend'
    have hspent := harmed.trans (engaged_spend (delayArmed now c cfg))
    rw [sendMessage_with hspent hsend hgroup hfree (by rw [hcfg]; exact hclass)] at hexec
    refine doesFrom_of_all hexec
      (((onlyChanges_delayArmed now c cfg).append (onlyChanges_spentWith _ c _ _ _)).mono (by decide))
      ⟨?_, ?_, ?_, ?_, ?_⟩ fun _ _ h => h
    · rw [ptp_sentWith_same]
    · rw [ptp_sentWith_same]
    · intro k hk
      rw [ptp_sentWith_other hk, ptp_spend, ptp_delayArmed_other hk]
    · refine ⟨(draw now (32 + c)).2 % (2 * delayTicks cfg + 1), Nat.lt_succ_iff.1 (Nat.mod_lt _ (Nat.succ_pos _)), ?_⟩
      rw [ptp_sentWith_same, ptp_delayArmed_same]
    · refine ⟨_, ?_, hspent.begins begins_sentWith⟩
      rw [ownMessage, hspent.ptpCfg_eq, hcfg, hc]
  · intro s p t el c cfg now hnow hc hcfg hrole hmech hdue hsend hgroup hfree hclass
    have hexec := exec_pdelayReqTx hnow hc hcfg hrole hmech hdue hsend
    rw [sendMessage_with (engaged_spend now) hsend hgroup hfree (by rw [hcfg]; exact hclass)] at hexec
    refine doesFrom_of_all hexec (onlyChanges_spentWith now _ _ _ _)
      ⟨ptp_sentWith_same, _, ?_, (engaged_spend now).begins begins_sentWith⟩ fun _ _ h => h
    rw [ownMessage, (engaged_spend now).ptpCfg_eq, hcfg, hc]
  · intro s p z c seq k udp two corr cls b u hp hoff hz hown hback hend hu
    obtain ⟨hnone, hptp, hout, hctr⟩ := ownLeft_facts (z := z) hp hoff
    rw [endOwn_left hz hback hend, ownSent_sync hown] at hu
    rw [endOwn_left hz hback hend, hu]
    refine ⟨rfl, hnone, ?_, fun j hj => ?_, ?_, hout⟩
    · exact ptp_putPtp_same.trans (by rw [hptp])
    · exact (ptp_putPtp_other hj).trans (hptp j)
    · refine ctr_bump_same.trans ?_
      have hsame : ctr (ownLeft s p z) Ctr.ptp [c] 0 = ctr s Ctr.ptp [c] 0 := hctr _ (ptpCounter_above c 0)
      rw [← hsame]
      rfl
  · intro s p t c h hc hwait hlate
    have hexec : exec (.followUpTimeout p t) s = done (bump (putPtp s c { ptp s c with waiting := none }) Ctr.ptp [c] 6 1) := by
      show execFollowUpTimeout p t s = _
      unfold execFollowUpTimeout
      simp only [hc, hwait, hlate, if_true]
      rfl
    refine does_of_all hexec ((onlyChanges_putPtp s c _).append (onlyChanges_bump _ _ _ _ _))
      ⟨ptp_putPtp_same, fun k hk => ptp_putPtp_other hk, ctr_bump_same, ?_⟩ fun _ _ h => h
    exact (countersBut_of_eq rfl).trans (countersBut_bump (List.mem_singleton_self _))
  · intro s p
    have hexec : exec (.tcRecordLapse p) s =
      done { s with time := { s.time with records := set [] s.time.records p (tcRecords s p) } } := rfl
    exact does_of_all hexec (onlyChanges_records s _) ⟨get_set_same, fun q hq => get_set_other hq, rfl⟩ fun _ _ h => h

end
end Sys2Proof.Machine

/-! PROOFS. Commands of ACC_JOB_CMD and their apply samples (R293 to R299, R302 to R304). -/
namespace Sys2Proof.Machine

/-! ### Changes beside the jobs -/

/-- Nothing changes but what Accord's engines hold beside its jobs and the descriptors in force. -/
def AccSide (s u : State) : Prop := ∃ x : Acc, u = { s with acc := x } ∧ x.jobs = s.acc.jobs ∧ x.inForce = s.acc.inForce

section
variable {s now u v : State} {j k a e : Nat} {d : AccDesc} {x : Job} {c : JobCmd} {req : Requester} {data : Word}

theorem AccSide.refl (s : State) : AccSide s s := ⟨s.acc, rfl, rfl, rfl⟩

theorem AccSide.trans (h : AccSide s u) (h' : AccSide u v) : AccSide s v := by
  obtain ⟨x, rfl, hjobs, hforce⟩ := h
  obtain ⟨y, rfl, hjobs', hforce'⟩ := h'
  exact ⟨y, rfl, hjobs'.trans hjobs, hforce'.trans hforce⟩

theorem AccSide.foldl {α : Type} {f : State → α → State} (h : ∀ t y, AccSide t (f t y)) (l : List α) (s : State) :
    AccSide s (l.foldl f s) :=
  List.foldlRecOn (motive := AccSide s) l f (.refl s) fun t ht y _ => ht.trans (h t y)

theorem AccSide.onlyChanges (h : AccSide s u) : OnlyChanges [.acc] s u := by
  obtain ⟨x, rfl, -⟩ := h
  exact onlyChanges_of_acc s x

theorem AccSide.job_eq (h : AccSide s u) (k : Nat) : job u k = job s k := by
  obtain ⟨x, rfl, hjobs, -⟩ := h
  rw [job, job, hjobs]

theorem AccSide.inForce_eq (h : AccSide s u) : u.acc.inForce = s.acc.inForce := by
  obtain ⟨x, rfl, -, hforce⟩ := h
  exact hforce

theorem accSide_changeRoutes (s : State) (d : AccDesc) (j a : Nat) : AccSide s (changeRoutes s d j a) := by
  refine AccSide.foldl (fun t e => ?_) _ s
  exact ⟨_, rfl, rfl, rfl⟩

theorem accSide_pruneRoutes (s : State) (d : AccDesc) (j : Nat) : AccSide s (pruneRoutes s d j) := ⟨_, rfl, rfl, rfl⟩

theorem accSide_forgetFilters (s : State) (d : AccDesc) (j : Nat) : AccSide s (forgetFilters s d j) := ⟨_, rfl, rfl, rfl⟩

theorem accSide_forgetLine (s : State) (base n : Nat) : AccSide s (forgetLine s base n) := ⟨_, rfl, rfl, rfl⟩

theorem accSide_continueAt (s : State) (j a : Nat) (ahead : Bool) : AccSide s (continueAt s j a false ahead) := by
  refine AccSide.foldl (fun t e => ?_) _ s
  exact ⟨_, rfl, rfl, rfl⟩

theorem job_putJob_same : job (putJob s j x) j = x := get_set_same

theorem job_putJob_other (h : k ≠ j) : job (putJob s j x) k = job s k := get_set_other h

/-! ### The command register -/

theorem jobCmd_immediate : Reg.accJobCmd.Immediate [] := immediate_of_plain (by decide) (by decide +kernel) (by decide)

/-- ACC_JOB_CMD as written. -/
def jobCommanded (s : State) (req : Requester) (data : Word) : State := immediate s req Reg.accJobCmd [] data

theorem stage_jobCmd (data : Word) : stage s req Reg.accJobCmd [] 0xFFFFFFFF data = jobCommanded s req data :=
  stage_classless jobCmd_immediate (by decide) (by rw [taken_of_plain (by decide)]; decide)

theorem within_jobCommanded (s : State) (req : Requester) (data : Word) :
    Within [.staged, .inForce] [Reg.accJobCmd.addr []] s (jobCommanded s req data) := within_immediate s req _ _ _

theorem jobCommanded_regs (s : State) (req : Requester) (data : Word) : ∃ r, jobCommanded s req data = { s with regs := r } :=
  ⟨_, rfl⟩

theorem acc_jobCommanded : (jobCommanded s req data).acc = s.acc := rfl

theorem jobWord_toNat {op : Nat} (hop : op < 3) (hj : j < 1024) (atTime : Bool) :
    (jobWord op j atTime).toNat = 2 ^ 31 + op * 2 ^ 28 + bnat atTime * 2 ^ 27 + j ∧ bnat atTime ≤ 1 := by
  have hbit : bnat atTime ≤ 1 := by cases atTime <;> decide
  rw [jobWord, BitVec.toNat_ofNat]
  omega

/-- The fields of a command word. -/
theorem jobWord_fields {op : Nat} (hop : op < 3) (hj : j < 1024) (atTime : Bool) :
    flag (jobWord op j atTime) 31 = true ∧ fld (jobWord op j atTime) 29 28 = op ∧ fld (jobWord op j atTime) 9 0 = j ∧
      fld (jobWord op j atTime) 27 27 = bnat atTime := by
  obtain ⟨hw, hbit⟩ := jobWord_toNat hop hj atTime
  rw [flag_eq_fld]
  simp only [fld, hw, bits, decide_eq_true_eq]
  omega

theorem jobWord_atTime {op : Nat} (hop : op < 3) (hj : j < 1024) (atTime : Bool) : flag (jobWord op j atTime) 27 = atTime := by
  rw [flag_eq_fld, (jobWord_fields hop hj atTime).2.2.2]
  cases atTime <;> rfl

theorem jobCommandWrite_eq {op : Nat} (hop : op < 3) (hj : j < 1024) (atTime : Bool) :
    jobCommandWrite s req (jobWord op j atTime) = jobCommand (jobCommanded s req (jobWord op j atTime)) req op j atTime := by
  obtain ⟨hgo, hopf, hjf, -⟩ := jobWord_fields hop hj atTime
  rw [jobCommandWrite, stage_jobCmd, if_pos hgo, hopf, hjf, jobWord_atTime hop hj]

/-! ### A command at once -/

theorem resume_none (h : (job s j).restart = none) : resume s j = s := by rw [resume, h]

theorem carryCommand_unpaired (h : activePaired s = false) (op : Nat) : carryCommand s j op a = s := mirror_of_unpaired h _ _ _

/-- RESULT and ACC_JOB_APPLY of an accepted command. -/
def jobAccepted (s : State) (a : Nat) : State :=
  putWord (putWord (wr s Reg.accJobCmd [] 26 24 0) Reg.accJobApplyLo [] (BitVec.ofNat 32 a)) Reg.accJobApplyHi []
    (BitVec.ofNat 32 (a / 2 ^ 32 % 2 ^ 24))

theorem within_jobAccepted (s : State) (a : Nat) : Within [.inForce]
    [Reg.accJobCmd.addr [], Reg.accJobApplyLo.addr [], Reg.accJobApplyHi.addr []] s (jobAccepted s a) :=
  ((within_wr s _ _ _ _ _).append ((within_putWord _ _ _ _).append (within_putWord _ _ _ _))).mono (by decide) (by simp)

theorem activePaired_of_regsBut {l : List Nat} (h : RegsBut l s u) (hl : Reg.twinStat.addr [] ∉ l) :
    activePaired u = activePaired s := by rw [activePaired, activePaired, role, role, h.rd_eq hl, h.rdBit_eq hl]

theorem acceptJob_unpaired (h : activePaired s = false) (op : Nat) : acceptJob s j op a = jobAccepted s a :=
  carryCommand_unpaired ((activePaired_of_regsBut (within_jobAccepted s a).2 (by decide)).trans h) op

theorem acc_jobAccepted : (jobAccepted s a).acc = s.acc := by rw [jobAccepted, putWord_acc, putWord_acc, wr_acc]

theorem jobAccepted_facts : (jobAccepted s a).acc = s.acc ∧ rd (jobAccepted s a) Reg.accJobCmd [] 26 24 = 0 ∧
    word (jobAccepted s a) Reg.accJobApplyLo [] = BitVec.ofNat 32 a := by
  refine ⟨acc_jobAccepted, ?_, ?_⟩
  · rw [jobAccepted, rd, word_putWord_other (by decide), word_putWord_other (by decide), ← rd, rd_wr_same (by decide) (by decide),
      Nat.zero_mod]
  · rw [jobAccepted, word_putWord_other (by decide), word_putWord_same]

theorem job_jobAccepted (k : Nat) : job (jobAccepted s a) k = job s k := by rw [job, job, acc_jobAccepted]

theorem within_refuseJob (s : State) (j r : Nat) : Within [.inForce]
    [Reg.accJobCmd.addr [], Reg.accRefuseCnt.addr [], Reg.accRefuseLast.addr []] s (refuseJob s j r) :=
  ((within_wr s _ _ _ _ _).append ((within_countEvent _ _ _).append (within_putWord _ _ _ _))).mono (by decide) (by simp)

theorem refuseJob_facts {r : Nat} : rd (refuseJob s j r) Reg.accJobCmd [] 26 24 = 1 ∧
    word (refuseJob s j r) Reg.accRefuseCnt [] = word s Reg.accRefuseCnt [] + 1 ∧
    word (refuseJob s j r) Reg.accRefuseLast [] = BitVec.ofNat 32 (r * 2 ^ 16 + j) := by
  refine ⟨?_, ?_, word_putWord_same⟩
  · rw [refuseJob, rd, word_putWord_other (by decide), countEvent, word_putWord_other (by decide), ← rd,
      rd_wr_same (by decide) (by decide), Nat.mod_eq_of_lt (by decide)]
  · rw [refuseJob, word_putWord_other (by decide), countEvent, word_putWord_same, word_wr_other (by decide)]

/-! ### What a refusal and an apply sample read -/

theorem queueBad_regs (r : Regs) : queueBad { s with regs := r } d k = queueBad s d k := by
  have hq (q : Nat) : (queueUse { s with regs := r } q != 4 || queuePort { s with regs := r } q != 80 + k) =
      (queueUse s q != 4 || queuePort s q != 80 + k) := by
    by_cases h : queueUse s q = 4
    · have h' : queueUse { s with regs := r } q = 4 := h
      simp only [queuePort, h, h']
      rfl
    · have h' : queueUse { s with regs := r } q ≠ 4 := h
      simp only [bne_iff_ne.2 h, bne_iff_ne.2 h', Bool.true_or]
  exact congrArg (d.validSubs.any ·) (funext fun e => hq _)

theorem partRefusal_regs (r : Regs) : partRefusal { s with regs := r } j d e = partRefusal s j d e := by
  unfold partRefusal
  rw [queueBad_regs]
  rfl

theorem partRefusal_jobCommanded : partRefusal (jobCommanded s req data) j d e = partRefusal s j d e := by
  obtain ⟨r, hr⟩ := jobCommanded_regs s req data
  rw [hr, partRefusal_regs]

theorem structBad_jobCommanded : structBad (jobCommanded s req data) d j = structBad s d j := by
  have hregs := (within_jobCommanded s req data).2
  unfold structBad
  rw [hregs.rdBit_eq (by decide), hregs.rdBit_eq (by decide)]
  rfl

theorem placeMode_jobCommanded (c : Nat) : placeMode (jobCommanded s req data) c = placeMode s c := by
  rw [placeMode, placeMode, (within_jobCommanded s req data).2.rd_eq (by decide)]

theorem commitPart_jobCommanded : commitPart (jobCommanded s req data) j = commitPart s j := by
  unfold commitPart
  rw [placeMode_jobCommanded]
  rfl

theorem applySample_jobCommanded (x : BitVec 512) (atTime : Bool) :
    applySample (jobCommanded s req data) x atTime = applySample s x atTime := by
  have hregs := (within_jobCommanded s req data).2
  unfold applySample applyLead jobAtTime editLead
  rw [hregs.rd_eq (by decide), hregs.rd_eq (by decide), hregs.rd_eq (by decide), hregs.rd_eq (by decide)]
  rfl

/-! ### START -/

/-- The state of a job that starts at sample `a`. -/
def Job.started (e a : Nat) (d : AccDesc) (steps : Nat) : Job :=
  { state := 1, engine := e, pending := [⟨0, a, d⟩], start := a, move := none, restart := none, steps := steps }

theorem beginJob_facts (s : State) (j : Nat) (d : AccDesc) (e a : Nat) : OnlyChanges [.acc] s (beginJob s j d e a) ∧
    job (beginJob s j d e a) j = .started e a d (tb s (jobTb (d.job j))).steps ∧
    ∀ k, k ≠ j → job (beginJob s j d e a) k = job s k := by
  unfold beginJob
  extract_lets x y s1 s2 s3
  have h1 : OnlyChanges [.acc] s s1 := onlyChanges_of_acc s _
  have hjobs1 (k : Nat) : job s1 k = job s k := rfl
  have h2 : AccSide s1 s2 := by
    refine (accSide_forgetFilters s1 d j).trans (AccSide.foldl (fun t c => ?_) _ _)
    exact accSide_forgetLine t _ _
  have h4 := accSide_continueAt s3 j a false
  have htb : tb s2 (jobTb x) = tb s (jobTb x) := by
    rw [tb, tb, ((h1.trans h2.onlyChanges) .clock (by decide)).2]
  have h3 : job s3 j = .started e a d (tb s2 (jobTb x)).steps := job_putJob_same
  refine ⟨((h1.trans h2.onlyChanges).trans (onlyChanges_putJob s2 j _)).trans h4.onlyChanges, ?_, fun k hk => ?_⟩
  · rw [h4.job_eq, h3, htb]
  · rw [h4.job_eq, job_putJob_other hk, h2.job_eq, hjobs1]

/-- The staged part of job `j` with its engine. -/
def startPart (s : State) (j e : Nat) : AccDesc :=
  { s.acc.staged.part j with jobs := set 0 (s.acc.staged.part j).jobs j (setFld ((s.acc.staged.part j).job j) 505 500 e) }

/-- The descriptors `d` taken as they stand staged. -/
def partStaged (s : State) (j : Nat) (d : AccDesc) : State :=
  { s with acc := { s.acc with staged := s.acc.staged.adopt j d } }

theorem activePaired_partStaged (d : AccDesc) : activePaired (partStaged s j d) = activePaired s := rfl

theorem foldl_mirror_unpaired {α : Type} {f : State → α → State} (hf : ∀ t y, activePaired t = false → f t y = t)
    (h : activePaired s = false) (l : List α) : l.foldl f s = s :=
  List.foldlRecOn (motive := fun t => t = s) l f rfl fun t ht y _ => by rw [ht, hf s y h]

theorem mirrorPart_unpaired (h : activePaired s = false) (force : Bool) : mirrorPart s force d = s := by
  have hcopy {n : Nat} (f : Nat × BitVec n → Nat) (g : Nat × BitVec n → List Word) (l : Sparse (BitVec n)) :
      l.foldl (fun s e => mirror s 8 (f e) (g e)) s = s :=
    foldl_mirror_unpaired (fun t y ht => mirror_of_unpaired ht _ _ _) h l
  unfold mirrorPart
  simp only [hcopy]

theorem startEngine_off {ok : Nat → Bool} (h : placeMode s 0 = 0) : startEngine s j d ok = some (fld (d.job j) 505 500, 1) :=
  if_pos h

/-- A START once its part is staged: what placement journals, the twin's copy and the job itself. -/
def startPlaced (s : State) (j : Nat) (d : AccDesc) (e why a : Nat) : State :=
  let s := if placeMode s 0 = 0 then s else journalNew s 0 0 why j e
  let s := if s.twin.peerRole = 3 then mirrorPart s true d else s
  acceptJob (beginJob s j d e a) j 0 a

theorem placeMode_partStaged (d : AccDesc) : placeMode (partStaged s j d) k = placeMode s k := rfl

theorem startPlaced_unpaired {why : Nat} (hmode : placeMode s 0 = 0) (hpair : activePaired s = false) :
    startPlaced s j d e why a = jobAccepted (beginJob s j d e a) a := by
  have hbegun : activePaired (beginJob s j d e a) = false :=
    (activePaired_of_regsBut (((beginJob_facts s j d e a).1.within (by decide)).2) (by simp)).trans hpair
  rw [startPlaced, if_pos hmode, mirrorPart_unpaired hpair, ite_self, acceptJob_unpaired hbegun]

theorem startJob_accepted {carried : Option Nat} {atTime : Bool} (hmode0 : placeMode s 0 = 0) (hmode1 : placeMode s 1 = 0)
    (hpair : activePaired s = false) (hcopied : carried.isSome = true → pairing s = false)
    (he : fld ((s.acc.staged.part j).job j) 505 500 = e)
    (hok : carried.isSome = true ∨ partRefusal s j (startPart s j e) e = none) :
    startJob s j atTime carried = jobAccepted (beginJob (partStaged s j (startPart s j e)) j (startPart s j e) e
        (carried.getD (applySample s ((s.acc.staged.part j).job j) atTime)))
      (carried.getD (applySample s ((s.acc.staged.part j).job j) atTime)) := by
  have hcop : (carried.isSome && pairing s) = false := by
    cases hc : carried.isSome
    · rfl
    · rw [hcopied hc]; rfl
  have hnone : (if carried.isSome = true then none else partRefusal s j (startPart s j e) e) = none := by
    rcases hok with h | h
    · rw [if_pos h]
    · rw [h, ite_self]
  have hpair' := (activePaired_partStaged (s := s) (j := j) (startPart s j e)).trans hpair
  unfold startJob
  extract_lets copied d x bases a src
  have hbases : bases = .inr [] := if_pos hmode1
  have hc : copied = false := hcop
  have hd : d = s.acc.staged.part j := by
    unfold d
    rw [hc]
    rfl
  clear_value copied d bases
  subst hd hc hbases
  rw [startEngine_off hmode0, he]
  show (match (if carried.isSome = true then none else partRefusal s j (startPart s j e) e) with
    | some r => refuseJob s j r
    | none => startPlaced (partStaged s j (startPart s j e)) j (startPart s j e) e 1 a) = _
  rw [hnone]
  exact startPlaced_unpaired ((placeMode_partStaged _).trans hmode0) hpair'

/-! ### COMMIT and STOP -/

theorem finishLines_none (h : s.place.lineMoves = []) : finishLines s j = s := by
  rw [finishLines, jobLineMoves, h]
  rfl

/-- Job `j` with one command more that waits. -/
def commandWaits (s : State) (j : Nat) (x : Job) (a : Nat) : State := jobAccepted (putJob s j x) a

theorem within_commandWaits (s : State) (j : Nat) (x : Job) (a : Nat) : Within [.acc, .inForce]
    [Reg.accJobCmd.addr [], Reg.accJobApplyLo.addr [], Reg.accJobApplyHi.addr []] s (commandWaits s j x a) :=
  ((onlyChanges_putJob s j x).within (by decide)).append (within_jobAccepted _ a)

theorem job_commandWaits_same : job (commandWaits s j x a) j = x := by rw [commandWaits, job_jobAccepted, job_putJob_same]

theorem job_commandWaits_other (h : k ≠ j) : job (commandWaits s j x a) k = job s k := by
  rw [commandWaits, job_jobAccepted, job_putJob_other h]

theorem acc_commandWaits : (commandWaits s j x a).acc = { s.acc with jobs := (commandWaits s j x a).acc.jobs } := by
  rw [commandWaits, acc_jobAccepted]
  rfl

theorem result_commandWaits : rd (commandWaits s j x a) Reg.accJobCmd [] 26 24 = 0 := jobAccepted_facts.2.1

theorem activePaired_putJob : activePaired (putJob s j x) = activePaired s := rfl

theorem commitAt_running (hstate : (job s j).state = 2) (hpending : (job s j).pending = []) (hmove : (job s j).move = none)
    (hlines : s.place.lineMoves = []) (hpair : activePaired s = false) :
    commitAt s j a d = commandWaits s j { job s j with pending := [⟨1, a, d⟩] } a := by
  unfold commitAt
  rw [hmove]
  dsimp only
  rw [finishLines_none hlines, if_neg (by rw [hstate]; decide), acceptJob_unpaired (activePaired_putJob.trans hpair), hpending]
  rfl

theorem commitJob_accepted {atTime : Bool} (hok : partRefusal s j (commitPart s j) (job s j).engine = none)
    (hstruct : structBad s (commitPart s j) j = false) :
    commitJob s j atTime = commitAt s j (applySample s (s.acc.inForce.job j) atTime) (commitPart s j) := by
  unfold commitJob
  extract_lets d
  rw [show partRefusal s j d (job s j).engine = none from hok]
  exact if_neg (by rw [show structBad s d j = false from hstruct]; decide)

theorem stopAt_running (hstate : (job s j).state = 2) (hpending : (job s j).pending = []) (hmove : (job s j).move = none)
    (hpair : activePaired s = false) : stopAt s j a =
      commandWaits s j { job s j with state := 3, pending := [⟨2, a, AccDesc.none⟩], restart := none } a := by
  unfold stopAt
  rw [hmove]
  dsimp only
  rw [if_neg (by rw [hstate]; decide), if_neg (by rw [hstate]; exact fun h => absurd h.1 (by decide)),
    acceptJob_unpaired (activePaired_putJob.trans hpair), hpending]
  rfl

theorem abandonMove_none (h : (job s j).move = none) : abandonMove s j = s := by
  unfold abandonMove
  extract_lets x
  rw [show x.move = none from h]

/-- What the end of a job leaves that does not move. -/
theorem stopJob_facts (h : (job s j).move = none) : OnlyChanges [.acc, .place] s (stopJob s j) ∧
    job (stopJob s j) j = { Job.stopped with engine := (job s j).engine } ∧ ∀ k, k ≠ j → job (stopJob s j) k = job s k := by
  have hends : ∃ (y : Acc) (z : Place), stopJob s j = putJob { s with acc := y, place := z } j
      { Job.stopped with engine := (job s j).engine } ∧ y.jobs = s.acc.jobs := by
    unfold stopJob
    rw [abandonMove_none h]
    exact ⟨_, _, rfl, rfl⟩
  obtain ⟨y, z, hstop, hjobs⟩ := hends
  have hjob (k : Nat) : job { s with acc := y, place := z } k = job s k := by rw [job, job, hjobs]
  rw [hstop]
  refine ⟨((onlyChanges_of_acc s y).append ((onlyChanges_of_place _ z).append (onlyChanges_putJob _ j _))).mono (by decide),
    job_putJob_same, fun k hk => ?_⟩
  rw [job_putJob_other hk, hjob]

theorem stopAt_starting (hstate : (job s j).state = 1) (hmove : (job s j).move = none) (hpair : activePaired s = false) :
    stopAt s j a = jobAccepted (stopJob s j) a := by
  have hstopped : activePaired (stopJob s j) = false :=
    (activePaired_of_regsBut (((stopJob_facts hmove).1.within (by decide)).2) (by simp)).trans hpair
  unfold stopAt
  rw [hmove]
  dsimp only
  rw [if_pos hstate, acceptJob_unpaired hstopped]

/-! ### ACC_JOB_CMD -/

/-- A command that the state of its job allows, or that is refused by it. -/
def commandTaken (s : State) (op j : Nat) (atTime : Bool) : State :=
  match op with
  | 0 => if (job s j).state = 0 then startJob s j atTime none else refuseJob s j 6
  | 1 => if (job s j).state = 1 ∨ (job s j).state = 2 ∨ (job s j).state = 4 then commitJob s j atTime else refuseJob s j 6
  | _ =>
    if (job s j).state = 1 ∨ (job s j).state = 2 ∨ (job s j).state = 4 ∨ (job s j).state = 5 then
      stopAt s j (applySample s (s.acc.inForce.job j) atTime)
    else refuseJob s j 6

theorem commandTaken_stop {atTime : Bool}
    (h : (job s j).state = 1 ∨ (job s j).state = 2 ∨ (job s j).state = 4 ∨ (job s j).state = 5) :
    commandTaken s 2 j atTime = stopAt s j (applySample s (s.acc.inForce.job j) atTime) := if_pos h

/-- No command of job `j` waits but the START of one that starts, and no restart. -/
def TakesCommands (s : State) (j : Nat) : Prop :=
  role s < 2 ∧ (job s j).restart = none ∧ ((job s j).pending.any fun c => !((job s j).state == 1 && c.op == 0)) = false

theorem jobCommand_free {op : Nat} {atTime : Bool} (h : TakesCommands s j) :
    jobCommand s req op j atTime = commandTaken s op j atTime := by
  obtain ⟨halone, hrestart, hfree⟩ := h
  have h2 : (role s == 2) = false := by simp; omega
  have h3 : (role s == 3) = false := by simp; omega
  unfold jobCommand
  rw [resume_none hrestart]
  extract_lets t x waits
  rw [if_neg (by rw [show waits = false from hfree]; decide), if_neg (by rw [h2, h3]; exact Bool.false_ne_true)]
  rfl

theorem role_jobCommanded : role (jobCommanded s req data) = role s := (within_jobCommanded s req data).2.rd_eq (by decide)

theorem activePaired_jobCommanded : activePaired (jobCommanded s req data) = activePaired s :=
  activePaired_of_regsBut (within_jobCommanded s req data).2 (by decide)

theorem takesCommands_jobCommanded (h : TakesCommands s j) : TakesCommands (jobCommanded s req data) j := by
  obtain ⟨hrole, hjob⟩ := h
  exact ⟨by rw [role_jobCommanded]; exact hrole, hjob⟩

/-- A command for a job that is free to take one. -/
theorem jobDoorbell_free {op : Nat} {atTime : Bool} (hreach : Reaches s req (Reg.accJobCmd.addr [])) (hj : j < 1024)
    (hop : op < 3) (h : TakesCommands s j) :
    jobDoorbell s req (jobWord op j atTime) = commandTaken (jobCommanded s req (jobWord op j atTime)) op j atTime :=
  ((doorbell_of_reaches hreach _ _).trans (jobCommandWrite_eq hop hj atTime)).trans
    (jobCommand_free (takesCommands_jobCommanded h))

/-- What a write of the command word leaves as it was, and all that a command reads of it. -/
structure Commanded (s u : State) : Prop where
  within : Within [.staged, .inForce] [Reg.accJobCmd.addr []] s u
  acc : u.acc = s.acc
  lines : u.place.lineMoves = s.place.lineMoves
  paired : activePaired u = activePaired s
  mode : ∀ c, placeMode u c = placeMode s c
  refusal : ∀ j d e, partRefusal u j d e = partRefusal s j d e
  struct : ∀ d j, structBad u d j = structBad s d j
  part : ∀ j, commitPart u j = commitPart s j
  sample : ∀ x atTime, applySample u x atTime = applySample s x atTime

theorem commanded (s : State) (req : Requester) (data : Word) : Commanded s (jobCommanded s req data) where
  within := within_jobCommanded s req data
  acc := acc_jobCommanded
  lines := rfl
  paired := activePaired_jobCommanded
  mode := placeMode_jobCommanded
  refusal _ _ _ := partRefusal_jobCommanded
  struct _ _ := structBad_jobCommanded
  part _ := commitPart_jobCommanded
  sample := applySample_jobCommanded

theorem Commanded.job_eq (h : Commanded s u) (k : Nat) : job u k = job s k := by rw [job, job, h.acc]

/-! ### Apply samples reached -/

theorem takeDue_one (hpend : (job s j).pending = [c]) :
    takeDue 1 s j c.sample = takeCommand (putJob s j { job s j with pending := [] }) j c := by
  unfold takeDue
  extract_lets x
  rw [show x.pending = [c] from hpend]
  exact if_pos (Nat.le_refl _)

theorem exec_applySampleReached {j : Fin 1024} {el : Nat} (hnow : now = advance el s) (hpend : (job now j).pending = [c])
    (hrestart : (job now j).restart = none) (hstate : (job now j).state ≠ 5) (hstep : stepped now j = false)
    (hreach : reachedTime now (now.acc.inForce.job j) c.sample = true) (houts : outsReached now j c.sample = true) :
    exec (.applySampleReached j el) s = done (takeCommand (putJob now j { job now j with pending := [] }) j c) := by
  show execApplySampleReached j el s = _
  rw [execApplySampleReached, ← hnow, resume_none hrestart, ← takeDue_one hpend]
  rw [hpend]
  dsimp only
  rw [if_neg (by rw [hstep, hreach]; decide), if_neg hstate, if_pos houts]

theorem takeCommand_start (hop : c.op = 0) (hstate : (job s j).state = 1) :
    AccSide (putJob s j { job s j with state := 2 }) (takeCommand s j c) := by
  unfold takeCommand
  rw [hop]
  dsimp only
  rw [if_pos hstate]
  exact accSide_changeRoutes _ c.desc j c.sample

theorem takeCommand_stop (hop : c.op = 2) : takeCommand s j c = stopJob s j := by
  unfold takeCommand
  rw [hop]
  rfl

/-- The descriptors `d` of job `j` in force, before its routes follow. -/
def partInForce (s : State) (j : Nat) (d : AccDesc) (next : Sparse Nat) : State :=
  { s with acc := { s.acc with inForce := s.acc.inForce.adopt j d, outNext := next } }

theorem partInForce_facts (next : Sparse Nat) : OnlyChanges [.acc] s (partInForce s j d next) ∧
    (∀ k, job (partInForce s j d next) k = job s k) ∧ (partInForce s j d next).acc.inForce = s.acc.inForce.adopt j d :=
  ⟨onlyChanges_of_acc s _, fun _ => rfl, rfl⟩

theorem takeCommand_partInForce (hop : c.op = 1) :
    ∃ next, AccSide (partInForce s j (c.desc.placed s j) next) (takeCommand s j c) := by
  unfold takeCommand
  rw [hop]
  refine ⟨_, (accSide_pruneRoutes _ (c.desc.placed s j) j).trans (accSide_changeRoutes _ (c.desc.placed s j) j c.sample)⟩

/-- What a COMMIT leaves as it takes effect. -/
theorem takeCommand_commit (hop : c.op = 1) : OnlyChanges [.acc] s (takeCommand s j c) ∧
    (∀ k, job (takeCommand s j c) k = job s k) ∧ (takeCommand s j c).acc.inForce = s.acc.inForce.adopt j (c.desc.placed s j) := by
  obtain ⟨next, hside⟩ := takeCommand_partInForce (s := s) (j := j) hop
  obtain ⟨honly, hjob, hforce⟩ := partInForce_facts (s := s) (j := j) (d := c.desc.placed s j) next
  exact ⟨honly.trans hside.onlyChanges, fun k => (hside.job_eq k).trans (hjob k), hside.inForce_eq.trans hforce⟩

theorem inForce_putJob : (putJob s j x).acc.inForce = s.acc.inForce := rfl

theorem placed_putJob (d : AccDesc) : d.placed (putJob s j x) k = d.placed s k := by
  rw [AccDesc.placed, AccDesc.placed, inForce_putJob]

/-! ### Commands that the twin carries -/

theorem activePaired_of_standby (h : role s = 2) : activePaired s = false := by rw [activePaired, h]; rfl

theorem pairing_of_standby (h : role s = 2) : pairing s = false := by rw [pairing, h]; rfl

theorem exec_carriedStart {j : Fin 1024} {apply el : Nat} (hnow : now = advance el s) (hrole : role now = 2)
    (hstate : (job now j).state = 0) (hearly : ¬ (apply * fracPerSec : Int) < tbFrac now (jobTb (now.acc.staged.job j)) *
      jobRate (now.acc.staged.job j)) :
    exec (.carriedCommandRx j 0 apply el) s = done (startJob now j false (some apply)) := by
  show execCarriedCommandRx j 0 apply el s = _
  have hpair := pairing_of_standby hrole
  unfold execCarriedCommandRx
  rw [← hnow, if_neg (by rw [hrole]; exact fun h => h.1 rfl)]
  dsimp only
  rw [if_pos (show (0 : Fin 3) = 0 ∧ pairing now = false from ⟨rfl, hpair⟩), decide_eq_false hearly, if_neg Bool.false_ne_true,
    if_neg Bool.false_ne_true, if_pos hstate]

/-- A command other than START that the twin carries in time. -/
theorem exec_carriedLater {j : Fin 1024} {op : Fin 3} {apply el : Nat} (hnow : now = advance el s) (hrole : role now = 2)
    (hop : op ≠ 0) (hstate : (job now j).state ≠ 0)
    (hearly : ¬ (apply * fracPerSec : Int) < tbFrac now (jobTb (now.acc.inForce.job j)) * jobRate (now.acc.inForce.job j)) :
    exec (.carriedCommandRx j op apply el) s =
      if op = 1 then done (commitAt now j apply (commitPart now j)) else done (stopAt now j apply) := by
  show execCarriedCommandRx j op apply el s = _
  unfold execCarriedCommandRx
  rw [← hnow, if_neg (by rw [hrole]; exact fun h => h.1 rfl)]
  dsimp only
  rw [if_neg (show ¬ (op = 0 ∧ pairing now = false) from fun h => hop h.1), decide_eq_false hearly, if_neg Bool.false_ne_true,
    if_neg Bool.false_ne_true]
  match op, hop with
  | 1, _ => exact if_neg hstate
  | 2, _ => exact if_neg hstate

theorem AccDesc.job_set (d : AccDesc) (x : BitVec 512) : AccDesc.job { d with jobs := set 0 d.jobs j x } j = x := get_set_same

/-- A part whose engine is its own already. -/
theorem startPart_job (he : fld ((s.acc.staged.part j).job j) 505 500 = e) :
    (startPart s j e).job j = (s.acc.staged.part j).job j := by
  rw [startPart, AccDesc.job_set, ← he, setFld_fld_self _ (by decide) (by decide)]

theorem Within.drop_acc {l : List Nat} (h : Within [.acc, .inForce] l s u) : OnlyChanges [.inForce, .acc] s u := h.1.mono (by decide)

/-- What an accepted START leaves. -/
theorem startJob_facts (s : State) (j : Nat) (d : AccDesc) (e a : Nat) :
    OnlyChanges [.acc, .inForce] s (jobAccepted (beginJob (partStaged s j d) j d e a) a) ∧
      job (jobAccepted (beginJob (partStaged s j d) j d e a) a) j = .started e a d (tb s (jobTb (d.job j))).steps ∧
      ∀ k, k ≠ j → job (jobAccepted (beginJob (partStaged s j d) j d e a) a) k = job s k := by
  obtain ⟨honly, hjob, hother⟩ := beginJob_facts (partStaged s j d) j d e a
  have hstaged : OnlyChanges [.acc] s (partStaged s j d) := onlyChanges_of_acc s _
  refine ⟨(hstaged.trans honly).append (within_jobAccepted _ a).1, ?_, fun k hk => ?_⟩
  · rw [job_jobAccepted, hjob]
    rfl
  · rw [job_jobAccepted, hother k hk]
    rfl

/-- Settles O31: a command's word leaves the jobs alone; what it then accepts, it does to its own job. -/
theorem jobsFollowCommands : Obligations.JobsFollowCommands := by
  unfold Obligations.JobsFollowCommands
  refine ⟨?_, ?_, ?_, ?_, ?_, ?_, ?_, ?_, ?_, ?_, ?_⟩
  · intro s req j atTime x d e hreach halone hmode0 hmode1 hstate hpend hrestart hx he hd hok
    have htakes : TakesCommands s j := ⟨halone.1, hrestart, by rw [hpend]; rfl⟩
    have hexec : exec (.accJobStart req j atTime) s = done _ := congrArg done (jobDoorbell_free hreach j.isLt (by decide) htakes)
    have hu := commanded s req (jobWord 0 j atTime)
    generalize jobCommanded s req (jobWord 0 j atTime) = u at *
    have hpart : startPart u j e = d := by rw [startPart, hu.acc, hx, hd]
    rw [commandTaken, if_pos (by rw [hu.job_eq, hstate]), startJob_accepted (e := e) ((hu.mode 0).trans hmode0)
      ((hu.mode 1).trans hmode1) (hu.paired.trans halone.2) (fun h => absurd h (by decide)) (by rw [hu.acc, hx, he])
      (.inr (by rw [hpart, hu.refusal, hok])), hpart, hu.acc, hx, Option.getD_none, hu.sample] at hexec
    obtain ⟨honly, hjob, hother⟩ := startJob_facts u j d e (applySample s x atTime)
    refine does_of_all hexec ((hu.within.1.append honly).mono (by decide)) ⟨?_, fun k hk => (hother k hk).trans (hu.job_eq k),
      jobAccepted_facts.2.1, jobAccepted_facts.2.2⟩ fun _ _ h => h
    have hd' : d.job j = x := by rw [← hpart, startPart_job (by rw [hu.acc, hx, he]), hu.acc, hx]
    rw [hjob, hd', tb, tb, (hu.within.1 .clock (by decide)).2]
    rfl
  · intro s req j atTime hreach halone hstate hpend hrestart
    have htakes : TakesCommands s j := ⟨halone.1, hrestart, by rw [hpend]; rfl⟩
    have hexec : exec (.accJobStart req j atTime) s = done _ := congrArg done (jobDoorbell_free hreach j.isLt (by decide) htakes)
    have hu := commanded s req (jobWord 0 j atTime)
    generalize jobCommanded s req (jobWord 0 j atTime) = u at *
    rw [commandTaken, if_neg (by rw [hu.job_eq]; exact hstate)] at hexec
    obtain ⟨hresult, hcount, hlast⟩ := refuseJob_facts (s := u) (j := j) (r := 6)
    have hall := (hu.within.append (within_refuseJob u j 6)).mono (qs := [.staged, .inForce])
      (m := [Reg.accJobCmd.addr [], Reg.accRefuseCnt.addr [], Reg.accRefuseLast.addr []]) (by decide) (by simp)
    exact does_of_all hexec hall.1 ⟨hresult, by rw [hcount, hu.within.2.word_eq (by decide)], hlast, hall.2⟩ fun _ _ h => h
  · intro s req j atTime hreach halone hstate hpend hrestart hmove hlines hok hstruct
    have htakes : TakesCommands s j := ⟨halone.1, hrestart, by rw [hpend]; rfl⟩
    have hexec : exec (.accJobCommit req j atTime) s = done _ := congrArg done (jobDoorbell_free hreach j.isLt (by decide) htakes)
    have hu := commanded s req (jobWord 1 j atTime)
    generalize jobCommanded s req (jobWord 1 j atTime) = u at *
    have hstate' : (job u j).state = 2 := by rw [hu.job_eq, hstate]
    rw [commandTaken, if_pos (.inr (.inl hstate')), commitJob_accepted (by rw [hu.part, hu.job_eq, hu.refusal, hok])
      (by rw [hu.part, hu.struct, hstruct]), commitAt_running hstate' (by rw [hu.job_eq, hpend]) (by rw [hu.job_eq, hmove])
      (by rw [hu.lines, hlines]) (hu.paired.trans halone.2), hu.acc, hu.sample, hu.part, hu.job_eq] at hexec
    refine does_of_all hexec ((hu.within.append (within_commandWaits u j _ _)).1.mono (by decide))
      ⟨job_commandWaits_same, fun k hk => (job_commandWaits_other hk).trans (hu.job_eq k), ?_, result_commandWaits⟩ fun _ _ h => h
    rw [acc_commandWaits, hu.acc]
  · intro s req j atTime hreach halone hstate hpend hrestart hmove
    have htakes : TakesCommands s j := ⟨halone.1, hrestart, by rw [hpend]; rfl⟩
    have hexec : exec (.accJobStop req j atTime) s = done _ := congrArg done (jobDoorbell_free hreach j.isLt (by decide) htakes)
    have hu := commanded s req (jobWord 2 j atTime)
    generalize jobCommanded s req (jobWord 2 j atTime) = u at *
    have hstate' : (job u j).state = 2 := by rw [hu.job_eq, hstate]
    rw [commandTaken_stop (.inr (.inl hstate')), stopAt_running hstate' (by rw [hu.job_eq, hpend]) (by rw [hu.job_eq, hmove])
      (hu.paired.trans halone.2), hu.acc, hu.sample, hu.job_eq] at hexec
    refine does_of_all hexec ((hu.within.append (within_commandWaits u j _ _)).1.mono (by decide))
      ⟨?_, fun k hk => (job_commandWaits_other hk).trans (hu.job_eq k), ?_, result_commandWaits⟩ fun _ _ h => h
    · rw [job_commandWaits_same, ← hrestart]
    · rw [acc_commandWaits, hu.acc]
  · intro s req j atTime hreach halone hstate hpend hrestart hmove
    have hfree : ((job s j).pending.any fun c => !((job s j).state == 1 && c.op == 0)) = false := by
      rw [List.any_eq_false]
      intro c hc
      rw [hstate, hpend c hc]
      decide
    have hexec : exec (.accJobStop req j atTime) s = done _ :=
      congrArg done (jobDoorbell_free hreach j.isLt (by decide) ⟨halone.1, hrestart, hfree⟩)
    have hu := commanded s req (jobWord 2 j atTime)
    generalize jobCommanded s req (jobWord 2 j atTime) = u at *
    have hstate' : (job u j).state = 1 := by rw [hu.job_eq, hstate]
    have hmove' : (job u j).move = none := by rw [hu.job_eq, hmove]
    rw [commandTaken_stop (.inl hstate'), stopAt_starting hstate' hmove' (hu.paired.trans halone.2)] at hexec
    obtain ⟨honly, hjob, hother⟩ := stopJob_facts hmove'
    refine does_of_all hexec ((hu.within.1.append (honly.append (within_jobAccepted _ _).1)).mono (by decide))
      ⟨?_, fun k hk => ?_⟩ fun _ _ h => h
    · rw [job_jobAccepted, hjob, hu.job_eq]
    · rw [job_jobAccepted, hother k hk, hu.job_eq]
  · intro s j el c now hnow hpend hop hstate hrestart hstep hreach houts
    have hexec := exec_applySampleReached hnow hpend hrestart (by rw [hstate]; decide) hstep hreach houts
    have hside := takeCommand_start (s := putJob now j { job now j with pending := [] }) (j := j) hop
      (by rw [job_putJob_same]; exact hstate)
    refine doesFrom_of_all hexec (((onlyChanges_putJob now _ _).trans (onlyChanges_putJob _ _ _)).trans hside.onlyChanges)
      ⟨?_, fun k hk => ?_⟩ fun _ _ h => h
    · rw [hside.job_eq, job_putJob_same, job_putJob_same]
    · rw [hside.job_eq, job_putJob_other hk, job_putJob_other hk]
  · intro s j el c now hnow hpend hop hstate hmove hrestart hstep hreach houts
    have hexec := exec_applySampleReached hnow hpend hrestart (by rw [hstate]; decide) hstep hreach houts
    rw [takeCommand_stop hop] at hexec
    obtain ⟨honly, hjob, hother⟩ := stopJob_facts (s := putJob now j { job now j with pending := [] }) (j := j)
      (by rw [job_putJob_same]; exact hmove)
    refine doesFrom_of_all hexec (((onlyChanges_putJob now _ _).append honly).mono (by decide)) ⟨?_, fun k hk => ?_⟩ fun _ _ h => h
    · rw [hjob, job_putJob_same]
    · rw [hother k hk, job_putJob_other hk]
  · intro s j el c now hnow hpend hop hstate hrestart hstep hreach houts
    have hexec := exec_applySampleReached hnow hpend hrestart (by rw [hstate]; decide) hstep hreach houts
    obtain ⟨honly, hjob, hforce⟩ := takeCommand_commit (s := putJob now j { job now j with pending := [] }) (j := j) hop
    refine doesFrom_of_all hexec ((onlyChanges_putJob now _ _).trans honly) ⟨?_, ?_, fun k hk => ?_⟩ fun _ _ h => h
    · rw [hjob, job_putJob_same]
    · rw [hforce, placed_putJob, inForce_putJob]
    · rw [hjob, job_putJob_other hk]
  · intro s j apply el x now hnow hrole hmode0 hmode1 hstate hx hearly
    have hexec := exec_carriedStart hnow hrole hstate hearly
    rw [startJob_accepted (e := fld x 505 500) hmode0 hmode1 (activePaired_of_standby hrole)
      (fun _ => pairing_of_standby hrole) (by rw [hx]) (.inl rfl), Option.getD_some] at hexec
    obtain ⟨honly, hjob, hother⟩ := startJob_facts now j (startPart now j (fld x 505 500)) (fld x 505 500) apply
    refine doesFrom_of_all hexec (honly.mono (by decide)) ⟨?_, ?_, ?_, hother⟩ fun _ _ h => h
    · rw [hjob]; rfl
    · rw [hjob]; rfl
    · rw [hjob]; rfl
  · intro s j apply el now hnow hrole hstate hpend hmove hlines hearly
    have hexec := exec_carriedLater (op := 1) hnow hrole (by decide) (by rw [hstate]; decide) hearly
    rw [if_pos rfl, commitAt_running hstate hpend hmove hlines (activePaired_of_standby hrole)] at hexec
    exact doesFrom_of_all hexec (within_commandWaits now j _ _).drop_acc job_commandWaits_same fun _ _ h => h
  · intro s j apply el now hnow hrole hstate hpend hmove hearly
    have hexec := exec_carriedLater (op := 2) hnow hrole (by decide) (by rw [hstate]; decide) hearly
    rw [if_neg (by decide), stopAt_running hstate hpend hmove (activePaired_of_standby hrole)] at hexec
    exact doesFrom_of_all hexec (within_commandWaits now j _ _).drop_acc job_commandWaits_same fun _ _ h => h

end
end Sys2Proof.Machine

/-! PROOFS. Moves, faults and steps of jobs (R299, R305, R306). -/
namespace Sys2Proof.Machine

section
variable {s now u v : State} {j k a e r : Nat} {m : JobMove} {x : Job}

/-! ### Moves -/

theorem onlyChanges_noteEnd (s : State) (e : MoveEnd) : OnlyChanges [.place] s (noteEnd s e) := onlyChanges_of_place s _

theorem job_noteEnd (e : MoveEnd) : job (noteEnd s e) k = job s k := rfl

/-- Job descriptors in force and staged as given. -/
def descsShown (s : State) (inForce staged : Sparse (BitVec 512)) : State :=
  { s with acc := { s.acc with inForce := { s.acc.inForce with jobs := inForce }, staged := { s.acc.staged with jobs := staged } } }

theorem onlyChanges_descsShown (s : State) (l l' : Sparse (BitVec 512)) : OnlyChanges [.acc] s (descsShown s l l') := onlyChanges_of_acc s _

theorem job_descsShown (l l' : Sparse (BitVec 512)) : job (descsShown s l l') k = job s k := rfl

theorem showEngine_eq (s : State) (j e : Nat) : ∃ l l', showEngine s j e = descsShown s l l' := ⟨_, _, rfl⟩

theorem onlyChanges_showEngine (s : State) (j e : Nat) : OnlyChanges [.acc] s (showEngine s j e) := by
  obtain ⟨l, l', h⟩ := showEngine_eq s j e
  rw [h]
  exact onlyChanges_descsShown s l l'

theorem job_showEngine : job (showEngine s j e) k = job s k := by
  obtain ⟨l, l', h⟩ := showEngine_eq s j e
  rw [h, job_descsShown]

/-- A job's commands under the queues that a move allocated. -/
def Job.requeued (x : Job) (qs : List (Nat × Nat)) : Job :=
  { x with pending := x.pending.map fun c =>
      if c.op = 1 then { c with desc := { c.desc with subs := Machine.requeued qs c.desc.subs } } else c }

/-- What is in force and staged under the queues that a move allocated. -/
def subsRequeued (s : State) (qs : List (Nat × Nat)) : State :=
  { s with acc := { s.acc with inForce := { s.acc.inForce with subs := requeued qs s.acc.inForce.subs },
                               staged := { s.acc.staged with subs := requeued qs s.acc.staged.subs } } }

theorem showQueues_eq (qs : List (Nat × Nat)) :
    showQueues s j qs = putJob (subsRequeued s qs) j ((job (subsRequeued s qs) j).requeued qs) := rfl

theorem showQueues_facts (s : State) (j : Nat) (qs : List (Nat × Nat)) : OnlyChanges [.acc] s (showQueues s j qs) ∧
    job (showQueues s j qs) j = (job s j).requeued qs ∧ ∀ k, k ≠ j → job (showQueues s j qs) k = job s k := by
  have hsubs : OnlyChanges [.acc] s (subsRequeued s qs) := onlyChanges_of_acc s _
  rw [showQueues_eq]
  exact ⟨hsubs.trans (onlyChanges_putJob _ j _), job_putJob_same, fun k hk => job_putJob_other hk⟩

/-- A job on engine `e`, its move over. -/
def Job.landed (x : Job) (e : Nat) : Job := { x with engine := e, move := none, state := if x.state = 4 then 2 else x.state }

theorem switchEngine_facts (s : State) (j e reason load : Nat) (qs : List (Nat × Nat)) :
    OnlyChanges [.acc, .place] s (switchEngine s j e reason load qs) ∧
      job (switchEngine s j e reason load qs) j = ((job s j).landed e).requeued qs ∧
      ∀ k, k ≠ j → job (switchEngine s j e reason load qs) k = job s k := by
  have hlanded := onlyChanges_putJob s j ((job s j).landed e)
  have hshown := onlyChanges_showEngine (putJob s j ((job s j).landed e)) j e
  have hjob : job (showEngine (putJob s j ((job s j).landed e)) j e) j = (job s j).landed e := job_showEngine.trans job_putJob_same
  have hother (k : Nat) (hk : k ≠ j) : job (showEngine (putJob s j ((job s j).landed e)) j e) k = job s k :=
    job_showEngine.trans (job_putJob_other hk)
  obtain ⟨honly, hqueued, hqother⟩ := showQueues_facts (showEngine (putJob s j ((job s j).landed e)) j e) j qs
  unfold switchEngine
  extract_lets x d far olds s1 s2
  have hs2 : s2 = showQueues (showEngine (putJob s j ((job s j).landed e)) j e) j qs := rfl
  rw [hs2]
  refine ⟨(((hlanded.trans hshown).trans honly).append (onlyChanges_noteEnd _ _)).mono (by decide), ?_, fun k hk => ?_⟩
  · rw [job_noteEnd, hqueued, hjob]
  · rw [job_noteEnd, hqother k hk, hother k hk]

theorem abandonMove_facts (hmove : (job s j).move = some m) : OnlyChanges [.acc, .place] s (abandonMove s j) ∧
    (job (abandonMove s j) j).engine = (job s j).engine ∧ (job (abandonMove s j) j).move = none := by
  unfold abandonMove
  extract_lets x
  rw [show x.move = some m from hmove]
  refine ⟨((onlyChanges_putJob s j _).append (onlyChanges_noteEnd _ _)).mono (by decide), ?_, ?_⟩
  · rw [job_noteEnd, job_putJob_same]
  · rw [job_noteEnd, job_putJob_same]

/-- A move whose packets differ is counted, before it is given up. -/
def mismatchCounted (s : State) (j : Nat) : State :=
  putWord (countEvent s Reg.accMigmisCnt []) Reg.accMigmisLast [] (BitVec.ofNat 32 j)

theorem within_mismatchCounted (s : State) (j : Nat) :
    Within [.inForce] [Reg.accMigmisCnt.addr [], Reg.accMigmisLast.addr []] s (mismatchCounted s j) :=
  ((within_countEvent s _ _).append (within_putWord _ _ _ _)).mono (by decide) (by simp)

theorem job_mismatchCounted : job (mismatchCounted s j) k = job s k := rfl

theorem word_mismatchCounted : word (mismatchCounted s j) Reg.accMigmisCnt [] = word s Reg.accMigmisCnt [] + 1 := by
  rw [mismatchCounted, word_putWord_other (by decide), countEvent, word_putWord_same]

theorem exec_migrationCompare {j : Fin 1024} (hmove : (job s j).move = some m) (hcomputed : moveComputed s j m = true) (equal : Bool) :
    exec (.migrationCompare j equal) s =
      done (if equal then switchEngine s j m.dest m.reason m.load m.queues else abandonMove (mismatchCounted s j) j) := by
  show execMigrationCompare j equal s = _
  unfold execMigrationCompare
  rw [hmove]
  dsimp only
  rw [hcomputed, if_neg (by decide)]
  cases equal <;> rfl

/-! ### Faults -/

/-- A job's fault counted, and the job in FAULT. -/
def jobFaulted (s : State) (j : Nat) : State :=
  putJob (putWord (countEvent s Reg.accFaultCnt []) Reg.accFaultLast [] (BitVec.ofNat 32 j)) j
    { job s j with state := 5, restart := none }

theorem within_jobFaulted (s : State) (j : Nat) :
    Within [.inForce, .acc] [Reg.accFaultCnt.addr [], Reg.accFaultLast.addr []] s (jobFaulted s j) :=
  ((within_countEvent s _ _).append ((within_putWord _ _ _ _).append ((onlyChanges_putJob _ j _).within (by decide)))).mono
    (by decide) (by simp)

theorem word_putJob {q : RegRow} {ix : List Nat} : word (putJob s j x) q ix = word s q ix := rfl

theorem word_jobFaulted : word (jobFaulted s j) Reg.accFaultCnt [] = word s Reg.accFaultCnt [] + 1 ∧
    word (jobFaulted s j) Reg.accFaultLast [] = BitVec.ofNat 32 j := by
  rw [jobFaulted, word_putJob, word_putJob]
  refine ⟨?_, word_putWord_same⟩
  rw [word_putWord_other (by decide), countEvent, word_putWord_same]

theorem faultEngine_one (hjobs : jobsOn s e = [j]) (hengine : (job s j).engine = e) (hstate : (job s j).state ≠ 5)
    (hmove : (job s j).move = none) : faultEngine s e = jobFaulted s j := by
  rw [faultEngine, hjobs]
  show faultJob s e j = _
  rw [faultJob, abandonMove_none hmove]
  exact if_pos ⟨hengine, .inl hstate⟩

theorem reach_near (h : e / 8 = (job s j).engine / 8) : reach s j e = some (s, []) := if_pos h

/-- Nothing changes but what the engines hold beside the jobs, and what is counted. -/
def AccCounted (s u : State) : Prop := OnlyChanges [.acc, .counters] s u ∧ u.acc.jobs = s.acc.jobs

theorem AccCounted.refl (s : State) : AccCounted s s := ⟨.refl _ s, rfl⟩

theorem AccCounted.trans (h : AccCounted s u) (h' : AccCounted u v) : AccCounted s v := ⟨h.1.trans h'.1, h'.2.trans h.2⟩

theorem AccCounted.job_eq (h : AccCounted s u) (k : Nat) : job u k = job s k := by rw [job, job, h.2]

theorem AccSide.counted (h : AccSide s u) : AccCounted s u := by
  obtain ⟨x, rfl, hjobs, -⟩ := h
  exact ⟨(onlyChanges_of_acc s x).mono (by decide), hjobs⟩

theorem accCounted_bump (s : State) (g : CtrGroup) (ix : List Nat) (i n : Nat) : AccCounted s (bump s g ix i n) :=
  ⟨(onlyChanges_bump s g ix i n).mono (by decide), rfl⟩

theorem accCounted_continueAt (s : State) (j a : Nat) (missed ahead : Bool) : AccCounted s (continueAt s j a missed ahead) := by
  refine List.foldlRecOn (motive := AccCounted s) _ _ (.refl s) fun t ht y _ => ht.trans ?_
  extract_lets old m x t'
  have hnext : AccCounted t t' := AccSide.counted ⟨_, rfl, rfl, rfl⟩
  split
  · exact hnext.trans (accCounted_bump _ _ _ _ _)
  · exact hnext

theorem accSide_settleRamps (s : State) (j : Nat) : AccSide s (settleRamps s j) := ⟨_, rfl, rfl, rfl⟩

/-- A job that has caught up with sample `r`. -/
def Job.caughtUp (x : Job) (r : Nat) : Job :=
  { x with pending := x.pending.map (fun c => { c with sample := max c.sample r }),
           move := x.move.map (fun m => { m with atSample := max m.atSample r }), restart := x.restart.map fun _ => r }

theorem catchUp_eq : catchUp s j r = putJob s j ((job s j).caughtUp r) := rfl

/-- The streams of a job that restarts after a fault at sample `r`, brought there. -/
def faultCaughtUp (s : State) (j r : Nat) : State := settleRamps (catchUp (continueAt s j r true true) j r) j

theorem faultCaughtUp_facts (s : State) (j r : Nat) : OnlyChanges [.acc, .counters] s (faultCaughtUp s j r) ∧
    job (faultCaughtUp s j r) j = (job s j).caughtUp r ∧ ∀ k, k ≠ j → job (faultCaughtUp s j r) k = job s k := by
  have hcont := accCounted_continueAt s j r true true
  have hramps := accSide_settleRamps (catchUp (continueAt s j r true true) j r) j
  refine ⟨(hcont.1.append ((onlyChanges_putJob _ j _).trans hramps.onlyChanges)).mono (by decide), ?_, fun k hk => ?_⟩
  · rw [faultCaughtUp, hramps.job_eq, catchUp_eq, job_putJob_same, hcont.job_eq]
  · rw [faultCaughtUp, hramps.job_eq, catchUp_eq, job_putJob_other hk, hcont.job_eq]

/-- A job's restart after a fault, at sample `r` on engine `t` of its own cluster. -/
def faultRestarted (s : State) (j t r load : Nat) : State :=
  switchEngine (putJob (faultCaughtUp s j r) j { job (faultCaughtUp s j r) j with restart := some r }) j t 7 load []

theorem faultRestarted_facts (s : State) (j t r load : Nat) (hstate : (job s j).state = 5) :
    OnlyChanges [.acc, .counters, .place] s (faultRestarted s j t r load) ∧ (job (faultRestarted s j t r load) j).state = 5 ∧
      (job (faultRestarted s j t r load) j).restart = some r ∧ (job (faultRestarted s j t r load) j).engine = t ∧
      (job (faultRestarted s j t r load) j).move = none ∧ ∀ k, k ≠ j → job (faultRestarted s j t r load) k = job s k := by
  obtain ⟨hcaught, hjob, hother⟩ := faultCaughtUp_facts s j r
  obtain ⟨honly, hland, hlother⟩ := switchEngine_facts
    (putJob (faultCaughtUp s j r) j { job (faultCaughtUp s j r) j with restart := some r }) j t 7 load []
  replace hland := hland.trans (by rw [job_putJob_same, hjob])
  have hstate' : (if (job s j).state = 4 then 2 else (job s j).state) = 5 := by rw [if_neg (by rw [hstate]; decide), hstate]
  refine ⟨(hcaught.append ((onlyChanges_putJob _ j _).append honly)).mono (by decide), ?_, ?_, ?_, ?_, fun k hk => ?_⟩
  · rw [faultRestarted, hland]; exact hstate'
  · rw [faultRestarted, hland]; rfl
  · rw [faultRestarted, hland]; rfl
  · rw [faultRestarted, hland]; rfl
  · rw [faultRestarted, hlother k hk, job_putJob_other hk, hother k hk]

theorem exec_jobFaultRestart {j : Fin 1024} {e : Fin 64} {el : Nat} {b : Bool} (hnow : now = advance el s)
    (hstate : (job now j).state = 5) (hrestart : (job now j).restart = none) (hup : mc2Up now = true)
    (hengine : faultEngineOf now j = some (e.val, b)) (hnear : e.val / 8 = (job now j).engine / 8) :
    exec (.jobFaultRestart j e el) s = done (faultRestarted now j e (applyLead now (now.acc.inForce.job j))
      (perMille (engineLoad (putJob (faultCaughtUp now j (applyLead now (now.acc.inForce.job j))) j
        { job (faultCaughtUp now j (applyLead now (now.acc.inForce.job j))) j with
          restart := some (applyLead now (now.acc.inForce.job j)) }) (job now j).engine none))) := by
  show execJobFaultRestart j e el s = _
  unfold execJobFaultRestart
  rw [← hnow, if_neg (by simp [hstate, hrestart, hup]), hengine]
  dsimp only
  rw [if_neg (by simp), reach_near hnear]
  rfl

theorem resume_reached (hpend : (job s j).pending = []) (hrestart : (job s j).restart = some r)
    (hreach : reachedTime s (s.acc.inForce.job j) r = true) :
    resume s j = putJob s j { job s j with state := 2, restart := none } := by
  rw [resume, hrestart]
  dsimp only
  rw [if_pos hreach, hpend]
  rfl

theorem exec_resume {j : Fin 1024} {el : Nat} (hnow : now = advance el s) (hpend : (job now j).pending = [])
    (hrestart : (job now j).restart = some r) (hreach : reachedTime now (now.acc.inForce.job j) r = true) :
    exec (.applySampleReached j el) s = done (putJob now j { job now j with state := 2, restart := none }) := by
  show execApplySampleReached j el s = _
  rw [execApplySampleReached, ← hnow, resume_reached hpend hrestart hreach]
  rw [job_putJob_same, hpend]

/-! ### Steps of a job's time base -/

/-- A step of a job's time base counted. -/
def stepCounted (s : State) (j : Nat) : State := putWord (countEvent s Reg.accStepCnt []) Reg.accStepLast [] (BitVec.ofNat 32 j)

theorem within_stepCounted (s : State) (j : Nat) :
    Within [.inForce] [Reg.accStepCnt.addr [], Reg.accStepLast.addr []] s (stepCounted s j) :=
  ((within_countEvent s _ _).append (within_putWord _ _ _ _)).mono (by decide) (by simp)

theorem word_stepCounted : word (stepCounted s j) Reg.accStepCnt [] = word s Reg.accStepCnt [] + 1 ∧
    word (stepCounted s j) Reg.accStepLast [] = BitVec.ofNat 32 j := by
  rw [stepCounted]
  refine ⟨?_, word_putWord_same⟩
  rw [word_putWord_other (by decide), countEvent, word_putWord_same]

theorem acc_stepCounted : (stepCounted s j).acc = s.acc := by rw [stepCounted, countEvent, putWord_acc, putWord_acc]

/-- Job `j` with its first sample and its time base's steps as given. -/
def restarted (s : State) (j a steps : Nat) : State := putJob s j { job s j with start := a, steps := steps }

/-- The subscriptions in range `g` with nothing accepted and nothing missed. -/
def subsEmptied (s : State) (g : Range) : State :=
  { s with acc := { s.acc with subs := (s.acc.subs.map fun e =>
      if inRange g e.1 then (e.1, { e.2 with accepted := [], missed := [] }) else e).filter fun e => e.2 != ⟨[], 0, []⟩ } }

theorem accSide_subsEmptied (s : State) (g : Range) : AccSide s (subsEmptied s g) := ⟨_, rfl, rfl, rfl⟩

theorem get_cases {α : Type} {d : α} : ∀ {l : Sparse α} {k : Nat}, get d l k = d ∨ (k, get d l k) ∈ l
  | [], _ => .inl rfl
  | (i, v) :: l, k => by
    by_cases hk : k = i
    · rw [get, if_pos hk, hk]
      exact .inr (List.mem_cons_self ..)
    · rw [get, if_neg hk]
      exact get_cases.imp_right (List.mem_cons_of_mem _)

theorem accepted_subsEmptied {g : Range} {i : Nat} (hi : inRange g i = true) : (subRun (subsEmptied s g) i).accepted = [] := by
  rcases get_cases (d := (⟨[], 0, []⟩ : SubRun)) (l := (subsEmptied s g).acc.subs) (k := i) with h | h
  · rw [subRun, h]
  · obtain ⟨y, -, hy⟩ := List.mem_map.1 (List.mem_filter.1 h).1
    by_cases hr : inRange g y.1 = true
    · rw [if_pos hr] at hy
      rw [subRun, ← (Prod.mk.inj hy).2]
    · rw [if_neg hr] at hy
      rw [hy] at hr
      exact absurd hi hr

/-- The sample at which a step restarts job `j`. -/
def stepSample (s : State) (j : Nat) : Nat := applyAfter (jobRate (s.acc.inForce.job j)) (tbFrac s (jobTb (s.acc.inForce.job j)))

/-- Job `j`'s commands and routes brought to sample `r` after a step. -/
def stepCaughtUp (s : State) (j r : Nat) : State := settleRamps (catchUp (stepCounted s j) j r) j

theorem stepCaughtUp_facts (s : State) (j r : Nat) :
    Within [.inForce, .acc] [Reg.accStepCnt.addr [], Reg.accStepLast.addr []] s (stepCaughtUp s j r) ∧
      job (stepCaughtUp s j r) j = (job s j).caughtUp r ∧ (stepCaughtUp s j r).acc.inForce = s.acc.inForce := by
  have hramps := accSide_settleRamps (catchUp (stepCounted s j) j r) j
  have hjob : job (stepCounted s j) j = job s j := by rw [job, job, acc_stepCounted]
  refine ⟨((within_stepCounted s j).append (((onlyChanges_putJob _ j _).trans hramps.onlyChanges).within (by decide))).mono
    (by decide) (by simp), ?_, ?_⟩
  · rw [stepCaughtUp, hramps.job_eq, catchUp_eq, job_putJob_same, hjob]
  · rw [stepCaughtUp, hramps.inForce_eq, catchUp_eq, inForce_putJob, acc_stepCounted]

/-- What a step of its time base leaves of job `j`: it goes on at sample `a`, its new commands at `r`. -/
def stepRestarted (s : State) (j r a start : Nat) : State :=
  subsEmptied (restarted (continueAt (stepCaughtUp s j r) j a false false) j start (tb s (jobTb (s.acc.inForce.job j))).steps)
    (subRange (s.acc.inForce.job j))

/-- Job `j` waits for its START. -/
def startWaits (s : State) (j : Nat) : Bool := (job s j).pending.any fun c => c.op == 0

/-- The sample from which job `j`'s streams go on after a step. -/
def stepResume (s : State) (j : Nat) : Nat :=
  if startWaits s j then max (stepSample s j) (job s j).start else stepSample s j

/-- The first sample of job `j` after a step. -/
def stepStart (s : State) (j : Nat) : Nat :=
  if startWaits s j then max (stepSample s j) (job s j).start else min (job s j).start (stepSample s j)

theorem exec_jobStepRestart {j : Fin 1024} {el : Nat} (hnow : now = advance el s) (hstate : (job now j).state ≠ 0)
    (hstep : stepped now j = true) :
    exec (.jobStepRestart j el) s = done (stepRestarted now j (stepSample now j) (stepResume now j) (stepStart now j)) := by
  have honly := (stepCaughtUp_facts now j (stepSample now j)).1.1.append
    (accSide_continueAt (stepCaughtUp now j (stepSample now j)) j (stepResume now j) false).onlyChanges
  have htb : (tb (continueAt (stepCaughtUp now j (stepSample now j)) j (stepResume now j) false false)
      (jobTb (now.acc.inForce.job j))).steps = (tb now (jobTb (now.acc.inForce.job j))).steps := by
    rw [tb, tb, (honly .clock (by decide)).2]
  show execJobStepRestart j el s = _
  rw [execJobStepRestart, ← hnow, if_neg (by simp [hstate, hstep]), stepRestarted, ← htb]
  rfl

theorem stepRestarted_facts {a start : Nat} (s : State) (j r : Nat) :
    Within [.inForce, .acc] [Reg.accStepCnt.addr [], Reg.accStepLast.addr []] s (stepRestarted s j r a start) ∧
      (job (stepRestarted s j r a start) j).state = (job s j).state ∧
      (job (stepRestarted s j r a start) j).engine = (job s j).engine ∧ stepped (stepRestarted s j r a start) j = false := by
  obtain ⟨hcaught, hjob, hforce⟩ := stepCaughtUp_facts s j r
  have hcont := accSide_continueAt (stepCaughtUp s j r) j a false
  have hsubs := accSide_subsEmptied (restarted (continueAt (stepCaughtUp s j r) j a false false) j start
    (tb s (jobTb (s.acc.inForce.job j))).steps) (subRange (s.acc.inForce.job j))
  have honly := (hcont.onlyChanges.trans (onlyChanges_putJob (continueAt (stepCaughtUp s j r) j a false false) j
    { job (continueAt (stepCaughtUp s j r) j a false false) j with
      start := start, steps := (tb s (jobTb (s.acc.inForce.job j))).steps })).trans hsubs.onlyChanges
  have hall := (hcaught.append (honly.within (by decide))).mono (qs := [.inForce, .acc])
    (m := [Reg.accStepCnt.addr [], Reg.accStepLast.addr []]) (by decide) (by simp)
  have hend : job (stepRestarted s j r a start) j =
      { (job s j).caughtUp r with start := start, steps := (tb s (jobTb (s.acc.inForce.job j))).steps } := by
    rw [stepRestarted, hsubs.job_eq, restarted, job_putJob_same, hcont.job_eq, hjob]
  have hin : (stepRestarted s j r a start).acc.inForce = s.acc.inForce := by
    rw [stepRestarted, hsubs.inForce_eq, restarted, inForce_putJob, hcont.inForce_eq, hforce]
  refine ⟨hall, by rw [hend]; rfl, by rw [hend]; rfl, ?_⟩
  rw [stepped, hend, hin, tb, tb, show (stepRestarted s j r a start).time.tbs = s.time.tbs from (hall.1 .clock (by decide)).2]
  exact bne_self_eq_false _

theorem word_stepRestarted {a start : Nat} (q : RegRow) (ix : List Nat) :
    word (stepRestarted s j r a start) q ix = word (stepCounted s j) q ix := by
  have hramps := accSide_settleRamps (catchUp (stepCounted s j) j r) j
  have hsubs := accSide_subsEmptied (restarted (continueAt (stepCaughtUp s j r) j a false false) j start
    (tb s (jobTb (s.acc.inForce.job j))).steps) (subRange (s.acc.inForce.job j))
  have honly : OnlyChanges [.acc] (stepCounted s j) (stepRestarted s j r a start) :=
    (((onlyChanges_putJob _ j _).trans hramps.onlyChanges).trans (accSide_continueAt _ j a false).onlyChanges).trans
      ((onlyChanges_putJob _ j _).trans hsubs.onlyChanges)
  exact (honly.within (by decide)).2.word_eq (by simp)

/-- Settles O33: each end of a move and each restart writes one job, the engines' streams beside the jobs, and what is counted. -/
theorem jobsMoveAndRecover : Obligations.JobsMoveAndRecover := by
  unfold Obligations.JobsMoveAndRecover
  refine ⟨?_, ?_, ?_, ?_, ?_, ?_⟩
  · intro s j m hmove hcomputed
    obtain ⟨honly, hjob, hother⟩ := switchEngine_facts s j m.dest m.reason m.load m.queues
    have hexec : exec (.migrationCompare j true) s = done (switchEngine s j m.dest m.reason m.load m.queues) :=
      exec_migrationCompare hmove hcomputed true
    exact does_of_all hexec honly
      ⟨by rw [hjob]; rfl, by rw [hjob]; rfl, by rw [hjob]; rfl, hother⟩ fun _ _ h => h
  · intro s j m hmove hcomputed
    have hcount := within_mismatchCounted s j
    obtain ⟨honly, hengine, hnone⟩ := abandonMove_facts (s := mismatchCounted s j) (j := j) (m := m)
      (by rw [job_mismatchCounted]; exact hmove)
    have hall := (hcount.append (honly.within (by decide))).mono (qs := [.inForce, .acc, .place])
      (m := [Reg.accMigmisCnt.addr [], Reg.accMigmisLast.addr []]) (by decide) (by simp)
    have hregs := (honly.within (by decide)).2
    refine does_of_all (exec_migrationCompare hmove hcomputed false) hall.1 ⟨?_, hnone, ?_, ?_, hall.2⟩ fun _ _ h => h
    · exact hengine.trans (by rw [job_mismatchCounted])
    · exact (hregs.word_eq (by simp)).trans word_mismatchCounted
    · exact (hregs.word_eq (by simp)).trans word_putWord_same
  · intro s e j hjobs hengine hstate hmove
    have hexec : exec (.engineFault e) s = done (jobFaulted s j) := congrArg done (faultEngine_one hjobs hengine hstate hmove)
    obtain ⟨honly, hregs⟩ := within_jobFaulted s j
    exact does_of_all hexec honly ⟨job_putJob_same, word_jobFaulted.1, word_jobFaulted.2, hregs⟩ fun _ _ h => h
  · intro s j e el b now hnow hstate hrestart hup hengine hnear _
    obtain ⟨honly, hfacts⟩ := faultRestarted_facts now j e (applyLead now (now.acc.inForce.job j)) _ hstate
    exact doesFrom_of_all (exec_jobFaultRestart hnow hstate hrestart hup hengine hnear) honly hfacts fun _ _ h => h
  · intro s j el r now hnow _ hrestart hpend hreach
    exact doesFrom_of_all (exec_resume hnow hpend hrestart hreach) (onlyChanges_putJob now j _)
      ⟨job_putJob_same, fun k hk => job_putJob_other hk⟩ fun _ _ h => h
  · intro s j el now hnow hstate hstep
    have hexec := exec_jobStepRestart hnow hstate hstep
    obtain ⟨hall, hstate', hengine, hstep'⟩ := stepRestarted_facts (a := stepResume now j) (start := stepStart now j) now j (stepSample now j)
    refine doesFrom_of_all hexec hall.1 ⟨hstate', hengine, hstep', ?_, ?_, fun i hi => accepted_subsEmptied hi, hall.2⟩ fun _ _ h => h
    · exact (word_stepRestarted _ _).trans word_stepCounted.1
    · exact (word_stepRestarted _ _).trans word_stepCounted.2

end
end Sys2Proof.Machine

/-! PROOFS. Frames at a front port, pause, and a port's decision (R64 to R67, R71 to R74, R195, R216). -/
namespace Sys2Proof.Machine

/-! ### What waits for a frame boundary -/

section
variable {s now u v : State} {p f k i n : Nat} {x y : Frame} {b hdr : List Byte}

theorem frameBoundary_none (h : s.regs.waiting = []) (rx : Bool) : frameBoundary s p rx = s := by
  rw [frameBoundary, frmApply, h]
  rfl

theorem waiting_eta (h : s.regs.waiting = []) : { s with regs := { s.regs with waiting := [] } } = s := by
  rw [← h]

theorem applyWhere_none (h : s.regs.waiting = []) (g : PendApply → Bool) : applyWhere s g = s := by
  rw [applyWhere, h]
  exact waiting_eta h

/-! ### The hierarchy's flow map -/

theorem flowUpdate_out (h : inHierarchy s = false) (always : Bool) : flowUpdate s always = s := by
  rw [flowUpdate, h]
  rfl

theorem onlyChanges_sendLeaf (s : State) (g : Nat) (bs : List Byte) : OnlyChanges [.izl, .counters] s (sendLeaf s g bs) :=
  (((onlyChanges_putIzlGroup s g _).trans (onlyChanges_putIzlGroup _ g _)).append (onlyChanges_bump _ _ _ _ _)).mono (by decide)

theorem onlyChanges_sendControl (s : State) (g : Nat) (bs : List Byte) : OnlyChanges [.izl, .counters] s (sendControl s g bs) :=
  OnlyChanges.ite (onlyChanges_sendLeaf s g _) (.refl _ s)

theorem onlyChanges_sendFlow (s : State) : OnlyChanges [.izl, .counters] s (sendFlow s) :=
  OnlyChanges.foldl (fun t g => onlyChanges_sendControl t g _) _ s

theorem onlyChanges_flowUpdate (s : State) (always : Bool) : OnlyChanges [.izl, .counters] s (flowUpdate s always) := by
  unfold flowUpdate
  refine OnlyChanges.ite (.refl _ s) ?_
  extract_lets m changed x u
  have hmap : OnlyChanges [.izl, .counters] s u := (onlyChanges_of_izl s _).mono (by decide)
  refine OnlyChanges.ite (hmap.trans ?_) hmap
  exact (((onlyChanges_of_izl u _).append (onlyChanges_sendFlow _))).mono (by decide)

/-! ### A header -/

theorem headerIn_number (hwait : s.regs.waiting = []) (len : Nat) (steer : Option Steer) : (headerIn s p len hdr steer).2 = s.nextFrame := by
  unfold headerIn
  rw [frameBoundary_none hwait, applyWhere_none hwait]
  extract_lets _ _ _ _ _ _ _ _ _ drop
  split
  · rfl
  · split
    · rfl
    · clear_value drop
      cases drop <;> rfl

theorem cutOff_idle (h : (port s p).receiving = none) : cutOff s p = s := by rw [cutOff, h]

/-- A frame dropped at its header, as the next number's. -/
def numbered (s : State) : State := { s with nextFrame := s.nextFrame + 1 }

theorem onlyChanges_numbered (s : State) : OnlyChanges [.frames] s (numbered s) := by
  intro q hq; cases q <;> simp_all [Part.same, numbered]

theorem headerIn_short {len : Nat} (hwait : s.regs.waiting = []) (hp : p < 80) (hlen : len < 64) (steer : Option Steer) :
    headerIn s p len hdr steer = (dropFrame (numbered s) s.nextFrame (newFrame (numbered s) p len hdr), s.nextFrame) := by
  unfold headerIn
  rw [frameBoundary_none hwait, applyWhere_none hwait]
  exact if_pos (.inl ⟨hp, .inl hlen⟩)

theorem frame_putFrame_same : frame (putFrame s f x) f = some x := find_put_same

/-- Port `p` as it receives frame `f`. -/
def receivingAt (s : State) (p f : Nat) : State := putPort s p { port s p with receiving := some f }

theorem exec_frameHeaderRx {p : Fin 96} {el len : Nat} (hnow : now = advance el s) (hreceives : receives now p = true)
    (hidle : (port now p).receiving = none) (hwait : now.regs.waiting = []) :
    exec (.frameHeaderRx p el len hdr) s =
      done (flowUpdate (receivingAt (headerIn now p len hdr none).1 p now.nextFrame) false) := by
  show execFrameHeaderRx p el len hdr s = _
  rw [execFrameHeaderRx, ← hnow, if_pos hreceives, cutOff_idle hidle, ← headerIn_number hwait len none]
  rfl

theorem inHierarchy_receivingAt : inHierarchy (receivingAt s p f) = inHierarchy s := rfl

theorem inHierarchy_dropped : inHierarchy (dropFrame (numbered s) f x) = inHierarchy s := rfl

/-! ### Counters -/

/-- Nothing changes but the counters. -/
def Counted (s u : State) : Prop := ∃ c, u = { s with regs := { s.regs with counters := c } }

theorem Counted.refl (s : State) : Counted s s := ⟨s.regs.counters, rfl⟩

theorem Counted.trans (h : Counted s u) (h' : Counted u v) : Counted s v := by
  obtain ⟨c, rfl⟩ := h
  obtain ⟨c', rfl⟩ := h'
  exact ⟨c', rfl⟩

theorem counted_bump (s : State) (g : CtrGroup) (ix : List Nat) (i n : Nat) : Counted s (bump s g ix i n) := ⟨_, rfl⟩

theorem counted_countPort (s : State) (p i n : Nat) : Counted s (countPort s p i n) := by
  unfold countPort
  split
  · exact .refl s
  · split
    · exact counted_bump s _ _ i n
    · split
      · exact counted_bump s _ _ i n
      · exact .refl s

theorem counted_countAccepted (s : State) (p : Nat) (bs : List Byte) : Counted s (countAccepted s p bs) :=
  (((counted_countPort s p 0 _).trans (counted_countPort _ p 2 1)).trans (counted_countPort _ p _ 1)).trans
    (counted_countPort _ p _ 1)

theorem Counted.onlyChanges (h : Counted s u) : OnlyChanges [.counters] s u := by
  obtain ⟨c, rfl⟩ := h
  intro q hq; cases q <;> simp_all [Part.same]

theorem countPort_front (hp : p < 48) (hgroup : portGroup s p = none) : countPort s p i n = bump s Ctr.hport [p] i n := by
  rw [countPort, if_neg (fun h => h.2 hgroup), if_pos hp]

theorem Counted.portGroup_eq (h : Counted s u) : portGroup u p = portGroup s p := by
  obtain ⟨c, rfl⟩ := h
  rfl

theorem ctr_countPort_same (hp : p < 48) (hgroup : portGroup s p = none) :
    ctr (countPort s p i n) Ctr.hport [p] i = (ctr s Ctr.hport [p] i + n) % 2 ^ Ctr.hport.widths.getD i 0 := by
  rw [countPort_front hp hgroup, ctr_bump_same]

theorem ctr_countPort_other (hp : p < 48) (hgroup : portGroup s p = none) (h : k ≠ i) :
    ctr (countPort s p i n) Ctr.hport [p] k = ctr s Ctr.hport [p] k := by
  rw [countPort_front hp hgroup]
  have haddr (j : Nat) : Ctr.hport.addr [p] j = 0x104000 + (p * 0x10000 + 0) + 8 * j := rfl
  exact ctr_bump_other (by rw [haddr, haddr]; omega)

/-- The counters 0 and 2 of an accepted frame at a front port; counter 1 stays. -/
theorem ctr_countAccepted (hp : p < 48) (hgroup : portGroup s p = none) (bs : List Byte) :
    ctr (countAccepted s p bs) Ctr.hport [p] 2 = (ctr s Ctr.hport [p] 2 + 1) % 2 ^ 40 ∧
      ctr (countAccepted s p bs) Ctr.hport [p] 0 = (ctr s Ctr.hport [p] 0 + bs.length) % 2 ^ 48 ∧
      ctr (countAccepted s p bs) Ctr.hport [p] 1 = ctr s Ctr.hport [p] 1 := by
  unfold countAccepted
  extract_lets n da s1 s2
  have h0 : Counted s (countPort s p 0 n) := counted_countPort s p 0 n
  have h1 : Counted s s1 := h0.trans (counted_countPort _ p 2 1)
  have h2 : Counted s s2 := h1.trans (counted_countPort _ p _ 1)
  have hg0 := h0.portGroup_eq.trans hgroup
  have hg1 := h1.portGroup_eq.trans hgroup
  have hg2 := h2.portGroup_eq.trans hgroup
  have hlate (k : Nat) (hk : k < 3) : ctr (countPort s2 p (if n ≤ 64 then 17 else if n ≤ 127 then 18 else if n ≤ 255 then 19
      else if n ≤ 511 then 20 else if n ≤ 1023 then 21 else if n ≤ 1522 then 22 else 23) 1) Ctr.hport [p] k =
      ctr s1 Ctr.hport [p] k := by
    rw [ctr_countPort_other hp hg2 (by split_ifs <;> omega)]
    exact ctr_countPort_other hp hg1 (by split_ifs <;> omega)
  rw [hlate 2 (by decide), hlate 0 (by decide), hlate 1 (by decide)]
  refine ⟨?_, ?_, ?_⟩
  · rw [ctr_countPort_same hp hg0, ctr_countPort_other hp hgroup (by decide)]
    rfl
  · rw [ctr_countPort_other hp hg0 (by decide), ctr_countPort_same hp hgroup]
    rfl
  · rw [ctr_countPort_other hp hg0 (by decide), ctr_countPort_other hp hgroup (by decide)]

/-! ### The tail of a frame that went nowhere -/

/-- A frame that no egress took and that no cell was granted. -/
structure Forlorn (s : State) (x : Frame) : Prop where
  bad : x.bad = true
  copies : x.copies = 0
  head : x.head = none
  staging : x.staging = none
  source : x.source = none
  queues : s.sched.queues = []
  reqs : s.bpm.cellReqs = []

/-- The frames with frame `f` gone. -/
def forgotten (s : State) (f : Nat) (l : Sparse Frame) : State := { s with frames := drop l f }

theorem forget_gone (hx : frame s f = some x) (hcopies : x.copies = 0) (hhead : x.head = none) (hwhole : x.whole = true)
    (hreqs : s.bpm.cellReqs = []) : forget s f = forgotten s f s.frames := by
  rw [forget, hx]
  exact if_pos ⟨hcopies, by rw [hhead]; rfl, hwhole, by rw [hreqs]; rfl⟩

theorem raiseMaxima_none (h : s.sched.queues = []) : raiseMaxima s f = s := by
  rw [raiseMaxima, h]
  rfl

/-- A frame that no longer holds what it was copied from. -/
def Frame.detached (x : Frame) : Frame := { x with staging := none, source := none }

theorem closeChain_bare (hx : frame s f = some x) (hstaging : x.staging = none) (hsource : x.source = none) (hhead : x.head = none) :
    closeChain s f = forget (putFrame s f x.detached) f := by
  unfold closeChain
  split
  · next hnone => rw [hx] at hnone; cases hnone
  next x' hsome =>
  obtain rfl := Option.some.inj (hx.symm.trans hsome)
  extract_lets s1 s2 s3 s4
  have hs2 : s2 = s1 := by unfold s2; rw [hstaging]
  have hs3 : s3 = s1 := by unfold s3; rw [hsource]; exact hs2
  have hs4 : s4 = s1 := by unfold s4; rw [hhead]; exact hs3
  rw [hs4]
  rfl

theorem closeChain_gone (hx : frame s f = some x) (h : Forlorn s x) (hwhole : x.whole = true) :
    ∃ l, closeChain s f = forgotten s f l := by
  refine ⟨put s.frames f x.detached, ?_⟩
  rw [closeChain_bare hx h.staging h.source h.head]
  exact forget_gone frame_putFrame_same h.copies h.head hwhole h.reqs

/-- A frame that is whole and no longer waits at its tail. -/
def Frame.ended (x : Frame) : Frame := { x with whole := true, tailWaits := false }

theorem closeFrame_bad (hx : frame s f = some x) (hbad : x.bad = true) :
    closeFrame s f = raiseMaxima (closeChain (putFrame s f x.ended) f) f := by
  rw [closeFrame, hx]
  show raiseMaxima (if (x.bad || cellsFull x) = true then closeChain (putFrame s f x.ended) f else putFrame s f x.ended) f = _
  rw [hbad]
  rfl

theorem closeFrame_gone (hx : frame s f = some x) (h : Forlorn s x) : ∃ l, closeFrame s f = forgotten s f l := by
  obtain ⟨l, hl⟩ := closeChain_gone (s := putFrame s f x.ended) (f := f)
    frame_putFrame_same ⟨h.bad, h.copies, h.head, h.staging, h.source, h.queues, h.reqs⟩ rfl
  exact ⟨l, by rw [closeFrame_bad hx h.bad, hl]; exact raiseMaxima_none h.queues⟩

theorem completeTail_gone (hx : frame s f = some x) (h : Forlorn s x) (hlearn : x.learn = none) (hdropped : x.dropped = true) :
    ∃ l, completeTail s f = forgotten (countAccepted s x.inPort x.bytes) f l := by
  obtain ⟨c, hc⟩ := counted_countAccepted s x.inPort x.bytes
  obtain ⟨l, hl⟩ := closeFrame_gone (s := countAccepted s x.inPort x.bytes) (f := f) (x := x) (by rw [hc]; exact hx)
    ⟨h.bad, h.copies, h.head, h.staging, h.source, by rw [hc]; exact h.queues, by rw [hc]; exact h.reqs⟩
  refine ⟨l, ?_⟩
  rw [completeTail, hx]
  dsimp only
  rw [hlearn, hdropped, if_pos rfl, hl]

/-- The counters at the tail of a frame whose bytes are `bs`. -/
def tailCounted (s : State) (p : Nat) (bs : List Byte) : State := countAccepted (countPort s p 1 bs.length) p bs

theorem counted_tailCounted (s : State) (p : Nat) (bs : List Byte) : Counted s (tailCounted s p bs) :=
  (counted_countPort s p 1 _).trans (counted_countAccepted _ p bs)

theorem Counted.selectionOf_eq (h : Counted s u) : selectionOf u p none = selectionOf s p none := by
  obtain ⟨c, rfl⟩ := h
  rfl

theorem recordFrame_none {stamp : Stamp} {bad stomped : Bool} (h : selectionOf s p none = none) :
    recordFrame s p none stamp bad stomped b = s := by rw [recordFrame, h]

/-- A frame with its last bytes. -/
def Frame.complete (x : Frame) (bs : List Byte) : Frame := { x with bytes := bs, length := bs.length, metered := none, stormed := none }

theorem countPort_putFrame : countPort (putFrame s f x) p i n = putFrame (countPort s p i n) f x := by
  have hgroup : portGroup (putFrame s f x) p = portGroup s p := rfl
  unfold countPort
  rw [hgroup]
  split_ifs <;> rfl

theorem countAccepted_putFrame (bs : List Byte) : countAccepted (putFrame s f x) p bs = putFrame (countAccepted s p bs) f x := by
  simp only [countAccepted, countPort_putFrame]

theorem requestCells_bad (hx : frame s f = some x) (hbad : x.bad = true) : requestCells s f = s := by
  rw [requestCells, hx]
  exact if_pos (.inr (.inl hbad))

theorem tailIn_gone {rest : List Byte} (hx : frame s f = some x) (h : Forlorn s x) (hp : x.inPort < 80) (hlearn : x.learn = none)
    (hdropped : x.dropped = true) (hstream : x.stream = none) (hstormed : x.stormed = none) (hmid : x.mid = false)
    (hsel : selectionOf s x.inPort none = none) (hrow : tailRow (x.bytes ++ rest) x.mru false = none) :
    ∃ l, tailIn s f rest false = forgotten (tailCounted s x.inPort (x.bytes ++ rest)) f l := by
  unfold tailIn
  split
  · next hnone => rw [hx] at hnone; cases hnone
  next x' hsome =>
  obtain rfl := Option.some.inj (hx.symm.trans hsome)
  extract_lets bs n s1 s2 row s3 s4 y s5
  have hs1 : s1 = s := by unfold s1; rw [hstream]
  have hs2 : s2 = s := by unfold s2; rw [correctStorm, hstormed, correctMeter, hstream, hs1]
  have hrow' : row = none := (if_pos hp).trans hrow
  have hs3 : s3 = countPort s x.inPort 1 bs.length := by unfold s3; rw [hs2]
  have hcount : Counted s s3 := by rw [hs3]; exact counted_countPort s _ 1 _
  have hs4 : s4 = s3 := by unfold s4; rw [hstream, recordFrame_none (hcount.selectionOf_eq.trans hsel)]
  have hs5 : s5 = putFrame s4 f y := by
    show sduAtTail (putFrame s4 f y) f y = _
    rw [sduAtTail, show y.stream = none from hstream]
  have hy : frame s5 f = some y := by rw [hs5, frame_putFrame_same]
  have hforlorn : Forlorn s5 y := by
    rw [hs5, hs4]
    obtain ⟨c, hc⟩ := hcount
    exact ⟨h.bad, h.copies, h.head, h.staging, h.source, by rw [hc]; exact h.queues, by rw [hc]; exact h.reqs⟩
  obtain ⟨l, hl⟩ := completeTail_gone hy hforlorn hlearn hdropped
  refine ⟨l, ?_⟩
  clear_value row s5
  subst hrow'
  rw [hy]
  show (if y.mid = true then _ else if cellsReady y = true then completeTail (requestCells s5 f) f else _) = _
  rw [if_neg (by rw [show y.mid = false from hmid]; decide), if_pos (by rw [cellsReady, hforlorn.bad]; rfl),
    requestCells_bad hy hforlorn.bad, hl, hs5, hs4, hs3, countAccepted_putFrame]
  rfl

/-- Port `p` once the frame that it was receiving has ended. -/
def unreceiving (s : State) (p : Nat) : State := putPort s p { port s p with receiving := none }

theorem exec_frameTailRx {p : Fin 96} {el : Nat} {rest : List Byte} (hnow : now = advance el s)
    (hreceiving : (port now p).receiving = some f) (hx : frame now f = some x) (htype : field (x.bytes ++ rest) 12 2 ≠ 0x8808) :
    exec (.frameTailRx p el rest false) s = done (flowUpdate (tailIn (unreceiving now p) f rest false) false) := by
  have hctl : (field (x.bytes ++ rest) 12 2 == 0x8808 && decide (p.val < 80) && !halfDuplex (tailIn (unreceiving now p) f rest false) p &&
      (tailRow (x.bytes ++ rest) x.mru false).isNone) = false := by
    rw [beq_eq_false_iff_ne.2 htype]
    rfl
  show execFrameTailRx p el rest false s = _
  unfold execFrameTailRx
  rw [← hnow]
  dsimp only
  rw [hreceiving]
  show (match frame now f with
    | none => done (unreceiving now p)
    | some x => done (flowUpdate (if (field (x.bytes ++ rest) 12 2 == 0x8808 && decide (p.val < 80) &&
        !halfDuplex (tailIn (unreceiving now p) f rest false) p && (tailRow (x.bytes ++ rest) x.mru false).isNone) = true
      then macControl (tailIn (unreceiving now p) f rest false) p (x.bytes ++ rest)
      else tailIn (unreceiving now p) f rest false) false)) = _
  rw [hx]
  dsimp only
  rw [hctl, if_neg Bool.false_ne_true]

/-! ### Pause -/

theorem Counted.flowMode_eq (h : Counted s u) : flowMode u p = flowMode s p := by
  obtain ⟨c, rfl⟩ := h
  rfl

theorem Counted.macRd_eq (h : Counted s u) (q r : RegRow) (hi lo : Nat) : macRd u q r p hi lo = macRd s q r p hi lo := by
  obtain ⟨c, rfl⟩ := h
  rfl

theorem Counted.lineTicks_eq (h : Counted s u) : lineTicks u p n = lineTicks s p n := by
  obtain ⟨c, rfl⟩ := h
  rfl

theorem Counted.port_eq (h : Counted s u) (q : Nat) : port u q = port s q := by
  obtain ⟨c, rfl⟩ := h
  rfl

theorem Counted.dt_eq (h : Counted s u) : u.time.dt = s.time.dt := by
  obtain ⟨c, rfl⟩ := h
  rfl

/-- Port `p` held for the quanta of the pause frame `b`. -/
def pausedBy (s : State) (p : Nat) (b : List Byte) : Port :=
  { port s p with
    paused := if field b 16 2 = 0 then none else some (s.time.dt + lineTicks s p (64 * field b 16 2)) }

theorem Counted.pausedBy_eq (h : Counted s u) : pausedBy u p b = pausedBy s p b := by
  rw [pausedBy, pausedBy, h.port_eq, h.dt_eq, h.lineTicks_eq]

theorem macControl_pause (hop : field b 14 2 = 1) (hmode : flowMode s p = 1) (hrx : macRd s Reg.hpFlow Reg.cpFlow p 5 5 = 1) :
    ∃ u, Counted s u ∧ macControl s p b = putPort u p (pausedBy u p b) := by
  have hcount := counted_countPort s p 6 1
  refine ⟨_, hcount, ?_⟩
  unfold macControl
  rw [hop]
  exact if_pos ⟨rfl, hcount.flowMode_eq.trans hmode, (hcount.macRd_eq _ _ 5 5).trans hrx⟩

theorem controlFrameIn_pause (hhalf : halfDuplex s p = false) (hidle : (port s p).receiving = none) (hwait : s.regs.waiting = [])
    (hsel : selectionOf s p none = none) (hrow : tailRow b (mru s p) false = none) (hop : field b 14 2 = 1)
    (hmode : flowMode s p = 1) (hrx : macRd s Reg.hpFlow Reg.cpFlow p 5 5 = 1) :
    ∃ u, Counted s u ∧ controlFrameIn s p b = putPort u p (pausedBy u p b) := by
  have hcount := counted_countPort s p 1 b.length
  have haccept := hcount.trans (counted_countAccepted _ p b)
  obtain ⟨u, hu, heq⟩ := macControl_pause (b := b) hop (haccept.flowMode_eq.trans hmode) ((haccept.macRd_eq _ _ 5 5).trans hrx)
  refine ⟨u, haccept.trans hu, ?_⟩
  rw [controlFrameIn, hhalf, if_neg Bool.false_ne_true, cutOff_idle hidle, frameBoundary_none hwait]
  dsimp only
  rw [recordFrame_none (hcount.selectionOf_eq.trans hsel), hrow]
  exact heq

theorem nextOwn_control (hown : (port s p).own = []) {o : OwnFrame} (hcontrol : o.isControl = true) :
    nextOwn (ownQueued s p o) p = some o := by
  rw [nextOwn, port_ownQueued, hown]
  simp [hcontrol]

/-- Port `p` as an XOFF is sent now. -/
def xoffNoted (s : State) (p q : Nat) : State := if q = 0 then s else putPort s p { port s p with xoffAt := s.time.dt }

theorem sendPause_eq (q : Nat) : sendPause s p q = sendOwn (xoffNoted s p q) p ⟨.control 29, 0, pauseFrame (xoffNoted s p q) p q⟩ := rfl

theorem xoffNoted_facts (q : Nat) (hfree : LineFree s p) (hlink : linkUp s p = true) :
    LineFree (xoffNoted s p q) p ∧ linkUp (xoffNoted s p q) p = true ∧ OnlyChanges [.ports] s (xoffNoted s p q) ∧
      (∀ r, r ≠ p → port (xoffNoted s p q) r = port s r) ∧ pauseFrame (xoffNoted s p q) p q = pauseFrame s p q ∧
      egressStamp (xoffNoted s p q) p = egressStamp s p ∧ (xoffNoted s p q).time = s.time := by
  unfold xoffNoted
  split
  · exact ⟨hfree, hlink, .refl _ s, fun _ _ => rfl, rfl, rfl, rfl⟩
  · refine ⟨?_, hlink, onlyChanges_putPort s p _, fun r hr => port_putPort_other hr s _, rfl, rfl, rfl⟩
    obtain ⟨hbusy, hown, hwake, hlpi, hcarrier⟩ := hfree
    rw [LineFree, lineBusy, port_putPort_same]
    exact ⟨hbusy, hown, hwake, hlpi, hcarrier⟩

theorem port_begun_other {o : OwnFrame} {q : Nat} (h : q ≠ p) : port (begun s p o) q = port s q :=
  (port_putPort_other h _ _).trans (port_putPort_other h s _)

/-! ### A port's decision -/

theorem dropHeads_none {q : Nat} (h : headDrop s p q = none) : dropHeads n s p q = s := by
  cases n with
  | zero => rfl
  | succ n => rw [dropHeads, h]

theorem clearHeads_none (h : ∀ q, headDrop s p q = none) : clearHeads s p = s := by
  unfold clearHeads
  exact List.foldlRecOn (motive := fun t => t = s) _ _ rfl fun t ht q _ => by rw [ht, dropHeads_none (h q)]

theorem endLine_free (hsending : find s.sched.sending p = none) (hown : (port s p).ownNow = none) : endLine s p = (s, true) := by
  rw [endLine, endSending, hsending]
  dsimp only
  rw [endOwn, hown]

theorem boundary_serves (hp : p < 80) (hu : u = applyPending (gateCatchUp gateFuel s p) p)
    (hsending : find (gateCatchUp gateFuel s p).sched.sending p = none)
    (hown : (port (gateCatchUp gateFuel s p) p).ownNow = none) (hawaits : awaitsBuffer (gateCatchUp gateFuel s p) p = false)
    (hlink : linkUp u p = true) (hheads : ∀ q, headDrop u p q = none) (hwake : (port u p).wakeAt ≤ u.time.dt)
    (hcarrier : (port u p).carrier = false) (hnext : nextOwn u p = none) :
    boundary s p = serveNext (settleCredit u p) p := by
  have hp95 : (p == 95) = false := beq_eq_false_iff_ne.2 (by omega)
  unfold boundary
  rw [if_pos hp]
  dsimp only
  rw [endLine_free hsending hown]
  dsimp only
  rw [hawaits, hp95, Bool.false_and, Bool.or_self, if_neg Bool.false_ne_true, ← hu, if_pos hlink, clearHeads_none hheads,
    if_neg (Nat.not_lt.2 hwake), hcarrier, Bool.and_false, if_neg Bool.false_ne_true, hnext]

theorem serveNext_begins {cls q : Nat} {c : Copy} {l : List Copy} (hp : p < 80) (hdecide : decideQueue s p = some (cls, q, v))
    (hcopies : (queue s q).copies = c :: l) (hx : frame s c.frame = some x) :
    serveNext s p = beginSending (chargeShapers v p cls q x.length) p cls q c x := by
  rw [serveNext, hdecide]
  dsimp only
  rw [hcopies]
  dsimp only
  rw [hx]
  exact if_pos (.inl hp)

theorem onlyChanges_spendCredit (s : State) (p c n : Nat) : OnlyChanges [.sched] s (spendCredit s p c n) :=
  OnlyChanges.ite (onlyChanges_putPortSched s p _) (.refl _ s)

theorem onlyChanges_chargeShapers (s : State) (p cls q n : Nat) : OnlyChanges [.sched] s (chargeShapers s p cls q n) := by
  unfold chargeShapers
  extract_lets s1 z s2
  have h2 : OnlyChanges [.sched] s1 s2 := OnlyChanges.ite (onlyChanges_putQueue s1 q _) (.refl _ s1)
  exact ((onlyChanges_settleBalance s q).trans h2).trans (onlyChanges_spendCredit s2 p cls n)

theorem onlyChanges_takeCopy (s : State) (q : Nat) (c : Copy) : OnlyChanges [.sched, .ports] s (takeCopy s q c) := by
  unfold takeCopy
  extract_lets e s1 y left s2 z s3
  have h2 : OnlyChanges [.sched] s s2 := (onlyChanges_settleCredit s e).trans (onlyChanges_putQueue s1 q _)
  have h3 : OnlyChanges [.ports] s2 s3 := OnlyChanges.ite (onlyChanges_putPort s2 e _) (.refl _ s2)
  have h23 : OnlyChanges [.sched, .ports] s s3 := h2.append h3
  exact OnlyChanges.ite (h23.trans ((onlyChanges_putPortSched s3 e _).mono (by decide))) h23

/-- The transmission of copy `c` of frame `x` that begins at port `p` in `s`. -/
def sendingOf (s : State) (p cls q : Nat) (c : Copy) (x : Frame) : Sending :=
  { frame := c.frame, copy := c, queue := q, cls := cls, startedAt := s.time.dt, stamp := egressStamp s p, cut := !x.whole }

theorem beginSending_facts (s : State) (p cls q : Nat) (c : Copy) (x : Frame) :
    OnlyChanges [.sched, .ports, .counters] s (beginSending s p cls q c x) ∧
      find (beginSending s p cls q c x).sched.sending p = some (sendingOf (takeCopy s q c) p cls q c x) := by
  unfold beginSending
  extract_lets s1 y z s2 z2 s3
  have h1 : OnlyChanges [.sched, .ports] s s1 := onlyChanges_takeCopy s q c
  have h2 : OnlyChanges [.sched] s1 s2 := onlyChanges_of_sched s1 _
  have h3 : OnlyChanges [.ports] s2 s3 := OnlyChanges.ite (onlyChanges_putPort s2 p _) (.refl _ s2)
  have hfind : find s3.sched.sending p = some y := by
    rw [h3 .sched (by decide)]
    exact find_put_same
  have hall : OnlyChanges [.sched, .ports, .counters] s s3 := ((h1.append h2).append h3).mono (by decide)
  split
  · exact ⟨hall, hfind⟩
  · exact ⟨hall.trans ((onlyChanges_bump s3 _ _ _ _).mono (by decide)), hfind⟩

end

/-- Settles O15: a header takes the next number; the tail of a dropped frame closes and forgets it beside the counters; pauses
are written to their port; and a free port begins what its decision chose. -/
theorem framesComeAndGo : Obligations.FramesComeAndGo := by
  unfold Obligations.FramesComeAndGo
  refine ⟨?_, ?_, ?_, ?_, ?_, ?_, ?_, ?_, ?_, ?_⟩
  · intro s p el len hdr now hnow hreceives hidle hwait
    refine ⟨_, exec_frameHeaderRx hnow hreceives hidle hwait, ?_⟩
    rw [port, settle_ports, (onlyChanges_flowUpdate _ false) .ports (by decide), ← port, receivingAt, port_putPort_same]
  · intro s p el len hdr now hnow hp hlen hreceives hidle hwait hout
    have hexec := exec_frameHeaderRx (hdr := hdr) (len := len) hnow hreceives hidle hwait
    rw [headerIn_short hwait hp hlen] at hexec
    replace hexec := hexec.trans (congrArg done (flowUpdate_out (by rw [inHierarchy_receivingAt, inHierarchy_dropped, hout]) false))
    refine doesFrom_of_all hexec (((onlyChanges_numbered now).append ((onlyChanges_putFrame _ _ _).append
      (onlyChanges_putPort _ p _))).mono (by decide)) ⟨rfl, ?_, _, frame_putFrame_same, rfl, rfl, rfl, rfl⟩ fun _ _ h => h
    exact congrArg Port.receiving (port_putPort_same _ _ _)
  · intro s p el rest f x now hnow hgroup hreceiving hx hin hdropped hbad hmid hcopies hhead hstaging hsource hlearn hstream
      hstormed hqueues hreqs hsel hout hrow htype
    obtain ⟨l, hl⟩ := tailIn_gone (s := unreceiving now p) (f := f) (rest := rest) hx
      ⟨hbad, hcopies, hhead, hstaging, hsource, hqueues, hreqs⟩ (by rw [hin]; exact p.isLt) hlearn hdropped hstream hstormed hmid
      (by rw [hin]; exact hsel) hrow
    rw [hin] at hl
    have hexec := exec_frameTailRx (p := ⟨p, by omega⟩) (el := el) hnow hreceiving hx htype
    have hcount := counted_tailCounted (unreceiving now p) p (x.bytes ++ rest)
    have hforgot : OnlyChanges [.frames] (tailCounted (unreceiving now p) p (x.bytes ++ rest))
        (forgotten (tailCounted (unreceiving now p) p (x.bytes ++ rest)) f l) := by
      intro q hq; cases q <;> simp_all [Part.same, forgotten]
    have hall := (onlyChanges_putPort now p { port now p with receiving := none }).append (hcount.onlyChanges.append hforgot)
    have hout' : inHierarchy (forgotten (tailCounted (unreceiving now p) p (x.bytes ++ rest)) f l) = false := by
      obtain ⟨c, hc⟩ := hcount
      rw [hc]
      exact hout
    rw [hl, flowUpdate_out hout'] at hexec
    refine doesFrom_of_all hexec (hall.mono (by decide)) ⟨?_, find_drop_same, fun hp => ?_⟩ fun _ _ h => h
    · exact congrArg Port.receiving ((hcount.port_eq p).trans (port_putPort_same now p _))
    · have hgroup' := (counted_countPort (unreceiving now p) p 1 (x.bytes ++ rest).length).portGroup_eq.trans hgroup
      obtain ⟨hframes, hbytes, hall⟩ := ctr_countAccepted hp hgroup' (x.bytes ++ rest)
      have hgroup0 : portGroup (unreceiving now p) p = none := hgroup
      rw [ctr_countPort_other hp hgroup0 (by decide)] at hframes hbytes
      rw [ctr_countPort_same hp hgroup0] at hall
      rw [← List.length_append]
      exact ⟨hframes, hbytes, hall⟩
  · intro s p el len hdr now hnow hreceives
    have hexec : exec (.frameHeaderRx p el len hdr) s = done now := by
      show execFrameHeaderRx p el len hdr s = _
      rw [execFrameHeaderRx, ← hnow, hreceives]
      rfl
    exact doesFrom_of_all hexec (.refl _ now) trivial fun _ _ h => h
  · intro s p el bytes now hnow hreceives
    have hexec : exec (.ptpMessageRx p el bytes) s = done (wholeFrameIn now p bytes) := by
      show execPtpMessageRx p el bytes s = _
      rw [execPtpMessageRx, ← hnow]
      exact if_pos hreceives
    exact ⟨_, hexec, rfl⟩
  · intro s p el b now hnow hreceives hhalf hidle htype hop hwait hsel hrow hmode hrx
    obtain ⟨u, hu, heq⟩ := controlFrameIn_pause hhalf hidle hwait hsel hrow hop hmode hrx
    have hexec : exec (.macControlFrameRx p el b) s = done (putPort u p (pausedBy u p b)) := by
      show execMacControlFrameRx p el b s = _
      rw [execMacControlFrameRx, ← hnow, hreceives, htype, ← heq]
      rfl
    refine doesFrom_of_all hexec ((hu.onlyChanges.append (onlyChanges_putPort u p _)).mono (by decide)) ⟨?_, fun q hq => ?_⟩
      fun _ _ h => h
    · rw [port_putPort_same, hu.pausedBy_eq]
      rfl
    · rw [port_putPort_other fun h => hq (Fin.ext h), hu.port_eq]
  · intro s p hover
    have hexec : exec (.pauseExpiry p none) s = done (putPort s p { port s p with paused := none }) :=
      congrArg done (if_neg (by rw [hover]; decide))
    exact does_of_all hexec (onlyChanges_putPort s p _) ⟨port_putPort_same _ _ _, fun q hq => port_putPort_other (fun h => hq (Fin.ext h)) _ _⟩ fun _ _ h => h
  · intro s p c hover
    have hexec : exec (.pauseExpiry p (some c)) s = done (putPort s p { port s p with pfc := (port s p).pfc.set c none }) :=
      congrArg done (if_neg (by rw [hover]; decide))
    exact does_of_all hexec (onlyChanges_putPort s p _) ⟨port_putPort_same _ _ _, fun q hq => port_putPort_other (fun h => hq (Fin.ext h)) _ _⟩ fun _ _ h => h
  · intro s p hlink htx hmode hsent hdue hfree
    obtain ⟨hfree', hlink', honly, hother, hbytes, hstamp, htime⟩ := xoffNoted_facts (quanta s p) hfree hlink
    have hexec : exec (.pauseRefresh p) s =
        done (begun (xoffNoted s p (quanta s p)) p ⟨.control 29, 0, pauseFrame s p (quanta s p)⟩) := by
      show execPauseRefresh p s = _
      rw [execPauseRefresh, if_neg (by rw [hlink]; simp only [Bool.not_true, Bool.false_eq_true, false_or, not_or]; exact ⟨htx, Nat.not_lt.2 hdue⟩),
        if_pos ⟨hmode, hsent⟩, sendPause_eq, hbytes, sendOwn_next hlink' hfree' (nextOwn_control hfree'.2.1 rfl)]
    refine does_of_all hexec (honly.trans (onlyChanges_begun _ p _)) ⟨?_, fun q hq => ?_⟩ fun _ _ h => h
    · have hbegins := begins_begun (s := xoffNoted s p (quanta s p)) (p := p.val) (o := ⟨.control 29, 0, pauseFrame s p (quanta s p)⟩)
      rw [Begins, hstamp, htime] at hbegins
      exact hbegins
    · have hq' : q.val ≠ p := fun h => hq (Fin.ext h)
      rw [port_begun_other hq', hother q hq']
  · intro s p el now g u v cls q c l x hp hnow hstop hg hsending hown hawaits hu hlink hheads hwake hcarrier hnext hdecide hcopies hx
      hrole
    subst hg
    have hcharge := onlyChanges_chargeShapers v p cls q x.length
    obtain ⟨honly, hfind⟩ := beginSending_facts (chargeShapers v p cls q x.length) p cls q c x
    have hall := hcharge.append honly
    have hout : inHierarchy (beginSending (chargeShapers v p cls q x.length) p cls q c x) = false := by
      have hregs := (hall.within (by decide)).2
      have hrole' : hierRole (beginSending (chargeShapers v p cls q x.length) p cls q c x) = 0 := by
        rw [← hrole, hierRole, hierRole, hregs.rd_eq (by simp)]
      rw [inHierarchy, hrole']
      rfl
    have hexec : exec (.dequeueDecision p el) s = done (beginSending (chargeShapers v p cls q x.length) p cls q c x) := by
      show execDequeueDecision p el s = _
      rw [execDequeueDecision, ← hnow, hstop, if_neg Bool.false_ne_true, boundary_serves hp hu hsending hown hawaits hlink hheads hwake hcarrier hnext,
        serveNext_begins hp hdecide hcopies hx, flowUpdate_out hout]
    refine ⟨_, _, hexec, hfind, rfl, rfl, rfl, ?_⟩
    exact (((hcharge.append (onlyChanges_takeCopy _ q c))) .clock (by decide)).1

end Sys2Proof.Machine

/-! PROOFS. Allocation slots (R183, R185, R187, R189): one cell asked for by an internal source, refills and operation tags. -/
namespace Sys2Proof.Machine

section
variable {s t u : State} {r f n i : Nat} {x : Frame} {b : Buf} {tag : BitVec 8}

/-! ### A cell granted to an internal source -/

/-- One cell more in the accounts of requester `r` and its class `c`. -/
def accountsCharged (s : State) (r c : Nat) : Sparse Nat :=
  let m := set 0 s.bpm.charged (r * 9) (charged s (r * 9) + 1)
  set 0 m (r * 9 + 1 + c) (get 0 m (r * 9 + 1 + c) + 1)

theorem get_accountsCharged (s : State) (r c : Nat) : get 0 (accountsCharged s r c) (r * 9) = charged s (r * 9) + 1 := by
  unfold accountsCharged
  rw [get_set_other (by omega), get_set_same]

/-- For an internal source no flow control follows an account. -/
theorem charge_internal (h80 : 80 ≤ r) (s : State) (c : Nat) : ∃ w : Sparse Nat,
    charge s r c 1 = { s with bpm := { s.bpm with charged := accountsCharged s r c, warning := w } } := by
  have hfollow (t : State) : followAccount t r = t := if_pos (.inl h80)
  exact ⟨_, hfollow _⟩

/-- The CELL pool once its next pointer, never granted before, is taken. -/
def Pool.taken (p : Pool) : Pool := { p with fresh := p.fresh + 1 }

/-- The state with that pointer taken. -/
def cellTaken (s : State) : State := putPool s 0 (pool s 0).taken

theorem takePointer_fresh (h : (pool s 0).fresh < 262144) :
    takePointer s 0 false = some ((pool s 0).fresh, cellTaken s) := by
  have hsize : (pool s 0).fresh < poolSize 0 := h
  rw [takePointer, Pool.take, if_pos hsize, Option.map_some]
  rfl

/-- A chain of one egress is handed to it as its head cell is granted. -/
theorem handOver_one (hlen : 0 < s.bpm.pools.length) (hfan : x.fan = 1) (htags : heldTags s f = [tag]) (y : Frame) :
    handOver (putFrame (putBuf s 0 i b) f y) f x i = putFrame (putBuf s 0 i { b with owner := tag }) f y := by
  have htags' : heldTags (putFrame (putBuf s 0 i b) f y) f = [tag] := htags
  have hbuf : findBuf (putFrame (putBuf s 0 i b) f y) 0 i = some b := findBuf_putBuf_same hlen
  unfold handOver
  rw [htags', hbuf]
  dsimp only
  rw [if_neg (by omega), if_pos hfan]
  exact congrArg (putFrame · f y) (putBuf_putBuf hlen)

/-- The frame with its head cell. -/
def Frame.headed (x : Frame) (i : Nat) : Frame := { x with head := some i, cells := 1 }

/-- The account of requester `r` charged with one cell, which counts. -/
def cellCharged (s : State) (r c : Nat) : State := bump (charge s r c 1) Ctr.bpm [] 0 1

/-- The state as its only request, of frame `f`, is granted cell `i`. -/
def cellGiven (s : State) (f i : Nat) (x : Frame) (tag : BitVec 8) : State :=
  putFrame (putBuf (cellCharged (cellTaken s) x.inPort x.cls) 0 i { cellBuf x i false with owner := tag }) f (x.headed i)

theorem cellCharged_facts (h80 : 80 ≤ r) (s : State) (c : Nat) : ∃ (b : Bpm) (g : Sparse Nat),
    cellCharged s r c = { s with bpm := b, regs := { s.regs with counters := g } } ∧ b.pools = s.bpm.pools ∧
      b.cellReqs = s.bpm.cellReqs ∧ b.dramReqs = s.bpm.dramReqs ∧ b.ops = s.bpm.ops ∧
      get 0 b.charged (r * 9) = charged s (r * 9) + 1 ∧
      ctr (cellCharged s r c) Ctr.bpm [] 0 = (ctr s Ctr.bpm [] 0 + 1) % 2 ^ 48 := by
  obtain ⟨w, hcharge⟩ := charge_internal h80 s c
  refine ⟨{ s.bpm with charged := accountsCharged s r c, warning := w }, (cellCharged s r c).regs.counters,
    by rw [cellCharged, hcharge]; rfl, rfl, rfl, rfl, rfl, get_accountsCharged s r c, ?_⟩
  rw [cellCharged, ctr_bump_same, hcharge]
  rfl

theorem pools_cellCharged (h80 : 80 ≤ r) (hlen : s.bpm.pools.length = 6) (c : Nat) :
    0 < (cellCharged (cellTaken s) r c).bpm.pools.length := by
  obtain ⟨b, g, heq, hpools, -⟩ := cellCharged_facts h80 (cellTaken s) c
  have htaken : (cellTaken s).bpm.pools.length = s.bpm.pools.length := List.length_set
  rw [heq]
  show 0 < b.pools.length
  rw [hpools, htaken, hlen]
  decide

theorem giveCell_internal (h80 : 80 ≤ x.inPort) (hlen : s.bpm.pools.length = 6) (hhead : x.head = none) (hfan : x.fan = 1)
    (htags : heldTags s f = [tag]) : giveCell (cellTaken s) f i x false = cellGiven s f i x tag := by
  obtain ⟨b, g, heq, hpools, -⟩ := cellCharged_facts h80 (cellTaken s) x.cls
  have hlen' := pools_cellCharged h80 hlen x.cls
  have htags' : heldTags (cellCharged (cellTaken s) x.inPort x.cls) f = [tag] := by
    rw [heq]
    exact htags
  unfold giveCell
  rw [hhead]
  exact handOver_one hlen' hfan htags' _

/-- What the grant leaves. -/
theorem cellGiven_facts (h80 : 80 ≤ x.inPort) (hlen : s.bpm.pools.length = 6) :
    OnlyChanges [.bpm, .frames, .counters] s (cellGiven s f i x tag) ∧ frame (cellGiven s f i x tag) f = some (x.headed i) ∧
      charged (cellGiven s f i x tag) (x.inPort * 9) = charged s (x.inPort * 9) + 1 ∧
      (pool (cellGiven s f i x tag) 0).fresh = (pool s 0).fresh + 1 ∧
      findBuf (cellGiven s f i x tag) 0 i = some { cellBuf x i false with owner := tag } ∧
      ctr (cellGiven s f i x tag) Ctr.bpm [] 0 = (ctr s Ctr.bpm [] 0 + 1) % 2 ^ 48 ∧
      (cellGiven s f i x tag).bpm.cellReqs = s.bpm.cellReqs ∧ (cellGiven s f i x tag).bpm.dramReqs = s.bpm.dramReqs ∧
      (cellGiven s f i x tag).bpm.ops = s.bpm.ops := by
  obtain ⟨c, g, heq, hpools, hreqs, hdram, hops, hcharged, hctr⟩ := cellCharged_facts h80 (cellTaken s) x.cls
  have htaken : OnlyChanges [.bpm] s (cellTaken s) := onlyChanges_putPool s 0 _
  have hcount : OnlyChanges [.bpm, .counters] (cellTaken s) (cellCharged (cellTaken s) x.inPort x.cls) := by
    rw [heq]
    intro q hq; cases q <;> simp_all [Part.same]
  have hlen0 : 0 < s.bpm.pools.length := by omega
  have hpool : pool (cellCharged (cellTaken s) x.inPort x.cls) 0 = (pool s 0).taken := by
    rw [heq]
    exact (pool_of_pools hpools 0).trans (pool_putPool_same hlen0)
  have hlen' := pools_cellCharged h80 hlen x.cls
  refine ⟨((htaken.append hcount).append ((onlyChanges_putBuf _ 0 i _).append (onlyChanges_putFrame _ f _))).mono (by decide),
    frame_putFrame_same, ?_, ?_, findBuf_putBuf_same hlen', ?_, ?_, ?_, ?_⟩
  · show get 0 (cellCharged (cellTaken s) x.inPort x.cls).bpm.charged _ = _
    rw [heq]
    exact hcharged
  · show (pool (putBuf (cellCharged (cellTaken s) x.inPort x.cls) 0 i _) 0).fresh = _
    rw [putBuf, pool_putPool_same hlen', hpool]
    rfl
  · exact hctr
  · show (cellCharged (cellTaken s) x.inPort x.cls).bpm.cellReqs = _
    rw [heq]
    exact hreqs
  · show (cellCharged (cellTaken s) x.inPort x.cls).bpm.dramReqs = _
    rw [heq]
    exact hdram
  · show (cellCharged (cellTaken s) x.inPort x.cls).bpm.ops = _
    rw [heq]
    exact hops

/-! ### The slot -/

/-- No frame asks for a cell any more. -/
def reqsDone (s : State) : State := { s with bpm := { s.bpm with cellReqs := [] } }

theorem cellRequest_other (hreqs : s.bpm.cellReqs = [(r, [f])]) (w : SlotWork) (h : n ≠ r) : cellRequest (s, w) n = (s, w) := by
  rw [cellRequest, hreqs, get, if_neg h, get]

theorem cellRequest_none (hreqs : s.bpm.cellReqs = []) (w : SlotWork) : cellRequest (s, w) n = (s, w) := by
  rw [cellRequest, hreqs, get]

/-- The requests of a slot in which only requester `r` has one. -/
theorem foldl_cellRequest {w w' : SlotWork} (hreqs : s.bpm.cellReqs = [(r, [f])]) (hdone : t.bpm.cellReqs = [])
    (hgrant : cellRequest (s, w) r = (t, w')) :
    ∀ {l : List Nat}, r ∈ l → l.foldl cellRequest (s, w) = (t, w')
  | n :: l, hmem => by
    rw [List.foldl_cons]
    by_cases h : n = r
    · rw [h, hgrant]
      exact List.foldl_fixed' (fun k => cellRequest_none hdone w') l
    · rw [cellRequest_other hreqs w h]
      exact foldl_cellRequest hreqs hdone hgrant ((List.mem_cons.1 hmem).resolve_left fun h' => h h'.symm)

theorem cellRequest_granted (hreqs : s.bpm.cellReqs = [(r, [f])]) (hx : frame s f = some x) (hprot : x.prot = false)
    (hgrant : grantKind s 0 8 0 false (some r) = .general) (hfresh : (pool s 0).fresh < 262144)
    (hgive : giveCell (cellTaken s) f (pool s 0).fresh x false = t) (hfull : (frame t f).any (fun y => !cellsFull y) = false)
    (hkept : t.bpm.cellReqs = s.bpm.cellReqs) :
    cellRequest (s, ⟨0, [], []⟩) r = (reqsDone t, ⟨1, [f], []⟩) := by
  have hreq : get [] s.bpm.cellReqs r = [f] := by rw [hreqs, get, if_pos rfl]
  have hset : set [] t.bpm.cellReqs r [] = [] := by
    rw [hkept, hreqs, set, if_pos rfl]
    simp [drop]
  unfold cellRequest
  dsimp only
  rw [hreq]
  dsimp only
  rw [hx]
  dsimp only
  rw [hprot, hgrant]
  show (match takePointer s 0 false with
    | none => (s, (⟨0, [], []⟩ : SlotWork))
    | some (i, s) => (if (frame (giveCell s f i x false) f).any (fun y => !cellsFull y) = true then giveCell s f i x false
        else { giveCell s f i x false with bpm := { (giveCell s f i x false).bpm with
          cellReqs := set [] (giveCell s f i x false).bpm.cellReqs r [] } }, ⟨1, [f], []⟩)) = _
  rw [takePointer_fresh hfresh]
  dsimp only
  rw [hgive, hfull, if_neg Bool.false_ne_true, hset]
  rfl

theorem mem_slotOrder (hr : r < 96) (k : Nat) : r ∈ (List.range 96).map fun j => (j + k) % 96 := by
  rw [List.mem_map]
  exact ⟨(r + 96 - k % 96) % 96, List.mem_range.2 (Nat.mod_lt _ (by decide)), by omega⟩

theorem afterGrant_waiting (hx : frame s f = some x) (htail : x.tailWaits = false) (hwhole : x.whole = false) : afterGrant s f = s := by
  rw [afterGrant, hx]
  dsimp only
  rw [htail, hwhole]
  rfl

theorem slotCells_one (hr : r < 96) (hreqs : s.bpm.cellReqs = [(r, [f])])
    (hgrant : cellRequest (s, ⟨0, [], []⟩) r = (reqsDone t, ⟨1, [f], []⟩)) (hx : frame t f = some x)
    (htail : x.tailWaits = false) (hwhole : x.whole = false) : slotCells s = reqsDone t := by
  unfold slotCells
  dsimp only
  rw [foldl_cellRequest hreqs rfl hgrant (mem_slotOrder hr s.bpm.slot)]
  exact afterGrant_waiting (s := reqsDone t) hx htail hwhole

theorem applyOps_none (h : s.bpm.ops = []) : applyOps s = takeOps s := by
  have hnone (m : Nat) : byRank m [] = [] := by simp [byRank]
  change (byRank 258 s.bpm.ops).foldl applyOp (takeOps s) = _
  rw [h, hnone]
  rfl

theorem allocationSlot_cells (hcells : slotCells s = t) (hdram : t.bpm.dramReqs = []) (hops : t.bpm.ops = []) :
    allocationSlot s = nextSlot (takeOps t) := by
  rw [allocationSlot, hcells, List.foldl_fixed' (slotDram_idle hdram), applyOps_none hops]
  rfl

/-- The next slot, once its cells are given. -/
def slotEnded (s : State) : State := nextSlot (takeOps (reqsDone s))

theorem slotEnded_facts : OnlyChanges [.bpm] s (slotEnded s) ∧ (slotEnded s).frames = s.frames ∧ (slotEnded s).bpm.cellReqs = [] ∧
    (slotEnded s).bpm.charged = s.bpm.charged ∧ (slotEnded s).bpm.pools = s.bpm.pools ∧
    (slotEnded s).regs.counters = s.regs.counters :=
  ⟨onlyChanges_of_bpm s _, rfl, rfl, rfl, rfl, rfl⟩

theorem returnTag_free (h : s.bpm.tagWaiters = []) :
    returnTag s = { s with bpm := { s.bpm with tagsInUse := s.bpm.tagsInUse - 1 } } := by rw [returnTag, h]

end

/-- Settles O16: the one request is granted at its place in the slot's order, and its cell goes to the frame's one egress. -/
theorem slotsGrantCells : Obligations.SlotsGrantCells := by
  unfold Obligations.SlotsGrantCells
  refine ⟨?_, ?_, ?_, ?_, ?_⟩
  · intro s h
    have hexec := exec_allocationSlot_idle h
    rw [applyOps_none h.ops_eq] at hexec
    refine does_of_all hexec (onlyChanges_of_bpm s _) ?_ fun _ _ h => h
    show ({ s.bpm with ops := [], slot := (s.bpm.slot + 1) % 480 } : Bpm) = _
    rw [← h.ops_eq]
  · intro s r f x tag h80 hr hstop hreqs hdram hops hlen hx hport hhead htail hwhole hprot hfan htags hbytes hfree hmax hfresh
    subst hport
    have hgrant : grantKind s 0 8 0 false (some x.inPort) = .general := by
      rw [grantKind, if_neg (by omega), if_neg Bool.false_ne_true, if_neg (by omega), if_neg]
      simp only [Option.any_some, decide_eq_true_eq]
      omega
    obtain ⟨honly, hframe, hcharged, hpool, hbuf, hctr, hreqs', hdram', hops'⟩ :=
      cellGiven_facts (s := s) (f := f) (i := (pool s 0).fresh) (x := x) (tag := tag) h80 hlen
    have hfull : (frame (cellGiven s f (pool s 0).fresh x tag) f).any (fun y => !cellsFull y) = false := by
      have hceil : ceilDiv (min x.bytes.length (max x.mru 64)) 256 ≤ 1 := by
        rw [ceilDiv]
        omega
      rw [hframe]
      show (!decide (ceilDiv (min x.bytes.length (max x.mru 64)) 256 ≤ 1)) = false
      rw [decide_eq_true hceil]
      rfl
    have hcells := slotCells_one hr hreqs (cellRequest_granted hreqs hx hprot hgrant hfresh
      (giveCell_internal h80 hlen hhead hfan htags) hfull hreqs') hframe htail hwhole
    have hexec : exec .allocationSlot s = done (slotEnded (cellGiven s f (pool s 0).fresh x tag)) := by
      show execAllocationSlot s = _
      rw [execAllocationSlot, hstop, if_neg Bool.false_ne_true,
        allocationSlot_cells hcells (hdram'.trans hdram) (hops'.trans hops)]
      rfl
    obtain ⟨hend, hframes, hdone, hcharge, hpools, hcounters⟩ := slotEnded_facts (s := cellGiven s f (pool s 0).fresh x tag)
    refine does_of_all hexec ((honly.append hend).mono (by decide)) ⟨?_, hdone, ?_, ?_, ?_, ?_⟩ fun _ _ h => h
    · rw [frame, hframes]
      exact hframe
    · rw [charged, hcharge]
      exact hcharged
    · rw [pool_of_pools hpools]
      exact hpool
    · rw [findBuf, pool_of_pools hpools]
      exact hbuf
    · rw [ctr, hcounters]
      exact hctr
  · intro s n hn hlen hrefill hwait
    have hexec : exec (.pointerCacheRefill n) s = done (returnTag (putPool s n { pool s n with
        refilling := false, cache := min (poolFree s n) (1 + Config.cacheDepth n) })) := by
      show execPointerCacheRefill n s = _
      refine if_pos ?_
      rw [hrefill, hwait, bne_iff_ne.2 hn]
      rfl
    rw [returnTag_free (s := putPool s n _) hwait] at hexec
    have hsame := pool_putPool_same (s := s) (n := n) (p := { pool s n with
        refilling := false, cache := min (poolFree s n) (1 + Config.cacheDepth n) }) (by omega)
    refine does_of_all hexec ((onlyChanges_putPool s n _).trans (onlyChanges_of_bpm _ _)) ⟨?_, ?_, rfl, fun k hk => ?_⟩ fun _ _ h => h
    · exact congrArg Pool.refilling hsame
    · exact congrArg Pool.cache hsame
    · show (s.bpm.pools.set n _).getD k Pool.full = s.bpm.pools.getD k Pool.full
      simp [List.getD, List.getElem?_set_ne (Ne.symm hk)]
  · intro s hused hwait
    have hexec : exec .operationTagReturned s = done { s with bpm := { s.bpm with tagsInUse := s.bpm.tagsInUse - 1 } } := by
      show execOperationTagReturned s = _
      rw [execOperationTagReturned, if_neg (by omega), returnTag_free hwait]
    exact does_of_all hexec (onlyChanges_of_bpm s _) rfl fun _ _ h => h
  · intro s n l hused hwait
    have hexec : exec .operationTagReturned s = done { s with bpm := { s.bpm with tagWaiters := l } } := by
      show execOperationTagReturned s = _
      rw [execOperationTagReturned, if_neg (by omega), returnTag, hwait]
    exact does_of_all hexec (onlyChanges_of_bpm s _) rfl fun _ _ h => h

end Sys2Proof.Machine

/-! PROOFS. Placement's commands (R326, R327, R332, R333). -/
namespace Sys2Proof.Machine

section
variable {s now u : State} {req : Requester} {p c q k : Nat} {e : BitVec 256} {m : LineMove}

/-! ### The journal -/

theorem mc2Up_of {ps : List Part} {l : List Nat} (h : Within ps l s u) (hp : Part.power ∉ ps) (hl : Reg.glbReady.addr [] ∉ l) :
    mc2Up u = mc2Up s := by
  have hpower : u.power = s.power := h.1 .power hp
  rw [mc2Up, mc2Up, coreDown, coreDown, hpower, stageDone, stageDone, h.2.rdBit_eq hl]

theorem within_writeJournal (s : State) (e : BitVec 256) :
    Within [.inForce, .place] [Reg.placeJnlCnt.addr []] s (writeJournal s e) :=
  (within_countEvent s _ _).append ((onlyChanges_of_place _ _).within (by decide)) |>.mono (by decide) (by simp)

theorem word_writeJournal : word (writeJournal s e) Reg.placeJnlCnt [] = word s Reg.placeJnlCnt [] + 1 := word_countEvent_same

theorem heldBack_writeJournal : (writeJournal s e).place.heldBack = s.place.heldBack := rfl

theorem journalNew_up {cls outcome reason object dst : Nat} (h : mc2Up s = true) :
    ∃ e, journalNew s cls outcome reason object dst = writeJournal (spend s) e := ⟨_, if_pos h⟩

/-- What a decision that MC2 journals leaves. -/
theorem journalNew_facts (h : mc2Up s = true) (cls outcome reason object dst : Nat) :
    Within [.freeCtr, .inForce, .place] [Reg.placeJnlCnt.addr []] s (journalNew s cls outcome reason object dst) ∧
      word (journalNew s cls outcome reason object dst) Reg.placeJnlCnt [] = word s Reg.placeJnlCnt [] + 1 := by
  obtain ⟨e, he⟩ := journalNew_up (cls := cls) (outcome := outcome) (reason := reason) (object := object) (dst := dst) h
  rw [he]
  exact ⟨((within_spend s).append (within_writeJournal _ e)).mono (by decide) (by simp), word_writeJournal⟩

/-- A list of entries journalled. -/
theorem foldl_writeJournal : ∀ (l : List (BitVec 256)) (s : State),
    Within [.inForce, .place] [Reg.placeJnlCnt.addr []] s (l.foldl writeJournal s) ∧
      word (l.foldl writeJournal s) Reg.placeJnlCnt [] = word s Reg.placeJnlCnt [] + BitVec.ofNat 32 l.length ∧
      (l.foldl writeJournal s).place.heldBack = s.place.heldBack
  | [], s => ⟨.refl _ _ s, by simp, rfl⟩
  | e :: l, s => by
    obtain ⟨hwithin, hword, hheld⟩ := foldl_writeJournal l (writeJournal s e)
    refine ⟨(within_writeJournal s e).trans hwithin, ?_, hheld.trans heldBack_writeJournal⟩
    rw [List.foldl_cons, hword, word_writeJournal, List.length_cons, BitVec.ofNat_add, BitVec.add_assoc]
    congr 1
    exact BitVec.add_comm _ _

/-! ### PLACE_Q_CMD -/

theorem placeQCmd_immediate : Reg.placeQCmd.Immediate [] := immediate_of_plain (by decide) (by decide +kernel) (by decide)

/-- The word that PLACE_Q_ALLOCATE writes. -/
def placeQWord (p c : Nat) : Word := BitVec.ofNat 32 (2 ^ 31 + c * 2 ^ 7 + p)

theorem placeQWord_fields (hp : p < 128) (hc : c < 8) : flag (placeQWord p c) 31 = true ∧ fld (placeQWord p c) 6 0 = p ∧
    fld (placeQWord p c) 9 7 = c := by
  have hw : (placeQWord p c).toNat = 2 ^ 31 + c * 2 ^ 7 + p := by
    rw [placeQWord, BitVec.toNat_ofNat]
    omega
  rw [flag_eq_fld]
  simp only [fld, hw, bits, decide_eq_true_eq]
  omega

/-- PLACE_Q_CMD as written. -/
def placeCommanded (s : State) (req : Requester) (p c : Nat) : State := immediate s req Reg.placeQCmd [] (placeQWord p c)

theorem within_placeCommanded (s : State) (req : Requester) (p c : Nat) :
    Within [.staged, .inForce] [Reg.placeQCmd.addr []] s (placeCommanded s req p c) := within_immediate s req _ _ _

theorem rd_placeCommanded {hi lo : Nat} (hm : hi < 32)
    (ht : ∀ i ≤ hi, lo ≤ i → flag ((Reg.placeQCmd.mask fun f => f.acc == .rw) &&& Reg.placeQCmd.applyMask .imm) i = true) :
    rd (placeCommanded s req p c) Reg.placeQCmd [] hi lo = fld (placeQWord p c) hi lo := by
  rw [rd, placeCommanded, word_immediate_same]
  exact fld_inForceBy hm (by decide) ht

theorem placeQWrite_eq (halone : Alone s) (hp : p < 128) (hc : c < 8) :
    placeQWrite s req (placeQWord p c) = allocateQueue (placeCommanded s req p c) p c := by
  obtain ⟨hgo, hport, hclass⟩ := placeQWord_fields hp hc
  have hrole : (role s == 2 || role s == 3) = false := by
    have := halone.1
    rw [beq_eq_false_iff_ne.2 (by omega), beq_eq_false_iff_ne.2 (by omega)]
    rfl
  have hstage : stage s req Reg.placeQCmd [] 0xFFFFFFFF (placeQWord p c) = placeCommanded s req p c :=
    stage_immediate placeQCmd_immediate halone (by rw [taken_of_plain (by decide)]; decide)
  unfold placeQWrite
  dsimp only
  rw [hrole, hstage, hgo, rd_placeCommanded (by decide) (by decide), rd_placeCommanded (by decide) (by decide), hport, hclass]
  rfl

theorem lowestFree_regs (r : Regs) (use : Nat) : ∀ n a, lowestFree { s with regs := r } use n a = lowestFree s use n a
  | 0, _ => rfl
  | n + 1, a => by
    rw [lowestFree, lowestFree, lowestFree_regs r use n (a + 1)]
    rfl

theorem freeQueue_placeCommanded (use : Nat) : freeQueue (placeCommanded s req p c) use = freeQueue s use :=
  lowestFree_regs (s := s) (placeCommanded s req p c).regs use _ _

theorem placeMode_placeCommanded : placeMode (placeCommanded s req p c) k = placeMode s k := by
  rw [placeMode, placeMode, (within_placeCommanded s req p c).2.rd_eq (by decide)]

/-- PLACE_Q_CMD answers RESULT `r`. -/
def placeAnswered (s : State) (r : Nat) : State := wr s Reg.placeQCmd [] 29 27 r

theorem within_placeAnswered (s : State) (r : Nat) : Within [.inForce] [Reg.placeQCmd.addr []] s (placeAnswered s r) :=
  within_wr s _ _ _ _ _

theorem queueCfg_placeAnswered {r : Nat} : queueCfg (placeAnswered s r) k = queueCfg s k := by
  rw [queueCfg, queueCfg, placeAnswered, wr_sched]

theorem rd_placeAnswered {r : Nat} (hr : r < 8) : rd (placeAnswered s r) Reg.placeQCmd [] 29 27 = r := by
  rw [placeAnswered, rd_wr_same (by decide) (by decide)]
  exact Nat.mod_eq_of_lt hr

/-- The descriptor of queue `q` in force, and none that waits. -/
def queueNamed (s : State) (q : Nat) (cfg : BitVec 256) : State :=
  { s with sched := { s.sched with config := set queueReset s.sched.config q cfg, configWait := drop s.sched.configWait q } }

theorem onlyChanges_queueNamed (s : State) (q : Nat) (cfg : BitVec 256) : OnlyChanges [.sched] s (queueNamed s q cfg) :=
  onlyChanges_of_sched s _

/-- The descriptor of queue `q` with port `p` and class `c` named. -/
def namedCfg (s : State) (q p c : Nat) : BitVec 256 :=
  setFld (setFld ((find s.sched.configWait q).getD (queueCfg s q)) 255 249 p) 248 246 c

theorem word_queueNamed {cfg : BitVec 256} (r : RegRow) (ix : List Nat) : word (queueNamed s q cfg) r ix = word s r ix := rfl

theorem nameQueue_eq : nameQueue s q p c =
    mirror (queueNamed s q (namedCfg s q p c)) 4 (0x1000020 + q * 64) (wordsOf 8 (namedCfg s q p c)) := by
  rw [nameQueue, namedCfg, queueNamed]

theorem activePaired_queueNamed {cfg : BitVec 256} : activePaired (queueNamed s q cfg) = activePaired s := rfl

theorem nameQueue_unpaired (h : activePaired s = false) : nameQueue s q p c = queueNamed s q (namedCfg s q p c) := by
  rw [nameQueue_eq, mirror_of_unpaired (by rw [activePaired_queueNamed, h])]

theorem namedCfg_fields (hp : p < 128) (hc : c < 8) : fld (namedCfg s q p c) 255 249 = p ∧ fld (namedCfg s q p c) 248 246 = c := by
  rw [namedCfg]
  constructor
  · rw [fld_setFld_above (by decide) (by decide) (by decide), fld_setFld_same (by decide) (by decide)]
    exact Nat.mod_eq_of_lt hp
  · rw [fld_setFld_same (by decide) (by decide)]
    exact Nat.mod_eq_of_lt hc

theorem queueCfg_queueNamed_same {cfg : BitVec 256} : queueCfg (queueNamed s q cfg) q = cfg := get_set_same

theorem queueCfg_queueNamed_other {cfg : BitVec 256} (h : k ≠ q) : queueCfg (queueNamed s q cfg) k = queueCfg s k := get_set_other h

/-- Queue `q` given to port `p`, its number in PLACE_Q_RESULT, and the decision journalled. -/
def queueGiven (s : State) (q p c : Nat) : State :=
  journalNew (putWord (queueNamed s q (namedCfg s q p c)) Reg.placeQResult [] (BitVec.ofNat 32 q)) 2 0 9 q p

theorem queueGiven_facts (hup : mc2Up s = true) (q p c : Nat) :
    Within [.sched, .inForce, .place, .freeCtr] [Reg.placeQResult.addr [], Reg.placeJnlCnt.addr []] s (queueGiven s q p c) ∧
      word (queueGiven s q p c) Reg.placeQResult [] = BitVec.ofNat 32 q ∧
      word (queueGiven s q p c) Reg.placeJnlCnt [] = word s Reg.placeJnlCnt [] + 1 ∧
      ∀ k, queueCfg (queueGiven s q p c) k = queueCfg (queueNamed s q (namedCfg s q p c)) k := by
  have hnamed := within_putWord (queueNamed s q (namedCfg s q p c)) Reg.placeQResult [] (BitVec.ofNat 32 q)
  have hbefore := ((onlyChanges_queueNamed s q (namedCfg s q p c)).within (by decide)).append hnamed
  have hup' : mc2Up (putWord (queueNamed s q (namedCfg s q p c)) Reg.placeQResult [] (BitVec.ofNat 32 q)) = true := by
    rw [mc2Up_of hbefore (by decide) (by decide), hup]
  obtain ⟨hjournal, hcount⟩ := journalNew_facts hup' 2 0 9 q p
  refine ⟨(hbefore.append hjournal).mono (by decide) (by simp), ?_, ?_, fun k => ?_⟩
  · rw [queueGiven, hjournal.2.word_eq (by decide), word_putWord_same]
  · rw [queueGiven, hcount, word_putWord_other (by decide), word_queueNamed]
  · rw [queueCfg, queueCfg, queueGiven, hjournal.1 .sched (by decide), putWord_sched]

theorem allocateQueue_given (hmode : placeMode s 2 ≠ 0) (hrole : role s < 2) (hpair : activePaired s = false)
    (hfree : freeQueue s 5 = some q) : allocateQueue s p c = placeAnswered (queueGiven s q p c) 0 := by
  unfold allocateQueue
  dsimp only
  rw [if_neg hmode, if_neg (by omega), hfree]
  dsimp only
  rw [nameQueue_unpaired hpair]
  rfl

theorem allocateQueue_off (hmode : placeMode s 2 = 0) : allocateQueue s p c = placeAnswered s 2 := if_pos hmode

theorem allocateQueue_full (hmode : placeMode s 2 ≠ 0) (hrole : role s < 2) (hfree : freeQueue s 5 = none) :
    allocateQueue s p c = placeAnswered (noRoom s 2 p) 3 := by
  unfold allocateQueue
  dsimp only
  rw [if_neg hmode, if_neg (by omega), hfree]
  rfl

/-- What a refused placement leaves. -/
theorem noRoom_facts (hup : mc2Up s = true) (cls object : Nat) :
    Within [.inForce, .place, .freeCtr] [Reg.placeNoroomCnt.addr [], Reg.placeNoroomLast.addr [], Reg.placeJnlCnt.addr []] s
      (noRoom s cls object) ∧
      word (noRoom s cls object) Reg.placeNoroomCnt [] = word s Reg.placeNoroomCnt [] + 1 ∧
      word (noRoom s cls object) Reg.placeNoroomLast [] = BitVec.ofNat 32 (cls * 2 ^ 29 + object % 2 ^ 18) := by
  unfold noRoom
  extract_lets u v
  have hu : Within [.inForce] [Reg.placeNoroomCnt.addr []] s u := within_countEvent s _ _
  have hv := hu.append (within_putWord u Reg.placeNoroomLast [] (BitVec.ofNat 32 (cls * 2 ^ 29 + object % 2 ^ 18)))
  have hup' : mc2Up v = true := by rw [mc2Up_of hv (by decide) (by decide), hup]
  obtain ⟨hjournal, -⟩ := journalNew_facts hup' cls 3 14 object noPlace
  refine ⟨(hv.append hjournal).mono (by decide) (by simp), ?_, ?_⟩
  · rw [hjournal.2.word_eq (by decide)]
    exact (word_putWord_other (by decide)).trans word_countEvent_same
  · rw [hjournal.2.word_eq (by decide)]
    exact word_putWord_same

theorem exec_placeQAllocate {p : Fin 96} {c : Fin 8} (hreach : Reaches s req (Reg.placeQCmd.addr [])) (halone : Alone s) :
    exec (.placeQAllocate req p c) s = done (allocateQueue (placeCommanded s req p c) p c) := by
  rw [← placeQWrite_eq halone (by omega) c.isLt]
  exact congrArg done (doorbell_of_reaches hreach _ _)

/-- What the command's word leaves as it was. -/
structure PlaceCommanded (s u : State) : Prop where
  within : Within [.staged, .inForce] [Reg.placeQCmd.addr []] s u
  mode (k : Nat) : placeMode u k = placeMode s k
  role_eq : role u = role s
  paired : activePaired u = activePaired s
  up : mc2Up u = mc2Up s
  free (use : Nat) : freeQueue u use = freeQueue s use

theorem placeCommanded_leaves (s : State) (req : Requester) (p c : Nat) : PlaceCommanded s (placeCommanded s req p c) where
  within := within_placeCommanded s req p c
  mode _ := placeMode_placeCommanded
  role_eq := by rw [role, role, (within_placeCommanded s req p c).2.rd_eq (by decide)]
  paired := activePaired_of_regsBut (within_placeCommanded s req p c).2 (by decide)
  up := mc2Up_of (within_placeCommanded s req p c) (by decide) (by decide)
  free _ := freeQueue_placeCommanded _

theorem onlyChanges_flashCopied (s : State) (n : Nat) (l : List (BitVec 256)) : OnlyChanges [.place, .img] s
    { s with place := { s.place with flashCopied := n }, img := { s.img with flashJournal := l } } := by
  intro q hq; cases q <;> simp_all [Part.same]

/-- MC2 runs again, with nothing held back. -/
def mc2Woken (s : State) : State :=
  { s with power := { s.power with coresDown := s.power.coresDown &&& ~~~4#4 }, place := { s.place with heldBack := [] } }

theorem onlyChanges_mc2Woken (s : State) : OnlyChanges [.power, .place] s (mc2Woken s) := by
  intro q hq; cases q <;> simp_all [Part.same, mc2Woken]

theorem mc2Up_mc2Woken (hready : stageDone s 2 = true) : mc2Up (mc2Woken s) = true := by
  have hdown : (mc2Woken s).power.coresDown.getLsbD 2 = false := by
    show (s.power.coresDown &&& ~~~4#4).getLsbD 2 = false
    simp
  have hready' : stageDone (mc2Woken s) 2 = true := hready
  rw [mc2Up, coreDown, hdown, hready']
  rfl

/-! ### The end of a line copy -/

theorem applyFrom_dvd (fs : Nat) (t : Int) : applyUnit fs ∣ applyFrom fs t := by
  unfold applyFrom
  extract_lets v
  have hv : (v : Int) ∣ -(-(t * fs) / (fracPerSec * v)) * v := dvd_mul_left _ _
  rcases Int.le_total 0 (-(-(t * fs) / (fracPerSec * v)) * v) with h | h
  · rw [← Int.natCast_dvd_natCast, Int.toNat_of_nonneg h]
    exact hv
  · rw [Int.toNat_of_nonpos h]
    exact dvd_zero _

/-- The samples of a line copied to where it moves, and its switch sample. -/
def lineCopied (s : State) (m : LineMove) (lines : Sparse LineCell) (a : Nat) : State :=
  { s with acc := { s.acc with lines := lines }, place := { s.place with lineMoves := [{ m with switchAt := some a }] } }

theorem onlyChanges_lineCopied (s : State) (m : LineMove) (lines : Sparse LineCell) (a : Nat) :
    OnlyChanges [.acc, .place] s (lineCopied s m lines a) := by
  intro q hq; cases q <;> simp_all [Part.same, lineCopied]

theorem exec_lineCopyDone {i : Fin 16384} {el j : Nat} (hnow : now = advance el s) (hmoves : now.place.lineMoves = [m])
    (hinput : m.input = i.val) (hswitch : m.switchAt = none)
    (hjob : (activeJobs now).find? (fun j => inRange (inputRange (now.acc.inForce.job j)) i) = some j)
    (hreach : reachedTime now (now.acc.inForce.job j) m.a0 = true) :
    ∃ lines a, exec (.lineCopyDone i el) s = done (lineCopied now m lines a) ∧ applyUnit (jobRate (now.acc.inForce.job j)) ∣ a := by
  have hfind : now.place.lineMoves.find? (fun m => m.input == i.val && m.switchAt.isNone) = some m := by
    rw [hmoves, List.find?_cons_of_pos]
    rw [hinput, hswitch, beq_self_eq_true]
    rfl
  refine ⟨(copyLine now m).acc.lines, max (applyFrom (jobRate (now.acc.inForce.job j)) (tbFrac now (jobTb (now.acc.inForce.job j))))
    (applyFrom (jobRate (now.acc.inForce.job j)) ((m.a0 * fracPerSec : Nat) / jobRate (now.acc.inForce.job j) + editLead now)), ?_, ?_⟩
  · show execLineCopyDone i el s = _
    unfold execLineCopyDone
    rw [← hnow]
    dsimp only
    rw [hfind]
    dsimp only
    rw [hjob]
    dsimp only
    rw [hreach, if_neg (by decide), show (copyLine now m).place.lineMoves = [m] from hmoves, List.map_singleton, if_pos rfl]
    rfl
  · rcases max_choice (applyFrom (jobRate (now.acc.inForce.job j)) (tbFrac now (jobTb (now.acc.inForce.job j))))
      (applyFrom (jobRate (now.acc.inForce.job j)) ((m.a0 * fracPerSec : Nat) / jobRate (now.acc.inForce.job j) + editLead now)) with h | h
    · rw [h]; exact applyFrom_dvd _ _
    · rw [h]; exact applyFrom_dvd _ _

end

/-- Settles O34: a switch sample is a multiple of its apply unit, and each decision is what MC2 journals. -/
theorem placementDecides : Obligations.PlacementDecides := by
  unfold Obligations.PlacementDecides
  refine ⟨?_, ?_, ?_, ?_, ?_, ?_⟩
  · intro s i el m j now hnow hmoves hinput hswitch hjob hreach
    obtain ⟨lines, a, hexec, ha⟩ := exec_lineCopyDone hnow hmoves hinput hswitch hjob hreach
    exact doesFrom_of_all hexec (onlyChanges_lineCopied now m lines a) ⟨a, rfl, Nat.mod_eq_zero_of_dvd ha, rfl⟩ fun _ _ h => h
  · intro s req p c q hreach halone hmode hup hfree
    have hexec := exec_placeQAllocate (p := p) (c := c) hreach halone
    have hu := placeCommanded_leaves s req p c
    generalize placeCommanded s req p c = u at *
    rw [allocateQueue_given (by rw [hu.mode]; exact hmode) (by rw [hu.role_eq]; exact halone.1) (hu.paired.trans halone.2)
      ((hu.free 5).trans hfree)] at hexec
    obtain ⟨hgiven, hresult, hcount, hcfg⟩ := queueGiven_facts (hu.up.trans hup) q p c
    have hanswer := within_placeAnswered (queueGiven u q p c) 0
    have hsched (k : Nat) : queueCfg (placeAnswered (queueGiven u q p c) 0) k = queueCfg (queueNamed u q (namedCfg u q p c)) k :=
      queueCfg_placeAnswered.trans (hcfg k)
    obtain ⟨hport, hclass⟩ := namedCfg_fields (s := u) (q := q) (p := p) (c := c) (by omega) c.isLt
    refine does_of_all hexec ((hu.within.append (hgiven.append hanswer)).1.mono (by decide))
      ⟨rd_placeAnswered (by decide), ?_, ?_, ?_, fun k hk => ?_, ?_⟩ fun _ _ h => h
    · rw [hanswer.2.word_eq (by decide), hresult]
    · rw [hsched, queueCfg_queueNamed_same, hport]
    · rw [hsched, queueCfg_queueNamed_same, hclass]
    · rw [hsched, queueCfg_queueNamed_other hk, queueCfg, queueCfg, hu.within.1 .sched (by decide)]
    · rw [hanswer.2.word_eq (by decide), hcount, hu.within.2.word_eq (by decide)]
  · intro s req p c hreach halone hmode
    have hexec := exec_placeQAllocate (p := p) (c := c) hreach halone
    have hu := placeCommanded_leaves s req p c
    generalize placeCommanded s req p c = u at *
    rw [allocateQueue_off ((hu.mode 2).trans hmode)] at hexec
    have hall := (hu.within.append (within_placeAnswered u 2)).mono (qs := [.staged, .inForce]) (m := [Reg.placeQCmd.addr []])
      (by decide) (by simp)
    exact does_of_all hexec hall.1 ⟨rd_placeAnswered (by decide), hall.2⟩ fun _ _ h => h
  · intro s req p c hreach halone hmode hup hfree
    have hexec := exec_placeQAllocate (p := p) (c := c) hreach halone
    have hu := placeCommanded_leaves s req p c
    generalize placeCommanded s req p c = u at *
    rw [allocateQueue_full (by rw [hu.mode]; exact hmode) (by rw [hu.role_eq]; exact halone.1) ((hu.free 5).trans hfree)] at hexec
    obtain ⟨hroom, hcount, hlast⟩ := noRoom_facts (hu.up.trans hup) 2 p
    have hanswer := within_placeAnswered (noRoom u 2 p) 3
    refine does_of_all hexec ((hu.within.append (hroom.append hanswer)).1.mono (by decide))
      ⟨rd_placeAnswered (by decide), ?_, ?_⟩ fun _ _ h => h
    · rw [hanswer.2.word_eq (by decide), hcount, hu.within.2.word_eq (by decide)]
    · rw [hanswer.2.word_eq (by decide), hlast, Nat.mod_eq_of_lt (by omega)]
  · intro s hup hbehind
    have hexec : exec .journalFlashCopy s = done { s with
        place := { s.place with flashCopied := (s.place.flashCopied + 1) % 2 ^ 32 },
        img := { s.img with flashJournal := s.img.flashJournal ++ [get 0 s.place.journal (s.place.flashCopied % 65536)] } } := by
      show execJournalFlashCopy s = _
      rw [execJournalFlashCopy, if_neg (by simp [hup, hbehind])]
    exact does_of_all hexec (onlyChanges_flashCopied s _ _) ⟨rfl, rfl⟩ fun _ _ h => h
  · intro s hready
    have hexec : exec .mc2Resume s = done (mc2Resume s) := if_pos hready
    obtain ⟨hjournal, hcount, hheld⟩ := foldl_writeJournal s.place.heldBack (mc2Woken s)
    have hwoken := onlyChanges_mc2Woken s
    have hall := ((hwoken.within (by decide)).append hjournal).mono (qs := [.power, .inForce, .place])
      (m := [Reg.placeJnlCnt.addr []]) (by decide) (by simp)
    exact does_of_all hexec hall.1 ⟨(mc2Up_of hjournal (by decide) (by decide)).trans (mc2Up_mc2Woken hready), hheld, hcount, hall.2⟩
      fun _ _ h => h

end Sys2Proof.Machine

/-! PROOFS. Trunk lanes (R338 to R343, R348). -/
namespace Sys2Proof.Machine

section
variable {s now u v : State} {n m g i j k fc : Nat} {x : IzlLane} {h : BitVec 128}

/-! ### Registers of lanes and groups -/

theorem izlLane_put_same : izlLane (putIzlLane s n x) n = x := get_set_same

theorem izlLane_put_other (h : m ≠ n) : izlLane (putIzlLane s n x) m = izlLane s m := get_set_other h

theorem laneStat_addr (n : Nat) : Reg.izlLaneStat.addr [n] = 0xec4000 + n * 0x10 := rfl

theorem grpStat_addr (g : Nat) : Reg.izlGrpStat.addr [g] = 0xec1010 + g * 0x100 := by
  simp [RegRow.addr, Reg.izlGrpStat, offsetOf]

theorem grpMask_addr (g : Nat) : Reg.izlGrpMask.addr [g] = 0xec1014 + g * 0x100 := by
  simp [RegRow.addr, Reg.izlGrpMask, offsetOf]

/-- The registers that show a group's state. -/
def groupRegs (g : Nat) : List Nat := [Reg.izlGrpStat.addr [g], Reg.izlGrpMask.addr [g]]

theorem laneStat_apart (hg : g < 16) (n : Nat) : Reg.izlLaneStat.addr [n] ∉ groupRegs g := by
  simp only [groupRegs, List.mem_cons, List.not_mem_nil, or_false, laneStat_addr, grpStat_addr, grpMask_addr]
  omega

theorem laneStat_apart_lane (h : m ≠ n) : Reg.izlLaneStat.addr [m] ∉ [Reg.izlLaneStat.addr [n]] := by
  simp only [List.mem_singleton, laneStat_addr]
  omega

theorem grpStat_apart (hg : g < 16) (n : Nat) : Reg.izlGrpStat.addr [g] ∉ [Reg.izlLaneStat.addr [n]] := by
  simp only [List.mem_singleton, laneStat_addr, grpStat_addr]
  omega

theorem rd_wr_below {r : RegRow} {ix : List Nat} {hi lo h' l' v : Nat} (hl : lo ≤ hi) (hm : hi < 32) (h : h' < lo) :
    rd (wr s r ix hi lo v) r ix h' l' = rd s r ix h' l' := by
  rw [rd, word_wr_same, fld_setFld_below hl hm h, rd]

theorem fld_lt {w : Nat} (y : BitVec w) (hi lo : Nat) : fld y hi lo < 2 ^ (hi + 1 - lo) := Nat.mod_lt _ (Nat.two_pow_pos _)

theorem onlyChanges_putNear (s : State) (y : Nat) (e : PmEnd) : OnlyChanges [.izl] s (putNear s y e) := onlyChanges_of_izl s _

theorem rd_putNear (y : Nat) (e : PmEnd) (r : RegRow) (ix : List Nat) (hi lo : Nat) : rd (putNear s y e) r ix hi lo = rd s r ix hi lo := rfl

theorem izlLane_putNear (y : Nat) (e : PmEnd) : izlLane (putNear s y e) n = izlLane s n := rfl

theorem onlyChanges_putIzlLane (s : State) (n : Nat) (x : IzlLane) : OnlyChanges [.izl] s (putIzlLane s n x) := onlyChanges_of_izl s _

theorem groupLanes_of_image (h : u.image = s.image) (g : Nat) : groupLanes u g = groupLanes s g := by
  simp only [groupLanes, laneMode, laneGroup, h]

/-! ### Alignment of a group that is down -/

theorem within_showLanes (s : State) (g : Nat) : Within [.inForce] (groupRegs g) s (showLanes s g) := by
  unfold showLanes
  extract_lets x s1 s2 s3 skew s4
  exact ((within_wr s _ _ _ _ _).append ((within_wr s1 _ _ _ _ _).append ((within_wr s2 _ _ _ _ _).append
    ((within_wr s3 _ _ _ _ _).append (within_putWord s4 _ _ _))))).mono (by decide) (by simp [groupRegs])

/-- The lanes shown leave the bits above them. -/
theorem rd_showLanes {hi lo : Nat} (h : 22 < lo) : rd (showLanes s g) Reg.izlGrpStat [g] hi lo = rd s Reg.izlGrpStat [g] hi lo := by
  unfold showLanes
  extract_lets x s1 s2 s3 skew s4
  have hmask : rd (putWord s4 Reg.izlGrpMask [g] (BitVec.ofNat 32 (x.txActive.toNat * 65536 + x.rxActive.toNat))) Reg.izlGrpStat [g] hi lo =
      rd s4 Reg.izlGrpStat [g] hi lo := by
    rw [rd, word_putWord_other (by rw [grpStat_addr, grpMask_addr]; omega), rd]
  rw [hmask, rd_wr_above (by decide) (by decide) (by omega), rd_wr_above (by decide) (by decide) (by omega),
    rd_wr_above (by decide) (by decide) (by omega), rd_wr_above (by decide) (by decide) (by omega)]

theorem rdBit_eq_rd (s : State) (r : RegRow) (ix : List Nat) (i : Nat) : rdBit s r ix i = decide (rd s r ix i i = 1) := by
  rw [rdBit, flag_eq_fld, rd]

theorem rdBit_showLanes : rdBit (showLanes s g) Reg.izlGrpStat [g] 31 = rdBit s Reg.izlGrpStat [g] 31 := by
  rw [rdBit_eq_rd, rdBit_eq_rd, rd_showLanes (by decide)]

theorem groupUp_showLanes : groupUp (showLanes s g) g = groupUp s g := by
  rw [groupUp, groupUp, rdBit_showLanes, rd_showLanes (by decide)]

theorem rxLane_showLanes (hg : g < 16) : rxLane (showLanes s g) g i = rxLane s g i := by
  have hwithin := within_showLanes s g
  have himage : (showLanes s g).image = s.image := hwithin.1 .image (by decide)
  have hlane (m hi lo : Nat) : rd (showLanes s g) Reg.izlLaneStat [m] hi lo = rd s Reg.izlLaneStat [m] hi lo :=
    hwithin.2.rd_eq (laneStat_apart hg m)
  simp only [rxLane, laneSync, groupLanes_of_image himage, hlane]

/-- A group without a lane 0 in SYNC is not aligned. -/
theorem align_unaligned (hg : g < 16) (hdown : rdBit s Reg.izlGrpStat [g] 31 = false) (hnone : rxLane s g 0 = none) :
    align s g = showLanes s g := by
  unfold align
  extract_lets u x ok tags aligned
  have haligned : aligned = false := by
    unfold aligned
    rw [show rxLane u g 0 = none from (rxLane_showLanes hg).trans hnone]
    simp
  rw [haligned, show rdBit u Reg.izlGrpStat [g] 31 = false from rdBit_showLanes.trans hdown]
  rfl

theorem within_noteFailure (s : State) (g : Nat) : Within [.izl] [] s (noteFailure s g) := by
  unfold noteFailure
  extract_lets
  refine Within.ite (.refl _ _ s) ?_
  extract_lets
  exact (onlyChanges_putIzlGroup s g _).within (by decide)

theorem groupUp_of_unsynced (h : rd s Reg.izlGrpStat [g] 30 29 ≠ 2) : groupUp s g = false := by
  rw [groupUp, beq_eq_false_iff_ne.2 h, Bool.and_false]

/-- The registers of a group that takes alignment `aligned` and begins to delineate. -/
def groupWritten (s : State) (g : Nat) (aligned : Bool) : State :=
  let s := wr (wrBit s Reg.izlGrpStat [g] 31 aligned) Reg.izlGrpStat [g] 30 29 0
  if aligned then s else wrBit s Reg.izlGrpStat [g] 28 false

theorem groupWritten_facts (s : State) (g : Nat) (aligned : Bool) :
    Within [.inForce] [Reg.izlGrpStat.addr [g]] s (groupWritten s g aligned) ∧
      rd (groupWritten s g aligned) Reg.izlGrpStat [g] 30 29 = 0 := by
  have hwritten : rd (wr (wrBit s Reg.izlGrpStat [g] 31 aligned) Reg.izlGrpStat [g] 30 29 0) Reg.izlGrpStat [g] 30 29 = 0 := by
    rw [rd_wr_same (by decide) (by decide), Nat.zero_mod]
  have hwithin := (within_wrBit s Reg.izlGrpStat [g] 31 aligned).trans (within_wr (wrBit s Reg.izlGrpStat [g] 31 aligned)
    Reg.izlGrpStat [g] 30 29 0)
  cases aligned
  · exact ⟨hwithin.trans (within_wrBit _ _ _ _ _), (rd_wr_above (by decide) (by decide) (by decide)).trans hwritten⟩
  · exact ⟨hwithin, hwritten⟩

/-- A group that is down takes an alignment and begins to delineate. -/
theorem setGroup_facts (hdown : groupUp s g = false) (aligned : Bool) :
    Within [.inForce, .izl] [Reg.izlGrpStat.addr [g]] s (setGroup s g aligned 0) ∧ groupUp (setGroup s g aligned 0) g = false := by
  obtain ⟨hwritten, hld⟩ := groupWritten_facts s g aligned
  unfold setGroup
  extract_lets was write now p s1 s2 z s3
  have hnow : now = false := Bool.and_false aligned
  have hs1 : s1 = groupWritten s g aligned := by
    unfold s1
    rw [show was = false from hdown]
    rfl
  have hs2 : s2 = s1 := by unfold s2; rw [hnow, Bool.and_false, if_neg Bool.false_ne_true]
  have hs3 : s3 = putNear s2 (48 + g) { pmNear s2 (48 + g) with defect := true } := by
    unfold s3
    rw [hnow, if_neg Bool.false_ne_true]
  have hnear : Within [.izl] [] s2 s3 := by rw [hs3]; exact (onlyChanges_putNear s2 _ _).within (by decide)
  have hfail := hnear.append (within_noteFailure s3 g)
  rw [hs2, hs1] at hfail
  have hshow : Within [.inForce] [Reg.izlGrpStat.addr [g]] (noteFailure s3 g) (showRole (noteFailure s3 g) g) := within_wr _ _ _ _ _ _
  refine ⟨(hwritten.append (hfail.append hshow)).mono (by decide) (by simp), groupUp_of_unsynced ?_⟩
  rw [showRole, rd_wr_above (by decide) (by decide) (by decide), hfail.2.rd_eq (by simp), hld]
  decide

/-- The alignment of a group that is down: its port stays down. -/
theorem align_facts (hdown : groupUp s g = false) :
    Within [.inForce, .izl] (groupRegs g) s (align s g) ∧ groupUp (align s g) g = false := by
  have hshow := within_showLanes s g
  have hstill : groupUp (showLanes s g) g = false := groupUp_showLanes.trans hdown
  unfold align
  extract_lets u x ok tags aligned w
  have hw : Within [.izl] [] u w := (onlyChanges_putIzlGroup u g _).within (by decide)
  have hwdown : groupUp w g = false := by
    rw [groupUp, hw.2.rdBit_eq (by simp), hw.2.rd_eq (by simp), ← groupUp]
    exact hstill
  obtain ⟨hset, hafter⟩ := setGroup_facts hwdown aligned
  split
  · exact ⟨hshow.mono (by decide) (by simp), hstill⟩
  · exact ⟨(hshow.append (hw.append hset)).mono (by decide) (by simp [groupRegs]), hafter⟩

/-! ### A lane's SYNC state -/

/-- Lane `n` in SYNC state `v`, before its group follows. -/
def syncSet (s : State) (n v : Nat) : State :=
  let s := wr s Reg.izlLaneStat [n] 31 30 v
  if v < 2 then putNear s n { pmNear s n with defect := true } else s

theorem setSync_eq (s : State) (n v : Nat) : setSync s n v = align (syncSet s n v) (laneGroup (syncSet s n v) n) := rfl

theorem within_syncSet (s : State) (n v : Nat) : Within [.inForce, .izl] [Reg.izlLaneStat.addr [n]] s (syncSet s n v) := by
  unfold syncSet
  extract_lets u
  have hu : Within [.inForce] [Reg.izlLaneStat.addr [n]] s u := within_wr s _ _ _ _ _
  have hnear : Within [.izl] [] u (if v < 2 then putNear u n { pmNear u n with defect := true } else u) :=
    Within.ite ((onlyChanges_putNear u n _).within (by decide)) (.refl _ _ u)
  exact (hu.append hnear).mono (by decide) (by simp)

theorem rd_syncSet (hi lo : Nat) : rd (syncSet s n j) Reg.izlLaneStat [n] hi lo =
    rd (wr s Reg.izlLaneStat [n] 31 30 j) Reg.izlLaneStat [n] hi lo := by
  unfold syncSet
  extract_lets u
  split
  · rw [rd_putNear]
  · rfl

theorem laneSync_syncSet (hj : j < 4) : laneSync (syncSet s n j) n = j := by
  rw [laneSync, rd_syncSet, rd_wr_same (by decide) (by decide)]
  exact Nat.mod_eq_of_lt hj

theorem izlLane_syncSet : izlLane (syncSet s n j) m = izlLane s m := by
  have hu : izlLane (wr s Reg.izlLaneStat [n] 31 30 j) m = izlLane s m := by rw [izlLane, izlLane, wr_izl]
  unfold syncSet
  extract_lets u
  split
  · rw [izlLane_putNear, hu]
  · exact hu

theorem laneGroup_of_image (h : u.image = s.image) (n : Nat) : laneGroup u n = laneGroup s n := by rw [laneGroup, laneGroup, h]

theorem rxLane_none_of (himage : u.image = s.image) (hother : ∀ m, m ≠ n → ∀ hi lo, rd u Reg.izlLaneStat [m] hi lo =
    rd s Reg.izlLaneStat [m] hi lo) (hn : laneSync u n ≠ 2) (hnone : rxLane s g i = none) : rxLane u g i = none := by
  rw [rxLane, groupLanes_of_image himage, List.find?_eq_none]
  intro m hm
  by_cases h : m = n
  · rw [h, beq_eq_false_iff_ne.2 hn, Bool.false_and]
    exact Bool.false_ne_true
  · rw [laneSync, hother m h, hother m h]
    exact List.find?_eq_none.1 hnone m hm

/-- Lane `n` leaves for HUNT or PRESYNC in a group without lane 0. -/
theorem setSync_unaligned (hg : g < 16) (hgroup : laneGroup s n = g) (hdown : rdBit s Reg.izlGrpStat [g] 31 = false)
    (hnone : rxLane s g 0 = none) (hj : j < 2) : setSync s n j = showLanes (syncSet s n j) g := by
  have hset := within_syncSet s n j
  have himage : (syncSet s n j).image = s.image := hset.1 .image (by decide)
  rw [setSync_eq, laneGroup_of_image himage, hgroup]
  refine align_unaligned hg ((hset.2.rdBit_eq (grpStat_apart hg n)).trans hdown)
    (rxLane_none_of himage (fun m hm hi lo => hset.2.rd_eq (laneStat_apart_lane hm)) ?_ hnone)
  rw [laneSync_syncSet (by omega)]
  omega

/-- What such a change leaves. -/
theorem setSync_unaligned_facts (hg : g < 16) (hgroup : laneGroup s n = g) (hdown : rdBit s Reg.izlGrpStat [g] 31 = false)
    (hnone : rxLane s g 0 = none) (hj : j < 2) :
    Within [.inForce, .izl] (Reg.izlLaneStat.addr [n] :: groupRegs g) s (setSync s n j) ∧ laneSync (setSync s n j) n = j ∧
      (∀ hi lo, hi < 30 → rd (setSync s n j) Reg.izlLaneStat [n] hi lo = rd s Reg.izlLaneStat [n] hi lo) ∧
      ∀ m, izlLane (setSync s n j) m = izlLane s m := by
  rw [setSync_unaligned hg hgroup hdown hnone hj]
  have hshow := within_showLanes (syncSet s n j) g
  have hlane (hi lo : Nat) : rd (showLanes (syncSet s n j) g) Reg.izlLaneStat [n] hi lo = rd (syncSet s n j) Reg.izlLaneStat [n] hi lo :=
    hshow.2.rd_eq (laneStat_apart hg n)
  refine ⟨((within_syncSet s n j).append hshow).mono (by decide) (by simp), ?_, fun hi lo h => ?_, fun m => ?_⟩
  · rw [laneSync, hlane, ← laneSync, laneSync_syncSet (by omega)]
  · rw [hlane, rd_syncSet, rd_wr_below (by decide) (by decide) h]
  · rw [izlLane, hshow.1 .izl (by decide), ← izlLane, izlLane_syncSet]

/-! ### Frames sent -/

theorem toBytes_length : ∀ n x, (toBytes n x).length = n
  | 0, _ => rfl
  | n + 1, x => congrArg (· + 1) (toBytes_length n x)

theorem bytesOfBits_length : ∀ n l, (bytesOfBits n l).length = n
  | 0, _ => rfl
  | n + 1, l => congrArg (· + 1) (bytesOfBits_length n (l.drop 8))

theorem scramble_length (st : BitVec 43) (bs : List Byte) : (scramble st bs).2.length = bs.length := bytesOfBits_length _ _

theorem ofBytes_toBytes_two {y : Nat} (h : y < 65536) : ofBytes (toBytes 2 y) = y := by
  simp only [toBytes, ofBytes, List.foldl, BitVec.toNat_ofNat]
  omega

/-- Bytes closed by their CRC. -/
def withCrc (b : List Byte) : List Byte := b ++ toBytes 2 (izlCrc b)

theorem withCrc_length {b : List Byte} (h : b.length = k) : (withCrc b).length = k + 2 := by
  rw [withCrc, List.length_append, toBytes_length, h]

theorem withCrc_checks {b : List Byte} (h : b.length = k) : izlCrc ((withCrc b).take k) = field (withCrc b) k 2 := by
  rw [withCrc, List.take_left' h, field, List.drop_left' h, List.take_of_length_le (toBytes_length 2 _).le,
    ofBytes_toBytes_two (BitVec.isLt _)]

/-- The bytes of a lane header before its CRC. -/
theorem laneHeader_withCrc (s : State) (g n i fc oh : Nat) : ∃ y, laneHeader s g n i fc oh = withCrc (toBytes 14 y) := ⟨_, rfl⟩

/-- Lane `n` has sent frame `fc` with header `hdr`, overhead `oh` and payload `pay`. -/
structure LaneSent (s u : State) (n fc : Nat) (hdr oh pay : List Byte) : Prop where
  frame : OnlyChanges [.izl, .out] s u
  out : u.out = .laneFrame n fc hdr oh pay :: s.out
  other (m : Nat) : m ≠ n → izlLane u m = izlLane s m

theorem laneSent_of_puts (s : State) (n fc : Nat) (x y : IzlLane) (hdr oh pay : List Byte) :
    LaneSent s (emit (putIzlLane (putIzlLane s n x) n y) (.laneFrame n fc hdr oh pay)) n fc hdr oh pay where
  frame := (((onlyChanges_putIzlLane s n x).trans (onlyChanges_putIzlLane _ n y)).append (within_emit _ _).1).mono (by decide)
  out := rfl
  other _ h := (izlLane_put_other h).trans (izlLane_put_other h)

theorem LaneSent.putLane {hdr oh pay : List Byte} (h : LaneSent s u n fc hdr oh pay) (x : IzlLane) :
    LaneSent s (putIzlLane u n x) n fc hdr oh pay where
  frame := h.frame.trans ((onlyChanges_putIzlLane u n x).mono (by decide))
  out := h.out
  other m hm := (izlLane_put_other hm).trans (h.other m hm)

theorem sendLaneFrame_sent (s : State) (g n fc : Nat) (poh : List Byte) : ∃ hdr oh pay,
    LaneSent s (sendLaneFrame s g n fc poh) n fc hdr oh pay ∧ hdr.length = 16 ∧ izlCrc (hdr.take 14) = field hdr 14 2 ∧
      (48 ≤ poh.length → oh.length = 48) := by
  unfold sendLaneFrame
  extract_lets i k x sec u oh hdr x'
  obtain ⟨y, hy⟩ := laneHeader_withCrc u g n i fc oh
  have hlen := scramble_length (izlLane u n).txScramble (poh ++ laneBlocks (izlGroup u g) i)
  generalize scramble (izlLane u n).txScramble (poh ++ laneBlocks (izlGroup u g) i) = r at hlen ⊢
  refine ⟨hdr, r.2.take 48, r.2.drop 48, laneSent_of_puts s n fc _ _ hdr _ _, ?_, ?_, fun hpoh => ?_⟩
  · rw [show hdr = _ from hy]
    exact withCrc_length (toBytes_length 14 y)
  · rw [show hdr = _ from hy]
    exact withCrc_checks (toBytes_length 14 y)
  · rw [List.length_take, hlen, List.length_append]
    omega

theorem exec_laneFrameTx {n : Fin 48} {el : Nat} (hnow : now = advance el s) (hgroup : laneGroup now n = g)
    (hmem : n.val ∈ groupLanes now g) (hon : groupOn now g = true) (hi : (groupLanes now g).idxOf n.val = i)
    (hquiet : (izlGroup now g).txQuiet.getLsbD i = false) (hidle : n.val ∉ now.power.idleLanes) :
    exec (.laneFrameTx n el) s = if i = 0 then
        done (putIzlLane (sendLaneFrame (fillGroupFrame now g).1 g n (izlLane (fillGroupFrame now g).1 n).txFc (fillGroupFrame now g).2) n
          { izlLane (sendLaneFrame (fillGroupFrame now g).1 g n (izlLane (fillGroupFrame now g).1 n).txFc (fillGroupFrame now g).2) n with
            txFc := ((izlLane (fillGroupFrame now g).1 n).txFc + 1) % 65536 })
      else if (izlLane now n).txFc = nextFrameCnt now g then done now
      else done (putIzlLane (sendLaneFrame now g n ((nextFrameCnt now g + 65535) % 65536) (List.replicate 48 0#8)) n
        { izlLane (sendLaneFrame now g n ((nextFrameCnt now g + 65535) % 65536) (List.replicate 48 0#8)) n with
          txFc := nextFrameCnt now g }) := by
  show execLaneFrameTx n el s = _
  unfold execLaneFrameTx
  rw [← hnow]
  dsimp only
  rw [hgroup, hi, if_neg]
  simp [hmem, hon, hquiet, hidle]

/-- A group frame filled where no change of the ACTIVE set waits. -/
theorem fillGroupFrame_steady (hsteady : (izlGroup s g).txNext = (izlGroup s g).txActive) :
    ∃ y, (fillGroupFrame s g).1 = putIzlGroup s g y := by
  unfold fillGroupFrame
  extract_lets x u
  have hu : u = s := if_neg fun h => h.1 hsteady
  rw [hu]
  exact ⟨_, rfl⟩

/-! ### Headers heard -/

/-- Lane `n` as a header with a good CRC leaves HUNT. -/
def huntHeard (s : State) (n : Nat) (h : BitVec 128) : State :=
  putIzlLane (wr (wr s Reg.izlLaneStat [n] 27 24 (fld h 111 108)) Reg.izlLaneStat [n] 23 16 (fld h 99 92)) n
    { izlLane s n with good := 1, bad := 0, expectFc := (fld h 127 112 + 1) % 65536 }

/-- Lane `n` as one more header fits in PRESYNC. -/
def presyncHeard (s : State) (n : Nat) (h : BitVec 128) : State :=
  putIzlLane s n { izlLane s n with
    good := (izlLane s n).good + 1, expectFc := ((izlLane s n).expectFc + 1) % 65536, ohBytes := [], ttHeld := [],
    badHeaders := 0, rxFc := fld h 127 112, rxAt := some s.time.dt, prevAt := none,
    arrived := [(fld h 127 112 % 32, s.time.dt)] }

/-- Lane `n` as a header in SYNC does not fit. -/
def badHeard (s : State) (n : Nat) : State :=
  closePeriod (putIzlLane (putNear s n ((pmNear s n).frame 0 1)) n
    { izlLane s n with bad := (izlLane s n).bad + 1, badHeaders := (izlLane s n).badHeaders + 1,
                       expectFc := ((izlLane s n).expectFc + 1) % 65536 }) n (izlLane s n).expectFc

theorem execLaneHeaderRx_framed {n : Fin 48} {el : Nat} {sbip : BitVec 16} (hnow : now = advance el s) (hgroup : laneGroup now n = g)
    (hmem : n.val ∈ groupLanes now g) (hon : groupOn now g = true) : exec (.laneHeaderRx n el h sbip) s =
      match laneSync now n with
      | 0 => if !headerCrc h then done now else done (setSync (huntHeard now n h) n 1)
      | 1 =>
        if !headerFits now g n h then done (setSync (putIzlLane now n { izlLane now n with good := 0 }) n 0)
        else done (if (izlLane now n).good + 1 < 4 then presyncHeard now n h
          else align (noteSkew (setSync (presyncHeard now n h) n 2) g n (fld h 127 112)) g)
      | 2 =>
        if headerFits now g n h then done (goodHeader now g n h sbip)
        else done (if (izlLane now n).bad + 1 < 7 then badHeard now n
          else setSync (putIzlLane (badHeard now n) n { izlLane (badHeard now n) n with bad := 0, good := 0 }) n 0)
      | _ => done now := by
  show execLaneHeaderRx n el h sbip s = _
  unfold execLaneHeaderRx
  rw [← hnow]
  dsimp only
  rw [hgroup, if_neg (by simp [hmem, hon])]
  rfl

section
variable {n : Fin 48} {el : Nat} {sbip : BitVec 16} (hnow : now = advance el s) (hgroup : laneGroup now n = g)
  (hmem : n.val ∈ groupLanes now g) (hon : groupOn now g = true)
include hnow hgroup hmem hon

theorem exec_header_hunt (hsync : laneSync now n = 0) : exec (.laneHeaderRx n el h sbip) s =
    if !headerCrc h then done now else done (setSync (huntHeard now n h) n 1) := by
  rw [execLaneHeaderRx_framed hnow hgroup hmem hon, hsync]
  rfl

theorem exec_header_presync (hsync : laneSync now n = 1) : exec (.laneHeaderRx n el h sbip) s =
    if !headerFits now g n h then done (setSync (putIzlLane now n { izlLane now n with good := 0 }) n 0)
    else done (if (izlLane now n).good + 1 < 4 then presyncHeard now n h
      else align (noteSkew (setSync (presyncHeard now n h) n 2) g n (fld h 127 112)) g) := by
  rw [execLaneHeaderRx_framed hnow hgroup hmem hon, hsync]
  rfl

theorem exec_header_sync (hsync : laneSync now n = 2) : exec (.laneHeaderRx n el h sbip) s =
    if headerFits now g n h then done (goodHeader now g n h sbip)
    else done (if (izlLane now n).bad + 1 < 7 then badHeard now n
      else setSync (putIzlLane (badHeard now n) n { izlLane (badHeard now n) n with bad := 0, good := 0 }) n 0) := by
  rw [execLaneHeaderRx_framed hnow hgroup hmem hon, hsync]
  rfl

end

theorem huntHeard_facts (s : State) (n : Nat) (h : BitVec 128) :
    Within [.inForce, .izl] [Reg.izlLaneStat.addr [n]] s (huntHeard s n h) ∧
      rd (huntHeard s n h) Reg.izlLaneStat [n] 27 24 = fld h 111 108 ∧ rd (huntHeard s n h) Reg.izlLaneStat [n] 23 16 = fld h 99 92 ∧
      laneSync (huntHeard s n h) n = laneSync s n ∧ (izlLane (huntHeard s n h) n).expectFc = (fld h 127 112 + 1) % 65536 := by
  have hput := (onlyChanges_putIzlLane (wr (wr s Reg.izlLaneStat [n] 27 24 (fld h 111 108)) Reg.izlLaneStat [n] 23 16 (fld h 99 92)) n
    { izlLane s n with good := 1, bad := 0, expectFc := (fld h 127 112 + 1) % 65536 }).within (by decide)
  have hwithin := (within_wr s Reg.izlLaneStat [n] 27 24 (fld h 111 108)).append
    ((within_wr (wr s Reg.izlLaneStat [n] 27 24 (fld h 111 108)) Reg.izlLaneStat [n] 23 16 (fld h 99 92)).append hput)
  refine ⟨hwithin.mono (by decide) (by simp), ?_, ?_, ?_, congrArg IzlLane.expectFc izlLane_put_same⟩
  · rw [huntHeard, hput.2.rd_eq (by simp), rd_wr_above (by decide) (by decide) (by decide), rd_wr_same (by decide) (by decide)]
    exact Nat.mod_eq_of_lt (fld_lt h 111 108)
  · rw [huntHeard, hput.2.rd_eq (by simp), rd_wr_same (by decide) (by decide)]
    exact Nat.mod_eq_of_lt (fld_lt h 99 92)
  · rw [laneSync, huntHeard, hput.2.rd_eq (by simp), rd_wr_above (by decide) (by decide) (by decide),
      rd_wr_above (by decide) (by decide) (by decide), ← laneSync]

theorem within_noteSkew (s : State) (g n fc : Nat) : Within [.inForce] [Reg.izlLaneStat.addr [n]] s (noteSkew s g n fc) :=
  within_wr s _ _ _ _ _

theorem laneSync_noteSkew : laneSync (noteSkew s g n fc) n = laneSync s n := rd_wr_above (by decide) (by decide) (by decide)

theorem groupUp_of_regsBut {l : List Nat} (h : RegsBut l s u) (hl : Reg.izlGrpStat.addr [g] ∉ l) : groupUp u g = groupUp s g := by
  rw [groupUp, groupUp, h.rdBit_eq hl, h.rd_eq hl]

/-- A lane that comes into SYNC in a group that is down. -/
theorem synced_facts (hg : g < 16) (hgroup : laneGroup s n = g) (hdown : groupUp s g = false) :
    OnlyChanges [.inForce, .izl] s (align (noteSkew (setSync s n 2) g n fc) g) ∧
      laneSync (align (noteSkew (setSync s n 2) g n fc) g) n = 2 := by
  have hset := within_syncSet s n 2
  have hsetdown : groupUp (syncSet s n 2) g = false := (groupUp_of_regsBut hset.2 (grpStat_apart hg n)).trans hdown
  obtain ⟨halign, haligned⟩ := align_facts hsetdown
  have hsync : setSync s n 2 = align (syncSet s n 2) g := by
    rw [setSync_eq, laneGroup_of_image (hset.1 .image (by decide)), hgroup]
  rw [hsync]
  have hskew := within_noteSkew (align (syncSet s n 2) g) g n fc
  obtain ⟨hagain, -⟩ := align_facts ((groupUp_of_regsBut hskew.2 (grpStat_apart hg n)).trans haligned)
  refine ⟨(hset.1.append (halign.1.append (hskew.1.append hagain.1))).mono (by decide), ?_⟩
  rw [laneSync, hagain.2.rd_eq (laneStat_apart hg n), ← laneSync, laneSync_noteSkew, laneSync, halign.2.rd_eq (laneStat_apart hg n),
    ← laneSync, laneSync_syncSet (by decide)]

theorem closePeriod_facts (s : State) (n fc : Nat) : OnlyChanges [.izl] s (closePeriod s n fc) ∧
    (izlLane (closePeriod s n fc) n).bad = (izlLane s n).bad := by
  unfold closePeriod
  split
  · exact ⟨onlyChanges_putIzlLane s n _, by rw [izlLane_put_same]⟩
  · exact ⟨.refl _ s, rfl⟩

end

/-- Settles O35: a lane's header carries the CRC of what stands before it, and a header heard moves its own lane while the
group stays down. -/
theorem lanesAlign : Obligations.LanesAlign := by
  unfold Obligations.LanesAlign
  refine ⟨?_, ?_, ?_, ?_, ?_, ?_, ?_⟩
  · intro s n el g i fc now hnow hgroup hmem hon hi hi0 hquiet hidle hnext hfc
    have hexec := exec_laneFrameTx hnow hgroup hmem hon hi hquiet hidle
    rw [if_neg hi0, if_neg hnext, hfc] at hexec
    obtain ⟨hdr, oh, pay, hsent, hlen, hcrc, hoh⟩ := sendLaneFrame_sent now g n fc (List.replicate 48 0#8)
    have hall := hsent.putLane { izlLane (sendLaneFrame now g n fc (List.replicate 48 0#8)) n with txFc := nextFrameCnt now g }
    refine doesFrom_of_all hexec hall.frame ⟨?_, hall.other, hdr, oh, pay, hall.out, hlen, hcrc,
      hoh (by simp)⟩ fun _ _ h => h
    rw [izlLane_put_same]
  · intro s n el g now hnow hgroup hmem hon hi hquiet hidle hsteady
    have hexec := exec_laneFrameTx hnow hgroup hmem hon hi hquiet hidle
    rw [if_pos rfl] at hexec
    obtain ⟨y, hy⟩ := fillGroupFrame_steady hsteady
    have hlane : izlLane (fillGroupFrame now g).1 n = izlLane now n := by rw [hy]; rfl
    have hfill : OnlyChanges [.izl] now (fillGroupFrame now g).1 := by rw [hy]; exact onlyChanges_putIzlGroup now g y
    rw [hlane] at hexec
    obtain ⟨hdr, oh, pay, hsent, -⟩ := sendLaneFrame_sent (fillGroupFrame now g).1 g n (izlLane now n).txFc (fillGroupFrame now g).2
    have hall := hsent.putLane { izlLane (sendLaneFrame (fillGroupFrame now g).1 g n (izlLane now n).txFc (fillGroupFrame now g).2) n with
      txFc := ((izlLane now n).txFc + 1) % 65536 }
    refine doesFrom_of_all hexec ((hfill.append hall.frame).mono (by decide)) ⟨congrArg IzlLane.txFc izlLane_put_same, hdr, oh, pay, ?_⟩
      fun _ _ h => h
    rw [hall.out, hfill .out (by decide)]
  · intro s n el h sbip g now hnow hgroup hg hmem hon hdown hnone hsync hcrc
    have hexec := exec_header_hunt (h := h) (sbip := sbip) hnow hgroup hmem hon hsync
    rw [hcrc, if_neg (by decide)] at hexec
    obtain ⟨hheard, hlane, htag, hstill, hexpect⟩ := huntHeard_facts now n h
    have himage : (huntHeard now n h).image = now.image := hheard.1 .image (by decide)
    obtain ⟨hset, hsync', hkept, hlanes⟩ := setSync_unaligned_facts (s := huntHeard now n h) (n := n) (j := 1) hg
      ((laneGroup_of_image himage n).trans hgroup) ((hheard.2.rdBit_eq (grpStat_apart hg n)).trans hdown)
      (rxLane_none_of himage (fun m hm hi lo => hheard.2.rd_eq (laneStat_apart_lane hm)) (by rw [hstill, hsync]; decide) hnone) (by decide)
    refine doesFrom_of_all hexec ((hheard.1.append hset.1).mono (by decide)) ⟨hsync', ?_, ?_, ?_, fun m hm => ?_⟩ fun _ _ h => h
    · rw [hkept 27 24 (by decide), hlane]
    · rw [hkept 23 16 (by decide), htag]
    · rw [hlanes, hexpect]
    · have hm' : m.val ≠ n := fun h => hm (Fin.ext h)
      have hother := (hheard.append hset).2
      have hlane := laneStat_apart_lane hm'
      have hgrp := laneStat_apart hg m
      refine hother.rd_eq ?_
      simp only [List.mem_append, List.mem_cons] at hlane ⊢
      tauto
  · intro s n el h sbip g now hnow hgroup hmem hon hsync hcrc
    have hexec := exec_header_hunt (h := h) (sbip := sbip) hnow hgroup hmem hon hsync
    rw [hcrc, Bool.not_false, if_pos rfl] at hexec
    exact doesFrom_of_all hexec (.refl _ now) trivial fun _ _ h => h
  · intro s n el h sbip g now hnow hgroup hg hmem hon hdown hsync hfits hgood
    have hexec := exec_header_presync (h := h) (sbip := sbip) hnow hgroup hmem hon hsync
    rw [hfits, if_neg (by decide), hgood, if_neg (by decide)] at hexec
    have hheard : OnlyChanges [.izl] now (presyncHeard now n h) := onlyChanges_putIzlLane now n _
    have hnotUp : groupUp (presyncHeard now n h) g = false := by
      rw [groupUp_of_regsBut (hheard.within (by decide)).2 (by simp), groupUp, hdown]
      rfl
    obtain ⟨hset, hsync'⟩ := synced_facts (fc := fld h 127 112) hg
      ((laneGroup_of_image (hheard .image (by decide)) n).trans hgroup) hnotUp
    exact doesFrom_of_all hexec ((hheard.append hset).mono (by decide)) hsync' fun _ _ h => h
  · intro s n el h sbip g now hnow hgroup hg hmem hon hdown hnone hsync hfits
    have hexec := exec_header_presync (h := h) (sbip := sbip) hnow hgroup hmem hon hsync
    rw [hfits, Bool.not_false, if_pos rfl] at hexec
    have hput := onlyChanges_putIzlLane now n { izlLane now n with good := 0 }
    obtain ⟨hall, hlane, -⟩ := setSync_unaligned_facts (s := putIzlLane now n { izlLane now n with good := 0 }) (n := n) (j := 0) hg
      hgroup hdown hnone (by decide)
    exact doesFrom_of_all hexec ((hput.append hall.1).mono (by decide)) hlane fun _ _ h => h
  · intro s n el h sbip g now hnow hgroup hmem hon hsync hfits hbad
    have hexec := exec_header_sync (h := h) (sbip := sbip) hnow hgroup hmem hon hsync
    rw [hfits, if_neg Bool.false_ne_true, if_pos (by omega)] at hexec
    obtain ⟨hclose, hcount⟩ := closePeriod_facts (putIzlLane (putNear now n ((pmNear now n).frame 0 1)) n
      { izlLane now n with bad := (izlLane now n).bad + 1, badHeaders := (izlLane now n).badHeaders + 1,
                           expectFc := ((izlLane now n).expectFc + 1) % 65536 }) n (izlLane now n).expectFc
    refine doesFrom_of_all hexec (((onlyChanges_putNear now n _).trans (onlyChanges_putIzlLane _ n _)).trans hclose) ?_ fun _ _ h => h
    rw [badHeard, hcount, izlLane_put_same]

end Sys2Proof.Machine

/-! PROOFS. The hierarchy (R370, R493): a group treated as plain takes no control leaf but HELLO. -/
namespace Sys2Proof.Machine

/-- Hierarchy group 0 is up on lane 0 and in conflict with another manager; MC3 does not run. -/
def groupInConflict : State :=
  putWord (putWord { State.reset with image := { State.reset.image with lanes := [⟨0x10, 0, 1⟩] } } Reg.izlGrpCfg [0] 0xA0000000)
    Reg.izlGrpStat [0] 0xC2800000

/-- A JOIN leaf of 14 bytes. -/
def bareJoin : List Byte := 2#8 :: List.replicate 13 0#8

/-- Refutes O37: its last clause holds a JOIN for MC3 whatever the group's role, and a group in conflict discards it (R370). -/
theorem not_hierarchyForms : ¬ Obligations.HierarchyForms := by
  rintro ⟨-, -, -, -, -, -, -, -, -, -, -, -, -, hheld⟩
  have hdoes := hheld groupInConflict 0 bareJoin (by decide +kernel) (by decide +kernel) (by decide) (by decide) (by decide +kernel)
  have hwaits := hdoes.holds (p := fun t => t.izl.held.length == 1) fun t ht => by
    rw [ht.1]; decide
  have hdiscarded : outcomeHolds (fun t => t.izl.held.length == 1) (exec (.joinRx 0 bareJoin) groupInConflict) = false := by
    decide +kernel
  rw [hdiscarded] at hwaits
  contradiction

end Sys2Proof.Machine

/-! PROOFS. Orders of the hierarchy (R370, R493): a group treated as plain takes no ORDER. -/
namespace Sys2Proof.Machine

/-- A worker that holds number 0, in conflict on its group 0, with MC3 running. -/
def workerInConflict : State :=
  putWord (putWord (putWord groupInConflict Reg.glbReady [] 4) Reg.izlHierCfg [] 2) Reg.izlHierStat [] 0x60000000

/-- An ORDER leaf of 12 bytes for device 0. -/
def bareOrder : List Byte := 5#8 :: List.replicate 11 0#8

/-- Refutes O38: its first clause performs an ORDER whatever the group's role, and a group in conflict discards it (R370). -/
theorem not_ordersAndBins : ¬ Obligations.OrdersAndBins := by
  rintro ⟨hperformed, -⟩
  obtain ⟨t, reply, hexec, hkept⟩ := hperformed workerInConflict 0 bareOrder (by decide +kernel) (by decide +kernel) (by decide)
    (by decide) (by decide +kernel) (by decide +kernel) (by decide) (by decide +kernel) (by decide +kernel) (by decide +kernel)
  have hnone : outcomeHolds (fun t => t.izl.answered.isEmpty) (exec (.orderRx 0 bareOrder) workerInConflict) = true := by
    decide +kernel
  rw [hexec] at hnone
  simp only [outcomeHolds, List.isEmpty_iff] at hnone
  simp [hnone] at hkept

end Sys2Proof.Machine

/-! PROOFS. Pairing (R63): when the last twin lane goes, port 94 gives up a frame of the device's own that it sends. -/
namespace Sys2Proof.Machine

/-- A paired unit of which twin lane 3 alone is in service, and whose port 94 sends a frame of the device's own. -/
def lastLaneSending : State :=
  putPort (putWord (putWord { State.reset with image := { State.reset.image with pop := 0x400000 } } Reg.glbReady [] 8)
    Reg.twinStat [] 0x08800000) 94 { Port.idle with ownNow := some ⟨⟨.twin, 0, []⟩, [], 0, ⟨0, [], []⟩⟩ }

/-- Refutes O39: its eighth clause leaves every port as it was, and the transmission of port 94 is cut off (R63). -/
theorem not_twinsPair : ¬ Obligations.TwinsPair := by
  rintro ⟨-, -, -, -, -, -, -, hlast, -⟩
  obtain ⟨t, hexec, hframe, -⟩ := hlast lastLaneSending 3 (by decide +kernel) (by decide +kernel) (by decide +kernel)
    (by decide +kernel) rfl rfl (by decide +kernel)
  have hcut : outcomeHolds (fun t => (port t 94).ownNow.isNone) (exec (.twinLaneChange 3 false) lastLaneSending) = true := by
    decide +kernel
  have hports : t.ports = lastLaneSending.ports := hframe .ports (by decide)
  rw [hexec] at hcut
  simp only [outcomeHolds, port, hports] at hcut
  exact absurd hcut (by decide +kernel)

end Sys2Proof.Machine

/-! PROOFS. The role of a twin unit (R376 to R381, R396): what a change of role leaves in the registers. -/
namespace Sys2Proof.Machine

section
variable {s t : State} {v sub reason : Nat}

/-- The offsets of TIME_TB_STAT, which show the source of each TB. -/
def tbStatRegs : List Nat := (List.range 4).map fun k => Reg.timeTbStat.addr [k]

/-- The offsets of the words that a change of role writes. -/
def roleRegs : List Nat := [Reg.twinStat.addr [], Reg.twinRoleCnt.addr [], Reg.twinRoleLast.addr []] ++ tbStatRegs

/-! ### Sources of the time bases -/

theorem within_showSources (s : State) : Within [.inForce] tbStatRegs s (showSources s) :=
  Within.foldl_mem (fun u k hk => by
    have haddr : Reg.timeTbStat.addr [k] ∈ tbStatRegs := List.mem_map.2 ⟨k, hk, rfl⟩
    exact ((within_wr u _ _ 29 27 _).append (within_wrBit _ _ _ 26 _)).mono (by decide) (by simp [haddr])) s

/-- TBs that stop or start following the twin count from now. -/
def sourcesSince (before s : State) : State :=
  (List.range 4).foldl (fun s t =>
    if followsTwin before t = followsTwin s t then s else putTb s t { tb s t with since := s.time.dt }) s

theorem sourcesSince_only (before s : State) :
    OnlyChanges [.clock] s (sourcesSince before s) ∧ (sourcesSince before s).time.dt = s.time.dt :=
  List.foldlRecOn (motive := fun u => OnlyChanges [.clock] s u ∧ u.time.dt = s.time.dt) (List.range 4) _ ⟨.refl _ s, rfl⟩
    fun u hu k _ => by
      split
      · exact hu
      · exact ⟨hu.1.trans (onlyChanges_putTb u k _), hu.2⟩

theorem within_switchSources (before s : State) : Within [.clock, .inForce] tbStatRegs s (switchSources before s) :=
  (((sourcesSince_only before s).1.within (by decide)).append (within_showSources _)).mono (by decide) (by simp)

theorem dt_switchSources (before s : State) : (switchSources before s).time.dt = s.time.dt :=
  ((within_showSources (sourcesSince before s)).1 .clock (by decide)).1.trans (sourcesSince_only before s).2

/-! ### A change of role -/

/-- The unit shows role `v` and substate `sub`, and TAKE stands on an ACTIVE unit alone. -/
def roleShown (s : State) (v sub : Nat) : State :=
  let t := wr (wr s Reg.twinStat [] 31 29 v) Reg.twinStat [] 26 24 sub
  { t with twin := { t.twin with take := t.twin.take && v == 1, finalDone := false } }

/-- The unit shows its role, and a change of role is counted. -/
def roleCounted (s : State) (v sub reason : Nat) : State :=
  if role s = v then roleShown s v sub else roleEvent (roleShown s v sub) reason v

theorem within_roleShown (s : State) (v sub : Nat) : Within [.inForce, .twin] [Reg.twinStat.addr []] s (roleShown s v sub) :=
  (((within_wr s _ _ 31 29 v).trans (within_wr _ _ _ 26 24 sub)).append (within_of_twin _ _)).mono (by decide) (by simp)

theorem within_roleEvent (s : State) (reason v : Nat) :
    Within [.inForce] [Reg.twinRoleCnt.addr [], Reg.twinRoleLast.addr []] s (roleEvent s reason v) :=
  ((within_countEvent s _ _).append (within_putWord _ _ _ _)).mono (by decide) (by simp)

theorem within_roleCounted (s : State) (v sub reason : Nat) :
    Within [.inForce, .twin] [Reg.twinStat.addr [], Reg.twinRoleCnt.addr [], Reg.twinRoleLast.addr []] s
      (roleCounted s v sub reason) := by
  have hshown := within_roleShown s v sub
  exact Within.ite (hshown.mono (by decide) (by simp)) ((hshown.append (within_roleEvent _ reason v)).mono (by decide) (by simp))

theorem within_setRole (s : State) (v sub reason : Nat) : Within [.inForce, .twin, .clock] roleRegs s (setRole s v sub reason) :=
  ((within_roleCounted s v sub reason).append (within_switchSources s _)).mono (by decide) fun _ h => h

/-- A word that no change of role's sources shows is as the role left it. -/
theorem word_setRole {r : RegRow} (h : r.addr [] ∉ tbStatRegs) :
    word (setRole s v sub reason) r [] = word (roleCounted s v sub reason) r [] :=
  (within_switchSources s (roleCounted s v sub reason)).2.word_eq h

theorem twin_roleCounted (s : State) (v sub reason : Nat) :
    (roleCounted s v sub reason).twin = { s.twin with take := s.twin.take && v == 1, finalDone := false } := by
  have htwin (u : State) (x : Twin) : ({ u with twin := x } : State).twin = x := rfl
  have hshown : (roleShown s v sub).twin = { s.twin with take := s.twin.take && v == 1, finalDone := false } := by
    rw [roleShown, htwin, wr_twin, wr_twin]
  unfold roleCounted
  split
  · exact hshown
  · rw [roleEvent, putWord_twin, countEvent_twin, hshown]

theorem twin_setRole (s : State) (v sub reason : Nat) :
    (setRole s v sub reason).twin = { s.twin with take := s.twin.take && v == 1, finalDone := false } :=
  ((within_switchSources s _).1 .twin (by decide)).trans (twin_roleCounted s v sub reason)

theorem dt_setRole (s : State) (v sub reason : Nat) : (setRole s v sub reason).time.dt = s.time.dt :=
  (dt_switchSources s _).trans ((within_roleCounted s v sub reason).1 .clock (by decide)).1

theorem word_setRole_stat (s : State) (v sub reason : Nat) :
    word (setRole s v sub reason) Reg.twinStat [] = setFld (setFld (word s Reg.twinStat []) 31 29 v) 26 24 sub := by
  have htwin (u : State) (x : Twin) : word { u with twin := x } Reg.twinStat [] = word u Reg.twinStat [] := rfl
  have hshown : word (roleShown s v sub) Reg.twinStat [] = setFld (setFld (word s Reg.twinStat []) 31 29 v) 26 24 sub := by
    rw [roleShown, htwin, word_wr_same, word_wr_same]
  rw [word_setRole (by decide), roleCounted]
  split
  · exact hshown
  · exact ((within_roleEvent _ reason v).2.word_eq (by decide)).trans hshown

theorem role_setRole (hv : v < 8) : role (setRole s v sub reason) = v := by
  rw [role, rd, word_setRole_stat, fld_setFld_above (by decide) (by decide) (by decide), fld_setFld_same (by decide) (by decide)]
  exact Nat.mod_eq_of_lt hv

theorem substate_setRole (hsub : sub < 8) : substate (setRole s v sub reason) = sub := by
  rw [substate, rd, word_setRole_stat, fld_setFld_same (by decide) (by decide)]
  exact Nat.mod_eq_of_lt hsub

/-- PRIMARY, PAIRED and the bits below SUBSTATE stand through a change of role. -/
theorem statBit_setRole {i : Nat} (h : i < 24 ∨ i = 27 ∨ i = 28) :
    rdBit (setRole s v sub reason) Reg.twinStat [] i = rdBit s Reg.twinStat [] i := by
  rw [rdBit, word_setRole_stat]
  obtain h | rfl | rfl := h
  · rw [flag_setFld_below (by decide) (by decide) (by omega), flag_setFld_below (by decide) (by decide) (by omega)]; rfl
  · rw [flag_setFld_above (by decide) (by decide) (by decide), flag_setFld_below (by decide) (by decide) (by decide)]; rfl
  · rw [flag_setFld_above (by decide) (by decide) (by decide), flag_setFld_below (by decide) (by decide) (by decide)]; rfl

theorem paired_setRole : paired (setRole s v sub reason) = paired s := statBit_setRole (.inr (.inl rfl))

theorem roleCnt_setRole :
    word (setRole s v sub reason) Reg.twinRoleCnt [] =
      if role s = v then word s Reg.twinRoleCnt [] else word s Reg.twinRoleCnt [] + 1 := by
  have hshown : word (roleShown s v sub) Reg.twinRoleCnt [] = word s Reg.twinRoleCnt [] :=
    (within_roleShown s v sub).2.word_eq (by decide)
  rw [word_setRole (by decide), roleCounted]
  split
  · exact hshown
  · rw [roleEvent, word_putWord_other (by decide), countEvent, word_putWord_same, hshown]

theorem roleLast_setRole (h : role s ≠ v) :
    word (setRole s v sub reason) Reg.twinRoleLast [] = BitVec.ofNat 32 (reason * 2 ^ 16 + v) := by
  rw [word_setRole (by decide), roleCounted, if_neg h, roleEvent, word_putWord_same]

end

end Sys2Proof.Machine

/-! PROOFS. Takeover and parking (R381, R389, R393): on a unit whose front ports have no link, and with nothing queued. -/
namespace Sys2Proof.Machine

section
variable {s t u : State} {l : List Nat} {p reason : Nat} {stays : Bool}

/-! ### Front ports without a link -/

theorem laneGroup_lt (s : State) (n : Nat) : laneGroup s n < 256 := (s.image.lanes.getD n ⟨0, 0xFF, 1⟩).trunk.isLt

/-- A group whose port is `p` is the group of lane `p`. -/
theorem portGroup_some {g : Nat} (h : portGroup s p = some g) : p < 48 ∧ g = laneGroup s p := by
  unfold portGroup at h
  split at h
  · next hp => exact ⟨hp.1, (Option.some.inj h).symm⟩
  · cases h

/-- The link of a front port follows the structure image and the registers that show links. -/
theorem linkUp_front (hp : p < 80) (himage : t.image = s.image) (hreg : RegsBut l s t)
    (hl : ∀ a ∈ l, 0xE00000 ≤ a ∧ (a < 0xEC1010 ∨ 0xED1010 ≤ a)) : linkUp t p = linkUp s p := by
  have hgroup : portGroup t p = portGroup s p := by
    unfold portGroup groupPort groupLanes laneMode laneGroup; rw [himage]
  unfold linkUp
  rw [hgroup]
  by_cases h48 : p < 48
  · simp only [h48, if_true]
    have hlink : Reg.hpLinkStat.addr [p] ∉ l := fun h => by
      have haddr : Reg.hpLinkStat.addr [p] = 0x100100 + p * 0x10000 := by simp [RegRow.addr, Reg.hpLinkStat, offsetOf]
      have := (hl _ h).1
      omega
    cases hg : portGroup s p with
    | none => exact hreg.rdBit_eq hlink
    | some g =>
      obtain ⟨-, rfl⟩ := portGroup_some hg
      have hlane := laneGroup_lt s p
      have hstat : Reg.izlGrpStat.addr [laneGroup s p] ∉ l := fun h => by
        have := (hl _ h).2
        rw [grpStat_addr] at this
        omega
      simp only [hreg.rdBit_eq hstat, hreg.rd_eq hstat]
  · have hlink : Reg.cpLinkStat.addr [p - 48] ∉ l := fun h => by
      have haddr : Reg.cpLinkStat.addr [p - 48] = 0x400100 + (p - 48) * 0x10000 := by
        simp [RegRow.addr, Reg.cpLinkStat, offsetOf]
      have := (hl _ h).1
      omega
    simp only [h48, hp, if_true, if_false, hreg.rdBit_eq hlink]

theorem sendTwinFrame_dark (h : linkUp s p = false) (subtype : Nat) (hb : Heartbeat) : sendTwinFrame s p subtype hb = s := by
  unfold sendTwinFrame
  extract_lets b
  split
  · next g hg =>
    have hup : groupUp s g = false := by
      unfold linkUp at h
      rw [if_pos (portGroup_some hg).1, hg] at h
      exact h
    rw [hup]
    rfl
  · rw [sendOwn, h]
    rfl

theorem notifyAll_dark (h : Dark s) : notifyAll s = s :=
  List.foldlRecOn (motive := fun t => t = s) (List.range 80) _ rfl fun t ht p hp => by
    rw [ht]
    exact sendTwinFrame_dark (h p (List.mem_range.1 hp)) 2 _

/-! ### Taking over -/

/-- What the twin controller keeps once it takes over: nothing of an uncommitted cycle. -/
def Twin.takenOver (x : Twin) (stays : Bool) : Twin :=
  { x with incoming := [], incomplete := false, complete := none, boundary := none, reverting := false, missed := 0,
           searching := x.searching || !stays }

/-- The takeover is counted, and what was not committed is gone. -/
def takeoverCounted (s : State) (stays : Bool) : State :=
  { bump s Ctr.twin [] 5 1 with twin := s.twin.takenOver stays }

/-- The unit leads alone. -/
def ledAlone (s : State) (reason : Nat) (stays : Bool) : State :=
  wrBit (setRole (takeoverCounted s stays) 1 0 reason) Reg.twinStat [] 27 false

theorem within_takeoverCounted (s : State) (stays : Bool) : Within [.counters, .twin] [] s (takeoverCounted s stays) :=
  (within_bump s Ctr.twin [] 5 1).append (within_of_twin _ _)

theorem within_ledAlone (s : State) (reason : Nat) (stays : Bool) :
    Within [.counters, .twin, .inForce, .clock] roleRegs s (ledAlone s reason stays) :=
  (((within_takeoverCounted s stays).append (within_setRole _ 1 0 reason)).append (within_wrBit _ _ _ 27 false)).mono
    (by decide) fun a ha => by simp only [roleRegs, List.mem_append, List.mem_cons, List.not_mem_nil] at ha ⊢; tauto

theorem roleRegs_apart : ∀ a ∈ roleRegs, 0xE00000 ≤ a ∧ (a < 0xEC1010 ∨ 0xED1010 ≤ a) := by decide

theorem abortArmed_none (h : replState s ≠ 3) : abortArmed s = s := if_neg h

/-- A unit that is to lead without a partner, and whose front ports are dark, sends nothing as it takes over. -/
theorem takeover_dark (hrepl : replState s ≠ 3) (hdark : Dark s) (halone : (paired s && stays) = false) :
    takeover s reason stays = ledAlone s reason stays := by
  have hpaired : paired (setRole (takeoverCounted s stays) 1 0 reason) = paired s := paired_setRole
  have hled : Dark (ledAlone s reason stays) := fun p hp => by
    have hwithin := within_ledAlone s reason stays
    rw [linkUp_front hp (hwithin.1 .image (by decide)) hwithin.2 roleRegs_apart]
    exact hdark p hp
  have hnotpaired : paired (ledAlone s reason stays) = false := by
    rw [paired, ledAlone, rdBit, word_wrBit_same, flag_setFld_same (by decide)]
  have hbit : (paired (setRole (takeoverCounted s stays) 1 0 reason) && stays && !(substate s == 4)) = false := by
    rw [hpaired, halone]; rfl
  have hequal : takeover s reason stays =
      if paired (notifyAll (ledAlone s reason stays)) then startSync (notifyAll (ledAlone s reason stays))
      else notifyAll (ledAlone s reason stays) := by
    unfold takeover
    extract_lets refused s1 x s2 s3 s4 s5
    have h4 : s4 = ledAlone s reason stays := by
      have h3 : s3 = setRole (takeoverCounted s stays) 1 0 reason := by
        unfold s3 s2 x s1
        rw [abortArmed_none hrepl]
        rfl
      unfold s4
      rw [h3, hbit]
      rfl
    unfold s5
    rw [h4]
  rw [hequal, notifyAll_dark hled, hnotpaired]
  rfl

theorem role_ledAlone : role (ledAlone s reason stays) = 1 := by
  rw [role, rd, ledAlone, word_wrBit_same, fld_setFld_above (by decide) (by decide) (by decide)]
  exact role_setRole (by decide)

theorem substate_ledAlone : substate (ledAlone s reason stays) = 0 := by
  rw [substate, rd, ledAlone, word_wrBit_same, fld_setFld_below (by decide) (by decide) (by decide)]
  exact substate_setRole (by decide)

theorem paired_ledAlone : paired (ledAlone s reason stays) = false := by
  rw [paired, ledAlone, rdBit, word_wrBit_same, flag_setFld_same (by decide)]

theorem roleLast_ledAlone (h : role s ≠ 1) :
    word (ledAlone s reason stays) Reg.twinRoleLast [] = BitVec.ofNat 32 (reason * 2 ^ 16 + 1) := by
  rw [ledAlone, word_wrBit_other (by decide)]
  exact roleLast_setRole h

theorem twin_ledAlone : (ledAlone s reason stays).twin =
    { s.twin.takenOver stays with take := s.twin.take && true, finalDone := false } := by
  rw [ledAlone, wrBit_twin, twin_setRole]
  rfl

theorem counters_ledAlone : (ledAlone s reason stays).regs.counters = (bump s Ctr.twin [] 5 1).regs.counters :=
  ((within_setRole _ 1 0 reason).trans ((within_wrBit _ _ _ 27 false).mono (qs := [.inForce, .twin, .clock]) (m := roleRegs)
    (by decide) (by simp [roleRegs]))).1 .counters (by decide)

/-! ### Parking -/

theorem dropParked_none (h : s.sched.queues = []) : dropParked s = s := by
  have hbusy : busyQueues s = [] := by rw [busyQueues, h]; rfl
  rw [dropParked, hbusy]
  rfl

/-- What the twin controller keeps as SYNCING begins. -/
def Twin.syncing (x : Twin) (now : Nat) : Twin :=
  { x with syncAt := now, boundary := none, reverting := false, incoming := [], incomplete := false, complete := none }

theorem within_beginRestoring (s : State) (reason : Nat) :
    Within [.inForce, .twin, .clock] roleRegs s (beginRestoring s reason) :=
  ((within_setRole s 3 1 reason).append (within_of_twin _ _)).mono (by decide) (by simp)

theorem twin_beginRestoring (s : State) (reason : Nat) : (beginRestoring s reason).twin =
    ({ s.twin with take := s.twin.take && false, finalDone := false }).syncing s.time.dt := by
  have h : (beginRestoring s reason).twin = (setRole s 3 1 reason).twin.syncing (setRole s 3 1 reason).time.dt := rfl
  rw [h, twin_setRole, dt_setRole]
  rfl

theorem word_beginRestoring (r : RegRow) : word (beginRestoring s reason) r [] = word (setRole s 3 1 reason) r [] := by
  have htwin (u : State) (x : Twin) : word { u with twin := x } r [] = word u r [] := rfl
  exact htwin _ _

theorem role_beginRestoring : role (beginRestoring s reason) = 3 := by
  rw [role, rd, word_beginRestoring]
  exact role_setRole (by decide)

theorem substate_beginRestoring : substate (beginRestoring s reason) = 1 := by
  rw [substate, rd, word_beginRestoring]
  exact substate_setRole (by decide)

theorem park_eq (h : s.sched.queues = []) : park s reason = beginRestoring s reason := by rw [park, dropParked_none h]

end

end Sys2Proof.Machine

/-! PROOFS. Heartbeats (R387, R389, R393). -/
namespace Sys2Proof.Machine

section
variable {s now u : State} {alt : Bool} {hb : Heartbeat} {el : Nat}

/-! ### A heartbeat of the peer -/

/-- What the twin controller keeps of heartbeat `hb`, which came in time or not. -/
def Twin.beaten (x : Twin) (alt : Bool) (hb : Heartbeat) (inTime : Bool) : Twin :=
  { x with peerRole := hb.role, peerCycle := hb.cycle, altHeard := x.altHeard || alt, heard := x.heard || inTime,
           missed := if inTime then 0 else x.missed }

/-- Heartbeat `hb` is noted. -/
def beatNoted (s : State) (alt : Bool) (hb : Heartbeat) : State :=
  let u := if paired s then spend s else s
  { u with twin := s.twin.beaten alt hb (decide (s.time.dt ≤ s.time.cycleStart + 40000)) }

/-- The ACTIVE unit notices another. -/
def dualNoted (s : State) : State := { s with twin := { s.twin with dual := true } }

theorem within_beatNoted (s : State) (alt : Bool) (hb : Heartbeat) : Within [.freeCtr, .twin] [] s (beatNoted s alt hb) :=
  ((within_spend s).orNot).append (within_of_twin _ _)

theorem recordTwinIn_quiet (h : Quiet s) (body : List Byte) : recordTwinIn s body = if paired s then spend s else s := by
  unfold recordTwinIn
  rw [record_of_quiet (quiet_of_regsBut (within_spend s).2 (by decide) (by decide) h)]

theorem heartbeatIn_eq (h : Quiet s) : heartbeatIn s alt hb =
    if hb.fail && standsReady (beatNoted s alt hb) then takeover (beatNoted s alt hb) 2 false
    else if hb.take && role (beatNoted s alt hb) == 1 then park (abortArmed (beatNoted s alt hb)) 3
    else if hb.role = 1 ∧ role (beatNoted s alt hb) = 1 then dualNoted (beatNoted s alt hb)
    else beatNoted s alt hb := by
  have hnoted : beatNoted s alt hb = let v := recordTwinIn s (twinPayload 1 hb)
      { v with twin := v.twin.beaten alt hb (decide (v.time.dt ≤ heartbeatEnd v)) } := by
    rw [recordTwinIn_quiet h]
    unfold beatNoted
    split <;> rfl
  rw [hnoted]
  rfl

theorem exec_heartbeatRx (hnow : now = advance el s) (hon : twinOn now = true) (hoff : offline now = false)
    (hpeer : (now.twin.peer.any fun p => p.unitId == hb.unitId) = true) :
    exec (.heartbeatRx el alt hb) s = done (heartbeatIn now alt hb) := by
  show execHeartbeatRx el alt hb s = _
  unfold execHeartbeatRx
  rw [← hnow]
  show done (if (twinOn now && !offline now && (now.twin.peer.any fun p => p.unitId == hb.unitId)) = true then _ else _) = _
  rw [hon, hoff, hpeer]
  rfl

theorem role_beatNoted : role (beatNoted s alt hb) = role s := (within_beatNoted s alt hb).2.rd_eq (by decide)

theorem standsReady_beatNoted : standsReady (beatNoted s alt hb) = standsReady s := by
  have hsub : substate (beatNoted s alt hb) = substate s := (within_beatNoted s alt hb).2.rd_eq (by decide)
  rw [standsReady, standsReady, role_beatNoted, hsub]

/-- A heartbeat without FAIL, or on a unit that does not stand ready, makes no unit take over. -/
theorem failPasses (h : hb.fail = false ∨ standsReady now = false) :
    (hb.fail && standsReady (beatNoted now alt hb)) = false := by
  rw [standsReady_beatNoted]
  obtain h | h := h <;> simp [h]

/-- A unit that stands ready is not ACTIVE. -/
theorem role_of_standsReady (h : standsReady s = true) : role s ≠ 1 := fun h1 => by
  simp [standsReady, h1] at h

theorem not_standsReady (h : role s = 1) : standsReady s = false := by
  rw [standsReady, h]; rfl

/-- Dark front ports stay dark where only other registers change. -/
theorem dark_of_within {ps : List Part} (hd : Dark s) (h : Within ps [] s u) (hp : Part.image ∉ ps) : Dark u := fun p hlt => by
  rw [linkUp_front hlt (h.1 .image hp) h.2 (by simp)]
  exact hd p hlt

theorem frame_beatNoted_ledAlone : Within [.twin, .freeCtr, .inForce, .counters, .clock] roleRegs now
    (ledAlone (beatNoted now alt hb) 2 false) :=
  ((within_beatNoted now alt hb).append (within_ledAlone _ 2 false)).mono (by decide) (by simp)

/-! ### A heartbeat that is missed -/

/-- A cycle without a heartbeat counts. -/
def missCounted (s : State) : State :=
  { bump s Ctr.twin [] 0 1 with twin := { s.twin with missed := s.twin.missed + 1, judged := true } }

/-- The ACTIVE unit has lost its pairing. -/
def pairingLost (s : State) : State :=
  wrBit { s with twin := { s.twin with missed := 0, searching := true } } Reg.twinStat [] 27 false

theorem within_missCounted (s : State) : Within [.counters, .twin] [] s (missCounted s) :=
  (within_bump s Ctr.twin [] 0 1).append (within_of_twin _ _)

theorem within_pairingLost (s : State) : Within [.twin, .inForce] [Reg.twinStat.addr []] s (pairingLost s) :=
  ((within_of_twin s _).append (within_wrBit _ _ _ 27 false))

theorem searching_pairingLost : (pairingLost s).twin.searching = true := by rw [pairingLost, wrBit_twin]

theorem role_pairingLost : role (pairingLost s) = role s := by
  have htwin (u : State) (x : Twin) : word { u with twin := x } Reg.twinStat [] = word u Reg.twinStat [] := rfl
  rw [role, rd, pairingLost, word_wrBit_same, htwin, fld_setFld_above (by decide) (by decide) (by decide), role, rd]

theorem paired_pairingLost : paired (pairingLost s) = false := by
  rw [paired, pairingLost, rdBit, word_wrBit_same, flag_setFld_same (by decide)]

theorem exec_heartbeatMissed (hpaired : paired s = true) (hheard : s.twin.heard = false) (hjudged : s.twin.judged = false)
    (hlate : heartbeatEnd s < s.time.dt) :
    exec .heartbeatMissed s = if s.twin.missed + 1 < 3 then done (missCounted s)
      else if standsReady (missCounted s) then done (takeover (missCounted s) 1 false)
      else if role (missCounted s) = 1 then done (pairingLost (missCounted s)) else done (missCounted s) := by
  show execHeartbeatMissed s = _
  unfold execHeartbeatMissed
  rw [hpaired, hheard, hjudged, decide_eq_false (Nat.not_le.2 hlate)]
  rfl

theorem role_missCounted : role (missCounted s) = role s := (within_missCounted s).2.rd_eq (by decide)

theorem standsReady_missCounted : standsReady (missCounted s) = standsReady s := by
  have hsub : substate (missCounted s) = substate s := (within_missCounted s).2.rd_eq (by decide)
  rw [standsReady, standsReady, role_missCounted, hsub]

theorem ctr_missCounted : ctr (missCounted s) Ctr.twin [] 0 = (ctr s Ctr.twin [] 0 + 1) % 2 ^ 40 := ctr_bump_same

theorem countersBut_missCounted : CountersBut [Ctr.twin.addr [] 0] s (missCounted s) :=
  countersBut_bump (List.mem_singleton_self _)

/-- A third heartbeat missed on a unit that does not stand ready. -/
theorem exec_heartbeatMissed_third (hpaired : paired s = true) (hheard : s.twin.heard = false) (hjudged : s.twin.judged = false)
    (hlate : heartbeatEnd s < s.time.dt) (hthird : 2 ≤ s.twin.missed) (hready : standsReady s = false) :
    exec .heartbeatMissed s = if role s = 1 then done (pairingLost (missCounted s)) else done (missCounted s) := by
  rw [exec_heartbeatMissed hpaired hheard hjudged hlate, if_neg (by omega), standsReady_missCounted, hready, role_missCounted]
  rfl

end

/-- Settles O40: each outcome of a heartbeat that comes or is missed is one state of its own, with the words it writes. -/
theorem heartbeatsDecide : Obligations.HeartbeatsDecide := by
  refine ⟨?_, ?_, ?_, ?_, ?_, ?_, ?_, ?_⟩
  · intro s el alt hb now hnow hon hoff hpeer hquiet hfail htake hrole
    have hexec : exec (.heartbeatRx el alt hb) s = done (beatNoted now alt hb) := by
      rw [exec_heartbeatRx hnow hon hoff hpeer, heartbeatIn_eq hquiet, failPasses hfail, role_beatNoted]
      have htake' : (hb.take && role now == 1) = false := by obtain h | h := htake <;> simp [h]
      have hrole' : ¬ (hb.role = 1 ∧ role now = 1) := fun h => hrole.elim (· h.1) (· h.2)
      rw [htake', if_neg hrole']
      rfl
    refine doesFrom_of_all hexec ((within_beatNoted now alt hb).1.mono (by decide)) ?_ fun _ _ h => h
    show now.twin.beaten alt hb (decide (now.time.dt ≤ now.time.cycleStart + 40000)) = _
    simp [Twin.beaten]
  · intro s el alt hb now hnow hon hoff hpeer hquiet hfail htake hrole hactive
    have hexec : exec (.heartbeatRx el alt hb) s = done (dualNoted (beatNoted now alt hb)) := by
      rw [exec_heartbeatRx hnow hon hoff hpeer, heartbeatIn_eq hquiet, failPasses hfail, role_beatNoted, htake,
        if_pos (show hb.role = 1 ∧ role now = 1 from ⟨hrole, hactive⟩)]
      rfl
    have hframe : Within [.twin, .freeCtr] [] now (dualNoted (beatNoted now alt hb)) :=
      ((within_beatNoted now alt hb).append (within_of_twin _ _)).mono (by decide) (by simp)
    exact doesFrom_of_all hexec hframe.1 ⟨rfl, hrole⟩ fun _ _ h => h
  · intro s el alt hb now hnow hon hoff hpeer hquiet hfail hready hrepl hdark
    have hwithin := within_beatNoted now alt hb
    have hrepl' : replState (beatNoted now alt hb) ≠ 3 := by rw [replState, hwithin.2.rd_eq (by decide)]; exact hrepl
    have hexec : exec (.heartbeatRx el alt hb) s = done (ledAlone (beatNoted now alt hb) 2 false) := by
      rw [exec_heartbeatRx hnow hon hoff hpeer, heartbeatIn_eq hquiet, standsReady_beatNoted, hfail, hready,
        takeover_dark hrepl' (dark_of_within hdark hwithin (by decide)) (Bool.and_false _)]
      rfl
    have hcounters : (ledAlone (beatNoted now alt hb) 2 false).regs.counters = (bump now Ctr.twin [] 5 1).regs.counters := by
      have hsame : (beatNoted now alt hb).regs.counters = now.regs.counters := hwithin.1 .counters (by decide)
      rw [counters_ledAlone, bump, bump, ctr, ctr, hsame]
    refine doesFrom_of_all hexec (frame_beatNoted_ledAlone.1.mono (by decide)) ⟨role_ledAlone, substate_ledAlone, paired_ledAlone,
      roleLast_ledAlone (by rw [role_beatNoted]; exact role_of_standsReady hready), ?_, ?_, ?_, ?_, ?_⟩ fun _ _ h => h
    · rw [twin_ledAlone]; rfl
    · rw [twin_ledAlone]; rfl
    · rw [twin_ledAlone]; exact Bool.or_true _
    · rw [ctr, hcounters]; exact ctr_bump_same
    · intro a ha
      rw [hcounters]
      exact countersBut_bump (s := now) (List.mem_singleton_self _) a ha
  · intro s el alt hb now hnow hon hoff hpeer hquiet htake hactive hrepl hqueues
    have hwithin := within_beatNoted now alt hb
    have hrepl' : replState (beatNoted now alt hb) ≠ 3 := by rw [replState, hwithin.2.rd_eq (by decide)]; exact hrepl
    have hqueues' : (beatNoted now alt hb).sched.queues = [] := by
      rw [show (beatNoted now alt hb).sched = now.sched from hwithin.1 .sched (by decide)]; exact hqueues
    have hexec : exec (.heartbeatRx el alt hb) s = done (beginRestoring (beatNoted now alt hb) 3) := by
      rw [exec_heartbeatRx hnow hon hoff hpeer, heartbeatIn_eq hquiet, failPasses (.inr (not_standsReady hactive)),
        role_beatNoted, htake, hactive, abortArmed_none hrepl', park_eq hqueues']
      rfl
    have hframe := hwithin.1.append (within_beginRestoring (beatNoted now alt hb) 3).1
    refine doesFrom_of_all hexec (hframe.mono (by decide)) ⟨role_beginRestoring, substate_beginRestoring, ?_, ?_⟩ fun _ _ h => h
    · rw [word_beginRestoring, roleLast_setRole (by rw [role_beatNoted, hactive]; decide)]
      rfl
    · rw [twin_beginRestoring]; rfl
  · intro s hpaired hheard hjudged hlate hfew
    have hexec : exec .heartbeatMissed s = done (missCounted s) := by
      rw [exec_heartbeatMissed hpaired hheard hjudged hlate, if_pos (by omega)]
    exact does_of_all hexec ((within_missCounted s).1.mono (by decide)) ⟨rfl, ctr_missCounted, countersBut_missCounted⟩ fun _ _ h => h
  · intro s hpaired hheard hjudged hlate hthird hready hrepl hdark
    have hwithin := within_missCounted s
    have hrepl' : replState (missCounted s) ≠ 3 := by rw [replState, hwithin.2.rd_eq (by decide)]; exact hrepl
    have hexec : exec .heartbeatMissed s = done (ledAlone (missCounted s) 1 false) := by
      rw [exec_heartbeatMissed hpaired hheard hjudged hlate, if_neg (by omega), standsReady_missCounted, hready,
        takeover_dark hrepl' (dark_of_within hdark hwithin (by decide)) (Bool.and_false _)]
      rfl
    have hframe := hwithin.1.append (within_ledAlone (missCounted s) 1 false).1
    have hctr (i : Nat) : ctr (ledAlone (missCounted s) 1 false) Ctr.twin [] i = ctr (bump (missCounted s) Ctr.twin [] 5 1) Ctr.twin [] i := by
      rw [ctr, counters_ledAlone]; rfl
    refine does_of_all hexec (hframe.mono (by decide)) ⟨role_ledAlone, substate_ledAlone, paired_ledAlone,
      roleLast_ledAlone (by rw [role_missCounted]; exact role_of_standsReady hready), ?_, ?_⟩ fun _ _ h => h
    · rw [hctr, ctr_bump_other (by decide), ctr_missCounted]
    · have hother : ctr (missCounted s) Ctr.twin [] 5 = ctr s Ctr.twin [] 5 := ctr_bump_other (by decide)
      rw [hctr, ctr_bump_same, hother]
      rfl
  · intro s hpaired hheard hjudged hlate hthird hactive
    have hexec : exec .heartbeatMissed s = done (pairingLost (missCounted s)) := by
      rw [exec_heartbeatMissed_third hpaired hheard hjudged hlate hthird (not_standsReady hactive), if_pos hactive]
    have hframe := ((within_missCounted s).append (within_pairingLost _)).mono (qs := [.twin, .inForce, .counters])
      (m := [Reg.twinStat.addr []]) (by decide) (by simp)
    exact does_of_all hexec hframe.1 ⟨role_pairingLost.trans (role_missCounted.trans hactive), paired_pairingLost,
      searching_pairingLost, hframe.2⟩ fun _ _ h => h
  · intro s hpaired hheard hjudged hlate hthird hrole hsub
    have hready : standsReady s = false := by rw [standsReady, hrole, hsub]; rfl
    have hexec : exec .heartbeatMissed s = done (missCounted s) := by
      rw [exec_heartbeatMissed_third hpaired hheard hjudged hlate hthird hready, if_neg (by rw [hrole]; decide)]
    exact does_of_all hexec ((within_missCounted s).1.mono (by decide)) ⟨role_missCounted.trans hrole, ctr_missCounted⟩
      fun _ _ h => h

end Sys2Proof.Machine

/-! PROOFS. A front port loses its link while nothing moves (R63, R390): its own registers, and nothing that it carried. -/
namespace Sys2Proof.Machine

section
variable {s t u : State} {l m : List Nat} {p q : Nat}

/-- `u` is as `s` but in registers `l`, counters, what ports hold beside the frame they receive, and free values. -/
def LinkSide (l : List Nat) (s u : State) : Prop :=
  Within [.inForce, .counters, .ports, .freeCtr] l s u ∧
    ∀ q, (port u q).receiving = (port s q).receiving ∧ (port u q).lpiSince = (port s q).lpiSince

theorem LinkSide.refl (l : List Nat) (s : State) : LinkSide l s s := ⟨.refl _ l s, fun _ => ⟨rfl, rfl⟩⟩

theorem LinkSide.trans (h : LinkSide l s t) (h' : LinkSide l t u) : LinkSide l s u :=
  ⟨h.1.trans h'.1, fun q => ⟨(h'.2 q).1.trans (h.2 q).1, (h'.2 q).2.trans (h.2 q).2⟩⟩

theorem LinkSide.orNot {c : Prop} [Decidable c] (h : LinkSide l s t) : LinkSide l s (if c then t else s) := by
  split
  · exact h
  · exact .refl l s

/-- An update that leaves the ports alone. -/
theorem Within.linkSide {ps : List Part} (h : Within ps m s u) (hp : ∀ p ∈ ps, p ∈ [Part.inForce, .counters, .freeCtr])
    (hm : ∀ a ∈ m, a ∈ l) : LinkSide l s u := by
  have hports : u.ports = s.ports := h.1 .ports fun hmem => absurd (hp _ hmem) (by decide)
  refine ⟨h.mono (fun p hmem => ?_) hm, fun q => ?_⟩
  · have := hp p hmem
    simp only [List.mem_cons, List.not_mem_nil, or_false] at this ⊢
    tauto
  · rw [port, port, hports]
    exact ⟨rfl, rfl⟩

theorem linkSide_putPort (l : List Nat) {x : Port} (hreceiving : x.receiving = (port s p).receiving)
    (hlpi : x.lpiSince = (port s p).lpiSince) : LinkSide l s (putPort s p x) := by
  refine ⟨((onlyChanges_putPort s p x).within (by decide)).mono (by decide) (by simp), fun q => ?_⟩
  by_cases h : q = p
  · subst h
    rw [port_putPort_same]
    exact ⟨hreceiving, hlpi⟩
  · rw [port_putPort_other h]
    exact ⟨rfl, rfl⟩

/-- Nothing is sent, queued or received, no capture or trace runs, and no port flushes its stations as it goes down. -/
structure Halted (s : State) : Prop where
  sending : s.sched.sending = []
  queues : s.sched.queues = []
  ports : ∀ q, (port s q).receiving = none ∧ (port s q).lpiSince = none
  quiet : Quiet s
  flush : ∀ q < 80, rdBit s Reg.pipePortCfg [pipeOf s q, q] 31 = false

theorem portGroup_of_image (h : u.image = s.image) (q : Nat) : portGroup u q = portGroup s q := by
  unfold portGroup groupPort groupLanes laneMode laneGroup; rw [h]

theorem pipeOf_of_image (h : u.image = s.image) (q : Nat) : pipeOf u q = pipeOf s q := by
  unfold pipeOf lowestPipe isPipe popBit
  rw [portGroup_of_image h, h]

theorem LinkSide.image_eq (h : LinkSide l s u) : u.image = s.image := h.1.1 .image (by decide)

theorem LinkSide.halted (h : LinkSide l s u) (hl : ∀ a ∈ l, a < 0x601000) (hs : Halted s) : Halted u := by
  have hsched : u.sched = s.sched := h.1.1 .sched (by decide)
  have hapart {r : RegRow} {ix : List Nat} (hr : 0x601000 ≤ r.base) : r.addr ix ∉ l := fun hmem => by
    have := hl _ hmem
    have := addr_ge r ix
    omega
  exact {
    sending := by rw [hsched]; exact hs.sending
    queues := by rw [hsched]; exact hs.queues
    ports := fun q => ⟨(h.2 q).1.trans (hs.ports q).1, (h.2 q).2.trans (hs.ports q).2⟩
    quiet := quiet_of_regsBut h.1.2 (hapart (by decide)) (hapart (by decide)) hs.quiet
    flush := fun q hq => by
      rw [pipeOf_of_image h.image_eq, h.1.2.rdBit_eq (hapart (by decide))]
      exact hs.flush q hq }

/-! ### What a port gives up -/

theorem dropQueued_none (h : s.sched.queues = []) : dropQueued s p = s := by
  have hbusy : busyQueues s = [] := by rw [busyQueues, h]; rfl
  rw [dropQueued, hbusy]
  rfl

theorem linkSide_cutTransmission (h : s.sched.sending = []) : LinkSide l s (cutTransmission s p) := by
  have hcut : cutSending s p = s := by rw [cutSending, h]; rfl
  unfold cutTransmission
  extract_lets s1
  have h1 : s1 = s := hcut
  rw [h1]
  split
  · exact .refl l s
  · exact (((within_countPort s p 34 1).trans (within_countPort _ p 24 _)).linkSide (by decide) (by simp)).trans
      (linkSide_putPort l rfl rfl)

theorem linkRecord_quiet (h : Quiet s) (up : Bool) : linkRecord s p up = if p < 48 then s else spend s := by
  unfold linkRecord
  extract_lets code
  split
  · exact record_of_quiet h _ _ _ _
  · exact record_of_quiet (quiet_of_regsBut (within_spend s).2 (by decide) (by decide) h) _ _ _ _

theorem linkSide_linkRecord (h : Quiet s) (up : Bool) : LinkSide l s (linkRecord s p up) := by
  rw [linkRecord_quiet h]
  split
  · exact .refl l s
  · exact (within_spend s).linkSide (by decide) (by simp)

/-- A port of a halted device that loses its link. -/
theorem linkSide_portDown {clear : State → State} (hs : Halted s) (hp : p < 80) (hl : ∀ a ∈ l, a < 0x601000)
    (hclear : ∀ v, LinkSide l v (clear v)) : LinkSide l s (portDown s p clear) := by
  unfold portDown
  rw [cutOff_idle (hs.ports p).1, leaveLpi_awake (hs.ports p).2]
  refine LinkSide.orNot ?_
  have hcut : LinkSide l s (cutTransmission s p) := linkSide_cutTransmission hs.sending
  rw [dropQueued_none (hcut.halted hl hs).queues]
  have hcount : LinkSide l s (countPort (clear (cutTransmission s p)) p 38 1) :=
    (hcut.trans (hclear _)).trans ((within_countPort _ p 38 1).linkSide (by decide) (by simp))
  have hflush : flushPort (countPort (clear (cutTransmission s p)) p 38 1) p = countPort (clear (cutTransmission s p)) p 38 1 :=
    if_neg (by rw [(hcount.halted hl hs).flush p hp]; decide)
  show LinkSide l s (linkRecord (putPort (flushPort (countPort (clear (cutTransmission s p)) p 38 1) p) p
    (port (flushPort (countPort (clear (cutTransmission s p)) p 38 1) p) p).cleared) p false)
  rw [hflush]
  have hput := hcount.trans (linkSide_putPort (p := p) l (x := (port (countPort (clear (cutTransmission s p)) p 38 1) p).cleared) rfl rfl)
  exact hput.trans (linkSide_linkRecord (hput.halted hl hs).quiet false)

/-! ### Losing the link -/

/-- LINK_STAT of front port `p`. -/
def linkReg (p : Nat) : Nat := if p < 48 then Reg.hpLinkStat.addr [p] else Reg.cpLinkStat.addr [p - 48]

theorem hpLinkStat_addr (n : Nat) : Reg.hpLinkStat.addr [n] = 0x100100 + n * 0x10000 := by
  simp [RegRow.addr, Reg.hpLinkStat, offsetOf]

theorem cpLinkStat_addr (n : Nat) : Reg.cpLinkStat.addr [n] = 0x400100 + n * 0x10000 := by
  simp [RegRow.addr, Reg.cpLinkStat, offsetOf]

theorem linkReg_eq (hp : p < 80) : linkReg p = 0x100100 + p * 0x10000 := by
  unfold linkReg
  split
  · rw [hpLinkStat_addr]
  · rw [cpLinkStat_addr]; omega

theorem linkReg_lt (hp : p < 80) : ∀ a ∈ [linkReg p], a < 0x601000 := by
  simp only [List.mem_singleton, forall_eq, linkReg_eq hp]
  omega

/-- The port's own registers once its link is lost, before it acquires a link anew. -/
def unlinked (s : State) (p : Nat) : State :=
  if p < 48 then
    let s := portDown s p fun s => wrBit s Reg.hpLinkStat [p] 0 false
    let s := putPort s p { port s p with negotiatedFec := none, anNoMatch := false }
    showFec (wr s Reg.hpLinkStat [p] 3 0 0) p
  else
    let s := portDown s p fun s => wrBit s Reg.cpLinkStat [p - 48] 0 false
    let s := putPort s p { port s p with anNoMatch := false }
    putWord s Reg.cpLinkStat [p - 48] (BitVec.ofNat 32 (downMdix s (p - 48) * 32))

theorem linkLost_unlinked (s : State) (p : Nat) : linkLost s p = beginLink (unlinked s p) p := rfl

theorem linkSide_unlinked (hs : Halted s) (hp : p < 80) : LinkSide [linkReg p] s (unlinked s p) := by
  have hl := linkReg_lt hp
  unfold unlinked
  split
  · next h48 =>
    have hreg : linkReg p = Reg.hpLinkStat.addr [p] := if_pos h48
    have hwr {u v : State} (h : Within [.inForce] [Reg.hpLinkStat.addr [p]] u v) : LinkSide [linkReg p] u v :=
      h.linkSide (by decide) (by rw [hreg]; simp)
    extract_lets s1 x s2
    have h1 : LinkSide [linkReg p] s s1 := linkSide_portDown hs hp hl fun v => hwr (within_wrBit v _ _ 0 false)
    have h2 : LinkSide [linkReg p] s1 s2 := linkSide_putPort _ rfl rfl
    have h3 : LinkSide [linkReg p] s2 (showFec (wr s2 Reg.hpLinkStat [p] 3 0 0) p) :=
      (hwr (within_wr _ _ _ 3 0 0)).trans (hwr (within_wr _ _ _ 6 4 _))
    exact (h1.trans h2).trans h3
  · next h48 =>
    have hreg : linkReg p = Reg.cpLinkStat.addr [p - 48] := if_neg h48
    have hwr {u v : State} (h : Within [.inForce] [Reg.cpLinkStat.addr [p - 48]] u v) : LinkSide [linkReg p] u v :=
      h.linkSide (by decide) (by rw [hreg]; simp)
    extract_lets s1 x s2
    have h1 : LinkSide [linkReg p] s s1 := linkSide_portDown hs hp hl fun v => hwr (within_wrBit v _ _ 0 false)
    have h2 : LinkSide [linkReg p] s1 s2 := linkSide_putPort _ rfl rfl
    exact (h1.trans h2).trans (hwr (within_putWord _ _ _ _))

theorem linkUp_unlinked (hp : p < 80) (hside : LinkSide [linkReg p] s (unlinked s p)) (hgroup : portGroup s p = none) :
    linkUp (unlinked s p) p = false := by
  have hgroup' : portGroup (unlinked s p) p = none := (portGroup_of_image hside.image_eq p).trans hgroup
  unfold linkUp
  by_cases h48 : p < 48
  · rw [if_pos h48, hgroup']
    show rdBit (unlinked s p) Reg.hpLinkStat [p] 0 = false
    unfold unlinked
    rw [if_pos h48]
    extract_lets s1 x s2
    have hzero : rd (showFec (wr s2 Reg.hpLinkStat [p] 3 0 0) p) Reg.hpLinkStat [p] 3 0 = 0 := by
      rw [showFec, rd_wr_below (by decide) (by decide) (by decide), rd_wr_same (by decide) (by decide)]
      rfl
    exact flag_of_fld_zero hzero (by decide) (by decide)
  · rw [if_neg h48, if_pos hp]
    unfold unlinked
    rw [if_neg h48]
    extract_lets s1 x s2
    rw [rdBit, word_putWord_same, flag, BitVec.getLsbD_ofNat, Nat.mul_comm, show 32 = 2 ^ 5 from rfl,
      Nat.testBit_two_pow_mul]
    rfl

theorem linkUp_linkSide (h : LinkSide [linkReg p] s u) (hp : p < 80) (hq : q < 80) (hne : q ≠ p) : linkUp u q = linkUp s q := by
  unfold linkUp
  rw [portGroup_of_image h.image_eq]
  have hapart : linkReg q ∉ [linkReg p] := by
    rw [List.mem_singleton, linkReg_eq hp, linkReg_eq hq]
    omega
  by_cases h48 : q < 48
  · simp only [h48, if_true]
    rw [show linkReg q = Reg.hpLinkStat.addr [q] from if_pos h48] at hapart
    cases hg : portGroup s q with
    | none => exact h.1.2.rdBit_eq hapart
    | some g =>
      have hstat : Reg.izlGrpStat.addr [g] ∉ [linkReg p] := by
        rw [List.mem_singleton, linkReg_eq hp, grpStat_addr]
        omega
      simp only [h.1.2.rdBit_eq hstat, h.1.2.rd_eq hstat]
  · rw [show linkReg q = Reg.cpLinkStat.addr [q - 48] from if_neg h48] at hapart
    simp only [h48, hq, if_true, if_false, h.1.2.rdBit_eq hapart]

/-! ### Every front port -/

/-- LINK_STAT of every front port. -/
def linkRegs : List Nat := (List.range 80).map linkReg

theorem linkRegs_lt : ∀ a ∈ linkRegs, a < 0x601000 := fun a ha => by
  obtain ⟨p, hp, rfl⟩ := List.mem_map.1 ha
  exact linkReg_lt (List.mem_range.1 hp) _ (List.mem_singleton_self _)

theorem LinkSide.wider (h : LinkSide [linkReg p] s u) (hp : p < 80) : LinkSide linkRegs s u :=
  ⟨h.1.mono (fun _ hm => hm) fun a ha => by
    rw [List.mem_singleton.1 ha]
    exact List.mem_map.2 ⟨p, List.mem_range.2 hp, rfl⟩, h.2⟩

/-- A unit that has declared its failure acquires no link. -/
theorem linkLost_failed (h : (unlinked s p).twin.failSent = true) : linkLost s p = unlinked s p := by
  have hreleased : released (unlinked s p) p = false := by simp [released, h]
  rw [linkLost_unlinked, beginLink, hreleased, Bool.and_false]
  rfl

/-- One front port is held down. -/
def portHeld (s : State) (p : Nat) : State :=
  match portGroup s p with
  | some g => huntAll s g
  | none => linkLost s p

theorem frontDown_spec (hs : Halted s) (hfail : s.twin.failSent = true) (hgroup : ∀ p < 48, portGroup s p = none) (n : Nat)
    (hn : n ≤ 80) : LinkSide linkRegs s ((List.range n).foldl portHeld s) ∧
      ∀ q < n, linkUp ((List.range n).foldl portHeld s) q = false := by
  induction n with
  | zero => exact ⟨.refl _ s, fun q hq => absurd hq (Nat.not_lt_zero q)⟩
  | succ n ih =>
    obtain ⟨hside, hdown⟩ := ih (by omega)
    rw [List.range_succ, List.foldl_append, List.foldl_cons, List.foldl_nil]
    generalize (List.range n).foldl portHeld s = u at hside hdown ⊢
    have hnone : portGroup u n = none := by
      rw [portGroup_of_image hside.image_eq]
      by_cases h48 : n < 48
      · exact hgroup n h48
      · exact if_neg fun h => h48 h.1
    have hone : LinkSide [linkReg n] u (unlinked u n) := linkSide_unlinked (hside.halted linkRegs_lt hs) (by omega)
    have hfail' : (unlinked u n).twin.failSent = true := by
      have htwin : (unlinked u n).twin = s.twin := (hone.1.1 .twin (by decide)).trans (hside.1.1 .twin (by decide))
      rw [htwin, hfail]
    have hheld : portHeld u n = unlinked u n := by
      rw [portHeld, hnone]
      exact linkLost_failed hfail'
    rw [hheld]
    refine ⟨hside.trans (hone.wider (by omega)), fun q hq => ?_⟩
    by_cases hqn : q = n
    · rw [hqn]
      exact linkUp_unlinked (by omega) hone hnone
    · rw [linkUp_linkSide hone (by omega) (by omega) hqn]
      exact hdown q (by omega)

end

end Sys2Proof.Machine

/-! PROOFS. Switchover (R385, R389, R390, R394, R395): TWIN_CMD, and the boundary that it fixes. -/
namespace Sys2Proof.Machine

section
variable {s t u : State} {data : Word} {reason : Nat}

/-! ### TWIN_CMD -/

theorem twinCmd_immediate : Reg.twinCmd.Immediate [] :=
  immediate_of_plain (by decide) (by decide +kernel) (by decide)

/-- TWIN_CMD as written, before it acts. -/
def twinCommanded (s : State) (data : Word) : State := immediate s .host Reg.twinCmd [] data

/-- What each operation of TWIN_CMD does. -/
def twinActs (s : State) (op : Nat) : State :=
  match op with
  | 0 => switchover s
  | 1 => takeCommanded s
  | 2 => declareFail s
  | _ => resyncClass s (rd s Reg.twinCmd [] 3 0)

theorem within_twinCommanded (s : State) (data : Word) :
    Within [.staged, .inForce] [Reg.twinCmd.addr []] s (twinCommanded s data) := within_immediate s .host _ _ _

theorem rd_twinCommanded {hi lo : Nat} (h : hi = 29 ∧ lo = 28 ∨ hi = 3 ∧ lo = 0) :
    rd (twinCommanded s data) Reg.twinCmd [] hi lo = fld data hi lo := by
  rw [rd, twinCommanded, word_immediate_same]
  obtain ⟨rfl, rfl⟩ | ⟨rfl, rfl⟩ := h
  · exact fld_inForceBy (by decide) (by decide) (by decide)
  · exact fld_inForceBy (by decide) (by decide) (by decide)

theorem twinDoorbell_eq (h : Reaches s .host (Reg.twinCmd.addr [])) (hgo : flag data 31 = true) :
    twinDoorbell s data = twinActs (twinCommanded s data) (fld data 29 28) := by
  have hstage : stage s .host Reg.twinCmd [] 0xFFFFFFFF data = twinCommanded s data :=
    stage_classless twinCmd_immediate (by decide) (by rw [taken_of_plain (by decide)]; decide)
  unfold twinDoorbell
  rw [doorbell_of_reaches h]
  unfold twinCmdWrite
  rw [hstage]
  show (if (!flag data 31) = true then _ else twinActs _ (rd (twinCommanded s data) Reg.twinCmd [] 29 28)) = _
  rw [hgo, rd_twinCommanded (.inl ⟨rfl, rfl⟩)]
  rfl

theorem exec_switchover (h : Reaches s .host (Reg.twinCmd.addr [])) :
    exec .switchover s = done (switchover (twinCommanded s 0x80000000)) :=
  congrArg done (twinDoorbell_eq h (by decide))

theorem exec_twinCmdTakeover (h : Reaches s .host (Reg.twinCmd.addr [])) :
    exec .twinCmdTakeover s = done (takeCommanded (twinCommanded s 0x90000000)) :=
  congrArg done (twinDoorbell_eq h (by decide))

theorem exec_declareFail (h : Reaches s .host (Reg.twinCmd.addr [])) :
    exec .declareFail s = done (declareFail (twinCommanded s 0xA0000000)) :=
  congrArg done (twinDoorbell_eq h (by decide))

theorem exec_resync (h : Reaches s .host (Reg.twinCmd.addr [])) (k : Fin 11) :
    exec (.resync k) s = done (resyncClass (twinCommanded s (BitVec.ofNat 32 (0xB0000000 + k))) k) := by
  have hgo : ∀ k : Fin 11, flag (BitVec.ofNat 32 (0xB0000000 + k)) 31 = true := by decide
  have hop : ∀ k : Fin 11, fld (BitVec.ofNat 32 (0xB0000000 + k)) 29 28 = 3 := by decide
  have hcls : ∀ k : Fin 11, fld (BitVec.ofNat 32 (0xB0000000 + k)) 3 0 = k := by decide
  have hdo := twinDoorbell_eq h (hgo k)
  have hresync (v : State) : twinActs v 3 = resyncClass v (rd v Reg.twinCmd [] 3 0) := rfl
  rw [hop, hresync, rd_twinCommanded (.inr ⟨rfl, rfl⟩), hcls] at hdo
  exact congrArg done hdo

theorem twin_twinCommanded : (twinCommanded s data).twin = s.twin := (within_twinCommanded s data).1 .twin (by decide)

theorem stat_twinCommanded (hi lo : Nat) : rd (twinCommanded s data) Reg.twinStat [] hi lo = rd s Reg.twinStat [] hi lo :=
  (within_twinCommanded s data).2.rd_eq (by decide)

theorem role_twinCommanded : role (twinCommanded s data) = role s := stat_twinCommanded 31 29

theorem paired_twinCommanded : paired (twinCommanded s data) = paired s := (within_twinCommanded s data).2.rdBit_eq (by decide)

/-! ### The RESULT of a command -/

/-- The command is answered with RESULT `r`. -/
def twinAnswered (s : State) (r : Nat) : State := wr s Reg.twinCmd [] 27 25 r

theorem within_twinAnswered (s : State) (data : Word) (r : Nat) :
    Within [.staged, .inForce] [Reg.twinCmd.addr []] s (twinAnswered (twinCommanded s data) r) :=
  ((within_twinCommanded s data).append (within_wr _ _ _ 27 25 r)).mono (by decide) (by simp)

theorem result_twinAnswered {r : Nat} (h : r < 8) : rd (twinAnswered s r) Reg.twinCmd [] 27 25 = r := by
  rw [twinAnswered, rd, word_wr_same, fld_setFld_same (by decide) (by decide)]
  exact Nat.mod_eq_of_lt h

/-- A command that is refused shows its RESULT and does nothing else. -/
theorem does_refused {c : Instr} {r : Nat} (hexec : exec c s = done (twinAnswered (twinCommanded s data) r)) (h : r < 8) :
    Does c s [.staged, .inForce] fun t => rd t Reg.twinCmd [] 27 25 = r ∧ RegsBut [Reg.twinCmd.addr []] s t :=
  does_of_all hexec (within_twinAnswered s data r).1 ⟨result_twinAnswered h, (within_twinAnswered s data r).2⟩ fun _ _ h => h

/-! ### SWITCHOVER -/

theorem switchover_unready (h : role s = 0 ∨ role s = 1 ∧ paired s = false) : switchover s = twinAnswered s 1 :=
  if_pos (h.imp_right fun ⟨hr, hp⟩ => ⟨hr, by simp [hp]⟩)

theorem switchover_unsynced (h0 : role s ≠ 0) (h1 : role s = 1 → paired s = true)
    (h : role s = 3 ∨ (role s = 1 ∧ s.twin.peerRole ≠ 2) ∨ paired s = false ∨ rd s Reg.twinStat [] 10 0 ≠ 0) :
    switchover s = twinAnswered s 2 := by
  have hfirst : ¬ (role s = 0 ∨ role s = 1 ∧ !paired s) := by
    rintro (h | ⟨hr, hp⟩)
    · exact h0 h
    · simp [h1 hr] at hp
  have hsecond : role s = 3 ∨ (role s = 1 ∧ s.twin.peerRole ≠ 2) ∨ !paired s ∨ rd s Reg.twinStat [] 10 0 ≠ 0 := by
    simpa using h
  unfold switchover
  rw [if_neg hfirst, if_pos hsecond]
  rfl

/-- A pair that is synced: its boundary is fixed, unless one stands. -/
theorem switchover_synced (hpaired : paired s = true) (hrole : role s = 2 ∨ role s = 1 ∧ s.twin.peerRole = 2)
    (hstale : rd s Reg.twinStat [] 10 0 = 0) :
    switchover s = if s.twin.boundary.isSome then twinAnswered s 3 else twinAnswered (fixBoundary s false) 0 := by
  have hfirst : ¬ (role s = 0 ∨ role s = 1 ∧ !paired s) := by
    rw [hpaired]
    obtain h | ⟨h, -⟩ := hrole <;> simp [h]
  have hsecond : ¬ (role s = 3 ∨ (role s = 1 ∧ s.twin.peerRole ≠ 2) ∨ !paired s ∨ rd s Reg.twinStat [] 10 0 ≠ 0) := by
    rw [hpaired, hstale]
    obtain h | ⟨h, hpeer⟩ := hrole
    · simp [h]
    · simp [h, hpeer]
  unfold switchover
  rw [if_neg hfirst, if_neg hsecond]
  rfl

/-- The boundary that is fixed now. -/
def boundaryNow (s : State) : Nat := (cycleCount s + rd s Reg.twinCfg [] 22 17) % 2 ^ 31

/-- The boundary is kept. -/
def boundaryKept (s : State) (reverting : Bool) : State :=
  { s with twin := { s.twin with boundary := some (boundaryNow s), reverting := reverting } }

/-- The boundary is kept, and the peer is told of it. -/
def boundaryFixed (s : State) (reverting : Bool) : State :=
  emit (boundaryKept s reverting) (.twinBoundary (boundaryNow s) reverting)

theorem fixBoundary_eq (h : offline s = false) (reverting : Bool) : fixBoundary s reverting = boundaryFixed s reverting := by
  have hfix : fixBoundary s reverting = emitLine (boundaryKept s reverting) (.twinBoundary (boundaryNow s) reverting) := rfl
  have hoff : offline (boundaryKept s reverting) = false := h
  rw [hfix, emitLine, hoff]
  rfl

theorem within_boundaryFixed (s : State) (reverting : Bool) : Within [.twin, .out] [] s (boundaryFixed s reverting) :=
  (within_of_twin s _).append (within_emit _ _)

/-! ### Whole copies, and MIRROR records -/

/-- `u` is as `s` but in what the unit sends and in what waits for the pair. -/
structure PairSide (s u : State) : Prop where
  within : Within [.twin, .inForce, .counters, .out] [Reg.twinStat.addr []] s u
  stat : ∀ i, 11 ≤ i → rdBit u Reg.twinStat [] i = rdBit s Reg.twinStat [] i
  boundary : u.twin.boundary = s.twin.boundary

theorem PairSide.refl (s : State) : PairSide s s := ⟨.refl _ _ s, fun _ _ => rfl, rfl⟩

theorem PairSide.trans (h : PairSide s t) (h' : PairSide t u) : PairSide s u :=
  ⟨h.within.trans h'.within, fun i hi => (h'.stat i hi).trans (h.stat i hi), h'.boundary.trans h.boundary⟩

theorem PairSide.ite {c : Prop} [Decidable c] (h : PairSide s t) (h' : PairSide s u) : PairSide s (if c then t else u) := by
  split
  · exact h
  · exact h'

theorem PairSide.foldl {α : Type} {f : State → α → State} (h : ∀ t x, PairSide t (f t x)) (xs : List α) (s : State) :
    PairSide s (xs.foldl f s) :=
  List.foldlRecOn (motive := PairSide s) xs f (.refl s) fun t ht x _ => ht.trans (h t x)

/-- An update of outputs and counters alone. -/
theorem Within.pairSide {ps : List Part} (h : Within ps [] s u) (hp : ∀ p ∈ ps, p ∈ [Part.counters, .out]) : PairSide s u := by
  refine ⟨h.mono (fun p hm => ?_) (by simp), fun i _ => h.2.rdBit_eq (by simp), ?_⟩
  · have := hp p hm
    simp only [List.mem_cons, List.not_mem_nil, or_false] at this ⊢
    tauto
  · rw [show u.twin = s.twin from h.1 .twin fun hm => absurd (hp _ hm) (by decide)]

theorem pairSide_emitLine (s : State) (o : Output) : PairSide s (emitLine s o) :=
  .ite (.refl s) ((within_emit s o).pairSide (by decide))

theorem pairSide_twin {x : Twin} (h : x.boundary = s.twin.boundary) : PairSide s { s with twin := x } :=
  ⟨(within_of_twin s x).mono (by decide) (by simp), fun _ _ => rfl, h⟩

theorem pairSide_stale {k : Nat} (hk : k < 11) (b : Bool) : PairSide s (wrBit s Reg.twinStat [] k b) :=
  ⟨(within_wrBit s _ _ k b).mono (by decide) (by simp), fun i hi => rdBit_wrBit_other (by omega) (by omega), rfl⟩

theorem pairSide_mirror (s : State) (k : Fin 11) (a : Nat) (ws : List Word) : PairSide s (mirror s k a ws) := by
  unfold mirror
  refine PairSide.ite ?_ (.refl s)
  extract_lets n
  refine PairSide.ite ?_ ?_
  · have hx : PairSide s { s with twin := { s.twin with staged := set 0 s.twin.staged k (get 0 s.twin.staged k + n) } } :=
      pairSide_twin rfl
    exact (hx.trans ((within_bump _ Ctr.twin [] 2 1).pairSide (by decide))).trans (pairSide_emitLine _ _)
  · have hx : PairSide s { s with twin := { s.twin with
        staged := set 0 s.twin.staged k 0, copied := s.twin.copied.filter (· != k.val) } } := pairSide_twin rfl
    exact (hx.trans (pairSide_stale k.isLt true)).trans ((within_bump _ Ctr.twin [] 3 1).pairSide (by decide))

theorem pairSide_mirrorPart (s : State) (force : Bool) (d : AccDesc) : PairSide s (mirrorPart s force d) := by
  have hcopy {n : Nat} (base size : Nat) (s : State) (l : Sparse (BitVec n)) : PairSide s (l.foldl (fun s e =>
      mirror s 8 ((if force then 0x1000000 else 0) + base + e.1 * size) (wordsOf (size / 4) e.2)) s) :=
    .foldl (fun t e => pairSide_mirror t 8 _ _) l s
  exact (((hcopy _ _ s d.jobs).trans (hcopy _ _ _ d.subs)).trans (hcopy _ _ _ d.inputs)).trans
    (((hcopy _ _ _ d.outs).trans (hcopy _ _ _ d.routes)).trans (hcopy _ _ _ d.taps))

theorem pairSide_carryJob (s : State) (j : Nat) : PairSide s (carryJob s j) := by
  unfold carryJob
  extract_lets s1
  have h1 : PairSide s s1 := pairSide_mirror s 8 _ _
  split
  · exact h1
  · next c _ => exact h1.trans (.ite (.refl s1) ((pairSide_mirrorPart s1 true c.desc).trans (pairSide_mirror _ 8 _ _)))

theorem pairSide_sendClasses (s : State) (ok : Nat → Bool) : PairSide s (sendClasses s ok) :=
  .foldl (fun t k => by
    split
    · exact pairSide_emitLine t _
    · exact .refl t) _ s

theorem pairSide_startSync (s : State) : PairSide s (startSync s) :=
  ((pairSide_sendClasses s _).trans (.foldl pairSide_carryJob _ _)).trans (pairSide_sendClasses _ _)

theorem PairSide.rd_stat (h : PairSide s u) {hi lo : Nat} (hl : 11 ≤ lo) : rd u Reg.twinStat [] hi lo = rd s Reg.twinStat [] hi lo :=
  fld_ext fun i hi _ => h.stat i (by omega)

/-- Whole copies leave, and nothing else changes. -/
theorem sendClasses_spec (ks : List Nat) : ∀ s : State, offline s = false → ∃ o,
    ks.foldl (fun s k => if h : k < 11 then sendClass s ⟨k, h⟩ else s) s = { s with out := o } ∧
      (∀ x ∈ s.out, x ∈ o) ∧ ∀ k : Fin 11, k.val ∈ ks → Output.twinState (.copy k (classCells s k) true) ∈ o := by
  induction ks with
  | nil => exact fun s _ => ⟨s.out, rfl, fun _ h => h, fun _ h => absurd h List.not_mem_nil⟩
  | cons c cs ih =>
    intro s hoff
    rw [List.foldl_cons]
    split
    · next hc =>
      have hsend : sendClass s ⟨c, hc⟩ = emit s (.twinState (.copy ⟨c, hc⟩ (classCells s c) true)) :=
        if_neg (by rw [hoff]; decide)
      obtain ⟨o, hfold, hkeep, hall⟩ := ih (emit s (.twinState (.copy ⟨c, hc⟩ (classCells s c) true))) hoff
      rw [hsend]
      refine ⟨o, hfold, fun x hx => hkeep x (List.mem_cons_of_mem _ hx), fun k hk => ?_⟩
      obtain hk | hk := List.mem_cons.1 hk
      · subst hk
        exact hkeep _ List.mem_cons_self
      · exact hall k hk
    · next hc =>
      obtain ⟨o, hfold, hkeep, hall⟩ := ih s hoff
      refine ⟨o, hfold, hkeep, fun k hk => ?_⟩
      obtain hk | hk := List.mem_cons.1 hk
      · exact absurd (hk ▸ k.isLt) hc
      · exact hall k hk

end

end Sys2Proof.Machine

/-! PROOFS. TWIN_CMD's TAKEOVER, DECLARE_FAIL and RESYNC, the boundary and the revert (R389, R390, R394 to R396). -/
namespace Sys2Proof.Machine

section
variable {s t u : State} {data : Word} {reason : Nat}

/-! ### TAKEOVER -/

theorem sendHeartbeat_none (hlanes : ∀ k < 4, rdBit s Reg.twinStat [] (20 + k) = false) (halt : rdBit s Reg.twinCfg [] 30 = false)
    (fail : Bool) : sendHeartbeat s fail = s := by
  have hnone : (List.range 4).filter (fun k => rdBit s Reg.twinStat [] (20 + k)) = [] :=
    List.filter_eq_nil_iff.2 fun k hk => by rw [hlanes k (List.mem_range.1 hk)]; decide
  unfold sendHeartbeat
  rw [hnone]
  show (if (rdBit s Reg.twinCfg [] 30 && _) = true then _ else s) = s
  rw [halt]
  rfl

/-- TAKE stands in the heartbeats that follow. -/
def takeStands (s : State) : State := { s with twin := { s.twin with take := true } }

/-- The unit has taken over on command, and no heartbeat leaves. -/
def ledOnCommand (s : State) : State := twinAnswered (takeStands (ledAlone s 3 true)) 0

theorem within_ledOnCommand (s : State) :
    Within [.counters, .twin, .inForce, .clock] (roleRegs ++ [Reg.twinCmd.addr []]) s (ledOnCommand s) :=
  (((within_ledAlone s 3 true).append (within_of_twin _ _)).append (within_wr _ _ _ 27 25 0)).mono (by decide) fun _ h => by
    simpa using h

theorem word_ledOnCommand {r : RegRow} (h : r.addr [] ≠ Reg.twinCmd.addr []) :
    word (ledOnCommand s) r [] = word (ledAlone s 3 true) r [] := by
  have htwin (u : State) : word (takeStands u) r [] = word u r [] := rfl
  rw [ledOnCommand, twinAnswered, word_wr_other h, htwin]

theorem takeCommanded_dark (hrole : role s = 2 ∨ role s = 3) (hrepl : replState s ≠ 3) (hdark : Dark s) (hpaired : paired s = false)
    (hlanes : rd s Reg.twinStat [] 23 20 = 0) (halt : rdBit s Reg.twinCfg [] 30 = false) :
    takeCommanded s = ledOnCommand s := by
  have hquiet : ∀ k < 4, rdBit (ledOnCommand s) Reg.twinStat [] (20 + k) = false := fun k hk => by
    have hcount : rdBit (takeoverCounted s true) Reg.twinStat [] (20 + k) = rdBit s Reg.twinStat [] (20 + k) :=
      (within_takeoverCounted s true).2.rdBit_eq (by simp)
    rw [rdBit, word_ledOnCommand (by decide), ← rdBit, ledAlone, rdBit_wrBit_other (by decide) (by omega),
      statBit_setRole (.inl (by omega)), hcount]
    exact flag_of_fld_zero hlanes (by omega) (by omega)
  have hcfg : rdBit (ledOnCommand s) Reg.twinCfg [] 30 = false :=
    ((within_ledOnCommand s).2.rdBit_eq (by decide)).trans halt
  have hled : takeover s 3 true = ledAlone s 3 true := takeover_dark hrepl hdark (by rw [hpaired]; rfl)
  unfold takeCommanded
  rw [if_pos hrole, hled]
  exact sendHeartbeat_none hquiet hcfg false

/-! ### DECLARE_FAIL -/

/-- FAIL is sent, which holds every front link down. -/
def failMarked (s : State) : State := { s with twin := { s.twin with failSent := true } }

/-- The unit has declared its failure, and its front links are to go down. -/
def failDeclared (s : State) : State := failMarked (twinAnswered s 0)

theorem within_failDeclared (s : State) (data : Word) : Within [.staged, .inForce, .twin] [Reg.twinCmd.addr []] s
    (failDeclared (twinCommanded s data)) :=
  ((within_twinAnswered s data 0).append (within_of_twin _ _)).mono (by decide) (by simp)

theorem declareFail_unpaired (hrole : role s = 1) (hpaired : paired s = false) :
    declareFail s = (List.range 80).foldl portHeld (failDeclared s) := by
  have hpaired' : paired (wr s Reg.twinCmd [] 27 25 0) = false :=
    ((within_wr s Reg.twinCmd [] 27 25 0).2.rdBit_eq (by decide)).trans hpaired
  have hfail (v : State) : failActive v = (List.range 80).foldl portHeld (failMarked (if paired v then sendHeartbeat v true else v)) :=
    rfl
  unfold declareFail
  rw [if_pos hrole, hfail, hpaired']
  rfl

theorem pipePortCfg_apart {k p : Nat} : Reg.pipePortCfg.addr [k, p] ≠ Reg.twinCmd.addr [] := by
  have hcmd : Reg.twinCmd.addr [] = 0xf00030 := rfl
  have hcfg : Reg.pipePortCfg.addr [k, p] = 0x601000 + (k * 0x100000 + p * 0x40) := by
    simp [RegRow.addr, Reg.pipePortCfg, offsetOf]
  omega

theorem halted_failDeclared (hreach : Reaches s .host (Reg.twinCmd.addr [])) (hcalm : ∀ p, Calm s p)
    (hflush : ∀ p < 80, rdBit s Reg.pipePortCfg [pipeOf s p, p] 31 = false) : Halted (failDeclared (twinCommanded s data)) := by
  obtain ⟨-, -, -, -, hquiet⟩ := hreach
  have h := within_failDeclared s data
  have hsched : (failDeclared (twinCommanded s data)).sched = s.sched := h.1 .sched (by decide)
  have hports : (failDeclared (twinCommanded s data)).ports = s.ports := h.1 .ports (by decide)
  have himage : (failDeclared (twinCommanded s data)).image = s.image := h.1 .image (by decide)
  obtain ⟨hsending, hqueues, -, -⟩ := hcalm 0
  refine ⟨by rw [hsched]; exact hsending, by rw [hsched]; exact hqueues, fun q => ?_,
    quiet_of_regsBut h.2 (by decide) (by decide) hquiet, fun q hq => ?_⟩
  · obtain ⟨-, -, hreceiving, hlpi⟩ := hcalm q
    rw [port, hports]
    exact ⟨hreceiving, hlpi⟩
  · rw [pipeOf_of_image himage, h.2.rdBit_eq (by simpa using pipePortCfg_apart)]
    exact hflush q hq

theorem twin_failDeclared : (failDeclared s).twin = { s.twin with failSent := true } := by
  have hmark (u : State) : (failMarked u).twin = { u.twin with failSent := true } := rfl
  rw [failDeclared, hmark, twinAnswered, wr_twin]

theorem result_failDeclared : rd (failDeclared s) Reg.twinCmd [] 27 25 = 0 := by
  have hmark (u : State) : rd (failMarked u) Reg.twinCmd [] 27 25 = rd u Reg.twinCmd [] 27 25 := rfl
  rw [failDeclared, hmark, result_twinAnswered (by decide)]

/-! ### RESYNC -/

/-- What was staged for class `k` is gone. -/
def classUnstaged (s : State) (k : Nat) : State :=
  { s with twin := { s.twin with staged := set 0 s.twin.staged k 0, copied := s.twin.copied.filter (· != k) } }

/-- Class `k` becomes STALE, and what was staged for it is gone. -/
def resynced (s : State) (k : Nat) : State := wrBit (classUnstaged (twinAnswered s 0) k) Reg.twinStat [] k true

theorem resyncClass_carried {k : Nat} (hrole : role s = 1) (hk : k < 11) (hcarried : carriedClass s k = true) :
    resyncClass s k = resynced s k := by
  have hcarried' : carriedClass (wr s Reg.twinCmd [] 27 25 0) k = true := by
    rw [carriedClass, classMode, (within_wr s Reg.twinCmd [] 27 25 0).2.rd_eq (by decide)]
    exact hcarried
  have hacts : resyncClass s k = if role s ≠ 1 then twinAnswered s 1
      else if k < 11 ∧ carriedClass (wr s Reg.twinCmd [] 27 25 0) k then resynced s k else twinAnswered s 0 := rfl
  rw [hacts, if_neg (not_not_intro hrole), if_pos ⟨hk, hcarried'⟩]

theorem within_resynced (s : State) (data : Word) (k : Nat) : Within [.staged, .inForce, .twin]
    [Reg.twinCmd.addr [], Reg.twinStat.addr []] s (resynced (twinCommanded s data) k) :=
  (((within_twinAnswered s data 0).append (within_of_twin _ _)).append (within_wrBit _ _ _ k true)).mono (by decide) (by simp)

theorem twin_resynced {k : Nat} : (resynced s k).twin =
    { s.twin with staged := set 0 s.twin.staged k 0, copied := s.twin.copied.filter (· != k) } := by
  have hgone (u : State) : (classUnstaged u k).twin =
    { u.twin with staged := set 0 u.twin.staged k 0, copied := u.twin.copied.filter (· != k) } := rfl
  rw [resynced, wrBit_twin, hgone, twinAnswered, wr_twin]

theorem result_resynced {k : Nat} : rd (resynced s k) Reg.twinCmd [] 27 25 = 0 := by
  have hgone (u : State) : word (classUnstaged u k) Reg.twinCmd [] = word u Reg.twinCmd [] := rfl
  rw [resynced, rd, word_wrBit_other (by decide), hgone, ← rd, result_twinAnswered (by decide)]

theorem stale_resynced_same {k : Nat} (hk : k < 11) : stale (resynced s k) k = true := by
  rw [stale, rdBit, resynced, word_wrBit_same, flag_setFld_same (by omega)]

theorem stale_resynced_other {j k : Nat} (hk : k < 11) (h : j ≠ k) : stale (resynced s k) j = stale s j := by
  have hgone (u : State) : rdBit (classUnstaged u k) Reg.twinStat [] j = rdBit u Reg.twinStat [] j := rfl
  rw [stale, resynced, rdBit_wrBit_other (by omega) h, hgone, twinAnswered, (within_wr s Reg.twinCmd [] 27 25 0).2.rdBit_eq (by decide)]
  rfl

/-! ### The boundary -/

/-- The reason of Table 13-1 for a change of role at the boundary. -/
def boundaryReason (s : State) : Nat := if s.twin.reverting || s.twin.peerRole == 3 then 4 else 3

/-- The boundary has passed. -/
def boundaryPassed (s : State) : State := { s with twin := { s.twin with boundary := none, reverting := false } }

theorem exec_switchoverBoundary (hpaired : paired s = true) (hdue : s.twin.boundary.any (· != cycleCount s) = false) :
    exec .switchoverBoundary s = if role s = 1 then done (boundaryPassed (park s (boundaryReason s)))
      else if role s = 2 ∨ (role s = 3 ∧ substate s = 3) then done (startSync (boundaryPassed (setRole s 1 0 (boundaryReason s))))
      else done s := by
  show execSwitchoverBoundary s = _
  unfold execSwitchoverBoundary
  rw [hpaired, hdue]
  rfl

/-- The reason and role that TWIN_ROLE_LAST shows. -/
theorem boundaryReason_last (v : Nat) : BitVec.ofNat 32 (boundaryReason s * 2 ^ 16 + v) =
    if s.twin.reverting ∨ s.twin.peerRole = 3 then BitVec.ofNat 32 (4 * 2 ^ 16 + v) else BitVec.ofNat 32 (3 * 2 ^ 16 + v) := by
  unfold boundaryReason
  by_cases h : s.twin.reverting = true ∨ s.twin.peerRole = 3
  · rw [if_pos h, if_pos (by simpa using h)]
  · rw [if_neg h, if_neg (by simpa using h)]

theorem word_boundaryPassed (r : RegRow) : word (boundaryPassed s) r [] = word s r [] := rfl

theorem within_boundaryPassed (s : State) : Within [.twin] [] s (boundaryPassed s) := within_of_twin s _

/-! ### WTR and the revert -/

theorem exec_wtrExpiry_final (hstale : rd s Reg.twinStat [] 10 0 = 0) (hrole : role s = 3) (hsub : substate s = 2)
    (hwtr : wtrLeft s = 0) : exec .wtrExpiry s = done (setRole s 3 3 4) := by
  show execWtrExpiry s = _
  unfold execWtrExpiry
  rw [if_neg (not_not_intro hstale), if_pos ⟨hrole, hsub, hwtr⟩]

theorem exec_wtrExpiry_copies (hstale : rd s Reg.twinStat [] 10 0 = 0) (hactive : activePaired s = true)
    (hpeer : s.twin.peerRole = 3) : exec .wtrExpiry s = done (sendClasses s fun _ => true) := by
  have hrole : role s ≠ 3 := fun h => by
    rw [activePaired, h] at hactive
    exact absurd hactive (by simp)
  show execWtrExpiry s = _
  unfold execWtrExpiry
  rw [if_neg (not_not_intro hstale), if_neg (fun h => hrole h.1), if_pos ⟨hactive, hpeer⟩]

theorem exec_revertReady (hrole : role s = 3) (hsub : substate s = 3) (hdone : s.twin.finalDone = true)
    (hnone : s.twin.boundary = none) (hlocked : ∀ k < 4, followsTwin s k = true → tbState s k = 2) :
    exec .revertReady s = done (fixBoundary s true) := by
  have hall : (List.range 4).all (fun t => !followsTwin s t || tbState s t == 2) = true :=
    List.all_eq_true.2 fun k hk => by
      cases h : followsTwin s k with
      | false => rfl
      | true => simp [hlocked k (List.mem_range.1 hk) h]
  show execRevertReady s = _
  unfold execRevertReady
  extract_lets locked
  exact if_pos ⟨hrole, hsub, hdone, hnone, hall⟩

end

/-- Settles O42: each command's answer, and each role at the boundary, is one state of its own with the words it writes. -/
theorem switchoverFollowsCommand : Obligations.SwitchoverFollowsCommand := by
  refine ⟨?_, ?_, ?_, ?_, ?_, ?_, ?_, ?_, ?_, ?_, ?_, ?_, ?_, ?_, ?_⟩
  · intro s hreach hpaired hrole hstale hnone hoff
    have hoff' : offline (twinCommanded s 0x80000000) = false := by
      rw [offline, rerunState, (within_twinCommanded s _).2.rd_eq (by decide)]
      exact hoff
    have hnow : boundaryNow (twinCommanded s 0x80000000) = boundaryNow s := by
      rw [boundaryNow, cycleCount, (within_twinCommanded s _).2.rd_eq (by decide), (within_twinCommanded s _).2.rd_eq (by decide)]
      rfl
    have hexec : exec .switchover s = done (twinAnswered (boundaryFixed (twinCommanded s 0x80000000) false) 0) := by
      rw [exec_switchover hreach, switchover_synced (paired_twinCommanded.trans hpaired)
        (by rw [role_twinCommanded, twin_twinCommanded]; exact hrole) ((stat_twinCommanded 10 0).trans hstale),
        twin_twinCommanded, hnone, fixBoundary_eq hoff']
      rfl
    have hframe := ((within_twinCommanded s 0x80000000).append (within_boundaryFixed _ false)).append (within_wr _ Reg.twinCmd [] 27 25 0)
    have hbut := hframe.mono (qs := [.staged, .inForce, .twin, .out]) (m := [Reg.twinCmd.addr []]) (by decide) (by simp)
    refine does_of_all hexec hbut.1 ⟨result_twinAnswered (by decide), ?_, hbut.2, ?_⟩ fun _ _ h => h
    · have hout (u : State) : (boundaryFixed u false).out = .twinBoundary (boundaryNow u) false :: u.out := rfl
      have hsame : (twinCommanded s 0x80000000).out = s.out := (within_twinCommanded s _).1 .out (by decide)
      rw [twinAnswered, wr_out, hout, hnow, hsame]
      rfl
    · have htwin (u : State) : (boundaryFixed u false).twin = { u.twin with boundary := some (boundaryNow u), reverting := false } := rfl
      rw [twinAnswered, wr_twin, htwin, hnow, twin_twinCommanded]
      rfl
  · intro s hreach hrole
    exact does_refused (by
      rw [exec_switchover hreach, switchover_unready (by rw [role_twinCommanded, paired_twinCommanded]; exact hrole)]) (by decide)
  · intro s hreach h
    refine does_refused (data := 0x80000000) (r := 2) ?_ (by decide)
    have h0 : role s ≠ 0 := by rcases h with h | ⟨h, -⟩ | ⟨h | h, -⟩ | ⟨h, -⟩ <;> simp [h]
    have h1 : role s = 1 → paired s = true := by
      intro hr
      rcases h with h | ⟨h, -⟩ | ⟨-, h, -⟩ | ⟨-, h, -⟩
      · simp [h] at hr
      · simp [h] at hr
      · exact h
      · exact h
    have hcase : role s = 3 ∨ (role s = 1 ∧ s.twin.peerRole ≠ 2) ∨ paired s = false ∨ rd s Reg.twinStat [] 10 0 ≠ 0 := by
      rcases h with h | ⟨-, h⟩ | ⟨-, -, h⟩ | ⟨h, -, hpeer⟩
      · exact .inl h
      · exact .inr (.inr (.inl h))
      · exact .inr (.inr (.inr h))
      · exact .inr (.inl ⟨h, hpeer⟩)
    rw [exec_switchover hreach]
    exact congrArg done (switchover_unsynced (by rw [role_twinCommanded]; exact h0)
      (by rw [role_twinCommanded, paired_twinCommanded]; exact h1)
      (by rw [role_twinCommanded, paired_twinCommanded, twin_twinCommanded, stat_twinCommanded]; exact hcase))
  · intro s hreach hpaired hrole hstale hsome
    refine does_refused (data := 0x80000000) (r := 3) ?_ (by decide)
    rw [exec_switchover hreach, switchover_synced (paired_twinCommanded.trans hpaired)
      (by rw [role_twinCommanded, twin_twinCommanded]; exact hrole) ((stat_twinCommanded 10 0).trans hstale),
      twin_twinCommanded, if_pos (Option.isSome_iff_ne_none.2 hsome)]
  · intro s hreach hrole hrepl hdark hpaired hlanes halt
    have hwithin := within_twinCommanded s 0x90000000
    have hrepl' : replState (twinCommanded s 0x90000000) ≠ 3 := by rw [replState, hwithin.2.rd_eq (by decide)]; exact hrepl
    have hdark' : Dark (twinCommanded s 0x90000000) := fun p hp => by
      rw [linkUp_front hp (hwithin.1 .image (by decide)) hwithin.2 (by decide)]
      exact hdark p hp
    have hexec : exec .twinCmdTakeover s = done (ledOnCommand (twinCommanded s 0x90000000)) := by
      rw [exec_twinCmdTakeover hreach, takeCommanded_dark (by rw [role_twinCommanded]; exact hrole) hrepl' hdark'
        (paired_twinCommanded.trans hpaired) ((stat_twinCommanded 23 20).trans hlanes) ((hwithin.2.rdBit_eq (by decide)).trans halt)]
    have hstat : word (ledOnCommand (twinCommanded s 0x90000000)) Reg.twinStat [] =
        word (ledAlone (twinCommanded s 0x90000000) 3 true) Reg.twinStat [] := word_ledOnCommand (by decide)
    have htwin (u : State) : (takeStands u).twin = { u.twin with take := true } := rfl
    have hframe := hwithin.append (within_ledOnCommand (twinCommanded s 0x90000000))
    refine does_of_all hexec (hframe.1.mono (by decide)) ⟨?_, ?_, result_twinAnswered (by decide), ?_, ?_, ?_, ?_⟩ fun _ _ h => h
    · rw [role, rd, hstat]; exact role_ledAlone
    · rw [substate, rd, hstat]; exact substate_ledAlone
    · rw [ledOnCommand, twinAnswered, wr_twin, htwin]
    · rw [ledOnCommand, twinAnswered, wr_twin, htwin, twin_ledAlone]; rfl
    · rw [word_ledOnCommand (by decide), roleLast_ledAlone (by rw [role_twinCommanded]; omega)]; rfl
    · have hcounters : (ledOnCommand (twinCommanded s 0x90000000)).regs.counters =
          (ledAlone (twinCommanded s 0x90000000) 3 true).regs.counters :=
        (((within_of_twin _ _).append (within_wr (takeStands (ledAlone (twinCommanded s 0x90000000) 3 true)) Reg.twinCmd [] 27 25 0)).1
          .counters (by decide))
      have hsame := ctr_of_onlyChanges hwithin.1 (by decide) Ctr.twin [] 5
      rw [ctr, hcounters, counters_ledAlone, ← ctr, ctr_bump_same, hsame]
      rfl
  · intro s hreach hrole
    refine does_refused (data := 0x90000000) (r := 1) ?_ (by decide)
    rw [exec_twinCmdTakeover hreach]
    exact congrArg done (if_neg (by rw [role_twinCommanded]; omega))
  · intro s hreach hrole hpaired hgroup hcalm hflush
    have hwithin := within_failDeclared s 0xA0000000
    have hexec : exec .declareFail s = done ((List.range 80).foldl portHeld (failDeclared (twinCommanded s 0xA0000000))) := by
      rw [exec_declareFail hreach, declareFail_unpaired (role_twinCommanded.trans hrole) (paired_twinCommanded.trans hpaired)]
    obtain ⟨hside, hdown⟩ := frontDown_spec (halted_failDeclared (data := 0xA0000000) hreach hcalm hflush)
      (by rw [twin_failDeclared]) (fun p hp => (portGroup_of_image (hwithin.1 .image (by decide)) p).trans (hgroup p hp)) 80 le_rfl
    generalize (List.range 80).foldl portHeld (failDeclared (twinCommanded s 0xA0000000)) = u at hexec hside hdown
    refine ⟨settle u, hexec, ?_, ?_, hdown⟩
    · have hcmd : Reg.twinCmd.addr [] ∉ linkRegs := fun h => absurd (linkRegs_lt _ h) (by decide)
      rw [rd_settle, hside.1.2.rd_eq hcmd, result_failDeclared]
    · have htwin : u.twin = (failDeclared (twinCommanded s 0xA0000000)).twin := hside.1.1 .twin (by decide)
      show u.twin = _
      rw [htwin, twin_failDeclared, twin_twinCommanded]
  · intro s hreach hrole
    refine does_refused (data := 0xA0000000) (r := 1) ?_ (by decide)
    rw [exec_declareFail hreach]
    exact congrArg done (if_neg (by rw [role_twinCommanded]; exact hrole))
  · intro s k hreach hrole hcarried
    have hwithin := within_twinCommanded s (BitVec.ofNat 32 (0xB0000000 + k))
    have hcarried' : carriedClass (twinCommanded s (BitVec.ofNat 32 (0xB0000000 + k))) k = true := by
      rw [carriedClass, classMode, hwithin.2.rd_eq (by decide)]
      exact hcarried
    have hexec : exec (.resync k) s = done (resynced (twinCommanded s (BitVec.ofNat 32 (0xB0000000 + k))) k) := by
      rw [exec_resync hreach, resyncClass_carried (role_twinCommanded.trans hrole) k.isLt hcarried']
    refine does_of_all hexec (within_resynced s _ k).1 ⟨result_resynced, stale_resynced_same k.isLt, fun j _ hj => ?_, ?_⟩
      fun _ _ h => h
    · rw [stale_resynced_other k.isLt hj]
      exact hwithin.2.rdBit_eq (by decide)
    · rw [twin_resynced, twin_twinCommanded]
  · intro s k hreach hrole
    refine does_refused (data := BitVec.ofNat 32 (0xB0000000 + k)) (r := 1) ?_ (by decide)
    rw [exec_resync hreach]
    exact congrArg done (if_pos (by rw [role_twinCommanded]; exact hrole))
  · intro s hpaired hrole hqueues hdue
    have hexec : exec .switchoverBoundary s = done (boundaryPassed (beginRestoring s (boundaryReason s))) := by
      rw [exec_switchoverBoundary hpaired hdue, if_pos hrole, park_eq hqueues]
    have hother : role s ≠ 3 := by rw [hrole]; decide
    have hframe := (within_beginRestoring s (boundaryReason s)).1.append (within_boundaryPassed _).1
    have hstat (r : RegRow) := word_boundaryPassed (s := beginRestoring s (boundaryReason s)) r
    refine does_of_all hexec (hframe.mono (by decide)) ⟨?_, ?_, rfl, ?_, ?_⟩ fun _ _ h => h
    · rw [role, rd, hstat]; exact role_beginRestoring
    · rw [substate, rd, hstat]; exact substate_beginRestoring
    · rw [hstat, word_beginRestoring, roleCnt_setRole, if_neg hother]
    · rw [hstat, word_beginRestoring, roleLast_setRole hother]
      exact boundaryReason_last 3
  · intro s hpaired hrole hdue
    have hother : role s ≠ 1 := by omega
    have hexec : exec .switchoverBoundary s = done (startSync (boundaryPassed (setRole s 1 0 (boundaryReason s)))) := by
      rw [exec_switchoverBoundary hpaired hdue, if_neg hother, if_pos hrole]
    have hside := pairSide_startSync (boundaryPassed (setRole s 1 0 (boundaryReason s)))
    have hframe := ((within_setRole s 1 0 (boundaryReason s)).1.append (within_boundaryPassed _).1).append hside.within.1
    refine does_of_all hexec (hframe.mono (by decide)) ⟨?_, ?_, hside.boundary, ?_⟩ fun _ _ h => h
    · rw [role, hside.rd_stat (by decide), rd, word_boundaryPassed]; exact role_setRole (by decide)
    · rw [substate, hside.rd_stat (by decide), rd, word_boundaryPassed]; exact substate_setRole (by decide)
    · rw [hside.within.2.word_eq (by decide), word_boundaryPassed, roleLast_setRole hother]
      exact boundaryReason_last 1
  · intro s hrole hsub hstale hwtr
    refine does_of_all (exec_wtrExpiry_final hstale hrole hsub hwtr) ((within_setRole s 3 3 4).1.mono (by decide))
      ⟨role_setRole (by decide), substate_setRole (by decide), ?_⟩ fun _ _ h => h
    rw [roleCnt_setRole, if_pos hrole]
  · intro s hactive hpeer hstale hoff
    obtain ⟨o, hsent, -, hall⟩ := sendClasses_spec ((List.range 11).filter fun k => carriedClass s k && true) s hoff
    have hexec : exec .wtrExpiry s = done { s with out := o } :=
      (exec_wtrExpiry_copies hstale hactive hpeer).trans (congrArg done hsent)
    refine does_of_all hexec ?_ (fun k hk => ?_) fun _ _ h => h
    · intro p hp; cases p <;> simp_all [Part.same]
    · exact hall k (List.mem_filter.2 ⟨List.mem_range.2 k.isLt, by rw [hk]; rfl⟩)
  · intro s hrole hsub hdone hoff hnone hlocked
    have hexec : exec .revertReady s = done (boundaryFixed s true) := by
      rw [exec_revertReady hrole hsub hdone hnone hlocked, fixBoundary_eq hoff]
    exact does_of_all hexec (within_boundaryFixed s true).1 ⟨rfl, rfl⟩ fun _ _ h => h

end Sys2Proof.Machine

/-! PROOFS. The rings of the host attachment (R442, R443, R446, R449): their registers, and writes of them. -/
namespace Sys2Proof.Machine

section
variable {s t u : State} {tx : Bool} {k r : Nat} {req : Requester} {data : Word}

/-! ### Where a ring's registers lie -/

/-- The offset of a ring's first register, HOST_RING_BASE_LO. -/
def ringBase (tx : Bool) (k r : Nat) : Nat := (if tx then 0x606c00 else 0x606400) + (k * 0x100000 + r * 0x20)

theorem ringBaseLo_addr : (ringBaseLo tx).addr [k, r] = ringBase tx k r := by
  cases tx <;> simp [ringBaseLo, ringBase, RegRow.addr, Reg.hostTxBaseLo, Reg.hostRxBaseLo, offsetOf]

theorem ringBaseHi_addr : (ringBaseHi tx).addr [k, r] = ringBase tx k r + 4 := by
  cases tx <;> simp [ringBaseHi, ringBase, RegRow.addr, Reg.hostTxBaseHi, Reg.hostRxBaseHi, offsetOf] <;> omega

theorem ringCfg_addr : (ringCfgReg tx).addr [k, r] = ringBase tx k r + 8 := by
  cases tx <;> simp [ringCfgReg, ringBase, RegRow.addr, Reg.hostTxCfg, Reg.hostRxCfg, offsetOf] <;> omega

theorem ringTail_addr : (ringTailReg tx).addr [k, r] = ringBase tx k r + 12 := by
  cases tx <;> simp [ringTailReg, ringBase, RegRow.addr, Reg.hostTxTail, Reg.hostRxTail, offsetOf] <;> omega

theorem ringStat_addr : (ringStatReg tx).addr [k, r] = ringBase tx k r + 16 := by
  cases tx <;> simp [ringStatReg, ringBase, RegRow.addr, Reg.hostTxStat, Reg.hostRxStat, offsetOf] <;> omega

/-- Two rings share their registers or lie apart. -/
theorem ringBase_apart {tx' : Bool} {k' r' : Nat} (hr : r < 64) (hr' : r' < 64) :
    ringBase tx k r = ringBase tx' k' r' ∨ ringBase tx k r + 0x20 ≤ ringBase tx' k' r' ∨
      ringBase tx' k' r' + 0x20 ≤ ringBase tx k r := by
  cases tx <;> cases tx' <;> simp only [ringBase, if_true, if_false, Bool.false_eq_true] <;> omega

theorem ringOn_cfg (s : State) (tx : Bool) (r : Nat) : ringOn s tx r = rdBit s (ringCfgReg tx) (ringIx s r) 31 := by
  cases tx <;> rfl

theorem ringIx_of_image (h : u.image = s.image) (r : Nat) : ringIx u r = ringIx s r := by
  rw [ringIx, ringIx, ringPipe, ringPipe, pipeOf_of_image h]

/-! ### The tail -/

/-- TAIL as written, before it takes effect. -/
def tailPosted (s : State) (req : Requester) (tx : Bool) (r : Nat) (data : Word) : State :=
  putStaged s (ringTailReg tx) (ringIx s r)
    (blend (writable (ringTailReg tx) req) (stagedWord s (ringTailReg tx) (ringIx s r)) data)

/-- TAIL takes effect. -/
def tailMoved (s : State) (req : Requester) (tx : Bool) (r : Nat) (data : Word) : State :=
  putWord (tailPosted s req tx r data) (ringTailReg tx) (ringIx s r)
    (stagedWord (tailPosted s req tx r data) (ringTailReg tx) (ringIx s r))

theorem ringTailWrite_eq (s : State) (req : Requester) (tx : Bool) (r : Nat) (data : Word) : ringTailWrite s req tx r data =
    if (fld data 15 0 + 65536 - ringHead s tx r) % 65536 ≤ ringSize s tx r then tailMoved s req tx r data
    else tailPosted s req tx r data := rfl

theorem stagedTail (s : State) (req : Requester) (tx : Bool) (r : Nat) (data : Word) :
    fld (stagedWord (tailPosted s req tx r data) (ringTailReg tx) (ringIx s r)) 15 0 = fld data 15 0 := by
  have hmask : ∀ i ≤ 15, flag (writable (ringTailReg tx) req) i = true := by
    have hbase : (ringTailReg tx).base ≠ Reg.irqRoute.base := by cases tx <;> decide
    have hwritable : writable (ringTailReg tx) req = 0xFFFF := (if_neg fun h => hbase h.1).trans (by cases tx <;> decide)
    rw [hwritable]
    decide
  rw [tailPosted, stagedWord_putStaged_same]
  exact fld_ext fun i _ hi => by rw [flag_blend (by omega), if_pos (hmask i hi)]

theorem within_tailPosted (s : State) (req : Requester) (tx : Bool) (r : Nat) (data : Word) :
    Within [.staged] [] s (tailPosted s req tx r data) := within_putStaged s _ _ _

theorem within_tailMoved (s : State) (req : Requester) (tx : Bool) (r : Nat) (data : Word) :
    Within [.staged, .inForce] [(ringTailReg tx).addr (ringIx s r)] s (tailMoved s req tx r data) :=
  (within_tailPosted s req tx r data).append (within_putWord _ _ _ _)

theorem exec_hostRingTailWrite {r : Fin 64} (h : Reaches s req ((ringTailReg tx).addr (ringIx s r))) :
    exec (.hostRingTailWrite req tx r data) s = done (ringTailWrite s req tx r data) :=
  congrArg done (doorbell_of_reaches h _ _)

/-! ### EN and the layout -/

/-- HOST_RING_CFG as written. -/
def cfgStaged (s : State) (req : Requester) (tx : Bool) (r : Nat) (data : Word) : State :=
  putStaged s (ringCfgReg tx) (ringIx s r) (blend (writable (ringCfgReg tx) req) (stagedWord s (ringCfgReg tx) (ringIx s r)) data)

/-- EN and STAMP_TB as staged take effect. -/
def ringEnTaken (s : State) (tx : Bool) (r : Nat) : State :=
  putWord s (ringCfgReg tx) (ringIx s r)
    (blend 0x87000000 (word s (ringCfgReg tx) (ringIx s r)) (stagedWord s (ringCfgReg tx) (ringIx s r)))

/-- The ring with its layout and EN as written. -/
def ringLaid (s : State) (req : Requester) (tx : Bool) (r : Nat) (data : Word) : State :=
  ringEnTaken (takeLayout (cfgStaged s req tx r data) tx r) tx r

/-- The words in force of a ring that a write of HOST_RING_CFG may change. -/
def cfgWords (s : State) (tx : Bool) (r : Nat) : List Nat :=
  [(ringCfgReg tx).addr (ringIx s r), (ringBaseLo tx).addr (ringIx s r), (ringBaseHi tx).addr (ringIx s r)]

theorem within_takeLayout (s : State) (tx : Bool) (r : Nat) : Within [.inForce] (cfgWords s tx r) s (takeLayout s tx r) :=
  ((((within_putWord s (ringCfgReg tx) (ringIx s r) _).append (within_putWord _ (ringBaseLo tx) (ringIx s r) _)).append
    (within_putWord _ (ringBaseHi tx) (ringIx s r) _))).mono (by decide) (by simp [cfgWords])

theorem within_ringLaid (s : State) (req : Requester) (tx : Bool) (r : Nat) (data : Word) :
    Within [.staged, .inForce] (cfgWords s tx r) s (ringLaid s req tx r data) := by
  have hstaged : Within [.staged] [] s (cfgStaged s req tx r data) := within_putStaged s _ _ _
  have hix : ringIx (cfgStaged s req tx r data) r = ringIx s r := rfl
  exact ((hstaged.append (within_takeLayout _ tx r)).append (within_putWord _ (ringCfgReg tx) (ringIx s r) _)).mono (by decide)
    fun a h => by
      simp only [cfgWords, hix, List.nil_append, List.mem_append, List.mem_cons, List.not_mem_nil, or_false] at h ⊢
      tauto

theorem writable_ringCfg (tx : Bool) (req : Requester) : writable (ringCfgReg tx) req = 0x87F0007F := by
  have hbase : (ringCfgReg tx).base ≠ Reg.irqRoute.base := by cases tx <;> decide
  exact (if_neg fun h => hbase h.1).trans (by cases tx <;> decide)

theorem stagedWord_ringLaid (s : State) (req : Requester) (tx : Bool) (r : Nat) (data : Word) :
    stagedWord (takeLayout (cfgStaged s req tx r data) tx r) (ringCfgReg tx) (ringIx s r) =
      blend 0x87F0007F (stagedWord s (ringCfgReg tx) (ringIx s r)) data := by
  have hsame (u : State) : stagedWord (takeLayout u tx r) (ringCfgReg tx) (ringIx s r) = stagedWord u (ringCfgReg tx) (ringIx s r) := rfl
  rw [hsame, cfgStaged, stagedWord_putStaged_same, writable_ringCfg]

theorem word_ringLaid (s : State) (req : Requester) (tx : Bool) (r : Nat) (data : Word) :
    word (ringLaid s req tx r data) (ringCfgReg tx) (ringIx s r) =
      blend 0x87000000 (word (takeLayout (cfgStaged s req tx r data) tx r) (ringCfgReg tx) (ringIx s r))
        (blend 0x87F0007F (stagedWord s (ringCfgReg tx) (ringIx s r)) data) := by
  rw [← stagedWord_ringLaid s req tx r data]
  exact word_putWord_same

theorem ringOn_ringLaid : rdBit (ringLaid s req tx r data) (ringCfgReg tx) (ringIx s r) 31 = flag data 31 := by
  rw [rdBit, word_ringLaid, flag_blend (by decide), if_pos (by decide), flag_blend (by decide), if_pos (by decide)]

/-- One field of a word held in its range. -/
def fieldHeld (f : FieldRow) (w : Word) : Word := setFld w f.hi f.lo (f.hold.value (fld w f.hi f.lo))

/-- A field that takes any value is as it was. -/
theorem fieldHeld_any {f : FieldRow} (hany : f.hold = .any) (hl : f.lo ≤ f.hi) (hm : f.hi < 32) (w : Word) : fieldHeld f w = w := by
  rw [fieldHeld, hany]
  exact setFld_fld_self w hl hm

/-- A field held lies in its range. -/
theorem fld_fieldHeld {f : FieldRow} (hl : f.lo ≤ f.hi) (hm : f.hi < 32) (w : Word) :
    fld (fieldHeld f w) f.hi f.lo = f.hold.value (fld w f.hi f.lo) % 2 ^ (f.hi + 1 - f.lo) := fld_setFld_same hl hm

theorem fieldHeld_above {f : FieldRow} {hi lo : Nat} (hl : f.lo ≤ f.hi) (hm : f.hi < 32) (h : f.hi < lo) (w : Word) :
    fld (fieldHeld f w) hi lo = fld w hi lo := fld_setFld_above hl hm h

theorem held_range (x : Nat) : held 6 13 x = max 6 (min 13 x) := by unfold held; split_ifs <;> omega

/-- SIZE_LOG2 of a layout that is taken is the staged one, held from 6 to 13. -/
theorem size_heldWord (w : Word) : fld ((ringCfgReg tx).heldWord w) 23 20 = max 6 (min 13 (fld w 23 20)) := by
  have hfields : (ringCfgReg tx).fields = [F 31 31 .rw .imm, F 26 24 .rw .imm, F 23 20 .rw .imm (.range 6 13),
      F 6 0 .rw .imm (.range 1 64)] := by cases tx <;> rfl
  have hword : (ringCfgReg tx).heldWord w = [F 31 31 .rw .imm, F 26 24 .rw .imm, F 23 20 .rw .imm (.range 6 13),
      F 6 0 .rw .imm (.range 1 64)].foldl (fun w f => fieldHeld f w) w := by rw [RegRow.heldWord, hfields]; rfl
  have hsize (y : Word) : fld (fieldHeld (F 23 20 .rw .imm (.range 6 13)) y) 23 20 = held 6 13 (fld y 23 20) % 2 ^ (23 + 1 - 20) :=
    fld_fieldHeld (f := F 23 20 .rw .imm (.range 6 13)) (by decide) (by decide) y
  have hlt (x : Nat) : max 6 (min 13 x) < 2 ^ (23 + 1 - 20) := by omega
  rw [hword, List.foldl_cons, List.foldl_cons, List.foldl_cons, List.foldl_cons, List.foldl_nil,
    fieldHeld_above (f := F 6 0 .rw .imm (.range 1 64)) (by decide) (by decide) (by decide), hsize,
    fieldHeld_any (f := F 26 24 .rw .imm) rfl (by decide) (by decide), fieldHeld_any (f := F 31 31 .rw .imm) rfl (by decide) (by decide),
    held_range]
  exact Nat.mod_eq_of_lt (hlt _)

end

end Sys2Proof.Machine

/-! PROOFS. EN of a ring, and the reset of the endpoint (R440, R443, R449). -/
namespace Sys2Proof.Machine

section
variable {s t u : State} {tx : Bool} {r : Nat} {req : Requester} {data : Word}

/-! ### EN begins and ends a ring's STATE -/

/-- The ring runs. -/
def ringBegun (s : State) (tx : Bool) (r : Nat) : State :=
  wr (wr s (ringStatReg tx) (ringIx s r) 31 30 1) (ringStatReg tx) (ringIx s r) 18 16 0

/-- The ring is off. -/
def ringEnded (s : State) (tx : Bool) (r : Nat) : State := wr s (ringStatReg tx) (ringIx s r) 31 30 0

/-- A write of HOST_RING_CFG that begins or ends the ring takes the layout. -/
theorem ringCfgWrite_turned (h : ringOn s tx r = !flag data 31) : ringCfgWrite s req tx r data =
    if flag data 31 then ringBegun (ringLaid s req tx r data) tx r
    else if tx then ringEnded (ringLaid s req tx r data) tx r else dropWaits (ringEnded (ringLaid s req tx r data) tx r) r := by
  have hwrite : ringCfgWrite s req tx r data =
      let v := ringEnTaken (if rdBit s (ringCfgReg tx) (ringIx s r) 31 && flag data 31 then cfgStaged s req tx r data
        else takeLayout (cfgStaged s req tx r data) tx r) tx r
      if rdBit s (ringCfgReg tx) (ringIx s r) 31 = rdBit v (ringCfgReg tx) (ringIx s r) 31 then v
      else if rdBit v (ringCfgReg tx) (ringIx s r) 31 then ringBegun v tx r
      else if tx then ringEnded v tx r else dropWaits (ringEnded v tx r) r := by
    unfold ringCfgWrite
    by_cases hif : (rdBit s (ringCfgReg tx) (ringIx s r) 31 && flag data 31) = true
    · simp only [hif, if_true]; rfl
    · simp only [hif]; rfl
  have hcfg : rdBit s (ringCfgReg tx) (ringIx s r) 31 = !flag data 31 := (ringOn_cfg s tx r).symm.trans h
  rw [hwrite, hcfg, Bool.not_and_self]
  show (if (!flag data 31) = rdBit (ringLaid s req tx r data) (ringCfgReg tx) (ringIx s r) 31 then ringLaid s req tx r data
    else if rdBit (ringLaid s req tx r data) (ringCfgReg tx) (ringIx s r) 31 then ringBegun (ringLaid s req tx r data) tx r
    else if tx then ringEnded (ringLaid s req tx r data) tx r else dropWaits (ringEnded (ringLaid s req tx r data) tx r) r) = _
  rw [ringOn_ringLaid]
  exact if_neg (by cases flag data 31 <;> decide)

theorem exec_hostRingEnable {r : Fin 64} (h : Reaches s req ((ringCfgReg tx).addr (ringIx s r))) :
    exec (.hostRingEnable req tx r data) s = done (ringCfgWrite s req tx r (data ||| 0x80000000)) :=
  congrArg done (doorbell_of_reaches h _ _)

theorem exec_hostRingDisable {r : Fin 64} (h : Reaches s req ((ringCfgReg tx).addr (ringIx s r))) :
    exec (.hostRingDisable req tx r data) s = done (ringCfgWrite s req tx r (data &&& 0x7FFFFFFF)) :=
  congrArg done (doorbell_of_reaches h _ _)

theorem flag_enabled (data : Word) : flag (data ||| 0x80000000) 31 = true := by
  rw [flag, BitVec.getLsbD_or]
  exact Bool.or_true _

theorem flag_disabled (data : Word) : flag (data &&& 0x7FFFFFFF) 31 = false := by
  rw [flag, BitVec.getLsbD_and]
  exact Bool.and_false _

/-- EN stands above SIZE_LOG2. -/
theorem size_enabled (data : Word) : fld (data ||| 0x80000000) 23 20 = fld data 23 20 :=
  fld_ext fun i _ hi => by
    have hclear : ∀ i ≤ 23, (0x80000000 : Word).getLsbD i = false := by decide
    rw [flag, flag, BitVec.getLsbD_or, hclear i hi, Bool.or_false]

theorem size_ringLaid : rd (ringLaid s req tx r data) (ringCfgReg tx) (ringIx s r) 23 20 = max 6 (min 13 (fld data 23 20)) := by
  have hen {m v w : Word} (hm : ∀ i, 20 ≤ i → i ≤ 23 → flag m i = false) : fld (blend m v w) 23 20 = fld v 23 20 :=
    fld_ext fun i hl hh => by rw [flag_blend (by omega), if_neg (by rw [hm i hl hh]; decide)]
  have htake {m v w : Word} (hm : ∀ i ≤ 23, 20 ≤ i → flag m i = true) : fld (blend m v w) 23 20 = fld w 23 20 :=
    fld_ext fun i hl hh => by rw [flag_blend (by omega), if_pos (hm i hh hl)]
  have hlayout : word (takeLayout (cfgStaged s req tx r data) tx r) (ringCfgReg tx) (ringIx s r) =
      blend 0x00F0007F (word s (ringCfgReg tx) (ringIx s r))
        ((ringCfgReg tx).heldWord (blend 0x87F0007F (stagedWord s (ringCfgReg tx) (ringIx s r)) data)) := by
    have hapart : (ringCfgReg tx).addr (ringIx s r) ≠ (ringBaseLo tx).addr (ringIx s r) ∧
        (ringCfgReg tx).addr (ringIx s r) ≠ (ringBaseHi tx).addr (ringIx s r) := by
      rw [ringIx, ringCfg_addr, ringBaseLo_addr, ringBaseHi_addr]; omega
    have hstaged : stagedWord (cfgStaged s req tx r data) (ringCfgReg tx) (ringIx s r) =
        blend 0x87F0007F (stagedWord s (ringCfgReg tx) (ringIx s r)) data := by
      rw [cfgStaged, stagedWord_putStaged_same, writable_ringCfg]
    unfold takeLayout
    extract_lets ix c s1 s2
    have hword : word (cfgStaged s req tx r data) (ringCfgReg tx) (ringIx s r) = word s (ringCfgReg tx) (ringIx s r) := rfl
    have hix : ix = ringIx s r := rfl
    rw [hix, word_putWord_other hapart.2]
    unfold s2
    rw [hix, word_putWord_other hapart.1]
    unfold s1 c
    rw [hix, word_putWord_same, hword, hstaged]
  rw [rd, word_ringLaid, hen (by decide), hlayout, htake (by decide), size_heldWord, htake (by decide)]

/-- STATE of a ring lies apart from its layout. -/
theorem ringStat_apart : (ringCfgReg tx).addr (ringIx s r) ≠ (ringStatReg tx).addr (ringIx s r) := by
  rw [ringIx, ringCfg_addr, ringStat_addr]; omega

theorem within_ringBegun (s : State) (tx : Bool) (r : Nat) :
    Within [.inForce] [(ringStatReg tx).addr (ringIx s r)] s (ringBegun s tx r) :=
  (within_wr s _ _ _ _ _).trans (within_wr _ _ _ _ _ _)

theorem within_ringEnded (s : State) (tx : Bool) (r : Nat) :
    Within [.inForce] [(ringStatReg tx).addr (ringIx s r)] s (ringEnded s tx r) := within_wr s _ _ _ _ _

/-- A ring without frames on its wait list has none to discard. -/
theorem dropWaits_none (h : rxWaits s r = []) : dropWaits s r = putRxWaits s r [] := by rw [dropWaits, h]; rfl

/-! ### A ring reset -/

/-- The words of a ring that a reset writes. -/
def ringResetWords (s : State) (tx : Bool) (r : Nat) : List Nat :=
  [(ringCfgReg tx).addr (ringIx s r), (ringTailReg tx).addr (ringIx s r), (ringBaseLo tx).addr (ringIx s r),
    (ringBaseHi tx).addr (ringIx s r), (ringStatReg tx).addr (ringIx s r)]

theorem ringResetWords_range {a : Nat} (h : a ∈ ringResetWords s tx r) :
    ringBase tx (ringPipe s r) r ≤ a ∧ a < ringBase tx (ringPipe s r) r + 0x20 := by
  simp only [ringResetWords, ringIx, ringCfg_addr, ringTail_addr, ringBaseLo_addr, ringBaseHi_addr, ringStat_addr, List.mem_cons,
    List.not_mem_nil, or_false] at h
  omega

/-- A register at its reset value, staged and in force. -/
def regReset (s : State) (x : RegRow) (ix : List Nat) : State := putStaged (putWord s x ix (x.resetWord ix)) x ix (x.resetWord ix)

theorem within_regReset (s : State) (x : RegRow) (ix : List Nat) : Within [.staged, .inForce] [x.addr ix] s (regReset s x ix) :=
  ((within_putWord s x ix _).append (within_putStaged _ x ix _)).mono (by decide) (by simp)

theorem resetRing_eq (s : State) (tx : Bool) (r : Nat) : resetRing s tx r =
    putWord (regReset (regReset (regReset (regReset s (ringCfgReg tx) (ringIx s r)) (ringTailReg tx) (ringIx s r))
      (ringBaseLo tx) (ringIx s r)) (ringBaseHi tx) (ringIx s r)) (ringStatReg tx) (ringIx s r) 0 := rfl

theorem within_resetRing (s : State) (tx : Bool) (r : Nat) :
    Within [.staged, .inForce] (ringResetWords s tx r) s (resetRing s tx r) := by
  rw [resetRing_eq]
  exact (((((within_regReset s _ _).append (within_regReset _ _ _)).append (within_regReset _ _ _)).append
    (within_regReset _ _ _)).append (within_putWord _ _ _ _)).mono (by decide) fun a h => by simpa [ringResetWords] using h

/-- The ring is off, and shows it. -/
def RingOff (s : State) (tx : Bool) (r : Nat) : Prop := ringOn s tx r = false ∧ ringMode s tx r = 0

theorem ringOff_resetRing (s : State) (tx : Bool) (r : Nat) : RingOff (resetRing s tx r) tx r := by
  have hix : ringIx (resetRing s tx r) r = ringIx s r := ringIx_of_image ((within_resetRing s tx r).1 .image (by decide)) r
  constructor
  · have haddr : (ringCfgReg tx).addr (ringIx s r) ≠ (ringTailReg tx).addr (ringIx s r) ∧
        (ringCfgReg tx).addr (ringIx s r) ≠ (ringBaseLo tx).addr (ringIx s r) ∧
        (ringCfgReg tx).addr (ringIx s r) ≠ (ringBaseHi tx).addr (ringIx s r) := by
      rw [ringIx, ringCfg_addr, ringTail_addr, ringBaseLo_addr, ringBaseHi_addr]; omega
    obtain ⟨htail, hlo, hhi⟩ := haddr
    have hreset : (ringCfgReg tx).resetWord (ringIx s r) = 0x800008 := by cases tx <;> rfl
    have hword : word (regReset s (ringCfgReg tx) (ringIx s r)) (ringCfgReg tx) (ringIx s r) = 0x800008 := by
      have hsame (u : State) (w v : Word) : word (putStaged (putWord u (ringCfgReg tx) (ringIx s r) w) (ringCfgReg tx) (ringIx s r) v)
        (ringCfgReg tx) (ringIx s r) = w := word_putWord_same (s := u)
      rw [regReset, hsame, hreset]
    rw [ringOn_cfg, hix, resetRing_eq, rdBit, word_putWord_other ringStat_apart,
      (within_regReset _ _ _).2.word_eq (by simpa using hhi), (within_regReset _ _ _).2.word_eq (by simpa using hlo),
      (within_regReset _ _ _).2.word_eq (by simpa using htail), hword]
    rfl
  · rw [ringMode, hix, resetRing_eq, rd, word_putWord_same]
    rfl

/-- A reset of any ring leaves a ring that is off so. -/
theorem RingOff.through_reset {tx' : Bool} {r' : Nat} (h : RingOff s tx r) (hr : r < 64) (hr' : r' < 64) :
    RingOff (resetRing s tx' r') tx r := by
  by_cases hsame : ringBase tx (ringPipe s r) r = ringBase tx' (ringPipe s r') r'
  · have hequal : tx = tx' ∧ r = r' := by
      cases tx <;> cases tx' <;> simp only [ringBase, if_true, if_false, Bool.false_eq_true] at hsame <;>
        simp only [true_and, false_and, Bool.false_eq_true, Bool.true_eq_false] <;> omega
    obtain ⟨rfl, rfl⟩ := hequal
    exact ringOff_resetRing s tx r
  · have hapart := (ringBase_apart (tx := tx) (k := ringPipe s r) (tx' := tx') (k' := ringPipe s r') hr hr').resolve_left hsame
    have hwithin := within_resetRing s tx' r'
    have hix := ringIx_of_image (hwithin.1 .image (by decide)) r
    have hcfg : (ringCfgReg tx).addr (ringIx s r) ∉ ringResetWords s tx' r' := fun hmem => by
      have := ringResetWords_range hmem
      rw [ringIx, ringCfg_addr] at this
      omega
    have hstat : (ringStatReg tx).addr (ringIx s r) ∉ ringResetWords s tx' r' := fun hmem => by
      have := ringResetWords_range hmem
      rw [ringIx, ringStat_addr] at this
      omega
    obtain ⟨hon, hmode⟩ := h
    constructor
    · rw [ringOn_cfg, hix, hwithin.2.rdBit_eq hcfg, ← ringOn_cfg]; exact hon
    · rw [ringMode, hix, hwithin.2.rd_eq hstat]; exact hmode

/-- A register that lies apart from every ring. -/
theorem fdbLockHost_apart {w : Nat} (hw : w < 2) (hr : r < 64) : Reg.fdbLockHost.addr [w] ∉ ringResetWords s tx r := fun hmem => by
  have := ringResetWords_range hmem
  have haddr : Reg.fdbLockHost.addr [w] = 0xa00100 + w * 4 := by simp [RegRow.addr, Reg.fdbLockHost, offsetOf]
  cases tx <;> simp only [ringBase, if_true, if_false, Bool.false_eq_true] at this <;> omega

/-- What the rings' reset keeps: every other part, the host's segment locks, and the rings that are off. -/
structure RingsSide (s u : State) : Prop where
  only : OnlyChanges [.staged, .inForce] s u
  locks : ∀ w < 2, word u Reg.fdbLockHost [w] = word s Reg.fdbLockHost [w]
  off : ∀ tx, ∀ r < 64, RingOff s tx r → RingOff u tx r

theorem RingsSide.refl (s : State) : RingsSide s s := ⟨.refl _ s, fun _ _ => rfl, fun _ _ _ h => h⟩

theorem RingsSide.trans (h : RingsSide s t) (h' : RingsSide t u) : RingsSide s u :=
  ⟨h.only.trans h'.only, fun w hw => (h'.locks w hw).trans (h.locks w hw), fun tx r hr hoff => h'.off tx r hr (h.off tx r hr hoff)⟩

theorem ringsSide_resetRing (hr : r < 64) : RingsSide s (resetRing s tx r) :=
  ⟨(within_resetRing s tx r).1, fun _ hw => (within_resetRing s tx r).2.word_eq (fdbLockHost_apart hw hr),
    fun _ _ hr' h => h.through_reset hr' hr⟩

/-- The rings of one kind, reset in turn by a step that is a reset wherever `P` holds, which the resets keep. -/
theorem ringsReset_spec {step : State → Nat → State} {P : State → Prop} (hstep : ∀ v r, P v → step v r = resetRing v tx r)
    (hkeep : ∀ v w, P v → RingsSide v w → P w) (hs : P s) (n : Nat) (hn : n ≤ 64) :
    RingsSide s ((List.range n).foldl step s) ∧ ∀ r < n, RingOff ((List.range n).foldl step s) tx r := by
  induction n with
  | zero => exact ⟨.refl s, fun r hr => absurd hr (Nat.not_lt_zero r)⟩
  | succ n ih =>
    obtain ⟨hside, hoff⟩ := ih (by omega)
    rw [List.range_succ, List.foldl_append, List.foldl_cons, List.foldl_nil]
    generalize (List.range n).foldl step s = v at hside hoff ⊢
    rw [hstep v n (hkeep s v hs hside)]
    refine ⟨hside.trans (ringsSide_resetRing (by omega)), fun r hr => ?_⟩
    by_cases hrn : r = n
    · rw [hrn]
      exact ringOff_resetRing v tx n
    · exact (hoff r (by omega)).through_reset (by omega) (by omega)

end

end Sys2Proof.Machine

/-! PROOFS. The endpoint and its rings (R439, R440, R443, R446, R449). -/
namespace Sys2Proof.Machine

section
variable {s t u now : State} {tx : Bool} {r : Nat}

/-! ### The endpoint resets -/

/-- The endpoint masters the bus no longer. -/
def busLost (s : State) : State := { s with host := { s.host with busMaster := false } }

/-- Both kinds of rings are reset. -/
def ringsReset (s : State) : State :=
  (List.range 64).foldl (fun s r => resetRing s true r)
    ((List.range 64).foldl (fun s r => resetRing (dropWaits s r) false r) s)

/-- The frames that were fetched are forgotten. -/
def txForgotten (s : State) : State := { s with host := { s.host with txPending := [] } }

/-- The host holds no segment. -/
def locksCleared (s : State) : State :=
  [0, 1].foldl (fun s w => putStaged (putWord s Reg.fdbLockHost [w] 0) Reg.fdbLockHost [w] 0) s

/-- MSI-X is off, and every vector masked. -/
def masksReset (s : State) : State :=
  { s with irq := { s.irq with msixEnable := false, functionMask := false, masked := BitVec.allOnes 64, msixTable := [] } }

theorem hostPortsDown_none (h : s.sched.queues = []) : hostPortsDown s = s := by
  rw [hostPortsDown, dropQueued_none h, dropQueued_none h]

theorem putRxWaits_none (h : s.host.rxWait = []) : putRxWaits s r [] = s := by
  have hset : set [] s.host.rxWait r [] = s.host.rxWait := by rw [h]; rfl
  rw [putRxWaits, hset]

theorem dropWaits_idle (h : s.host.rxWait = []) : dropWaits s r = s := by
  rw [dropWaits_none (by rw [rxWaits, h]; rfl), putRxWaits_none h]

theorem ringsReset_facts (h : s.host.rxWait = []) :
    RingsSide s (ringsReset s) ∧ ∀ tx, ∀ r < 64, RingOff (ringsReset s) tx r := by
  have hkeep (v w : State) (hv : v.host.rxWait = []) (hside : RingsSide v w) : w.host.rxWait = [] := by
    rw [show w.host = v.host from hside.only .host (by decide)]; exact hv
  obtain ⟨hrx, hrxOff⟩ := ringsReset_spec (tx := false) (step := fun s r => resetRing (dropWaits s r) false r)
    (P := fun v => v.host.rxWait = []) (fun v r hv => by rw [dropWaits_idle hv]) hkeep h 64 le_rfl
  obtain ⟨htx, htxOff⟩ := ringsReset_spec (tx := true) (step := fun s r => resetRing s true r)
    (P := fun _ => True) (fun _ _ _ => rfl) (fun _ _ _ _ => trivial) trivial 64 le_rfl
  refine ⟨hrx.trans htx, fun tx r hr => ?_⟩
  cases tx with
  | false => exact htx.off false r hr (hrxOff r hr)
  | true => exact htxOff r hr

/-- A reset of the endpoint with nothing queued for it, nothing on a wait list, no transfer and no segment held. -/
theorem resetEndpoint_idle (hqueues : s.sched.queues = []) (hrx : s.host.rxWait = []) (htdma : s.host.tdma = none)
    (hlocks : ∀ w < 2, word s Reg.fdbLockHost [w] = 0) :
    resetEndpoint s = masksReset (dropHold (locksCleared (txForgotten (ringsReset (busLost s)))) false) := by
  obtain ⟨hside, -⟩ := ringsReset_facts (s := busLost s) hrx
  have hdma : (txForgotten (ringsReset (busLost s))).host.tdma = none := by
    have hhost : (ringsReset (busLost s)).host = (busLost s).host := hside.only .host (by decide)
    have hforgot (u : State) : (txForgotten u).host.tdma = u.host.tdma := rfl
    rw [hforgot, hhost]
    exact htdma
  have hlock (w : Nat) (hw : w < 2) : word (txForgotten (ringsReset (busLost s))) Reg.fdbLockHost [w] = 0 := by
    have hforgot (u : State) : word (txForgotten u) Reg.fdbLockHost [w] = word u Reg.fdbLockHost [w] := rfl
    rw [hforgot, hside.locks w hw]
    exact hlocks w hw
  have hany : ([0, 1].any fun w => word (txForgotten (ringsReset (busLost s))) Reg.fdbLockHost [w] != 0) = false := by
    simp [hlock 0 (by decide), hlock 1 (by decide)]
  have hbus : (if hostUp s then hostPortsDown (busLost s) else busLost s) = busLost s := by
    split
    · exact hostPortsDown_none (s := busLost s) hqueues
    · rfl
  unfold resetEndpoint
  extract_lets up x s1 s2 s3 s4 y s5 s6 locked s7 s8 s9
  have h2 : s2 = busLost s := hbus
  have h5 : s5 = txForgotten (ringsReset (busLost s)) := by
    have h4 : s4 = ringsReset (busLost s) := by
      unfold s4 s3
      rw [h2]
      rfl
    unfold s5 y
    rw [h4]
    rfl
  have h6 : s6 = txForgotten (ringsReset (busLost s)) := by
    unfold s6
    rw [h5, hdma]
    rfl
  have hfree : locked = false := by
    unfold locked
    rw [h6]
    exact hany
  have h8 : s8 = locksCleared (txForgotten (ringsReset (busLost s))) := by
    unfold s8 s7
    rw [hfree, h6]
    rfl
  have h9 : s9 = dropHold (locksCleared (txForgotten (ringsReset (busLost s)))) false := by
    unfold s9
    rw [h8]
  clear_value s9
  exact congrArg masksReset h9

theorem within_locksCleared (s : State) :
    Within [.staged, .inForce] [Reg.fdbLockHost.addr [0], Reg.fdbLockHost.addr [1]] s (locksCleared s) := by
  have hone (v : State) (w : Nat) : Within [.staged, .inForce] [Reg.fdbLockHost.addr [w]] v
      (putStaged (putWord v Reg.fdbLockHost [w] 0) Reg.fdbLockHost [w] 0) :=
    ((within_putWord v _ _ _).append (within_putStaged _ _ _ _)).mono (by decide) (by simp)
  exact ((hone s 0).append (hone _ 1)).mono (by decide) (by simp)

/-- A hold bit that falls begins the wait of MS fields. -/
def holdDropped (s : State) (mc : Bool) : State :=
  { s with regs := { s.regs with holdClearedAt := s.time.dt, holdHostCycles := if mc then s.regs.holdHostCycles else 0,
                                 holdMcCycles := if mc then 0 else s.regs.holdMcCycles } }

theorem within_holdDropped (s : State) (mc : Bool) : Within [.fabric] [] s (holdDropped s mc) := by
  refine OnlyChanges.within (fun p hp => ?_) (by decide)
  cases p <;> simp_all [Part.same, holdDropped]

theorem dropHold_eq (s : State) : dropHold s false =
    if rdBit s Reg.glbMsHold [] 0 then holdDropped (wrBoth s Reg.glbMsHold [] 0 0 0) false else s := rfl

theorem within_dropHold (s : State) :
    Within [.staged, .inForce, .fabric] [Reg.glbMsHold.addr []] s (dropHold s false) := by
  rw [dropHold_eq]
  exact (((within_wrBoth s _ _ 0 0 0).append (within_holdDropped _ false)).mono (by decide) (by simp)).orNot

theorem hold_dropHold (s : State) : rdBit (dropHold s false) Reg.glbMsHold [] 0 = false := by
  have hdropped (u : State) : rdBit (holdDropped u false) Reg.glbMsHold [] 0 = rdBit u Reg.glbMsHold [] 0 := rfl
  rw [dropHold_eq]
  split
  · rw [hdropped, rdBit, word_wrBoth_same]
    exact flag_setFld_same (b := false) (by decide)
  · next h => exact Bool.eq_false_iff.2 h

/-- A register that no ring names is apart from the rings' words. -/
theorem RingOff.of_regsBut {l : List Nat} (h : RingOff s tx r) (himage : u.image = s.image) (hreg : RegsBut l s u)
    (hl : ∀ a ∈ l, a < 0x606400 ∨ a % 0x100000 < 0x6400) (hr : r < 64) : RingOff u tx r := by
  have hix := ringIx_of_image himage r
  have hapart (d : Nat) (hd : d < 0x20) : ringBase tx (ringPipe s r) r + d ∉ l := fun hmem => by
    have := hl _ hmem
    cases tx <;> simp only [ringBase, if_true, if_false, Bool.false_eq_true] at this <;> omega
  have hcfg : (ringCfgReg tx).addr (ringIx s r) ∉ l := by rw [ringIx, ringCfg_addr]; exact hapart 8 (by decide)
  have hstat : (ringStatReg tx).addr (ringIx s r) ∉ l := by rw [ringIx, ringStat_addr]; exact hapart 16 (by decide)
  obtain ⟨hon, hmode⟩ := h
  constructor
  · rw [ringOn_cfg, hix, hreg.rdBit_eq hcfg, ← ringOn_cfg]; exact hon
  · rw [ringMode, hix, hreg.rd_eq hstat]; exact hmode

/-- The reset, but for the masks of the vectors. -/
def endpointRegs (s : State) : State := dropHold (locksCleared (txForgotten (ringsReset (busLost s)))) false

theorem onlyChanges_masksReset (s : State) : OnlyChanges [.masks] s (masksReset s) := by
  intro p hp; cases p <;> simp_all [Part.same, masksReset]

theorem endpointRegs_facts (h : s.host.rxWait = []) :
    OnlyChanges [.staged, .inForce, .fabric, .host] s (endpointRegs s) ∧
      (endpointRegs s).host = { s.host with busMaster := false, txPending := [] } ∧
      (∀ tx, ∀ r < 64, RingOff (endpointRegs s) tx r) ∧ rdBit (endpointRegs s) Reg.glbMsHold [] 0 = false := by
  obtain ⟨hside, hoff⟩ := ringsReset_facts (s := busLost s) h
  have hbus : OnlyChanges [.host] s (busLost s) := (within_of_host s _).1
  have hforgot : Within [.host] [] (ringsReset (busLost s)) (txForgotten (ringsReset (busLost s))) := within_of_host _ _
  have hlocks := within_locksCleared (txForgotten (ringsReset (busLost s)))
  have hhold := within_dropHold (locksCleared (txForgotten (ringsReset (busLost s))))
  have hregs := (hforgot.append hlocks).append hhold
  refine ⟨((hbus.append hside.only).append hregs.1).mono (by decide), ?_, fun tx r hr => ?_, hold_dropHold _⟩
  · have hlast : (endpointRegs s).host = (txForgotten (ringsReset (busLost s))).host := (hlocks.append hhold).1 .host (by decide)
    have hfirst : (ringsReset (busLost s)).host = (busLost s).host := hside.only .host (by decide)
    have htx (u : State) : (txForgotten u).host = { u.host with txPending := [] } := rfl
    rw [hlast, htx, hfirst]
    rfl
  · exact (hoff tx r hr).of_regsBut (hregs.1 .image (by decide)) hregs.2 (by decide) hr

theorem within_putRxWaits (s : State) (r : Nat) (l : List RxWait) : Within [.host] [] s (putRxWaits s r l) := within_of_host s _

theorem rxWaits_putRxWaits_same (s : State) (r : Nat) (l : List RxWait) : rxWaits (putRxWaits s r l) r = l := get_set_same

theorem RingOff.putRxWaits {r' : Nat} {l : List RxWait} (h : RingOff s tx r) : RingOff (putRxWaits s r' l) tx r := h

/-- A ring whose EN is written 0 is off. -/
theorem ringEnded_facts {req : Requester} {data : Word} (h : flag data 31 = false) :
    Within [.staged, .inForce] (cfgWords s tx r ++ [(ringStatReg tx).addr (ringIx s r)]) s
      (ringEnded (ringLaid s req tx r data) tx r) ∧ RingOff (ringEnded (ringLaid s req tx r data) tx r) tx r := by
  have hix : ringIx (ringLaid s req tx r data) r = ringIx s r := rfl
  have hlaid := within_ringLaid s req tx r data
  have hended := within_ringEnded (ringLaid s req tx r data) tx r
  rw [hix] at hended
  have hframe := (hlaid.append hended).mono (qs := [.staged, .inForce]) (by decide) fun _ h => h
  have hix' : ringIx (ringEnded (ringLaid s req tx r data) tx r) r = ringIx s r :=
    ringIx_of_image (hframe.1 .image (by decide)) r
  refine ⟨hframe, ?_, ?_⟩
  · rw [ringOn_cfg, hix', hended.2.rdBit_eq (by simpa using ringStat_apart), ringOn_ringLaid, h]
  · rw [ringMode, hix', ringEnded, hix, rd_wr_same (by decide) (by decide)]
    rfl

end

/-- Settles O44: the reset takes each ring to its reset words, and a write of a ring's register turns on the words it puts. -/
theorem ringsAreGoverned : Obligations.RingsAreGoverned := by
  refine ⟨?_, ?_, ?_, ?_, ?_, ?_, ?_⟩
  · intro s el now hnow hqueues hrx htdma hlocks
    have hexec : exec (.endpointReset el) s = done (masksReset (endpointRegs now)) := by
      show done (resetEndpoint (advance el s)) = _
      rw [← hnow, resetEndpoint_idle hqueues hrx htdma hlocks]
      rfl
    obtain ⟨honly, hhost, hoff, hhold⟩ := endpointRegs_facts hrx
    have hmask (u : State) : (masksReset u).host = u.host := rfl
    refine doesFrom_of hexec ((honly.append (onlyChanges_masksReset _)).mono (by decide))
      ⟨?_, fun tx r hr => hoff tx r hr, (hmask _).trans hhost, hhold, rfl, rfl, rfl, rfl⟩
    show hostUp (masksReset (endpointRegs now)) = false
    rw [hostUp, hmask, hhost]
    exact Bool.and_false _
  · intro s d0 oor bm h
    have hexec : exec (.hostPortStateChange d0 oor bm) s =
        done { s with host := { s.host with d0 := d0, outOfReset := oor, busMaster := bm } } := by
      show execHostPortStateChange d0 oor bm s = _
      unfold execHostPortStateChange
      extract_lets was x v
      by_cases hdown : (was && !hostUp v) = true
      · have hqueues : s.sched.queues = [] := by
          rw [Bool.and_eq_true, Bool.not_eq_true'] at hdown
          obtain ⟨hwas, hnow⟩ := hdown
          rcases h with h | h | h
          · exact absurd (hwas.symm.trans h) (by decide)
          · exact absurd (hnow.symm.trans h) (by decide)
          · exact h
        rw [if_pos hdown, hostPortsDown_none (s := v) hqueues]
      · rw [if_neg hdown]
    exact does_of_all hexec (within_of_host s _).1 rfl fun _ _ h => h
  · intro s req tx r data hreach hfits
    have hexec : exec (.hostRingTailWrite req tx r data) s = done (tailMoved s req tx r data) := by
      rw [exec_hostRingTailWrite hreach, ringTailWrite_eq, if_pos hfits]
    have hwithin := within_tailMoved s req tx r data
    refine does_of_all hexec hwithin.1 ⟨?_, hwithin.2⟩ fun _ _ h => h
    rw [tailMoved, rd, word_putWord_same]
    exact stagedTail s req tx r data
  · intro s req tx r data hreach hover
    have hexec : exec (.hostRingTailWrite req tx r data) s = done (tailPosted s req tx r data) := by
      rw [exec_hostRingTailWrite hreach, ringTailWrite_eq, if_neg (by omega)]
    exact does_of_all hexec (within_tailPosted s req tx r data).1 (stagedTail s req tx r data) fun _ _ h => h
  · intro s req tx r data hreach hoff
    have hexec : exec (.hostRingEnable req tx r data) s =
        done (ringBegun (ringLaid s req tx r (data ||| 0x80000000)) tx r) := by
      rw [exec_hostRingEnable hreach, ringCfgWrite_turned (by rw [hoff, flag_enabled]; rfl), flag_enabled]
      rfl
    have hix : ringIx (ringLaid s req tx r (data ||| 0x80000000)) r = ringIx s r := rfl
    have hlaid := within_ringLaid s req tx r (data ||| 0x80000000)
    have hbegun := within_ringBegun (ringLaid s req tx r (data ||| 0x80000000)) tx r
    rw [hix] at hbegun
    have hframe := (hlaid.append hbegun).mono (qs := [.staged, .inForce]) (m := cfgWords s tx r ++ [(ringStatReg tx).addr (ringIx s r)])
      (by decide) fun _ h => h
    have hcfg : (ringCfgReg tx).addr (ringIx s r) ∉ [(ringStatReg tx).addr (ringIx s r)] := by simpa using ringStat_apart
    have hix' : ringIx (ringBegun (ringLaid s req tx r (data ||| 0x80000000)) tx r) r = ringIx s r :=
      ringIx_of_image (hframe.1 .image (by decide)) r
    refine does_of_all hexec hframe.1 ⟨?_, ?_, ?_, ?_, by simpa [cfgWords] using hframe.2⟩ fun _ _ h => h
    · rw [ringOn_cfg, hix', hbegun.2.rdBit_eq hcfg, ringOn_ringLaid, flag_enabled]
    · rw [ringMode, hix', ringBegun, hix, rd_wr_above (by decide) (by decide) (by decide), rd_wr_same (by decide) (by decide)]
      rfl
    · rw [ringBegun, hix, rd_wr_same (by decide) (by decide)]
      rfl
    · rw [hbegun.2.rd_eq hcfg, size_ringLaid, size_enabled]
  · intro s req r data hreach hon
    have hexec : exec (.hostRingDisable req true r data) s =
        done (ringEnded (ringLaid s req true r (data &&& 0x7FFFFFFF)) true r) := by
      rw [exec_hostRingDisable (tx := true) hreach, ringCfgWrite_turned (by rw [hon, flag_disabled]; rfl), flag_disabled]
      rfl
    obtain ⟨hframe, hended⟩ := ringEnded_facts (s := s) (tx := true) (r := r) (req := req) (flag_disabled data)
    exact does_of_all hexec hframe.1 hended fun _ _ h => h
  · intro s req r data hreach hon hnone
    have hexec : exec (.hostRingDisable req false r data) s =
        done (putRxWaits (ringEnded (ringLaid s req false r (data &&& 0x7FFFFFFF)) false r) r []) := by
      have hnone' : rxWaits (ringEnded (ringLaid s req false r (data &&& 0x7FFFFFFF)) false r) r = [] := hnone
      rw [exec_hostRingDisable (tx := false) hreach, ringCfgWrite_turned (by rw [hon, flag_disabled]; rfl), flag_disabled,
        ← dropWaits_none hnone']
      rfl
    obtain ⟨hframe, hended⟩ := ringEnded_facts (s := s) (tx := false) (r := r) (req := req) (flag_disabled data)
    obtain ⟨hoff, hmode⟩ := hended.putRxWaits (r' := r) (l := [])
    exact does_of_all hexec (hframe.append (within_putRxWaits _ r [])).1 ⟨hoff, hmode, rxWaits_putRxWaits_same _ _ _⟩
      fun _ _ h => h

end Sys2Proof.Machine

/-! PROOFS. Frames through the host rings (R445 to R449): what a DMA request writes, and what it takes from its ring. -/
namespace Sys2Proof.Machine

section
variable {s t u now : State} {tx : Bool} {r n : Nat}

/-! ### Operation tags -/

/-- A DMA request has its operation tag. -/
def tagTaken (s : State) : State := { s with bpm := { s.bpm with tagsInUse := s.bpm.tagsInUse + 1 } }

theorem withTag_free (h : s.bpm.tagsInUse < tagLimit) (f : State → State) : withTag s f = f (tagTaken s) := if_neg (by omega)

theorem withTag_full (h : tagLimit ≤ s.bpm.tagsInUse) (f : State → State) : withTag s f = s := if_pos h

theorem onlyChanges_bpm (s : State) (x : Bpm) : OnlyChanges [.bpm] s { s with bpm := x } := by
  intro p hp; cases p <;> simp_all [Part.same]

theorem within_tagTaken (s : State) : Within [.bpm] [] s (tagTaken s) := (onlyChanges_bpm s _).within (by decide)

/-- A buffer of a pool other than CELL returns to its pool alone. -/
theorem within_returnBuf (s : State) {n : Nat} (hn : n ≠ 0) (i : Nat) : Within [.bpm] [] s (returnBuf s n i) := by
  cases hb : findBuf s n i with
  | none =>
    have hsame : returnBuf s n i = s := by rw [returnBuf, hb]
    rw [hsame]
    exact .refl _ _ s
  | some b => exact (onlyChanges_returnBuf_dram hb hn).within (by decide)

/-! ### Outputs in turn -/

/-- Outputs `l` have left, the last first. -/
def sentOut (s : State) (l : List Output) : State := { s with out := l ++ s.out }

theorem within_sentOut (s : State) (l : List Output) : Within [.out] [] s (sentOut s l) := by
  refine OnlyChanges.within (fun p hp => ?_) (by decide)
  cases p <;> simp_all [Part.same, sentOut]

/-- Outputs that depend on nothing that they change leave in turn. -/
theorem foldl_emit {f : State → Nat → Output} (hf : ∀ v l i, f (sentOut v l) i = f v i) (xs : List Nat) :
    ∀ s, xs.foldl (fun s i => emit s (f s i)) s = sentOut s (xs.map (f s)).reverse := by
  induction xs with
  | nil => exact fun _ => rfl
  | cons x xs ih =>
    intro s
    have hsent : emit s (f s x) = sentOut s [f s x] := rfl
    have hmap : xs.map (f (sentOut s [f s x])) = xs.map (f s) := List.map_congr_left fun i _ => hf s _ i
    rw [List.foldl_cons, hsent, ih, hmap, List.map_cons, List.reverse_cons]
    simp [sentOut]

/-! ### Descriptors complete -/

theorem ringDone_addr {k : Nat} : (ringDone tx).addr [k, r] = ringBase tx k r + 20 := by
  cases tx <;> simp [ringDone, ringBase, RegRow.addr, Reg.hostTxDoneCnt, Reg.hostRxDoneCnt, offsetOf] <;> omega

theorem within_completeDescs (s : State) (tx : Bool) (r n : Nat) :
    Within [.inForce] [(ringStatReg tx).addr (ringIx s r), (ringDone tx).addr (ringIx s r)] s (completeDescs s tx r n) :=
  ((within_wr s _ _ 15 0 _).append (within_countEvent _ _ _)).mono (by decide) (by simp)

theorem ringStat_done : (ringStatReg tx).addr (ringIx s r) ≠ (ringDone tx).addr (ringIx s r) := by
  rw [ringIx, ringStat_addr, ringDone_addr]; omega

theorem head_completeDescs (s : State) (tx : Bool) (r n : Nat) :
    rd (completeDescs s tx r n) (ringStatReg tx) (ringIx s r) 15 0 = (ringHead s tx r + n) % 65536 := by
  unfold completeDescs
  extract_lets ix
  have hix : ix = ringIx s r := rfl
  rw [hix, rd, countEvent, word_putWord_other ringStat_done, ← rd, rd_wr_same (by decide) (by decide)]
  rfl

theorem done_completeDescs (s : State) (tx : Bool) (r n : Nat) :
    word (completeDescs s tx r n) (ringDone tx) (ringIx s r) = word s (ringDone tx) (ringIx s r) + 1 := by
  unfold completeDescs
  extract_lets ix
  have hix : ix = ringIx s r := rfl
  rw [hix, countEvent, word_putWord_same, word_wr_other ringStat_done.symm]

/-! ### Delivery of a frame -/

/-- The bytes of buffer `i` of a received frame. -/
def rxPiece (s : State) (r : Nat) (w : RxWait) (i : Nat) : List Byte :=
  (w.bytes.drop (i * (max 1 (rd s Reg.hostRxCfg (ringIx s r) 6 0) * 256))).take (max 1 (rd s Reg.hostRxCfg (ringIx s r) 6 0) * 256)

/-- Descriptor `i` of a received frame goes to host memory. -/
def rxDescWrite (s : State) (r : Nat) (w : RxWait) (bufs : List (BitVec 64)) (i : Nat) : Output :=
  .hostWrite (descAddr s false r (ringHead s false r + i)) (lowBytes 32 (rxDesc w i bufs.length (bufs.getD i 0)
    (rxPiece s r w i).length (rd s Reg.hostRxCfg (ringIx s r) 26 24)))

/-- What a delivery writes to host memory, the last first: its descriptors, and before them its data. -/
def rxWrites (s : State) (r : Nat) (w : RxWait) (bufs : List (BitVec 64)) : List Output :=
  (List.range bufs.length).map (rxDescWrite s r w bufs) ++
    ((List.range bufs.length).map fun i => Output.hostWrite (bufs.getD i 0) (rxPiece s r w i)).reverse

theorem length_rxWrites (s : State) (r : Nat) (w : RxWait) (bufs : List (BitVec 64)) :
    (rxWrites s r w bufs).length = 2 * bufs.length := by
  simp [rxWrites]; omega

theorem head_rxWrites {w : RxWait} {bufs : List (BitVec 64)} (h : 0 < bufs.length) (l : List Output) :
    (rxWrites s r w bufs ++ l).head? = some (rxDescWrite s r w bufs 0) := by
  obtain ⟨m, hm⟩ := Nat.exists_eq_succ_of_ne_zero (Nat.pos_iff_ne_zero.1 h)
  rw [rxWrites, hm, List.range_succ_eq_map]
  rfl

/-- The head frame has left its wait list with its descriptors complete. -/
def rxCompleted (s : State) (r n : Nat) (l : List Output) (rest : List RxWait) : State :=
  bump (putRxWaits (completeDescs (sentOut s l) false r n) r rest) Ctr.hostRx (ringIx s r) 0 1

theorem deliver_eq (s : State) (r : Nat) (w : RxWait) (bufs : List (BitVec 64)) : deliver s r w bufs =
    returnBuf (rxCompleted s r bufs.length (rxWrites s r w bufs) ((rxWaits s r).drop 1)) 1 w.buf := by
  unfold deliver
  extract_lets ix unit n head tb piece s1 s2 s3
  have h1 : s1 = sentOut s ((List.range bufs.length).map fun i => Output.hostWrite (bufs.getD i 0) (rxPiece s r w i)).reverse :=
    foldl_emit (f := fun _ i => Output.hostWrite (bufs.getD i 0) (rxPiece s r w i)) (fun _ _ _ => rfl) _ s
  have h2 : s2 = sentOut s (rxWrites s r w bufs) := by
    have hdescs : s2 = sentOut s1 (((List.range bufs.length).reverse.map (rxDescWrite s r w bufs)).reverse) := by
      have hfold := foldl_emit (f := fun v i => .hostWrite (descAddr v false r (head + i))
        (lowBytes 32 (rxDesc w i n (bufs.getD i 0) (piece i).length tb))) (fun _ _ _ => rfl) (List.range n).reverse s1
      have hdesc : (fun i => Output.hostWrite (descAddr s1 false r (head + i))
          (lowBytes 32 (rxDesc w i n (bufs.getD i 0) (piece i).length tb))) = rxDescWrite s r w bufs := by rw [h1]; rfl
      exact hfold.trans (by rw [hdesc])
    rw [hdescs, h1, List.map_reverse, List.reverse_reverse]
    simp [sentOut, rxWrites]
  clear_value s2
  subst h2
  rfl

theorem within_rxCompleted (s : State) (r n : Nat) (l : List Output) (rest : List RxWait) :
    Within [.out, .inForce, .host, .counters] [Reg.hostRxStat.addr (ringIx s r), Reg.hostRxDoneCnt.addr (ringIx s r)] s
      (rxCompleted s r n l rest) := by
  have hsent := within_sentOut s l
  have hdone := within_completeDescs (sentOut s l) false r n
  exact (((hsent.append hdone).append (within_putRxWaits _ r rest)).append (within_bump _ _ _ 0 1)).mono (by decide)
    fun a h => by
      have hix : ringIx (sentOut s l) r = ringIx s r := rfl
      rw [hix] at h
      simp only [List.nil_append, List.append_nil] at h
      exact h

end

end Sys2Proof.Machine

/-! PROOFS. Each request of a host ring (R445 to R449), and what its ring holds then. -/
namespace Sys2Proof.Machine

section
variable {s t u now : State} {r : Fin 64} {el n : Nat}

/-! ### Receive rings -/

theorem exec_rxFrameDeliver {bufs : List (BitVec 64)} {w : RxWait} {rest : List RxWait} (hnow : now = advance el s)
    (htag : now.bpm.tagsInUse < tagLimit) (hup : hostUp now = true) (hon : ringOn now false r = true) (hwaits : rxWaits now r = w :: rest)
    (hneeds : rxNeeds now r w.bytes.length = bufs.length) (hroom : bufs.length ≤ rxAvailable now r) :
    exec (.rxFrameDeliver r el bufs) s = done (readHead (tagTaken now) r w bufs) := by
  show execRxFrameDeliver r el bufs s = _
  unfold execRxFrameDeliver
  extract_lets v
  have hv : v = now := hnow.symm
  have hcond : (hostUp now && ringOn now false r && decide (rxNeeds now r w.bytes.length ≤ rxAvailable now r) &&
      bufs.length == rxNeeds now r w.bytes.length) = true := by simp [hup, hon, hneeds, hroom]
  rw [hv, hwaits]
  exact (if_pos hcond).trans (congrArg done (withTag_free htag _))

theorem exec_rxFrameDeliver_full {bufs : List (BitVec 64)} (hnow : now = advance el s) (htag : tagLimit ≤ now.bpm.tagsInUse) :
    exec (.rxFrameDeliver r el bufs) s = done now := by
  show execRxFrameDeliver r el bufs s = _
  unfold execRxFrameDeliver
  extract_lets v
  have hv : v = now := hnow.symm
  rw [hv]
  split
  · rfl
  · extract_lets m
    rw [withTag_full htag, ite_self]

theorem exec_rxTimeout {i : Nat} {w : RxWait} (hnow : now = advance el s) (hw : (rxWaits now r)[i]? = some w)
    (hlate : w.joinedAt + w.wait * 800 ≤ now.time.dt) : exec (.rxTimeout r i el) s =
      done (returnBuf (countRx (putRxWaits now r ((rxWaits now r).eraseIdx i)) r 1) 1 w.buf) := by
  show execRxTimeout r i el s = _
  unfold execRxTimeout
  extract_lets v
  have hv : v = now := hnow.symm
  rw [hv, hw]
  exact if_pos hlate

theorem rxWaits_putRxWaits_other {q p : Nat} (h : q ≠ p) (s : State) (l : List RxWait) : rxWaits (putRxWaits s p l) q = rxWaits s q :=
  get_set_other h

/-! ### Transmit rings: a chain is fetched -/

/-- The frame of a chain that is fetched, as it waits. -/
def fetched (chain : List TxDesc) : TxPending :=
  { descs := chain.length, frame := none, status := chainStatus chain, tsReq := chain.getLast?.any (·.tsReq), stamp := none,
    bytes := if chainStatus chain = 0 then padTo 60 (chainBytes chain) else [],
    direct := (chain.head?.filter (·.direct)).map fun d => (d.port, d.cls % 8) }

/-- The fetched frame joins its ring. -/
def txJoined (s : State) (r : Nat) (chain : List TxDesc) : State := putTxWaits s r (txWaits s r ++ [fetched chain])

/-- A chain that is faulty is counted. -/
def txFaulty (s : State) (r : Nat) (chain : List TxDesc) : State := bump (txJoined s r chain) Ctr.hostTx (ringIx s r) 1 1

/-- The ring stops with the STATUS of its fault. -/
def ringStopped (s : State) (r st : Nat) : State :=
  wr (wr s Reg.hostTxStat (ringIx s r) 31 30 2) Reg.hostTxStat (ringIx s r) 18 16 st

theorem fetchFrame_eq (hquiet : Quiet s) (r : Nat) (chain : List TxDesc) : fetchFrame s r chain =
    if chainStatus chain = 0 then askDram (txJoined s r chain) 2 0 (.hostTx r)
    else if chainStatus chain = 2 ∨ chainStatus chain = 3 then ringStopped (txFaulty s r chain) r (chainStatus chain)
    else txFaulty s r chain := by
  unfold fetchFrame
  extract_lets st b v tsReq direct x w y
  have hv : v = s := by
    unfold v
    split
    · rfl
    · exact record_of_quiet hquiet _ _ _ _
  have hx : (if st = 0 then x else { x with bytes := [] }) = fetched chain := by
    by_cases h : chainStatus chain = 0
    · have hbytes : (if chainStatus chain = 0 then padTo 60 (chainBytes chain) else []) = padTo 60 (chainBytes chain) := if_pos h
      rw [fetched, hbytes]
      exact if_pos h
    · have hbytes : (if chainStatus chain = 0 then padTo 60 (chainBytes chain) else []) = [] := if_neg h
      rw [fetched, hbytes]
      exact if_neg h
  have hw : w = txJoined s r chain := by
    unfold w
    rw [hv, hx]
    rfl
  have hy : y = txFaulty s r chain := by
    unfold y
    rw [hw]
    rfl
  rw [hw, hy]
  rfl

theorem exec_txFrameFetch {chain : List TxDesc} (hnow : now = advance el s) (htag : now.bpm.tagsInUse < tagLimit)
    (hup : hostUp now = true) (hforwards : forwards now = true) (hmode : ringMode now true r = 1) (hchain : chain ≠ [])
    (hposted : chain.length ≤ txPosted now r) :
    exec (.txFrameFetch r el chain) s = done (fetchFrame (tagTaken now) r chain) := by
  show execTxFrameFetch r el chain s = _
  unfold execTxFrameFetch
  extract_lets v
  have hv : v = now := hnow.symm
  have hcond : (hostUp now && forwards now && ringMode now true r == 1 && chain != [] && decide (chain.length ≤ txPosted now r)) = true := by
    simp [hup, hforwards, hmode, hchain, hposted]
  rw [hv]
  exact (if_pos hcond).trans (congrArg done (withTag_free htag _))

theorem exec_txFrameFetch_full {chain : List TxDesc} (hnow : now = advance el s) (htag : tagLimit ≤ now.bpm.tagsInUse) :
    exec (.txFrameFetch r el chain) s = done now := by
  show execTxFrameFetch r el chain s = _
  unfold execTxFrameFetch
  extract_lets v
  have hv : v = now := hnow.symm
  rw [hv, withTag_full htag, ite_self]

theorem within_putTxWaits (s : State) (r : Nat) (l : List TxPending) : Within [.host] [] s (putTxWaits s r l) := within_of_host s _

theorem within_txFaulty (s : State) (r : Nat) (chain : List TxDesc) : Within [.host, .counters] [] s (txFaulty s r chain) :=
  (within_putTxWaits s r _).append (within_bump _ _ _ 1 1)

theorem within_ringStopped (s : State) (r st : Nat) : Within [.inForce] [Reg.hostTxStat.addr (ringIx s r)] s (ringStopped s r st) :=
  (within_wr s _ _ _ _ _).trans (within_wr _ _ _ _ _ _)

theorem txWaits_putTxWaits_same (s : State) (r : Nat) (l : List TxPending) : txWaits (putTxWaits s r l) r = l := get_set_same

theorem status_txFaulty (s : State) (r : Nat) (chain : List TxDesc) :
    (txWaits (txFaulty s r chain) r).getLast?.map (·.status) = some (chainStatus chain) := by
  have hwaits : txWaits (txFaulty s r chain) r = txWaits s r ++ [fetched chain] := txWaits_putTxWaits_same s r _
  rw [hwaits, List.getLast?_concat]
  rfl

theorem within_askDram (s : State) (n requester : Nat) (x : DramUse) : Within [.bpm] [] s (askDram s n requester x) := by
  unfold askDram
  extract_lets q
  exact (Within.refl _ _ s).ite ((onlyChanges_bpm s _).within (by decide))

theorem mem_askDram (s : State) (n requester : Nat) (x : DramUse) :
    (⟨n, requester, x⟩ : DramReq) ∈ (askDram s n requester x).bpm.dramReqs := by
  unfold askDram
  extract_lets q
  split
  · next h => exact List.contains_iff_mem.1 h
  · exact List.mem_append_right _ (List.mem_singleton_self _)

/-! ### Transmit rings: a frame's descriptors complete -/

/-- What completion writes to host memory, the last first. -/
def txWrites (s : State) (r : Nat) (x : TxPending) (st : Nat) (z : Option Stamp) : List Output :=
  (List.range x.descs).map fun i => Output.hostWrite (descAddr s true r (ringHead s true r + i))
    (txDone st (rd s Reg.hostTxCfg (ringIx s r) 26 24) z)

/-- The head frame has left its ring with its descriptors complete. -/
def txCompleted (s : State) (r n : Nat) (l : List Output) (rest : List TxPending) : State :=
  putTxWaits (completeDescs (sentOut s l) true r n) r rest

theorem completeTx_eq (s : State) (r : Nat) (x : TxPending) (rest : List TxPending) (st : Nat) (z : Option Stamp) :
    completeTx s r x rest st z =
      if st = 0 ∨ st = 5 then bump (txCompleted s r x.descs (txWrites s r x st z) rest) Ctr.hostTx (ringIx s r) 0 1
      else txCompleted s r x.descs (txWrites s r x st z) rest := by
  unfold completeTx
  extract_lets b head v w
  have hv : v = sentOut s (txWrites s r x st z) := by
    have hfold := foldl_emit (f := fun v i => .hostWrite (descAddr v true r (head + i)) b) (fun _ _ _ => rfl)
      (List.range x.descs).reverse s
    rw [List.map_reverse, List.reverse_reverse] at hfold
    exact hfold
  have hw : w = txCompleted s r x.descs (txWrites s r x st z) rest := by
    unfold w
    rw [hv]
    rfl
  rw [hw]
  rfl

theorem within_txCompleted (s : State) (r n : Nat) (l : List Output) (rest : List TxPending) :
    Within [.out, .inForce, .host] [Reg.hostTxStat.addr (ringIx s r), Reg.hostTxDoneCnt.addr (ringIx s r)] s
      (txCompleted s r n l rest) := by
  have hsent := within_sentOut s l
  have hdone := within_completeDescs (sentOut s l) true r n
  exact ((hsent.append hdone).append (within_putTxWaits _ r rest)).mono (by decide) fun a h => by
    have hix : ringIx (sentOut s l) r = ringIx s r := rfl
    rw [hix] at h
    simp only [List.nil_append, List.append_nil] at h
    exact h

theorem exec_txCompletion {x : TxPending} {rest : List TxPending} {st : Nat} {z : Option Stamp} (htag : s.bpm.tagsInUse < tagLimit)
    (hup : hostUp s = true) (hwaits : txWaits s r = x :: rest) (hout : txOutcome s x = some (st, z)) :
    exec (.txCompletion r) s = done (completeTx (tagTaken s) r x rest st z) := by
  show execTxCompletion r s = _
  unfold execTxCompletion
  rw [hwaits]
  simp only [hout, hup, if_true, withTag_free htag]

theorem exec_txCompletion_full (htag : tagLimit ≤ s.bpm.tagsInUse) : exec (.txCompletion r) s = done s := by
  show execTxCompletion r s = _
  unfold execTxCompletion
  split
  · rfl
  · split
    · rfl
    · rw [withTag_full htag, ite_self]

end

end Sys2Proof.Machine

/-! PROOFS. Frames through the rings (R445 to R449, R19). -/
namespace Sys2Proof.Machine

section
variable {s now : State} {r : Fin 64}

/-- The delivery of a frame, once its buffer has returned. -/
theorem deliver_facts {w : RxWait} {rest : List RxWait} {bufs : List (BitVec 64)} (hwaits : rxWaits s r = w :: rest) :
    Within [.out, .inForce, .host, .counters, .bpm] [Reg.hostRxStat.addr (ringIx s r), Reg.hostRxDoneCnt.addr (ringIx s r)] s
        (deliver s r w bufs) ∧
      (rxWaits (deliver s r w bufs) r = rest ∧ ∀ q, q ≠ r.val → rxWaits (deliver s r w bufs) q = rxWaits s q) ∧
      ringHead (deliver s r w bufs) false r = (ringHead s false r + bufs.length) % 65536 ∧
      word (deliver s r w bufs) Reg.hostRxDoneCnt (ringIx s r) = word s Reg.hostRxDoneCnt (ringIx s r) + 1 ∧
      (deliver s r w bufs).regs.counters = (bump s Ctr.hostRx (ringIx s r) 0 1).regs.counters ∧
      (deliver s r w bufs).out = rxWrites s r w bufs ++ s.out := by
  have hreturn := within_returnBuf (rxCompleted s r bufs.length (rxWrites s r w bufs) rest) (n := 1) (by decide) w.buf
  have hdrop : (rxWaits s r).drop 1 = rest := by rw [hwaits]; rfl
  have hdone := within_completeDescs (sentOut s (rxWrites s r w bufs)) false r bufs.length
  rw [deliver_eq, hdrop]
  have hframe := (within_rxCompleted s r bufs.length (rxWrites s r w bufs) rest).append hreturn
  have hhost : (returnBuf (rxCompleted s r bufs.length (rxWrites s r w bufs) rest) 1 w.buf).host =
      (rxCompleted s r bufs.length (rxWrites s r w bufs) rest).host := hreturn.1 .host (by decide)
  have hdoneHost : (completeDescs (sentOut s (rxWrites s r w bufs)) false r bufs.length).host = s.host := hdone.1 .host (by decide)
  have hix : ringIx (returnBuf (rxCompleted s r bufs.length (rxWrites s r w bufs) rest) 1 w.buf) r = ringIx s r :=
    ringIx_of_image (hframe.1 .image (by decide)) r
  have hput (u : State) (l : List RxWait) (q : RegRow) : word (bump (putRxWaits u r l) Ctr.hostRx (ringIx s r) 0 1) q (ringIx s r) =
    word u q (ringIx s r) := rfl
  refine ⟨hframe.mono (by decide) (by simp), ⟨?_, fun q hq => ?_⟩, ?_, ?_, ?_, ?_⟩
  · rw [rxWaits, hhost]
    exact rxWaits_putRxWaits_same _ r rest
  · rw [rxWaits, hhost]
    refine (rxWaits_putRxWaits_other hq _ rest).trans ?_
    rw [rxWaits, hdoneHost]
    rfl
  · rw [ringHead, hix, hreturn.2.rd_eq (by simp), rd, rxCompleted, hput]
    exact head_completeDescs (sentOut s (rxWrites s r w bufs)) false r bufs.length
  · rw [hreturn.2.word_eq (by simp), rxCompleted, hput]
    exact done_completeDescs (sentOut s (rxWrites s r w bufs)) false r bufs.length
  · have hsame : (returnBuf (rxCompleted s r bufs.length (rxWrites s r w bufs) rest) 1 w.buf).regs.counters =
        (rxCompleted s r bufs.length (rxWrites s r w bufs) rest).regs.counters := hreturn.1 .counters (by decide)
    have hdoneCtr : (completeDescs (sentOut s (rxWrites s r w bufs)) false r bufs.length).regs.counters = s.regs.counters :=
      hdone.1 .counters (by decide)
    have hbump (u : State) (l : List RxWait) : (bump (putRxWaits u r l) Ctr.hostRx (ringIx s r) 0 1).regs.counters =
      (bump u Ctr.hostRx (ringIx s r) 0 1).regs.counters := rfl
    rw [hsame, rxCompleted, hbump, bump, bump, ctr, ctr, hdoneCtr]
  · have hsame : (returnBuf (rxCompleted s r bufs.length (rxWrites s r w bufs) rest) 1 w.buf).out =
        (rxCompleted s r bufs.length (rxWrites s r w bufs) rest).out := hreturn.1 .out (by decide)
    have hdoneOut : (completeDescs (sentOut s (rxWrites s r w bufs)) false r bufs.length).out = rxWrites s r w bufs ++ s.out :=
      hdone.1 .out (by decide)
    exact hsame.trans hdoneOut

/-- The completion of a frame's descriptors. -/
theorem txCompleted_facts {x : TxPending} {rest : List TxPending} {st : Nat} {z : Option Stamp} :
    Within [.out, .inForce, .host, .counters] [Reg.hostTxStat.addr (ringIx s r), Reg.hostTxDoneCnt.addr (ringIx s r)] s
        (completeTx s r x rest st z) ∧
      txWaits (completeTx s r x rest st z) r = rest ∧
      ringHead (completeTx s r x rest st z) true r = (ringHead s true r + x.descs) % 65536 ∧
      word (completeTx s r x rest st z) Reg.hostTxDoneCnt (ringIx s r) = word s Reg.hostTxDoneCnt (ringIx s r) + 1 ∧
      (completeTx s r x rest st z).out = txWrites s r x st z ++ s.out ∧
      (completeTx s r x rest st z).regs.counters =
        if st = 0 ∨ st = 5 then (bump s Ctr.hostTx (ringIx s r) 0 1).regs.counters else s.regs.counters := by
  have hcompleted := within_txCompleted s r x.descs (txWrites s r x st z) rest
  have hdone := within_completeDescs (sentOut s (txWrites s r x st z)) true r x.descs
  have hcounters : (txCompleted s r x.descs (txWrites s r x st z) rest).regs.counters = s.regs.counters :=
    hcompleted.1 .counters (by decide)
  have hout : (txCompleted s r x.descs (txWrites s r x st z) rest).out = txWrites s r x st z ++ s.out :=
    hdone.1 .out (by decide)
  have hix : ringIx (txCompleted s r x.descs (txWrites s r x st z) rest) r = ringIx s r :=
    ringIx_of_image (hcompleted.1 .image (by decide)) r
  have hput (u : State) (l : List TxPending) (q : RegRow) : word (putTxWaits u r l) q (ringIx s r) = word u q (ringIx s r) := rfl
  have hhead : ringHead (txCompleted s r x.descs (txWrites s r x st z) rest) true r = (ringHead s true r + x.descs) % 65536 := by
    rw [ringHead, hix, rd, txCompleted, hput]
    exact head_completeDescs (sentOut s (txWrites s r x st z)) true r x.descs
  have hcnt : word (txCompleted s r x.descs (txWrites s r x st z) rest) Reg.hostTxDoneCnt (ringIx s r) =
      word s Reg.hostTxDoneCnt (ringIx s r) + 1 := by
    rw [txCompleted, hput]
    exact done_completeDescs (sentOut s (txWrites s r x st z)) true r x.descs
  have hwaits : txWaits (txCompleted s r x.descs (txWrites s r x st z) rest) r = rest := txWaits_putTxWaits_same _ _ _
  rw [completeTx_eq]
  by_cases h : st = 0 ∨ st = 5
  · rw [if_pos h, if_pos h]
    refine ⟨(hcompleted.append (within_bump _ _ _ 0 1)).mono (by decide) (by simp), hwaits, hhead, hcnt, hout, ?_⟩
    rw [bump, bump, ctr, ctr, hcounters]
  · rw [if_neg h, if_neg h]
    exact ⟨hcompleted.mono (by decide) fun _ h => h, hwaits, hhead, hcnt, hout, hcounters⟩

/-- The buffer of a frame that is discarded as it leaves its wait list returns. -/
theorem rxDiscarded_facts {l : List RxWait} {i : Nat} :
    Within [.host, .counters, .bpm] [] now (returnBuf (countRx (putRxWaits now r l) r 1) 1 i) ∧
      rxWaits (returnBuf (countRx (putRxWaits now r l) r 1) 1 i) r = l ∧
      (returnBuf (countRx (putRxWaits now r l) r 1) 1 i).regs.counters = (bump now Ctr.hostRx (ringIx now r) 1 1).regs.counters := by
  have hreturn := within_returnBuf (countRx (putRxWaits now r l) r 1) (n := 1) (by decide) i
  have hcount : Within [.counters] [] (putRxWaits now r l) (countRx (putRxWaits now r l) r 1) := within_bump _ _ _ 1 1
  have hhost : (returnBuf (countRx (putRxWaits now r l) r 1) 1 i).host = (countRx (putRxWaits now r l) r 1).host :=
    hreturn.1 .host (by decide)
  refine ⟨((within_putRxWaits now r l).append hcount).append hreturn, ?_, hreturn.1 .counters (by decide)⟩
  rw [rxWaits, hhost]
  exact rxWaits_putRxWaits_same _ r l

end

/-- Settles O45: each request takes its tag, and what it does to its ring is one state with the descriptors that it writes. -/
theorem framesPassTheRings : Obligations.FramesPassTheRings := by
  refine ⟨?_, ?_, ?_, ?_, ?_, ?_, ?_, ?_, ?_, ?_⟩
  · intro s r el bufs w rest n now hnow htag hup hon hwaits hwhole hneeds hroom hlen
    subst hlen
    have hexec : exec (.rxFrameDeliver r el bufs) s = done (deliver (tagTaken now) r w bufs) := by
      rw [exec_rxFrameDeliver hnow htag hup hon hwaits hneeds hroom, readHead, hwhole]
      rfl
    obtain ⟨hframe, ⟨hrest, hothers⟩, hhead, hdone, hcounters, hout⟩ := deliver_facts (s := tagTaken now) (bufs := bufs) hwaits
    have hwithin := (within_tagTaken now).append hframe
    refine doesFrom_of_all hexec (hwithin.1.mono (by decide)) ⟨hrest, hothers, hhead, hdone, ?_, ?_, ?_, fun hpos => ?_, hwithin.2⟩
      fun _ _ h => h
    · rw [ctr, hcounters]
      exact ctr_bump_same (s := tagTaken now)
    · intro a ha
      rw [hcounters]
      exact countersBut_bump (s := tagTaken now) (List.mem_singleton_self _) a ha
    · rw [hout, List.length_append, length_rxWrites, Nat.add_comm]
      rfl
    · have hfirst : rxPiece (tagTaken now) r w 0 = w.bytes.take (max 1 (rd now Reg.hostRxCfg (ringIx now r) 6 0) * 256) := by
        rw [rxPiece, Nat.zero_mul, List.drop_zero]
        rfl
      rw [hout, head_rxWrites hpos, rxDescWrite, hfirst]
      rfl
  · intro s r i el w now hnow hw hlate
    obtain ⟨hframe, hrest, hcounters⟩ := rxDiscarded_facts (now := now) (r := r) (l := (rxWaits now r).eraseIdx i) (i := w.buf)
    refine doesFrom_of_all (exec_rxTimeout hnow hw hlate) hframe.1 ⟨hrest, ?_, ?_⟩ fun _ _ h => h
    · rw [ctr, hcounters]
      exact ctr_bump_same
    · intro a ha
      rw [hcounters]
      exact countersBut_bump (s := now) (List.mem_singleton_self _) a ha
  · intro s r el chain now hnow htag hup hforwards hmode hchain hposted hstatus hquiet
    have hexec : exec (.txFrameFetch r el chain) s = done (askDram (txJoined (tagTaken now) r chain) 2 0 (.hostTx r)) := by
      rw [exec_txFrameFetch hnow htag hup hforwards hmode hchain hposted, fetchFrame_eq (s := tagTaken now) hquiet, if_pos hstatus]
    have hask := within_askDram (txJoined (tagTaken now) r chain) 2 0 (.hostTx r)
    have hframe := ((within_tagTaken now).append (within_putTxWaits (tagTaken now) r _)).append hask
    refine doesFrom_of_all hexec (hframe.1.mono (by decide)) ⟨?_, mem_askDram _ _ _ _⟩ fun _ _ h => h
    have hhost : (askDram (txJoined (tagTaken now) r chain) 2 0 (.hostTx r)).host = (txJoined (tagTaken now) r chain).host :=
      hask.1 .host (by decide)
    have hfetched : fetched chain = ⟨chain.length, none, 0, chain.getLast?.any (·.tsReq), none, padTo 60 (chainBytes chain),
        (chain.head?.filter (·.direct)).map fun d => (d.port, d.cls % 8)⟩ := by
      rw [fetched, if_pos hstatus, hstatus]
    rw [txWaits, hhost, ← hfetched]
    exact txWaits_putTxWaits_same (tagTaken now) r _
  · intro s r el chain now hnow htag hup hforwards hmode hchain hposted hstatus hquiet
    have hexec : exec (.txFrameFetch r el chain) s = done (txFaulty (tagTaken now) r chain) := by
      rw [exec_txFrameFetch hnow htag hup hforwards hmode hchain hposted, fetchFrame_eq (s := tagTaken now) hquiet,
        if_neg (by omega), if_neg (by omega)]
    have hframe := (within_tagTaken now).append (within_txFaulty (tagTaken now) r chain)
    exact doesFrom_of_all hexec (hframe.1.mono (by decide)) ⟨rfl, status_txFaulty _ _ _, ctr_bump_same (s := txJoined (tagTaken now) r chain),
      countersBut_bump (s := txJoined (tagTaken now) r chain) (List.mem_singleton_self _)⟩ fun _ _ h => h
  · intro s r el chain now hnow htag hup hforwards hmode hchain hposted hstatus hquiet
    have hexec : exec (.txFrameFetch r el chain) s = done (ringStopped (txFaulty (tagTaken now) r chain) r (chainStatus chain)) := by
      rw [exec_txFrameFetch hnow htag hup hforwards hmode hchain hposted, fetchFrame_eq (s := tagTaken now) hquiet,
        if_neg (by omega), if_pos hstatus]
    have hstop := within_ringStopped (txFaulty (tagTaken now) r chain) r (chainStatus chain)
    have hframe := ((within_tagTaken now).append (within_txFaulty (tagTaken now) r chain)).append hstop
    have hix : ringIx (ringStopped (txFaulty (tagTaken now) r chain) r (chainStatus chain)) r = ringIx now r :=
      ringIx_of_image (hframe.1 .image (by decide)) r
    have hbpm : (ringStopped (txFaulty (tagTaken now) r chain) r (chainStatus chain)).bpm = (txFaulty (tagTaken now) r chain).bpm :=
      hstop.1 .bpm (by decide)
    have hhost : (ringStopped (txFaulty (tagTaken now) r chain) r (chainStatus chain)).host = (txFaulty (tagTaken now) r chain).host :=
      hstop.1 .host (by decide)
    have hfaulty : ringIx (txFaulty (tagTaken now) r chain) r = ringIx now r := rfl
    refine doesFrom_of_all hexec (hframe.1.mono (by decide)) ⟨hbpm, ?_, ?_, ?_, hframe.2⟩ fun _ _ h => h
    · rw [ringMode, hix]
      show rd (ringStopped (txFaulty (tagTaken now) r chain) r (chainStatus chain)) Reg.hostTxStat (ringIx now r) 31 30 = 2
      rw [ringStopped, hfaulty, rd_wr_above (by decide) (by decide) (by decide), rd_wr_same (by decide) (by decide)]
      rfl
    · rw [ringStopped, hfaulty, rd_wr_same (by decide) (by decide)]
      obtain h | h := hstatus <;> rw [h] <;> rfl
    · rw [txWaits, hhost]
      exact status_txFaulty _ _ _
  · intro s r x rest st z htag hup hwaits hout
    have hexec := exec_txCompletion htag hup hwaits hout
    obtain ⟨hframe, hrest, hhead, hdone, houts, hcounters⟩ := txCompleted_facts (s := tagTaken s) (r := r) (x := x) (rest := rest)
      (st := st) (z := z)
    have hwithin := (within_tagTaken s).append hframe
    have hbpm : (completeTx (tagTaken s) r x rest st z).bpm = (tagTaken s).bpm := hframe.1 .bpm (by decide)
    refine does_of_all hexec (hwithin.1.mono (by decide)) ⟨hbpm, hrest, hhead, hdone, houts, ?_, ?_, hwithin.2⟩ fun _ _ h => h
    · rw [ctr, hcounters]
      split
      · exact ctr_bump_same (s := tagTaken s)
      · rfl
    · intro a ha
      rw [hcounters]
      split
      · exact countersBut_bump (s := tagTaken s) (List.mem_singleton_self _) a ha
      · rfl
  · intro s r el bufs now hnow htag
    exact doesFrom_nothing (exec_rxFrameDeliver_full hnow htag)
  · intro s r el chain now hnow htag
    exact doesFrom_nothing (exec_txFrameFetch_full hnow htag)
  · intro s r htag
    exact doesFrom_nothing (exec_txCompletion_full htag)
  · intro s r el bufs w rest now hnow htag hup hon hwaits hspoiled hneeds hroom
    have hdrop : (rxWaits (tagTaken now) r).drop 1 = rest := by
      rw [show rxWaits (tagTaken now) r = w :: rest from hwaits]
      rfl
    have hexec : exec (.rxFrameDeliver r el bufs) s = done (returnBuf (putRxWaits (tagTaken now) r rest) 1 w.buf) := by
      rw [exec_rxFrameDeliver hnow htag hup hon hwaits hneeds hroom, readHead, hspoiled, hdrop]
      rfl
    have hreturn := within_returnBuf (putRxWaits (tagTaken now) r rest) (n := 1) (by decide) w.buf
    have hframe := ((within_tagTaken now).append (within_putRxWaits (tagTaken now) r rest)).append hreturn
    refine doesFrom_of_all hexec (hframe.1.mono (by decide)) ?_ fun _ _ h => h
    rw [rxWaits, show (returnBuf (putRxWaits (tagTaken now) r rest) 1 w.buf).host = (putRxWaits (tagTaken now) r rest).host from
      hreturn.1 .host (by decide)]
    exact rxWaits_putRxWaits_same _ _ _

end Sys2Proof.Machine

/-! PROOFS. The ends of the staging lock and of a region replacement (R53, R485). -/
namespace Sys2Proof.Machine

section
variable {s : State} {v c : Nat}

/-! ### The staging lock ends -/

/-- The words that the end of the staging lock writes. -/
def stagingRegs : List Nat :=
  [Reg.imgStageHolder.addr [], Reg.imgStageUidLo.addr [], Reg.imgStageUidHi.addr [], Reg.imgStageStat.addr [], Reg.imgStageCmd.addr []]

/-- What is staged, discarded but for the bundle that VERIFY has read. -/
def stagingEnded (s : State) : State :=
  { s with img := { s.img with staging := { Staging.free with bundle := s.img.staging.bundle } } }

theorem endStaging_eq (s : State) :
    endStaging s = wrBit (wr (putWord (putWord (putWord (stagingEnded s) Reg.imgStageHolder [] 0x7F) Reg.imgStageUidLo [] 0)
      Reg.imgStageUidHi [] 0) Reg.imgStageStat [] 31 29 0) Reg.imgStageCmd [] 30 false := rfl

theorem within_endStaging (s : State) : Within [.inForce, .img] stagingRegs s (endStaging s) :=
  ((((((within_of_img s _).append (within_putWord (stagingEnded s) _ _ _)).append (within_putWord _ _ _ _)).append
    (within_putWord _ _ _ _)).append (within_wr _ _ _ _ _ _)).append (within_wrBit _ _ _ _ _)).mono (by decide) fun _ h => by
      simpa [stagingRegs] using h

theorem img_endStaging (s : State) :
    (endStaging s).img = { s.img with staging := { Staging.free with bundle := s.img.staging.bundle } } := by
  rw [endStaging_eq, wrBit_img, wr_img, putWord_img, putWord_img, putWord_img, stagingEnded]

theorem stageState_endStaging (s : State) : stageState (endStaging s) = 0 := by
  rw [stageState, endStaging_eq, rd, word_wrBit_other (by decide)]
  exact rd_wr_same (by decide) (by decide)

/-! ### A region replacement ends -/

/-- Nothing is under replacement. -/
def replCleared (s : State) : State := { s with img := { s.img with repl := ⟨none, [], none⟩ } }

/-- The words that the end of a replacement writes. -/
def replEndRegs : List Nat := Reg.imgSiReplStat.addr [] :: stagingRegs

theorem clearRepl_eq (s : State) (v : Nat) :
    clearRepl s v = if rd (replCleared (wr s Reg.imgSiReplStat [] 3 0 v)) Reg.imgUpdStat [] 31 28 = 3 then
      replCleared (wr s Reg.imgSiReplStat [] 3 0 v) else endStaging (replCleared (wr s Reg.imgSiReplStat [] 3 0 v)) := rfl

theorem within_replCleared (s : State) (v : Nat) :
    Within [.inForce, .img] [Reg.imgSiReplStat.addr []] s (replCleared (wr s Reg.imgSiReplStat [] 3 0 v)) :=
  ((within_wr s _ _ 3 0 v).append (within_of_img _ _)).mono (by decide) (by simp)

theorem within_clearRepl (s : State) (v : Nat) : Within [.inForce, .img] replEndRegs s (clearRepl s v) := by
  rw [clearRepl_eq]
  refine Within.ite ((within_replCleared s v).mono (by decide) (by simp [replEndRegs])) ?_
  exact ((within_replCleared s v).append (within_endStaging _)).mono (by decide) (by simp [replEndRegs])

theorem clearRepl_staged (h : updStep s ≠ 3) (v : Nat) :
    clearRepl s v = endStaging (replCleared (wr s Reg.imgSiReplStat [] 3 0 v)) := by
  have hstep : rd (replCleared (wr s Reg.imgSiReplStat [] 3 0 v)) Reg.imgUpdStat [] 31 28 = updStep s :=
    (within_replCleared s v).2.rd_eq (by decide)
  rw [clearRepl_eq, hstep, if_neg h]

theorem img_clearRepl (h : updStep s ≠ 3) (v : Nat) :
    (clearRepl s v).img = { s.img with
      repl := ⟨none, [], none⟩, staging := { Staging.free with bundle := s.img.staging.bundle } } := by
  rw [clearRepl_staged h, img_endStaging, replCleared, wr_img]

theorem word_clearRepl_replStat (s : State) (v : Nat) :
    word (clearRepl s v) Reg.imgSiReplStat [] = setFld (word s Reg.imgSiReplStat []) 3 0 v := by
  have hcleared : word (replCleared (wr s Reg.imgSiReplStat [] 3 0 v)) Reg.imgSiReplStat [] =
      setFld (word s Reg.imgSiReplStat []) 3 0 v := word_wr_same
  rw [clearRepl_eq]
  split
  · exact hcleared
  · exact ((within_endStaging _).2.word_eq (by decide)).trans hcleared

theorem replState_clearRepl (hv : v < 16) : replState (clearRepl s v) = v := by
  rw [replState, rd, word_clearRepl_replStat]
  exact (fld_setFld_same (by decide) (by decide)).trans (Nat.mod_eq_of_lt hv)

/-! ### A region replacement is refused or aborted -/

/-- The code of an end is shown, and counted. -/
def replNoted (s : State) (c : Nat) : State := wr (countEvent s Reg.imgSiRefuseCnt []) Reg.imgSiReplStat [] 15 8 c

theorem endRepl_eq (s : State) (v c : Nat) : endRepl s v c = clearRepl (replNoted s c) v := rfl

theorem refuseSecond_eq (s : State) (c : Nat) : refuseSecond s c = replNoted s c := rfl

theorem within_replNoted (s : State) (c : Nat) :
    Within [.inForce] [Reg.imgSiRefuseCnt.addr [], Reg.imgSiReplStat.addr []] s (replNoted s c) :=
  ((within_countEvent s _ _).append (within_wr _ _ _ 15 8 c)).mono (by decide) (by simp)

theorem img_replNoted : (replNoted s c).img = s.img := by rw [replNoted, wr_img, countEvent_img]

theorem refused_replNoted : word (replNoted s c) Reg.imgSiRefuseCnt [] = word s Reg.imgSiRefuseCnt [] + 1 :=
  (word_wr_other (by decide)).trans word_countEvent_same

theorem code_replNoted : rd (replNoted s c) Reg.imgSiReplStat [] 15 8 = c % 256 := rd_wr_same (by decide) (by decide)

theorem replState_replNoted : replState (replNoted s c) = replState s :=
  (rd_wr_below (by decide) (by decide) (by decide)).trans ((within_countEvent s _ _).2.rd_eq (by decide))

theorem updStep_replNoted : updStep (replNoted s c) = updStep s := (within_replNoted s c).2.rd_eq (by decide)

theorem within_endRepl (s : State) (v c : Nat) :
    Within [.inForce, .img] (Reg.imgSiRefuseCnt.addr [] :: replEndRegs) s (endRepl s v c) :=
  ((within_replNoted s c).append (within_clearRepl (replNoted s c) v)).mono (by decide) (by simp [replEndRegs])

theorem img_endRepl (h : updStep s ≠ 3) (v c : Nat) :
    (endRepl s v c).img = { s.img with
      repl := ⟨none, [], none⟩, staging := { Staging.free with bundle := s.img.staging.bundle } } := by
  rw [endRepl_eq, img_clearRepl (by rwa [updStep_replNoted]), img_replNoted]

theorem replState_endRepl (hv : v < 16) : replState (endRepl s v c) = v := replState_clearRepl hv

theorem code_endRepl : rd (endRepl s v c) Reg.imgSiReplStat [] 15 8 = c % 256 := by
  rw [endRepl_eq, rd, word_clearRepl_replStat, fld_setFld_above (by decide) (by decide) (by decide)]
  exact code_replNoted

theorem refused_endRepl : word (endRepl s v c) Reg.imgSiRefuseCnt [] = word s Reg.imgSiRefuseCnt [] + 1 :=
  ((within_clearRepl (replNoted s c) v).2.word_eq (by decide)).trans refused_replNoted

end

end Sys2Proof.Machine

/-! PROOFS. The staging lock is taken, and bytes of a partial container land (R485, R486). -/
namespace Sys2Proof.Machine

section
variable {s u : State}

/-! ### The lock is taken -/

/-- The lock has its holder, and nothing is staged. -/
def lockTaken (s : State) (src : StageSrc) : State :=
  { s with img := { s.img with staging := { Staging.free with holder := some src, lastAt := s.time.dt } } }

theorem takeLock_eq (s : State) (src : StageSrc) (kind : Nat) :
    takeLock s src kind =
      putWord (putWord (putWord (putWord (lockTaken s src) Reg.imgStageHolder []
        (BitVec.ofNat 32 ((holderId s src).1 * 2 ^ 30 + (holderId s src).2.1)))
          Reg.imgStageUidLo [] (BitVec.ofNat 32 (holderId s src).2.2.toNat))
          Reg.imgStageUidHi [] (BitVec.ofNat 32 ((holderId s src).2.2.toNat / 2 ^ 32)))
        Reg.imgStageStat [] (BitVec.ofNat 32 (2 ^ 29 + kind * 2 ^ 26)) := rfl

/-- The words that a taken lock writes. -/
def lockRegs : List Nat :=
  [Reg.imgStageHolder.addr [], Reg.imgStageUidLo.addr [], Reg.imgStageUidHi.addr [], Reg.imgStageStat.addr []]

theorem within_takeLock (s : State) (src : StageSrc) (kind : Nat) : Within [.inForce, .img] lockRegs s (takeLock s src kind) := by
  rw [takeLock_eq]
  exact (((((within_of_img s _).append (within_putWord (lockTaken s src) _ _ _)).append (within_putWord _ _ _ _)).append
    (within_putWord _ _ _ _)).append (within_putWord _ _ _ _)).mono (by decide) fun _ h => by simpa [lockRegs] using h

theorem img_takeLock (s : State) (src : StageSrc) (kind : Nat) :
    (takeLock s src kind).img = { s.img with staging := { Staging.free with holder := some src, lastAt := s.time.dt } } := by
  rw [takeLock_eq, putWord_img, putWord_img, putWord_img, putWord_img, lockTaken]

theorem stageStat_takeLock (s : State) (src : StageSrc) (kind : Nat) :
    word (takeLock s src kind) Reg.imgStageStat [] = BitVec.ofNat 32 (2 ^ 29 + kind * 2 ^ 26) := by
  rw [takeLock_eq]
  exact word_putWord_same

theorem stageState_takeLock (s : State) (src : StageSrc) (kind : Bool) : stageState (takeLock s src (bnat kind)) = 1 := by
  rw [stageState, rd, stageStat_takeLock]
  cases kind <;> rfl

theorem stageKind_takeLock (s : State) (src : StageSrc) (kind : Bool) : stageKind (takeLock s src (bnat kind)) = bnat kind := by
  rw [stageKind, rd, stageStat_takeLock]
  cases kind <;> rfl

theorem uidLo_takeLock (s : State) (src : StageSrc) (kind : Nat) :
    word (takeLock s src kind) Reg.imgStageUidLo [] = BitVec.ofNat 32 (holderId s src).2.2.toNat := by
  rw [takeLock_eq, word_putWord_other (by decide), word_putWord_other (by decide)]
  exact word_putWord_same

/-! ### Bytes land in staging -/

/-- Bytes lie in staging from `ofs` on. -/
def bytesLanded (s : State) (ofs : Nat) (data : List Byte) : State :=
  { s with img := { s.img with staging := { s.img.staging with
      bytes := Memory.writeList s.img.staging.bytes ofs data, top := max s.img.staging.top (ofs + data.length) } } }

theorem landStage_partial (hkind : stageKind s = 1) (ofs : Nat) (data : List Byte) : landStage s ofs data = bytesLanded s ofs data := by
  have hspoil : spoilBank s = s := if_neg fun h => by rw [hkind] at h; exact absurd h.1 (by decide)
  have hkind' : stageKind (bytesLanded s ofs data) ≠ 0 := fun h => absurd (hkind.symm.trans h) (by decide)
  rw [landStage, hspoil]
  exact if_neg fun h => hkind' h.1

theorem offline_of_regsBut {l : List Nat} (h : RegsBut l s u) (hl : Reg.obsRerunStat.addr [] ∉ l) : offline u = offline s := by
  unfold offline rerunState
  rw [h.rd_eq hl]

theorem readPartial_congr (hkey : u.img.custKey = s.img.custKey) (himage : u.image = s.image) (b : List Byte) :
    readPartial u b = readPartial s b := by
  unfold readPartial
  rw [hkey, himage]

/-! ### A replacement is checked -/

/-- The image that results stands under replacement. -/
def replPut (s : State) (x : Image) (ids : List Nat) : State :=
  { s with img := { s.img with repl := { container := some x, replaced := ids, switchAt := none } } }

theorem word_replPut (s : State) (x : Image) (ids : List Nat) (r : RegRow) (ix : List Nat) :
    word (replPut s x ids) r ix = word s r ix := rfl

/-- A partial container is VERIFIED, with what results. -/
def replVerified (s : State) (x : Image) (ids : List Nat) : State :=
  replPut (setStage (wr s Reg.imgSiReplStat [] 3 0 2) 3) x ids

theorem replChecked_ok (s : State) (x : Image) (ids : List Nat) : replChecked s (.ok (x, ids)) = replVerified s x ids := by
  unfold replChecked replVerified
  generalize setStage (wr s Reg.imgSiReplStat [] 3 0 2) 3 = u
  rfl

theorem within_replVerified (s : State) (x : Image) (ids : List Nat) :
    Within [.inForce, .img] [Reg.imgSiReplStat.addr [], Reg.imgStageStat.addr []] s (replVerified s x ids) :=
  (((within_wr s _ _ 3 0 2).append (within_wr _ _ _ 31 29 3)).append (within_of_img _ _)).mono (by decide) (by simp)

theorem img_replVerified (s : State) (x : Image) (ids : List Nat) :
    (replVerified s x ids).img = { s.img with repl := ⟨some x, ids, none⟩ } := by
  rw [replVerified, replPut, setStage, wr_img, wr_img]

theorem replState_replVerified (s : State) (x : Image) (ids : List Nat) : replState (replVerified s x ids) = 2 := by
  rw [replState, rd, replVerified, word_replPut, setStage, word_wr_other (by decide)]
  exact rd_wr_same (by decide) (by decide)

theorem stageState_replVerified (s : State) (x : Image) (ids : List Nat) : stageState (replVerified s x ids) = 3 := by
  rw [stageState, rd, replVerified, word_replPut, setStage]
  exact rd_wr_same (by decide) (by decide)

end

end Sys2Proof.Machine

/-! PROOFS. Region replacement (R49 to R53). -/
namespace Sys2Proof.Machine

section
variable {s : State} {req : Requester} {c : Nat} {x : Image} {ids : List Nat} {bytes : List Byte}

/-! ### VERIFY -/

theorem replCtrlWrite_verify (s : State) : replCtrlWrite s 1 = replVerify s := rfl

theorem replCtrlWrite_arm (s : State) : replCtrlWrite s 2 = if (replState s == 2) = true then armRepl s else s := rfl

theorem replCtrlWrite_abort (s : State) :
    replCtrlWrite s 4 = if (replState s == 2 || replState s == 3) = true then endRepl s 6 0 else s := rfl

theorem replCtrlWrite_ack (s : State) :
    replCtrlWrite s 8 = if (replState s == 4 || replState s == 5 || replState s == 6) = true then
      wr s Reg.imgSiReplStat [] 3 0 0 else s := rfl

theorem replVerify_staged (hstate : replState s = 1) :
    replVerify s = sendContainer (replChecked s (readPartial s (stagedBytes s))) (stagedBytes s) :=
  if_neg (not_not.2 hstate)

/-- A container that fails is REFUSED with its code. -/
def replRefused (s : State) (c : Nat) : State := endRepl (wr s Reg.imgStageStat [] 23 16 c) 5 c

theorem within_replRefused (s : State) (c : Nat) :
    Within [.inForce, .img] (Reg.imgSiRefuseCnt.addr [] :: replEndRegs) s (replRefused s c) :=
  ((within_wr s _ _ 23 16 c).append (within_endRepl _ 5 c)).mono (by decide) (by simp [replEndRegs, stagingRegs])

theorem replVerify_error (hstate : replState s = 1) (hread : readPartial s (stagedBytes s) = .error c) :
    replVerify s = replRefused s c := by
  have hrefused : replState (replRefused s c) ≠ 2 := by
    rw [replRefused, replState_endRepl (by decide)]; decide
  rw [replVerify_staged hstate, hread]
  exact if_neg fun h => hrefused h.1

theorem does_replVerify_error (hreach : Reaches s req (Reg.imgSiReplCtrl.addr [])) (hstate : replState s = 1)
    (hread : readPartial s (stagedBytes s) = .error c) (hstep : updStep s ≠ 3) :
    Does (.replVerify req) s [.inForce, .img] fun t =>
      replState t = 5 ∧ rd t Reg.imgSiReplStat [] 15 8 = c % 256 ∧
        word t Reg.imgSiRefuseCnt [] = word s Reg.imgSiRefuseCnt [] + 1 ∧ t.img = { s.img with
          repl := ⟨none, [], none⟩, staging := { Staging.free with bundle := s.img.staging.bundle } } := by
  have hexec : exec (.replVerify req) s = done (replRefused s c) :=
    congrArg done ((doorbell_of_reaches hreach 1 _).trans (replVerify_error hstate hread))
  have hshown := within_wr s Reg.imgStageStat [] 23 16 c
  have himg := img_endRepl (s := wr s Reg.imgStageStat [] 23 16 c) (by rwa [updStep, hshown.2.rd_eq (by decide)]) 5 c
  rw [wr_img] at himg
  exact does_of_all hexec (within_replRefused s c).1
    ⟨replState_endRepl (by decide), code_endRepl, refused_endRepl.trans (by rw [hshown.2.word_eq (by decide)]), himg⟩ fun _ _ h => h

/-- The ACTIVE unit of a pair sends what it has verified. -/
def containerSent (s : State) (x : Image) (ids : List Nat) : State :=
  if role s = 1 ∧ paired s = true ∧ offline s = false then
    emit (replVerified s x ids) (.twinContainer (stagedBytes s)) else replVerified s x ids

theorem replVerify_ok (hstate : replState s = 1) (hread : readPartial s (stagedBytes s) = .ok (x, ids)) :
    replVerify s = containerSent s x ids := by
  have hregs := (within_replVerified s x ids).2
  have hrole : role (replVerified s x ids) = role s := hregs.rd_eq (by decide)
  have hpaired : paired (replVerified s x ids) = paired s := hregs.rdBit_eq (by decide)
  have hoff : offline (replVerified s x ids) = offline s := offline_of_regsBut hregs (by decide)
  rw [replVerify_staged hstate, hread, replChecked_ok, sendContainer, replState_replVerified, hrole, hpaired, emitLine, hoff,
    containerSent]
  cases offline s <;> simp

theorem does_replVerify_ok (hreach : Reaches s req (Reg.imgSiReplCtrl.addr [])) (hstate : replState s = 1)
    (hread : readPartial s (stagedBytes s) = .ok (x, ids)) :
    Does (.replVerify req) s [.inForce, .img, .out] fun t =>
      t.out = (if role s = 1 ∧ paired s = true ∧ offline s = false then .twinContainer (stagedBytes s) :: s.out else s.out) ∧
      replState t = 2 ∧ stageState t = 3 ∧ t.img = { s.img with repl := ⟨some x, ids, none⟩ } ∧
        RegsBut [Reg.imgSiReplStat.addr [], Reg.imgStageStat.addr []] s t := by
  have hexec : exec (.replVerify req) s = done (containerSent s x ids) :=
    congrArg done ((doorbell_of_reaches hreach 1 _).trans (replVerify_ok hstate hread))
  have hverified := within_replVerified s x ids
  have hout : (replVerified s x ids).out = s.out := hverified.1 .out (by decide)
  have hsent := within_emit (replVerified s x ids) (.twinContainer (stagedBytes s))
  have hframe : Within [.inForce, .img, .out] [Reg.imgSiReplStat.addr [], Reg.imgStageStat.addr []] s (containerSent s x ids) :=
    Within.ite ((hverified.append hsent).mono (by decide) (by simp)) (hverified.mono (by decide) (by simp))
  have hfacts : replState (containerSent s x ids) = 2 ∧ stageState (containerSent s x ids) = 3 ∧
      (containerSent s x ids).img = { s.img with repl := ⟨some x, ids, none⟩ } := by
    have hrepl := replState_replVerified s x ids
    have hstage := stageState_replVerified s x ids
    have himg := img_replVerified s x ids
    rw [containerSent]
    split
    · exact ⟨(hsent.2.rd_eq (by decide)).trans hrepl, (hsent.2.rd_eq (by decide)).trans hstage, himg⟩
    · exact ⟨hrepl, hstage, himg⟩
  refine does_of_all hexec hframe.1 ⟨?_, hfacts.1, hfacts.2.1, hfacts.2.2, hframe.2⟩ fun _ _ h => h
  rw [containerSent]
  split
  · exact congrArg _ hout
  · exact hout

/-! ### ARM, ABORT and ACK -/

/-- The device cycle at which a replacement armed now switches. -/
def armedAt (s : State) : Nat := (cycleCount s + rd s Reg.imgSiReplLead [] 9 0) % 2 ^ 31

/-- The switch boundary is fixed. -/
def switchFixed (s : State) (k : Nat) : State := { s with img := { s.img with repl := { s.img.repl with switchAt := some k } } }

theorem word_switchFixed (s : State) (k : Nat) (r : RegRow) (ix : List Nat) : word (switchFixed s k) r ix = word s r ix := rfl

theorem img_switchFixed (s : State) (k : Nat) :
    (switchFixed s k).img = { s.img with repl := { s.img.repl with switchAt := some k } } := rfl

theorem armRepl_eq (s : State) : armRepl s = switchFixed (wr s Reg.imgSiReplStat [] 3 0 3) (armedAt s) := by
  have hcount : cycleCount (wr s Reg.imgSiReplStat [] 3 0 3) = cycleCount s := rd_wr_other (by decide)
  have hlead : rd (wr s Reg.imgSiReplStat [] 3 0 3) Reg.imgSiReplLead [] 9 0 = rd s Reg.imgSiReplLead [] 9 0 := rd_wr_other (by decide)
  have harm : armRepl s = switchFixed (wr s Reg.imgSiReplStat [] 3 0 3) (armedAt (wr s Reg.imgSiReplStat [] 3 0 3)) := rfl
  rw [harm, armedAt, hcount, hlead, armedAt]

/-- The replacement is ARMED. -/
def replArmed (s : State) : State := switchFixed (wr s Reg.imgSiReplStat [] 3 0 3) (armedAt s)

theorem within_replArmed (s : State) : Within [.inForce, .img] [Reg.imgSiReplStat.addr []] s (replArmed s) :=
  ((within_wr s Reg.imgSiReplStat [] 3 0 3).append (within_of_img _ _)).mono (by decide) (by simp)

theorem replState_replArmed (s : State) : replState (replArmed s) = 3 := by
  rw [replState, rd, replArmed, word_switchFixed]
  exact rd_wr_same (by decide) (by decide)

theorem img_replArmed (s : State) :
    (replArmed s).img = { s.img with repl := { s.img.repl with switchAt := some (armedAt s) } } := by
  rw [replArmed, img_switchFixed, wr_img]

theorem does_replArm (hreach : Reaches s req (Reg.imgSiReplCtrl.addr [])) (hstate : replState s = 2) :
    Does (.replArm req) s [.inForce, .img] fun t =>
      replState t = 3 ∧ RegsBut [Reg.imgSiReplStat.addr []] s t ∧ t.img = { s.img with repl := { s.img.repl with
        switchAt := some ((cycleCount s + rd s Reg.imgSiReplLead [] 9 0) % 2 ^ 31) } } := by
  have hexec : exec (.replArm req) s = done (replArmed s) := by
    have hwrite : replCtrlWrite s 2 = armRepl s := (replCtrlWrite_arm s).trans (if_pos (by rw [hstate]; decide))
    exact congrArg done ((doorbell_of_reaches hreach 2 _).trans (hwrite.trans (armRepl_eq s)))
  have himg := img_replArmed s
  rw [armedAt] at himg
  exact does_of_all hexec (within_replArmed s).1 ⟨replState_replArmed s, (within_replArmed s).2, himg⟩ fun _ _ h => h

theorem does_replAbort (hreach : Reaches s req (Reg.imgSiReplCtrl.addr [])) (hstate : replState s = 2 ∨ replState s = 3)
    (hstep : updStep s ≠ 3) :
    Does (.replAbort req) s [.inForce, .img] fun t =>
      replState t = 6 ∧ rd t Reg.imgSiReplStat [] 15 8 = 0 ∧ t.img.repl = ⟨none, [], none⟩ ∧ t.img.staging.holder = none := by
  have hexec : exec (.replAbort req) s = done (endRepl s 6 0) := by
    have hwrite : replCtrlWrite s 4 = endRepl s 6 0 := (replCtrlWrite_abort s).trans (if_pos (by simpa using hstate))
    exact congrArg done ((doorbell_of_reaches hreach 4 _).trans hwrite)
  exact does_of_all hexec (within_endRepl s 6 0).1
    ⟨replState_endRepl (by decide), code_endRepl, by rw [img_endRepl hstep], by rw [img_endRepl hstep]; rfl⟩ fun _ _ h => h

theorem does_replAck (hreach : Reaches s req (Reg.imgSiReplCtrl.addr []))
    (hstate : replState s = 4 ∨ replState s = 5 ∨ replState s = 6) :
    Does (.replAck req) s [.inForce] fun t => replState t = 0 ∧ RegsBut [Reg.imgSiReplStat.addr []] s t := by
  have hexec : exec (.replAck req) s = done (wr s Reg.imgSiReplStat [] 3 0 0) := by
    have hwrite : replCtrlWrite s 8 = wr s Reg.imgSiReplStat [] 3 0 0 :=
      (replCtrlWrite_ack s).trans (if_pos (by simpa [or_assoc] using hstate))
    exact congrArg done ((doorbell_of_reaches hreach 8 _).trans hwrite)
  have hframe := within_wr s Reg.imgSiReplStat [] 3 0 0
  exact does_of_all hexec hframe.1 ⟨rd_wr_same (by decide) (by decide), hframe.2⟩ fun _ _ h => h

/-! ### The switch boundary -/

/-- The new image runs. -/
def imageRuns (s : State) (x : Image) : State := putWord { s with image := x } Reg.imgSiRun [] x.ver

/-- The regions have switched, and the replacement is DONE. -/
def regionsSwitched (s : State) (x : Image) : State := clearRepl (imageRuns s x) 4

theorem within_imageRuns (s : State) (x : Image) : Within [.inForce, .image] [Reg.imgSiRun.addr []] s (imageRuns s x) :=
  ((within_of_image s x).append (within_putWord _ Reg.imgSiRun [] x.ver)).mono (by decide) (by simp)

theorem within_regionsSwitched (s : State) (x : Image) :
    Within [.inForce, .img, .image] (Reg.imgSiRun.addr [] :: replEndRegs) s (regionsSwitched s x) :=
  ((within_imageRuns s x).append (within_clearRepl _ 4)).mono (by decide) (by simp)

theorem switchRegions_eq (hstep : updStep s ≠ 3) (x : Image) : switchRegions s x = regionsSwitched s x := by
  have hkept : updStep (regionsSwitched s x) = updStep s := (within_regionsSwitched s x).2.rd_eq (by decide)
  exact if_neg (by rw [← hkept] at hstep; exact hstep)

theorem execReplSwitch_some (hx : s.img.repl.container = some x) (hdue : switchDue s = true) :
    execReplSwitch s =
      if (!queuesFree s x) = true then done (refuseSwitch s 0x0B)
      else if (!ballsFree s x) = true then done (refuseSwitch s 0x0C)
      else if paired s = true then
        if fld (freeWord s) 0 0 = 1 then done (switchRegions (spend s) x) else done (refuseSwitch (spend s) 0x0D)
      else done (switchRegions s x) := by
  rw [execReplSwitch, hx]
  exact if_neg (by rw [hdue]; decide)

theorem does_replSwitch (hx : s.img.repl.container = some x) (hdue : switchDue s = true) (hqueues : queuesFree s x = true)
    (hballs : ballsFree s x = true) (hpaired : paired s = false) (hstep : updStep s ≠ 3) :
    Does .replSwitch s [.inForce, .img, .image] fun t =>
      t.image = x ∧ word t Reg.imgSiRun [] = x.ver ∧ replState t = 4 ∧ t.img.repl = ⟨none, [], none⟩ := by
  have hexec : exec .replSwitch s = done (regionsSwitched s x) := by
    show execReplSwitch s = _
    rw [execReplSwitch_some hx hdue, hqueues, hballs, hpaired, switchRegions_eq hstep]
    rfl
  have hcleared := within_clearRepl (imageRuns s x) 4
  have himage : (imageRuns s x).image = x := rfl
  have hrun : word (imageRuns s x) Reg.imgSiRun [] = x.ver := word_putWord_same
  have hstep' : updStep (imageRuns s x) ≠ 3 := by rwa [updStep, (within_imageRuns s x).2.rd_eq (by decide)]
  refine does_of_all hexec (within_regionsSwitched s x).1 ⟨?_, ?_, replState_clearRepl (by decide), ?_⟩ fun _ _ h => h
  · exact (hcleared.1 .image (by decide)).trans himage
  · exact (hcleared.2.word_eq (by decide)).trans hrun
  · rw [regionsSwitched, img_clearRepl hstep']

theorem does_replSwitch_busy (hx : s.img.repl.container = some x) (hdue : switchDue s = true) (hqueues : queuesFree s x = false)
    (hnone : s.img.activation = none) :
    Does .replSwitch s [.inForce, .img] fun t =>
      replState t = 5 ∧ rd t Reg.imgSiReplStat [] 15 8 = 0x0B ∧
        word t Reg.imgSiRefuseCnt [] = word s Reg.imgSiRefuseCnt [] + 1 := by
  have hrefuse : refuseSwitch s 0x0B = endRepl s 5 0x0B := by rw [refuseSwitch, hnone]
  have hexec : exec .replSwitch s = done (endRepl s 5 0x0B) := by
    show execReplSwitch s = _
    rw [execReplSwitch_some hx hdue, hqueues, hrefuse]
    rfl
  exact does_of_all hexec (within_endRepl s 5 0x0B).1 ⟨replState_endRepl (by decide), code_endRepl, refused_endRepl⟩ fun _ _ h => h

/-! ### The container of a twin's ACTIVE unit -/

theorem execReplContainer_standby (hoff : offline s = false) (hrole : role s = 2) (hpaired : paired s = true)
    (bytes : List Byte) :
    execReplContainerToStandby bytes s =
      if replBusy s = true then done (emit (refuseSecond s 0x0A) (.twinAnswer false))
      else if (claim s .twinPeer 1).2 ≠ 0 then
        done (emit (if replState (refuseSecond (claim s .twinPeer 1).1 0x0D) = 1 then refuseSecond (claim s .twinPeer 1).1 0x0D
          else wr (refuseSecond (claim s .twinPeer 1).1 0x0D) Reg.imgSiReplStat [] 3 0 5) (.twinAnswer false))
      else
        done (emit (standbyCheck (endStaged (landStage (claim s .twinPeer 1).1 0 bytes)).1)
          (.twinAnswer (replState (standbyCheck (endStaged (landStage (claim s .twinPeer 1).1 0 bytes)).1) == 3))) :=
  if_neg fun h => by
    rcases h with h | h | h
    · exact h hrole
    · rw [hpaired] at h; contradiction
    · rw [hoff] at h; contradiction

theorem does_replContainer_busy (hoff : offline s = false) (hrole : role s = 2) (hpaired : paired s = true)
    (hstate : replState s = 2 ∨ replState s = 3) (bytes : List Byte) :
    Does (.replContainerToStandby bytes) s [.inForce, .out] fun t =>
      t.out = .twinAnswer false :: s.out ∧
      replState t = replState s ∧ rd t Reg.imgSiReplStat [] 15 8 = 0x0A ∧
        word t Reg.imgSiRefuseCnt [] = word s Reg.imgSiRefuseCnt [] + 1 := by
  have hbusy : replBusy s = true := by simpa [replBusy] using hstate
  have hexec : exec (.replContainerToStandby bytes) s = done (emit (replNoted s 0x0A) (.twinAnswer false)) := by
    show execReplContainerToStandby bytes s = _
    rw [execReplContainer_standby hoff hrole hpaired, if_pos hbusy, refuseSecond_eq]
  have hnoted := within_replNoted s 0x0A
  have hsent := within_emit (replNoted s 0x0A) (.twinAnswer false)
  have hout : (replNoted s 0x0A).out = s.out := hnoted.1 .out (by decide)
  refine does_of_all hexec ((hnoted.append hsent).1.mono (by decide)) ⟨congrArg _ hout, ?_, ?_, ?_⟩ fun _ _ h => h
  · exact (hsent.2.rd_eq (by decide)).trans replState_replNoted
  · exact (hsent.2.rd_eq (by decide)).trans code_replNoted
  · exact (hsent.2.word_eq (by decide)).trans refused_replNoted

/-- The STANDBY has the container under its own lock. -/
def containerHeld (s : State) (bytes : List Byte) : State := bytesLanded (takeLock s .twinPeer 1) 0 bytes

/-- The container is STAGED, and so is its replacement. -/
def containerStaged (s : State) (bytes : List Byte) : State :=
  wr (setStage (containerHeld s bytes) 2) Reg.imgSiReplStat [] 3 0 1

/-- The STANDBY waits for the boundary. -/
def standbyArmed (s : State) (bytes : List Byte) (x : Image) (ids : List Nat) : State :=
  wr (replVerified (containerStaged s bytes) x ids) Reg.imgSiReplStat [] 3 0 3

theorem within_containerHeld (s : State) (bytes : List Byte) : Within [.inForce, .img] lockRegs s (containerHeld s bytes) :=
  ((within_takeLock s .twinPeer 1).append (within_of_img _ _)).mono (by decide) (by simp)

theorem within_containerStaged (s : State) (bytes : List Byte) :
    Within [.inForce, .img] (Reg.imgSiReplStat.addr [] :: lockRegs) s (containerStaged s bytes) :=
  (((within_containerHeld s bytes).append (within_wr _ _ _ 31 29 2)).append (within_wr _ _ _ 3 0 1)).mono (by decide)
    (by simp [lockRegs])

theorem within_standbyArmed (s : State) (bytes : List Byte) (x : Image) (ids : List Nat) :
    Within [.inForce, .img] (Reg.imgSiReplStat.addr [] :: lockRegs) s (standbyArmed s bytes x ids) :=
  (((within_containerStaged s bytes).append (within_replVerified _ x ids)).append (within_wr _ _ _ 3 0 3)).mono (by decide)
    (by simp [lockRegs])

theorem img_containerStaged (s : State) (bytes : List Byte) :
    (containerStaged s bytes).img = { s.img with staging := { Staging.free with
      holder := some .twinPeer, lastAt := s.time.dt, bytes := Memory.writeList [] 0 bytes, top := bytes.length } } := by
  have hlanded (u : State) : (bytesLanded u 0 bytes).img = { u.img with staging := { u.img.staging with
      bytes := Memory.writeList u.img.staging.bytes 0 bytes, top := max u.img.staging.top (0 + bytes.length) } } := rfl
  rw [containerStaged, setStage, wr_img, wr_img, containerHeld, hlanded, img_takeLock]
  simp [Staging.free]

theorem stagedBytes_containerStaged (s : State) (bytes : List Byte) : stagedBytes (containerStaged s bytes) = bytes := by
  rw [stagedBytes, img_containerStaged]
  exact Memory.readList_writeList [] 0 bytes

theorem claim_twinPeer (hfree : s.img.staging.holder = none) : claim s .twinPeer 1 = (takeLock s .twinPeer 1, 0) := by
  have hstage : mayStage s .twinPeer = true := rfl
  rw [claim, hfree, hstage]
  rfl

theorem endStaged_container (hstate2 : replState s ≠ 2) (hstate3 : replState s ≠ 3) (bytes : List Byte) :
    (endStaged (containerHeld s bytes)).1 = containerStaged s bytes := by
  have hstage : stageState (containerHeld s bytes) = 1 := stageState_takeLock s .twinPeer true
  have hkind : stageKind (setStage (containerHeld s bytes) 2) = 1 :=
    (rd_wr_below (by decide) (by decide) (by decide)).trans (stageKind_takeLock s .twinPeer true)
  have hrepl : replState (setStage (containerHeld s bytes) 2) = replState s :=
    ((within_containerHeld s bytes).append (within_wr _ Reg.imgStageStat [] 31 29 2)).2.rd_eq (by decide)
  have hidle : replBusy (setStage (containerHeld s bytes) 2) = false := by
    rw [replBusy, hrepl]; simp [hstate2, hstate3]
  rw [endStaged, if_neg (not_not.2 hstage)]
  exact if_pos ⟨hkind, hidle⟩

theorem standbyCheck_ok (hread : readPartial s bytes = .ok (x, ids)) :
    standbyCheck (containerStaged s bytes) = standbyArmed s bytes x ids := by
  have himage : (containerStaged s bytes).image = s.image := (within_containerStaged s bytes).1 .image (by decide)
  have hcheck : readPartial (containerStaged s bytes) (stagedBytes (containerStaged s bytes)) = .ok (x, ids) := by
    rw [stagedBytes_containerStaged, readPartial_congr (by rw [img_containerStaged]) himage, hread]
  rw [standbyCheck, hcheck]
  exact congrArg (wr · Reg.imgSiReplStat [] 3 0 3) (replChecked_ok _ x ids)

theorem replState_standbyArmed (s : State) (bytes : List Byte) (x : Image) (ids : List Nat) :
    replState (standbyArmed s bytes x ids) = 3 := rd_wr_same (by decide) (by decide)

theorem does_replContainer_taken (hoff : offline s = false) (hrole : role s = 2) (hpaired : paired s = true)
    (hstate2 : replState s ≠ 2) (hstate3 : replState s ≠ 3) (hfree : s.img.staging.holder = none)
    (hread : readPartial s bytes = .ok (x, ids)) :
    Does (.replContainerToStandby bytes) s [.inForce, .img, .out] fun t =>
      t.out = .twinAnswer true :: s.out ∧ replState t = 3 ∧ t.img.repl = ⟨some x, ids, none⟩ ∧
        t.img.staging.holder = some .twinPeer := by
  have hidle : ¬ replBusy s = true := by simp [replBusy, hstate2, hstate3]
  have hland : landStage (takeLock s .twinPeer 1) 0 bytes = containerHeld s bytes :=
    landStage_partial (stageKind_takeLock s .twinPeer true) 0 bytes
  have harmed := replState_standbyArmed s bytes x ids
  have hexec : exec (.replContainerToStandby bytes) s = done (emit (standbyArmed s bytes x ids) (.twinAnswer true)) := by
    show execReplContainerToStandby bytes s = _
    rw [execReplContainer_standby hoff hrole hpaired, if_neg hidle, claim_twinPeer hfree, hland,
      endStaged_container hstate2 hstate3, standbyCheck_ok hread, harmed]
    rfl
  have hframe := within_standbyArmed s bytes x ids
  have hsent := within_emit (standbyArmed s bytes x ids) (.twinAnswer true)
  have hout : (standbyArmed s bytes x ids).out = s.out := hframe.1 .out (by decide)
  have himg : (standbyArmed s bytes x ids).img = { (containerStaged s bytes).img with repl := ⟨some x, ids, none⟩ } := by
    rw [standbyArmed, wr_img, img_replVerified]
  have himg' : (emit (standbyArmed s bytes x ids) (.twinAnswer true)).img = (standbyArmed s bytes x ids).img := rfl
  refine does_of_all hexec ((hframe.append hsent).1.mono (by decide)) ⟨congrArg _ hout, ?_, ?_, ?_⟩ fun _ _ h => h
  · exact (hsent.2.rd_eq (by decide)).trans harmed
  · rw [himg', himg]
  · rw [himg', himg, img_containerStaged]

end

/-- Settles O47: each operation of IMG_SI_REPL_CTRL is one equation of `replCtrlWrite`, an end of a replacement is `endRepl`, whose
effect is stated once, and the STANDBY's container is what it has staged (`stagedBytes_containerStaged`). -/
theorem regionsReplace : Obligations.RegionsReplace := by
  refine ⟨fun s req c => does_replVerify_error, fun s req x ids => does_replVerify_ok, ?_, fun s req => does_replArm, ?_,
    fun s req => does_replAbort, fun s req => does_replAck, fun s x => does_replSwitch,
    fun s x hx hdue hqueues hnone _ => does_replSwitch_busy hx hdue hqueues hnone,
    fun s bytes hoff hrole hpaired hstate => does_replContainer_busy hoff hrole hpaired hstate bytes,
    fun s bytes x ids => does_replContainer_taken⟩
  · intro s req hreach hstate
    have hexec : exec (.replVerify req) s = done s :=
      congrArg done ((doorbell_of_reaches hreach 1 _).trans ((replCtrlWrite_verify s).trans (if_pos hstate)))
    exact does_of_all hexec (.refl _ s) trivial fun _ _ h => h
  · intro s req hreach hstate
    have hexec : exec (.replArm req) s = done s :=
      congrArg done ((doorbell_of_reaches hreach 2 _).trans ((replCtrlWrite_arm s).trans (if_neg (by simpa using hstate))))
    exact does_of_all hexec (.refl _ s) trivial fun _ _ h => h

end Sys2Proof.Machine

/-! PROOFS. The operations of IMG_STAGE_CMD (R483 to R487). -/
namespace Sys2Proof.Machine

section
variable {s u : State} {r : RegRow} {ix : List Nat} {req : Requester} {data : Word}

/-- A write leaves a bit that it does not take. -/
theorem flag_inForceBy_kept {i : Nat} (hi : i < 32) (ht : flag (r.taken req) i = false) :
    flag (inForceBy s req r ix data) i = flag (word s r ix) i := by
  rw [inForceBy, flag_blend hi, if_neg (by rw [ht]; decide)]

/-! ### The command -/

/-- What the host writes for operation `op`. -/
def stageWord (op kind : Nat) : Word := BitVec.ofNat 32 (2 ^ 31 + op * 2 ^ 27 + kind * 2 ^ 26)

theorem fields_stageWord : ∀ op < 8, ∀ kind : Bool, flag (stageWord op (bnat kind)) 31 = true ∧
    fld (stageWord op (bnat kind)) 29 27 = op ∧ fld (stageWord op (bnat kind)) 26 26 = bnat kind := by decide

theorem stageCmd_immediate : Reg.imgStageCmd.Immediate [] := immediate_of_plain (by decide) (by decide +kernel) (by decide)

/-- The device with the command's word in force. -/
def stageCommanded (s : State) (op kind : Nat) : State := immediate s .host Reg.imgStageCmd [] (stageWord op kind)

theorem within_stageCommanded (s : State) (op kind : Nat) :
    Within [.staged, .inForce] [Reg.imgStageCmd.addr []] s (stageCommanded s op kind) := within_immediate s .host _ _ _

/-- RESULT of IMG_STAGE_CMD, shown after operation `op`. -/
def stageShown (p : State × Nat) : State := wr p.1 Reg.imgStageCmd [] 19 16 p.2

theorem within_stageShown (p : State × Nat) : Within [.inForce] [Reg.imgStageCmd.addr []] p.1 (stageShown p) :=
  within_wr p.1 _ _ 19 16 p.2

theorem img_stageShown (p : State × Nat) : (stageShown p).img = p.1.img := by rw [stageShown, wr_img]

theorem result_stageShown {k : Nat} (hk : k < 16) (v : State) : rd (stageShown (v, k)) Reg.imgStageCmd [] 19 16 = k :=
  (rd_wr_same (by decide) (by decide)).trans (Nat.mod_eq_of_lt hk)

theorem stageBy_host (hreach : Reaches s .host (Reg.imgStageCmd.addr [])) (hidle : rdBit s Reg.imgStageCmd [] 30 = false)
    {op : Nat} (hop : op < 8) (kind : Bool) :
    stageBy s .host op (bnat kind) =
      stageShown (stageOp (stageCommanded s op (bnat kind)) .host op (bnat kind)) := by
  obtain ⟨hgo, hfop, hfkind⟩ := fields_stageWord op hop kind
  have hstage : stage s .host Reg.imgStageCmd [] 0xFFFFFFFF (stageWord op (bnat kind)) = stageCommanded s op (bnat kind) :=
    stage_classless stageCmd_immediate (by decide) (by rw [taken_of_plain (by decide)]; decide)
  have hidle' : ¬ rdBit (stageCommanded s op (bnat kind)) Reg.imgStageCmd [] 30 = true := by
    rw [rdBit, stageCommanded, word_immediate_same, flag_inForceBy_kept (by decide) (by rw [taken_of_plain (by decide)]; decide)]
    rw [rdBit] at hidle
    rw [hidle]
    decide
  have hwrite : stageCmdWrite s .host (stageWord op (bnat kind)) = hostStage (stageCommanded s op (bnat kind)) op (bnat kind) := by
    unfold stageCmdWrite
    rw [hstage, hfop, hfkind]
    exact if_pos hgo
  calc stageBy s .host op (bnat kind) = stageCmdWrite s .host (stageWord op (bnat kind)) := doorbell_of_reaches hreach _ _
    _ = hostStage (stageCommanded s op (bnat kind)) op (bnat kind) := hwrite
    _ = stageShown (stageOp (stageCommanded s op (bnat kind)) .host op (bnat kind)) := if_neg hidle'

/-! ### What the operations read -/

theorem recovering_of_regsBut {l : List Nat} (h : RegsBut l s u) (hl : Reg.glbReady.addr [] ∉ l) : recovering u = recovering s := by
  rw [recovering, stageDone, h.rdBit_eq hl]; rfl

theorem mayStage_of_regsBut {l : List Nat} (h : RegsBut l s u) (hready : Reg.glbReady.addr [] ∉ l)
    (hauth : Reg.imgUpdAuth.addr [] ∉ l) (hhier : Reg.izlHierCfg.addr [] ∉ l) (src : StageSrc) : mayStage u src = mayStage s src := by
  unfold mayStage hierRole
  rw [recovering_of_regsBut h hready, h.rd_eq hauth, h.rd_eq hhier]

theorem onTrial_of_img (h : u.img = s.img) : onTrial u = onTrial s := by
  unfold onTrial bankOfImg
  rw [h]

/-! ### Banks -/

theorem bankOfImg_putBank {b : Nat} (hb : b < s.img.banks.length) (x : Bank) : bankOfImg (putBank s b x) b = x := by
  simp [bankOfImg, putBank, List.getD, hb]

theorem bankOfImg_of_banks (h : u.img.banks = s.img.banks) (b : Nat) : bankOfImg u b = bankOfImg s b := by
  rw [bankOfImg, h]; rfl

theorem targetBank_congr (hrec : recovering u = recovering s) (hstrap : rd u Reg.glbStrap [] 1 0 = rd s Reg.glbStrap [] 1 0)
    (hrun : u.img.running = s.img.running) (hnamed : u.img.named = s.img.named) (hfailed : u.power.failed = s.power.failed) :
    targetBank u = targetBank s := by
  unfold targetBank
  rw [hrec, hstrap, hrun, hnamed, hfailed]

theorem routeOf_congr (hbundle : u.img.bundle = s.img.bundle) (himage : u.image = s.image) (hrole : role u = role s)
    (hpaired : paired u = paired s) (x : Bundle) : routeOf u x = routeOf s x := by
  unfold routeOf
  rw [hbundle, himage, hrole, hpaired]

end

end Sys2Proof.Machine

/-! PROOFS. Bundles are staged (R483 to R487). -/
namespace Sys2Proof.Machine

section
variable {s u : State} {kind : Bool} {op k : Nat} {x : Bundle} {b c ofs len : Nat} {data : List Byte}

theorem exec_stageClaim (hreach : Reaches s .host (Reg.imgStageCmd.addr [])) (hidle : rdBit s Reg.imgStageCmd [] 30 = false)
    (kind : Bool) :
    exec (.stageClaim .host kind) s = done (stageShown (claim (stageCommanded s 0 (bnat kind)) .host (bnat kind))) :=
  congrArg done (stageBy_host hreach hidle (by decide) kind)

/-! ### CLAIM -/

theorem mayStage_stageCommanded (src : StageSrc) : mayStage (stageCommanded s op k) src = mayStage s src :=
  mayStage_of_regsBut (within_stageCommanded s op k).2 (by decide) (by decide) (by decide) src

theorem claim_taken (hfree : u.img.staging.holder = none) (hmay : mayStage u .host = true)
    (htrial : kind = true ∨ onTrial u = false) : claim u .host (bnat kind) = (takeLock u .host (bnat kind), 0) := by
  rw [claim, hfree, hmay]
  show (if bnat kind = 0 ∧ onTrial u = true then (u, 5) else (takeLock u .host (bnat kind), 0)) = _
  refine if_neg fun h => ?_
  obtain ⟨hkind, htrial'⟩ := h
  rcases htrial with rfl | ht
  · exact absurd hkind (by decide)
  · rw [ht] at htrial'; contradiction

theorem does_stageClaim (hreach : Reaches s .host (Reg.imgStageCmd.addr [])) (hidle : rdBit s Reg.imgStageCmd [] 30 = false)
    (hfree : s.img.staging.holder = none) (hmay : mayStage s .host = true) (htrial : kind = true ∨ onTrial s = false) :
    Does (.stageClaim .host kind) s [.staged, .inForce, .img] fun t =>
      stageState t = 1 ∧ stageKind t = bnat kind ∧ rd t Reg.imgStageCmd [] 19 16 = 0 ∧
        t.img = { s.img with staging := { Staging.free with holder := some .host, lastAt := s.time.dt } } ∧
        word t Reg.imgStageUidLo [] = BitVec.ofNat 32 Config.unitId.toNat := by
  have hcommanded := within_stageCommanded s 0 (bnat kind)
  have himg : (stageCommanded s 0 (bnat kind)).img = s.img := hcommanded.1 .img (by decide)
  have hdt : (stageCommanded s 0 (bnat kind)).time.dt = s.time.dt := (hcommanded.1 .clock (by decide)).1
  have hunit : unitIdNow (stageCommanded s 0 (bnat kind)) = Config.unitId := by
    have hrerun : rerunState (stageCommanded s 0 (bnat kind)) = rerunState s := hcommanded.2.rd_eq (by decide)
    obtain ⟨-, -, -, hnot, -⟩ := hreach
    exact if_neg (by rw [hrerun]; omega)
  have hexec := exec_stageClaim hreach hidle kind
  rw [claim_taken (by rw [himg]; exact hfree) ((mayStage_stageCommanded .host).trans hmay)
    (by rwa [onTrial_of_img himg])] at hexec
  have hlock := within_takeLock (stageCommanded s 0 (bnat kind)) .host (bnat kind)
  have hshown := within_stageShown (takeLock (stageCommanded s 0 (bnat kind)) .host (bnat kind), 0)
  refine does_of_all hexec (((hcommanded.append hlock).append hshown).1.mono (by decide)) ⟨?_, ?_, ?_, ?_, ?_⟩ fun _ _ h => h
  · exact (hshown.2.rd_eq (by decide)).trans (stageState_takeLock _ _ kind)
  · exact (hshown.2.rd_eq (by decide)).trans (stageKind_takeLock _ _ kind)
  · exact result_stageShown (by decide) _
  · rw [img_stageShown, img_takeLock, himg, hdt]
  · rw [hshown.2.word_eq (by decide), uidLo_takeLock, holderId, hunit]

/-- A claim of a lock that is held counts. -/
theorem claim_held (hheld : u.img.staging.holder ≠ none) : claim u .host (bnat kind) = (countEvent u Reg.imgBusyCnt [], 1) :=
  if_pos (Option.isSome_iff_ne_none.2 hheld)

theorem does_stageClaim_held (hreach : Reaches s .host (Reg.imgStageCmd.addr [])) (hidle : rdBit s Reg.imgStageCmd [] 30 = false)
    (hheld : s.img.staging.holder ≠ none) :
    Does (.stageClaim .host kind) s [.staged, .inForce] fun t =>
      rd t Reg.imgStageCmd [] 19 16 = 1 ∧ word t Reg.imgBusyCnt [] = word s Reg.imgBusyCnt [] + 1 ∧
        RegsBut [Reg.imgStageCmd.addr [], Reg.imgBusyCnt.addr []] s t := by
  have hcommanded := within_stageCommanded s 0 (bnat kind)
  have himg : (stageCommanded s 0 (bnat kind)).img = s.img := hcommanded.1 .img (by decide)
  have hexec := exec_stageClaim hreach hidle kind
  rw [claim_held (by rwa [himg])] at hexec
  have hcounted := within_countEvent (stageCommanded s 0 (bnat kind)) Reg.imgBusyCnt []
  have hshown := within_stageShown (countEvent (stageCommanded s 0 (bnat kind)) Reg.imgBusyCnt [], 1)
  have hframe := (hcommanded.append hcounted).append hshown
  refine does_of_all hexec (hframe.1.mono (by decide)) ⟨result_stageShown (by decide) _, ?_, hframe.2.mono (by simp)⟩ fun _ _ h => h
  rw [hshown.2.word_eq (by decide), word_countEvent_same, hcommanded.2.word_eq (by decide)]

/-- An operation that only answers shows its RESULT and changes no other word. -/
theorem does_of_stageShown {i : Instr} (hexec : exec i s = done (stageShown (stageCommanded s op (bnat kind), k))) (hk : k < 16) :
    Does i s [.staged, .inForce] fun t => rd t Reg.imgStageCmd [] 19 16 = k ∧ RegsBut [Reg.imgStageCmd.addr []] s t := by
  have hframe := (within_stageCommanded s op (bnat kind)).append (within_stageShown (stageCommanded s op (bnat kind), k))
  exact does_of_all hexec (hframe.1.mono (by decide)) ⟨result_stageShown hk _, hframe.2.mono (by simp)⟩ fun _ _ h => h

theorem claim_barred (hfree : u.img.staging.holder = none) (hmay : mayStage u .host = false) :
    claim u .host (bnat kind) = (u, 2) := by
  rw [claim, hfree, hmay]
  rfl

/-! ### Operations of the holder -/

/-- The holder's operation `op`, whose kind plays no part, on the command as written. -/
def stageHeld (s : State) (op : Nat) : State := touchLock (stageCommanded s op (bnat false))

theorem img_stageHeld (s : State) (op : Nat) :
    (stageHeld s op).img = { s.img with staging := { s.img.staging with lastAt := s.time.dt } } := by
  have himg : (stageCommanded s op (bnat false)).img = s.img := (within_stageCommanded s op _).1 .img (by decide)
  have hdt : (stageCommanded s op (bnat false)).time.dt = s.time.dt := ((within_stageCommanded s op _).1 .clock (by decide)).1
  have htouch (v : State) : (touchLock v).img = { v.img with staging := { v.img.staging with lastAt := v.time.dt } } := rfl
  rw [stageHeld, htouch, himg, hdt]

theorem within_stageHeld (s : State) (op : Nat) :
    Within [.staged, .inForce, .img] [Reg.imgStageCmd.addr []] s (stageHeld s op) :=
  ((within_stageCommanded s op _).append (within_of_img _ _)).mono (by decide) (by simp)

/-- What the holder's operations do, with their RESULT. -/
def heldActs (u : State) (op : Nat) : State × Nat :=
  match op with
  | 1 => beginCopy u .host
  | 2 => endStaged u
  | 4 => commitBy u .host
  | 5 => (dropLock u, 0)
  | _ => stageVerify u

theorem stageOp_held (hheld : s.img.staging.holder = some .host) (op : Nat) (hop : op ≠ 0) :
    stageOp (stageCommanded s op (bnat false)) .host op (bnat false) = heldActs (stageHeld s op) op := by
  have himg : (stageCommanded s op (bnat false)).img = s.img := (within_stageCommanded s op _).1 .img (by decide)
  rw [stageOp, if_neg hop, himg, if_neg (not_not.2 hheld)]
  rfl

theorem stageOp_barred (hheld : s.img.staging.holder ≠ some .host) (op : Nat) (hop : op ≠ 0) :
    stageOp (stageCommanded s op (bnat false)) .host op (bnat false) = (stageCommanded s op (bnat false), 3) := by
  have himg : (stageCommanded s op (bnat false)).img = s.img := (within_stageCommanded s op _).1 .img (by decide)
  rw [stageOp, if_neg hop, himg]
  exact if_pos hheld

/-! ### WRITE -/

/-- A WRITE in range has its copy in progress. -/
def copyBegun (u : State) (ofs len : Nat) : State :=
  wrBit { u with img := { u.img with staging := { u.img.staging with copying := some (ofs, len) } } } Reg.imgStageCmd [] 30 true

theorem img_copyBegun (u : State) (ofs len : Nat) :
    (copyBegun u ofs len).img = { u.img with staging := { u.img.staging with copying := some (ofs, len) } } := by
  rw [copyBegun, wrBit_img]

theorem within_copyBegun (u : State) (ofs len : Nat) :
    Within [.img, .inForce] [Reg.imgStageCmd.addr []] u (copyBegun u ofs len) :=
  ((within_of_img u _).append (within_wrBit _ _ _ _ _)).mono (by decide) (by simp)

theorem beginCopy_host (hstate : stageState u = 1) (hofs : (word u Reg.imgStageOfs []).toNat = ofs)
    (hlen : (word u Reg.imgStageLen []).toNat = len) :
    beginCopy u .host = if stageRange ofs len then (copyBegun u ofs len, 0) else (u, 6) := by
  subst hofs hlen
  rw [beginCopy, if_neg (not_not.2 hstate)]
  rfl

theorem rdBit_stageShown (p : State × Nat) : rdBit (stageShown p) Reg.imgStageCmd [] 30 = rdBit p.1 Reg.imgStageCmd [] 30 := by
  rw [rdBit, stageShown, word_wr_same, flag_setFld_above (by decide) (by decide) (by decide)]
  rfl

theorem does_stageWrite (hreach : Reaches s .host (Reg.imgStageCmd.addr [])) (hidle : rdBit s Reg.imgStageCmd [] 30 = false)
    (hheld : s.img.staging.holder = some .host) (hstate : stageState s = 1) (hofs : (word s Reg.imgStageOfs []).toNat = ofs)
    (hlen : (word s Reg.imgStageLen []).toNat = len) :
    Does (.stageWrite .host) s [.staged, .inForce, .img] fun t =>
      rdBit t Reg.imgStageCmd [] 30 = stageRange ofs len ∧
        rd t Reg.imgStageCmd [] 19 16 = (if stageRange ofs len then 0 else 6) ∧
        t.img = { s.img with staging := { s.img.staging with
          lastAt := s.time.dt, copying := if stageRange ofs len then some (ofs, len) else s.img.staging.copying } } := by
  have hheld' := within_stageHeld s 1
  have hidle' : rdBit (stageHeld s 1) Reg.imgStageCmd [] 30 = false := by
    have hbit : rdBit (stageHeld s 1) Reg.imgStageCmd [] 30 = rdBit s Reg.imgStageCmd [] 30 := by
      show flag (word (stageCommanded s 1 (bnat false)) Reg.imgStageCmd []) 30 = _
      rw [stageCommanded, word_immediate_same, flag_inForceBy_kept (by decide) (by rw [taken_of_plain (by decide)]; decide)]
      rfl
    rw [hbit, hidle]
  have hexec : exec (.stageWrite .host) s = done (stageShown (beginCopy (stageHeld s 1) .host)) :=
    congrArg done ((stageBy_host hreach hidle (by decide) false).trans (congrArg stageShown (stageOp_held hheld 1 (by decide))))
  rw [beginCopy_host ((hheld'.2.rd_eq (by decide)).trans hstate) (by rw [hheld'.2.word_eq (by decide), hofs])
    (by rw [hheld'.2.word_eq (by decide), hlen])] at hexec
  cases hrange : stageRange ofs len with
  | true =>
    rw [hrange, if_pos rfl] at hexec
    have hshown := within_stageShown (copyBegun (stageHeld s 1) ofs len, 0)
    refine does_of_all hexec (((hheld'.append (within_copyBegun _ ofs len)).append hshown).1.mono (by decide))
      ⟨?_, result_stageShown (by decide) _, ?_⟩ fun _ _ h => h
    · rw [rdBit_stageShown]; exact rdBit_wrBit_same (by decide)
    · rw [img_stageShown, img_copyBegun, img_stageHeld]; rfl
  | false =>
    rw [hrange, if_neg (by decide)] at hexec
    have hshown := within_stageShown (stageHeld s 1, 6)
    refine does_of_all hexec ((hheld'.append hshown).1.mono (by decide)) ⟨?_, result_stageShown (by decide) _, ?_⟩ fun _ _ h => h
    · rw [rdBit_stageShown]; exact hidle'
    · rw [img_stageShown, img_stageHeld]; rfl

/-! ### A WRITE ends -/

/-- The copy is over, and the 600 s begin again. -/
def copyOver (s : State) : State :=
  wrBit { s with img := { s.img with staging := { s.img.staging with copying := none, lastAt := s.time.dt } } }
    Reg.imgStageCmd [] 30 false

theorem within_copyOver (s : State) : Within [.img, .inForce] [Reg.imgStageCmd.addr []] s (copyOver s) :=
  ((within_of_img s _).append (within_wrBit _ _ _ _ _)).mono (by decide) (by simp)

theorem img_copyOver (s : State) :
    (copyOver s).img = { s.img with staging := { s.img.staging with copying := none, lastAt := s.time.dt } } := by
  rw [copyOver, wrBit_img]

theorem idle_copyOver (s : State) : rdBit (copyOver s) Reg.imgStageCmd [] 30 = false := rdBit_wrBit_same (by decide)

theorem exec_stageWriteDone (hcopy : s.img.staging.copying = some (ofs, len)) (hheld : s.img.staging.holder = some .host)
    (error : Bool) :
    exec (.stageWriteDone data error) s =
      if error = true then done (stageShown (copyOver s, 7))
      else if stageRange ofs (padTo len (data.take len)).length = true then
        done (stageShown (landStage (record (copyOver s) 3 0 65 (padTo len (data.take len))) ofs (padTo len (data.take len)), 0))
      else done (stageShown (copyOver s, 6)) := by
  have hhost : (s.img.staging.holder == some StageSrc.host) = true := by rw [hheld]; decide
  show execStageWriteDone data error s = _
  simp only [execStageWriteDone, hcopy, hhost, if_true, stageShown, copyOver]

theorem length_padTo_take (len : Nat) (data : List Byte) : (padTo len (data.take len)).length = len := by
  simp [padTo]

theorem within_bytesLanded (u : State) (ofs : Nat) (data : List Byte) : Within [.img] [] u (bytesLanded u ofs data) :=
  within_of_img u _

theorem img_bytesLanded (u : State) (ofs : Nat) (data : List Byte) :
    (bytesLanded u ofs data).img = { u.img with staging := { u.img.staging with
      bytes := Memory.writeList u.img.staging.bytes ofs data, top := max u.img.staging.top (ofs + data.length) } } := rfl

theorem rdBit_bytesLanded (u : State) (ofs : Nat) (data : List Byte) (r : RegRow) (ix : List Nat) (i : Nat) :
    rdBit (bytesLanded u ofs data) r ix i = rdBit u r ix i := rfl

theorem does_stageWriteDone (hcopy : s.img.staging.copying = some (ofs, len)) (hheld : s.img.staging.holder = some .host)
    (hkind : stageKind s = 1) (hrange : stageRange ofs len = true) (hquiet : Quiet s) :
    Does (.stageWriteDone data false) s [.inForce, .img] fun t =>
      rdBit t Reg.imgStageCmd [] 30 = false ∧ rd t Reg.imgStageCmd [] 19 16 = 0 ∧
        t.img = { s.img with staging := { s.img.staging with
          copying := none, lastAt := s.time.dt, top := max s.img.staging.top (ofs + len),
          bytes := Memory.writeList s.img.staging.bytes ofs (padTo len (data.take len)) } } ∧
        RegsBut [Reg.imgStageCmd.addr []] s t := by
  have hover := within_copyOver s
  have hkind' : stageKind (copyOver s) = 1 := (hover.2.rd_eq (by decide)).trans hkind
  have hexec : exec (.stageWriteDone data false) s =
      done (stageShown (bytesLanded (copyOver s) ofs (padTo len (data.take len)), 0)) := by
    rw [exec_stageWriteDone hcopy hheld, if_neg (by decide), length_padTo_take, if_pos hrange,
      record_of_quiet (quiet_of_regsBut hover.2 (by decide) (by decide) hquiet), landStage_partial hkind']
  have hlanded := within_bytesLanded (copyOver s) ofs (padTo len (data.take len))
  have hframe := (hover.append hlanded).append
    (within_stageShown (bytesLanded (copyOver s) ofs (padTo len (data.take len)), 0))
  refine does_of_all hexec (hframe.1.mono (by decide)) ⟨?_, result_stageShown (by decide) _, ?_, hframe.2.mono (by simp)⟩
    fun _ _ h => h
  · rw [rdBit_stageShown, rdBit_bytesLanded]; exact idle_copyOver s
  · rw [img_stageShown, img_bytesLanded, img_copyOver, length_padTo_take]

theorem does_stageWriteDone_error (hcopy : s.img.staging.copying = some (ofs, len)) (hheld : s.img.staging.holder = some .host) :
    Does (.stageWriteDone data true) s [.inForce, .img] fun t =>
      rdBit t Reg.imgStageCmd [] 30 = false ∧ rd t Reg.imgStageCmd [] 19 16 = 7 ∧
        t.img = { s.img with staging := { s.img.staging with copying := none, lastAt := s.time.dt } } := by
  have hexec : exec (.stageWriteDone data true) s = done (stageShown (copyOver s, 7)) := by
    rw [exec_stageWriteDone hcopy hheld, if_pos rfl]
  have hframe := (within_copyOver s).append (within_stageShown (copyOver s, 7))
  refine does_of_all hexec (hframe.1.mono (by decide)) ⟨?_, result_stageShown (by decide) _, ?_⟩ fun _ _ h => h
  · rw [rdBit_stageShown]; exact idle_copyOver s
  · rw [img_stageShown, img_copyOver]

/-! ### END -/

theorem endStaged_bundle (hstate : stageState u = 1) (hkind : stageKind u = 0) : endStaged u = (setStage u 2, 0) := by
  have hkind' : stageKind (setStage u 2) ≠ 1 := by
    rw [stageKind, setStage, rd_wr_below (by decide) (by decide) (by decide), ← stageKind, hkind]; decide
  rw [endStaged, if_neg (not_not.2 hstate)]
  exact congrArg (·, 0) (if_neg fun h => hkind' h.1)

theorem exec_of_held {i : Instr} {p : State × Nat} (hi : exec i s = done (stageBy s .host op (bnat false)))
    (hreach : Reaches s .host (Reg.imgStageCmd.addr [])) (hidle : rdBit s Reg.imgStageCmd [] 30 = false) (hop : op < 8)
    (hop0 : op ≠ 0) (hheld : s.img.staging.holder = some .host) (hacts : heldActs (stageHeld s op) op = p) :
    exec i s = done (stageShown p) := by
  rw [hi, stageBy_host hreach hidle hop false, stageOp_held hheld op hop0, hacts]

theorem does_stageEnd (hreach : Reaches s .host (Reg.imgStageCmd.addr [])) (hidle : rdBit s Reg.imgStageCmd [] 30 = false)
    (hheld : s.img.staging.holder = some .host) (hstate : stageState s = 1) (hkind : stageKind s = 0) :
    Does (.stageEnd .host) s [.staged, .inForce, .img] fun t =>
      stageState t = 2 ∧ rd t Reg.imgStageCmd [] 19 16 = 0 ∧
        t.img = { s.img with staging := { s.img.staging with lastAt := s.time.dt } } := by
  have hheld' := within_stageHeld s 2
  have hexec : exec (.stageEnd .host) s = done (stageShown (setStage (stageHeld s 2) 2, 0)) :=
    exec_of_held rfl hreach hidle (by decide) (by decide) hheld
      (endStaged_bundle ((hheld'.2.rd_eq (by decide)).trans hstate) ((hheld'.2.rd_eq (by decide)).trans hkind))
  have hset : Within [.inForce] [Reg.imgStageStat.addr []] (stageHeld s 2) (setStage (stageHeld s 2) 2) := within_wr _ _ _ 31 29 2
  have hshown := within_stageShown (setStage (stageHeld s 2) 2, 0)
  refine does_of_all hexec (((hheld'.append hset).append hshown).1.mono (by decide))
    ⟨?_, result_stageShown (by decide) _, ?_⟩ fun _ _ h => h
  · exact (hshown.2.rd_eq (by decide)).trans (rd_wr_same (by decide) (by decide))
  · rw [img_stageShown, setStage, wr_img, img_stageHeld]

end

end Sys2Proof.Machine

/-! PROOFS. VERIFY, COMMIT, ABORT and the lock's timeout (R470, R482, R485). -/
namespace Sys2Proof.Machine

section
variable {s u : State} {x : Bundle} {b c : Nat}

/-! ### VERIFY -/

/-- The verified bundle's bank is VALID. -/
def bankValid (u : State) (x : Bundle) (b : Nat) : State := putBank u b { state := 2, bytes := u.img.staging.bytes, ver := x.ver }

/-- The route is shown, and STATE is VERIFIED. -/
def routeShown (u : State) (route : Nat) : State :=
  setStage (wr (wr u Reg.imgStageStat [] 28 27 route) Reg.imgStageStat [] 23 16 0) 3

/-- The bundle that VERIFY has read is kept. -/
def bundleKept (u : State) (x : Bundle) : State :=
  { u with img := { u.img with staging := { u.img.staging with bundle := some x } } }

theorem bundlePasses_eq (hrec : recovering u = false) (hbank : targetBank u = some b) :
    bundlePasses u x = bundleKept (routeShown (bankValid u x b) (routeOf (bankValid u x b) x)) x := by
  unfold bundlePasses
  rw [hrec, hbank]
  rfl

theorem within_bankValid (u : State) (x : Bundle) (b : Nat) : Within [.img] [] u (bankValid u x b) := within_of_img u _

theorem within_routeShown (u : State) (route : Nat) : Within [.inForce] [Reg.imgStageStat.addr []] u (routeShown u route) :=
  (((within_wr u _ _ 28 27 route).append (within_wr _ _ _ 23 16 0)).append (within_wr _ _ _ 31 29 3)).mono (by decide) (by simp)

theorem within_bundleKept (u : State) (x : Bundle) : Within [.img] [] u (bundleKept u x) := within_of_img u _

theorem stageState_routeShown (u : State) (route : Nat) : stageState (routeShown u route) = 3 :=
  rd_wr_same (by decide) (by decide)

theorem route_routeShown (u : State) (route : Nat) : rd (routeShown u route) Reg.imgStageStat [] 28 27 = route % 4 := by
  rw [routeShown, setStage, rd_wr_below (by decide) (by decide) (by decide), rd_wr_above (by decide) (by decide) (by decide)]
  exact rd_wr_same (by decide) (by decide)

theorem img_routeShown (u : State) (route : Nat) : (routeShown u route).img = u.img := by
  rw [routeShown, setStage, wr_img, wr_img, wr_img]

theorem img_bundleKept (u : State) (x : Bundle) :
    (bundleKept u x).img = { u.img with staging := { u.img.staging with bundle := some x } } := rfl

theorem rd_bundleKept (u : State) (x : Bundle) (r : RegRow) (ix : List Nat) (hi lo : Nat) :
    rd (bundleKept u x) r ix hi lo = rd u r ix hi lo := rfl

theorem stagedBytes_stageHeld (s : State) (op : Nat) : stagedBytes (stageHeld s op) = stagedBytes s := by
  unfold stagedBytes
  rw [img_stageHeld]

theorem targetBank_stageHeld (s : State) (op : Nat) : targetBank (stageHeld s op) = targetBank s := by
  have hheld := within_stageHeld s op
  have himg := img_stageHeld s op
  exact targetBank_congr (recovering_of_regsBut hheld.2 (by decide)) (hheld.2.rd_eq (by decide)) (by rw [himg]) (by rw [himg])
    (by rw [hheld.1 .power (by decide)])

theorem stageVerify_ok (hstate : stageState u = 2) (hkind : stageKind u = 0)
    (hread : readBundle u.img.custKey u.img.floor (stagedBytes u) = .ok x) : stageVerify u = (bundlePasses u x, 0) := by
  rw [stageVerify, if_neg (not_not.2 hstate), if_neg (by rw [hkind]; decide), hread]

theorem stageVerify_error (hstate : stageState u = 2) (hkind : stageKind u = 0)
    (hread : readBundle u.img.custKey u.img.floor (stagedBytes u) = .error c) :
    stageVerify u = (wr u Reg.imgStageStat [] 23 16 c, 8) := by
  rw [stageVerify, if_neg (not_not.2 hstate), if_neg (by rw [hkind]; decide), hread]

theorem does_stageVerify (hreach : Reaches s .host (Reg.imgStageCmd.addr [])) (hidle : rdBit s Reg.imgStageCmd [] 30 = false)
    (hheld : s.img.staging.holder = some .host) (hstate : stageState s = 2) (hkind : stageKind s = 0)
    (hrec : recovering s = false) (hread : readBundle s.img.custKey s.img.floor (stagedBytes s) = .ok x)
    (hbank : targetBank s = some b) (hb : b < s.img.banks.length) :
    Does (.stageVerify .host) s [.staged, .inForce, .img] fun t =>
      stageState t = 3 ∧ rd t Reg.imgStageStat [] 28 27 = routeOf s x % 4 ∧ rd t Reg.imgStageCmd [] 19 16 = 0 ∧
        t.img.staging.bundle = some x ∧ bankOfImg t b = ⟨2, s.img.staging.bytes, x.ver⟩ := by
  have hheld' := within_stageHeld s 3
  have himg := img_stageHeld s 3
  have hvalid := within_bankValid (stageHeld s 3) x b
  have hroute : routeOf (bankValid (stageHeld s 3) x b) x = routeOf s x := by
    have hregs := (hheld'.append hvalid).2
    exact routeOf_congr (by show (stageHeld s 3).img.bundle = _; rw [himg]) ((hheld'.append hvalid).1 .image (by decide))
      (hregs.rd_eq (by decide)) (hregs.rdBit_eq (by decide)) x
  have hacts : heldActs (stageHeld s 3) 3 = (bundleKept (routeShown (bankValid (stageHeld s 3) x b) (routeOf s x)) x, 0) := by
    show stageVerify (stageHeld s 3) = _
    rw [stageVerify_ok ((hheld'.2.rd_eq (by decide)).trans hstate) ((hheld'.2.rd_eq (by decide)).trans hkind)
      (by rw [stagedBytes_stageHeld, himg]; exact hread),
      bundlePasses_eq ((recovering_of_regsBut hheld'.2 (by decide)).trans hrec) ((targetBank_stageHeld s 3).trans hbank), hroute]
  have hexec := exec_of_held (i := .stageVerify .host) rfl hreach hidle (by decide) (by decide) hheld hacts
  have hrouted := within_routeShown (bankValid (stageHeld s 3) x b) (routeOf s x)
  have hkept := within_bundleKept (routeShown (bankValid (stageHeld s 3) x b) (routeOf s x)) x
  have hshown := within_stageShown (bundleKept (routeShown (bankValid (stageHeld s 3) x b) (routeOf s x)) x, 0)
  have hbytes : (stageHeld s 3).img.staging.bytes = s.img.staging.bytes := by rw [himg]
  refine does_of_all hexec (((((hheld'.append hvalid).append hrouted).append hkept).append hshown).1.mono (by decide))
    ⟨?_, ?_, result_stageShown (by decide) _, ?_, ?_⟩ fun _ _ h => h
  · rw [stageState, hshown.2.rd_eq (by decide), rd_bundleKept]; exact stageState_routeShown _ _
  · rw [hshown.2.rd_eq (by decide), rd_bundleKept, route_routeShown]
  · rw [img_stageShown, img_bundleKept]
  · have hbanks : (stageShown (bundleKept (routeShown (bankValid (stageHeld s 3) x b) (routeOf s x)) x, 0)).img.banks =
        (bankValid (stageHeld s 3) x b).img.banks := by rw [img_stageShown, img_bundleKept, img_routeShown]
    rw [bankOfImg_of_banks hbanks, bankValid, bankOfImg_putBank (by rw [himg]; exact hb), hbytes]

theorem does_stageVerify_error (hreach : Reaches s .host (Reg.imgStageCmd.addr []))
    (hidle : rdBit s Reg.imgStageCmd [] 30 = false) (hheld : s.img.staging.holder = some .host) (hstate : stageState s = 2)
    (hkind : stageKind s = 0) (hread : readBundle s.img.custKey s.img.floor (stagedBytes s) = .error c) :
    Does (.stageVerify .host) s [.staged, .inForce, .img] fun t =>
      stageState t = 2 ∧ rd t Reg.imgStageStat [] 23 16 = c % 256 ∧ rd t Reg.imgStageCmd [] 19 16 = 8 := by
  have hheld' := within_stageHeld s 3
  have hacts : heldActs (stageHeld s 3) 3 = (wr (stageHeld s 3) Reg.imgStageStat [] 23 16 c, 8) := by
    refine stageVerify_error ((hheld'.2.rd_eq (by decide)).trans hstate) ((hheld'.2.rd_eq (by decide)).trans hkind) ?_
    rw [stagedBytes_stageHeld, img_stageHeld]
    exact hread
  have hexec := exec_of_held (i := .stageVerify .host) rfl hreach hidle (by decide) (by decide) hheld hacts
  have hcode := within_wr (stageHeld s 3) Reg.imgStageStat [] 23 16 c
  have hshown := within_stageShown (wr (stageHeld s 3) Reg.imgStageStat [] 23 16 c, 8)
  refine does_of_all hexec (((hheld'.append hcode).append hshown).1.mono (by decide))
    ⟨?_, ?_, result_stageShown (by decide) _⟩ fun _ _ h => h
  · rw [stageState, hshown.2.rd_eq (by decide), rd_wr_above (by decide) (by decide) (by decide), hheld'.2.rd_eq (by decide)]
    exact hstate
  · rw [hshown.2.rd_eq (by decide)]; exact rd_wr_same (by decide) (by decide)

/-! ### COMMIT -/

/-- The bank is TRIAL and named, and its bundle committed. -/
def bundleCommitted (u : State) (x : Bundle) (b : Nat) : State :=
  { putBank u b { bankOfImg u b with state := 3 } with
    img := { (putBank u b { bankOfImg u b with state := 3 }).img with named := b, committed := some x } }

theorem within_bundleCommitted (u : State) (x : Bundle) (b : Nat) : Within [.img] [] u (bundleCommitted u x b) :=
  within_of_img u _

theorem img_bundleCommitted (u : State) (x : Bundle) (b : Nat) :
    (bundleCommitted u x b).img = { u.img with
      banks := u.img.banks.set b { bankOfImg u b with state := 3 }, named := b, committed := some x } := rfl

theorem commitBy_host (hstate : stageState u = 3) (hkind : stageKind u = 0) (hbundle : u.img.staging.bundle = some x)
    (hbank : targetBank u = some b) : commitBy u .host = (endStaging (bundleCommitted u x b), 0) := by
  have hcommit : stageCommit u = (endStaging (bundleCommitted u x b), 0) := by
    unfold stageCommit
    rw [hbundle, hbank]
    exact if_pos ⟨hstate, hkind⟩
  rw [commitBy, hcommit]
  exact congrArg (·, 0) (if_neg fun h => absurd h.2.1 (by decide))

theorem does_stageCommit (hreach : Reaches s .host (Reg.imgStageCmd.addr [])) (hidle : rdBit s Reg.imgStageCmd [] 30 = false)
    (hheld : s.img.staging.holder = some .host) (hstate : stageState s = 3) (hkind : stageKind s = 0)
    (hbundle : s.img.staging.bundle = some x) (hbank : targetBank s = some b) (hb : b < s.img.banks.length) :
    Does (.stageCommit .host) s [.staged, .inForce, .img] fun t =>
      t.img.named = b ∧ t.img.committed = some x ∧ (bankOfImg t b).state = 3 ∧ t.img.staging.holder = none ∧
        stageState t = 0 ∧ rd t Reg.imgStageCmd [] 19 16 = 0 := by
  have hheld' := within_stageHeld s 4
  have himg := img_stageHeld s 4
  have hacts : heldActs (stageHeld s 4) 4 = (endStaging (bundleCommitted (stageHeld s 4) x b), 0) :=
    commitBy_host ((hheld'.2.rd_eq (by decide)).trans hstate) ((hheld'.2.rd_eq (by decide)).trans hkind)
      (by rw [himg]; exact hbundle) ((targetBank_stageHeld s 4).trans hbank)
  have hexec := exec_of_held (i := .stageCommit .host) rfl hreach hidle (by decide) (by decide) hheld hacts
  have hcommitted := within_bundleCommitted (stageHeld s 4) x b
  have hended := within_endStaging (bundleCommitted (stageHeld s 4) x b)
  have hshown := within_stageShown (endStaging (bundleCommitted (stageHeld s 4) x b), 0)
  have himg' : (stageShown (endStaging (bundleCommitted (stageHeld s 4) x b), 0)).img = { s.img with
      banks := s.img.banks.set b { bankOfImg s b with state := 3 }, named := b, committed := some x,
      staging := { Staging.free with bundle := s.img.staging.bundle } } := by
    rw [img_stageShown, img_endStaging, img_bundleCommitted, bankOfImg_of_banks (s := s) (by rw [himg]), himg]
  refine does_of_all hexec ((((hheld'.append hcommitted).append hended).append hshown).1.mono (by decide))
    ⟨by rw [himg'], by rw [himg'], ?_, by rw [himg']; rfl, ?_, result_stageShown (by decide) _⟩ fun _ _ h => h
  · rw [bankOfImg, himg']
    simp [List.getD, hb]
  · exact (hshown.2.rd_eq (by decide)).trans (stageState_endStaging _)

/-! ### ABORT and the lock's timeout -/

theorem dropLock_bundle (hkind : stageKind u = 0) : dropLock u = endStaging u :=
  if_neg fun h => absurd (hkind.symm.trans h.1) (by decide)

theorem does_stageAbort (hreach : Reaches s .host (Reg.imgStageCmd.addr [])) (hidle : rdBit s Reg.imgStageCmd [] 30 = false)
    (hheld : s.img.staging.holder = some .host) (hkind : stageKind s = 0) :
    Does (.stageAbort .host) s [.staged, .inForce, .img] fun t =>
      t.img = { s.img with staging := { Staging.free with bundle := s.img.staging.bundle } } ∧
        stageState t = 0 ∧ rd t Reg.imgStageCmd [] 19 16 = 0 := by
  have hheld' := within_stageHeld s 5
  have hacts : heldActs (stageHeld s 5) 5 = (endStaging (stageHeld s 5), 0) :=
    congrArg (·, 0) (dropLock_bundle ((hheld'.2.rd_eq (by decide)).trans hkind))
  have hexec := exec_of_held (i := .stageAbort .host) rfl hreach hidle (by decide) (by decide) hheld hacts
  have hended := within_endStaging (stageHeld s 5)
  have hshown := within_stageShown (endStaging (stageHeld s 5), 0)
  refine does_of_all hexec (((hheld'.append hended).append hshown).1.mono (by decide))
    ⟨?_, ?_, result_stageShown (by decide) _⟩ fun _ _ h => h
  · rw [img_stageShown, img_endStaging, img_stageHeld]
  · exact (hshown.2.rd_eq (by decide)).trans (stageState_endStaging _)

theorem does_stagingLockTimeout (hheld : s.img.staging.holder ≠ none) (hkind : stageKind s = 0)
    (hpast : s.img.staging.lastAt + msTicks 600000 ≤ s.time.dt) :
    Does .stagingLockTimeout s [.inForce, .img] fun t =>
      t.img = { s.img with staging := { Staging.free with bundle := s.img.staging.bundle } } ∧ stageState t = 0 := by
  have hexec : exec .stagingLockTimeout s = done (endStaging s) := by
    have hsome : s.img.staging.holder.isSome = true := Option.isSome_iff_ne_none.2 hheld
    show done (if (s.img.staging.holder.isSome && decide (s.img.staging.lastAt + msTicks 600000 ≤ s.time.dt) &&
      !(stageKind s == 1 && replState s == 3)) = true then dropLock s else s) = _
    rw [dropLock_bundle hkind, hsome, hkind, decide_eq_true hpast]
    rfl
  exact does_of_all hexec (within_endStaging s).1 ⟨img_endStaging s, stageState_endStaging s⟩ fun _ _ h => h

end

/-- Settles O48: the host's command is `stageOp` on the word in force (`stageBy_host`); each operation is one equation, and every
end of the lock is `endStaging`. -/
theorem bundlesAreStaged : Obligations.BundlesAreStaged := by
  refine ⟨fun s kind => does_stageClaim, fun s kind => does_stageClaim_held, ?_, fun s ofs len => does_stageWrite, ?_,
    fun s ofs len data => does_stageWriteDone, fun s c data => does_stageWriteDone_error, fun s => does_stageEnd,
    fun s x b => does_stageVerify, fun s c => does_stageVerify_error, fun s x b => does_stageCommit, fun s => does_stageAbort,
    fun s => does_stagingLockTimeout⟩
  · intro s kind hreach hidle hfree hmay
    have himg : (stageCommanded s 0 (bnat kind)).img = s.img := (within_stageCommanded s 0 _).1 .img (by decide)
    have hexec := exec_stageClaim hreach hidle kind
    rw [claim_barred (by rw [himg]; exact hfree) ((mayStage_stageCommanded .host).trans hmay)] at hexec
    exact does_of_stageShown hexec (by decide)
  · intro s hreach hidle hheld
    have hexec : exec (.stageWrite .host) s = done (stageShown (stageCommanded s 1 (bnat false), 3)) :=
      congrArg done ((stageBy_host hreach hidle (by decide) false).trans
        (congrArg stageShown (stageOp_barred hheld 1 (by decide))))
    exact does_of_stageShown hexec (by decide)

end Sys2Proof.Machine

/-! PROOFS. IMG_UPD_CMD; confirmation and fuses (R480 to R482). -/
namespace Sys2Proof.Machine

section
variable {s u : State} {req : Requester} {data : Word} {x : Bundle} {b k : Nat}

/-! ### The command -/

theorem updCmd_immediate : Reg.imgUpdCmd.Immediate [] := immediate_of_plain (by decide) (by decide +kernel) (by decide)

/-- The device with the command's word in force. -/
def updCommanded (s : State) (req : Requester) (data : Word) : State := immediate s req Reg.imgUpdCmd [] data

theorem within_updCommanded (s : State) (req : Requester) (data : Word) :
    Within [.staged, .inForce] [Reg.imgUpdCmd.addr []] s (updCommanded s req data) := within_immediate s req _ _ _

theorem img_updCommanded (s : State) (req : Requester) (data : Word) : (updCommanded s req data).img = s.img :=
  (within_updCommanded s req data).1 .img (by decide)

/-- What each operation does, with its RESULT. -/
def updActs (u : State) (op : Nat) : State × Nat :=
  match op with
  | 0 => activateHitless u
  | 1 => activateTwin u
  | 2 => activateRestart u
  | 4 => raiseFloor u
  | 5 => programKey u
  | _ => confirm u

/-- RESULT of IMG_UPD_CMD, shown. -/
def updShown (p : State × Nat) : State := wr p.1 Reg.imgUpdCmd [] 26 24 p.2

theorem within_updShown (p : State × Nat) : Within [.inForce] [Reg.imgUpdCmd.addr []] p.1 (updShown p) := within_wr p.1 _ _ 26 24 p.2

theorem img_updShown (p : State × Nat) : (updShown p).img = p.1.img := by rw [updShown, wr_img]

theorem result_updShown (hk : k < 8) (v : State) : rd (updShown (v, k)) Reg.imgUpdCmd [] 26 24 = k :=
  (rd_wr_same (by decide) (by decide)).trans (Nat.mod_eq_of_lt hk)

theorem updDoorbell_eq (hreach : Reaches s req (Reg.imgUpdCmd.addr [])) (hgo : flag data 31 = true) :
    updDoorbell s req data = updShown (updActs (updCommanded s req data) (fld data 29 27)) := by
  have hstage : stage s req Reg.imgUpdCmd [] 0xFFFFFFFF data = updCommanded s req data :=
    stage_classless updCmd_immediate (by decide) (by rw [taken_of_plain (by decide)]; decide)
  unfold updDoorbell
  rw [doorbell_of_reaches hreach]
  unfold updCmdWrite
  rw [hstage]
  exact if_pos hgo

/-- An operation that only answers shows its RESULT and changes no other word. -/
theorem does_of_updShown {i : Instr} (hexec : exec i s = done (updShown (updCommanded s req data, k))) (hk : k < 8) :
    Does i s [.staged, .inForce] fun t => rd t Reg.imgUpdCmd [] 26 24 = k ∧ RegsBut [Reg.imgUpdCmd.addr []] s t := by
  have hframe := (within_updCommanded s req data).append (within_updShown (updCommanded s req data, k))
  exact does_of_all hexec (hframe.1.mono (by decide)) ⟨result_updShown hk _, hframe.2.mono (by simp)⟩ fun _ _ h => h

/-! ### Confirmation -/

theorem lt_of_trial (h : (bankOfImg s b).state = 3) : b < s.img.banks.length := by
  by_contra hb
  rw [bankOfImg, List.getD_eq_default _ _ (by omega)] at h
  exact absurd h (by decide)

theorem onTrial_of_running (hrun : s.img.running = some b) (h : (bankOfImg s b).state = 3) : onTrial s = true := by
  simp [onTrial, hrun, h]

/-- Bank `b` is confirmed. -/
def bankConfirmed (u : State) (b : Nat) : State := putBank u b { bankOfImg u b with state := 2 }

theorem within_bankConfirmed (u : State) (b : Nat) : Within [.img] [] u (bankConfirmed u b) := within_of_img u _

theorem img_bankConfirmed (u : State) (b : Nat) :
    (bankConfirmed u b).img = { u.img with banks := u.img.banks.set b { bankOfImg u b with state := 2 } } := rfl

theorem within_updEvent (u : State) (kind dev : Nat) :
    Within [.inForce] [Reg.imgUpdEvtCnt.addr [], Reg.imgUpdEvtLast.addr []] u (updEvent u kind dev) :=
  ((within_countEvent u _ _).append (within_putWord _ _ _ _)).mono (by decide) (by simp)

theorem img_updEvent (u : State) (kind dev : Nat) : (updEvent u kind dev).img = u.img := by
  rw [updEvent, putWord_img, countEvent_img]

theorem counted_updEvent (u : State) (kind dev : Nat) :
    word (updEvent u kind dev) Reg.imgUpdEvtCnt [] = word u Reg.imgUpdEvtCnt [] + 1 :=
  (word_putWord_other (by decide)).trans word_countEvent_same

theorem last_updEvent (u : State) (kind dev : Nat) :
    word (updEvent u kind dev) Reg.imgUpdEvtLast [] = BitVec.ofNat 32 (kind * 65536 + dev % 128) := word_putWord_same

theorem confirmBank_trial (hrun : u.img.running = some b) (h : (bankOfImg u b).state = 3) :
    confirmBank u = updEvent (bankConfirmed u b) 3 (ownDevice (bankConfirmed u b)) := by
  unfold confirmBank
  rw [hrun]
  exact if_pos h

theorem within_confirmBank (hrun : u.img.running = some b) (h : (bankOfImg u b).state = 3) :
    Within [.inForce, .img] [Reg.imgUpdEvtCnt.addr [], Reg.imgUpdEvtLast.addr []] u (confirmBank u) := by
  rw [confirmBank_trial hrun h]
  exact ((within_bankConfirmed u b).append (within_updEvent _ 3 _)).mono (by decide) (by simp)

theorem img_confirmBank (hrun : u.img.running = some b) (h : (bankOfImg u b).state = 3) :
    (confirmBank u).img = { u.img with banks := u.img.banks.set b { bankOfImg u b with state := 2 } } := by
  rw [confirmBank_trial hrun h, img_updEvent, img_bankConfirmed]

theorem bankOfImg_confirmBank (hrun : u.img.running = some b) (h : (bankOfImg u b).state = 3) :
    bankOfImg (confirmBank u) b = { bankOfImg u b with state := 2 } := by
  have hb := lt_of_trial h
  rw [bankOfImg, img_confirmBank hrun h]
  simp [List.getD, hb]

theorem does_confirm (hreach : Reaches s req (Reg.imgUpdCmd.addr [])) (hrun : s.img.running = some b)
    (h : (bankOfImg s b).state = 3) :
    Does (.confirm req) s [.staged, .inForce, .img] fun t =>
      bankOfImg t b = { bankOfImg s b with state := 2 } ∧ rd t Reg.imgUpdCmd [] 26 24 = 0 ∧
        word t Reg.imgUpdEvtCnt [] = word s Reg.imgUpdEvtCnt [] + 1 ∧
        word t Reg.imgUpdEvtLast [] = BitVec.ofNat 32 (3 * 65536 + ownDevice s % 128) := by
  have hcommanded := within_updCommanded s req 0x98000000
  have himg := img_updCommanded s req 0x98000000
  have hbank : bankOfImg (updCommanded s req 0x98000000) b = bankOfImg s b := bankOfImg_of_banks (by rw [himg]) b
  have hrun' : (updCommanded s req 0x98000000).img.running = some b := by rw [himg]; exact hrun
  have h' : (bankOfImg (updCommanded s req 0x98000000) b).state = 3 := by rw [hbank]; exact h
  have hacts : updActs (updCommanded s req 0x98000000) 3 = (confirmBank (updCommanded s req 0x98000000), 0) :=
    if_pos (onTrial_of_running hrun' h')
  have hexec : exec (.confirm req) s = done (updShown (confirmBank (updCommanded s req 0x98000000), 0)) :=
    congrArg done ((updDoorbell_eq hreach (by decide)).trans (congrArg updShown hacts))
  have hconfirmed := within_confirmBank hrun' h'
  have hshown := within_updShown (confirmBank (updCommanded s req 0x98000000), 0)
  have hown : ownDevice (bankConfirmed (updCommanded s req 0x98000000) b) = ownDevice s :=
    (hcommanded.append (within_bankConfirmed _ b)).2.rd_eq (by decide)
  refine does_of_all hexec (((hcommanded.append hconfirmed).append hshown).1.mono (by decide))
    ⟨?_, result_updShown (by decide) _, ?_, ?_⟩ fun _ _ h => h
  · rw [bankOfImg_of_banks (congrArg Img.banks (img_updShown _)), bankOfImg_confirmBank hrun' h', hbank]
  · rw [hshown.2.word_eq (by decide), confirmBank_trial hrun' h', counted_updEvent,
      (hcommanded.append (within_bankConfirmed _ b)).2.word_eq (by decide)]
  · rw [hshown.2.word_eq (by decide), confirmBank_trial hrun' h', last_updEvent, hown]

theorem does_trialHoldExpiry (hservice : stageDone s 11 = true) (hrun : s.img.running = some b)
    (h : (bankOfImg s b).state = 3)
    (hpast : get 0 s.power.stageAt 11 + msTicks (1000 * rd s Reg.imgUpdCfg [] 31 16) ≤ s.time.dt) :
    Does .trialHoldExpiry s [.inForce, .img] fun t =>
      bankOfImg t b = { bankOfImg s b with state := 2 } ∧ t.img = { s.img with banks := t.img.banks } ∧
        RegsBut [Reg.imgUpdEvtCnt.addr [], Reg.imgUpdEvtLast.addr []] s t := by
  have hexec : exec .trialHoldExpiry s = done (confirmBank s) := by
    show done (if (stageDone s 11 && decide (get 0 s.power.stageAt 11 + msTicks (1000 * rd s Reg.imgUpdCfg [] 31 16) ≤ s.time.dt)) =
      true then confirmBank s else s) = _
    rw [hservice, decide_eq_true hpast]
    rfl
  have hframe := within_confirmBank hrun h
  exact does_of_all hexec hframe.1 ⟨bankOfImg_confirmBank hrun h, by rw [img_confirmBank hrun h], hframe.2⟩ fun _ _ h => h

/-! ### Fuses -/

/-- The floor rises. -/
def floorRaised (u : State) (n : Nat) : State := { u with img := { u.img with floor := n } }

theorem within_floorRaised (u : State) (n : Nat) : Within [.img] [] u (floorRaised u n) := within_of_img u _

theorem img_floorRaised (u : State) (n : Nat) : (floorRaised u n).img = { u.img with floor := n } := rfl

theorem raiseFloor_eq (hx : u.img.bundle = some x) :
    raiseFloor u = if (onTrial u || decide (x.svn ≤ u.img.floor)) = true then (u, 3) else (floorRaised u x.svn, 0) := by
  unfold raiseFloor
  rw [hx]
  rfl

theorem does_raiseFloor (hreach : Reaches s req (Reg.imgUpdCmd.addr [])) (hx : s.img.bundle = some x)
    (htrial : onTrial s = false) (hlow : s.img.floor < x.svn) :
    Does (.raiseFloor req) s [.staged, .inForce, .img] fun t =>
      t.img = { s.img with floor := x.svn } ∧ rd t Reg.imgUpdCmd [] 26 24 = 0 := by
  have himg := img_updCommanded s req 0xA0000000
  have hacts : updActs (updCommanded s req 0xA0000000) 4 = (floorRaised (updCommanded s req 0xA0000000) x.svn, 0) := by
    refine (raiseFloor_eq (by rw [himg]; exact hx)).trans (if_neg ?_)
    rw [onTrial_of_img himg, himg]
    simp [htrial, hlow]
  have hexec : exec (.raiseFloor req) s = done (updShown (floorRaised (updCommanded s req 0xA0000000) x.svn, 0)) :=
    congrArg done ((updDoorbell_eq hreach (by decide)).trans (congrArg updShown hacts))
  have hframe := ((within_updCommanded s req 0xA0000000).append (within_floorRaised _ x.svn)).append
    (within_updShown (floorRaised (updCommanded s req 0xA0000000) x.svn, 0))
  refine does_of_all hexec (hframe.1.mono (by decide)) ⟨?_, result_updShown (by decide) _⟩ fun _ _ h => h
  rw [img_updShown, img_floorRaised, himg]

theorem does_raiseFloor_refused (hreach : Reaches s req (Reg.imgUpdCmd.addr [])) (hx : s.img.bundle = some x)
    (hbarred : onTrial s = true ∨ x.svn ≤ s.img.floor) :
    Does (.raiseFloor req) s [.staged, .inForce] fun t => rd t Reg.imgUpdCmd [] 26 24 = 3 := by
  have himg := img_updCommanded s req 0xA0000000
  have hacts : updActs (updCommanded s req 0xA0000000) 4 = (updCommanded s req 0xA0000000, 3) := by
    refine (raiseFloor_eq (by rw [himg]; exact hx)).trans (if_pos ?_)
    rw [onTrial_of_img himg, himg]
    simpa using hbarred
  have hexec : exec (.raiseFloor req) s = done (updShown (updCommanded s req 0xA0000000, 3)) :=
    congrArg done ((updDoorbell_eq hreach (by decide)).trans (congrArg updShown hacts))
  exact (does_of_updShown hexec (by decide)).imp fun _ h => h.1

/-- The customer key is programmed. -/
def keyProgrammed (u : State) : State := { u with img := { u.img with custKey := some (Memory.readList u.bar4 0x2000000 96) } }

theorem within_keyProgrammed (u : State) : Within [.img] [] u (keyProgrammed u) := within_of_img u _

theorem img_keyProgrammed (u : State) :
    (keyProgrammed u).img = { u.img with custKey := some (Memory.readList u.bar4 0x2000000 96) } := rfl

theorem does_programCustKey (hreach : Reaches s req (Reg.imgUpdCmd.addr [])) (hnone : s.img.custKey = none) :
    Does (.programCustKey req) s [.staged, .inForce, .img] fun t =>
      t.img = { s.img with custKey := some (Memory.readList s.bar4 0x2000000 96) } ∧ rd t Reg.imgUpdCmd [] 26 24 = 0 := by
  have himg := img_updCommanded s req 0xA8000000
  have hbar : (updCommanded s req 0xA8000000).bar4 = s.bar4 := (within_updCommanded s req _).1 .bar4 (by decide)
  have hacts : updActs (updCommanded s req 0xA8000000) 5 = (keyProgrammed (updCommanded s req 0xA8000000), 0) :=
    if_neg (by rw [himg, hnone]; decide)
  have hexec : exec (.programCustKey req) s = done (updShown (keyProgrammed (updCommanded s req 0xA8000000), 0)) :=
    congrArg done ((updDoorbell_eq hreach (by decide)).trans (congrArg updShown hacts))
  have hframe := ((within_updCommanded s req 0xA8000000).append (within_keyProgrammed _)).append
    (within_updShown (keyProgrammed (updCommanded s req 0xA8000000), 0))
  refine does_of_all hexec (hframe.1.mono (by decide)) ⟨?_, result_updShown (by decide) _⟩ fun _ _ h => h
  rw [img_updShown, img_keyProgrammed, himg, hbar]

end

/-- Settles O50: each operation of IMG_UPD_CMD is one equation on the word in force (`updDoorbell_eq`), and both ways of confirming
are `confirmBank`. -/
theorem trialsAreConfirmed : Obligations.TrialsAreConfirmed := by
  refine ⟨fun s req b => does_confirm, ?_, fun s b => does_trialHoldExpiry, fun s req x => does_raiseFloor,
    fun s req x => does_raiseFloor_refused, fun s req => does_programCustKey, ?_⟩
  · intro s req hreach htrial
    have hacts : updActs (updCommanded s req 0x98000000) 3 = (updCommanded s req 0x98000000, 3) :=
      if_neg (by rw [onTrial_of_img (img_updCommanded s req _), htrial]; decide)
    exact does_of_updShown (congrArg done ((updDoorbell_eq hreach (by decide)).trans (congrArg updShown hacts))) (by decide)
  · intro s req hreach hkey
    have hacts : updActs (updCommanded s req 0xA8000000) 5 = (updCommanded s req 0xA8000000, 3) :=
      if_pos (by rw [img_updCommanded]; exact Option.isSome_iff_ne_none.2 hkey)
    have hexec : exec (.programCustKey req) s = done (updShown (updCommanded s req 0xA8000000, 3)) :=
      congrArg done ((updDoorbell_eq hreach (by decide)).trans (congrArg updShown hacts))
    exact (does_of_updShown hexec (by decide)).imp fun _ h => h.1

end Sys2Proof.Machine

/-! PROOFS. The steps of an activation (R488, R489, Table 17-4). -/
namespace Sys2Proof.Machine

section
variable {s u : State} {req : Requester} {a : Activation} {c e step item : Nat} {es cs : List Nat}

/-! ### What an activation shows -/

theorem within_setStep (u : State) (step item : Nat) : Within [.inForce] [Reg.imgUpdStat.addr []] u (setStep u step item) :=
  ((within_wr u _ _ 31 28 step).append (within_wr _ _ _ 23 16 item)).mono (by decide) (by simp)

theorem img_setStep (u : State) (step item : Nat) : (setStep u step item).img = u.img := by rw [setStep, wr_img, wr_img]

theorem updStep_setStep (h : step < 16) : updStep (setStep u step item) = step := by
  rw [updStep, setStep, rd_wr_above (by decide) (by decide) (by decide), rd_wr_same (by decide) (by decide)]
  exact Nat.mod_eq_of_lt h

theorem item_setStep : rd (setStep u step item) Reg.imgUpdStat [] 23 16 = item % 256 := rd_wr_same (by decide) (by decide)

theorem code_setStep : rd (setStep u step item) Reg.imgUpdStat [] 15 8 = rd u Reg.imgUpdStat [] 15 8 := by
  rw [setStep, rd_wr_below (by decide) (by decide) (by decide), rd_wr_below (by decide) (by decide) (by decide)]

theorem within_putActivation (u : State) (a : Option Activation) : Within [.img] [] u (putActivation u a) := within_of_img u _

theorem img_putActivation (u : State) (a : Option Activation) : (putActivation u a).img = { u.img with activation := a } := rfl

theorem rd_putActivation (u : State) (a : Option Activation) (r : RegRow) (ix : List Nat) (hi lo : Nat) :
    rd (putActivation u a) r ix hi lo = rd u r ix hi lo := rfl

/-! ### The checks of R487 and R488 -/

theorem mayActivate_lt (s : State) (route : Nat) : mayActivate s route < 8 := by
  unfold mayActivate
  split
  · decide
  · split
    · decide
    · split <;> decide

/-- An activation is checked alike while nothing but IMG_UPD_CMD is written. -/
theorem mayActivate_updCommanded (s : State) (req : Requester) (data : Word) (route : Nat) :
    mayActivate (updCommanded s req data) route = mayActivate s route := by
  have hframe := within_updCommanded s req data
  have himg := img_updCommanded s req data
  have hroute (x : Bundle) : committedRoute (updCommanded s req data) x = committedRoute s x := by
    unfold committedRoute
    rw [hframe.2.rd_eq (by decide), routeOf_congr (by rw [himg]) (hframe.1 .image (by decide)) (hframe.2.rd_eq (by decide))
      (hframe.2.rdBit_eq (by decide)) x]
  unfold mayActivate
  rw [himg]
  simp only [hroute]

/-! ### Engines -/

theorem jobsOn_congr (h : u.acc = s.acc) (e : Nat) : jobsOn u e = jobsOn s e := by
  unfold jobsOn activeJobs jobEngines job
  rw [h]

theorem engines_congr (h : u.image = s.image) : engines u = engines s := by
  unfold engines enginePopulated isCluster popBit
  rw [h]

theorem lt_of_engines (h : engines s = e :: es) : e < 64 :=
  List.mem_range.1 (List.mem_of_mem_filter (h ▸ List.mem_cons_self : e ∈ engines s))

/-- The jobs of engine `e`, as they are displaced. -/
def displacedFrom (u : State) (e : Nat) : List (Bool × Nat) := (jobsOn u e).map fun j => (false, j)

/-- The jobs of engine `e` are displaced from it. -/
def jobsDisplaced (u : State) (e : Nat) : State :=
  let l := displacedFrom u e
  { u with place := { u.place with displaced := u.place.displaced.filter (fun x => !l.contains x) ++ l } }

theorem drainEngine_eq (u : State) (e step : Nat) : drainEngine u e step = setStep (jobsDisplaced u e) step e := rfl

theorem within_jobsDisplaced (u : State) (e : Nat) : Within [.place] [] u (jobsDisplaced u e) := within_of_place u _

theorem img_jobsDisplaced (u : State) (e : Nat) : (jobsDisplaced u e).img = u.img := rfl

theorem displaced_drainEngine (u : State) (e step : Nat) : (drainEngine u e step).place = (jobsDisplaced u e).place := by
  rw [drainEngine_eq, setStep, wr_place, wr_place]

theorem within_drainEngine (u : State) (e step : Nat) :
    Within [.inForce, .place] [Reg.imgUpdStat.addr []] u (drainEngine u e step) :=
  ((within_jobsDisplaced u e).append (within_setStep _ step e)).mono (by decide) (by simp)

theorem img_drainEngine (u : State) (e step : Nat) : (drainEngine u e step).img = u.img := by
  rw [drainEngine_eq, img_setStep, img_jobsDisplaced]

/-- The item in progress begins now. -/
def itemBegun (u : State) (a : Activation) : State := putActivation u (some { a with since := u.time.dt })

theorem nextItem_engine (h : a.engines = e :: es) (hmode : placeMode u 0 ≠ 0) :
    nextItem u a = drainEngine (itemBegun u a) e 1 := by
  obtain ⟨mode, engs, cores, doneEngines, doneCores, away, since⟩ := a
  subst h
  exact if_neg hmode

/-- The next item is engine `e`. -/
theorem nextItem_engine_facts (h : a.engines = e :: es) (hmode : placeMode u 0 ≠ 0) :
    Within [.inForce, .img, .place] [Reg.imgUpdStat.addr []] u (nextItem u a) ∧ updStep (nextItem u a) = 1 ∧
      rd (nextItem u a) Reg.imgUpdStat [] 23 16 = e % 256 ∧
      (nextItem u a).img = { u.img with activation := some { a with since := u.time.dt } } ∧
      ∀ j ∈ jobsOn u e, (false, j) ∈ (nextItem u a).place.displaced := by
  rw [nextItem_engine h hmode]
  refine ⟨((within_putActivation u _).append (within_drainEngine (itemBegun u a) e 1)).mono (by decide) (by simp), ?_, ?_, ?_, ?_⟩
  · rw [drainEngine_eq]; exact updStep_setStep (by decide)
  · rw [drainEngine_eq]; exact item_setStep
  · rw [img_drainEngine, itemBegun, img_putActivation]
  · intro j hj
    rw [displaced_drainEngine]
    exact List.mem_append_right _ (List.mem_map_of_mem (f := fun j => (false, j)) hj)

/-! ### Cores -/

/-- Core `c` is down. -/
def coreStopped (u : State) (c : Nat) : State :=
  { u with power := { u.power with coresDown := u.power.coresDown ||| BitVec.ofNat 4 (2 ^ c) } }

theorem stopCore_eq (u : State) (c : Nat) : stopCore u c = setStep (coreStopped u c) 2 c := rfl

theorem within_coreStopped (u : State) (c : Nat) : Within [.power] [] u (coreStopped u c) := within_of_power u _

theorem within_stopCore (u : State) (c : Nat) : Within [.inForce, .power] [Reg.imgUpdStat.addr []] u (stopCore u c) :=
  ((within_coreStopped u c).append (within_setStep _ 2 c)).mono (by decide) (by simp)

theorem img_stopCore (u : State) (c : Nat) : (stopCore u c).img = u.img := by
  rw [stopCore_eq, img_setStep]; rfl

theorem power_stopCore (u : State) (c : Nat) :
    (stopCore u c).power = { u.power with coresDown := u.power.coresDown ||| BitVec.ofNat 4 (2 ^ c) } := by
  rw [stopCore_eq, setStep, wr_power, wr_power]; rfl

theorem code_stopCore : rd (stopCore u c) Reg.imgUpdStat [] 15 8 = rd u Reg.imgUpdStat [] 15 8 := by
  rw [stopCore_eq, code_setStep]; rfl

theorem nextItem_core (hengines : a.engines = []) (hcores : a.cores = c :: cs) : nextItem u a = stopCore (itemBegun u a) c := by
  obtain ⟨mode, engs, cores, doneEngines, doneCores, away, since⟩ := a
  subst hengines hcores
  rfl

/-! ### An activation is abandoned -/

/-- The code of the step that failed is shown, and the old bank is named. -/
def oldNamed (u : State) (code : Nat) : State :=
  { wr u Reg.imgUpdStat [] 15 8 code with
    img := { (wr u Reg.imgUpdStat [] 15 8 code).img with
      named := (wr u Reg.imgUpdStat [] 15 8 code).img.running.getD (wr u Reg.imgUpdStat [] 15 8 code).img.named } }

theorem within_oldNamed (u : State) (code : Nat) : Within [.inForce, .img] [Reg.imgUpdStat.addr []] u (oldNamed u code) :=
  ((within_wr u _ _ 15 8 code).append (within_of_img _ _)).mono (by decide) (by simp)

theorem img_oldNamed (u : State) (code : Nat) :
    (oldNamed u code).img = { u.img with named := u.img.running.getD u.img.named } := by
  rw [oldNamed, wr_img]

theorem code_oldNamed (u : State) (code : Nat) : rd (oldNamed u code) Reg.imgUpdStat [] 15 8 = code % 256 :=
  (rd_wr_same (by decide) (by decide) : rd (wr u Reg.imgUpdStat [] 15 8 code) Reg.imgUpdStat [] 15 8 = _)

/-- The activation as its reversal begins, with the cores `failed` among those to revert. -/
def reverting (a : Activation) (failed : List Nat) : Activation :=
  { a with mode := 3, engines := [], cores := failed ++ a.doneCores, doneCores := [] }

theorem abandon_eq (u : State) (a : Activation) (code : Nat) (failed : List Nat) :
    abandon u a code failed = nextRevert (oldNamed u code) (reverting a failed) := rfl

theorem nextRevert_core (hcores : a.cores = c :: cs) : nextRevert u a = setStep (stopCore (itemBegun u a) c) 10 c := by
  obtain ⟨mode, engs, cores, doneEngines, doneCores, away, since⟩ := a
  subst hcores
  rfl

theorem nextRevert_none (hcores : a.cores = []) (hengines : a.engines = []) (hdone : a.doneEngines = []) :
    nextRevert u a = endActivation (itemBegun u a) 9 2 := by
  obtain ⟨mode, engs, cores, doneEngines, doneCores, away, since⟩ := a
  subst hcores hengines hdone
  rfl

theorem endActivation_eq (u : State) (step kind : Nat) :
    endActivation u step kind = updEvent (putActivation (setStep u step 0) none) kind (ownDevice u) := rfl

theorem within_endActivation (u : State) (step kind : Nat) :
    Within [.inForce, .img] [Reg.imgUpdStat.addr [], Reg.imgUpdEvtCnt.addr [], Reg.imgUpdEvtLast.addr []] u
      (endActivation u step kind) := by
  rw [endActivation_eq]
  exact (((within_setStep u step 0).append (within_putActivation _ none)).append (within_updEvent _ kind _)).mono (by decide)
    (by simp)

theorem img_endActivation (u : State) (step kind : Nat) : (endActivation u step kind).img = { u.img with activation := none } := by
  rw [endActivation_eq, img_updEvent, img_putActivation, img_setStep]

theorem stat_endActivation (u : State) (step kind hi lo : Nat) :
    rd (endActivation u step kind) Reg.imgUpdStat [] hi lo = rd (setStep u step 0) Reg.imgUpdStat [] hi lo := by
  rw [endActivation_eq, (within_updEvent _ kind _).2.rd_eq (by decide), rd_putActivation]

theorem counted_endActivation (u : State) (step kind : Nat) :
    word (endActivation u step kind) Reg.imgUpdEvtCnt [] = word u Reg.imgUpdEvtCnt [] + 1 := by
  rw [endActivation_eq, counted_updEvent, ((within_setStep u step 0).append (within_putActivation _ none)).2.word_eq (by decide)]

end

end Sys2Proof.Machine

/-! PROOFS. ACTIVATE_HITLESS and ACTIVATE_TWIN begin; engines and cores end their items (R488 to R490). -/
namespace Sys2Proof.Machine

section
variable {s u w : State} {req : Requester} {a : Activation} {c c2 e e2 : Nat} {es cs : List Nat}

/-! ### Activations begin -/

/-- The code of the last activation is cleared. -/
def codeCleared (u : State) : State := wr u Reg.imgUpdStat [] 15 8 0

theorem within_codeCleared (u : State) : Within [.inForce] [Reg.imgUpdStat.addr []] u (codeCleared u) := within_wr u _ _ 15 8 0

theorem img_codeCleared (u : State) : (codeCleared u).img = u.img := by rw [codeCleared, wr_img]

/-- An activation of mode `m` without items. -/
def itemless (m dt : Nat) : Activation := ⟨m, [], [], [], [], false, dt⟩

/-- An activation over all engines and cores. -/
def hitless (es : List Nat) (dt : Nat) : Activation := ⟨0, es, [2, 3, 1, 0], [], [], false, dt⟩

theorem activateHitless_alone (hmay : mayActivate u 1 = 0) (halone : role u ≠ 1 ∨ paired u = false) :
    activateHitless u = (nextItem (codeCleared u) (hitless (engines (codeCleared u)) (codeCleared u).time.dt), 0) := by
  have hregs := (within_codeCleared u).2
  have hrole : role (codeCleared u) = role u := hregs.rd_eq (by decide)
  have hpaired : paired (codeCleared u) = paired u := hregs.rdBit_eq (by decide)
  have hnot : ¬ (role (codeCleared u) = 1 ∧ paired (codeCleared u) = true) := by
    rw [hrole, hpaired]
    rintro ⟨hr, hp⟩
    rcases halone with h | h
    · exact h hr
    · rw [h] at hp; contradiction
  unfold activateHitless
  dsimp only
  rw [if_neg (not_not.2 hmay)]
  exact congrArg (·, 0) (if_neg hnot)

theorem activateHitless_paired (hmay : mayActivate u 1 = 0) (hrole : role u = 1) (hpaired : paired u = true) :
    activateHitless u = (setStep (putActivation (codeCleared u) (some (itemless 2 (codeCleared u).time.dt))) 4 0, 0) := by
  have hregs := (within_codeCleared u).2
  have hrole' : role (codeCleared u) = 1 := (hregs.rd_eq (by decide)).trans hrole
  have hpaired' : paired (codeCleared u) = true := (hregs.rdBit_eq (by decide)).trans hpaired
  unfold activateHitless
  dsimp only
  rw [if_neg (not_not.2 hmay)]
  exact congrArg (·, 0) (if_pos ⟨hrole', hpaired'⟩)

theorem dt_of_within {ps : List Part} {l : List Nat} (h : Within ps l s u) (hclock : Part.clock ∉ ps) : u.time.dt = s.time.dt :=
  (h.1 .clock hclock).1

theorem does_activateHitless (hreach : Reaches s req (Reg.imgUpdCmd.addr [])) (hmay : mayActivate s 1 = 0)
    (hengines : engines s = e :: es) (hmode : placeMode s 0 ≠ 0) (halone : role s ≠ 1 ∨ paired s = false) :
    Does (.activateHitless req) s [.staged, .inForce, .img, .place] fun t =>
      rd t Reg.imgUpdCmd [] 26 24 = 0 ∧ updStep t = 1 ∧ rd t Reg.imgUpdStat [] 23 16 = e ∧
        t.img = { s.img with activation := some ⟨0, e :: es, [2, 3, 1, 0], [], [], false, s.time.dt⟩ } ∧
        ∀ j ∈ jobsOn s e, (false, j) ∈ t.place.displaced := by
  have hcommanded := within_updCommanded s req 0x80000000
  have hcleared := hcommanded.append (within_codeCleared (updCommanded s req 0x80000000))
  have hdt := dt_of_within hcleared (by decide)
  have hengines' : engines (codeCleared (updCommanded s req 0x80000000)) = e :: es :=
    (engines_congr (hcleared.1 .image (by decide))).trans hengines
  have hacts : updActs (updCommanded s req 0x80000000) 0 =
      (nextItem (codeCleared (updCommanded s req 0x80000000)) (hitless (e :: es) s.time.dt), 0) := by
    have halone' : role (updCommanded s req 0x80000000) ≠ 1 ∨ paired (updCommanded s req 0x80000000) = false := by
      rwa [role, hcommanded.2.rd_eq (by decide), paired, hcommanded.2.rdBit_eq (by decide)]
    rw [← hengines', ← hdt]
    exact activateHitless_alone ((mayActivate_updCommanded s req _ 1).trans hmay) halone'
  have hexec : exec (.activateHitless req) s =
      done (updShown (nextItem (codeCleared (updCommanded s req 0x80000000)) (hitless (e :: es) s.time.dt), 0)) :=
    congrArg done ((updDoorbell_eq hreach (by decide)).trans (congrArg updShown hacts))
  have hmode' : placeMode (codeCleared (updCommanded s req 0x80000000)) 0 ≠ 0 := by
    rw [placeMode, hcleared.2.rd_eq (by decide)]
    exact hmode
  obtain ⟨hnext, hstep, hitem, himg, hjobs⟩ := nextItem_engine_facts (u := codeCleared (updCommanded s req 0x80000000))
    (a := hitless (e :: es) s.time.dt) (e := e) (es := es) rfl hmode'
  have hshown := within_updShown (nextItem (codeCleared (updCommanded s req 0x80000000)) (hitless (e :: es) s.time.dt), 0)
  refine does_of_all hexec (((hcleared.append hnext).append hshown).1.mono (by decide))
    ⟨result_updShown (by decide) _, ?_, ?_, ?_, ?_⟩ fun _ _ h => h
  · exact (hshown.2.rd_eq (by decide)).trans hstep
  · rw [hshown.2.rd_eq (by decide), hitem]
    exact Nat.mod_eq_of_lt (by have := lt_of_engines hengines; omega)
  · rw [img_updShown, himg, img_codeCleared, img_updCommanded, hdt, hitless]
  · intro j hj
    rw [hshown.1 .place (by decide)]
    exact hjobs j (by rwa [jobsOn_congr (hcleared.1 .acc (by decide))])

/-- An activation that waits for the peer stands in PEER_UPDATE. -/
def peerAwaited (u : State) (m dt : Nat) : State := setStep (putActivation (codeCleared u) (some (itemless m dt))) 4 0

theorem within_peerAwaited (u : State) (m dt : Nat) : Within [.inForce, .img] [Reg.imgUpdStat.addr []] u (peerAwaited u m dt) :=
  (((within_codeCleared u).append (within_putActivation _ _)).append (within_setStep _ 4 0)).mono (by decide) (by simp)

theorem img_peerAwaited (u : State) (m dt : Nat) :
    (peerAwaited u m dt).img = { u.img with activation := some (itemless m dt) } := by
  rw [peerAwaited, img_setStep, img_putActivation, img_codeCleared]

theorem does_activateHitless_paired (hreach : Reaches s req (Reg.imgUpdCmd.addr [])) (hmay : mayActivate s 1 = 0)
    (hrole : role s = 1) (hpaired : paired s = true) :
    Does (.activateHitless req) s [.staged, .inForce, .img] fun t =>
      rd t Reg.imgUpdCmd [] 26 24 = 0 ∧ updStep t = 4 ∧
        t.img = { s.img with activation := some ⟨2, [], [], [], [], false, s.time.dt⟩ } := by
  have hcommanded := within_updCommanded s req 0x80000000
  have hdt := dt_of_within (hcommanded.append (within_codeCleared _)) (by decide)
  have hacts : updActs (updCommanded s req 0x80000000) 0 = (peerAwaited (updCommanded s req 0x80000000) 2 s.time.dt, 0) := by
    rw [peerAwaited, ← hdt]
    exact activateHitless_paired ((mayActivate_updCommanded s req _ 1).trans hmay) ((hcommanded.2.rd_eq (by decide)).trans hrole)
      ((hcommanded.2.rdBit_eq (by decide)).trans hpaired)
  have hexec : exec (.activateHitless req) s = done (updShown (peerAwaited (updCommanded s req 0x80000000) 2 s.time.dt, 0)) :=
    congrArg done ((updDoorbell_eq hreach (by decide)).trans (congrArg updShown hacts))
  have hshown := within_updShown (peerAwaited (updCommanded s req 0x80000000) 2 s.time.dt, 0)
  refine does_of_all hexec (((hcommanded.append (within_peerAwaited _ 2 _)).append hshown).1.mono (by decide))
    ⟨result_updShown (by decide) _, ?_, ?_⟩ fun _ _ h => h
  · exact (hshown.2.rd_eq (by decide)).trans (updStep_setStep (by decide))
  · rw [img_updShown, img_peerAwaited, img_updCommanded, itemless]

/-! ### ACTIVATE_TWIN -/

/-- The bundle that the twin route sends. -/
def bundleBytes (u : State) : List Byte := ((targetBank u).map fun b => bankBytes (bankOfImg u b).bytes).getD []

/-- The twin route begins, before the bundle leaves. -/
def twinBegun (u : State) : State := setStep (codeCleared u) 4 0

theorem within_twinBegun (u : State) : Within [.inForce] [Reg.imgUpdStat.addr []] u (twinBegun u) :=
  ((within_codeCleared u).append (within_setStep _ 4 0)).mono (by decide) (by simp)

theorem img_twinBegun (u : State) : (twinBegun u).img = u.img := by rw [twinBegun, img_setStep, img_codeCleared]

theorem activateTwin_paired (hmay : mayActivate u 2 = 0) (hrole : role u = 1) (hpaired : paired u = true) :
    activateTwin u =
      (putActivation (emitLine (twinBegun u) (.twinContainer (bundleBytes (twinBegun u)))) (some (itemless 1 (twinBegun u).time.dt)),
        0) := by
  have hnot : ¬ (role u = 2 ∨ role u = 3) := by rw [hrole]; decide
  have hpaired' : paired (twinBegun u) = true := ((within_twinBegun u).2.rdBit_eq (by decide)).trans hpaired
  unfold activateTwin
  dsimp only
  rw [if_neg (not_not.2 hmay), if_neg hnot]
  exact congrArg (·, 0) (if_pos hpaired')

theorem bundleBytes_congr (himg : u.img = s.img) (hrec : recovering u = recovering s)
    (hstrap : rd u Reg.glbStrap [] 1 0 = rd s Reg.glbStrap [] 1 0) (hpower : u.power = s.power) : bundleBytes u = bundleBytes s := by
  have hbank : targetBank u = targetBank s := targetBank_congr hrec hstrap (by rw [himg]) (by rw [himg]) (by rw [hpower])
  unfold bundleBytes bankOfImg
  rw [hbank, himg]

theorem within_emitLine (u : State) (o : Output) : Within [.out] [] u (emitLine u o) :=
  Within.ite (.refl _ _ u) (within_emit u o)

theorem img_emitLine (u : State) (o : Output) : (emitLine u o).img = u.img := by
  rw [emitLine]
  split <;> rfl

theorem out_emitLine (u : State) (o : Output) : (emitLine u o).out = if offline u = true then u.out else o :: u.out := by
  rw [emitLine]
  split <;> rfl

theorem does_activateTwin (hreach : Reaches s req (Reg.imgUpdCmd.addr [])) (hmay : mayActivate s 2 = 0)
    (hrole : role s = 1) (hpaired : paired s = true) :
    Does (.activateTwin req) s [.staged, .inForce, .img, .out] fun t =>
      rd t Reg.imgUpdCmd [] 26 24 = 0 ∧ updStep t = 4 ∧
        t.img = { s.img with activation := some ⟨1, [], [], [], [], false, s.time.dt⟩ } ∧
        t.out = (if offline s = true then s.out else
          .twinContainer (((targetBank s).map fun b => bankBytes (bankOfImg s b).bytes).getD []) :: s.out) := by
  have hcommanded := within_updCommanded s req 0x88000000
  have hbegun := hcommanded.append (within_twinBegun (updCommanded s req 0x88000000))
  have hbytes : bundleBytes (twinBegun (updCommanded s req 0x88000000)) = bundleBytes s :=
    bundleBytes_congr (by rw [img_twinBegun, img_updCommanded]) (recovering_of_regsBut hbegun.2 (by decide))
      (hbegun.2.rd_eq (by decide)) (hbegun.1 .power (by decide))
  have hdt := dt_of_within hbegun (by decide)
  have hacts : updActs (updCommanded s req 0x88000000) 1 =
      (putActivation (emitLine (twinBegun (updCommanded s req 0x88000000)) (.twinContainer (bundleBytes s)))
        (some (itemless 1 s.time.dt)), 0) := by
    rw [← hbytes, ← hdt]
    exact activateTwin_paired ((mayActivate_updCommanded s req _ 2).trans hmay) ((hcommanded.2.rd_eq (by decide)).trans hrole)
      ((hcommanded.2.rdBit_eq (by decide)).trans hpaired)
  have hexec : exec (.activateTwin req) s = done (updShown
      (putActivation (emitLine (twinBegun (updCommanded s req 0x88000000)) (.twinContainer (bundleBytes s)))
        (some (itemless 1 s.time.dt)), 0)) :=
    congrArg done ((updDoorbell_eq hreach (by decide)).trans (congrArg updShown hacts))
  have hsent := (within_emitLine (twinBegun (updCommanded s req 0x88000000)) (.twinContainer (bundleBytes s))).append
    (within_putActivation _ (some (itemless 1 s.time.dt)))
  have hshown := within_updShown
    (putActivation (emitLine (twinBegun (updCommanded s req 0x88000000)) (.twinContainer (bundleBytes s)))
      (some (itemless 1 s.time.dt)), 0)
  refine does_of_all hexec (((hbegun.append hsent).append hshown).1.mono (by decide))
    ⟨result_updShown (by decide) _, ?_, ?_, ?_⟩ fun _ _ h => h
  · exact ((hsent.append hshown).2.rd_eq (by decide)).trans (updStep_setStep (by decide))
  · rw [img_updShown, img_putActivation, img_emitLine, img_twinBegun, img_updCommanded, itemless]
  · have hout (v : State) (x : Option Activation) : (putActivation v x).out = v.out := rfl
    rw [hshown.1 .out (by decide), hout, out_emitLine, offline_of_regsBut hbegun.2 (by decide), hbegun.1 .out (by decide)]
    rfl

/-! ### Engines -/

theorem does_engineDrained {e : Fin 64} (ha : s.img.activation = some a) (hmode : a.mode = 0)
    (hengines : a.engines = e.val :: e2 :: es) (hjobs : jobsOn s e = []) (hplace : placeMode s 0 ≠ 0) :
    Does (.engineDrained e) s [.inForce, .img, .place] fun t =>
      updStep t = 1 ∧ rd t Reg.imgUpdStat [] 23 16 = e2 % 256 ∧
        t.img = { s.img with activation := some { a with
          engines := e2 :: es, doneEngines := e.val :: a.doneEngines, since := s.time.dt } } ∧
        RegsBut [Reg.imgUpdStat.addr []] s t := by
  have hexec : exec (.engineDrained e) s =
      done (nextItem s { a with engines := e2 :: es, doneEngines := e.val :: a.doneEngines }) := by
    have hnot : ¬ (a.engines.head? ≠ some e.val ∨ jobsOn s e ≠ []) := by rw [hengines, hjobs]; simp
    have hrest : a.engines.drop 1 = e2 :: es := by rw [hengines]; rfl
    show execEngineDrained e s = _
    unfold execEngineDrained
    rw [ha]
    dsimp only
    rw [if_neg hnot, if_neg (by rw [hmode]; decide), hrest]
  obtain ⟨hframe, hstep, hitem, himg, -⟩ := nextItem_engine_facts (u := s)
    (a := { a with engines := e2 :: es, doneEngines := e.val :: a.doneEngines }) rfl hplace
  exact does_of_all hexec hframe.1 ⟨hstep, hitem, himg, hframe.2⟩ fun _ _ h => h

theorem does_drainTimeout {e : Fin 64} (ha : s.img.activation = some a) (hmode : a.mode = 0)
    (hhead : a.engines.head? = some e.val) (hcores : a.doneCores = []) (hengines : a.doneEngines = [])
    (hpast : drainPast s a = true) :
    Does (.drainTimeout e) s [.inForce, .img] fun t =>
      updStep t = 9 ∧ rd t Reg.imgUpdStat [] 15 8 = 1 ∧
        t.img = { s.img with activation := none, named := s.img.running.getD s.img.named } ∧
        word t Reg.imgUpdEvtCnt [] = word s Reg.imgUpdEvtCnt [] + 1 ∧
        RegsBut [Reg.imgUpdStat.addr [], Reg.imgUpdEvtCnt.addr [], Reg.imgUpdEvtLast.addr []] s t := by
  have hexec : exec (.drainTimeout e) s = done (endActivation (itemBegun (oldNamed s 1) (reverting a [])) 9 2) := by
    have habandon : abandon s a 1 [] = endActivation (itemBegun (oldNamed s 1) (reverting a [])) 9 2 :=
      (abandon_eq s a 1 []).trans (nextRevert_none hcores rfl hengines)
    show execDrainTimeout e s = _
    unfold execDrainTimeout
    rw [ha]
    exact congrArg done ((if_pos ⟨hhead, hmode, hpast⟩).trans habandon)
  have hold := (within_oldNamed s 1).append (within_putActivation (oldNamed s 1)
    (some { reverting a [] with since := (oldNamed s 1).time.dt }))
  have hframe := hold.append (within_endActivation (itemBegun (oldNamed s 1) (reverting a [])) 9 2)
  refine does_of_all hexec (hframe.1.mono (by decide)) ⟨?_, ?_, ?_, ?_, hframe.2.mono (by simp)⟩ fun _ _ h => h
  · rw [updStep, stat_endActivation]; exact updStep_setStep (by decide)
  · rw [stat_endActivation, code_setStep, itemBegun, rd_putActivation, code_oldNamed]
  · rw [img_endActivation, itemBegun, img_putActivation, img_oldNamed]
  · rw [counted_endActivation]
    exact congrArg (· + 1) (hold.2.word_eq (by decide))

/-! ### Cores -/

/-- `w` is `s` with core `c` up again: MC0 may come to another ring pair. -/
def Resumed (s : State) (c : Nat) (w : State) : Prop :=
  Within [.power, .twin] [] s w ∧
    w.power = { s.power with coresDown := s.power.coresDown &&& ~~~ BitVec.ofNat 4 (2 ^ c) } ∧
    w.twin = { s.twin with ringWait := w.twin.ringWait, ringAt := w.twin.ringAt }

/-- Core `c` is up. -/
def coreStarted (s : State) (c : Nat) : State :=
  { s with power := { s.power with coresDown := s.power.coresDown &&& ~~~ BitVec.ofNat 4 (2 ^ c) } }

theorem resumed_coreStarted (s : State) (c : Nat) : Resumed s c (coreStarted s c) :=
  ⟨(within_of_power s _).mono (by decide) (by simp), rfl, rfl⟩

theorem nextTurn_twin (u : State) :
    (nextTurn u).twin = { u.twin with ringWait := (nextTurn u).twin.ringWait, ringAt := (nextTurn u).twin.ringAt } := by
  unfold nextTurn
  dsimp only
  split <;> rfl

theorem resumed_nextTurn (s : State) (c : Nat) : Resumed s c (nextTurn (coreStarted s c)) := by
  have hstarted := resumed_coreStarted s c
  have hturn := within_nextTurn (coreStarted s c)
  exact ⟨(hstarted.1.append hturn).mono (by decide) (by simp), (hturn.1 .power (by decide)).trans hstarted.2.1,
    nextTurn_twin (coreStarted s c)⟩

theorem mc3Resume_idle (hheld : u.izl.held = []) (hsent : u.izl.orders.all (·.sentAt.isSome) = true) : mc3Resume u = u := by
  have hfilter : u.izl.orders.filter (fun w => w.sentAt.isNone) = [] :=
    List.filter_eq_nil_iff.2 fun w hw => by
      simpa [Option.isSome_iff_ne_none] using List.all_eq_true.1 hsent w hw
  have hmap : u.izl.orders.map (fun w => { w with sentAt := some (w.sentAt.getD u.time.dt) }) = u.izl.orders := by
    refine (List.map_congr_left fun w hw => ?_).trans (List.map_id _)
    obtain ⟨t, ht⟩ := Option.isSome_iff_exists.1 (List.all_eq_true.1 hsent w hw)
    obtain ⟨d, q, b, n, at_⟩ := w
    simp only at ht
    subst ht
    rfl
  have hempty : { u with izl := { u.izl with held := [] } } = u := by rw [← hheld]
  have hsend : sendWaiting u = u := by
    unfold sendWaiting
    dsimp only
    rw [hfilter, hmap]
    split <;> rfl
  unfold mc3Resume
  rw [hheld]
  dsimp only [List.foldl_nil]
  rw [hempty, hsend]

theorem resumeCore_spec {c : Fin 4} (hc : c.val ≠ 2)
    (hmc3 : c.val = 3 → s.izl.held = [] ∧ s.izl.orders.all (·.sentAt.isSome) = true) : Resumed s c (resumeCore s c) := by
  have hresume : resumeCore s c = if c.val = 3 then mc3Resume (coreStarted s c) else if c.val = 0 then
      nextTurn (coreStarted s c) else coreStarted s c := if_neg hc
  rw [hresume]
  split
  · next h3 =>
    obtain ⟨hheld, hsent⟩ := hmc3 h3
    rw [mc3Resume_idle (u := coreStarted s c) hheld hsent]
    exact resumed_coreStarted s c
  · split
    · exact resumed_nextTurn s c
    · exact resumed_coreStarted s c

theorem execCoreUpdateDone_eq {c : Fin 4} (ha : s.img.activation = some a) (hengines : a.engines = [])
    (hcores : a.cores = c.val :: cs) (hmode : a.mode = 0) (ok : Bool) :
    exec (.coreUpdateDone c ok) s =
      done (if ok = true then nextItem (resumeCore s c) { a with cores := cs, doneCores := c.val :: a.doneCores }
        else abandon s a 2 [c.val]) := by
  have hnot : ¬ (a.cores.head? ≠ some c.val ∨ (a.mode = 0 ∧ a.engines ≠ [])) := by rw [hcores, hengines]; simp
  have hrest : a.cores.drop 1 = cs := by rw [hcores]; rfl
  have hmode3 : ¬ a.mode = 3 := by rw [hmode]; decide
  show execCoreUpdateDone c ok s = _
  unfold execCoreUpdateDone
  rw [ha]
  dsimp only
  rw [if_neg hnot, hrest, if_neg hmode3, if_pos hmode]
  cases ok <;> rfl

theorem does_coreUpdateDone {c : Fin 4} (ha : s.img.activation = some a) (hmode : a.mode = 0) (hengines : a.engines = [])
    (hcores : a.cores = c.val :: c2 :: cs) (hc : c.val ≠ 2) (hc2 : c2 < 4)
    (hmc3 : c.val = 3 → s.izl.held = [] ∧ s.izl.orders.all (·.sentAt.isSome) = true) :
    Does (.coreUpdateDone c true) s [.inForce, .img, .power, .twin] fun t =>
      t.twin = { s.twin with ringWait := t.twin.ringWait, ringAt := t.twin.ringAt } ∧
      updStep t = 2 ∧ rd t Reg.imgUpdStat [] 23 16 = c2 ∧
        t.power = { s.power with coresDown :=
          (s.power.coresDown &&& ~~~ BitVec.ofNat 4 (2 ^ c.val)) ||| BitVec.ofNat 4 (2 ^ c2) } ∧
        t.img = { s.img with activation := some { a with
          cores := c2 :: cs, doneCores := c.val :: a.doneCores, since := s.time.dt } } := by
  obtain ⟨hresumed, hpower, htwin⟩ := resumeCore_spec hc hmc3
  generalize hw : resumeCore s c = w at hresumed hpower htwin
  have hexec : exec (.coreUpdateDone c true) s =
      done (stopCore (itemBegun w { a with cores := c2 :: cs, doneCores := c.val :: a.doneCores }) c2) := by
    rw [execCoreUpdateDone_eq ha hengines hcores hmode, if_pos rfl, hw]
    exact congrArg done (nextItem_core hengines rfl)
  have hdt := dt_of_within hresumed (by decide)
  have himg : w.img = s.img := hresumed.1 .img (by decide)
  have hbegun := within_putActivation w (some { a with
    cores := c2 :: cs, doneCores := c.val :: a.doneCores, since := w.time.dt })
  have hframe := (hresumed.append hbegun).append (within_stopCore _ c2)
  have htwin' : (stopCore (itemBegun w { a with cores := c2 :: cs, doneCores := c.val :: a.doneCores }) c2).twin = w.twin :=
    ((hbegun.append (within_stopCore _ c2)).1 .twin (by decide))
  refine does_of_all hexec (hframe.1.mono (by decide)) ⟨?_, ?_, ?_, ?_, ?_⟩ fun _ _ h => h
  · rw [htwin']; exact htwin
  · rw [stopCore_eq]; exact updStep_setStep (by decide)
  · rw [stopCore_eq, item_setStep]
    exact Nat.mod_eq_of_lt (by omega)
  · have hkept (x : Activation) : (itemBegun w x).power = w.power := rfl
    rw [power_stopCore, hkept, hpower]
  · rw [img_stopCore, itemBegun, img_putActivation, himg, hdt]

theorem does_coreUpdateDone_failed {c : Fin 4} (ha : s.img.activation = some a) (hmode : a.mode = 0) (hengines : a.engines = [])
    (hcores : a.cores = c.val :: cs) :
    Does (.coreUpdateDone c false) s [.inForce, .img, .power] fun t =>
      updStep t = 10 ∧ rd t Reg.imgUpdStat [] 15 8 = 2 ∧ t.img.named = s.img.running.getD s.img.named ∧
        t.img.activation = some { a with mode := 3, cores := c.val :: a.doneCores, doneCores := [], since := s.time.dt } := by
  have hexec : exec (.coreUpdateDone c false) s =
      done (setStep (stopCore (itemBegun (oldNamed s 2) (reverting a [c.val])) c) 10 c) := by
    rw [execCoreUpdateDone_eq ha hengines hcores hmode, if_neg (by decide), abandon_eq]
    exact congrArg done (nextRevert_core rfl)
  have hold := within_oldNamed s 2
  have hdt := dt_of_within hold (by decide)
  have hframe := ((hold.append (within_putActivation (oldNamed s 2)
    (some { reverting a [c.val] with since := (oldNamed s 2).time.dt }))).append
      (within_stopCore (itemBegun (oldNamed s 2) (reverting a [c.val])) c)).append (within_setStep _ 10 c)
  have himg : (setStep (stopCore (itemBegun (oldNamed s 2) (reverting a [c.val])) c) 10 c).img =
      { s.img with named := s.img.running.getD s.img.named, activation := some { reverting a [c.val] with since := s.time.dt } } := by
    rw [img_setStep, img_stopCore, itemBegun, img_putActivation, img_oldNamed, hdt]
  refine does_of_all hexec (hframe.1.mono (by decide)) ⟨updStep_setStep (by decide), ?_, by rw [himg], ?_⟩ fun _ _ h => h
  · rw [code_setStep, code_stopCore, itemBegun, rd_putActivation, code_oldNamed]
  · have hlists : reverting a [c.val] = { a with mode := 3, cores := c.val :: a.doneCores, doneCores := [] } := by
      rw [reverting, hengines]; rfl
    rw [himg, hlists]

end

end Sys2Proof.Machine

/-! PROOFS. A reset of the device (R461 to R463), and ACTIVATE_RESTART. -/
namespace Sys2Proof.Machine

section
variable {s u t : State} {req : Requester} {b c : Nat}

/-! ### Every pair closes -/

/-- No opening waits. -/
def queueCleared (s : State) : State := { s with twin := { s.twin with openQueue := [] } }

theorem closed_of_bypassed (h : Bypassed s) (r : Nat) : (s.twin.pairs.getD r ⟨true⟩).closed = true := by
  by_cases hr : r < s.twin.pairs.length
  · rw [List.getD_eq_getElem _ _ hr]
    exact h _ (List.getElem_mem hr)
  · rw [List.getD_eq_default _ _ (by omega)]

/-- A pair in bypass takes its STATE alone. -/
theorem closeRing_bypassed (h : Bypassed u) (hqueue : u.twin.openQueue = []) (r v : Nat) : closeRing u r v = setRing u r v := by
  have hsame : { u with twin := { u.twin with openQueue := u.twin.openQueue.filter (· != r) } } = u := by
    rw [hqueue, List.filter_nil, ← hqueue]
  have hmove : moveSwitches u r true = u := if_pos (closed_of_bypassed h r)
  unfold closeRing
  dsimp only
  rw [hsame, hmove]

/-- What closing pairs that are in bypass leaves. -/
def PairsKept (s u : State) : Prop := Within [.inForce] ringWords s u ∧ u.twin = s.twin

theorem pairsKept_setRing (s : State) {r : Nat} (v : Nat) (hr : r < 4) : PairsKept s (setRing s r v) :=
  ⟨within_setRing s v hr, (within_setRing s v hr).1 .twin (by decide)⟩

theorem closeAll_bypassed (h : Bypassed s) :
    Within [.inForce, .twin] ringWords s (closeAll s) ∧ (closeAll s).twin = { s.twin with openQueue := [] } := by
  have hkept : PairsKept (queueCleared s) (closeAll s) := by
    refine List.foldlRecOn (motive := PairsKept (queueCleared s)) (List.range 4) _ ⟨.refl _ _ _, rfl⟩ fun t ht r hr => ?_
    have hclosed : Bypassed t := by
      have hpairs : t.twin.pairs = s.twin.pairs := by rw [ht.2]; rfl
      rw [Bypassed, hpairs]
      exact h
    have hset := pairsKept_setRing t (if ringState t r = 4 then 4 else 0) (List.mem_range.1 hr)
    rw [closeRing_bypassed hclosed (congrArg Twin.openQueue ht.2)]
    exact ⟨ht.1.trans hset.1, hset.2.trans ht.2⟩
  have hcleared : Within [.twin] [] s (queueCleared s) := within_of_twin s _
  exact ⟨(hcleared.append hkept.1).mono (by decide) (by simp), hkept.2⟩

/-! ### What a reset leaves -/

/-- The device at its reset values, with what R244, R462, R469 and R518 keep. -/
def resetKept (s : State) (c : Nat) : State :=
  { State.reset with
    power := { State.reset.power with vin := s.power.vin, vaux := s.power.vaux, pwrgd := s.power.pwrgd,
                                      pwrgdAt := s.power.pwrgdAt, hot := s.power.hot, resetLow := s.power.resetLow,
                                      charged := s.power.charged, retained := heldJournal s,
                                      fatals := if c ≤ 1 then [] else s.power.fatals, origin := s.time.dt },
    time := keptTime s, img := keptImg s, obs := keptObs s (c == 0), nextFrame := s.nextFrame, out := s.out,
    pending := s.pending, freeCtr := s.freeCtr }

/-- The cause of the reset is shown. -/
def causeShown (t s : State) (c : Nat) : State :=
  wr (wr t Reg.glbResetCause [] 4 4 (rd s Reg.glbResetCause [] 4 4)) Reg.glbResetCause [] 2 0 c

theorem resetDevice_eq (s : State) (hc : c ≠ 0) :
    resetDevice s c =
      showFrozen (closeAll s) (showKept (closeAll s) (causeShown (resetKept (closeAll s) c) (closeAll s) c)) := by
  unfold resetDevice
  exact if_neg hc

theorem within_causeShown (t s : State) (c : Nat) : Within [.inForce] [Reg.glbResetCause.addr []] t (causeShown t s c) :=
  ((within_wr t _ _ 4 4 _).append (within_wr _ _ _ 2 0 c)).mono (by decide) (by simp)

/-- The words that show the TBs and the capture that a reset keeps. -/
def keptShownRegs : List Nat :=
  [Reg.obsRecStat.addr [], Reg.obsCapLen.addr []] ++
    (List.range 4).flatMap fun t => [Reg.timeTbStat.addr [t], Reg.timeTbFreq.addr [t]]

theorem mem_keptShownRegs {i : Nat} (hi : i < 4) : Reg.timeTbFreq.addr [i] ∈ keptShownRegs ∧ Reg.timeTbStat.addr [i] ∈ keptShownRegs :=
  ⟨List.mem_append_right _ (List.mem_flatMap.2 ⟨i, List.mem_range.2 hi, by simp⟩),
    List.mem_append_right _ (List.mem_flatMap.2 ⟨i, List.mem_range.2 hi, by simp⟩)⟩

theorem within_putFreq (t : State) (i : Nat) (f : Int) : Within [.clock, .inForce] [Reg.timeTbFreq.addr [i]] t (putFreq t i f) :=
  (((onlyChanges_putTb t i _).within (by decide)).append (within_putWord _ _ _ _)).mono (by decide) (by simp)

theorem within_showKept (s t : State) : Within [.clock, .inForce] keptShownRegs t (showKept s t) := by
  refine Within.foldl_mem (fun u i hi => Within.orNot ?_) t
  obtain ⟨hfreq, hstat⟩ := mem_keptShownRegs (List.mem_range.1 hi)
  exact ((within_putFreq u i _).append (within_wr _ Reg.timeTbStat [i] 31 30 3)).mono (by decide) (by simp [hfreq, hstat])

theorem dt_showKept (s t : State) : (showKept s t).time.dt = t.time.dt := by
  refine List.foldlRecOn (motive := fun u : State => u.time.dt = t.time.dt) (List.range 4) _ rfl fun u hu i _ => ?_
  have hput (x : TimeBase) : (putTb u i x).time.dt = u.time.dt := rfl
  split
  · rw [wr_time, putFreq, putWord_time, hput]; exact hu
  · exact hu

theorem within_showFrozen (s t : State) : Within [.inForce] keptShownRegs t (showFrozen s t) :=
  Within.orNot (((within_putWord t _ _ _).append (within_putWord _ _ _ _)).mono (by decide) (by simp [keptShownRegs]))

/-- The parts that a reset leaves other than at their reset values. -/
def unclearedParts : List Part := [.power, .clock, .time, .img, .obs, .frames, .out, .pending, .freeCtr]

theorem onlyChanges_resetKept (s : State) (c : Nat) : OnlyChanges unclearedParts State.reset (resetKept s c) := by
  intro p hp
  cases p <;> simp_all [Part.same, unclearedParts, resetKept]

/-- The last states of a reset show what is kept. -/
theorem within_resetDevice (s : State) (hc : c ≠ 0) :
    Within [.clock, .inForce] keptShownRegs (causeShown (resetKept (closeAll s) c) (closeAll s) c) (resetDevice s c) := by
  rw [resetDevice_eq s hc]
  exact ((within_showKept _ _).append (within_showFrozen _ _)).mono (by decide) (by simp)

theorem shown_subset_kept : ∀ a ∈ Reg.glbResetCause.addr [] :: keptShownRegs, a ∈ keptOffsets := by decide

theorem cleared_resetDevice (s : State) (hc : c ≠ 0) {p : Part} (hp : p ∈ clearedParts) : p.same State.reset (resetDevice s c) := by
  have hparts : p ∉ unclearedParts ++ [.inForce] ++ [.clock, .inForce] := by
    revert p; decide
  exact ((onlyChanges_resetKept (closeAll s) c).append (within_causeShown _ _ c).1 |>.append (within_resetDevice s hc).1) p hparts

/-- What a reset keeps of flash and fuses comes from the state before. -/
theorem img_resetDevice (h : Bypassed s) (hc : c ≠ 0) : (resetDevice s c).img = keptImg s := by
  have hfinal : (resetDevice s c).img = (resetKept (closeAll s) c).img :=
    ((within_causeShown _ _ c).append (within_resetDevice s hc)).1 .img (by decide)
  have himg : (closeAll s).img = s.img := (closeAll_bypassed h).1.1 .img (by decide)
  have hkept : (resetKept (closeAll s) c).img = keptImg (closeAll s) := rfl
  rw [hfinal, hkept, keptImg, himg, keptImg]

theorem dt_resetDevice (h : Bypassed s) (hc : c ≠ 0) : (resetDevice s c).time.dt = s.time.dt := by
  have hkept : (resetKept (closeAll s) c).time.dt = (closeAll s).time.dt := rfl
  have hfrozen := (within_showFrozen (closeAll s)
    (showKept (closeAll s) (causeShown (resetKept (closeAll s) c) (closeAll s) c))).1 .clock (by decide)
  rw [resetDevice_eq s hc, hfrozen.1, dt_showKept, causeShown, wr_time, wr_time, hkept]
  exact ((closeAll_bypassed h).1.1 .clock (by decide)).1

theorem afterReset_resetDevice (h : Bypassed s) (hc : c ≠ 0) (hc8 : c < 8) : AfterReset s (resetDevice s c) c := by
  have hshown := within_causeShown (resetKept (closeAll s) c) (closeAll s) c
  have hfinal := hshown.append (within_resetDevice s hc)
  have himg := img_resetDevice h hc
  refine ⟨fun p hp => cleared_resetDevice s hc hp, (hfinal.1 .frames (by decide)).1, fun a d ha => ?_, ?_, ?_, by rw [himg]; rfl,
    by rw [himg]; rfl, by rw [himg]; rfl⟩
  · exact hfinal.2 a d fun hmem => ha (shown_subset_kept a (by simpa using hmem))
  · rw [(within_resetDevice s hc).2.rd_eq (by decide), causeShown, rd_wr_same (by decide) (by decide)]
    exact Nat.mod_eq_of_lt hc8
  · have hpower : (resetDevice s c).power = (resetKept (closeAll s) c).power := hfinal.1 .power (by decide)
    rw [hpower]
    rfl

theorem onlyChanges_resetDevice (h : Bypassed s) (hc : c ≠ 0) : OnlyChanges resetParts s (resetDevice s c) := by
  have hclosed := (closeAll_bypassed h).1.1
  have hfinal := ((within_causeShown (resetKept (closeAll s) c) (closeAll s) c).append (within_resetDevice s hc)).1
  have hkept : OnlyChanges resetParts (closeAll s) (resetKept (closeAll s) c) := by
    intro p hp
    cases p <;> simp_all [Part.same, resetParts, clearedParts, resetKept]
  exact ((hclosed.append hkept).append hfinal).mono (by decide)

/-! ### ACTIVATE_RESTART -/

/-- Bank `b` is named. -/
def bankNamed (u : State) (b : Nat) : State := { u with img := { u.img with named := b } }

theorem within_bankNamed (u : State) (b : Nat) : Within [.img] [] u (bankNamed u b) := within_of_img u _

theorem img_bankNamed (u : State) (b : Nat) : (bankNamed u b).img = { u.img with named := b } := rfl

theorem restartInto_trial (hbank : targetBank u = some b) (h : (bankOfImg u b).state = 3) :
    restartInto u = resetDevice (bankNamed u b) 2 := by
  unfold restartInto
  rw [hbank]
  dsimp only
  rw [if_pos h]
  rfl

theorem inForce_wr (u : State) (r : RegRow) (ix : List Nat) (hi lo v : Nat) :
    (wr u r ix hi lo v).regs.inForce =
      set (r.resetWord ix) u.regs.inForce (r.addr ix) (setFld (word u r ix) hi lo v) := rfl

/-- A zero RESULT leaves a register at zero. -/
theorem get_updShown_reset (hreset : ∀ d, get d t.regs.inForce (Reg.imgUpdCmd.addr []) = d) (d : Word) :
    get d (updShown (t, 0)).regs.inForce (Reg.imgUpdCmd.addr []) = d := by
  have hword : word t Reg.imgUpdCmd [] = 0 := hreset _
  have hvalue : setFld (word t Reg.imgUpdCmd []) 26 24 0 = Reg.imgUpdCmd.resetWord [] := by rw [hword]; decide
  rw [updShown, inForce_wr, hvalue, set, if_pos rfl]
  exact get_drop_same

theorem afterReset_updShown (h : AfterReset s t c) : AfterReset s (updShown (t, 0)) c := by
  obtain ⟨hparts, hframes, hregs, hcause, hreset, hflash⟩ := h
  have hshown := within_updShown (t, 0)
  have hcleared : OnlyChanges (unclearedParts ++ [.inForce]) State.reset t := fun p hp => hparts p (by
    cases p <;> simp_all [unclearedParts, clearedParts])
  have hpower : (updShown (t, 0)).power = t.power := hshown.1 .power (by decide)
  refine ⟨fun p hp => ?_, (hshown.1 .frames (by decide)).1.trans hframes, fun a d ha => ?_,
    (hshown.2.rd_eq (by decide)).trans hcause, by rw [hpower]; exact hreset, by rw [img_updShown]; exact hflash⟩
  · exact (hcleared.append hshown.1) p (by revert p; decide)
  · by_cases hcmd : a = Reg.imgUpdCmd.addr []
    · subst hcmd
      exact get_updShown_reset (fun d => hregs _ d ha) d
    · rw [hshown.2 a d (by simpa using hcmd)]
      exact hregs a d ha

theorem settle_reset (h : u.irq.disarmed = State.reset.irq.disarmed) : settle u = u := by
  have hzero : u.irq.disarmed &&& levels u = u.irq.disarmed := by rw [h]; exact BitVec.zero_and
  rw [settle, hzero]

theorem does_activateRestart (hbypassed : Bypassed s) (hreach : Reaches s req (Reg.imgUpdCmd.addr []))
    (hnone : s.img.activation = none) (hcommitted : s.img.committed ≠ none) (hbank : targetBank s = some b)
    (htrial : (bankOfImg s b).state = 3) :
    Does (.activateRestart req) s resetParts fun t =>
      AfterReset s t 2 ∧ t.img.named = b ∧ t.img.banks = s.img.banks ∧ t.time.dt = s.time.dt := by
  have hcommanded := within_updCommanded s req 0x90000000
  have himg := img_updCommanded s req 0x90000000
  have htarget : targetBank (updCommanded s req 0x90000000) = some b :=
    (targetBank_congr (recovering_of_regsBut hcommanded.2 (by decide)) (hcommanded.2.rd_eq (by decide)) (by rw [himg])
      (by rw [himg]) (by rw [hcommanded.1 .power (by decide)])).trans hbank
  have htrial' : (bankOfImg (updCommanded s req 0x90000000) b).state = 3 := by
    rw [bankOfImg_of_banks (s := s) (by rw [himg])]; exact htrial
  have hacts : updActs (updCommanded s req 0x90000000) 2 = (resetDevice (bankNamed (updCommanded s req 0x90000000) b) 2, 0) := by
    show activateRestart (updCommanded s req 0x90000000) = _
    unfold activateRestart
    rw [himg, hnone, Option.isSome_iff_ne_none.2 hcommitted, restartInto_trial htarget htrial']
    rfl
  have hnamed := hcommanded.append (within_bankNamed (updCommanded s req 0x90000000) b)
  have hpairs : Bypassed (bankNamed (updCommanded s req 0x90000000) b) := by
    rw [Bypassed, hnamed.1 .twin (by decide)]; exact hbypassed
  have hkept := img_resetDevice hpairs (c := 2) (by decide)
  have hshown := within_updShown (resetDevice (bankNamed (updCommanded s req 0x90000000) b) 2, 0)
  have hafter : AfterReset s (resetDevice (bankNamed (updCommanded s req 0x90000000) b) 2) 2 := by
    obtain ⟨hparts, hframes, hregs, hcause, hreset, hfloor, hkey, hconfig⟩ :=
      afterReset_resetDevice hpairs (c := 2) (by decide) (by decide)
    rw [img_bankNamed, himg] at hfloor hkey hconfig
    exact ⟨hparts, hframes, hregs, hcause, hreset, hfloor, hkey, hconfig⟩
  have hfinal := afterReset_updShown hafter
  have hexec : exec (.activateRestart req) s = done (updShown (resetDevice (bankNamed (updCommanded s req 0x90000000) b) 2, 0)) :=
    congrArg done ((updDoorbell_eq hreach (by decide)).trans (congrArg updShown hacts))
  have hsettle : settle (updShown (resetDevice (bankNamed (updCommanded s req 0x90000000) b) 2, 0)) =
      updShown (resetDevice (bankNamed (updCommanded s req 0x90000000) b) 2, 0) :=
    settle_reset (hfinal.1 .arming (by decide)).1
  have himg' : (updShown (resetDevice (bankNamed (updCommanded s req 0x90000000) b) 2, 0)).img =
      keptImg (bankNamed (updCommanded s req 0x90000000) b) := by rw [img_updShown, hkept]
  have hframe := (hnamed.1.append (onlyChanges_resetDevice hpairs (c := 2) (by decide))).append hshown.1
  refine does_of hexec (hframe.mono (by decide)) ?_
  rw [hsettle, himg']
  refine ⟨hfinal, rfl, ?_, ?_⟩
  · rw [keptImg, img_bankNamed, himg]
  · rw [(hshown.1 .clock (by decide)).1, dt_resetDevice hpairs (by decide)]
    exact (hnamed.1 .clock (by decide)).1

end

/-- Settles O49: an activation's next item and its reversal are one equation each (`nextItem_engine`, `nextItem_core`,
`nextRevert_core`, `nextRevert_none`), and a restart is `resetDevice`. -/
theorem activationsProceed : Obligations.ActivationsProceed := by
  refine ⟨?_, fun s req e es => does_activateHitless, fun s req => does_activateHitless_paired, fun s req => does_activateTwin, ?_,
    fun s req b => does_activateRestart, ?_, fun s e a e2 es => does_engineDrained, fun s e a => does_drainTimeout,
    fun s c a c2 cs => does_coreUpdateDone, fun s c a cs => does_coreUpdateDone_failed⟩
  · intro s req hreach hbarred
    have hmay := mayActivate_updCommanded s req 0x80000000 1
    have hacts : updActs (updCommanded s req 0x80000000) 0 = (updCommanded s req 0x80000000, mayActivate s 1) := by
      rw [← hmay] at hbarred ⊢
      exact if_pos hbarred
    exact does_of_updShown (congrArg done ((updDoorbell_eq hreach (by decide)).trans (congrArg updShown hacts)))
      (mayActivate_lt s 1)
  · intro s req hreach hbarred
    have hmay := mayActivate_updCommanded s req 0x88000000 2
    have hacts : updActs (updCommanded s req 0x88000000) 1 = (updCommanded s req 0x88000000, mayActivate s 2) := by
      rw [← hmay] at hbarred ⊢
      exact if_pos hbarred
    exact does_of_updShown (congrArg done ((updDoorbell_eq hreach (by decide)).trans (congrArg updShown hacts)))
      (mayActivate_lt s 2)
  · intro s req hreach hnone hcommitted hvalid
    have himg := img_updCommanded s req 0x90000000
    have hstate : ¬ ((updCommanded s req 0x90000000).img.committed.isSome ||
        (bankOfImg (updCommanded s req 0x90000000) (updCommanded s req 0x90000000).img.named).state == 3) = true := by
      rw [bankOfImg_of_banks (s := s) (by rw [himg]), himg, hcommitted]
      simpa using hvalid
    have hacts : updActs (updCommanded s req 0x90000000) 2 = (updCommanded s req 0x90000000, 3) := by
      show activateRestart (updCommanded s req 0x90000000) = _
      unfold activateRestart
      rw [if_neg (by rw [himg, hnone]; decide), if_neg hstate]
    exact does_of_updShown (congrArg done ((updDoorbell_eq hreach (by decide)).trans (congrArg updShown hacts))) (by decide)

end Sys2Proof.Machine

/-! PROOFS. Units of maintenance work and claims on balls (R496 to R504, Table 18-5). -/
namespace Sys2Proof.Machine

section
variable {s u : State} {a : Fin 14} {res : MaintResult} {x : Frame} {f k : Nat} {unit : RecalUnit}

/-! ### Units of work -/

theorem exec_maintUnitDone (h : maintActs s a = true) : exec (.maintUnitDone a res) s = done (unitEnds s a res) :=
  congrArg done (if_pos (by rw [h]; rfl))

/-- A unit that only counts changes one counter. -/
theorem does_of_counted {i : Instr} (hk : k < 8) (hexec : exec i s = done (bump s Ctr.maint [] k 1)) :
    Does i s [.counters] fun t =>
      ctr t Ctr.maint [] k = (ctr s Ctr.maint [] k + 1) % 2 ^ 40 ∧ CountersBut [Ctr.maint.addr [] k] s t := by
  have hwidth : Ctr.maint.widths.getD k 0 = 40 := by
    rw [show Ctr.maint.widths = List.replicate 8 40 from rfl, List.getD_replicate _ hk]
  refine does_of_all hexec (within_bump s Ctr.maint [] k 1).1 ⟨?_, countersBut_bump (List.mem_singleton_self _)⟩ fun _ _ h => h
  rw [ctr_bump_same, hwidth]

theorem does_corrected (h : maintActs s a = true) (ha : a.val < 3) :
    Does (.maintUnitDone a .corrected) s [.counters] fun t =>
      ctr t Ctr.maint [] (if a.val = 2 then 2 else 0) = (ctr s Ctr.maint [] (if a.val = 2 then 2 else 0) + 1) % 2 ^ 40 ∧
        CountersBut [Ctr.maint.addr [] (if a.val = 2 then 2 else 0)] s t :=
  does_of_counted (by split <;> decide) ((exec_maintUnitDone h).trans (congrArg done (if_pos ha)))

theorem unitEnds_uncorrectable (ha : a.val < 2) {place : ErrorPlace} (hfits : placeFits a place = true) :
    unitEnds s a (.uncorrectable place) = spoil (bump s Ctr.maint [] 1 1) place := by
  have hcounter : (if a.val = 2 then 3 else 1) = 1 := if_neg (by omega)
  refine (if_pos hfits).trans ?_
  rw [hcounter]

theorem does_uncorrectable_cell (h : maintActs s a = true) (ha : a.val < 2) (hx : frame s f = some x) :
    Does (.maintUnitDone a (.uncorrectable (.cell f))) s [.counters, .frames] fun t =>
      ctr t Ctr.maint [] 1 = (ctr s Ctr.maint [] 1 + 1) % 2 ^ 40 ∧ CountersBut [Ctr.maint.addr [] 1] s t ∧
        frame t f = some { x with spoiled := true } ∧ ∀ g, g ≠ f → frame t g = frame s g := by
  have hspoil : spoil (bump s Ctr.maint [] 1 1) (.cell f) = putFrame (bump s Ctr.maint [] 1 1) f { x with spoiled := true } := by
    have hx' : frame (bump s Ctr.maint [] 1 1) f = some x := hx
    unfold spoil
    dsimp only
    rw [hx']
  have hfits : placeFits a (.cell f) = true := decide_eq_true ha
  have hexec : exec (.maintUnitDone a (.uncorrectable (.cell f))) s =
      done (putFrame (bump s Ctr.maint [] 1 1) f { x with spoiled := true }) :=
    (exec_maintUnitDone h).trans (congrArg done ((unitEnds_uncorrectable ha hfits).trans hspoil))
  have hput := onlyChanges_putFrame (bump s Ctr.maint [] 1 1) f { x with spoiled := true }
  refine does_of_all hexec (((within_bump s Ctr.maint [] 1 1).1.append hput).mono (by decide))
    ⟨?_, ?_, frame_putFrame_same, fun g hg => find_put_other hg⟩ fun _ _ h => h
  · rw [ctr_of_onlyChanges hput (by decide)]; exact ctr_bump_same
  · exact countersBut_bump (s := s) (g := Ctr.maint) (ix := []) (i := 1) (n := 1) (List.mem_singleton_self _)

/-! ### Recalibration -/

/-- A recalibration that ran is over. -/
def recalOver (s : State) (unit : RecalUnit) (compensated : Bool) : State :=
  { s with maint := { s.maint with
      recal := s.maint.recal.filter (· != ⟨unit, compensated⟩), cal := put s.maint.cal (unitCode unit) s.time.dt } }

theorem maintActs_recal {compensated : Bool} (hunit : unitActivity unit = a.val)
    (hruns : s.maint.recal.contains ⟨unit, compensated⟩ = true) : maintActs s a = true := by
  have hany : (s.maint.recal.any fun r => unitActivity r.unit == a.val) = true :=
    List.any_eq_true.2 ⟨_, List.contains_iff_mem.1 hruns, by simpa using hunit⟩
  rw [maintActs, hany]
  simp

theorem unitEnds_recalibrated {compensated : Bool} (hunit : unitActivity unit = a.val)
    (hruns : s.maint.recal.contains ⟨unit, compensated⟩ = true) :
    unitEnds s a (.recalibrated unit compensated) =
      if compensated = true then
        putWord (countEvent (bump (bump (recalOver s unit compensated) Ctr.maint [] 4 1) Ctr.maint [] 6 1) Reg.maintCompCnt [])
          Reg.maintCompLast [] (BitVec.ofNat 32 (unitCode unit))
      else bump (recalOver s unit compensated) Ctr.maint [] 4 1 := by
  refine (if_pos hunit).trans ?_
  unfold recalibrated
  rw [hruns]
  rfl

theorem does_recalibrated_compensated (hunit : unitActivity unit = a.val)
    (hruns : s.maint.recal.contains ⟨unit, true⟩ = true) :
    Does (.maintUnitDone a (.recalibrated unit true)) s [.counters, .inForce, .maint] fun t =>
      t.maint = { s.maint with
        recal := s.maint.recal.filter (· != ⟨unit, true⟩), cal := put s.maint.cal (unitCode unit) s.time.dt } ∧
      ctr t Ctr.maint [] 4 = (ctr s Ctr.maint [] 4 + 1) % 2 ^ 40 ∧ ctr t Ctr.maint [] 6 = (ctr s Ctr.maint [] 6 + 1) % 2 ^ 40 ∧
      word t Reg.maintCompCnt [] = word s Reg.maintCompCnt [] + 1 ∧
      word t Reg.maintCompLast [] = BitVec.ofNat 32 (unitCode unit) ∧
      RegsBut [Reg.maintCompCnt.addr [], Reg.maintCompLast.addr []] s t := by
  have hover : Within [.maint] [] s (recalOver s unit true) := within_of_maint s _
  have hbumped := ((hover.append (within_bump _ Ctr.maint [] 4 1)).append (within_bump _ Ctr.maint [] 6 1))
  have hcounted := hbumped.append (within_countEvent _ Reg.maintCompCnt [])
  have hlast := within_putWord (countEvent (bump (bump (recalOver s unit true) Ctr.maint [] 4 1) Ctr.maint [] 6 1)
    Reg.maintCompCnt []) Reg.maintCompLast [] (BitVec.ofNat 32 (unitCode unit))
  have hframe := hcounted.append hlast
  have hshown := ((within_countEvent (bump (bump (recalOver s unit true) Ctr.maint [] 4 1) Ctr.maint [] 6 1)
    Reg.maintCompCnt []).append hlast).1
  have hexec := (exec_maintUnitDone (maintActs_recal hunit hruns)).trans (congrArg done (unitEnds_recalibrated hunit hruns))
  rw [if_pos rfl] at hexec
  refine does_of_all hexec (hframe.1.mono (by decide)) ⟨?_, ?_, ?_, ?_, word_putWord_same, hframe.2.mono (by simp)⟩ fun _ _ h => h
  · have hmaint : (recalOver s unit true).maint = { s.maint with
        recal := s.maint.recal.filter (· != ⟨unit, true⟩), cal := put s.maint.cal (unitCode unit) s.time.dt } := rfl
    rw [putWord_maint, countEvent_maint, ← hmaint]
    rfl
  · rw [ctr_of_onlyChanges hshown (by decide), ctr_bump_other (by decide), ctr_bump_same, ctr_of_onlyChanges hover.1 (by decide)]
    rfl
  · rw [ctr_of_onlyChanges hshown (by decide), ctr_bump_same, ctr_bump_other (by decide), ctr_of_onlyChanges hover.1 (by decide)]
    rfl
  · rw [hlast.2.word_eq (by decide), word_countEvent_same, hbumped.2.word_eq (by simp)]

theorem does_recalibrated (hunit : unitActivity unit = a.val) (hruns : s.maint.recal.contains ⟨unit, false⟩ = true) :
    Does (.maintUnitDone a (.recalibrated unit false)) s [.counters, .maint] fun t =>
      t.maint = { s.maint with
        recal := s.maint.recal.filter (· != ⟨unit, false⟩), cal := put s.maint.cal (unitCode unit) s.time.dt } ∧
      ctr t Ctr.maint [] 4 = (ctr s Ctr.maint [] 4 + 1) % 2 ^ 40 ∧ CountersBut [Ctr.maint.addr [] 4] s t := by
  have hover : Within [.maint] [] s (recalOver s unit false) := within_of_maint s _
  have hexec := (exec_maintUnitDone (maintActs_recal hunit hruns)).trans (congrArg done (unitEnds_recalibrated hunit hruns))
  rw [if_neg (by decide)] at hexec
  refine does_of_all hexec ((hover.append (within_bump _ Ctr.maint [] 4 1)).1.mono (by decide)) ⟨rfl, ?_, ?_⟩ fun _ _ h => h
  · rw [ctr_bump_same, ctr_of_onlyChanges hover.1 (by decide)]
    rfl
  · exact countersBut_bump (s := recalOver s unit false) (List.mem_singleton_self _)

/-- A unit on a parent path falls due. -/
def deferredFrom (s : State) (unit : RecalUnit) : State :=
  { bump s Ctr.maint [] 5 1 with maint := { s.maint with due := s.maint.due ++ [⟨unit, some s.time.dt⟩] } }

theorem does_deferred (hunit : unitActivity unit = a.val) (hunits : (recalUnits s).contains unit = true)
    (hpath : unitOnPath s unit = true) (hruns : (s.maint.recal.any fun r => r.unit == unit) = false)
    (hwaits : (s.maint.due.any fun d => d.unit == unit) = false) :
    Does (.maintUnitDone a (.deferred unit)) s [.counters, .maint] fun t =>
      t.maint = { s.maint with due := s.maint.due ++ [⟨unit, some s.time.dt⟩] } ∧
        ctr t Ctr.maint [] 5 = (ctr s Ctr.maint [] 5 + 1) % 2 ^ 40 ∧ CountersBut [Ctr.maint.addr [] 5] s t := by
  have hfall : fallDue s unit = deferredFrom s unit := by
    unfold fallDue
    rw [hruns, hwaits, deferUnit, if_pos hpath]
    rfl
  have hends : unitEnds s a (.deferred unit) = fallDue s unit :=
    if_pos (show unitActivity unit = a.val ∧ (recalUnits s).contains unit = true ∧ unitOnPath s unit = true from
      ⟨hunit, hunits, hpath⟩)
  have hadmitted : (if (maintActs s a || fallsDue (.deferred unit)) = true then unitEnds s a (.deferred unit) else s) =
      unitEnds s a (.deferred unit) := if_pos (Bool.or_true _)
  have hexec : exec (.maintUnitDone a (.deferred unit)) s = done (deferredFrom s unit) :=
    congrArg done (hadmitted.trans (hends.trans hfall))
  refine does_of_all hexec (((within_bump s Ctr.maint [] 5 1).append (within_of_maint _ _)).1.mono (by decide))
    ⟨rfl, ?_, ?_⟩ fun _ _ h => h
  · exact ctr_bump_same (s := s) (g := Ctr.maint) (ix := []) (i := 5) (n := 1)
  · exact countersBut_bump (s := s) (g := Ctr.maint) (ix := []) (i := 5) (n := 1) (List.mem_singleton_self _)

/-! ### A block of a capture that moves -/

theorem does_block_error {data : List Byte} {m : Nat × Nat} (hmoving : s.obs.moving = some m) :
    Does (.maintUnitDone 11 (.block data true)) s [.inForce, .obs] fun t =>
      t.obs = { s.obs with moving := none } ∧ rdBit t Reg.obsExpCtrl [] 30 = false ∧ rd t Reg.obsExpCtrl [] 26 24 = 4 := by
  have hacts : maintActs s (11 : Fin 14) = true := by
    have hrequest : requested s 11 = true := by
      show s.obs.moving.isSome = true
      rw [hmoving]; rfl
    show (_ || _ || requested s 11) = true
    rw [hrequest, Bool.or_true]
  have hblock : moveBlock s data true = endExport s 4 := by
    unfold moveBlock
    rw [hmoving]
    rfl
  have hexec : exec (.maintUnitDone 11 (.block data true)) s = done (endExport s 4) :=
    (exec_maintUnitDone hacts).trans (congrArg done hblock)
  have hidle := (within_of_obs s { s.obs with moving := none }).append
    (within_wrBit { s with obs := { s.obs with moving := none } } Reg.obsExpCtrl [] 30 false)
  have hframe := hidle.append (within_wr (wrBit { s with obs := { s.obs with moving := none } } Reg.obsExpCtrl [] 30 false)
    Reg.obsExpCtrl [] 26 24 4)
  refine does_of_all hexec (hframe.1.mono (by decide)) ⟨?_, ?_, rd_wr_same (by decide) (by decide)⟩ fun _ _ h => h
  · rw [endExport, expResult, wr_obs, wrBit_obs]
  · rw [endExport, expResult, rdBit, word_wr_same, flag_setFld_above (by decide) (by decide) (by decide), word_wrBit_same]
    exact flag_setFld_same (by decide)

end

end Sys2Proof.Machine

/-! PROOFS. Claims on balls (R502, R504); maintenance reports and balls are claimed. -/
namespace Sys2Proof.Machine

section
variable {s u : State} {req : Requester} {n : Fin 64} {code : BitVec 4} {dir out : Bool} {data : Word} {k : Nat}

theorem ball_addr (n : Nat) : Reg.maintBall.addr [n] = 0xF80400 + 4 * n := by
  simp [RegRow.addr, Reg.maintBall, offsetOf]
  omega

theorem claimCnt_ne_ball (n : Nat) : Reg.maintClaimCnt.addr [] ≠ Reg.maintBall.addr [n] := by
  rw [ball_addr]
  have h : Reg.maintClaimCnt.addr [] = 0xF80210 := rfl
  omega

theorem claimLast_ne_ball (n : Nat) : Reg.maintClaimLast.addr [] ≠ Reg.maintBall.addr [n] := by
  rw [ball_addr]
  have h : Reg.maintClaimLast.addr [] = 0xF80218 := rfl
  omega

/-! ### OWNER, DIR and OUT -/

theorem within_driveBall (u : State) (n : Nat) (data : Word) :
    Within [.staged, .inForce] [Reg.maintBall.addr [n]] u (driveBall u n data) := within_wrBoth u _ [n] 1 0 _

theorem ballOwner_driveBall (u : State) (n : Nat) (data : Word) : ballOwner (driveBall u n data) n = ballOwner u n := by
  rw [ballOwner, rd, driveBall, word_wrBoth_same, fld_setFld_above (by decide) (by decide) (by decide)]
  rfl

theorem drive_driveBall (u : State) (n : Nat) (data : Word) :
    rd (driveBall u n data) Reg.maintBall [n] 1 0 = fld data 1 0 := by
  rw [driveBall, rd_wrBoth_same (by decide) (by decide)]
  exact Nat.mod_mod _ _

/-- What a write of OWNER stages. -/
def ballStaged (s : State) (n : Nat) (data : Word) : State :=
  putStaged s Reg.maintBall [n] (setFld (setFld (stagedWord s Reg.maintBall [n]) 31 28 (fld data 31 28)) 1 0 (fld data 1 0))

theorem within_ballStaged (s : State) (n : Nat) (data : Word) : Within [.staged] [] s (ballStaged s n data) :=
  within_putStaged s _ [n] _

theorem ballWrite_claims {n : Nat} (hclaimed : ballClaimed s n = false) (hfree : ballOwner s n = 0)
    (hcode : ¬ fld data 31 28 = 0) :
    ballWrite s req n data = driveBall (wr (ballStaged s n data) Reg.maintBall [n] 31 28 (ownerCode req)) n data := by
  have hkept (w : Word) : ballClaimed (putStaged s Reg.maintBall [n] w) n = false := hclaimed
  simp [ballWrite, hkept, ballStaged, hfree, hcode]

theorem ballWrite_releases {n : Nat} (hclaimed : ballClaimed s n = false) (hheld : ballOwner s n ≠ 0)
    (howner : ballOwner s n = ownerCode req) (hcode : fld data 31 28 = 0) :
    ballWrite s req n data = wr (driveBall (ballStaged s n data) n data) Reg.maintBall [n] 31 28 0 := by
  have hkept (w : Word) : ballClaimed (putStaged s Reg.maintBall [n] w) n = false := hclaimed
  have hmine : ¬ ownerCode req = 0 := howner ▸ hheld
  simp [ballWrite, hkept, ballStaged, howner, hmine, hcode]

theorem ballWrite_refused {n : Nat} (hclaimed : ballClaimed s n = false) (hheld : ballOwner s n ≠ 0)
    (howner : ballOwner s n ≠ ownerCode req) (hcode : ¬ fld data 31 28 = 0) :
    ballWrite s req n data = refuseBall (ballStaged s n data) req n 2 := by
  have hkept (w : Word) : ballClaimed (putStaged s Reg.maintBall [n] w) n = false := hclaimed
  simp [ballWrite, hkept, ballStaged, hheld, howner, hcode]

/-! ### What an owner write holds -/

/-- The word of a ball with a code in OWNER. -/
def ownerWord (s : State) (n : Nat) (code : BitVec 4) : Word := setFld (word s Reg.maintBall [n]) 31 28 code.toNat

theorem owner_ownerWord (s : State) (n : Nat) (code : BitVec 4) : fld (ownerWord s n code) 31 28 = code.toNat :=
  (fld_setFld_same (by decide) (by decide)).trans (Nat.mod_eq_of_lt code.isLt)

theorem drive_ownerWord (s : State) (n : Nat) (code : BitVec 4) : fld (ownerWord s n code) 1 0 = rd s Reg.maintBall [n] 1 0 :=
  fld_setFld_below (by decide) (by decide) (by decide)

theorem exec_ballOwnerWrite (hreach : Reaches s req (Reg.maintBall.addr [n])) (code : BitVec 4) :
    exec (.ballOwnerWrite req n code) s = done (ballWrite s req n (ownerWord s n code)) :=
  congrArg done (doorbell_of_reaches hreach _ _)

theorem does_ball_claimed (hreach : Reaches s req (Reg.maintBall.addr [n])) (hclaimed : ballClaimed s n = false)
    (hfree : ballOwner s n = 0) (hcode : code ≠ 0) :
    Does (.ballOwnerWrite req n code) s [.staged, .inForce] fun t =>
      ballOwner t n = ownerCode req % 16 ∧ rd t Reg.maintBall [n] 1 0 = rd s Reg.maintBall [n] 1 0 ∧
        RegsBut [Reg.maintBall.addr [n]] s t := by
  have hcode' : ¬ fld (ownerWord s n code) 31 28 = 0 := by
    rw [owner_ownerWord]
    exact fun h => hcode (BitVec.eq_of_toNat_eq h)
  have hexec := exec_ballOwnerWrite hreach code
  rw [ballWrite_claims hclaimed hfree hcode'] at hexec
  have hstaged := within_ballStaged s n (ownerWord s n code)
  have howned := within_wr (ballStaged s n (ownerWord s n code)) Reg.maintBall [n.val] 31 28 (ownerCode req)
  have hframe := (hstaged.append howned).append
    (within_driveBall (wr (ballStaged s n (ownerWord s n code)) Reg.maintBall [n] 31 28 (ownerCode req)) n (ownerWord s n code))
  refine does_of_all hexec (hframe.1.mono (by decide)) ⟨?_, ?_, hframe.2.mono (by simp)⟩ fun _ _ h => h
  · rw [ballOwner_driveBall]
    exact rd_wr_same (by decide) (by decide)
  · rw [drive_driveBall, drive_ownerWord]

theorem does_ball_released (hreach : Reaches s req (Reg.maintBall.addr [n])) (hclaimed : ballClaimed s n = false)
    (hheld : ballOwner s n ≠ 0) (howner : ballOwner s n = ownerCode req) :
    Does (.ballOwnerWrite req n 0) s [.staged, .inForce] fun t => ballOwner t n = 0 ∧ RegsBut [Reg.maintBall.addr [n]] s t := by
  have hexec := exec_ballOwnerWrite hreach 0
  have hnone : fld (ownerWord s n 0) 31 28 = 0 := owner_ownerWord s n 0
  rw [ballWrite_releases hclaimed hheld howner hnone] at hexec
  have hframe := ((within_ballStaged s n (ownerWord s n 0)).append
    (within_driveBall (ballStaged s n (ownerWord s n 0)) n (ownerWord s n 0))).append
      (within_wr (driveBall (ballStaged s n (ownerWord s n 0)) n (ownerWord s n 0)) Reg.maintBall [n.val] 31 28 0)
  exact does_of_all hexec (hframe.1.mono (by decide)) ⟨rd_wr_same (by decide) (by decide), hframe.2.mono (by simp)⟩
    fun _ _ h => h

/-! ### Refused claims -/

theorem within_refuseBall (u : State) (req : Requester) (n k : Nat) :
    Within [.inForce] [Reg.maintClaimCnt.addr [], Reg.maintClaimLast.addr []] u (refuseBall u req n k) :=
  ((within_countEvent u _ _).append (within_putWord _ _ _ _)).mono (by decide) (by simp)

theorem reqCode_lt (req : Requester) : reqCode req < 8 := by
  cases req with
  | mc k => have := k.isLt; show k.val + 1 < 8; omega
  | host => decide
  | spi => decide
  | twin => decide

theorem counted_refuseBall (u : State) (req : Requester) (n k : Nat) :
    word (refuseBall u req n k) Reg.maintClaimCnt [] = word u Reg.maintClaimCnt [] + 1 :=
  (word_putWord_other (by decide)).trans word_countEvent_same

theorem code_refuseBall (u : State) (req : Requester) {n k : Nat} (hn : n < 64) (hk : k < 16) :
    rd (refuseBall u req n k) Reg.maintClaimLast [] 31 28 = k := by
  have hreq := reqCode_lt req
  have hword : word (refuseBall u req n k) Reg.maintClaimLast [] =
      BitVec.ofNat 32 (k * 2 ^ 28 + reqCode req * 2 ^ 25 + 0 * 2 ^ 24 + n) := word_putWord_same
  rw [rd, hword, fld, BitVec.toNat_ofNat, bits]
  omega

theorem does_ball_refused (hreach : Reaches s req (Reg.maintBall.addr [n])) (hclaimed : ballClaimed s n = false)
    (hheld : ballOwner s n ≠ 0) (howner : ballOwner s n ≠ ownerCode req) (hcode : code ≠ 0) :
    Does (.ballOwnerWrite req n code) s [.staged, .inForce] fun t =>
      word t Reg.maintBall [n] = word s Reg.maintBall [n] ∧ word t Reg.maintClaimCnt [] = word s Reg.maintClaimCnt [] + 1 ∧
        rd t Reg.maintClaimLast [] 31 28 = 2 ∧ RegsBut [Reg.maintClaimCnt.addr [], Reg.maintClaimLast.addr []] s t := by
  have hcode' : ¬ fld (ownerWord s n code) 31 28 = 0 := by
    rw [owner_ownerWord]
    exact fun h => hcode (BitVec.eq_of_toNat_eq h)
  have hexec := exec_ballOwnerWrite hreach code
  rw [ballWrite_refused hclaimed hheld howner hcode'] at hexec
  have hstaged := within_ballStaged s n (ownerWord s n code)
  have hframe := hstaged.append (within_refuseBall (ballStaged s n (ownerWord s n code)) req n 2)
  refine does_of_all hexec (hframe.1.mono (by decide)) ⟨?_, ?_, code_refuseBall _ req n.isLt (by decide), hframe.2.mono (by simp)⟩
    fun _ _ h => h
  · exact hframe.2.word_eq (by simpa using ⟨(claimCnt_ne_ball n).symm, (claimLast_ne_ball n).symm⟩)
  · rw [counted_refuseBall, hstaged.2.word_eq (by simp)]

/-! ### Driving a ball -/

/-- The word of a ball with DIR and OUT as written. -/
def driveWord (s : State) (n : Nat) (dir out : Bool) : Word := setFld (word s Reg.maintBall [n]) 1 0 (2 * bnat dir + bnat out)

theorem exec_ballDriveWrite (hreach : Reaches s req (Reg.maintBall.addr [n])) (dir out : Bool) :
    exec (.ballDriveWrite req n dir out) s = done (ballDrive s req n (driveWord s n dir out)) :=
  congrArg done (doorbell_of_reaches hreach _ _)

theorem drive_driveWord (s : State) (n : Nat) (dir out : Bool) : fld (driveWord s n dir out) 1 0 = 2 * bnat dir + bnat out := by
  rw [driveWord, fld_setFld_same (by decide) (by decide)]
  cases dir <;> cases out <;> rfl

theorem does_ball_driven (hreach : Reaches s req (Reg.maintBall.addr [n])) (hclaimed : ballClaimed s n = false)
    (hheld : ballOwner s n ≠ 0) (howner : ballOwner s n = ownerCode req) :
    Does (.ballDriveWrite req n dir out) s [.staged, .inForce] fun t =>
      rd t Reg.maintBall [n] 1 0 = 2 * bnat dir + bnat out ∧ ballOwner t n = ballOwner s n ∧
        RegsBut [Reg.maintBall.addr [n]] s t := by
  have hdrive : ballDrive s req n (driveWord s n dir out) = driveBall s n (driveWord s n dir out) := by
    rw [ballDrive, if_neg (by rw [hclaimed]; decide), if_pos ⟨hheld, howner⟩]
  have hframe := within_driveBall s n (driveWord s n dir out)
  exact does_of_all ((exec_ballDriveWrite hreach dir out).trans (congrArg done hdrive)) hframe.1
    ⟨(drive_driveBall s n _).trans (drive_driveWord s n dir out), ballOwner_driveBall s n _, hframe.2⟩ fun _ _ h => h

theorem does_ball_barred (hreach : Reaches s req (Reg.maintBall.addr [n])) (hclaimed : ballClaimed s n = true) :
    Does (.ballDriveWrite req n dir out) s [.inForce] fun t =>
      word t Reg.maintBall [n] = word s Reg.maintBall [n] ∧ rd t Reg.maintClaimLast [] 31 28 = 1 := by
  have hdrive : ballDrive s req n (driveWord s n dir out) = refuseBall s req n 1 := if_pos hclaimed
  have hframe := within_refuseBall s req n 1
  exact does_of_all ((exec_ballDriveWrite hreach dir out).trans (congrArg done hdrive)) hframe.1
    ⟨hframe.2.word_eq (by simpa using ⟨(claimCnt_ne_ball n).symm, (claimLast_ne_ball n).symm⟩),
      code_refuseBall s req n.isLt (by decide)⟩ fun _ _ h => h

end

/-- Settles O51: a unit's end is one case of `unitEnds`, most of which only count (`does_of_counted`), and a ball's word is written by
`driveBall` and `refuseBall` alone. -/
theorem unitsReportAndBallsAreClaimed : Obligations.UnitsReportAndBallsAreClaimed := by
  refine ⟨fun s a => does_corrected, fun s a f x => does_uncorrectable_cell, ?_, fun s a unit => does_recalibrated_compensated,
    fun s a unit => does_recalibrated, fun s a unit => does_deferred, ?_, ?_, ?_, ?_, fun s data m => does_block_error,
    fun s req n code => does_ball_claimed, fun s req n => does_ball_released, fun s req n code => does_ball_refused,
    fun s req n dir out => does_ball_driven, fun s req n dir out => does_ball_barred⟩
  · intro s a hacts ha
    exact does_of_counted (by decide)
      ((exec_maintUnitDone hacts).trans (congrArg done (unitEnds_uncorrectable ha (decide_eq_true ha))))
  · intro s hacts
    have hexec : exec (.maintUnitDone 2 .patrolLate) s = done { s with maint := { s.maint with patrolLate := true } } :=
      exec_maintUnitDone hacts
    exact does_of_all hexec (onlyChanges_of_maint s _) rfl fun _ _ h => h
  · intro s hacts
    have hexec : exec (.maintUnitDone 2 .done) s = done { s with maint := { s.maint with patrolLate := false } } :=
      exec_maintUnitDone hacts
    exact does_of_all hexec (onlyChanges_of_maint s _) rfl fun _ _ h => h
  · intro s hacts
    exact does_of_counted (by decide) (exec_maintUnitDone hacts)
  · intro s a res hacts hfalls
    have hexec : exec (.maintUnitDone a res) s = done s := congrArg done (if_neg (by rw [hacts, hfalls]; decide))
    exact does_of_all hexec (.refl _ s) trivial fun _ _ h => h

end Sys2Proof.Machine

/-! PROOFS. The recorder (R514 to R518, Table 19-5). -/
namespace Sys2Proof.Machine

section
variable {s u : State} {req : Requester} {r : Rec} {k c m index : Nat}

/-! ### Records -/

/-- A record of the capture changes these fields of the recorder alone. -/
def RecKept (o o' : Obs) : Prop :=
  o' = { o with records := o'.records, bytes := o'.bytes, cycleBytes := o'.cycleBytes, trace := o'.trace }

theorem RecKept.refl (o : Obs) : RecKept o o := rfl

theorem RecKept.trans {o o' o'' : Obs} (h : RecKept o o') (h' : RecKept o' o'') : RecKept o o'' := by
  rw [RecKept] at h h' ⊢
  rw [h', h]

theorem within_writeRec (s : State) (r : Rec) : Within [.obs, .counters] [] s (writeRec s r) :=
  ((within_of_obs s _).append (within_bump _ Ctr.obs [] 2 1)).mono (by decide) (by simp)

theorem recKept_writeRec (s : State) (r : Rec) : RecKept s.obs (writeRec s r).obs := rfl

theorem within_traceRec (s : State) (r : Rec) : Within [.obs] [] s (traceRec s r) := Within.orNot (within_of_obs s _)

theorem recKept_traceRec (s : State) (r : Rec) : RecKept s.obs (traceRec s r).obs := by
  rw [traceRec]
  split <;> rfl

theorem record_eq (s : State) (ty flags src : Nat) (body : List Byte) :
    record s ty flags src body =
      traceRec (if recording s = true then writeRec s ⟨ty, flags, dtFrac s, src, body⟩ else s) ⟨ty, flags, dtFrac s, src, body⟩ := rfl

theorem within_record (s : State) (ty flags src : Nat) (body : List Byte) :
    Within [.obs, .counters] [] s (record s ty flags src body) := by
  rw [record_eq]
  exact ((within_writeRec s _).orNot.append (within_traceRec _ _)).mono (by decide) (by simp)

theorem recKept_record (s : State) (ty flags src : Nat) (body : List Byte) : RecKept s.obs (record s ty flags src body).obs := by
  rw [record_eq]
  refine RecKept.trans ?_ (recKept_traceRec _ _)
  split
  · exact recKept_writeRec s _
  · exact .refl _

/-! ### A write of OBS_REC_CTRL -/

theorem serves_recCtrl (s : State) : serves s (Reg.obsRecCtrl.addr []) = windowsOpen s := by
  have hblock : ((blockOf (Reg.obsRecCtrl.addr [])).map fun x => x.1.base) = some 0xFC0000 := by decide
  obtain ⟨⟨b, i, o⟩, hb, hbase⟩ := Option.map_eq_some_iff.mp hblock
  simp only at hbase
  simp [serves, hb, hbase]

/-- The host's write, recorded (Table 19-4). -/
def hostNoted (s : State) (req : Requester) (data : Word) : State :=
  if req = .host then record s 2 0 0 (toBytes 4 (Reg.obsRecCtrl.addr []) ++ toBytes 4 data.toNat) else s

theorem within_hostNoted (s : State) (req : Requester) (data : Word) : Within [.obs, .counters] [] s (hostNoted s req data) :=
  Within.orNot (within_record s _ _ _ _)

theorem recDoorbell_noted (hreset : s.power.inReset = false) (hspi : req ≠ .spi)
    (hserves : serves s (Reg.obsRecCtrl.addr []) = true) (hrerun : rerunState s < 2) (data : Word) :
    recDoorbell s req data = recCtrlWrite (hostNoted s req data) data := by
  have hserves' : serves (hostNoted s req data) (Reg.obsRecCtrl.addr []) = true := by
    rw [serves_recCtrl] at hserves ⊢
    exact ((within_hostNoted s req data).2.rdBit_eq (by simp)).trans hserves
  have hspi' : (req == Requester.spi) = false := by simpa using hspi
  have hrerun' : decide (2 ≤ rerunState s) = false := by simpa using hrerun
  unfold recDoorbell doorbell accept
  simp only [hreset, hspi', hrerun', Bool.or_false, Bool.false_and, Bool.false_eq_true, if_false]
  exact if_pos (by rw [← hostNoted, hserves']; decide)

theorem recCtrlWrite_eq (s : State) (data : Word) :
    recCtrlWrite s data =
      let s := if flag data 0 then arm s else s
      let s := if flag data 1 then trigger s 2 0 0 else s
      let s := if flag data 2 then release s else s
      if flag data 3 then stopRec s else s := rfl

theorem recCtrlWrite_arm (s : State) : recCtrlWrite s 1 = arm s := by
  have hbits : flag (1 : Word) 0 = true ∧ flag (1 : Word) 1 = false ∧ flag (1 : Word) 2 = false ∧
      flag (1 : Word) 3 = false := by decide
  simp only [recCtrlWrite_eq, hbits, if_true, Bool.false_eq_true, if_false]

theorem recCtrlWrite_trigger (s : State) : recCtrlWrite s 2 = trigger s 2 0 0 := by
  have hbits : flag (2 : Word) 0 = false ∧ flag (2 : Word) 1 = true ∧ flag (2 : Word) 2 = false ∧
      flag (2 : Word) 3 = false := by decide
  simp only [recCtrlWrite_eq, hbits, if_true, Bool.false_eq_true, if_false]

theorem recCtrlWrite_release (s : State) : recCtrlWrite s 4 = release s := by
  have hbits : flag (4 : Word) 0 = false ∧ flag (4 : Word) 1 = false ∧ flag (4 : Word) 2 = true ∧
      flag (4 : Word) 3 = false := by decide
  simp only [recCtrlWrite_eq, hbits, if_true, Bool.false_eq_true, if_false]

theorem recCtrlWrite_stop (s : State) : recCtrlWrite s 8 = stopRec s := by
  have hbits : flag (8 : Word) 0 = false ∧ flag (8 : Word) 1 = false ∧ flag (8 : Word) 2 = false ∧
      flag (8 : Word) 3 = true := by decide
  simp only [recCtrlWrite_eq, hbits, if_true, Bool.false_eq_true, if_false]

/-! ### The capture is emptied -/

/-- The recorder without a capture. -/
def Obs.emptied (o : Obs) : Obs :=
  { o with records := [], bytes := 0, ckpts := [], segments := [], gap := false, firstEpoch := 0, trigEpoch := 0, lastEpoch := 0,
           lost := none }

/-- The words of a capture's state. -/
def captureRegs : List Nat := [Reg.obsRecStat.addr [], Reg.obsCapLen.addr []]

theorem clearCapture_eq (s : State) :
    clearCapture s = putWord (putWord { s with obs := s.obs.emptied } Reg.obsRecStat []
      (word { s with obs := s.obs.emptied } Reg.obsRecStat [] &&& 0x7F)) Reg.obsCapLen [] 0 := rfl

theorem within_clearCapture (s : State) : Within [.obs, .inForce] captureRegs s (clearCapture s) := by
  rw [clearCapture_eq]
  exact (((within_of_obs s _).append (within_putWord _ _ _ _)).append (within_putWord _ _ _ _)).mono (by decide)
    (by simp [captureRegs])

theorem obs_clearCapture (s : State) : (clearCapture s).obs = s.obs.emptied := by
  rw [clearCapture_eq, putWord_obs, putWord_obs]

theorem recState_clearCapture (s : State) : recState (clearCapture s) = 0 := by
  have hlow (w : Word) : fld (w &&& 0x7F) 31 29 = 0 := by
    have hle : (w &&& 0x7F).toNat ≤ 127 := by rw [BitVec.toNat_and]; exact Nat.and_le_right
    rw [fld, bits]
    omega
  rw [recState, clearCapture_eq, rd, word_putWord_other (by decide), word_putWord_same]
  exact hlow _

theorem capLen_clearCapture (s : State) : word (clearCapture s) Reg.obsCapLen [] = 0 := by
  rw [clearCapture_eq]
  exact word_putWord_same

/-! ### Checkpoints -/

/-- The checkpoint of now, before its segments are laid out. -/
def ckptNow (s : State) : Checkpoint :=
  { num := s.obs.ckpts.length, epoch := epochNow s, tick := s.time.dt, segs := 0, rate := 0, complete := false,
    regs := { s.regs with waiting := [], shadows := [], counters := [] }, fdb := s.fdb, strm := s.strm,
    sched := s.sched, bpm := s.bpm, acc := s.acc, tbs := s.time.tbs, cores := s.power.checkpoints,
    draws := s.draws, cycle := cycleCount s, residence := s.frames.map fun e => (e.1, { e.2 with bytes := [] }) }

theorem within_takeCheckpoint (s : State) : Within [.obs] [] s (takeCheckpoint s) := within_of_obs s _

/-- A checkpoint joins those of the capture, with its segments to come. -/
theorem takeCheckpoint_obs (s : State) : ∃ n rate segments,
    (takeCheckpoint s).obs = { s.obs with
      ckpts := s.obs.ckpts ++ [{ ckptNow s with segs := n, rate := rate }], segments := segments } :=
  ⟨_, _, _, rfl⟩

/-! ### ARM -/

/-- No capture is imported. -/
def importDropped (s : State) : State := { s with obs := { s.obs with importBytes := [], imported := none } }

theorem within_importDropped (s : State) : Within [.obs] [] s (importDropped s) := within_of_obs s _

/-- The recorder runs. -/
def armedOf (s : State) : State := setRecState (importDropped (clearCapture s)) 1

theorem within_armedOf (s : State) : Within [.obs, .inForce] captureRegs s (armedOf s) :=
  (((within_clearCapture s).append (within_importDropped _)).append (within_wr _ Reg.obsRecStat [] 31 29 1)).mono (by decide)
    (by simp [captureRegs])

theorem arm_idle (h : recState s = 0) :
    arm s = takeCheckpoint (record (armedOf s) 8 0 0 (seedBytes (importDropped (clearCapture s)))) := if_neg (not_not.2 h)

theorem obs_armedOf (s : State) : (armedOf s).obs = { s.obs.emptied with importBytes := [], imported := none } := by
  have hdropped : (importDropped (clearCapture s)).obs =
      { (clearCapture s).obs with importBytes := [], imported := none } := rfl
  rw [armedOf, setRecState, wr_obs, hdropped, obs_clearCapture]

theorem recState_armedOf (s : State) : recState (armedOf s) = 1 := rd_wr_same (by decide) (by decide)

theorem capLen_armedOf (s : State) : word (armedOf s) Reg.obsCapLen [] = 0 := by
  rw [armedOf, setRecState, word_wr_other (by decide)]
  exact capLen_clearCapture s

theorem does_recArm (hreach : Reaches s req (Reg.obsRecCtrl.addr [])) (hidle : recState s = 0) :
    Does (.recArm req) s [.inForce, .obs, .counters] fun t =>
      recState t = 1 ∧ t.obs.imported = none ∧ t.obs.ckpts.length = 1 ∧ t.obs.lost = none ∧ word t Reg.obsCapLen [] = 0 ∧
        RegsBut [Reg.obsRecStat.addr [], Reg.obsCapLen.addr []] s t := by
  have hexec : exec (.recArm req) s =
      done (takeCheckpoint (record (armedOf s) 8 0 0 (seedBytes (importDropped (clearCapture s))))) :=
    congrArg done ((doorbell_of_reaches hreach 1 _).trans ((recCtrlWrite_arm s).trans (arm_idle hidle)))
  generalize seedBytes (importDropped (clearCapture s)) = body at hexec
  have htaken := (within_record (armedOf s) 8 0 0 body).append (within_takeCheckpoint _)
  have hframe := (within_armedOf s).append htaken
  have hkept := recKept_record (armedOf s) 8 0 0 body
  rw [RecKept, obs_armedOf] at hkept
  obtain ⟨n, rate, segments, hobs⟩ := takeCheckpoint_obs (record (armedOf s) 8 0 0 body)
  refine does_of_all hexec (hframe.1.mono (by decide)) ⟨?_, ?_, ?_, ?_, ?_, hframe.2.mono (by simp [captureRegs])⟩ fun _ _ h => h
  · exact (htaken.2.rd_eq (by simp)).trans (recState_armedOf s)
  · rw [hobs, hkept]
  · rw [hobs, hkept]; rfl
  · rw [hobs, hkept]; rfl
  · exact (htaken.2.word_eq (by simp)).trans (capLen_armedOf s)

theorem does_recStop (hreset : s.power.inReset = false) (hspi : req ≠ .spi)
    (hserves : serves s (Reg.obsRecCtrl.addr []) = true) (hrerun : rerunState s < 2) (hruns : recState s = 1) :
    Does (.recStop req) s [.inForce, .obs, .counters] fun t =>
      recState t = 0 ∧ t.obs.records = [] ∧ t.obs.bytes = 0 ∧ t.obs.ckpts = [] ∧ word t Reg.obsCapLen [] = 0 ∧
        RegsBut [Reg.obsRecStat.addr [], Reg.obsCapLen.addr []] s t := by
  have hnoted := within_hostNoted s req 8
  have hruns' : recState (hostNoted s req 8) = 1 := (hnoted.2.rd_eq (by simp)).trans hruns
  have hexec : exec (.recStop req) s = done (clearCapture (hostNoted s req 8)) :=
    congrArg done ((recDoorbell_noted hreset hspi hserves hrerun 8).trans ((recCtrlWrite_stop _).trans (if_pos hruns')))
  have hframe := hnoted.append (within_clearCapture (hostNoted s req 8))
  have hobs := obs_clearCapture (hostNoted s req 8)
  exact does_of_all hexec (hframe.1.mono (by decide))
    ⟨recState_clearCapture _, by rw [hobs]; rfl, by rw [hobs]; rfl, by rw [hobs]; rfl, capLen_clearCapture _,
      hframe.2.mono (by simp [captureRegs])⟩ fun _ _ h => h

theorem does_recRelease (hreach : Reaches s req (Reg.obsRecCtrl.addr [])) (hfrozen : recState s = 3) :
    Does (.recRelease req) s [.inForce, .obs] fun t =>
      recState t = 0 ∧ t.obs.records = [] ∧ t.obs.bytes = 0 ∧
        RegsBut [Reg.obsRecStat.addr [], Reg.obsCapLen.addr []] s t := by
  have hexec : exec (.recRelease req) s = done (clearCapture s) :=
    congrArg done ((doorbell_of_reaches hreach 4 _).trans ((recCtrlWrite_release s).trans (if_pos hfrozen)))
  have hframe := within_clearCapture s
  have hobs := obs_clearCapture s
  exact does_of_all hexec (hframe.1.mono (by decide))
    ⟨recState_clearCapture _, by rw [hobs]; rfl, by rw [hobs]; rfl, hframe.2⟩ fun _ _ h => h

end

end Sys2Proof.Machine

/-! PROOFS. Triggers, the frozen window and checkpoints (R516 to R518). -/
namespace Sys2Proof.Machine

section
variable {s u : State} {req : Requester} {c index : Nat}

/-! ### Triggers -/

/-- The trigger counts. -/
def trigCounted (u : State) : State := countEvent u Reg.obsTrigCnt []

theorem within_trigCounted (u : State) : Within [.inForce] [Reg.obsTrigCnt.addr []] u (trigCounted u) := within_countEvent u _ _

/-- A trigger is recorded, with its epoch and tick. -/
def trigRecorded (u : State) (c m index : Nat) : State :=
  let s := record (trigCounted u) 0x0A c m (toBytes 2 index)
  { s with obs := { s.obs with trigEpoch := epochNow s, trigAt := s.time.dt } }

/-- The capture runs on into POST. -/
def postBegun (u : State) (c m : Nat) : State :=
  wr (wr (setRecState u 2) Reg.obsRecStat [] 28 26 c) Reg.obsRecStat [] 25 24 m

theorem within_postBegun (u : State) (c m : Nat) : Within [.inForce] [Reg.obsRecStat.addr []] u (postBegun u c m) :=
  (((within_wr u _ _ 31 29 2).append (within_wr _ _ _ 28 26 c)).append (within_wr _ _ _ 25 24 m)).mono (by decide) (by simp)

theorem within_trigRecorded (u : State) (c m index : Nat) :
    Within [.inForce, .obs, .counters] [Reg.obsTrigCnt.addr []] u (trigRecorded u c m index) :=
  (((within_trigCounted u).append (within_record _ 0x0A c m _)).append (within_of_obs _ _)).mono (by decide) (by simp)

theorem trigger_running (hruns : recState u = 1) (c m index : Nat) :
    trigger u c m index = postBegun (trigRecorded u c m index) c m := by
  have hruns' : recState (trigCounted u) = 1 := ((within_trigCounted u).2.rd_eq (by decide)).trans hruns
  exact if_neg (not_not.2 hruns')

theorem trigger_idle (hidle : recState u ≠ 1) (c m index : Nat) : trigger u c m index = trigCounted u := by
  have hidle' : recState (trigCounted u) ≠ 1 := by rwa [recState, (within_trigCounted u).2.rd_eq (by decide)]
  exact if_pos hidle'

/-- What a trigger does to a capture that runs. -/
theorem trigger_facts (hruns : recState u = 1) {c : Nat} (hc : c < 8) {m : Nat} (hm : m < 4) (index : Nat) :
    Within [.inForce, .obs, .counters] [Reg.obsTrigCnt.addr [], Reg.obsRecStat.addr []] u (trigger u c m index) ∧
      recState (trigger u c m index) = 2 ∧ rd (trigger u c m index) Reg.obsRecStat [] 28 26 = c ∧
      rd (trigger u c m index) Reg.obsRecStat [] 25 24 = m ∧ (trigger u c m index).obs.trigEpoch = epochNow u ∧
      word (trigger u c m index) Reg.obsTrigCnt [] = word u Reg.obsTrigCnt [] + 1 := by
  have hrecord := within_record (trigCounted u) 0x0A c m (toBytes 2 index)
  have hpost := within_postBegun (trigRecorded u c m index) c m
  rw [trigger_running hruns]
  refine ⟨((within_trigRecorded u c m index).append hpost).mono (by decide) (by simp), ?_, ?_, ?_, ?_, ?_⟩
  · rw [recState, postBegun, rd_wr_above (by decide) (by decide) (by decide), rd_wr_above (by decide) (by decide) (by decide)]
    exact rd_wr_same (by decide) (by decide)
  · rw [postBegun, rd_wr_above (by decide) (by decide) (by decide), rd_wr_same (by decide) (by decide)]
    exact Nat.mod_eq_of_lt hc
  · rw [postBegun, rd_wr_same (by decide) (by decide)]
    exact Nat.mod_eq_of_lt hm
  · have hobs : (trigRecorded u c m index).obs.trigEpoch = epochNow (record (trigCounted u) 0x0A c m (toBytes 2 index)) := rfl
    rw [postBegun, setRecState, wr_obs, wr_obs, wr_obs, hobs, epochNow,
      dt_of_within ((within_trigCounted u).append hrecord) (by decide), epochNow]
  · have hnoted : word (trigRecorded u c m index) Reg.obsTrigCnt [] = word (trigCounted u) Reg.obsTrigCnt [] :=
      (hrecord.append (within_of_obs (record (trigCounted u) 0x0A c m (toBytes 2 index)) _)).2.word_eq (by simp)
    rw [hpost.2.word_eq (by decide), hnoted]
    exact word_countEvent_same

theorem does_recTrigger (hreset : s.power.inReset = false) (hspi : req ≠ .spi)
    (hserves : serves s (Reg.obsRecCtrl.addr []) = true) (hrerun : rerunState s < 2) (hruns : recState s = 1) :
    Does (.recTrigger req) s [.inForce, .obs, .counters] fun t =>
      recState t = 2 ∧ rd t Reg.obsRecStat [] 28 26 = 2 ∧ t.obs.trigEpoch = epochNow s ∧
        word t Reg.obsTrigCnt [] = word s Reg.obsTrigCnt [] + 1 := by
  have hnoted := within_hostNoted s req 2
  have hexec : exec (.recTrigger req) s = done (trigger (hostNoted s req 2) 2 0 0) :=
    congrArg done ((recDoorbell_noted hreset hspi hserves hrerun 2).trans (recCtrlWrite_trigger _))
  obtain ⟨hframe, hstate, hcause, -, hepoch, hcount⟩ :=
    trigger_facts (u := hostNoted s req 2) ((hnoted.2.rd_eq (by simp)).trans hruns) (c := 2) (by decide) (m := 0) (by decide) 0
  refine does_of_all hexec ((hnoted.append hframe).1.mono (by decide)) ⟨hstate, hcause, ?_, ?_⟩ fun _ _ h => h
  · rw [hepoch, epochNow, dt_of_within hnoted (by decide), epochNow]
  · rw [hcount, hnoted.2.word_eq (by simp)]

theorem does_recTrigger_idle (hreach : Reaches s req (Reg.obsRecCtrl.addr [])) (hidle : recState s ≠ 1) :
    Does (.recTrigger req) s [.inForce] fun t =>
      word t Reg.obsTrigCnt [] = word s Reg.obsTrigCnt [] + 1 ∧ RegsBut [Reg.obsTrigCnt.addr []] s t := by
  have hexec : exec (.recTrigger req) s = done (trigCounted s) :=
    congrArg done ((doorbell_of_reaches hreach 2 _).trans ((recCtrlWrite_trigger s).trans (trigger_idle hidle 2 0 0)))
  have hframe := within_trigCounted s
  exact does_of_all hexec hframe.1 ⟨word_countEvent_same, hframe.2⟩ fun _ _ h => h

theorem does_matchTrigger {m : Fin 4} (hfire : mayFire s m = true) (hruns : recState s = 1) :
    Does (.matchTrigger m) s [.inForce, .obs, .counters] fun t =>
      recState t = 2 ∧ rd t Reg.obsRecStat [] 28 26 = 3 ∧ rd t Reg.obsRecStat [] 25 24 = m ∧ t.obs.trigEpoch = epochNow s := by
  have hexec : exec (.matchTrigger m) s = done (trigger s 3 m (rd s Reg.obsTrigCfg [m] 15 0)) := congrArg done (if_pos hfire)
  obtain ⟨hframe, hstate, hcause, hunit, hepoch, -⟩ :=
    trigger_facts hruns (c := 3) (by decide) m.isLt (rd s Reg.obsTrigCfg [m] 15 0)
  exact does_of_all hexec (hframe.1.mono (by decide)) ⟨hstate, hcause, hunit, hepoch⟩ fun _ _ h => h

/-! ### The frozen window -/

/-- The capture's ends and complete checkpoints stand. -/
def windowFrozen (s : State) (first : Nat) : State :=
  { s with obs := { s.obs with lastEpoch := epochNow s, firstEpoch := first, ckpts := completeCkpts s, segments := [] } }

/-- STATE, the count of checkpoints and the length of the capture are shown. -/
def frozenShown (u : State) : State :=
  wr (wr (setRecState u 3) Reg.obsRecStat [] 23 8 u.obs.ckpts.length) Reg.obsCapLen [] 15 0 (min 65535 (captureUnits u))

theorem freeze_eq (s : State) : ∃ first, freeze s = frozenShown (windowFrozen s first) := ⟨_, rfl⟩

theorem within_windowFrozen (s : State) (first : Nat) : Within [.obs] [] s (windowFrozen s first) := within_of_obs s _

theorem within_frozenShown (u : State) : Within [.inForce] captureRegs u (frozenShown u) :=
  (((within_wr u _ _ 31 29 3).append (within_wr _ _ _ 23 8 _)).append (within_wr _ _ _ 15 0 _)).mono (by decide)
    (by simp [captureRegs])

theorem obs_frozenShown (u : State) : (frozenShown u).obs = u.obs := by rw [frozenShown, setRecState, wr_obs, wr_obs, wr_obs]

theorem recState_frozenShown (u : State) : recState (frozenShown u) = 3 := by
  rw [recState, frozenShown, rd_wr_other (by decide), rd_wr_above (by decide) (by decide) (by decide)]
  exact rd_wr_same (by decide) (by decide)

theorem capLen_frozenShown (u : State) : rd (frozenShown u) Reg.obsCapLen [] 15 0 = min 65535 (captureUnits u) := by
  have hsmall : min 65535 (captureUnits u) < 2 ^ (15 + 1 - 0) := by omega
  exact (rd_wr_same (by decide) (by decide)).trans (Nat.mod_eq_of_lt hsmall)

theorem does_postExpiry (hpost : recState s = 2) (hpast : s.obs.trigAt + msTicks (rd s Reg.obsRecCfg [] 11 0) ≤ s.time.dt) :
    Does .postExpiry s [.inForce, .obs] fun t =>
      recState t = 3 ∧ t.obs.lastEpoch = epochNow s ∧ t.obs.ckpts = completeCkpts s ∧ t.obs.segments = [] ∧
        rd t Reg.obsCapLen [] 15 0 = min 65535 (captureUnits s) ∧
        RegsBut [Reg.obsRecStat.addr [], Reg.obsCapLen.addr []] s t := by
  obtain ⟨first, hfreeze⟩ := freeze_eq s
  have hexec : exec .postExpiry s = done (frozenShown (windowFrozen s first)) :=
    congrArg done ((if_pos ⟨hpost, hpast⟩).trans hfreeze)
  have hframe := (within_windowFrozen s first).append (within_frozenShown (windowFrozen s first))
  have hunits : captureUnits (windowFrozen s first) = captureUnits s := rfl
  exact does_of_all hexec (hframe.1.mono (by decide))
    ⟨recState_frozenShown _, by rw [obs_frozenShown]; rfl, by rw [obs_frozenShown]; rfl, by rw [obs_frozenShown]; rfl,
      by rw [capLen_frozenShown, hunits], hframe.2.mono (by simp [captureRegs])⟩ fun _ _ h => h

theorem does_checkpointTimer (hruns : recording s = true) (hdue : ckptDue s = true) :
    Does .checkpointTimer s [.obs] fun t =>
      ∃ c, t.obs.ckpts = s.obs.ckpts ++ [c] ∧ c.num = s.obs.ckpts.length ∧ c.tick = s.time.dt ∧ c.complete = false ∧
        c.fdb = s.fdb ∧ c.strm = s.strm ∧ c.sched = s.sched ∧ c.bpm = s.bpm ∧ c.acc = s.acc ∧ c.tbs = s.time.tbs ∧
        c.draws = s.draws := by
  have hexec : exec .checkpointTimer s = done (takeCheckpoint s) := by
    have hboth : (recording s && ckptDue s) = true := by rw [hruns, hdue]; rfl
    exact congrArg done (if_pos hboth)
  obtain ⟨n, rate, segments, hobs⟩ := takeCheckpoint_obs s
  refine does_of_all hexec (within_takeCheckpoint s).1 ⟨{ ckptNow s with segs := n, rate := rate }, by rw [hobs], ?_⟩ fun _ _ h => h
  exact ⟨rfl, rfl, rfl, rfl, rfl, rfl, rfl, rfl, rfl, rfl⟩

end

/-- Settles O53: a write of OBS_REC_CTRL is one operation (`recCtrlWrite_arm` and its fellows) on the state that has recorded it, and
each operation of the recorder has its own equation. -/
theorem recorderChangesState : Obligations.RecorderChangesState := by
  refine ⟨fun s req => does_recArm, ?_, fun s req => does_recStop, fun s req => does_recRelease, ?_, fun s req => does_recTrigger,
    fun s req => does_recTrigger_idle, fun s m => does_matchTrigger, ?_, fun s => does_postExpiry, ?_,
    fun s => does_checkpointTimer, ?_⟩
  · intro s req hreach hruns
    have hexec : exec (.recArm req) s = done s :=
      congrArg done ((doorbell_of_reaches hreach 1 _).trans ((recCtrlWrite_arm s).trans (if_pos hruns)))
    exact does_of_all hexec (.refl _ s) trivial fun _ _ h => h
  · intro s req hreach hother
    have hexec : exec (.recRelease req) s = done s :=
      congrArg done ((doorbell_of_reaches hreach 4 _).trans ((recCtrlWrite_release s).trans (if_neg hother)))
    exact does_of_all hexec (.refl _ s) trivial fun _ _ h => h
  · intro s m hquiet
    have hexec : exec (.matchTrigger m) s = done s := congrArg done (if_neg (by rw [hquiet]; decide))
    exact does_of_all hexec (.refl _ s) trivial fun _ _ h => h
  · intro s hother
    have hnot : ¬ (recState s = 2 ∧ s.obs.trigAt + msTicks (rd s Reg.obsRecCfg [] 11 0) ≤ s.time.dt) := by
      rintro ⟨hstate, hpast⟩
      rcases hother with h | h
      · exact h hstate
      · omega
    have hexec : exec .postExpiry s = done s := congrArg done (if_neg hnot)
    exact does_of_all hexec (.refl _ s) trivial fun _ _ h => h
  · intro s hother
    have hnot : ¬ (recording s && ckptDue s) = true := by
      rcases hother with h | h <;> simp [h]
    have hexec : exec .checkpointTimer s = done s := congrArg done (if_neg hnot)
    exact does_of_all hexec (.refl _ s) trivial fun _ _ h => h

end Sys2Proof.Machine

/-! PROOFS. Exports, imports and rerun (R520 to R524). -/
namespace Sys2Proof.Machine

section
variable {s u : State} {req : Requester} {data : Word} {x : Rerun} {c : Checkpoint} {k : Nat}

theorem flag_or (v w : Word) (i : Nat) : flag (v ||| w) i = (flag v i || flag w i) := BitVec.getLsbD_or

theorem rerun_of_reaches {a : Nat} (h : Reaches s req a) : rerunState s < 2 :=
  let ⟨_, _, _, hrerun, _⟩ := h
  hrerun

/-! ### Exports -/

theorem expCtrl_immediate : Reg.obsExpCtrl.Immediate [] := immediate_of_plain (by decide) (by decide +kernel) (by decide)

/-- The word that begins a transfer in the direction that DIR holds. -/
def exportWord (s : State) : Word := stagedWord s Reg.obsExpCtrl [] ||| 0x80000000

theorem go_exportWord (s : State) : flag (exportWord s) 31 = true := by
  rw [exportWord, flag_or]
  exact Bool.or_true _

theorem dir_exportWord (s : State) : flag (exportWord s) 29 = flag (stagedWord s Reg.obsExpCtrl []) 29 := by
  rw [exportWord, flag_or]
  exact Bool.or_false _

/-- The device with the command's word in force. -/
def exportCommanded (s : State) (req : Requester) : State := immediate s req Reg.obsExpCtrl [] (exportWord s)

theorem within_exportCommanded (s : State) (req : Requester) :
    Within [.staged, .inForce] [Reg.obsExpCtrl.addr []] s (exportCommanded s req) := within_immediate s req _ _ _

theorem within_expResult (u : State) (k : Nat) : Within [.inForce] [Reg.obsExpCtrl.addr []] u (expResult u k) := within_wr u _ _ 26 24 k

theorem result_expResult (hk : k < 8) : rd (expResult u k) Reg.obsExpCtrl [] 26 24 = k :=
  (rd_wr_same (by decide) (by decide)).trans (Nat.mod_eq_of_lt hk)

theorem exec_captureExportGo (hreach : Reaches s req (Reg.obsExpCtrl.addr [])) :
    exec (.captureExportGo req) s = done (expCtrlWrite s req (exportWord s)) :=
  congrArg done (doorbell_of_reaches hreach _ _)

/-- The transfer is in progress from its first byte. -/
def transferBegun (u : State) : State := { u with obs := { u.obs with moving := some (0, (word u Reg.obsExpLen []).toNat) } }

/-- A transfer to the host, once its word is in force. -/
theorem expCtrlWrite_export (hidle : rdBit s Reg.obsExpCtrl [] 30 = false)
    (hdir : flag (stagedWord s Reg.obsExpCtrl []) 29 = false) :
    expCtrlWrite s req (exportWord s) =
      if (!(recState (exportCommanded s req) == 3)) = true then expResult (exportCommanded s req) 2
      else if (!expRange (exportCommanded s req)) = true then expResult (exportCommanded s req) 3
      else expResult (wrBit (transferBegun (exportCommanded s req)) Reg.obsExpCtrl [] 30 true) 0 := by
  have hstage : stage s req Reg.obsExpCtrl [] 0xFFFFFFFF (exportWord s) = exportCommanded s req :=
    stage_classless expCtrl_immediate (by decide) (by rw [taken_of_plain (by decide)]; decide)
  unfold expCtrlWrite
  rw [hstage, hidle, go_exportWord, dir_exportWord, hdir]
  rfl

theorem recState_exportCommanded : recState (exportCommanded s req) = recState s :=
  (within_exportCommanded s req).2.rd_eq (by decide)

theorem expRange_exportCommanded : expRange (exportCommanded s req) = expRange s := by
  have hregs := (within_exportCommanded s req).2
  unfold expRange
  rw [hregs.word_eq (by decide), hregs.word_eq (by decide), hregs.rd_eq (by decide)]

theorem does_export_busy (hreach : Reaches s req (Reg.obsExpCtrl.addr [])) (hbusy : rdBit s Reg.obsExpCtrl [] 30 = true) :
    Does (.captureExportGo req) s [.inForce] fun t =>
      rd t Reg.obsExpCtrl [] 26 24 = 1 ∧ RegsBut [Reg.obsExpCtrl.addr []] s t := by
  have hwrite : expCtrlWrite s req (exportWord s) = expResult s 1 := if_pos (by rw [go_exportWord, hbusy]; rfl)
  have hframe := within_expResult s 1
  exact does_of_all ((exec_captureExportGo hreach).trans (congrArg done hwrite)) hframe.1
    ⟨result_expResult (by decide), hframe.2⟩ fun _ _ h => h

/-- A transfer that is refused shows its RESULT and changes no other word. -/
theorem does_export_refused (hreach : Reaches s req (Reg.obsExpCtrl.addr [])) (hk : k < 8)
    (hwrite : expCtrlWrite s req (exportWord s) = expResult (exportCommanded s req) k) :
    Does (.captureExportGo req) s [.staged, .inForce] fun t =>
      rd t Reg.obsExpCtrl [] 26 24 = k ∧ RegsBut [Reg.obsExpCtrl.addr []] s t := by
  have hframe := (within_exportCommanded s req).append (within_expResult (exportCommanded s req) k)
  exact does_of_all ((exec_captureExportGo hreach).trans (congrArg done hwrite)) (hframe.1.mono (by decide))
    ⟨result_expResult hk, hframe.2.mono (by simp)⟩ fun _ _ h => h

theorem does_export_state (hreach : Reaches s req (Reg.obsExpCtrl.addr [])) (hidle : rdBit s Reg.obsExpCtrl [] 30 = false)
    (hdir : flag (stagedWord s Reg.obsExpCtrl []) 29 = false) (hstate : recState s ≠ 3) :
    Does (.captureExportGo req) s [.staged, .inForce] fun t =>
      rd t Reg.obsExpCtrl [] 26 24 = 2 ∧ RegsBut [Reg.obsExpCtrl.addr []] s t := by
  refine does_export_refused hreach (by decide) ((expCtrlWrite_export hidle hdir).trans (if_pos ?_))
  rw [recState_exportCommanded]
  simpa using hstate

theorem does_export_range (hreach : Reaches s req (Reg.obsExpCtrl.addr [])) (hidle : rdBit s Reg.obsExpCtrl [] 30 = false)
    (hdir : flag (stagedWord s Reg.obsExpCtrl []) 29 = false) (hstate : recState s = 3) (hrange : expRange s = false) :
    Does (.captureExportGo req) s [.staged, .inForce] fun t =>
      rd t Reg.obsExpCtrl [] 26 24 = 3 ∧ RegsBut [Reg.obsExpCtrl.addr []] s t := by
  refine does_export_refused hreach (by decide) ?_
  rw [expCtrlWrite_export hidle hdir, recState_exportCommanded, hstate, expRange_exportCommanded, hrange]
  rfl

theorem does_export (hreach : Reaches s req (Reg.obsExpCtrl.addr [])) (hidle : rdBit s Reg.obsExpCtrl [] 30 = false)
    (hdir : flag (stagedWord s Reg.obsExpCtrl []) 29 = false) (hstate : recState s = 3) (hrange : expRange s = true) :
    Does (.captureExportGo req) s [.staged, .inForce, .obs] fun t =>
      rd t Reg.obsExpCtrl [] 26 24 = 0 ∧ rdBit t Reg.obsExpCtrl [] 30 = true ∧
        t.obs = { s.obs with moving := some (0, (word s Reg.obsExpLen []).toNat) } ∧
        RegsBut [Reg.obsExpCtrl.addr []] s t := by
  have hcommanded := within_exportCommanded s req
  have hexec : exec (.captureExportGo req) s =
      done (expResult (wrBit (transferBegun (exportCommanded s req)) Reg.obsExpCtrl [] 30 true) 0) := by
    rw [exec_captureExportGo hreach, expCtrlWrite_export hidle hdir, recState_exportCommanded, hstate, expRange_exportCommanded,
      hrange]
    rfl
  have hbegun : Within [.obs] [] (exportCommanded s req) (transferBegun (exportCommanded s req)) := within_of_obs _ _
  have hframe := ((hcommanded.append hbegun).append (within_wrBit _ Reg.obsExpCtrl [] 30 true)).append
    (within_expResult (wrBit (transferBegun (exportCommanded s req)) Reg.obsExpCtrl [] 30 true) 0)
  have hobs : (transferBegun (exportCommanded s req)).obs = { (exportCommanded s req).obs with
      moving := some (0, (word (exportCommanded s req) Reg.obsExpLen []).toNat) } := rfl
  refine does_of_all hexec (hframe.1.mono (by decide)) ⟨result_expResult (by decide), ?_, ?_, hframe.2.mono (by simp)⟩ fun _ _ h => h
  · rw [rdBit, expResult, word_wr_same, flag_setFld_above (by decide) (by decide) (by decide), word_wrBit_same]
    exact flag_setFld_same (by decide)
  · rw [expResult, wr_obs, wrBit_obs, hobs, hcommanded.1 .obs (by decide), hcommanded.2.word_eq (by decide)]

/-! ### A write of OBS_RERUN_CTRL -/

theorem rerunCtrl_immediate : Reg.obsRerunCtrl.Immediate [] := immediate_of_plain (by decide) (by decide +kernel) (by decide)

/-- The word that sets the bits `b`. -/
def rerunWord (s : State) (b : Word) : Word := stagedWord s Reg.obsRerunCtrl [] ||| b

/-- The device with the command's word in force. -/
def rerunCommanded (s : State) (req : Requester) (b : Word) : State := immediate s req Reg.obsRerunCtrl [] (rerunWord s b)

theorem within_rerunCommanded (s : State) (req : Requester) (b : Word) :
    Within [.staged, .inForce] [Reg.obsRerunCtrl.addr []] s (rerunCommanded s req b) := within_immediate s req _ _ _

theorem rerunDoorbell_eq (hreach : Reaches s req (Reg.obsRerunCtrl.addr [])) (b : Word) :
    rerunDoorbell s req b =
      if flag (rerunWord s b) 31 = true then
        rerunStart (if flag (rerunWord s b) 30 = true then rerunEnter (rerunCommanded s req b) else rerunCommanded s req b)
      else if flag (rerunWord s b) 30 = true then rerunEnter (rerunCommanded s req b) else rerunCommanded s req b := by
  have hstage : stage s req Reg.obsRerunCtrl [] 0xFFFFFFFF (rerunWord s b) = rerunCommanded s req b :=
    stage_classless rerunCtrl_immediate (by decide) (by rw [taken_of_plain (by decide)]; decide)
  have hdoor : rerunDoorbell s req b = rerunCtrlWrite s req (rerunWord s b) := doorbell_of_reaches hreach _ _
  rw [hdoor]
  unfold rerunCtrlWrite
  rw [hstage]

theorem exec_rerunEnter (hreach : Reaches s req (Reg.obsRerunCtrl.addr []))
    (hstart : flag (stagedWord s Reg.obsRerunCtrl []) 31 = false) :
    exec (.rerunEnter req) s = done (rerunEnter (rerunCommanded s req 0x40000000)) := by
  have hbit31 : flag (rerunWord s 0x40000000) 31 = false := by rw [rerunWord, flag_or, hstart]; decide
  have hbit30 : flag (rerunWord s 0x40000000) 30 = true := by rw [rerunWord, flag_or]; exact Bool.or_true _
  have hdoor := rerunDoorbell_eq hreach 0x40000000
  rw [hbit31, hbit30, if_neg (by decide), if_pos rfl] at hdoor
  exact congrArg done hdoor

theorem exec_rerunStart (hreach : Reaches s req (Reg.obsRerunCtrl.addr []))
    (henter : flag (stagedWord s Reg.obsRerunCtrl []) 30 = false) :
    exec (.rerunStart req) s = done (rerunStart (rerunCommanded s req 0x80000000)) := by
  have hbit30 : flag (rerunWord s 0x80000000) 30 = false := by rw [rerunWord, flag_or, henter]; decide
  have hbit31 : flag (rerunWord s 0x80000000) 31 = true := by rw [rerunWord, flag_or]; exact Bool.or_true _
  have hdoor := rerunDoorbell_eq hreach 0x80000000
  rw [hbit31, hbit30, if_pos rfl, if_neg (by decide)] at hdoor
  exact congrArg done hdoor

/-! ### ENTER -/

theorem hpCfg_ne_rerun (p : Nat) : Reg.hpCfg.addr [p] ∉ [Reg.obsRerunCtrl.addr []] := by
  have hp : Reg.hpCfg.addr [p] = 0x100000 + p * 0x10000 := by simp [RegRow.addr, Reg.hpCfg, offsetOf]
  have hr : Reg.obsRerunCtrl.addr [] = 0xFC0080 := rfl
  rw [List.mem_singleton]
  omega

theorem cpCfg_ne_rerun (p : Nat) : Reg.cpCfg.addr [p] ∉ [Reg.obsRerunCtrl.addr []] := by
  have hp : Reg.cpCfg.addr [p] = 0x400000 + p * 0x10000 := by simp [RegRow.addr, Reg.cpCfg, offsetOf]
  have hr : Reg.obsRerunCtrl.addr [] = 0xFC0080 := rfl
  rw [List.mem_singleton]
  omega

theorem izlGrpCfg_ne_rerun (g : Nat) : Reg.izlGrpCfg.addr [g] ∉ [Reg.obsRerunCtrl.addr []] := by
  have hp : Reg.izlGrpCfg.addr [g] = 0xEC1000 + g * 0x100 := by simp [RegRow.addr, Reg.izlGrpCfg, offsetOf]
  have hr : Reg.obsRerunCtrl.addr [] = 0xFC0080 := rfl
  rw [List.mem_singleton]
  omega

theorem portEn_rerunCommanded (b : Word) (p : Nat) : portEn (rerunCommanded s req b) p = portEn s p := by
  have hframe := within_rerunCommanded s req b
  have himage : (rerunCommanded s req b).image = s.image := hframe.1 .image (by decide)
  unfold portEn isHPort isCPort popBit laneMode
  rw [himage, hframe.2.rdBit_eq (hpCfg_ne_rerun p), hframe.2.rdBit_eq (cpCfg_ne_rerun (p - 48))]

theorem enterResult_rerunCommanded (b : Word) :
    enterResult (rerunCommanded s req b) (readCapture (rerunCommanded s req b)) = enterResult s (readCapture s) := by
  have hframe := within_rerunCommanded s req b
  have hobs : (rerunCommanded s req b).obs = s.obs := hframe.1 .obs (by decide)
  have hcapture : readCapture (rerunCommanded s req b) = readCapture s := by unfold readCapture; rw [hobs]
  have hgroup (g : Nat) : rdBit (rerunCommanded s req b) Reg.izlGrpCfg [g] 31 = rdBit s Reg.izlGrpCfg [g] 31 :=
    hframe.2.rdBit_eq (izlGrpCfg_ne_rerun g)
  have hforwards : forwards (rerunCommanded s req b) = forwards s := hframe.2.rdBit_eq (by decide)
  have hrec : recState (rerunCommanded s req b) = recState s := hframe.2.rd_eq (by decide)
  rw [hcapture]
  unfold enterResult listedCkpts
  rw [hobs, hforwards, hrec, hframe.1 .image (by decide), hframe.1 .img (by decide), hframe.2.rdBit_eq (by decide)]
  simp only [hgroup, portEn_rerunCommanded]

theorem rerunState_rerunCommanded (b : Word) : rerunState (rerunCommanded s req b) = rerunState s :=
  (within_rerunCommanded s req b).2.rd_eq (by decide)

/-- ENTER's RESULT is shown. -/
def enterShown (u : State) (k : Nat) : State := wr u Reg.obsRerunStat [] 28 24 k

/-- The capture is imported, and the rerun LOADED. -/
def captureImported (u : State) (x : Rerun) : State :=
  wr { u with obs := { u.obs with imported := some x } } Reg.obsRerunStat [] 31 29 1

theorem rerunEnter_eq (hrerun : rerunState u < 2) :
    rerunEnter u = if enterResult u (readCapture u) ≠ 0 then enterShown u (enterResult u (readCapture u))
      else closeAll (captureImported (enterShown u (enterResult u (readCapture u))) (readCapture u)) := if_neg (by omega)

theorem enterResult_lt (u : State) (x : Rerun) : enterResult u x < 32 := by
  unfold enterResult
  split_ifs <;> decide

theorem does_rerunEnter_refused (hreach : Reaches s req (Reg.obsRerunCtrl.addr []))
    (hstart : flag (stagedWord s Reg.obsRerunCtrl []) 31 = false) (hresult : enterResult s (readCapture s) ≠ 0) :
    Does (.rerunEnter req) s [.staged, .inForce] fun t =>
      rd t Reg.obsRerunStat [] 28 24 = enterResult s (readCapture s) ∧ rerunState t = rerunState s := by
  have hcommanded := within_rerunCommanded s req 0x40000000
  have hsame := enterResult_rerunCommanded (s := s) (req := req) 0x40000000
  have hstate := rerunState_rerunCommanded (s := s) (req := req) 0x40000000
  have hrerun : rerunState (rerunCommanded s req 0x40000000) < 2 := by rw [hstate]; exact rerun_of_reaches hreach
  have hexec := exec_rerunEnter hreach hstart
  rw [rerunEnter_eq hrerun, hsame, if_pos hresult] at hexec
  have hshown := within_wr (rerunCommanded s req 0x40000000) Reg.obsRerunStat [] 28 24 (enterResult s (readCapture s))
  refine does_of_all hexec ((hcommanded.append hshown).1.mono (by decide)) ⟨?_, ?_⟩ fun _ _ h => h
  · exact (rd_wr_same (by decide) (by decide)).trans (Nat.mod_eq_of_lt (enterResult_lt _ _))
  · exact (rd_wr_above (by decide) (by decide) (by decide)).trans hstate

theorem within_captureImported (u : State) (x : Rerun) :
    Within [.obs, .inForce] [Reg.obsRerunStat.addr []] u (captureImported u x) :=
  ((within_of_obs u _).append (within_wr _ _ _ 31 29 1)).mono (by decide) (by simp)

theorem obs_captureImported (u : State) (x : Rerun) : (captureImported u x).obs = { u.obs with imported := some x } := by
  rw [captureImported, wr_obs]

theorem does_rerunEnter (hreach : Reaches s req (Reg.obsRerunCtrl.addr []))
    (hstart : flag (stagedWord s Reg.obsRerunCtrl []) 31 = false) (hresult : enterResult s (readCapture s) = 0)
    (hbypassed : Bypassed s) :
    Does (.rerunEnter req) s [.staged, .inForce, .obs, .twin] fun t =>
      rd t Reg.obsRerunStat [] 28 24 = 0 ∧ rerunState t = 1 ∧ t.obs = { s.obs with imported := some (readCapture s) } ∧
        t.twin = { s.twin with openQueue := [] } := by
  have hcommanded := within_rerunCommanded s req 0x40000000
  have hobs : (rerunCommanded s req 0x40000000).obs = s.obs := hcommanded.1 .obs (by decide)
  have hcapture : readCapture (rerunCommanded s req 0x40000000) = readCapture s := by unfold readCapture; rw [hobs]
  have hsame := enterResult_rerunCommanded (s := s) (req := req) 0x40000000
  have hstate := rerunState_rerunCommanded (s := s) (req := req) 0x40000000
  have hrerun : rerunState (rerunCommanded s req 0x40000000) < 2 := by rw [hstate]; exact rerun_of_reaches hreach
  have hexec := exec_rerunEnter hreach hstart
  rw [rerunEnter_eq hrerun, hsame, hresult, if_neg (by decide), hcapture] at hexec
  have hshown : Within [.inForce] [Reg.obsRerunStat.addr []] (rerunCommanded s req 0x40000000)
      (enterShown (rerunCommanded s req 0x40000000) 0) := within_wr _ _ _ 28 24 0
  have himported := within_captureImported (enterShown (rerunCommanded s req 0x40000000) 0) (readCapture s)
  have hloaded := (hcommanded.append hshown).append himported
  have htwin : (captureImported (enterShown (rerunCommanded s req 0x40000000) 0) (readCapture s)).twin = s.twin :=
    hloaded.1 .twin (by decide)
  have hpairs : Bypassed (captureImported (enterShown (rerunCommanded s req 0x40000000) 0) (readCapture s)) := by
    rw [Bypassed, htwin]; exact hbypassed
  obtain ⟨hclosed, hqueue⟩ := closeAll_bypassed hpairs
  refine does_of_all hexec ((hloaded.append hclosed).1.mono (by decide)) ⟨?_, ?_, ?_, by rw [hqueue, htwin]⟩ fun _ _ h => h
  · have hfield (v : State) : rd (captureImported v (readCapture s)) Reg.obsRerunStat [] 28 24 = rd v Reg.obsRerunStat [] 28 24 :=
      rd_wr_below (by decide) (by decide) (by decide)
    rw [hclosed.2.rd_eq (by decide), hfield]
    exact rd_wr_same (by decide) (by decide)
  · exact (hclosed.2.rd_eq (by decide)).trans (rd_wr_same (by decide) (by decide))
  · rw [hclosed.1 .obs (by decide), obs_captureImported, enterShown, wr_obs, hobs]

end

end Sys2Proof.Machine

/-! PROOFS. A rerun starts from its checkpoint (R521, R522). -/
namespace Sys2Proof.Machine

section
variable {s u : State} {req : Requester} {x : Rerun} {c : Checkpoint}

/-- The checkpoint is in place, without residents, and DT stands at its boundary. -/
def checkpointPlaced (s : State) (x : Rerun) (c : Checkpoint) : State :=
  { s with
    regs := { s.regs with
      staged := mergeRegs s.regs.staged c.regs.staged, inForce := mergeRegs s.regs.inForce c.regs.inForce },
    fdb := c.fdb, strm := c.strm, sched := c.sched, bpm := c.bpm, acc := c.acc, frames := [], nextFrame := s.nextFrame,
    seed := recordedSeed s x.records, draws := c.draws, power := { s.power with checkpoints := c.cores },
    time := { s.time with dt := c.tick, tbs := c.tbs, cycleStart := c.tick } }

/-- The role of the checkpoint and the rerun's state and epoch are shown. -/
def rerunShown (s : State) (c : Checkpoint) : State :=
  putWord (wr (putWord s Reg.twinStat [] (get 0 c.regs.inForce Reg.twinStat.base)) Reg.obsRerunStat [] 31 29 2)
    Reg.obsRerunEpoch [] (BitVec.ofNat 32 c.epoch)

/-- The rerun has its inputs to come. -/
def rerunReady (s : State) (x' : Rerun) (t : Nat) : State :=
  { s with obs := { s.obs with imported := some x', epochAt := t, digestA := [], digestB := [], framesSent := [] } }

theorem loadCheckpoint_eq (s : State) (x : Rerun) (h : c.residence = []) : ∃ x',
    loadCheckpoint s x c = rerunReady (rerunShown (checkpointPlaced s x c) c) x' c.tick := by
  unfold loadCheckpoint
  rw [h]
  exact ⟨_, rfl⟩

theorem onlyChanges_checkpointPlaced (s : State) (x : Rerun) (c : Checkpoint) :
    OnlyChanges [.staged, .inForce, .fdb, .strm, .sched, .bpm, .acc, .frames, .power, .clock, .time, .draws] s
      (checkpointPlaced s x c) := by
  intro p hp
  cases p <;> simp_all [Part.same, checkpointPlaced]

theorem within_rerunShown (s : State) (c : Checkpoint) :
    Within [.inForce] [Reg.twinStat.addr [], Reg.obsRerunStat.addr [], Reg.obsRerunEpoch.addr []] s (rerunShown s c) :=
  (((within_putWord s _ _ _).append (within_wr _ _ _ 31 29 2)).append (within_putWord _ _ _ _)).mono (by decide) (by simp)

theorem within_rerunReady (s : State) (x' : Rerun) (t : Nat) : Within [.obs] [] s (rerunReady s x' t) := within_of_obs s _

theorem rerunState_rerunShown (s : State) (c : Checkpoint) : rerunState (rerunShown s c) = 2 := by
  rw [rerunState, rd, rerunShown, word_putWord_other (by decide)]
  exact rd_wr_same (by decide) (by decide)

theorem epoch_rerunShown (s : State) (c : Checkpoint) :
    word (rerunShown s c) Reg.obsRerunEpoch [] = BitVec.ofNat 32 c.epoch := word_putWord_same

theorem rerunStart_loaded (hstate : rerunState u = 1) (hx : u.obs.imported = some x) (hone : x.ckpts = [c]) :
    rerunStart u = loadCheckpoint u x c := by
  have hpick : x.ckpts[min (rd u Reg.obsRerunCtrl [] 15 0) (x.ckpts.length - 1)]? = some c := by
    rw [hone, List.length_singleton, Nat.sub_self, Nat.min_zero]
    rfl
  unfold rerunStart
  rw [hx]
  dsimp only
  rw [if_neg (not_not.2 hstate), hpick]

theorem does_rerunStart (hreach : Reaches s req (Reg.obsRerunCtrl.addr []))
    (henter : flag (stagedWord s Reg.obsRerunCtrl []) 30 = false) (hstate : rerunState s = 1)
    (hx : s.obs.imported = some x) (hone : x.ckpts = [c]) (hempty : c.residence = []) :
    Does (.rerunStart req) s
      [.staged, .inForce, .fdb, .strm, .sched, .bpm, .acc, .frames, .power, .clock, .time, .draws, .obs] fun t =>
      rerunState t = 2 ∧ t.time.dt = c.tick ∧ t.time.tbs = c.tbs ∧ t.fdb = c.fdb ∧ t.strm = c.strm ∧ t.sched = c.sched ∧
        t.bpm = c.bpm ∧ t.acc = c.acc ∧ t.frames = [] ∧ word t Reg.obsRerunEpoch [] = BitVec.ofNat 32 c.epoch ∧
        t.power = { s.power with checkpoints := c.cores } ∧ t.seed = recordedSeed s x.records ∧ t.draws = c.draws := by
  have hcommanded := within_rerunCommanded s req 0x80000000
  have hexec := exec_rerunStart hreach henter
  obtain ⟨x', hload⟩ := loadCheckpoint_eq (c := c) (rerunCommanded s req 0x80000000) x hempty
  rw [rerunStart_loaded ((rerunState_rerunCommanded _).trans hstate) ((congrArg Obs.imported (hcommanded.1 .obs (by decide))).trans
    hx) hone, hload] at hexec
  have hpower : (rerunCommanded s req 0x80000000).power = s.power := hcommanded.1 .power (by decide)
  have hseed : recordedSeed (rerunCommanded s req 0x80000000) x.records = recordedSeed s x.records := by
    unfold recordedSeed
    rw [(hcommanded.1 .draws (by decide)).1]
  generalize rerunCommanded s req 0x80000000 = v at hcommanded hexec hpower hseed
  have hplaced := onlyChanges_checkpointPlaced v x c
  have hshown := (within_rerunShown (checkpointPlaced v x c) c).append (within_rerunReady _ x' c.tick)
  have hready := within_rerunReady (rerunShown (checkpointPlaced v x c) c) x' c.tick
  have hclock := hshown.1 .clock (by decide)
  have hdraws := hshown.1 .draws (by decide)
  refine does_of_all hexec (((hcommanded.1.append hplaced).append hshown.1).mono (by decide))
    ⟨?_, hclock.1, hclock.2, hshown.1 .fdb (by decide), hshown.1 .strm (by decide), hshown.1 .sched (by decide),
      hshown.1 .bpm (by decide), hshown.1 .acc (by decide), (hshown.1 .frames (by decide)).1, ?_, ?_, ?_, hdraws.2⟩ fun _ _ h => h
  · exact (hready.2.rd_eq (by simp)).trans (rerunState_rerunShown _ c)
  · exact (hready.2.word_eq (by simp)).trans (epoch_rerunShown _ c)
  · have hplacedPower : (checkpointPlaced v x c).power = { v.power with checkpoints := c.cores } := rfl
    rw [hshown.1 .power (by decide), hplacedPower, hpower]
  · exact hdraws.1.trans hseed

theorem rerunStart_other (hstate : rerunState u ≠ 1) : rerunStart u = u := by
  unfold rerunStart
  split
  · rfl
  · exact if_pos hstate

theorem does_rerunStart_off (hreach : Reaches s req (Reg.obsRerunCtrl.addr []))
    (henter : flag (stagedWord s Reg.obsRerunCtrl []) 30 = false) (hstate : rerunState s = 0) :
    Does (.rerunStart req) s [.staged, .inForce] fun t => rerunState t = 0 ∧ RegsBut [Reg.obsRerunCtrl.addr []] s t := by
  have hkept := (rerunState_rerunCommanded (s := s) (req := req) 0x80000000).trans hstate
  have hexec := exec_rerunStart hreach henter
  rw [rerunStart_other (by rw [hkept]; decide)] at hexec
  have hcommanded := within_rerunCommanded s req 0x80000000
  exact does_of_all hexec hcommanded.1 ⟨hkept, hcommanded.2⟩ fun _ _ h => h

end

/-- Settles O54: a transfer's command is `expCtrlWrite_export`, a write of OBS_RERUN_CTRL is ENTER or START on its word in force
(`rerunDoorbell_eq`), and START puts its checkpoint in place (`loadCheckpoint_eq`). -/
theorem capturesMoveAndReplay : Obligations.CapturesMoveAndReplay :=
  ⟨fun _ _ => does_export_busy, fun _ _ => does_export_state, fun _ _ => does_export_range, fun _ _ => does_export,
    fun _ _ => does_rerunEnter_refused, fun _ _ => does_rerunEnter, fun _ _ _ _ => does_rerunStart,
    fun _ _ => does_rerunStart_off⟩

end Sys2Proof.Machine
